-- ==== Sys2Proof/Word.lean ====
section
/-! DEFINITION. The word types of the KN-8 and nothing else. Software-visible words are bit vectors;
identifiers, counts, stamps and times are natural numbers. -/

namespace Sys2Proof

/-- One byte. -/
abbrev Byte := BitVec 8
/-- Bytes in ascending address order; multi-byte fields in them are little-endian (R18). -/
abbrev Bytes := List (BitVec 8)
/-- A 16-bit word. -/
abbrev W16 := BitVec 16
/-- A 32-bit word. -/
abbrev W32 := BitVec 32
/-- A 64-bit word. -/
abbrev W64 := BitVec 64

end Sys2Proof
end

