-- ==== Sys2Proof/Config.lean ====
section
/-! DEFINITION. What an implementation fixes, and the free values: constants with no body, so that no proof can
lean on a value the manual leaves open. Each is named in the assumption log. -/

namespace Sys2Proof.Config

/-- Free value (R210, R211, R214): by how much a score that a unit reports differs from the exact value of R210, per fresh index, in
units of 2^-298; it is used within the unit's bound. -/
opaque scoreError : Nat → Int
/-- Free value (R157): by how much FP32 arithmetic misses element `i` of a vector scaled to unit L2 norm, in units of 2^-149; used
within the bound of that arithmetic. The manual fixes no order of the sum. -/
opaque normaliseError : List Int → Nat → Int
/-- Free value (R191, R266): by how much FP32 accumulation misses the product of a projection's row and a vector, in units of
2^-298; used within the bound of that accumulation. -/
opaque projectError : List Int → List Int → Int
/-- The eigenvectors of the P largest eigenvalues of a sample's uncentred second-moment matrix, in descending order (R153):
uninterpreted, from the sample and P; elements in units of 2^-149, before the rounding and the signs of R153. -/
opaque principalRows : List (List Int) → Nat → List (List Int)
/-- SHAKE256, 64-byte output (R543, R547): uninterpreted. -/
opaque shake256 : Bytes → Bytes
/-- ML-DSA-65 verification (R548): public key, message, signature: uninterpreted. -/
opaque mldsaVerify : Bytes → Bytes → Bytes → Bool
/-- ML-DSA-65 signature under the attestation key (R555): uninterpreted. -/
opaque mldsaSign : Bytes → Bytes
/-- The attestation certificate issued at step 5 (R554): from the measurements. -/
opaque attestCertificate : Bytes → Bytes
/-- The device identity public key derived from the seed in OTP (R553). -/
opaque identityPublicKey : Bytes
/-- Module serial number, 16 ASCII bytes (R99). -/
opaque serial : Bytes
/-- Manufacturing date in the FRU data (R604). -/
opaque manufacturingDate : Bytes
/-- Endpoint UUID (R602). -/
opaque endpointUuid : Bytes
/-- Header of the image as shipped, but for its version (R547). -/
opaque shippedHeader : Bytes
/-- Boot ROM revision string (R555, component 1). -/
opaque bootRomRevision : Bytes
/-- Microcode the firmware loads into the sequencers (R555, component 5). -/
opaque microcode : Bytes
/-- Free value (R167): the squared norm stored for an exact one that FP32 cannot hold, in units of 2^-298. -/
opaque normOverflow : Int → Int
/-- Free value (R338, R365): output bytes of a model run, per fresh index. -/
opaque modelOutput : Nat → Bytes
/-- Free value (R351, R353, R365): the FP32 word of a router's score, of a fresh index, a token and an expert. -/
opaque routerScore : Nat → Nat → Nat → BitVec 32
/-- Free value (R350, R356): tokens generated, tokens exited early and experts routed, per fresh index. -/
opaque modelCount : Nat → Nat
/-- Free value (R369, R372): loss and gradient norm words of a training step, per fresh index. -/
opaque trainWord : Nat → BitVec 32
/-- Free value (R371): the count of non-finite gradient elements and weights of a training step. -/
opaque trainNonFinite : Nat → Nat
/-- Free value (R387): a near-bank FP32 result whose rounding order the manual leaves open. -/
opaque nearBankWord : Nat → BitVec 32
/-- Free value (R612): a byte of undefined contents. -/
opaque freeByte : Nat → BitVec 8
/-- Free value (R153, R223, R365): element `j` of a vector the manual does not fix, an encoder's output, a first centroid of the
k-means of a formation, per fresh index; in units of 2^-149. -/
opaque freeElement : Nat → Nat → Int
/-- Element `j` of an encoder's output (R223, R365): from a fresh index, the collection and model, and the input bytes; in units of
2^-149. The encoding of a model program is outside the manual. -/
opaque encoderElement : Nat → Nat → Nat → Bytes → Nat → Int
/-- Free value (R187, R381, R399): which of the enabled stacks holds the level-2 block of a shard's level-1 centroid. -/
opaque blockStack : Nat → Nat → Nat
/-- Free value (R381, R399): which of the enabled stacks holds a list's cached pages and guestbook, by list. -/
opaque listStack : Nat → Nat
/-- Free value (R379, R399): whether a frame of DRAM is one of the node's own regions, of those that no function holds. -/
opaque ownFrame : List Nat → Nat → Bool
/-- Free value (R421, R422): which of the enabled channels holds a slot's row page. -/
opaque rowChannel : Nat → Nat
/-- Free value: an integer the manual leaves open, per fresh index. -/
opaque freeInt : Nat → Int
/-- Free value (R301): the fingerprint of an identifier, before it is brought into 1 to 8,191. -/
opaque fingerprint : Nat → Nat
/-- Free value (R480): CRC-32C of origin node, request number and destination; the manual does not say in what bytes the
three are laid out. -/
opaque pathHash : Nat → Nat → Nat → Nat
/-- Free value: a natural number the manual leaves open, per fresh index. -/
opaque freeNat : Nat → Nat
/-- Program versions the firmware knows (R338). -/
opaque knownProgram : Nat → Bool
/-- Whether a program version marks a core image (R464). -/
opaque coreImageProgram : Nat → Bool
/-- What an entry point of a model program declares (R357, R358): input kind, output kind, width. The program encoding
is in the Epmir reference, outside the manual. -/
opaque entryKind : Nat → Nat → Nat × Nat × Nat

/-- AO ticks in one microsecond (R71: 40 ns). -/
def ticksPerUs : Nat := 25
/-- AO ticks in one millisecond. -/
def ticksPerMs : Nat := 25000
/-- AO ticks in one second. -/
def ticksPerS : Nat := 25000000
/-- Zizon version of firmware 1.4.x (R110). -/
def zizonMajor : Nat := 1
/-- Zizon minor version (R110). -/
def zizonMinor : Nat := 4

end Sys2Proof.Config
end

