-- ==== Sys2Proof/Records.lean ====
section
/-! DEFINITION. What a shard holds: quantised records, slots, row history, tombstones, lists; the image of a shard that a move carries
(R323); what the frames of a model run carry (R363). -/

namespace Sys2Proof.Machine

open Sys2Proof

/-! ### Quantised records -/

/-- One group of SQ4 or SQ8 (R159): E4M3 scale byte, zero point, codes, escapes (index in the group, exact value in units
of 2^-149). -/
structure QGroup where
  scale : Nat
  zero : Nat
  codes : List Nat
  escapes : List (Nat × Int)
  deriving DecidableEq, Repr

/-- A scan record (R162, R164), but for the padding. `norm` in units of 2^-298. -/
structure ScanRec where
  id : Nat
  groups : List QGroup
  norm : Int
  secondCopy : Bool
  lexical : Bool
  normSaturated : Bool
  guestbook : Bool
  epoch : Nat
  deriving DecidableEq, Repr

/-- A refinement record (R167). List fields hold 0xFFFFFFFF for none. -/
structure Row where
  id : Nat
  groups : List QGroup
  norm : Int
  list : Nat
  second : Nat
  lex : List (Nat × Int)
  deriving DecidableEq, Repr

/-- A row's home (R298, R403, R404). -/
inductive Home where
  | formation | t2 | t3 (pool : Nat)
  deriving DecidableEq, Repr

/-- A migration of a row (R321). -/
structure Migration where
  to_ : Home
  dirty : Bool
  passes : Nat
  oldHome : Option Home
  stamp : Nat
  promoteFor : Option Nat
  /-- bytes charged at the new home, then the old home's bytes -/
  bytes : Nat
  deriving DecidableEq, Repr

/-- A vector slot held by an identifier (R258). -/
structure Slot where
  num : Nat
  id : Nat
  row : Row
  home : Home
  /-- R281: the deletion bitmap bit; 0 -/
  bit : Bool
  /-- stamp of the delete that set the bit, for R283 -/
  deletedAt : Nat
  /-- the slot's current incarnation has been stamped -/
  born : Bool
  /-- R575: the row's page is lost -/
  lost : Bool
  migration : Option Migration
  /-- R314, R412: the function whose T2 quota a promoted row is charged to; none: the collection's -/
  payer : Option Nat
  /-- R427, R428: the row was written with its collection's compression on -/
  packed : Bool
  deriving DecidableEq, Repr

/-- A row history entry (R303). Kinds: 0 born, 1 replaced, 2 moved, 3 reborn. -/
structure Hist where
  slot : Nat
  stamp : Nat
  kind : Nat
  applied : Bool
  prior : Option (Row × Home)
  delta : Option (List Int × List (Nat × Int))
  deriving DecidableEq, Repr

/-- A tombstone (R279). -/
structure Tomb where
  id : Nat
  stamp : Nat
  kind : Nat
  listA : Nat
  listB : Nat
  pendA : Bool
  pendB : Bool
  slot : Nat
  at_ : Nat
  deriving DecidableEq, Repr

/-- A guestbook entry (R273). -/
structure GbEntry where
  scan : ScanRec
  stamp : Nat
  at_ : Nat
  deriving DecidableEq, Repr

/-- A list version (R165, R290): its cut, its switch stamp, its pages in order, its channel. -/
structure Version where
  epoch : Nat
  cut : Nat
  switch : Nat
  pages : List (List ScanRec)
  channel : Nat
  cached : Bool
  lostPages : List Nat
  /-- R427: written for a cold list with its collection's compression on -/
  packed : Bool
  deriving DecidableEq, Repr

/-- Maintenance of a list (R289, R294): 0 compaction, 1 split, 2 merge, 3 the partner of a merge. -/
structure Maint where
  kind : Nat
  /-- 0 until the ledger arbiter has given the cut -/
  cut : Nat
  urgent : Bool
  partner : Option Nat
  plannedAt : Nat
  /-- R289: when its oldest trigger began to hold -/
  trigger : Nat
  /-- R290 step 2, R294 steps 2 and 3: the new pages are programmed -/
  written : Bool
  switched : Option Nat
  deriving DecidableEq, Repr

/-- A list (R173): 24-bit identifier, its level-1 centroid, sub-centroid, versions, guestbook, neighbours. -/
structure LList where
  id : Nat
  shard : Nat
  l1 : Nat
  /-- R171: the SQ4 sub-centroid that heads the list -/
  centroid : List QGroup
  /-- R162, R171: its squared_norm, of the vector before quantisation -/
  norm : Int
  versions : List Version
  gb : List GbEntry
  /-- R274: chunks held; 0 -/
  chunks : Nat
  /-- R275 step 6: old chunks not yet freed; 0 -/
  oldChunks : Nat
  /-- R289: an insert waits or was refused on the full guestbook -/
  urgent : Bool
  closed : Bool
  bornW : Nat
  retiredW : Option Nat
  successors : List Nat
  neighbours : List Nat
  degraded : Bool
  channel : Nat
  /-- R409: times of the probes of the last 60 s -/
  probes : List Nat
  /-- R427: time of the last probe -/
  probedAt : Option Nat
  /-- R409: the list is admitted: the epoch of the version the next coach read copies -/
  admitHot : Option Nat
  maint : Option Maint
  deriving DecidableEq, Repr

/-- Shard stages (R152). -/
inductive Stage where
  | forming | formed
  deriving DecidableEq, Repr

/-- What a move of a shard carries to its new owner (R68, R323): the counter and all that the shard holds at the hand-over. -/
structure ShardImage where
  coll : Nat
  shard : Nat
  counter : Nat
  stage : Stage
  switchW : Option Nat
  buffer : Bool
  l : Nat
  l2 : Nat
  l1 : Nat
  centroids : List (List QGroup)
  centroidNorms : List Int
  matrix : List (List Int)
  slots : List Slot
  hist : List Hist
  tombs : List Tomb
  lists : List LList
  deriving DecidableEq, Repr

/-- What a frame of a model run between two owner nodes carries (R363): the sender's part of the striped tensors of a layer, the
tokens whose activations go to experts of the receiver, by the sender's token number and expert, or the outputs of the sender's
experts. -/
inductive Exchange where
  | part
  | tokens (routes : List (Nat × Nat))
  | outputs
  deriving DecidableEq, Repr

end Sys2Proof.Machine
end

