-- ==== Sys2Proof/Syntax.lean ====
section
/-! DEFINITION. The commands of the block: one constructor of `Instr` for each row of spec/opcode_table.json, and the
records their operands are made of. An operand is what the outside supplies: a register value, bytes of host memory, a
message, a measurement, or `t`, the value of AO_LOCAL_COUNT at which a time-driven step happens. -/

namespace Sys2Proof

/-- A request throughout the system (R47). -/
structure Key where
  origin : Nat
  num : Nat
  deriving DecidableEq, Repr

/-- What host memory answers to one command: the input buffer as read (none: refused, R612), whether the output buffer
write and the completion entry write are accepted. -/
structure HostIO where
  input : Option Bytes
  outOk : Bool
  cqOk : Bool
  deriving DecidableEq, Repr

/-- The tag (R46), but for the reserved bits and tag_check. -/
structure Tag where
  function : Nat
  qosClass : Nat
  background : Bool
  kind : Nat
  requestNumber : Nat
  originNode : Nat
  ownerNode : Nat
  shard : Nat
  hopCount : Nat
  firmware : Bool
  ledgerStamp : Nat
  deriving DecidableEq, Repr

/-- A cancellation filter (R53): the window runs from `first` up to and excluding `next`, modulo 2^24. -/
structure CancelFilter where
  origin : Nat
  function : Nat
  first : Nat
  next : Nat
  deriving DecidableEq, Repr

/-- The fields of a validated SEARCH that its shares carry (R221); elements in units of 2^-149. -/
structure SearchParams where
  k : Nat
  probes : Nat
  l1Probes : Nat
  rerankDepth : Nat
  dwellLimit : Nat
  timeoutMs : Nat
  readStamps : Bool
  lexical : Bool
  noExpand : Bool
  retryAllowed : Bool
  filterKind : Nat
  ranges : List (Nat × Nat)
  query : List Int
  terms : List (Nat × Int)
  deriving DecidableEq, Repr

/-- A query sent to an owning node, with the shards it asks that node for (R29). -/
structure ShareMsg where
  key : Key
  function : Nat
  qosClass : Nat
  hop : Nat
  collection : Nat
  shards : List Nat
  params : SearchParams
  deriving DecidableEq, Repr

/-- A candidate with its merge key (R228, R229). -/
structure Cand where
  score : Int
  shard : Nat
  source : Nat
  offer : Nat
  id : Nat
  deriving DecidableEq, Repr

/-- What one shard answered (R245, R252, R614), or that its node could not be reached (R224, R481). -/
inductive ShardAnswer where
  | answered (stamp covered planned : Nat) (degraded short forming : Bool)
  | unreached
  | hopEnded
  | failed (status detail : Nat)
  deriving DecidableEq, Repr

/-- A node's answer (R245). -/
structure Answer where
  key : Key
  node : Nat
  shards : List (Nat × ShardAnswer)
  entries : List Cand
  duplicates : Nat
  missingRows : Nat
  edgesSkipped : Nat
  reranked : Nat
  tie : Option (Int × Nat)
  /-- R500: the pools that held its spill area or rows it read -/
  pools : List Nat
  deriving DecidableEq, Repr

/-- What a mutation member does (R261, R315). -/
inductive MemberKind where
  | insert | delete | upsert | replace | accumulate
  deriving DecidableEq, Repr

/-- A member sent to its owner shard: the identifier or row reference and the bytes of its entry (R262). -/
structure MemberMsg where
  key : Key
  index : Nat
  function : Nat
  qosClass : Nat
  hop : Nat
  collection : Nat
  shard : Nat
  kind : MemberKind
  byRef : Bool
  name : Nat
  format : Nat
  entry : Bytes
  deriving DecidableEq, Repr

/-- A mutation outcome entry (R264). -/
structure Outcome where
  stamp : Nat
  status : Nat
  detail : Nat
  shard : Nat
  deriving DecidableEq, Repr

/-- An outcome on its way to the origin. -/
structure OutcomeMsg where
  key : Key
  index : Nat
  outcome : Outcome
  deriving DecidableEq, Repr

/-- What a peer owner answered for one index of a GATHER (R310); the row as its row reference and bytes; `poolLost` where a pool
that holds rows it read failed (R500). -/
inductive IndexReply where
  | row (ref : Nat) (bytes : Bytes)
  | never
  | deleted
  | range
  | lost
  | unreached
  | poolLost
  deriving DecidableEq, Repr

/-- The owner's answer to an outcome query (R537). -/
inductive QueryReply where
  | found (o : Outcome)
  | inProgress
  | unknown
  deriving DecidableEq, Repr

/-- The settings of a collection as its creator sends them (R98, R615). -/
structure CollSpec where
  id : Nat
  name : Bytes
  dimensions : Nat
  projection : Nat
  metric : Nat
  group : Nat
  guestbookEntries : Nat
  guestbookFull : Nat
  lexical : Bool
  dwellUs : Nat
  shards : Nat
  firstShard : Nat
  maxVectors : Nat
  creatingFunction : Nat
  owners : List Nat
  deriving DecidableEq, Repr

/-- An announcement (R615). -/
inductive Announce where
  | created (c : CollSpec)
  | dropped (id : Nat)
  deriving DecidableEq, Repr

/-- What a peer owner answered to a shard set-up (R100). -/
inductive SetupReply where
  | allDone
  | limits
  | unreachable
  deriving DecidableEq, Repr

/-- How a flash page read ends (R425). -/
inductive PageRead where
  | clean
  | soft (retries : Nat)
  | rebuilt
  | lost
  deriving DecidableEq, Repr

/-- A hello message (R472, R536). -/
structure Hello where
  node : Nat
  port : Nat
  resting : Bool
  epoch : Nat
  deriving DecidableEq, Repr

/-- A unit of Table: unit wakes (R512, R515). Units of the Lull group: 0 to 31 the stacks, 32 to 63 the flash channels, 64 to 67 the
service cores, 68 the coarse field, 69 PCIe. -/
inductive UnitId where
  | csu (c : Nat)
  | cluster (n : Nat)
  | core (n : Nat)
  | lull (n : Nat)
  | port (p : Nat)
  deriving DecidableEq, Repr

/-- An engine that a unit reset reaches (R52, R62). -/
inductive EngineId where
  | channel (c : Nat)
  | stack (c : Nat)
  | coarseField
  | tensor (tile : Nat)
  | porter (tile : Nat)
  | innkeeper
  | ledger (shard : Nat)
  deriving DecidableEq, Repr

/-- The low-speed and telemetry readings a periodic step takes (R518, R526, R528). -/
structure Readings where
  inputMv : Nat
  inputMa : Nat
  inputW : Nat
  junctions : List Nat
  inletC : Nat
  deriving DecidableEq, Repr

/-- Element code (R562). -/
structure Element where
  kind : Nat
  domain : Nat
  element : Nat
  deriving DecidableEq, Repr

/-- A frame of a model run for one of its layers (R363). -/
structure LayerFrame where
  layer : Nat
  what : Machine.Exchange
  deriving DecidableEq, Repr

/-- The end of a shard move's copy, at the counter value `t`: on the new owner with the image that the move brings (R323). -/
structure MoveEnd where
  image : Option Machine.ShardImage
  t : Nat
  deriving DecidableEq, Repr

/-- What start-up finds outside: the number it draws for the boot epoch (R536), and whether REFCLK carries a clock (R599). -/
structure StartInputs where
  random : BitVec 64
  refclk : Bool
  deriving DecidableEq, Repr

/-- What a retraining of the host link finds at the counter value `t`: whether REFCLK carries a clock (R599). -/
structure LinkInputs where
  refclk : Bool
  t : Nat
  deriving DecidableEq, Repr

/-- One command: one constructor per row of spec/opcode_table.json. -/
inductive Instr where
  | mbxDoorbell (fn : Nat) (v : BitVec 32) (t : Nat)
  | mbxAck (fn : Nat) (v : BitVec 32)
  | dblSqTail (fn slot width : Nat) (v : BitVec 32) (t : Nat)
  | dblCqHead (fn slot width : Nat) (v : BitVec 32)
  | registerWrite (fn offset width : Nat) (v : BitVec 64)
  | arbGrantsRead
  | intHeldRead (fn : Nat)
  | pwrGustWaitsRead
  | portCounterRead (offset : Nat)
  | msixVectorUnmask (fn vec t : Nat)
  | msixFunctionMaskClear (fn t : Nat)
  | rstNodeRequest (v : BitVec 32) (t : Nat)
  | rstColdRequest (v : BitVec 32) (t : Nat)
  | initiateFunctionLevelReset (fn : Nat) (vfReset : Bool) (t : Nat)
  | vfEnableClear (t : Nat)
  | vfEnableSet (numVfs t : Nat)
  | functionResetComplete (fn t : Nat)
  | cancelFilterReceive (f : CancelFilter) (t : Nat)
  | cancelHoldTimeout (t : Nat)
  | identifyNode (r t : Nat)
  | identifyFunction (r t : Nat)
  | identifyCollection (r t : Nat)
  | identifyQueue (r t : Nat)
  | createQueue (r t : Nat)
  | deleteQueue (r t : Nat)
  | deleteQueueDrainEnd (q t : Nat)
  | createCollection (r t : Nat)
  | collectionShardSetup (c : CollSpec) (t : Nat)
  | createCollectionTailEnd (coll : Nat) (peers : List (Nat × SetupReply)) (t : Nat)
  | collectionAnnounceReceive (a : Announce)
  | dropCollection (r t : Nat)
  | dropCollectionTailEnd (coll t : Nat)
  | setQuota (r t : Nat)
  | setFunction (r t : Nat)
  | grantRights (r t : Nat)
  | attachPool (r t : Nat)
  | attachPoolTailEnd (pool : Nat) (probeOk : Bool) (t : Nat)
  | detachPool (r t : Nat)
  | detachPoolTailEnd (pool t : Nat)
  | getConfig (r t : Nat)
  | setConfig (r t : Nat)
  | setConfigMoveShard (r t : Nat)
  | setConfigBringIn (r t : Nat)
  | writeOptions (r t : Nat)
  | writeOptionsTailEnd (t : Nat)
  | fwUpdateStage (r t : Nat)
  | fwUpdateVerify (r t : Nat)
  | fwUpdateActivate (r t : Nat)
  | fwUpdateStatus (r t : Nat)
  | fwUpdateTailEnd (t : Nat)
  | attestReport (r : Nat) (outOk : Bool) (t : Nat)
  | attestCertificates (r : Nat) (outOk : Bool) (t : Nat)
  | telemetryAttach (r t : Nat)
  | telemetryDetach (r t : Nat)
  | telemetrySnapshot (r : Nat) (outOk : Bool) (t : Nat)
  | getLog (r : Nat) (outOk : Bool) (t : Nat)
  | innkeeperTakeover (t : Nat)
  | admission (entry input : Option Bytes) (cqOk : Bool) (t : Nat)
  | coalesceDelayExpiry (q t : Nat)
  | interruptCeilingRefill (fn t : Nat)
  | overPeakEnd (fn t : Nat)
  | timingWheelSlot (q port t : Nat)
  | egressSend (port t : Nat)
  | search (num : Nat) (io : HostIO) (t : Nat)
  | searchShareArrival (m : Option ShareMsg) (t : Nat)
  | ledgerStamp (shard t : Nat)
  | ageArbiterGrant (arb : Nat) (input : Option Bytes) (t : Nat)
  | coarseSelection (k : Key) (shard : Nat)
  | level2BatchDepart (shard t : Nat)
  | coachBoard (shard t : Nat)
  | seatWaitTimeout (k : Key) (shard t : Nat)
  | coachDepart (shard t : Nat)
  | csuCoachStart (csu t : Nat)
  | csuPageRead (csu : Nat) (res : PageRead) (t : Nat)
  | broadcast (stack : Nat) (struck : List (Nat × Nat)) (t : Nat)
  | overflowPass (k : Key)
  | spillPass (k : Key)
  | spillShortDeadline (k : Key) (t : Nat)
  | formingShardScore (k : Key) (shard : Nat)
  | nodeMerge (k : Key)
  | rerankGather (k : Key)
  | porterRowRead (tile : Nat) (res : PageRead) (t : Nat)
  | coordinatorAnswerReceive (num : Nat) (peer : Option Answer) (io : HostIO) (t : Nat)
  | searchTimeout (num : Nat) (io : HostIO) (t : Nat)
  | insert (num : Nat) (io : HostIO) (t : Nat)
  | delete (num : Nat) (io : HostIO) (t : Nat)
  | upsert (num : Nat) (io : HostIO) (t : Nat)
  | memberArrival (m : Option MemberMsg) (t : Nat)
  | insertAssignment (k : Key) (idx : Nat)
  | writeBufferAccept (k : Key) (idx t : Nat)
  | guestbookWaitEnd (k : Key) (idx t : Nat)
  | guestbookWaitTimeout (k : Key) (idx t : Nat)
  | formationWaitTimeout (k : Key) (idx t : Nat)
  | memberOutcomeReceive (m : Option OutcomeMsg) (io : HostIO) (t : Nat)
  | memberOutcomeQuery (num idx : Nat) (r : QueryReply) (io : HostIO) (t : Nat)
  | gather (num : Nat) (peers : List (Nat × IndexReply)) (stamps : List (Nat × Nat)) (io : HostIO) (t : Nat)
  | scatter (num : Nat) (io : HostIO) (t : Nat)
  | accumulateApply (shard slot : Nat)
  | modelLoadBegin (num : Nat) (io : HostIO) (t : Nat)
  | modelLoadPart (num : Nat) (io : HostIO) (t : Nat)
  | modelLoadCommit (num : Nat) (stamps : List (Nat × Nat)) (io : HostIO) (t : Nat)
  | modelLoadUnload (num : Nat) (stamps : List (Nat × Nat)) (io : HostIO) (t : Nat)
  | modelLoadCheckpoint (num : Nat) (stamps : List (Nat × Nat)) (io : HostIO) (t : Nat)
  | modelLoadPlace (num : Nat) (stamps : List (Nat × Nat)) (io : HostIO) (t : Nat)
  | modelLoadingExpiry (coll model t : Nat)
  | modelRun (num : Nat) (stamps : List (Nat × Nat)) (io : HostIO) (t : Nat)
  | layerStreamComplete (num : Nat) (io : HostIO) (t : Nat)
  | routedExpertStreamComplete (num expert : Nat)
  | activationExchangeReceive (k : Key) (fromNode : Nat) (layer : LayerFrame)
  | windowRelease (coll model t : Nat)
  | trainStep (num : Nat) (stamps : List (Nat × Nat)) (io : HostIO) (t : Nat)
  | trainSwitch (num : Nat) (stamps : List (Nat × Nat)) (io : HostIO) (t : Nat)
  | pimExecAllocate (num : Nat) (io : HostIO) (t : Nat)
  | pimExecFree (num : Nat) (io : HostIO) (t : Nat)
  | pimExecWrite (num : Nat) (io : HostIO) (t : Nat)
  | pimExecRead (num : Nat) (struck : List Nat) (io : HostIO) (t : Nat)
  | pimExecRun (num : Nat) (io : HostIO) (t : Nat)
  | barrierQueue (num : Nat) (io : HostIO) (t : Nat)
  | barrierQueueRelease (q : Nat) (io : HostIO) (t : Nat)
  | barrierShard (num : Nat) (reply : Option (Option Nat)) (io : HostIO) (t : Nat)
  | flush (num : Nat) (io : HostIO) (t : Nat)
  | flushDone (num : Nat) (peers : List (Nat × Option (Nat × Nat))) (io : HostIO) (t : Nat)
  | backgroundWindow (arb t : Nat)
  | resourceWatchdogBite (arb : Nat) (io : HostIO) (t : Nat)
  | unitReset (e : EngineId) (io : HostIO) (t : Nat)
  | compactionPlan (list t : Nat)
  | compactionSwitch (list t : Nat)
  | compactionRelease (list t : Nat)
  | guestbookChunkFree (list : Nat)
  | listLengthTick (shard t : Nat)
  | splitMergeSwitch (list t : Nat)
  | splitMergeRelease (list : Nat)
  | graphRepair (shard : Nat)
  | tombstoneFold (shard id stamp : Nat)
  | tombstonePendingClear (shard id stamp : Nat)
  | tombstoneGuardConvert (shard id stamp : Nat)
  | slotFree (shard slot : Nat)
  | rowHistoryRemove (shard slot stamp : Nat)
  | formationStart (shard : Nat)
  | formationSwitch (shard t : Nat)
  | formationBufferRelease (shard : Nat)
  | rowMigrationPlan (shard slot : Nat) (toPool : Option Nat)
  | rowMigrationCopyEnd (shard slot : Nat)
  | rowMigrationRelease (shard slot : Nat)
  | placementChange (coll t : Nat)
  | shardMoveCopyEnd (shard : Nat) (copied : MoveEnd)
  | shardMoveAnnounceReceive (coll shard newOwner : Nat)
  | shardMoveRelease (shard : Nat)
  | cacheRebalance (t : Nat)
  | cacheEvict
  | writeBufferProgram (channel t : Nat)
  | writeBufferFree (channel : Nat)
  | journalRetire (entry : Nat)
  | checkpoint (t : Nat)
  | garbageCollection (channel : Nat)
  | wearLevelling (channel : Nat)
  | readDisturbRefresh (channel block t : Nat)
  | retentionScan (channel block : Nat) (weak : Bool) (t : Nat)
  | grownBadBlock (channel block : Nat)
  | journalReserveErase (channel : Nat)
  | patrolScrub (stack : Nat) (corrected : Nat) (uncorrectable : Nat) (t : Nat)
  | linkAdaptation (port : Nat) (setting : Nat) (t : Nat)
  | calibrationSlot (array : Nat) (errorPpm : Nat) (t : Nat)
  | calibrationForced (array : Nat) (errorPpm : Nat) (t : Nat)
  | arrayTemperatureTrack (array : Nat) (errorPpm : Nat) (t : Nat)
  | telemetryPass (fn ring : Nat) (io : HostIO) (t : Nat)
  | lullEntry (since : Nat) (guestsWait : Bool) (t : Nat)
  | calmEntry (t : Nat)
  | nodeWake (hostRequest linkDown : Bool) (t : Nat)
  | maintenanceWake (t : Nat)
  | unitGate (u : UnitId) (since t : Nat)
  | gustGrant (t : Nat)
  | unitWakeComplete (u : UnitId) (t : Nat)
  | powerCapTick (r : Readings) (t : Nat)
  | brakeAssert (t : Nat)
  | brakeRelease (since t : Nat)
  | writeInhibit (mv t : Nat)
  | releaseHoldStart (mv t : Nat)
  | doldrumsExit (t : Nat)
  | brownout (mv t : Nat)
  | thermalTick (r : Readings) (t : Nat)
  | thermalShutdown (r : Readings) (t : Nat)
  | inletHigh (inletC t : Nat)
  | hotSwapTurnOn (mv t : Nat)
  | aoPowerGood (bankMv : Nat) (found : StartInputs)
  | hotSwapTurnOff (mv ma forUs t : Nat)
  | resetNAssert (lowNs t : Nat)
  | perstNAssert (lowNs t : Nat)
  | hotReset (linkDown : Bool) (link : LinkInputs)
  | aoWatchdogBite (t : Nat)
  | nodeResetStretchEnd (resetNHigh : Bool) (found : StartInputs) (t : Nat)
  | busMasterEnableSet (poolProbes : List (Nat × Bool)) (t : Nat)
  | frameReceive (port : Nat) (frame : Bytes) (stale : Bool) (t : Nat)
  | nackReceive (port channel seq : Nat)
  | creditGrant (port channel units : Nat) (acked : Option Nat)
  | laneSwap (port lane : Nat) (receive : Bool) (t : Nat)
  | portRetrain (port lane : Nat) (width : Nat) (t : Nat)
  | portDown (port t : Nat)
  | helloReceive (port : Nat) (h : Hello) (t : Nat)
  | portDark (port t : Nat)
  | unreachableTimeout (dest : Nat) (io : HostIO) (t : Nat)
  | poolProbeTick (pool : Nat) (ok : Bool) (t : Nat)
  | poolAccessFailure (pool : Nat) (reprobeOk : Bool) (t : Nat)
  | poolShort (pool : Nat) (short : Bool) (t : Nat)
  | sparePredictiveTrigger (e : Element) (errors t : Nat)
  | hardFault (e : Element) (t : Nat)
  | recoveryGrant (t : Nat)
  | recoveryStall (domain t : Nat)
  | regenerationSwitch (shard t : Nat)
  | shardLost (shard : Nat) (ownerReports : Bool) (io : HostIO) (t : Nat)
  | sidebandZizonRequest (request : Bytes) (input : Bytes) (t : Nat)
  | entdaa (addr : Nat)
  | setdasa (staticAddr addr : Nat)
  | setEndpointId (eid : Nat)
  | getEndpointId
  | getEndpointUuid
  | getMctpVersionSupport
  | getMessageTypeSupport
  | pldmSensorRead (sensor : Option Nat)
  | pollForPlatformEventMessage
  | wakeNTimeout (linkL0 : Bool) (t : Nat)
  | releaseHoldBreak (mv t : Nat)
  | overvoltageClose (mv t : Nat)
  | perstNDeassert (link : LinkInputs)
  | linkUp (port width : Nat) (t : Nat)
  | recoveryEnd (domain t : Nat)
  | guestFault (fn : Nat)
  | modelRunTimeout (num : Nat) (io : HostIO) (t : Nat)
  deriving DecidableEq, Repr

end Sys2Proof
end

