-- ==== Sys2Proof/WellFormed.lean ====
section
/-! DEFINITION. Well-formed commands: every operand is a value its field or pin can carry. Nothing outside the node can
send a command that is not well formed. -/

namespace Sys2Proof

/-- A request key: a 12-bit origin node and a 24-bit request number (R47). -/
def Key.wf (k : Key) : Bool := decide (k.origin < 4096) && decide (k.num < 16777216)

/-- An element code (R562): a 4-bit domain kind, an 8-bit domain and an 8-bit element. -/
def Element.wf (e : Element) : Bool := decide (e.kind < 16) && decide (e.domain < 256) && decide (e.element < 256)

/-- Whether every operand of a command is in range. -/
def Instr.wf : Instr → Bool
  | .mbxDoorbell fn _ _ => decide (fn < 128)
  | .mbxAck fn _ => decide (fn < 128)
  | .dblSqTail fn slot width _ _ => decide (fn < 128) && decide (slot < 3584) && (width == 1 || width == 2 || width == 4 || width == 8)
  | .dblCqHead fn slot width _ => decide (fn < 128) && decide (slot < 3584) && (width == 1 || width == 2 || width == 4 || width == 8)
  | .registerWrite fn _ width _ => decide (fn < 128) && (width == 1 || width == 2 || width == 4 || width == 8)
  | .arbGrantsRead => true
  | .intHeldRead fn => decide (fn < 128)
  | .pwrGustWaitsRead => true
  | .portCounterRead _ => true
  | .msixVectorUnmask fn vec _ => decide (fn < 128) && decide (vec < 64)
  | .msixFunctionMaskClear fn _ => decide (fn < 128)
  | .rstNodeRequest _ _ => true
  | .rstColdRequest _ _ => true
  | .initiateFunctionLevelReset fn _ _ => decide (fn < 128)
  | .vfEnableClear _ => true
  | .vfEnableSet numVfs _ => decide (numVfs < 128)
  | .functionResetComplete fn _ => decide (fn < 128)
  | .cancelFilterReceive _ _ => true
  | .cancelHoldTimeout _ => true
  | .identifyNode r _ => decide (r < 129)
  | .identifyFunction r _ => decide (r < 129)
  | .identifyCollection r _ => decide (r < 129)
  | .identifyQueue r _ => decide (r < 129)
  | .createQueue r _ => decide (r < 129)
  | .deleteQueue r _ => decide (r < 129)
  | .deleteQueueDrainEnd q _ => decide (q < 4096)
  | .createCollection r _ => decide (r < 129)
  | .collectionShardSetup _ _ => true
  | .createCollectionTailEnd _ _ _ => true
  | .collectionAnnounceReceive _ => true
  | .dropCollection r _ => decide (r < 129)
  | .dropCollectionTailEnd _ _ => true
  | .setQuota r _ => decide (r < 129)
  | .setFunction r _ => decide (r < 129)
  | .grantRights r _ => decide (r < 129)
  | .attachPool r _ => decide (r < 129)
  | .attachPoolTailEnd _ _ _ => true
  | .detachPool r _ => decide (r < 129)
  | .detachPoolTailEnd _ _ => true
  | .getConfig r _ => decide (r < 129)
  | .setConfig r _ => decide (r < 129)
  | .setConfigMoveShard r _ => decide (r < 129)
  | .setConfigBringIn r _ => decide (r < 129)
  | .writeOptions r _ => decide (r < 129)
  | .writeOptionsTailEnd _ => true
  | .fwUpdateStage r _ => decide (r < 129)
  | .fwUpdateVerify r _ => decide (r < 129)
  | .fwUpdateActivate r _ => decide (r < 129)
  | .fwUpdateStatus r _ => decide (r < 129)
  | .fwUpdateTailEnd _ => true
  | .attestReport r _ _ => decide (r < 129)
  | .attestCertificates r _ _ => decide (r < 129)
  | .telemetryAttach r _ => decide (r < 129)
  | .telemetryDetach r _ => decide (r < 129)
  | .telemetrySnapshot r _ _ => decide (r < 129)
  | .getLog r _ _ => decide (r < 129)
  | .innkeeperTakeover _ => true
  | .admission _ _ _ _ => true
  | .coalesceDelayExpiry q _ => decide (q < 4096)
  | .interruptCeilingRefill fn _ => decide (fn < 128)
  | .overPeakEnd fn _ => decide (fn < 128)
  | .timingWheelSlot q port _ => decide (q < 4096) && decide (port < 8)
  | .egressSend port _ => decide (port < 8)
  | .search num _ _ => decide (num < 16777216)
  | .searchShareArrival _ _ => true
  | .ledgerStamp _ _ => true
  | .ageArbiterGrant arb _ _ => decide (arb < 65536)
  | .coarseSelection k _ => k.wf
  | .level2BatchDepart _ _ => true
  | .coachBoard _ _ => true
  | .seatWaitTimeout k _ _ => k.wf
  | .coachDepart _ _ => true
  | .csuCoachStart csu _ => decide (csu < 32)
  | .csuPageRead csu _ _ => decide (csu < 32)
  | .broadcast stack _ _ => decide (stack < 32)
  | .overflowPass k => k.wf
  | .spillPass k => k.wf
  | .spillShortDeadline k _ => k.wf
  | .formingShardScore k _ => k.wf
  | .nodeMerge k => k.wf
  | .rerankGather k => k.wf
  | .porterRowRead tile _ _ => decide (tile < 4)
  | .coordinatorAnswerReceive num _ _ _ => decide (num < 16777216)
  | .searchTimeout num _ _ => decide (num < 16777216)
  | .insert num _ _ => decide (num < 16777216)
  | .delete num _ _ => decide (num < 16777216)
  | .upsert num _ _ => decide (num < 16777216)
  | .memberArrival _ _ => true
  | .insertAssignment k _ => k.wf
  | .writeBufferAccept k _ _ => k.wf
  | .guestbookWaitEnd k _ _ => k.wf
  | .guestbookWaitTimeout k _ _ => k.wf
  | .formationWaitTimeout k _ _ => k.wf
  | .memberOutcomeReceive _ _ _ => true
  | .memberOutcomeQuery num _ _ _ _ => decide (num < 16777216)
  | .gather num _ _ _ _ => decide (num < 16777216)
  | .scatter num _ _ => decide (num < 16777216)
  | .accumulateApply _ slot => decide (slot < 34359738368)
  | .modelLoadBegin num _ _ => decide (num < 16777216)
  | .modelLoadPart num _ _ => decide (num < 16777216)
  | .modelLoadCommit num _ _ _ => decide (num < 16777216)
  | .modelLoadUnload num _ _ _ => decide (num < 16777216)
  | .modelLoadCheckpoint num _ _ _ => decide (num < 16777216)
  | .modelLoadPlace num _ _ _ => decide (num < 16777216)
  | .modelLoadingExpiry _ _ _ => true
  | .modelRun num _ _ _ => decide (num < 16777216)
  | .layerStreamComplete num _ _ => decide (num < 16777216)
  | .routedExpertStreamComplete num expert => decide (num < 16777216) && decide (expert < 65536)
  | .activationExchangeReceive k fromNode _ => k.wf && decide (fromNode < 4096)
  | .windowRelease _ _ _ => true
  | .trainStep num _ _ _ => decide (num < 16777216)
  | .trainSwitch num _ _ _ => decide (num < 16777216)
  | .pimExecAllocate num _ _ => decide (num < 16777216)
  | .pimExecFree num _ _ => decide (num < 16777216)
  | .pimExecWrite num _ _ => decide (num < 16777216)
  | .pimExecRead num _ _ _ => decide (num < 16777216)
  | .pimExecRun num _ _ => decide (num < 16777216)
  | .barrierQueue num _ _ => decide (num < 16777216)
  | .barrierQueueRelease q _ _ => decide (q < 4096)
  | .barrierShard num _ _ _ => decide (num < 16777216)
  | .flush num _ _ => decide (num < 16777216)
  | .flushDone num _ _ _ => decide (num < 16777216)
  | .backgroundWindow arb _ => decide (arb < 65536)
  | .resourceWatchdogBite arb _ _ => decide (arb < 65536)
  | .unitReset _ _ _ => true
  | .compactionPlan list _ => decide (list < 16777216)
  | .compactionSwitch list _ => decide (list < 16777216)
  | .compactionRelease list _ => decide (list < 16777216)
  | .guestbookChunkFree list => decide (list < 16777216)
  | .listLengthTick _ _ => true
  | .splitMergeSwitch list _ => decide (list < 16777216)
  | .splitMergeRelease list => decide (list < 16777216)
  | .graphRepair _ => true
  | .tombstoneFold _ _ _ => true
  | .tombstonePendingClear _ _ _ => true
  | .tombstoneGuardConvert _ _ _ => true
  | .slotFree _ slot => decide (slot < 34359738368)
  | .rowHistoryRemove _ slot _ => decide (slot < 34359738368)
  | .formationStart _ => true
  | .formationSwitch _ _ => true
  | .formationBufferRelease _ => true
  | .rowMigrationPlan _ slot _ => decide (slot < 34359738368)
  | .rowMigrationCopyEnd _ slot => decide (slot < 34359738368)
  | .rowMigrationRelease _ slot => decide (slot < 34359738368)
  | .placementChange _ _ => true
  | .shardMoveCopyEnd _ _ => true
  | .shardMoveAnnounceReceive _ _ newOwner => decide (newOwner < 4096)
  | .shardMoveRelease _ => true
  | .cacheRebalance _ => true
  | .cacheEvict => true
  | .writeBufferProgram channel _ => decide (channel < 32)
  | .writeBufferFree channel => decide (channel < 32)
  | .journalRetire _ => true
  | .checkpoint _ => true
  | .garbageCollection channel => decide (channel < 32)
  | .wearLevelling channel => decide (channel < 32)
  | .readDisturbRefresh channel _ _ => decide (channel < 32)
  | .retentionScan channel _ _ _ => decide (channel < 32)
  | .grownBadBlock channel _ => decide (channel < 32)
  | .journalReserveErase channel => decide (channel < 32)
  | .patrolScrub stack _ _ _ => decide (stack < 32)
  | .linkAdaptation port _ _ => decide (port < 8)
  | .calibrationSlot _ _ _ => true
  | .calibrationForced _ _ _ => true
  | .arrayTemperatureTrack _ _ _ => true
  | .telemetryPass fn ring _ _ => decide (fn < 128) && decide (ring < 4)
  | .lullEntry _ _ _ => true
  | .calmEntry _ => true
  | .nodeWake _ _ _ => true
  | .maintenanceWake _ => true
  | .unitGate _ _ _ => true
  | .gustGrant _ => true
  | .unitWakeComplete _ _ => true
  | .powerCapTick _ _ => true
  | .brakeAssert _ => true
  | .brakeRelease _ _ => true
  | .writeInhibit _ _ => true
  | .releaseHoldStart _ _ => true
  | .doldrumsExit _ => true
  | .brownout _ _ => true
  | .thermalTick _ _ => true
  | .thermalShutdown _ _ => true
  | .inletHigh _ _ => true
  | .hotSwapTurnOn _ _ => true
  | .aoPowerGood _ _ => true
  | .hotSwapTurnOff _ _ _ _ => true
  | .resetNAssert _ _ => true
  | .perstNAssert _ _ => true
  | .hotReset _ _ => true
  | .aoWatchdogBite _ => true
  | .nodeResetStretchEnd _ _ _ => true
  | .busMasterEnableSet _ _ => true
  | .frameReceive port _ _ _ => decide (port < 8)
  | .nackReceive port channel seq => decide (port < 8) && decide (channel < 32) && decide (seq < 4294967296)
  | .creditGrant port channel _ _ => decide (port < 8) && decide (channel < 32)
  | .laneSwap port lane _ _ => decide (port < 8) && decide (lane < 9)
  | .portRetrain port lane _ _ => decide (port < 8) && decide (lane < 9)
  | .portDown port _ => decide (port < 8)
  | .helloReceive port _ _ => decide (port < 8)
  | .portDark port _ => decide (port < 8)
  | .unreachableTimeout dest _ _ => decide (dest < 4096)
  | .poolProbeTick _ _ _ => true
  | .poolAccessFailure _ _ _ => true
  | .poolShort _ _ _ => true
  | .sparePredictiveTrigger e _ _ => e.wf
  | .hardFault e _ => e.wf
  | .recoveryGrant _ => true
  | .recoveryStall domain _ => decide (domain < 111)
  | .regenerationSwitch _ _ => true
  | .shardLost _ _ _ _ => true
  | .sidebandZizonRequest _ _ _ => true
  | .entdaa addr => decide (addr < 128)
  | .setdasa _ addr => decide (addr < 128)
  | .setEndpointId eid => decide (eid < 256)
  | .getEndpointId => true
  | .getEndpointUuid => true
  | .getMctpVersionSupport => true
  | .getMessageTypeSupport => true
  | .pldmSensorRead _ => true
  | .pollForPlatformEventMessage => true
  | .wakeNTimeout _ _ => true
  | .releaseHoldBreak _ _ => true
  | .overvoltageClose _ _ => true
  | .perstNDeassert _ => true
  | .linkUp port _ _ => decide (port < 8)
  | .recoveryEnd domain _ => decide (domain < 111)
  | .guestFault fn => decide (fn < 128)
  | .modelRunTimeout num _ _ => decide (num < 16777216)

end Sys2Proof
end

