-- ==== Sys2Proof/Decode.lean ====
section
/-! DEFINITION. Reading a command from a word. The table of operations gives no row any bits: a command reaches the node
as a register access, a message or a pin event, never as an encoded word. -/

namespace Sys2Proof

/-- The command that a word of the table's bits spells: no row has bits, so no word spells one. -/
def decodeTableWord (_nbits _w : Nat) : Option Instr := none

end Sys2Proof
end

