-- ==== Sys2Proof/Machine/State.lean ====
section
/-! DEFINITION. The state of one KN-8 node as plain data. Each field's docstring names the rule of spec/ that gives it,
its width and its value after reset (a field with no rule is the model's own and says so). -/

namespace Sys2Proof.Machine

open Sys2Proof

/-- Addressed RAM: cells with strictly rising addresses, none equal to 0, which an unlisted address reads as. -/
abbrev Mem := List Host.Cell

/-- Faults of the machine. The spec stops the node on nothing: every error is a status, a queue error, a recovery or a
reset, so no step raises one. -/
inductive Fault where
  /-- Raised by no step: the spec gives every hardware failure a recovery, a reset or an offline element. Safe. -/
  | none
  deriving DecidableEq, Repr

/-- Reasons a command has no meaning. -/
inductive Refusal where
  /-- The command's meaning is not written (raised by Dispatch only). Safe. -/
  | notModelled (mnemonic : String)
  deriving DecidableEq, Repr

/-! ### Tags, frames and what leaves the node -/

/-- What a frame or message sent to a peer carries; the manual fixes the tag and the frame, not these payloads. -/
inductive Msg where
  | share (m : ShareMsg)
  | answer (a : Answer)
  | member (m : MemberMsg)
  | outcome (m : OutcomeMsg)
  | outcomeQuery (k : Key) (idx : Nat)
  | filter (f : CancelFilter)
  | filterConfirm (f : CancelFilter)
  | setup (c : CollSpec)
  | announce (a : Announce)
  | gatherShare (k : Key) (coll : Nat) (names : List (Nat × Bool))
  | flushShare (k : Key) (coll : Nat)
  | barrierShare (k : Key) (shard : Nat)
  | runShare (k : Key) (coll model : Nat)
  | modelPart (coll model offset : Nat) (bytes : Bytes)
  | activation (k : Key) (layer : Nat) (x : Exchange)
  | barrierAnswer (k : Key) (f : Option Nat)
  | moveState (m : ShardImage)
  | moveAnnounce (coll shard newOwner : Nat)
  | compress (coll : Nat) (on : Bool)
  deriving DecidableEq, Repr

/-- A frame waiting for or in a retry buffer (R474, R477, R489). `queue` is the sub-queue it is produced on. -/
structure Frame where
  dest : Nat
  channel : Nat
  payload : Nat
  seq : Nat
  tag : Tag
  queue : Nat
  at_ : Nat
  body : Msg
  deriving DecidableEq, Repr

/-- What leaves the node at its boundary, in order. The model's own field: the outside's half of R138 and R588. -/
inductive Output where
  /-- A write of bytes to host memory with a function's requester identity (R88, R116). -/
  | hostWrite (fn addr : Nat) (data : Bytes)
  /-- One 32-byte completion entry (R135). -/
  | completion (fn queue addr : Nat) (entry : Bytes)
  /-- An MSI-X message (R453) or, for a ring in guest memory, a guest external interrupt (R466). -/
  | msix (fn vector : Nat) (addrLo addrHi data : BitVec 32)
  /-- A register read's answer (R20). -/
  | readData (v : BitVec 64)
  /-- A frame put on a port (R489). -/
  | frame (port : Nat) (f : Frame)
  /-- A hello on a port (R472, R536). -/
  | hello (port : Nat) (h : Hello)
  /-- A negative acknowledgement (R477). -/
  | nack (port channel seq : Nat)
  /-- An acknowledgement (R477). -/
  | ack (port channel seq : Nat)
  /-- Credits granted (R476). -/
  | credits (port channel units : Nat)
  /-- A lane-swap request to the transmitter (R470). -/
  | laneSwap (port lane : Nat)
  /-- A sideband response over MCTP (R603): response bytes, then the output bytes. -/
  | sideband (resp data : Bytes)
  /-- An MCTP control or PLDM answer (R602, R604). -/
  | mctp (data : List Nat)
  /-- A pool read or write (R494, R499). -/
  | poolProbe (pool : Nat)
  /-- The host link enters Detect (R538, R541). -/
  | linkDetect
  /-- An MCTP in-band interrupt (R602). -/
  | ibi
  deriving DecidableEq, Repr

/-! ### Functions, interrupts and buckets -/

/-- One MSI-X table entry and its PBA bit (R450, R453). -/
structure Vec where
  /-- R450; 32 bits; 0 -/
  addrLo : BitVec 32 := 0
  /-- R450; 32 bits; 0 -/
  addrHi : BitVec 32 := 0
  /-- R450; 32 bits; 0 -/
  data : BitVec 32 := 0
  /-- R450; 1 bit; 1 -/
  mask : Bool := true
  /-- R450, R453: the PBA bit; 1 bit; 0 -/
  pending : Bool := false
  /-- R454: the message held by the mask is, or covers, a mailbox message, which the ceiling does not hold; 0 -/
  direct : Bool := false
  deriving DecidableEq, Repr

/-- A telemetry ring (R579, R580). -/
structure TelRing where
  /-- R579: ring number 0 to 3; given at attach -/
  ring : Nat
  /-- R579: data_address; given at attach -/
  addr : Nat
  /-- R579: data_length; given at attach -/
  len : Nat
  /-- R582: sample_mask; given at attach -/
  mask : Nat
  /-- R98: interval in AO ticks; given at attach -/
  interval : Nat
  /-- R580: write_offset; 64 at attach (DEDUCED) -/
  writeOffset : Nat
  /-- R580: passes since attach; 0 -/
  passes : Nat
  /-- R580: AO_LOCAL_COUNT of the last pass; attach time -/
  last : Nat
  /-- R581: the counts at the previous pass, by kind and unit; empty -/
  prev : List (Nat × List Nat)
  deriving DecidableEq, Repr

/-- A function: its status block, its settings in the node record, its function state (R438). -/
structure Fn where
  /-- R79: FN_STATUS.ready; 1 bit; 0 -/
  ready : Bool := false
  /-- R457: FN_STATUS.reset_busy; 1 bit; 0 -/
  resetBusy : Bool := false
  /-- R457: when step 1 of the reset in progress began -/
  resetAt : Nat := 0
  /-- FN_EVENTS.mbx_done; 1 bit; 0 -/
  evMbxDone : Bool := false
  /-- FN_EVENTS.queue_error; 1 bit; 0 -/
  evQueueError : Bool := false
  /-- FN_EVENTS.quota_reached; 1 bit; 0 -/
  evQuota : Bool := false
  /-- FN_EVENTS.pool_event; 1 bit; 0 -/
  evPool : Bool := false
  /-- R80, R104: FN_RESOURCES.queue_first; 12 bits; 0 -/
  queueFirst : Nat := 0
  /-- R80, R104: queue_count; 12 bits; PF 3,584, VF 0 -/
  queueCount : Nat := 0
  /-- R80, R104: msix_count; 7 bits; PF 64, VF 0 -/
  msixCount : Nat := 0
  /-- R80, R104: qos_class; 3 bits; 0 -/
  qosClass : Nat := 0
  /-- R80, R104: may_create; 1 bit; PF 1, VF 0 -/
  mayCreate : Bool := false
  /-- R104: commit_cmds; 32 bits; no value given: DESIGN CHOICE 0, no limit (log 3) -/
  commitCmds : Nat := 0
  /-- R104: peak_cmds; 32 bits; DESIGN CHOICE 0 (log 3) -/
  peakCmds : Nat := 0
  /-- R104: commit_mbps; 32 bits; DESIGN CHOICE 0 (log 3) -/
  commitMbps : Nat := 0
  /-- R104: peak_mbps; 32 bits; DESIGN CHOICE 0 (log 3) -/
  peakMbps : Nat := 0
  /-- R104, R455: irq_ceiling; 16 bits; DESIGN CHOICE 0, no ceiling (log 3) -/
  irqCeiling : Nat := 0
  /-- R411: T0 limit in MiB; 32 bits; PF 0xFFFFFFFF (no limit), VF 0 -/
  t0Limit : Nat := 0
  /-- R411: T1 limit in GiB; as t0Limit -/
  t1Limit : Nat := 0
  /-- R411: T2 limit in TiB; as t0Limit -/
  t2Limit : Nat := 0
  /-- R411: T3 limit in TiB; as t0Limit -/
  t3Limit : Nat := 0
  /-- R411: guestbook entries limit in units of 1,024; as t0Limit -/
  gbLimit : Nat := 0
  /-- R411: seats limit; 16 bits; PF 0xFFFF, VF 0 -/
  seatsLimit : Nat := 0
  /-- R413: T0 bytes used; 0 -/
  t0Used : Nat := 0
  /-- R413: T1 bytes used; 0 -/
  t1Used : Nat := 0
  /-- R413: T2 bytes used, uncompressed; 0 -/
  t2Used : Nat := 0
  /-- R413: T3 bytes used; 0 -/
  t3Used : Nat := 0
  /-- R274: guestbook entries charged; 0 -/
  gbUsed : Nat := 0
  /-- R199: seats held by the function's own queries; 0 -/
  seatsUsed : Nat := 0
  /-- R415: kinds of allocation in refusal, by status detail; empty -/
  refusing : List Nat := []
  /-- R415: quota events counted for telemetry; 0 -/
  quotaEvents : Nat := 0
  /-- R444: committed admission bucket in 1/25,000,000 command; full -/
  admCommit : Nat := 800000000
  /-- R444: peak admission bucket; full -/
  admPeak : Nat := 800000000
  /-- R486: committed egress bucket in 1/25 byte; full -/
  egCommit : Nat := 1638400
  /-- R486: peak egress bucket; full -/
  egPeak : Nat := 1638400
  /-- R444: local counter value up to which the four buckets are filled; 0 -/
  filledTo : Nat := 0
  /-- R449: over_peak; 1 bit; 0 -/
  overPeak : Bool := false
  /-- R449: time of the last over-peak event; 0 -/
  overPeakAt : Nat := 0
  /-- R439: over_peak_events; 32 bits; 0 -/
  overPeakEvents : Nat := 0
  /-- R455: interrupt ceiling bucket in 1/25,000 message; 0 -/
  ceiling : Nat := 0
  /-- R455: local counter value up to which the ceiling bucket is filled; 0 -/
  ceilingTo : Nat := 0
  /-- R455: vectors held by the ceiling, in the order they became due; empty -/
  heldVecs : List Nat := []
  /-- R450: INT_HELD; 32 bits; 0 -/
  heldCount : BitVec 32 := 0
  /-- R453: MSI-X Enable; 1 bit; 0 (PCI Express) -/
  msixEnable : Bool := false
  /-- R453: Function Mask; 1 bit; 0 (PCI Express) -/
  fnMask : Bool := false
  /-- R450: MSI-X table and PBA, 64 vectors -/
  vecs : List Vec := List.replicate 64 {}
  /-- R439, R450: INT_CQ_SELECT; 16 bits; 0 -/
  cqSelect : BitVec 16 := 0
  /-- R463: core_share; 0 -/
  coreShare : Nat := 0
  /-- R465: the tenant cores that make up the share; none -/
  cores : List Nat := []
  /-- R463: guest_collection; 0 -/
  guestColl : Nat := 0
  /-- R463: guest_model; 0 -/
  guestModel : Nat := 0
  /-- R463: guest_gib; 4 -/
  guestGib : Nat := 4
  /-- R439: guest_state; 0 none, 1 booting, 2 running, 3 stopped on fault, 4 no image; 0 -/
  guestState : Nat := 0
  /-- R312: the five gather drop counters, in header order; 0 -/
  gatherDrops : List Nat := [0, 0, 0, 0, 0]
  /-- R439: requests cancelled by resets; 64 bits; 0 -/
  cancelled : Nat := 0
  /-- R579: telemetry rings attached by the function; none -/
  rings : List TelRing := []
  /-- R361: keep_state handles: handle, collection, model, bytes; none -/
  handles : List (Nat × Nat × Nat × Nat) := []
  deriving DecidableEq, Repr

/-! ### Mailboxes and Innkeeper -/

/-- Mailbox states (R82). -/
inductive MbxState where
  | idle | posted | busy | done
  deriving DecidableEq, Repr

/-- One mailbox (R81): 0 to 127 the functions', 128 the sideband's. -/
structure Mbox where
  /-- MBX_STATUS.state; 2 bits; IDLE -/
  st : MbxState := .idle
  /-- MBX_STATUS.status; 8 bits; 0 -/
  status : BitVec 8 := 0
  /-- MBX_STATUS.sequence; 16 bits; 0 -/
  sequence : BitVec 16 := 0
  /-- MBX_STATUS.status_detail; 16 bits; 0 -/
  detail : BitVec 16 := 0
  /-- MBX_STATUS.overrun; 1 bit; 0 -/
  overrun : Bool := false
  /-- MBX_STATUS.discarded; 1 bit; 0 -/
  discarded : Bool := false
  /-- MBX_CONFIG.msix_vector; 6 bits; 0 -/
  vector : BitVec 6 := 0
  /-- MBX_CONFIG.irq_enable; 1 bit; 0 -/
  irqEnable : Bool := false
  /-- MBX_ELAPSED.elapsed; 32 bits; 0 -/
  elapsed : BitVec 32 := 0
  /-- MBX_ELAPSED.wait; 32 bits; 0 -/
  wait : BitVec 32 := 0
  /-- R28 of MBX_ELAPSED: when POSTED was entered; 0 -/
  postedAt : Nat := 0
  /-- when the grant was made; 0 -/
  grantAt : Nat := 0
  /-- R81: request area, 1,792 bytes from 0x100; reads 0: DESIGN CHOICE (log 2) -/
  req : Mem := []
  /-- R81: response area, 2,048 bytes from 0x800; reads 0: DESIGN CHOICE (log 2) -/
  resp : Mem := []
  /-- R83: Innkeeper's copy of the request area made at the grant; empty -/
  copy : Bytes := []
  /-- R83, R88: Innkeeper's copy of the host input buffer (none: the read failed); none -/
  input : Option Bytes := none
  /-- R93: a commit step of this mailbox is running (BUSY and before the commit's end); 0 -/
  committing : Bool := false
  deriving DecidableEq, Repr

/-- What a tail does (R94). -/
inductive TailKind where
  | deleteQueue (q : Nat)
  | createColl (id : Nat)
  | dropColl (id : Nat)
  | attachPool (pool : Nat)
  | detachPool (pool : Nat)
  | writeOptions (copyB : Bool) (block : Bytes)
  | fwStage (offset : Nat) (data : Bytes)
  | fwVerify
  | fwActivate
  | attest (what : Nat)
  | getLog
  deriving DecidableEq, Repr

/-- A running tail: the requester it reports to (none when a reset left it unreported, R108) and when it started. -/
structure Tail where
  requester : Option Nat
  kind : TailKind
  startedAt : Nat
  deriving DecidableEq, Repr

/-! ### Queues and admission -/

/-- Queue states (R141); an ABSENT queue is not listed. -/
inductive QState where
  | active | draining | error
  deriving DecidableEq, Repr

/-- A queue pair of a function (R112, R144). -/
structure Queue where
  /-- R112: 0 to 3,583; as created -/
  num : Nat
  /-- R113: owning function; as created -/
  fn : Nat
  /-- R141; ACTIVE at creation -/
  st : QState
  /-- R142: error_cause; 8 bits; 0 -/
  errorCause : Nat
  /-- R115; as created -/
  sqLog2 : Nat
  /-- R115; as created -/
  cqLog2 : Nat
  /-- R98; as created -/
  vector : Nat
  /-- R118; as created -/
  minor : Nat
  /-- R121: submission head; 16 bits; 0 -/
  sqHead : Nat
  /-- R122: last valid tail; 16 bits; 0 -/
  sqTail : Nat
  /-- R123: last valid head; 16 bits; 0 -/
  cqHead : Nat
  /-- R121: completion tail; 16 bits; 0 -/
  cqTail : Nat
  /-- R136: phase; 1 bit; 1 -/
  phase : Bool
  /-- R142: cq_stopped; 1 bit; 0 -/
  stopped : Bool
  /-- R127: admitted commands that have not ended; 0 -/
  inFlight : Nat
  /-- R127, R142: admitted commands that ended with no completion written, which was refused or stopped; 0 -/
  unwritten : Nat := 0
  /-- R144: admitted; 64 bits; 0 -/
  admitted : Nat
  /-- R144: completed; 64 bits; 0 -/
  completed : Nat
  /-- R116; as created -/
  sqAddr : Nat
  /-- R116; as created -/
  cqAddr : Nat
  /-- R450: INT_CQ_COALESCE.count; 16 bits; 1 -/
  coalCount : BitVec 16
  /-- R450: delay_us; 16 bits; 0 -/
  coalDelay : BitVec 16
  /-- R450: irq_enable; 1 bit; 1 -/
  irqEnable : Bool
  /-- R450: INT_CQ_PENDING; 32 bits; 0 -/
  pendingMsgs : Nat
  /-- R452: r.first; 0 -/
  firstAt : Nat
  /-- R485: deficit; 0 -/
  deficit : Nat
  /-- R493: when the oldest unadmitted entry's doorbell came; 0 -/
  doorbellAt : Nat
  /-- R73: request number of the queue-mode BARRIER that holds admission; none -/
  barrier : Option Nat
  /-- R74: shard-mode barriers not yet completed: request number and shard; none -/
  shardBarriers : List (Nat × Nat)
  deriving DecidableEq, Repr

/-- A command waiting on a reserved queue (R114, R483): its tag. -/
structure Reserved where
  queue : Nat
  tag : Tag
  payload : Bytes
  port : Nat
  deriving DecidableEq, Repr

/-- The admission and egress schedulers (R485, R488, R489). -/
structure Sched where
  /-- R485: round-robin lists of queues, index 2·class plus 1 in the committed round; empty -/
  admLists : List (List Nat) := List.replicate 16 []
  /-- R485: the head of that list has taken its quantum; 0 -/
  admOpen : List Bool := List.replicate 16 false
  /-- R114, R483: commands on reserved queues, oldest first; empty -/
  reserved : List Reserved := []
  /-- R114, R483: tags of forwarded commands that have been admitted and whose work has not begun; empty -/
  taken : List Tag := []
  /-- R485: deficits of reserved queues; empty -/
  reservedDeficit : List (Nat × Nat) := []
  /-- R489: frames waiting, in production order, with their port; empty -/
  egress : List (Nat × Frame) := []
  /-- R489: deficits of (port, queue) sub-queues in cost bytes; empty -/
  egDeficit : List ((Nat × Nat) × Nat) := []
  /-- R489: round-robin order of (port, queue) sub-queues; empty -/
  egOrder : List (Nat × Nat) := []
  /-- R489: sub-queues that have taken their quantum in the visit in progress; empty -/
  egOpen : List (Nat × Nat) := []
  /-- R487, R488: queues on the timing wheel: port, queue, due time; empty -/
  wheel : List (Nat × Nat × Nat) := []
  /-- R481: frames held for an unreachable destination, and since when; empty -/
  heldFrames : List (Nat × Frame) := []
  deriving DecidableEq, Repr

/-! ### Arbiters -/

/-- What a request at an age arbiter is for (R55). -/
inductive Work where
  | mailbox (r : Nat)
  | encode (k : Key)
  | project (k : Key) (shard : Nat)
  | coarse (k : Key) (shard : Nat)
  | level2 (shard opened : Nat)
  | assign (k : Key) (idx : Nat)
  | page (csu : Nat)
  /-- a row read of a Porter slice -/
  | row (tile : Nat) (k : Key) (shard slot : Nat)
  | gather (k : Key)
  /-- journal entries, and home writes, that the write buffer programs of a channel's -/
  | program (channel : Nat)
  | homeWrites (channel : Nat)
  | nearBank (k : Key) (shard list : Nat) (guestbook : Bool)
  | pimStep (k : Key) (step : Nat)
  | rerank (k : Key)
  | forming (k : Key) (shard : Nat)
  | layer (k : Key)
  | expert (k : Key) (expert : Nat)
  | wake (u : UnitId)
  | recovery (domain : Nat)
  /-- background work: its tag kind (Table: tag kinds), and the list, block or stack it works on -/
  | upkeep (kind : Nat) (target : Nat)
  deriving DecidableEq, Repr

/-- A waiting request (R55): its requester index, arrival stamp, background and rebuild marks. -/
structure ArbReq where
  requester : Nat
  at_ : Nat
  background : Bool
  rebuild : Bool
  work : Work
  deriving DecidableEq, Repr

/-- Per-requester counters (R59). -/
structure ArbStat where
  requester : Nat
  grants : Nat
  waitTotal : Nat
  waitMax : Nat
  deriving DecidableEq, Repr

/-- One age arbiter (R55 to R60). Arbiters with no request yet are not listed and read as `Arb.fresh`. -/
structure Arb where
  /-- R59: arbiter_id -/
  id : Nat
  /-- R59: requester granted or parked; no reset value: DESIGN CHOICE 0 (log 4) -/
  owner : Nat := 0
  /-- R56: a locked sequence is in progress; 0 -/
  locked : Bool := false
  /-- R55: the grant in force; none -/
  granted : List ArbReq := []
  /-- R55: waiting requests in arrival order; empty -/
  waiting : List ArbReq := []
  /-- R59: live counters; empty reads 0 -/
  stats : List ArbStat := []
  /-- R61: time of the last grant; 0 -/
  lastGrant : Nat := 0
  /-- R217: time the last grant ended; 0 -/
  idleAt : Nat := 0
  /-- R40: start of the current 10 ms window; 0 -/
  windowStart : Nat := 0
  /-- R40: time background grants have held in this window; 0 -/
  bgHeld : Nat := 0
  /-- R559: the same by activity (Table: background shares); empty -/
  bgBy : List (Nat × Nat) := []
  /-- R560: time rebuild grants have held in this window; 0 -/
  rbHeld : Nat := 0
  /-- R40: cost bytes sent in this window; fabric ports (0x0100 + port, R582) only; 0 -/
  sent : Nat := 0
  /-- R581: counters that no register read clears, for telemetry differences; empty -/
  totals : List ArbStat := []
  deriving DecidableEq, Repr

/-! ### Requests at the origin -/

/-- A member as the origin holds it (R264, R537). -/
structure OMember where
  msg : MemberMsg
  outcome : Option Outcome
  delivered : Bool
  queried : Bool
  deriving DecidableEq, Repr

/-- What an admitted request has become at its origin. -/
inductive Body where
  | fresh
  | search (p : SearchParams) (answers : List (Nat × ShardAnswer)) (got : List Answer) (due : Nat)
  | mutation (members : List OMember)
  | barrierQ
  | barrierShard (sent : Bool)
  | flush (stamps : List (Nat × Nat)) (all : Bool) (waiting : List Nat) (count shards : Nat)
  | gatherWait
  | run (handle : Nat)
  | train
  | pim
  deriving DecidableEq, Repr

/-- What the coordinator's merge holds (R247): T0, T1 and T3 bytes charged to the issuing function, the pool, the detail of the
refusal. -/
structure MergeSpace where
  t0 : Nat := 0
  t1 : Nat := 0
  t3 : Nat := 0
  pool : Option Nat := none
  refused : Option Nat := none
  /-- R500: the pool that held it is lost, and it could not be taken again -/
  lost : Bool := false
  deriving DecidableEq, Repr

/-- An outstanding request of this node (R47, R126). -/
structure Req where
  num : Nat
  fn : Nat
  qosClass : Nat
  queue : Nat
  cmdId : Nat
  opcode : Nat
  collection : Nat
  entry : Bytes
  /-- R441: the function's rights to the collection when the command was admitted -/
  rights : Nat
  /-- R132: the collection existed then -/
  collOk : Bool
  admittedAt : Nat
  seq : Nat
  body : Body
  /-- R247: space of the coordinator merge; none held -/
  merge : MergeSpace := {}
  deriving DecidableEq, Repr

/-! ### Readers and shards -/

/-- Who holds a read stamp (R281). -/
inductive ReaderId where
  | req (k : Key)
  | maint (list : Nat)
  | formation
  | move
  | regen
  deriving DecidableEq, Repr

/-- What waits at a ledger arbiter (R65): a member, a search share's query, another reader or the switch of what that reader holds
its cut for, or the switch of a slot's row that moves. The last two pass in the row that brings them, when their turn has come. -/
inductive LedgerWhat where
  | member (k : Key) (idx : Nat)
  | search (k : Key)
  | barrier (k : Key)
  | pass (r : ReaderId)
  | row (slot : Nat)
  deriving DecidableEq, Repr

/-- A move of a shard (R323). -/
structure Move where
  to_ : Nat
  cut : Nat
  step : Nat
  deriving DecidableEq, Repr

/-- A shard this node owns (R149). -/
structure Shard where
  id : Nat
  coll : Nat
  /-- R149: node-local ledger index -/
  ledger : Nat
  /-- R64: 64-bit counter; 1 at creation -/
  counter : Nat
  stage : Stage
  /-- R154: the formation switch stamp; none -/
  switchW : Option Nat
  /-- R153: training of the formation is running -/
  training : Bool
  /-- R153: sample cut of the formation -/
  sampleCut : Nat
  /-- R153 step 4, R272: the cut of the list versions once they are written -/
  formCut : Option Nat
  /-- the formation buffer is still held (R153 step 6) -/
  buffer : Bool
  l : Nat
  l2 : Nat
  l1 : Nat
  /-- R171: level-1 centroids, and their squared norms before quantisation; empty until formed -/
  centroids : List (List QGroup)
  centroidNorms : List Int
  /-- R153: the rows of the trained projection, elements in units of 2^-149; empty until formed and where P equals D -/
  matrix : List (List Int)
  slots : List Slot
  hist : List Hist
  tombs : List Tomb
  readers : List (ReaderId × Nat)
  /-- R65: what waits at the ledger arbiter, with its arrival time, oldest first -/
  waiting : List (Nat × LedgerWhat)
  /-- R302: identifiers held against other mutations -/
  holds : List Nat
  /-- R292: visible records and lists when the mean list length was last computed; no lists before the first tick -/
  meanRecords : Nat
  meanLists : Nat
  /-- R292: when it was last computed; 0 -/
  lenAt : Nat
  /-- R153, R156: T1 bytes of the formation buffer held after the switch; 0 -/
  bufBytes : Nat
  move : Option Move
  /-- R323 step 6: requests are forwarded to this node -/
  forwardTo : Option Nat
  lost : Bool
  /-- R576: cut of the regeneration running -/
  regen : Option Nat
  deriving DecidableEq, Repr

/-! ### Owner-side work -/

/-- Where a member is on its owner node (R33). -/
inductive MStage where
  | resolved | level2 | assigned | waitGuestbook | waitTable | waitFormation | waitSplit | waitIdentifier | waitJournal | ready | atLedger
  | stamped | finished
  deriving DecidableEq, Repr

/-- A member on its owner node. -/
structure MWork where
  msg : MemberMsg
  slot : Option Nat
  row : Option Row
  scan : Option ScanRec
  delta : Option (List Int × List (Nat × Int))
  /-- R267: the level-1 centroid kept -/
  l1 : Nat
  lists : List Nat
  stage : MStage
  since : Nat
  stamp : Nat
  journaled : Bool
  /-- R412: T1 and T2 bytes charged for the member's row and map entry -/
  t1 : Nat
  t2 : Nat
  deriving DecidableEq, Repr

/-- A seat list (R231) with its floor counter (R233) and offer counter (R228). -/
structure SeatList where
  source : Nat
  cap : Nat
  entries : List Cand
  floorCount : Nat
  offers : Nat
  deriving DecidableEq, Repr

/-- Stages of a shard's part of a search (R31). -/
inductive SStage where
  | waitStamp | project | coarse | level2 | seat | boarded | done
  deriving DecidableEq, Repr

/-- A share's work on one shard. -/
structure SShard where
  shard : Nat
  stamp : Nat
  forming : Bool
  stage : SStage
  since : Nat
  l1 : List Nat
  probe : List Nat
  skipped : Nat
  flash : List (Nat × Nat)
  cached : List Nat
  seat : Nat
  lists : List SeatList
  /-- list and channel parts still to be read -/
  flashLeft : List Nat
  /-- near-bank parts still to be scored: list, guestbook -/
  nearLeft : List (Nat × Bool)
  /-- near-bank offers waiting for the order of R205 -/
  nearOffers : List ((Bool × Nat) × ScanRec × Nat)
  covered : List Nat
  degraded : Bool
  short : Bool
  deriving DecidableEq, Repr

/-- A search share on this owning node (R29, R245): the T0, T1 and T3 bytes it holds, its pool. -/
structure Share where
  msg : ShareMsg
  arrivedAt : Nat
  shards : List SShard
  t0 : Nat
  t1 : Nat
  t3 : Nat
  pool : Option Nat
  rerunDone : Bool
  merged : Option (List Cand)
  dups : Nat
  missing : Nat
  /-- R242: rows still to arrive, by shard and slot; those lost or missing -/
  rows : List (Nat × Nat)
  /-- R234, R236: overflow buffer or spill area of the query; its threshold; its last pass is over -/
  overBuf : List Cand
  threshold : Option Int
  final : Bool
  /-- R234: the threshold before the last pass, which a source keeps until the new one arrives, and when that pass ended -/
  prior : Option Int := none
  passedAt : Nat := 0
  /-- R250: the cuts of the steps that ranked by final score: score and candidates dropped at it -/
  cuts : List (Int × Nat)
  /-- R614: the share failed with this status and detail -/
  failure : Option (Nat × Nat)
  /-- R500: rows lost in a pool were met in a re-rank that is rerun -/
  lostRows : Bool
  deriving DecidableEq, Repr

/-- An itinerary entry (R201, R202): CSU, list, version epoch, mask as the seats whose bit is set. -/
structure ItinEntry where
  csu : Nat
  list : Nat
  epoch : Nat
  mask : List Nat
  deriving DecidableEq, Repr

/-- A coach (R196): shard, seats in boarding order with their passengers and functions, deadline, itinerary; passengers taken off it
whose seats are vacated at the next list boundary (R54). -/
structure Coach where
  id : Nat
  shard : Nat
  seats : List (Nat × Key × Nat)
  deadline : Nat
  itin : List ItinEntry
  departed : Bool
  leaving : List Key := []
  deriving DecidableEq, Repr

/-- A coach running on a CSU: entries left, page position within the first, the array of each row tile (R183, R184). -/
structure CsuRun where
  coach : Nat
  left : List ItinEntry
  page : Nat
  arrays : List Nat
  deriving DecidableEq, Repr

/-- A channel scoring unit (R189, R203). -/
structure Csu where
  queue : List Nat := []
  runs : List CsuRun := []
  holdBack : Bool := false
  paused : Bool := false
  deriving DecidableEq, Repr

/-- A level-2 batch (R186, R187): members that finished level-1 selection, when the first boarded, when the 256th did, and once it is
scored by near-bank units the stacks whose blocks are still to be scored. -/
structure L2Batch where
  shard : Nat
  queries : List Key
  inserts : List (Key × Nat)
  openedAt : Nat
  fullAt : Option Nat := none
  left : Option (List Nat) := none
  deriving DecidableEq, Repr

/-! ### Collections, models, pools -/

/-- State of a collection (R178). -/
inductive CState where
  | creating | active | dropping
  deriving DecidableEq, Repr

/-- A collection this node has recorded (R615). -/
structure Coll where
  spec : CollSpec
  st : CState
  /-- R428: compression on -/
  compress : Bool
  /-- R416: vector store placement, none T2 or some pool -/
  placement : Option Nat
  /-- R416: times of the row reads of the last 24 h -/
  readTimes : List Nat
  /-- R416: when the collection was recorded, or its placement last changed -/
  since : Nat
  /-- R440, R442: rights of functions on this node: function, 6 bits -/
  rights : List (Nat × Nat)
  /-- R100: shards set up by this node's tail so far -/
  setUp : List Nat
  /-- R100: an owner failed the set-up -/
  setupFailed : Option (Nat × Nat)
  nextModel : Nat
  /-- R266: running maximum of absolute values per group index of its rows in this 10 s, in units of 2^-149; empty -/
  peaks : List Int := []
  /-- R266: when this 10 s began; 0 -/
  peaksFrom : Nat := 0
  deriving DecidableEq, Repr

/-- A tensor descriptor (R338). -/
structure Tensor where
  tensor : Nat
  layer : Nat
  expert : Nat
  kind : Nat
  format : Nat
  group : Nat
  placement : Nat
  flags : Nat
  rows : Nat
  cols : Nat
  dataOffset : Nat
  dataLength : Nat
  deriving DecidableEq, Repr

/-- Model states (R339). -/
inductive ModelState where
  | loading | ready | absent
  deriving DecidableEq, Repr

/-- A model (R334). -/
structure Model where
  id : Nat
  coll : Nat
  fn : Nat
  st : ModelState
  header : Bytes
  tensors : List Tensor
  parts : List (Nat × Bytes)
  lastPart : Nat
  resident : Bool
  /-- R340: stamps at which READY and absent became visible, per shard -/
  readyAt : List (Nat × Nat)
  absentAt : List (Nat × Nat)
  t1 : Nat
  t2 : Nat
  /-- R345: the window: held by a run, and when the last run ended; its T1 charge and payer -/
  windowBy : Option Nat
  windowAt : Option Nat
  windowT1 : Nat
  windowFn : Nat
  /-- R370: request holding the trainer, and those waiting -/
  trainer : Option Nat
  trainWait : List Nat
  /-- R369, R373: examples accumulated since the last clear; stamp of the last training switch; that of the durable weights -/
  accumulated : Nat
  version : Nat
  durable : Nat
  /-- R349: experts cached in T1, least recently routed first: layer, expert, bytes, function charged -/
  expertCache : List (Nat × Nat × Nat × Nat)
  degraded : Bool
  deriving DecidableEq, Repr

/-- Where a run stands in its layer (R37, R348, R363): its other tensors and router are to run; its tokens are routed, and those of
the other nodes are to come; its experts run; their outputs come back. -/
inductive RunStage where
  | compute | exchange | experts | combine
  deriving DecidableEq, Repr

/-- A model run or training step in progress (R356, R369). -/
structure Run where
  num : Nat
  coll : Nat
  model : Nat
  train : Bool
  /-- R347, R370: it waits for the window or the trainer -/
  waiting : Bool
  /-- the layer in progress, the number of layers for the tensors of no layer; R346: its segment -/
  layer : Nat
  segment : Nat
  stage : RunStage
  /-- R348: the step in progress -/
  step : Nat
  /-- R348: whether the first step, and whether the later ones stream routed experts only -/
  routed : Bool
  routedLater : Bool
  /-- R357, R363: of each sequence whether it is at home here, its input tokens, and the tokens it will have generated -/
  seqs : List (Bool × Nat × Nat)
  /-- R37: the window's slots in use, two at most: layer and segment, and whether it is complete on every channel -/
  slots : List ((Nat × Nat) × Bool)
  /-- R355: a step has run on the near-bank units -/
  nearBank : Bool
  /-- R384: stacks on which broadcasts of the stage in progress are still to come, and how many; none before they are asked for -/
  left : Option (List (Nat × Nat))
  /-- R352: tokens routed to experts of this node: token, expert -/
  routes : List (Nat × Nat)
  /-- R353: tokens, by node and number, in blocks by expert -/
  blocks : List (Nat × List (Nat × Nat))
  /-- R348: routed experts whose share is not complete -/
  waitingExperts : List Nat
  /-- R363: what has come from the other nodes: node, layer -/
  inbox : List (Nat × Nat × Exchange)
  /-- R358: stream_mode of the output header -/
  mode : Nat
  t0 : Nat
  segmented : Bool
  due : Nat
  /-- R371, R374: the examples in the accumulator before the step -/
  prior : Nat
  /-- R361: the handle kept, 0 for none -/
  handle : Nat
  readStamp : Nat
  /-- R362: header and outputs once computed, while the members delivered have no outcome -/
  output : Bytes
  tokensOut : Nat
  /-- R371: non-finite values met -/
  nonFinite : Nat
  deriving DecidableEq, Repr

/-- A `PIM-EXEC` region (R383): frame index, function, contents. -/
structure Region where
  idx : Nat
  fn : Nat
  mem : Mem
  deriving DecidableEq, Repr

/-- A step of a PIM-EXEC run (R395). -/
structure PimStep where
  op : Nat
  flags : Nat
  fmt : Nat
  count : Nat
  mask : Nat
  a : Nat
  b : Nat
  r : Nat
  len : Nat
  item : Nat
  buf : Nat
  extent : Nat
  deriving DecidableEq, Repr

/-- A PIM-EXEC run in progress (R390): steps left, step index, stacks and broadcasts still to run. -/
structure PimRun where
  num : Nat
  steps : List PimStep
  idx : Nat
  left : List (Nat × Nat)
  input : Bytes
  bcasts : Nat
  held : Nat
  reduced : List (BitVec 32)
  /-- R397: stack and number of every unit that an uncorrectable error has affected -/
  struck : List (Nat × Nat)
  hostOut : Bool
  hostCq : Bool
  deriving DecidableEq, Repr

/-- Pool states (R495). -/
inductive PoolState where
  | attaching | attached | detaching | lost
  deriving DecidableEq, Repr

/-- A pool (R495). -/
structure Pool where
  id : Nat
  kind : Nat
  routing : Nat
  bar : Nat
  size : Nat
  capTib : Nat
  st : PoolState
  returnData : Bool
  used : Nat
  short : Bool
  relayed : Bool
  lastProbe : Nat
  quiescedAt : Option Nat
  /-- R500: when the pool was lost; 0 -/
  lostAt : Nat := 0
  deriving DecidableEq, Repr

/-! ### Flash and the write buffer -/

/-- Whose journal entry it is. -/
inductive JKind where
  | member (k : Key) (idx : Nat)
  | nodeRecord
  | switch (shard : Nat)
  deriving DecidableEq, Repr

/-- Where a write buffer entry is (R430). -/
inductive JPhase where
  | waiting | programming | programmed | homed
  deriving DecidableEq, Repr

/-- What a member's journal entry holds beside its header's stamp (R287): kind, identifier, slot, lists, scan records, the refinement
record or the accumulate's delta. -/
structure JRecord where
  what : MemberKind
  id : Nat
  slot : Option Nat
  lists : List Nat
  scans : List ScanRec
  row : Option Row
  delta : Option (List Int × List (Nat × Int))
  deriving DecidableEq, Repr

/-- A journal entry (R287, R430, R431). Stamp 0: not stamped; `void`: never will be. -/
structure JEntry where
  seq : Nat
  kind : JKind
  shard : Nat
  stamp : Nat
  void : Bool
  bytes : Nat
  channel : Nat
  phase : JPhase
  inBuffer : Bool
  at_ : Nat
  /-- R431: a checkpoint was completed after its home writes, folds and tombstones were done -/
  saved : Bool
  /-- R287: a member's records -/
  record : Option JRecord := none
  /-- R575: its journal page is lost -/
  pageLost : Bool := false
  deriving DecidableEq, Repr

/-- A flash block under maintenance (R424): reads since its last program, when last scanned. -/
structure Block where
  block : Nat
  reads : Nat
  cycles : Nat
  valid : Nat
  scannedAt : Nat
  bad : Bool
  softAt : List Nat
  deriving DecidableEq, Repr

/-- A flash channel (R418, R432). -/
structure Channel where
  /-- R424: blocks with a history; empty -/
  blocks : List Block := []
  /-- R432: erased journal reserve in bytes; 8 MiB -/
  reserve : Nat := 8388608
  /-- R419: reserved blocks left; 3,072 -/
  reservedBlocks : Nat := 3072
  /-- R424: grown bad blocks; 0 -/
  grownBad : Nat := 0
  /-- R564: spare die left; 1 -/
  spareDie : Bool := true
  /-- R567: dies lost beyond the spare; 0 -/
  diesLost : Nat := 0
  /-- R419: over-provisioning left in GiB; 320 -/
  overProv : Nat := 320
  /-- R419, R422: free blocks of 32 MiB for user data with its parity; 3,776 GiB (log 47) -/
  freeBlocks : Nat := 120832
  /-- R422: bytes in the open blocks; 0 -/
  openBytes : Nat := 0
  /-- R582: parity rebuilds; 0 -/
  rebuilds : Nat := 0
  /-- R569: the channel is offline; 0 -/
  offline : Bool := false
  /-- R432: erases suspended by Doldrums; 0 -/
  suspended : Bool := false
  deriving DecidableEq, Repr

/-- Tiers, caches, write buffer and flash (R405 to R435). -/
structure Tier where
  /-- R420, R424: channels 0 to 31 -/
  channels : List Channel := List.replicate 32 {}
  /-- R287, R430: journal entries not retired, oldest first; empty -/
  journal : List JEntry := []
  /-- next journal sequence number; 0 -/
  nextSeq : Nat := 0
  /-- R423: counters in the newer complete checkpoint: shard, counter; empty -/
  checkpoint : List (Nat × Nat) := []
  /-- R431: next sequence number at the time of the newest checkpoint; 0 -/
  checkpointSeq : Nat := 0
  /-- R423: time of the last checkpoint; 0 -/
  checkpointAt : Nat := 0
  /-- R423: which of the two copies is the newer; 0 -/
  checkpointCopy : Bool := false
  /-- R408: hot-list cache hits and row cache hits in this 60 s; 0 -/
  hotHits : Nat := 0
  rowHits : Nat := 0
  /-- R408: percent of the cache space given to hot lists; no value given: DESIGN CHOICE 50 (log 5) -/
  hotShare : Nat := 50
  /-- R408: last division; 0 -/
  rebalancedAt : Nat := 0
  /-- R410: row cache: shard, slot, last read; empty -/
  rowCache : List (Nat × Nat × Nat) := []
  /-- R410: rows read once within 60 s: shard, slot, when; empty -/
  rowSeen : List (Nat × Nat × Nat) := []
  /-- R407: T1 bytes wanted by allocations waiting for eviction; 0 -/
  t1Wanted : Nat := 0
  /-- R173: list identifiers freed, oldest first; empty -/
  freeLists : List Nat := []
  /-- R173: next list identifier never used; 0 -/
  nextList : Nat := 0
  /-- R258: next slot number never used; 0 -/
  nextSlot : Nat := 0
  /-- R258: slot numbers freed; empty -/
  freeSlots : List Nat := []
  /-- R421: where the rotation of row pages over the channels is; 0 -/
  rowTurn : Nat := 0
  /-- R424, R575: pages rebuilt or lost, lists degraded are per list -/
  lostRows : Nat := 0
  lostVectors : Nat := 0
  /-- R321: row migrations abandoned after 8 passes; 0 -/
  abandoned : Nat := 0
  deriving DecidableEq, Repr

/-! ### Always-on domain, boot, pins -/

/-- An event log entry (R558); `detail` is bytes 16 to 31. -/
structure LogEntry where
  time : Nat
  entry : Nat
  cls : Nat
  code : Nat
  detail : Bytes
  deriving DecidableEq, Repr

/-- Boot stages of the node (R540). -/
inductive BootStage where
  | off | inReset | waitBme | serving | recovery | shutdown
  deriving DecidableEq, Repr

/-- An image slot (R546, R107). -/
structure ImgSlot where
  /-- slot_state: 0 empty, 1 staging, 2 verified, 3 pending -/
  st : Nat
  image : Bytes
  deriving DecidableEq, Repr

/-- OTP (R548): four key slots (present, digest, revoked), the minimum security version, the debug key digest. -/
structure Otp where
  keys : List (Bool × Bytes × Bool)
  minSecurity : Nat
  debugKey : Bytes
  deriving DecidableEq, Repr

/-- Option block fields in force (R543). -/
structure Options where
  tileEnable : Nat := 0x0F
  portEnable : Nat := 0xFF
  channelEnable : Nat := 0xFFFFFFFF
  powerCap : Nat := 1500
  gustBudget : Nat := 10
  perstScope : Nat := 0
  bootPolicy : Nat := 0
  bootAttempts : Nat := 3
  debugLock : Nat := 0
  sparePolicy : Nat := 0
  compressDefault : Nat := 0
  fabricRole : Nat := 0x3000
  deriving DecidableEq, Repr

/-- The AO domain and boot (R71, R546 to R558). -/
structure Ao where
  /-- R71: AO_LOCAL_COUNT; 64 bits; 0 -/
  now : Nat := 0
  /-- R556: cause; 8 bits; 0x01 after AO power-on -/
  cause : BitVec 8 := 0x01
  /-- R556: prior; 8 bits; 0 after cold -/
  prior : BitVec 8 := 0
  /-- R556: node_resets; 16 bits, saturating; 0 -/
  nodeResets : Nat := 0
  /-- R556: slot; 1 bit; per boot: A -/
  slotB : Bool := false
  /-- R556: fallback; 1 bit; 0 -/
  fallback : Bool := false
  /-- R556: attempts; 3 bits; 0 -/
  attempts : Nat := 0
  /-- R556: option_source; 2 bits; per boot -/
  optionSource : Nat := 0
  /-- R556: masks_substituted; 1 bit; per boot -/
  masksSubstituted : Bool := false
  /-- R556: boots; 32 bits; 0 until the start-up counts itself -/
  boots : Nat := 0
  /-- R536: AO_EPOCH; 64 bits; drawn at step 2 -/
  epoch : BitVec 64 := 0
  /-- R539: AO_WATCHDOG remaining, AO ticks; 16,000 ms -/
  watchdog : Nat := 400000000
  /-- R539: the watchdog runs; 0 -/
  watchdogOn : Bool := false
  /-- R558: event log, oldest first, at most 2,048; empty -/
  log : List LogEntry := []
  /-- R556: next_entry; 32 bits; 0 -/
  nextEntry : Nat := 0
  /-- R588: entries below this number are acknowledged by GET-LOG; 0 -/
  ackedTo : Nat := 0
  /-- R540: where start-up stands; off until the input is good -/
  stage : BootStage := .off
  /-- R532: rank of the reset in progress: 3 cold, 2 node; 0 none -/
  resetRank : Nat := 0
  /-- R533: when the reset in progress began -/
  resetAt : Nat := 0
  /-- R540: the PF's ready has been set since the start-up began -/
  readySeen : Bool := false
  /-- R543: the option block in force -/
  opt : Options := {}
  /-- R546: option block copy A as programmed: DESIGN CHOICE empty, invalid (log 6) -/
  optA : Bytes := []
  /-- R546: copy B -/
  optB : Bytes := []
  /-- R546: slot A: DESIGN CHOICE a verified active image is present (log 6) -/
  slotA : ImgSlot := ⟨2, []⟩
  /-- R546: slot B: empty -/
  slotBImg : ImgSlot := ⟨0, []⟩
  /-- R546: the active slot is B; 0 -/
  activeB : Bool := false
  /-- R548: OTP: DESIGN CHOICE key slot 0 present, none revoked, minimum 0 (log 6) -/
  otp : Otp := ⟨[(true, [], false), (false, [], false), (false, [], false), (false, [], false)], 0, []⟩
  /-- R546: certificate store: identity and CA certificates -/
  certs : Bytes × Bytes := ([], [])
  /-- R555: running digest of guest images booted -/
  guestChain : Bytes := List.replicate 64 0
  /-- R547, R555: bytes 0 to 2,047 of the header of the image running; per boot -/
  header : Bytes := []
  /-- R554, R555: digests of components 1 to 4, measured at step 5; per boot -/
  measured : List Bytes := []
  /-- R555: the node record as measured at step 8 -/
  recordDigest : Bytes := []
  /-- R555: debug session open; 0 -/
  debugOpen : Bool := false
  deriving DecidableEq, Repr

/-- The pins (R585, R588) and the sideband endpoint (R601, R602). True is the high level. -/
structure Pins where
  /-- R588; released -/
  alertN : Bool := true
  /-- R527; released -/
  thermN : Bool := true
  /-- R591; released -/
  wakeN : Bool := true
  /-- R591: when WAKE_N was asserted; 0 -/
  wakeAt : Nat := 0
  /-- R533: RESET_N driven low by the node; released -/
  resetDriven : Bool := false
  /-- R533: level of RESET_N; RST_STATUS gives no reset value: DESIGN CHOICE high (log 4) -/
  resetN : Bool := true
  /-- R588: level of PERST_N; DESIGN CHOICE high (log 4) -/
  perstN : Bool := true
  /-- R519: PWR_BRAKE_N level; high -/
  brakeN : Bool := true
  /-- R592: CLKREQ_N released in cold reset; true -/
  clkreqN : Bool := true
  /-- R599: the host link's reference is REFCLK, else the crystal; chosen at step 10: DESIGN CHOICE false (log 4) -/
  refclkUsed : Bool := false
  /-- R588: PRSNT_N; low while seated -/
  prsntN : Bool := false
  /-- R590: SLOT_ID straps; open pins read 1: 15 -/
  slotId : Nat := 15
  /-- R601: I3C dynamic address; none after cold -/
  i3cAddr : Option Nat := none
  /-- R602: MCTP endpoint identifier; none assigned: DESIGN CHOICE 0 (log 4) -/
  eid : Nat := 0
  /-- R604: platform events pending: sensor, reading; empty -/
  platform : List (Nat × Nat) := []
  /-- R436: the host link has been released into Detect; 0 -/
  linkDetect : Bool := false
  /-- R538: configuration requests get Request Retry Status; 0 -/
  crs : Bool := false
  /-- R437: VF Enable; 0 -/
  vfEnable : Bool := false
  /-- R437: NumVFs; 0 -/
  numVfs : Nat := 0
  /-- R540: the PF's Bus Master Enable; 0 -/
  bme : Bool := false
  deriving DecidableEq, Repr

/-! ### Power -/

/-- Power states (R506). -/
inductive PState where
  | gale | breeze | lull | calm
  deriving DecidableEq, Repr

/-- How a unit stands (R512). -/
inductive UState where
  | ready | gated | waiting | waking
  deriving DecidableEq, Repr

/-- A unit that can gate (R512). -/
structure PUnit where
  unit : UnitId
  st : UState
  idleSince : Nat
  deriving DecidableEq, Repr

/-- Hot-swap switch states (R593). -/
inductive HotSwap where
  | open_ | charging | closed | openOvervoltage | openCurrent
  deriving DecidableEq, Repr

/-- Power, supply and temperature (R503 to R530). -/
structure Power where
  /-- R506; 2 bits; Breeze -/
  st : PState := .breeze
  /-- R522; 1 bit; 0 -/
  doldrums : Bool := false
  /-- when Doldrums was entered -/
  doldrumsAt : Nat := 0
  /-- R521: start of the release hold; none -/
  hold : Option Nat := none
  /-- R519: brake profile steps still applied, 0 lifted; 0 -/
  brake : Bool := false
  /-- R519: arithmetic and core clock demand of the brake in MHz; maximum -/
  brakeArith : Nat := 2400
  brakeCore : Nat := 3000
  /-- R519: last step of lifting the brake profile; 0 -/
  brakeAt : Nat := 0
  /-- R523: last step of lifting the Doldrums profile; 0 -/
  dolAt : Nat := 0
  /-- R518, R526: times of the last 1 ms samples of power and temperature; 0 -/
  capAt : Nat := 0
  thAt : Nat := 0
  /-- R517: Doldrums demand in MHz; maximum -/
  dolArith : Nat := 2400
  dolCore : Nat := 3000
  /-- R518: cap demand; maximum -/
  capArith : Nat := 2400
  capCore : Nat := 3000
  /-- R518: since when the average is below the cap minus 50 W; none -/
  capBelow : Option Nat := none
  /-- R526: thermal demand; maximum -/
  thArith : Nat := 2400
  thCore : Nat := 3000
  /-- R526: since when every junction is at or below 100 °C; none -/
  thBelow : Option Nat := none
  /-- R526: last step up -/
  thStepAt : Nat := 0
  /-- R526: tiles (4 is the hub) whose arrays are paused above 108 °C; none -/
  hotTiles : List Nat := []
  /-- R530: PWR_INPUT; no reset value: DESIGN CHOICE 0 (log 4) -/
  inputMv : Nat := 0
  inputMa : Nat := 0
  inputW : Nat := 0
  /-- R526: junction temperatures: tiles 0 to 3, hub, stacks, optics; DESIGN CHOICE 0 (log 4) -/
  junctions : List Nat := [0, 0, 0, 0, 0, 0, 0]
  /-- R528: inlet temperature; DESIGN CHOICE 0 (log 4) -/
  inletC : Nat := 0
  /-- R528: since when the inlet exceeds 40 °C; none -/
  inletSince : Option Nat := none
  /-- R530: PWR_EVENTS; 6 bits; 0 -/
  events : BitVec 6 := 0
  /-- R530: live gust counters: waits, total, longest; 0 -/
  gustWaits : Nat := 0
  gustTotal : Nat := 0
  gustMax : Nat := 0
  /-- R530: captured total and longest; 64 bits; 0 -/
  gustTotalCap : Nat := 0
  gustMaxCap : Nat := 0
  /-- R530: PWR_DOLDRUMS.entries, last_ms; 32 bits each; 0 -/
  entries : Nat := 0
  lastMs : Nat := 0
  /-- R512: units that are not simply ready; empty -/
  units : List PUnit := []
  /-- R506: when Lull was entered -/
  lullAt : Nat := 0
  /-- R509: ticks spent in Lull and Calm before; 0 -/
  rested : Nat := 0
  /-- R509: the node left Lull or Calm for maintenance and has not been back; 0 -/
  maintWake : Bool := false
  /-- R508: cores saved to DRAM; 0 -/
  coresSaved : Bool := false
  /-- R507: time a frame other than idles last crossed a port; 0 -/
  frameAt : Nat := 0
  /-- R593: the hot-swap switch; open -/
  swap : HotSwap := .open_
  deriving DecidableEq, Repr

/-! ### Fabric -/

/-- Port states (R492). -/
inductive PortState where
  | dark | training | up | narrow | conflict | kept | down
  deriving DecidableEq, Repr

/-- A fabric port (R469, R492). -/
structure Port where
  /-- R492; 3 bits; DARK -/
  st : PortState := .dark
  /-- R492; 4 bits; 0 -/
  width : Nat := 0
  /-- R492; 1 bit; 1 -/
  spareFree : Bool := true
  /-- transmit spare unused (R564 counts both directions); 1 -/
  txSpareFree : Bool := true
  /-- R492; 12 bits; 0 -/
  neighbour : Nat := 0
  /-- R492; 3 bits; 0 -/
  neighbourPort : Nat := 0
  /-- R492; 1 bit; 0 -/
  resting : Bool := false
  /-- R472: a hello has been received; 0 -/
  known : Bool := false
  /-- R492; 9 bits; 0x0FF -/
  rxInUse : BitVec 9 := 0x0FF
  /-- R492; 9 bits; 0 -/
  rxFailed : BitVec 9 := 0
  /-- R492; 9 bits; 0x0FF -/
  txInUse : BitVec 9 := 0x0FF
  /-- R492; 9 bits; 0 -/
  txFailed : BitVec 9 := 0
  /-- R492; 16 bits; 0 -/
  retries : BitVec 16 := 0
  /-- R492; 16 bits; 0 -/
  tagDiscards : BitVec 16 := 0
  /-- R492; 16 bits; 0 -/
  uncorrectable : BitVec 16 := 0
  /-- R492; 8 bits; 0 -/
  swaps : BitVec 8 := 0
  /-- R492; 8 bits; 0 -/
  retrains : BitVec 8 := 0
  /-- R492; 32 bits; 0 -/
  worstBer : BitVec 32 := 0
  /-- R492; 4 bits; 0 -/
  worstLane : BitVec 4 := 0
  /-- R492; 64 bits; 0 -/
  txBytes : BitVec 64 := 0
  /-- R492; 64 bits; 0 -/
  rxBytes : BitVec 64 := 0
  /-- R492; 64 bits; 0 -/
  creditWait : BitVec 64 := 0
  /-- R476: credits held per channel, units of 64 bytes; 2,048 -/
  credits : List Nat := [2048, 2048, 2048, 2048]
  /-- R492: a frame ready for the port lacks credits, so PORT_CREDIT_WAIT counts; 0 -/
  creditBlocked : Bool := false
  /-- R477: next transmit sequence per channel; 0 -/
  txSeq : List Nat := [0, 0, 0, 0]
  /-- R477: next receive sequence per channel; 0 -/
  rxSeq : List Nat := [0, 0, 0, 0]
  /-- R477: retry buffer, in order; empty -/
  retry : List Frame := []
  /-- R477: times the head frame was refused in a row, per channel; 0 -/
  refused : List Nat := [0, 0, 0, 0]
  /-- R559: last equaliser setting; DESIGN CHOICE 0 (log 4) -/
  equaliser : Nat := 0
  /-- R559: last link adaptation; 0 -/
  adaptAt : Nat := 0
  /-- R471: retraining began; 0 -/
  trainAt : Nat := 0
  /-- R483: channel 0 credits withheld while a reserved queue is full, units of 64 bytes; 0 -/
  owed : Nat := 0
  deriving DecidableEq, Repr

/-- A peer node as last seen (R536). -/
structure Peer where
  node : Nat
  epoch : Nat
  /-- R480: route mask; 8 bits -/
  route : BitVec 8
  /-- R480, R482: ports whose last hello of the peer marked it resting; 8 bits -/
  rest : BitVec 8
  /-- R578: since when the route mask is empty -/
  downSince : Nat
  /-- R615: it has been sent the collections created here before it was first seen; 0 -/
  told : Bool := false
  deriving DecidableEq, Repr

/-! ### Arrays, spares, recoveries -/

/-- An array (R215): 0 to 71 coarse, 128 + 3c + i for array i of CSU c (R582). -/
structure Arr where
  arr : Nat
  /-- 0 in use, 1 stand-in, 2 calibrating, 3 retired -/
  st : Nat
  calibratedAt : Nat
  errorPpm : Nat
  /-- R215: when the calibration under way began; 0 -/
  startedAt : Nat := 0
  /-- R181: which free values are its offset trims, and which its gain trims; 0 -/
  trims : Nat := 0
  gains : Nat := 0
  /-- R181: when the gains were last tracked; 0 -/
  trackedAt : Nat := 0
  /-- R181: its ADC reference is for nibble input, else for 4-bit input; false -/
  nibble : Bool := false
  /-- R181: the junction temperature its bias is set for; 0 -/
  bias : Nat := 0
  /-- R217: when a coach last left it; 0 -/
  idleAt : Nat := 0
  deriving DecidableEq, Repr

/-- A recovery (R570): domain, elements, when it last journaled progress. -/
structure Recovery where
  domain : Nat
  elements : List Element
  progressAt : Nat
  running : Bool
  spareTaken : Bool
  restarts : Nat
  deriving DecidableEq, Repr

/-- Spares and faults (R564 to R583). -/
structure Spares where
  /-- R583: spare cores; 2 -/
  cores : Nat := 2
  /-- R563: spare cores in use, 32 and 33, and the places they took; none (255: that spare was replaced in its turn) -/
  corePlaces : List (Nat × Nat) := []
  /-- R15: the service cores; 0 to 3 -/
  service : List Nat := [0, 1, 2, 3]
  /-- R583: spare tensor clusters, tile by tile; one each -/
  clusters : List Nat := [1, 1, 1, 1]
  /-- R583: coarse arrays not in use; 8 -/
  coarse : Nat := 8
  /-- R583: CSUs that have lost their third array; none -/
  csuUsed : List Nat := []
  /-- R583: stacks whose spare die is used; none -/
  dramUsed : List Nat := []
  /-- R564: repair rows used, per stack; none -/
  rowsUsed : List (Nat × Nat) := []
  /-- R569: elements offline; none -/
  offline : List Element := []
  /-- R565: elements failed and waiting for bring_in; none -/
  failed : List Element := []
  /-- R570: recoveries running or waiting; none -/
  recoveries : List Recovery := []
  /-- R185: coarse arrays in use, level-1 arrays first; arrays 0 to 63 -/
  field : List Nat := List.range 64
  /-- R582: arrays with a history; none -/
  arrays : List Arr := []
  /-- R582: corrected and uncorrectable DRAM errors, per stack; none -/
  dramErrors : List (Nat × Nat × Nat) := []
  /-- R391: accesses held by broadcasts and longest hold, per stack; none -/
  heldAccess : List (Nat × Nat × Nat) := []
  /-- R568: resets of an engine within 600 s; none -/
  unitResets : List (EngineId × Nat) := []
  /-- R559: time of the last scrub step; 0 -/
  scrubAt : Nat := 0
  /-- R573: in service stop -/
  serviceStop : Bool := false
  deriving DecidableEq, Repr

/-- SET-CONFIG values held in AO retention (R105, R491, R529, R561). -/
structure Cfg where
  /-- R105: 0x0001; from the option block, shipped 1,500 -/
  powerCap : Nat := 1500
  /-- R105: 0x0002; shipped 10 -/
  gustBudget : Nat := 10
  /-- R105: 0x0003; 2,000 -/
  watchdogMs : Nat := 2000
  /-- R105: 0x0004; 0xFFFFFFFF -/
  alertMask : BitVec 32 := 0xFFFFFFFF
  /-- R105: 0x0005; 0 -/
  readOnlySideband : Bool := false
  /-- R428: 0x0012; from the option block, shipped 0 -/
  compressDefault : Nat := 0
  /-- R491: 0x0020 + c; 4 -/
  admQuantum : List Nat := [4, 4, 4, 4, 4, 4, 4, 4]
  /-- R491: 0x0028 + c; 9,216 -/
  egQuantum : List Nat := [9216, 9216, 9216, 9216, 9216, 9216, 9216, 9216]
  /-- R491: 0x0030; 20 -/
  frameOverhead : Nat := 20
  /-- R529: 0x0040; 20 -/
  lullAfter : Nat := 20
  /-- R529: 0x0041; 0 -/
  calmAfter : Nat := 0
  /-- R529: 0x0042; 0 -/
  galeHold : Bool := false
  /-- R561: 0x0060 flash, 0x0061 stack, 0x0062 tensor, 0x0063 fabric, 0x0064 coarse ceilings; 15, 5, 10, 2, 5 -/
  flashPct : Nat := 15
  stackPct : Nat := 5
  tensorPct : Nat := 10
  fabricPct : Nat := 2
  coarsePct : Nat := 5
  /-- R561: 0x0065; 30 -/
  rebuildPct : Nat := 30
  /-- R561: 0x0066; 24 -/
  scrubHours : Nat := 24
  /-- R561: 0x006A; 3,600 -/
  shardLostAfter : Nat := 3600
  deriving DecidableEq, Repr

/-- Request numbers kept held after a cancellation (R461): the window's first number names the filter. -/
structure HeldNums where
  fn : Nat
  first : Nat
  nums : List Nat
  until_ : Nat
  peers : List Nat
  deriving DecidableEq, Repr

/-- The search engine's structures on this node. -/
structure Engine where
  /-- R29: search shares; empty -/
  shares : List Share := []
  /-- R196: coaches, open and departed; empty -/
  coaches : List Coach := []
  /-- next coach number; 0 -/
  nextCoach : Nat := 0
  /-- R199: the pair that boarded last, per shard; none -/
  lastPair : List (Nat × Nat × Nat) := []
  /-- R189: CSUs 0 to 31 -/
  csus : List Csu := List.replicate 32 {}
  /-- R186: open level-2 batches; empty -/
  batches : List L2Batch := []
  /-- R33: members on this owner node; empty -/
  members : List MWork := []
  /-- internal path: shares, members, outcomes, answers for this node itself; empty -/
  inShares : List ShareMsg := []
  inMembers : List MemberMsg := []
  inOutcomes : List OutcomeMsg := []
  inAnswers : List Answer := []
  /-- R307: Porter row reads, oldest first: tile, share key, shard, slot; empty -/
  porter : List (Nat × Key × Nat × Nat) := []
  /-- R199, R200: seats held at this node by a pair (origin, function); empty -/
  pairSeats : List ((Nat × Nat) × Nat) := []
  /-- R200: T0 and T1 bytes held at this node by peers' pairs; empty -/
  pairT0 : List ((Nat × Nat) × Nat) := []
  pairT1 : List ((Nat × Nat) × Nat) := []
  pairT3 : List ((Nat × Nat) × Nat) := []
  /-- R209: records pruned; 0 -/
  pruned : Nat := 0
  /-- R296: retired edges met; 0 -/
  retiredEdges : Nat := 0
  deriving DecidableEq, Repr

/-- The whole node. -/
structure State where
  /-- the queue of waiting commands, first in first out: the model's own; empty -/
  pending : List Instr
  ao : Ao
  pins : Pins
  pwr : Power
  cfg : Cfg
  /-- R436: functions 0 to 127 -/
  fns : List Fn
  /-- R92: mailboxes 0 to 127 and the sideband requester 128 -/
  mboxes : List Mbox
  /-- R94: running tails; empty -/
  tails : List Tail
  /-- R96: the active Innkeeper pair; 0 -/
  activePair : Nat
  /-- R112: queues that are not ABSENT; empty -/
  queues : List Queue
  sched : Sched
  /-- R55: arbiters that have had a request; empty -/
  arbs : List Arb
  /-- R59: ARB_SELECT.arbiter_id; 16 bits; 0 -/
  arbSelect : BitVec 16
  /-- R59: ARB_SELECT.requester; 8 bits; 0 -/
  arbRequester : BitVec 8
  /-- R59: ARB_WAIT_TOTAL; 64 bits; 0 -/
  arbWaitTotal : BitVec 64
  /-- R59: ARB_WAIT_MAX; 64 bits; 0 -/
  arbWaitMax : BitVec 64
  /-- R47: outstanding requests of this node; empty -/
  reqs : List Req
  /-- R47: the next request number; 24 bits; no value given: DESIGN CHOICE 0 (log 4) -/
  nextNum : Nat
  /-- admission order of requests: the model's own; 0 -/
  nextOrder : Nat
  /-- R461: request numbers kept held after a cancellation; empty -/
  heldNums : List HeldNums
  /-- R54: filters received, with their time, against frames still in flight; empty -/
  filters : List (Nat × CancelFilter)
  /-- R615: announcements that a node has not had yet; empty -/
  unsent : List (Nat × Announce)
  /-- R615: collections recorded on this node; empty -/
  colls : List Coll
  /-- R145: next collection sequence number; 1 -/
  nextColl : Nat
  /-- R149: shards this node owns; empty -/
  shards : List Shard
  /-- R173: lists of every shard on the node; empty -/
  lists : List LList
  eng : Engine
  /-- R334: models; empty -/
  models : List Model
  /-- R356: runs and training steps in progress; empty -/
  runs : List Run
  /-- R383: regions allocated to functions; empty -/
  regions : List Region
  /-- R376: operand buffers of units, by (stack, unit): 16 KiB each; contents unlisted read 0: DESIGN CHOICE (log 2) -/
  operandBufs : List ((Nat × Nat) × Mem)
  pimRuns : List PimRun
  /-- R361: next keep_state handle; 1 -/
  nextHandle : Nat
  tier : Tier
  /-- R495: pools; empty -/
  pools : List Pool
  /-- R495: next pool identifier; 1 -/
  nextPool : Nat
  /-- R469: ports 0 to 7 -/
  ports : List Port
  /-- R492: PORT_SELECT; 3 bits; 0 -/
  portSelect : BitVec 3
  /-- R480: peers seen; empty -/
  peers : List Peer
  spares : Spares
  /-- what has left the node, oldest first: the model's own; empty -/
  out : List Output
  /-- index of the next free value: the model's own; DESIGN CHOICE 0 (log 1) -/
  free : Nat
  deriving DecidableEq, Repr

/-- A VF as the node's first start leaves it (R80, R411). -/
def Fn.vf : Fn := {}

/-- The PF as the node's first start leaves it (R80, R411). -/
def Fn.pf : Fn :=
  { queueCount := 3584, msixCount := 64, mayCreate := true, t0Limit := 0xFFFFFFFF, t1Limit := 0xFFFFFFFF,
    t2Limit := 0xFFFFFFFF, t3Limit := 0xFFFFFFFF, gbLimit := 0xFFFFFFFF, seatsLimit := 0xFFFF }

/-- The module before its first power-on: every register at its after-reset value, the node record empty. The first
start-up is HOT_SWAP_TURN_ON, AO_POWER_GOOD, BUS_MASTER_ENABLE_SET. -/
def State.reset : State where
  pending := []
  ao := {}
  pins := {}
  pwr := {}
  cfg := {}
  fns := Fn.pf :: List.replicate 127 Fn.vf
  mboxes := List.replicate 129 {}
  tails := []
  activePair := 0
  queues := []
  sched := {}
  arbs := []
  arbSelect := 0
  arbRequester := 0
  arbWaitTotal := 0
  arbWaitMax := 0
  reqs := []
  nextNum := 0
  nextOrder := 0
  heldNums := []
  filters := []
  unsent := []
  colls := []
  nextColl := 1
  shards := []
  lists := []
  eng := {}
  models := []
  runs := []
  regions := []
  operandBufs := []
  pimRuns := []
  nextHandle := 1
  tier := {}
  pools := []
  nextPool := 1
  ports := List.replicate 8 {}
  portSelect := 0
  peers := []
  spares := {}
  out := []
  free := 0

end Sys2Proof.Machine
end

