-- ==== Sys2Proof/Machine/Ops.lean ====
section
/-! DEFINITION. The named operations over the state that the meanings share: reading and changing one function, queue,
shard, list; bytes and addressed RAM; the event log; interrupts; completions; mailbox responses; quotas; arbiters. -/

namespace Sys2Proof.Machine

open Sys2Proof

/-- The outcome of every command the node carries out. -/
abbrev Result := Host.Outcome State Fault Refusal

/-! ### Status codes (R89) -/

def stOk : Nat := 0x00
def stPartial : Nat := 0x01
def stQuota : Nat := 0x02
def stRetry : Nat := 0x03
def stPoolLost : Nat := 0x04
def stInvalid : Nat := 0x05
def stCancelled : Nat := 0x06
def stDegraded : Nat := 0x07
def stDenied : Nat := 0x08
def stUnsupported : Nat := 0x09

/-! ### Bytes, little-endian (R18) -/

/-- The byte at an offset, 0 past the end. -/
def byteAt (b : Bytes) (i : Nat) : Nat := (b.getD i 0).toNat

/-- The little-endian value of `n` bytes from `off`. -/
def le (b : Bytes) (off : Nat) : Nat → Nat
  | 0 => 0
  | n + 1 => byteAt b off + 256 * le b (off + 1) n

/-- `n` bytes of a value, little-endian. -/
def toLE : Nat → Nat → Bytes
  | 0, _ => []
  | n + 1, v => BitVec.ofNat 8 v :: toLE n (v / 256)

/-- `n` zero bytes. -/
def zeros (n : Nat) : Bytes := List.replicate n 0

/-- `n` bytes from `off`, zero past the end. -/
def slice (b : Bytes) (off n : Nat) : Bytes := (b.drop off).take n ++ zeros (n - (b.drop off).length)

/-- Every one of `n` bytes from `off` is zero. -/
def zeroAt (b : Bytes) (off n : Nat) : Bool := ((b.drop off).take n).all (· == 0)

/-- The first offset in the given reserved ranges (offset, size) that holds a byte other than zero (R21). -/
def firstReserved (b : Bytes) : List (Nat × Nat) → Option Nat
  | [] => none
  | (o, n) :: rest =>
    match ((b.drop o).take n).findIdx? (· != 0) with
    | some i => some (o + i)
    | none => firstReserved b rest

/-- A bit of a number. -/
def bit (n i : Nat) : Bool := n.testBit i

/-- A field `[lo + w - 1 : lo]` of a number. -/
def field (n lo w : Nat) : Nat := n / 2 ^ lo % 2 ^ w

/-- 0 or 1. -/
def b2n (b : Bool) : Nat := if b then 1 else 0

/-- The least multiple of `m` at or above `n`. -/
def roundUp (n m : Nat) : Nat := (n + m - 1) / m * m

/-! ### Addressed RAM in canonical form -/

/-- What an address reads as: its cell, or 0. -/
def memRead : Mem → Nat → Byte
  | [], _ => 0
  | (a, v) :: m, i => if a = i then v else memRead m i

/-- Write one byte, keeping addresses strictly rising and listing no zero. -/
def memWrite : Mem → Nat → Byte → Mem
  | [], i, x => if x = 0 then [] else [(i, x)]
  | (a, v) :: m, i, x =>
    if i < a then (if x = 0 then (a, v) :: m else (i, x) :: (a, v) :: m)
    else if a = i then (if x = 0 then m else (i, x) :: m)
    else (a, v) :: memWrite m i x

/-- Write bytes from an address on. -/
def memWriteAll (m : Mem) (i : Nat) : Bytes → Mem
  | [] => m
  | x :: xs => memWriteAll (memWrite m i x) (i + 1) xs

/-- `n` bytes from an address on. -/
def memReadAll (m : Mem) (i : Nat) : Nat → Bytes
  | 0 => []
  | n + 1 => memRead m i :: memReadAll m (i + 1) n

/-- Every address of a memory is above `lo`, they rise strictly, and no cell is 0. -/
def memSorted (lo : Nat) : Mem → Bool
  | [] => true
  | (a, v) :: m => decide (lo ≤ a) && decide (v ≠ 0) && memSorted (a + 1) m

/-- The canonical form of addressed RAM. -/
def Mem.wf (m : Mem) : Bool := memSorted 0 m

/-! ### Reading and changing one record of the state -/

def State.fn (s : State) (i : Nat) : Fn := s.fns.getD i {}
def State.modFn (s : State) (i : Nat) (f : Fn → Fn) : State := { s with fns := s.fns.modify i f }
def State.mbox (s : State) (i : Nat) : Mbox := s.mboxes.getD i {}
def State.modMbox (s : State) (i : Nat) (f : Mbox → Mbox) : State := { s with mboxes := s.mboxes.modify i f }
def State.port (s : State) (i : Nat) : Port := s.ports.getD i {}
def State.modPort (s : State) (i : Nat) (f : Port → Port) : State := { s with ports := s.ports.modify i f }
def State.csu (s : State) (i : Nat) : Csu := s.eng.csus.getD i {}
def State.modEng (s : State) (f : Engine → Engine) : State := { s with eng := f s.eng }
def State.modCsu (s : State) (i : Nat) (f : Csu → Csu) : State := s.modEng fun e => { e with csus := e.csus.modify i f }
def State.modTier (s : State) (f : Tier → Tier) : State := { s with tier := f s.tier }
def State.modChannel (s : State) (i : Nat) (f : Channel → Channel) : State :=
  s.modTier fun e => { e with channels := e.channels.modify i f }
def State.modAo (s : State) (f : Ao → Ao) : State := { s with ao := f s.ao }
def State.modPins (s : State) (f : Pins → Pins) : State := { s with pins := f s.pins }
def State.modPwr (s : State) (f : Power → Power) : State := { s with pwr := f s.pwr }
def State.modSched (s : State) (f : Sched → Sched) : State := { s with sched := f s.sched }
def State.modSpares (s : State) (f : Spares → Spares) : State := { s with spares := f s.spares }

/-- Change the records of a list that a test picks. -/
def modWhere {α : Type} (l : List α) (p : α → Bool) (f : α → α) : List α := l.map fun x => if p x then f x else x

def State.queue? (s : State) (q : Nat) : Option Queue := s.queues.find? (·.num == q)
def State.modQueue (s : State) (q : Nat) (f : Queue → Queue) : State :=
  { s with queues := modWhere s.queues (·.num == q) f }
def State.req? (s : State) (n : Nat) : Option Req := s.reqs.find? (·.num == n)
def State.modReq (s : State) (n : Nat) (f : Req → Req) : State := { s with reqs := modWhere s.reqs (·.num == n) f }
def State.coll? (s : State) (c : Nat) : Option Coll := s.colls.find? (·.spec.id == c)
def State.modColl (s : State) (c : Nat) (f : Coll → Coll) : State :=
  { s with colls := modWhere s.colls (·.spec.id == c) f }
def State.shard? (s : State) (i : Nat) : Option Shard := s.shards.find? (·.id == i)
def State.modShard (s : State) (i : Nat) (f : Shard → Shard) : State :=
  { s with shards := modWhere s.shards (·.id == i) f }
/-- The shards that this node owns: one that has moved away is kept only to forward what still reaches it (R68, R323). -/
def State.owned (s : State) : List Shard := s.shards.filter (·.forwardTo.isNone)

def State.list? (s : State) (i : Nat) : Option LList := s.lists.find? (·.id == i)
def State.modList (s : State) (i : Nat) (f : LList → LList) : State :=
  { s with lists := modWhere s.lists (·.id == i) f }
def State.share? (s : State) (k : Key) : Option Share := s.eng.shares.find? (·.msg.key == k)
def State.modShare (s : State) (k : Key) (f : Share → Share) : State :=
  s.modEng fun e => { e with shares := modWhere e.shares (·.msg.key == k) f }
def Share.part? (h : Share) (i : Nat) : Option SShard := h.shards.find? (·.shard == i)
def Share.modPart (h : Share) (i : Nat) (f : SShard → SShard) : Share :=
  { h with shards := modWhere h.shards (·.shard == i) f }
def State.modPart (s : State) (k : Key) (i : Nat) (f : SShard → SShard) : State := s.modShare k (·.modPart i f)
def State.member? (s : State) (k : Key) (i : Nat) : Option MWork :=
  s.eng.members.find? fun m => m.msg.key == k && m.msg.index == i
def State.modMember (s : State) (k : Key) (i : Nat) (f : MWork → MWork) : State :=
  s.modEng fun e => { e with members := modWhere e.members (fun m => m.msg.key == k && m.msg.index == i) f }
def State.model? (s : State) (c m : Nat) : Option Model := s.models.find? fun x => x.coll == c && x.id == m
def State.modModel (s : State) (c m : Nat) (f : Model → Model) : State :=
  { s with models := modWhere s.models (fun x => x.coll == c && x.id == m) f }
def State.pool? (s : State) (p : Nat) : Option Pool := s.pools.find? (·.id == p)
def State.modPool (s : State) (p : Nat) (f : Pool → Pool) : State := { s with pools := modWhere s.pools (·.id == p) f }
def State.run? (s : State) (n : Nat) : Option Run := s.runs.find? (·.num == n)
def State.modRun (s : State) (n : Nat) (f : Run → Run) : State := { s with runs := modWhere s.runs (·.num == n) f }
def State.region? (s : State) (i : Nat) : Option Region := s.regions.find? (·.idx == i)
def State.modRegion (s : State) (i : Nat) (f : Region → Region) : State :=
  { s with regions := modWhere s.regions (·.idx == i) f }

/-- One more thing has left the node. -/
def State.emit (s : State) (o : Output) : State := { s with out := s.out ++ [o] }

/-- The period of the AO watchdog in ticks (R539): 16 s until the PF has been ready, then ao_watchdog_ms. -/
def State.watchdogPeriod (s : State) : Nat := (if s.ao.readySeen then s.cfg.watchdogMs else 16000) * Config.ticksPerMs

/-- PORT_CREDIT_WAIT counts the ticks in which a ready frame lacks credits (R492). -/
def Port.pass (ticks : Nat) (q : Port) : Port :=
  if q.creditBlocked then { q with creditWait := q.creditWait + BitVec.ofNat 64 ticks } else q

/-- The local counter has reached `t` (R71); it never runs back. The AO watchdog counts down with it (R539); when its period
would pass, Innkeeper has serviced it (DESIGN CHOICE: the manual fixes no time of service). -/
def State.at (s : State) (t : Nat) : State :=
  let p := s.watchdogPeriod
  let d := t - s.ao.now
  { s with
    ports := s.ports.map (Port.pass d),
    ao := { s.ao with
      now := max s.ao.now t,
      watchdog := if s.ao.watchdogOn then (if d < s.ao.watchdog then s.ao.watchdog - d else p) else s.ao.watchdog } }

/-- One AO tick passes (R71, R539). -/
def State.tick (s : State) : State := s.at (s.ao.now + 1)

/-- AO_LOCAL_COUNT (R71). -/
def State.now (s : State) : Nat := s.ao.now

/-- The node is in Lull or Calm. -/
def State.sleeps (s : State) : Bool := s.pwr.st == .lull || s.pwr.st == .calm

/-- Ticks spent in Gale and Breeze, which the intervals of background activities count (R509). -/
def State.awake (s : State) : Nat := s.now - s.pwr.rested - if s.sleeps then s.now - s.pwr.lullAt else 0

/-- This node's identifier (R478, R543): the low bits come from the straps under slot_straps. -/
def State.nodeId (s : State) : Nat :=
  let r := s.ao.opt.fabricRole
  if bit r 13 then field r 4 8 * 16 + s.pins.slotId % 16 else field r 0 12

/-- Topology mode (R478): true in switched mode. -/
def State.switched (s : State) : Bool := bit s.ao.opt.fabricRole 12

/-- The step of taking one free value: its index, and the state with the next one. -/
def State.takeFree (s : State) : Nat × State := (s.free, { s with free := s.free + 1 })

/-! ### Enabled units (R11 to R17) -/

def State.tileOn (s : State) (t : Nat) : Bool := decide (t < 4) && bit s.ao.opt.tileEnable t
def State.channelOn (s : State) (c : Nat) : Bool := decide (c < 32) && bit s.ao.opt.channelEnable c && s.tileOn (c / 8)
def State.portOn (s : State) (p : Nat) : Bool := decide (p < 8) && bit s.ao.opt.portEnable p
def State.tilesOn (s : State) : List Nat := (List.range 4).filter s.tileOn
def State.channelsOn (s : State) : List Nat := (List.range 32).filter s.channelOn
def State.stacksOn (s : State) : List Nat := (List.range 32).filter fun c => s.tileOn (c / 8)
/-- The place of a physical core in its tile's numbering (R563): a spare has that of the core it replaced. -/
def State.corePlace (s : State) (core : Nat) : Option Nat :=
  if core < 32 then some core else ((s.spares.corePlaces.find? (·.1 == core)).map (·.2)).filter (· < 32)

/-- The cores of the enabled tiles that work, lowest first (R13, R569). -/
def State.coresUp (s : State) : List Nat :=
  let down := (s.spares.offline.filter (·.kind == 4)).filterMap fun e => s.corePlace e.domain
  (s.tilesOn.flatMap fun t => (List.range 8).map (8 * t + ·)).filter fun p => !down.contains p

/-- Tenant cores (R15): 8 per enabled tile, 4 of them service cores; with one tile 4 serve tenants. -/
def State.tenantCores (s : State) : Nat := s.coresUp.length - 4

/-! ### The event log and ALERT_N (R558, R588) -/

/-- The pins follow events: no node reset holds them, and no cold reset, shutdown or lack of power releases them (R535, R608). -/
def State.pinsLive (s : State) : Bool := s.ao.stage == .waitBme || s.ao.stage == .serving || s.ao.stage == .recovery

/-- The I3C target is powered, and out of cold reset and thermal shutdown (R608); through a node reset it keeps its address (R535,
R601). -/
def State.targetUp (s : State) : Bool :=
  s.ao.stage != .off && s.ao.stage != .shutdown && !(s.ao.stage == .inReset && s.ao.resetRank == 3)

/-- Log one event; when its class is selected by alert_mask, ALERT_N is driven low. -/
def State.log (s : State) (cls code : Nat) (detail : Bytes) : State :=
  let e : LogEntry := ⟨s.ao.now, s.ao.nextEntry, cls, code, slice detail 0 16⟩
  let l := s.ao.log ++ [e]
  let s := s.modAo fun a => { a with log := l.drop (l.length - 2048), nextEntry := a.nextEntry + 1 }
  if s.pinsLive && s.cfg.alertMask.toNat.testBit cls then s.modPins fun p => { p with alertN := false } else s

/-- A platform event is pending, and a target that is there raises the in-band interrupt (R602, R604, R608). -/
def State.platformEvent (s : State) (sensor reading : Nat) : State :=
  let up := s.targetUp
  let s := s.modPins fun p => { p with platform := p.platform ++ [(sensor, reading)] }
  if up then s.emit .ibi else s

/-- Degraded lists of the node (R576, R583). -/
def State.degradedCount (s : State) : Nat := (s.lists.filter fun l => l.degraded && l.retiredW.isNone).length

/-- Sensor 8 has an event when the count of degraded lists leaves 0 and when it returns to 0 (R604). -/
def State.degradedEvent (s : State) (before : Nat) : State :=
  let n := s.degradedCount
  if (before == 0) == (n == 0) then s else s.platformEvent 8 n

/-- An element code (R562). -/
def elementWord (kind domain element : Nat) : Nat := kind % 16 + 16 * (domain % 256) + 4096 * (element % 256)

/-! ### Quotas (R411 to R415) -/

/-- What a quota counts. -/
inductive QKind where
  | t0 | t1 | t2 | t3 | guestbook | seats
  deriving DecidableEq, Repr

/-- The status detail of a refusal (R90). -/
def QKind.detail : QKind → Nat
  | .t0 => 0 | .t1 => 1 | .t2 => 2 | .t3 => 3 | .guestbook => 4 | .seats => 5

/-- The limit in the counted unit; none for no limit (R103). -/
def Fn.limit (f : Fn) : QKind → Option Nat
  | .t0 => if f.t0Limit = 0xFFFFFFFF then none else some (f.t0Limit * 2 ^ 20)
  | .t1 => if f.t1Limit = 0xFFFFFFFF then none else some (f.t1Limit * 2 ^ 30)
  | .t2 => if f.t2Limit = 0xFFFFFFFF then none else some (f.t2Limit * 2 ^ 40)
  | .t3 => if f.t3Limit = 0xFFFFFFFF then none else some (f.t3Limit * 2 ^ 40)
  | .guestbook => if f.gbLimit = 0xFFFFFFFF then none else some (f.gbLimit * 1024)
  | .seats => if f.seatsLimit = 0xFFFF then none else some f.seatsLimit

def Fn.used (f : Fn) : QKind → Nat
  | .t0 => f.t0Used | .t1 => f.t1Used | .t2 => f.t2Used | .t3 => f.t3Used | .guestbook => f.gbUsed
  | .seats => f.seatsUsed

def Fn.setUsed (f : Fn) (k : QKind) (n : Nat) : Fn :=
  match k with
  | .t0 => { f with t0Used := n } | .t1 => { f with t1Used := n } | .t2 => { f with t2Used := n }
  | .t3 => { f with t3Used := n } | .guestbook => { f with gbUsed := n } | .seats => { f with seatsUsed := n }

/-- An allocation is admitted when usage plus its size is at most the limit (R413). -/
def Fn.admits (f : Fn) (k : QKind) (n : Nat) : Bool :=
  match f.limit k with
  | none => true
  | some m => decide (f.used k + n ≤ m)

/-- A refusal or silent fallback: quota_reached is set, and the event counted, once when the condition begins (R415). -/
def Fn.refuse (f : Fn) (kind : Nat) : Fn :=
  if f.refusing.contains kind then f
  else { f with refusing := kind :: f.refusing, evQuota := true, quotaEvents := f.quotaEvents + 1 }

/-- A charge that was admitted; it ends the condition of R415 for its kind. -/
def Fn.charge (f : Fn) (k : QKind) (n : Nat) : Fn :=
  { f.setUsed k (f.used k + n) with refusing := f.refusing.filter (· != k.detail) }

/-- Release of space (R415). -/
def Fn.release (f : Fn) (k : QKind) (n : Nat) : Fn := f.setUsed k (f.used k - n)

/-- T1 held by node structures (R406, R281, Table: T1 at the reference workload): the FTL map, 5 bytes a 16 KiB page of user flash,
the deletion bitmap, the recent-deletions and row history tables, the row placement table, the write buffer, the firmware reserve,
and the sub-centroid and neighbour entry of every list. -/
def State.t1Structures (s : State) : Nat :=
  let list := fun (l : LList) =>
    let p := (((s.shard? l.shard).bind fun d => s.coll? d.coll).map (·.spec.projection)).getD 256
    roundUp (9 * p / 16 + 16) 32 + 128
  s.channelsOn.length * 3328 * 2 ^ 16 * 5 + 2 ^ 32 + 2 ^ 30 + 2 ^ 26 + 2 ^ 28 + 16 * 2 ^ 30 +
    (s.lists.filter fun l => !l.versions.isEmpty).foldl (fun n l => n + list l) 0

/-- Capacity of a tier that holds functions' allocations: T0 448 MiB in full (R405), T1 12 GiB a stack (R27) less the
structures (R406), T2 3,328 GiB a channel (R419). T3 is the pools'. -/
def State.capacity (s : State) : QKind → Nat
  | .t0 => s.tilesOn.length * 112 * 2 ^ 20
  | .t1 => s.stacksOn.length * 12 * 2 ^ 30 - s.t1Structures
  | .t2 => s.channelsOn.length * 3328 * 2 ^ 30
  | .t3 => (s.pools.filter fun p => p.kind == 0 && p.st == .attached).foldl (fun n p => n + p.capTib * 2 ^ 40) 0
  | .guestbook => 2 ^ 64
  | .seats => 2 ^ 64

def State.tierUsed (s : State) (k : QKind) : Nat := s.fns.foldl (fun n f => n + f.used k) 0

/-- The quota and the tier itself both hold the allocation (R412). -/
def State.fits (s : State) (f : Nat) (k : QKind) (n : Nat) : Bool :=
  (s.fn f).admits k n && decide (s.tierUsed k + n ≤ s.capacity k)

/-- Charge an allocation, or refuse it (R412, R414): none when refused, with the condition of R415 recorded by `quotaRefuse`. -/
def State.charge? (s : State) (f : Nat) (k : QKind) (n : Nat) : Option State :=
  if s.fits f k n then some (s.modFn f (·.charge k n)) else none

def State.quotaRefuse (s : State) (f kind : Nat) : State := s.modFn f (·.refuse kind)
def State.release (s : State) (f : Nat) (k : QKind) (n : Nat) : State := s.modFn f (·.release k n)

/-! ### Interrupts (R452 to R455) -/

/-- Fill the interrupt ceiling bucket up to now (R455); units of 1/25,000 message. -/
def Fn.fillCeiling (f : Fn) (now : Nat) : Fn :=
  { f with ceiling := min (f.irqCeiling * 25000) (f.ceiling + f.irqCeiling * (now - f.ceilingTo)), ceilingTo := max f.ceilingTo now }

/-- Send a vector's message and clear its PBA bit. -/
def State.sendVec (s : State) (f v : Nat) : State :=
  let e := (s.fn f).vecs.getD v {}
  (s.modFn f fun x =>
    { x with vecs := x.vecs.modify v fun e => { e with pending := false, direct := false } }).emit
    (.msix f v e.addrLo e.addrHi e.data)

/-- Send subject to the interrupt ceiling (R455); a hold adds 1 to INT_HELD and keeps the order of becoming due. A message
that the ceiling holds is not held by its mask, so its PBA bit is 0. -/
def State.sendCeiling (s : State) (f v : Nat) : State :=
  let s := s.modFn f (·.fillCeiling s.now)
  let x := s.fn f
  if x.overPeak && x.irqCeiling != 0 then
    if x.heldVecs.contains v then
      s.modFn f fun x => { x with vecs := x.vecs.modify v fun e => { e with pending := false, direct := false } }
    else if x.ceiling < 25000 || !x.heldVecs.isEmpty then
      s.modFn f fun x =>
        { x with heldVecs := x.heldVecs ++ [v], heldCount := x.heldCount + 1,
                 vecs := x.vecs.modify v fun e => { e with pending := false, direct := false } }
    else (s.modFn f fun x => { x with ceiling := x.ceiling - 25000 }).sendVec f v
  else s.sendVec f v

/-- A vector is due (R453, R454): discarded while MSI-X Enable is 0, held while a mask is set, else sent. -/
def State.dueVec (s : State) (f v : Nat) (useCeiling : Bool) : State :=
  let x := s.fn f
  if x.msixCount ≤ v then s
  else if !x.msixEnable then s
  else if x.fnMask || (x.vecs.getD v {}).mask then
    s.modFn f fun x =>
      { x with vecs := x.vecs.modify v fun e => { e with pending := true, direct := e.direct || !useCeiling } }
  else if useCeiling then s.sendCeiling f v
  else s.sendVec f v

/-- A vector's held message after a mask is cleared (R453 to R455). -/
def State.releaseVec (s : State) (f v : Nat) : State :=
  let x := s.fn f
  let e := x.vecs.getD v {}
  if e.pending && x.msixEnable && !x.fnMask && !e.mask then
    if e.direct then s.sendVec f v else s.sendCeiling f v
  else s

/-- The ceiling's held vectors that may be sent, in the order they became due (R455): one whose mask is set by now is held
by its mask instead. With `all`, over-peak has ended and every one is sent; else one whole token is needed for each. -/
def State.releaseHeld (s : State) (f : Nat) (all : Bool) : List Nat → State
  | [] => s
  | v :: rest =>
    let x := s.fn f
    if x.fnMask || (x.vecs.getD v {}).mask then
      (s.modFn f fun x =>
        { x with heldVecs := x.heldVecs.drop 1, vecs := x.vecs.modify v fun e => { e with pending := true } }).releaseHeld f all rest
    else if all then
      ((s.modFn f fun x => { x with heldVecs := x.heldVecs.drop 1 }).sendVec f v).releaseHeld f all rest
    else if x.ceiling < 25000 then s
    else
      ((s.modFn f fun x =>
        { x with heldVecs := x.heldVecs.drop 1, ceiling := x.ceiling - 25000 }).sendVec f v).releaseHeld f all rest

/-- Queue `q` requests its message (R452). -/
def State.requestMsg (s : State) (q : Nat) : State :=
  match s.queue? q with
  | none => s
  | some u =>
    let s := s.modQueue q fun u => { u with pendingMsgs := 0 }
    if u.irqEnable && decide (u.vector < (s.fn u.fn).msixCount) then s.dueVec u.fn u.vector true else s

/-- A completion has been written to the ring of queue `q` (R452). -/
def State.signalCompletion (s : State) (q : Nat) : State :=
  let s := s.modQueue q fun u =>
    { u with pendingMsgs := u.pendingMsgs + 1, firstAt := if u.pendingMsgs = 0 then s.now else u.firstAt }
  match s.queue? q with
  | none => s
  | some u => if u.coalDelay = 0 || max u.coalCount.toNat 1 ≤ u.pendingMsgs then s.requestMsg q else s

/-- A link in L1.2 or L2 is woken to signal a completion (R591). -/
def State.wakeSignal (s : State) : State :=
  if s.pwr.st == .lull || s.pwr.st == .calm then s.modPins fun p => { p with wakeN := false, wakeAt := s.ao.now } else s

/-! ### Completions (R127, R135 to R142) -/

/-- What a command completes with. -/
structure Compl where
  status : Nat
  detail : Nat
  value : Nat := 0
  value2 : Nat := 0
  flags : Nat := 0
  data : Bytes := []
  dataReturned : Nat := 0
  deriving DecidableEq, Repr

/-- A queue enters ERROR: the cause is kept, queue_error is set; in ERROR a later cause changes nothing (R142). -/
def State.queueError (s : State) (q cause : Nat) : State :=
  match s.queue? q with
  | none => s
  | some u =>
    if u.st == .error then s
    else (s.modQueue q fun u => { u with st := .error, errorCause := cause }).modFn u.fn fun f => { f with evQueueError := true }

/-- Entries of a ring (R115). -/
def Queue.sqSize (u : Queue) : Nat := 2 ^ u.sqLog2
def Queue.cqSize (u : Queue) : Nat := 2 ^ u.cqLog2

/-- The outstanding count (R127): admitted commands without a written completion, and completions not yet consumed. -/
def Queue.outstanding (u : Queue) : Nat := u.inFlight + u.unwritten + (u.cqTail + u.cqSize - u.cqHead) % u.cqSize

/-- The 32 bytes of a completion entry (R135). -/
def completionEntry (u : Queue) (cmdId : Nat) (c : Compl) (detail dataReturned : Nat) : Bytes :=
  toLE 8 c.value ++ toLE 4 c.value2 ++ toLE 2 u.sqHead ++ toLE 2 u.num ++ toLE 2 cmdId ++ toLE 1 c.status ++
  toLE 1 c.flags ++ toLE 2 detail ++ zeros 2 ++ toLE 4 dataReturned ++ zeros 3 ++ toLE 1 (b2n u.phase)

/-- The tail moves past the entry written; the phase inverts at the wrap (R136). -/
def Queue.advance (u : Queue) : Queue :=
  let t := (u.cqTail + 1) % u.cqSize
  { u with cqTail := t, phase := if t = 0 then !u.phase else u.phase, inFlight := u.inFlight - 1,
           completed := u.completed + 1 }

/-- A command ends without a written completion (R142). -/
def Queue.unwrite (u : Queue) : Queue := { u with inFlight := u.inFlight - 1, unwritten := u.unwritten + 1 }

/-- Write one completion entry for a command of queue `q`, or stop the queue's completions when it is refused
(R135 to R142, R612). -/
def State.writeCompletion (s : State) (q cmdId : Nat) (c : Compl) (detail dataReturned : Nat) (cqOk : Bool) : State :=
  match s.queue? q with
  | none => s
  | some u =>
    if u.stopped then s.modQueue q Queue.unwrite
    else if cqOk then
      let s := s.emit (.completion u.fn q (u.cqAddr + 32 * u.cqTail) (completionEntry u cmdId c detail dataReturned))
      ((s.modQueue q Queue.advance).signalCompletion q).wakeSignal
    else
      (s.queueError q 5).modQueue q fun u => { u.unwrite with stopped := true }

/-- The coordinator's merge gives its space back (R247, R415). -/
def State.releaseMerge (s : State) (r : Req) : State :=
  let m := r.merge
  let s := ((s.release r.fn .t0 m.t0).release r.fn .t1 m.t1).release r.fn .t3 m.t3
  match m.pool with
  | some q => s.modPool q fun x => { x with used := x.used - m.t3 }
  | none => s

/-- Complete an outstanding request: output data first, then the entry (R138); a refused output write changes only the
detail and data_returned (R132); output that lay in an adapter pool lost since admission is ST_POOL_LOST (R500). The request
number is free again (R47). -/
def State.complete (s : State) (r : Req) (c : Compl) (io : HostIO) : State :=
  let addr := le r.entry 32 8
  let failed := decide (0 < c.dataReturned) && !io.outOk
  let lost := failed && s.pools.any fun p =>
    p.kind == 1 && p.st == .lost && decide (p.bar ≤ addr) && decide (addr < p.bar + p.size) && decide (r.admittedAt ≤ p.lostAt)
  let c : Compl := if lost then { status := stPoolLost, detail := 0 } else c
  let failed := failed && !lost
  let s := { s with reqs := s.reqs.filter (·.num != r.num) }.releaseMerge r
  let s := if 0 < c.dataReturned && io.outOk && (s.queue? r.queue).isSome then s.emit (.hostWrite r.fn addr c.data) else s
  s.writeCompletion r.queue r.cmdId c (if failed then 0xFFFE else c.detail) (if failed then 0 else c.dataReturned) io.cqOk

/-- A completion with a status and nothing else. -/
def Compl.bare (status detail : Nat) : Compl := { status := status, detail := detail }

/-! ### Mailbox responses (R84, R87, R90) -/

/-- The response header and results (R87). -/
def responseBytes (opcode status detail seq : Nat) (results : Bytes) (dataReturned : Nat) : Bytes :=
  toLE 2 opcode ++ toLE 1 status ++ zeros 1 ++ toLE 2 detail ++ toLE 2 seq ++ toLE 4 results.length ++
  toLE 4 dataReturned ++ zeros 16 ++ results

/-- DONE: the response area is written, then the state, then mbx_done and the interrupt (R84, R85). The sideband has no
registers: its response is the message, and its place is free at once (R603). -/
def State.mailboxDone (s : State) (r status detail : Nat) (results : Bytes) (data : Bytes) : State :=
  let m := s.mbox r
  let resp := responseBytes (le m.copy 0 2) status detail m.sequence.toNat results data.length
  if r = 128 then (s.modMbox 128 fun m => { m with st := .idle, committing := false }).emit (.sideband resp data)
  else
    let s := if data = [] then s else s.emit (.hostWrite r (le m.copy 8 8) data)
    let s := s.modMbox r fun m =>
      { m with st := .done, status := BitVec.ofNat 8 status, detail := BitVec.ofNat 16 detail, committing := false,
               resp := memWriteAll m.resp 0x800 resp, elapsed := BitVec.ofNat 32 (s.now - m.grantAt),
               wait := BitVec.ofNat 32 (m.grantAt - m.postedAt) }
    let s := s.modFn r fun f => { f with evMbxDone := true }
    let s := if m.irqEnable then s.dueVec r m.vector.toNat false else s
    s.wakeSignal

/-! ### Age arbiters (R55 to R60) -/

/-- An arbiter, fresh when it has had no request. -/
def State.arb (s : State) (id : Nat) : Arb := (s.arbs.find? (·.id == id)).getD { id := id }

def State.modArb (s : State) (id : Nat) (f : Arb → Arb) : State :=
  if s.arbs.any (·.id == id) then { s with arbs := modWhere s.arbs (·.id == id) f }
  else { s with arbs := s.arbs ++ [f { id := id }] }

/-- A request arrives at an arbiter and is stamped with the local counter (R55). -/
def State.arbRequest (s : State) (id requester : Nat) (background rebuild : Bool) (w : Work) : State :=
  s.modArb id fun a =>
    if (a.waiting.any (·.work == w)) then a
    else { a with waiting := a.waiting ++ [⟨requester, s.now, background, rebuild, w⟩] }

/-- Withdraw requests (R54). -/
def State.arbWithdraw (s : State) (p : Work → Bool) : State :=
  { s with arbs := s.arbs.map fun a => { a with waiting := a.waiting.filter fun r => !p r.work } }

/-- The arbiter runs on the AO clock (R515, R571), so what arrives in one tick arrives in one of its cycles. -/
def aoClocked (id : Nat) : Bool := id == 0x00A1 || id == 0x00A2

/-- The oldest of an arbiter's requests (R55): earliest stamp; in one tick arrival order; in one arbiter cycle, which only an
arbiter on the AO clock has as long as a tick, ascending requester index (log 88). -/
def oldest (id : Nat) : List ArbReq → Option ArbReq
  | [] => none
  | r :: rest =>
    match oldest id rest with
    | none => some r
    | some x => if x.at_ < r.at_ || (aoClocked id && x.at_ == r.at_ && decide (x.requester < r.requester)) then some x else some r

/-- Add a wait to the live counters of a requester (R59). -/
def bumpStat (l : List ArbStat) (requester wait : Nat) : List ArbStat :=
  if l.any (·.requester == requester) then
    modWhere l (·.requester == requester) fun x =>
      { x with grants := x.grants + 1, waitTotal := x.waitTotal + wait, waitMax := max x.waitMax wait }
  else l ++ [⟨requester, 1, wait, wait⟩]

/-- Arbiter clock period in ps (R59): flash channels at 1.2 GHz by the worked example, the power-sequencer and recovery
arbiters on the AO clock (R515, R571); of the others the manual gives none: a free value each. -/
def arbPeriod (id : Nat) : Nat :=
  if id < 0x20 then 833
  else if id = 0x00A1 || id = 0x00A2 then 40000
  else Config.freeNat (2 ^ 64 + id) + 1

/-- Cycles of the arbiter clock in a number of AO ticks (R59): 48 a tick at the 1.2 GHz of a flash channel. -/
def arbCycles (id ticks : Nat) : Nat := if id < 0x20 then ticks * 48 else ticks * 40000 / arbPeriod id

/-- Background ceiling of the resource, percent (R41, R561); none where no ceiling applies. -/
def State.ceilingPct (s : State) (id : Nat) : Option Nat :=
  if id < 0x20 then some s.cfg.flashPct
  else if 0x40 ≤ id && id < 0x60 then some s.cfg.stackPct
  else if id = 0x80 then some s.cfg.coarsePct
  else if 0x90 ≤ id && id < 0x94 then some s.cfg.tensorPct
  else none

/-- The activity of Table: background shares that background work belongs to: 1 flash maintenance, 2 scrub, 3 link adaptation, 0 the
rest. -/
def Work.activity : Work → Nat
  | .upkeep kind _ => if kind = 0x15 then 1 else if kind = 0x14 then 2 else if kind = 0x17 then 3 else 0
  | _ => 0

/-- An activity's points of a resource's ceiling, and the points in all (Table: background shares). -/
def activityShare (id activity : Nat) : Nat × Nat :=
  if id < 0x20 then (if activity = 0 then 11 else if activity = 1 then 4 else 0, 15)
  else if 0x40 ≤ id && id < 0x60 then (if activity = 0 then 4 else if activity = 2 then 1 else 0, 5)
  else (1, 1)

/-- Time that an activity has held in this window. -/
def Arb.heldBy (a : Arb) (activity : Nat) : Nat := ((a.bgBy.find? (·.1 == activity)).map (·.2)).getD 0

/-- Time that background work has held counts in the window, in all and by activity (R40, R559). -/
def Arb.addHeld (a : Arb) (activity n : Nat) : Arb :=
  { a with bgHeld := a.bgHeld + n, bgBy := a.bgBy.filter (·.1 != activity) ++ [(activity, a.heldBy activity + n)] }

/-- The activity of a request has not had its share of the ceiling's time yet (R559). -/
def Arb.behind (a : Arb) (pct elapsed : Nat) (r : ArbReq) : Bool :=
  let p := activityShare a.id r.work.activity
  r.background && decide (a.heldBy r.work.activity * p.2 * 100 < pct * elapsed * p.1)

/-- The oldest of some requests; where that is background work whose activity has had its share, the oldest of those whose activity
has not (R559). -/
def Arb.fairest (a : Arb) (pct elapsed : Nat) (l : List ArbReq) : Option ArbReq :=
  match oldest a.id l with
  | none => none
  | some r =>
    if !r.background || a.behind pct elapsed r then some r else some ((oldest a.id (l.filter (a.behind pct elapsed))).getD r)

/-! ### Arrays (R181, R185, R215 to R217) -/

/-- The record of an array; without a history it is in use, or a stand-in where the layout has spares (R185, R582). The error
estimate of an array never calibrated is a free value. -/
def State.arrRec (s : State) (a : Nat) : Arr :=
  (s.spares.arrays.find? (·.arr == a)).getD
    { arr := a, st := if (64 ≤ a && a < 72) || (128 ≤ a && (a - 128) % 3 == 2) then 1 else 0, calibratedAt := 0,
      errorPpm := Config.freeNat (2 ^ 67 + a) }

/-- Records of arrays change. -/
def State.modArrs (s : State) (l : List Nat) (f : Arr → Arr) : State :=
  let new := l.map fun a => f (s.arrRec a)
  s.modSpares fun x => { x with arrays := x.arrays.filter (fun r => !l.contains r.arr) ++ new }

/-- The record of one array changes. -/
def State.modArr (s : State) (a : Nat) (f : Arr → Arr) : State := s.modArrs [a] f

/-- Arrays built on enabled units: the coarse field's 72 and three for each enabled CSU. -/
def State.arraysBuilt (s : State) : List Nat :=
  List.range 72 ++ s.channelsOn.flatMap fun c => [128 + 3 * c, 129 + 3 * c, 130 + 3 * c]

/-- Arrays of the same CSU, or of the coarse field, and how many of them are in use (R185, R189). -/
def arrayGroup (a : Nat) : List Nat := if a < 72 then List.range 72 else (List.range 3).map fun i => 128 + 3 * ((a - 128) / 3) + i
def groupSize (a : Nat) : Nat := if a < 72 then 64 else 2

/-- The arrays of its group in use. -/
def State.inUse (s : State) (a : Nat) : List Nat := (arrayGroup a).filter fun i => (s.arrRec i).st == 0

/-- The array's group has used up its spares: it has no stand-in any more (R217). -/
def State.spareless (s : State) (a : Nat) : Bool :=
  if a < 72 then s.spares.coarse == 0 else s.spares.csuUsed.contains ((a - 128) / 3)

/-- The array that stands in for others of its group now. -/
def State.standIn (s : State) (a : Nat) : Option Nat :=
  if s.spareless a then none else (arrayGroup a).find? fun i => (s.arrRec i).st == 1

/-- The array has gone its 50 ms, is built and not retired (R215). -/
def State.calibrationDue (s : State) (a : Nat) : Bool :=
  s.arraysBuilt.contains a && (s.arrRec a).st != 3 && decide ((s.arrRec a).calibratedAt + 50 * Config.ticksPerMs ≤ s.now)

/-- No page is requested for a coach on this array: it calibrates where it is or has to (R217), or it is retired and its spare is
not in use yet (R213). -/
def State.arrayHeld (s : State) (a : Nat) : Bool :=
  (s.arrRec a).st == 3 || (s.arrRec a).st == 2 || (s.spareless a && s.calibrationDue a)

/-- Requests wait at the coarse field while one of its arrays calibrates where it is (R217), and while the hub tile is too hot to
score (R526). -/
def State.fieldHeld (s : State) : Bool :=
  s.pwr.hotTiles.contains 4 || (s.spareless 0 && s.spares.field.any fun a => (s.arrRec a).st == 2)

/-- The junction temperature at an array. -/
def State.junctionAt (s : State) (a : Nat) : Nat := s.pwr.junctions.getD (if a < 72 then 4 else (a - 128) / 3 / 8) 0

/-- The operating point of arrays whose columns are written: the ADC reference for nibble or 4-bit input, the bias for the junction
temperature (R181). -/
def State.setPoints (s : State) (l : List Nat) (nibble : Bool) : State :=
  s.modArrs l fun r => { r with nibble := nibble, bias := s.junctionAt r.arr }

/-- The row stream, or the place in the field, of an array passes to another (R215, R564). -/
def State.switchArray (s : State) (a b : Nat) : State :=
  let to_ := fun (l : List Nat) => l.map fun x => if x = a then b else x
  let s := s.modEng fun e => { e with csus := e.csus.map fun u => { u with runs := u.runs.map fun r => { r with arrays := to_ r.arrays } } }
  s.modSpares fun x => { x with field := to_ x.field }

/-- The stand-in takes over from an array, written with its columns and operating point (R215 steps 1 and 2). -/
def State.swapIn (s : State) (a b : Nat) : State :=
  ((s.modArr b fun r => { r with st := 0 }).setPoints [b] (s.arrRec a).nibble).switchArray a b

/-- The brake profile's 16 stacks hold broadcasts, so no other stack may (R519, Table: limit profiles). -/
def State.brakeHolds (s : State) (arb : Nat) : Bool :=
  s.pwr.brake && decide (0x40 ≤ arb) && decide (arb < 0x60) &&
    decide (16 ≤ (s.arbs.filter fun a => decide (0x40 ≤ a.id) && decide (a.id < 0x60) && a.id != arb && !a.granted.isEmpty).length)

/-- The requests of an arbiter that the profiles let through: in Doldrums no background work (R517, Table: limit profiles). -/
def State.eligible (s : State) (a : Arb) : List ArbReq :=
  if s.pwr.doldrums then a.waiting.filter fun r => !r.background else a.waiting

/-- The request the arbiter grants next (R40, R55, R559, R560): the oldest; but while a foreground request waits, a background or
rebuild request only when the time its kind has held in this window is below its ceiling's share of the time elapsed. None while the
coarse field calibrates (R217), and none that a limit profile holds back (R517). -/
def State.arbPick (s : State) (a : Arb) : Option ArbReq :=
  let waiting := s.eligible a
  let fg := waiting.filter fun r => !r.background && !r.rebuild
  if (a.id = 0x80 ∧ s.fieldHeld) ∨ s.brakeHolds a.id then none
  else
  match s.ceilingPct a.id with
  | none => oldest a.id waiting
  | some pct =>
    let el := s.now - a.windowStart
    if fg.isEmpty then a.fairest pct el waiting
    else
      let bgOk := decide (a.bgHeld * 100 < pct * el)
      let rbOk := decide (a.rbHeld * 100 < s.cfg.rebuildPct * el)
      a.fairest pct el (waiting.filter fun r => (!r.background || bgOk) && (!r.rebuild || rbOk))

/-- Grant a request: it becomes the owner, and its counters add the wait (R55 to R59). -/
def State.arbGive (s : State) (id : Nat) (r : ArbReq) (locked : Bool) : State :=
  s.modArb id fun a =>
    { a with waiting := a.waiting.filter (· != r), owner := r.requester, locked := locked, granted := a.granted ++ [r],
             stats := bumpStat a.stats r.requester (arbCycles id (s.now - r.at_)),
             totals := bumpStat a.totals r.requester (arbCycles id (s.now - r.at_)), lastGrant := s.now }

/-- The locked sequence of a grant ends: the time it held counts in the window, the grant parks on its owner (R40, R56,
R57). -/
def State.arbEnd (s : State) (id : Nat) (w : Work) : State :=
  s.modArb id fun a =>
    match a.granted.find? (·.work == w) with
    | none => a
    | some r =>
      let left := a.granted.filter (·.work != w)
      let held := s.now - max a.lastGrant a.windowStart
      let a := { a with granted := left, locked := !left.isEmpty, idleAt := s.now, rbHeld := a.rbHeld + (if r.rebuild then held else 0) }
      if r.background then a.addHeld w.activity held else a

/-- The arbiter's grant in force is for this work. -/
def State.arbHolds (s : State) (id : Nat) (w : Work) : Bool := (s.arb id).granted.any (·.work == w)

/-- The grant is this work's, or is its to take: the resource is free and the arbiter's choice falls on it (R40, R55). -/
def State.turnsTo (s : State) (w : Work) (arb : Nat) : Bool :=
  s.arbHolds arb w || ((s.arb arb).granted.isEmpty && (s.arbPick (s.arb arb)).any (·.work == w))

/-- The work takes the grant that is its to take. -/
def State.takeGrant (s : State) (w : Work) (arb : Nat) : State :=
  match (s.arb arb).waiting.find? (·.work == w) with
  | some r => s.arbGive arb r true
  | none => s

/-- Work that is no longer wanted withdraws its requests, and what it has been granted ends. -/
def State.dropWork (s : State) (p : Work → Bool) : State :=
  let s := s.arbWithdraw p
  (s.arbs.flatMap fun a => (a.granted.filter fun r => p r.work).map fun r => (a.id, r.work)).foldl (fun s x => s.arbEnd x.1 x.2) s

/-- The work is granted, or may take, every one of some arbiters. -/
def State.turnsAll (s : State) (w : Work) (arbs : List Nat) : Bool := arbs.all (s.turnsTo w)

/-- The work takes its grants, is done, and they end. -/
def State.useGrants (s : State) (w : Work) (arbs : List Nat) : State :=
  arbs.foldl (fun s a => (s.takeGrant w a).arbEnd a w) s

/-- The work is requested at every one of some arbiters where it does not hold the grant, under a requester index. -/
def State.requestAt (s : State) (requester : Nat) (background : Bool) (w : Work) (arbs : List Nat) : State :=
  arbs.foldl (fun s a => if s.arbHolds a w then s else s.arbRequest a requester background false w) s

/-- The work is requested at these arbiters and at no other; a request elsewhere is withdrawn. -/
def State.requestOnly (s : State) (requester : Nat) (background : Bool) (w : Work) (arbs : List Nat) : State :=
  let s := s.arbs.foldl (fun s a => if arbs.contains a.id then s
    else (s.modArb a.id fun a => { a with waiting := a.waiting.filter (·.work != w) }).arbEnd a.id w) s
  s.requestAt requester background w arbs

/-- The work of a unit that has no index of its own is requested (log 31). -/
def State.requestAll (s : State) (w : Work) (arbs : List Nat) : State := s.requestAt 0 false w arbs

/-! ### Flash programs and free blocks (R421, R422; the counts: log 47) -/

/-- Data with its parity goes into the channel's open blocks, and full ones are taken from the free blocks (R422, R426). -/
def Channel.program (c : Channel) (bytes : Nat) : Channel :=
  let n := c.openBytes + bytes + bytes / 30
  { c with freeBlocks := c.freeBlocks - n / 33554432, openBytes := n % 33554432 }

/-- A block is free once its valid pages are rewritten (R422). -/
def Channel.freeOne (c : Channel) (valid : Nat) : Channel :=
  ({ c with freeBlocks := min 120832 (c.freeBlocks + 1) } : Channel).program (16384 * valid)

/-- The free blocks of a channel are below 0.5 % of its 126,976 blocks, so its new programs wait (R422). -/
def State.programsWait (s : State) (ch : Nat) : Bool := decide ((s.tier.channels.getD ch {}).freeBlocks * 200 < 126976)

/-- Program bytes on a channel (R420, R422). -/
def State.programBytes (s : State) (ch bytes : Nat) : State := s.modChannel ch (·.program bytes)

/-- Enabled channels in service that list homes do not move away from and row pages go to (R567). -/
def State.usableChannels (s : State) : List Nat :=
  s.channelsOn.filter fun c =>
    let x := s.tier.channels.getD c {}
    !x.offline && x.reservedBlocks != 0 && decide (96 ≤ x.overProv)

/-- The channels that the next row pages go to, in rotation (R421). -/
def State.rowTargets (s : State) (pages : Nat) : List Nat :=
  let cs := s.usableChannels
  if cs.isEmpty then [] else (List.range pages).map fun i => cs.getD ((s.tier.rowTurn + i) % cs.length) 0

/-- Program row pages (R421). -/
def State.programRows (s : State) (pages : Nat) : State :=
  let to_ := s.rowTargets pages
  s.modTier fun e =>
    { e with rowTurn := (e.rowTurn + pages) % 32,
             channels := e.channels.mapIdx fun i c => if to_.contains i then c.program (16384 * to_.count i) else c }

/-- A write that goes to every enabled channel waits for each (R344, R422, R423). -/
def State.anyWaits (s : State) : Bool := s.channelsOn.any s.programsWait

/-- Program bytes evenly over the enabled channels (R344). -/
def State.programSpread (s : State) (bytes : Nat) : State :=
  s.modTier fun e =>
    { e with channels := e.channels.mapIdx fun i c => if s.channelOn i then c.program (bytes / s.channelsOn.length) else c }

/-! ### The journal and the ledger (R65, R67, R287, R430) -/

/-- The enabled channel with the fewest entries awaiting program, the lowest on equal counts (R421). -/
def State.journalChannel (s : State) : Nat :=
  let waiting := fun c => (s.tier.journal.filter fun e => e.channel == c && (e.phase == .waiting)).length
  let cs := s.channelsOn.filter fun c => !(s.tier.channels.getD c {}).offline
  cs.foldl (fun best c => if waiting c < waiting best then c else best) (cs.headD 0)

/-- Put an entry into the write buffer's journal (R287, R430). -/
def State.addJournal (s : State) (k : JKind) (shard stamp bytes : Nat) : State :=
  let ch := s.journalChannel
  s.modTier fun e =>
    { e with journal := e.journal ++ [⟨e.nextSeq, k, shard, stamp, false, bytes, ch, .waiting, true, s.now, false, none, false⟩],
             nextSeq := e.nextSeq + 1 }

/-- A node-record commit is in the journal before it ends (R93). -/
def State.recordNode (s : State) : State := s.addJournal .nodeRecord 0 1 64

/-- Bytes of mutations in the write buffer, and of node-record commits and switches (R429). -/
def State.bufferMutations (s : State) : Nat :=
  s.tier.journal.foldl (fun n e => match e.kind with | .member _ _ => if e.inBuffer then n + e.bytes else n | _ => n) 0
def State.bufferCommits (s : State) : Nat :=
  s.tier.journal.foldl (fun n e => match e.kind with | .member _ _ => n | _ => if e.inBuffer then n + e.bytes else n) 0

/-- Bytes of the journal area held by entries not retired; its size is 32 GiB a channel (R419). -/
def State.journalArea (s : State) : Nat :=
  s.tier.journal.foldl (fun n e => if e.phase == .programmed || e.phase == .homed then n + e.bytes else n) 0

/-- The journal limit for mutations (R429): 240 MiB of mutations, or the journal area 95 % full. -/
def State.journalLimit (s : State) (bytes : Nat) : Bool :=
  decide (240 * 2 ^ 20 < s.bufferMutations + bytes) ||
  decide (s.channelsOn.length * 32 * 2 ^ 30 * 95 ≤ s.journalArea * 100)

/-- The 16 MiB kept for node-record commits cannot take another entry (R93, R429). -/
def State.commitLimit (s : State) : Bool := decide (16 * 2 ^ 20 < s.bufferCommits + 64)

/-- A grant of a shard's ledger arbiter to what has waited since `since` (R59). -/
def State.countLedger (s : State) (d : Shard) (since : Nat) : State :=
  let id := 0x1000 + d.ledger
  let wait := arbCycles id (s.now - since)
  s.modArb id fun a =>
    { a with owner := 0, stats := bumpStat a.stats 0 wait, totals := bumpStat a.totals 0 wait, lastGrant := s.now }

/-- Nothing older waits at the shard's ledger arbiter. -/
def Shard.turn (d : Shard) (w : LedgerWhat) : Bool := match d.waiting.head? with | none => true | some x => x.2 == w

/-- `w` leaves the shard's ledger arbiter, granted. -/
def State.leaveLedger (s : State) (w : LedgerWhat) (shard : Nat) : State :=
  match s.shard? shard with
  | none => s
  | some d =>
    let since := ((d.waiting.find? (·.2 == w)).map (·.1)).getD s.now
    (s.modShard shard fun d => { d with waiting := d.waiting.filter (·.2 != w) }).countLedger d since

/-- `w` gives its place at the shard's ledger arbiter up. -/
def State.quitLedger (s : State) (w : LedgerWhat) (shard : Nat) : State :=
  s.modShard shard fun d => { d with waiting := d.waiting.filter (·.2 != w) }

/-- `w` waits at the shard's ledger arbiter from now on, behind what waits already (R55). -/
def State.joinLedger (s : State) (w : LedgerWhat) (shard : Nat) : State :=
  s.modShard shard fun d => if d.waiting.any (·.2 == w) then d else { d with waiting := d.waiting ++ [(s.now, w)] }

/-- A pass of the ledger arbiters of some shards in one step (R55, R65): once nothing older waits at any of them it is granted and
`go` is what it does; until then it waits at each of them, and its row comes again. -/
def State.passLedgers (s : State) (shards : List Nat) (w : LedgerWhat) (go : State → State) : State :=
  if shards.all fun i => (s.shard? i).all (·.turn w) then go (shards.foldl (State.leaveLedger · w) s)
  else shards.foldl (State.joinLedger · w) s

/-- A mutation passes the ledger arbiter: the counter increments and its new value is the stamp (R65, R66). -/
def State.bumpStamp (s : State) (shard : Nat) : State := s.modShard shard fun h => { h with counter := h.counter + 1 }

/-- A switch takes its stamp W and is journaled in the same way as a mutation (R287). -/
def State.takeSwitch (s : State) (shard : Nat) : Nat × State :=
  let w := ((s.shard? shard).map (·.counter)).getD 0 + 1
  (w, (s.bumpStamp shard).addJournal (.switch shard) shard w 64)

/-- A shard's oldest held read stamp (R281). -/
def Shard.oldestRead (h : Shard) : Nat := h.readers.foldl (fun n r => min n r.2) h.counter

/-- No reader of the shard holds a read stamp below `w`. -/
def Shard.drainedBelow (h : Shard) (w : Nat) : Bool := h.readers.all fun r => decide (w ≤ r.2)

/-- A reader gives up its read stamp. -/
def State.dropReader (s : State) (shard : Nat) (r : ReaderId) : State :=
  s.modShard shard fun h => { h with readers := h.readers.filter (·.1 != r) }

/-- The owner node of a shard, by the shard map this node holds (R148). -/
def State.ownerOf (s : State) (shard : Nat) : Option Nat :=
  match s.colls.find? fun c => decide (c.spec.firstShard ≤ shard) && decide (shard < c.spec.firstShard + c.spec.shards) with
  | none => none
  | some c => c.spec.owners[shard - c.spec.firstShard]?

/-- The node that serves a shard (R68, R148): this one where it owns it, the new owner where it has moved on, else its owner by the
map. -/
def State.serverOf (s : State) (shard : Nat) : Option Nat :=
  match s.shard? shard with
  | some d => some (d.forwardTo.getD s.nodeId)
  | none => s.ownerOf shard

/-- Rights of a function to a collection on this node (R440): the PF holds all. -/
def State.rights (s : State) (f c : Nat) : Nat :=
  if f = 0 then 0x3F
  else match s.coll? c with
    | none => 0
    | some x => ((x.rights.find? (·.1 == f)).map (·.2)).getD 0

/-- The function charged for a collection's storage on this node (R274): its creator on the creating node, else the PF. -/
def State.chargedFn (s : State) (c : Coll) : Nat := if c.spec.id / 2 ^ 20 = s.nodeId then c.spec.creatingFunction else 0

/-! ### Fabric frames (R475, R480) -/

/-- The virtual channel of a tag kind (R475). -/
def channelOf (kind : Nat) : Nat :=
  if (1 ≤ kind && kind ≤ 0x0C) || kind = 0x10 then 0
  else if kind = 0x0D then 1
  else if kind = 0x11 then 3
  else 2

/-- The route mask of a destination (R480): ports UP or NARROW toward a neighbour not resting that reaches it. -/
def State.routePorts (s : State) (dest : Nat) : List Nat :=
  (List.range 8).filter fun p =>
    let q := s.port p
    (q.st == .up || q.st == .narrow) && !q.resting &&
      (if s.switched then !(s.peers.any fun x => x.node == dest && x.rest.getLsbD p) else q.known && q.neighbour == dest)

/-- A tag of work for a request of this node (R46). -/
def State.tagFor (s : State) (r : Req) (dest shard : Nat) : Tag :=
  ⟨r.fn, r.qosClass, false, r.opcode, r.num, s.nodeId, dest, shard, 0, false, 0⟩

/-- The next request number that no outstanding or cancelled request of this node holds (R47, R461). -/
def State.freeNumFrom (s : State) (n : Nat) : Nat → Option Nat
  | 0 => none
  | fuel + 1 =>
    if s.reqs.any (·.num == n) || s.heldNums.any (·.nums.contains n) then s.freeNumFrom ((n + 1) % 2 ^ 24) fuel else some n

/-- R47: a number is free, and fewer than 16,777,215 requests are outstanding. -/
def State.freeNum (s : State) : Option Nat :=
  let held : Nat := s.reqs.length + s.heldNums.foldl (fun n (h : HeldNums) => n + h.nums.length) 0
  if 16777215 ≤ held then none else s.freeNumFrom (s.nextNum % 2 ^ 24) (held + 1)

/-- A tag of firmware work (R46). -/
def State.fwTag (s : State) (kind num dest shard : Nat) (background : Bool) : Tag :=
  ⟨0, 0, background, kind, num, s.nodeId, dest, shard, 0, true, 0⟩

/-- A tag of control work that a function's mailbox command started (R46, Table: tag kinds). -/
def State.controlTag (s : State) (fn num dest : Nat) : Tag :=
  ⟨fn, (s.fn fn).qosClass, false, 0x10, num, s.nodeId, dest, 0xFFFFFF, 0, false, 0⟩

end Sys2Proof.Machine
end

