-- ==== Sys2Proof/Machine/Flags.lean ====
section
/-! DEFINITION. Register words: what a read of each BAR0 register gives, field by field, from the state (R20: reserved
fields read zero). The four read-sensitive registers are read by rows of their own; here they read without their effect. -/

namespace Sys2Proof.Machine

open Sys2Proof

/-- A VF exists while VF Enable is 1 and its number is at or below NumVFs; the PF always exists (R437). -/
def State.fnExists (s : State) (f : Nat) : Bool := f == 0 || (s.pins.vfEnable && decide (f ≤ s.pins.numVfs))

/-- Any of some fields `(low bit, value)` put together in one word. -/
def word (fields : List (Nat × Nat)) : Nat := fields.foldl (fun n f => n + f.2 * 2 ^ f.1) 0

/-- FN_STATUS.degraded: a collection the function has rights to has degraded lists. -/
def State.fnDegraded (s : State) (f : Nat) : Bool :=
  s.colls.any fun c =>
    s.rights f c.spec.id != 0 &&
      s.lists.any fun l => l.degraded && (s.shard? l.shard).any fun h => h.coll == c.spec.id

/-- FN_STATUS (Table: FN register map). -/
def State.fnStatusWord (s : State) (f : Nat) : Nat :=
  let x := s.fn f
  word [(0, b2n x.ready), (1, b2n x.resetBusy), (2, b2n s.pwr.doldrums), (3, b2n (s.fnDegraded f))]

/-- FN_EVENTS. -/
def Fn.eventsWord (x : Fn) : Nat :=
  word [(0, b2n x.evMbxDone), (1, b2n x.evQueueError), (2, b2n x.evQuota), (3, b2n x.evPool)]

/-- FN_RESOURCES (R80). -/
def Fn.resourcesWord (x : Fn) : Nat :=
  word [(0, x.queueFirst), (12, x.queueCount), (24, x.msixCount), (31, x.qosClass), (34, b2n x.mayCreate)]

/-- Encodings of MBX_STATUS.state. -/
def MbxState.code : MbxState → Nat
  | .idle => 0 | .posted => 1 | .busy => 2 | .done => 3

/-- MBX_STATUS. -/
def Mbox.statusWord (m : Mbox) : Nat :=
  word [(0, m.st.code), (8, m.status.toNat), (16, m.sequence.toNat), (32, m.detail.toNat), (48, b2n m.overrun),
        (49, b2n m.discarded)]

/-- INT_PBA. -/
def Fn.pbaWord (x : Fn) : Nat :=
  (List.range 64).foldl (fun n v => n + (if (x.vecs.getD v {}).pending then 2 ^ v else 0)) 0

/-- The queue that INT_CQ_SELECT names (R451). -/
def State.selectedQueue (s : State) (f : Nat) : Option Queue :=
  let x := s.fn f
  if x.cqSelect.toNat < x.queueCount then s.queue? (x.queueFirst + x.cqSelect.toNat) else none

/-- The identifier names a fixed arbiter of a unit that is built in and enabled (R12, R13): a channel's bus, a stack's port, the
coarse field, a tile's clusters. -/
def State.arbBuilt (s : State) (id : Nat) : Bool :=
  if id < 0x20 then s.channelOn id
  else if 0x40 ≤ id && id < 0x60 then s.stacksOn.contains (id - 0x40)
  else if 0x90 ≤ id && id < 0x94 then s.tileOn (id - 0x90)
  else id == 0x80

/-- Requesters of an arbiter (R92, R515, R570); none where the identifier names no arbiter, no shard (R60) or a unit that is not
there (R13). Where the manual gives no count it is a free value. -/
def State.arbRequesters (s : State) (id : Nat) : Option Nat :=
  if id = 0x00A0 then some 129
  else if id = 0x00A1 then some 89
  else if id = 0x00A2 then some 111
  else if 0x1000 ≤ id then
    if s.shards.any fun h => h.ledger + 0x1000 == id then some (Config.freeNat (2 ^ 65 + id) % 256) else none
  else if s.arbBuilt id then
    some (Config.freeNat (2 ^ 65 + id) % 256)
  else none

/-- The live counters of the selected requester, when R60 lets them be read. -/
def State.arbSelected (s : State) : Option ArbStat :=
  match s.arbRequesters s.arbSelect.toNat with
  | none => none
  | some n =>
    let r := s.arbRequester.toNat
    if r < n then some (((s.arb s.arbSelect.toNat).stats.find? (·.requester == r)).getD ⟨r, 0, 0, 0⟩) else none

/-- ARB_INFO; for the recovery arbiter, R571. -/
def State.arbInfoWord (s : State) : Nat :=
  let id := s.arbSelect.toNat
  match s.arbRequesters id with
  | none => 0
  | some n =>
    let a := s.arb id
    word [(0, arbPeriod id % 65536), (16, n % 256), (24, a.owner % 256), (32, b2n a.locked)]

/-- The arithmetic clock in force: the lowest of the demands (R517). -/
def Power.arithMhz (p : Power) : Nat := min (min p.brakeArith p.dolArith) (min p.capArith p.thArith)
/-- The core clock in force (R517). -/
def Power.coreMhz (p : Power) : Nat := min (min p.brakeCore p.dolCore) (min p.capCore p.thCore)

/-- Encodings of PWR_STATE.state (R506). -/
def PState.code : PState → Nat
  | .gale => 0 | .breeze => 1 | .lull => 2 | .calm => 3

/-- PWR_STATE. -/
def State.pwrStateWord (s : State) : Nat :=
  let p := s.pwr
  word [(0, p.st.code), (2, b2n p.doldrums), (3, b2n p.brake), (4, b2n (p.capArith < 2400 || p.capCore < 3000)),
        (5, b2n (p.thArith < 2400 || p.thCore < 3000)), (16, s.cfg.powerCap), (32, p.arithMhz), (48, p.coreMhz)]

/-- The hottest place, lowest number first, and its temperature. -/
def hottest : List Nat → Nat × Nat
  | [] => (0, 0)
  | t :: rest => let (i, m) := hottest rest; if m ≤ t then (0, t) else (i + 1, m)

/-- PWR_THERMAL. -/
def Power.thermalWord (p : Power) : Nat :=
  let (i, m) := hottest p.junctions
  word [(0, m % 256), (8, i), (16, p.inletC % 256)]

/-- Encodings of PORT_STATE.state (R492). -/
def PortState.code : PortState → Nat
  | .dark => 0 | .training => 1 | .up => 2 | .narrow => 3 | .conflict => 4 | .kept => 5 | .down => 6

/-- PORT_STATE; in switched mode the neighbour fields read 0 (R492). -/
def State.portStateWord (s : State) : Nat :=
  let q := s.port s.portSelect.toNat
  let mesh := !s.switched
  word [(0, q.st.code), (3, q.width), (7, b2n q.spareFree), (8, if mesh then q.neighbour else 0),
        (20, if mesh then q.neighbourPort else 0), (23, b2n (mesh && q.resting))]

/-- PORT_ERRORS. -/
def Port.errorsWord (q : Port) : Nat :=
  word [(0, q.retries.toNat), (16, q.tagDiscards.toNat), (32, q.uncorrectable.toNat), (48, q.swaps.toNat),
        (56, q.retrains.toNat)]

/-- PORT_LANES. -/
def Port.lanesWord (q : Port) : Nat :=
  word [(0, q.rxInUse.toNat), (9, q.rxFailed.toNat), (18, q.txInUse.toNat), (27, q.txFailed.toNat)]

/-- The inactive image slot (R546). -/
def Ao.inactive (a : Ao) : ImgSlot := if a.activeB then a.slotA else a.slotBImg

/-- Patch, minor and major of the running firmware, from its image header (R110, R547); 0 in recovery (R552). -/
def Ao.fwVersion (a : Ao) : Nat × Nat × Nat :=
  if a.stage == .recovery then (0, 0, 0) else (byteAt a.header 8, byteAt a.header 9, byteAt a.header 10)

/-- AO_RESET_CAUSE. -/
def Ao.causeWord (a : Ao) : Nat := word [(0, a.cause.toNat), (8, a.prior.toNat), (16, a.nodeResets)]

/-- AO_BOOT. -/
def Ao.bootWord (a : Ao) : Nat :=
  word [(0, b2n a.slotB), (1, b2n a.fallback), (2, a.attempts), (5, a.optionSource), (7, b2n a.masksSubstituted),
        (8, b2n (a.stage == .recovery)), (32, a.boots)]

/-- RST_STATUS: pending_slot is the inactive slot while its state is pending (R107, R550). -/
def State.rstStatusWord (s : State) : Nat :=
  let pend := if s.ao.inactive.st = 3 then (if s.ao.activeB then 0 else 1) else 3
  word [(0, b2n s.pins.resetN), (1, b2n s.pins.perstN), (2, s.ao.opt.perstScope % 2), (3, s.ao.opt.debugLock % 2), (4, pend)]

/-- RST_OTP. -/
def Otp.otpWord (o : Otp) : Nat :=
  let bitsOf := fun (p : Bool × Bytes × Bool → Bool) =>
    (List.range 4).foldl (fun n i => n + (if (o.keys[i]?).any p then 2 ^ i else 0)) 0
  word [(0, bitsOf (·.1)), (4, bitsOf (·.2.2)), (32, o.minSecurity)]

/-- Spare cores still free (R15, R564): one each on tiles 0 and 2 as far as they are enabled, less those taken. -/
def State.coresSpare (s : State) : Nat := ([0, 2].filter s.tileOn).length - (2 - s.spares.cores)

/-- Spare clusters still free on the enabled tiles (R564). -/
def State.clustersSpare (s : State) : Nat := s.tilesOn.foldl (fun n t => n + s.spares.clusters.getD t 0) 0

/-- Spares still free (R17, R583). -/
def State.telSparesWord (s : State) : Nat :=
  let ch := s.channelsOn
  let ports := (List.range 8).filter s.portOn
  word [(0, s.coresSpare), (2, s.clustersSpare), (5, s.spares.coarse),
        (9, (ch.filter fun c => !s.spares.csuUsed.contains c).length % 64),
        (15, (s.stacksOn.filter fun c => !s.spares.dramUsed.contains c).length % 64),
        (21, (ch.filter fun c => (s.tier.channels.getD c {}).spareDie).length % 64),
        (27, (ports.foldl (fun n p => n + b2n (s.port p).spareFree + b2n (s.port p).txSpareFree) 0) % 32)]

/-- TEL_FAULTS (R583). -/
def State.telFaultsWord (s : State) : Nat :=
  word [(0, (s.spares.recoveries.filter (·.running)).length), (3, (s.spares.recoveries.filter fun r => !r.running).length),
        (32, min s.degradedCount 0xFFFFFFFF)]

/-- What the 8 bytes at an 8-byte aligned BAR0 offset of function `f` read as (R77, R78). -/
def State.readRegister (s : State) (f off : Nat) : Nat :=
  let x := s.fn f
  let m := s.mbox f
  let q := s.port s.portSelect.toNat
  if off = 0x0000 then word [(0, f), (7, b2n (f == 0)), (8, s.nodeId)]
  else if off = 0x0008 then
    let v := s.ao.fwVersion
    word [(0, Config.zizonMinor), (8, Config.zizonMajor), (16, v.1), (24, v.2.1), (32, v.2.2)]
  else if off = 0x0010 then s.fnStatusWord f
  else if off = 0x0018 then x.eventsWord
  else if off = 0x0020 then x.resourcesWord
  else if off = 0x1008 then m.statusWord
  else if off = 0x1018 then word [(0, m.vector.toNat), (6, b2n m.irqEnable)]
  else if off = 0x1020 then word [(0, 1792), (16, 2048)]
  else if off = 0x1028 then word [(0, m.elapsed.toNat), (32, m.wait.toNat)]
  else if 0x1100 ≤ off && off < 0x1800 then le (memReadAll m.req (off - 0x1000) 8) 0 8
  else if 0x1800 ≤ off && off < 0x2000 then le (memReadAll m.resp (off - 0x1000) 8) 0 8
  else if 0x2000 ≤ off && off < 0x2400 then
    let e := x.vecs.getD ((off - 0x2000) / 16) {}
    if off % 16 = 0 then word [(0, e.addrLo.toNat), (32, e.addrHi.toNat)] else word [(0, e.data.toNat), (32, b2n e.mask)]
  else if off = 0x2800 then x.pbaWord
  else if off = 0x2C00 then x.cqSelect.toNat
  else if off = 0x2C08 then
    match s.selectedQueue f with
    | none => 0
    | some u => word [(0, u.coalCount.toNat), (16, u.coalDelay.toNat), (32, b2n u.irqEnable)]
  else if off = 0x2C10 then ((s.selectedQueue f).map (·.pendingMsgs)).getD 0
  else if off = 0x2C18 then word [(0, b2n x.overPeak), (16, (x.fillCeiling s.now).ceiling / 25000)]
  else if off = 0x2C20 then x.heldCount.toNat
  else if f ≠ 0 then 0
  else if off = 0x20000 then word [(0, s.arbSelect.toNat), (16, s.arbRequester.toNat)]
  else if off = 0x20008 then s.arbInfoWord
  else if off = 0x20010 then (s.arbSelected.map (·.grants)).getD 0
  else if off = 0x20018 then if s.arbSelected.isSome then s.arbWaitTotal.toNat else 0
  else if off = 0x20020 then if s.arbSelected.isSome then s.arbWaitMax.toNat else 0
  else if off = 0x21000 then s.telFaultsWord
  else if off = 0x21008 then s.telSparesWord
  else if off = 0x21010 then word [(0, s.tier.lostRows), (32, s.tier.lostVectors)]
  else if off = 0x22000 then s.ao.now
  else if off = 0x22008 then s.ao.causeWord
  else if off = 0x22010 then s.ao.bootWord
  else if off = 0x22018 then s.ao.watchdog / Config.ticksPerMs
  else if off = 0x22020 then word [(0, s.ao.nextEntry % 2 ^ 32), (32, s.ao.log.length)]
  else if off = 0x22028 then s.ao.epoch.toNat
  else if off = 0x23000 then s.pwrStateWord
  else if off = 0x23008 then word [(0, s.pwr.inputMv % 65536), (16, s.pwr.inputMa % 65536), (32, s.pwr.inputW % 65536)]
  else if off = 0x23010 then s.pwr.thermalWord
  else if off = 0x23018 then s.pwr.events.toNat
  else if off = 0x23020 then s.pwr.gustWaits
  else if off = 0x23028 then s.pwr.gustTotalCap
  else if off = 0x23030 then s.pwr.gustMaxCap
  else if off = 0x23038 then word [(0, s.pwr.entries % 2 ^ 32), (32, s.pwr.lastMs % 2 ^ 32)]
  else if off = 0x24008 then s.rstStatusWord
  else if off = 0x24010 then s.ao.otp.otpWord
  else if off = 0x25000 then s.portSelect.toNat
  else if off = 0x25008 then s.portStateWord
  else if off = 0x25010 then q.lanesWord
  else if off = 0x25018 then q.errorsWord
  else if off = 0x25020 then word [(0, q.worstBer.toNat), (32, q.worstLane.toNat)]
  else if off = 0x25028 then q.txBytes.toNat
  else if off = 0x25030 then q.rxBytes.toNat
  else if off = 0x25038 then q.creditWait.toNat
  else if off = 0x25040 then word [(0, s.nodeId), (12, b2n s.switched)]
  else 0

end Sys2Proof.Machine
end

