-- ==== Sys2Proof/Machine/Operands.lean ====
section
/-! DEFINITION. Operand forms: number formats as exact integers (FP32 and BF16 values in units of 2^-149, E4M3 scales in
units of 2^-9), quantisation, the corrected dot product, the owner shard of an identifier, CRC-32C, tags and frames. -/

namespace Sys2Proof.Machine

open Sys2Proof

/-- Bytes put at their offsets in `n` zero bytes. -/
def layout (n : Nat) (fields : List (Nat × Bytes)) : Bytes :=
  (List.range n).map fun i =>
    match fields.find? fun f => decide (f.1 ≤ i) && decide (i < f.1 + f.2.length) with
    | some f => f.2.getD (i - f.1) 0
    | none => 0

/-! ### FP32, BF16, E4M3 -/

/-- The exact value of an FP32 word in units of 2^-149; none for an infinity or NaN. -/
def fp32Value (w : Nat) : Option Int :=
  let e := field w 23 8
  let m := field w 0 23
  if e = 255 then none
  else
    let a : Nat := if e = 0 then m else (2 ^ 23 + m) * 2 ^ (e - 1)
    some (if bit w 31 then -(a : Int) else (a : Int))

/-- The exact value of a BF16 word in units of 2^-149. -/
def bf16Value (w : Nat) : Option Int := fp32Value (w % 65536 * 65536)

/-- The value of an E4M3 byte in units of 2^-9 (OCP FP8, magnitude; 0x7F is not a number and reads 0). -/
def e4m3Value (b : Nat) : Nat :=
  let e := field b 3 4
  let m := field b 0 3
  if b % 128 = 127 then 0 else if e = 0 then m else (8 + m) * 2 ^ (e - 1)

/-- Integer quotient rounded half to even; `d` is positive. -/
def roundDiv (n : Int) (d : Nat) : Int :=
  let q := n.fdiv d
  let r := n - q * d
  if 2 * r < d then q else if (d : Int) < 2 * r then q + 1 else if q % 2 = 0 then q else q + 1

/-- The magnitude bits of a value `n` in units of 2^-u in a format with FP32's exponents and `p` fraction bits, rounded half
to even, infinity on overflow. -/
def encodeFloat (p n u : Nat) : Nat :=
  if n = 0 then 0
  else
    let l : Int := (Nat.log2 n : Int) - u
    let q : Int := max (l - p) (-126 - p)
    let k : Int := q + u
    let r : Nat := if 0 ≤ k then (roundDiv n (2 ^ k.toNat)).toNat else n * 2 ^ (-k).toNat
    min ((q + 126 + p).toNat * 2 ^ p + r) (255 * 2 ^ p)

/-- FP32 word of a value in units of 2^-u. -/
def fp32Encode (v : Int) (u : Nat) : Nat := encodeFloat 23 v.natAbs u + (if v < 0 then 2 ^ 31 else 0)

/-- BF16 word of a value in units of 2^-149, half to even (R309). -/
def bf16Encode (v : Int) : Nat := encodeFloat 7 v.natAbs 149 + (if v < 0 then 32768 else 0)

/-- A value in units of 2^-149 rounded to BF16, in the same units. -/
def roundBf16 (v : Int) : Int :=
  let m := encodeFloat 7 v.natAbs 149
  match bf16Value m with
  | some a => if v < 0 then -a else a
  | none => v

/-- A value in units of 2^-u rounded to FP32, in units of 2^-149; none on overflow. -/
def roundFp32 (v : Int) (u : Nat) : Option Int := fp32Value (fp32Encode v u)

/-- A value in units of 2^-298 rounded to FP32, in the same units; an overflow is an infinity, which stands as ±2^128. -/
def toFp32 (v : Int) : Int :=
  match roundFp32 v 298 with
  | some x => x * 2 ^ 149
  | none => if v < 0 then -(2 ^ 426) else 2 ^ 426

/-- A value in units of 2^-298, not negative and within FP16, rounded half to even to FP16, in the same units (R162). -/
def roundFp16 (n : Nat) : Nat :=
  if n = 0 then 0
  else
    let q : Nat := max (Nat.log2 n - 10) 274
    (roundDiv n (2 ^ q)).toNat * 2 ^ q

/-- The FP16 word of such a value. -/
def fp16Encode (n : Nat) : Nat :=
  let r := roundFp16 n
  let l := Nat.log2 r
  if l < 284 then r / 2 ^ 274 else (l - 283) * 1024 + r / 2 ^ (l - 10) - 1024

/-- An error held within a bound that is not negative. -/
def clampTo (bound e : Int) : Int := max (-bound) (min bound e)

/-- What the order and the roundings of a sum of `n` FP32 terms can change, where the magnitudes of the terms add up to `mag`: a bit
of the 24 for each of them and for the steps before and after. -/
def fp32Slack (n : Nat) (mag : Int) : Int := mag * (n + 8) / 2 ^ 23 + 1

/-- The bits of an integer square root from bit `b` - 1 down. -/
def isqrtFrom : Nat → Nat → Nat → Nat
  | 0, _, r => r
  | b + 1, n, r => isqrtFrom b n (if (r + 2 ^ b) * (r + 2 ^ b) ≤ n then r + 2 ^ b else r)

/-- The integer square root. -/
def isqrt (n : Nat) : Nat := isqrtFrom (Nat.log2 n / 2 + 1) n 0

/-! ### Vectors in an input buffer (R181, R262, R263) -/

/-- `n` elements of FP32 from an offset. -/
def readFp32s (b : Bytes) (off : Nat) : Nat → Option (List Int)
  | 0 => some []
  | n + 1 => do return (← fp32Value (le b off 4)) :: (← readFp32s b (off + 4) n)

/-- `n` elements of BF16 from an offset. -/
def readBf16s (b : Bytes) (off : Nat) : Nat → Option (List Int)
  | 0 => some []
  | n + 1 => do return (← bf16Value (le b off 2)) :: (← readBf16s b (off + 2) n)

/-- The largest finite FP32 magnitude in units of 2^-149. -/
def fp32Max : Nat := (2 ^ 24 - 1) * 2 ^ 253

/-- `n` elements of the SQ8 input form, element `i` first: code `i` and the descriptor of its group of 32. -/
def readSq8s (b : Bytes) (off d : Nat) : List Nat → Option (List Int)
  | [] => some []
  | i :: rest => do
    let g := off + d + 4 * (i / 32)
    let s ← bf16Value (le b g 2)
    let v := s * ((byteAt b (off + i) : Int) - byteAt b (g + 2))
    if fp32Max < v.natAbs then none else return v :: (← readSq8s b off d rest)

/-- Bytes of a vector in each format: 0 FP32, 1 BF16, 2 SQ8 input form (R262, R263). -/
def vectorBytes (format d : Nat) : Nat := if format = 0 then 4 * d else if format = 1 then 2 * d else d + 4 * (d / 32)

/-- The elements of a vector, none when one is not finite. -/
def readVector (format d : Nat) (b : Bytes) (off : Nat) : Option (List Int) :=
  if format = 0 then readFp32s b off d
  else if format = 1 then readBf16s b off d
  else readSq8s b off d (List.range d)

/-- Offsets of byte 3 of the group descriptors of an SQ8 input form, reserved under R21. -/
def sq8Reserved (off d : Nat) : List (Nat × Nat) := (List.range (d / 32)).map fun g => (off + d + 4 * g + 3, 1)

/-! ### Dot products and norms -/

/-- Exact dot product: units of 2^-298. -/
def dot : List Int → List Int → Int
  | a :: as, b :: bs => a * b + dot as bs
  | _, _ => 0

/-- Exact squared L2 norm, units of 2^-298. -/
def sqNorm (v : List Int) : Int := dot v v

/-- The magnitudes of the terms of a dot product, added. -/
def absDot (a b : List Int) : Int := dot (a.map fun x => (x.natAbs : Int)) (b.map fun x => (x.natAbs : Int))

/-- A vector scaled to unit L2 norm in FP32 (R157); the manual fixes no order of the sum, so each element is within its slack. -/
def normalise (v : List Int) : List Int :=
  let root : Int := isqrt ((sqNorm v).toNat * 2 ^ 128)
  v.mapIdx fun i e =>
    let x := e * 2 ^ 213 / root
    (roundFp32 (x + clampTo (fp32Slack v.length x.natAbs) (Config.normaliseError v i)) 149).getD x

/-- The element of largest magnitude, the first of equal ones. -/
def largest : List Int → Int
  | [] => 0
  | [a] => a
  | a :: rest => if a.natAbs < (largest rest).natAbs then largest rest else a

/-- The rows of a trained projection (R153): BF16, each with its element of largest magnitude positive, the lowest index deciding on
equal ones. -/
def trainedRows (sample : List (List Int)) (p : Nat) : List (List Int) :=
  (Config.principalRows sample p).map fun r =>
    let r := r.map roundBf16
    if largest r < 0 then r.map fun e => -e else r

/-- One element of a projection (R191, R266): the vector in BF16 times a row, in FP32. -/
def projectElement (row v : List Int) : Int :=
  let v := v.map roundBf16
  toFp32 (dot row v + clampTo (fp32Slack v.length (absDot row v)) (Config.projectError row v)) / 2 ^ 149

/-! ### Quantisation (R159 to R161) -/

/-- Escapes a group may hold: SQ4 2 per 64, SQ8 1 per 32. -/
def escapeCap (top n : Nat) : Nat := if top = 14 then 2 * (n / 64) else n / 32

def listMax : List Int → Int
  | [] => 0
  | [a] => a
  | a :: rest => max a (listMax rest)

def listMin : List Int → Int
  | [] => 0
  | [a] => a
  | a :: rest => min a (listMin rest)

/-- The first index whose element is farthest from half of `twice`. -/
def farthest (twice : Int) : List (Nat × Int) → Option (Nat × Int)
  | [] => none
  | x :: rest =>
    match farthest twice rest with
    | none => some x
    | some y => if (2 * x.2 - twice).natAbs < (2 * y.2 - twice).natAbs then some y else some x

/-- The escapes of a group, with `fuel` more allowed: R160's loop over the elements not yet escaped. -/
def chooseEscapes : Nat → List (Nat × Int) → List Nat
  | 0, _ => []
  | fuel + 1, rest =>
    let hi := listMax (rest.map (·.2))
    let lo := listMin (rest.map (·.2))
    match farthest (hi + lo) rest with
    | none => []
    | some j =>
      let without := rest.filter (·.1 != j.1)
      let range := listMax (without.map (·.2)) - listMin (without.map (·.2))
      if hi - lo ≤ 2 * range then [] else j.1 :: chooseEscapes fuel without

/-- The smallest E4M3 byte whose value times `top` is at least `span` (units of 2^-149), between 2^-9 and 448. -/
def smallestScale (span : Int) (top : Nat) : Nat :=
  ((List.range 126).findIdx? fun i => decide (span ≤ (e4m3Value (i + 1) * 2 ^ 140 * top : Nat))).map (· + 1) |>.getD 126

def clampInt (v : Int) (top : Nat) : Nat := (max 0 (min v top)).toNat

/-- R160: quantise one group; `top` is 14 for SQ4 and 254 for SQ8. -/
def quantiseGroup (top : Nat) (v : List Int) : QGroup :=
  let idx := v.zipIdx.map fun x => (x.2, x.1)
  let esc := chooseEscapes (escapeCap top v.length) idx
  let kept := (idx.filter fun x => !esc.contains x.1).map (·.2)
  let lo := min 0 (listMin kept)
  let hi := max 0 (listMax kept)
  let scale := smallestScale (hi - lo) top
  let s := e4m3Value scale * 2 ^ 140
  let z := clampInt (roundDiv (-lo) s) top
  { scale := scale, zero := z,
    codes := idx.map fun x => if esc.contains x.1 then top + 1 else clampInt (roundDiv x.2 s + z) top,
    escapes := (idx.filter fun x => esc.contains x.1).map fun x => (x.1, roundBf16 x.2) }

/-- Cut a list in groups of `n`; `fuel` bounds the number of groups. -/
def chunks (n : Nat) : Nat → List Int → List (List Int)
  | 0, _ => []
  | fuel + 1, l => if l.isEmpty then [] else l.take n :: chunks n fuel (l.drop n)

/-- A whole vector in groups. -/
def quantise (top group : Nat) (v : List Int) : List QGroup := (chunks group v.length v).map (quantiseGroup top)

/-- The value of each element of a group: escapes exactly, others s × (c − z) (R159). -/
def QGroup.values (g : QGroup) : List Int :=
  g.codes.zipIdx.map fun x =>
    match g.escapes.find? (·.1 == x.2) with
    | some e => e.2
    | none => (e4m3Value g.scale : Int) * 2 ^ 140 * ((x.1 : Int) - g.zero)

/-- R161: the sum of the codes, each escaped element counted as the zero point. -/
def QGroup.rowSum (g : QGroup) : Nat :=
  g.codes.zipIdx.foldl (fun n x => n + (if (g.escapes.find? (·.1 == x.2)).isSome then g.zero else x.1)) 0

/-- The decoded vector of a quantised record. -/
def qValues (gs : List QGroup) : List Int := gs.flatMap (·.values)

/-- Codes with the escaped ones replaced by the zero point (R180, R210). -/
def QGroup.plain (g : QGroup) : List Int :=
  g.codes.zipIdx.map fun x => if (g.escapes.find? (·.1 == x.2)).isSome then (g.zero : Int) else x.1

/-- The product of the scales of two groups, in units of 2^-298. -/
def scalePair (q x : QGroup) : Int := (e4m3Value q.scale : Int) * 2 ^ 140 * ((e4m3Value x.scale : Int) * 2 ^ 140)

/-- Steps 1 and 2 of R210 for one group, in units of 2^-298: the group's term over the code-product sum, and its escape terms. -/
def groupTerms (q x : QGroup) : List Int :=
  let a := dot q.plain x.plain
  let n : Int := q.codes.length
  let g : Int := scalePair q x * (a - x.zero * (q.rowSum : Int) - q.zero * (x.rowSum : Int) + n * q.zero * x.zero)
  let esc := (List.range q.codes.length).filter fun i =>
    (q.escapes.find? (·.1 == i)).isSome || (x.escapes.find? (·.1 == i)).isSome
  let qv := q.values
  let xv := x.values
  g :: esc.map fun i => qv.getD i 0 * xv.getD i 0

/-- Every term of R210 of two quantised vectors of equal grouping, with the code-product sums exact. -/
def recordTerms (q x : List QGroup) : List Int := (q.zip x).flatMap fun g => groupTerms g.1 g.2

/-- R210 step 3: the exact corrected dot product, in units of 2^-298. -/
def recordDot (q x : List QGroup) : Int := (recordTerms q x).sum

/-- R158, R210 step 4: metrics 0 and 1 report D, metric 2 reports 2D − ‖x‖² − ‖q‖²; units of 2^-298. -/
def metricScore (metric : Nat) (d xNorm qNorm : Int) : Int := if metric = 2 then 2 * d - xNorm - qNorm else d

/-- M of R211 for 4-bit and for 8-bit nibble input. -/
def fourBit : Nat := 12544
def nibble : Nat := 227584

/-- R211: the full scale of the row tiles, M × Σ s_q · s_x, in units of 2^-298. -/
def fullScale (m : Nat) (q x : List QGroup) : Int := m * ((q.zip x).map fun g => scalePair g.1 g.2).sum

/-- How far a reported score can be from R210's value (Table: score accuracy): the FP32 corrections, and for an array 1.6 % of full
scale; `m` is its M, none where the code-product sums are exact. Step 4 doubles the dot product under metric 2. -/
def scoreBound (metric : Nat) (m : Option Nat) (q x : List QGroup) (xNorm qNorm : Int) : Int :=
  let analogue := match m with | some m => 16 * fullScale m q x / 1000 | none => 0
  let terms := recordTerms q x
  let mag := (terms.map fun t => (t.natAbs : Int)).sum + analogue
  let twice : Int := if metric = 2 then 2 else 1
  twice * analogue + fp32Slack terms.length (twice * mag + xNorm.natAbs + qNorm.natAbs)

/-! ### Owner shard (R151) -/

/-- The shard that owns a vector identifier. -/
def ownerShard (id first shards : Nat) : Nat := first + id * 0x9E3779B97F4A7C15 % 2 ^ 64 / 2 ^ 32 * shards / 2 ^ 32

/-! ### CRC-32C, tags and frames (R46, R474) -/

/-- One bit of the reflected CRC-32C register. -/
def crcBit (c : Nat) : Nat := if c % 2 = 1 then (c / 2) ^^^ 0x82F63B78 else c / 2

/-- One byte into the CRC-32C register. -/
def crcByte (c : Nat) (b : Byte) : Nat := crcBit (crcBit (crcBit (crcBit (crcBit (crcBit (crcBit (crcBit (c ^^^ b.toNat))))))))

/-- CRC-32C (Castagnoli) over bytes. -/
def crc32c (b : Bytes) : Nat := b.foldl crcByte 0xFFFFFFFF ^^^ 0xFFFFFFFF

/-- Bytes 0 to 23 of a tag (Table: tag layout). -/
def tagBody (t : Tag) : Bytes :=
  toLE 2 (t.function % 128 + 128 * (t.qosClass % 8) + 1024 * b2n t.background + 2048 * (t.kind % 32)) ++
  toLE 3 t.requestNumber ++ toLE 3 (t.originNode % 4096 + 4096 * (t.ownerNode % 4096)) ++ toLE 3 t.shard ++
  toLE 1 t.hopCount ++ toLE 4 (b2n t.firmware) ++ toLE 8 t.ledgerStamp

/-- A tag's 32 bytes, tag_check included. -/
def tagEncode (t : Tag) : Bytes := tagBody t ++ toLE 4 (crc32c (tagBody t)) ++ zeros 4

/-- The tag in 32 bytes, whatever its check. -/
def decodeTag (b : Bytes) : Tag :=
  let h := le b 0 2
  let n := le b 5 3
  ⟨field h 0 7, field h 7 3, bit h 10, field h 11 5, le b 2 3, field n 0 12, field n 12 12, le b 8 3, byteAt b 11,
   bit (byteAt b 12) 0, le b 16 8⟩

/-- The tag check holds, and the kind is not reserved (R51). -/
def tagGood (b : Bytes) : Bool :=
  let k := (decodeTag b).kind
  le b 24 4 == crc32c (b.take 24) && decide (1 ≤ k) && decide (k ≤ 0x19)

/-- A frame's header and tag as received (Table: frame layout). -/
structure FrameHead where
  dest : Nat
  source : Nat
  channel : Nat
  payload : Nat
  seq : Nat
  tag : Tag
  deriving DecidableEq, Repr

/-- The head of a frame. -/
def frameHead (b : Bytes) : FrameHead :=
  ⟨le b 0 2 % 4096, le b 2 2 % 4096, byteAt b 4, le b 6 2, le b 8 4, decodeTag (slice b 16 32)⟩

/-- The frame's length and CRC hold (R474, R477). -/
def frameCrcGood (b : Bytes) : Bool :=
  let n := b.length - 16
  decide (64 ≤ b.length) && b.length == 64 + le b 6 2 && decide (byteAt b 4 < 4) && le b n 4 == crc32c (b.take n)

/-! ### Producing frames (R47, R474, R480, R481, R489) -/

/-- The reserved queue of a piece of work (R483): forwarded from `origin` in a class, or started by firmware. -/
def reservedQueue (t : Tag) : Nat :=
  if t.firmware then 4032 + t.requestNumber % 64 else 3584 + 56 * t.qosClass + t.originNode % 56

/-- The port a frame of a request to a destination takes (R480). -/
def State.pathPort (s : State) (origin num dest : Nat) : Option Nat :=
  let ps := s.routePorts dest
  ps[Config.pathHash origin num dest % ps.length]?

/-- Put a frame on its sub-queue in production order, or hold it while the destination is unreachable (R480, R481, R489).
Its payload length is a free value: the manual gives payload formats for no kind. -/
def State.produce (s : State) (dest : Nat) (tag : Tag) (queue : Nat) (body : Msg) : State :=
  let (i, s) := s.takeFree
  let f : Frame := ⟨dest, channelOf tag.kind, 16 * (Config.freeNat i % 257), 0, tag, queue, s.now, body⟩
  match s.pathPort tag.originNode tag.requestNumber dest with
  | some p => s.modSched fun c => { c with egress := c.egress ++ [(p, f)] }
  | none => s.modSched fun c => { c with heldFrames := c.heldFrames ++ [(s.now, f)] }

/-- The next request number is taken (R47). -/
def State.takeNum (s : State) : Nat × State :=
  let n := s.freeNum.getD (s.nextNum % 2 ^ 24)
  (n, { s with nextNum := (n + 1) % 2 ^ 24 })

/-- Firmware work sent to a peer, under a number of its own (R46, R47, R483); `shard` is 0xFFFFFF for work on none. -/
def State.produceFw (s : State) (dest kind shard : Nat) (background : Bool) (body : Msg) : State :=
  let (n, s) := s.takeNum
  let t := s.fwTag kind n dest shard background
  s.produce dest t (reservedQueue t) body

/-- Control work sent to a peer (R46, kind 0x10): a function's mailbox command started it, or the node's firmware. -/
def State.produceControl (s : State) (issuer : Option Nat) (dest : Nat) (body : Msg) : State :=
  match issuer with
  | none => s.produceFw dest 0x10 0xFFFFFF false body
  | some f =>
    let (n, s) := s.takeNum
    let t := s.controlTag f n dest
    s.produce dest t (reservedQueue t) body

/-- The function whose mailbox a requester is; the sideband's commands are no function's. -/
def issuerOf (r : Nat) : Option Nat := if r < 128 then some r else none

/-- Nodes other than this one with a route mask that is not empty (R480, R615). -/
def State.reachable (s : State) (dest : Nat) : Bool := dest == s.nodeId || !(s.routePorts dest).isEmpty

/-- Peers the node has seen. -/
def State.peerNodes (s : State) : List Nat := s.peers.map (·.node)

/-- The first waiting frame of each sub-queue of a port, in production order. -/
def State.headFrames (s : State) (port : Nat) : List Frame :=
  s.sched.egress.foldl (fun l x => if x.1 = port && !l.any (·.queue == x.2.queue) then l ++ [x.2] else l) []

end Sys2Proof.Machine
end

