-- ==== Sys2Proof/Machine/Commit.lean ====
section
/-! DEFINITION. The commit step that every control command shares (R91 to R94): what is checked, in which order, and how it
completes or goes on as a tail. -/

namespace Sys2Proof.Machine

open Sys2Proof

/-- Control opcodes (Table: control commands). -/
def knownOpcode (op : Nat) : Bool := decide (1 ≤ op) && decide (op ≤ 0x11)

/-- Opcodes that the boot ROM serves in recovery (R552): IDENTIFY with cns 0, FW-UPDATE, GET-LOG. -/
def recoveryServes (b : Bytes) : Bool :=
  let op := le b 0 2
  (op == 0x0001 && byteAt b 0x20 == 0) || op == 0x000E || op == 0x0011

/-- R91 steps 1 and 2, R552: a request that no command row serves. -/
def State.unserved (s : State) (b : Bytes) : Option (Nat × Nat) :=
  if byteAt b 3 != Config.zizonMajor || decide (Config.zizonMinor < byteAt b 2) then some (stUnsupported, 2)
  else if !knownOpcode (le b 0 2) then some (stUnsupported, 1)
  else if s.ao.stage == .recovery && !recoveryServes b then some (stUnsupported, 3)
  else none

/-- The header of a request is valid (R86): reserved bytes zero, the address 64-byte aligned, the length at most 32 MiB. -/
def headerGood (b : Bytes) : Bool :=
  zeroAt b 4 4 && zeroAt b 20 12 && le b 8 8 % 64 == 0 && decide (le b 16 4 ≤ 32 * 2 ^ 20)

/-- The lowest of the offsets that failed (R90): the reserved bytes of the command fields and the failed checks. `ranges`
and `checks` count from 0x120. -/
def firstBad (b : Bytes) (ranges : List (Nat × Nat)) (checks : List (Nat × Bool)) : Option Nat :=
  let r := (firstReserved b (ranges.map fun x => (x.1 + 0x20, x.2))).toList
  let c := (checks.filter fun x => !x.2).map fun x => x.1 + 0x20
  match r ++ c with
  | [] => none
  | x :: rest => some (rest.foldl min x)

/-- The mailbox of requester `r` is in the commit step of opcode `op`. -/
def State.inCommit (s : State) (r op : Nat) : Bool :=
  let m := s.mbox r
  m.st == .busy && m.committing && le m.copy 0 2 == op

/-- The commit step ends with the command's completion. -/
def State.reply (s : State) (r status detail : Nat) (results data : Bytes) : State :=
  (s.mailboxDone r status detail results data).arbEnd 0xA0 (.mailbox r)

/-- A completion with no results. -/
def State.refuse (s : State) (r status detail : Nat) : State := s.reply r status detail [] []

/-- The commit step ends and a tail starts (R94); the mailbox stays BUSY. -/
def State.startTail (s : State) (r : Nat) (k : TailKind) : State :=
  let s := { s with tails := s.tails ++ [({ requester := some r, kind := k, startedAt := s.now } : Tail)] }
  (s.modMbox r fun m => { m with committing := false }).arbEnd 0xA0 (.mailbox r)

/-- One tail ends: it leaves, and its requester, if it still waits, gets the completion (R94, R108). -/
def State.closeTail (s : State) (t : Tail) (status detail : Nat) (results data : Bytes) : State :=
  let s := { s with tails := s.tails.erase t }
  match t.requester with
  | none => s
  | some r => s.mailboxDone r status detail results data

/-- Of the tails of a kind, one whose requester waits, else one that a reset left unreported (R108). -/
def State.tailOf (s : State) (k : TailKind) : Option Tail :=
  let ts := s.tails.filter (·.kind == k)
  (ts.find? (·.requester.isSome)).or ts.head?

/-- A tail of this kind ends (R94). -/
def State.endTail (s : State) (k : TailKind) (status detail : Nat) (results : Bytes) : State :=
  match s.tailOf k with
  | none => s
  | some t => s.closeTail t status detail results []

/-- The tail of this kind is running. -/
def State.tailRunning (s : State) (p : TailKind → Bool) : Bool := s.tails.any fun t => p t.kind

/-- The function whose mailbox command a running tail belongs to; none when its requester is gone or is the sideband. -/
def State.tailIssuer (s : State) (k : TailKind) : Option Nat :=
  ((s.tails.find? fun t => t.kind == k).bind (·.requester)).bind issuerOf

/-- A commit step of opcode `op` (R91): the issuer, the header, the fields, then the command itself. Versions and unknown
opcodes were answered at the grant. -/
def State.commit (s : State) (r op : Nat) (permitted : Bool) (ranges : List (Nat × Nat)) (checks : List (Nat × Bool))
    (body : State → Bytes → State) : State :=
  if !s.inCommit r op then s
  else
    let b := (s.mbox r).copy
    if !permitted then s.refuse r stDenied 0
    else if !headerGood b then s.refuse r stInvalid 0xFFFF
    else
      match firstBad b ranges checks with
      | some o => s.refuse r stInvalid o
      | none => body s b

/-- A change to the node record (R93): journaled before the commit ends, or ST_RETRY, detail 4. -/
def State.record (s : State) (r : Nat) (ok : State → State) : State :=
  if s.commitLimit then s.refuse r stRetry 4 else ok s.recordNode

/-- Issuers (R97): the sideband is requester 128; read_only_sideband leaves it IDENTIFY, GET-CONFIG and ATTEST (R105). -/
def State.sidebandMay (s : State) (op : Nat) : Bool :=
  op == 0x0001 || op == 0x000B || op == 0x000F || (!s.cfg.readOnlySideband && (op == 0x0010 || op == 0x0011))

/-- The host output buffer takes `n` bytes (R88); over the sideband the bytes go into the message. -/
def State.outputFits (s : State) (r n : Nat) (outOk : Bool) : Bool :=
  r == 128 || (decide (n ≤ le (s.mbox r).copy 16 4) && outOk)

end Sys2Proof.Machine
end

