-- ==== Sys2Proof/Machine/Data.lean ====
section
/-! DEFINITION. What the data-path commands share: the checks of R132 in their order, completions with a status, the
charges of a share to its pair (R200), the homes of a request (R30), sending to owner nodes (R29, R50). -/

namespace Sys2Proof.Machine

open Sys2Proof

/-- The home tile of a request (R30): the (n mod e)-th enabled tile. -/
def State.homeTile (s : State) (num : Nat) : Nat := s.tilesOn.getD (num % s.tilesOn.length) 0

/-- The arbiter of a tile's tensor clusters (R59). -/
def tensorArb (tile : Nat) : Nat := 0x90 + tile

/-- The submission entry of an outstanding request. -/
def State.entryOf (s : State) (num : Nat) : Bytes := ((s.req? num).map (·.entry)).getD []

/-- The collection an outstanding request names. -/
def State.collOf (s : State) (num : Nat) : Option Coll := s.coll? (le (s.entryOf num) 4 4)

/-- The lowest offset that failed: a reserved byte that is not zero or a failed check (R133). -/
def lowestBad (b : Bytes) (ranges : List (Nat × Nat)) (checks : List (Nat × Bool)) : Option Nat :=
  match (firstReserved b ranges).toList ++ (checks.filter fun x => !x.2).map (·.1) with
  | [] => none
  | x :: rest => some (rest.foldl min x)

/-- Reserved bytes of the common header (R130). -/
def entryRanges : List (Nat × Nat) := [(9, 7), (28, 4), (44, 4)]

/-- The checks on the common header (R130). -/
def entryChecks (e : Bytes) : List (Nat × Bool) :=
  [(8, decide (byteAt e 8 < 2)), (16, le e 16 8 % 64 == 0), (24, decide (le e 24 4 ≤ 2 ^ 28)), (32, le e 32 8 % 64 == 0),
   (40, decide (le e 40 4 ≤ 2 ^ 28))]

/-- What the collection field of a command must be (R131). -/
inductive CollRule where
  | zero | named | either
  deriving DecidableEq, Repr

def CollRule.good (c : CollRule) (r : Req) : Bool :=
  match c with
  | .zero => r.collection == 0
  | .named => r.collOk
  | .either => r.collection == 0 || r.collOk

/-- R132 for an admitted command that no row has taken yet: the entry's fields, the collection, the right, the input buffer
and the output length, in that order; then R100's ST_RETRY; then the command's own checks in `body`. -/
def State.dataCommit (s : State) (num op : Nat) (io : HostIO) (ranges : List (Nat × Nat)) (checks : List (Nat × Bool))
    (rule : CollRule) (right : Option Nat) (need : Nat) (body : State → Req → Bytes → State) : State :=
  match (s.req? num).filter fun r => r.opcode == op && r.body == .fresh with
  | none => s
  | some r =>
    let e := r.entry
    let creating : Bool := match s.coll? r.collection with | some c => r.collection != 0 && c.st == .creating | none => false
    match lowestBad e (entryRanges ++ ranges) (entryChecks e ++ checks ++ [(4, rule.good r)]) with
    | some o => s.complete r (.bare stInvalid o) io
    | none =>
      if !(match right with | some b => bit r.rights b | none => true) then s.complete r (.bare stDenied 0) io
      else if (io.input.isNone && decide (0 < le e 24 4)) || decide (le e 40 4 < need) then
        s.complete r (.bare stInvalid 0xFFFE) io
      else if creating then s.complete r (.bare stRetry 2) io
      else body s r (slice (io.input.getD []) 0 (le e 24 4))

/-- A completion with ST_INVALID for an item of the input buffer (R133). -/
def State.badInput (s : State) (r : Req) (off : Nat) (io : HostIO) : State :=
  s.complete r { status := stInvalid, detail := 0xFFFC, value := off } io

/-! ### Shares of other origin nodes (R200) -/

/-- Usage of a pair in a list of pairs. -/
def pairUse (l : List ((Nat × Nat) × Nat)) (p : Nat × Nat) : Nat := ((l.find? (·.1 == p)).map (·.2)).getD 0

/-- A pair's usage set. -/
def pairSet (l : List ((Nat × Nat) × Nat)) (p : Nat × Nat) (n : Nat) : List ((Nat × Nat) × Nat) :=
  (l.filter (·.1 != p)) ++ (if n = 0 then [] else [(p, n)])

/-- The list of pairs of a quota kind. -/
def Engine.pairs (e : Engine) : QKind → List ((Nat × Nat) × Nat)
  | .t0 => e.pairT0 | .t1 => e.pairT1 | .t3 => e.pairT3 | _ => e.pairSeats

def Engine.setPairs (e : Engine) (k : QKind) (l : List ((Nat × Nat) × Nat)) : Engine :=
  match k with
  | .t0 => { e with pairT0 := l } | .t1 => { e with pairT1 := l } | .t3 => { e with pairT3 := l }
  | _ => { e with pairSeats := l }

/-- The function that a share of a pair is counted under on this node (R200): its own, or the PF for another origin. -/
def State.pairFn (s : State) (p : Nat × Nat) : Nat := if p.1 = s.nodeId then p.2 else 0

/-- The share's quota holds `n` more (R200): its function's, or the PF's limits applied to the pair alone; and so does the
tier. -/
def State.pairFits (s : State) (p : Nat × Nat) (k : QKind) (n : Nat) : Bool :=
  if p.1 = s.nodeId then s.fits p.2 k n
  else
    (match (s.fn 0).limit k with | none => true | some m => decide (pairUse (s.eng.pairs k) p + n ≤ m)) &&
      decide (s.tierUsed k + n ≤ s.capacity k)

/-- Charge a share (R200). -/
def State.pairCharge (s : State) (p : Nat × Nat) (k : QKind) (n : Nat) : State :=
  let s := s.modFn (s.pairFn p) (·.charge k n)
  if p.1 = s.nodeId then s
  else s.modEng fun e => e.setPairs k (pairSet (e.pairs k) p (pairUse (e.pairs k) p + n))

/-- Release what a share was charged. -/
def State.pairRelease (s : State) (p : Nat × Nat) (k : QKind) (n : Nat) : State :=
  let s := s.release (s.pairFn p) k n
  if p.1 = s.nodeId then s
  else s.modEng fun e => e.setPairs k (pairSet (e.pairs k) p (pairUse (e.pairs k) p - n))

/-- A refusal to a pair (R200, R415). -/
def State.pairRefuse (s : State) (p : Nat × Nat) (kind : Nat) : State := s.quotaRefuse (s.pairFn p) kind

/-! ### Units that gate (R39, R512, R515) -/

/-- The requester index of a unit at the power-sequencer arbiter (R515). -/
def unitIndex : UnitId → Nat
  | .csu c => c
  | .cluster n => 32 + n
  | .core n => 48 + n
  | .lull _ => 80
  | .port p => 81 + p

/-- How a unit stands: ready unless listed otherwise. -/
def State.unitState (s : State) (u : UnitId) : UState := ((s.pwr.units.find? (·.unit == u)).map (·.st)).getD .ready

def State.setUnit (s : State) (u : UnitId) (x : UState) : State :=
  s.modPwr fun p => { p with units := (p.units.filter (·.unit != u)) ++ [⟨u, x, s.now⟩] }

/-- Work needs a unit: a gated one requests its wake (R39, R513). -/
def State.needUnit (s : State) (u : UnitId) : State :=
  if s.unitState u == .gated then (s.setUnit u .waiting).arbRequest 0xA1 (unitIndex u) false false (.wake u) else s

/-- The units of the Lull group that the node has (Table: unit wakes in Breeze). -/
def State.lullUnits (s : State) : List UnitId :=
  (s.stacksOn ++ s.channelsOn.map (32 + ·) ++ [64, 65, 66, 67, 68, 69]).map .lull

/-- The whole Lull group is awake. -/
def State.lullReady (s : State) : Bool := s.lullUnits.all fun u => s.unitState u == .ready

/-- The clusters of a tile. -/
def tileClusters (tile : Nat) : List UnitId := (List.range 4).map fun n => .cluster (4 * tile + n)

/-- One of a tile's clusters is clocked. -/
def State.tileReady (s : State) (tile : Nat) : Bool := (tileClusters tile).any fun u => s.unitState u == .ready

/-- A request for a tile's tensor clusters, waking one when none is clocked (R38, R39). -/
def State.needTensor (s : State) (tile : Nat) (background rebuild : Bool) (w : Work) : State :=
  let s := s.arbRequest (tensorArb tile) 0 background rebuild w
  if s.tileReady tile then s else s.needUnit (.cluster (4 * tile))

/-! ### Sending to owner nodes -/

/-- The tag of forwarded or returned work of a request (R46, R49). -/
def workTag (k : Key) (fn cls kind dest shard hop : Nat) : Tag :=
  ⟨fn, cls, false, kind, k.num, k.origin, dest, shard, hop, false, 0⟩

/-- The sub-queue of work of a request on this node: its own queue at the origin, else a reserved queue (R114, R483). -/
def State.workQueue (s : State) (t : Tag) : Nat :=
  if t.originNode = s.nodeId then ((s.req? t.requestNumber).map (·.queue)).getD (reservedQueue t) else reservedQueue t

/-- Send work of a request to a peer. -/
def State.sendWork (s : State) (t : Tag) (body : Msg) : State := s.produce t.ownerNode t (s.workQueue t) body

/-- A command forwarded to this node has been admitted (R114, R483): its work begins and takes the admission with it. `tag` says which
tag is the command's. -/
def State.takeAdmitted (s : State) (tag : Tag → Bool) : Option State :=
  match s.sched.taken.find? tag with
  | none => none
  | some g => some (s.modSched fun c => { c with taken := c.taken.erase g })

/-- The tag is one of a request, of an opcode. -/
def tagIsOf (k : Key) (op : Nat) (g : Tag) : Bool := g.originNode == k.origin && g.requestNumber == k.num && g.kind == op

/-- The shards of a collection in ascending order. -/
def Coll.shardIds (c : Coll) : List Nat := (List.range c.spec.shards).map (c.spec.firstShard + ·)

/-- The shards of a collection that the shard map gives to a node. -/
def Coll.shardsAt (c : Coll) (node : Nat) : List Nat :=
  ((c.shardIds.zip c.spec.owners).filter (·.2 == node)).map (·.1)

/-- The owner nodes of a collection, each once. -/
def Coll.ownerNodes (c : Coll) : List Nat := c.spec.owners.eraseDups

end Sys2Proof.Machine
end

