-- ==== Sys2Proof/Machine/Rows.lean ====
section
/-! DEFINITION. What a read stamp sees (R258 to R260, R280 to R286, R295, R303, R304): rows of slots, live identifiers, the
deletion filter, list versions and lists visible at a stamp, and the exact scores that free score values are drawn over. -/

namespace Sys2Proof.Machine

open Sys2Proof

/-! ### Sizes (R163, R167, R273, R301, R407, R408) -/

/-- Escapes of a record. -/
def escapesOf (gs : List QGroup) : Nat := gs.foldl (fun n g => n + g.escapes.length) 0

/-- Bytes of a refinement record (R167). -/
def rowBytes (c : CollSpec) (r : Row) : Nat :=
  roundUp (32 + c.dimensions + 4 * (c.dimensions / (32 * 2 ^ c.group)) + 4 * escapesOf r.groups + 8 * r.lex.length) 64

/-- Bytes of a scan record (R163). -/
def scanBytes (p : Nat) : Nat := roundUp (9 * p / 16 + 16) 32

/-- Bytes of a guestbook chunk (R273). -/
def chunkBytes (p : Nat) : Nat := 448 + 16 * scanBytes p

/-- An identifier map's entry (R301): the slot, and a fingerprint of the identifier that is never zero; how it is formed the manual
does not say. -/
def mapEntry (slot id : Nat) : Bytes := toLE 6 (slot % 2 ^ 35 + (Config.fingerprint id % 8191 + 1) * 2 ^ 35)

/-- Bytes of an identifier map of `n` entries (R301): 64-byte buckets of 10, one more when more than 9 in 10 would be taken. -/
def mapBytes (n : Nat) : Nat := 64 * ((n + 8) / 9)

/-! ### Stored scan-side bytes (R162, R165, R166, R171, R273) -/

/-- SQ4 codes, two a byte, the even element low (R162). -/
def nibbles : List Nat → Bytes
  | a :: b :: rest => BitVec.ofNat 8 (a + 16 * b) :: nibbles rest
  | [a] => [BitVec.ofNat 8 a]
  | [] => []

/-- Table: scan group descriptor. -/
def scanDescriptor (g : QGroup) : Bytes := toLE 4 (word [(0, g.scale), (8, g.zero), (12, b2n (!g.escapes.isEmpty)), (16, g.rowSum)])

/-- Table: scan record flags. -/
def ScanRec.flagByte (r : ScanRec) : Nat :=
  word [(0, b2n r.secondCopy), (1, b2n r.lexical), (2, b2n r.normSaturated), (3, b2n r.guestbook)]

/-- Table: scan record layout, padded to its size. -/
def ScanRec.bytes (p : Nat) (r : ScanRec) : Bytes :=
  slice (r.groups.flatMap (fun g => nibbles g.codes) ++ r.groups.flatMap scanDescriptor ++ toLE 8 r.id ++
    toLE 2 (fp16Encode r.norm.toNat) ++ toLE 1 (escapesOf r.groups) ++ toLE 1 r.flagByte ++ toLE 4 r.epoch) 0 (scanBytes p)

/-- A record's escape entries in ascending dimension (Table: scan escape entry). -/
def ScanRec.escapeBytes (slot : Nat) (r : ScanRec) : Bytes :=
  r.groups.zipIdx.flatMap fun x => (List.range x.1.codes.length).flatMap fun i =>
    match x.1.escapes.find? (·.1 == i) with
    | some e => toLE 2 slot ++ toLE 2 (64 * x.2 + i) ++ toLE 2 (bf16Encode e.2) ++ zeros 2
    | none => []

/-- Table: list page layout: the header, the records from byte 32, the escape area by slot and dimension, zeros. -/
def pageBytes (p list epoch index shard : Nat) (l : List ScanRec) : Bytes :=
  let esc := l.foldl (fun n r => n + escapesOf r.groups) 0
  slice (toLE 4 (list % 2 ^ 24) ++ toLE 4 epoch ++ toLE 2 l.length ++ toLE 2 (scanBytes p) ++ toLE 2 esc ++
    toLE 2 (32 + l.length * scanBytes p) ++ toLE 4 index ++ toLE 4 (shard % 2 ^ 24) ++ zeros 8 ++ l.flatMap (·.bytes p) ++
    l.zipIdx.flatMap fun x => x.1.escapeBytes x.2) 0 16384

/-- The pages of a list version (R165). -/
def Version.pageImages (p list shard : Nat) (v : Version) : List Bytes := v.pages.zipIdx.map fun x => pageBytes p list v.epoch x.2 shard x.1

/-- A list's sub-centroid in T1 in the scan record layout, its vector_id the list identifier (R171). -/
def LList.headRecord (l : LList) : ScanRec := ⟨l.id, l.centroid, l.norm, false, false, false, false, 0⟩

/-- Table: guestbook chunk: at most 16 entries and 32 escapes; `first` is the position of its entry 0, `next` the chain's next
chunk. -/
def chunkImage (p list next first : Nat) (l : List GbEntry) : Bytes :=
  let esc := l.foldl (fun n e => n + escapesOf e.scan.groups) 0
  toLE 4 (list % 2 ^ 24) ++ toLE 4 next ++ toLE 2 l.length ++ toLE 2 esc ++ toLE 4 first ++ zeros 48 ++
    slice (l.flatMap fun e => e.scan.bytes p) 0 (16 * scanBytes p) ++ slice (l.flatMap fun e => toLE 8 e.stamp) 0 128 ++
    slice (l.zipIdx.flatMap fun x => x.1.scan.escapeBytes x.2) 0 256

/-- T1 held by guestbook chunks. -/
def State.gbT1 (s : State) : Nat :=
  s.lists.foldl (fun n l =>
    let p := (((s.shard? l.shard).bind fun d => s.coll? d.coll).map (·.spec.projection)).getD 256
    n + (l.chunks + l.oldChunks) * chunkBytes p) 0

/-- Bytes of list versions in the hot-list cache. -/
def State.hotBytes (s : State) : Nat :=
  s.lists.foldl (fun n l => n + l.versions.foldl (fun m v => if v.cached then m + 16384 * v.pages.length else m) 0) 0

/-- A row is written at its home, in the form that the collection's compression then gives it (R427, R428). -/
def Slot.written (c : Coll) (x : Slot) : Slot := { x with packed := c.compress && x.home != .formation }

/-- Bytes of the row that a slot now holds (R167). -/
def State.rowSize (s : State) (shard slot : Nat) : Nat :=
  match (s.shard? shard).bind fun d => (s.coll? d.coll).map fun c => (c, d.slots.find? (·.num == slot)) with
  | some (c, some x) => rowBytes c.spec x.row
  | _ => 0

/-- Bytes of rows in the row cache (R410). -/
def State.rowCacheBytes (s : State) : Nat :=
  s.tier.rowCache.foldl (fun n z => n + s.rowSize z.1 z.2.1) 0

/-- T1 that holds neither structures nor charged allocations, less the margin of 2 GiB: the two caches' space (R407). -/
def State.cacheSpace (s : State) : Nat := s.capacity .t1 - s.tierUsed .t1 - s.gbT1 - 2 * 2 ^ 30

/-- T1 left for the hot-list cache, and for the row cache (R407, R408). -/
def State.hotRoom (s : State) : Nat :=
  min (s.cacheSpace - s.hotBytes - s.rowCacheBytes) (s.cacheSpace * s.tier.hotShare / 100 - s.hotBytes)
def State.rowRoom (s : State) : Nat :=
  min (s.cacheSpace - s.hotBytes - s.rowCacheBytes) (s.cacheSpace * (100 - s.tier.hotShare) / 100 - s.rowCacheBytes)

/-- Space for a row or a prior version is taken at a home, beyond a limit if need be (R412). After the formation switch the
buffer's space is counted as a whole (R153). -/
def State.chargeHome (s : State) (c : Coll) (d : Shard) (home : Home) (bytes : Nat) : State :=
  match home with
  | .formation => if d.stage == .forming then s.modFn (s.chargedFn c) (·.charge .t1 bytes) else s
  | .t2 => s.modFn (s.chargedFn c) (·.charge .t2 bytes)
  | .t3 p => (s.modFn (s.chargedFn c) (·.charge .t3 bytes)).modPool p fun x => { x with used := x.used + bytes }

/-- It is released (R306, R412); a promoted row is released from the function that pays for it. -/
def State.releaseHome (s : State) (c : Coll) (d : Shard) (home : Home) (bytes : Nat) (payer : Option Nat) : State :=
  match home with
  | .formation => if d.stage == .forming then s.release (s.chargedFn c) .t1 bytes else s
  | .t2 => s.release (payer.getD (s.chargedFn c)) .t2 bytes
  | .t3 p => (s.release (s.chargedFn c) .t3 bytes).modPool p fun x => { x with used := x.used - bytes }

/-- `n` rows of a collection are read (R416). -/
def State.countReads (s : State) (coll n : Nat) : State :=
  s.modColl coll fun c =>
    { c with readTimes := (c.readTimes.filter fun x => decide (s.now ≤ x + 86400 * Config.ticksPerS)) ++ List.replicate n s.now }

/-! ### Rows -/

/-- What R304 answers for a slot at a read stamp: `missing true` when no incarnation of the slot was inserted at or below
it (R310). -/
inductive RowAt where
  | missing (never : Bool)
  | wait
  | row (r : Row) (home : Home)
  deriving DecidableEq, Repr

/-- What lies in a lost pool is lost (R499). -/
def State.homeLost (s : State) (h : Home) : Bool :=
  match h with
  | .t3 p => (s.pool? p).all (·.st == .lost)
  | _ => false

/-- The oldest history entry of a slot with a stamp above `r`. -/
def Shard.histAfter (h : Shard) (slot r : Nat) : Option Hist :=
  (h.hist.filter fun e => e.slot == slot && decide (r < e.stamp)).foldl
    (fun b e => match b with
      | none => some e
      | some x => if e.stamp < x.stamp then some e else some x) none

/-- The latest kind 0 tombstone of an identifier with a stamp at or below `r`. -/
def Shard.deadBy (h : Shard) (id r : Nat) : Option Tomb :=
  (h.tombs.filter fun t => t.kind == 0 && t.id == id && decide (t.stamp ≤ r)).foldl
    (fun b t => match b with
      | none => some t
      | some x => if x.stamp < t.stamp then some t else some x) none

/-- R304: the row of a slot at read stamp `r`. -/
def Shard.rowAt (h : Shard) (x : Slot) (r : Nat) : RowAt :=
  if !x.born then .missing true
  else if x.bit then .missing false
  else
    let e := h.histAfter x.num r
    let bornLater := match e with | some e => e.kind == 0 | none => false
    let guarded := match e with
      | some e => h.tombs.any fun t => t.kind == 2 && t.id == x.id && t.stamp == e.stamp
      | none => false
    if bornLater then .missing (!guarded)
    else
      let dead := match h.deadBy x.id r with
        | some t => !h.hist.any fun e => e.slot == x.num && e.kind == 3 && decide (t.stamp < e.stamp) && decide (e.stamp ≤ r)
        | none => false
      if dead then .missing false
      else
        match e with
        | some e => match e.prior with
          | some p => .row p.1 p.2
          | none => .missing true
        | none =>
          if h.hist.any fun e => e.slot == x.num && decide (e.stamp ≤ r) && !e.applied then .wait else .row x.row x.home

def Shard.slot? (h : Shard) (n : Nat) : Option Slot := h.slots.find? (·.num == n)
def Shard.slotOf (h : Shard) (id : Nat) : Option Slot := h.slots.find? (·.id == id)

/-- The channel a slot's row page lies on (R421). -/
def State.rowChannelOf (s : State) (slot : Nat) : Nat :=
  s.channelsOn.getD (Config.rowChannel slot % s.channelsOn.length) 0

/-- The channel that a read of a slot's row at a stamp goes to: none where the row lies elsewhere, in the row cache, or is known lost
(R38, R304, R410, R421). -/
def State.rowRead (s : State) (d : Shard) (y : Slot) (stamp : Nat) : Option Nat :=
  match d.rowAt y stamp with
  | .row _ .t2 =>
    let current := (d.histAfter y.num stamp).isNone
    if current && (y.lost || s.tier.rowCache.any fun z => z.1 == d.id && z.2.1 == y.num) then none else some (s.rowChannelOf y.num)
  | _ => none

/-- The identifier that holds a slot is live at the shard's current counter value (R259). -/
def Shard.live (h : Shard) (x : Slot) : Bool :=
  match h.rowAt x h.counter with
  | .missing _ => false
  | _ => true

/-! ### The deletion filter (R280, R285) -/

/-- A tombstone invalidates a record of birth `b` for a query at `r` (R280). -/
def Tomb.kills (t : Tomb) (id b r : Nat) : Bool :=
  t.id == id && decide (b < t.stamp) && (t.kind == 2 || decide (t.stamp ≤ r))

/-- R285: the record of an identifier with birth `b` passes the deletion filter at `r`. -/
def Shard.passes (h : Shard) (id b r : Nat) : Bool :=
  decide (1 ≤ b) && decide (b ≤ r) && !h.tombs.any (·.kills id b r) &&
    match h.slotOf id with
    | some x => !x.bit
    | none => false

/-- The query's identifier filter (R221). -/
def SearchParams.admits (p : Sys2Proof.SearchParams) (id : Nat) : Bool :=
  let inside := p.ranges.any fun r => decide (r.1 ≤ id) && decide (id ≤ r.2)
  if p.filterKind = 1 then inside else if p.filterKind = 2 then !inside else true

/-! ### Lists at a stamp (R286, R295, R296) -/

/-- The version of a list visible at `r`: the largest switch stamp at or below it. -/
def LList.versionAt (l : LList) (r : Nat) : Option Version :=
  (l.versions.filter fun v => decide (v.switch ≤ r)).foldl
    (fun b v => match b with
      | none => some v
      | some x => if x.switch < v.switch then some v else some x) none

/-- The list is in the list set visible at `r`. -/
def LList.visibleAt (l : LList) (r : Nat) : Bool :=
  decide (l.bornW ≤ r) && match l.retiredW with | some w => decide (r < w) | none => true

/-- The lists of a shard visible at `r`. -/
def State.listsAt (s : State) (shard r : Nat) : List LList := s.lists.filter fun l => l.shard == shard && l.visibleAt r

/-- The live lists that a list field names now: itself, or the successors of a retired list (R295). -/
def State.resolve (s : State) : Nat → Nat → List Nat
  | 0, l => [l]
  | fuel + 1, l =>
    match s.list? l with
    | none => []
    | some x => if x.retiredW.isSome then x.successors.flatMap (s.resolve fuel) else [l]

/-! ### Quantised forms of a query and exact scores (R182, R183, R191, R210, R242) -/

/-- A reported score (R210, R211, R214): an FP32 value, the exact one with an error within its bound. -/
def State.score (s : State) (exact bound : Int) : Int × State :=
  (toFp32 (exact + clampTo bound (Config.scoreError s.free)), { s with free := s.free + 1 })

/-- The query as an owning node uses it: normalised under metric 1 (R157). -/
def queryFor (c : CollSpec) (q : List Int) : List Int := if c.metric = 1 then normalise q else q

/-- A vector's projection by a shard (R153, R155, R191): by the rows it was trained to, or the identity. -/
def projectFor (c : CollSpec) (rows : List (List Int)) (v : List Int) : List Int :=
  if c.projection = c.dimensions then v
  else (List.range c.projection).map fun j => projectElement (rows.getD j []) v

/-- SQ4 form with groups of 64 (R183). -/
def sq4 (v : List Int) : List QGroup := quantise 14 64 v

/-- SQ8 form with groups of 64, for level 1 (R182). -/
def sq8 (v : List Int) : List QGroup := quantise 254 64 v

/-- SQ8 form with the collection's group size (R242, R266). -/
def sq8Rows (c : CollSpec) (v : List Int) : List QGroup := quantise 254 (32 * 2 ^ c.group) v

/-- The exact score of quantised `x` with squared norm `xn` against a quantised query. -/
def exactScore (c : CollSpec) (q x : List QGroup) (xn qn : Int) : Int := metricScore c.metric (recordDot q x) xn qn

/-- The score of a quantised record or centroid that a unit reports; `m` is the array's M of R211, none for a near-bank unit or a
tensor cluster; `extra` is added before the rounding (R222). -/
def State.scoreOf (s : State) (c : CollSpec) (m : Option Nat) (q x : List QGroup) (xn qn extra : Int) : Int × State :=
  s.score (exactScore c q x xn qn + extra) (scoreBound c.metric m q x xn (qn.natAbs + extra.natAbs))

/-- Score every list head of `ls` against a query: analogue estimates, or exact sums when the level-2 pool is empty (R187). -/
def State.scoreHeads (s : State) (c : CollSpec) (m : Option Nat) (q : List QGroup) (qn : Int) :
    List LList → List (Int × LList) × State
  | [] => ([], s)
  | l :: rest =>
    let (v, s) := s.scoreOf c m q l.centroid l.norm qn 0
    let (more, s) := s.scoreHeads c m q qn rest
    ((v, l) :: more, s)

/-- Score every level-1 centroid on the coarse field's arrays (R182, R188). -/
def State.scoreL1 (s : State) (c : CollSpec) (m : Nat) (q : List QGroup) (qn : Int) :
    List ((List QGroup × Int) × Nat) → List (Int × Nat) × State
  | [] => ([], s)
  | (x, i) :: rest =>
    let (v, s) := s.scoreOf c (some m) q x.1 x.2 qn 0
    let (more, s) := s.scoreL1 c m q qn rest
    ((v, i) :: more, s)

/-- The level-1 centroids of a shard with their stored norms and their indices. -/
def Shard.columns (d : Shard) : List ((List QGroup × Int) × Nat) := (d.centroids.zip d.centroidNorms).zipIdx

/-- Insert by score, larger first; on equal scores the lower number first (R192). -/
def insertBest (x : Int × Nat) : List (Int × Nat) → List (Int × Nat)
  | [] => [x]
  | y :: rest => if y.1 < x.1 || (y.1 == x.1 && decide (x.2 < y.2)) then x :: y :: rest else y :: insertBest x rest

/-- The numbers in descending score, lower number first on equal scores. -/
def ranked (l : List (Int × Nat)) : List (Int × Nat) := l.foldl (fun a x => insertBest x a) []

/-- What a model is charged is released: its weights, its window and the experts cached for the functions that routed to them (R345,
R349, R412). -/
def State.releaseModel (s : State) (m : Model) : State :=
  let s := ((s.release m.fn .t1 m.t1).release m.fn .t2 m.t2).release m.windowFn .t1 m.windowT1
  m.expertCache.foldl (fun s e => s.release e.2.2.2 .t1 e.2.2.1) s

end Sys2Proof.Machine
end

