-- ==== Sys2Proof/Machine/Control.lean ====
section
/-! DEFINITION. Meanings of the control commands on identity, queues, collections, quotas, functions, rights and pools
(R97 to R104, R145 to R149, R440, R495 to R497, R615), with the ends of their tails. -/

namespace Sys2Proof.Machine

open Sys2Proof

/-! ### IDENTIFY (R99, R144, R178, R439) -/

/-- A vector slot is free when it holds no vector (R258); 2^35 for 32 enabled stacks, in proportion (R17, R176). -/
def State.slotsFree (s : State) : Nat :=
  2 ^ 35 * s.stacksOn.length / 32 - s.shards.foldl (fun n h => n + h.slots.length) 0

/-- Node identify data (R99), of enabled units only (R13, R17). -/
def State.nodeIdentity (s : State) : Bytes :=
  let mask := fun (l : List Nat) => l.foldl (fun n i => n + 2 ^ i) 0
  let v := s.ao.fwVersion
  layout 128
    [(0, slice Config.serial 0 16), (16, toLE 2 s.nodeId), (18, toLE 1 Config.zizonMinor), (19, toLE 1 Config.zizonMajor),
     (20, toLE 1 v.1), (21, toLE 1 v.2.1), (22, toLE 1 v.2.2),
     (24, toLE 1 (mask s.tilesOn)), (25, toLE 1 (mask ((List.range 8).filter s.portOn))), (28, toLE 4 (mask s.channelsOn)),
     (32, toLE 2 s.tenantCores), (34, toLE 1 (4 * s.tilesOn.length)), (36, toLE 8 (s.stacksOn.length * 12 * 2 ^ 30)),
     (44, toLE 8 (s.channelsOn.length * 3328 * 2 ^ 30)), (52, toLE 8 s.slotsFree),
     (60, toLE 2 (3584 - s.fns.foldl (fun n f => n + f.queueCount) 0)),
     (62, toLE 2 (2048 - s.fns.foldl (fun n f => n + f.msixCount) 0)),
     (64, slice (Config.shake256 Config.identityPublicKey) 0 64)]

/-- Function identify data (R439): what comes from function state reads zero for a function that does not exist. -/
def State.functionIdentity (s : State) (f : Nat) : Bytes :=
  let x := s.fn f
  let live := s.fnExists f
  let st := fun (n : Nat) => if live then n else 0
  let colls := s.colls.filter fun c => c.st != .dropping && s.rights f c.spec.id != 0
  layout 128
    [(0, toLE 2 f), (2, toLE 1 (word [(0, b2n (f == 0)), (1, b2n live), (2, st (b2n x.overPeak)), (3, b2n x.mayCreate),
       (4, st (b2n x.resetBusy))])), (3, toLE 1 x.qosClass), (4, toLE 2 x.queueFirst), (6, toLE 2 x.queueCount),
     (8, toLE 2 (st (s.queues.filter (·.fn == f)).length)), (10, toLE 1 x.msixCount), (11, toLE 1 x.coreShare),
     (12, toLE 4 x.commitCmds), (16, toLE 4 x.peakCmds), (20, toLE 4 x.commitMbps), (24, toLE 4 x.peakMbps),
     (28, toLE 2 x.irqCeiling), (30, toLE 1 (st x.guestState)), (32, toLE 4 x.t0Limit), (36, toLE 4 x.t1Limit),
     (40, toLE 4 x.t2Limit), (44, toLE 4 x.t3Limit), (48, toLE 4 x.gbLimit), (52, toLE 2 x.seatsLimit),
     (54, toLE 2 (st x.seatsUsed)), (56, toLE 8 (st x.t0Used)), (64, toLE 8 (st x.t1Used)), (72, toLE 8 (st x.t2Used)),
     (80, toLE 8 (st x.t3Used)), (88, toLE 4 (st x.gbUsed)), (92, toLE 4 colls.length), (96, toLE 8 (st x.cancelled)),
     (104, toLE 4 (st x.overPeakEvents))]

/-- Encodings of the collection's state (R178). -/
def CState.code : CState → Nat
  | .creating => 0 | .active => 1 | .dropping => 2

/-- Vectors of a shard visible at its current counter value (R178, R259). -/
def Shard.visible (h : Shard) : Nat := (h.slots.filter h.live).length

/-- Collection identify data (R178). -/
def State.collIdentity (s : State) (c : Coll) (rights : Nat) : Bytes :=
  let here := s.owned.filter fun h => h.coll == c.spec.id
  let lists := s.lists.filter fun l => l.retiredW.isNone && here.any fun h => h.id == l.shard
  let p := c.spec
  layout 128
    [(0, toLE 4 p.id), (4, slice p.name 0 32), (36, toLE 2 p.dimensions), (38, toLE 2 p.projection), (40, toLE 1 p.metric),
     (41, toLE 1 p.group), (42, toLE 2 p.guestbookEntries), (44, toLE 1 p.guestbookFull), (45, toLE 1 (b2n p.lexical)),
     (46, toLE 2 p.dwellUs), (48, toLE 4 p.shards), (52, toLE 4 p.firstShard), (56, toLE 8 p.maxVectors),
     (64, toLE 1 c.st.code), (65, toLE 1 p.creatingFunction), (66, toLE 1 rights), (68, toLE 4 here.length),
     (72, toLE 4 (here.filter (·.stage == .forming)).length), (76, toLE 8 (here.foldl (fun n h => n + h.visible) 0)),
     (84, toLE 4 lists.length), (88, toLE 4 (here.foldl (fun n h => n + h.l) 0)),
     (92, toLE 4 (here.foldl (fun n h => n + h.centroids.length) 0)), (96, toLE 4 (lists.filter (·.degraded)).length)]

/-- Encodings of the queue's state (R144). -/
def QState.code : QState → Nat
  | .active => 1 | .draining => 2 | .error => 3

/-- Queue identify data (R144): every field after byte 2 of an ABSENT queue reads zero. -/
def State.queueIdentity (s : State) (q : Nat) : Bytes :=
  match s.queue? q with
  | none => layout 56 [(0, toLE 2 q)]
  | some u =>
    layout 56
      [(0, toLE 2 q), (2, toLE 1 u.st.code), (3, toLE 1 (if u.st == .error then u.errorCause else 0)), (4, toLE 1 u.sqLog2),
       (5, toLE 1 u.cqLog2), (6, toLE 1 u.vector), (7, toLE 1 u.minor), (8, toLE 2 u.sqHead), (10, toLE 2 u.sqTail),
       (12, toLE 2 u.cqHead), (14, toLE 2 u.cqTail), (16, toLE 1 (b2n u.phase)), (17, toLE 1 (b2n u.stopped)),
       (20, toLE 4 u.outstanding), (24, toLE 8 u.admitted), (32, toLE 8 u.completed), (40, toLE 8 u.sqAddr),
       (48, toLE 8 u.cqAddr)]

/-- IDENTIFY's fields: cns at 0, target at 4; the rest is reserved (R98). -/
def identifyRanges : List (Nat × Nat) := [(1, 3), (8, 1752)]

/-- IDENTIFY with `cns` selected by its row; an unlisted cns is invalid (R22) and is answered by the row of cns 0. -/
def State.identify (s : State) (r cns : Nat) (body : State → Nat → State) : State :=
  let b := (s.mbox r).copy
  let c := byteAt b 0x20
  if c = cns || (cns = 0 && 4 ≤ c) then
    s.commit r 0x0001 (r != 128 || s.sidebandMay 0x0001) identifyRanges [(0, decide (c < 4))] fun s b => body s (le b 0x24 4)
  else s

/-- IDENTIFY_NODE (R99): the target must be 0. -/
def execIdentifyNode (r t : Nat) (s : State) : Result :=
  .next ((s.at t).identify r 0 fun s target =>
    if target ≠ 0 then s.refuse r stInvalid 0x24 else s.reply r stOk 0 s.nodeIdentity [])

/-- IDENTIFY_FUNCTION (R439): a VF names only itself. -/
def execIdentifyFunction (r t : Nat) (s : State) : Result :=
  .next ((s.at t).identify r 1 fun s target =>
    if r ≠ 0 && r ≠ 128 && target ≠ r then s.refuse r stDenied 0
    else if 128 ≤ target then s.refuse r stInvalid 0x24
    else s.reply r stOk 0 (s.functionIdentity target) [])

/-- IDENTIFY_COLLECTION (R178): for the PF, the sideband and holders of a right. -/
def execIdentifyCollection (r t : Nat) (s : State) : Result :=
  .next ((s.at t).identify r 2 fun s target =>
    let rights := if r = 0 || r = 128 then 0x3F else s.rights r target
    if rights = 0 then s.refuse r stDenied 0
    else
      match s.coll? target with
      | none => s.refuse r stInvalid 0x24
      | some c => s.reply r stOk 0 (s.collIdentity c rights) [])

/-- IDENTIFY_QUEUE (R114, R144): reserved queues cannot be named. -/
def execIdentifyQueue (r t : Nat) (s : State) : Result :=
  .next ((s.at t).identify r 3 fun s target =>
    let x := s.fn r
    if r ≠ 0 && r ≠ 128 && !(decide (x.queueFirst ≤ target) && decide (target < x.queueFirst + x.queueCount)) then
      s.refuse r stDenied 0
    else if 3584 ≤ target then s.refuse r stInvalid 0x24
    else s.reply r stOk 0 (s.queueIdentity target) [])

/-! ### Queues (R102, R113, R115) -/

/-- CREATE_QUEUE: not assigned, ST_DENIED; existing, ST_RETRY 2; ring sizes, vector and alignment, ST_INVALID. -/
def execCreateQueue (r t : Nat) (s : State) : Result :=
  .next ((s.at t).commit r 0x0002 (r != 128) [(5, 3), (24, 1736)] [] fun s b =>
    let x := s.fn r
    let q := le b 0x20 2
    let sq := byteAt b 0x22
    let cq := byteAt b 0x23
    let v := byteAt b 0x24
    let sa := le b 0x28 8
    let ca := le b 0x30 8
    if !(decide (x.queueFirst ≤ q) && decide (q < x.queueFirst + x.queueCount)) then s.refuse r stDenied 0
    else if (s.queue? q).isSome then s.refuse r stRetry 2
    else
      match firstBad b [] [(2, decide (6 ≤ sq) && decide (sq ≤ 16)), (3, decide (6 ≤ cq) && decide (cq ≤ 16)),
          (4, decide (v < x.msixCount)), (8, sa % 4096 == 0), (16, ca % 4096 == 0)] with
      | some o => s.refuse r stInvalid o
      | none =>
        ({ s with queues := s.queues ++
          [{ num := q, fn := r, st := .active, errorCause := 0, sqLog2 := sq, cqLog2 := cq, vector := v, minor := byteAt b 2,
             sqHead := 0, sqTail := 0, cqHead := 0, cqTail := 0, phase := true, stopped := false, inFlight := 0,
             admitted := 0, completed := 0, sqAddr := sa, cqAddr := ca, coalCount := 1, coalDelay := 0, irqEnable := true,
             pendingMsgs := 0, firstAt := 0, deficit := 0, doorbellAt := 0, barrier := none,
             shardBarriers := [] }] } : State).reply r stOk 0 [] [])

/-- DELETE_QUEUE (R102, R142): an ACTIVE queue drains; one in ERROR stays in ERROR until its commands have completed. A
queue that does not exist has nothing to drain. -/
def execDeleteQueue (r t : Nat) (s : State) : Result :=
  .next ((s.at t).commit r 0x0003 (r != 128) [(2, 1758)] [] fun s b =>
    let x := s.fn r
    let q := le b 0x20 2
    if !(decide (x.queueFirst ≤ q) && decide (q < x.queueFirst + x.queueCount)) then s.refuse r stDenied 0
    else
      (s.modQueue q fun u => { u with st := if u.st == .active then .draining else u.st }).startTail r (.deleteQueue q))

/-- DELETE_QUEUE_DRAIN_END (R102): every admitted command has its completion, so the queue is ABSENT. -/
def execDeleteQueueDrainEnd (q t : Nat) (s : State) : Result :=
  let s := s.at t
  let left := ((s.queue? q).map (·.inFlight)).getD 0
  if s.tailRunning (· == .deleteQueue q) && left == 0 then
    .next ({ s with queues := s.queues.filter (·.num != q) }.endTail (.deleteQueue q) stOk 0 [])
  else .next s

/-! ### Collections (R100, R101, R145 to R149, R169, R170, R615) -/

/-- The least power of two at or above `n`; `fuel` bounds the search. -/
def pow2At (n : Nat) : Nat → Nat → Nat
  | 0, p => p
  | fuel + 1, p => if n ≤ p then p else pow2At n fuel (2 * p)

/-- Coarse columns per level-1 centroid (R169). -/
def coarseColumns (projection : Nat) : Nat := if projection ≤ 256 then 1 else 2

/-- List target L of a shard before any reduction (R169). -/
def collTarget (c : CollSpec) : Nat :=
  let v := (c.maxVectors + c.shards - 1) / c.shards
  pow2At ((v + 2047) / 2048) 64 1

/-- Halve L until its L1 × columns and its L lists fit (R170); 0 when even 1 does not. -/
def fitTarget (columns cols lists : Nat) : Nat → Nat → Nat
  | 0, _ => 0
  | fuel + 1, l =>
    if l = 0 then 0
    else if l / min 1024 l * columns ≤ cols && l ≤ lists then l
    else fitTarget columns cols lists fuel (l / 2)

/-- Columns of the coarse field that the shards owned take (R170), those of collection `c`, which may not be on record yet,
included. -/
def State.columnsTaken (s : State) (c : CollSpec) : Nat :=
  s.owned.foldl (fun n h =>
    n + h.l1 * coarseColumns (if h.coll = c.id then c.projection else ((s.coll? h.coll).map (·.spec.projection)).getD 256)) 0

/-- List identifiers that the shards owned take (R170). -/
def State.listsTaken (s : State) : Nat := s.owned.foldl (fun n h => n + h.l) 0

/-- An owner node sets up its shards of a collection (R149, R152, R169, R170, R64): none when a limit is exceeded. -/
def State.setUpShards (s : State) (c : CollSpec) : List Nat → Option State
  | [] => some s
  | i :: rest =>
    if c.owners.getD i 4096 != s.nodeId then s.setUpShards c rest
    else if (s.shard? (c.firstShard + i)).isSome then s.setUpShards c rest
    else
      let l := fitTarget (coarseColumns c.projection) (16384 - s.columnsTaken c) (16777216 - s.listsTaken) 64 (collTarget c)
      let index := (List.range 4096).find? fun x => !s.owned.any (·.ledger == x)
      match index with
      | none => none
      | some x =>
        if l = 0 then none
        else
          let h : Shard :=
            { id := c.firstShard + i, coll := c.id, ledger := x, counter := 1, stage := .forming, switchW := none,
              training := false, sampleCut := 0, formCut := none, buffer := true, l := l, l2 := min 1024 l, l1 := l / min 1024 l,
              centroids := [], centroidNorms := [], matrix := [], slots := [], hist := [], tombs := [], readers := [], waiting := [], holds := [],
              meanRecords := 0, meanLists := 0, lenAt := s.now, bufBytes := 0, move := none, forwardTo := none, lost := false, regen := none }
          { s with shards := s.shards ++ [h] }.setUpShards c rest

/-- Collections with shards on this node (R149). -/
def State.collsHere (s : State) : Nat := (s.colls.filter fun c => s.owned.any (·.coll == c.spec.id)).length

/-- Whether compression is on for a collection created now (R16, R428). -/
def State.compressNow (s : State) : Bool :=
  if s.cfg.compressDefault = 1 then true else if s.cfg.compressDefault = 2 then false else s.channelsOn.length == 32

/-- A collection as it is first recorded on a node (R615). -/
def State.newColl (s : State) (c : CollSpec) (st : CState) (rights : List (Nat × Nat)) : Coll :=
  { spec := c, st := st, compress := s.compressNow, placement := none, readTimes := [], since := s.now, rights := rights,
    setUp := [], setupFailed := none, nextModel := 1 }

/-- This node's set-up of a collection (R100, R149): it records the collection and sets up its shards, or a limit stops it. -/
def State.setUpHere (s : State) (c : CollSpec) : Option State :=
  match s.setUpShards c (List.range c.shards) with
  | none => none
  | some s' =>
    if s.collsHere + 1 > 1024 then none
    else
      let s' := s'.recordNode
      some (if (s'.coll? c.id).isSome then s' else { s' with colls := s'.colls ++ [s'.newColl c .creating []] })

/-- Remove a collection's shards and everything they hold, and release what they were charged (R100, R101). -/
def State.removeShards (s : State) (coll : Nat) : State :=
  let gone := (s.shards.filter (·.coll == coll)).map (·.id)
  let freed := (s.shards.filter (·.coll == coll)).flatMap fun h => h.slots.map (·.num)
  let ids := (s.lists.filter fun l => gone.contains l.shard).map (·.id)
  { s with shards := s.shards.filter (·.coll != coll), lists := s.lists.filter fun l => !gone.contains l.shard,
           models := s.models.filter (·.coll != coll),
           tier := { s.tier with freeSlots := s.tier.freeSlots ++ freed, freeLists := s.tier.freeLists ++ ids.filter fun i => !s.tier.freeLists.contains i } }

/-- Everything a shard of a collection is charged for its rows, versions and maps is released (R274, R301, R412). -/
def State.releaseShard (s : State) (c : Coll) (d : Shard) : State :=
  let f := s.chargedFn c
  let lists := s.lists.filter fun l => l.shard == d.id
  let gb := lists.foldl (fun n l => n + 16 * (l.chunks + l.oldChunks)) 0
  let pages := lists.foldl (fun n l => n + l.versions.foldl (fun m v => m + 16384 * v.pages.length) 0) 0
  let s := ((s.release f .guestbook gb).release f .t2 pages).release f .t1 (mapBytes d.slots.length + d.bufBytes)
  let s := d.slots.foldl (fun s x =>
    if x.home == .formation && x.bit then s else s.releaseHome c d x.home (rowBytes c.spec x.row) x.payer) s
  d.hist.foldl (fun s e => match e.prior with
    | some p => s.releaseHome c d p.2 (rowBytes c.spec p.1) none
    | none => s) s

/-- What a collection is charged on this node is released (R101, R412). -/
def State.releaseColl (s : State) (c : Coll) : State :=
  let s := (s.models.filter (·.coll == c.spec.id)).foldl (fun s m => s.releaseModel m) s
  (s.shards.filter (·.coll == c.spec.id)).foldl (fun s d => s.releaseShard c d) s

/-- The first free run of `n` shard indices (R146, R147). -/
def State.freeRun (s : State) (n : Nat) : Option Nat :=
  let limit := if s.nodeId = 4095 then 4095 else 4096
  let mine := s.colls.filter fun c => c.spec.id / 2 ^ 20 == s.nodeId
  (List.range (limit + 1 - n)).find? fun i =>
    mine.all fun c =>
      let lo := c.spec.firstShard % 4096
      decide (i + n ≤ lo) || decide (lo + c.spec.shards ≤ i)

/-- The next free sequence number of a collection identifier (R101, R145). -/
def State.freeSeq (s : State) : Nat :=
  let used := fun q => s.colls.any fun c => c.spec.id == s.nodeId * 2 ^ 20 + q
  ((List.range (s.colls.length + 1)).map fun i => (s.nextColl - 1 + i) % (2 ^ 20 - 1) + 1).find? (fun q => !used q)
    |>.getD 1

/-- Bytes are UTF-8 (RFC 3629): `left` continuation bytes wanted. -/
def utf8Good : Nat → Bytes → Bool
  | n, [] => n == 0
  | 0, b :: rest =>
    let x := b.toNat
    if x < 0x80 then utf8Good 0 rest
    else if 0xC2 ≤ x && x < 0xE0 then utf8Good 1 rest
    else if 0xE0 ≤ x && x < 0xF0 then
      match rest with
      | c :: _ => (x != 0xE0 || 0xA0 ≤ c.toNat) && (x != 0xED || c.toNat < 0xA0) && utf8Good 2 rest
      | [] => false
    else if 0xF0 ≤ x && x < 0xF5 then
      match rest with
      | c :: _ => (x != 0xF0 || 0x90 ≤ c.toNat) && (x != 0xF4 || c.toNat < 0x90) && utf8Good 3 rest
      | [] => false
    else false
  | n + 1, b :: rest => decide (0x80 ≤ b.toNat) && decide (b.toNat < 0xC0) && utf8Good n rest

/-- A name is UTF-8 and zero-padded (R98). -/
def nameGood (name : Bytes) : Bool :=
  let text := name.takeWhile (· != 0)
  utf8Good 0 text && (name.drop text.length).all (· == 0)

/-- CREATE_COLLECTION's commit (R98, R100, R145 to R148, R177, R440): the name and identifier are reserved in the creating
state, and the tail sends the set-up to every owner node. -/
def execCreateCollection (r t : Nat) (s : State) : Result :=
  let s := s.at t
  let b := (s.mbox r).copy
  let permit := r == 0 || (r != 128 && (s.fn r).mayCreate)
  let d := le b 0x40 2
  let p := if le b 0x42 2 = 0 then min 256 d else le b 0x42 2
  let gb := le b 0x46 2
  let dw := le b 0x4A 2
  let n := le b 0x4C 4
  let limit := if s.nodeId = 4095 then 4095 else 4096
  .next (s.commit r 0x0004 permit [(56, 1704)]
    [(36, decide (byteAt b 0x44 ≤ 2)), (37, decide (byteAt b 0x45 ≤ 2)), (40, decide (byteAt b 0x48 ≤ 1)),
     (41, decide (byteAt b 0x49 ≤ 1))] fun s b =>
    let data := (s.mbox r).input
    if data.isNone || le b 16 4 < 2 * (if n ≤ limit then n else 0) then s.refuse r stInvalid 0xFFFE
    else
      let inp := data.getD []
      let owners := if 1 ≤ n && n ≤ limit then (List.range n).map fun i => le inp (2 * i) 2 else []
      match owners.findIdx? fun o => decide (4096 ≤ o) with
      | some i => s.reply r stInvalid 0xFFFC (toLE 4 (2 * i)) []
      | none =>
        let name := slice b 0x20 32
        let max := le b 0x50 8
        let per := if n = 0 then 0 else (max + n - 1) / n
        let most := owners.foldl (fun m o => Nat.max m (per * (owners.filter (· == o)).length)) 0
        match firstBad b []
            [(0, nameGood name && !s.colls.any fun c => c.spec.name == name && c.st != .dropping),
             (32, decide (64 ≤ d) && decide (d ≤ 4096) && d % 64 == 0),
             (34, decide (64 ≤ p) && decide (p ≤ 512) && p % 64 == 0 && decide (p ≤ d)),
             (38, gb == 0 || decide (256 ≤ gb)), (42, decide (dw ≤ 2000) || dw == 0xFFFF),
             (44, decide (1 ≤ n) && decide (n ≤ limit)), (48, decide (most ≤ 2 ^ 35))] with
        | some o => s.refuse r stInvalid o
        | none =>
          match s.freeRun n with
          | none => s.refuse r stRetry 2
          | some i =>
            s.record r fun s =>
              let q := s.freeSeq
              let c : CollSpec :=
                { id := s.nodeId * 2 ^ 20 + q, name := name, dimensions := d, projection := p, metric := byteAt b 0x44,
                  group := byteAt b 0x45, guestbookEntries := if gb = 0 then 4096 else gb,
                  guestbookFull := byteAt b 0x48, lexical := byteAt b 0x49 == 1, dwellUs := if dw = 0xFFFF then 120 else dw,
                  shards := n, firstShard := s.nodeId * 4096 + i, maxVectors := max, creatingFunction := r,
                  owners := owners }
              let s := { s with colls := s.colls ++ [s.newColl c .creating [(r, 0x3F)]], nextColl := q + 1 }
              let s := (owners.eraseDups.filter (· != s.nodeId)).foldl
                (fun s o => s.produceControl (issuerOf r) o (.setup c)) s
              s.startTail r (.createColl c.id))

/-- COLLECTION_SHARD_SETUP (R64, R100, R149, R152, R170): an owner node checks its limits, sizes its shards and records the
collection. On the creating node the tail learns that this node is done, or that a limit was exceeded. -/
def execCollectionShardSetup (c : CollSpec) (t : Nat) (s : State) : Result :=
  let s := s.at t
  let mine := c.id / 2 ^ 20 == s.nodeId
  if mine && !s.tailRunning (· == .createColl c.id) then .next s
  else
    match s.setUpHere c with
    | some s' =>
      .next (if mine then s'.modColl c.id fun x => { x with setUp := x.setUp ++ [s.nodeId] } else s')
    | none =>
      .next (if mine then s.modColl c.id fun x => { x with setupFailed := some (stQuota, 1) } else s)

/-- Announce to every node with a route mask that is not empty; the others get it at their next hello (R615). -/
def State.announce (s : State) (issuer : Option Nat) (coll : Nat) (a : Announce) : State :=
  let (near, far) := s.peerNodes.partition s.reachable
  let s := near.foldl (fun s n => s.produceControl issuer n (.announce a)) s
  let mine := fun (x : Nat × Announce) => match x.2 with
    | Announce.created c => c.id == coll
    | Announce.dropped i => i == coll
  { s with unsent := (s.unsent.filter fun x => !mine x) ++ far.map fun n => (n, a) }

/-- CREATE_COLLECTION_TAIL_END (R100, R149, R615): `peers` says what each other owner answered. Every owner done: the
collection is active and announced; else its shards are removed everywhere and the command fails. -/
def execCreateCollectionTailEnd (coll : Nat) (peers : List (Nat × SetupReply)) (t : Nat) (s : State) : Result :=
  let s := s.at t
  match s.coll? coll with
  | none => .next s
  | some c =>
    if !s.tailRunning (· == .createColl coll) then .next s
    else
      let by_ := s.tailIssuer (.createColl coll)
      let others := c.spec.owners.eraseDups.filter (· != s.nodeId)
      let reply := fun o => (peers.find? (·.1 == o)).map (·.2)
      let here := !c.spec.owners.contains s.nodeId || c.setUp.contains s.nodeId
      let limits := c.setupFailed.isSome || others.any fun o => reply o == some .limits
      let lost := others.any fun o => reply o == some .unreachable
      let done := here && others.all fun o => reply o == some .allDone
      if done then
        let s := (s.modColl coll fun c => { c with st := .active }).recordNode
        let res := toLE 4 coll ++ toLE 4 c.spec.firstShard
        .next ((s.announce by_ coll (.created c.spec)).endTail (.createColl coll) stOk 0 res)
      else if limits || lost then
        let s := others.foldl (fun s o => s.produceControl by_ o (.announce (.dropped coll))) (s.removeShards coll)
        let s := { s with colls := s.colls.filter (·.spec.id != coll) }.recordNode
        .next (s.endTail (.createColl coll) (if limits then stQuota else stRetry) (if limits then 1 else 0) [])
      else .next s

/-- COLLECTION_ANNOUNCE_RECEIVE (R100, R442, R615): the announced collection, or drop, is recorded in the node record. A drop that
meets a collection still being created is the word that its creation failed: the shards set up here are removed at once, as nothing
was admitted for them (log 86). -/
def execCollectionAnnounceReceive (a : Announce) (s : State) : Result :=
  match a with
  | .created c =>
    let s := s.recordNode
    if (s.coll? c.id).isSome then
      .next (s.modColl c.id fun x => { x with spec := c, st := if x.st == .creating then .active else x.st })
    else .next { s with colls := s.colls ++ [s.newColl c .active []] }
  | .dropped id =>
    if (s.coll? id).any (·.st == .creating) then
      .next ({ s.removeShards id with colls := s.colls.filter (·.spec.id != id) } : State).recordNode
    else .next ((s.modColl id fun x => { x with st := .dropping, rights := [] }).recordNode)

/-- DROP_COLLECTION's commit (R101, R442): the name is free, later commands are refused, every right is removed. -/
def execDropCollection (r t : Nat) (s : State) : Result :=
  let s := s.at t
  let id := le (s.mbox r).copy 0x20 4
  let found := (s.coll? id).filter fun c => c.st != .dropping
  .next (s.commit r 0x0005 (r == 0 || (r != 128 && found.isSome && bit (s.rights r id) 5)) [(4, 1756)] [] fun s _ =>
    match found with
    | none => s.refuse r stInvalid 0x20
    | some _ =>
      if s.tailRunning (· == .createColl id) then s.refuse r stRetry 2
      else
        s.record r fun s =>
          let s := s.modColl id fun x => { x with st := .dropping, rights := [] }
          (s.announce (issuerOf r) id (.dropped id)).startTail r (.dropColl id))

/-- Requests admitted for a collection that have not ended (R101). -/
def State.collBusy (s : State) (coll : Nat) : Bool :=
  s.reqs.any (·.collection == coll) || s.eng.shares.any (·.msg.collection == coll) ||
    s.eng.members.any fun m => m.msg.collection == coll && m.stage != .finished

/-- DROP_COLLECTION_TAIL_END (R101): once the admitted commands have ended, storage and quotas are released. On a node that
received an announced drop there is no tail of its own: its storage is released in the same way. -/
def execDropCollectionTailEnd (coll t : Nat) (s : State) : Result :=
  let s := s.at t
  match s.coll? coll with
  | none => .next s
  | some c =>
    if c.st != .dropping || s.collBusy coll then .next s
    else
      let n := s.degradedCount
      let s := ((s.releaseColl c).removeShards coll).degradedEvent n
      let s := { s with colls := s.colls.filter (·.spec.id != coll) }.recordNode
      .next (s.endTail (.dropColl coll) stOk 0 [])

/-! ### Functions, quotas and rights (R103, R104, R440 to R442) -/

/-- SET_QUOTA (R103, R411): the limits for later allocations. The PF is function 0; `function` is 0 to 127. -/
def execSetQuota (r t : Nat) (s : State) : Result :=
  let s := s.at t
  let b := (s.mbox r).copy
  let f := byteAt b 0x20
  .next (s.commit r 0x0006 (r == 0) [(1, 3), (26, 1734)] [(0, decide (f < 128))] fun s b =>
    s.record r fun s =>
      (s.modFn f fun x =>
        { x with t0Limit := le b 0x24 4, t1Limit := le b 0x28 4, t2Limit := le b 0x2C 4, t3Limit := le b 0x30 4,
                 gbLimit := le b 0x34 4, seatsLimit := le b 0x38 2 }).reply r stOk 0 [] [])

/-- Depths of the admission and egress buckets (R444, R486): units of 1/25,000,000 command and 1/25 byte. -/
def admissionDepth (rate : Nat) : Nat := max (32 * 25000000) (rate * 25000)
def egressDepth (mbps : Nat) : Nat := 25 * max 65536 (mbps * 1000)

/-- Fill a function's four buckets up to now (R444, R486); a rate of 0 is a bucket that is always full. -/
def Fn.fill (f : Fn) (now : Nat) : Fn :=
  let dt := now - f.filledTo
  let up := fun (level rate step depth : Nat) => if rate = 0 then depth else min depth (level + step * dt)
  { f with admCommit := up f.admCommit f.commitCmds f.commitCmds (admissionDepth f.commitCmds),
           admPeak := up f.admPeak f.peakCmds f.peakCmds (admissionDepth f.peakCmds),
           egCommit := up f.egCommit f.commitMbps f.commitMbps (egressDepth f.commitMbps),
           egPeak := up f.egPeak f.peakMbps f.peakMbps (egressDepth f.peakMbps),
           filledTo := max now f.filledTo }

/-- Buckets keep their token counts, cut to the new depths (R449). -/
def Fn.cutBuckets (f : Fn) : Fn :=
  { f with admCommit := if f.commitCmds = 0 then admissionDepth 0 else min f.admCommit (admissionDepth f.commitCmds),
           admPeak := if f.peakCmds = 0 then admissionDepth 0 else min f.admPeak (admissionDepth f.peakCmds),
           egCommit := if f.commitMbps = 0 then egressDepth 0 else min f.egCommit (egressDepth f.commitMbps),
           egPeak := if f.peakMbps = 0 then egressDepth 0 else min f.egPeak (egressDepth f.peakMbps),
           ceiling := min f.ceiling (f.irqCeiling * 25000) }

/-- The highest vector a function uses, plus 1 (R104). -/
def State.vectorsUsed (s : State) (f : Nat) : Nat :=
  let q := (s.queues.filter (·.fn == f)).foldl (fun n u => max n (u.vector + 1)) 0
  let m := s.mbox f
  if m.irqEnable then max q (m.vector.toNat + 1) else q

/-- The egress cost of a frame (R486). -/
def State.frameCost (s : State) (f : Frame) : Nat := 64 + f.payload + s.cfg.frameOverhead

/-- R487, R488: the slot at which a queue's head frame can be paid for, from the level and rate of its peak bucket. -/
def Fn.wheelSlot (x : Fn) (now cost : Nat) : Nat :=
  if x.peakMbps = 0 then now else now + (25 * cost - x.egPeak + x.peakMbps - 1) / x.peakMbps

/-- Recompute the timing-wheel slots of a function's queues (R488). -/
def State.reslot (s : State) (f : Nat) : State :=
  s.modSched fun c =>
    { c with wheel := c.wheel.map fun e =>
      match s.queue? e.2.1, c.egress.find? (fun x => x.1 == e.1 && x.2.queue == e.2.1) with
      | some u, some x => if u.fn = f then (e.1, e.2.1, (s.fn f).wheelSlot s.now (s.frameCost x.2)) else e
      | _, _ => e }

/-- SET_FUNCTION (R80, R104, R437, R449, R488). -/
def execSetFunction (r t : Nat) (s : State) : Result :=
  let s := s.at t
  let b := (s.mbox r).copy
  let f := byteAt b 0x20
  let first := le b 0x22 2
  let count := le b 0x24 2
  let msix := byteAt b 0x26
  let cc := le b 0x2C 4
  let pc := le b 0x30 4
  let cm := le b 0x34 4
  let pm := le b 0x38 4
  .next (s.commit r 0x0007 (r == 0) [(1, 1), (9, 3), (30, 1730)] [(8, decide (byteAt b 0x28 ≤ 1))] fun s b =>
    let overlaps := decide (0 < count) && s.fns.zipIdx.any fun x =>
      x.2 != f && decide (0 < x.1.queueCount) && decide (first < x.1.queueFirst + x.1.queueCount) &&
        decide (x.1.queueFirst < first + count)
    let total := (s.fns.zipIdx.filter (·.2 != f)).foldl (fun n x => n + x.1.msixCount) 0
    match firstBad b []
        [(0, decide (f < 128)), (2, decide (first ≤ 3583) && !overlaps), (4, decide (first + count ≤ 3584)),
         (6, decide (msix ≤ 64) && decide (total + msix ≤ 2048)), (7, decide (byteAt b 0x27 ≤ 7)),
         (16, pc == 0 || (cc != 0 && decide (cc ≤ pc))), (24, pm == 0 || (cm != 0 && decide (cm ≤ pm)))] with
    | some o => s.refuse r stInvalid o
    | none =>
      let taken := s.queues.any fun u => u.fn == f && !(decide (first ≤ u.num) && decide (u.num < first + count))
      let cut := decide (msix < (s.fn f).msixCount) && decide (msix < s.vectorsUsed f)
      if taken || cut then s.refuse r stRetry 2
      else
        s.record r fun s =>
          let s := s.modFn f fun x =>
            ({ x.fill s.now with
               queueFirst := first, queueCount := count, msixCount := msix, qosClass := byteAt b 0x27,
               mayCreate := byteAt b 0x28 == 1, commitCmds := cc, peakCmds := pc, commitMbps := cm, peakMbps := pm,
               irqCeiling := le b 0x3C 2 } : Fn).cutBuckets
          (s.reslot f).reply r stOk 0 [] [])

/-- GRANT_RIGHTS (R440 to R442): replaces the grantee's rights for commands admitted later. -/
def execGrantRights (r t : Nat) (s : State) : Result :=
  let s := s.at t
  let b := (s.mbox r).copy
  let f := byteAt b 0x20
  let id := le b 0x24 4
  let found := (s.coll? id).filter fun c => c.st != .dropping
  .next (s.commit r 0x0008 (r == 0 || (r != 128 && found.isSome && bit (s.rights r id) 5)) [(1, 3), (9, 1751)]
    [(0, decide (f < 128)), (8, decide (byteAt b 0x28 < 64))] fun s b =>
    match found with
    | none => s.refuse r stInvalid 0x24
    | some _ =>
      s.record r fun s =>
        (s.modColl id fun c =>
          { c with rights := c.rights.filter (·.1 != f) ++ [(f, byteAt b 0x28)] }).reply r stOk 0 [] [])

/-! ### Pools (R495 to R497) -/

/-- pool_event in every existing function (R495, R499). -/
def State.poolEvent (s : State) : State :=
  { s with fns := s.fns.zipIdx.map fun x => if s.fnExists x.2 then { x.1 with evPool := true } else x.1 }

/-- ATTACH_POOL's commit (R495): the identifier is assigned and the pool recorded as ATTACHING. -/
def execAttachPool (r t : Nat) (s : State) : Result :=
  let s := s.at t
  let b := (s.mbox r).copy
  let kind := byteAt b 0x20
  let bar := le b 0x28 8
  let size := le b 0x30 8
  let cap := le b 0x38 4
  .next (s.commit r 0x0009 (r == 0) [(1, 1), (4, 4), (28, 1732)] [(0, decide (kind ≤ 1))] fun s b =>
    let clash := s.pools.any fun p => decide (bar < p.bar + p.size) && decide (p.bar < bar + size)
    match firstBad b []
        [(0, decide (s.pools.length < 16)), (8, bar % 4096 == 0 && !clash), (16, size % 4096 == 0),
         (24, if kind = 0 then decide (cap * 2 ^ 40 + 4096 ≤ size) else cap == 0)] with
    | some o => s.refuse r stInvalid o
    | none =>
      s.record r fun s =>
        let id := s.nextPool
        let p : Pool :=
          { id := id, kind := kind, routing := le b 0x22 2, bar := bar, size := size, capTib := cap, st := .attaching,
            returnData := false, used := 0, short := false, relayed := false, lastProbe := s.now, quiescedAt := none }
        ({ s with pools := s.pools ++ [p], nextPool := id + 1 }.emit (.poolProbe id)).startTail r (.attachPool id))

/-- ATTACH_POOL_TAIL_END (R495, R496): the probe decides. -/
def execAttachPoolTailEnd (pool : Nat) (probeOk : Bool) (t : Nat) (s : State) : Result :=
  let s := s.at t
  if !s.tailRunning (· == .attachPool pool) then .next s
  else if probeOk then
    let s := (s.modPool pool fun p => { p with st := .attached, lastProbe := s.now }).log 7 1 (toLE 4 pool)
    .next (s.poolEvent.endTail (.attachPool pool) stOk 0 (toLE 4 pool))
  else
    let s := { s with pools := s.pools.filter (·.id != pool) }.recordNode
    .next (s.endTail (.attachPool pool) stPoolLost 0 [])

/-- Rows whose home is a pool, and their bytes. -/
def State.poolRows (s : State) (pool : Nat) : Nat :=
  s.shards.foldl (fun n h => n + (h.slots.filter fun x => x.home == .t3 pool).length) 0

/-- DETACH_POOL's commit (R497): the pool is closed to new placements; a LOST pool's record is removed at once. A pool that
the node record does not hold is no valid reference. -/
def execDetachPool (r t : Nat) (s : State) : Result :=
  let s := s.at t
  let b := (s.mbox r).copy
  let id := le b 0x20 4
  let back := byteAt b 0x24
  .next (s.commit r 0x000A (r == 0) [(5, 1755)] [(4, decide (back ≤ 1))] fun s _ =>
    match s.pool? id with
    | none => s.refuse r stInvalid 0x20
    | some p =>
      if p.st == .lost then
        s.record r fun s => { s with pools := s.pools.filter (·.id != id) }.reply r stOk 0 [] []
      else
        let rows := s.poolRows id
        let free := s.capacity .t2 - s.tierUsed .t2
        if (back = 0 && rows ≠ 0) || (back = 1 && free < p.used) then s.refuse r stInvalid 0x24
        else
          s.record r fun s =>
            (s.modPool id fun p => { p with st := .detaching, returnData := back == 1 }).startTail r (.detachPool id))

/-- A search share holds a spill area in the pool. -/
def State.poolSpills (s : State) (pool : Nat) : Bool := s.eng.shares.any fun h => h.pool == some pool

/-- A prior version kept for a reader lies in the pool (R303). -/
def State.poolPriors (s : State) (pool : Nat) : Bool :=
  s.shards.any fun d => d.hist.any fun e => match e.prior with | some p => p.2 == .t3 pool | none => false

/-- DETACH_POOL_TAIL_END (R497): the rows have moved back to T2, no version and no spill area is left in the pool, and it is
removed. A pool lost meanwhile completes with ST_POOL_LOST. -/
def execDetachPoolTailEnd (pool t : Nat) (s : State) : Result :=
  let s := s.at t
  match s.pool? pool with
  | none => .next s
  | some p =>
    if !s.tailRunning (· == .detachPool pool) then .next s
    else if p.st == .lost then
      .next ({ s with pools := s.pools.filter (·.id != pool) }.recordNode.endTail (.detachPool pool) stPoolLost 0 [])
    else if s.poolSpills pool || decide (0 < s.poolRows pool) || s.poolPriors pool then .next s
    else
      let s : State :=
        { s with colls := modWhere s.colls (fun c => c.placement == some pool) fun c => ({ c with placement := none } : Coll) }
      let s := { s with pools := s.pools.filter (·.id != pool) }.recordNode
      .next ((s.log 7 2 (toLE 4 pool)).poolEvent.endTail (.detachPool pool) stOk 0 [])

end Sys2Proof.Machine
end

