-- ==== Sys2Proof/Machine/Select.lean ====
section
/-! DEFINITION. Selection (R227 to R245): the order of candidates, seat lists with their floor counters, overflow and spill
passes, offers, the end of a shard's scoring, the release of what a share holds, the answer to the coordinator. -/

namespace Sys2Proof.Machine

open Sys2Proof

/-! ### Order of candidates (R229) -/

/-- R229: larger score, then shard, then source, then offer number. -/
def candBefore (a b : Cand) : Bool :=
  if a.score ≠ b.score then decide (b.score < a.score)
  else if a.shard ≠ b.shard then decide (a.shard < b.shard)
  else if a.source ≠ b.source then decide (a.source < b.source)
  else decide (a.offer < b.offer)

/-- Insert after every entry that is not behind it. -/
def insertCand (x : Cand) : List Cand → List Cand
  | [] => [x]
  | y :: rest => if candBefore x y then x :: y :: rest else y :: insertCand x rest

/-- Candidates in the order of R229; equal keys keep arrival order. -/
def sortCands (l : List Cand) : List Cand := l.foldl (fun a x => insertCand x a) []

/-- Keep the first `n` of ordered candidates: those kept, the score of the cut and how many were dropped at exactly it
(R250); no cut when nothing is dropped. -/
def cutAt (n : Nat) (l : List Cand) : List Cand × Option (Int × Nat) :=
  let kept := l.take n
  let rest := l.drop n
  match kept.getLast? with
  | none => (kept, none)
  | some x => (kept, if rest.isEmpty then none else some (x.score, (rest.filter fun y => y.score == x.score).length))

/-! ### Ranges (R230) -/

/-- The selection depth m. -/
def depthOf (p : SearchParams) : Nat := if p.rerankDepth = 0 then p.k else p.rerankDepth

/-- Full rate, overflow-assisted, core-assisted. -/
inductive Range where
  | full | overflow | core
  deriving DecidableEq, Repr

def rangeOf (p : SearchParams) : Range := if p.k ≤ 128 then .full else if p.k ≤ 4096 then .overflow else .core

/-- The capacity c of R230. -/
def capOf (p : SearchParams) : Nat :=
  match rangeOf p with
  | .full => min (depthOf p) 128
  | .overflow => 128 * ((min (depthOf p) 4096 + 127) / 128)
  | .core => depthOf p

/-- Entries at which a pass over the buffer is due: 2c, or the whole spill area of 2m (R234, R236). -/
def passAt (p : SearchParams) : Nat := 2 * capOf p

/-- Entries the buffer holds: an overflow buffer 3c, a spill area 2m (R234 to R236). -/
def roomOf (p : SearchParams) : Nat := if rangeOf p == .overflow then 3 * capOf p else passAt p

/-! ### Seat lists (R231, R233) -/

/-- One offer that passed the filters. -/
def SeatList.enter (l : SeatList) (c : Cand) : SeatList :=
  if l.entries.length < l.cap then { l with entries := insertCand c l.entries }
  else
    match l.entries.getLast? with
    | none => l
    | some f =>
      if f.score < c.score then
        let e := insertCand c l.entries.dropLast
        let floor := (e.getLast?.map (·.score)).getD c.score
        { l with entries := e, floorCount := if floor = f.score then l.floorCount + 1 else 0 }
      else if c.score = f.score then { l with floorCount := l.floorCount + 1 }
      else l

/-- The seat list of a source, made when the source first offers. -/
def seatListOf (p : SearchParams) (ls : List SeatList) (source : Nat) : SeatList :=
  (ls.find? (·.source == source)).getD { source := source, cap := capOf p, entries := [], floorCount := 0, offers := 0 }

def putSeatList (ls : List SeatList) (l : SeatList) : List SeatList :=
  if ls.any (·.source == l.source) then modWhere ls (·.source == l.source) (fun _ => l) else ls ++ [l]

/-- The overflow or spill threshold that a source goes by (R234, R236): in the microsecond after a pass the new T_o may not have
reached it, and which it has is free. -/
def State.heardThreshold (s : State) (h : Share) : Option Int × State :=
  if rangeOf h.msg.params == .overflow && h.prior != h.threshold && decide (s.now < h.passedAt + Config.ticksPerUs) then
    let (i, s) := s.takeFree
    (if Config.freeNat i % 2 = 0 then h.threshold else h.prior, s)
  else (h.threshold, s)

/-- The admission threshold T_p of R232 at a source: none is minus infinity. -/
def State.admission (s : State) (h : Share) (shard source : Nat) : Option Int × State :=
  match rangeOf h.msg.params with
  | .full =>
    match h.part? shard with
    | none => (none, s)
    | some p =>
      let l := seatListOf h.msg.params p.lists source
      (if l.entries.length < l.cap then none else l.entries.getLast?.map (·.score), s)
  | _ => s.heardThreshold h

/-- A pass over the first `n` entries of the overflow buffer or spill area (R234, R236): the top c of them stay, before what has
arrived behind them; the threshold is the score of the last of the c. -/
def Share.pass (h : Share) (n now : Nat) : Share :=
  let r := cutAt (capOf h.msg.params) (sortCands (h.overBuf.take n))
  { h with overBuf := r.1 ++ h.overBuf.drop n,
           threshold := if r.1.length = capOf h.msg.params then r.1.getLast?.map (·.score) else h.threshold,
           prior := h.threshold, passedAt := now, cuts := h.cuts ++ r.2.toList }

/-- A score offered to the query's selection for a shard (R204, R228, R231, R234, R236). `ok`: it passed the filters; `heard`: the
threshold its source has. -/
def Share.offer (h : Share) (shard source id : Nat) (score : Int) (ok : Bool) (heard : Option Int) : Share :=
  match h.part? shard with
  | none => h
  | some p =>
    let l := seatListOf h.msg.params p.lists source
    let n := min l.offers (2 ^ 26 - 1)
    let c : Cand := ⟨score, shard, source, n, id⟩
    let l := { l with offers := l.offers + 1 }
    match rangeOf h.msg.params with
    | .full => h.modPart shard fun p => { p with lists := putSeatList p.lists (if ok then l.enter c else l) }
    | _ =>
      let h := h.modPart shard fun p => { p with lists := putSeatList p.lists l }
      let above := match heard with | none => true | some t => decide (t < score)
      if ok && above then { h with overBuf := h.overBuf ++ [c] } else h

/-- An offer to a query's selection; where the buffer is full by it, its source waits, and goes on after the pass that is due (R219,
R234 to R236). -/
def State.offer (s : State) (k : Key) (shard source id : Nat) (score : Int) (ok : Bool) : State :=
  match s.share? k with
  | none => s
  | some h =>
    let (heard, s) := s.heardThreshold h
    s.modShare k fun h =>
      let h := h.offer shard source id score ok heard
      if rangeOf h.msg.params != .full && decide (roomOf h.msg.params ≤ h.overBuf.length) then h.pass (passAt h.msg.params) s.now else h

/-- Every source has finished for the query on this node. -/
def Share.sourcesDone (h : Share) : Bool := h.shards.all (·.stage == .done)

/-! ### Seats -/

/-- The pair (origin_node, function) of a share (R199). -/
def pairOf (m : ShareMsg) : Nat × Nat := (m.key.origin, m.function)

/-- Remove a passenger's seat from a coach and give back its seat charge (R206). -/
def State.freeSeat (s : State) (coach : Nat) (k : Key) : State :=
  match s.eng.coaches.find? (·.id == coach) with
  | none => s
  | some c =>
    (c.seats.filter (·.2.1 == k)).foldl (fun s x => s.pairRelease (k.origin, x.2.2) .seats 1)
      (s.modEng fun e =>
        { e with coaches := modWhere e.coaches (·.id == coach) fun c =>
          { c with seats := c.seats.filter (·.2.1 != k), leaving := c.leaving.filter (· != k) } })

/-- Clear a passenger's bits from every mask (Table: effect of cancellation). -/
def clearMasks (l : List ItinEntry) (seats : List Nat) : List ItinEntry :=
  l.map fun e => { e with mask := e.mask.filter fun s => !seats.contains s }

/-- A passenger's seat on a coach is vacated and its bits cleared from every mask; an open coach that is emptied closes (R54,
R207). -/
def State.vacate (s : State) (k : Key) (coach : Nat) : State :=
  match s.eng.coaches.find? (·.id == coach) with
  | none => s
  | some c =>
    let mine := (c.seats.filter (·.2.1 == k)).map (·.1)
    let clear := fun (c : Coach) => ({ c with itin := clearMasks c.itin mine } : Coach)
    let clearRun := fun (r : CsuRun) => if r.coach = coach then ({ r with left := clearMasks r.left mine } : CsuRun) else r
    (s.freeSeat coach k).modEng fun e =>
      { e with coaches := (modWhere e.coaches (·.id == coach) clear).filter fun c => c.departed || !c.seats.isEmpty,
               csus := e.csus.map fun u => { u with runs := u.runs.map clearRun } }

/-- A CSU is within a list of a coach's itinerary: its next boundary is ahead. -/
def State.midList (s : State) (coach : Nat) : Bool := s.eng.csus.any fun u => u.runs.any fun r => r.coach == coach && r.page != 0

/-- A passenger leaves every coach, at the next list boundary of each itinerary (R54, R207). -/
def State.leaveCoaches (s : State) (k : Key) : State :=
  (s.eng.coaches.filter fun c => c.seats.any (·.2.1 == k)).foldl (fun s c =>
    if s.midList c.id then
      s.modEng fun e => { e with coaches := modWhere e.coaches (·.id == c.id) fun c => { c with leaving := c.leaving ++ [k] } }
    else s.vacate k c.id) s

/-- A list boundary of a coach's itinerary: the seats that wait for it are vacated (R54). -/
def State.listBoundary (s : State) (coach : Nat) : State :=
  (((s.eng.coaches.find? (·.id == coach)).map (·.leaving)).getD []).foldl (fun s k => s.vacate k coach) s

/-- A CSU requests its channel for the next page of its first run that has entries left and whose arrays score, unless a passenger's
overflow buffer is full (R203, R217, R219, R234) or the CSU is not clocked. -/
def State.csuRequest (s : State) (c : Nat) : State :=
  let u := s.csu c
  match u.runs.find? fun r => !r.left.isEmpty && !r.arrays.any s.arrayHeld with
  | none => s.modCsu c fun u => { u with holdBack := u.holdBack || u.runs.any (!·.left.isEmpty) }
  | some r =>
    match r.left, s.eng.coaches.find? (·.id == r.coach) with
    | e :: _, some k =>
      let full := e.mask.any fun seat =>
        match (k.seats.find? (·.1 == seat)).bind fun x => s.share? x.2.1 with
        | some h => rangeOf h.msg.params != .full && decide (roomOf h.msg.params ≤ h.overBuf.length)
        | none => false
      if u.paused || full then s.modCsu c fun u => { u with holdBack := full }
      else (s.modCsu c fun u => { u with holdBack := false, runs := r :: u.runs.erase r }).arbRequest c 0 false false (.page c)
    | _, _ => s

/-- CSUs that hold back for the query's overflow buffer request their pages again (R219, R234). -/
def State.resumeCsus (s : State) : State :=
  (List.range 32).foldl (fun s c => if (s.csu c).holdBack then s.csuRequest c else s) s

/-! ### The end of a share -/

/-- A row read of a search share at an arbiter. -/
def Work.rowOf (k : Key) : Work → Bool
  | .row _ k' _ _ => k' == k
  | _ => false

/-- Work of a search share at the arbiters. -/
def Work.ofShare (k : Key) : Work → Bool
  | .project k' _ => k' == k
  | .coarse k' _ => k' == k
  | .nearBank k' _ _ _ => k' == k
  | .row _ k' _ _ => k' == k
  | .rerank k' => k' == k
  | .forming k' _ => k' == k
  | _ => false

/-- Free the seats of a passenger that is done in coaches that have departed; a seat of a coach that is still open stays taken
until it departs or closes (R206). -/
def State.leaveDone (s : State) (k : Key) : State :=
  s.eng.coaches.foldl (fun s c => if c.departed then s.freeSeat c.id k else s) s

/-- Work of a level-2 batch at an arbiter. -/
def Work.ofBatch (b : L2Batch) : Work → Bool
  | .level2 d at_ => d == b.shard && at_ == b.openedAt
  | _ => false

/-- Members leave the level-2 batches; a batch with none left is gone, with its requests (R54, R186). -/
def State.leaveBatches (s : State) (f : L2Batch → L2Batch) : State :=
  let empty := fun (b : L2Batch) => b.queries.isEmpty && b.inserts.isEmpty
  let after := s.eng.batches.map f
  let s := s.arbWithdraw fun w => after.any fun b => empty b && w.ofBatch b
  s.modEng fun e => { e with batches := after.filter (!empty ·) }

/-- Take everything but its seats from a share (R54, R200, R281): waiting arbiter requests, ledger requests and read stamps,
batch places, row reads, T0, T1 and T3 space. -/
def State.releaseRest (s : State) (k : Key) : State :=
  match s.share? k with
  | none => s
  | some h =>
    let p := pairOf h.msg
    let s := s.arbWithdraw (·.ofShare k)
    let s : State := { s with shards := s.shards.map fun (x : Shard) =>
      ({ x with waiting := x.waiting.filter (·.2 != .search k), readers := x.readers.filter (·.1 != .req k) } : Shard) }
    let s := s.leaveBatches fun b => { b with queries := b.queries.filter (· != k) }
    let s := s.modEng fun e => { e with porter := e.porter.filter (·.2.1 != k), shares := e.shares.filter (·.msg.key != k) }
    let s := ((s.pairRelease p .t0 h.t0).pairRelease p .t1 h.t1).pairRelease p .t3 h.t3
    (match h.pool with
    | some q => s.modPool q fun x => { x with used := x.used - h.t3 }
    | none => s).resumeCsus

/-- Take everything a share holds or waits for away from it, its seats included (Table: effect of cancellation, R207). -/
def State.releaseShare (s : State) (k : Key) : State :=
  match s.share? k with
  | none => s
  | some _ => (s.leaveCoaches k).releaseRest k

/-! ### Reads of a Porter slice (R307) -/

/-- A row read as the work of its slice at a channel. -/
def readWork (x : Nat × Key × Nat × Nat) : Work := .row x.1 x.2.1 x.2.2.1 x.2.2.2

/-- The channel that an issued read goes to (R38, R304). -/
def State.readChannel (s : State) (x : Nat × Key × Nat × Nat) : Option Nat :=
  match s.share? x.2.1, s.shard? x.2.2.1 with
  | some h, some d => match h.part? x.2.2.1, d.slot? x.2.2.2 with
    | some p, some y => s.rowRead d y p.stamp
    | _, _ => none
  | _, _ => none

/-- The reads that a slice has issued, at most 65,536, oldest first (R307). -/
def State.issued (s : State) (tile : Nat) : List (Nat × Key × Nat × Nat) := (s.eng.porter.filter (·.1 == tile)).take 65536

/-- The slice requests the channels of the reads it has issued (R38, R55, R307); a grant whose read is no longer wanted ends, its data
discarded (R54). -/
def State.issueReads (s : State) (tile : Nat) : State :=
  let s := s.dropWork fun w => match w with
    | .row t k i n => t == tile && !s.eng.porter.contains (t, k, i, n)
    | _ => false
  (s.issued tile).foldl (fun s x => s.requestAt (1 + tile) false (readWork x) (s.readChannel x).toList) s

/-- The shard that a tag names (R46): the one shard of the work, or none where it is on several (log 90). -/
def soleShard : List Nat → Nat
  | [i] => i
  | _ => 0xFFFFFF

/-- Send an answer to its coordinator: over the internal path to this node itself, else as a result-return frame (R29,
R245). -/
def State.sendAnswer (s : State) (m : ShareMsg) (a : Answer) : State :=
  let stamp := match a.shards with | [(_, .answered r _ _ _ _ _)] => r | _ => 0
  if m.key.origin = s.nodeId then s.modEng fun e => { e with inAnswers := e.inAnswers ++ [a] }
  else
    s.sendWork { workTag m.key m.function m.qosClass 0x0D m.key.origin (soleShard (a.shards.map (·.1))) (m.hop + 1) with
      ledgerStamp := stamp } (.answer a)

/-- An answer with nothing but a state for every shard asked. -/
def State.emptyAnswer (s : State) (m : ShareMsg) (shards : List Nat) (x : ShardAnswer) : Answer :=
  { key := m.key, node := s.nodeId, shards := shards.map fun i => (i, x), entries := [], duplicates := 0, missingRows := 0,
    edgesSkipped := 0, reranked := 0, tie := none, pools := [] }

/-- The share completes with a status that carries no result (R614). -/
def State.failShare (s : State) (k : Key) (status detail : Nat) : State :=
  match s.share? k with
  | none => s
  | some h => (s.releaseShare k).sendAnswer h.msg (s.emptyAnswer h.msg (h.shards.map (·.shard)) (.failed status detail))

/-! ### The end of a shard's scoring (R205, R206, R252) -/

/-- Near-bank offers in the order of R205: cached lists ascending, then guestbooks ascending, then entry position. -/
def insertOffer (x : (Bool × Nat) × ScanRec × Nat) :
    List ((Bool × Nat) × ScanRec × Nat) → List ((Bool × Nat) × ScanRec × Nat)
  | [] => [x]
  | y :: rest =>
    if (!x.1.1 && y.1.1) || (x.1.1 == y.1.1 && decide (x.1.2 < y.1.2)) then x :: y :: rest else y :: insertOffer x rest

/-- Enter the near-bank scores of a query into its seats, source 32 (R204, R228, R400). -/
def State.enterNear (s : State) (k : Key) (shard : Nat) : List ((Bool × Nat) × ScanRec × Nat) → State
  | [] => s
  | x :: rest =>
    match s.share? k, s.shard? shard with
    | some h, some d =>
      match s.coll? h.msg.collection, h.part? shard with
      | some c, some p =>
        let q := projectFor c.spec d.matrix (queryFor c.spec h.msg.params.query)
        let (v, s) := s.scoreOf c.spec none (sq4 q) x.2.1.groups x.2.1.norm (sqNorm q) 0
        let ok := d.passes x.2.1.id x.2.2 p.stamp && SearchParams.admits h.msg.params x.2.1.id
        (s.offer k shard 32 x.2.1.id v ok).enterNear k shard rest
      | _, _ => s
    | _, _ => s

/-- A shard's part is over when its coach has finished for the query and its near-bank scoring has ended (R206): the
near-bank offers enter after every CSU's (R205). Cached lists are pinned until its near-bank scoring ends (R194). A list is covered
when its records and its guestbook were scored (R252). -/
def State.settle (s : State) (k : Key) (shard : Nat) : State :=
  match (s.share? k).bind (·.part? shard) with
  | none => s
  | some p =>
    let s := if p.nearLeft.isEmpty then s.modPart k shard fun p => { p with cached := [] } else s
    if p.stage != .boarded || !p.flashLeft.isEmpty || !p.nearLeft.isEmpty then s
    else
      let s := s.enterNear k shard (p.nearOffers.foldl (fun a x => insertOffer x a) [])
      s.modPart k shard fun p => { p with stage := .done, nearOffers := [] }

/-! ### The node's answer (R245, R250, R252) -/

/-- What a shard answers: coverage counts the lists scored in full that are not degraded (R252). `lost`: rows of a lost pool
were met in a rerun re-rank (R500). Of a short shard that has no probe set yet the manual gives no counts: planned is then what a
missing shard's is, and a FORMING one cut short is not covered (log 91). -/
def State.shardAnswer (s : State) (probes : Nat) (lost : Bool) (p : SShard) : ShardAnswer :=
  if p.forming then .answered p.stamp (if p.short then 0 else 1) 1 lost p.short true
  else
    let bad := fun (i : Nat) => match s.list? i with | some l => l.degraded | none => false
    let planned := if p.short && p.probe.isEmpty then min probes (s.listsAt p.shard p.stamp).length else p.probe.length
    .answered p.stamp (p.covered.filter fun i => p.probe.contains i && !bad i).length planned (lost || p.probe.any bad) p.short false

/-- The tie record (R250): the numbers of the steps whose cut score equals that of the last entry returned, added. -/
def tieRecord (cuts : List (Int × Nat)) (entries : List Cand) : Option (Int × Nat) :=
  match entries.getLast? with
  | none => none
  | some x =>
    let n := (cuts.filter fun c => c.1 == x.score).foldl (fun n c => n + c.2) 0
    if n = 0 then none else some (x.score, n)

/-- The node's answer leaves, and the share ends (R245); `rowPools` are the pools of the rows it read (R500). -/
def State.answerShare (s : State) (h : Share) (entries : List Cand) (cuts : List (Int × Nat)) (reranked : Nat) (rowPools : List Nat) :
    State :=
  let a : Answer :=
    { key := h.msg.key, node := s.nodeId, shards := h.shards.map fun p => (p.shard, s.shardAnswer h.msg.params.probes h.lostRows p), entries := entries,
      duplicates := h.dups, missingRows := h.missing, edgesSkipped := h.shards.foldl (fun n p => n + p.skipped) 0,
      reranked := reranked, tie := tieRecord cuts entries, pools := h.pool.toList ++ rowPools }
  ((s.leaveDone h.msg.key).releaseRest h.msg.key).sendAnswer h.msg a

end Sys2Proof.Machine
end

