-- ==== Sys2Proof/Machine/Search.lean ====
section
/-! DEFINITION. Meanings of the search commands up to the coach: SEARCH, its shares, coarse selection, level-2 batches,
boarding, coaches on the CSUs (R29 to R32, R186 to R209, R221, R409). -/

namespace Sys2Proof.Machine

open Sys2Proof

/-! ### SEARCH (R221, R223, R225, R257) -/

/-- `n` terms of a lexical part: identifier and BF16 weight; none when one is not finite. -/
def readTerms (b : Bytes) (off : Nat) : Nat → Option (List (Nat × Int))
  | 0 => some []
  | n + 1 => do return (le b off 4, ← bf16Value (le b (off + 4) 2)) :: (← readTerms b (off + 8) n)

/-- Offset of the first term entry whose bytes 6 and 7 are not zero, or whose identifier is not above the one before it
(R167, R168). -/
def badTerm (b : Bytes) (off prev : Nat) : Nat → Option Nat
  | 0 => none
  | n + 1 =>
    let id := le b off 4
    if le b (off + 6) 2 ≠ 0 then some (off + 6)
    else if id + 1 ≤ prev then some off
    else badTerm b (off + 8) (id + 1) n

/-- The terms of a query; a weight that is not finite has no value in the manual, and is a free one (log 92). -/
def queryTerms (b : Bytes) (index : Nat) (off : Nat) : Nat → List (Nat × Int)
  | 0 => []
  | n + 1 =>
    (le b off 4, (bf16Value (le b (off + 4) 2)).getD (Config.freeElement index (4096 + n))) :: queryTerms b index (off + 8) n

/-- `n` ranges of identifiers. -/
def readRanges (b : Bytes) (off : Nat) : Nat → List (Nat × Nat)
  | 0 => []
  | n + 1 => (le b off 8, le b (off + 8) 8) :: readRanges b (off + 16) n

/-- `n` free elements: of a query whose given elements are no numbers, of a first centroid of a k-means. -/
def freeElements (index n : Nat) : List Int := (List.range n).map (Config.freeElement index)

/-- What an encoder makes of its input (R223, R365): uninterpreted, and two runs may differ (R214). -/
def encoded (index coll model : Nat) (input : Bytes) (n : Nat) : List Int :=
  (List.range n).map (Config.encoderElement index coll model input)

/-- The model names a loaded encoder whose entry 0 gives vectors of the dimensions searched (R365). -/
def State.encoderGood (s : State) (coll model d : Nat) : Bool :=
  match s.model? coll model with
  | none => false
  | some m =>
    let e := Config.entryKind (le m.header 4 2) 0
    m.st == .ready && e.2.1 == 0 && e.2.2 == d

/-- The bytes of the query part, its terms and its ranges: where the terms and the ranges begin, and the end (R221). -/
def searchParts (e : Bytes) : Nat × Nat × Nat :=
  let terms := roundUp (le e 68 4) 64
  let ranges := roundUp (terms + 8 * le e 76 4) 64
  (terms, ranges, if le e 74 2 = 0 then (if le e 76 4 = 0 then le e 68 4 else terms + 8 * le e 76 4) else ranges + 16 * le e 74 2)

/-- SEARCH (R221, R223, R225, R226, R257): checked, then sent to every owning node (R29). With encoder input it first requests the
tensor clusters of its home tile on this node, the coordinator, and waits for the encoder's run there: the row comes again. -/
def execSearch (num : Nat) (io : HostIO) (t : Nat) (s : State) : Result :=
  let s := s.at t
  let e := s.entryOf num
  let fmt := byteAt e 48
  let flags := byteAt e 49
  let k := le e 52 4
  let probes := le e 56 2
  let l1 := le e 58 2
  let rr := le e 60 4
  let dwell := le e 64 2
  let tmo := le e 66 2
  let qlen := le e 68 4
  let fkind := byteAt e 72
  let fcount := le e 74 2
  let lcount := le e 76 4
  let need := roundUp (64 + 12 * k) 16 + (if bit flags 0 then 16 * ((s.collOf num).map (·.spec.shards)).getD 0 else 0)
  .next (s.dataCommit num 1 io [(50, 2), (73, 1), (88, 40)]
    [(48, decide (fmt < 4)), (49, decide (flags < 8)), (72, decide (fkind < 3))] .named (some 0) need fun s r inp =>
    match s.coll? r.collection with
    | none => s.complete r (.bare stInvalid 4) io
    | some c =>
      let d := c.spec.dimensions
      let ec := le e 80 4
      let em := le e 84 4
      let encoder := fmt = 3
      if encoder && r.fn ≠ 0 && !bit (s.rights r.fn ec) 4 && (s.coll? ec).isSome then s.complete r (.bare stDenied 0) io
      else
      match lowestBad e []
          [(24, decide ((searchParts e).2.2 ≤ le e 24 4)), (49, !bit flags 1 || c.spec.lexical),
           (52, decide (1 ≤ k) && decide (k ≤ 16777216)), (56, decide (1 ≤ probes) && decide (probes ≤ 4096)),
           (58, decide (l1 ≤ 256)), (60, rr == 0 || (decide (k ≤ rr) && decide (rr ≤ 65536))),
           (64, decide (dwell ≤ 2000) || dwell == 0xFFFF), (66, decide (tmo ≤ 60000)),
           (68, encoder || qlen == vectorBytes fmt d),
           (74, if fkind = 0 then fcount == 0 else decide (1 ≤ fcount) && decide (fcount ≤ 256)),
           (76, decide (lcount ≤ 256) && (bit flags 1 || lcount == 0)),
           (80, if encoder then (s.coll? ec).isSome else ec == 0),
           (84, if encoder then s.encoderGood ec em d else em == 0)] with
      | some o => s.complete r (.bare stInvalid o) io
      | none =>
        let parts := searchParts e
        let (i, s) := s.takeFree
        let q :=
          if encoder then encoded i ec em (slice inp 0 qlen) d else (readVector fmt d inp 0).getD (freeElements i d)
        let ranges := readRanges inp parts.2.1 fcount
        let bads :=
          (if fmt = 2 then (firstReserved inp (sq8Reserved 0 d)).toList else []) ++
          (if c.spec.metric = 1 && sqNorm q == 0 then [0] else []) ++
          (badTerm inp parts.1 0 lcount).toList ++
          ((ranges.findIdx? fun x => decide (x.2 < x.1)).map fun j => parts.2.1 + 16 * j).toList
        match bads with
        | x :: rest => s.badInput r (rest.foldl min x) io
        | [] =>
          let tile := s.homeTile num
          let w : Work := .encode ⟨s.nodeId, num⟩
          if encoder && !(s.arbHolds (tensorArb tile) w && s.tileReady tile) then s.needTensor tile false false w
          else
          let s := if encoder then s.arbEnd (tensorArb tile) w else s
          let p : SearchParams :=
            { k := k, probes := probes, l1Probes := if l1 = 0 then (probes + 11) / 12 else l1, rerankDepth := rr,
              dwellLimit := dwell, timeoutMs := if tmo = 0 then 1000 else tmo, readStamps := bit flags 0,
              lexical := bit flags 1, noExpand := bit flags 2, retryAllowed := bit (byteAt e 8) 0, filterKind := fkind,
              ranges := ranges, query := q, terms := queryTerms inp i parts.1 lcount }
          let s := s.modReq num fun r =>
            { r with body := .search p [] [] (r.admittedAt + p.timeoutMs * Config.ticksPerMs) }
          c.ownerNodes.foldl (fun s o =>
            let m : ShareMsg := ⟨⟨s.nodeId, num⟩, r.fn, r.qosClass, 0, c.spec.id, c.shardsAt o, p⟩
            if o = s.nodeId then s.modEng fun e => { e with inShares := e.inShares ++ [m] }
            else s.sendWork (workTag m.key r.fn r.qosClass 1 o (soleShard m.shards) 0) (.share m)) s)

/-! ### Shares on an owning node (R29, R30, R50) -/

/-- A shard's part of a share before its read stamp. -/
def freshPart (shard since : Nat) : SShard :=
  { shard := shard, stamp := 0, forming := false, stage := .waitStamp, since := since, l1 := [], probe := [], skipped := 0,
    flash := [], cached := [], seat := 0, lists := [], flashLeft := [], nearLeft := [], nearOffers := [], covered := [],
    degraded := false, short := false }

/-- A shard this node has and still serves. -/
def State.serves (s : State) (shard : Nat) : Bool :=
  match s.shard? shard with
  | some d => d.forwardTo.isNone && !d.lost
  | none => false

/-- A share merges once more (R238, R240): what a merge made before counts for nothing, its row reads are discarded. -/
def State.reopenShare (s : State) (k : Key) (f : Share → Share) : State :=
  let s := (s.arbWithdraw fun w => w == .rerank k || w.rowOf k).modEng fun e => { e with porter := e.porter.filter (·.2.1 != k) }
  s.modShare k fun h => f { h with merged := none, final := false, dups := 0, missing := 0, rows := [] }

/-- SEARCH_SHARE_ARRIVAL (R29, R50, R114, R323 step 6): the share's queries wait at the ledger arbiters of this node's shards; those
of shards that moved on are forwarded, at most four times. `m` is a peer's share, which has been admitted, or none for the internal
path. A shard that this node has LOST or does not hold is answered as missing (log 93). -/
def execSearchShareArrival (m : Option ShareMsg) (t : Nat) (s : State) : Result :=
  let s := s.at t
  let (m, s) : Option ShareMsg × State :=
    match m with
    | some x => match s.takeAdmitted (tagIsOf x.key 1) with
      | some s => (some x, s)
      | none => (none, s)
    | none => (s.eng.inShares.head?, s.modEng fun e => { e with inShares := e.inShares.drop 1 })
  match m with
  | none => .next s
  | some m =>
    let mine := m.shards.filter s.serves
    let moved := m.shards.filterMap fun i => (s.shard? i).bind fun d => d.forwardTo.map fun n => (i, n)
    let gone := m.shards.filter fun i => !mine.contains i && !moved.any (·.1 == i)
    let s := (moved.map (·.2)).eraseDups.foldl (fun s n =>
      let part := { m with shards := (moved.filter (·.2 == n)).map (·.1), hop := m.hop + 1 }
      if 4 ≤ m.hop then s.sendAnswer m (s.emptyAnswer m part.shards .hopEnded)
      else
        let tag := workTag m.key m.function m.qosClass 1 n (soleShard part.shards) (m.hop + 1)
        s.produce n tag (reservedQueue tag) (.share part)) s
    let s := if gone.isEmpty then s else s.sendAnswer m (s.emptyAnswer m gone .hopEnded)
    let parts := mine.map fun i => freshPart i s.now
    let s : State := { s with shards := modWhere s.shards (fun d => mine.contains d.id) fun d =>
      { d with waiting := d.waiting ++ [(s.now, .search m.key)] } }
    match s.share? m.key with
    | some _ => .next (s.reopenShare m.key fun h => { h with shards := h.shards ++ parts })
    | none =>
      let h : Share :=
        { msg := m, arrivedAt := s.now, shards := parts, t0 := 0, t1 := 0, t3 := 0, pool := none, rerunDone := false,
          merged := none, dups := 0, missing := 0, rows := [], overBuf := [], threshold := none, final := false, cuts := [],
          failure := none, lostRows := false }
      if mine.isEmpty then .next s else .next (s.modEng fun e => { e with shares := e.shares ++ [h] })

/-- A query passes a shard's ledger arbiter (R31 step 3, R65): the counter is its read stamp. Once the share holds all its
read stamps, its projections (R191) and formation scorings are requested (R31 step 4, R154, R195). -/
def State.stampShare (s : State) (shard : Nat) (k : Key) : State :=
  match s.shard? shard, s.share? k with
  | some d, some h =>
    let r := d.counter
    let forming := match d.switchW with | some w => decide (r < w) | none => true
    let s := s.modShard shard fun d => { d with readers := d.readers ++ [(.req k, r)] }
    let s := s.modPart k shard fun p => { p with stamp := r, forming := forming, stage := .project, since := s.now }
    if h.shards.any fun p => p.shard != shard && p.stage == .waitStamp then s
    else
      let tile := s.homeTile k.num
      (((s.share? k).map (·.shards)).getD []).foldl (fun s p =>
        if p.stage != .project then s
        else s.needTensor tile false false (if p.forming then .forming k p.shard else .project k p.shard)) s
  | _, _ => s

/-! ### Coarse selection (R188, R191 to R193, R296) -/

/-! Level-2 batches (R185 to R187) -/

/-- Columns of the coarse field in use (R170, R185). -/
def State.columnsUsed (s : State) : Nat :=
  s.owned.foldl (fun n d =>
    n + d.centroids.length * (if (((s.coll? d.coll).map (·.spec.projection)).getD 256) ≤ 256 then 1 else 2)) 0

/-- Level-1 arrays, and those left for the level-2 pool (R185): 64 in use, less those offline with no spare (R569). -/
def State.level1Arrays (s : State) : Nat := (s.columnsUsed + 255) / 256
def State.poolArrays (s : State) : Nat := s.spares.field.length - s.level1Arrays

/-- Coarse columns have changed: the level-1 arrays' operating point is set for nibble input (R181, R182). -/
def State.writeColumns (s : State) : State := s.setPoints (s.spares.field.take s.level1Arrays) true

/-- When a batch departs or departed (R186): at its 256th member, or 8 µs after its first. -/
def L2Batch.due (b : L2Batch) : Nat := b.fullAt.getD (b.openedAt + 8 * Config.ticksPerUs)

/-- The batch takes members. -/
def L2Batch.open_ (b : L2Batch) (now : Nat) : Bool := b.fullAt.isNone && b.left.isNone && decide (now < b.due)

/-- The batch with one member more; the 256th fills it. -/
def L2Batch.board (b : L2Batch) (now : Nat) (add : L2Batch → L2Batch) : L2Batch :=
  let b := add b
  if b.queries.length + b.inserts.length = 256 then { b with fullAt := some now } else b

/-- A member boards its shard's open level-2 batch, or opens the next (R186). -/
def State.boardBatch (s : State) (shard : Nat) (add : L2Batch → L2Batch) : State :=
  let mine := fun (b : L2Batch) => b.shard == shard && b.open_ s.now
  s.modEng fun e =>
    if e.batches.any mine then { e with batches := modWhere e.batches mine fun b => b.board s.now add }
    else { e with batches := e.batches ++ [L2Batch.board ⟨shard, [], [], s.now, none, none⟩ s.now add] }

/-- A request of a level-2 batch for the coarse field, stamped when the batch was due. -/
def State.requestBatch (s : State) (b : L2Batch) : State :=
  let w : Work := .level2 b.shard b.openedAt
  s.modArb 0x80 fun a =>
    if a.waiting.any (·.work == w) || a.granted.any (·.work == w) then a
    else { a with waiting := a.waiting ++ [⟨0, b.due, false, false, w⟩] }

/-- Every batch that has departed requests the coarse field (R36, R186), while the level-2 pool has an array (R187). -/
def State.requestBatches (s : State) : State :=
  if s.poolArrays = 0 then s
  else (s.eng.batches.filter fun b => b.left.isNone && decide (b.due ≤ s.now)).foldl State.requestBatch s

/-- COARSE_SELECTION (R191, R192): the query is projected on the home tile's tensor clusters once they are granted, and requests the
coarse field; with the field granted, the best l1_probes level-1 centroids are kept and it joins its shard's level-2 batch (R186).
Above 108 °C the hub's arrays score nothing (R526). -/
def execCoarseSelection (k : Key) (shard : Nat) (s : State) : Result :=
  let w : Work := .coarse k shard
  let tile := s.homeTile k.num
  if s.arbHolds (tensorArb tile) (.project k shard) then
    if !s.tileReady tile then .next s
    else
      let s := s.arbEnd (tensorArb tile) (.project k shard)
      .next ((s.modPart k shard fun p => { p with stage := .coarse, since := s.now }).arbRequest 0x80 tile false false w)
  else if !s.arbHolds 0x80 w || s.pwr.hotTiles.contains 4 then .next s
  else
    match (s.share? k).bind (fun h => (h.part? shard).map fun p => (h, p)), s.shard? shard with
    | some (h, _), some d =>
      match s.coll? h.msg.collection with
      | none => .next (s.arbEnd 0x80 w)
      | some c =>
        let q := projectFor c.spec d.matrix (queryFor c.spec h.msg.params.query)
        let (sc, s) := s.scoreL1 c.spec nibble (sq8 q) (sqNorm q) d.columns
        let kept := ((ranked sc).take h.msg.params.l1Probes).map (·.2)
        let s := s.modPart k shard fun p => { p with l1 := kept, stage := .level2, since := s.now }
        let s := s.boardBatch shard fun b => { b with queries := b.queries ++ [k] }
        .next (s.arbEnd 0x80 w)
    | _, _ => .next (s.arbEnd 0x80 w)

/-- R193, R296: add neighbours of the chosen lists, in slot order, until the set holds `probes` lists. The answer counts the
slots skipped because they name a retired list or one of another shard. -/
def expandProbes (lists : List LList) (shard r probes : Nat) : List Nat → List Nat → Nat → List Nat × Nat
  | [], set, skipped => (set, skipped)
  | n :: rest, set, skipped =>
    if probes ≤ set.length then (set, skipped)
    else
      match lists.find? (·.id == n) with
      | none => expandProbes lists shard r probes rest set (skipped + 1)
      | some l =>
        if l.shard ≠ shard || (match l.retiredW with | some w => decide (w ≤ r) | none => false) then
          expandProbes lists shard r probes rest set (skipped + 1)
        else if set.contains n || r < l.bornW then expandProbes lists shard r probes rest set skipped
        else expandProbes lists shard r probes rest (set ++ [n]) skipped

/-- Level-2 selection of one query of a batch (R187, R192, R193); `unit` is the M of the arrays that score, none for near-bank
units. -/
def State.level2Query (s : State) (c : Coll) (d : Shard) (unit : Option Nat) (k : Key) : State :=
  let shard := d.id
  match (s.share? k).bind (fun h => (h.part? shard).map fun p => (h, p)) with
  | none => s
  | some (h, p) =>
    let m := h.msg.params
    let q := projectFor c.spec d.matrix (queryFor c.spec m.query)
    let (sc, s) := s.scoreHeads c.spec unit (sq4 q) (sqNorm q) ((s.listsAt shard p.stamp).filter fun l => p.l1.contains l.l1)
    let chosen := ((ranked (sc.map fun x => (x.1, x.2.id))).take m.probes).map (·.2)
    let slots := chosen.flatMap fun i => match s.list? i with | some l => l.neighbours | none => []
    let (set, skipped) := if m.noExpand then (chosen, 0) else expandProbes s.lists shard p.stamp m.probes slots chosen 0
    (s.modEng fun e => { e with retiredEdges := e.retiredEdges + skipped }).modPart k shard fun p =>
      { p with probe := set, skipped := p.skipped + skipped, stage := .seat, since := s.now }

/-- The lists an insert goes to (R267): the best list under its level-1 centroid, and the second when the scores differ by at
most 1.6 % of the larger full scale. -/
def State.level2Insert (s : State) (c : Coll) (shard : Nat) (unit : Option Nat) (k : Key) (idx : Nat) : State :=
  match (s.member? k idx), (s.member? k idx).bind (·.scan) with
  | some w, some sr =>
    let heads := s.lists.filter fun l => l.shard == shard && l.l1 == w.l1 && l.retiredW.isNone
    let (sc, s) := s.scoreHeads c.spec unit sr.groups sr.norm heads
    let best := ranked (sc.map fun x => (x.1, x.2.id))
    let fs := fun (i : Nat) => match s.list? i with | some l => fullScale 12544 sr.groups l.centroid | none => 0
    let lists := match best with
      | [] => []
      | [a] => [a.2]
      | a :: b :: _ => if (a.1 - b.1) * 1000 ≤ 16 * max (fs a.2) (fs b.2) then [a.2, b.2] else [a.2]
    let held := lists.any fun i => match s.list? i with | some l => l.closed | none => false
    s.modMember k idx fun m =>
      { m with lists := lists, stage := if held then .waitSplit else .assigned, since := s.now }
  | _, _ => s

/-- The members of a batch are scored, each against its own blocks, and the batch is over. -/
def State.scoreBatch (s : State) (c : Coll) (d : Shard) (unit : Option Nat) (b : L2Batch) : State :=
  let s := s.modEng fun e => { e with batches := e.batches.filter fun x => !(x.shard == b.shard && x.openedAt == b.openedAt) }
  let s := b.queries.foldl (fun s k => s.level2Query c d unit k) s
  b.inserts.foldl (fun s x => s.level2Insert c d.id unit x.1 x.2) s

/-- The stacks that hold blocks which a batch scores (R187, R399): those of the level-1 centroids its members chose. -/
def State.blockStacks (s : State) (b : L2Batch) : List Nat :=
  let chosen := (b.queries.flatMap fun k => (((s.share? k).bind (·.part? b.shard)).map (·.l1)).getD []) ++
    b.inserts.filterMap fun x => (s.member? x.1 x.2).map (·.l1)
  ((chosen.eraseDups).map fun i => s.stacksOn.getD (Config.blockStack b.shard i % s.stacksOn.length) 0).eraseDups

/-- A batch's broadcast on a stack is over; after the last one its members have their scores (R187). -/
def State.batchStackDone (s : State) (stack : Nat) (b : L2Batch) : State :=
  let rest := (b.left.getD []).filter (· != stack)
  let mine := fun (x : L2Batch) => x.shard == b.shard && x.openedAt == b.openedAt
  if rest.isEmpty then
    match s.shard? b.shard, (s.shard? b.shard).bind fun d => s.coll? d.coll with
    | some d, some c => s.scoreBatch c d none b
    | _, _ => s.modEng fun e => { e with batches := e.batches.filter fun x => !mine x }
  else s.modEng fun e => { e with batches := modWhere e.batches mine fun x => { x with left := some rest } }

/-- The batch's blocks go to near-bank units: a request at each stack's command port (R187, R384). -/
def State.batchToStacks (s : State) (b : L2Batch) : State :=
  let banks := s.blockStacks b
  let mine := fun (x : L2Batch) => x.shard == b.shard && x.openedAt == b.openedAt
  if banks.isEmpty then s.batchStackDone 0 b
  else
  let s := s.modEng fun e => { e with batches := modWhere e.batches mine fun x => { x with left := some banks } }
  banks.foldl (fun s i => s.arbRequest (0x40 + i) 0 false false (.level2 b.shard b.openedAt)) s

/-- LEVEL2_BATCH_DEPART (R36, R186, R187): a batch that has departed requests the coarse field, takes it when its turn has come, and
each member is scored against its own blocks. When level-1 columns leave the pool no array, the near-bank units score the blocks. -/
def execLevel2BatchDepart (shard t : Nat) (s : State) : Result :=
  let s := (s.at t).requestBatches
  match s.eng.batches.find? (fun b => b.shard == shard && b.left.isNone), s.shard? shard, (s.shard? shard).bind fun d => s.coll? d.coll with
  | some b, some d, some c =>
    let w : Work := .level2 shard b.openedAt
    let a := s.arb 0x80
    if s.now < b.due then .next s
    else if s.poolArrays = 0 then .next ((s.arbWithdraw (· == w)).batchToStacks b)
    else if !a.granted.isEmpty || s.pwr.hotTiles.contains 4 then .next s
    else
      match s.arbPick a with
      | none => .next s
      | some r => if r.work == w then .next ((((s.arbGive 0x80 r true).setPoints (s.spares.field.drop s.level1Arrays) false).scoreBatch c d (some fourBit) b).arbEnd 0x80 w) else .next s
  | _, _, _ => .next s

/-! ### Coaches (R194 to R203, R409) -/

/-- The stack whose port serves a list's cached pages and guestbook (R381, R399). -/
def State.stackOf (s : State) (list : Nat) : Nat :=
  s.stacksOn.getD (Config.listStack list % s.stacksOn.length) 0

/-- The seats of passengers that have nothing left to read with a departed coach are free again (R206). -/
def State.freeDone (s : State) (coach : Nat) : State :=
  match s.eng.coaches.find? (·.id == coach) with
  | none => s
  | some c =>
    if !c.departed then s
    else
      let s := c.seats.foldl (fun s x =>
        match (s.share? x.2.1).bind (·.part? c.shard) with
        | some p => if p.flashLeft.isEmpty then s.freeSeat coach x.2.1 else s
        | none => s.freeSeat coach x.2.1) s
      let running := s.eng.csus.any fun u => u.queue.contains coach || u.runs.any (·.coach == coach)
      if running then s else s.modEng fun e => { e with coaches := e.coaches.filter (·.id != coach) }

/-- A coach departs (R197): every CSU with entries queues it, in departure order. -/
def State.departCoach (s : State) (coach : Nat) : State :=
  match s.eng.coaches.find? (·.id == coach) with
  | none => s
  | some c =>
    let csus := (c.itin.map (·.csu)).eraseDups
    let s := s.modEng fun e =>
      { e with coaches := modWhere e.coaches (·.id == coach) (fun c => { c with departed := true }) }
    let s := csus.foldl (fun s u => (s.modCsu u fun x => { x with queue := x.queue ++ [coach] }).needUnit (.csu u)) s
    s.freeDone coach

/-- Order of an itinerary (R201): CSU, list, older version first. -/
def itinBefore (a b : ItinEntry) : Bool :=
  if a.csu ≠ b.csu then decide (a.csu < b.csu)
  else if a.list ≠ b.list then decide (a.list < b.list)
  else decide (a.epoch < b.epoch)

/-- Set a seat's bit for a list version, adding the entry at its place (R201, R202). -/
def addVisit (x : ItinEntry) (seat : Nat) : List ItinEntry → List ItinEntry
  | [] => [{ x with mask := [seat] }]
  | e :: rest =>
    if e.csu = x.csu && e.list = x.list && e.epoch = x.epoch then { e with mask := e.mask ++ [seat] } :: rest
    else if itinBefore x e then { x with mask := [seat] } :: e :: rest
    else e :: addVisit x seat rest

/-- Pair order (R199). -/
def pairLt (a b : Nat × Nat) : Bool := decide (a.1 < b.1) || (a.1 == b.1 && decide (a.2 < b.2))

def leastPair : List (Nat × Nat) → Option (Nat × Nat)
  | [] => none
  | p :: rest => match leastPair rest with
    | none => some p
    | some q => if pairLt q p then some q else some p

/-- Coarse selection of a shard is over, or it needs none (R31, R195). -/
def SShard.selected (p : SShard) : Bool :=
  p.forming || !(p.stage == .waitStamp || p.stage == .project || p.stage == .coarse || p.stage == .level2)

/-- The next query to board a shard's coach (R31, R199), once it has the probe set of every shard on the node: pairs in rotation
from the one after the last, those at their seat quota passed over; the oldest waiting query of the pair. -/
def State.nextBoarding (s : State) (shard : Nat) : Option Share :=
  let waiting := s.eng.shares.filter fun h =>
    (match h.part? shard with | some p => p.stage == .seat | none => false) && h.shards.all (·.selected)
  let pairs := (waiting.map fun h => pairOf h.msg).filter fun p => s.pairFits p .seats 1
  let last := ((s.eng.lastPair.find? (·.1 == shard)).map (·.2))
  let after := match last with | some l => pairs.filter fun p => pairLt l p | none => pairs
  match (match leastPair after with | some p => some p | none => leastPair pairs) with
  | none => none
  | some p => waiting.find? fun h => pairOf h.msg == p

/-- T0 bytes held on a tile by overflow buffers, coordinator merges and the runs' even parts (R405). -/
def State.tileT0 (s : State) (tile : Nat) : Nat :=
  s.eng.shares.foldl (fun n h => if s.homeTile h.msg.key.num = tile then n + h.t0 else n) 0 +
    s.reqs.foldl (fun n r => if s.homeTile r.num = tile then n + r.merge.t0 else n) 0 +
    s.runs.foldl (fun n r => n + r.t0 / s.tilesOn.length) 0

/-- Every enabled tile holds its part of `n` bytes spread evenly over them (R360, R405). -/
def State.tilesHold (s : State) (n : Nat) : Bool :=
  s.tilesOn.all fun t => decide (s.tileT0 t + n / s.tilesOn.length ≤ 112 * 2 ^ 20)

/-- The first attached storage pool. -/
def State.storagePool (s : State) : Option Pool := s.pools.find? fun p => p.kind == 0 && p.st == .attached

/-- Reserve what a query needs beside its seats when it first boards (R235, R237): the refusal's detail, or the state. -/
def State.reserveSelection (s : State) (h : Share) : Nat ⊕ State :=
  let p := pairOf h.msg
  let k := h.msg.key
  if h.t0 + h.t1 + h.t3 ≠ 0 then .inr s
  else
    match rangeOf h.msg.params with
    | .full => .inr s
    | .overflow =>
      let n := 48 * capOf h.msg.params
      if s.pairFits p .t0 n && decide (s.tileT0 (s.homeTile k.num) + n ≤ 112 * 2 ^ 20) then
        .inr ((s.pairCharge p .t0 n).modShare k fun h => { h with t0 := n })
      else .inl 0
    | .core =>
      let n := 32 * depthOf h.msg.params
      if s.pairFits p .t1 n then .inr ((s.pairCharge p .t1 n).modShare k fun h => { h with t1 := n })
      else
        match s.storagePool with
        | none => .inl 1
        | some q =>
          if s.pairFits p .t3 n && decide (q.used + n ≤ q.capTib * 2 ^ 40) then
            .inr (((s.pairCharge p .t3 n).modPool q.id fun q => { q with used := q.used + n }).modShare k fun h =>
              { h with t3 := n, pool := some q.id })
          else .inl 3

/-- The share completes with ST_QUOTA for its reservation (R235, R237, R415). -/
def State.failReserve (s : State) (h : Share) (detail : Nat) : State :=
  (s.pairRefuse (pairOf h.msg) detail).failShare h.msg.key stQuota detail

/-- A probe of a list, counted at boarding (R409, R427): the eighth within 10 s admits a flash list to the hot-list cache. -/
def State.probeList (s : State) (list epoch : Nat) (cached : Bool) : State :=
  s.modList list fun l =>
    let recent := l.probes.filter (fun x => decide (s.now ≤ x + 60 * Config.ticksPerS)) ++ [s.now]
    let ten := (recent.filter fun x => decide (s.now ≤ x + 10 * Config.ticksPerS)).length
    { l with probes := recent, probedAt := some s.now, admitHot := if !cached && 8 ≤ ten && l.admitHot.isNone then some epoch else l.admitHot }

/-- COACH_BOARD (R194 to R202, R235, R237): the next query of the rotation takes a seat; its flash lists enter the itinerary, its
cached lists and every probed list's guestbook go to the near-bank units. A seat that a cancellation vacated is not taken again, and
the coach departs with its highest seat number (log 94). -/
def execCoachBoard (shard t : Nat) (s : State) : Result :=
  let s := s.at t
  match s.nextBoarding shard, (s.shard? shard).bind fun d => s.coll? d.coll with
  | some h, some c =>
    match s.reserveSelection h, h.part? shard with
    | .inl d, _ => .next (s.failReserve h d)
    | .inr s, some p =>
      let k := h.msg.key
      let vers := p.probe.filterMap fun i => (s.list? i).bind fun l => (l.versionAt p.stamp).map fun v => (i, v)
      let near := vers.filter (·.2.cached)
      let flash := vers.filter fun x => !x.2.cached && !x.2.pages.isEmpty
      let none_ := p.probe.filter fun i => !near.any (·.1 == i) && !flash.any (·.1 == i)
      let visits : List ItinEntry := flash.map fun x => ⟨x.2.channel, x.1, x.2.epoch, []⟩
      let openOf := fun (s : State) => s.eng.coaches.find? fun k => k.shard == shard && !k.departed
      let extra := fun (k : Coach) => (visits.filter fun x =>
        !k.itin.any fun e => e.csu == x.csu && e.list == x.list && e.epoch == x.epoch).length
      let s := match openOf s with
        | some k => if k.deadline ≤ s.now || 16384 < k.itin.length + extra k then s.departCoach k.id else s
        | none => s
      let s := match openOf s with
        | some _ => s
        | none => s.modEng fun e =>
          { e with nextCoach := e.nextCoach + 1,
                   coaches := e.coaches ++ [⟨e.nextCoach, shard, [], s.now + c.spec.dwellUs * Config.ticksPerUs, [], false, []⟩] }
      match openOf s with
      | none => .next s
      | some coach =>
        let seat := coach.seats.foldl (fun n x => max n (x.1 + 1)) 0
        let limit := h.msg.params.dwellLimit
        let s := s.modEng fun e =>
          { e with
            lastPair := (e.lastPair.filter (·.1 != shard)) ++ [(shard, pairOf h.msg)],
            coaches := modWhere e.coaches (·.id == coach.id) fun x =>
              { x with seats := x.seats ++ [(seat, k, h.msg.function)],
                       deadline := if limit = 0xFFFF then x.deadline else min x.deadline (s.now + limit * Config.ticksPerUs),
                       itin := visits.foldl (fun l v => addVisit v seat l) x.itin } }
        let s := s.pairCharge (pairOf h.msg) .seats 1
        let s := vers.foldl (fun s x => s.probeList x.1 x.2.epoch x.2.cached) s
        let s := s.modTier fun e => { e with hotHits := e.hotHits + near.length }
        let parts := near.map (fun x => (x.1, false)) ++ p.probe.map fun i => (i, true)
        let s := s.modPart k shard fun p =>
          { p with stage := .boarded, since := s.now, seat := seat, flash := flash.map fun x => (x.1, x.2.epoch),
                   flashLeft := flash.map (·.1), cached := near.map (·.1), nearLeft := parts, covered := none_ }
        let s := parts.foldl (fun s x =>
          s.arbRequest (0x40 + s.stackOf x.1) (s.homeTile k.num) false false (.nearBank k shard x.1 x.2)) s
        let s := match openOf s with
          | some x => if seat = 255 || x.deadline ≤ s.now then s.departCoach x.id else s
          | none => s
        .next (s.settle k shard)
    | _, _ => .next s
  | _, _ => .next s

/-- SEAT_WAIT_TIMEOUT (R199, R200, R443): a query that has waited 10 ms for a seat fails its share with ST_QUOTA, detail 5. -/
def execSeatWaitTimeout (k : Key) (shard t : Nat) (s : State) : Result :=
  let s := s.at t
  match (s.share? k).bind (fun h => (h.part? shard).map fun p => (h, p)) with
  | some (h, p) =>
    if p.stage == .seat && !s.pairFits (pairOf h.msg) .seats 1 && decide (p.since + 10 * Config.ticksPerMs ≤ s.now) then
      .next (s.failReserve h 5)
    else .next s
  | none => .next s

/-- COACH_DEPART (R197): the deadline of the shard's open coach is reached. -/
def execCoachDepart (shard t : Nat) (s : State) : Result :=
  let s := s.at t
  match s.eng.coaches.find? fun k => k.shard == shard && !k.departed with
  | some c => .next (if c.deadline ≤ s.now then s.departCoach c.id else s)
  | none => .next s

/-- CSU_COACH_START (R181, R183, R189, R203): the next departed coach takes one array, or both for two row tiles, its columns and
operating point are written, and its entries on this channel are read. A CSU that lost an array for good runs one coach at a time
(R569). -/
def execCsuCoachStart (csu t : Nat) (s : State) : Result :=
  let s := s.at t
  let u := s.csu csu
  match u.queue with
  | [] => .next s
  | id :: rest =>
    match s.eng.coaches.find? (·.id == id) with
    | none => .next (s.modCsu csu fun u => { u with queue := rest })
    | some c =>
      let p := (((s.shard? c.shard).bind fun d => s.coll? d.coll).map (·.spec.projection)).getD 256
      let tiles : Nat := if p ≤ 256 then 1 else 2
      let arrays := (s.inUse (128 + 3 * csu)).filter fun a => !u.runs.any (·.arrays.contains a)
      let lost := s.spares.offline.any fun e => e.kind == 0 && e.domain == csu && decide (32 ≤ e.element) && decide (e.element < 35)
      let busy := if lost then !u.runs.isEmpty || arrays.isEmpty else decide (arrays.length < tiles)
      if s.unitState (.csu csu) != .ready || busy then .next s
      else
        let left := c.itin.filter fun e => e.csu == csu && !e.mask.isEmpty
        let arrays := arrays.take tiles
        let s := s.modCsu csu fun u =>
          { u with queue := rest, runs := if left.isEmpty then u.runs else u.runs ++ [⟨id, left, 0, arrays⟩] }
        let s := if left.isEmpty then s else s.setPoints arrays false
        .next ((s.csuRequest csu).freeDone id)

/-! ### Page reads (R190, R202 to R209, R219, R425) -/

/-- R208: the bound lifts the record over no passenger's threshold. `s1` is the tile-1 score; E covers both tiles with their FP32
steps (R211). -/
def pruned (c : CollSpec) (q : List QGroup) (tail sr : List QGroup) (tailSq norm qn s1 : Int) (saturated : Bool)
    (threshold : Option Int) : Bool :=
  match threshold with
  | none => false
  | some t =>
    if saturated then false
    else
      let root : Int := isqrt (tailSq * norm).toNat + 1
      let reach := if c.metric = 2 then 2 * root else root
      let e := scoreBound c.metric (some fourBit) (q ++ tail) sr norm qn
      decide (s1 + reach + e < t)

/-- The masked passengers of a page with their seats' shares, but for those taken off the coach (R54). -/
def State.passengers (s : State) (coach : Coach) (mask : List Nat) : List Share :=
  mask.filterMap fun seat =>
    (coach.seats.find? fun x => x.1 == seat && !coach.leaving.contains x.2.1).bind fun x => s.share? x.2.1

/-- Tile-1 scores of a record for every passenger, and whether tile 2 is evaluated at all (R208, R209). -/
def State.tileOne (s : State) (c : Coll) (d : Shard) (csu : Nat) (sr : ScanRec) : List Share → Bool × State
  | [] => (false, s)
  | h :: rest =>
    let v := projectFor c.spec d.matrix (queryFor c.spec h.msg.params.query)
    let q := sq4 v
    let (s1, s) := s.scoreOf c.spec (some fourBit) (q.take 4) (sr.groups.take 4) sr.norm (sqNorm v) 0
    let (threshold, s) := s.admission h d.id csu
    let skip := pruned c.spec (q.take 4) (q.drop 4) sr.groups (sqNorm (v.drop 256)) sr.norm (sqNorm v) s1 sr.normSaturated threshold
    let (more, s) := s.tileOne c d csu sr rest
    (!skip || more, s)

/-- One record's scores for every passenger of the mask (R202, R204, R219). -/
def State.offerRecord (s : State) (c : Coll) (d : Shard) (csu : Nat) (birth : Nat) (sr : ScanRec) : List Share → State
  | [] => s
  | h :: rest =>
    match (s.share? h.msg.key).bind (·.part? d.id) with
    | none => s.offerRecord c d csu birth sr rest
    | some p =>
      let v := projectFor c.spec d.matrix (queryFor c.spec h.msg.params.query)
      let (x, s) := s.scoreOf c.spec (some fourBit) (sq4 v) sr.groups sr.norm (sqNorm v) 0
      let ok := d.passes sr.id birth p.stamp && SearchParams.admits h.msg.params sr.id
      (s.offer h.msg.key d.id csu sr.id x ok).offerRecord c d csu birth sr rest

/-- The records of a page, in order (R205). -/
def State.offerPage (s : State) (c : Coll) (d : Shard) (csu birth : Nat) (hs : List Share) : List ScanRec → State
  | [] => s
  | sr :: rest =>
    let (eval, s) := if c.spec.projection ≤ 256 then (true, s) else
      s.tileOne c d csu sr (hs.filterMap fun h => s.share? h.msg.key)
    if eval then (s.offerRecord c d csu birth sr hs).offerPage c d csu birth hs rest
    else (s.modEng fun e => { e with pruned := e.pruned + 1 }).offerPage c d csu birth hs rest

/-- A regeneration takes its cut and holds it as a reader (R576 step 1). -/
def State.cutRegen (s : State) (shard : Nat) : State :=
  s.modShard shard fun d =>
    if d.regen.isSome then d else { d with regen := some d.counter, readers := d.readers ++ [(.regen, d.counter)] }

/-- A move of a shard takes its cut and holds it as a reader (R323 step 1). -/
def State.cutMove (s : State) (shard : Nat) : State :=
  s.modShard shard fun d =>
    match d.move with
    | some m => if m.step = 0 then { d with move := some { m with cut := d.counter, step := 1 }, readers := d.readers ++ [(.move, d.counter)] }
      else d
    | none => d

/-- A regeneration of a shard is planned: it passes the ledger arbiter for its cut (R576 step 1). -/
def State.planRegen (s : State) (shard : Nat) : State :=
  if (s.shard? shard).any (·.regen.isSome) then s
  else if (s.shard? shard).any (·.waiting.isEmpty) then (s.leaveLedger (.pass .regen) shard).cutRegen shard
  else s.joinLedger (.pass .regen) shard

/-- A page of a list is lost: the list is degraded (R575, R576, R584, R604). -/
def State.losePage (s : State) (list epoch page : Nat) : State :=
  let shard := ((s.list? list).map (·.shard)).getD 0
  let n := s.degradedCount
  let fresh := match s.list? list with | some l => !l.degraded | none => false
  let s := if fresh then s.log 8 7 (toLE 4 (elementWord 0 (((s.list? list).map (·.channel)).getD 0) 0) ++ toLE 8 1) else s
  let s := s.modList list fun l =>
    { l with degraded := true, versions := modWhere l.versions (·.epoch == epoch) fun v =>
      { v with lostPages := if v.lostPages.contains page then v.lostPages else v.lostPages ++ [page] } }
  (s.planRegen shard).degradedEvent n

/-- What a flash read's course adds to the channel's counts (R424, R425); in which block the page lies is free (R422). -/
def State.readCourse (s : State) (channel : Nat) (res : PageRead) : State :=
  let (i, s) := s.takeFree
  let (j, s) := s.takeFree
  let b := Config.freeNat i % 126976
  let soft := match res with | .clean => false | _ => true
  s.modChannel channel fun x =>
    let x := if x.blocks.any (·.block == b) then x
      else { x with blocks := x.blocks ++ [⟨b, 0, 0, 1 + Config.freeNat j % 2048, 0, false, []⟩] }
    { x with rebuilds := x.rebuilds + b2n (res == .rebuilt),
             blocks := modWhere x.blocks (·.block == b) fun y =>
               { y with reads := y.reads + 1,
                        softAt := if soft then y.softAt.filter (fun a => decide (s.now ≤ a + 3600 * Config.ticksPerS)) ++ [s.now]
                          else y.softAt } }

/-- The last page of an entry has been read and scored: its passengers have read the list (R206, R252); an admitted version is
cached when T1 has room (R407, R409). -/
def State.entryDone (s : State) (coach : Coach) (e : ItinEntry) (pages : Nat) : State :=
  let s := (s.passengers coach e.mask).foldl (fun s h =>
    (s.modPart h.msg.key coach.shard fun p =>
      { p with flashLeft := p.flashLeft.filter (· != e.list), covered := p.covered ++ [e.list] }).settle h.msg.key coach.shard) s
  match s.list? e.list with
  | some l =>
    if l.admitHot = some e.epoch then
      if 16384 * pages ≤ s.hotRoom then
        s.modList e.list fun l =>
          { l with admitHot := none, versions := modWhere l.versions (·.epoch == e.epoch) fun v => { v with cached := true } }
      else s.modTier fun x => { x with t1Wanted := x.t1Wanted + 16384 * pages }
    else s
  | none => s

/-- Coaches leave their arrays: these are idle from now (R217). -/
def State.leaveArrays (s : State) (runs : List CsuRun) : State :=
  if runs.isEmpty then s else s.modArrs (runs.flatMap (·.arrays)) fun r => { r with idleAt := s.now }

/-- CSU_PAGE_READ (R190, R202 to R209, R220, R425): a granted page read ends, and its records are scored against every masked seat.
A page lost without redundancy leaves its list degraded. Two running coaches alternate page by page. Above 108 °C the arrays score
nothing, and the page is read again (R526). -/
def execCsuPageRead (csu : Nat) (res : PageRead) (t : Nat) (s : State) : Result :=
  let s := s.at t
  let w : Work := .page csu
  if !s.arbHolds csu w then .next s
  else
    let s := s.arbEnd csu w
    if (s.csu csu).paused then .next s
    else
    let runs : List CsuRun := (s.csu csu).runs.map fun r =>
      { r with left := r.left.dropWhile (·.mask.isEmpty),
               page := if (r.left.head?.map (·.mask.isEmpty)).getD false then 0 else r.page }
    match runs.find? (!·.left.isEmpty) with
    | none =>
      let s := (s.modCsu csu fun u => { u with runs := [] }).leaveArrays runs
      .next (runs.foldl (fun s r => s.freeDone r.coach) s)
    | some r =>
      match r.left, s.eng.coaches.find? (·.id == r.coach) with
      | e :: later, some coach =>
        match s.shard? coach.shard, (s.shard? coach.shard).bind (fun d => s.coll? d.coll) with
        | some d, some c =>
          let v := (s.list? e.list).bind fun l => l.versions.find? (·.epoch == e.epoch)
          let pages := (v.map (·.pages)).getD []
          let lost := res == .lost || ((v.map (·.lostPages)).getD []).contains r.page
          let s := s.readCourse csu res
          let s := if lost && !pages.isEmpty then s.losePage e.list e.epoch r.page
            else s.offerPage c d csu ((v.map (·.cut)).getD 0) (s.passengers coach e.mask) (pages.getD r.page [])
          let last := decide (pages.length ≤ r.page + 1)
          let next : CsuRun := if last then { r with left := later, page := 0 } else { r with page := r.page + 1 }
          let others := runs.filter fun x => x.coach != r.coach && !x.left.isEmpty
          let ended := runs.filter (·.left.isEmpty)
          let s := (s.modCsu csu fun u => { u with runs := others ++ (if next.left.isEmpty then [] else [next]) }).leaveArrays
            (if next.left.isEmpty then ended ++ [r] else ended)
          let s := if last then (s.entryDone coach e pages.length).listBoundary coach.id else s
          let s := (ended ++ [r]).foldl (fun s x => s.freeDone x.coach) s
          .next (s.csuRequest csu)
        | _, _ => .next (s.modCsu csu fun u => { u with runs := u.runs.filter (·.coach != r.coach) })
      | _, _ => .next (s.modCsu csu fun u => { u with runs := u.runs.filter (·.coach != r.coach) })

end Sys2Proof.Machine
end

