-- ==== Sys2Proof/Machine/Members.lean ====
section
/-! DEFINITION. Members of mutation commands on their owner node (R261 to R288, R301 to R306, R315 to R320): forming rows and
scan records, slots, charges, guestbook chunks, the journal entry, the ledger's locked sequence, outcomes. -/

namespace Sys2Proof.Machine

open Sys2Proof

/-! ### Records (R162, R167, R266) -/

def noList : Nat := 0xFFFFFFFF

/-- The squared norm of a row: FP32 of the exact sum, in units of 2^-298 (R167). -/
def rowNorm (v : List Int) : Int :=
  match roundFp32 (sqNorm v) 298 with
  | some n => n * 2 ^ 149
  | none => Config.normOverflow (sqNorm v)

/-- A refinement record of an identifier (R160, R167, R316). -/
def formRow (c : CollSpec) (id : Nat) (v : List Int) (lex : List (Nat × Int)) (list second : Nat) : Row :=
  ⟨id, sq8Rows c v, rowNorm v, list, second, lex⟩

/-- A squared norm above FP16's 65,504 (R162). -/
def saturates (v : List Int) : Bool := decide (65504 * 2 ^ 298 < sqNorm v)

/-- The squared_norm of a scan record (R162): FP16, saturated at 65,504, in units of 2^-298. -/
def scanNorm (v : List Int) : Int := if saturates v then 65504 * 2 ^ 298 else roundFp16 (sqNorm v).toNat

/-- A scan record for a guestbook (R162, R266); `rows` is the shard's projection. -/
def formScan (c : CollSpec) (rows : List (List Int)) (id : Nat) (v : List Int) (lexical second : Bool) : ScanRec :=
  let p := projectFor c rows v
  ⟨id, sq4 p, scanNorm p, second, lexical, saturates p, true, 0⟩

/-- Chunks that entries take, 16 entries and 32 escapes at most in each (R273). -/
def gbChunks : Nat → Nat → List GbEntry → Nat
  | _, _, [] => 0
  | n, e, x :: rest =>
    let esc := escapesOf x.scan.groups
    if n = 0 || 16 ≤ n || 32 < e + esc then 1 + gbChunks 1 esc rest else gbChunks (n + 1) (e + esc) rest

/-- The opcode that brings members of a kind (Table: data-path commands). -/
def memberOpcode : MemberKind → Nat
  | .insert => 2 | .delete => 3 | .upsert => 4 | .replace => 6 | .accumulate => 6

/-- The tag is one of a member of a request on a shard: a mutation's, or the outputs of a model run. -/
def tagIsMember (k : Key) (shard : Nat) (g : Tag) : Bool :=
  g.originNode == k.origin && g.requestNumber == k.num && [2, 3, 4, 6, 8].contains g.kind && g.shard == shard

/-- The member's vector starts 16 bytes into its entry. -/
def entryVector (c : CollSpec) (m : MemberMsg) : Option (List Int) := readVector m.format c.dimensions m.entry 16

/-- The member's lexical part (R168). -/
def entryLex (c : CollSpec) (m : MemberMsg) : Option (List (Nat × Int)) :=
  readTerms m.entry (16 + vectorBytes m.format c.dimensions) (le m.entry 8 2)

/-! ### Outcomes (R264) -/

/-- Send a member's outcome to its origin; its tag carries the stamp (R49). -/
def State.sendOutcome (s : State) (m : MemberMsg) (stamp status detail : Nat) : State :=
  let o : OutcomeMsg := ⟨m.key, m.index, ⟨stamp, status, detail, m.shard⟩⟩
  if m.key.origin = s.nodeId then s.modEng fun e => { e with inOutcomes := e.inOutcomes ++ [o] }
  else
    s.sendWork { workTag m.key m.function m.qosClass 0x0D m.key.origin m.shard (m.hop + 1) with ledgerStamp := stamp }
      (.outcome o)

def isMember (k : Key) (i : Nat) (w : MWork) : Bool := w.msg.key == k && w.msg.index == i

/-- Journal entries of a member. -/
def JEntry.ofMember (e : JEntry) (k : Key) (i : Nat) : Bool := e.kind == .member k i

/-- Members of one command on one shard reach the ledger arbiter in member order (R265): a ready member waits there once no
earlier member of the command on the shard is still on its way. -/
def State.queueReady (s : State) (k : Key) (shard : Nat) : List MWork → State
  | [] => s
  | w :: rest =>
    let earlier := s.eng.members.any fun x =>
      x.msg.key == k && x.msg.shard == shard && decide (x.msg.index < w.msg.index) &&
        (x.stage != .atLedger && x.stage != .stamped && x.stage != .finished)
    if w.stage == .ready && w.msg.key == k && w.msg.shard == shard && !earlier then
      let s := s.modMember k w.msg.index fun x => { x with stage := .atLedger }
      (s.modShard shard fun d => { d with waiting := d.waiting ++ [(s.now, .member k w.msg.index)] }).queueReady k shard rest
    else s.queueReady k shard rest

/-- A member leaves the ledger arbiter unstamped, and the later members of its command there go back behind it (R265). -/
def State.pullBack (s : State) (k : Key) (i shard : Nat) : State :=
  let later := (s.eng.members.filter fun x =>
    x.msg.key == k && x.msg.shard == shard && decide (i < x.msg.index) && x.stage == .atLedger).map (·.msg.index)
  let s := s.modShard shard fun d => { d with waiting := d.waiting.filter fun x => !later.any fun j => x.2 == .member k j }
  later.foldl (fun s j => s.modMember k j fun x => { x with stage := .ready }) s

/-- Members in ascending index. -/
def insertMember (w : MWork) : List MWork → List MWork
  | [] => [w]
  | x :: rest => if w.msg.index < x.msg.index then w :: x :: rest else x :: insertMember w rest

def State.flushReady (s : State) (k : Key) (shard : Nat) : State :=
  s.queueReady k shard (s.eng.members.foldl (fun l w => insertMember w l) [])

/-! ### Charges (R274, R301, R412) -/

/-- T1 takes `n` more bytes. -/
def State.t1Room (s : State) (n : Nat) : Bool := decide (s.tierUsed .t1 + s.gbT1 + n ≤ s.capacity .t1)

/-- Charge a row and, for a slot just taken, its map entry: the refusal's detail, or the state (R412). -/
def State.chargeRow (s : State) (c : Coll) (d : Shard) (k : Key) (i bytes : Nat) (newSlot : Bool) : Nat ⊕ State :=
  let f := s.chargedFn c
  let n := d.slots.length
  let map := if newSlot then mapBytes n - mapBytes (n - 1) else 0
  let forming := d.stage == .forming
  let t1 := map + (if forming then bytes else 0)
  let t2 := if forming then 0 else bytes
  if 0 < t1 && !((s.fn f).admits .t1 t1 && s.t1Room t1) then .inl 1
  else if 0 < t2 && !s.fits f .t2 t2 then .inl 2
  else
    let s := if t1 = 0 then s else s.modFn f (·.charge .t1 t1)
    let s := if t2 = 0 then s else s.modFn f (·.charge .t2 t2)
    .inr (s.modMember k i fun w => { w with t1 := w.t1 + t1, t2 := w.t2 + t2 })

/-! ### The end of a member -/

/-- The next member that waits for the identifier of a member that ended goes on (R302). -/
def State.nextHeld (s : State) (shard name : Nat) (byRef : Bool) : Option MWork :=
  s.eng.members.find? fun w =>
    w.stage == .waitIdentifier && w.msg.shard == shard && w.msg.name == name && w.msg.byRef == byRef

/-- The scan records a member put into guestbooks and that carry no stamp. -/
def GbEntry.pendingOf (e : GbEntry) (id : Nat) : Bool := e.stamp == 0 && e.scan.id == id

/-- The entries of an identifier that carry no stamp leave a guestbook. -/
def dropPending (id : Nat) (l : LList) : LList := { l with gb := l.gb.filter fun e => !e.pendingOf id }

/-- They take their stamp. -/
def stampPending (id stamp : Nat) (l : LList) : LList :=
  { l with gb := modWhere l.gb (·.pendingOf id) fun e => { e with stamp := stamp } }

/-- A member ends without a stamp (R140, R278, R287): its slot, guestbook entries, charges and journal entry go; its outcome
leaves. -/
def State.dropMember (s : State) (k : Key) (i : Nat) : State :=
  match s.member? k i with
  | none => s
  | some w =>
    let sh := w.msg.shard
    let id := ((w.row.map (·.id)).getD w.msg.name)
    let f := (((s.shard? sh).bind fun d => s.coll? d.coll).map fun c => s.chargedFn c).getD 0
    let fresh := match w.slot, s.shard? sh with
      | some n, some d => match d.slot? n with | some x => !x.born | none => false
      | _, _ => false
    let s := (s.release f .t1 w.t1).release f .t2 w.t2
    let s := s.modShard sh fun d =>
      { d with slots := if fresh then d.slots.filter fun x => some x.num != w.slot else d.slots,
               holds := d.holds.filter (· != id), waiting := d.waiting.filter (·.2 != .member k i) }
    let s : State := { s with lists := modWhere s.lists (fun l => w.lists.contains l.id) (dropPending id) }
    let s := s.modTier fun e =>
      { e with freeSlots := if fresh then e.freeSlots ++ w.slot.toList else e.freeSlots,
               journal := modWhere e.journal (fun j => j.ofMember k i) fun j => { j with void := true } }
    s.modEng fun e =>
      { e with members := e.members.filter fun x => !isMember k i x,
               batches := (e.batches.map fun b => ({ b with inserts := b.inserts.filter (· != (k, i)) } : L2Batch)).filter
                 fun b => !b.queries.isEmpty || !b.inserts.isEmpty }

/-! ### Resolution (R302, R316, R320) -/

/-- Take a slot number: the oldest freed, else one never used; of the 2^35 of the node (R176, R258). -/
def State.takeSlot (s : State) : Option (Nat × State) :=
  match s.tier.freeSlots with
  | n :: rest => some (n, s.modTier fun e => { e with freeSlots := rest })
  | [] => if s.tier.nextSlot < 2 ^ 35 then some (s.tier.nextSlot, s.modTier fun e => { e with nextSlot := e.nextSlot + 1 }) else none

def emptyRow : Row := ⟨0, [], 0, noList, noList, []⟩

/-- The slot a name refers to on its shard (R299, R300). -/
def Shard.named (d : Shard) (byRef : Bool) (name : Nat) : Option Slot :=
  if byRef then d.slot? (name % 2 ^ 35) else d.slotOf name

/-- The identifier a member holds (R302). -/
def Shard.idOf (d : Shard) (byRef : Bool) (name : Nat) : Nat :=
  if byRef then ((d.slot? (name % 2 ^ 35)).map (·.id)).getD (2 ^ 64 + name) else name

/-- Scan record and list assignment are asked for (R33 step 2), or the shard is FORMING and they do not apply (R272). -/
def State.askAssignment (s : State) (k : Key) (i : Nat) : State :=
  match s.member? k i with
  | none => s
  | some w =>
    match s.shard? w.msg.shard, (s.shard? w.msg.shard).bind fun d => s.coll? d.coll with
    | some d, some c =>
      if (w.msg.kind == .insert || w.msg.kind == .upsert) && d.stage == .formed then
        let v := queryFor c.spec ((entryVector c.spec w.msg).getD [])
        let sc := formScan c.spec d.matrix w.msg.name v (((w.row.map (·.lex)).getD []) != []) false
        (s.modMember k i fun w => { w with stage := .resolved, scan := some sc, since := s.now }).arbRequest 0x80
          (s.homeTile k.num) false false (.assign k i)
      else s.modMember k i fun w => { w with stage := .assigned, since := s.now }
    | _, _ => s

/-- The maximum-of-absolute-value statistics that quantising a row adds to its collection's, per group index, over each 10 s
(R266). -/
def State.notePeaks (s : State) (c : Coll) (r : Row) : State :=
  let mine := r.groups.map fun g => listMax (g.values.map fun v => (v.natAbs : Int))
  let whole := 10 * Config.ticksPerS
  s.modColl c.spec.id fun c =>
    if c.peaksFrom + whole ≤ s.now then { c with peaks := mine, peaksFrom := s.now / whole * whole }
    else { c with peaks := mine.mapIdx fun i v => max v (c.peaks.getD i 0) }

/-- The member resolves its slot and holds its identifier; a second mutation of the identifier waits (R302). -/
def State.resolveMember (s : State) (k : Key) (i : Nat) : State :=
  match s.member? k i with
  | none => s
  | some w =>
    match s.shard? w.msg.shard, (s.shard? w.msg.shard).bind fun d => s.coll? d.coll with
    | some d, some c =>
      let id := d.idOf w.msg.byRef w.msg.name
      if d.holds.contains id then s.modMember k i fun w => { w with stage := .waitIdentifier, since := s.now }
      else
        let s := s.modShard d.id fun d => { d with holds := d.holds ++ [id] }
        let v := (entryVector c.spec w.msg).getD []
        let lex := (entryLex c.spec w.msg).getD []
        let found := d.named w.msg.byRef w.msg.name
        let writes := w.msg.kind == .insert || w.msg.kind == .upsert
        let row := match w.msg.kind with
          | .insert | .upsert => some (formRow c.spec id (queryFor c.spec v) lex noList noList)
          | .replace => some (formRow c.spec id (queryFor c.spec v) lex ((found.map (·.row.list)).getD noList)
              ((found.map (·.row.second)).getD noList))
          | _ => none
        let delta := if w.msg.kind == .accumulate then some (v, lex) else none
        let s := match row with | some r => s.notePeaks c r | none => s
        let (slot, s) : Option Nat × State := match found with
          | some x => (some x.num, s)
          | none =>
            match (if writes then s.takeSlot else none) with
            | some (n, s) =>
              let x : Slot :=
                { num := n, id := id, row := emptyRow, home := if d.stage == .forming then .formation else .t2, bit := false,
                  deletedAt := 0, born := false, lost := false, migration := none, payer := none,
                  packed := false }
              (some n, s.modShard d.id fun d => { d with slots := d.slots ++ [x] })
            | none => (none, s)
        let s := s.modMember k i fun w => { w with slot := slot, row := row, delta := delta }
        s.askAssignment k i
    | _, _ => s

/-- A member is over: its outcome is sent, what waited behind it goes on (R264, R265, R302). -/
def State.endMember (s : State) (k : Key) (i status detail : Nat) : State :=
  match s.member? k i with
  | none => s
  | some w =>
    let s := (s.dropMember k i).sendOutcome w.msg 0 status detail
    let s := s.flushReady k w.msg.shard
    match s.nextHeld w.msg.shard w.msg.name w.msg.byRef with
    | some x => (s.modMember x.msg.key x.msg.index fun x => { x with stage := .resolved }).resolveMember x.msg.key x.msg.index
    | none => s

/-! ### Guestbooks (R273 to R278) and the tables (R279, R306) -/

/-- Entries of the recent-deletions table and of the row history table on the node. -/
def State.tombCount (s : State) : Nat := s.shards.foldl (fun n d => n + d.tombs.length) 0
def State.histCount (s : State) : Nat := s.shards.foldl (fun n d => n + d.hist.length) 0

/-- Both tables take one more entry (R277, R306). -/
def State.tablesFree (s : State) (tomb hist : Bool) : Bool :=
  (!tomb || decide (s.tombCount < 16777216)) && (!hist || decide (s.histCount < 16777216))

/-- The entry needs a chunk that the list's guestbook does not have. -/
def LList.needsChunk (l : LList) (e : GbEntry) : Bool := decide (l.chunks < gbChunks 0 0 (l.gb ++ [e]))

/-- What keeps a member's entries out of their guestbooks (R277, R278): nothing, the quota, or full guestbooks, those of these
lists. -/
inductive GbStop where
  | none
  | quota
  | full (lists : List Nat)
  deriving DecidableEq, Repr

/-- All the entries of a member are taken together: the chunks they need are held against the quota and against T1 at once. -/
def State.gbStop (s : State) (c : Coll) (items : List (LList × GbEntry)) : GbStop :=
  let full := (items.filter fun x => decide (c.spec.guestbookEntries ≤ x.1.gb.length)).map (·.1.id)
  let more := (items.filter fun x => x.1.needsChunk x.2).map (·.1.id)
  if !more.isEmpty && !(s.fn (s.chargedFn c)).admits .guestbook (16 * more.length) then .quota
  else if !full.isEmpty then .full full
  else if !more.isEmpty && !s.t1Room (more.length * chunkBytes c.spec.projection) then .full more
  else .none

/-- The entries a member puts into the guestbooks of its lists, by list (R267, R273). -/
def MWork.entries (w : MWork) (now : Nat) : List (Nat × GbEntry) :=
  match w.scan with
  | none => []
  | some r => w.lists.zipIdx.map fun j => (j.1, ⟨{ r with secondCopy := j.2 != 0 }, 0, now⟩)

/-- What keeps a member's entries out now. -/
def State.gbStopOf (s : State) (c : Coll) (w : MWork) : GbStop :=
  s.gbStop c ((w.entries s.now).filterMap fun x => (s.list? x.1).map fun l => (l, x.2))

/-- Append an entry, taking and charging a chunk when one is needed (R275 steps 1 and 2). -/
def State.gbAppend (s : State) (c : Coll) (list : Nat) (e : GbEntry) : State :=
  match s.list? list with
  | none => s
  | some l =>
    let n := gbChunks 0 0 (l.gb ++ [e])
    let more := n - l.chunks
    let s := if more = 0 then s else s.modFn (s.chargedFn c) (·.charge .guestbook (16 * more))
    s.modList list fun l => { l with gb := l.gb ++ [e], chunks := max l.chunks n }

/-- Step 4 of Table: insert steps: append the scan records, or wait or end under R277 and R278. -/
def State.appendMember (s : State) (k : Key) (i : Nat) : State :=
  match s.member? k i with
  | none => s
  | some w =>
    match (s.shard? w.msg.shard).bind fun d => s.coll? d.coll with
    | none => s.endMember k i stRetry 0
    | some c =>
      match s.gbStopOf c w with
      | .quota => (s.quotaRefuse (s.chargedFn c) 4).endMember k i stQuota 4
      | .full lists =>
        let s := lists.foldl (fun s j => s.modList j fun l => { l with urgent := true }) s
        if c.spec.guestbookFull = 1 then s.endMember k i stRetry 2
        else s.modMember k i fun w =>
          { w with stage := .waitGuestbook, since := if w.stage == .waitGuestbook then w.since else s.now }
      | .none =>
        let s := (w.entries s.now).foldl (fun s x => s.gbAppend c x.1 x.2) s
        (s.modMember k i fun w => { w with stage := .ready, since := s.now }).flushReady k w.msg.shard

/-! ### Applying accumulates (R305, R317) -/

/-- R317: the union of two lexical parts, the 256 largest weights, lower term first on equal ones; ascending
terms (log 128). -/
def addLex (a b : List (Nat × Int)) : List (Nat × Int) :=
  let both := a.map fun x => (x.1, match b.find? (·.1 == x.1) with | some y => roundBf16 (x.2 + y.2) | none => x.2)
  let all := both ++ b.filter fun y => !a.any (·.1 == y.1)
  let top := ((ranked (all.map fun x => ((x.2.natAbs : Int), x.1))).take 256).map (·.2)
  let kept := all.filter fun x => top.contains x.1
  let ins := fun (l : List (Nat × Int)) (x : Nat × Int) => (l.takeWhile fun y => decide (y.1 < x.1)) ++ [x] ++
    l.dropWhile fun y => decide (y.1 < x.1)
  kept.foldl ins []

/-- R317: the new row, none when the result is not finite or has a zero norm under metric 1. -/
def accumulated (c : CollSpec) (r : Row) (delta : List Int × List (Nat × Int)) : Option Row :=
  match (List.zipWith (fun a b => roundFp32 (a + b) 149) (qValues r.groups) delta.1).mapM id with
  | none => none
  | some v =>
    if c.metric = 1 && sqNorm v == 0 then none
    else
      let v := if c.metric = 1 then normalise v else v
      some { r with groups := sq8Rows c v, norm := rowNorm v, lex := addLex r.lex delta.2 }

/-- The first accumulate of a slot that waits to be applied. -/
def Shard.pendingAcc (d : Shard) (slot : Nat) : Option Hist :=
  (d.hist.filter fun e => e.slot == slot && !e.applied).foldl
    (fun b e => match b with
      | none => some e
      | some x => if e.stamp < x.stamp then some e else some x) none

/-- Apply the first pending accumulate of a slot (R305, R317, R500): the row changes, the row cache follows, and the member's
outcome is sent. -/
def State.applyAcc (s : State) (shard slot : Nat) : State :=
  match s.shard? shard, (s.shard? shard).bind (fun d => s.coll? d.coll) with
  | some d, some c =>
    match d.pendingAcc slot, d.slot? slot with
    | some e, some x =>
      let new := if x.lost then none else (e.delta.bind fun dl => accumulated c.spec x.row dl)
      let s := match new with
        | some r => (s.releaseHome c d x.home (rowBytes c.spec x.row) none).chargeHome c d x.home (rowBytes c.spec r)
        | none => s
      let s := s.modShard shard fun d =>
        { d with slots := modWhere d.slots (·.num == slot) fun x =>
                   match new with | some r => ({ x with row := r } : Slot).written c | none => x,
                 hist := modWhere d.hist (fun h => h.slot == slot && h.stamp == e.stamp) fun h => { h with applied := true } }
      match s.eng.members.find? fun w => w.msg.shard == shard && w.stamp == e.stamp && w.stage == .stamped with
      | some w =>
        let (st, dt) := if x.lost then (stDegraded, 0) else if new.isNone then (stOk, 0x10) else (stOk, 0)
        (s.sendOutcome w.msg e.stamp st dt).modEng fun g =>
          { g with members := g.members.filter fun y => !isMember w.msg.key w.msg.index y }
      | none => s
    | _, _ => s
  | _, _ => s

/-- Apply every pending accumulate of a slot, in stamp order. -/
def State.applyAll (s : State) (shard slot : Nat) : Nat → State
  | 0 => s
  | n + 1 =>
    match (s.shard? shard).bind (·.pendingAcc slot) with
    | none => s
    | some _ => (s.applyAcc shard slot).applyAll shard slot n

/-! ### The locked sequence (R65, R269 to R271, R279, R284, R303, R613) -/

/-- A tombstone for the incarnation a row belongs to, with pending set for each list it names. -/
def tombOf (id stamp kind slot at_ : Nat) (r : Row) : Tomb :=
  ⟨id, stamp, kind, r.list, r.second, r.list != noList, r.second != noList, slot, at_⟩

/-- A row with its lists written (R167). -/
def listedRow (r : Row) (lists : List Nat) : Row := { r with list := lists.getD 0 noList, second := lists.getD 1 noList }

/-- A change to which version of a slot is current: its history entry, and the new row in its place (R303). A changed row is no
longer lost (R501), and goes to T2 when its pool is gone. -/
def Shard.change (d : Shard) (slot stamp kind : Nat) (applied : Bool) (prior : Option (Row × Home))
    (delta : Option (List Int × List (Nat × Int))) (f : Slot → Slot) : Shard :=
  { d with hist := d.hist ++ [⟨slot, stamp, kind, applied, prior, delta⟩], slots := modWhere d.slots (·.num == slot) fun y => { f y with payer := none } }

/-- Write a stamp into a member's guestbook entries (R34, R269). -/
def State.stampGb (s : State) (lists : List Nat) (id stamp : Nat) : State :=
  { s with lists := modWhere s.lists (fun l => lists.contains l.id) (stampPending id stamp) }

/-- What a member does at the arbiter. -/
inductive Verdict where
  | refuse (status detail : Nat)
  | quiet (status detail : Nat)
  | wait
  | apply (detail : Nat)
  deriving DecidableEq, Repr

/-- The liveness test and the table test inside the locked sequence (R264, R270, R271, R277, R284, R306, R319). -/
def State.verdict (s : State) (c : Coll) (d : Shard) (w : MWork) : Verdict :=
  let x := w.slot.bind d.slot?
  let live := match x with | some x => d.live x | none => false
  let bit := match x with | some x => x.bit | none => false
  let full := fun (tomb hist : Bool) (v : Verdict) =>
    if s.tablesFree tomb hist then v else if c.spec.guestbookFull = 1 then .refuse stRetry 2 else .wait
  match w.msg.kind with
  | .insert => if live then .refuse stInvalid 1 else full bit true (.apply 0)
  | .upsert => if live then full true true (.apply 0) else full bit true (.apply 2)
  | .delete => if live then full true false (.apply 0) else .quiet stOk 1
  | .replace | .accumulate => if live then full false true (.apply 0) else .refuse stInvalid 5

/-- The change a stamped member makes to its shard. -/
def Shard.applyMember (d : Shard) (c : Coll) (w : MWork) (x : Slot) (stamp at_ : Nat) : Shard :=
  let live := d.live x
  let new := listedRow (w.row.getD x.row) w.lists
  let home := if d.stage == .forming then Home.formation else if x.home == .formation || x.lost then .t2 else x.home
  let put := fun (y : Slot) =>
    ({ y with row := new, home := home, born := true, bit := false, lost := false,
              migration := y.migration.map fun m => { m with dirty := true } } : Slot).written c
  let prior := some (x.row, x.home)
  let insertNew : Shard :=
    if x.bit then
      let d := { d with tombs := d.tombs ++ [tombOf x.id stamp 2 x.num at_ x.row] }
      d.change x.num stamp 0 true none none put
    else if x.born then d.change x.num stamp 3 true prior none put
    else d.change x.num stamp 0 true none none put
  match w.msg.kind with
  | .insert => insertNew
  | .upsert =>
    if live then
      let d := { d with tombs := d.tombs ++ [tombOf x.id stamp 1 x.num at_ x.row] }
      d.change x.num stamp 1 true prior none put
    else insertNew
  | .delete => { d with tombs := d.tombs ++ [tombOf x.id stamp 0 x.num at_ x.row] }
  | .replace =>
    d.change x.num stamp 1 true prior none fun y =>
      ({ y with row := { (w.row.getD y.row) with list := x.row.list, second := x.row.second },
                lost := false, home := if x.lost && x.home != .formation then .t2 else y.home,
                migration := y.migration.map fun m => { m with dirty := true } } : Slot).written c
  | .accumulate =>
    d.change x.num stamp 1 false prior w.delta fun y => { y with migration := y.migration.map fun m => { m with dirty := true } }

/-- What a change at the arbiter does to the charges (R412): the row of a slot taken again is released, a promoted row goes back
to the collection's function, and a new version of a row in T3 is written there (R322). -/
def State.recharge (s : State) (c : Coll) (d : Shard) (w : MWork) (x : Slot) : State :=
  let f := s.chargedFn c
  let old := rowBytes c.spec x.row
  let new := rowBytes c.spec (w.row.getD x.row)
  if w.msg.kind == .delete then s
  else
    let s := if x.bit then s.releaseHome c d x.home old x.payer
      else match x.payer with
        | some g => (s.release g .t2 old).modFn f (·.charge .t2 old)
        | none => s
    match x.home with
    | .t3 p => if x.lost then s else (s.release f .t2 new).chargeHome c d (.t3 p) new
    | _ => s

/-- A member passes its shard's ledger arbiter (R33 step 5, R65, R287): stamped, with everything that becomes visible at the
stamp, inside one locked sequence. -/
def State.stampMember (s : State) (shard : Nat) (k : Key) (i : Nat) : State :=
  match s.shard? shard, s.member? k i with
  | some d, some w =>
    match s.coll? d.coll with
    | none => s.endMember k i stRetry 0
    | some c =>
      let writes := w.msg.kind == .insert || w.msg.kind == .upsert
      if writes && d.stage == .formed && w.lists.isEmpty then (s.pullBack k i shard).askAssignment k i
      else
        match s.verdict c d w with
        | .refuse st dt => s.endMember k i st dt
        | .quiet st dt => s.endMember k i st dt
        | .wait => (s.pullBack k i shard).modMember k i fun w => { w with stage := .waitTable, since := s.now }
        | .apply dt =>
          let s := match w.slot with | some n => s.applyAll shard n 65536 | none => s
          match s.shard? shard with
          | none => s
          | some d =>
            match w.slot.bind d.slot? with
            | none => s.endMember k i stInvalid 5
            | some x =>
              let stamp := d.counter + 1
              let s := s.recharge c d w x
              let s := s.modShard shard fun d =>
                { d.applyMember c w x stamp s.now with counter := stamp, holds := d.holds.filter (· != x.id) }
              let s := if writes then s.stampGb w.lists x.id stamp else s
              let s := s.modTier fun e =>
                { e with journal := modWhere e.journal (fun j => j.ofMember k i) fun j => { j with stamp := stamp },
                         rowCache := if w.msg.kind == .delete then e.rowCache.filter fun y => !(y.1 == shard && y.2.1 == x.num)
                           else e.rowCache }
              let s :=
                if w.msg.kind == .accumulate then s.modMember k i fun w => { w with stage := .stamped, stamp := stamp }
                else (s.sendOutcome w.msg stamp stOk dt).modEng fun e =>
                  { e with members := e.members.filter fun y => !isMember k i y }
              let s := s.flushReady k shard
              match s.nextHeld shard w.msg.name w.msg.byRef with
              | some y =>
                (s.modMember y.msg.key y.msg.index fun y => { y with stage := .resolved }).resolveMember y.msg.key y.msg.index
              | none => s
  | _, _ => s

end Sys2Proof.Machine
end

