-- ==== Sys2Proof/Machine/Merge.lean ====
section
/-! DEFINITION. Meanings of the search commands from the sources' end on: overflow and spill passes, FORMING shards, the node
merge, the Porter's row reads, re-ranking, the coordinator merge and the result (R225, R234 to R257, R304, R307, R410, R614). -/

namespace Sys2Proof.Machine

open Sys2Proof

/-- One pass, and the last one when every source has finished (R234, R236). -/
def State.passShare (s : State) (k : Key) (range : Range) : State :=
  match s.share? k with
  | none => s
  | some h =>
    if rangeOf h.msg.params != range || h.final then s
    else if h.sourcesDone then s.modShare k fun h => { h.pass h.overBuf.length s.now with final := true }
    else if passAt h.msg.params ≤ h.overBuf.length then (s.modShare k (·.pass (passAt h.msg.params) s.now)).resumeCsus
    else s

/-- OVERFLOW_PASS (R234): at 2c entries the top c of them stay and T_o is their last score; when every source has finished, the top
c of all. -/
def execOverflowPass (k : Key) (s : State) : Result := .next (s.passShare k .overflow)

/-- SPILL_PASS (R236): the same over a full spill area of 2m entries, keeping m and setting T_s. -/
def execSpillPass (k : Key) (s : State) : Result := .next (s.passShare k .core)

/-- SPILL_SHORT_DEADLINE (R239): core-assisted selection that has not finished 2 ms before the timeout, or halfway through one
under 4 ms, stops scanning and is marked short; a shard that it has not been stamped on yet answers short with no read stamp
(log 91). -/
def execSpillShortDeadline (k : Key) (t : Nat) (s : State) : Result :=
  let s := s.at t
  match s.share? k with
  | none => .next s
  | some h =>
    let ms := h.msg.params.timeoutMs
    let due := h.arrivedAt + (if ms < 4 then ms * Config.ticksPerMs / 2 else (ms - 2) * Config.ticksPerMs)
    if rangeOf h.msg.params != .core || s.now < due || h.merged.isSome then .next s
    else
      let s := (s.arbWithdraw (·.ofShare k)).leaveCoaches k
      let s : State := { s with shards := s.shards.map fun (x : Shard) => ({ x with waiting := x.waiting.filter (·.2 != .search k) } : Shard) }
      let s := s.leaveBatches fun b => { b with queries := b.queries.filter (· != k) }
      let s := h.shards.foldl (fun s p =>
        if p.stage == .done then s
        else
          let s := s.modPart k p.shard fun p =>
            { p with short := true, stage := .boarded, covered := p.covered.filter fun i => !p.nearLeft.contains (i, true),
                     flashLeft := [], nearLeft := [] }
          s.settle k p.shard) s
      .next s

/-- Offers of a FORMING shard's visible records, source 33 (R195, R228, R244). -/
def State.offerForming (s : State) (c : Coll) (d : Shard) (k : Key) (r : Nat) : List Slot → State
  | [] => s
  | x :: rest =>
    match s.share? k, d.rowAt x r with
    | some h, .row row _ =>
      let q := queryFor c.spec h.msg.params.query
      let (v, s) := s.scoreOf c.spec none (sq8Rows c.spec q) row.groups row.norm (sqNorm q) 0
      (s.offer k d.id 33 x.id v (SearchParams.admits h.msg.params x.id)).offerForming c d k r rest
    | _, _ => s.offerForming c d k r rest

/-- FORMING_SHARD_SCORE (R152, R154, R195): the tensor clusters score the formation buffer at the read stamp. It waits while a
row there waits for an accumulate (R304). -/
def execFormingShardScore (k : Key) (shard : Nat) (s : State) : Result :=
  let tile := s.homeTile k.num
  let w : Work := .forming k shard
  if !s.arbHolds (tensorArb tile) w || !s.tileReady tile then .next s
  else
    match s.share? k, s.shard? shard with
    | some h, some d =>
      match h.part? shard, s.coll? h.msg.collection with
      | some p, some c =>
        if d.slots.any fun x => d.rowAt x p.stamp == .wait then .next s
        else
          match s.reserveSelection h with
          | .inl n => .next ((s.failReserve h n).arbEnd (tensorArb tile) w)
          | .inr s =>
            let s := s.offerForming c d k p.stamp d.slots
            .next ((s.modPart k shard fun p => { p with stage := .done }).arbEnd (tensorArb tile) w)
      | _, _ => .next (s.arbEnd (tensorArb tile) w)
    | _, _ => .next (s.arbEnd (tensorArb tile) w)

/-! ### The node merge (R240 to R245) -/

/-- R241: keep the first candidate of each identifier and shard in the order of R229; the number removed. -/
def dedupe (seen : List (Nat × Nat)) : List Cand → List Cand × Nat
  | [] => ([], 0)
  | c :: rest =>
    if seen.contains (c.shard, c.id) then
      let r := dedupe seen rest
      (r.1, r.2 + 1)
    else
      let r := dedupe ((c.shard, c.id) :: seen) rest
      (c :: r.1, r.2)

/-- Whether a kept candidate's row is there at its read stamp, from the structures in T1 (R242, R304). -/
def State.rowOfCand (s : State) (h : Share) (c : Cand) : Option (Shard × Slot × RowAt) :=
  match s.shard? c.shard, h.part? c.shard with
  | some d, some p => (d.slotOf c.id).map fun x => (d, x, d.rowAt x p.stamp)
  | _, _ => none

/-- NODE_MERGE (R240 to R244, R249): the union of the seat lists without duplicates, the first m. Without re-rank the node
answers; else the rows are requested, a missing one dropped at no read. -/
def execNodeMerge (k : Key) (s : State) : Result :=
  match s.share? k with
  | none => .next s
  | some h =>
    let p := h.msg.params
    if !h.sourcesDone || h.merged.isSome || h.shards.isEmpty || (rangeOf p != .full && !h.final) then .next s
    else
      let lists := h.shards.flatMap (·.lists)
      let all := if rangeOf p == .full then lists.flatMap (·.entries) else h.overBuf
      let (unique, dups) := dedupe [] (sortCands all)
      let (kept, cut) := cutAt (depthOf p) unique
      let floors := if rangeOf p == .full then
        lists.filterMap fun l => match l.entries.getLast? with
          | some x => if l.floorCount = 0 then none else some (x.score, l.floorCount)
          | none => none
        else []
      let h' := { h with dups := dups }
      if p.rerankDepth = 0 then .next (s.answerShare h' kept (floors ++ h.cuts ++ cut.toList) 0 [])
      else
        let there := kept.filter fun c => c.source == 33 || match s.rowOfCand h c with
          | some (_, _, .missing _) => false
          | none => false
          | _ => true
        let rows := (there.filter (·.source != 33)).filterMap fun c => (s.rowOfCand h c).map fun x => (x.1.id, x.2.1.num)
        let tile := s.homeTile k.num
        let s := s.modShare k fun h =>
          { h with dups := dups, merged := some there, rows := rows, missing := kept.length - there.length }
        let s := s.modEng fun e => { e with porter := e.porter ++ rows.map fun x => (tile, k, x.1, x.2) }
        .next (if rows.isEmpty then s.needTensor tile false false (.rerank k) else s.issueReads tile)

/-! ### The Porter (R304, R307, R410) -/

/-- A row read from T2 or T3 is admitted to the row cache at its second read within 60 s; one found there is a hit (R410). -/
def State.cacheRow (s : State) (shard slot : Nat) (home : Home) : State :=
  let here := fun (x : Nat × Nat × Nat) => x.1 == shard && x.2.1 == slot
  let young := fun (x : Nat × Nat × Nat) => decide (s.now ≤ x.2.2 + 60 * Config.ticksPerS)
  if home == .formation then s
  else if s.tier.rowCache.any here then
    s.modTier fun e => { e with rowHits := e.rowHits + 1, rowCache := e.rowCache.filter (!here ·) ++ [(shard, slot, s.now)] }
  else if s.tier.rowSeen.any (fun x => here x && young x) && s.rowSize shard slot ≤ s.rowRoom then
    s.modTier fun e => { e with rowSeen := e.rowSeen.filter (!here ·), rowCache := e.rowCache ++ [(shard, slot, s.now)] }
  else
    s.modTier fun e => { e with rowSeen := (e.rowSeen.filter fun x => young x && !here x) ++ [(shard, slot, s.now)] }

/-- A row's current version turns out lost (R575, R577). -/
def State.loseRow (s : State) (shard slot : Nat) : State :=
  (s.modShard shard fun d => { d with slots := modWhere d.slots (fun x => x.num == slot && !x.lost) fun x => { x with lost := true } }).modTier
    fun e => { e with lostRows := e.lostRows + 1 }

/-- PORTER_ROW_READ (R38, R242, R304, R307, R410, R425): the oldest issued read of a tile ends whose row is applied and, where it
comes from flash, whose turn it is at the row's channel. When the last row of a query has arrived, its re-rank is requested. -/
def execPorterRowRead (tile : Nat) (res : PageRead) (t : Nat) (s : State) : Result :=
  let s := (s.at t).issueReads tile
  let rowOf := fun (x : Nat × Key × Nat × Nat) =>
    match s.share? x.2.1, s.shard? x.2.2.1 with
    | some h, some d => match h.part? x.2.2.1, d.slot? x.2.2.2 with
      | some p, some y => some (y, d.rowAt y p.stamp, (d.histAfter y.num p.stamp).isNone)
      | _, _ => none
    | _, _ => none
  let may := fun x => (match rowOf x with | some (_, .wait, _) => false | _ => true) && s.turnsAll (readWork x) (s.readChannel x).toList
  match (s.issued tile).find? may with
  | none => .next s
  | some x =>
    let k := x.2.1
    let s := s.modEng fun e => { e with porter := e.porter.erase x }
    let found := rowOf x
    let current := match found with | some (_, _, c) => c | none => false
    let home := match found with | some (_, .row _ h, _) => h | _ => Home.formation
    let channel := s.readChannel x
    let was := match found with | some (y, _, c) => (y.lost && c) || s.homeLost home | none => true
    let gone := was || (channel.isSome && res == .lost)
    let s := (s.useGrants (readWork x) channel.toList).dropWork (· == readWork x)
    let s := match channel with | some c => s.readCourse c res | none => s
    let s := if gone && !was && current then s.loseRow x.2.2.1 x.2.2.2 else s
    let s := if current && !gone then s.cacheRow x.2.2.1 x.2.2.2 home else s
    let s := s.countReads (((s.shard? x.2.2.1).map (·.coll)).getD 0) 1
    let id := ((found.map fun y => y.1.id).getD 0)
    let s := s.modShare k fun h =>
      { h with rows := h.rows.erase (x.2.2.1, x.2.2.2),
               merged := if gone then h.merged.map fun l => l.filter fun c => !(c.shard == x.2.2.1 && c.id == id) else h.merged,
               missing := if gone then h.missing + 1 else h.missing }
    match s.share? k with
    | some h => .next ((if h.rows.isEmpty && h.merged.isSome then s.needTensor tile false false (.rerank k) else s).issueReads tile)
    | none => .next (s.issueReads tile)

/-! ### Re-ranking (R222, R242) -/

/-- The lexical term (R222), exactly, in units of 2^-298. -/
def lexicalTerm (q r : List (Nat × Int)) : Int :=
  q.foldl (fun n x => match r.find? (·.1 == x.1) with | some y => n + x.2 * y.2 | none => n) 0

/-- Re-score the candidates whose rows were gathered; those of source 33 keep their scores (R244). -/
def State.rerankAll (s : State) (c : Coll) (h : Share) : List Cand → List Cand × Nat × State
  | [] => ([], 0, s)
  | x :: rest =>
    if x.source = 33 then
      let (l, n, s) := s.rerankAll c h rest
      (x :: l, n, s)
    else
      match s.rowOfCand h x with
      | some (_, _, .row row _) =>
        let q := queryFor c.spec h.msg.params.query
        let lex := if h.msg.params.lexical then lexicalTerm h.msg.params.terms row.lex else 0
        let (v, s) := s.scoreOf c.spec none (sq8Rows c.spec q) row.groups row.norm (sqNorm q) lex
        let (l, n, s) := s.rerankAll c h rest
        ({ x with score := v } :: l, n + 1, s)
      | _ => s.rerankAll c h rest

/-- The pools that are home to rows of a share's candidates. -/
def State.rowPools (s : State) (h : Share) (cands : List Cand) : List Nat :=
  (cands.filterMap fun c => match s.rowOfCand h c with
    | some (_, _, .row _ (.t3 p)) => some p
    | _ => none).eraseDups

/-- RERANK_GATHER (R242, R245, R249): every row has arrived; the first k by re-rank score go to the coordinator. Rows read again after
a pool loss are waited for (R500). -/
def execRerankGather (k : Key) (s : State) : Result :=
  let tile := s.homeTile k.num
  let w : Work := .rerank k
  if !s.arbHolds (tensorArb tile) w || !s.tileReady tile then .next s
  else
    match s.share? k with
    | none => .next (s.arbEnd (tensorArb tile) w)
    | some h =>
      match (if h.rows.isEmpty then h.merged else none), s.coll? h.msg.collection with
      | some cands, some c =>
        let (l, n, s) := s.rerankAll c h cands
        let (kept, cut) := cutAt h.msg.params.k (sortCands l)
        .next ((s.answerShare h kept cut.toList n (s.rowPools h cands)).arbEnd (tensorArb tile) w)
      | _, _ => .next (s.arbEnd (tensorArb tile) w)

/-! ### The coordinator (R224, R225, R246 to R257, R614) -/

/-- Rank of a failing status (R614): the least occurs in the completion. -/
def failRank (status : Nat) : Nat :=
  if status = stCancelled then 0 else if status = stPoolLost then 1 else if status = stQuota then 2 else 3

/-- The failure that decides: the lowest rank, then the lowest shard (R614). -/
def worstFailure : List (Nat × Nat × Nat) → Option (Nat × Nat × Nat)
  | [] => none
  | f :: rest =>
    match worstFailure rest with
    | none => some f
    | some g =>
      if failRank g.2.1 < failRank f.2.1 || (failRank g.2.1 == failRank f.2.1 && decide (g.1 < f.1)) then some g else some f

/-- What the coordinator knows of a shard (R224, R252): none is missing. -/
def shardReply (answers : List (Nat × ShardAnswer)) (shard : Nat) : Option (Nat × Nat × Nat × Bool × Bool × Bool) :=
  match (answers.find? (·.1 == shard)).map (·.2) with
  | some (ShardAnswer.answered st cov plan deg short forming) => some (st, cov, plan, deg, short, forming)
  | _ => none

/-- The coordinator's reservation for k above 128 (R235, R237, R247): what it takes, or the detail of its refusal. -/
def State.mergeSpace (s : State) (r : Req) (p : SearchParams) : MergeSpace :=
  match rangeOf p with
  | .full => {}
  | .overflow =>
    let n := 48 * capOf p
    if s.fits r.fn .t0 n && decide (s.tileT0 (s.homeTile r.num) + n ≤ 112 * 2 ^ 20) then { t0 := n } else { refused := some 0 }
  | .core =>
    let n := 32 * depthOf p
    if s.fits r.fn .t1 n then { t1 := n }
    else
      match s.storagePool with
      | none => { refused := some 1 }
      | some q => if s.fits r.fn .t3 n && decide (q.used + n ≤ q.capTib * 2 ^ 40) then { t3 := n, pool := some q.id }
        else { refused := some 3 }

/-- The merge begins with the first answer that carries a result: its space is reserved and charged to the issuing function, or
refused (R247, R415; log 95). -/
def State.reserveMerge (s : State) (r : Req) (p : SearchParams) : State :=
  if r.merge != {} then s
  else
    let m := s.mergeSpace r p
    let charge := fun (s : State) (k : QKind) (n : Nat) => if n = 0 then s else s.modFn r.fn (·.charge k n)
    let s := charge (charge (charge s .t0 m.t0) .t1 m.t1) .t3 m.t3
    let s := match m.pool with | some q => s.modPool q fun x => { x with used := x.used + m.t3 } | none => s
    let s := match m.refused with | some d => s.quotaRefuse r.fn d | none => s
    s.modReq r.num fun r => { r with merge := m }

/-- Result header, entries and stamp table (R254 to R256). -/
def resultBytes (p : SearchParams) (c : Coll) (status flags ties dups cov plan edges reranked missing answered : Nat)
    (entries : List Cand) (answers : List (Nat × ShardAnswer)) : Bytes :=
  let n := entries.length
  let off := if p.readStamps then roundUp (64 + 12 * n) 16 else 0
  let head := layout 64
    [(0, toLE 4 n), (4, toLE 4 p.k), (8, toLE 1 flags), (9, toLE 1 status), (12, toLE 4 c.spec.shards), (16, toLE 4 answered),
     (20, toLE 4 (if p.readStamps then c.spec.shards else 0)), (24, toLE 4 ties), (28, toLE 4 dups), (32, toLE 4 cov),
     (36, toLE 4 plan), (40, toLE 4 edges), (44, toLE 4 reranked), (48, toLE 4 missing), (52, toLE 4 off)]
  let body := head ++ entries.flatMap fun x => toLE 8 x.id ++ toLE 4 (fp32Encode x.score 298)
  if !p.readStamps then body
  else
    body ++ zeros (off - (64 + 12 * n)) ++ c.shardIds.flatMap fun i =>
      match shardReply answers i with
      | some (st, _, _, _, short, forming) =>
        toLE 3 i ++ toLE 1 (if forming then 3 else if short then 2 else 0) ++ zeros 4 ++ toLE 8 st
      | none => toLE 3 i ++ toLE 1 1 ++ zeros 12

/-- Lists planned of a missing shard: probes, or the shard's list count if smaller (R252); the count of a shard of another node
is a free value. -/
def State.plannedOf (s : State) (probes shard : Nat) : Nat × State :=
  match s.shard? shard with
  | some _ => (min probes (s.listsAt shard (((s.shard? shard).map (·.counter)).getD 0)).length, s)
  | none =>
    let (i, s) := s.takeFree
    (min probes (Config.freeNat i), s)

/-- Planned counts of the shards that are missing. -/
def State.plannedAll (s : State) (probes : Nat) : List Nat → Nat × State
  | [] => (0, s)
  | i :: rest =>
    let (n, s) := s.plannedOf probes i
    let (m, s) := s.plannedAll probes rest
    (n + m, s)

/-- The coordinator completes a search (R225, R246 to R256, R614): every shard has answered, failed or gone missing. -/
def State.finishSearch (s : State) (r : Req) (p : SearchParams) (answers : List (Nat × ShardAnswer)) (got : List Answer)
    (io : HostIO) : State :=
  match s.coll? r.collection with
  | none => s.complete r (.bare stRetry 0) io
  | some c =>
    let shards := c.shardIds
    let fails := shards.filterMap fun i => match (answers.find? (·.1 == i)).map (·.2) with
      | some (ShardAnswer.failed st d) => some (i, st, d)
      | _ => none
    let fails := fails ++ (r.merge.refused.map fun d => (2 ^ 24, stQuota, d)).toList ++
      if r.merge.lost then [(2 ^ 24, stPoolLost, 0)] else []
    match worstFailure fails with
    | some f => s.complete r (.bare f.2.1 f.2.2) io
    | none =>
      if shards.all fun i => (answers.find? (·.1 == i)).map (·.2) == some ShardAnswer.hopEnded then s.complete r (.bare stRetry 0) io
      else
        let replies := shards.filterMap fun i => shardReply answers i
        let missing := shards.filter fun i => (shardReply answers i).isNone
        let (entries, cut) := cutAt p.k (sortCands (got.flatMap (·.entries)))
        let last := (entries.getLast?.map (·.score)).getD 0
        let ties := if entries.length < p.k then 0
          else ((got.filterMap (·.tie) ++ cut.toList).filter fun x => x.1 == last).foldl (fun n x => n + x.2) 0
        let partial_ := !missing.isEmpty || replies.any (·.2.2.2.2.1)
        let degraded := replies.any (·.2.2.2.1)
        let sum := fun (f : Answer → Nat) => got.foldl (fun n a => n + f a) 0
        let (extra, s) := s.plannedAll p.probes missing
        let cov := replies.foldl (fun n x => n + x.2.1) 0
        let plan := replies.foldl (fun n x => n + x.2.2.1) 0 + extra
        let flags := word [(0, b2n (0 < ties)), (1, b2n partial_), (2, b2n degraded)]
        let status := if partial_ then stPartial else if degraded then stDegraded else stOk
        let data := resultBytes p c status (flags + (if p.rerankDepth = 0 then 0 else 8)) ties (sum (·.duplicates)) cov plan
          (sum (·.edgesSkipped)) (sum (·.reranked)) (sum (·.missingRows)) replies.length entries answers
        s.complete r
          { status := status, detail := 0, value := entries.length, value2 := replies.length, flags := flags, data := data,
            dataReturned := data.length } io

/-- COORDINATOR_ANSWER_RECEIVE (R224, R245, R246, R614): at most one answer for each shard counts; when the last has come the
search completes; an answer later than the timeout is discarded. `peer` is none for this node's own answer over the internal path. -/
def execCoordinatorAnswerReceive (num : Nat) (peer : Option Answer) (io : HostIO) (t : Nat) (s : State) : Result :=
  let s := s.at t
  let own := s.eng.inAnswers.find? fun a => a.key.num == num
  let (a, s) : Option Answer × State := match peer, own with
    | some x, _ => (if x.key == ⟨s.nodeId, num⟩ then some x else none, s)
    | none, some x => (some x, s.modEng fun e => { e with inAnswers := e.inAnswers.erase x })
    | none, none => (none, s)
  match a, s.req? num with
  | some a, some r =>
    match r.body with
    | .search p answers got due =>
      if decide (due < s.now) || a.shards.any (fun x => answers.any (·.1 == x.1)) then .next s
      else
        let result := a.shards.any fun x => match x.2 with | .answered _ _ _ _ _ _ => true | _ => false
        let s := if result then s.reserveMerge r p else s
        let r := (s.req? num).getD r
        let answers := answers ++ a.shards
        let got := got ++ [a]
        let all := match s.coll? r.collection with
          | some c => c.shardIds.all fun i => answers.any (·.1 == i)
          | none => true
        if all then .next (s.finishSearch r p answers got io)
        else .next (s.modReq num fun r => { r with body := .search p answers got due })
    | _ => .next s
  | _, _ => .next s

/-- SEARCH_TIMEOUT (R224): shards that have not answered timeout_ms after admission are missing. -/
def execSearchTimeout (num : Nat) (io : HostIO) (t : Nat) (s : State) : Result :=
  let s := s.at t
  match s.req? num with
  | some r =>
    match r.body with
    | .search p answers got due => .next (if due ≤ s.now then s.finishSearch r p answers got io else s)
    | _ => .next s
  | none => .next s

end Sys2Proof.Machine
end

