-- ==== Sys2Proof/Machine/Updates.lean ====
section
/-! DEFINITION. Meanings of the mutation commands and of GATHER (R33, R261 to R278, R308 to R320, R537), and of the ledger
arbiter's grant (R64 to R66). -/

namespace Sys2Proof.Machine

open Sys2Proof

/-! ### INSERT, UPSERT, DELETE, SCATTER at their origin (R261 to R265, R315, R319) -/

/-- The entries of a batch with their offsets: each starts at a multiple of 64 (R262). -/
def splitEntries (b : Bytes) (vec : Nat) : Nat → Nat → List (Nat × Nat)
  | 0, _ => []
  | n + 1, off =>
    let len := 16 + vec + 8 * le b (off + 8) 2
    (off, len) :: splitEntries b vec n (roundUp (off + len) 64)

/-- The offset after the last entry. -/
def entriesEnd (l : List (Nat × Nat)) : Nat := (l.getLast?.map fun x => x.1 + x.2).getD 0

/-- The shard a member goes to (R151, R299). -/
def memberShard (c : Coll) (byRef : Bool) (name : Nat) : Nat :=
  if byRef then field name 35 24 else ownerShard name c.spec.firstShard c.spec.shards

/-- Send a member to its owner shard (R261, R320), or to the coordinator's own inbox. -/
def State.sendMember (s : State) (c : Coll) (op : Nat) (m : MemberMsg) : State :=
  match c.spec.owners[m.shard - c.spec.firstShard]? with
  | none => s.modEng fun e => { e with inMembers := e.inMembers ++ [m] }
  | some o =>
    if o = s.nodeId then s.modEng fun e => { e with inMembers := e.inMembers ++ [m] }
    else s.sendWork (workTag m.key m.function m.qosClass op o m.shard 0) (.member m)

/-- The request becomes its members, and each is sent (R261). -/
def State.startMembers (s : State) (r : Req) (c : Coll) (kind : MemberKind) (byRef : Bool) (fmt : Nat)
    (items : List (Nat × Bytes)) : State :=
  let k : Key := ⟨s.nodeId, r.num⟩
  let msgs := items.zipIdx.map fun x =>
    ({ key := k, index := x.2, function := r.fn, qosClass := r.qosClass, hop := 0, collection := c.spec.id,
       shard := memberShard c byRef x.1.1, kind := kind, byRef := byRef, name := x.1.1, format := fmt,
       entry := x.1.2 } : MemberMsg)
  let s := s.modReq r.num fun r => { r with body := .mutation (msgs.map fun m => ⟨m, none, false, false⟩) }
  msgs.foldl (fun s m => s.sendMember c r.opcode m) s

/-- INSERT and UPSERT (R261, R262, R264). -/
def State.insertCommand (s : State) (num op : Nat) (kind : MemberKind) (io : HostIO) : State :=
  let e := s.entryOf num
  let fmt := byteAt e 48
  let count := le e 52 4
  s.dataCommit num op io [(49, 3), (56, 72)] [(48, decide (fmt < 3))] .named (some 1) (16 * count) fun s r inp =>
    match s.coll? r.collection with
    | none => s.complete r (.bare stInvalid 4) io
    | some c =>
      let es := splitEntries inp (vectorBytes fmt c.spec.dimensions) (if count ≤ 4096 then count else 0) 0
      match lowestBad e [] [(24, decide (entriesEnd es ≤ le e 24 4)), (52, decide (1 ≤ count) && decide (count ≤ 4096))] with
      | some o => s.complete r (.bare stInvalid o) io
      | none => s.startMembers r c kind false fmt (es.map fun x => (le inp x.1 8, slice inp x.1 x.2))

/-- INSERT (R33, R261). -/
def execInsert (num : Nat) (io : HostIO) (t : Nat) (s : State) : Result := .next ((s.at t).insertCommand num 2 .insert io)

/-- UPSERT (R261, R270). -/
def execUpsert (num : Nat) (io : HostIO) (t : Nat) (s : State) : Result := .next ((s.at t).insertCommand num 4 .upsert io)

/-- `n` identifiers of 8 bytes. -/
def readIds (b : Bytes) (off : Nat) : Nat → List Nat
  | 0 => []
  | n + 1 => le b off 8 :: readIds b (off + 8) n

/-- DELETE (R261, R262). -/
def execDelete (num : Nat) (io : HostIO) (t : Nat) (s : State) : Result :=
  let s := s.at t
  let e := s.entryOf num
  let count := le e 52 4
  .next (s.dataCommit num 3 io [(48, 4), (56, 72)] [] .named (some 1) (16 * count) fun s r inp =>
    match s.coll? r.collection with
    | none => s.complete r (.bare stInvalid 4) io
    | some c =>
      match lowestBad e [] [(24, decide (8 * count ≤ le e 24 4)), (52, decide (1 ≤ count) && decide (count ≤ 65536))] with
      | some o => s.complete r (.bare stInvalid o) io
      | none => s.startMembers r c .delete false 0 ((readIds inp 0 count).map fun i => (i, [])))

/-- SCATTER (R315). -/
def execScatter (num : Nat) (io : HostIO) (t : Nat) (s : State) : Result :=
  let s := s.at t
  let e := s.entryOf num
  let mode := byteAt e 48
  let byRef := byteAt e 49 == 1
  let fmt := byteAt e 50
  let count := le e 52 4
  .next (s.dataCommit num 6 io [(51, 1), (56, 72)]
    [(48, decide (mode < 2)), (49, decide (byteAt e 49 < 2)), (50, decide (fmt < 3))] .named (some 3) (16 * count) fun s r inp =>
    match s.coll? r.collection with
    | none => s.complete r (.bare stInvalid 4) io
    | some c =>
      let es := splitEntries inp (vectorBytes fmt c.spec.dimensions) (if count ≤ 4096 then count else 0) 0
      match lowestBad e [] [(24, decide (entriesEnd es ≤ le e 24 4)), (52, decide (1 ≤ count) && decide (count ≤ 4096))] with
      | some o => s.complete r (.bare stInvalid o) io
      | none =>
        s.startMembers r c (if mode = 0 then .replace else .accumulate) byRef fmt
          (es.map fun x => (le inp x.1 8, slice inp x.1 x.2)))

/-! ### Members at their owner (R33, R150, R266, R299, R301, R320) -/

/-- The checks of step 1 on a member that its owner serves: the outcome it ends with at once, if any (R158, Table: member
outcomes, Table: scatter member outcomes). -/
def memberFault (c : Coll) (d : Shard) (m : MemberMsg) : Option (Nat × Nat) :=
  let carries := m.kind != .delete
  let vec := vectorBytes m.format c.spec.dimensions
  let n := le m.entry 8 2
  let terms := 16 + vec
  let termSpare := (List.range n).map fun i => (terms + 8 * i + 6, 2)
  let spare := [(10, 6)] ++ (if m.format = 2 then sq8Reserved 16 c.spec.dimensions else []) ++ termSpare
  let v := entryVector c.spec m
  if carries && (firstReserved m.entry spare).isSome then some (stInvalid, 7)
  else if !m.byRef && m.name == 0xFFFFFFFFFFFFFFFF then some (stInvalid, 2)
  else if m.byRef && (decide (2 ^ 59 ≤ m.name) || !(decide (c.spec.firstShard ≤ m.shard) &&
      decide (m.shard < c.spec.firstShard + c.spec.shards)) || (d.slot? (m.name % 2 ^ 35)).isNone) then some (stInvalid, 6)
  else if carries && (v.isNone || (c.spec.metric = 1 && m.kind != .accumulate && sqNorm (v.getD []) == 0)) then
    some (stInvalid, 3)
  else if carries && ((n != 0 && !c.spec.lexical) || decide (256 < n) ||
      (badTerm m.entry terms 0 n).isSome || (entryLex c.spec m).isNone) then some (stInvalid, 4)
  else none

/-- A member that this node takes up. -/
def newMember (m : MemberMsg) (now : Nat) : MWork :=
  { msg := m, slot := none, row := none, scan := none, delta := none, l1 := 0, lists := [], stage := .resolved, since := now,
    stamp := 0, journaled := false, t1 := 0, t2 := 0 }

/-- MEMBER_ARRIVAL (R33 step 1, R50, R114, R266, R302, R320): the owner converts the member and resolves its slot; a node that gave
the shard away forwards it, at most four times. `m` is a peer's member, which has been admitted, or none for the internal path. -/
def execMemberArrival (m : Option MemberMsg) (t : Nat) (s : State) : Result :=
  let s := s.at t
  let (m, s) : Option MemberMsg × State :=
    match m with
    | some x => match s.takeAdmitted (tagIsMember x.key x.shard) with
      | some s => (some x, s)
      | none => (none, s)
    | none => (s.eng.inMembers.head?, s.modEng fun e => { e with inMembers := e.inMembers.drop 1 })
  match m with
  | none => .next s
  | some m =>
    match s.shard? m.shard, s.coll? m.collection with
    | some d, some c =>
      match d.forwardTo with
      | some n =>
        if 4 ≤ m.hop then .next (s.sendOutcome m 0 stRetry 0)
        else
          let g := workTag m.key m.function m.qosClass (memberOpcode m.kind) n m.shard (m.hop + 1)
          .next (s.produce n g (reservedQueue g) (.member { m with hop := m.hop + 1 }))
      | none =>
        if d.lost then .next (s.sendOutcome m 0 stDegraded 0)
        else if (s.member? m.key m.index).isSome then .next s
        else
          match memberFault c d m with
          | some x => .next (s.sendOutcome m 0 x.1 x.2)
          | none =>
            let s := s.modEng fun e => { e with members := e.members ++ [newMember m s.now] }
            .next (s.resolveMember m.key m.index)
    | _, some c =>
      if m.byRef && !(decide (c.spec.firstShard ≤ m.shard) && decide (m.shard < c.spec.firstShard + c.spec.shards)) then
        .next (s.sendOutcome m 0 stInvalid 6)
      else .next (s.sendOutcome m 0 stRetry 0)
    | _, none => .next (s.sendOutcome m 0 stRetry 0)

/-- INSERT_ASSIGNMENT (R36, R188, R267, R268): the coarse field keeps the best level-1 centroid, and the insert joins its shard's
level-2 batch. An insert held on a closed list that is open or retired by now asks for its assignment again. -/
def execInsertAssignment (k : Key) (idx : Nat) (s : State) : Result :=
  let w : Work := .assign k idx
  match s.member? k idx with
  | none => .next (if s.arbHolds 0x80 w then s.arbEnd 0x80 w else s)
  | some m =>
    if m.stage == .waitSplit then
      let held := m.lists.any fun i => match s.list? i with | some l => l.closed && l.retiredW.isNone | none => false
      .next (if held then s else s.askAssignment k idx)
    else if !s.arbHolds 0x80 w || m.stage != .resolved || s.pwr.hotTiles.contains 4 then .next s
    else
      match s.shard? m.msg.shard, (s.shard? m.msg.shard).bind (fun d => s.coll? d.coll), m.scan with
      | some d, some c, some r =>
        let (sc, s) := s.scoreL1 c.spec fourBit r.groups r.norm d.columns
        let best := ((ranked sc).head?.map (·.2)).getD 0
        let s := s.modMember k idx fun m => { m with l1 := best, stage := .level2, since := s.now }
        let s := s.boardBatch d.id fun b => { b with inserts := b.inserts ++ [(k, idx)] }
        .next (s.arbEnd 0x80 w)
      | _, _, _ => .next (s.arbEnd 0x80 w)

/-- The formation size F (R153). -/
def formationSize (c : Coll) (d : Shard) : Nat := max (64 * d.l1) (4 * c.spec.projection)

/-- Records the formation buffer holds (R156): current rows and prior versions with their home there, and the records of members
accepted and not stamped yet. -/
def State.bufferCount (s : State) (d : Shard) : Nat :=
  (d.slots.filter fun x => x.home == .formation && x.born && !x.bit).length +
    (d.hist.filter fun e => match e.prior with | some p => p.2 == .formation | none => false).length +
    (s.eng.members.filter fun w => w.msg.shard == d.id && w.journaled && w.stage != .stamped && w.stage != .finished &&
      (w.row.isSome || w.msg.kind == .accumulate)).length

/-- WRITE_BUFFER_ACCEPT (R33 steps 3 and 4, R156, R273 to R278, R287, R412, R429, R430): space is reserved, the journal entry and
the records are taken, and the scan records appended to their guestbooks. An insert for which the node has no slot left (R176) ends
with ST_QUOTA, detail 1 (log 96). -/
def execWriteBufferAccept (k : Key) (idx t : Nat) (s : State) : Result :=
  let s := s.at t
  match s.member? k idx with
  | none => .next s
  | some w =>
    match s.shard? w.msg.shard, (s.shard? w.msg.shard).bind fun d => s.coll? d.coll with
    | some d, some c =>
      if !(w.stage == .assigned || w.stage == .waitFormation || w.stage == .waitJournal) then .next s
      else if w.journaled then .next (s.appendMember k idx)
      else
        let base := (w.slot.bind d.slot?).map (·.row)
        let size := match w.row, base with
          | some r, _ => rowBytes c.spec r
          | none, some r => if w.msg.kind == .accumulate then rowBytes c.spec r else 0
          | none, none => 0
        let jbytes := 64 + size + w.lists.length * scanBytes c.spec.projection
        let adds := d.stage == .forming && (w.row.isSome || w.msg.kind == .accumulate)
        if w.slot.isNone && (w.msg.kind == .insert || w.msg.kind == .upsert) then
          .next ((s.quotaRefuse (s.chargedFn c) 1).endMember k idx stQuota 1)
        else if adds && decide (2 * formationSize c d ≤ s.bufferCount d) then
          if c.spec.guestbookFull = 1 then .next (s.endMember k idx stRetry 2)
          else .next (s.modMember k idx fun w =>
            { w with stage := .waitFormation, since := if w.stage == .waitFormation then w.since else s.now })
        else if s.journalLimit jbytes then
          if s.pwr.doldrums then .next (s.endMember k idx stRetry 4)
          else .next (s.modMember k idx fun w => { w with stage := .waitJournal })
        else
          let fresh := match w.slot.bind d.slot? with | some x => !x.born | none => false
          match (if size = 0 then .inr s else s.chargeRow c d k idx size fresh) with
          | .inl x => .next ((s.quotaRefuse (s.chargedFn c) x).endMember k idx stQuota x)
          | .inr s =>
            let id := d.idOf w.msg.byRef w.msg.name
            let record : JRecord := ⟨w.msg.kind, id, w.slot, w.lists, w.lists.filterMap fun _ => w.scan, w.row, w.delta⟩
            let s := s.addJournal (.member k idx) d.id 0 jbytes
            let s := s.modTier fun e =>
              { e with journal := modWhere e.journal (fun j => j.ofMember k idx && !j.void) fun j => { j with record := some record } }
            .next ((s.modMember k idx fun w => { w with journaled := true }).appendMember k idx)
    | _, _ => .next (s.endMember k idx stRetry 0)

/-- GUESTBOOK_WAIT_END (R277, R306): the condition that stopped the member no longer holds, and it goes on. -/
def execGuestbookWaitEnd (k : Key) (idx t : Nat) (s : State) : Result :=
  let s := s.at t
  match s.member? k idx with
  | none => .next s
  | some w =>
    if w.stage == .waitGuestbook then .next (s.appendMember k idx)
    else if w.stage == .waitTable then
      match s.shard? w.msg.shard, (s.shard? w.msg.shard).bind fun d => s.coll? d.coll with
      | some d, some c =>
        if s.verdict c d w == .wait then .next s
        else .next ((s.modMember k idx fun w => { w with stage := .ready }).flushReady k w.msg.shard)
      | _, _ => .next (s.endMember k idx stRetry 0)
    else .next s

/-- The member has waited 2 s in a stage (R156, R277, R306). -/
def State.waitOver (s : State) (k : Key) (idx : Nat) (stages : List MStage) : State :=
  match s.member? k idx with
  | none => s
  | some w =>
    if stages.contains w.stage && decide (w.since + 2 * Config.ticksPerS ≤ s.now) then s.endMember k idx stRetry 2 else s

/-- GUESTBOOK_WAIT_TIMEOUT (R277, R306): ST_RETRY, detail 2, after 2 s of waiting. -/
def execGuestbookWaitTimeout (k : Key) (idx t : Nat) (s : State) : Result :=
  .next ((s.at t).waitOver k idx [.waitGuestbook, .waitTable])

/-- FORMATION_WAIT_TIMEOUT (R156): ST_RETRY, detail 2, after 2 s of waiting. -/
def execFormationWaitTimeout (k : Key) (idx t : Nat) (s : State) : Result := .next ((s.at t).waitOver k idx [.waitFormation])

/-! ### The ledger arbiter (R55, R64, R65, R74, R434) -/

/-- What a reader's pass is for still goes on: the request, or the maintenance of the list. -/
def State.passLive (s : State) (d : Shard) : ReaderId → Bool
  | .req k => k.origin == s.nodeId && (s.req? k.num).isSome
  | .maint i => (s.list? i).any (·.maint.isSome)
  | .formation => d.stage == .forming
  | .move => d.move.isSome
  | .regen => true

/-- A BARRIER passes the ledger arbiter as a query does (R74): a peer's takes the counter value F and is answered; one of this node is
completed by its own row while its request goes on. -/
def State.stampBarrier (s : State) (d : Shard) (k : Key) : State :=
  s.sendWork { workTag k 0 0 0x0D k.origin d.id 1 with ledgerStamp := d.counter } (.barrierAnswer k (some d.counter))

/-- LEDGER_STAMP (R33, R65, R66): the oldest request at a shard's ledger arbiter is granted: a mutation takes the next counter value
as its stamp, a query the current one as its read stamp, a move and a regeneration their cut, a peer's BARRIER its F. What passes in
a row of its own keeps its place, unless what it was for has ended. -/
def execLedgerStamp (shard t : Nat) (s : State) : Result :=
  let s := s.at t
  match s.shard? shard with
  | none => .next s
  | some d =>
    match d.waiting with
    | [] => .next s
    | x :: rest =>
      let drop := s.modShard shard fun d => { d with waiting := rest }
      let s' := drop.countLedger d x.1
      match x.2 with
      | .search k => .next (s'.stampShare shard k)
      | .barrier k => .next (if k.origin != s.nodeId then s'.stampBarrier d k else if (s.req? k.num).isSome then s else drop)
      | .member k i => .next (s'.stampMember shard k i)
      | .pass .regen => .next (if d.regen.isNone then s'.cutRegen shard else s)
      | .pass .move => .next (s'.cutMove shard)
      | .pass r => .next (if s.passLive d r then s else drop)
      | .row slot => .next (if (d.slots.find? (·.num == slot)).any (·.migration.isSome) then s else drop)

/-- ACCUMULATE_APPLY (R305, R317): the first accumulate of a slot that waits is applied, and its member ends. -/
def execAccumulateApply (shard slot : Nat) (s : State) : Result := .next (s.applyAcc shard slot)

/-! ### Outcomes at the origin (R264, R265, R319, R537) -/

/-- Members whose index repeats an earlier one (R319). -/
def duplicateNames : List OMember → List (Bool × Nat) → Nat
  | [], _ => 0
  | m :: rest, seen =>
    let x := (m.msg.byRef, m.msg.name)
    (if seen.contains x then 1 else 0) + duplicateNames rest (x :: seen)

/-- The 16 bytes of an outcome entry (R264). -/
def outcomeBytes (o : Outcome) : Bytes :=
  toLE 8 o.stamp ++ toLE 1 o.status ++ zeros 1 ++ toLE 2 o.detail ++ toLE 3 o.shard ++ zeros 1

/-- The completion of a mutation command once every member has its outcome (R265, R319), or of a model run whose outputs are
delivered (R358, R362). -/
def State.finishMutation (s : State) (r : Req) (ms : List OMember) (io : HostIO) : State :=
  let os := ms.map fun m => m.outcome.getD ⟨0, stRetry, 0, m.msg.shard⟩
  let stamped := (os.filter (·.stamp != 0)).length
  let data := os.flatMap outcomeBytes
  let one := ((os.head?.map (·.stamp)).getD 0)
  let scatter := r.opcode = 6
  let value := if os.length = 1 then one else if scatter then duplicateNames ms [] else 0
  let (status, detail) := match os.find? (·.status != stOk) with
    | none => (stOk, 0)
    | some o =>
      if 0 < stamped then (stPartial, 0) else (o.status, if o.status = stInvalid then o.detail + 0x100 else o.detail)
  match (if r.opcode = 8 then s.run? r.num else none) with
  | some x =>
    let out := x.output ++ data
    ({ s with runs := s.runs.filter (·.num != r.num) } : State).complete r
      { status := if os.all (·.status == stOk) then stOk else stPartial, detail := 0, value := le r.entry 56 4,
        value2 := x.tokensOut, data := out, dataReturned := out.length } io
  | none =>
    s.complete r
      { status := status, detail := detail, value := value, value2 := stamped, data := data, dataReturned := data.length } io

/-- An outcome comes in for a member of one of this node's requests; the last one completes it. -/
def State.takeOutcome (s : State) (k : Key) (i : Nat) (o : Outcome) (io : HostIO) : State :=
  match (s.req? k.num).filter fun _ => k.origin == s.nodeId with
  | none => s
  | some r =>
    match r.body with
    | .mutation ms =>
      let ms := ms.mapIdx fun j m => if j = i && m.outcome.isNone then { m with outcome := some o } else m
      if ms.all (·.outcome.isSome) then s.finishMutation r ms io
      else s.modReq k.num fun r => { r with body := .mutation ms }
    | _ => s

/-- MEMBER_OUTCOME_RECEIVE (R35, R264, R265): `m` is none for the internal path. -/
def execMemberOutcomeReceive (m : Option OutcomeMsg) (io : HostIO) (t : Nat) (s : State) : Result :=
  let s := s.at t
  match m with
  | some x => .next (s.takeOutcome x.key x.index x.outcome io)
  | none =>
    match s.eng.inOutcomes with
    | [] => .next s
    | x :: rest => .next ((s.modEng fun e => { e with inOutcomes := rest }).takeOutcome x.key x.index x.outcome io)

/-- MEMBER_OUTCOME_QUERY (R537): the origin asks a reachable owner for the outcome of a delivered member; an owner that does not
know the member gets it again as new. -/
def execMemberOutcomeQuery (num idx : Nat) (r : QueryReply) (io : HostIO) (t : Nat) (s : State) : Result :=
  let s := s.at t
  let k : Key := ⟨s.nodeId, num⟩
  match s.req? num with
  | none => .next s
  | some q =>
    match q.body with
    | .mutation ms =>
      match ms[idx]? with
      | none => .next s
      | some m =>
        let owner := (s.ownerOf m.msg.shard).getD s.nodeId
        if m.outcome.isSome || !m.delivered || !s.reachable owner then .next s
        else
          let s := s.modReq num fun q => { q with body := .mutation (ms.mapIdx fun j x => if j = idx then { x with queried := true } else x) }
          let s := s.sendWork (workTag k q.fn q.qosClass q.opcode owner m.msg.shard 0) (.outcomeQuery k idx)
          match r, s.coll? q.collection with
          | .found o, _ => .next (s.takeOutcome k idx o io)
          | .inProgress, _ => .next s
          | .unknown, some c => .next (s.sendMember c q.opcode m.msg)
          | .unknown, none => .next s
    | _ => .next s

/-! ### GATHER (R308 to R314, R577) -/

/-- A group's descriptor in a row (R167). -/
def rowDescriptor (g : QGroup) : Bytes := toLE 1 g.scale ++ toLE 1 g.zero ++ toLE 2 g.rowSum

/-- Escape entries of a row in ascending index (R167). -/
def rowEscapes : Nat → List QGroup → Bytes
  | _, [] => []
  | base, g :: rest =>
    (List.range g.codes.length).flatMap (fun i => match g.escapes.find? (·.1 == i) with
      | some e => toLE 2 (base + i) ++ toLE 2 (bf16Encode e.2)
      | none => []) ++ rowEscapes (base + g.codes.length) rest

/-- A stored refinement record (R167). -/
def encodeRow (c : CollSpec) (r : Row) : Bytes :=
  let b := toLE 8 r.id ++ toLE 4 (fp32Encode r.norm 298) ++ toLE 2 (escapesOf r.groups) ++ toLE 2 r.lex.length ++
    toLE 4 r.list ++ toLE 4 r.second ++ toLE 1 c.group ++ toLE 1 (b2n (!r.lex.isEmpty)) ++ zeros 6 ++
    r.groups.flatMap (fun g => g.codes.flatMap fun x => toLE 1 x) ++ r.groups.flatMap rowDescriptor ++
    rowEscapes 0 r.groups ++ r.lex.flatMap fun x => toLE 4 x.1 ++ toLE 2 (bf16Encode x.2) ++ zeros 2
  b ++ zeros (roundUp b.length 64 - b.length)

/-- What a shard of this node answers for one index at its current counter value (R304, R310, R577). -/
def State.gatherLocal (s : State) (c : Coll) (form name shard : Nat) (byRef : Bool) : IndexReply :=
  match s.shard? shard with
  | none => .unreached
  | some d =>
    if d.forwardTo.isSome || d.lost then .unreached
    else
      match d.named byRef name with
      | none => if byRef then .range else .never
      | some x =>
        match d.rowAt x d.counter with
        | .missing true => .never
        | .missing false => .deleted
        | .wait => .unreached
        | .row r _ =>
          if x.lost then .lost
          else .row (x.num + shard * 2 ^ 35)
            (if form = 0 then encodeRow c.spec r else (qValues r.groups).flatMap fun v => toLE 2 (bf16Encode v))

/-- R311: the largest row of the collection in a form. -/
def gatherWidth (c : CollSpec) (form : Nat) : Nat :=
  if form = 1 then 2 * c.dimensions
  else
    let g := 32 * 2 ^ c.group
    roundUp (32 + c.dimensions + 4 * (c.dimensions / g) + c.dimensions / 8 + (if c.lexical then 2048 else 0)) 64

def isReply (k : Nat) : IndexReply → Bool
  | .row _ _ => k == 0 | .never => k == 1 | .deleted => k == 2 | .range => k == 3 | .lost => k == 4 | .unreached => k == 5
  | .poolLost => k == 6

/-- The node that a GATHER's indices of a shard go to: its owner, or where a shard that moved away from here is now (R50). -/
def State.gatherOwner (s : State) (shard : Nat) : Option Nat :=
  match (s.shard? shard).bind (·.forwardTo) with
  | some n => some n
  | none => s.ownerOf shard

/-- A pool that holds one of the rows failed while the request was reading (R500): it was admitted before the loss. -/
def State.gatherPoolLost (s : State) (r : Req) (rows : List (Option (Shard × Slot))) : Bool :=
  rows.any fun x => match x with
    | none => false
    | some (d, y) => match d.rowAt y d.counter with
      | .row _ (.t3 p) => match s.pool? p with
        | some q => q.st == .lost && decide (r.admittedAt ≤ q.lostAt)
        | none => false
      | _ => false

/-- Rows whose home differs from their collection's placement (R321, R416). -/
def State.misplaced (s : State) : Nat :=
  s.shards.foldl (fun n d =>
    let t3 := ((s.coll? d.coll).bind (·.placement)).isSome
    n + (d.slots.filter fun x => match x.home with | .formation => false | .t2 => t3 | .t3 _ => !t3).length) 0

/-- Promote the rows returned from T3 (R314): each is marked for migration to T2 when the function's quota takes it. -/
def State.promote (s : State) (f : Nat) (c : Coll) : List IndexReply → State
  | [] => s
  | .row ref _ :: rest =>
    let shard := ref / 2 ^ 35
    let slot := ref % 2 ^ 35
    match (s.shard? shard).bind (·.slot? slot) with
    | some x =>
      let n := rowBytes c.spec x.row
      match x.home, x.migration with
      | .t3 _, none =>
        if !s.fits f .t2 n then (s.quotaRefuse f 2).promote f c rest
        else if c.placement.isSome && decide (4194304 ≤ s.misplaced) then s.promote f c rest
        else
          ((s.modFn f (·.charge .t2 n)).modShard shard fun d =>
            { d with slots := modWhere d.slots (·.num == slot) fun x =>
              { x with migration := some ⟨.t2, false, 0, none, 0, some f, n⟩ } }).promote f c rest
      | _, _ => s.promote f c rest
    | none => s.promote f c rest
  | _ :: rest => s.promote f c rest

/-- GATHER (R308 to R314): checked; the shards of peers are asked; then every index is read at one read stamp per shard, and the
rows, the drop counts and the completion are written. This node's shards give their stamps at their ledger arbiters, and rows in T2
come over their channels in turn (R38, R55). `peers` and `stamps` are what peer owners answered, by position and by shard. It waits
while a row it reads waits for an accumulate. A pool that fails meanwhile ends it with ST_POOL_LOST, unless retry_allowed lets it
read again (R500). -/
def execGather (num : Nat) (peers : List (Nat × IndexReply)) (stamps : List (Nat × Nat)) (io : HostIO) (t : Nat) (s : State) :
    Result :=
  let s := s.at t
  let e := s.entryOf num
  let kind := byteAt e 48
  let form := byteAt e 49
  let flags := byteAt e 50
  let count := le e 52 4
  let byRef := kind == 1
  let need := match s.collOf num with
    | some c => 64 + count * (16 + gatherWidth c.spec form) + (if bit flags 0 then 16 * c.spec.shards else 0)
    | none => 0
  let read := fun (s : State) (r : Req) (inp : Bytes) (c : Coll) =>
    let names := readIds inp 0 count
    let shardOf := fun n => memberShard c byRef n
    let inColl := fun n => !byRef || (decide (n < 2 ^ 59) && decide (c.spec.firstShard ≤ shardOf n) &&
      decide (shardOf n < c.spec.firstShard + c.spec.shards))
    let here := fun n => s.gatherOwner (shardOf n) == some s.nodeId
    let waits := names.any fun n => inColl n && here n && match (s.shard? (shardOf n)).bind fun d => (d.named byRef n).map fun x =>
      d.rowAt x d.counter with | some .wait => true | _ => false
    if waits then s
    else
    let w : Work := .gather ⟨s.nodeId, num⟩
    let channels := ((names.filter fun n => inColl n && here n).filterMap fun n =>
      (s.shard? (shardOf n)).bind fun d => (d.named byRef n).bind fun y => s.rowRead d y d.counter).eraseDups
    let ledgers := ((names.filter fun n => inColl n && here n).map shardOf).eraseDups
    let s := s.requestOnly (1 + s.homeTile num) false w channels
    if !s.turnsAll w channels then ledgers.foldl (State.joinLedger · (.pass (.req ⟨s.nodeId, num⟩))) s
    else s.passLedgers ledgers (.pass (.req ⟨s.nodeId, num⟩)) fun s =>
      let s := s.useGrants w channels
      let replies := names.zipIdx.map fun x =>
        if !inColl x.1 then .range
        else if here x.1 then s.gatherLocal c form x.1 (shardOf x.1) byRef
        else ((peers.find? (·.1 == x.2)).map (·.2)).getD .unreached
      let own := names.map fun n => if inColl n && here n then
        (s.shard? (shardOf n)).bind fun d => (d.named byRef n).map fun y => (d, y) else none
      if (r.body == .gatherWait && !bit (byteAt e 8) 0 && s.gatherPoolLost r own) || replies.any (isReply 6) then
        s.complete r (.bare stPoolLost 0) io
      else
      let drop := fun k => (replies.filter (isReply k)).length
      let dups := (names.zipIdx.filter fun x => (names.take x.2).contains x.1).length
      let partial_ := decide (0 < drop 5)
      let degraded := !partial_ && decide (0 < drop 4)
      let status := if partial_ then stPartial else if degraded then stDegraded else stOk
      let fl := word [(1, b2n partial_), (2, b2n degraded)]
      let rows := replies.zipIdx.flatMap fun x => match x.1 with
        | .row ref b => toLE 4 x.2 ++ toLE 4 b.length ++ toLE 8 ref ++ b
        | _ => []
      let touched := c.shardIds.filter fun i => names.any fun n => inColl n && shardOf n == i
      let off := if bit flags 0 then roundUp (64 + rows.length) 16 else 0
      let table := if bit flags 0 then
          zeros (off - (64 + rows.length)) ++ touched.flatMap fun i =>
            match (if s.gatherOwner i == some s.nodeId then ((s.shard? i).filter (!·.lost)).map (·.counter) else (stamps.find? (·.1 == i)).map (·.2)) with
            | some st => toLE 3 i ++ zeros 5 ++ toLE 8 st
            | none => toLE 3 i ++ toLE 1 1 ++ zeros 12
        else []
      let head := layout 64
        [(0, toLE 4 count), (4, toLE 4 (drop 0)), (8, toLE 4 (drop 1)), (12, toLE 4 (drop 2)), (16, toLE 4 (drop 3)),
         (20, toLE 4 (drop 4)), (24, toLE 4 (drop 5)), (28, toLE 4 dups), (32, toLE 4 off),
         (36, toLE 4 (if bit flags 0 then touched.length else 0)), (40, toLE 1 fl), (41, toLE 1 status)]
      let data := head ++ rows ++ table
      let s := s.modFn r.fn fun f =>
        { f with gatherDrops := List.zipWith (· + ·) f.gatherDrops [drop 1, drop 2, drop 3, drop 4, drop 5] }
      let s := s.countReads c.spec.id (replies.filter fun x => match x with | .row _ _ => true | _ => false).length
      let s := own.foldl (fun s x => match x with
        | some (d, y) => match d.rowAt y d.counter with | .row _ h => if y.lost then s else s.cacheRow d.id y.num h | _ => s
        | none => s) s
      let s := s.complete r
        { status := status, detail := 0, value := drop 0, value2 := drop 1 + drop 2 + drop 3 + drop 4 + drop 5, flags := fl,
          data := data, dataReturned := data.length } io
      if bit flags 1 then s.promote r.fn c replies else s
  match s.req? num with
  | some r =>
    if r.opcode == 5 && r.body == .gatherWait then
      match s.coll? r.collection with
      | some c => .next (read s r (slice (io.input.getD []) 0 (le e 24 4)) c)
      | none => .next (s.complete r (.bare stRetry 0) io)
    else
      .next (s.dataCommit num 5 io [(51, 1), (56, 72)]
        [(48, decide (kind < 2)), (49, decide (form < 2)), (50, decide (flags < 4))] .named (some 2) need fun s r inp =>
        match s.coll? r.collection with
        | none => s.complete r (.bare stInvalid 4) io
        | some c =>
          match lowestBad e [] [(24, decide (8 * count ≤ le e 24 4)), (52, decide (1 ≤ count) && decide (count ≤ 65536))] with
          | some o => s.complete r (.bare stInvalid o) io
          | none =>
            let names := readIds inp 0 count
            match (if byRef then none else names.findIdx? (· == 0xFFFFFFFFFFFFFFFF)) with
            | some i => s.badInput r (8 * i) io
            | none =>
              let owners := (names.filterMap fun n => s.gatherOwner (memberShard c byRef n)).eraseDups.filter (· != s.nodeId)
              if owners.isEmpty then read s r inp c
              else
                let k : Key := ⟨s.nodeId, num⟩
                let s := owners.foldl (fun s o => s.sendWork (workTag k r.fn r.qosClass 5 o 0xFFFFFF 0)
                  (.gatherShare k c.spec.id ((names.filter fun n => s.gatherOwner (memberShard c byRef n) == some o).map
                    fun n => (n, byRef)))) s
                s.modReq num fun r => { r with body := .gatherWait })
  | none => .next (s.dropWork (· == .gather ⟨s.nodeId, num⟩))

end Sys2Proof.Machine
end

