-- ==== Sys2Proof/Machine/Ordering.lean ====
section
/-! DEFINITION. Meanings of BARRIER and FLUSH (R73 to R76, R134, R434, R435), of the age arbiters' grant (R55 to R58, R83,
R93) and of the end of a background window (R40). -/

namespace Sys2Proof.Machine

open Sys2Proof

/-! ### BARRIER (R73 to R76, R134) -/

/-- Barriers whose request has ended impose no order any more (R73, R74, R76). -/
def State.sweepBarriers (s : State) : State :=
  let held := fun (n : Nat) => (s.req? n).isSome
  let keep := fun (u : Queue) => ({ u with barrier := u.barrier.filter held,
                                           shardBarriers := u.shardBarriers.filter fun x => held x.1 } : Queue)
  { s with queues := s.queues.map keep }

/-- The shard a BARRIER names. -/
def barrierTarget (e : Bytes) : Nat := le e 52 3

/-- BARRIER_QUEUE (R73, R76, R134): a queue-mode BARRIER is checked, and waits for the commands before it; an unlisted mode is
answered here. -/
def execBarrierQueue (num : Nat) (io : HostIO) (t : Nat) (s : State) : Result :=
  let s := s.at t
  let e := s.entryOf num
  let mode := byteAt e 48
  if mode = 1 then .next s
  else
    .next (s.dataCommit num 0x0B io [(49, 3), (55, 73)] [(48, decide (mode < 2)), (52, barrierTarget e == 0)] .zero none 0
      fun s r _ => s.modReq r.num fun r => { r with body := .barrierQ }).sweepBarriers

/-- BARRIER_QUEUE_RELEASE (R73): every command before the barrier has its completion; the barrier's is written and admission
resumes. -/
def execBarrierQueueRelease (q : Nat) (io : HostIO) (t : Nat) (s : State) : Result :=
  let s := s.at t
  match s.reqs.find? fun r => r.queue == q && r.body == .barrierQ with
  | none => .next s
  | some r =>
    if s.reqs.any fun x => x.queue == q && decide (x.seq < r.seq) then .next s
    else .next (s.complete r { status := stOk, detail := 0, value := 0 } io).sweepBarriers

/-- An earlier command of the queue may still be stamped on the shard (R74): a mutation not yet spread to its members, one with
a member there and no outcome, or a model command of the shard's collection. -/
def Req.mutates (r : Req) (shard coll : Nat) : Bool :=
  match r.body with
  | .mutation ms => ms.any fun m => m.msg.shard == shard && m.outcome.isNone
  | _ => (r.opcode == 7 || r.opcode == 9 || [2, 3, 4, 6].contains r.opcode) && r.collection == coll

/-- BARRIER_SHARD (R50, R68, R74, R76, R134): a shard-mode BARRIER is checked; once every earlier mutation of its ring on the shard is
stamped it passes the shard's ledger arbiter behind what waits there, and completes with the counter value F. For a shard that a
peer serves, by the map or since a move, `reply` is the peer's answer: F, or none when forwarding ended. -/
def execBarrierShard (num : Nat) (reply : Option (Option Nat)) (io : HostIO) (t : Nat) (s : State) : Result :=
  let s := s.at t
  let e := s.entryOf num
  let shard := barrierTarget e
  let owner := s.serverOf shard
  let w : LedgerWhat := .barrier ⟨s.nodeId, num⟩
  let pass := fun (s : State) (r : Req) (sent : Bool) =>
    let coll := ((s.colls.find? fun c => c.shardIds.contains shard).map (·.spec.id)).getD 0
    if s.reqs.any fun x => x.queue == r.queue && decide (x.seq < r.seq) && x.mutates shard coll then
      s.modReq r.num fun r => { r with body := .barrierShard sent }
    else if owner == some s.nodeId then
      match s.shard? shard with
      | some d =>
        (s.modReq r.num fun r => { r with body := .barrierShard false }).passLedgers [shard] w fun s =>
          (s.complete r { status := stOk, detail := 0, value := d.counter } io).sweepBarriers
      | none => (s.complete r (.bare stRetry 0) io).sweepBarriers
    else
      match sent, reply with
      | true, some (some f) => (s.complete r { status := stOk, detail := 0, value := f } io).sweepBarriers
      | true, some none => (s.complete r (.bare stRetry 0) io).sweepBarriers
      | true, none => s
      | false, _ =>
        (s.sendWork (workTag ⟨s.nodeId, num⟩ r.fn r.qosClass 0x0B (owner.getD 0) shard 0)
          (.barrierShare ⟨s.nodeId, num⟩ shard)).modReq r.num fun r => { r with body := .barrierShard true }
  match (s.req? num).map (·.body), s.req? num with
  | some (Body.barrierShard sent), some r => .next (pass s r sent)
  | _, _ =>
    if byteAt e 48 ≠ 1 then .next s
    else
      .next (s.dataCommit num 0x0B io [(49, 3), (55, 73)] [] .zero (if owner.isSome then some 6 else none) 0 fun s r _ =>
        if owner.isNone then s.complete r (.bare stInvalid 52) io else pass s r false).sweepBarriers

/-! ### FLUSH (R434, R435) -/

/-- A journal entry that has not been programmed. -/
def JEntry.unprogrammed (j : JEntry) : Bool := !j.void && (j.phase == .waiting || j.phase == .programming)

/-- A journal entry of a shard that a flush at `f` covers. -/
def JEntry.covered (j : JEntry) (x : Nat × Nat) : Bool :=
  j.shard == x.1 && j.kind != .nodeRecord && decide (1 ≤ j.stamp) && decide (j.stamp ≤ x.2)

/-- Nodes other than this one that serve shards of a collection: their owners, and those this node forwards to. -/
def State.otherOwners (s : State) (c : Coll) : List Nat :=
  (c.ownerNodes ++ c.shardIds.filterMap fun i => (s.shard? i).bind (·.forwardTo)).eraseDups.filter (· != s.nodeId)

/-- FLUSH (R434, R435): with a collection, a read stamp F at each of its shards, here and on its other owner nodes; with
collection 0, what lay in the write buffer at admission. It goes behind what waits at the ledger arbiters. -/
def execFlush (num : Nat) (io : HostIO) (t : Nat) (s : State) : Result :=
  let s := s.at t
  let k : Key := ⟨s.nodeId, num⟩
  let named := le (s.entryOf num) 4 4 != 0
  .next (s.dataCommit num 0x0C io [(48, 80)] [] .either (if named then some 1 else none) 0 fun s r _ =>
    match (if named then s.coll? r.collection else none) with
    | none =>
      let open_ := s.tier.journal.filter fun j => j.unprogrammed && j.inBuffer && decide (j.at_ ≤ r.admittedAt)
      s.modReq num fun r => { r with body := .flush [] true (open_.map (·.seq)) open_.length 0 }
    | some c =>
      let here := s.owned.filter (·.coll == c.spec.id)
      s.passLedgers (here.map (·.id)) (.pass (.req k)) fun s =>
        let stamps := here.map fun d => (d.id, d.counter)
        let n := (s.tier.journal.filter fun j => j.unprogrammed && stamps.any j.covered).length
        let s : State := { s with shards := modWhere s.shards (fun d => stamps.any (·.1 == d.id)) fun d =>
          { d with readers := d.readers ++ [(.req k, d.counter)] } }
        let s := s.modReq num fun r => { r with body := .flush stamps false [] n stamps.length }
        (s.otherOwners c).foldl (fun s o => s.sendWork (workTag k r.fn r.qosClass 0x0C o (soleShard (c.shardsAt o)) 0) (.flushShare k c.spec.id)) s)

/-- FLUSH_DONE (R434, R435): every covered entry is programmed into the journal area or the reserve, here and on every other
owner; `peers` is what each answered, entries and shards, or none where it could not be reached. -/
def execFlushDone (num : Nat) (peers : List (Nat × Option (Nat × Nat))) (io : HostIO) (t : Nat) (s : State) : Result :=
  let s := s.at t
  let k : Key := ⟨s.nodeId, num⟩
  match s.req? num with
  | none => .next s
  | some r =>
    match r.body with
    | .flush stamps all waiting count shards =>
      let busy := s.tier.journal.any fun j =>
        j.unprogrammed && (if all then waiting.contains j.seq else stamps.any j.covered)
      let others := if all then [] else match s.coll? r.collection with
        | some c => s.otherOwners c
        | none => []
      let answers := others.map fun o => (peers.find? (·.1 == o)).map (·.2)
      if busy || answers.any (·.isNone) then .next s
      else
        let s := stamps.foldl (fun s x => s.dropReader x.1 (.req k)) s
        let got := answers.filterMap id
        if got.any (·.isNone) then .next (s.complete r (.bare stRetry 0) io)
        else
          let xs := got.filterMap id
          .next (s.complete r
            { status := stOk, detail := 0, value := xs.foldl (fun n x => n + x.1) count,
              value2 := xs.foldl (fun n x => n + x.2) shards } io)
    | _ => .next s

/-! ### Age arbiters (R40, R55 to R58) -/

/-- Innkeeper's copy of a mailbox at its grant (R83): the request area and the host input buffer; a version, an opcode or a
command that no row serves completes at once (R91). -/
def State.grantMailbox (s : State) (r : Nat) (input : Option Bytes) : State :=
  let s := s.modMbox r fun m =>
    { m with st := .busy, committing := true, grantAt := s.now, input := if r = 128 then m.input else input,
             copy := if r = 128 then m.copy else memReadAll m.req 0x100 1792 }
  match s.unserved (s.mbox r).copy with
  | some (st, d) => s.refuse r st d
  | none => s

/-- Arbiters whose grant is a row of its own: the power sequencer's and the recoveries', the stack ports', the ledgers'. -/
def grantsElsewhere (arb : Nat) : Bool :=
  arb == 0xA1 || arb == 0xA2 || (decide (0x40 ≤ arb) && decide (arb < 0x60)) || decide (0x100 ≤ arb)

/-- A request whose grant is the row that scores its level-2 batch (R186). -/
def Work.batched : Work → Bool
  | .level2 _ _ => true
  | _ => false

/-- AGE_ARBITER_GRANT (R55 to R58): a free resource is granted to the oldest waiting request that the ceilings allow (R40). At
the mailbox arbiter the commit step begins: Innkeeper copies the request area and the host input buffer (R83). -/
def execAgeArbiterGrant (arb : Nat) (input : Option Bytes) (t : Nat) (s : State) : Result :=
  let s := if arb = 0x80 then (s.at t).requestBatches else s.at t
  let a := s.arb arb
  if grantsElsewhere arb || !a.granted.isEmpty then .next s
  else
    match s.arbPick a with
    | none => .next s
    | some r =>
      if r.work.batched then .next s
      else
        let s := s.arbGive arb r true
        match r.work with
        | .mailbox m => .next (s.grantMailbox m input)
        | _ => .next s

/-- BACKGROUND_WINDOW (R40): a resource's window of 10 ms ends; its counts of time or cost held start again. -/
def execBackgroundWindow (arb t : Nat) (s : State) : Result :=
  let s := s.at t
  let whole := 10 * Config.ticksPerMs
  let counted := (s.ceilingPct arb).isSome || (decide (0x100 ≤ arb) && decide (arb < 0x108))
  if counted && decide ((s.arb arb).windowStart + whole ≤ s.now) then
    .next (s.modArb arb fun a => { a with windowStart := s.now / whole * whole, bgHeld := 0, bgBy := [], rbHeld := 0, sent := 0 })
  else .next s

/-! ### Background work (R38, R40 to R42) -/

/-- The requester index that background work is counted under at an arbiter: the manual gives none (log 89). -/
def backgroundRequester : Nat := 255

/-- The longest locked sequence of background work, in AO ticks (R42): 8 µs on a flash bus, 2 µs at a stack port; at the coarse field
and the tensor clusters the manual gives no bound (log 39). -/
def sequenceBound (arb : Nat) : Option Nat := if arb < 0x20 then some 200 else if 0x40 ≤ arb && arb < 0x60 then some 50 else none

/-- Background work holds its grant for one locked sequence; when it takes several of them, the time they hold in all is counted
(R40). The times are free values, one sequence's within R42. -/
def State.holdBackground (s : State) (several : Bool) (w : Work) (arb : Nat) : State :=
  let (i, s) := s.takeFree
  let n := Config.freeNat i
  let held := match sequenceBound arb with
    | some most => if several then n else n % (most + 1)
    | none => n
  (s.arbEnd arb w).modArb arb (·.addHeld w.activity held)

/-- Background work on the resources of some arbiters (R38, R40, R42): it requests each of them and waits by age, with the ceilings;
when every one is its own the work is done and its sequences end. Until then its row comes again. -/
def State.background (s : State) (arbs : List Nat) (kind target : Nat) (several : Bool) (f : State → State) : State :=
  let w : Work := .upkeep kind target
  let s := s.requestAt backgroundRequester true w arbs
  if arbs.all (s.turnsTo w) then
    let s := arbs.foldl (State.takeGrant · w) s
    arbs.foldl (State.holdBackground · several w) (f s)
  else s

/-- Background work that is no longer wanted. -/
def State.dropBackground (s : State) (kind target : Nat) : State := s.dropWork (· == .upkeep kind target)

end Sys2Proof.Machine
end

