-- ==== Sys2Proof/Machine/Admission.lean ====
section
/-! DEFINITION. Meanings of the schedulers and of interrupts by time: admission (R126 to R129, R444 to R449, R484, R485),
coalescing and the interrupt ceiling (R452 to R456), egress with its timing wheel and credits (R476, R486 to R490). -/

namespace Sys2Proof.Machine

open Sys2Proof

/-! ### Over peak (R449, R455) -/

/-- An over-peak event: when over-peak begins, the interrupt ceiling bucket is filled to its depth (R449, R455). -/
def State.overPeakEvent (s : State) (f : Nat) : State :=
  s.modFn f fun x =>
    if x.overPeak then { x with overPeakAt := s.now }
    else
      { x with overPeak := true, overPeakAt := s.now, overPeakEvents := x.overPeakEvents + 1, ceiling := x.irqCeiling * 25000,
               ceilingTo := s.now }

/-- OVER_PEAK_END (R449, R455): 1 ms without an event; every message the ceiling holds is sent. -/
def execOverPeakEnd (fn t : Nat) (s : State) : Result :=
  let s := s.at t
  let x := s.fn fn
  if x.overPeak && decide (x.overPeakAt + Config.ticksPerMs ≤ s.now) then
    .next ((s.modFn fn fun x => { x with overPeak := false }).releaseHeld fn true x.heldVecs)
  else .next s

/-- INTERRUPT_CEILING_REFILL (R455): the bucket fills, and the held messages are sent in order, one for each whole token. -/
def execInterruptCeilingRefill (fn t : Nat) (s : State) : Result :=
  let s := s.at t
  if (s.fn fn).overPeak then
    let s := s.modFn fn (·.fillCeiling s.now)
    .next (s.releaseHeld fn false (s.fn fn).heldVecs)
  else .next s

/-- COALESCE_DELAY_EXPIRY (R452): the delay of a ring with unsignalled completions has passed. -/
def execCoalesceDelayExpiry (q t : Nat) (s : State) : Result :=
  let s := s.at t
  match s.queue? q with
  | none => .next s
  | some u =>
    if 0 < u.pendingMsgs && u.coalDelay != 0 && decide (Config.ticksPerUs * u.coalDelay.toNat ≤ s.now - u.firstAt) then
      .next (s.requestMsg q)
    else .next s

/-! ### Admission (R126 to R129, R445, R446, R484, R485) -/

/-- Everything of R484 but the peak bucket, for a function queue; admission waits in Lull and Calm (R125), before ready and
during a reset (R79, R457), and behind a queue-mode BARRIER (R73). -/
def State.queueReady? (s : State) (u : Queue) : Bool :=
  let x := s.fn u.fn
  u.st == .active && decide (u.sqHead ≠ u.sqTail) && decide (u.outstanding < u.cqSize - 1) && s.freeNum.isSome && x.ready &&
    !x.resetBusy && u.barrier.isNone && (s.pwr.st == .gale || s.pwr.st == .breeze)

/-- The index of the round-robin list of a class and round. -/
def roundIndex (cls : Nat) (committed : Bool) : Nat := 2 * cls + b2n committed

/-- Class and round of an eligible queue: none when it is not eligible (R445, R446, R448, R484). -/
def State.admClass (s : State) (q : Nat) : Option Nat :=
  if 3584 ≤ q then
    if s.sched.reserved.any (·.queue == q) then some (roundIndex (if q < 4032 then (q - 3584) / 56 else 0) true) else none
  else
    match s.queue? q with
    | none => none
    | some u =>
      let x := (s.fn u.fn).fill s.now
      if s.queueReady? u && decide (25000000 ≤ x.admPeak) then some (roundIndex x.qosClass (decide (25000000 ≤ x.admCommit)))
      else none

/-- Insert a number in ascending order, once. -/
def insertNum (n : Nat) : List Nat → List Nat
  | [] => [n]
  | x :: rest => if n < x then n :: x :: rest else if n = x then x :: rest else x :: insertNum n rest

/-- The queues that hold an unadmitted entry, ascending. -/
def State.admQueues (s : State) : List Nat :=
  ((s.queues.filter fun (u : Queue) => decide (u.sqHead ≠ u.sqTail)).map (·.num) ++ s.sched.reserved.map (·.queue)).foldl
    (fun l n => insertNum n l) []

/-- The eligible queues of one list: those that were in it keep their order, the others follow. -/
def refreshed (cls : List (Nat × Nat)) (i : Nat) (old : List Nat) : List Nat :=
  let here := (cls.filter fun x => x.2 == i).map (·.1)
  let kept := old.filter fun q => here.contains q
  kept ++ here.filter fun q => !kept.contains q

/-- A queue keeps its place in its list. -/
def staysIn (cls : List (Nat × Nat)) (old : List (List Nat)) (q : Nat) : Bool :=
  match cls.find? fun x => x.1 == q with
  | some x => (old.getD x.2 []).contains q
  | none => false

/-- The round-robin lists brought up to date: a queue no longer eligible in a list leaves it, its deficit 0; one newly eligible
joins the end, lower numbers first. -/
def State.admRefresh (s : State) : State :=
  let cls := s.admQueues.filterMap fun q => (s.admClass q).map fun i => (q, i)
  let old := s.sched.admLists
  let lists := (List.range 16).map fun i => refreshed cls i (old.getD i [])
  let opened := (List.range 16).map fun i =>
    s.sched.admOpen.getD i false && (old.getD i []).head? == (lists.getD i []).head?
  let s := s.modSched fun c =>
    { c with admLists := lists, admOpen := opened, reservedDeficit := c.reservedDeficit.filter fun x => staysIn cls old x.1 }
  { s with queues := s.queues.map fun (u : Queue) => if staysIn cls old u.num then u else { u with deficit := 0 } }

/-- The list to serve: the committed round before the excess round, class 7 first (R446, R485). -/
def State.admServe (s : State) : Option Nat :=
  ((List.range 8).reverse.map (roundIndex · true) ++ (List.range 8).reverse.map (roundIndex · false)).find? fun i =>
    !(s.sched.admLists.getD i []).isEmpty

/-- Deficit of a queue. -/
def State.deficitOf (s : State) (q : Nat) : Nat :=
  if 3584 ≤ q then ((s.sched.reservedDeficit.find? (·.1 == q)).map (·.2)).getD 0 else ((s.queue? q).map (·.deficit)).getD 0

def State.setDeficit (s : State) (q n : Nat) : State :=
  if 3584 ≤ q then s.modSched fun c => { c with reservedDeficit := c.reservedDeficit.filter (·.1 != q) ++ [(q, n)] }
  else s.modQueue q fun u => { u with deficit := n }

/-- One step of the deficit round robin of list `i` (R485): its head takes its quantum when its visit begins; with a deficit of
1 spent the visit goes on, and with none left the next queue's begins. -/
def State.admVisit (s : State) (i q : Nat) : State :=
  let begun := s.sched.admOpen.getD i false
  let d := s.deficitOf q + (if begun then 0 else s.cfg.admQuantum.getD (i / 2) 4) - 1
  let s := s.setDeficit q d
  s.modSched fun c =>
    if d = 0 then
      { c with admLists := c.admLists.modify i fun l => l.drop 1 ++ [q], admOpen := c.admOpen.set i false }
    else { c with admOpen := c.admOpen.set i true }

/-- A queue passes its turn without an admission: it leaves the list, its deficit 0, and joins its end when eligible again. -/
def State.admSkip (s : State) (i q : Nat) : State :=
  (s.setDeficit q 0).modSched fun c =>
    { c with admLists := c.admLists.modify i fun l => l.filter (· != q) ++ [q], admOpen := c.admOpen.set i false }

/-- An entry targets a shard (R74); `input` is what its input buffer holds. -/
def State.targets (s : State) (e input : Bytes) (shard : Nat) : Bool :=
  let op := le e 0 2
  match s.colls.find? fun c => c.shardIds.contains shard with
  | none => false
  | some c =>
    let named := decide (le e 4 4 = c.spec.id)
    let count := le e 52 4
    if op = 1 || op = 7 || op = 8 || op = 9 || op = 12 then named
    else if op = 2 || op = 4 || op = 6 then
      let fmt := byteAt e (if op = 6 then 50 else 48)
      let es := splitEntries input (vectorBytes fmt c.spec.dimensions) (if count ≤ 4096 then count else 0) 0
      named && es.any fun x => memberShard c (op = 6 && byteAt e 49 == 1) (le input x.1 8) == shard
    else if op = 3 || op = 5 then
      named && (readIds input 0 (min count 65536)).any fun n => memberShard c (op = 5 && byteAt e 48 == 1) n == shard
    else op == 11 && byteAt e 48 == 1 && barrierTarget e == shard

/-- A data-path opcode (Table: data-path commands). -/
def dataOpcode (op : Nat) : Bool := decide (1 ≤ op) && decide (op ≤ 12)

/-- The collection whose rights a command is admitted under: its own, or for a shard-mode BARRIER its shard's (R131). -/
def State.rightsColl (s : State) (e : Bytes) : Nat :=
  if le e 0 2 = 11 then ((s.colls.find? fun c => c.shardIds.contains (barrierTarget e)).map (·.spec.id)).getD 0 else le e 4 4

/-- Admit one entry (R126, R129, R132, R441, R445): the head moves past it, tokens are taken, the request is created with the
rights and the collection's existence as they are now. An unknown opcode completes at once. A BARRIER holds admission from
here on (R73, R74). -/
def State.admitEntry (s : State) (u : Queue) (num : Nat) (e : Bytes) (cqOk : Bool) : State :=
  let f := u.fn
  let op := le e 0 2
  let c := s.rightsColl e
  let own := s.rights f c
  let exists_ := match s.coll? (le e 4 4) with | some c => c.st != .dropping | none => false
  let x := (s.fn f).fill s.now
  let committed := decide (25000000 ≤ x.admCommit)
  let s := s.modFn f fun _ =>
    { x with admPeak := if x.peakCmds = 0 then x.admPeak else x.admPeak - 25000000,
             admCommit := if committed && x.commitCmds != 0 then x.admCommit - 25000000 else x.admCommit }
  let r : Req :=
    { num := num, fn := f, qosClass := x.qosClass, queue := u.num, cmdId := le e 2 2, opcode := op, collection := le e 4 4,
      entry := slice e 0 128, rights := if own = 0 then 0 else own + 64, collOk := exists_, admittedAt := s.now,
      seq := s.nextOrder, body := .fresh }
  let s := s.modQueue u.num fun u =>
    { u with sqHead := (u.sqHead + 1) % u.sqSize, inFlight := u.inFlight + 1, admitted := u.admitted + 1,
             barrier := if op = 11 && byteAt e 48 != 1 then some num else u.barrier,
             shardBarriers := if op = 11 && byteAt e 48 == 1 then u.shardBarriers ++ [(num, barrierTarget e)] else u.shardBarriers }
  let s : State := { s with reqs := s.reqs ++ [r], nextNum := (num + 1) % 2 ^ 24, nextOrder := s.nextOrder + 1 }
  if dataOpcode op then s else s.complete r (.bare stUnsupported 1) ⟨none, true, cqOk⟩

/-- Functions with a queue that only its peak bucket holds back are over peak (R449). -/
def State.peakEvents (s : State) : State :=
  let held := (s.queues.filter fun u => s.queueReady? u && decide (((s.fn u.fn).fill s.now).admPeak < 25000000)).map (·.fn)
  held.eraseDups.foldl (fun s f => s.overPeakEvent f) s

/-- A reserved queue holds 1,024 commands, the last of which came from the port (R483). -/
def State.fullFrom (s : State) (port : Nat) : Bool :=
  let last := fun (q : Nat) => ((s.sched.reserved.filter (·.queue == q)).getLast?).any (·.port == port)
  s.sched.reserved.any fun (x : Reserved) =>
    decide (1024 ≤ (s.sched.reserved.filter (·.queue == x.queue)).length) && last x.queue

/-- Channel 0 credits withheld are granted on ports that no full queue holds back (R476, R483). -/
def State.grantOwed (s : State) : State :=
  (List.range 8).foldl (fun s p =>
    let n := (s.port p).owed
    if n = 0 || s.fullFrom p then s else (s.modPort p fun q => { q with owed := 0 }).emit (.credits p 0 n)) s

/-- A peer's shard-mode BARRIER is admitted (R50, R74): it waits at the ledger arbiter of its shard here, or follows the shard to
its new owner; at the fifth forwarding, or where the shard is unknown, it ends. -/
def State.admitBarrier (s : State) (g : Tag) : State :=
  let k : Key := ⟨g.originNode, g.requestNumber⟩
  let dead := fun (s : State) => s.sendWork (workTag k g.function g.qosClass 0x0D k.origin g.shard (g.hopCount + 1)) (.barrierAnswer k none)
  match s.shard? g.shard with
  | none => dead s
  | some d =>
    match d.forwardTo with
    | none => s.joinLedger (.barrier k) g.shard
    | some n =>
      if 4 ≤ g.hopCount then dead s
      else s.sendWork { g with ownerNode := n, hopCount := g.hopCount + 1 } (.barrierShare k g.shard)

/-- A forwarded command is admitted (R114, R483): it leaves its reserved queue, and its work may begin. -/
def State.admitForwarded (s : State) (q : Nat) : State :=
  match s.sched.reserved.find? fun (x : Reserved) => x.queue == q with
  | none => s
  | some x =>
    let s := s.modSched fun c => { c with reserved := c.reserved.erase x }
    if x.tag.kind = 0x0B then s.admitBarrier x.tag
    else if 1 ≤ x.tag.kind && x.tag.kind ≤ 8 then s.modSched fun c => { c with taken := c.taken ++ [x.tag] }
    else s

/-- ADMISSION (R126 to R129, R445 to R449, R484, R485): the scheduler admits the next entry of the queue whose turn it is.
`entry` is that entry as read from the ring, none where the read failed (R612, cause 4); `input` is its input buffer, from
which a shard-mode BARRIER's targets are known (R74). On a reserved queue the oldest forwarded command is admitted. In Lull and Calm
admission has stopped (R506). -/
def execAdmission (entry input : Option Bytes) (cqOk : Bool) (t : Nat) (s : State) : Result :=
  let asleep := s.pwr.st == .lull || s.pwr.st == .calm || !s.lullReady
  let s := (s.at t).peakEvents.admRefresh
  match (if asleep then none else s.admServe) with
  | none => .next s
  | some i =>
    match (s.sched.admLists.getD i []).head? with
    | none => .next s
    | some q =>
      if 3584 ≤ q then
        .next ((s.admVisit i q).admitForwarded q).grantOwed
      else
        match s.queue? q, s.freeNum, entry with
        | some _, some _, none => .next ((s.admSkip i q).queueError q 4)
        | some u, some num, some e =>
          if u.shardBarriers.any fun b => s.targets e (input.getD []) b.2 then .next (s.admSkip i q)
          else .next ((s.admVisit i q).admitEntry u num e cqOk)
        | _, _, _ => .next s

/-! ### Egress (R476, R486 to R490) -/

/-- Credits a frame needs: units of 64 bytes for its whole length (R476). -/
def Frame.units (f : Frame) : Nat := (64 + f.payload + 63) / 64

/-- The frame's channel holds the credits on the port. -/
def Port.hasCredits (q : Port) (f : Frame) : Bool := decide (f.units ≤ q.credits.getD f.channel 0)

/-- A frame of a function queue, which its function's buckets police (R486). -/
def Frame.policed (f : Frame) : Bool := decide (f.queue < 3584)

/-- The peak bucket of a frame's function holds its cost (R487). -/
def State.peakHolds (s : State) (f : Frame) : Bool :=
  let x := (s.fn f.tag.function).fill s.now
  !f.policed || x.peakMbps == 0 || decide (25 * s.frameCost f ≤ x.egPeak)

/-- The frame is committed: its function's committed bucket holds its whole cost, or no bucket polices it (R486, R487). -/
def State.frameCommitted (s : State) (f : Frame) : Bool :=
  let x := (s.fn f.tag.function).fill s.now
  !f.policed || x.commitMbps == 0 || decide (25 * s.frameCost f ≤ x.egCommit)

/-- Class of a frame's queue (R489). -/
def State.egClass (s : State) (f : Frame) : Nat :=
  if f.policed then (s.fn f.tag.function).qosClass else if f.queue < 4032 then (f.queue - 3584) / 56 else 0

/-- Queues whose head frame the peak bucket cannot pay go on the timing wheel, and their function is over peak (R449, R487). -/
def State.toWheel (s : State) (port : Nat) : List Frame → State
  | [] => s
  | f :: rest =>
    if s.peakHolds f || s.sched.wheel.any (fun w => w.1 == port && w.2.1 == f.queue) then s.toWheel port rest
    else
      let x := (s.fn f.tag.function).fill s.now
      let s := s.modSched fun c =>
        { c with wheel := c.wheel ++ [(port, f.queue, x.wheelSlot s.now (s.frameCost f))],
                 egOrder := c.egOrder.filter (· != (port, f.queue)), egOpen := c.egOpen.filter (· != (port, f.queue)) }
      (s.overPeakEvent f.tag.function).toWheel port rest

/-- Background and rebuild frames pass while a foreground frame waits only below their ceiling's share of the cost bytes sent in
the window (R40, R490, R560). -/
def State.fabricCeiling (s : State) (port : Nat) (heads : List Frame) (f : Frame) : Bool :=
  let a := s.arb (0x100 + port)
  let fg := fun (g : Frame) => !g.tag.background && g.tag.kind != 0x19
  if fg f || !heads.any fg then true
  else if f.tag.background then decide (a.bgHeld * 100 < s.cfg.fabricPct * a.sent)
  else decide (a.rbHeld * 100 < s.cfg.rebuildPct * a.sent)

/-- The deficit round robin over the sub-queues `l` of one class and round, head first (R489): a visit begins with the quantum;
a sub-queue that cannot pay its head frame ends its visit. -/
def State.egPick (s : State) (port : Nat) : Nat → List Frame → State × Option Frame
  | 0, _ => (s, none)
  | _, [] => (s, none)
  | fuel + 1, f :: rest =>
    let key := (port, f.queue)
    let had := ((s.sched.egDeficit.find? (·.1 == key)).map (·.2)).getD 0
    let d := had + (if s.sched.egOpen.contains key then 0 else s.cfg.egQuantum.getD (s.egClass f) 9216)
    let cost := s.frameCost f
    let put := fun (n : Nat) (visit : Bool) (c : Sched) =>
      { c with egDeficit := c.egDeficit.filter (·.1 != key) ++ [(key, n)],
               egOpen := c.egOpen.filter (· != key) ++ (if visit then [key] else []),
               egOrder := if visit then c.egOrder else c.egOrder.filter (· != key) ++ [key] }
    if cost ≤ d then (s.modSched (put (d - cost) true), some f)
    else (s.modSched (put d false)).egPick port fuel (rest ++ [f])

/-- The frame leaves (R476, R477, R487, R489): it takes credits and a sequence number, goes to the retry buffer, and its cost is
charged to its function's buckets and to the port's window. -/
def State.sendFrame (s : State) (port : Nat) (f : Frame) : State :=
  let q := s.port port
  let g : Frame := { f with seq := q.txSeq.getD f.channel 0 }
  let cost := s.frameCost f
  let committed := s.frameCommitted f
  let s := s.modPort port fun q =>
    { q with credits := q.credits.modify f.channel (· - f.units), txSeq := q.txSeq.modify f.channel fun n => (n + 1) % 2 ^ 32,
             retry := q.retry ++ [g], txBytes := q.txBytes + BitVec.ofNat 64 (64 + f.payload) }
  let s := if !f.policed then s else s.modFn f.tag.function fun x =>
    let x := x.fill s.now
    { x with egPeak := if x.peakMbps = 0 then x.egPeak else x.egPeak - 25 * cost,
             egCommit := if committed && x.commitMbps != 0 then x.egCommit - 25 * cost else x.egCommit }
  let s := s.modArb (0x100 + port) fun a =>
    { a with sent := a.sent + cost, bgHeld := a.bgHeld + (if f.tag.background then cost else 0),
             rbHeld := a.rbHeld + (if f.tag.kind = 0x19 then cost else 0) }
  let s := s.modSched fun c =>
    let left := match c.egress.find? fun x => x.1 == port && x.2 == f with | some x => c.egress.erase x | none => c.egress
    let more := left.any fun x => x.1 == port && x.2.queue == f.queue
    { c with egress := left,
             egDeficit := if more then c.egDeficit else c.egDeficit.filter (·.1 != (port, f.queue)),
             egOpen := if more then c.egOpen else c.egOpen.filter (· != (port, f.queue)),
             egOrder := if more then c.egOrder else c.egOrder.filter (· != (port, f.queue)) }
  (s.modPwr fun p => { p with frameAt := s.now }).emit (.frame port g)

/-- Whether a frame ready for the port lacks credits (R492). -/
def State.markCredits (s : State) (port : Nat) : State :=
  let lacks := (s.headFrames port).any fun f => !(s.port port).hasCredits f
  s.modPort port fun q => { q with creditBlocked := lacks && (q.st == .up || q.st == .narrow) }

/-- EGRESS_SEND (R476, R486 to R490): the next frame of a port: channel 3 first; then the committed round before the excess
round, class 7 first, by deficit round robin over cost bytes. -/
def execEgressSend (port t : Nat) (s : State) : Result :=
  let s := s.at t
  let q := s.port port
  if !(q.st == .up || q.st == .narrow) || decide (1048576 < q.retry.foldl (fun n f => n + 64 + f.payload) 0 + 4160) then .next s
  else
    let control := s.sched.egress.find? fun x => x.1 == port && x.2.channel == 3 && q.hasCredits x.2
    match control with
    | some x => .next ((s.sendFrame port x.2).markCredits port)
    | none =>
      let s := s.toWheel port (s.headFrames port)
      let heads := s.headFrames port
      let ready := heads.filter fun f =>
        q.hasCredits f && s.fabricCeiling port heads f && !s.sched.wheel.any fun w => w.1 == port && w.2.1 == f.queue
      let place := fun (f : Frame) => roundIndex (s.egClass f) (s.frameCommitted f)
      let orderOf := fun (f : Frame) => (s.sched.egOrder.findIdx? (· == (port, f.queue))).getD s.sched.egOrder.length
      let known := fun (l : List Frame) => (s.sched.egOrder.filterMap fun k => l.find? fun f => (port, f.queue) == k) ++
        l.filter fun f => orderOf f == s.sched.egOrder.length
      let rounds := (List.range 8).reverse.map (roundIndex · true) ++ (List.range 8).reverse.map (roundIndex · false)
      match rounds.find? fun i => ready.any fun f => place f == i with
      | none => .next (s.markCredits port)
      | some i =>
        let l := known (ready.filter fun f => place f == i)
        let s := s.modSched fun c => { c with egOrder := c.egOrder ++ (l.map fun f => (port, f.queue)).filter fun k => !c.egOrder.contains k }
        match s.egPick port (8 * l.length + 8) l with
        | (s, some f) => .next ((s.sendFrame port f).markCredits port)
        | (s, none) => .next (s.markCredits port)

/-- TIMING_WHEEL_SLOT (R488): a queue whose slot has come rejoins the round-robin lists of its class and round. -/
def execTimingWheelSlot (q port t : Nat) (s : State) : Result :=
  let s := s.at t
  .next (s.modSched fun c =>
    { c with wheel := c.wheel.filter fun w => !(w.1 == port && w.2.1 == q && decide (w.2.2 ≤ s.now)) })

end Sys2Proof.Machine
end

