-- ==== Sys2Proof/Machine/Upkeep.lean ====
section
/-! DEFINITION. Upkeep of shards: compaction, splits and merges (R289 to R296), tombstones, bitmap and row history (R282, R283,
R306, R613), formation (R153), row migration and placement (R321, R416), shard moves (R323), the T1 caches (R407 to R410). -/

namespace Sys2Proof.Machine

open Sys2Proof

/-! ### Lists -/

/-- Records put in 16 KiB pages, in order, each with its escapes (R165, R166). -/
def fillPages (size : Nat) : List ScanRec → Nat → List ScanRec → List (List ScanRec)
  | [], _, cur => if cur.isEmpty then [] else [cur]
  | r :: rest, esc, cur =>
    let e := esc + escapesOf r.groups
    if cur.isEmpty || 32 + (cur.length + 1) * size + 8 * e ≤ 16384 then fillPages size rest e (cur ++ [r])
    else cur :: fillPages size rest (escapesOf r.groups) [r]

/-- Bytes of the pages of a version (R165). -/
def Version.bytes (v : Version) : Nat := 16384 * v.pages.length

/-- The records of a list visible at `cut` with their births: its version's, but for lost pages, and the guestbook entries that the
version has not taken in (R276, R285, R290). -/
def LList.recordsAt (l : LList) (cut : Nat) : List (ScanRec × Nat) :=
  let v := l.versionAt cut
  let folded := (v.map (·.cut)).getD 0
  (match v with
    | some v => ((v.pages.zipIdx.filter fun x => !v.lostPages.contains x.2).flatMap (·.1)).map fun r => (r, v.cut)
    | none => []) ++
  (l.gb.filter fun e => decide (1 ≤ e.stamp) && decide (folded < e.stamp) && decide (e.stamp ≤ cut)).map fun e => (e.scan, e.stamp)

/-- Those the deletion filter passes at `cut` (R285, R290). -/
def Shard.keeps (d : Shard) (l : LList) (cut : Nat) : List ScanRec :=
  ((l.recordsAt cut).filter fun x => d.passes x.1.id x.2 cut).map (·.1)

/-- Records as a version of an epoch holds them (R162). -/
def versionRecords (epoch : Nat) (l : List ScanRec) : List ScanRec := l.map fun r => { r with guestbook := false, epoch := epoch }

/-- Bytes of list versions on a channel (R420). -/
def State.listBytes (s : State) (ch : Nat) : Nat :=
  s.lists.foldl (fun n l => n + l.versions.foldl (fun m v => if v.channel = ch then m + v.bytes else m) 0) 0

/-- The channel a new list gets: the fewest list-version bytes, the lowest number on equal counts (R420). -/
def State.homeChannel (s : State) : Nat :=
  s.usableChannels.foldl (fun b c => if s.listBytes c < s.listBytes b then c else b) (s.usableChannels.headD 0)

/-- The channel a compaction writes to: a new home when the old one holds over 110 % of the mean, or is out of service (R420). -/
def State.compactChannel (s : State) (ch : Nat) : Nat :=
  let cs := s.usableChannels
  let total := cs.foldl (fun n c => n + s.listBytes c) 0
  if !cs.contains ch || decide (11 * total < 10 * cs.length * s.listBytes ch) then s.homeChannel else ch

/-- The live lists of a shard. -/
def State.liveLists (s : State) (shard : Nat) : List LList := s.lists.filter fun l => l.shard == shard && l.retiredW.isNone

/-- Similarity of two sub-centroids under the collection's metric, computed exactly (R174). -/
def likeness (c : CollSpec) (a b : List QGroup) : Int := exactScore c a b (sqNorm (qValues b)) (sqNorm (qValues a))

/-- The neighbour entry of a list (R174, R175): the 32 nearest lists under its level-1 centroid and the 8 nearest to that. -/
def State.nearLists (s : State) (c : CollSpec) (d : Shard) (l : LList) : List Nat :=
  let own := d.centroids.getD l.l1 []
  let near := ((ranked ((d.centroids.zipIdx.filter (·.2 != l.l1)).map fun x => (likeness c own x.1, x.2))).take 8).map (·.2)
  let others := (s.liveLists d.id).filter fun x => x.id != l.id && (x.l1 == l.l1 || near.contains x.l1)
  ((ranked (others.map fun x => (likeness c l.centroid x.centroid, x.id))).take 32).map (·.2)

/-- Fill the neighbour entries of lists. -/
def State.linkLists (s : State) (c : CollSpec) (d : Shard) (ids : List Nat) : State :=
  { s with lists := modWhere s.lists (fun l => ids.contains l.id) fun l => { l with neighbours := s.nearLists c d l } }

/-- A row, a prior version, a tombstone or a retired list still names a list (R283, R295). -/
def State.listNamed (s : State) (i : Nat) : Bool :=
  let inRow := fun (r : Row) => r.list == i || r.second == i
  s.lists.any (fun l => l.id != i && l.successors.contains i) ||
    s.shards.any fun d => d.slots.any (fun x => inRow x.row) || d.tombs.any (fun t => t.listA == i || t.listB == i) ||
      d.hist.any fun e => match e.prior with | some p => inRow p.1 | none => false

/-- A freed list identifier is used again. -/
def State.reuseList (s : State) (i : Nat) : State :=
  ({ s with lists := s.lists.filter (·.id != i) } : State).modTier fun e => { e with freeLists := e.freeLists.filter (· != i) }

/-- Take a list identifier (R173, R295, R296): the oldest freed, once nothing names it any more; until then one never used; with
none of those left, the oldest freed that nothing names. -/
def State.takeList (s : State) : Option (Nat × State) :=
  let free := fun (i : Nat) => !s.listNamed i
  match s.tier.freeLists.head?.filter free with
  | some i => some (i, s.reuseList i)
  | none =>
    if s.tier.nextList < 16777216 then some (s.tier.nextList, s.modTier fun e => { e with nextList := e.nextList + 1 })
    else (s.tier.freeLists.find? free).map fun i => (i, s.reuseList i)

def State.takeLists (s : State) : Nat → Option (List Nat × State)
  | 0 => some ([], s)
  | n + 1 =>
    match s.takeList with
    | none => none
    | some (i, s) => (s.takeLists n).map fun x => (i :: x.1, x.2)

/-- A list as it is made, visible from `w` with one version of cut `cut`; its sub-centroid is `v`, quantised (R160, R171). -/
def freshList (id shard l1 : Nat) (v : List Int) (cut w channel : Nat) (pages : List (List ScanRec)) (gb : List GbEntry) : LList :=
  { id := id, shard := shard, l1 := l1, centroid := sq4 v, norm := scanNorm v, versions := [⟨1, cut, w, pages, channel, false, [], false⟩], gb := gb,
    chunks := gbChunks 0 0 gb, oldChunks := 0, urgent := false, closed := false, bornW := w, retiredW := none, successors := [],
    neighbours := [], degraded := false, channel := channel, probes := [], probedAt := none, admitHot := none, maint := none }

/-- A list version written now is stored in compressed blocks: the collection's compression is on, and the list was not probed in the
3,600 s before (R427). -/
def State.packs (s : State) (c : Coll) (l : LList) : Bool :=
  c.compress && !l.probedAt.any fun t => decide (s.now ≤ t + 3600 * Config.ticksPerS)

/-- Add a list and charge its version and chunks (R274, R412). -/
def State.addList (s : State) (c : Coll) (l : LList) : State :=
  let f := s.chargedFn c
  let pages := l.versions.foldl (fun n v => n + v.bytes) 0
  let s := if l.chunks = 0 then s else s.modFn f (·.charge .guestbook (16 * l.chunks))
  let s := if pages = 0 then s else (s.modFn f (·.charge .t2 pages)).programBytes l.channel pages
  { s with lists := s.lists ++ [l] }

/-! ### Planning (R289, R292, R293) -/

/-- Lists that a tombstone of kind 1 or 2 still waits for (R282, R295). -/
def State.tombLists (s : State) (t : Tomb) : List Nat :=
  (if t.pendA then s.resolve 64 t.listA else []) ++ (if t.pendB then s.resolve 64 t.listB else [])

/-- The triggers that hold for a list: urgent or not, and when each began to hold (Table: compaction triggers, R431). Where the manual
gives a trigger no time it is the time of the plan (log 98). -/
def State.triggers (s : State) (c : Coll) (d : Shard) (l : LList) : List (Bool × Nat) :=
  let secs := fun (n : Nat) => n * Config.ticksPerS
  let named := d.tombs.filter fun t => t.kind != 0 && (s.tombLists t).contains l.id
  let recs : List ScanRec := match l.versionAt d.counter with | some v => v.pages.flatMap (fun x => x) | none => []
  let dead := (recs.filter fun r => match d.slotOf r.id with | some x => x.bit | none => true).length
  let half := l.gb[(c.spec.guestbookEntries + 1) / 2 - 1]?
  (if l.urgent then [(true, s.now)] else []) ++
  (if 3 * 16777216 < 4 * s.tombCount then named.map fun t => (true, t.at_) else []) ++
  (if s.channelsOn.length * 32 * 2 ^ 30 * 75 ≤ s.journalArea * 100 then l.gb.map fun e => (true, e.at_) else []) ++
  (half.toList.map fun e => (false, e.at_)) ++
  ((l.gb.filter fun e => decide (e.at_ + secs 1800 < s.now)).map fun e => (false, e.at_ + secs 1800)) ++
  ((named.filter fun t => decide (t.at_ + secs 300 < s.now)).map fun t => (false, t.at_ + secs 300)) ++
  (if recs.length < 4 * dead then [(false, s.now)] else [])

/-- Whether a compaction is due, whether it is urgent, and the time of its oldest trigger. -/
def State.compactionDue (s : State) (c : Coll) (d : Shard) (l : LList) : Option (Bool × Nat) :=
  let ts := s.triggers c d l
  let urgent := ts.any (·.1)
  match (ts.filter fun x => x.1 == urgent).map (·.2) with
  | [] => none
  | x :: rest => some (urgent, rest.foldl min x)

/-- The partner of a merge (R293). -/
def State.partnerOf (s : State) (l : LList) : Option Nat :=
  l.neighbours.find? fun i => match s.list? i with
    | some x => x.retiredW.isNone && x.shard == l.shard && x.l1 == l.l1 && x.maint.isNone
    | none => false

/-- Two list identifiers can be had. -/
def State.listsFree (s : State) : Bool := (s.takeLists 2).isSome

/-- Live sub-centroids under a list's level-1 centroid. -/
def State.headsOf (s : State) (l : LList) : Nat := ((s.liveLists l.shard).filter (·.l1 == l.l1)).length

/-- What is planned for a list by its records visible at the cut: 0 compaction, 1 split, 2 merge (R172, R292). -/
def State.planKind (s : State) (d : Shard) (l : LList) : Nat :=
  let n := (d.keeps l d.counter).length
  let heads := s.headsOf l
  let split := (d.meanLists != 0 && decide (4 * d.meanRecords < n * d.meanLists)) || (decide (heads < d.l2) && decide (4 * 2048 < n))
  if split && decide (heads < 1024) && s.listsFree then 1
  else if !split && d.meanLists != 0 && decide (4 * n * d.meanLists < d.meanRecords) && (s.partnerOf l).isSome then 2
  else 0

/-- A list with its shard and its collection. -/
def State.listOf (s : State) (list : Nat) : Option (LList × Shard × Coll) := do
  let l ← s.list? list
  let d ← s.shard? l.shard
  let c ← s.coll? d.coll
  return (l, d, c)

/-- The ledger arbiter gives a plan its cut (R290 step 1, R294 step 1); what it becomes is settled there, and a merge takes its
partner into maintenance (R292, R293). -/
def State.cutMaint (s : State) (list : Nat) : State :=
  match s.listOf list with
  | none => s
  | some (l, d, _) =>
    let kind := s.planKind d l
    let partner := if kind = 2 then s.partnerOf l else none
    let s := s.modShard d.id fun d => { d with readers := d.readers ++ [(.maint list, d.counter)] }
    let s := s.modList list fun l => { l with maint := l.maint.map fun m => { m with kind := kind, cut := d.counter, partner := partner } }
    match partner, l.maint with
    | some p, some m => s.modList p fun x => { x with maint := some { m with kind := 3, cut := d.counter, partner := some list } }
    | _, _ => s

/-- COMPACTION_PLAN (R289, R290 step 1, R292 to R294): a list whose trigger holds is planned for maintenance, and passes the shard's
ledger arbiter as a query for its cut. -/
def execCompactionPlan (list t : Nat) (s : State) : Result :=
  let s := s.at t
  match s.listOf list with
  | none => .next s
  | some (l, d, c) =>
    let pass := fun (s : State) => s.passLedgers [d.id] (.pass (.maint list)) (·.cutMaint list)
    if l.retiredW.isSome || d.stage != .formed || d.forwardTo.isSome || d.lost then .next s
    else
      match l.maint, s.compactionDue c d l with
      | some m, _ => .next (if m.cut = 0 then pass s else s)
      | none, none => .next s
      | none, some (urgent, since) =>
        .next (pass (s.modList list fun l => { l with urgent := false, maint := some ⟨0, 0, urgent, none, s.now, since, false, none⟩ }))

/-- The plan of another list runs before this one (R289): urgent plans first, the others by their oldest trigger. One whose channel is
short of free blocks holds up nothing (R422). -/
def State.planBefore (s : State) (l : LList) (m : Maint) : Bool :=
  s.lists.any fun x => x.id != l.id && match x.maint with
    | some y =>
      y.kind != 3 && y.cut != 0 && !y.written && y.switched.isNone && !s.programsWait (s.compactChannel x.channel) &&
        (if y.urgent == m.urgent then decide (y.trigger < m.trigger) || (y.trigger == m.trigger && decide (x.id < l.id)) else y.urgent)
    | none => false

/-- What the writing of new versions takes (R38, R40): the flash channels read and written, and the stack port of the guestbook. -/
def State.writeArbs (s : State) (l : LList) : List Nat := [l.channel, s.compactChannel l.channel].eraseDups ++ [0x40 + s.stackOf l.id]

/-- The new pages of a maintenance are programmed: background work under the ceilings of its resources (R40, R290 step 2, R294 steps 2
and 3), in its turn (R289). -/
def State.writeMaint (s : State) (l : LList) (m : Maint) (kind : Nat) (arbs : List Nat) : State :=
  if s.planBefore l m then s
  else s.background arbs kind l.id true fun s =>
    s.modList l.id fun l => { l with maint := l.maint.map fun m => { m with written := true } }

/-- A maintenance passes the ledger arbiter for its switch (R290 step 3, R294 step 5). -/
def State.switchMaint (s : State) (list shard : Nat) (go : State → Coll → Shard → LList → Maint → State) : State :=
  s.passLedgers [shard] (.pass (.maint list)) fun s =>
    match s.listOf list, (s.list? list).bind (·.maint) with
    | some (l, d, c), some m => go s c d l m
    | _, _ => s

/-! ### Compaction (R290, R275, R282) -/

/-- Write the new version of a list and switch to it at W. -/
def State.compact (s : State) (c : Coll) (d : Shard) (l : LList) (m : Maint) : State :=
  let old := l.versionAt m.cut
  let epoch := (l.versions.foldl (fun n v => max n v.epoch) 0) + 1
  let pages := fillPages (scanBytes c.spec.projection) (versionRecords epoch (d.keeps l m.cut)) 0 []
  let ch := s.compactChannel l.channel
  let (w, s) := s.takeSwitch d.id
  let s := if pages.isEmpty then s
    else (s.modFn (s.chargedFn c) (·.charge .t2 (16384 * pages.length))).programBytes ch (16384 * pages.length)
  let v : Version := ⟨epoch, m.cut, w, pages, ch, (old.map (·.cached)).getD false, [], s.packs c l⟩
  (s.modList l.id fun l =>
    { l with versions := l.versions ++ [v], channel := ch, maint := some { m with switched := some w } }).dropReader d.id (.maint l.id)

/-- COMPACTION_SWITCH (R289, R290 steps 2 and 3, R409): the surviving records are written as the next version in the plan's turn; then
the list passes the ledger arbiter as a mutation, and the version becomes visible at W. It waits in Doldrums, whose write inhibit
holds its programs (R432), while its channel is short of free blocks (R422), and while the buffer takes no switch (R429). -/
def execCompactionSwitch (list t : Nat) (s : State) : Result :=
  let s := s.at t
  match s.listOf list with
  | none => .next s
  | some (l, d, _) =>
    match l.maint with
    | none => .next s
    | some m =>
      if m.kind != 0 || m.cut = 0 || m.switched.isSome then .next s
      else if s.pwr.doldrums || s.commitLimit || s.programsWait (s.compactChannel l.channel) then
        .next (s.quitLedger (.pass (.maint list)) d.id)
      else
        let s := if m.written then s else s.writeMaint l m 0x12 (s.writeArbs l)
        if ((s.list? list).bind (·.maint)).any (·.written) then .next (s.switchMaint list d.id State.compact) else .next s

/-- A list has switched to a version cut at or after `stamp`, no reader is below that switch, and its guestbook holds no entry of
the identifier from before `stamp` (R282, R283, R290 step 4). -/
def State.switchedPast (s : State) (d : Shard) (id stamp list : Nat) : Bool :=
  (s.resolve 64 list).all fun i => match s.list? i with
    | none => true
    | some l =>
      (l.versions.any fun v => decide (stamp ≤ v.cut) && d.drainedBelow v.switch) &&
        !l.gb.any fun e => e.scan.id == id && decide (1 ≤ e.stamp) && decide (e.stamp < stamp)

/-- The pending bits of a tombstone of kind 1 or 2 whose lists have switched are cleared (R282). -/
def State.clearPending (s : State) (d : Shard) (t : Tomb) : Tomb :=
  if t.kind = 0 then t
  else { t with pendA := t.pendA && !s.switchedPast d t.id t.stamp t.listA,
                pendB := t.pendB && !s.switchedPast d t.id t.stamp t.listB }

/-- COMPACTION_RELEASE (R275 step 5, R290 step 4): no reader is below W, so the entries above the cut go to fresh chunks, the old
version's pages are released and pending bits are cleared. -/
def execCompactionRelease (list t : Nat) (s : State) : Result :=
  let s := s.at t
  match s.list? list, (s.list? list).bind (fun l => s.shard? l.shard), ((s.list? list).bind fun l => s.shard? l.shard).bind fun d =>
      s.coll? d.coll with
  | some l, some d, some c =>
    match l.maint, l.maint.bind (·.switched) with
    | some m, some w =>
      if m.kind != 0 || !d.drainedBelow w then .next s
      else
        let f := s.chargedFn c
        let gb := l.gb.filter fun e => e.stamp == 0 || decide (m.cut < e.stamp)
        let n := gbChunks 0 0 gb
        let gone := (l.versions.filter fun v => decide (v.switch < w)).foldl (fun n v => n + v.bytes) 0
        let s := s.release f .t2 gone
        let s := if n = 0 then s else s.modFn f (·.charge .guestbook (16 * n))
        let s := s.modList list fun l =>
          { l with gb := gb, oldChunks := l.oldChunks + l.chunks, chunks := n, maint := none,
                   versions := l.versions.filter fun v => decide (w ≤ v.switch) }
        .next (s.modShard d.id fun d =>
          { d with tombs := modWhere d.tombs (fun t => (s.tombLists t).contains list) fun t => s.clearPending d t })
    | _, _ => .next s
  | _, _, _ => .next s

/-- GUESTBOOK_CHUNK_FREE (R275 step 6): the old chunks go, and their quota, once no near-bank scoring of the guestbook is in
progress. -/
def execGuestbookChunkFree (list : Nat) (s : State) : Result :=
  match s.list? list, ((s.list? list).bind fun l => s.shard? l.shard).bind fun d => s.coll? d.coll with
  | some l, some c =>
    let busy := s.arbs.any fun a => a.granted.any fun r => match r.work with | .nearBank _ _ i g => g && i == list | _ => false
    if l.oldChunks = 0 || busy then .next s
    else .next ((s.release (s.chargedFn c) .guestbook (16 * l.oldChunks)).modList list fun l => { l with oldChunks := 0 })
  | _, _ => .next s

/-- LIST_LENGTH_TICK (R292): every 10 s, the visible records of a shard over its lists. -/
def execListLengthTick (shard t : Nat) (s : State) : Result :=
  let s := s.at t
  match s.shard? shard with
  | none => .next s
  | some d =>
    if s.now < d.lenAt + 10 * Config.ticksPerS then .next s
    else
      let ls := s.liveLists shard
      let n := ls.foldl (fun n l => n + (d.keeps l d.counter).length) 0
      .next (s.modShard shard fun d => { d with meanRecords := n, meanLists := ls.length, lenAt := s.now })

/-! ### Splits and merges (R294 to R296, R268) -/

/-- Squared distance of two vectors. -/
def sqDist (a b : List Int) : Int := sqNorm (List.zipWith (· - ·) a b)

/-- The index of the nearest of some centroids, the first of equal ones. -/
def nearest (cents : List (List Int)) (v : List Int) : Nat :=
  ((ranked (cents.zipIdx.map fun x => (-sqDist x.1 v, x.2))).head?.map (·.2)).getD 0

/-- The vector farthest from `v`, the first of equal ones. -/
def farthestFrom (v : List Int) : List (List Int) → Option (List Int)
  | [] => none
  | x :: rest => match farthestFrom v rest with
    | none => some x
    | some y => if sqDist x v < sqDist y v then some y else some x

/-- The mean of some vectors of `p` elements, to the unit of 2^-149 (log 99). -/
def meanOf (p : Nat) (vs : List (List Int)) : List Int := (List.range p).map fun j => (vs.foldl (fun (n : Int) v => n + v.getD j 0) 0) / (vs.length : Int)

/-- One iteration of k-means: every vector goes to its nearest centroid, and a centroid becomes the mean of its own; with none it
stays. -/
def lloyd (vs cents : List (List Int)) : List (List Int) :=
  cents.zipIdx.map fun x =>
    let own := vs.filter fun v => nearest cents v == x.2
    if own.isEmpty then x.1 else meanOf x.1.length own

/-- Iterations of k-means (R153, R294). -/
def kMeans (vs : List (List Int)) : Nat → List (List Int) → List (List Int)
  | 0, cents => cents
  | n + 1, cents => kMeans vs n (lloyd vs cents)

/-- `n` vectors that the manual does not give (R153: where k-means starts; R294: means of no records). -/
def State.freeVectors (s : State) (p : Nat) : Nat → List (List Int) × State
  | 0 => ([], s)
  | n + 1 =>
    let (i, s) := s.takeFree
    let (more, s) := s.freeVectors p n
    (freeElements i p :: more, s)

/-- The sub-centroids of a split (R294 step 2): two-means on the records, 10 iterations, seeded by the one farthest from the list's
and the one farthest from that. -/
def splitCentroids (l : LList) (vs : List (List Int)) : Option (List (List Int)) := do
  let a ← farthestFrom (qValues l.centroid) vs
  let b ← farthestFrom a vs
  return kMeans vs 10 [a, b]

/-- The sub-centroid of a merge (R294 step 2): the mean of the two, weighted by their records. -/
def mergeCentroid (p : Nat) (ls : List (LList × Nat)) : Option (List Int) :=
  let n : Nat := ls.foldl (fun (n : Nat) x => n + x.2) 0
  if n = 0 then none
  else some ((List.range p).map fun j => (ls.foldl (fun (m : Int) x => m + (Int.ofNat x.2) * (qValues x.1.centroid).getD j 0) 0) / (n : Int))

/-- The sub-centroids of the new lists (R294 step 2); those of no records are free. -/
def State.newCentroids (s : State) (p : Nat) (d : Shard) (olds : List LList) (m : Maint) : List (List Int) × State :=
  let known := if m.kind = 1 then
      splitCentroids (olds.headD (freshList 0 0 0 [] 0 0 0 [] [])) ((olds.flatMap fun l => d.keeps l m.cut).map fun r => qValues r.groups)
    else (mergeCentroid p (olds.map fun l => (l, (d.keeps l m.cut).length))).map fun v => [v]
  match known with
  | some vs => (vs, s)
  | none => s.freeVectors p (if m.kind = 1 then 2 else 1)

/-- The maintenance of a list and its partner ends without a switch: it is a plain compaction again (R289, R292). -/
def State.asCompaction (s : State) (l : LList) (m : Maint) : State :=
  let s := s.modList l.id fun l => { l with closed := false, maint := some { m with kind := 0, partner := none, written := false } }
  match m.partner with
  | some p => s.modList p fun l => { l with closed := false, maint := none }
  | none => s

/-- Steps 2 to 6 of a split or merge: the new lists, their guestbook entries, the switch stamp W, the retirement of the old ones. -/
def State.splitMerge (s : State) (c : Coll) (d : Shard) (l : LList) (m : Maint) : State :=
  let olds := (l.id :: m.partner.toList).filterMap s.list?
  let gone := olds.map (·.id)
  match (if m.kind = 1 && decide (1024 ≤ s.headsOf l) then none else s.takeLists (if m.kind = 1 then 2 else 1)) with
  | none => s.asCompaction l m
  | some (ids, s) =>
    let (subs, s) := s.newCentroids c.spec.projection d olds m
    let side := fun (r : ScanRec) => ids.getD (nearest (subs.map fun v => qValues (sq4 v)) (qValues r.groups)) 0
    let (w, s) := s.takeSwitch d.id
    let recs := versionRecords 1 (olds.flatMap fun l => d.keeps l m.cut)
    let moved := fun (e : GbEntry) => e.stamp == 0 || decide (m.cut < e.stamp)
    let ents := olds.flatMap fun l => l.gb.filter moved
    let s := (ids.zip subs).foldl (fun s x =>
      let pages := fillPages (scanBytes c.spec.projection) (recs.filter fun r => side r == x.1) 0 []
      let new := freshList x.1 d.id l.l1 x.2 m.cut w s.homeChannel pages (ents.filter fun e => side e.scan == x.1)
      s.addList c { new with degraded := olds.any (·.degraded) }) s
    let s : State := { s with lists := modWhere s.lists (fun l => gone.contains l.id) fun l =>
      { l with retiredW := some w, successors := ids, gb := l.gb.filter fun e => e.stamp != 0,
               maint := l.maint.map fun m => { m with switched := some w } } }
    let s := (s.linkLists c.spec d ids).dropReader d.id (.maint l.id)
    let held := s.eng.members.filter fun x => x.stage == .waitSplit && x.lists.any gone.contains
    let mine := fun (x : MWork) => x.msg.shard == d.id && x.stage != .stamped && x.stage != .finished
    let s := s.modEng fun e =>
      { e with members := modWhere e.members mine fun x =>
        { x with lists := (x.lists.map fun i => if gone.contains i then
            (match x.scan with | some r => side r | none => ids.headD 0) else i).eraseDups } }
    held.foldl (fun s x => s.askAssignment x.msg.key x.msg.index) s

/-- SPLIT_MERGE_SWITCH (R268, R289, R294 steps 2 to 6): the sub-centroids and the new versions are made in the plan's turn, then the
list is closed to assignment (step 4), and then it passes the ledger arbiter as a mutation and takes W (step 5). -/
def execSplitMergeSwitch (list t : Nat) (s : State) : Result :=
  let s := s.at t
  match s.listOf list with
  | none => .next s
  | some (l, d, _) =>
    match l.maint with
    | none => .next s
    | some m =>
      if !(m.kind == 1 || m.kind == 2) || m.cut = 0 || m.switched.isSome then .next s
      else if s.pwr.doldrums || s.commitLimit || s.programsWait s.homeChannel then .next (s.quitLedger (.pass (.maint list)) d.id)
      else if !m.written then .next (s.writeMaint l m 0x13 (s.writeArbs l ++ [tensorArb (s.homeTile list), 0x80]))
      else if !l.closed then
        .next { s with lists := modWhere s.lists (fun x => x.id == list || some x.id == m.partner) fun l => { l with closed := true } }
      else .next (s.switchMaint list d.id State.splitMerge)

/-- SPLIT_MERGE_RELEASE (R173, R294 step 7, R295): a retired list's versions and guestbook go, then its identifier; its successors
stay recorded for the rows that name it. -/
def execSplitMergeRelease (list : Nat) (s : State) : Result :=
  match s.list? list, (s.list? list).bind (fun l => s.shard? l.shard), ((s.list? list).bind fun l => s.shard? l.shard).bind fun d =>
      s.coll? d.coll with
  | some l, some d, some c =>
    match l.retiredW with
    | none => .next s
    | some w =>
      if !d.drainedBelow w || l.maint.isNone then .next s
      else
        let f := s.chargedFn c
        let s := (s.release f .t2 (l.versions.foldl (fun n v => n + v.bytes) 0)).release f .guestbook (16 * (l.chunks + l.oldChunks))
        let s := s.modList list fun l =>
          { l with versions := [], gb := [], chunks := 0, oldChunks := 0, maint := none, neighbours := [], degraded := false }
        .next (s.modTier fun e => { e with freeLists := e.freeLists ++ [list] })
  | _, _, _ => .next s

/-- GRAPH_REPAIR (R40, R175, R296): the neighbour entries of a shard's live lists are written anew, as background work on the tensor
clusters that score them. -/
def execGraphRepair (shard : Nat) (s : State) : Result :=
  match s.shard? shard, (s.shard? shard).bind fun d => s.coll? d.coll with
  | some d, some c =>
    .next (s.background [tensorArb (s.homeTile shard)] 0x13 (16777216 + shard) true fun s =>
      s.linkLists c.spec d ((s.liveLists shard).map (·.id)))
  | _, _ => .next s

/-! ### Tombstones, slots, row history (R282 to R284, R306, R613) -/

/-- A tombstone by its identifier and stamp. -/
def isTomb (id stamp : Nat) (t : Tomb) : Bool := t.id == id && t.stamp == stamp

/-- The stamp of the re-insert that followed a delete of a slot at `stamp` (R613). -/
def Shard.rebornAfter (d : Shard) (slot stamp : Nat) : Option Nat :=
  ((d.hist.filter fun e => e.slot == slot && e.kind == 3 && decide (stamp < e.stamp)).map (·.stamp)).foldl
    (fun b x => match b with | none => some x | some y => some (min x y)) none

/-- TOMBSTONE_FOLD (R282 step 2, R156): no reader is below the delete and the slot was not taken again, so its bit is set and the
entry removed. A record in the formation buffer leaves its count with it. -/
def execTombstoneFold (shard id stamp : Nat) (s : State) : Result :=
  match s.shard? shard, (s.shard? shard).bind fun d => s.coll? d.coll with
  | some d, some c =>
    match d.tombs.find? fun t => isTomb id stamp t && t.kind == 0 with
    | none => .next s
    | some t =>
      if d.oldestRead < stamp || (d.rebornAfter t.slot stamp).isSome then .next s
      else
        let s := match d.slot? t.slot with
          | some x => if x.home == Home.formation then s.releaseHome c d .formation (rowBytes c.spec x.row) none else s
          | none => s
        .next (s.modShard shard fun d =>
          { d with tombs := d.tombs.filter fun t => !(isTomb id stamp t && t.kind == 0),
                   slots := modWhere d.slots (·.num == t.slot) fun x => { x with bit := true, deletedAt := stamp } })
  | _, _ => .next s

/-- TOMBSTONE_PENDING_CLEAR (R282 steps 2 and 3 of kinds 1 and 2): a list's bit is cleared once it has switched past the tombstone,
and the entry goes when none is left. -/
def execTombstonePendingClear (shard id stamp : Nat) (s : State) : Result :=
  match s.shard? shard with
  | none => .next s
  | some d =>
    .next (s.modShard shard fun d' =>
      { d' with tombs := (modWhere d'.tombs (isTomb id stamp) (s.clearPending d)).filter fun t =>
          !(isTomb id stamp t && t.kind != 0 && !t.pendA && !t.pendB) })

/-- TOMBSTONE_GUARD_CONVERT (R613): no reader is below the re-insert, so the delete's tombstone becomes a guard with the same stamp.
-/
def execTombstoneGuardConvert (shard id stamp : Nat) (s : State) : Result :=
  match s.shard? shard with
  | none => .next s
  | some d =>
    match (d.tombs.find? fun t => isTomb id stamp t && t.kind == 0).bind fun t => d.rebornAfter t.slot stamp with
    | none => .next s
    | some i =>
      if d.oldestRead < i then .next s
      else
        .next (s.modShard shard fun d =>
          { d with tombs := modWhere d.tombs (fun t => isTomb id stamp t && t.kind == 0) fun t =>
              { t with kind := 2, pendA := t.listA != noList, pendB := t.listB != noList } })

/-- SLOT_FREE (R258, R283, R300): every list of the deleted slot's last row has switched past the delete, so the slot is freed, its
bit cleared and its map entry removed. A mutation on its way that resolved to the slot holds it. -/
def execSlotFree (shard slot : Nat) (s : State) : Result :=
  match s.shard? shard, (s.shard? shard).bind (·.slot? slot), (s.shard? shard).bind fun d => s.coll? d.coll with
  | some d, some x, some c =>
    let named := [x.row.list, x.row.second].filter (· != noList)
    let held := s.eng.members.any fun w => w.msg.shard == shard && w.slot == some slot && w.stage != .finished
    if !x.bit || held || !named.all (s.switchedPast d x.id x.deletedAt) then .next s
    else
      let n := d.slots.length
      let s := if x.home == .formation then s else s.releaseHome c d x.home (rowBytes c.spec x.row) x.payer
      let s := s.release (s.chargedFn c) .t1 (mapBytes n - mapBytes (n - 1))
      let s := s.modShard shard fun d => { d with slots := d.slots.filter (·.num != slot) }
      .next (s.modTier fun e =>
        { e with freeSlots := e.freeSlots ++ [slot], rowCache := e.rowCache.filter fun y => !(y.1 == shard && y.2.1 == slot) })
  | _, _, _ => .next s

/-- ROW_HISTORY_REMOVE (R306, R613): no reader is below the entry's stamp and everything of the slot up to it is applied, so the
entry goes with its prior version; a moved entry's old home is released by its own row. A reborn entry stays until its tombstone
is a guard. -/
def execRowHistoryRemove (shard slot stamp : Nat) (s : State) : Result :=
  match s.shard? shard, (s.shard? shard).bind fun d => s.coll? d.coll with
  | some d, some c =>
    match d.hist.find? fun e => e.slot == slot && e.stamp == stamp with
    | none => .next s
    | some e =>
      let unapplied := d.hist.any fun h => h.slot == slot && decide (h.stamp ≤ stamp) && !h.applied
      let waits := e.kind == 3 && d.tombs.any fun t => t.kind == 0 && t.slot == slot && decide (t.stamp < stamp)
      if d.oldestRead < stamp || unapplied || waits then .next s
      else
        let s := match e.prior with
          | some p => if e.kind = 2 then s else s.releaseHome c d p.2 (rowBytes c.spec p.1) none
          | none => s
        .next (s.modShard shard fun d => { d with hist := d.hist.filter fun h => !(h.slot == slot && h.stamp == stamp) })
  | _, _ => .next s

/-! ### Formation (R153 to R156, R272) -/

/-- FORMATION_START (R153 step 1, R281): a FORMING shard with F visible vectors takes its sample and trains; the cut is a reader. -/
def execFormationStart (shard : Nat) (s : State) : Result :=
  match s.shard? shard, (s.shard? shard).bind fun d => s.coll? d.coll with
  | some d, some c =>
    if d.stage != .forming || d.training || d.forwardTo.isSome || (d.slots.filter d.live).length < formationSize c d then .next s
    else
      .next (s.modShard shard fun d =>
        { d with training := true, sampleCut := d.counter, readers := d.readers ++ [(.formation, d.counter)] })
  | _, _ => .next s

/-- The vectors of the formation's sample, those visible at its cut (R153 step 1). -/
def Shard.sample (d : Shard) : List (List Int) :=
  d.slots.filterMap fun x => match d.rowAt x d.sampleCut with
    | .row r _ => some (qValues r.groups)
    | .wait => some (qValues x.row.groups)
    | .missing _ => none

/-- Steps 2 and 3 of a formation: the projection, and the level-1 centroids by 20 iterations of k-means on the projected sample from
starting points that the manual does not give (log 100). -/
def State.trainShard (s : State) (c : Coll) (d : Shard) : State :=
  let rows := if c.spec.projection = c.spec.dimensions then [] else trainedRows d.sample c.spec.projection
  let (seeds, s) := s.freeVectors c.spec.projection d.l1
  let cents := kMeans (d.sample.map (projectFor c.spec rows)) 20 seeds
  s.modShard d.id fun d => { d with matrix := rows, centroids := cents.map sq4, centroidNorms := cents.map scanNorm, formCut := some d.counter }

/-- The scan record of every vector in the buffer and its level-1 centroid, by the coarse field (R153 step 4, R267). -/
def State.assignAll (s : State) (c : Coll) (d : Shard) : List Slot → List (Nat × ScanRec × Nat) × State
  | [] => ([], s)
  | x :: rest =>
    let r := { formScan c.spec d.matrix x.id (qValues x.row.groups) (!x.row.lex.isEmpty) false with guestbook := false, epoch := 1 }
    let (sc, s) := s.scoreL1 c.spec fourBit r.groups r.norm d.columns
    let best := ((ranked sc).head?.map (·.2)).getD 0
    let (more, s) := s.assignAll c d rest
    ((x.num, r, best) :: more, s)

/-- The stamp with which a slot's vector became what it is; 0 where its history is past (R303). -/
def Shard.stampOf (d : Shard) (slot : Nat) : Nat :=
  (d.hist.filter fun e => e.slot == slot && e.kind != 2).foldl (fun n e => max n e.stamp) 0

/-- Put a guestbook entry at its place by stamp. -/
def insertEntry (x : GbEntry) : List GbEntry → List GbEntry
  | [] => [x]
  | y :: rest => if x.stamp < y.stamp then x :: y :: rest else y :: insertEntry x rest

/-- Apply what waits for each of some slots. -/
def State.applySlots (s : State) (shard : Nat) : List Nat → State
  | [] => s
  | n :: rest => (s.applyAll shard n 65536).applySlots shard rest

/-- The T1 charge of a mutation taken into the buffer and not stamped goes to T2, where its row will be (R272, R412). -/
def State.retier (s : State) (c : Coll) (d : Shard) (w : MWork) : State :=
  let bytes := match w.row with
    | some r => rowBytes c.spec r
    | none => if w.msg.kind == .accumulate then ((w.slot.bind d.slot?).map fun x => rowBytes c.spec x.row).getD 0 else 0
  if !w.journaled || bytes = 0 || w.stage == .stamped || w.stage == .finished then s
  else
    let f := s.chargedFn c
    (((s.release f .t1 bytes).modFn f (·.charge .t2 bytes))).modMember w.msg.key w.msg.index fun w =>
      { w with t1 := w.t1 - bytes, t2 := w.t2 + bytes }

/-- Steps 4 and 5 of a formation (R153, R272): lists cut where step 4 ended, the vectors stamped since in their guestbooks, the rows
in T2, the switch stamp W. A guestbook over its entries or its quota gets an urgent compaction. -/
def State.form (s : State) (c : Coll) (d : Shard) (ids : List Nat) : State :=
  let live := d.slots.filter d.live
  let (recs, s) := s.assignAll c d live
  let cut := d.formCut.getD d.counter
  let (w, s) := s.takeSwitch d.id
  let late := fun (r : Nat × ScanRec × Nat) => decide (cut < d.stampOf r.1)
  let s := ((ids.zip (d.centroids.zip d.centroidNorms)).zipIdx).foldl (fun s x =>
    let own := recs.filter fun r => r.2.2 == x.2
    let pages := fillPages (scanBytes c.spec.projection) ((own.filter fun r => !late r).map (·.2.1)) 0 []
    let gb := (own.filter late).foldl (fun l r => insertEntry ⟨{ r.2.1 with guestbook := true, epoch := 0 }, d.stampOf r.1, s.now⟩ l) []
    let new := { freshList x.1.1 d.id x.2 [] cut w s.homeChannel pages gb with centroid := x.1.2.1, norm := x.1.2.2 }
    let full := decide (c.spec.guestbookEntries < gb.length) || (0 < new.chunks && !(s.fn (s.chargedFn c)).admits .guestbook (16 * new.chunks))
    s.addList c { new with urgent := full }) s
  let place := fun (x : Slot) => (recs.find? (·.1 == x.num)).map fun r => ids.getD r.2.2 noList
  let rows := live.foldl (fun n x => n + rowBytes c.spec x.row) 0
  let s := if rows = 0 then s else (s.modFn (s.chargedFn c) (·.charge .t2 rows)).programRows ((rows + 16383) / 16384)
  let inBuf := (d.slots.filter fun x => x.home == .formation && !x.bit && x.born).foldl (fun n x => n + rowBytes c.spec x.row) 0 +
    d.hist.foldl (fun n e => match e.prior with | some p => if p.2 == .formation then n + rowBytes c.spec p.1 else n | none => n) 0
  let s := (s.eng.members.filter fun x => x.msg.shard == d.id).foldl (fun s x => s.retier c d x) s
  let s := s.modShard d.id fun d =>
    { d with stage := .formed, switchW := some w, training := false, formCut := none, bufBytes := inBuf,
             readers := d.readers.filter (·.1 != .formation),
             slots := d.slots.map fun x => match place x with
               | some l => ({ x with row := { x.row with list := l, second := noList }, home := .t2 } : Slot).written c
               | none => x }
  match s.shard? d.id with
  | some d => s.linkLists c.spec d ids
  | none => s

/-- A formation passes the ledger arbiter for W (R153 step 5); it needs list identifiers for its lists. -/
def State.switchFormation (s : State) (shard : Nat) : State :=
  s.passLedgers [shard] (.pass .formation) fun s =>
    match (s.shard? shard).bind fun d => s.takeLists d.l1 with
    | none => s
    | some (ids, s) =>
      let s := s.applySlots shard (((s.shard? shard).map fun d => d.slots.map (·.num)).getD [])
      match s.shard? shard, (s.shard? shard).bind fun d => s.coll? d.coll with
      | some d, some c => (s.form c d ids).writeColumns
      | _, _ => s

/-- FORMATION_SWITCH (R40, R153 steps 2 to 5, R155, R171, R272): the shard is trained and its records are written under the ceilings
of the tensor clusters and the coarse field; then it passes the ledger arbiter as a mutation and takes W. -/
def execFormationSwitch (shard t : Nat) (s : State) : Result :=
  let s := s.at t
  match s.shard? shard, (s.shard? shard).bind fun d => s.coll? d.coll with
  | some d, some c =>
    if !d.training || s.pwr.doldrums || s.commitLimit || s.anyWaits || (s.takeLists d.l1).isNone then
      .next (s.quitLedger (.pass .formation) shard)
    else
      let s := if d.formCut.isSome then s
        else s.background [tensorArb (s.homeTile shard), 0x80] 0x13 (33554432 + shard) true fun s => s.trainShard c d
      if (s.shard? shard).any (·.formCut.isSome) then .next (s.switchFormation shard) else .next s
  | _, _ => .next s

/-- FORMATION_BUFFER_RELEASE (R153 step 6): no reader is below W, so the buffer goes. -/
def execFormationBufferRelease (shard : Nat) (s : State) : Result :=
  match s.shard? shard, (s.shard? shard).bind fun d => s.coll? d.coll with
  | some d, some c =>
    match d.switchW with
    | none => .next s
    | some w =>
      if !d.buffer || !d.drainedBelow w then .next s
      else
        .next ((s.release (s.chargedFn c) .t1 d.bufBytes).modShard shard fun d => { d with buffer := false, bufBytes := 0 })
  | _, _ => .next s

/-! ### Row migration and placement (R321, R322, R416, R417) -/

/-- Change one slot. -/
def State.modSlot (s : State) (shard slot : Nat) (f : Slot → Slot) : State :=
  s.modShard shard fun d => { d with slots := modWhere d.slots (·.num == slot) f }

/-- Capacity and room of a pool. -/
def Pool.cap (p : Pool) : Nat := p.capTib * 2 ^ 40
def Pool.takes (p : Pool) (n : Nat) : Bool :=
  p.kind == 0 && p.st == .attached && !p.short && decide (p.used + n ≤ p.cap)

/-- ROW_MIGRATION_PLAN (R321, R416, R417, R497): a row whose home differs from its collection's placement is to move there; a row of
a pool being detached goes back to T2, charged without refusal. A refused charge leaves the row where it is. -/
def execRowMigrationPlan (shard slot : Nat) (toPool : Option Nat) (s : State) : Result :=
  match s.shard? shard, (s.shard? shard).bind (·.slot? slot), (s.shard? shard).bind fun d => s.coll? d.coll with
  | some d, some x, some c =>
    let f := s.chargedFn c
    let n := rowBytes c.spec x.row
    let start := fun (s : State) (to_ : Home) => (s.chargeHome c d to_ n).modSlot shard slot fun x =>
      { x with migration := some ⟨to_, false, 0, none, 0, none, n⟩ }
    if !d.live x || x.bit || x.lost || x.migration.isSome || d.forwardTo.isSome then .next s
    else
      match toPool, x.home with
      | some p, .t2 =>
        match s.pool? p with
        | some q =>
          if c.placement != some p || !q.takes n || decide (4194304 ≤ s.misplaced) then .next s
          else if !s.fits f .t3 n then .next (s.quotaRefuse f 3)
          else .next (start s (.t3 p))
        | none => .next s
      | none, .t3 p =>
        let back : Bool := match s.pool? p with | some q => q.st == .detaching && q.returnData | none => false
        if back then .next (start s .t2)
        else if c.placement == some p then .next s
        else if !s.fits f .t2 n then .next (s.quotaRefuse f 2)
        else .next (start s .t2)
      | _, _ => .next s
  | _, _, _ => .next s

/-- ROW_MIGRATION_COPY_END (R321 steps 2 to 4, R322): a pass of the copy ends. A row changed meanwhile is copied again, at most 8
times; a clean one passes the ledger arbiter as a mutation, takes W and its moved entry, and its new home is current. The pass has
its turn at the row's channel (R38), as background work unless a command asked for it. It waits while the history table is full
(R306), and into T2 while the channel is short of free blocks (R422). -/
def execRowMigrationCopyEnd (shard slot : Nat) (s : State) : Result :=
  let s := s.applyAll shard slot 65536
  match s.shard? shard, (s.shard? shard).bind (·.slot? slot), (s.shard? shard).bind fun d => s.coll? d.coll with
  | some d, some x, some c =>
    match x.migration with
    | none => .next s
    | some m =>
      let f := s.chargedFn c
      let now := rowBytes c.spec x.row
      let undo := fun (s : State) => match m.promoteFor with
        | some g => s.release g .t2 m.bytes
        | none => s.releaseHome c d m.to_ m.bytes none
      let arbs := if m.to_ == .t2 then s.rowTargets 1 else [s.rowChannelOf slot]
      let w : Work := .upkeep 0x0F slot
      if m.oldHome.isSome then .next s
      else
      if !m.dirty && (decide (16777216 ≤ s.histCount) || s.commitLimit || (m.to_ == .t2 && (s.rowTargets 1).any s.programsWait)) then
        .next ((s.quitLedger (.row slot) shard).dropWork (· == w))
      else
      let s := s.requestOnly (if m.promoteFor.isSome then 0 else backgroundRequester) m.promoteFor.isNone w arbs
      if !s.turnsAll w arbs then .next s
      else if m.dirty then
        let s := s.useGrants w arbs
        if 8 ≤ m.passes + 1 then
          .next (((undo s).modSlot shard slot fun x => { x with migration := none }).modTier fun e => { e with abandoned := e.abandoned + 1 })
        else .next (s.modSlot shard slot fun x => { x with migration := some { m with dirty := false, passes := m.passes + 1 } })
      else .next (s.passLedgers [shard] (.row slot) fun s =>
        let s := s.useGrants w arbs
        let s := if m.to_ == .t2 then (s.rowTargets 1).foldl (fun s ch => s.programBytes ch now) s else s
        let s := match m.promoteFor with
          | some g => (undo s).modFn g (·.charge .t2 now)
          | none => (undo s).chargeHome c d m.to_ now
        let s := match x.payer with
          | some g => (s.release g .t2 now).modFn f (·.charge .t2 now)
          | none => s
        let (w, s) := s.takeSwitch shard
        s.modShard shard fun d =>
          { d with hist := d.hist ++ [⟨slot, w, 2, true, some (x.row, x.home), none⟩],
                   slots := modWhere d.slots (·.num == slot) fun y =>
                     ({ y with home := m.to_, payer := m.promoteFor,
                               migration := some { m with oldHome := some x.home, stamp := w, bytes := now } } : Slot).written c })
  | _, _, _ => .next s

/-- ROW_MIGRATION_RELEASE (R321 step 5): the moved entry is gone, so the old home is released. -/
def execRowMigrationRelease (shard slot : Nat) (s : State) : Result :=
  match s.shard? shard, (s.shard? shard).bind (·.slot? slot), (s.shard? shard).bind fun d => s.coll? d.coll with
  | some d, some x, some c =>
    match x.migration, x.migration.bind (·.oldHome) with
    | some m, some h =>
      if d.hist.any fun e => e.slot == slot && e.stamp == m.stamp then .next s
      else .next ((s.releaseHome c d h m.bytes none).modSlot shard slot fun x => { x with migration := none })
    | _, _ => .next s
  | _, _, _ => .next s

/-- Rows of a collection on this node, and their bytes. -/
def State.collRows (s : State) (c : Coll) : Nat × Nat :=
  (s.shards.filter (·.coll == c.spec.id)).foldl (fun n d =>
    let l := d.slots.filter fun x => x.born && !x.bit
    (n.1 + l.length, n.2 + l.foldl (fun m x => m + rowBytes c.spec x.row) 0)) (0, 0)

/-- PLACEMENT_CHANGE (R416): a collection little read for 24 h goes to a storage pool with room; it comes back to T2 when it is read
more, or its pool runs short, is detached with its rows, or is gone. -/
def execPlacementChange (coll t : Nat) (s : State) : Result :=
  let s := s.at t
  match s.coll? coll with
  | none => .next s
  | some c =>
    let hour := 3600 * Config.ticksPerS
    let rows := s.collRows c
    let within := fun (h : Nat) => (c.readTimes.filter fun x => decide (s.now ≤ x + h)).length
    match c.placement with
    | none =>
      let pool := s.pools.find? fun p => p.kind == 0 && p.st == .attached && decide (p.cap ≤ 10 * (p.cap - p.used))
      match pool with
      | none => .next s
      | some p =>
        if s.now < c.since + 24 * hour || !(s.fn (s.chargedFn c)).admits .t3 rows.2 ||
            decide (rows.1 * 24 ≤ 1000 * within (24 * hour)) then .next s
        else .next (s.modColl coll fun c => { c with placement := some p.id, since := s.now })
    | some i =>
      let leave := match s.pool? i with
        | none => true
        | some p => p.st == .lost || (p.st == .detaching && p.returnData) || decide (20 * (p.cap - p.used) < p.cap)
      if leave || decide (rows.1 < 100 * within hour) then
        .next (s.modColl coll fun c => { c with placement := none, since := s.now })
      else .next s

/-! ### Shard moves (R50, R68, R323, R324) -/

/-- Maintenance and training that run on a shard are abandoned, to be planned again (R288, R323): their requests at the arbiters go,
and their places at the ledger arbiter. -/
def State.dropUpkeep (s : State) (shard : Nat) : State :=
  let mine := s.lists.filter fun l => l.shard == shard && l.maint.isSome
  let s := mine.foldl (fun s l => (s.dropBackground 0x12 l.id).dropBackground 0x13 l.id) s
  let s := (s.dropBackground 0x13 (16777216 + shard)).dropBackground 0x13 (33554432 + shard)
  let s : State := { s with lists := modWhere s.lists (fun l => l.shard == shard && l.retiredW.isNone) fun l =>
    { l with closed := false, urgent := l.urgent || l.maint.any (fun m => m.urgent && m.switched.isNone),
             maint := if (l.maint.bind (·.switched)).isSome then l.maint else none } }
  s.modShard shard fun d =>
    { d with training := false, formCut := none, regen := none,
             readers := d.readers.filter (fun r => match r.1 with | .req _ => true | _ => false),
             waiting := d.waiting.filter fun x => match x.2 with
               | .pass (.req _) => true | .pass _ => false | .row _ => false | _ => true }

/-- A member on its way is sent on to the new owner, or ended at the fifth forwarding (R50). -/
def State.forwardMember (s : State) (w : MWork) (node : Nat) : State :=
  let s := s.dropMember w.msg.key w.msg.index
  if 4 ≤ w.msg.hop then s.sendOutcome w.msg 0 stRetry 0
  else
    let g := workTag w.msg.key w.msg.function w.msg.qosClass (memberOpcode w.msg.kind) node w.msg.shard (w.msg.hop + 1)
    s.produce node g (reservedQueue g) (.member { w.msg with hop := w.msg.hop + 1 })

/-- A shard's owner in the map of its collection (R148, R323 step 5). -/
def State.setOwner (s : State) (coll shard node : Nat) : State :=
  s.modColl coll fun c => { c with spec := { c.spec with owners := c.spec.owners.set (shard - c.spec.firstShard) node } }

/-- What a shard's move carries at the hand-over (R68, R323). -/
def State.imageOf (s : State) (d : Shard) : ShardImage :=
  { coll := d.coll, shard := d.id, counter := d.counter, stage := d.stage, switchW := d.switchW, buffer := d.buffer, l := d.l, l2 := d.l2,
    l1 := d.l1, centroids := d.centroids, centroidNorms := d.centroidNorms, matrix := d.matrix, slots := d.slots, hist := d.hist,
    tombs := d.tombs, lists := s.lists.filter (·.shard == d.id) }

/-- The old owner hands a shard over (R68, R323 steps 2 to 4): with everything copied, the last entries and the counter pass to the
new owner in one locked sequence, and this node forwards from then on. Queries waiting at the arbiter take their read stamps first.
-/
def State.handShard (s : State) (shard : Nat) : State :=
  match s.shard? shard, (s.shard? shard).bind (·.move) with
  | some d, some m =>
    let queries := d.waiting.any fun x => match x.2 with | .search _ => true | .barrier _ => true | .pass (.req _) => true | _ => false
    if d.forwardTo.isSome || m.step = 0 || queries || !s.reachable m.to_ then s
    else
      let s := s.applySlots shard (d.slots.map (·.num))
      let ms := s.eng.members.filter fun w => w.msg.shard == shard && w.stage != .stamped && w.stage != .finished
      let s := ms.foldl (fun s w => s.forwardMember w m.to_) s
      let s := s.dropUpkeep shard
      let image := ((s.shard? shard).map s.imageOf).getD (s.imageOf d)
      let s := s.modShard shard fun d =>
        { d with forwardTo := some m.to_, move := some { m with step := 4 }, holds := [],
                 waiting := d.waiting.filter fun x => match x.2 with | .member _ _ => false | _ => true }
      s.produceFw m.to_ 0x0F shard true (.moveState image)
  | _, _ => s

/-- Slot numbers of this node for the slots of a shard that moves here (R324). -/
def State.takeSlots (s : State) : List Nat → Option (List (Nat × Nat) × State)
  | [] => some ([], s)
  | i :: rest => do
    let (n, s) ← s.takeSlot
    let (more, s) ← s.takeSlots rest
    return ((i, n) :: more, s)

/-- A number renamed; one that names nothing stays. -/
def renamed (l : List (Nat × Nat)) (i : Nat) : Nat := ((l.find? (·.1 == i)).map (·.2)).getD i

/-- A row with its lists renamed. -/
def Row.rename (lists : List (Nat × Nat)) (r : Row) : Row := { r with list := renamed lists r.list, second := renamed lists r.second }

/-- Where a row that moved here lies: a T2 home of this node, or its formation buffer. -/
def Home.arrived : Home → Home
  | .formation => .formation
  | _ => .t2

/-- The new owner takes a shard over (R68, R323 step 4, R324): its ledger arbiter goes on from the counter, slots and lists get this
node's numbers, and what it holds is charged here, without refusal: step 1 of the move had reserved it (log 101). -/
def State.takeShard (s : State) (c : Coll) (m : ShardImage) : Option State := do
  let ledger ← (List.range 4096).find? fun x => !s.owned.any (·.ledger == x)
  let (slots, s) ← s.takeSlots (m.slots.map (·.num))
  let (ids, s) ← s.takeLists m.lists.length
  let lists := (m.lists.map (·.id)).zip ids
  let list := renamed lists
  let slot := fun (x : Slot) => { x with num := renamed slots x.num, row := x.row.rename lists, home := x.home.arrived, migration := none, payer := none, packed := c.compress }
  let hist := fun (e : Hist) => { e with slot := renamed slots e.slot, prior := e.prior.map fun p => (p.1.rename lists, p.2.arrived) }
  let tomb := fun (t : Tomb) => { t with listA := list t.listA, listB := list t.listB, slot := renamed slots t.slot }
  let d : Shard :=
    { id := m.shard, coll := m.coll, ledger := ledger, counter := m.counter, stage := m.stage, switchW := m.switchW, training := false,
      sampleCut := 0, formCut := none, buffer := m.buffer, l := m.l, l2 := m.l2, l1 := m.l1, centroids := m.centroids,
      centroidNorms := m.centroidNorms, matrix := m.matrix, slots := m.slots.map slot, hist := m.hist.map hist, tombs := m.tombs.map tomb,
      readers := [], waiting := [], holds := [], meanRecords := 0, meanLists := 0, lenAt := s.now, bufBytes := 0, move := none,
      forwardTo := none, lost := false, regen := none }
  let s := ({ s with shards := s.shards.filter (·.id != m.shard) ++ [d] } : State).addJournal (.switch m.shard) m.shard m.counter 64
  let s := m.lists.foldl (fun s l =>
    let ch := s.homeChannel
    s.addList c { l with id := list l.id, successors := l.successors.map list, neighbours := l.neighbours.map list, channel := ch, maint := none,
                         oldChunks := 0, closed := false, admitHot := none,
                         versions := l.versions.map fun v => { v with channel := ch, cached := false } }) s
  let s := s.modFn (s.chargedFn c) (·.charge .t1 (mapBytes d.slots.length))
  let s := d.slots.foldl (fun s x => if x.home == .formation && x.bit then s else s.chargeHome c d x.home (rowBytes c.spec x.row)) s
  return d.hist.foldl (fun s e => match e.prior with
    | some p => s.chargeHome c d p.2 (rowBytes c.spec p.1)
    | none => s) s

/-- SHARD_MOVE_COPY_END (R68, R323 steps 2 to 5, R324): on the old owner the hand-over; on the new owner, with what the move
brings, it takes the shard over and announces the move to every node that holds the collection. -/
def execShardMoveCopyEnd (shard : Nat) (copied : MoveEnd) (s : State) : Result :=
  let s := s.at copied.t
  match copied.image with
  | none => .next (s.handShard shard)
  | some m =>
    match s.coll? m.coll with
    | none => .next s
    | some c =>
      if m.shard != shard || !c.shardIds.contains shard || s.owned.any (·.id == shard) then .next s
      else
        match s.takeShard c m with
        | none => .next s
        | some s =>
          let s := (s.writeColumns.setOwner m.coll shard s.nodeId).recordNode
          .next ((s.peerNodes.filter s.reachable).foldl (fun s n => s.produceFw n 0x0F shard true (.moveAnnounce m.coll shard s.nodeId)) s)

/-- SHARD_MOVE_ANNOUNCE_RECEIVE (R323 step 5): the shard map in the node record follows the announcement. -/
def execShardMoveAnnounceReceive (coll shard newOwner : Nat) (s : State) : Result :=
  match s.coll? coll with
  | none => .next s
  | some c =>
    if !c.shardIds.contains shard then .next s
    else
      .next (s.setOwner coll shard newOwner).recordNode

/-- SHARD_MOVE_RELEASE (R323 step 6): no reader of the old copy remains, so it is released; the shard stays known for forwarding. -/
def execShardMoveRelease (shard : Nat) (s : State) : Result :=
  match s.shard? shard, (s.shard? shard).bind fun d => s.coll? d.coll with
  | some d, some c =>
    let used := s.eng.shares.any (fun h => h.shards.any (·.shard == shard)) || s.eng.members.any fun w => w.msg.shard == shard
    if d.forwardTo.isNone || d.move.isNone || !d.readers.isEmpty || used then .next s
    else
      let s := s.releaseShard c d
      let ids := (s.lists.filter (·.shard == shard)).map (·.id)
      let n := s.degradedCount
      let s := ({ s with lists := s.lists.filter (·.shard != shard) } : State).degradedEvent n
      let s := s.modTier fun e =>
        { e with freeSlots := e.freeSlots ++ d.slots.map (·.num),
                 freeLists := e.freeLists ++ ids.filter fun i => !e.freeLists.contains i,
                 rowCache := e.rowCache.filter fun y => y.1 != shard }
      .next (s.modShard shard fun d =>
        { d with slots := [], hist := [], tombs := [], centroids := [], bufBytes := 0, buffer := false, l := 0, l1 := 0, l2 := 0,
                 move := none })
  | _, _ => .next s

/-! ### The T1 caches (R407 to R410) -/

/-- CACHE_REBALANCE (R408): every 60 s the space is divided by hits per GiB, each cache keeping a tenth; with no hits at all the
division stays. -/
def execCacheRebalance (t : Nat) (s : State) : Result :=
  let s := s.at t
  if s.now < s.tier.rebalancedAt + 60 * Config.ticksPerS then .next s
  else
    let h := s.tier.hotHits * (100 - s.tier.hotShare)
    let r := s.tier.rowHits * s.tier.hotShare
    .next (s.modTier fun e =>
      { e with hotShare := if h + r = 0 then e.hotShare else max 10 (min 90 (100 * h / (h + r))), hotHits := 0, rowHits := 0,
               rebalancedAt := s.now })

/-- A cached version that no passenger's list part still pins (R194, R407). -/
def State.evictable (s : State) (l : LList) : Bool :=
  l.versions.any (·.cached) && !s.eng.shares.any fun h => h.shards.any fun p => p.cached.contains l.id

/-- The cached list to evict: the fewest probes of the last 60 s, the lower identifier on equal counts (R409). -/
def State.coldest (s : State) : Option LList :=
  let probes := fun (l : LList) => (l.probes.filter fun x => decide (s.now ≤ x + 60 * Config.ticksPerS)).length
  (s.lists.filter s.evictable).foldl (fun b l => match b with
    | none => some l
    | some x => if probes l < probes x || (probes l == probes x && decide (l.id < x.id)) then some l else some x) none

/-- The row cache's least recently read entry (R410). -/
def Tier.oldestRow (e : Tier) : Option (Nat × Nat × Nat) :=
  e.rowCache.foldl (fun b x => match b with | none => some x | some y => if x.2.2 < y.2.2 then some x else some y) none

/-- T1 bytes that are missing for the margin of 2 GiB and for the allocations that wait (R407). -/
def State.t1Short (s : State) : Nat :=
  (s.tierUsed .t1 + s.gbT1 + s.hotBytes + s.rowCacheBytes + 2 * 2 ^ 30 + s.tier.t1Wanted) - s.capacity .t1

/-- Evict one entry of the cache that is over its share, else of the other. -/
def State.evictOne (s : State) : State :=
  let hot := s.coldest
  let row := s.tier.oldestRow
  let hotOver := decide (s.cacheSpace * s.tier.hotShare / 100 < s.hotBytes)
  let dropHot := fun (l : LList) => s.modList l.id fun l => { l with versions := l.versions.map fun v => { v with cached := false } }
  let dropRow := fun (x : Nat × Nat × Nat) => s.modTier fun e => { e with rowCache := e.rowCache.erase x }
  match hot, row with
  | some l, some x => if hotOver then dropHot l else dropRow x
  | some l, none => dropHot l
  | none, some x => dropRow x
  | none, none => s

/-- Evict until the margin is there again. -/
def State.evict (s : State) : Nat → State
  | 0 => s
  | n + 1 => if s.t1Short = 0 then s else s.evictOne.evict n

/-- CACHE_EVICT (R407, R409, R410): cache entries go until 2 GiB of T1, and what waiting allocations want, is free (log
129). -/
def execCacheEvict (s : State) : Result :=
  let s := s.evict (s.lists.length + s.tier.rowCache.length)
  .next (s.modTier fun e => { e with t1Wanted := 0 })

end Sys2Proof.Machine
end

