-- ==== Sys2Proof/Machine/Flash.lean ====
section
/-! DEFINITION. The protected write buffer (R429 to R433), checkpoints and the retirement of journal entries (R423, R431), and
flash maintenance (R422, R424, R567). -/

namespace Sys2Proof.Machine

open Sys2Proof

/-! ### The write buffer (R430, R432) -/

/-- The entry waits for a journal program of a channel: stamped, and not yet programmed (R430 steps 2 and 3). -/
def JEntry.waitsOn (j : JEntry) (ch : Nat) : Bool := j.channel == ch && j.phase == .waiting && !j.void && j.stamp != 0

/-- Entries of a channel's wait, oldest first, that fit its erased reserve (R432). -/
def fitReserve (reserve : Nat) : List JEntry → List Nat
  | [] => []
  | j :: rest => if j.bytes ≤ reserve then j.seq :: fitReserve (reserve - j.bytes) rest else []

/-- Under the brake profile 16 channels already program (R519, Table: limit profiles). -/
def State.programsFull (s : State) (channel : Nat) : Bool :=
  s.pwr.brake && decide (16 ≤ ((s.tier.journal.filter fun j => j.phase == .programming && j.channel != channel).map (·.channel)).eraseDups.length)

/-- WRITE_BUFFER_PROGRAM (R430 step 3, R432, R519): with 64 KiB waiting for a channel, or an entry 500 µs old, the waiting entries
go to its erased reserve; in Doldrums every stamped entry goes. -/
def execWriteBufferProgram (channel t : Nat) (s : State) : Result :=
  let s := s.at t
  let c := s.tier.channels.getD channel {}
  let wait := s.tier.journal.filter (·.waitsOn channel)
  let bytes : Nat := wait.foldl (fun n j => n + j.bytes) 0
  let old := wait.any fun j => decide (j.at_ + 500 * Config.ticksPerUs ≤ s.now)
  if !s.channelOn channel || c.offline || !(decide (65536 ≤ bytes) || old || s.pwr.doldrums) then .next s
  else
    let go := fitReserve c.reserve wait
    let used := (wait.filter fun j => go.contains j.seq).foldl (fun n j => n + j.bytes) 0
    let w : Work := .program channel
    let s := s.requestAll w [channel]
    if !s.turnsAll w [channel] || s.programsFull channel then .next s
    else
    .next (((s.useGrants w [channel]).modTier fun e => { e with journal := modWhere e.journal (fun j => go.contains j.seq) fun j => { j with phase := .programming } }).modChannel
      channel fun c => { c with reserve := c.reserve - used })

/-- Steps 1 and 2 of Table: Doldrums flush (R432, R534): programs started complete, and every stamped entry not yet programmed goes
into its channel's erased reserve. -/
def State.flushReserve (s : State) : State :=
  let go := fun (j : JEntry) => !j.void && j.stamp != 0 && (j.phase == .waiting || j.phase == .programming)
  let taken := fun (ch : Nat) =>
    (s.tier.journal.filter fun j => go j && j.phase == .waiting && j.channel == ch).foldl (fun (n : Nat) j => n + j.bytes) 0
  s.modTier fun e =>
    { e with journal := modWhere e.journal go fun j => { j with phase := .programmed },
             channels := e.channels.mapIdx fun i c => { c with reserve := c.reserve - taken i } }

/-- The entry of a mutation whose rows go to their home now that its journal program has ended (R430 step 4). -/
def JEntry.goesHome (j : JEntry) (ch : Nat) : Bool :=
  j.channel == ch && !j.void && (j.phase == .programming || j.phase == .programmed) && match j.kind with | .member _ _ => true | _ => false

/-- The row pages that the home writes of a channel's entries make (R421). -/
def State.homePages (s : State) (ch : Nat) : Nat :=
  ((s.tier.journal.filter (·.goesHome ch)).foldl (fun n j => n + (j.bytes - 64)) 0 + 16383) / 16384

/-- WRITE_BUFFER_FREE (R421, R430 steps 4 and 5, R432): the programs of a channel end. Outside Doldrums the home writes follow, in
rotation over the channels, and the buffer space is freed; void entries go with them (R287). In Doldrums, or while a channel that
the rows go to is short of free blocks (R422), only the journal programs end. -/
def execWriteBufferFree (channel : Nat) (s : State) : Result :=
  let targets := (s.rowTargets (s.homePages channel)).eraseDups
  let w : Work := .homeWrites channel
  let stays := s.pwr.doldrums || targets.any s.programsWait
  let s := if stays then s.dropWork (· == w) else s.requestOnly 0 false w targets
  let held := stays || !s.turnsAll w targets
  let x := s.modTier fun e =>
    { e with journal := (e.journal.filter fun j => !(j.channel == channel && j.void)).map fun j =>
        if j.channel != channel then j
        else if held && (s.pwr.doldrums || j.goesHome channel) then (if j.phase == .programming then { j with phase := .programmed } else j)
        else if j.phase == .programming || j.phase == .programmed then { j with phase := .homed, inBuffer := false }
        else j }
  .next (if held then x else (x.useGrants w targets).programRows (s.homePages channel))

/-- What an entry made is folded into switched versions, and its tombstones are gone (R431). -/
def State.folded (s : State) (j : JEntry) : Bool :=
  match j.kind with
  | .nodeRecord => true
  | .switch _ => true
  | .member _ _ =>
    (s.lists.all fun l => l.shard != j.shard || !(l.gb.any fun e => e.stamp == j.stamp) ||
      l.versions.any fun v => decide (j.stamp ≤ v.cut)) &&
      (s.shards.all fun d => d.id != j.shard || !d.tombs.any (·.stamp == j.stamp))

/-- JOURNAL_RETIRE (R431): an entry whose home writes, folds and tombstones are done, and checkpointed since, is retired. -/
def execJournalRetire (entry : Nat) (s : State) : Result :=
  .next (s.modTier fun e => { e with journal := e.journal.filter fun j => !(j.seq == entry && j.phase == .homed && j.saved) })

/-- CHECKPOINT (R67, R423): every 60 s, the counters of the node's shards with the changed maps, into the older of two copies. The
write inhibit of Doldrums holds it, and a channel short of free blocks (R422). -/
def execCheckpoint (t : Nat) (s : State) : Result :=
  let s := s.at t
  if s.now < s.tier.checkpointAt + 60 * Config.ticksPerS || s.pwr.doldrums || s.anyWaits then .next s
  else
    .next (s.modTier fun e =>
      { e with checkpoint := s.shards.map fun d => (d.id, d.counter), checkpointSeq := e.nextSeq, checkpointAt := s.now,
               checkpointCopy := !e.checkpointCopy,
               journal := e.journal.map fun j => if j.phase == .homed && s.folded j then { j with saved := true } else j })

/-- JOURNAL_RESERVE_ERASE (R432): outside Doldrums a reserve below 8 MiB gains 32 MiB journal blocks until it holds that much. -/
def execJournalReserveErase (channel : Nat) (s : State) : Result :=
  let c := s.tier.channels.getD channel {}
  if s.pwr.doldrums || c.offline || 8388608 ≤ c.reserve then .next s
  else .next (s.modChannel channel fun c => { c with reserve := c.reserve + 33554432 })

/-- An entry of the FTL map (R422): where the page of user space lies, whether the entry is valid, whether the page holds compressed
blocks. Which free page a write takes the manual does not say, so no map is held. -/
def ftlEntry (channel die plane block page : Nat) (valid packed : Bool) : Bytes :=
  toLE 5 (word [(0, page % 2048), (11, block % 1024), (21, plane % 4), (23, die % 32), (28, channel % 32), (33, b2n valid), (34, b2n packed)])

/-! ### Maintenance (R422, R424, R567) -/

/-- A block's data has been moved and the block erased. -/
def Block.erase (b : Block) : Block := { b with valid := 0, reads := 0, softAt := [], cycles := b.cycles + 1 }

/-- Maintenance of a channel: background work on its bus, held by the write inhibit (R424, R432). `target` tells one piece of it from
another. -/
def State.maintain (s : State) (channel kind target : Nat) (f : Channel → Channel) : State :=
  if s.pwr.doldrums || !s.channelOn channel || (s.tier.channels.getD channel {}).offline then s
  else s.background [channel] kind target true fun s => s.modChannel channel f

/-- The first record of a list by a measure, the earlier one on equal measures. -/
def leastBy {α : Type} (f : α → Nat) (l : List α) : Option α :=
  l.foldl (fun b x => match b with | none => some x | some y => if f x < f y then some x else some y) none

/-- GARBAGE_COLLECTION (R422): the block with the fewest valid pages is rewritten and freed. With no block on record, and not all of
them free, how many pages of the one it takes are valid is free (log 47). -/
def execGarbageCollection (channel : Nat) (s : State) : Result :=
  let (i, s) := s.takeFree
  .next (s.maintain channel 0x12 (2 ^ 26 + channel) fun c =>
    match leastBy (·.valid) (c.blocks.filter fun b => !b.bad && b.valid != 0) with
    | none => if c.freeBlocks < 120832 then c.freeOne (Config.freeNat i % 2049) else c
    | some b => ({ c with blocks := modWhere c.blocks (·.block == b.block) Block.erase } : Channel).freeOne b.valid)

/-- WEAR_LEVELLING (R424): with a spread of cycle counts above 300, the least-worn block's data goes to the most-worn free one.
Blocks with no record have 0 cycles. -/
def execWearLevelling (channel : Nat) (s : State) : Result :=
  .next (s.maintain channel 0x15 (4 * channel + 1) fun c =>
    let good := c.blocks.filter fun b => !b.bad
    let top := good.foldl (fun n b => max n b.cycles) 0
    let low := if good.length < 126976 then 0 else ((leastBy (·.cycles) good).map (·.cycles)).getD 0
    match leastBy (·.cycles) (good.filter fun b => b.valid != 0), leastBy (fun b => top - b.cycles) (good.filter fun b => b.valid == 0) with
    | some a, some b =>
      if top ≤ low + 300 then c
      else { c with blocks := c.blocks.map fun x =>
        if x.block = a.block then x.erase else if x.block = b.block then { x with valid := a.valid } else x }
    | _, _ => c)

/-- READ_DISTURB_REFRESH (R424): a block read 200,000 times since its last program, or soft decoded twice within 1 h, is rewritten. -/
def execReadDisturbRefresh (channel block t : Nat) (s : State) : Result :=
  let s := s.at t
  let due := fun (b : Block) => decide (200000 ≤ b.reads) ||
    decide (2 ≤ (b.softAt.filter fun x => decide (s.now ≤ x + 3600 * Config.ticksPerS)).length)
  .next (s.maintain channel 0x15 (4 * block + 130) fun c => { c with blocks := modWhere c.blocks (fun b => b.block == block && !b.bad && due b) Block.erase })

/-- RETENTION_SCAN (R424, R509): once every 7 days in Gale and Breeze a block is sampled; a weak one, by soft decoding or a raw bit
error rate above 4 × 10^-3, is rewritten. -/
def execRetentionScan (channel block : Nat) (weak : Bool) (t : Nat) (s : State) : Result :=
  let s := s.at t
  let last := (((s.tier.channels.getD channel {}).blocks.find? (·.block == block)).map (·.scannedAt)).getD 0
  if s.awake < last + 604800 * Config.ticksPerS then .next s
  else
    .next (s.maintain channel 0x15 (4 * block + 131) fun c =>
      let c := if c.blocks.any (·.block == block) then c else { c with blocks := c.blocks ++ [⟨block, 0, 0, 0, 0, false, []⟩] }
      { c with blocks := modWhere c.blocks (·.block == block) fun b =>
        let b := { b with scannedAt := s.awake }
        if weak then b.erase else b })

/-- GROWN_BAD_BLOCK (R424, R564): the block's data is relocated and a reserved block takes its place. A program or erase that fails
brings it about, so no ceiling holds the record of it. -/
def execGrownBadBlock (channel block : Nat) (s : State) : Result :=
  let c := s.tier.channels.getD channel {}
  if !s.channelOn channel || c.offline || (c.blocks.any fun b => b.block == block && b.bad) then .next s
  else
    .next (s.modChannel channel fun c =>
      { c with blocks := (c.blocks.filter (·.block != block)) ++ [⟨block, 0, 0, 0, 0, true, []⟩], grownBad := c.grownBad + 1,
               reservedBlocks := c.reservedBlocks - 1 })

end Sys2Proof.Machine
end

