-- ==== Sys2Proof/Machine/Telemetry.lean ====
section
/-! DEFINITION. Telemetry: the samples of a pass, the rings, and the commands and the periodic step that write them (R45,
R493, R579 to R582). -/

namespace Sys2Proof.Machine

open Sys2Proof

/-- A 32-byte sample: the time and its fields (R581). -/
def sample (now : Nat) (fields : List (Nat × Nat × Nat)) : Bytes :=
  (List.range 32).map fun i =>
    if i < 8 then BitVec.ofNat 8 (now / 256 ^ i)
    else
      match fields.find? fun f => decide (f.1 ≤ i) && decide (i < f.1 + f.2.1) with
      | some f => BitVec.ofNat 8 (f.2.2 / 256 ^ (i - f.1))
      | none => 0

/-- A sample whose counts are still differences to be taken: what it is a sample of, its plain fields and its counts (offset,
size, total). -/
structure Raw where
  key : Nat
  fields : List (Nat × Nat × Nat)
  counts : List (Nat × Nat × Nat)
  deriving DecidableEq, Repr

/-- Entries written and not admitted. -/
def Queue.unadmitted (u : Queue) : Nat := (u.sqTail + u.sqSize - u.sqHead) % u.sqSize

/-- Queue samples (R493): a VF's own queues; for the PF every queue, the reserved ones included, ascending. -/
def State.queueSamples (s : State) (fn : Nat) (all : Bool) : List Raw :=
  let egress := fun q => s.sched.egress.filter fun x => x.2.queue == q
  let oldestAt := fun (l : List (Nat × Frame)) => l.foldl (fun n x => min n x.2.at_) s.now
  let own := (List.range 3584).filterMap fun q =>
    match s.queue? q with
    | none => none
    | some u =>
      if !all && u.fn != fn then none
      else
        let e := egress q
        some ⟨q, [(8, 2, q), (10, 1, u.fn), (11, 1, (s.fn u.fn).qosClass), (12, 4, u.unadmitted), (16, 4, u.outstanding),
          (20, 4, e.foldl (fun n x => n + 64 + x.2.payload) 0),
          (24, 4, if u.unadmitted = 0 then 0 else s.now - u.doorbellAt), (28, 4, s.now - oldestAt e)], []⟩
  let reserved := if !all then [] else (List.range 512).map fun i =>
    let q := 3584 + i
    let e := egress q
    let cls := if q < 4032 then i / 56 else 0
    (⟨q, [(8, 2, q), (10, 1, 0xFF), (11, 1, cls), (12, 4, (s.sched.reserved.filter (·.queue == q)).length),
      (20, 4, e.foldl (fun n x => n + 64 + x.2.payload) 0), (28, 4, s.now - oldestAt e)], []⟩ : Raw)
  own ++ reserved

/-- Arbiter samples: requesters granted or waiting. -/
def State.arbSamples (s : State) : List Raw :=
  s.arbs.flatMap fun a =>
    let waitingOnly := (a.waiting.map (·.requester)).eraseDups.filter fun r => !a.totals.any (·.requester == r)
    (a.totals.map fun c =>
      (⟨2 ^ 32 + a.id * 256 + c.requester, [(8, 2, a.id), (10, 1, c.requester), (24, 4, c.waitMax)], [(12, 4, c.grants), (16, 8, c.waitTotal)]⟩ : Raw)) ++
    waitingOnly.map fun r => (⟨2 ^ 32 + a.id * 256 + r, [(8, 2, a.id), (10, 1, r)], [(12, 4, 0), (16, 8, 0)]⟩ : Raw)

def State.analogueSamples (s : State) : List Raw :=
  s.arraysBuilt.map fun a =>
    let r := s.arrRec a
    ⟨2 * 2 ^ 32 + a, [(8, 2, a), (10, 1, r.st), (11, 1, s.junctionAt a), (12, 4, r.errorPpm),
      (16, 4, (s.now - r.calibratedAt) / Config.ticksPerMs)], []⟩

def State.wearSamples (s : State) : List Raw :=
  (s.channelsOn.map fun c =>
    let x := s.tier.channels.getD c {}
    let cycles := x.blocks.map (·.cycles)
    (⟨3 * 2 ^ 32 + c, [(8, 1, 0), (9, 1, c), (10, 2, cycles.foldl max 0),
      (12, 2, if cycles = [] then 0 else cycles.foldl (· + ·) 0 / cycles.length), (14, 2, x.reservedBlocks),
      (16, 2, x.grownBad), (18, 1, b2n (!x.spareDie))], [(24, 4, x.rebuilds)]⟩ : Raw)) ++
  s.stacksOn.map fun c =>
    let used := ((s.spares.rowsUsed.find? (·.1 == c)).map (·.2)).getD 0
    let e := ((s.spares.dramErrors.find? (·.1 == c)).map (·.2)).getD (0, 0)
    (⟨3 * 2 ^ 32 + 256 + c, [(8, 1, 1), (9, 1, c), (10, 2, 1024 - used), (12, 1, b2n (s.spares.dramUsed.contains c))],
      [(16, 8, e.1), (24, 4, e.2)]⟩ : Raw)

def State.functionSamples (s : State) (fn : Nat) (all : Bool) : List Raw :=
  ((List.range 128).filter fun f => if all then s.fnExists f else f == fn).map fun f =>
    let d := (s.fn f).gatherDrops
    ⟨6 * 2 ^ 32 + f, [(8, 1, f)], (List.range 5).map fun i => (12 + 4 * i, 4, d.getD i 0)⟩

def State.heldSamples (s : State) : List Raw :=
  s.stacksOn.map fun c =>
    let h := ((s.spares.heldAccess.find? (·.1 == c)).map (·.2)).getD (0, 0)
    ⟨7 * 2 ^ 32 + c, [(8, 1, c), (16, 4, h.2)], [(12, 4, h.1)]⟩

/-- Resources of Table: background ceilings, ports as 0x0100 + port. -/
def State.ceilingResources (s : State) : List Nat :=
  s.channelsOn ++ s.stacksOn.map (0x40 + ·) ++ [0x80] ++ s.tilesOn.map (0x90 + ·) ++
    ((List.range 8).filter s.portOn).map (0x100 + ·)

def State.backgroundSamples (s : State) : List Raw :=
  s.ceilingResources.map fun id =>
    let a := s.arb id
    let whole := if 0x100 ≤ id then a.sent else s.now - a.windowStart
    let pct := fun n => if whole = 0 then 0 else n * 100 / whole
    ⟨8 * 2 ^ 32 + id, [(8, 2, id), (10, 1, pct a.bgHeld), (11, 1, pct a.rbHeld)], []⟩

/-- The samples of one kind (Table: sample kinds). -/
def State.kindSamples (s : State) (fn : Nat) (all : Bool) : Nat → List Raw
  | 0 => s.queueSamples fn all
  | 1 => s.arbSamples
  | 2 => s.analogueSamples
  | 3 => s.wearSamples
  | 4 => [⟨4 * 2 ^ 32, [(8, 8, s.telSparesWord), (16, 8, s.telFaultsWord), (24, 4, s.tier.lostRows), (28, 4, s.tier.lostVectors)], []⟩]
  | 5 => [⟨5 * 2 ^ 32, [(8, 8, s.pwrStateWord), (16, 2, s.pwr.inputMv), (18, 2, s.pwr.inputMa), (20, 2, s.pwr.inputW),
      (24, 4, s.pwr.thermalWord)], []⟩]
  | 6 => s.functionSamples fn all
  | 7 => s.heldSamples
  | 8 => s.backgroundSamples
  | _ => []

/-- Samples to bytes: each count less its value in `prev` (R581). -/
def rawBytes (now : Nat) (prev : List (Nat × List Nat)) (raws : List Raw) : Bytes :=
  raws.flatMap fun r =>
    let old := ((prev.find? (·.1 == r.key)).map (·.2)).getD []
    sample now (r.fields ++ r.counts.zipIdx.map fun c => (c.1.1, c.1.2.1, c.1.2.2 - old.getD c.2 0))

/-- The kinds a mask selects, in ascending bit order (R581). -/
def maskKinds (mask : Nat) : List Nat := (List.range 9).filter (bit mask)

/-- One pass (R581): the pass header and its groups, and the counts for the next pass. -/
def State.passBytes (s : State) (fn : Nat) (all : Bool) (mask number : Nat) (prev : List (Nat × List Nat)) :
    Bytes × List (Nat × List Nat) :=
  let groups := (maskKinds mask).map fun k => (k, s.kindSamples fn all k)
  let b := groups.flatMap fun g =>
    toLE 8 0xFFFFFFFFFFFFFFFE ++ toLE 1 g.1 ++ zeros 3 ++ toLE 4 g.2.length ++ zeros 16 ++ rawBytes s.now prev g.2
  let next := (groups.flatMap (·.2)).map fun r => (r.key, r.counts.map (·.2.2))
  (toLE 8 0xFFFFFFFFFFFFFFFF ++ toLE 8 s.now ++ toLE 4 number ++ toLE 4 (32 + b.length) ++ zeros 8 ++ b, next)

/-- The most samples of a kind: every queue, every requester of every arbiter, every unit (R579, R582). -/
def State.maxSamples (s : State) (fn : Nat) (all : Bool) : Nat → Nat
  | 0 => if all then 4096 else (s.fn fn).queueCount
  | 1 => (List.range 0x20 ++ (List.range 0x20).map (0x40 + ·) ++ [0x80, 0x90, 0x91, 0x92, 0x93, 0xA0, 0xA1, 0xA2] ++
      s.shards.map fun (h : Shard) => 0x1000 + h.ledger).foldl (fun n id => n + (s.arbRequesters id).getD 0) 0
  | 2 => s.arraysBuilt.length
  | 3 => s.channelsOn.length + s.stacksOn.length
  | 4 => 1
  | 5 => 1
  | 6 => if all then 128 else 1
  | 7 => s.stacksOn.length
  | 8 => s.ceilingResources.length
  | _ => 0

/-- The largest pass a mask can produce. -/
def State.maxPass (s : State) (fn : Nat) (all : Bool) (mask : Nat) : Nat :=
  (List.range 9).foldl (fun n k => if bit mask k then n + 32 + 32 * s.maxSamples fn all k else n) 32

/-- A mask names listed kinds only, and for a VF only bits 0 and 6 (R22, R582). -/
def maskGood (fn mask : Nat) : Bool := decide (mask < 512) && (fn == 0 || fn == 128 || mask.land 0x1BE == 0)

/-- TELEMETRY's row for an action; an unlisted action is answered by the row of action 0. -/
def State.telemetry (s : State) (r action : Nat) (permitted : Bool) (body : State → Bytes → State) : State :=
  let a := byteAt (s.mbox r).copy 0x20
  if a = action || (action = 0 && 3 ≤ a) then
    s.commit r 0x0010 permitted [(1, 3), (12, 1748)] [(0, decide (a < 3))] body
  else s

/-- TELEMETRY_ATTACH (R579, R582). -/
def execTelemetryAttach (r t : Nat) (s : State) : Result :=
  .next ((s.at t).telemetry r 0 (r != 128) fun s b =>
    let x := s.fn r
    let mask := le b 0x24 4
    let interval := le b 0x28 4
    let addr := le b 8 8
    let len := le b 16 4
    let power := (List.range 10).any fun i => len == 2 ^ (16 + i)
    if addr % 4096 ≠ 0 || !power then s.refuse r stInvalid 0xFFFF
    else if 4 ≤ x.rings.length then s.refuse r stInvalid 0x20
    else if !maskGood r mask then s.refuse r stInvalid 0x24
    else if !(decide (25000 ≤ interval) && decide (interval ≤ 250000000)) then s.refuse r stInvalid 0x28
    else if len - 64 < s.maxPass r (r == 0) mask then s.refuse r stInvalid 0xFFFE
    else
      match s.charge? r .t1 (2 ^ 20) with
      | none => (s.quotaRefuse r 1).refuse r stQuota 1
      | some s =>
        let n := ((List.range 4).find? fun i => !x.rings.any (·.ring == i)).getD 0
        let ring : TelRing :=
          { ring := n, addr := addr, len := len, mask := mask, interval := interval, writeOffset := 64, passes := 0,
            last := s.now, prev := [] }
        (s.modFn r fun f => { f with rings := f.rings ++ [ring] }).reply r stOk 0 (toLE 4 n) [])

/-- TELEMETRY_DETACH (R579): the ring whose data_address matches; a header that names none is invalid. -/
def execTelemetryDetach (r t : Nat) (s : State) : Result :=
  .next ((s.at t).telemetry r 1 (r != 128) fun s b =>
    let addr := le b 8 8
    match (s.fn r).rings.find? (·.addr == addr) with
    | none => s.refuse r stInvalid 0xFFFF
    | some ring =>
      let s := s.modFn r fun f => { f with rings := f.rings.filter (·.ring != ring.ring) }
      (s.release r .t1 (2 ^ 20)).reply r stOk 0 [] [])

/-- TELEMETRY_SNAPSHOT (R579, R582): one pass to the host buffer, or into the sideband message. -/
def execTelemetrySnapshot (r : Nat) (outOk : Bool) (t : Nat) (s : State) : Result :=
  .next ((s.at t).telemetry r 2 (r != 128 || s.sidebandMay 0x0010) fun s b =>
    let mask := le b 0x24 4
    if !maskGood r mask then s.refuse r stInvalid 0x24
    else
      let out := (s.passBytes r (r == 0 || r == 128) mask 0 []).1
      if !s.outputFits r out.length outOk then s.refuse r stInvalid 0xFFFE
      else s.reply r stOk 0 [] out)

/-- The 64-byte ring header (R580). -/
def ringHeader (x : TelRing) : Bytes :=
  toLE 8 x.writeOffset ++ toLE 8 x.passes ++ toLE 4 x.len ++ toLE 4 x.mask ++ zeros 40

/-- TELEMETRY_PASS (R580, R581): a ring whose interval has passed gets one pass at its write offset, then its header. A pass
that would not fit starts at offset 64, and the bytes it skipped read zero. -/
def execTelemetryPass (fn ring : Nat) (io : HostIO) (t : Nat) (s : State) : Result :=
  let s := s.at t
  match (s.fn fn).rings.find? (·.ring == ring) with
  | none => .next s
  | some x =>
    if s.now < x.last + x.interval then .next s
    else
      let (b, prev) := s.passBytes fn (fn == 0) x.mask x.passes x.prev
      let wraps := decide (x.len < x.writeOffset + b.length)
      let off := if wraps then 64 else x.writeOffset
      let y := { x with writeOffset := off + b.length, passes := x.passes + 1, last := s.now, prev := prev }
      let s := s.modFn fn fun f => { f with rings := modWhere f.rings (·.ring == ring) fun _ => y }
      if !io.outOk then .next s
      else
        let s := if wraps then s.emit (.hostWrite fn (x.addr + x.writeOffset) (zeros (x.len - x.writeOffset))) else s
        .next ((s.emit (.hostWrite fn (x.addr + off) b)).emit (.hostWrite fn x.addr (ringHeader y)))

end Sys2Proof.Machine
end

