-- ==== Sys2Proof/Machine/Power.lean ====
section
/-! DEFINITION. Power states, unit wakes and the gust limiter, the clock limits, Doldrums, temperature (R503 to R530), and the pins
and platform events that follow them (R588, R591, R604). -/

namespace Sys2Proof.Machine

open Sys2Proof

/-! ### Platform events (R602, R604) -/

/-- The band of Table: PLDM sensors that a reading of sensors 1 to 5 lies in. -/
def State.sensorBand (s : State) (sensor reading : Nat) : Nat :=
  match sensor with
  | 1 => if reading < 38000 then 2 else if reading < 42000 then 1 else 0
  | 2 => if 42000 < reading then 1 else 0
  | 3 => if s.cfg.powerCap < reading then 1 else 0
  | 4 => if 115 ≤ reading then 3 else if 105 < reading then 2 else if 100 < reading then 1 else 0
  | _ => if 40 < reading then 1 else 0

/-- An event for a reading that has crossed a threshold. -/
def State.crossed (s : State) (sensor old new : Nat) : State :=
  if s.sensorBand sensor old = s.sensorBand sensor new then s else s.platformEvent sensor new

/-- A new voltage, current and power at the hold-up bank (R518, R530, R596). -/
def State.setInput (s : State) (mv ma w : Nat) : State :=
  let p := s.pwr
  let s := s.modPwr fun p => { p with inputMv := mv, inputMa := ma, inputW := w }
  ((s.crossed 1 p.inputMv mv).crossed 2 p.inputMa ma).crossed 3 p.inputW w

/-- A new voltage alone, from the AO comparators (R520). -/
def State.setVolts (s : State) (mv : Nat) : State := s.setInput mv s.pwr.inputMa s.pwr.inputW

/-- New temperatures (R526, R528): the inlet's time above 40 °C is kept. -/
def State.setTemps (s : State) (r : Readings) : State :=
  let p := s.pwr
  let s := s.modPwr fun p =>
    { p with junctions := r.junctions, inletC := r.inletC,
             inletSince := if r.inletC ≤ 40 then none else if p.inletSince.isSome then p.inletSince else some s.now }
  (s.crossed 4 (hottest p.junctions).2 (hottest r.junctions).2).crossed 5 p.inletC r.inletC

/-! ### The power state (R506 to R511) -/

/-- The node enters a power state; each change is a platform event, and the time in Lull and Calm is counted (R509). -/
def State.setPState (s : State) (x : PState) : State :=
  if s.pwr.st = x then s
  else
    let woken := s.sleeps && (x == .breeze || x == .gale)
    (s.modPwr fun p =>
      { p with st := x, rested := if woken then p.rested + (s.now - p.lullAt) else p.rested }).platformEvent 6 x.code

/-- Breeze is idle (R507); `guestsWait`: every running guest is stopped in WFI with no interrupt pending. -/
def State.breezeIdle (s : State) (guestsWait : Bool) : Bool :=
  (s.queues.all fun u => u.sqHead == u.sqTail && u.inFlight == 0) && s.reqs.isEmpty && s.sched.reserved.isEmpty &&
  (s.mboxes.all fun m => m.st != .posted && m.st != .busy) &&
  (guestsWait || s.fns.all fun f => f.guestState != 2) &&
  (s.arbs.all fun a => a.waiting.all fun r => !r.background && !r.rebuild) &&
  (s.fns.all fun f => f.rings.all fun r => decide (250000 ≤ r.interval)) &&
  decide (s.pwr.frameAt + Config.ticksPerMs ≤ s.now) &&
  (s.lists.all fun l => l.maint.isNone) &&
  (s.shards.all fun d => !d.training && d.regen.isNone && d.move.isNone && d.slots.all fun x => x.migration.isNone) &&
  s.spares.recoveries.isEmpty &&
  s.tier.journal.all fun j => j.void || (j.phase != .waiting && j.phase != .programming)

/-- A flash maintenance activity of a block on record has fallen due (Table: flash maintenance). -/
def Block.due (b : Block) (now awake : Nat) : Bool :=
  !b.bad && (decide (200000 ≤ b.reads) || decide (b.scannedAt + 604800 * Config.ticksPerS ≤ awake) ||
    decide (2 ≤ (b.softAt.filter fun x => decide (now ≤ x + 3600 * Config.ticksPerS)).length))

/-- After a wake for maintenance the node stays in Breeze until what has fallen due has run (R509). -/
def State.maintenanceDue (s : State) : Bool :=
  s.pwr.maintWake && s.channelsOn.any fun c =>
    let x := s.tier.channels.getD c {}
    !x.offline && x.blocks.any fun b => b.due s.now s.awake

/-- LULL_ENTRY (R506, R507, R509, R539, R592): Breeze has been idle since `since`, for lull_after_ms; the Lull group stops, the host
link enters L1.2 and CLKREQ_N is released, and the AO watchdog is held. -/
def execLullEntry (since : Nat) (guestsWait : Bool) (t : Nat) (s : State) : Result :=
  let s := s.at t
  let due := s.cfg.lullAfter != 0 && decide (since + s.cfg.lullAfter * Config.ticksPerMs ≤ s.now)
  if s.pwr.st != .breeze || s.ao.stage != .serving || !due || !s.breezeIdle guestsWait || !s.lullReady || s.maintenanceDue
  then .next s
  else
    let s := s.lullUnits.foldl (fun s u => s.setUnit u .gated) (s.setPState .lull)
    let s := s.modPins fun p => { p with clkreqN := p.clkreqN || p.linkDetect }
    .next ((s.modPwr fun p => { p with lullAt := s.now, maintWake := false }).modAo fun a => { a with watchdogOn := false })

/-- The cores that serve tenants (R15): all that work but the service cores. -/
def State.coresBuilt (s : State) : List UnitId := (s.coresUp.filter fun p => !s.spares.service.contains p).map .core

/-- The cores that running guests hold (R465). -/
def State.guestCores (s : State) : List Nat := s.fns.flatMap fun f => if f.guestState = 2 then f.cores else []

/-- CALM_ENTRY (R506, R508): Lull has lasted calm_after_s. Every neighbour hears that the node rests; the cores are saved, and cores,
arrays and optics turned off. -/
def execCalmEntry (t : Nat) (s : State) : Result :=
  let s := s.at t
  let due := s.cfg.calmAfter != 0 && decide (s.pwr.lullAt + s.cfg.calmAfter * Config.ticksPerS ≤ s.now)
  if s.pwr.st != .lull || !due then .next s
  else
    let linked := (List.range 8).filter fun p => (s.port p).st == .up || (s.port p).st == .narrow
    let s := linked.foldl (fun s p => s.emit (.hello p ⟨s.nodeId, p, true, s.ao.epoch.toNat⟩)) s
    let dark := fun (q : Port) => ({ q with st := .dark, width := 0, known := false, neighbour := 0, neighbourPort := 0, resting := false } : Port)
    let s : State := { s with ports := s.ports.map dark }
    let s := linked.foldl (fun s p => s.setUnit (.port p) .gated) s
    let s := s.coresBuilt.foldl (fun s u => s.setUnit u .gated) s
    .next ((s.setPState .calm).modPwr fun p => { p with coresSaved := true })

/-- WAKE_N is driven low (R591). -/
def State.driveWake (s : State) : State := s.modPins fun p => { p with wakeN := false, wakeAt := s.ao.now }

/-- The node leaves Lull or Calm (R505, R508, R513, R539, R592): it enters Breeze, CLKREQ_N goes low, the units that were off ask
for their wakes, each for its own, the cores are restored, those of running guests waking, the watchdog restarts with its full
period. Ports train when their optics are awake. -/
def State.wakeNode (s : State) : State :=
  let cores := if s.pwr.st == .calm then s.guestCores.map UnitId.core else []
  let s := s.lullUnits.foldl (fun s u => s.needUnit u) (s.setPState .breeze)
  let s := (List.range 8).foldl (fun s p => s.needUnit (.port p)) s
  let s := cores.foldl (fun s u => s.needUnit u) s
  let s := (s.modPwr fun p => { p with coresSaved := false }).modPins fun p => { p with clkreqN := false }
  s.modAo fun a => { a with watchdogOn := true, watchdog := s.watchdogPeriod }

/-- NODE_WAKE (R125, R505, R508, R591): a wake source or, in Lull, a received frame. For another reason than a host request while the
link is in L1.2 or L2, WAKE_N goes low. -/
def execNodeWake (hostRequest linkDown : Bool) (t : Nat) (s : State) : Result :=
  let s := s.at t
  if !s.sleeps then .next s
  else
    let s := s.wakeNode
    .next (if !hostRequest && linkDown then s.driveWake else s)

/-- MAINTENANCE_WAKE (R509): 24 h after it entered Lull the node leaves it, or Calm, by itself. -/
def execMaintenanceWake (t : Nat) (s : State) : Result :=
  let s := s.at t
  if !s.sleeps || s.now < s.pwr.lullAt + 86400 * Config.ticksPerS then .next s
  else .next ((s.wakeNode.modPwr fun p => { p with maintWake := true }).driveWake)

/-- WAKE_N_TIMEOUT (R535, R591): the link reaches L0, or 100 ms have passed. A node reset holds the level. -/
def execWakeNTimeout (linkL0 : Bool) (t : Nat) (s : State) : Result :=
  let s := s.at t
  if !s.pins.wakeN && s.ao.stage != .inReset && (linkL0 || decide (s.pins.wakeAt + 100 * Config.ticksPerMs ≤ s.now)) then
    .next (s.modPins fun p => { p with wakeN := true })
  else .next s

/-! ### Unit wakes and the gust limiter (R512 to R515) -/

/-- Current cost of a unit in units of 10 mA (Table: unit wakes in Breeze). -/
def wakeCost : UnitId → Nat
  | .csu _ => 8
  | .cluster _ => 50
  | .core _ => 12
  | .lull n => if n < 64 then 4 else if n < 68 then 12 else if n = 68 then 40 else 5
  | .port _ => 25

/-- Idle time after which a unit gates, in ms; none for units that stop only in Lull or Calm. -/
def gateAfter : UnitId → Option Nat
  | .csu _ => some 2
  | .cluster _ => some 5
  | .core _ => some 10
  | .lull _ => none
  | .port _ => none

/-- AO ticks that a wake's ramp holds the arbiter: ΔI ÷ gust budget ms (R513). -/
def State.rampTicks (s : State) (u : UnitId) : Nat := (wakeCost u * 250 + s.cfg.gustBudget - 1) / s.cfg.gustBudget

/-- AO ticks from a wake's grant until the unit is ready (R39, R512): 30 µs for a CSU, 60 µs for a cluster and 25 µs for a core,
longer by what the ramp takes more than at 10 A/ms; for the Lull group and optics, whose wake is that of their state, the ramp. -/
def State.wakeTicks (s : State) (u : UnitId) : Nat :=
  let slow := s.rampTicks u - wakeCost u * 25
  match u with
  | .csu _ => 750 + slow
  | .cluster _ => 1500 + slow
  | .core _ => 625 + slow
  | .lull _ => s.rampTicks u
  | .port _ => s.rampTicks u

/-- A unit that is built and enabled. -/
def State.unitBuilt (s : State) (u : UnitId) : Bool :=
  match u with
  | .csu c => s.channelOn c
  | .cluster n => decide (n < 16) && s.tileOn (n / 4)
  | .core n => s.coresBuilt.contains (.core n)
  | .lull _ => s.lullUnits.contains u
  | .port p => s.portOn p

/-- The unit holds no work (R512): a tenant core, that of no running guest. -/
def State.unitIdle (s : State) : UnitId → Bool
  | .csu c => (s.csu c).runs.isEmpty && (s.csu c).queue.isEmpty
  | .cluster n =>
    let a := s.arb (tensorArb (n / 4))
    a.granted.isEmpty && a.waiting.isEmpty
  | .core n => !s.guestCores.contains n
  | .lull _ => false
  | .port _ => false

/-- UNIT_GATE (R512): in Breeze a unit without work since `since` gates itself after its idle time. -/
def execUnitGate (u : UnitId) (since t : Nat) (s : State) : Result :=
  let s := s.at t
  match gateAfter u with
  | none => .next s
  | some ms =>
    let due := decide (since + ms * Config.ticksPerMs ≤ s.now)
    if s.pwr.st != .breeze || !s.unitBuilt u || s.unitState u != .ready || !due || !s.unitIdle u then .next s
    else .next (s.setUnit u .gated)

/-- Tensor clusters awake or waking. -/
def State.clustersAwake (s : State) : Nat :=
  ((s.tilesOn.flatMap tileClusters).filter fun u => s.unitState u == .ready || s.unitState u == .waking).length

/-- The Doldrums profile lets the wake be granted: at most 8 tensor clusters awake (R517, Table: limit profiles). -/
def State.wakeAllowed (s : State) (r : ArbReq) : Bool :=
  match r.work with
  | .wake (.cluster _) => !s.pwr.doldrums || decide (s.clustersAwake < 8)
  | _ => true

/-- GUST_GRANT (R513, R515, R517, R530): when the ramp in force is over, the oldest wake is granted; waits are counted in AO ticks. -/
def execGustGrant (t : Nat) (s : State) : Result :=
  let s := s.at t
  let a := s.arb 0xA1
  let over_ := a.granted.all fun r => match r.work with
    | .wake u => decide (a.lastGrant + s.rampTicks u ≤ s.now)
    | _ => true
  if !over_ || s.sleeps then .next s
  else
    let s := a.granted.foldl (fun s r => s.arbEnd 0xA1 r.work) s
    match oldest 0xA1 (a.waiting.filter s.wakeAllowed) with
    | none => .next s
    | some r =>
      let wait := s.now - r.at_
      let s := s.arbGive 0xA1 r true
      let s := s.modPwr fun p =>
        if wait = 0 then p else { p with gustWaits := p.gustWaits + 1, gustTotal := p.gustTotal + wait, gustMax := max p.gustMax wait }
      match r.work with
      | .wake u => .next (s.setUnit u .waking)
      | _ => .next s

/-- UNIT_WAKE_COMPLETE (R39, R508, R510, R512): the wake time is over and the unit is ready; arrays that come up are calibrated, and
with the last unit of the Lull group every array calibrated more than 50 ms ago; what waited goes on. -/
def execUnitWakeComplete (u : UnitId) (t : Nat) (s : State) : Result :=
  let s := s.at t
  match s.pwr.units.find? (·.unit == u) with
  | none => .next s
  | some x =>
    if x.st != .waking || s.now < x.idleSince + s.wakeTicks u then .next s
    else
      let s := (s.modPwr fun p => { p with units := p.units.filter (·.unit != u) }).arbEnd 0xA1 (.wake u)
      let fresh := match u with
        | .csu c => (List.range 3).map fun i => 128 + 3 * c + i
        | .lull _ => if s.lullReady then s.arraysBuilt.filter fun a =>
            s.spares.arrays.all fun r => r.arr != a || decide (r.calibratedAt + 50 * Config.ticksPerMs < s.now) else []
        | _ => []
      let now := s.now
      let built := fresh.filter s.arraysBuilt.contains
      let s := s.modArrs built fun r => { r with calibratedAt := now }
      match u with
      | .csu c => .next (s.csuRequest c)
      | _ => .next s

/-! ### Clock limits (R517 to R519, R526) -/

/-- One step down of both clocks (R517). -/
def stepDown (arith core : Nat) : Nat × Nat := (max 600 (arith - 150), max 1000 (core - 125))
/-- One step up. -/
def stepUp (arith core : Nat) : Nat × Nat := (min 2400 (arith + 150), min 3000 (core + 125))
/-- The demand is below the maximum clocks. -/
def limits (arith core : Nat) : Bool := decide (arith < 2400) || decide (core < 3000)

/-- One step of a demand that is being lifted, at most one a millisecond (R519, R523). -/
def Power.liftDoldrums (p : Power) (now : Nat) : Power :=
  if p.doldrums || !limits p.dolArith p.dolCore || now < p.dolAt + Config.ticksPerMs then p
  else
    let n := stepUp p.dolArith p.dolCore
    { p with dolArith := n.1, dolCore := n.2, dolAt := now }

/-- POWER_CAP_TICK (R518, R523): once a millisecond the average power is compared with the cap; a Doldrums profile being lifted takes
its step as well. -/
def execPowerCapTick (r : Readings) (t : Nat) (s : State) : Result :=
  let s := s.at t
  if s.now < s.pwr.capAt + Config.ticksPerMs then .next s
  else
    let s := s.setInput r.inputMv r.inputMa r.inputW
    let s := s.modPwr fun p => { p.liftDoldrums s.now with capAt := s.now }
    let p := s.pwr
    let was := limits p.capArith p.capCore
    let below := decide (r.inputW + 50 < s.cfg.powerCap)
    let since := if !below then none else some (p.capBelow.getD s.now)
    if s.cfg.powerCap < r.inputW then
      let n := stepDown p.capArith p.capCore
      let s := s.modPwr fun p =>
        { p with capArith := n.1, capCore := n.2, capBelow := none, events := if was then p.events else p.events ||| 0x10#6 }
      .next (if was then s else s.log 4 1 [])
    else
      let n := if was && (since.any fun x => decide (x + 10 * Config.ticksPerMs ≤ s.now)) then stepUp p.capArith p.capCore
        else (p.capArith, p.capCore)
      let s := s.modPwr fun p => { p with capArith := n.1, capCore := n.2, capBelow := since }
      .next (if was && !limits n.1 n.2 then s.log 4 2 [] else s)

/-- BRAKE_ASSERT (R519): the brake profile applies; each assertion is logged. -/
def execBrakeAssert (t : Nat) (s : State) : Result :=
  let s := s.at t
  let s := (s.modPins fun p => { p with brakeN := false }).modPwr fun p =>
    { p with brake := true, brakeArith := 900, brakeCore := 1500, events := p.events ||| 0x04#6 }
  .next (s.log 4 3 [])

/-- BRAKE_RELEASE (R519): PWR_BRAKE_N has been high since `since`; after 10 ms the profile is lifted one step a millisecond. -/
def execBrakeRelease (since t : Nat) (s : State) : Result :=
  let s := s.at t
  let p := s.pwr
  if !p.brake || s.now < since + 10 * Config.ticksPerMs || s.now < p.brakeAt + Config.ticksPerMs then .next s
  else
    let n := stepUp p.brakeArith p.brakeCore
    let on := limits n.1 n.2
    let s := (s.modPins fun p => { p with brakeN := true }).modPwr fun p =>
      { p with brake := on, brakeArith := n.1, brakeCore := n.2, brakeAt := s.now }
    .next (if on then s else s.log 4 4 [])

/-! ### Supply sag (R520 to R525) -/

/-- Clusters past the eighth gate in Doldrums (R517): two of each tile stay, or the lowest eight. -/
def State.gateClusters (s : State) : State :=
  let awake := (s.tilesOn.flatMap tileClusters).filter fun u => s.unitState u == .ready
  if awake.length ≤ 8 then s
  else
    let keep := s.tilesOn.flatMap fun tile => (tileClusters tile).take 2
    (awake.filter fun u => !keep.contains u).foldl (fun s u => s.setUnit u .gated) s

/-- WRITE_INHIBIT (R432, R520, R522): the bank falls through 42.0 V. Doldrums begins: its profile, the event, the flush of the journal
into the erased reserve; erases suspend. -/
def execWriteInhibit (mv t : Nat) (s : State) : Result :=
  let s := (s.at t).setVolts mv
  if 42000 ≤ mv || s.pwr.doldrums then .next s
  else
    let s := s.modPwr fun p =>
      { p with doldrums := true, doldrumsAt := s.now, hold := none, dolArith := 600, dolCore := 1000, events := p.events ||| 0x01#6,
               entries := p.entries + 1 }
    let s := ((s.log 2 1 []).platformEvent 7 1).flushReserve
    let s := s.modTier fun e => { e with channels := e.channels.map fun c => { c with suspended := true } }
    .next s.gateClusters

/-- RELEASE_HOLD_START (R521): a rise through 43.5 V in Doldrums. -/
def execReleaseHoldStart (mv t : Nat) (s : State) : Result :=
  let s := (s.at t).setVolts mv
  if mv < 43500 || !s.pwr.doldrums || s.pwr.hold.isSome then .next s
  else .next (s.modPwr fun p => { p with hold := some s.now })

/-- RELEASE_HOLD_BREAK (R521): a fall below 43.5 V during the hold. -/
def execReleaseHoldBreak (mv t : Nat) (s : State) : Result :=
  let s := (s.at t).setVolts mv
  if 43500 ≤ mv then .next s else .next (s.modPwr fun p => { p with hold := none })

/-- A time in AO ticks as milliseconds, rounded up. -/
def msUp (ticks : Nat) : Nat := (ticks + Config.ticksPerMs - 1) / Config.ticksPerMs

/-- DOLDRUMS_EXIT (R521, R523): the hold of 10 ms is complete; held work resumes, the profile is lifted step by step. -/
def execDoldrumsExit (t : Nat) (s : State) : Result :=
  let s := s.at t
  if !s.pwr.doldrums || !(s.pwr.hold.any fun h => decide (h + 10 * Config.ticksPerMs ≤ s.now)) then .next s
  else
    let ms := msUp (s.now - s.pwr.doldrumsAt)
    let s := s.modPwr fun p =>
      { p with doldrums := false, hold := none, events := p.events ||| 0x02#6, lastMs := ms, dolAt := s.now }
    let s := (s.log 2 2 (toLE 4 ms)).platformEvent 7 0
    .next (s.modTier fun e => { e with channels := e.channels.map fun c => { c with suspended := false } })

/-! ### Temperature (R526, R528) -/

/-- Tiles, the hub as 4, whose arrays are paused: from above 108 °C until 105 °C or below (R526). -/
def pausedTiles (old junctions : List Nat) : List Nat :=
  (List.range 5).filter fun i =>
    let x := junctions.getD i 0
    decide (108 < x) || (old.contains i && decide (105 < x))

/-- CSUs follow the pause of their tile: one that goes on requests its page again. -/
def State.applyPause (s : State) : State :=
  (List.range 32).foldl (fun s c =>
    let hot := s.pwr.hotTiles.contains (c / 8)
    if (s.csu c).paused == hot then s
    else
      let s := s.modCsu c fun u => { u with paused := hot }
      if hot then s else s.csuRequest c) s

/-- THERMAL_TICK (R526, R527, R588): once a millisecond the junctions set the thermal demand; arrays above 108 °C pause. THERM_N is
low while the demand limits; in thermal shutdown, while a sensor reads above 100 °C; through a reset it stays (R535). -/
def execThermalTick (r : Readings) (t : Nat) (s : State) : Result :=
  let s := s.at t
  if s.now < s.pwr.thAt + Config.ticksPerMs || s.ao.stage == .off || s.ao.stage == .inReset then .next s
  else
    let s := (s.setTemps r).modPwr fun p => { p with thAt := s.now }
    let top := (hottest r.junctions).2
    if s.ao.stage == .shutdown then .next (s.modPins fun p => { p with thermN := decide (top ≤ 100) })
    else
      let p := s.pwr
      let was := limits p.thArith p.thCore
      let hot := pausedTiles p.hotTiles r.junctions
      let newly := hot.filter fun i => !p.hotTiles.contains i
      let since := if 100 < top then none else some (p.thBelow.getD s.now)
      let up := was && (since.any fun x => decide (x + 10 * Config.ticksPerMs ≤ s.now)) && decide (p.thStepAt + 10 * Config.ticksPerMs ≤ s.now)
      let n := if 105 < top then stepDown p.thArith p.thCore else if up then stepUp p.thArith p.thCore else (p.thArith, p.thCore)
      let now_ := limits n.1 n.2
      let s := s.modPwr fun p =>
        { p with thArith := n.1, thCore := n.2, thBelow := since, thStepAt := if up then s.now else p.thStepAt, hotTiles := hot,
                 events := if now_ && !was then p.events ||| 0x08#6 else p.events }
      let s := if now_ && !was then s.log 3 1 [] else if was && !now_ then s.log 3 2 [] else s
      let s := newly.foldl (fun s i => s.log 3 3 (toLE 1 i)) s
      .next ((s.modPins fun p => { p with thermN := !now_ }).applyPause)

/-- INLET_HIGH (R528): the inlet has exceeded 40 °C for 1 s. -/
def execInletHigh (inletC t : Nat) (s : State) : Result :=
  let s := s.at t
  let old := s.pwr.inletC
  let s := (s.modPwr fun p => { p with inletC := inletC }).crossed 5 old inletC
  if inletC ≤ 40 || !(s.pwr.inletSince.any fun x => decide (x + Config.ticksPerS ≤ s.now)) || s.pwr.events.getLsbD 5 then .next s
  else .next ((s.modPwr fun p => { p with events := p.events ||| 0x20#6 }).log 3 5 [])

end Sys2Proof.Machine
end

