-- ==== Sys2Proof/Machine/Guests.lean ====
section
/-! DEFINITION. Resident programs (R463 to R468): a function's guest stops, boots from the image its settings name, or faults. -/

namespace Sys2Proof.Machine

open Sys2Proof

/-- Guest memory in bytes, charged to the function's T1 quota while a guest holds it (R463). -/
def Fn.guestBytes (f : Fn) : Nat := f.guestGib * 2 ^ 30

/-- The guest holds its memory: booting, running, or stopped on a fault. -/
def Fn.guestHeld (f : Fn) : Bool := f.guestState == 1 || f.guestState == 2 || f.guestState == 3

/-- The guest stops; its memory is zeroed and its charge released (R457 step 5, R464). -/
def State.stopGuest (s : State) (f : Nat) : State :=
  let s := if (s.fn f).guestHeld then s.release f .t1 (s.fn f).guestBytes else s
  s.modFn f fun x => { x with guestState := 0 }

/-- The image that a function's settings name: a model package, READY, whose program version marks a core image (R464). -/
def State.guestImage (s : State) (f : Nat) : Option Model :=
  (s.model? (s.fn f).guestColl (s.fn f).guestModel).filter fun m =>
    m.st == .ready && Config.coreImageProgram (le m.header 4 2)

/-- The tenant cores that no function holds, lowest first (R465). -/
def State.coresFree (s : State) : List Nat :=
  s.coresUp.filter fun p => !s.spares.service.contains p && s.fns.all fun f => !f.cores.contains p

/-- `n` of some cores on as few tiles as hold them, the lowest first (R465): those of the lowest tile that has enough; with none,
all of the tile that has the most, and the rest from the others (log 131). -/
def packCores : Nat → Nat → List Nat → List Nat
  | 0, _, _ => []
  | fuel + 1, n, free =>
    let on := fun (t : Nat) => free.filter (· / 8 == t)
    match (List.range 4).find? fun t => decide (n ≤ (on t).length) with
    | some t => (on t).take n
    | none =>
      let best := (List.range 4).foldl (fun b t => if (on b).length < (on t).length then t else b) 0
      on best ++ packCores fuel (n - (on best).length) (free.filter (· / 8 != best))

/-- The functions named get the cores of their shares, ascending (R465). -/
def State.placeCores (s : State) (fs : List Nat) : State :=
  let s := fs.foldl (fun s f => s.modFn f fun x => { x with cores := [] }) s
  fs.foldl (fun s f => s.modFn f fun x => { x with cores := packCores 4 x.coreShare s.coresFree }) s

/-- The guest boots when it has a core and an image and T1 holds its memory; without image or memory guest_state reads 4 (R464). The
boot is measured (R555, component 7), and its cores wake (R39, R512). -/
def State.bootGuest (s : State) (f : Nat) : State :=
  let x := s.fn f
  if x.coreShare = 0 || x.guestColl = 0 then s
  else
    match s.guestImage f with
    | none => s.modFn f fun x => { x with guestState := 4 }
    | some m =>
      if !s.fits f .t1 x.guestBytes || !s.t1Room x.guestBytes then (s.quotaRefuse f 1).modFn f fun x => { x with guestState := 4 }
      else
        let s := x.cores.foldl (fun s c => s.needUnit (.core c)) s
        let s := s.modFn f fun x => { x.charge .t1 x.guestBytes with guestState := 2 }
        s.modAo fun a =>
          { a with guestChain := Config.shake256 (a.guestChain ++ toLE 2 f ++ Config.shake256 (m.header ++ m.parts.flatMap (·.2))) }

/-- The guest stops and boots again under the settings as they are now (R464, R569). -/
def State.restartGuest (s : State) (f : Nat) : State := (s.stopGuest f).bootGuest f

/-- GUEST_FAULT (R467): a running guest takes a fault it does not handle; its queues, regions and memory stay. -/
def execGuestFault (fn : Nat) (s : State) : Result :=
  .next (if (s.fn fn).guestState = 2 then s.modFn fn fun x => { x with guestState := 3 } else s)

end Sys2Proof.Machine
end

