-- ==== Sys2Proof/Machine/Spares.lean ====
section
/-! DEFINITION. Spares and recoveries that faults share (R562 to R572), and the background work with schedules of its own: patrol
scrub, link adaptation, calibration and temperature tracking (R181, R213 to R217, R559). -/

namespace Sys2Proof.Machine

open Sys2Proof

/-! ### Elements (R562, R563, R570)

Within a channel the model numbers dies 0 to 31, arrays of the CSU 32 to 34, the sequencer and bus 35; within a stack dies 0 to 15,
anything else from 16; within tiles 0 to 3 clusters 0 to 7, anything else from 8. -/

/-- The requester index of an element's domain at the recovery arbiter (R570). -/
def domainOf (e : Element) : Nat :=
  if e.kind = 0 then e.domain else if e.kind = 1 then 32 + e.domain else if e.kind = 2 then 64 + e.domain
  else if e.kind = 3 then 69 + e.domain else 77 + e.domain

def flashDie (e : Element) : Bool := e.kind == 0 && decide (e.element < 32)
def csuArray (e : Element) : Bool := e.kind == 0 && decide (32 ≤ e.element) && decide (e.element < 35)
def dramDie (e : Element) : Bool := e.kind == 1 && decide (e.element < 16)
def cluster (e : Element) : Bool := e.kind == 2 && decide (e.domain < 4) && decide (e.element < 8)
def coarseArray (e : Element) : Bool := e.kind == 2 && e.domain == 4 && decide (e.element < 72)

/-- An event of class 8 about an element (R584). -/
def State.logElement (s : State) (code : Nat) (e : Element) (count : Nat) : State :=
  s.log 8 code (toLE 4 (elementWord e.kind e.domain e.element) ++ toLE 8 count)

/-- A spare of the element's kind is left for it (R564). -/
def State.spareLeft (s : State) (e : Element) : Bool :=
  if flashDie e then (s.tier.channels.getD e.domain {}).spareDie
  else if csuArray e then !s.spares.csuUsed.contains e.domain
  else if dramDie e then !s.spares.dramUsed.contains e.domain
  else if cluster e then s.tileOn e.domain && s.spares.clusters.getD e.domain 0 != 0
  else if coarseArray e then s.spares.coarse != 0
  else if e.kind = 4 then s.coresSpare != 0
  else false

/-- The array that an element is. -/
def arrayOf (e : Element) : Option Nat :=
  if coarseArray e then some e.element else if csuArray e then some (128 + 3 * e.domain + (e.element - 32)) else none

/-- A spare array comes into use for an array (R213, R564): the stand-in, unless enough arrays of the group are in use. -/
def State.spareArray (s : State) (a : Nat) : State :=
  let b := s.standIn a
  let s := s.modArr a fun r => { r with st := 3 }
  match b with
  | some b => if (s.inUse a).length < groupSize a then s.swapIn a b else s
  | none => s

/-- An array goes offline with no spare (R569): a coach on it goes on with another array in use, the field with one less. -/
def State.loseArray (s : State) (a : Nat) : State :=
  let s := s.modArr a fun r => { r with st := 3 }
  if a < 72 then s.modSpares fun x => { x with field := x.field.filter (· != a) }
  else
    match s.inUse a with
    | b :: _ => s.switchArray a b
    | [] => s

/-- A spare is taken (R564): logged, and the last of its kind as well (R584). -/
def State.useSpare (s : State) (e : Element) : State :=
  let s := match arrayOf e with | some a => s.spareArray a | none => s
  let s :=
    if flashDie e then s.modChannel e.domain fun c => { c with spareDie := false }
    else s.modSpares fun x =>
      if csuArray e then { x with csuUsed := x.csuUsed ++ [e.domain] }
      else if dramDie e then { x with dramUsed := x.dramUsed ++ [e.domain] }
      else if cluster e then { x with clusters := x.clusters.modify e.domain (· - 1) }
      else if coarseArray e then { x with coarse := x.coarse - 1 }
      else
        let spare := [32, 33].find? fun c => s.tileOn (2 * (c - 32)) && !x.corePlaces.any (·.1 == c)
        let over_ := x.corePlaces.map fun y => if y.1 = e.domain then (y.1, 255) else y
        { x with cores := x.cores - 1,
                 corePlaces := over_ ++ match spare, s.corePlace e.domain with | some c, some p => [(c, p)] | _, _ => [] }
  let s := s.logElement 3 e 0
  let s := s.modSpares fun x => { x with offline := x.offline.filter (· != e), failed := x.failed.filter (· != e) }
  if s.spareLeft e then s else s.logElement 0x0A e 0

/-! ### Recoveries (R569 to R572) -/

/-- A function's share falls by a core (R569): its guest restarts on fewer cores, and stops at 0. -/
def State.shrinkShare (s : State) (f core : Nat) : State :=
  let held := (s.fn f).guestHeld
  let s := (if held then s.stopGuest f else s).modFn f fun x => { x with coreShare := x.coreShare - 1, cores := x.cores.erase core }
  if held then s.bootGuest f else s

/-- A core is gone with no spare (R569): a service core is replaced, by a tenant core in no share, else by one of the highest-numbered
function that holds one; a core in a share makes that share fall (log 131). -/
def State.loseCore (s : State) (core : Nat) : State :=
  if s.spares.service.contains core then
    let put := fun (s : State) (c : Nat) => s.modSpares fun x => { x with service := x.service.map fun y => if y = core then c else y }
    match s.coresFree, ((List.range 128).reverse).find? fun f => (s.fn f).cores != [] with
    | c :: _, _ => put s c
    | [], some f =>
      let c := (s.fn f).cores.getLastD core
      put (s.shrinkShare f c) c
    | [], none => s
  else
    match (List.range 128).find? fun f => (s.fn f).cores.contains core with
    | some f => s.shrinkShare f core
    | none => s

/-- An element has no spare, or may not take one: it is offline (R565, R567, R569). A flash die's capacity comes out of
over-provisioning. -/
def State.goOffline (s : State) (e : Element) : State :=
  if s.spares.offline.contains e then s
  else
    let s := (s.modSpares fun x => { x with offline := x.offline ++ [e] }).logElement 5 e 0
    let s := if s.ao.opt.sparePolicy = 1 then s.modSpares fun x => { x with failed := x.failed ++ [e] } else s
    if flashDie e then s.modChannel e.domain fun c => { c with overProv := c.overProv - 128, diesLost := c.diesLost + 1, freeBlocks := c.freeBlocks - 4096 }
    else if e.kind = 4 then match s.corePlace e.domain with | some p => s.loseCore p | none => s
    else match arrayOf e with | some a => (s.loseArray a).resumeCsus | none => s

/-- The element takes a spare, or goes offline (R564, R565, R572). -/
def State.spareOrOffline (s : State) (e : Element) : State :=
  if s.ao.opt.sparePolicy != 1 && s.spareLeft e then (s.useSpare e).resumeCsus else s.goOffline e

/-- A fault or a copy asks for a recovery of its domain (R570, R572): one that runs is joined at once, one that waits takes the
element along, else a request goes to the recovery arbiter. -/
def State.recover (s : State) (e : Element) : State :=
  let d := domainOf e
  match s.spares.recoveries.find? (·.domain == d) with
  | some r =>
    let s := s.modSpares fun x => { x with recoveries := modWhere x.recoveries (·.domain == d) fun r => { r with elements := r.elements ++ [e] } }
    if r.running then s.spareOrOffline e else s
  | none =>
    (s.modSpares fun x => { x with recoveries := x.recoveries ++ [⟨d, [e], s.now, false, false, 0⟩] }).arbRequest 0xA2 d false true
      (.recovery d)

/-- A spare is brought in while the element can still be read, or at the PF's word, and a recovery of its domain copies or rebuilds
what it held (R564, R565). -/
def State.replaceElement (s : State) (e : Element) : State :=
  let s := s.useSpare e
  let d := domainOf e
  if s.spares.recoveries.any (·.domain == d) then s
  else
    (s.modSpares fun x => { x with recoveries := x.recoveries ++ [⟨d, [e], s.now, false, true, 0⟩] }).arbRequest 0xA2 d false true
      (.recovery d)

/-! ### Arrays (R181, R213 to R217) -/

/-- The element that an array is. -/
def arrayElement (a : Nat) : Element := if a < 72 then ⟨2, 4, a⟩ else ⟨0, (a - 128) / 3, 32 + (a - 128) % 3⟩

/-- A new error estimate; above 1.6 % of full scale the array is faulty: it is retired and a spare is called for (R213, R564). -/
def State.setError (s : State) (a ppm : Nat) : State :=
  let s := s.modArr a fun r => { r with errorPpm := ppm }
  if 16000 < ppm && (s.arrRec a).st != 3 then
    ((s.modArr a fun r => { r with st := 3 }).logElement 1 (arrayElement a) 0).recover (arrayElement a)
  else s

/-- The array in whose place a calibrated array is needed: a retired one whose coach or place in the field no other took over. -/
def State.orphan (s : State) (a : Nat) : Option Nat :=
  (arrayGroup a).find? fun i =>
    i != a && (s.arrRec i).st == 3 && (s.spares.field.contains i || s.eng.csus.any fun u => u.runs.any (·.arrays.contains i))

/-- Calibration of an array begins, 20 µs offline (R215 step 3). -/
def State.beginCalibration (s : State) (a : Nat) : State := s.modArr a fun r => { r with st := 2, startedAt := s.now }

/-- It ends (R181, R215 steps 3 and 4): offset and gain trims and an error estimate are new, free values; the array is a stand-in,
or in use where its group lacks one. CSUs that held back go on. -/
def State.endCalibration (s : State) (a ppm : Nat) : State :=
  let short := decide ((s.inUse a).length < groupSize a)
  let (i, s) := s.takeFree
  let (j, s) := s.takeFree
  let s := s.modArr a fun r => { r with st := b2n !short, calibratedAt := s.now, trackedAt := s.now, trims := i, gains := j }
  let s := match s.orphan a with | some x => if short then s.switchArray x a else s | none => s
  (s.setError a ppm).resumeCsus

/-- Its 20 µs are over. -/
def State.calibrated (s : State) (a : Nat) : Bool := decide ((s.arrRec a).startedAt + 20 * Config.ticksPerUs ≤ s.now)

/-- The group's next calibration may begin (R215): one array of a CSU at a time, one in each 16.7 ms, a third of the 50 ms; two
coarse arrays at a time. -/
def State.slotFree (s : State) (a : Nat) : Bool :=
  let out := (arrayGroup a).filter fun i => (s.arrRec i).st == 2
  if a < 72 then decide (out.length < 2)
  else out.isEmpty && (s.spareless a || (arrayGroup a).all fun i => decide ((s.arrRec i).calibratedAt + 50 * Config.ticksPerMs / 3 ≤ s.now))

/-- The array has been idle for 20 µs (R217). -/
def State.arrayIdle (s : State) (a : Nat) : Bool :=
  if a < 72 then
    let f := s.arb 0x80
    f.granted.isEmpty && f.waiting.isEmpty && decide (f.idleAt + 20 * Config.ticksPerUs ≤ s.now)
  else !(s.csu ((a - 128) / 3)).runs.any (·.arrays.contains a) && decide ((s.arrRec a).idleAt + 20 * Config.ticksPerUs ≤ s.now)

/-- CALIBRATION_SLOT (R44, R181, R215 to R217): the stand-in takes the array's columns, operating point and row stream, and the array
calibrates; the slot's next command, 20 µs later, ends it. With no stand-in left, an array idle for 20 µs calibrates where it is. -/
def execCalibrationSlot (array errorPpm t : Nat) (s : State) : Result :=
  let s := s.at t
  let r := s.arrRec array
  if !s.arraysBuilt.contains array then .next s
  else if r.st = 2 then .next (if s.calibrated array then s.endCalibration array errorPpm else s)
  else if r.st != 0 || !s.slotFree array then .next s
  else
    match s.standIn array with
    | some b => .next ((s.swapIn array b).beginCalibration array)
    | none => .next (if s.spareless array && s.arrayIdle array then s.beginCalibration array else s)

/-- CALIBRATION_FORCED (R44, R217): with no stand-in, 50 ms after its last calibration, the array calibrates between two pages, or
between two grants of the field, for 20 µs; then what held back goes on. -/
def execCalibrationForced (array errorPpm t : Nat) (s : State) : Result :=
  let s := s.at t
  let c := (array - 128) / 3
  let busy := if array < 72 then !(s.arb 0x80).granted.isEmpty else s.arbHolds c (.page c)
  if !s.calibrationDue array || !s.spareless array then .next s
  else if (s.arrRec array).st = 2 then .next (if s.calibrated array then s.endCalibration array errorPpm else s)
  else if (s.arrRec array).st != 0 || busy || !s.slotFree array then .next s
  else
    let s := s.beginCalibration array
    .next (if array < 72 then s else (s.arbWithdraw (· == .page c)).csuRequest c)

/-- ARRAY_TEMPERATURE_TRACK (R181, R213): every 1 ms the reference columns give new gain trims, free values, and the error estimate.
-/
def execArrayTemperatureTrack (array errorPpm t : Nat) (s : State) : Result :=
  let s := s.at t
  let r := s.arrRec array
  if !s.arraysBuilt.contains array || r.st == 3 || s.now < r.trackedAt + Config.ticksPerMs then .next s
  else
    let (j, s) := s.takeFree
    .next ((s.modArr array fun r => { r with gains := j, trackedAt := s.now }).setError array errorPpm)

/-! ### What an array holds (R179, R180, R182 to R185) -/

/-- Table: array properties. -/
def arrayRows : Nat := 256
def arrayColumns : Nat := 256
def referenceColumns : Nat := 4
def segmentRows : Nat := 64

/-- The columns that a quantised vector takes, one for each row tile; an escaped code is its group's zero point (R180, R184). -/
def columnsOf (gs : List QGroup) : List (List Int) := let v := gs.flatMap (·.plain); chunks arrayRows v.length v

/-- The columns of the level-1 centroids of all shards on the node (R182, R185). -/
def State.coarseCells (s : State) : List (List Int) := s.owned.flatMap fun d => d.centroids.flatMap columnsOf

/-- What an array is for (R185, R215). -/
inductive ArrayRole where
  | level1 | pool | csu | standIn | calibrating | retired
  deriving DecidableEq, Repr

def State.arrayRole (s : State) (a : Nat) : ArrayRole :=
  match (s.arrRec a).st with
  | 0 => if 72 ≤ a then .csu else if (s.spares.field.take s.level1Arrays).contains a then .level1 else .pool
  | 1 => .standIn
  | 2 => .calibrating
  | _ => .retired

/-- The codes stored in an array, column by column: a level-1 array's share of the centroids, and on a CSU one row tile of the seats
of the coach that uses the array (R182 to R185). -/
def State.arrayCells (s : State) (a : Nat) : List (List Int) :=
  if a < 72 then
    match (s.spares.field.take s.level1Arrays).zipIdx.find? (·.1 == a) with
    | some x => (s.coarseCells.drop (arrayColumns * x.2)).take arrayColumns
    | none => []
  else
    let run := (s.csu ((a - 128) / 3)).runs.find? (·.arrays.contains a)
    match run, run.bind fun r => s.eng.coaches.find? (·.id == r.coach) with
    | some r, some k =>
      let tile := ((r.arrays.zipIdx.find? (·.1 == a)).map (·.2)).getD 0
      match s.shard? k.shard, (s.shard? k.shard).bind fun d => s.coll? d.coll with
      | some d, some c => k.seats.map fun x =>
          let q := ((s.share? x.2.1).map (·.msg.params.query)).getD []
          (columnsOf (sq4 (projectFor c.spec d.matrix (queryFor c.spec q)))).getD tile []
      | _, _ => []
    | _, _ => []

/-! ### Scrub and link adaptation (R559) -/

/-- PATROL_SCRUB (R559): a step of the pass over a stack, under its port's ceiling; the errors it met are counted. -/
def execPatrolScrub (stack corrected uncorrectable t : Nat) (s : State) : Result :=
  let s := s.at t
  if !s.stacksOn.contains stack then .next s
  else
    .next (s.background [0x40 + stack] 0x14 stack false fun s => s.modSpares fun x =>
      let old := ((x.dramErrors.find? (·.1 == stack)).map (·.2)).getD (0, 0)
      { x with dramErrors := x.dramErrors.filter (·.1 != stack) ++ [(stack, old.1 + corrected, old.2 + uncorrectable)], scrubAt := s.awake })

/-- LINK_ADAPTATION (R41, R509, R517, R559): once per second in Gale and Breeze, but not in Doldrums, a port's lanes are retuned,
within the background ceiling of the port: what it costs of the port's bytes is a free value, counted in the window. -/
def execLinkAdaptation (port setting t : Nat) (s : State) : Result :=
  let s := s.at t
  let q := s.port port
  if !(q.st == .up || q.st == .narrow) || s.pwr.doldrums || s.awake < q.adaptAt + Config.ticksPerS then .next s
  else
    let a := s.arb (0x100 + port)
    let fg := (s.headFrames port).any fun f => !f.tag.background && f.tag.kind != 0x19
    if fg && decide (s.cfg.fabricPct * a.sent ≤ a.bgHeld * 100) then .next s
    else
      let (i, s) := s.takeFree
      let bytes := Config.freeNat i
      let s := s.modArb (0x100 + port) fun a => { a.addHeld 3 bytes with sent := a.sent + bytes }
      .next (s.modPort port fun q => { q with equaliser := setting, adaptAt := s.awake })

end Sys2Proof.Machine
end

