-- ==== Sys2Proof/Machine/ControlNode.lean ====
section
/-! DEFINITION. Meanings of the control commands on the node itself: GET-CONFIG and SET-CONFIG (R105, R428, R463, R464, R491, R529,
R561, R562, R565), WRITE-OPTIONS (R106), ATTEST (R554, R555), GET-LOG (R558, R588); the Innkeeper takeover (R96). -/

namespace Sys2Proof.Machine

open Sys2Proof

/-! ### Configuration parameters (R105) -/

/-- The entries of a request, in order: index, parameter, value. -/
def configEntries (b : Bytes) : List (Nat × Nat × Nat) :=
  (List.range (byteAt b 0x20)).map fun i => (i, le b (0x28 + 8 * i) 2, le b (0x2C + 8 * i) 4)

/-- A parameter of the tables: configuration, compression, traffic, power, maintenance, guest. -/
def configListed (p : Nat) : Bool :=
  (decide (1 ≤ p) && decide (p ≤ 5)) || (decide (0x10 ≤ p) && decide (p ≤ 0x12)) || (decide (0x20 ≤ p) && decide (p ≤ 0x30)) ||
  (decide (0x40 ≤ p) && decide (p ≤ 0x42)) || (decide (0x60 ≤ p) && decide (p ≤ 0x6A)) || (decide (0x100 ≤ p) && decide (p < 0x300))

/-- The value of a parameter (R105); commands that are parameters read 0 (R428, R562). -/
def State.configValue (s : State) (p : Nat) : Nat :=
  let c := s.cfg
  if p = 0x01 then c.powerCap else if p = 0x02 then c.gustBudget else if p = 0x03 then c.watchdogMs
  else if p = 0x04 then c.alertMask.toNat else if p = 0x05 then b2n c.readOnlySideband
  else if p = 0x12 then c.compressDefault
  else if 0x20 ≤ p ∧ p < 0x28 then c.admQuantum.getD (p - 0x20) 0
  else if 0x28 ≤ p ∧ p < 0x30 then c.egQuantum.getD (p - 0x28) 0
  else if p = 0x30 then c.frameOverhead
  else if p = 0x40 then c.lullAfter else if p = 0x41 then c.calmAfter else if p = 0x42 then b2n c.galeHold
  else if p = 0x60 then c.flashPct else if p = 0x61 then c.stackPct else if p = 0x62 then c.tensorPct
  else if p = 0x63 then c.fabricPct else if p = 0x64 then c.coarsePct else if p = 0x65 then c.rebuildPct
  else if p = 0x66 then c.scrubHours else if p = 0x6A then c.shardLostAfter
  else if 0x100 ≤ p ∧ p < 0x180 then (s.fn (p - 0x100)).coreShare
  else if 0x180 ≤ p ∧ p < 0x200 then (s.fn (p - 0x180)).guestColl
  else if 0x200 ≤ p ∧ p < 0x280 then (s.fn (p - 0x200)).guestModel
  else if 0x280 ≤ p ∧ p < 0x300 then (s.fn (p - 0x280)).guestGib
  else 0

/-- `v` lies in a range. -/
def within (lo hi v : Nat) : Bool := decide (lo ≤ v) && decide (v ≤ hi)

/-- An element code (R562); none where a reserved bit is set. -/
def elementOf (v : Nat) : Option Element :=
  if v / 2 ^ 20 = 0 then some ⟨field v 0 4, field v 4 8, field v 12 8⟩ else none

/-- The value of an entry is allowed (the range columns; R428, R562, R565). `to_`: the node last named by move_to_node. -/
def State.configGood (s : State) (to_ : Option Nat) (p v : Nat) : Bool :=
  if p = 0x01 then within 600 1500 v && v % 50 == 0 else if p = 0x02 then within 2 40 v
  else if p = 0x03 then within 100 16000 v else if p = 0x05 then within 0 1 v
  else if p = 0x10 ∨ p = 0x11 then (s.coll? v).any (·.st != .dropping)
  else if p = 0x12 then within 0 2 v
  else if 0x20 ≤ p ∧ p < 0x28 then within 1 64 v else if 0x28 ≤ p ∧ p < 0x30 then within 1024 65536 v
  else if p = 0x30 then within 0 255 v
  else if p = 0x40 then within 0 60000 v else if p = 0x41 then within 0 86400 v else if p = 0x42 then within 0 1 v
  else if p = 0x60 then within 5 40 v else if p = 0x61 then within 2 20 v else if p = 0x62 then within 2 30 v
  else if p = 0x63 then within 1 10 v else if p = 0x64 then within 2 20 v else if p = 0x65 then within 10 60 v
  else if p = 0x66 then within 6 168 v
  else if p = 0x67 then (elementOf v).any fun e => s.spares.failed.contains e && s.spareLeft e
  else if p = 0x68 then within 0 4095 v
  else if p = 0x69 then to_.isSome && s.shards.any fun d => d.id == v && d.forwardTo.isNone
  else if p = 0x6A then within 60 86400 v
  else if 0x100 ≤ p ∧ p < 0x180 then decide (v ≤ s.tenantCores)
  else if 0x280 ≤ p ∧ p < 0x300 then within 1 64 v
  else true

/-- ALERT_N is low while an unacknowledged event is logged that the mask selects (R588). -/
def State.alertLevel (s : State) : State :=
  let low := s.ao.log.any fun e => decide (s.ao.ackedTo ≤ e.entry) && s.cfg.alertMask.toNat.testBit e.cls
  s.modPins fun p => { p with alertN := !low }

/-- gale_hold (R506): Gale clocks and ungates every unit; without it the node is in Breeze. -/
def State.setGale (s : State) (on : Bool) : State :=
  let s : State := { s with cfg := { s.cfg with galeHold := on } }
  if on then (s.pwr.units.map (·.unit)).foldl (fun s u => s.needUnit u) (s.setPState .gale)
  else if s.pwr.st == .gale then s.setPState .breeze
  else s

/-- A collection's compression (R428), here and on its other owner nodes; only the PF may command it. -/
def State.setCompress (s : State) (coll : Nat) (on : Bool) : State :=
  let s := s.modColl coll fun c => { c with compress := on }
  (((s.coll? coll).map s.otherOwners).getD []).foldl (fun s o => s.produceControl (some 0) o (.compress coll on)) s

/-- The move of a shard starts (R323 step 1, R562): it passes the ledger arbiter for its cut. A move that runs already goes on. -/
def State.startMove (s : State) (shard to_ : Nat) : State :=
  match (s.shard? shard).filter fun d => d.move.isNone && to_ != s.nodeId with
  | none => s
  | some d =>
    let s := s.modShard shard fun d => { d with move := some ⟨to_, 0, 0⟩ }
    if d.waiting.isEmpty then (s.leaveLedger (.pass .move) shard).cutMove shard else s.joinLedger (.pass .move) shard

/-- A spare is brought in for the element named (R565). -/
def State.bringIn (s : State) (v : Nat) : State :=
  match elementOf v with
  | none => s
  | some e => s.replaceElement e

/-- One entry takes effect. -/
def State.setParam (s : State) (to_ : Option Nat) (p v : Nat) : State :=
  let c := s.cfg
  if p = 0x01 then { s with cfg := { c with powerCap := v } } else if p = 0x02 then { s with cfg := { c with gustBudget := v } }
  else if p = 0x03 then { s with cfg := { c with watchdogMs := v } }
  else if p = 0x04 then ({ s with cfg := { c with alertMask := BitVec.ofNat 32 v } } : State).alertLevel
  else if p = 0x05 then { s with cfg := { c with readOnlySideband := v == 1 } }
  else if p = 0x10 then s.setCompress v true else if p = 0x11 then s.setCompress v false
  else if p = 0x12 then { s with cfg := { c with compressDefault := v } }
  else if 0x20 ≤ p ∧ p < 0x28 then { s with cfg := { c with admQuantum := c.admQuantum.set (p - 0x20) v } }
  else if 0x28 ≤ p ∧ p < 0x30 then { s with cfg := { c with egQuantum := c.egQuantum.set (p - 0x28) v } }
  else if p = 0x30 then { s with cfg := { c with frameOverhead := v } }
  else if p = 0x40 then { s with cfg := { c with lullAfter := v } } else if p = 0x41 then { s with cfg := { c with calmAfter := v } }
  else if p = 0x42 then s.setGale (v == 1)
  else if p = 0x60 then { s with cfg := { c with flashPct := v } } else if p = 0x61 then { s with cfg := { c with stackPct := v } }
  else if p = 0x62 then { s with cfg := { c with tensorPct := v } } else if p = 0x63 then { s with cfg := { c with fabricPct := v } }
  else if p = 0x64 then { s with cfg := { c with coarsePct := v } } else if p = 0x65 then { s with cfg := { c with rebuildPct := v } }
  else if p = 0x66 then { s with cfg := { c with scrubHours := v } }
  else if p = 0x67 then s.bringIn v
  else if p = 0x69 then s.startMove v (to_.getD 0)
  else if p = 0x6A then { s with cfg := { c with shardLostAfter := v } }
  else if 0x100 ≤ p ∧ p < 0x180 then s.modFn (p - 0x100) fun f => { f with coreShare := v }
  else if 0x180 ≤ p ∧ p < 0x200 then s.modFn (p - 0x180) fun f => { f with guestColl := v }
  else if 0x200 ≤ p ∧ p < 0x280 then s.modFn (p - 0x200) fun f => { f with guestModel := v }
  else if 0x280 ≤ p ∧ p < 0x300 then s.modFn (p - 0x280) fun f => { f with guestGib := v }
  else s

/-- What applying the entries has reached: the state, the node last named by move_to_node, the first entry after which the core
shares exceed the tenant cores (R464), and the offset of the first invalid field. -/
structure ConfigRun where
  st : State
  to_ : Option Nat
  cores : Option Nat
  bad : Option Nat

/-- The sum of all core shares (R464). -/
def State.coreShares (s : State) : Nat := s.fns.foldl (fun n f => n + f.coreShare) 0

/-- Entries apply in order (R105) until one is invalid. -/
def ConfigRun.apply (r : ConfigRun) (e : Nat × Nat × Nat) : ConfigRun :=
  let (i, p, v) := e
  if r.bad.isSome then r
  else if !configListed p then { r with bad := some (0x28 + 8 * i) }
  else if !r.st.configGood r.to_ p v then { r with bad := some (0x2C + 8 * i) }
  else
    let s := r.st.setParam r.to_ p v
    let exceeds := decide (0x100 ≤ p) && decide (p < 0x180) && decide (s.tenantCores < s.coreShares)
    { r with st := s, to_ := if p = 0x68 then some v else r.to_,
             cores := if r.cores.isNone && exceeds then some (0x2C + 8 * i) else r.cores }

/-- The reserved bytes of a request with `n` entries: in the header, in each entry, past the last. -/
def configRanges (n : Nat) : List (Nat × Nat) :=
  (0x21, 7) :: (List.range n).map (fun i => (0x2A + 8 * i, 2)) ++ [(0x28 + 8 * n, 1752 - 8 * n)]

/-- The lower of two offsets. -/
def lower : Option Nat → Option Nat → Option Nat
  | some a, some b => some (min a b)
  | none, b => b
  | a, none => a

/-- A guest whose parameters changed stops and boots again under the new ones (R464). -/
def State.rebootChanged (s old : State) (f : Nat) : State :=
  let a := old.fn f
  let b := s.fn f
  if a.coreShare = b.coreShare && a.guestColl = b.guestColl && a.guestModel = b.guestModel && a.guestGib = b.guestGib then s
  else
    let s := if a.guestHeld then s.release f .t1 a.guestBytes else s
    (s.modFn f fun x => { x with guestState := 0 }).bootGuest f

/-- Functions whose shares changed get their cores (R465). -/
def State.moveShares (s old : State) : State :=
  s.placeCores ((List.range 128).filter fun f => (s.fn f).coreShare != (old.fn f).coreShare)

/-- GET_CONFIG (R97, R105): the values of the parameters named, eight result bytes each. -/
def execGetConfig (r t : Nat) (s : State) : Result :=
  .next ((s.at t).commit r 0x000B (r != 128 || s.sidebandMay 0x000B) [] [] fun s b =>
    let n := byteAt b 0x20
    if !within 1 64 n then s.refuse r stInvalid 0x20
    else
      let es := configEntries b
      let bad := (es.find? fun e => !configListed e.2.1).map fun e => 0x28 + 8 * e.1
      match lower (firstReserved b (configRanges n)) bad with
      | some o => s.refuse r stInvalid o
      | none => s.reply r stOk 0 (es.flatMap fun e => toLE 4 (s.configValue e.2.1) ++ zeros 4) [])

/-- SET-CONFIG's commit (R93, R105, R464): every entry or none. Compression, a spare brought in and guests are node record (R545). -/
def State.configCommit (s : State) (r : Nat) : State :=
  s.commit r 0x000C (r == 0) [] [] fun s b =>
    let n := byteAt b 0x20
    if !within 1 64 n then s.refuse r stInvalid 0x20
    else
      let es := configEntries b
      let x : ConfigRun := es.foldl (fun (x : ConfigRun) e => x.apply e) ⟨s, none, none, none⟩
      let cores := if x.bad.isNone && decide (s.tenantCores < x.st.coreShares) then x.cores else none
      match lower (firstReserved b (configRanges n)) (lower x.bad cores) with
      | some o => s.refuse r stInvalid o
      | none =>
        let node := es.any fun e => e.2.1 == 0x10 || e.2.1 == 0x11 || e.2.1 == 0x67 || decide (0x100 ≤ e.2.1)
        let done := fun (y : State) => ((List.range 128).foldl (fun y f => y.rebootChanged s f) (y.moveShares s)).reply r stOk 0 [] []
        if node then (if s.commitLimit then s.refuse r stRetry 4 else done x.st.recordNode) else done x.st

/-- A SET-CONFIG names a parameter. -/
def State.configNames (s : State) (r p : Nat) : Bool := (configEntries (s.mbox r).copy).any (·.2.1 == p)

/-- SET_CONFIG (R105, R464). -/
def execSetConfig (r t : Nat) (s : State) : Result :=
  let s := s.at t
  .next (if s.configNames r 0x67 || s.configNames r 0x69 then s else s.configCommit r)

/-- SET_CONFIG_MOVE_SHARD (R323, R562): a request with move_shard. -/
def execSetConfigMoveShard (r t : Nat) (s : State) : Result :=
  let s := s.at t
  .next (if s.configNames r 0x69 then s.configCommit r else s)

/-- SET_CONFIG_BRING_IN (R565): a request with bring_in. -/
def execSetConfigBringIn (r t : Nat) (s : State) : Result :=
  let s := s.at t
  .next (if s.configNames r 0x67 && !s.configNames r 0x69 then s.configCommit r else s)

/-! ### The option blocks (R106, R546) -/

/-- WRITE_OPTIONS (R106): the commit checks; a tail erases and programs the copy. -/
def execWriteOptions (r t : Nat) (s : State) : Result :=
  .next ((s.at t).commit r 0x000D (r == 0) [(1, 1759)] [(0, decide (byteAt (s.mbox r).copy 0x20 ≤ 1))] fun s b =>
    match (s.mbox r).input with
    | none => s.refuse r stInvalid 0xFFFE
    | some data =>
      if le b 16 4 < 512 then s.refuse r stInvalid 0xFFFE
      else if s.pwr.doldrums then s.refuse r stRetry 1
      else if s.tailRunning fun k => match k with | .writeOptions _ _ => true | _ => false then s.refuse r stRetry 2
      else s.startTail r (.writeOptions (byteAt b 0x20 == 1) (slice data 0 512)))

/-- WRITE_OPTIONS_TAIL_END (R106, R522): the copy is programmed; Doldrums holds it. -/
def execWriteOptionsTailEnd (t : Nat) (s : State) : Result :=
  let s := s.at t
  if s.pwr.doldrums then .next s
  else
    match s.tails.find? fun x => match x.kind with | .writeOptions _ _ => true | _ => false with
    | some ⟨_, .writeOptions copyB block, _⟩ =>
      let s := s.modAo fun a => if copyB then { a with optB := block } else { a with optA := block }
      .next (s.endTail (.writeOptions copyB block) stOk 0 [])
    | _ => .next s

/-! ### Attestation (R553 to R555) -/

/-- Bytes 0 to 639 of the report (Table: attestation report). -/
def State.reportBody (s : State) (nonce : Bytes) : Bytes :=
  let a := s.ao
  let v := a.fwVersion
  let digests := (List.range 4).map (fun i => a.measured.getD i []) ++
    [Config.shake256 Config.microcode, a.recordDigest, a.guestChain]
  let entry := fun (x : Bytes × Nat) => toLE 2 (x.2 + 1) ++ zeros 6 ++ slice x.1 0 64
  toLE 4 0x52545441 ++ toLE 2 1 ++ toLE 2 7 ++ slice nonce 0 32 ++ slice (Config.shake256 Config.identityPublicKey) 0 64 ++
  toLE 1 v.1 ++ toLE 1 v.2.1 ++ toLE 1 v.2.2 ++ zeros 1 ++ toLE 1 (b2n a.slotB) ++
  toLE 1 (if a.debugOpen then 2 else a.opt.debugLock) ++ toLE 1 a.optionSource ++ zeros 1 ++ toLE 8 a.now ++ toLE 8 a.boots ++
  digests.zipIdx.flatMap entry ++ zeros 8

/-- The running tail of a kind that reports to requester `r`. -/
def State.ownTail (s : State) (r : Nat) (k : TailKind) : Option Tail := s.tails.find? fun x => x.requester == some r && x.kind == k

/-- A tail that writes a host buffer ends (R88, R94): the output, and with it `done`, or the buffer cannot take it. -/
def State.outputTail (s : State) (r : Nat) (x : Tail) (outOk : Bool) (out : Bytes) (done : State → State) : State :=
  if !s.outputFits r out.length outOk then s.closeTail x stInvalid 0xFFFE [] [] else (done s).closeTail x stOk 0 [] out

/-- ATTEST with `what` selected by its row; an unlisted value is answered by the row of what 0. The row carries out the commit step,
which starts the tail, and, while its tail runs, the tail's end: measuring and signing (log 85). -/
def State.attest (s : State) (r what : Nat) (outOk : Bool) (data : State → Bytes → Bytes) : State :=
  let b := (s.mbox r).copy
  let w := byteAt b 0x40
  match s.ownTail r (.attest what) with
  | some x => s.outputTail r x outOk (data s b) id
  | none =>
    if w = what || (what = 0 && 2 ≤ w) then
      s.commit r 0x000F (r != 128 || s.sidebandMay 0x000F) [(33, 1727)] [(32, decide (w < 2))] fun s _ => s.startTail r (.attest what)
    else s

/-- ATTEST_REPORT (R555): the signed report. -/
def execAttestReport (r : Nat) (outOk : Bool) (t : Nat) (s : State) : Result :=
  .next ((s.at t).attest r 0 outOk fun s b =>
    let body := s.reportBody (slice b 0x20 32)
    body ++ slice (Config.mldsaSign body) 0 3309)

/-- ATTEST_CERTIFICATES (R554, R555): attestation, identity and CA certificate, each behind its length. -/
def execAttestCertificates (r : Nat) (outOk : Bool) (t : Nat) (s : State) : Result :=
  .next ((s.at t).attest r 1 outOk fun s _ =>
    [Config.attestCertificate (s.ao.header ++ s.ao.measured.flatMap id), s.ao.certs.1, s.ao.certs.2].flatMap fun c =>
      toLE 4 c.length ++ c)

/-! ### The event log (R558, R588) -/

/-- The 32 bytes of an entry. -/
def LogEntry.bytes (e : LogEntry) : Bytes :=
  toLE 8 e.time ++ toLE 4 e.entry ++ toLE 1 e.cls ++ zeros 1 ++ toLE 2 e.code ++ slice e.detail 0 16

/-- The log entries that a GET-LOG returns: from from_entry, or the oldest held, onwards. -/
def State.logFrom (s : State) (entry : Nat) : List LogEntry := s.ao.log.filter fun e => decide (entry ≤ e.entry)

/-- Entries up to the newest were read, so ALERT_N is released (R588); an answer with none of the entries held acknowledges nothing.
-/
def State.ackLog (s : State) (es : List LogEntry) : State :=
  if es.isEmpty && !s.ao.log.isEmpty then s
  else (s.modAo fun a => { a with ackedTo := a.nextEntry }).modPins fun p => { p with alertN := true }

/-- GET_LOG (R94, R558, R588): the commit step starts the tail; while it runs the row is the tail's end, which copies the entries
(log 85). -/
def execGetLog (r : Nat) (outOk : Bool) (t : Nat) (s : State) : Result :=
  let s := s.at t
  match s.ownTail r .getLog with
  | some x =>
    let es := s.logFrom (le (s.mbox r).copy 0x20 4)
    .next (s.outputTail r x outOk (es.flatMap LogEntry.bytes) fun s => s.ackLog es)
  | none =>
    .next (s.commit r 0x0011 (r == 0 || (r == 128 && s.sidebandMay 0x0011)) [(4, 1756)] [] fun s _ => s.startTail r .getLog)

/-! ### Innkeeper (R96) -/

/-- The standby pair takes over: a command whose commit step has not ended runs again from the copy made at the grant, and a tail
goes on where its journal shows it stopped, so neither changes here (R96, R584). -/
def State.takeOver (s : State) : State := { s with activePair := 1 - s.activePair }.log 5 2 []

/-- INNKEEPER_TAKEOVER (R96). -/
def execInnkeeperTakeover (t : Nat) (s : State) : Result := .next (s.at t).takeOver

end Sys2Proof.Machine
end

