-- ==== Sys2Proof/Machine/Package.lean ====
section
/-! DEFINITION. Model packages (R327 to R338): the header and tensor table, the shares a node stores of them, the check of a
tensor's data at commit, model versions at a stamp. -/

namespace Sys2Proof.Machine

open Sys2Proof

/-! ### Header and table (R338) -/

def hdrEntries (h : Bytes) : Nat := le h 6 2
def hdrLength (h : Bytes) : Nat := le h 8 8
def hdrTensors (h : Bytes) : Nat := le h 24 4
def hdrLayers (h : Bytes) : Nat := le h 28 2
def hdrExperts (h : Bytes) : Nat := le h 30 2
def hdrRouted (h : Bytes) : Nat := byteAt h 32
def hdrWidth (h : Bytes) : Nat := le h 34 2
def hdrPerToken (h : Bytes) : Nat := le h 36 4
def hdrTable (h : Bytes) : Nat := le h 40 8

/-- A tensor descriptor (Table: tensor descriptor). -/
def readTensor (b : Bytes) (o : Nat) : Tensor :=
  ⟨le b o 4, le b (o + 4) 2, le b (o + 6) 2, byteAt b (o + 8), byteAt b (o + 9), byteAt b (o + 10), byteAt b (o + 11),
   byteAt b (o + 12), le b (o + 16) 4, le b (o + 20) 4, le b (o + 24) 8, le b (o + 32) 8⟩

/-- The tensor table of an input buffer: descriptors of 48 bytes behind the header. -/
def readTensors (b : Bytes) : Nat → Nat → List Tensor
  | 0, _ => []
  | n + 1, o => readTensor b o :: readTensors b n (o + 48)

/-- Items of the input buffer of a begin that are reserved or not listed, by offset (R21, R22, R338). -/
def packageBad (b : Bytes) (n : Nat) : List Nat :=
  let reserved := (List.range n).flatMap fun i => [(256 + 48 * i + 13, 3), (256 + 48 * i + 40, 8)]
  let bad := fun (o : Nat) =>
    let t := readTensor b o
    [(o + 8, decide (t.kind ≤ 4)), (o + 9, decide (t.format ≤ 6)), (o + 10, decide (t.group ≤ 2)),
     (o + 11, decide (t.placement ≤ 2)), (o + 12, decide (t.flags < 16)),
     (o + 16, decide (1 ≤ t.rows) && decide (t.rows ≤ 2 ^ 24)),
     (o + 20, decide (64 ≤ t.cols) && decide (t.cols ≤ 2 ^ 20) && t.cols % 64 == 0)]
  let checks := (0, le b 0 4 == 0x4C444D4B) :: (33, decide (byteAt b 33 < 2)) ::
    (List.range n).flatMap fun i => bad (256 + 48 * i)
  (firstReserved b ((128, 128) :: reserved)).toList ++ (checks.filter fun x => !x.2).map (·.1)

/-- The lowest of some offsets. -/
def lowest : List Nat → Option Nat
  | [] => none
  | x :: rest => some (rest.foldl min x)

/-! ### Shares (R335, R344, R367) -/

/-- The shards of a collection that this node owns. -/
def State.localShards (s : State) (c : Coll) : List Nat := c.shardIds.filter fun i => s.ownerOf i == some s.nodeId

/-- Bytes of a tensor stored for a shard (R335): all of it, its part of the rows, or all of it for an expert placed there. -/
def Tensor.shareOf (t : Tensor) (c : CollSpec) (shard : Nat) : Nat :=
  let i := shard - c.firstShard
  if t.placement = 0 then t.dataLength
  else if t.placement = 1 then
    let part := (t.rows + c.shards - 1) / c.shards
    t.dataLength * (min part (t.rows - part * i)) / t.rows
  else if t.expert % c.shards = i then t.dataLength else 0

/-- Parameters of a tensor stored for a shard. -/
def Tensor.paramsOf (t : Tensor) (c : CollSpec) (shard : Nat) : Nat :=
  let i := shard - c.firstShard
  if t.placement = 0 then t.rows * t.cols
  else if t.placement = 1 then
    let part := (t.rows + c.shards - 1) / c.shards
    min part (t.rows - part * i) * t.cols
  else if t.expert % c.shards = i then t.rows * t.cols else 0

/-- A sum over the tensors and the shards of this node. -/
def State.shareSum (s : State) (c : Coll) (ts : List Tensor) (f : Tensor → CollSpec → Nat → Nat) : Nat :=
  ts.foldl (fun n t => (s.localShards c).foldl (fun m i => m + f t c.spec i) n) 0

def Tensor.trainable (t : Tensor) : Bool := bit t.flags 0
def Tensor.sparse (t : Tensor) : Bool := bit t.flags 1
def Tensor.flagged (t : Tensor) : Bool := bit t.flags 2

/-- The tensors that become resident (R339 action 5): those flagged resident, or all when none is flagged. -/
def residentOf (ts : List Tensor) : List Tensor := if ts.any (·.flagged) then ts.filter (·.flagged) else ts

/-- T1 bytes of resident tensors with their training state (R367): for a trainable parameter its master weight, BF16 or FP32 as
the package's program states (a free value), two moments in SQ8 with groups of 32, and an FP32 accumulator. -/
def State.residentBytes (s : State) (c : Coll) (h : Bytes) (ts : List Tensor) : Nat :=
  let rs := residentOf ts
  let params := s.shareSum c (rs.filter (·.trainable)) Tensor.paramsOf
  let master := 2 + 2 * (Config.freeNat (2 ^ 68 + le h 4 2) % 2)
  s.shareSum c rs Tensor.shareOf + params * (master + 4) + 2 * (params + 4 * ((params + 31) / 32))

/-- Bytes of a tensor stored on this node. -/
def State.storedBytes (s : State) (c : Coll) (t : Tensor) : Nat := (s.localShards c).foldl (fun m i => m + t.shareOf c.spec i) 0

/-- Bytes of a tensor in a window slot, with the striped parts received from peers (R345). -/
def State.windowBytes (s : State) (c : Coll) (t : Tensor) : Nat := if t.placement = 2 then s.storedBytes c t else t.dataLength

/-- Bytes of one streamed unit of a model on this node (R345): layer `l`, or the tensors of no layer for 0xFFFF. -/
def State.unitBytes (s : State) (c : Coll) (ts : List Tensor) (l : Nat) : Nat :=
  (ts.filter fun t => t.layer == l).foldl (fun n t => n + s.windowBytes c t) 0

/-- The tensors that stream: all but the resident ones. -/
def Model.streamed (m : Model) : List Tensor :=
  if m.resident then m.tensors.filter fun t => !(residentOf m.tensors).contains t else m.tensors

/-- The largest streamed unit and the largest single tensor share (R345, R346). -/
def State.slotBytes (s : State) (c : Coll) (m : Model) : Nat :=
  ((0xFFFF :: List.range (hdrLayers m.header)).map fun l => s.unitBytes c m.streamed l).foldl max 0
def State.tensorBytes (s : State) (c : Coll) (m : Model) : Nat :=
  (m.streamed.map (s.windowBytes c)).foldl max 0

/-- Parameters of the resident tensors on this node (Table: model limits). -/
def State.residentParams (s : State) : Nat :=
  s.models.foldl (fun n m => match s.coll? m.coll with
    | some x => if m.resident then n + s.shareSum x (residentOf m.tensors) Tensor.paramsOf else n
    | none => n) 0

/-- The limits of Table: model limits and R334 hold for a new model. -/
def State.modelLimits (s : State) (c : Coll) (h : Bytes) (ts : List Tensor) (resident : Bool) : Bool :=
  let nodeParams := s.models.foldl (fun n m => match s.coll? m.coll with
    | some x => n + s.shareSum x m.tensors Tensor.paramsOf
    | none => n) 0
  decide (nodeParams + s.shareSum c ts Tensor.paramsOf ≤ 10 * 10 ^ 12) &&
  (!resident || decide (s.residentParams + s.shareSum c (residentOf ts) Tensor.paramsOf ≤ 480 * 10 ^ 9)) &&
  decide (1 ≤ hdrTensors h) && decide (hdrTensors h ≤ 1048576) && decide (1 ≤ hdrLayers h) && decide (hdrLayers h ≤ 1024) &&
  decide (hdrExperts h ≤ 4096) && (hdrExperts h == 0 || (decide (1 ≤ hdrRouted h) && decide (hdrRouted h ≤ 16))) &&
  decide (64 ≤ hdrWidth h) && decide (hdrWidth h ≤ 16384) && hdrWidth h % 64 == 0 &&
  decide (1 ≤ hdrEntries h) && decide (hdrEntries h ≤ 16) && decide (hdrLength h ≤ 2 ^ 44) &&
  (0xFFFF :: List.range (hdrLayers h)).all (fun l => decide (s.unitBytes c ts l ≤ 96 * 2 ^ 30)) &&
  decide ((s.models.filter (·.coll == c.spec.id)).length < 256) && decide (s.models.length < 1024)

/-! ### The package bytes (R338, R341) -/

/-- The byte of a package at an offset: of the last part that covers it. -/
def partByte (i : Nat) : List (Nat × Bytes) → Option Byte
  | [] => none
  | p :: rest =>
    match partByte i rest with
    | some x => some x
    | none => if p.1 ≤ i then p.2[i - p.1]? else none

/-- `n` bytes of a package from an offset; none when one is missing. -/
def partBytes (parts : List (Nat × Bytes)) (o : Nat) : Nat → Option Bytes
  | 0 => some []
  | n + 1 => do return (← partByte o parts) :: (← partBytes parts (o + 1) n)

/-! ### A tensor's data (R327 to R329) -/

/-- The stored 64-column blocks of a row, ascending. -/
def storedBlocks (t : Tensor) (b : Bytes) (row : Nat) : List Nat :=
  let n := t.cols / 64
  (List.range n).filter fun j =>
    if t.sparse then
      let k := row / 64 * n + j
      bit (byteAt b (k / 8)) (k % 8)
    else true

/-- Row and 64-column block of every stored run of codes, in the order they are stored. -/
def storedRuns (t : Tensor) (b : Bytes) : List (Nat × Nat) :=
  (List.range t.rows).flatMap fun r => (storedBlocks t b r).map fun j => (r, j)

/-- The groups of the stored blocks, row by row: row and group. -/
def storedGroups (t : Tensor) (b : Bytes) : List (Nat × Nat) :=
  let size := 32 * 2 ^ t.group
  (List.range t.rows).flatMap fun r =>
    ((storedBlocks t b r).flatMap fun j => if size = 32 then [2 * j, 2 * j + 1] else [64 * j / size]).eraseDups.map fun g => (r, g)

/-- Bytes of a bitmap. -/
def bitmapBytes (t : Tensor) : Nat :=
  if t.sparse then roundUp (((t.rows + 63) / 64 * (t.cols / 64) + 7) / 8) 64 else 0

/-- Bytes of codes and of positions of one stored run of 64 columns. -/
def runCodes (format : Nat) : Nat := ([32, 16, 64, 32, 64, 64, 128] : List Nat).getD format 0
def runPositions (format : Nat) : Nat := if format = 1 || format = 3 then 8 else 0

/-- The `k`-th code of a run of codes from byte `o`. -/
def codeAt (format : Nat) (b : Bytes) (o k : Nat) : Nat :=
  if format < 2 then (if k % 2 = 0 then byteAt b (o + k / 2) % 16 else byteAt b (o + k / 2) / 16) else byteAt b (o + k)

/-- Codes of one stored run with their columns within it; none when the positions of a quad are not ascending. -/
def runElements (format : Nat) (b : Bytes) (codes pos : Nat) : Option (List (Nat × Nat)) :=
  if format = 1 || format = 3 then
    ((List.range 16).mapM fun q =>
      let f := if q % 2 = 0 then byteAt b (pos + q / 2) % 16 else byteAt b (pos + q / 2) / 16
      let a := f % 4
      let z := f / 4
      if a < z then some [(4 * q + a, codeAt format b codes (2 * q)), (4 * q + z, codeAt format b codes (2 * q + 1))]
      else none).map List.flatten
  else some ((List.range 64).map fun k => (k, codeAt format b codes k))

/-- Escape entries: row, column, value. -/
def readEscapes (b : Bytes) (o : Nat) : Nat → List (Nat × Nat × Nat)
  | 0 => []
  | n + 1 => (le b o 4, le b (o + 4) 2, le b (o + 6) 2) :: readEscapes b (o + 8) n

/-- Escapes rise by row, then column. -/
def escapesRise : List (Nat × Nat × Nat) → Bool
  | a :: b :: rest => (decide (a.1 < b.1) || (a.1 == b.1 && decide (a.2.1 < b.2.1))) && escapesRise (b :: rest)
  | _ => true

/-- Reason 2 of Table: model load reasons does not apply to a tensor's data. -/
def tensorGood (t : Tensor) (b : Bytes) : Bool :=
  let runs := storedRuns t b
  let groups := storedGroups t b
  let o1 := bitmapBytes t
  let o2 := o1 + runCodes t.format * runs.length
  let o3 := o2 + runPositions t.format * runs.length
  let o4 := o3 + (if t.format < 6 then 2 * groups.length else 0)
  let coded := decide (t.format < 4)
  let n := (b.length - o4) / 8
  let esc := if coded then readEscapes b o4 n else []
  let top := if t.format < 2 then 14 else 254
  let size := 32 * 2 ^ t.group
  let cap := if t.format < 2 then 2 * size / 64 else size / 32
  let escaped := fun (r c : Nat) => esc.any fun e => e.1 == r && e.2.1 == c
  let elements := runs.zipIdx.flatMap fun x =>
    match runElements t.format b (o1 + runCodes t.format * x.2) (o2 + runPositions t.format * x.2) with
    | some l => l.map fun e => (x.1.1, 64 * x.1.2 + e.1, e.2)
    | none => []
  let whole := runs.zipIdx.all fun x =>
    (runElements t.format b (o1 + runCodes t.format * x.2) (o2 + runPositions t.format * x.2)).isSome
  let descriptor := fun (x : (Nat × Nat) × Nat) =>
    let scale := byteAt b (o3 + 2 * x.2)
    let z := byteAt b (o3 + 2 * x.2 + 1)
    let here := (esc.filter fun e => e.1 == x.1.1 && e.2.1 / size == x.1.2).length
    decide (1 ≤ scale) && decide (scale ≤ 0x7E) && decide (here ≤ cap) &&
      (if t.format < 2 then decide (z % 16 ≤ 14) && bit z 4 == decide (0 < here) && decide (z < 32)
       else if t.format < 4 then decide (z ≤ 254) else z == 0)
  let bitmap := !t.sparse || zeroAt (b.take o1) ((((t.rows + 63) / 64) * (t.cols / 64) + 7) / 8) o1
  bitmap && (if coded then b.length == o4 + 8 * n else b.length == o4) &&
  (t.format == 6 || groups.zipIdx.all descriptor) &&
  (!coded || (whole && escapesRise esc && (elements.all fun e => decide (e.2.2 ≤ top) != escaped e.1 e.2.1) &&
    esc.all fun e => elements.any fun x => x.1 == e.1 && x.2.1 == e.2.1))

/-! ### Versions at a stamp (R340, R359) -/

/-- The model version is visible on a shard at a read stamp. -/
def Model.visibleOn (m : Model) (shard r : Nat) : Bool :=
  (match m.readyAt.find? (·.1 == shard) with | some x => decide (x.2 ≤ r) | none => false) &&
    (match m.absentAt.find? (·.1 == shard) with | some x => decide (r < x.2) | none => true)

/-- Every other owner has answered with the stamps of its shards. -/
def State.stampsGiven (s : State) (c : Coll) (peers : List (Nat × Nat)) : Bool :=
  c.shardIds.all fun i => (s.localShards c).contains i || peers.any (·.1 == i)

/-- Pass the ledger arbiters of a model's collection as a mutation, ascending (R340): the stamps, those of other nodes' shards
as their owners answered. -/
def State.modelStamps (s : State) (c : Coll) (peers : List (Nat × Nat)) : List (Nat × Nat) × State :=
  c.shardIds.foldl (fun x i =>
    if (s.localShards c).contains i then
      let w := x.2.takeSwitch i
      (x.1 ++ [(i, w.1)], w.2)
    else (x.1 ++ [(i, ((peers.find? (·.1 == i)).map (·.2)).getD 0)], x.2)) (([] : List (Nat × Nat)), s)

/-- A model that is absent leaves with its charges once no run reads it (R340). -/
def State.reapModel (s : State) (coll model : Nat) : State :=
  match s.model? coll model with
  | none => s
  | some m =>
    if m.st != .absent || s.runs.any fun r => r.coll == coll && r.model == model then s
    else
      let s := s.releaseModel m
      { s with models := s.models.filter fun x => !(x.coll == coll && x.id == model) }

end Sys2Proof.Machine
end

