-- ==== Sys2Proof/Machine/Models.lean ====
section
/-! DEFINITION. Meanings of MODEL-LOAD, MODEL-RUN and TRAIN-STEP and of the steps of a run (R325 to R374). Outputs, losses and
routing are not repeatable (R365): they are free values. -/

namespace Sys2Proof.Machine

open Sys2Proof

/-! ### MODEL-LOAD (R339 to R343, R366, R367, R373) -/

/-- A failed load action: its status and its reason code in value2 (R339, R343). -/
def State.loadFail (s : State) (r : Req) (status detail reason : Nat) (io : HostIO) : State :=
  s.complete r { status := status, detail := detail, value := 0, value2 := reason } io

/-- Every other owner node of the collection can be reached (reason 6). -/
def State.ownersReachable (s : State) (c : Coll) : Bool := (s.otherOwners c).all s.reachable

/-- What every action of MODEL-LOAD shares: R132, the action field, the Doldrums rule (R342), the reachability of the owners. An
action that is not listed is answered by the row of action 0. -/
def State.modelLoad (s : State) (num action : Nat) (held : Bool) (io : HostIO) (checks : Bytes → List (Nat × Bool))
    (body : State → Req → Bytes → Coll → State) : State :=
  let e := s.entryOf num
  let a := byteAt e 48
  if !(a = action || (action = 0 && 6 ≤ a)) then s
  else
    s.dataCommit num 7 io [(50, 2), (64, 64)] [(48, decide (a < 6)), (49, decide (byteAt e 49 < 2))] .named (some 4) 0
      fun s r inp =>
      match s.coll? r.collection, lowestBad e [] (checks e) with
      | none, _ => s.complete r (.bare stInvalid 4) io
      | some _, some o => s.complete r (.bare stInvalid o) io
      | some c, none =>
        if held && s.pwr.doldrums then s.loadFail r stRetry 1 0 io
        else if !s.ownersReachable c then s.loadFail r stRetry 0 6 io
        else body s r inp c

/-- Send model work to the other owners of a collection. -/
def State.toOwners (s : State) (r : Req) (c : Coll) (op : Nat) (m : Msg) : State :=
  (s.otherOwners c).foldl (fun s o => s.sendWork (workTag ⟨s.nodeId, r.num⟩ r.fn r.qosClass op o (soleShard (c.shardsAt o)) 0) m) s

/-- MODEL_LOAD_BEGIN (R334, R336 to R339, R343): limits and quotas are checked, space is reserved, the model is LOADING. The input
holds the header and, behind it, the tensor table. -/
def execModelLoadBegin (num : Nat) (io : HostIO) (t : Nat) (s : State) : Result :=
  .next ((s.at t).modelLoad num 0 false io (fun e => [(52, le e 52 4 == 0)]) fun s r inp c =>
    let n := hdrTensors inp
    let h := slice inp 0 256
    if inp.length < 256 + 48 * n then s.complete r (.bare stInvalid 24) io
    else
      match lowest (packageBad inp n) with
      | some o => s.badInput r o io
      | none =>
        let ts := readTensors inp n 256
        let resident := byteAt r.entry 49 == 1
        if !s.modelLimits c h ts resident then s.loadFail r stInvalid 0x30 4 io
        else
          let t2 := s.shareSum c ts Tensor.shareOf
          let t1 := if resident then s.residentBytes c h ts else 0
          if !s.fits r.fn .t1 t1 then (s.quotaRefuse r.fn 1).loadFail r stQuota 1 0 io
          else if !s.fits r.fn .t2 t2 then (s.quotaRefuse r.fn 2).loadFail r stQuota 2 0 io
          else
            let m : Model :=
              { id := c.nextModel, coll := c.spec.id, fn := r.fn, st := .loading, header := h, tensors := ts,
                parts := [(0, h), (hdrTable h, slice inp 256 (48 * n))], lastPart := s.now, resident := resident, readyAt := [],
                absentAt := [], t1 := t1, t2 := t2, windowBy := none, windowAt := none, windowT1 := 0, windowFn := 0,
                trainer := none, trainWait := [], accumulated := 0, version := 0, durable := 0, expertCache := [],
                degraded := false }
            let s := (s.modFn r.fn fun f => (f.charge .t1 t1).charge .t2 t2).modColl c.spec.id fun c => { c with nextModel := c.nextModel + 1 }
            let s : State := { s with models := s.models ++ [m] }
            let s := s.toOwners r c 7 (.modelPart c.spec.id m.id 0 inp)
            s.complete r { status := stOk, detail := 0, value := m.id } io)

/-- MODEL_LOAD_PART (R341, R342): bytes of the package from an offset, a multiple of 4 KiB but for the end. It waits while a channel
is short of free blocks (R422). -/
def execModelLoadPart (num : Nat) (io : HostIO) (t : Nat) (s : State) : Result :=
  .next ((s.at t).modelLoad num 1 true io (fun e => [(56, le e 56 8 % 4096 == 0)]) fun s r inp c =>
    let id := le r.entry 52 4
    let o := le r.entry 56 8
    match s.model? c.spec.id id with
    | none => s.loadFail r stInvalid 0x30 5 io
    | some m =>
      let size := hdrLength m.header
      if m.fn != r.fn then s.loadFail r stDenied 0 0 io
      else if m.st != .loading then s.loadFail r stInvalid 0x30 5 io
      else if size < o + inp.length then s.loadFail r stInvalid (if size ≤ o then 56 else 24) 0 io
      else if inp.length % 4096 ≠ 0 && o + inp.length ≠ size then s.loadFail r stInvalid 24 0 io
      else if s.anyWaits then s
      else
        let s := (s.modModel c.spec.id id fun m => { m with parts := m.parts ++ [(o, inp)], lastPart := s.now }).programSpread inp.length
        (s.toOwners r c 7 (.modelPart c.spec.id id o inp)).complete r { status := stOk, detail := 0 } io)

/-- Why a package does not commit (Table: model load reasons): none when it does. -/
def commitFault (m : Model) : Option Nat :=
  match partBytes m.parts 256 (hdrLength m.header - 256) with
  | none => some 3
  | some b =>
    if Config.shake256 b != slice m.header 64 64 then some 1
    else if m.tensors.all fun t =>
        match partBytes m.parts t.dataOffset t.dataLength with
        | some d => decide (t.dataOffset + t.dataLength ≤ hdrLength m.header) && tensorGood t d
        | none => false then none
    else some 2

/-- An action that makes a change of a model visible at a stamp on every shard (R340): it goes behind what waits at their ledger
arbiters. -/
def State.stampAction (s : State) (r : Req) (c : Coll) (stamps : List (Nat × Nat)) (io : HostIO)
    (f : State → List (Nat × Nat) → State) : State :=
  if !s.stampsGiven c stamps then s.loadFail r stRetry 0 6 io
  else s.passLedgers (s.localShards c) (.pass (.req ⟨s.nodeId, r.num⟩)) fun s =>
    let (ws, s) := s.modelStamps c stamps
    (f (s.toOwners r c 7 (.runShare ⟨s.nodeId, r.num⟩ c.spec.id (le r.entry 52 4))) ws).complete r
      { status := stOk, detail := 0, value := ((ws.head?.map (·.2)).getD 0) } io

/-- MODEL_LOAD_COMMIT (R338, R340, R342): the digest, the codes and the descriptors are checked, and the model is READY from a
stamp on every shard. `stamps` are those the other owners took. -/
def execModelLoadCommit (num : Nat) (stamps : List (Nat × Nat)) (io : HostIO) (t : Nat) (s : State) : Result :=
  .next ((s.at t).modelLoad num 2 true io (fun _ => []) fun s r _ c =>
    let id := le r.entry 52 4
    match s.model? c.spec.id id with
    | none => s.loadFail r stInvalid 0x30 5 io
    | some m =>
      if m.st != .loading then s.loadFail r stInvalid 0x30 5 io
      else if !Config.knownProgram (le m.header 4 2) then s.loadFail r stUnsupported 2 0 io
      else
        match commitFault m with
        | some why => s.loadFail r stInvalid 0x30 why io
        | none => s.stampAction r c stamps io fun s ws =>
            s.modModel c.spec.id id fun m => { m with st := .ready, readyAt := ws })

/-- MODEL_LOAD_UNLOAD (R340): the model is absent from a stamp on; its storage goes when no run reads it. -/
def execModelLoadUnload (num : Nat) (stamps : List (Nat × Nat)) (io : HostIO) (t : Nat) (s : State) : Result :=
  .next ((s.at t).modelLoad num 3 false io (fun _ => []) fun s r _ c =>
    let id := le r.entry 52 4
    match s.model? c.spec.id id with
    | none => s.loadFail r stInvalid 0x30 5 io
    | some m =>
      if m.st == .absent then s.loadFail r stInvalid 0x30 5 io
      else s.stampAction r c stamps io fun s ws =>
        (s.modModel c.spec.id id fun m => { m with st := .absent, absentAt := ws }).reapModel c.spec.id id)

/-- MODEL_LOAD_CHECKPOINT (R342, R373): the trained weights are written to T2 and switched to at a stamp. It waits while a channel is
short of free blocks (R422). -/
def execModelLoadCheckpoint (num : Nat) (stamps : List (Nat × Nat)) (io : HostIO) (t : Nat) (s : State) : Result :=
  .next ((s.at t).modelLoad num 4 true io (fun _ => []) fun s r _ c =>
    let id := le r.entry 52 4
    match s.model? c.spec.id id with
    | none => s.loadFail r stInvalid 0x30 5 io
    | some m =>
      if m.st != .ready then s.loadFail r stInvalid 0x30 5 io
      else if s.anyWaits then s
      else s.stampAction r c stamps io fun s _ =>
        (s.modModel c.spec.id id fun m => { m with durable := m.version }).programSpread
          (s.shareSum c (m.tensors.filter (·.trainable)) Tensor.shareOf))

/-- MODEL_LOAD_PLACE (R336, R339, R342, R343, R367): the tensors flagged resident, or all when none is, move to T1 or back. -/
def execModelLoadPlace (num : Nat) (stamps : List (Nat × Nat)) (io : HostIO) (t : Nat) (s : State) : Result :=
  .next ((s.at t).modelLoad num 5 true io (fun _ => []) fun s r _ c =>
    let id := le r.entry 52 4
    let on := byteAt r.entry 49 == 1
    match s.model? c.spec.id id with
    | none => s.loadFail r stInvalid 0x30 5 io
    | some m =>
      let n := s.residentBytes c m.header m.tensors
      if m.st != .ready then s.loadFail r stInvalid 0x30 5 io
      else if on && !m.resident && decide (480 * 10 ^ 9 < s.residentParams + s.shareSum c (residentOf m.tensors) Tensor.paramsOf) then
        s.loadFail r stInvalid 0x30 4 io
      else if on && !m.resident && !s.fits m.fn .t1 n then (s.quotaRefuse m.fn 1).loadFail r stQuota 1 0 io
      else
        s.stampAction r c stamps io fun s _ =>
          let s := if on && !m.resident then s.modFn m.fn (·.charge .t1 n) else if !on && m.resident then s.release m.fn .t1 m.t1 else s
          s.modModel c.spec.id id fun m => { m with resident := on, t1 := if on then (if m.resident then m.t1 else n) else 0 })

/-- MODEL_LOADING_EXPIRY (R341): a model left in LOADING for 24 h without a part is unloaded. -/
def execModelLoadingExpiry (coll model t : Nat) (s : State) : Result :=
  let s := s.at t
  match s.model? coll model with
  | none => .next s
  | some m =>
    if m.st == .loading && decide (m.lastPart + 86400 * Config.ticksPerS ≤ s.now) then
      .next ((s.modModel coll model fun m => { m with st := .absent }).reapModel coll model)
    else .next s

/-! ### Runs (R345 to R364) -/

/-- Tokens of a sequence table: the lengths of `n` entries of 16 bytes. -/
def seqLengths (b : Bytes) : Nat → Nat → List Nat
  | 0, _ => []
  | n + 1, o => le b (o + 4) 4 :: seqLengths b n (o + 16)

/-- The sequences that are at home on a node (R363): split evenly over the owner nodes in ascending order. -/
def State.homeSequences (s : State) (c : Coll) (n : Nat) : List Nat :=
  let nodes := c.ownerNodes.foldl (fun l x => insertNum' x l) []
  match nodes.findIdx? (· == s.nodeId) with
  | none => []
  | some j => (List.range n).filter fun i => decide (j * n / nodes.length ≤ i) && decide (i < (j + 1) * n / nodes.length)
where
  insertNum' (n : Nat) : List Nat → List Nat
    | [] => [n]
    | x :: rest => if n ≤ x then n :: x :: rest else x :: insertNum' n rest

/-- Experts of one layer that this node holds. -/
def State.nodeExperts (s : State) (c : Coll) (m : Model) : Nat :=
  ((List.range (hdrExperts m.header)).filter fun e => (s.localShards c).contains (c.spec.firstShard + e % c.spec.shards)).length

/-- The stream mode of one step with so many tokens (R348): 1 full, 2 routed. -/
def State.stepMode (s : State) (c : Coll) (m : Model) (asked tokens : Nat) : Nat :=
  if hdrExperts m.header = 0 then 1
  else if asked ≠ 0 then asked
  else if tokens * hdrRouted m.header ≤ 2 * s.nodeExperts c m then 2 else 1

/-- Whether a reader at these read stamps sees the model: none where the stamps straddle a change (R340). -/
def Model.seenAt (m : Model) (stamps : List (Nat × Nat)) : Option Bool :=
  let seen := stamps.map fun x => m.visibleOn x.1 x.2
  if seen.all (fun b => b) then some true else if seen.any (fun b => b) then none else some false

/-- Read stamps of a run (R359): of this node's shards, and of the others as their owners answered. -/
def State.runStamps (s : State) (c : Coll) (peers : List (Nat × Nat)) : Option (List (Nat × Nat)) :=
  c.shardIds.mapM fun i =>
    if s.ownerOf i == some s.nodeId then (s.shard? i).map fun d => (i, d.counter) else peers.find? (·.1 == i)

/-- Work of a run or a training step. -/
def Work.ofRun (k : Key) : Work → Bool
  | .layer k' => k' == k
  | .expert k' _ => k' == k
  | _ => false

/-- A run or a step ends on this node: its read stamps, T0 space, window and trainer are free, and its units' (R345, R360, R370). -/
def State.endRun (s : State) (num : Nat) : State :=
  match s.run? num with
  | none => s
  | some x =>
    let k : Key := ⟨s.nodeId, num⟩
    let f := ((s.req? num).map (·.fn)).getD 0
    let s : State := { s with runs := s.runs.filter (·.num != num),
                              shards := s.shards.map fun (d : Shard) => ({ d with readers := d.readers.filter (·.1 != .req k) } : Shard) }
    let s := (s.dropWork (·.ofRun k)).release f .t0 x.t0
    let s := s.modModel x.coll x.model fun m =>
      { m with windowBy := if m.windowBy = some num then none else m.windowBy,
               windowAt := if m.windowBy = some num then some s.now else m.windowAt,
               trainer := if m.trainer = some num then none else m.trainer,
               trainWait := m.trainWait.filter (· != num) }
    s.reapModel x.coll x.model

/-- Drop the last part kept under a handle: what a continued run added to it. -/
def dropPart (handle : Nat) : List (Nat × Nat × Nat × Nat) → List (Nat × Nat × Nat × Nat)
  | [] => []
  | h :: rest => if h.1 = handle && !rest.any (·.1 == handle) then rest else h :: dropPart handle rest

/-- A run or a step ends with no effect (R140, R364, R374): what it was to keep under its handle goes, and the accumulator is as it
was before the step. -/
def State.dropRun (s : State) (num : Nat) : State :=
  match s.run? num, s.req? num with
  | some x, some r =>
    let n := ((((s.fn r.fn).handles.filter (·.1 == x.handle)).getLast?).map (·.2.2.2)).getD 0
    let s := if x.handle = 0 then s
      else (s.release r.fn .t1 n).modFn r.fn fun f => { f with handles := dropPart x.handle f.handles }
    let s := if x.train && !x.waiting then s.modModel x.coll x.model fun m => { m with accumulated := x.prior } else s
    s.endRun num
  | _, _ => s.endRun num

/-! ### Steps and units of a run (R344 to R348) -/

/-- Steps of a run: one for each token of its longest generation (R348); a training step goes forward and back (R369). -/
def Run.steps (x : Run) : Nat := if x.train then 2 else max 1 ((x.seqs.map (·.2.2)).foldl max 0)

/-- Tokens of a step among some sequences (R348, R355): the first has the input tokens, each later one a token of every sequence that
still generates. -/
def tokensOf (first : Bool) (step : Nat) (l : List (Bool × Nat × Nat)) : Nat :=
  if first then l.foldl (fun n q => n + q.2.1) 0 else (l.filter fun q => decide (step < q.2.2)).length

/-- Tokens of the step in progress, and those at home on this node (R363). -/
def Run.tokens (x : Run) : Nat := tokensOf (x.train || x.step == 0) x.step x.seqs
def Run.homeTokens (x : Run) : Nat := tokensOf (x.train || x.step == 0) x.step (x.seqs.filter (·.1))

/-- Whether a step streams routed experts only (R348). -/
def Run.routedAt (x : Run) (step : Nat) : Bool := if step = 0 then x.routed else x.routedLater

/-- The layer number that the tensors of a unit carry: 0xFFFF behind the last layer. -/
def Model.layerOf (m : Model) (u : Nat) : Nat := if u < hdrLayers m.header then u else 0xFFFF

/-- Tensors that a layer streams before it may start (R37, R348): in routed streaming all but the experts. -/
def Model.streamsFor (m : Model) (routed : Bool) (u : Nat) : List Tensor :=
  m.streamed.filter fun t => t.layer == m.layerOf u && !(routed && t.placement == 2)

/-- Segments of whole tensors, each as many as a slot holds (R346); `held` is what the one in hand has. -/
def segmentCount (slot : Nat) : Nat → List Nat → Nat
  | _, [] => 1
  | held, b :: rest => if held = 0 || held + b ≤ slot then segmentCount slot (held + b) rest else 1 + segmentCount slot b rest

/-- Segments of a layer: one where the window holds whole layers. -/
def State.segmentsOf (s : State) (x : Run) (m : Model) (c : Coll) (u : Nat) : Nat :=
  if x.segmented then segmentCount (m.windowT1 / 2) 0 ((m.streamsFor (x.routedAt x.step) u).map (s.windowBytes c)) else 1

/-- The unit behind a unit of the step in progress, and whether it belongs to the next step; none behind the last. -/
def State.unitAfter (s : State) (x : Run) (m : Model) (c : Coll) (u : Nat × Nat) : Option ((Nat × Nat) × Bool) :=
  if u.2 + 1 < s.segmentsOf x m c u.1 then some ((u.1, u.2 + 1), false)
  else if u.1 < hdrLayers m.header then some ((u.1 + 1, 0), false)
  else if x.step + 1 < x.steps then some ((0, 0), true)
  else none

/-- Send a frame of a run to every other owner (R363). -/
def State.exchange (s : State) (c : Coll) (num layer : Nat) (x : Nat → Exchange) : State :=
  match s.req? num with
  | none => s
  | some r =>
    let k : Key := ⟨s.nodeId, num⟩
    (s.otherOwners c).foldl (fun s o =>
      s.sendWork (workTag k r.fn r.qosClass 0x0E o (soleShard (c.shardsAt o)) 0) (.activation k layer (x o))) s

/-- A layer has striped tensors, so each node needs the others' parts of it (R335). -/
def Model.striped (m : Model) (u : Nat) : Bool := m.tensors.any fun t => t.layer == m.layerOf u && t.placement == 1

/-- A free slot takes the next unit (R37, R344): its share is requested of every enabled channel; one that streams nothing is complete
at once. The striped parts of a complete unit go to the other nodes. -/
def State.fill (s : State) (num : Nat) : State :=
  match s.run? num with
  | none => s
  | some x =>
    match s.model? x.coll x.model, s.coll? x.coll with
    | some m, some c =>
      let next := match x.slots.getLast? with
        | none => some ((x.layer, x.segment), false)
        | some y => s.unitAfter x m c y.1
      match next with
      | none => s
      | some (u, wraps) =>
        if 2 ≤ x.slots.length || x.slots.any (!·.2) then s
        else
          let idle := (m.streamsFor (x.routedAt (if wraps then x.step + 1 else x.step)) u.1).all fun t => s.storedBytes c t == 0
          let s := s.modRun num fun x => { x with slots := x.slots ++ [(u, idle)] }
          if !idle then s.requestAll (.layer ⟨s.nodeId, num⟩) s.channelsOn
          else if m.striped u.1 then s.exchange c num u.1 fun _ => .part else s
    | _, _ => s

/-- The window is filled as far as it goes: two slots (R37). -/
def State.fillWindow (s : State) (num : Nat) : State := (s.fill num).fill num

/-- Free bytes of the T1 quota and of T1 for a function. -/
def State.t1Free (s : State) (f : Nat) : Nat :=
  let room := s.capacity .t1 - s.tierUsed .t1 - s.gbT1
  match (s.fn f).limit .t1 with
  | none => room
  | some n => min room (n - (s.fn f).t1Used)

/-- The window of a streamed run (R345, R346): two slots of the largest unit, or segments as large as T1 lets two slots be; none
when not even two slots of the largest tensor fit. A window kept from an earlier run is used again. -/
def State.takeWindow (s : State) (c : Coll) (m : Model) (num f : Nat) : Option (Bool × State) :=
  let s := s.release m.windowFn .t1 m.windowT1
  let whole := 2 * s.slotBytes c m
  let room := s.t1Free f
  let give := fun (n : Nat) =>
    (s.modFn f (·.charge .t1 n)).modModel m.coll m.id fun m =>
      { m with windowBy := some num, windowAt := none, windowT1 := n, windowFn := f }
  if whole ≤ room then some (false, give whole)
  else if 2 * s.tensorBytes c m ≤ room then some (true, (give (room / 2 * 2)).quotaRefuse f 1)
  else none

/-! ### Routing (R351 to R353) -/

/-- The order of FP32 words as numbers. -/
def fp32Order (w : Nat) : Int := if bit w 31 then -((w % 2 ^ 31 : Nat) : Int) else (w : Int)

/-- Insert behind every score that is at least as high. -/
def insertScore (x : Int × Nat) : List (Int × Nat) → List (Int × Nat)
  | [] => [x]
  | y :: rest => if y.1 < x.1 then x :: y :: rest else y :: insertScore x rest

/-- The experts of a token (R351, R352): the `k` highest of its router scores against every expert, the lower index on equal scores.
-/
def topExperts (i token experts k : Nat) : List Nat :=
  ((List.range experts).foldl (fun l e => (insertScore (fp32Order (Config.routerScore i token e).toNat, e) l).take k) []).map (·.2)

/-- Blocks of up to 256 tokens (R353). -/
def blocksOf {α : Type} : Nat → List α → List (List α)
  | 0, _ => []
  | fuel + 1, l => if l.isEmpty then [] else l.take 256 :: blocksOf fuel (l.drop 256)

/-- The shard that holds an expert of a model (R335). -/
def expertShard (c : Coll) (e : Nat) : Nat := c.spec.firstShard + e % c.spec.shards

/-- Every other owner has sent its frame of a kind for the layer in progress (R363). -/
def Run.heard (x : Run) (others : List Nat) (p : Exchange → Bool) : Bool :=
  others.all fun o => x.inbox.any fun y => y.1 == o && y.2.1 == x.layer && p y.2.2

/-! ### The stages of a layer (R37, R348, R353 to R355, R363) -/

/-- The tokens of a step are few enough for the near-bank units, which hold the whole of the model (R355). -/
def Run.small (x : Run) (m : Model) : Bool := m.streamed.isEmpty && !x.train && decide (x.tokens ≤ 8)

/-- The broadcasts of a stage are requested at every stack (R384, R402); how many the program takes is free. -/
def State.askPorts (s : State) (num : Nat) : State :=
  let w : Work := .layer ⟨s.nodeId, num⟩
  let left := s.stacksOn.zipIdx.map fun y => (y.1, Config.freeNat (s.free + y.2))
  let s : State := { s with free := s.free + s.stacksOn.length }
  (s.modRun num fun x => { x with nearBank := true, left := some left }).requestAll w (s.stacksOn.map (0x40 + ·))

/-- The units of a stage (R38, R39, R355, R402): every enabled tile's tensor clusters, clocked, granted to the run together; for a
small step its broadcasts on every stack. True once they have served it. -/
def State.serveStage (s : State) (x : Run) (m : Model) : Bool × State :=
  let w : Work := .layer ⟨s.nodeId, x.num⟩
  if x.small m then
    match x.left with
    | none => (false, s.askPorts x.num)
    | some l => if l.isEmpty then (true, s.modRun x.num fun x => { x with left := none }) else (false, s)
  else
    let arbs := s.tilesOn.map tensorArb
    let s := s.tilesOn.foldl (fun s t => if s.arbHolds (tensorArb t) w then s else s.needTensor t false false w) s
    if s.turnsAll w arbs && s.tilesOn.all s.tileReady then (true, s.useGrants w arbs) else (false, s)

/-- One broadcast of a stage ends on a stack (R384, R389): the next one requests the port afresh. -/
def State.runBroadcastLayer (s : State) (num stack : Nat) : State :=
  match (s.run? num).bind fun x => x.left.bind fun l => l.find? (·.1 == stack) with
  | none => s
  | some y =>
    let step := fun (x : Run) => { x with left := x.left.map fun l => if y.2 = 0 then l.filter (·.1 != stack) else modWhere l (·.1 == stack) fun z => (z.1, z.2 - 1) }
    let s := s.modRun num step
    if y.2 = 0 then s else s.requestAll (.layer ⟨s.nodeId, num⟩) [0x40 + stack]

/-- A unit is done: its slot is free and the run goes on with the next unit (R348 step 5), or with the next step where no token
remains in this one, a free choice under R350 that discards the slot being filled. None behind the last unit of the last step. -/
def State.nextUnit (s : State) (x : Run) (r : Req) (m : Model) (c : Coll) : Option State :=
  let (i, s) := s.takeFree
  let left := !x.train && bit (byteAt r.entry 49) 2 && decide (x.layer < hdrLayers m.header) && Config.modelCount i % 2 == 1
  let next := if left then (if x.step + 1 < x.steps then some ((0, 0), true) else none) else s.unitAfter x m c (x.layer, x.segment)
  match next with
  | none => none
  | some (u, wraps) =>
    let s := if left then s.dropWork (· == .layer ⟨s.nodeId, x.num⟩) else s
    let go := fun (x : Run) =>
      { x with layer := u.1, segment := u.2, stage := .compute, step := if wraps then x.step + 1 else x.step,
               slots := if left then [] else x.slots.drop 1, routes := [],
               inbox := if u.1 = x.layer then x.inbox else x.inbox.filter (·.2.1 != x.layer) }
    some ((s.modRun x.num go).fillWindow x.num)

/-- The router of a layer has scored this node's tokens (R351, R352): the activations of each go to the owners of its experts
(R363). -/
def State.route (s : State) (x : Run) (m : Model) (c : Coll) : State :=
  let (i, s) := s.takeFree
  let pairs := (List.range x.homeTokens).flatMap fun t =>
    (topExperts i t (hdrExperts m.header) (hdrRouted m.header)).map fun e => (t, e)
  let at_ := fun (o : Nat) => pairs.filter fun p => s.ownerOf (expertShard c p.2) == some o
  (s.exchange c x.num x.layer fun o => .tokens (at_ o)).modRun x.num fun x => { x with stage := .exchange, routes := at_ s.nodeId }

/-- The tokens of every node that are routed to experts of this one are grouped (R353); in routed streaming the experts that no cache
holds are requested of the channels, and those it holds become the most recently routed (R348, R349). -/
def State.groupTokens (s : State) (x : Run) (m : Model) (c : Coll) : State :=
  let k : Key := ⟨s.nodeId, x.num⟩
  let far := x.inbox.flatMap fun y => match y.2.2 with
    | .tokens l => if y.2.1 = x.layer then l.map fun p => (y.1, p.1, p.2) else []
    | _ => []
  let all := (x.routes.map fun p => (s.nodeId, p.1, p.2)) ++ far
  let here := (List.range (hdrExperts m.header)).filter fun e => (s.localShards c).contains (expertShard c e) && all.any (·.2.2 == e)
  let blocks := here.flatMap fun e =>
    let l := (all.filter (·.2.2 == e)).map fun p => (p.1, p.2.1)
    (blocksOf l.length l).map fun b => (e, b)
  let streams := fun (e : Nat) => m.streamed.any fun t => t.layer == x.layer && t.placement == 2 && t.expert == e
  let hit := fun (y : Nat × Nat × Nat × Nat) => y.1 == x.layer && here.contains y.2.1
  let missing := if x.routedAt x.step then here.filter fun e => streams e && !m.expertCache.any fun y => hit y && y.2.1 == e else []
  let s := s.modModel x.coll x.model fun m => { m with expertCache := m.expertCache.filter (!hit ·) ++ m.expertCache.filter hit }
  (missing.foldl (fun s e => s.requestAll (.expert k e) s.channelsOn) s).modRun x.num fun x =>
    { x with stage := .experts, blocks := blocks, waitingExperts := missing }

/-- One expert runs for all its tokens of the layer (R353), once its share is there (R37); with none left its outputs go back. -/
def State.runExpert (s : State) (x : Run) (m : Model) (c : Coll) : State :=
  match x.blocks, x.blocks.find? fun b => !x.waitingExperts.contains b.1 with
  | [], _ => (s.exchange c x.num x.layer fun _ => .outputs).modRun x.num fun x => { x with stage := .combine }
  | _, none => s
  | _, some b =>
    let (ok, s) := s.serveStage x m
    if ok then s.modRun x.num fun x => { x with blocks := x.blocks.filter (·.1 != b.1) } else s

/-! ### What a run ends with (R358, R361, R362, R371, R372) -/

/-- Bytes of one sequence's output in a kind (R358), before padding to 64: `i` is a fresh free index, `n` the tokens generated. -/
def outputBytes (kind width n i : Nat) : Bytes :=
  if kind = 0 || kind = 3 then slice (Config.modelOutput i) 0 (2 * width)
  else if kind = 1 then slice (Config.modelOutput i) 0 4
  else toLE 4 n ++ slice (Config.modelOutput i) 0 (4 * n)

/-- The outputs of the sequences, each 64-byte aligned. -/
def State.runOutputs (s : State) (kind width : Nat) : List Nat → Bytes × State
  | [] => ([], s)
  | n :: rest =>
    let (i, s) := s.takeFree
    let b := outputBytes kind width n i
    let (more, s) := s.runOutputs kind width rest
    (b ++ zeros (roundUp b.length 64 - b.length) ++ more, s)

/-- The FP32 form of BF16 words (R362). -/
def bf16ToFp32 : Bytes → Bytes
  | a :: b :: rest => 0 :: 0 :: a :: b :: bf16ToFp32 rest
  | _ => []

/-- Free a handle's state (R361). -/
def State.freeHandle (s : State) (f handle : Nat) : State :=
  let n := (((s.fn f).handles.filter (·.1 == handle)).map (·.2.2.2)).foldl (· + ·) 0
  (s.release f .t1 n).modFn f fun x => { x with handles := x.handles.filter (·.1 != handle) }

/-- A run is complete (R358, R361, R362): its header and outputs are written, or its outputs are delivered as UPSERT members
first. Counts and bytes that R365 leaves unrepeatable are free values. -/
def State.finishRun (s : State) (r : Req) (x : Run) (m : Model) (io : HostIO) : State :=
  let e := r.entry
  let kind := Config.entryKind (le m.header 4 2) (byteAt e 48)
  let n := le e 56 4
  let counts := x.seqs.map (·.2.2)
  let tokensOut := counts.foldl (· + ·) 0
  let (outs, s) := s.runOutputs kind.2.1 kind.2.2 counts
  let (i, s) := s.takeFree
  let exited := if bit (byteAt e 49) 2 then Config.modelCount i % (le e 60 4 + tokensOut + 1) else 0
  let (j, s) := s.takeFree
  let deliver := le e 88 4
  let header := layout 64
    [(0, toLE 4 n), (4, toLE 4 tokensOut), (8, toLE 4 exited), (12, toLE 4 x.handle),
     (16, toLE 8 (if x.mode = 0 then 0 else Config.modelCount j)), (24, toLE 1 x.mode),
     (25, toLE 1 (b2n x.segmented + 2 * b2n x.nearBank)),
     (28, toLE 4 (if deliver = 0 then 0 else 64 + outs.length)), (32, toLE 8 x.readStamp)]
  let data := header ++ outs
  let s := if bit (byteAt e 49) 4 then s.freeHandle r.fn (le e 76 4) else s
  match (if deliver = 0 then none else s.coll? deliver) with
  | none => (s.endRun r.num).complete r
      { status := stOk, detail := 0, value := n, value2 := tokensOut, data := data, dataReturned := data.length } io
  | some c =>
    let step := roundUp (2 * kind.2.2) 64
    let inp := io.input.getD []
    let items := (List.range n).map fun q =>
      let id := le inp (16 * q + 8) 8
      (id, toLE 8 id ++ zeros 8 ++ bf16ToFp32 (slice outs (step * q) (2 * kind.2.2)))
    let s := s.endRun r.num
    let s : State := { s with runs := s.runs ++ [{ x with t0 := 0, output := data, tokensOut := tokensOut, inbox := [] }] }
    s.startMembers { r with opcode := 4 } c .upsert false 0 items

/-- The 32-byte header of a training step (R372); loss and norm are free values. -/
def trainHeader (i accumulated nonFinite applied w : Nat) : Bytes :=
  toLE 4 (Config.trainWord (2 * i)).toNat ++ toLE 4 (Config.trainWord (2 * i + 1)).toNat ++ toLE 4 accumulated ++
    toLE 4 nonFinite ++ toLE 1 applied ++ zeros 7 ++ toLE 8 w

/-- The step completes (R371, R372). -/
def State.finishTrain (s : State) (r : Req) (x : Run) (accumulated nonFinite applied w : Nat) (io : HostIO) : State :=
  let (i, s) := s.takeFree
  let data := trainHeader i accumulated nonFinite applied w
  (s.endRun x.num).complete r
    { status := stOk, detail := 0, value := w, value2 := le r.entry 56 4, data := data, dataReturned := data.length } io

/-- Forward and backward pass are over (R369 step 3, R371): gradients are accumulated; a gradient that is not finite clears the
accumulator. Without apply the step completes here. -/
def State.accumulate (s : State) (r : Req) (x : Run) (m : Model) (io : HostIO) : State :=
  let flags := byteAt r.entry 49
  let (i, s) := s.takeFree
  let bad := Config.trainNonFinite i
  let total := if bad = 0 then (if bit flags 1 then 0 else m.accumulated) + le r.entry 56 4 else 0
  let s := s.modModel m.coll m.id fun m => { m with accumulated := total }
  let s := s.modRun x.num fun x => { x with step := x.steps, nonFinite := bad }
  if bit flags 0 then s else s.finishTrain r x total bad 0 0 io

/-- A run goes on by one stage where it can (R37, R348, R353, R363, R369): a layer starts once its slot is complete on every channel
and the other nodes' parts of it have come. It ends when a tensor of its model has come to lie in lost data (R364). -/
def State.goOn (s : State) (num : Nat) (io : HostIO) : State :=
  match s.run? num, s.req? num with
  | some x, some r =>
    match s.model? x.coll x.model, s.coll? x.coll with
    | some m, some c =>
      let others := s.otherOwners c
      let last := x.segment + 1 == s.segmentsOf x m c x.layer
      let leave := fun (s : State) => match s.nextUnit x r m c with
        | some s => s
        | none => if x.train then s.accumulate r x m io else s.finishRun r x m io
      if x.waiting || x.output != [] || x.steps ≤ x.step then s
      else if m.degraded then (s.dropRun num).complete r (.bare stDegraded 0) io
      else
        match x.stage with
        | .compute =>
          if !x.slots.any (fun y => y.1 == (x.layer, x.segment) && y.2) || (last && m.striped x.layer && !x.heard others (· == .part)) then s
          else
            let (ok, s) := s.serveStage x m
            if !ok then s
            else if hdrExperts m.header = 0 || hdrLayers m.header ≤ x.layer || !last then leave s
            else s.route x m c
        | .exchange => if x.heard others fun y => match y with | .tokens _ => true | _ => false then s.groupTokens x m c else s
        | .experts => s.runExpert x m c
        | .combine => if x.heard others (· == .outputs) then leave s else s
    | _, _ => (s.dropRun num).complete r (.bare stRetry 0) io
  | _, _ => s

/-- The oldest waiting run of a model, in admission order (R347); a training step that waits for the trainer waits for no window. -/
def State.firstWaiting (s : State) (m : Model) : Option Nat :=
  let seqOf := fun (x : Run) => ((s.req? x.num).map (·.seq)).getD 0
  (s.runs.filter fun x => x.coll == m.coll && x.model == m.id && x.waiting && (!x.train || m.trainer == some x.num)).foldl
    (fun b x => match b with
      | none => some x.num
      | some y => if seqOf x < ((s.req? y).map (·.seq)).getD 0 then some x.num else some y) none

/-- A run starts once it may hold the window (R345 to R348); where nothing streams there is none. -/
def State.startRun (s : State) (num : Nat) (io : HostIO) : State :=
  match s.run? num, s.req? num with
  | some x, some r =>
    match s.model? x.coll x.model, s.coll? x.coll with
    | some m, some c =>
      if m.streamed.isEmpty then (s.modRun num fun x => { x with waiting := false }).fillWindow num
      else if m.windowBy.isSome || s.firstWaiting m != some num then s
      else
        match s.takeWindow c m num r.fn with
        | none => (((s.quotaRefuse r.fn 1).dropRun num).complete r (.bare stQuota 1) io)
        | some (seg, s) => (s.modRun num fun x => { x with waiting := false, segmented := seg }).fillWindow num
    | _, _ => (s.dropRun num).complete r (.bare stRetry 0) io
  | _, _ => s

/-- Read stamps of a run are taken on this node's shards (R359). -/
def State.readModel (s : State) (k : Key) (c : Coll) : State :=
  { s with shards := modWhere s.shards (fun d => d.coll == c.spec.id && d.forwardTo.isNone) fun d =>
      { d with readers := d.readers ++ [(.req k, d.counter)] } }

/-- Bytes of output that a run's command must have room for (R357, R358, R362). -/
def runNeed (e : Bytes) (kind : Nat × Nat × Nat) : Nat :=
  let each := if kind.2.1 = 0 || kind.2.1 = 3 then 2 * kind.2.2 else if kind.2.1 = 1 then 4 else 4 + 4 * le e 64 2
  64 + le e 56 4 * roundUp each 64 + (if le e 88 4 = 0 then 0 else 16 * le e 56 4)

/-- Size of an input token of an entry point's kind (R357). -/
def inputSize (kind : Nat × Nat × Nat) (m : Model) : Nat := if kind.1 = 0 then 4 else 2 * hdrWidth m.header

/-- The checks on a run's fields and its sequence table (R356, R357, R361, R362). -/
def State.runChecks (s : State) (f : Nat) (m : Model) (kind : Nat × Nat × Nat) (e inp : Bytes) : List (Nat × Bool) :=
  let n := le e 56 4
  let flags := byteAt e 49
  let deliver := le e 88 4
  let sampled := byteAt e 50 == 1
  let unit (x : Nat) : Bool := match fp32Value x with | some v => decide (0 ≤ v) && decide (v ≤ 2 ^ 149) | none => false
  let warm : Bool := match bf16Value (le e 66 2) with | some v => decide (0 < v) | none => false
  [(24, decide (16 * n ≤ inp.length)), (48, decide (byteAt e 48 < hdrEntries m.header)),
   (51, if sampled then decide (1 ≤ byteAt e 51) && decide (byteAt e 51 ≤ 64) else byteAt e 51 == 0),
   (56, decide (1 ≤ n) && decide (n ≤ 65536)),
   (60, decide (1 ≤ le e 60 4) && decide (le e 60 4 ≤ 1048576) && (seqLengths inp n 0).foldl (· + ·) 0 == le e 60 4),
   (64, decide (le e 64 2 ≤ 4096) && (le e 64 2 == 0 || kind.2.1 == 2)),
   (66, if sampled then warm else le e 66 2 == 0), (68, decide (le e 68 4 ≤ 600000)),
   (72, if bit flags 2 then unit (le e 72 4) else le e 72 4 == 0),
   (76, le e 76 4 == 0 || (s.fn f).handles.any fun h => h.1 == le e 76 4 && h.2.1 == m.coll && h.2.2.1 == m.id),
   (88, deliver == 0 || (kind.2.1 == 0 && (s.coll? deliver).any fun d => d.spec.dimensions == kind.2.2))]

/-- The table entries of sequences that do not lie in the input buffer (R133, R357). -/
def seqBads (inp : Bytes) (size n : Nat) : List Nat :=
  (List.range n).filterMap fun i =>
    if inp.length < le inp (16 * i) 4 + size * le inp (16 * i + 4) 4 then some (16 * i) else none

/-- MODEL_RUN (R356 to R364): the command is checked, passes the ledger arbiters and takes its read stamps, T0 is reserved, and the
run starts or waits for the model's window in admission order. A run that has been taken in goes on by one stage. `stamps` are the
read stamps on other owners' shards. -/
def execModelRun (num : Nat) (stamps : List (Nat × Nat)) (io : HostIO) (t : Nat) (s : State) : Result :=
  let s := s.at t
  let e := s.entryOf num
  let k : Key := ⟨s.nodeId, num⟩
  match s.run? num with
  | some x => .next (if x.train then s else if x.waiting then s.startRun num io else s.goOn num io)
  | none =>
    let m? := s.model? (le e 4 4) (le e 52 4)
    let kind := match m? with | some m => Config.entryKind (le m.header 4 2) (byteAt e 48) | none => (0, 0, 0)
    let flags := byteAt e 49
    let n := le e 56 4
    let deliver := le e 88 4
    let mode := flags % 4
    .next (s.dataCommit num 8 io [(92, 36)] [(49, decide (flags < 32) && decide (mode < 3)), (50, decide (byteAt e 50 < 2))] .named
      (some 4) (runNeed e kind) fun s r inp =>
      match s.coll? r.collection, m? with
      | some c, some m =>
        if deliver ≠ 0 && (s.coll? deliver).isSome && !bit (s.rights r.fn deliver) 1 then s.complete r (.bare stDenied 0) io
        else
        let lens := seqLengths inp n 0
        match lowestBad e [] (s.runChecks r.fn m kind e inp) with
        | some o => s.complete r (.bare stInvalid o) io
        | none =>
          match lowest (seqBads inp (inputSize kind m) n), s.runStamps c stamps with
          | some o, _ => s.badInput r o io
          | none, none => s.complete r (.bare stRetry 0) io
          | none, some _ => s.passLedgers (s.localShards c) (.pass (.req k)) fun s =>
            let rs := (s.runStamps c stamps).getD []
            match m.seenAt rs with
            | none => s.complete r (.bare stRetry 2) io
            | some false => s.complete r (.bare stInvalid 52) io
            | some true =>
              if m.degraded then s.complete r (.bare stDegraded 0) io
              else
                let home := s.homeSequences c n
                let counts := (List.range n).map fun q => if kind.2.1 = 2 then Config.modelCount (s.free + q) % (le e 64 2 + 1) else 0
                let s : State := { s with free := s.free + n }
                let seqs := (List.range n).map fun q => (home.contains q, lens.getD q 0, counts.getD q 0)
                let t0 := tokensOf true 0 (seqs.filter (·.1)) * hdrPerToken m.header
                let (i, s) := s.takeFree
                let kept := if bit flags 3 then Config.modelCount i else 0
                if !s.fits r.fn .t0 t0 || !s.tilesHold t0 then (s.quotaRefuse r.fn 0).complete r (.bare stQuota 0) io
                else if bit flags 3 && (!s.fits r.fn .t1 kept || (le e 76 4 == 0 || bit flags 4) &&
                    decide (4096 ≤ ((s.fn r.fn).handles.map (·.1)).eraseDups.length)) then
                  (s.quotaRefuse r.fn 1).complete r (.bare stQuota 1) io
                else
                  let again := le e 76 4 != 0 && !bit flags 4
                  let handle := if !bit flags 3 then 0 else if again then le e 76 4 else s.nextHandle
                  let s := s.modFn r.fn (·.charge .t0 t0)
                  let s := if bit flags 3 then
                      (s.modFn r.fn fun f =>
                        { f.charge .t1 kept with handles := f.handles ++ [(handle, m.coll, m.id, kept)] })
                    else s
                  let s : State := { s with nextHandle := if bit flags 3 && !again then s.nextHandle + 1 else s.nextHandle }
                  let s := s.readModel k c
                  let m1 := s.stepMode c m mode (le e 60 4)
                  let m2 := if counts.all (decide <| · ≤ 1) then m1 else s.stepMode c m mode (counts.filter (decide <| 1 < ·)).length
                  let tmo := if le e 68 4 = 0 then 60000 else le e 68 4
                  let x : Run :=
                    { num := num, coll := m.coll, model := m.id, train := false, waiting := true, layer := 0, segment := 0,
                      stage := .compute, step := 0, routed := m1 == 2, routedLater := m2 == 2, seqs := seqs, slots := [],
                      nearBank := false, left := none, routes := [], blocks := [], waitingExperts := [], inbox := [],
                      mode := if m.streamed.isEmpty then 0 else if m1 = m2 then m1 else 3, t0 := t0, segmented := false,
                      due := r.admittedAt + tmo * Config.ticksPerMs, prior := 0, handle := handle,
                      readStamp := ((rs.head?.map (·.2)).getD 0), output := [], tokensOut := 0, nonFinite := 0 }
                  let s := s.modReq num fun r => { r with body := .run handle }
                  let s := s.toOwners r c 8 (.runShare k c.spec.id m.id)
                  ({ s with runs := s.runs ++ [x] } : State).startRun num io
      | _, none => s.complete r (.bare stInvalid 52) io
      | none, _ => s.complete r (.bare stInvalid 4) io)

/-- LAYER_STREAM_COMPLETE (R37, R38, R344, R348): the stream in hand has had its grants on every channel, so its slot is complete; its
striped parts go out, the next slot fills, and the run goes on. -/
def execLayerStreamComplete (num : Nat) (io : HostIO) (t : Nat) (s : State) : Result :=
  let s := s.at t
  let w : Work := .layer ⟨s.nodeId, num⟩
  match s.run? num with
  | none => .next s
  | some x =>
    match x.slots.find? (!·.2), s.model? x.coll x.model, s.coll? x.coll with
    | some y, some m, some c =>
      if !s.turnsAll w s.channelsOn then .next s
      else
        let s := (s.useGrants w s.channelsOn).modRun num fun x => { x with slots := x.slots.map fun z => (z.1, true) }
        let s := if m.striped y.1.1 && y.1.2 + 1 == s.segmentsOf x m c y.1.1 then s.exchange c num y.1.1 fun _ => .part else s
        .next ((s.fillWindow num).goOn num io)
    | _, _, _ => .next s

/-- Bytes of the model's resident allowance on this node, which its expert cache may fill (R349): the spec gives no value, so it is
free. -/
def Model.allowance (m : Model) : Nat := Config.freeNat (2 ^ 72 + m.coll * 2 ^ 32 + m.id)

/-- How many experts at the front of the cache, the least recently routed ones, hold the bytes to be freed. -/
def oldestExperts : Nat → List (Nat × Nat × Nat × Nat) → Nat
  | _, [] => 0
  | n, y :: rest => if n = 0 then 0 else 1 + oldestExperts (n - y.2.2.1) rest

/-- An expert of `n` bytes joins the expert cache (R349): the least recently routed ones leave when the allowance is full; nothing
happens when the function's T1 quota does not hold it. -/
def State.cacheExpert (s : State) (f : Nat) (m : Model) (layer expert n : Nat) : State :=
  let held : Nat := m.expertCache.foldl (fun n y => n + y.2.2.1) 0
  let k := oldestExperts (held + n - m.allowance) m.expertCache
  let x := (m.expertCache.take k).foldl (fun s y => s.release y.2.2.2 .t1 y.2.2.1) s
  if m.allowance < n then s
  else if x.fits f .t1 n && decide (n ≤ x.t1Free f) then
    (x.modFn f (·.charge .t1 n)).modModel m.coll m.id fun m =>
      { m with expertCache := m.expertCache.drop k ++ [(layer, expert, n, f)] }
  else s.quotaRefuse f 1

/-- ROUTED_EXPERT_STREAM_COMPLETE (R37, R38, R348, R349): a routed expert's share has had its grants on every channel; the expert may
run, and joins the expert cache. -/
def execRoutedExpertStreamComplete (num expert : Nat) (s : State) : Result :=
  let w : Work := .expert ⟨s.nodeId, num⟩ expert
  match s.run? num, s.req? num with
  | some x, some r =>
    if !x.waitingExperts.contains expert || !s.turnsAll w s.channelsOn then .next s
    else
      let s := (s.useGrants w s.channelsOn).modRun num fun x => { x with waitingExperts := x.waitingExperts.filter (· != expert) }
      match s.model? x.coll x.model, s.coll? x.coll with
      | some m, some c =>
        let n := (m.tensors.filter fun t => t.layer == x.layer && t.placement == 2 && t.expert == expert).foldl
          (fun n t => n + s.storedBytes c t) 0
        .next (s.cacheExpert r.fn m x.layer expert n)
      | _, _ => .next s
  | _, _ => .next s

/-- ACTIVATION_EXCHANGE_RECEIVE (R363): a peer's parts, activations or expert outputs of a layer have come. -/
def execActivationExchangeReceive (k : Key) (fromNode : Nat) (layer : LayerFrame) (s : State) : Result :=
  if k.origin = s.nodeId then .next (s.modRun k.num fun y => { y with inbox := y.inbox ++ [(fromNode, layer.layer, layer.what)] })
  else .next s

/-- WINDOW_RELEASE (R345): no run of the model has followed within 1 s. -/
def execWindowRelease (coll model t : Nat) (s : State) : Result :=
  let s := s.at t
  match s.model? coll model with
  | none => .next s
  | some m =>
    match m.windowBy, m.windowAt with
    | none, some at_ =>
      if at_ + Config.ticksPerS ≤ s.now then
        .next ((s.release m.windowFn .t1 m.windowT1).modModel coll model fun m => { m with windowAt := none, windowT1 := 0 })
      else .next s
    | _, _ => .next s

/-- MODEL_RUN_TIMEOUT (R364): timeout_ms has passed; no partial run is kept. -/
def execModelRunTimeout (num : Nat) (io : HostIO) (t : Nat) (s : State) : Result :=
  let s := s.at t
  match s.run? num, s.req? num with
  | some x, some r =>
    if x.due ≤ s.now && x.output == [] then
      .next ((s.dropRun num).complete r (.bare stRetry 0) io)
    else .next s
  | _, _ => .next s

/-! ### TRAIN-STEP (R366 to R374) -/

/-- Trainable tensors are resident and lie on one node (R366). -/
def State.canTrain (s : State) (c : Coll) (m : Model) : Bool :=
  let ts := m.tensors.filter (·.trainable)
  let nodes := ts.flatMap fun t => (c.shardIds.filter fun i => t.shareOf c.spec i != 0).filterMap s.ownerOf
  m.resident && ts.all (residentOf m.tensors).contains && decide (nodes.eraseDups.length ≤ 1)

/-- TRAIN_STEP (R366 to R371): the command is checked and takes its read stamps; it waits for the model's trainer in admission order.
With the trainer its forward and backward passes go on by one stage, streamed tensors through the window as frozen weights. -/
def execTrainStep (num : Nat) (stamps : List (Nat × Nat)) (io : HostIO) (t : Nat) (s : State) : Result :=
  let s := s.at t
  let e := s.entryOf num
  let k : Key := ⟨s.nodeId, num⟩
  match s.run? num, s.req? num with
  | some x, some r =>
    match s.model? x.coll x.model with
    | some m =>
      let takes := x.waiting && m.trainer.isNone && m.trainWait.head? == some num
      let s := if takes then
          (s.modModel m.coll m.id fun m => { m with trainer := some num, trainWait := m.trainWait.drop 1 }).modRun num fun x =>
            { x with prior := m.accumulated }
        else s
      .next (if !x.train then s else if takes || (x.waiting && m.trainer == some num) then s.startRun num io else s.goOn num io)
    | none => .next ((s.dropRun num).complete r (.bare stRetry 0) io)
  | _, _ =>
    let flags := byteAt e 49
    let n := le e 56 4
    let inRange (o : Nat) (p : Int → Bool) : Bool := match fp32Value (le e o 4) with | some v => p v | none => false
    let adam := byteAt e 48 == 1
    let below1 := fun (v : Int) => decide (0 ≤ v) && decide (v < 2 ^ 149)
    .next (s.dataCommit num 9 io [(84, 44)]
      [(48, decide (byteAt e 48 < 2)), (49, decide (flags < 4)), (51, decide (byteAt e 51 < 2))] .named (some 4) 32 fun s r inp =>
      match s.coll? r.collection, s.model? r.collection (le e 52 4) with
      | some c, some m =>
        let lens := seqLengths inp n 0
        match lowestBad e []
            [(24, decide (16 * n ≤ inp.length)), (50, decide (byteAt e 50 < hdrEntries m.header)),
             (56, decide (1 ≤ n) && decide (n ≤ 65536)), (60, inRange 60 fun v => decide (0 < v)), (64, inRange 64 below1),
             (68, if adam then inRange 68 below1 else true), (72, if adam then inRange 72 fun v => decide (0 < v) else true),
             (76, inRange 76 fun v => decide (0 ≤ v)), (80, inRange 80 fun v => decide (0 ≤ v))] with
        | some o => s.complete r (.bare stInvalid o) io
        | none =>
          match s.runStamps c stamps with
          | none => s.complete r (.bare stRetry 0) io
          | some _ => s.passLedgers (s.localShards c) (.pass (.req k)) fun s =>
            let rs := (s.runStamps c stamps).getD []
            match m.seenAt rs with
            | none => s.complete r (.bare stRetry 2) io
            | some false => s.complete r (.bare stInvalid 52) io
            | some true =>
              let t0 := lens.foldl (· + ·) 0 * hdrPerToken m.header
              if m.degraded then s.complete r (.bare stDegraded 0) io
              else if !s.canTrain c m then s.complete r (.bare stUnsupported 3) io
              else if !s.fits r.fn .t0 t0 || !s.tilesHold t0 then (s.quotaRefuse r.fn 0).complete r (.bare stQuota 0) io
              else
                let x : Run :=
                  { num := num, coll := m.coll, model := m.id, train := true, waiting := true, layer := 0, segment := 0,
                    stage := .compute, step := 0, routed := false, routedLater := false,
                    seqs := lens.map fun l => (true, l, 0), slots := [], nearBank := false, left := none, routes := [], blocks := [],
                    waitingExperts := [], inbox := [], mode := 0, t0 := t0, segmented := false,
                    due := r.admittedAt + 60000 * Config.ticksPerMs, prior := 0, handle := 0,
                    readStamp := ((rs.head?.map (·.2)).getD 0), output := [], tokensOut := 0, nonFinite := 0 }
                let s := ((s.modFn r.fn (·.charge .t0 t0)).modReq num fun r => { r with body := .train }).readModel k c
                let s := s.modModel m.coll m.id fun m => { m with trainWait := m.trainWait ++ [num] }
                ({ s with runs := s.runs ++ [x] } : State).toOwners r c 9 (.runShare k c.spec.id m.id)
      | some _, none => s.complete r (.bare stInvalid 52) io
      | none, _ => s.complete r (.bare stInvalid 4) io)

/-- TRAIN_SWITCH (R369 step 5, R371 to R373): the updated working copies become current at W, behind what waits at the ledger arbiter
of the model's shard, and the accumulator is cleared. A value that is not finite leaves everything unchanged and takes no stamp.
`stamps`: W where the model's shard is a peer's. -/
def execTrainSwitch (num : Nat) (stamps : List (Nat × Nat)) (io : HostIO) (t : Nat) (s : State) : Result :=
  let s := s.at t
  match s.run? num, s.req? num with
  | some x, some r =>
    match s.model? x.coll x.model, s.coll? x.coll with
    | some m, some c =>
      if !x.train || x.waiting || x.step < x.steps then .next s
      else
        let (i, s) := s.takeFree
        let bad := x.nonFinite + Config.trainNonFinite i
        let clear := fun (s : State) => s.modModel m.coll m.id fun m => { m with accumulated := 0 }
        let done := fun (w : Nat) (s : State) =>
          ((clear s).modModel m.coll m.id fun m => { m with version := w }).finishTrain r x m.accumulated 0 1 w io
        let shard := c.spec.firstShard
        if bad ≠ 0 then .next ((clear s).finishTrain r x 0 bad 0 0 io)
        else if s.ownerOf shard == some s.nodeId then
          .next (s.passLedgers [shard] (.pass (.req ⟨s.nodeId, num⟩)) fun s =>
            let (w, s) := s.takeSwitch shard
            done w s)
        else .next (done (((stamps.find? (·.1 == shard)).map (·.2)).getD 0) s)
    | _, _ => .next ((s.dropRun num).complete r (.bare stRetry 0) io)
  | _, _ => .next s

end Sys2Proof.Machine
end

