-- ==== Sys2Proof/Machine/NearBank.lean ====
section
/-! DEFINITION. Near-bank arithmetic (R375 to R402): the layout of regions, FP32 and BF16 arithmetic of the units, PIM-EXEC and
the broadcasts, those of the node's own scoring included. -/

namespace Sys2Proof.Machine

open Sys2Proof

/-! ### Layout (R381, R382) -/

/-- Bytes of a frame, and so of a region (R379, R382). -/
def State.frameBytes (s : State) : Nat := s.stacksOn.length * 2 ^ 25

/-- Where a byte of the ordinary address space lies. -/
structure Place where
  stack : Nat
  bank : Nat
  byte : Nat
  deriving DecidableEq, Repr

/-- The interleave hash (R380, R382): the place of an address of the ordinary space over the enabled stacks and the interleaved
frames, both ascending; none past their end. -/
def interleave (stacks_ frames : List Nat) (a : Nat) : Option Place :=
  let n := 256 * stacks_.length
  let fs := stacks_.length * 2 ^ 25
  match frames[a / fs]? with
  | none => none
  | some f =>
    let g := a % fs / 256
    let row := g / n
    let b := g % n ^^^ row
    some ⟨stacks_.getD (b % stacks_.length) 0, b / stacks_.length, f * 131072 + row * 256 + a % 256⟩

/-- The interleaved frames (R379): those that are no region, of a function or of the node itself. -/
def State.interleavedFrames (s : State) : List Nat :=
  (List.range 384).filter fun f => !s.regions.any (·.idx == f) && !Config.ownFrame (s.regions.map (·.idx)) f

/-- Where an ordinary address lies now (R380, R382). -/
def State.placeOfAddress (s : State) (a : Nat) : Option Place := interleave s.stacksOn s.interleavedFrames a

/-- R382: where a unit's local offset lies in its region. -/
def placeOf (nst index unit off : Nat) : Nat := ((off / 256) * 128 * nst + unit * nst + index) * 256 + off % 256

/-- R382: the unit of a region offset: position of its stack, unit. -/
def unitOf (nst o : Nat) : Nat × Nat :=
  let u := o / 256 % (128 * nst)
  (u % nst, u / nst)

/-- `n` bytes of a unit's slice of a region, from a local offset. -/
def readSlice (m : Mem) (nst index unit off : Nat) : Nat → Bytes
  | 0 => []
  | n + 1 => memRead m (placeOf nst index unit off) :: readSlice m nst index unit (off + 1) n

/-- Write bytes into a unit's slice. -/
def writeSlice (m : Mem) (nst index unit off : Nat) : Bytes → Mem
  | [] => m
  | x :: rest => writeSlice (memWrite m (placeOf nst index unit off) x) nst index unit (off + 1) rest

/-- The operand buffer of a unit. -/
def State.operandBuf (s : State) (stack unit : Nat) : Mem :=
  ((s.operandBufs.find? fun x => x.1.1 == stack && x.1.2 == unit).map (·.2)).getD []

/-- Write bytes into a unit's operand buffer. -/
def State.writeBuf (s : State) (stack unit off : Nat) (b : Bytes) : State :=
  { s with operandBufs := (s.operandBufs.filter fun x => !(x.1.1 == stack && x.1.2 == unit)) ++
      [((stack, unit), memWriteAll (s.operandBuf stack unit) off b)] }

/-! ### FP32 words (R387) -/

def fpNan (w : Nat) : Bool := field w 23 8 == 255 && field w 0 23 != 0
def fpInf (w : Nat) : Bool := field w 23 8 == 255 && field w 0 23 == 0
def fpNeg (w : Nat) : Nat := if bit w 31 then w - 2 ^ 31 else w + 2 ^ 31

/-- a + b, rounded to nearest even; none is not a number. -/
def fpAdd (a b : Nat) : Option Nat :=
  if fpNan a || fpNan b then none
  else if fpInf a then (if fpInf b && bit a 31 != bit b 31 then none else some a)
  else if fpInf b then some b
  else
    let v := (fp32Value a).getD 0 + (fp32Value b).getD 0
    if v = 0 then some (if bit a 31 && bit b 31 then 2 ^ 31 else 0) else some (fp32Encode v 149)

/-- a × b, rounded to nearest even. -/
def fpMul (a b : Nat) : Option Nat :=
  let neg := bit a 31 != bit b 31
  let zero := fun (w : Nat) => w % 2 ^ 31 == 0
  if fpNan a || fpNan b then none
  else if fpInf a || fpInf b then
    if zero a || zero b then none else some (if neg then 0xFF800000 else 0x7F800000)
  else
    let v := (fp32Value a).getD 0 * (fp32Value b).getD 0
    if v = 0 then some (if neg then 2 ^ 31 else 0) else some (fp32Encode v 298)

/-- A word below −87, minus infinity included. -/
def fpBelow87 (w : Nat) : Bool :=
  if fpInf w then bit w 31 else match fp32Value w with | some v => decide (v < -(87 * 2 ^ 149)) | none => false

/-- The larger of two magnitudes as words; none is not a number. -/
def fpMaxAbs (a : Option Nat) (w : Nat) : Option Nat :=
  match a with
  | none => none
  | some x => if fpNan w then none else some (max x (w % 2 ^ 31))

/-- Bytes of an element in a format of R385: 1 BF16, 2 FP32. -/
def elemBytes (fmt : Nat) : Nat := if fmt = 1 then 2 else 4

/-- Element `i` of bytes as an FP32 word. -/
def elemAt (fmt : Nat) (b : Bytes) (i : Nat) : Nat := if fmt = 1 then le b (2 * i) 2 * 65536 else le b (4 * i) 4

/-- A BF16 word from an FP32 word that is a number, half to even. -/
def bf16Word (w : Nat) : Nat :=
  if fpInf w then w / 65536
  else match fp32Value w with
    | some v => encodeFloat 7 v.natAbs 149 + (if bit w 31 then 2 ^ 15 else 0)
    | none => w / 65536

/-- A result word in a format; what is no number is a quiet NaN whose sign and payload are free (R387, R397). -/
def State.resultBytes (s : State) (fmt : Nat) (w : Option Nat) : Bytes × State :=
  match w with
  | some x => (if fmt = 1 then toLE 2 (bf16Word x) else toLE 4 x, s)
  | none =>
    let (i, s) := s.takeFree
    let n := ((Config.nearBankWord i) ||| 0x7FC00000#32).toNat
    (if fmt = 1 then toLE 2 (n / 65536) else toLE 4 n, s)

/-- A result the manual leaves within bounds only: a free word (R387). -/
def State.freeBytes (s : State) (fmt : Nat) : Bytes × State :=
  let (i, s) := s.takeFree
  (if fmt = 1 then toLE 2 ((Config.nearBankWord i).toNat / 65536) else toLE 4 (Config.nearBankWord i).toNat, s)

/-- `n` free words. -/
def State.freeWords (s : State) : Nat → Bytes × State
  | 0 => ([], s)
  | n + 1 =>
    let (b, s) := s.freeBytes 2
    let (more, s) := s.freeWords n
    (b ++ more, s)

/-! ### Steps (R385, R386, R395, R396) -/

/-- A step of the input buffer. -/
def readStep (b : Bytes) (o : Nat) : PimStep :=
  ⟨byteAt b o, byteAt b (o + 1), byteAt b (o + 2), byteAt b (o + 3), le b (o + 4) 4, le b (o + 8) 4, le b (o + 12) 4,
   le b (o + 16) 4, le b (o + 20) 4, le b (o + 24) 2, le b (o + 26) 2, le b (o + 28) 4⟩

def PimStep.inFmt (p : PimStep) : Nat := p.fmt % 16
def PimStep.outFmt (p : PimStep) : Nat := p.fmt / 16
def PimStep.reduces (p : PimStep) : Bool := bit p.flags 2
def refLocal (r : Nat) : Nat := r % 2 ^ 18
def refRegion (r : Nat) : Nat := r / 2 ^ 18 % 512

/-- Bytes of a vector in near-bank record form: codes and 4 bytes per 64 elements. -/
def recordForm (elements bits : Nat) : Nat := elements * bits / 8 + 4 * (elements / 64)

/-- Bytes of a weight row (R385). -/
def rowForm (fmt cols : Nat) : Nat :=
  if fmt = 0 then recordForm cols 4 else if fmt = 6 then 2 * cols else recordForm cols 8

/-- Bytes of one unit of work's operand a: a record, a row, a group, or one element. -/
def PimStep.aItem (p : PimStep) : Nat :=
  if p.op = 2 || p.op = 3 then p.item
  else if p.op = 6 || p.op = 7 then p.item * elemBytes p.inFmt
  else elemBytes p.inFmt

/-- Bytes of one unit of work's result. -/
def PimStep.rItem (p : PimStep) : Nat :=
  if p.op = 2 || p.op = 3 then 4 * p.count
  else if p.op = 6 then 2
  else if p.op = 7 || p.op = 9 then 4
  else elemBytes p.outFmt

/-- Units of work of a step in each near-bank unit. -/
def PimStep.items (p : PimStep) : Nat := if p.aItem = 0 then 0 else p.len / p.aItem

/-- The second operand comes from a slice. -/
def PimStep.usesB (p : PimStep) : Bool := (p.op == 4 || p.op == 5) && !bit p.flags 1

/-- Bytes each unit moves for one unit of work, and its work in 1,950 ns at the rate of Table: unit rates (R386). -/
def PimStep.moved (p : PimStep) : Nat :=
  p.aItem + p.rItem + (if p.usesB then p.aItem else 0) +
    (if p.op = 9 || (p.op = 3 && bit p.flags 0) then p.rItem else 0)
def PimStep.workOf (p : PimStep) : Nat :=
  if p.op = 2 || p.op = 3 then p.extent * p.count else if p.op = 6 || p.op = 7 then p.item else 1
def PimStep.rate (p : PimStep) : Nat :=
  if p.op = 2 then (if p.fmt = 0 then 1024 else 512)
  else if p.op = 3 then (if p.inFmt = 6 then 128 else if p.inFmt = 4 || p.inFmt = 5 then 256 else 512)
  else 16

/-- Units of work of one broadcast, with t at most 2,000 ns: whole items, or elements in multiples of 32 (R386). -/
def PimStep.perBroadcast (p : PimStep) : Nat :=
  if p.op = 1 then 1
  else
    let n := min (62400 / max p.moved 1) (1950 * p.rate / max p.workOf 1)
    if p.op = 2 || p.op = 3 || p.op = 6 || p.op = 7 then n else n / 32 * 32

/-- Operand buffer bytes a step uses. -/
def PimStep.bufBytes (p : PimStep) : Nat :=
  if p.op = 1 then p.len
  else if p.op = 2 then p.count * recordForm p.extent (if p.inFmt = 0 then 4 else 8)
  else if p.op = 3 then p.count * (if p.inFmt = 6 then 2 * p.extent else recordForm p.extent 8)
  else if p.op = 4 || p.op = 5 then (if bit p.flags 1 then p.len else 0)
  else if p.op = 7 then (if bit p.flags 3 then 4 else 0)
  else if p.op = 6 then 0
  else 4

/-- The references a step uses. -/
def PimStep.refs (p : PimStep) : List Nat :=
  if p.op = 1 then [] else [p.a, p.r] ++ (if p.usesB then [p.b] else [])

/-- An operand reference's reserved bits are 0 and its local offset is a multiple of 32 (Table: operand reference). -/
def refGood (r : Nat) : Bool := refLocal r % 32 == 0 && decide (r < 2 ^ 27)

/-- A step's item is one that Table: broadcast operations allows. -/
def PimStep.itemGood (p : PimStep) : Bool :=
  match p.op with
  | 2 => decide (32 ≤ p.item) && decide (p.item ≤ 4096) && p.item % 32 == 0 &&
      decide (recordForm p.extent (if p.outFmt = 0 then 4 else 8) ≤ p.item)
  | 3 => decide (rowForm p.inFmt p.extent ≤ p.item)
  | 6 => p.item == 32 || p.item == 64 || p.item == 128
  | 7 => decide (64 ≤ p.item) && decide (p.item ≤ 16384)
  | _ => true

/-- A step's extent is one that Table: broadcast operations allows; LOADV data lies behind the steps (R395). -/
def PimStep.extentGood (p : PimStep) (stepCount : Nat) : Bool :=
  match p.op with
  | 1 => decide (32 * stepCount ≤ p.extent)
  | 2 => decide (64 ≤ p.extent) && decide (p.extent ≤ 4096) && p.extent % 64 == 0
  | 3 => decide (64 ≤ p.extent) && decide (p.extent ≤ 16384) && p.extent % 64 == 0
  | _ => true

/-- The fields of a step with limits of their own that R396 does not list, by their offset in the step (R21, R133). -/
def PimStep.fields (p : PimStep) (stepCount : Nat) : List (Nat × Bool) :=
  [(4, p.mask != 0), (8, refGood p.a), (12, refGood p.b && (p.usesB || p.b == 0)), (16, refGood p.r && (p.op != 1 || p.r == 0)),
   (20, if p.op = 1 then decide (p.len ≤ 16384) else decide (0 < p.len) && p.len % p.aItem == 0),
   (24, p.itemGood), (26, p.buf % 32 == 0), (28, p.extentGood stepCount)]

/-- Byte offsets in the input buffer of the fields of steps that are out of their limits (R133). -/
def badFields (l : List PimStep) : List Nat :=
  l.zipIdx.flatMap fun x => ((x.1.fields l.length).filter fun y => !y.2).map fun y => 32 * x.2 + y.1

/-- The flags, formats and counts listed for an operation (R385). -/
def PimStep.listed (p : PimStep) : Bool :=
  let elems := p.inFmt == 1 || p.inFmt == 2
  let outs := p.outFmt == 1 || p.outFmt == 2
  match p.op with
  | 1 => p.flags == 0 && p.fmt == 0 && p.count == 0
  | 2 => p.flags == 0 && decide (p.inFmt < 2) && decide (p.outFmt < 2) && decide (1 ≤ p.count) &&
      decide (p.count ≤ (if p.inFmt = 0 then 16 else 8))
  | 3 => decide (p.flags < 2) && [0, 2, 4, 5, 6].contains p.inFmt && p.outFmt == 0 && decide (1 ≤ p.count) &&
      decide (p.count ≤ 8)
  | 4 => (p.flags == 0 || p.flags == 2) && elems && outs && p.count == 0
  | 5 => (p.flags == 0 || p.flags == 2) && elems && outs && p.count == 0
  | 6 => p.flags == 0 && elems && p.outFmt == 0 && p.count == 0
  | 7 => (p.flags % 4 == 0 && decide (p.flags < 16)) && elems && p.outFmt == 0 && p.count == 0
  | 8 => (p.flags == 0 || p.flags == 4) && elems && outs && p.count == 0
  | 9 => p.flags == 0 && elems && p.outFmt == 0 && p.count == 0
  | _ => false

/-- Two byte ranges of slices meet. -/
def overlaps (a n b m : Nat) : Bool :=
  refRegion a == refRegion b && decide (refLocal a < refLocal b + m) && decide (refLocal b < refLocal a + n)

/-- What R396 asks of a step: a listed operation, format, flags and count; enabled stacks only (R382); operands that end within the
slice and overlap the result only in place; operand buffer bytes and LOADV data that are there; an item that one broadcast holds. -/
def State.stepGood (s : State) (p : PimStep) (inputLength : Nat) : Bool :=
  let inPlace := [4, 5, 9].contains p.op
  let rl := p.items * p.rItem
  p.listed && ((List.range 32).all fun i => !bit p.mask i || s.stacksOn.contains i) &&
  decide (p.buf + p.bufBytes ≤ (if p.reduces then 16380 else 16384)) &&
  (if p.op = 1 then decide (p.extent + p.len ≤ inputLength)
   else
    decide (refLocal p.a + p.len ≤ 262144) && decide (refLocal p.r + rl ≤ 262144) &&
    (!p.usesB || decide (refLocal p.b + p.len ≤ 262144)) && (!overlaps p.a p.len p.r rl || (inPlace && p.a == p.r)) &&
    (!p.usesB || !overlaps p.b p.len p.r rl || (inPlace && p.b == p.r)) && decide (1 ≤ p.perBroadcast))

/-! ### PIM-EXEC (R394 to R398) -/

/-- The regions a function holds. -/
def State.ownsRegion (s : State) (f i : Nat) : Bool := s.regions.any fun x => x.idx == i && x.fn == f

/-- The limits of an action's fields (R394, R396). -/
def pimChecks (e : Bytes) (a frame : Nat) : List (Nat × Bool) :=
  let copies := a = 2 || a = 3
  let n := le e 60 4
  [(52, if a = 1 || copies then decide (le e 52 2 < 384) else le e 52 2 == 0),
   (54, if a = 0 then decide (1 ≤ le e 54 2) && decide (le e 54 2 ≤ 32) else le e 54 2 == 0),
   (56, if copies then le e 56 4 % 64 == 0 && decide (le e 56 4 < frame) else le e 56 4 == 0),
   (60, if copies then decide (64 ≤ n) && decide (n ≤ 2 ^ 28) && n % 64 == 0 && decide (le e 56 4 + n ≤ frame) else n == 0),
   (64, if a = 4 then decide (1 ≤ le e 64 2) && decide (le e 64 2 ≤ 256) else le e 64 2 == 0)]

/-- What each action of PIM-EXEC shares; one that is not listed is answered by the row of action 0. -/
def State.pimExec (s : State) (num action : Nat) (io : HostIO) (need : Bytes → Nat) (body : State → Req → Bytes → State) : State :=
  let e := s.entryOf num
  let a := byteAt e 48
  if !(a = action || (action = 0 && 5 ≤ a)) then s
  else s.dataCommit num 10 io [(49, 3), (66, 62)] [(48, decide (a < 5))] .zero none (need e) fun s r inp =>
    match lowestBad e [] (pimChecks e a s.frameBytes) with
    | some o => s.complete r (.bare stInvalid o) io
    | none => body s r inp

/-- Take `n` frames that are no regions, which ones is open. -/
def State.pickFrames (s : State) : Nat → List Nat × State
  | 0 => ([], s)
  | n + 1 =>
    let (i, s) := s.takeFree
    let open_ := (List.range 384).filter fun f => !s.regions.any (·.idx == f)
    let f := open_.getD (Config.freeNat i % open_.length) 0
    let s : State := { s with regions := s.regions ++ [⟨f, 128, []⟩] }
    let (l, s) := s.pickFrames n
    (f :: l, s)

/-- PIM_EXEC_ALLOCATE (R383, R395, R396): frames become regions of the function, every byte zero. -/
def execPimExecAllocate (num : Nat) (io : HostIO) (t : Nat) (s : State) : Result :=
  .next ((s.at t).pimExec num 0 io (fun e => 2 * le e 54 2) fun s r _ =>
    let n := le r.entry 54 2
    let bytes := n * s.frameBytes
    if !s.fits r.fn .t1 bytes || decide (s.t1Free r.fn < bytes) || decide (384 < s.regions.length + n) then
      (s.quotaRefuse r.fn 1).complete r (.bare stQuota 1) io
    else
      let (l, s) := s.pickFrames n
      let s : State := { s with regions := s.regions.map fun (x : Region) => if x.fn = 128 then { x with fn := r.fn } else x }
      let data := l.flatMap fun f => toLE 2 f
      (s.modFn r.fn (·.charge .t1 bytes)).complete r
        { status := stOk, detail := 0, value := n, data := data, dataReturned := data.length } io)

/-- A command of a function uses a region: a run, or one admitted and not begun. -/
def State.regionUsed (s : State) (f region num : Nat) : Bool :=
  s.pimRuns.any (fun p => (s.req? p.num).any (fun r => r.fn == f) && p.steps.any fun x => x.refs.any fun y => refRegion y == region) ||
  s.reqs.any fun r => r.num != num && r.fn == f && r.opcode == 10 && r.body == .fresh &&
    (byteAt r.entry 48 == 2 || byteAt r.entry 48 == 3) && le r.entry 52 2 == region

/-- PIM_EXEC_FREE (R383, R395, R396): the region is zeroed and its charge released. -/
def execPimExecFree (num : Nat) (io : HostIO) (t : Nat) (s : State) : Result :=
  .next ((s.at t).pimExec num 1 io (fun _ => 0) fun s r _ =>
    let i := le r.entry 52 2
    if !s.ownsRegion r.fn i then s.complete r (.bare stDenied 0) io
    else if s.regionUsed r.fn i num then s.complete r (.bare stRetry 2) io
    else
      let s := s.release r.fn .t1 s.frameBytes
      ({ s with regions := s.regions.filter (·.idx != i) } : State).complete r { status := stOk, detail := 0 } io)

/-- PIM_EXEC_WRITE (R395, R397): input bytes go to region offsets. Accesses of others that the copy held are a free count. -/
def execPimExecWrite (num : Nat) (io : HostIO) (t : Nat) (s : State) : Result :=
  .next ((s.at t).pimExec num 2 io (fun _ => 0) fun s r inp =>
    let i := le r.entry 52 2
    let o := le r.entry 56 4
    let n := le r.entry 60 4
    if !s.ownsRegion r.fn i then s.complete r (.bare stDenied 0) io
    else if inp.length < n then s.complete r (.bare stInvalid 24) io
    else
      let (k, s) := s.takeFree
      (s.modRegion i fun x => { x with mem := memWriteAll x.mem o (inp.take n) }).complete r
        { status := stOk, detail := 0, value := n, value2 := Config.modelCount k } io)

/-- Bytes with the 16-byte words that an uncorrectable error struck written as quiet NaNs (R397). -/
def State.strike (s : State) (struck : List Nat) (b : Bytes) (o : Nat) : Nat → Bytes × State
  | 0 => ([], s)
  | n + 1 =>
    let (w, s) := if struck.contains (o / 16) then s.resultBytes 2 none else (slice b 0 4, s)
    let (more, s) := s.strike struck (b.drop 4) (o + 4) n
    (w ++ more, s)

/-- PIM_EXEC_READ (R395, R397): region bytes go to the output buffer; `struck` names 16-byte words with uncorrectable errors. -/
def execPimExecRead (num : Nat) (struck : List Nat) (io : HostIO) (t : Nat) (s : State) : Result :=
  .next ((s.at t).pimExec num 3 io (fun e => le e 60 4) fun s r _ =>
    let i := le r.entry 52 2
    let o := le r.entry 56 4
    let n := le r.entry 60 4
    if !s.ownsRegion r.fn i then s.complete r (.bare stDenied 0) io
    else
      let b := memReadAll ((s.region? i).map (·.mem) |>.getD []) o n
      let hit := struck.filter fun w => decide (o ≤ 16 * w) && decide (16 * w < o + n)
      let units := (hit.map fun w => unitOf s.stacksOn.length (16 * w)).eraseDups.length
      let (data, s) := s.strike hit b o (n / 4)
      let (k, s) := s.takeFree
      s.complete r
        { status := if hit.isEmpty then stOk else stDegraded, detail := min units 0xFFFF, value := n,
          value2 := Config.modelCount k, data := data, dataReturned := n } io)

/-- The stacks of a mask. -/
def maskStacks (mask : Nat) : List Nat := (List.range 32).filter (bit mask)

/-- Step `idx` of a run begins: a broadcast is requested on each stack of its mask (R384, R390). -/
def State.beginStep (s : State) (num : Nat) : State :=
  match s.pimRuns.find? (·.num == num) with
  | none => s
  | some p =>
    match p.steps[p.idx]? with
    | none => s
    | some x =>
      let s : State := { s with pimRuns := modWhere s.pimRuns (·.num == num) fun p => { p with left := (maskStacks x.mask).map fun c => (c, 0) } }
      (maskStacks x.mask).foldl (fun s c => s.arbRequest (0x40 + c) 0 false false (.pimStep ⟨s.nodeId, num⟩ p.idx)) s

/-- PIM_EXEC_RUN (R395, R396): every step is validated, then the first is requested on the stacks of its mask. -/
def execPimExecRun (num : Nat) (io : HostIO) (t : Nat) (s : State) : Result :=
  let s := s.at t
  let e := s.entryOf num
  let steps := fun (b : Bytes) => (List.range (le e 64 2)).map fun i => readStep b (32 * i)
  let given := slice (io.input.getD []) 0 (le e 24 4)
  .next (s.pimExec num 4 io (fun _ => 4 * ((steps given).filter (·.reduces)).length) fun s r inp =>
    let l := steps inp
    if inp.length < 32 * l.length then s.complete r (.bare stInvalid 24) io
    else if !(badFields l).isEmpty then s.badInput r ((lowest (badFields l)).getD 0) io
    else if l.any fun p => p.refs.any fun x => !s.ownsRegion r.fn (refRegion x) then s.complete r (.bare stDenied 0) io
    else
      match l.findIdx? fun p => !s.stepGood p inp.length with
      | some i => s.complete r { status := stInvalid, detail := 0x0040, value := i } io
      | none =>
        let p : PimRun :=
          { num := num, steps := l, idx := 0, left := [], input := inp, bcasts := 0, held := 0, reduced := [], struck := [],
            hostOut := io.outOk, hostCq := io.cqOk }
        let s := s.modReq num fun r => { r with body := .pim }
        ({ s with pimRuns := s.pimRuns ++ [p] } : State).beginStep num)

/-! ### Broadcasts (R384 to R391) -/

/-- One element of ADD, MUL, EXP and RESADD (R387); `r` is the result's old word. -/
def State.unitElement (s : State) (p : PimStep) (a b r : Nat) : Bytes × State :=
  if p.op = 4 then s.resultBytes p.outFmt (fpAdd a b)
  else if p.op = 5 then s.resultBytes p.outFmt (fpMul a b)
  else if p.op = 9 then s.resultBytes 2 ((fpMul b a).bind (fpAdd r))
  else
    match fpAdd a (fpNeg b) with
    | none => s.resultBytes p.outFmt none
    | some d =>
      if fpBelow87 d then s.resultBytes p.outFmt (some 0) else if fpInf d then s.resultBytes p.outFmt (some d) else s.freeBytes p.outFmt

/-- The sum of squares of `n` elements in element order, each operation rounded (R387). -/
def sumSquares (fmt : Nat) (b : Bytes) (i : Nat) : Nat → Option Nat → Option Nat
  | 0, acc => acc
  | n + 1, acc => sumSquares fmt b (i + 1) n (acc.bind fun x => (fpMul (elemAt fmt b i) (elemAt fmt b i)).bind (fpAdd x))

/-- The largest magnitude of `n` elements. -/
def maxAbs (fmt : Nat) (b : Bytes) (i : Nat) : Nat → Option Nat → Option Nat
  | 0, acc => acc
  | n + 1, acc => maxAbs fmt b (i + 1) n (fpMaxAbs acc (elemAt fmt b i))

/-- The reciprocal root of a sum (R387): within bounds, so a free word; what is not finite propagates as IEEE 754 prescribes. -/
def State.unitRoot (s : State) (x : Option Nat) : Bytes × State :=
  match x with
  | none => s.resultBytes 2 none
  | some v =>
    if fpInf v then s.resultBytes 2 (if bit v 31 then none else some 0) else s.freeBytes 2

/-- The result of one unit of work (R387): `a` its operand bytes, `b` its second operand's element or constant, `old` the result's
old bytes. DOT, MATVEC, a reciprocal root and an exponential are free words. -/
def State.unitItem (s : State) (p : PimStep) (struck : Bool) (a : Bytes) (b : Nat) (old : Bytes) : Bytes × State :=
  if struck then
    if p.op = 2 || p.op = 3 then
      let (w, s) := s.resultBytes 2 none
      ((List.range p.count).flatMap fun _ => w, s)
    else s.resultBytes (if p.op = 6 then 1 else if p.op = 7 || p.op = 9 then 2 else p.outFmt) none
  else if p.op = 2 || p.op = 3 then s.freeWords p.count
  else if p.op = 6 then s.resultBytes 1 (maxAbs p.inFmt a 0 p.item (some 0))
  else if p.op = 7 then
    let x := sumSquares p.inFmt a 0 p.item (some 0)
    if bit p.flags 3 then s.unitRoot (x.bind fun v => fpAdd v b) else s.resultBytes 2 x
  else s.unitElement p (elemAt p.inFmt a 0) b (le old 0 4)

/-- A unit carries out `n` units of work from the `i`-th on. -/
def State.unitRun (s : State) (p : PimStep) (struck : List Nat) (stack index unit i : Nat) : Nat → State
  | 0 => s
  | n + 1 =>
    let k := s.stacksOn.length
    let ra := refRegion p.a
    let rr := refRegion p.r
    let mem := fun (x : Nat) => ((s.region? x).map (·.mem)).getD []
    let a := readSlice (mem ra) k index unit (refLocal p.a + i * p.aItem) p.aItem
    let buf := s.operandBuf stack unit
    let word := memReadAll buf p.buf 4
    let b :=
      if p.op = 4 || p.op = 5 then
        (if bit p.flags 1 then elemAt p.inFmt (memReadAll buf (p.buf + i * p.aItem) p.aItem) 0
         else elemAt p.inFmt (readSlice (mem (refRegion p.b)) k index unit (refLocal p.b + i * p.aItem) p.aItem) 0)
      else le word 0 4
    let old := readSlice (mem rr) k index unit (refLocal p.r + i * p.rItem) p.rItem
    let (out, s) := s.unitItem p (struck.contains i) a b old
    let s := s.modRegion rr fun x => { x with mem := writeSlice x.mem k index unit (refLocal p.r + i * p.rItem) out }
    s.unitRun p struck stack index unit (i + 1) n

/-- One broadcast of a step on a stack: every unit of it, at the same local offsets (R384). -/
def State.runBroadcast (s : State) (p : PimStep) (input : Bytes) (struck : List (Nat × Nat)) (stack i n : Nat) : State :=
  let index := (s.stacksOn.findIdx? (· == stack)).getD 0
  (List.range 128).foldl (fun s u =>
    if p.op = 1 then s.writeBuf stack u p.buf (slice input p.extent p.len)
    else s.unitRun p ((struck.filter (·.1 == u)).map (·.2)) stack index u i n) s

/-- The reduction total of a step (R388): its order is not defined, so it is a free word, written to the operand buffers of the
group and to the command's output. -/
def State.reduceStep (s : State) (num : Nat) (p : PimStep) : State :=
  if !p.reduces then s
  else
    let (i, s) := s.takeFree
    let w := Config.nearBankWord i
    let s := (maskStacks p.mask).foldl (fun s c => (List.range 128).foldl (fun s u => s.writeBuf c u 16380 (toLE 4 w.toNat)) s) s
    { s with pimRuns := modWhere s.pimRuns (·.num == num) fun x => { x with reduced := x.reduced ++ [w] } }

/-- A run has ended (R397). -/
def State.finishPim (s : State) (num : Nat) : State :=
  match s.pimRuns.find? (·.num == num), s.req? num with
  | some p, some r =>
    let data := p.reduced.flatMap fun w => toLE 4 w.toNat
    ({ s with pimRuns := s.pimRuns.filter (·.num != num) } : State).complete r
      { status := if p.struck.isEmpty then stOk else stDegraded, detail := min p.struck.length 0xFFFF, value := p.bcasts, value2 := p.held,
        data := data, dataReturned := data.length } ⟨none, p.hostOut, p.hostCq⟩
  | _, _ => s

/-- The ordinary accesses that a broadcast held on a stack, a free count, and the longest hold, within 2 µs (R389, R391). -/
def State.countHeld (s : State) (stack : Nat) : Nat × State :=
  let (i, s) := s.takeFree
  let (j, s) := s.takeFree
  let held := Config.modelCount i
  (held, s.modSpares fun y =>
    let old := ((y.heldAccess.find? (·.1 == stack)).map (·.2)).getD (0, 0)
    let longest := if held = 0 then old.2 else max old.2 (Config.freeNat j % 2001)
    { y with heldAccess := y.heldAccess.filter (·.1 != stack) ++ [(stack, old.1 + held, longest)] })

/-- A broadcast of a PIM-EXEC step on a stack (R384, R386, R390, R391). -/
def State.pimBroadcast (s : State) (num stack : Nat) (struck : List (Nat × Nat)) : State :=
  match s.pimRuns.find? (·.num == num) with
  | none => s
  | some p =>
    match p.steps[p.idx]?, p.left.find? (·.1 == stack) with
    | some x, some at_ =>
      let total := if x.op = 1 then 1 else x.items
      let n := min x.perBroadcast (total - at_.2)
      let hit := struck.filter fun y => decide (at_.2 ≤ y.2) && decide (y.2 < at_.2 + n) && x.op != 1
      let s := s.runBroadcast x p.input hit stack at_.2 n
      let (held, s) := s.countHeld stack
      let ended := decide (total ≤ at_.2 + n)
      let left := if ended then p.left.filter (·.1 != stack) else modWhere p.left (·.1 == stack) fun y => (y.1, y.2 + n)
      let last := left.isEmpty
      let s : State := { s with pimRuns := modWhere s.pimRuns (·.num == num) fun p =>
        { p with left := left, bcasts := p.bcasts + 1, held := p.held + held,
                 struck := (p.struck ++ hit.map fun y => (stack, y.1)).eraseDups, idx := if last then p.idx + 1 else p.idx } }
      if !ended then s.arbRequest (0x40 + stack) 0 false false (.pimStep ⟨s.nodeId, num⟩ p.idx)
      else if !last then s
      else
        let s := s.reduceStep num x
        if p.idx + 1 < p.steps.length then s.beginStep num else s.finishPim num
    | _, _ => s

/-- Near-bank scoring of a query on a cached list or a guestbook (R400): its records wait for the order of R205. -/
def State.nearScore (s : State) (k : Key) (shard list : Nat) (gb : Bool) : State :=
  match (s.share? k).bind (·.part? shard), s.list? list with
  | some p, some l =>
    let recs : List ((Bool × Nat) × ScanRec × Nat) :=
      if gb then l.gb.map fun e => ((true, list), e.scan, e.stamp)
      else match l.versionAt p.stamp with
        | some v => (v.pages.flatMap fun x => x).map fun r => ((false, list), r, v.cut)
        | none => []
    let s := s.modPart k shard fun p =>
      { p with nearLeft := p.nearLeft.filter (· != (list, gb)), nearOffers := p.nearOffers ++ recs,
               covered := if gb then p.covered else p.covered ++ [list] }
    s.settle k shard
  | some _, none =>
    (s.modPart k shard fun p => { p with nearLeft := p.nearLeft.filter (· != (list, gb)) }).settle k shard
  | _, _ => s

/-- An uncorrectable error struck the node's own data, and is there when the word is read once more (R401): the pages or entries are
loaded afresh into another slice of the stack, which scores them for the same queries; the frame is handed to the repair rules: its
die's errors are counted, and the fault is logged (log 102). -/
def State.reloadSlice (s : State) (stack unit : Nat) (works : List (Nat × Work)) : State :=
  let s := works.foldl (fun s w => s.arbRequest (0x40 + stack) w.1 false false w.2) s
  let s := s.modSpares fun x =>
    let old := ((x.dramErrors.find? (·.1 == stack)).map (·.2)).getD (0, 0)
    { x with dramErrors := x.dramErrors.filter (·.1 != stack) ++ [(stack, old.1, old.2 + 1)] }
  s.log 8 1 (toLE 4 (elementWord 1 stack (unit / 16)) ++ toLE 8 0)

/-- Near-bank scoring that a stack's port serves in one broadcast (R400): up to 16 queries of one shard on one list or guestbook. -/
def State.scoreNear (s : State) (stack : Nat) (struck : List (Nat × Nat)) (r : ArbReq) (shard list : Nat) (gb : Bool) : State :=
  let arb := 0x40 + stack
  let same := fun (x : ArbReq) => match x.work with | .nearBank _ sh l g => sh == shard && l == list && g == gb | _ => false
  let also := ((s.arb arb).waiting.filter same).take 15
  let s := also.foldl (fun s x => (s.arbGive arb x true).arbEnd arb x.work) s
  match struck with
  | x :: _ => s.reloadSlice stack x.1 ((r :: also).map fun y => (y.requester, y.work))
  | [] => (r :: also).foldl (fun s y => match y.work with
    | .nearBank k _ _ _ => s.nearScore k shard list gb
    | _ => s) s

/-- BROADCAST (R55, R384 to R391, R400 to R402): a stack's port is granted to its oldest request, for one broadcast: of a PIM-EXEC
step, of near-bank scoring, of a level-2 batch, of a resident model's step. Background work takes the port in its own row. `struck`
are the units and items an uncorrectable error struck. -/
def execBroadcast (stack : Nat) (struck : List (Nat × Nat)) (t : Nat) (s : State) : Result :=
  let s := s.at t
  let arb := 0x40 + stack
  let a := s.arb arb
  match (match a.granted with | g :: _ => some g | [] => s.arbPick a) with
  | none => .next s
  | some r =>
    if r.background then .next s
    else
      let s := (if a.granted.isEmpty then s.arbGive arb r true else s).arbEnd arb r.work
      let own := (s.countHeld stack).2
      match r.work with
      | .pimStep k _ => .next (s.pimBroadcast k.num stack struck)
      | .nearBank _ shard list gb => .next (own.scoreNear stack struck r shard list gb)
      | .level2 shard at_ =>
        match own.eng.batches.find? fun b => b.shard == shard && b.openedAt == at_, struck with
        | some _, x :: _ => .next (own.reloadSlice stack x.1 [(r.requester, r.work)])
        | some b, [] => .next (own.batchStackDone stack b)
        | none, _ => .next own
      | .layer k => .next (own.runBroadcastLayer k.num stack)
      | _ => .next s

end Sys2Proof.Machine
end

