-- ==== Sys2Proof/Machine/Tenancy.lean ====
section
/-! DEFINITION. Cancellation by tag (R53, R54, R461) and function resets (R108, R437, R457 to R462). -/

namespace Sys2Proof.Machine

open Sys2Proof

/-! ### Cancellation filters (R53, R54) -/

/-- A filter reaches a request of a function (R53); the window is counted modulo 2^24. -/
def filterHits (f : CancelFilter) (k : Key) (fn : Nat) : Bool :=
  f.origin == k.origin && f.function == fn &&
    decide ((k.num + 2 ^ 24 - f.first) % 2 ^ 24 < (f.next + 2 ^ 24 - f.first) % 2 ^ 24)

/-- A tag that cancellation reaches (R53): not background, not firmware's, no filter itself, and its request is reached. -/
def tagHits (hit : Key → Nat → Bool) (t : Tag) : Bool :=
  !t.background && !t.firmware && t.kind != 0x11 && hit ⟨t.originNode, t.requestNumber⟩ t.function

/-- The request that an arbiter request works for. -/
def Work.key? : Work → Option Key
  | .coarse k _ => some k
  | .assign k _ => some k
  | .nearBank k _ _ _ => some k
  | .pimStep k _ => some k
  | .row _ k _ _ => some k
  | .gather k => some k
  | .rerank k => some k
  | .forming k _ => some k
  | .encode k => some k
  | .project k _ => some k
  | .layer k => some k
  | .expert k _ => some k
  | _ => none

/-- A member ends with neither stamp nor outcome; what waited behind it goes on (R54). -/
def State.withdrawMember (s : State) (k : Key) (i : Nat) : State :=
  match s.member? k i with
  | none => s
  | some w =>
    if w.stage == .stamped || w.stage == .finished then s
    else
      let s := (s.dropMember k i).flushReady k w.msg.shard
      match s.nextHeld w.msg.shard w.msg.name w.msg.byRef with
      | some x => (s.modMember x.msg.key x.msg.index fun x => { x with stage := .resolved }).resolveMember x.msg.key x.msg.index
      | none => s

/-- Every engine treats the matching work as in Table: effect of cancellation (R54): waiting arbiter requests are withdrawn, seats
vacated, coaches that empty before departing closed (R207), unstamped members dropped, frames discarded. What is inside a locked
sequence runs to its end; stamped members finish. -/
def State.cancelWork (s : State) (hit : Key → Nat → Bool) : State :=
  let shares := s.eng.shares.filter fun h => hit h.msg.key h.msg.function
  let members := s.eng.members.filter fun m => hit m.msg.key m.msg.function
  let keys := shares.map (·.msg.key) ++ members.map (·.msg.key)
  let s := shares.foldl (fun s h => s.releaseShare h.msg.key) s
  let s := members.foldl (fun s m => s.withdrawMember m.msg.key m.msg.index) s
  let s := s.arbWithdraw fun w => match w.key? with | some k => keys.contains k | none => false
  let s := s.modEng fun e =>
    { e with inShares := e.inShares.filter fun m => !hit m.key m.function,
             inMembers := e.inMembers.filter fun m => !hit m.key m.function }
  let s := s.modSched fun c =>
    { c with reserved := c.reserved.filter fun (x : Reserved) => !tagHits hit x.tag,
             taken := c.taken.filter fun g => !tagHits hit g,
             egress := c.egress.filter fun (x : Nat × Frame) => !tagHits hit x.2.tag,
             heldFrames := c.heldFrames.filter fun (x : Nat × Frame) => !tagHits hit x.2.tag }
  s.resumeCsus

/-- CANCEL_FILTER_RECEIVE (R54, R461): the matching work of a peer's function ends, the filter stays against frames still in flight,
and the origin gets its confirmation. -/
def execCancelFilterReceive (f : CancelFilter) (t : Nat) (s : State) : Result :=
  let s := s.at t
  let keep := s.filters.filter fun x => decide (s.now < x.1 + 2 * Config.ticksPerS)
  let s := { s with filters := keep ++ [(s.now, f)] }.cancelWork (filterHits f)
  let tag : Tag := { s.fwTag 0x11 f.first f.origin 0xFFFFFF false with function := f.function, originNode := f.origin }
  .next (s.produce f.origin tag (reservedQueue tag) (.filterConfirm f))

/-- CANCEL_HOLD_TIMEOUT (R461): numbers held for 2 s without every confirmation are free. -/
def execCancelHoldTimeout (t : Nat) (s : State) : Result :=
  let s := s.at t
  .next { s with heldNums := s.heldNums.filter fun h => decide (s.now < h.until_) }

/-! ### Function resets (R457 to R462) -/

/-- The mailbox of a function at a reset (R108): its registers as after reset, with `discarded` when a command ended at it (log 87);
its areas keep what they hold (R81, R84). A tail runs on unreported; a stage or verify tail stops and leaves the slot empty; a
deletion ends with its queue, and a tail that only writes the host buffer with its requester. -/
def State.resetMailbox (s : State) (f : Nat) : State :=
  let ended := (s.mbox f).st == .posted || (s.mbox f).st == .busy
  let s := (s.arbWithdraw (· == .mailbox f)).arbEnd 0xA0 (.mailbox f)
  let stops := fun (x : Tail) => x.requester == some f &&
    (match x.kind with | .fwStage _ _ => true | .fwVerify => true | _ => false)
  let s := if s.tails.any stops then
      s.modAo fun a => if a.activeB then { a with slotA := ⟨0, []⟩ } else { a with slotBImg := ⟨0, []⟩ }
    else s
  let goes := fun (x : Tail) => x.requester == some f &&
    (match x.kind with | .deleteQueue _ => true | .attest _ => true | .getLog => true | _ => false)
  let unreported := fun (x : Tail) => if x.requester == some f then { x with requester := none } else x
  let s := { s with tails := (s.tails.filter fun x => !stops x && !goes x).map unreported }
  s.modMbox f fun m => { discarded := ended, req := m.req, resp := m.resp }

/-- Nodes other than this one that hold work of a request (R54). -/
def State.peersOf (s : State) (r : Req) : List Nat :=
  match r.body with
  | .fresh => []
  | .barrierShard sent => if sent then (s.serverOf (barrierTarget r.entry)).toList.filter (· != s.nodeId) else []
  | _ => ((s.coll? r.collection).map s.otherOwners).getD []

/-- A function's outstanding requests, oldest first. -/
def State.requestsOf (s : State) (f : Nat) : List Req :=
  (s.reqs.filter (·.fn == f)).foldl (fun (l : List Req) (r : Req) =>
    l.filter (fun x => decide (x.seq < r.seq)) ++ r :: l.filter fun x => decide (r.seq ≤ x.seq)) []

/-- The requests of a function end (R457 steps 2, 3 and 5): runs and PIM-EXEC runs stop, the filter reaches every engine and every
peer that holds work, and the numbers are held until the peers confirm (R461). -/
def State.cancelRequests (s : State) (f : Nat) : State :=
  let rs := s.requestsOf f
  let w : CancelFilter := ⟨s.nodeId, f, (rs.head?.map (·.num)).getD s.nextNum, s.nextNum⟩
  let nums := rs.map (·.num)
  let peers := (rs.flatMap s.peersOf).eraseDups
  let far := (rs.filter fun r => !(s.peersOf r).isEmpty).map (·.num)
  let s := nums.foldl (fun s n => s.dropRun n) s
  let s := rs.foldl State.releaseMerge s
  let s := s.dropWork fun x => match x with | .encode k => k.origin == s.nodeId && nums.contains k.num | _ => false
  let s := s.arbWithdraw fun x => match x.key? with | some k => k.origin == s.nodeId && nums.contains k.num | none => false
  let mine := fun (x : ReaderId × Nat) => match x.1 with
    | .req k => k.origin == s.nodeId && nums.contains k.num
    | _ => false
  let s : State := { s with
    pimRuns := s.pimRuns.filter fun p => !nums.contains p.num,
    reqs := s.reqs.filter (·.fn != f),
    models := s.models.map fun m => { m with trainWait := m.trainWait.filter fun n => !nums.contains n } }
  let s := s.cancelWork (filterHits w)
  let s : State := { s with
    shards := s.shards.map fun (d : Shard) => ({ d with readers := d.readers.filter fun x => !mine x } : Shard),
    heldNums := if peers.isEmpty then s.heldNums else s.heldNums ++ [⟨f, w.first, far, s.now + 2 * Config.ticksPerS, peers⟩] }
  let tag := fun (n : Nat) => ({ s.fwTag 0x11 w.first n 0xFFFFFF false with function := f } : Tag)
  let s := peers.foldl (fun s n => s.produce n (tag n) (reservedQueue (tag n)) (.filter w)) s
  s.modFn f fun x => { x with cancelled := x.cancelled + nums.length }

/-- What a function holds for its runs, regions and rings is free (R457 step 5, R545): handles, window slots, expert caches,
`PIM-EXEC` regions, telemetry rings. -/
def State.freeFunction (s : State) (f : Nat) : State :=
  let s := ((s.fn f).handles.map (·.1)).foldl (fun s h => s.freeHandle f h) s
  let s := s.release f .t1 ((s.fn f).rings.length * 2 ^ 20)
  let s := s.release f .t1 ((s.regions.filter (·.fn == f)).length * s.frameBytes)
  let cached := s.models.foldl (fun n (m : Model) => (m.expertCache.filter (·.2.2.2 == f)).foldl (fun n e => n + e.2.2.1) n) 0
  let kept := fun (m : Model) => m.windowBy.isNone && m.windowAt.isSome && m.windowFn == f
  let s := s.release f .t1 (cached + (s.models.filter kept).foldl (fun n m => n + m.windowT1) 0)
  { s with
    regions := s.regions.filter (·.fn != f),
    models := s.models.map fun m =>
      let m := { m with expertCache := m.expertCache.filter (·.2.2.2 != f) }
      if kept m then { m with windowAt := none, windowT1 := 0 } else m }

/-- The function's own state after the reset (R457 steps 4 and 6, R545): MSI-X, INT_ and coalescing registers, events, buckets full,
over_peak and the ceiling bucket cleared, no usage left of what was freed. -/
def Fn.cleared (f : Fn) : Fn :=
  { f with
    evMbxDone := false, evQueueError := false, evQuota := false, evPool := false, refusing := [],
    admCommit := admissionDepth f.commitCmds, admPeak := admissionDepth f.peakCmds,
    egCommit := egressDepth f.commitMbps, egPeak := egressDepth f.peakMbps,
    overPeak := false, ceiling := 0, heldVecs := [], heldCount := 0, msixEnable := false, fnMask := false,
    vecs := List.replicate 64 {}, cqSelect := 0, rings := [], handles := [], t0Used := 0, seatsUsed := 0 }

/-- The function's queues become ABSENT and leave the schedulers (R143, R457 step 4). -/
def State.dropQueues (s : State) (f : Nat) : State :=
  let gone := (s.queues.filter (·.fn == f)).map (·.num)
  ({ s with queues := s.queues.filter (·.fn != f) } : State).modSched fun c =>
    { c with admLists := c.admLists.map fun (l : List Nat) => l.filter fun q => !gone.contains q,
             wheel := c.wheel.filter fun (w : Nat × Nat × Nat) => !gone.contains w.2.1 }

/-- The reset steps of one function, but for the last (R457, Table: function reset steps); a reset already in progress is joined
(R462). -/
def State.resetFunction (s : State) (f : Nat) : State :=
  if (s.fn f).resetBusy then s
  else
    let s := s.modFn f fun x => { x with ready := false, resetBusy := true, resetAt := s.now }
    let s := ((((s.resetMailbox f).cancelRequests f).dropQueues f).freeFunction f).stopGuest f
    (s.modFn f fun x => { x.cleared with filledTo := s.now, ceilingTo := s.now }).bootGuest f

/-- The VFs that exist (R437). -/
def State.vfs (s : State) : List Nat := if s.pins.vfEnable then (List.range 128).filter fun f => 0 < f && f ≤ s.pins.numVfs else []

/-- VF Enable is cleared: every VF passes the reset steps and no longer exists (R457, R460). -/
def State.clearVfs (s : State) : State :=
  let s := s.vfs.foldl (fun s f => s.resetFunction f) s
  s.modPins fun p => { p with vfEnable := false }

/-- An event of class 0, code 0x21 (R558). -/
def State.logFunctionReset (s : State) (f cause : Nat) : State := s.log 0 0x21 (toLE 2 f ++ toLE 1 cause)

/-- INITIATE_FUNCTION_LEVEL_RESET (R457 to R462): an FLR or VF reset of one function; an FLR of the PF clears VF Enable. It joins a
reset of the same function in progress. -/
def execInitiateFunctionLevelReset (fn : Nat) (vfReset : Bool) (t : Nat) (s : State) : Result :=
  let s := s.at t
  if !s.fnExists fn then .next s
  else
    let s := s.logFunctionReset fn (b2n (vfReset && fn != 0))
    .next (if fn = 0 then (s.resetFunction 0).clearVfs else s.resetFunction fn)

/-- VF_ENABLE_CLEAR (R457, R460): every VF is reset. -/
def execVfEnableClear (t : Nat) (s : State) : Result :=
  let s := s.at t
  .next (if s.pins.vfEnable then (s.logFunctionReset 0xFFFF 2).clearVfs else s)

/-- VF_ENABLE_SET (R79, R437): the VFs up to NumVFs exist with the settings that the node record holds; they are ready when the node
serves and no reset of theirs is in progress. -/
def execVfEnableSet (numVfs t : Nat) (s : State) : Result :=
  let s := s.at t
  if s.pins.vfEnable then .next s
  else
    let s := s.modPins fun p => { p with vfEnable := true, numVfs := numVfs }
    .next (if s.ao.stage != .serving then s
      else s.vfs.foldl (fun s f => s.modFn f fun x => if x.resetBusy then x else { x with ready := true }) s)

/-- Work of the function is still inside a locked sequence, or a stamped member of it has steps left (R457 step 3). -/
def State.functionBusy (s : State) (f : Nat) : Bool :=
  s.eng.members.any (fun m => m.msg.key.origin == s.nodeId && m.msg.function == f) ||
  s.arbs.any fun a => a.granted.any fun g => match g.work.key? with
    | some k => k.origin == s.nodeId && (s.req? k.num).isNone && (s.share? k).isNone
    | none => false

/-- FUNCTION_RESET_COMPLETE (R79, R457 step 7): reset_busy returns to 0 and ready to 1, for a function that exists on a node that
serves. With the last reset over, configuration requests are answered (R538). -/
def execFunctionResetComplete (fn t : Nat) (s : State) : Result :=
  let s := s.at t
  if !(s.fn fn).resetBusy || s.functionBusy fn then .next s
  else
    let up := s.fnExists fn && s.ao.stage == .serving
    let s := s.modFn fn fun x => { x with resetBusy := false, ready := up }
    .next (if s.fns.any (·.resetBusy) then s else s.modPins fun p => { p with crs := false })

end Sys2Proof.Machine
end

