-- ==== Sys2Proof/Machine/Fabric.lean ====
section
/-! DEFINITION. Fabric ports, frames, hellos and unreachable peers (R469 to R483, R536, R537). -/

namespace Sys2Proof.Machine

open Sys2Proof

/-! ### Route masks and moved frames (R477, R480, R481) -/

/-- The route mask of a destination as a word (R480). -/
def State.routeWord (s : State) (dest : Nat) : BitVec 8 := BitVec.ofNat 8 ((s.routePorts dest).foldl (fun n p => n + 2 ^ p) 0)

/-- The port that carries a frame to its destination. -/
def State.framePort (s : State) (f : Frame) : Option Nat := s.pathPort f.tag.originNode f.tag.requestNumber f.dest

/-- Route masks follow the ports and hellos; what was held for a destination that has a port again goes out, in order (R480, R481). -/
def State.reroute (s : State) : State :=
  let mask := fun (p : Peer) =>
    let w := s.routeWord p.node
    ({ p with route := w, downSince := if w = 0 && p.route != 0 then s.now else p.downSince } : Peer)
  let go := s.sched.heldFrames.filterMap fun x => (s.framePort x.2).map fun p => (p, x.2)
  ({ s with peers := s.peers.map mask } : State).modSched fun c =>
    { c with egress := c.egress ++ go, heldFrames := c.heldFrames.filter fun (x : Nat × Frame) => (s.framePort x.2).isNone }

/-- Frames waiting on a port move in order to other ports of their destinations' route masks, before what waits there; with no port
left they are held (R477, R481). `all`: those of the retry buffer as well. -/
def State.evacuate (s : State) (port : Nat) (all : Bool) : State :=
  let fs := (if all then (s.port port).retry else []) ++ (s.sched.egress.filter (·.1 == port)).map (·.2)
  let moved := fs.filterMap fun f => (s.framePort f).map fun p => (p, f)
  let stuck := fs.filter fun f => (s.framePort f).isNone
  let s := if all then s.modPort port fun q => { q with retry := [] } else s
  s.modSched fun c =>
    { c with egress := moved ++ c.egress.filter (·.1 != port), heldFrames := c.heldFrames ++ stuck.map fun f => (s.now, f) }

/-- Frames go out again in order (R477). -/
def State.resend (s : State) (port : Nat) (fs : List Frame) : State :=
  fs.foldl (fun s f =>
    (s.modPort port fun q => { q with txBytes := q.txBytes + BitVec.ofNat 64 (64 + f.payload) }).emit (.frame port f)) s

/-- A frame is acknowledged at the port: a member it carried counts as delivered (R537). -/
def State.frameAcked (s : State) (f : Frame) : State :=
  match f.body with
  | .member m =>
    if m.key.origin != s.nodeId then s
    else s.modReq m.key.num fun r =>
      match r.body with
      | .mutation ms => { r with body := .mutation (ms.mapIdx fun j x => if j = m.index then { x with delivered := true } else x) }
      | _ => r
  | _ => s

/-- Frames of a channel that leave the retry buffer as acknowledged. -/
def State.ackFrames (s : State) (port : Nat) (fs : List Frame) : State :=
  (fs.foldl (fun s f => s.frameAcked f) s).modPort port fun q => { q with retry := q.retry.filter fun f => !fs.contains f }

/-! ### Lanes and training (R470, R471) -/

/-- Lanes not retired. -/
def healthyLanes (failed : BitVec 9) : List Nat := (List.range 9).filter fun i => !failed.getLsbD i

/-- A set of lanes as a word. -/
def laneWord (l : List Nat) : BitVec 9 := BitVec.ofNat 9 (l.foldl (fun n i => n + 2 ^ i) 0)

/-- A width that lanes healthy in both directions give. -/
def Port.canTrain (q : Port) (width : Nat) : Bool :=
  (width == 8 || width == 4 || width == 2) &&
    decide (width ≤ (healthyLanes q.rxFailed).length) && decide (width ≤ (healthyLanes q.txFailed).length)

/-- The port has trained: UP at 8 lanes, NARROW at 4 or 2. -/
def Port.trained (q : Port) (width : Nat) : Port :=
  { q with
    st := if width = 8 then .up else .narrow, width := width,
    rxInUse := laneWord ((healthyLanes q.rxFailed).take width), txInUse := laneWord ((healthyLanes q.txFailed).take width) }

/-- A retrain begins: it is logged and raises ALERT_N; frames wait in the retry buffer and the route masks lose the port (R471,
R480). -/
def State.retrain (s : State) (port : Nat) : State :=
  ((s.modPort port fun q =>
    { q with st := .training, trainAt := s.now, retrains := q.retrains + 1, refused := [0, 0, 0, 0], width := 0 }).log 6 2 (toLE 1 port)).reroute

/-- Training ends at a width: the retry buffer goes out again. -/
def State.trainEnd (s : State) (port width : Nat) : State :=
  ((s.modPort port (·.trained width)).resend port (s.port port).retry).reroute

/-- The port carries frames. -/
def Port.carries (q : Port) : Bool := q.st == .up || q.st == .narrow

/-- LANE_SWAP (R470): a lane in use gives way to the spare of its direction. At the receiver the node asks the transmitter for it;
`receive` false: the neighbour asked. -/
def execLaneSwap (port lane : Nat) (receive : Bool) (t : Nat) (s : State) : Result :=
  let s := s.at t
  let q := s.port port
  let inUse := if receive then q.rxInUse else q.txInUse
  let free := if receive then q.spareFree else q.txSpareFree
  let spare := (healthyLanes (if receive then q.rxFailed else q.txFailed)).find? fun i => !inUse.getLsbD i
  match spare with
  | none => .next s
  | some x =>
    if !q.carries || !inUse.getLsbD lane || !free then .next s
    else
      let swapped := inUse &&& ~~~(laneWord [lane]) ||| laneWord [x]
      let s := s.modPort port fun q =>
        if receive then { q with rxInUse := swapped, rxFailed := q.rxFailed ||| laneWord [lane], spareFree := false, swaps := q.swaps + 1 }
        else { q with txInUse := swapped, txFailed := q.txFailed ||| laneWord [lane], txSpareFree := false, swaps := q.swaps + 1 }
      let s := s.log 6 1 (toLE 1 port)
      .next (if receive then s.emit (.laneSwap port lane) else s)

/-- PORT_RETRAIN (R471): with no spare left another receive lane fails and the port retrains at `width`, or a training in progress
ends at it; 0: it has not trained yet. -/
def execPortRetrain (port lane width t : Nat) (s : State) : Result :=
  let s := s.at t
  let q := s.port port
  let finish := fun (s : State) => if (s.port port).canTrain width then s.trainEnd port width else s
  if q.st == .training then .next (if s.now ≤ q.trainAt + 100 * Config.ticksPerMs then finish s else s)
  else if !q.carries || !q.rxInUse.getLsbD lane || q.spareFree then .next s
  else
    .next (finish ((s.modPort port fun q => { q with rxFailed := q.rxFailed ||| laneWord [lane] }).retrain port))

/-- PORT_DOWN (R471, R477): no training within 100 ms. -/
def execPortDown (port t : Nat) (s : State) : Result :=
  let s := s.at t
  let q := s.port port
  if q.st != .training || s.now < q.trainAt + 100 * Config.ticksPerMs then .next s
  else
    let s := (s.modPort port fun q => { q with st := .down, width := 0 }).log 6 3 (toLE 1 port)
    .next ((s.evacuate port true).reroute)

/-- PORT_DARK (R473): no light; the port has no neighbour, and that is no error. -/
def execPortDark (port t : Nat) (s : State) : Result :=
  let s := s.at t
  let s := s.modPort port fun q =>
    { q with st := .dark, width := 0, known := false, neighbour := 0, neighbourPort := 0, resting := false, creditBlocked := false }
  .next ((s.evacuate port true).reroute)

/-! ### Hellos (R472, R482, R536) -/

/-- A hello of this node on a port (R472, R536). -/
def State.sayHello (s : State) (port : Nat) (resting : Bool) : State := s.emit (.hello port ⟨s.nodeId, port, resting, s.ao.epoch.toNat⟩)

/-- LINK_UP (R471, R472): an enabled port without a link gains light and trains at a width its healthy lanes give; a fresh link has
full credits and sequences from 0, and the node says hello. -/
def execLinkUp (port width t : Nat) (s : State) : Result :=
  let s := s.at t
  let q := s.port port
  let up := s.ao.stage == .serving || s.ao.stage == .waitBme
  if !s.portOn port || !(q.st == .dark || q.st == .down) || !q.canTrain width || !up || s.pwr.st == .calm then .next s
  else
    let s := s.modPort port fun q =>
      { q.trained width with
        credits := [2048, 2048, 2048, 2048], txSeq := [0, 0, 0, 0], rxSeq := [0, 0, 0, 0], refused := [0, 0, 0, 0], owed := 0,
        spareFree := (healthyLanes q.rxFailed).length == 9, txSpareFree := (healthyLanes q.txFailed).length == 9 }
    .next ((s.sayHello port false).reroute)

/-- What a node has not been told (R615): what failed to reach it, or, at its first hello that it does not rest with, every active
collection created here. -/
def State.tellPeer (s : State) (node : Nat) (fresh : Bool) : State :=
  let mine := s.colls.filter fun c => c.spec.id / 2 ^ 20 == s.nodeId && c.st == .active
  let news := if fresh then mine.map fun c => Announce.created c.spec
    else (s.unsent.filter (·.1 == node)).map (·.2)
  let s : State := { s with unsent := s.unsent.filter (·.1 != node) }
  news.foldl (fun s a => s.produceFw node 0x10 0xFFFFFF false (.announce a)) s

/-- A peer's boot epoch has changed (R536): all work whose origin it is ends. -/
def State.peerRestarted (s : State) (port node : Nat) : State :=
  (s.log 6 5 (toLE 1 port)).cancelWork fun k _ => k.origin == node

/-- HELLO_RECEIVE (R472, R480, R482, R536, R615): the neighbour and its rest are recorded; a hello with this node's own identifier
is a CONFLICT; a new epoch ends the peer's old work. In switched mode the hello of a peer comes through the plane. -/
def execHelloReceive (port : Nat) (h : Hello) (t : Nat) (s : State) : Result :=
  let s := s.at t
  let q := s.port port
  if !q.carries then .next s
  else if h.node = s.nodeId then
    let s := (s.modPort port fun q => { q with st := .conflict }).log 6 4 (toLE 1 port)
    .next ((s.evacuate port true).reroute)
  else
    let s := if s.switched then s
      else s.modPort port fun q => { q with known := true, neighbour := h.node, neighbourPort := h.port % 8, resting := h.resting }
    let old := s.peers.find? (·.node == h.node)
    let bit := BitVec.ofNat 8 (2 ^ port)
    let marked := fun (w : BitVec 8) => if h.resting then w ||| bit else w &&& ~~~bit
    let s : State := match old with
      | some _ => { s with peers := modWhere s.peers (·.node == h.node) fun p => { p with epoch := h.epoch, rest := marked p.rest } }
      | none => { s with peers := s.peers ++ [⟨h.node, h.epoch, 0, marked 0, s.now, false⟩] }
    let s := if old.any fun p => p.epoch != h.epoch then s.peerRestarted port h.node else s
    let s := if h.resting then s.evacuate port false else s
    let s := s.reroute
    let told := old.any (·.told)
    .next (if h.resting then s
      else { s with peers := modWhere s.peers (·.node == h.node) fun p => { p with told := true } }.tellPeer h.node (!told))

/-! ### Frames (R474 to R477, R483) -/

/-- Acknowledged frames of a channel before a sequence number: those in the retry buffer ahead of it. -/
def Port.before (q : Port) (channel seq : Nat) : List Frame :=
  (q.retry.filter (·.channel == channel)).takeWhile (·.seq != seq)

/-- The frame `seq` of a channel is in the retry buffer. -/
def Port.holds (q : Port) (channel seq : Nat) : Bool := q.retry.any fun f => f.channel == channel && f.seq == seq

/-- NACK_RECEIVE (R477): what came before the refused frame is acknowledged, and every frame of the channel from it on goes out again;
16 refusals of one frame in a row retrain the port. -/
def execNackReceive (port channel seq : Nat) (s : State) : Result :=
  let q := s.port port
  let s := s.modPort port fun q => { q with retries := q.retries + 1 }
  if !q.carries || !q.holds channel seq then .next s
  else
    let past := q.before channel seq
    let n := if past.isEmpty then q.refused.getD channel 0 + 1 else 1
    let s := (s.ackFrames port past).modPort port fun q => { q with refused := q.refused.set channel n }
    if 16 ≤ n then .next (s.retrain port)
    else .next (s.resend port ((s.port port).retry.filter (·.channel == channel)))

/-- CREDIT_GRANT (R476, R477): credits come back, at most 128 KiB a channel; `acked` is the newest frame of the channel that the
receiver acknowledges with them. -/
def execCreditGrant (port channel units : Nat) (acked : Option Nat) (s : State) : Result :=
  let q := s.port port
  let s : State := match acked with
    | some n =>
      if q.holds channel n then
        let f := (q.retry.filter fun (g : Frame) => g.channel == channel).find? fun (g : Frame) => g.seq == n
        (s.ackFrames port (q.before channel n ++ f.toList)).modPort port fun q => { q with refused := q.refused.set channel 0 }
      else s
    | none => s
  .next ((s.modPort port fun q => { q with credits := q.credits.modify channel fun n => min 2048 (n + units) }).markCredits port)

/-- The receive buffer of a frame is free again: its credits are granted, but for channel 0 while a reserved queue that this port
filled is full (R476, R483). -/
def State.grantCredits (s : State) (port channel units : Nat) : State :=
  if channel = 0 && s.fullFrom port then s.modPort port fun q => { q with owed := q.owed + units }
  else s.emit (.credits port channel units)

/-- A frame whose checks passed is delivered (R53, R54, R461, R475, R483): discarded under a filter; a confirmation frees held request
numbers; a command joins its reserved queue. Every other kind is for the row that takes its payload. -/
def State.deliver (s : State) (port : Nat) (frame : Bytes) (stale : Bool) : State :=
  let h := frameHead frame
  let hit := fun (k : Key) (fn : Nat) => s.filters.any fun x => decide (s.now < x.1 + 2 * Config.ticksPerS) && filterHits x.2 k fn
  if h.dest != s.nodeId || stale || tagHits hit h.tag then s
  else if h.tag.kind = 0x11 && h.tag.originNode = s.nodeId then
    let mine := fun (x : HeldNums) => x.fn == h.tag.function && x.first == h.tag.requestNumber
    { s with heldNums := (modWhere s.heldNums mine fun x => { x with peers := x.peers.filter (· != h.source) }).filter fun x => !x.peers.isEmpty }
  else if h.channel = 0 then
    s.modSched fun c => { c with reserved := c.reserved ++ [⟨reservedQueue h.tag, h.tag, slice frame 48 h.payload, port⟩] }
  else s

/-- FRAME_RECEIVE (R51, R474 to R477, R483): a frame that fails its CRC or tag check is refused and counted; one out of sequence is
discarded, for the sender sends it again; any other is acknowledged and delivered. `stale`: the tag was made before the origin's
last hello (R536), which nothing in the frame says. -/
def execFrameReceive (port : Nat) (frame : Bytes) (stale : Bool) (t : Nat) (s : State) : Result :=
  let s := s.at t
  let q := s.port port
  if !q.carries then .next s
  else
    let h := frameHead frame
    let ch := h.channel % 4
    let want := q.rxSeq.getD ch 0
    let s := (s.modPort port fun q => { q with rxBytes := q.rxBytes + BitVec.ofNat 64 frame.length }).modPwr fun p => { p with frameAt := s.now }
    if !frameCrcGood frame then .next (s.emit (.nack port ch want))
    else if h.seq != want then .next s
    else if !tagGood (slice frame 16 32) then
      .next ((s.modPort port fun q => { q with tagDiscards := q.tagDiscards + 1 }).emit (.nack port ch want))
    else
      let s := (s.modPort port fun q => { q with rxSeq := q.rxSeq.set ch ((want + 1) % 2 ^ 32) }).emit (.ack port ch want)
      .next ((s.deliver port frame stale).grantCredits port ch ((frame.length + 63) / 64))

/-! ### Unreachable destinations (R481, R537) -/

/-- The request of a discarded frame ends as unreachable (R224, R481): missing shards, ST_RETRY for a member no owner has, a FLUSH, a
BARRIER or a run. An index of a GATHER counts as unreached when its row takes the answers. -/
def State.endUnreachable (s : State) (f : Frame) (io : HostIO) : State :=
  let fail := fun (s : State) (k : Key) =>
    if k.origin != s.nodeId then s
    else match s.req? k.num with
      | none => s
      | some r =>
        let s : State := match r.body with
          | .flush stamps _ _ _ _ => stamps.foldl (fun (s : State) (x : Nat × Nat) => s.dropReader x.1 (.req k)) s
          | _ => s.dropRun k.num
        (s.complete r (.bare stRetry 0) io).sweepBarriers
  match f.body with
  | .share m => s.sendAnswer m (s.emptyAnswer m m.shards .unreached)
  | .member m =>
    if m.key.origin != s.nodeId then s.sendOutcome m 0 stRetry 0
    else
      match (s.req? m.key.num).map (·.body) with
      | some (Body.mutation ms) =>
        if (ms[m.index]?).any (·.delivered) then s else s.takeOutcome m.key m.index ⟨0, stRetry, 0, m.shard⟩ io
      | _ => s
  | .barrierShare k _ => fail s k
  | .flushShare k _ => fail s k
  | .runShare k _ _ => fail s k
  | _ => s

/-- UNREACHABLE_TIMEOUT (R481): frames held for 1 s for a destination without a port are discarded. -/
def execUnreachableTimeout (dest : Nat) (io : HostIO) (t : Nat) (s : State) : Result :=
  let s := s.at t
  let due := fun (x : Nat × Frame) => x.2.dest == dest && decide (x.1 + Config.ticksPerS ≤ s.now)
  let fs := (s.sched.heldFrames.filter due).map (·.2)
  let s := s.modSched fun c => { c with heldFrames := c.heldFrames.filter fun (x : Nat × Frame) => !due x }
  .next (fs.foldl (fun s f => s.endUnreachable f io) s)

end Sys2Proof.Machine
end

