-- ==== Sys2Proof/Machine/Boot.lean ====
section
/-! DEFINITION. What start-up chooses: the option block (R12, R542 to R544) and the image (R546 to R552), with the measurements it
takes (R554, R555). -/

namespace Sys2Proof.Machine

open Sys2Proof

/-! ### The option block (R542, R543) -/

/-- A copy is valid (R543): magic, version, digest, ranges, reserved bytes. -/
def optionGood (b : Bytes) : Bool :=
  decide (512 ≤ b.length) && le b 0 4 == 0x4F50424B && le b 4 2 == 1 &&
  slice b 448 64 == slice (Config.shake256 (slice b 0 448)) 0 64 &&
  decide (byteAt b 8 < 16) && within 600 1500 (le b 16 2) && le b 16 2 % 50 == 0 && within 2 40 (byteAt b 18) &&
  decide (byteAt b 19 ≤ 1) && decide (byteAt b 20 ≤ 2) && within 1 7 (byteAt b 21) && decide (byteAt b 22 ≤ 1) &&
  decide (byteAt b 23 ≤ 1) && decide (byteAt b 24 ≤ 2) && decide (le b 26 2 < 0x4000) &&
  zeroAt b 6 2 && zeroAt b 10 2 && zeroAt b 25 1 && zeroAt b 28 420

/-- The fields of a block (Table: option block layout). -/
def optionsOf (b : Bytes) : Options :=
  { tileEnable := byteAt b 8, portEnable := byteAt b 9, channelEnable := le b 12 4, powerCap := le b 16 2, gustBudget := byteAt b 18,
    perstScope := byteAt b 19, bootPolicy := byteAt b 20, bootAttempts := byteAt b 21, debugLock := byteAt b 22,
    sparePolicy := byteAt b 23, compressDefault := byteAt b 24, fabricRole := le b 26 2 }

/-- Bytes 0 to 447 of a block with these fields. -/
def Options.block (o : Options) : Bytes :=
  layout 448
    [(0, toLE 4 0x4F50424B), (4, toLE 2 1), (8, toLE 1 o.tileEnable), (9, toLE 1 o.portEnable), (12, toLE 4 o.channelEnable),
     (16, toLE 2 o.powerCap), (18, toLE 1 o.gustBudget), (19, toLE 1 o.perstScope), (20, toLE 1 o.bootPolicy),
     (21, toLE 1 o.bootAttempts), (22, toLE 1 o.debugLock), (23, toLE 1 o.sparePolicy), (24, toLE 1 o.compressDefault),
     (26, toLE 2 o.fabricRole)]

/-- R12: no tile, or no channel on an enabled tile: the shipped values for all three masks. -/
def Options.masksBad (o : Options) : Bool :=
  o.tileEnable == 0 || !(List.range 32).any fun c => bit o.channelEnable c && bit o.tileEnable (c / 8)

/-- Start-up step 2 (R12, R542): the first valid copy, or the shipped values; each failure is logged. -/
def State.chooseOptions (s : State) : State :=
  let a := optionGood s.ao.optA
  let b := optionGood s.ao.optB
  let s := if a then s else s.log 1 1 []
  let s := if a || b then s else s.log 1 2 []
  let s := if a || b then s else s.log 1 3 []
  let o : Options := if a then optionsOf s.ao.optA else if b then optionsOf s.ao.optB else {}
  let s := if o.masksBad then s.log 1 4 [] else s
  let used := if o.masksBad then { o with tileEnable := 0x0F, portEnable := 0xFF, channelEnable := 0xFFFFFFFF } else o
  s.modAo fun x =>
    { x with opt := used, optionSource := if a then 0 else if b then 1 else 2, masksSubstituted := o.masksBad,
             measured := [Config.shake256 o.block] }

/-! ### Images (R547, R548) -/

/-- Header bytes 0 to 2,047 of the image as shipped: firmware 1.4 under key slot 0, security version 0, nothing to revoke or raise
(DESIGN CHOICE, log 6). -/
def shippedHeader : Bytes :=
  slice Config.shippedHeader 0 9 ++ toLE 1 Config.zizonMinor ++ toLE 1 Config.zizonMajor ++ zeros 21 ++ slice Config.shippedHeader 32 2016

/-- Header bytes 0 to 2,047 of a slot's image; an empty image in a slot that holds one is the image as shipped. -/
def ImgSlot.header (x : ImgSlot) : Bytes := if x.image.isEmpty && x.st != 0 then shippedHeader else slice x.image 0 2048

/-- The key slot may be used: present and not revoked; its digest. -/
def Otp.key? (o : Otp) (k : Nat) : Option Bytes := (o.keys[k]?).bind fun x => if x.1 && !x.2.2 then some x.2.1 else none

/-- The body of an image as staged; bytes past what was written are erased. -/
def imageBody (b : Bytes) : Bytes :=
  let n := le b 4 4 - 8192
  let body := (b.drop 8192).take n
  body ++ List.replicate (n - body.length) 0xFF

/-- Check 1 of R548: fields in range, reserved bytes zero (R547, R549). -/
def imageHeaderGood (b : Bytes) : Bool :=
  decide (8192 ≤ b.length) && le b 0 4 == 0x4D494B4E && within 8192 31457280 (le b 4 4) && decide (byteAt b 12 ≤ 3) &&
  decide (byteAt b 13 < 16) && !bit (byteAt b 13) (byteAt b 12) && decide (le b 20 4 ≤ le b 16 4) &&
  zeroAt b 11 1 && zeroAt b 14 2 && zeroAt b 24 8 && zeroAt b 5357 2835

/-- R548: the five checks. -/
def Ao.verifies (a : Ao) (x : ImgSlot) : Bool :=
  let b := x.image
  if b.isEmpty then x.st != 0 && (a.otp.key? 0).isSome && a.otp.minSecurity == 0
  else
    imageHeaderGood b && (a.otp.key? (byteAt b 12)).any (fun d => d == slice (Config.shake256 (slice b 96 1952)) 0 64) &&
    Config.mldsaVerify (slice b 96 1952) (slice b 0 2048) (slice b 2048 3309) &&
    slice (Config.shake256 (imageBody b)) 0 64 == slice b 32 64 && decide (a.otp.minSecurity ≤ le b 16 4)

/-! ### Choosing the slot (R550 to R552) -/

/-- Slot A or, with `b`, slot B. -/
def Ao.slot (a : Ao) (b : Bool) : ImgSlot := if b then a.slotBImg else a.slotA
def Ao.setSlot (a : Ao) (b : Bool) (x : ImgSlot) : Ao := if b then { a with slotBImg := x } else { a with slotA := x }

/-- A boot event about a slot: its number and its image's version (R558). -/
def State.logSlot (s : State) (code : Nat) (b : Bool) : State :=
  s.log 1 code (toLE 1 (b2n b) ++ slice (s.ao.slot b).header 8 3)

/-- Component 2 of the measurement log. -/
def Otp.bytes (o : Otp) : Bytes :=
  (o.keys.flatMap fun x => toLE 1 (b2n x.1) ++ slice x.2.1 0 64 ++ toLE 1 (b2n x.2.2)) ++ toLE 4 o.minSecurity ++ o.debugKey

/-- The firmware of a slot starts: its image is measured behind the option block (R554, R555). -/
def State.runSlot (s : State) (b : Bool) : State :=
  s.modAo fun a =>
    let h := (a.slot b).header
    { a with slotB := b, header := h,
             measured := [Config.shake256 Config.bootRomRevision, Config.shake256 a.otp.bytes, a.measured.headD [], Config.shake256 h] }

/-- R552: the boot ROM serves alone. -/
def State.enterRecovery (s : State) : State := (s.modAo fun a => { a with stage := .recovery }).log 1 0x0A []

/-- Try slots in order: the first that verifies runs, each failure is logged (R550). -/
def State.trySlots (s : State) : List Bool → State
  | [] => s.enterRecovery
  | b :: rest => if s.ao.verifies (s.ao.slot b) then s.runSlot b else (s.logSlot 5 b).trySlots rest

/-- R550: the slot of this boot. -/
def State.chooseSlot (s : State) : State :=
  let s := s.modAo fun a => { a with fallback := false }
  let a := s.ao
  if a.opt.bootPolicy = 1 then s.trySlots [false]
  else if a.opt.bootPolicy = 2 then s.trySlots [true]
  else
    let rest := fun (s : State) =>
      let x := s.ao.activeB
      s.trySlots (x :: if (s.ao.slot (!x)).st = 2 then [!x] else [])
    let pend := if a.slotA.st = 3 then some false else if a.slotBImg.st = 3 then some true else none
    match pend with
    | none => rest s
    | some p =>
      let abandon := fun (s : State) =>
        rest ((s.modAo fun a => { a.setSlot p { a.slot p with st := 2 } with fallback := true }).logSlot 6 p)
      if a.attempts < a.opt.bootAttempts then
        let s := s.modAo fun a => { a with attempts := a.attempts + 1 }
        if s.ao.verifies (s.ao.slot p) then s.runSlot p else abandon (s.logSlot 5 p)
      else abandon s

/-- With ready first set after booting an image (R549, R551): a pending slot that booted becomes the active one, key slots are revoked
and the OTP minimum is raised. -/
def State.imageReady (s : State) : State :=
  let b := s.ao.slotB
  let h := s.ao.header
  let s := if (s.ao.slot b).st = 3 then
      (s.modAo fun a =>
        let a := a.setSlot b { a.slot b with st := 2 }
        let a := a.setSlot (!b) { a.slot (!b) with st := if (a.slot (!b)).st = 0 then 0 else 2 }
        { a with activeB := b, attempts := 0 }).logSlot 7 b
    else s
  let s := (List.range 4).foldl (fun s k =>
    match s.ao.otp.keys[k]? with
    | none => s
    | some x =>
      if bit (byteAt h 13) k && k != byteAt h 12 && !x.2.2 then
        (s.modAo fun a => { a with otp := { a.otp with keys := a.otp.keys.set k (x.1, x.2.1, true) } }).logSlot 8 b
      else s) s
  let m := le h 20 4
  if s.ao.otp.minSecurity < m then (s.modAo fun a => { a with otp := { a.otp with minSecurity := m } }).logSlot 9 b else s

end Sys2Proof.Machine
end

