-- ==== Sys2Proof/Machine/Pools.lean ====
section
/-! DEFINITION. Composable pools that are probed, run short or fail (R498 to R501). -/

namespace Sys2Proof.Machine

open Sys2Proof

/-- A part of a share goes back to the point before it boarded, its probe set and read stamp kept (R238). -/
def SShard.rescan (p : SShard) (now : Nat) : SShard :=
  if p.stage == .waitStamp || p.stage == .project || p.stage == .coarse || p.stage == .level2 then p
  else
    { p with stage := if p.forming then .project else .seat, since := now, flash := [], cached := [], lists := [], flashLeft := [],
             nearLeft := [], nearOffers := [], covered := [], short := false }

/-- R238: the share's scan runs once more with its spill area in T1; none when T1 cannot hold it. -/
def State.rerunScan (s : State) (h : Share) : Option State :=
  let k := h.msg.key
  let p := pairOf h.msg
  let n := h.t3
  if !s.pairFits p .t1 n then none
  else
    let s := (s.arbWithdraw fun w => match w with | .nearBank k' _ _ _ => k' == k | _ => false).leaveCoaches k
    let s := (s.pairRelease p .t3 h.t3).pairCharge p .t1 n
    let again := (h.shards.filter fun x => x.forming && x.stage == .done).map (·.shard)
    let s := s.reopenShare k fun h =>
      { h with t1 := n, t3 := 0, pool := none, rerunDone := true, overBuf := [], threshold := none, prior := none, cuts := [],
               shards := h.shards.map fun x => x.rescan s.now }
    some (again.foldl (fun s i => s.needTensor (s.homeTile k.num) false false (.forming k i)) s).resumeCsus

/-- Rows of a share's merged candidates whose home is the pool. -/
def State.poolCands (s : State) (h : Share) (pool : Nat) : Bool := (s.rowPools h (h.merged.getD [])).contains pool

/-- R500: the re-rank reads its rows once more; those of the lost pool are missing and the answer is degraded. -/
def State.rerunRows (s : State) (h : Share) : State :=
  let k := h.msg.key
  let tile := s.homeTile k.num
  let rows := ((h.merged.getD []).filter (·.source != 33)).filterMap fun c => (s.rowOfCand h c).map fun x => (x.1.id, x.2.1.num)
  let s := s.arbWithdraw fun w => w == .rerank k || w.rowOf k
  let s := s.modEng fun e => { e with porter := e.porter.filter (·.2.1 != k) ++ rows.map fun x => (tile, k, x.1, x.2) }
  (s.modShare k fun h => { h with rows := rows, rerunDone := true, lostRows := true }).issueReads tile

/-- A share whose state lies in the pool that is lost (R238, R500). -/
def State.sharePoolLost (s : State) (h : Share) (pool : Nat) : State :=
  let k := h.msg.key
  let may := h.msg.params.retryAllowed && !h.rerunDone
  if h.pool == some pool then
    if may then (s.rerunScan h).getD (s.failShare k stPoolLost 0) else s.failShare k stPoolLost 0
  else if s.poolCands h pool then (if may then s.rerunRows h else s.failShare k stPoolLost 0)
  else s

/-- The rows whose home is the pool are lost; a migration out of it ends with them, one into it is abandoned (R499, R501). -/
def State.loseHome (s : State) (pool : Nat) : State :=
  s.shards.foldl (fun s d => d.slots.foldl (fun s x =>
    if x.home == .t3 pool && x.born && !x.bit then
      (s.loseRow d.id x.num).modSlot d.id x.num fun x => { x with migration := x.migration.filter (·.oldHome.isSome) }
    else
      match x.migration, s.coll? d.coll with
      | some m, some c =>
        if m.to_ == .t3 pool && m.oldHome.isNone then
          ((s.releaseHome c d m.to_ m.bytes none).modSlot d.id x.num fun x => { x with migration := none }).dropBackground 0x0F x.num
        else s
      | _, _ => s) s) s

/-- This node's answer had accessed the pool (R500). -/
def State.poolAnswer (s : State) (pool : Nat) (a : Answer) : Bool := a.node == s.nodeId && a.pools.contains pool

/-- Such an answer that its request still waits with is ST_POOL_LOST: nothing of its phase is held here to run it again (R500). An
answer on its way to a peer is not called back (log 130). -/
def State.answersPoolLost (s : State) (pool : Nat) : State :=
  let fail := fun (x : Nat × ShardAnswer) => (x.1, ShardAnswer.failed stPoolLost 0)
  let here : Answer → Answer := fun a => if s.poolAnswer pool a then { a with shards := a.shards.map fail, entries := [] } else a
  let body : Body → Body := fun b => match b with
    | .search p answers got due =>
      let gone := (got.filter (s.poolAnswer pool)).flatMap fun a => a.shards.map (·.1)
      .search p (answers.map fun x => if gone.contains x.1 then fail x else x) got due
    | _ => b
  let s : State := { s with reqs := s.reqs.map fun (r : Req) => ({ r with body := body r.body } : Req) }
  s.modEng fun e => { e with inAnswers := e.inAnswers.map here }

/-- A coordinator's merge whose space lies in the pool (R238, R247, R500): with retry_allowed it runs again with T1, if that can hold
it; else it is lost. -/
def State.mergePoolLost (s : State) (pool : Nat) (r : Req) : State :=
  match r.body, r.merge.pool with
  | .search p _ _ _, some q =>
    if q != pool then s
    else
      let n := r.merge.t3
      let s := s.releaseMerge r
      if p.retryAllowed && s.fits r.fn .t1 n then
        (s.modFn r.fn (·.charge .t1 n)).modReq r.num fun r => { r with merge := { t1 := n } }
      else s.modReq r.num fun r => { r with merge := { lost := true } }
  | _, _ => s

/-- The pool is LOST (R499, R500): logged, with ALERT_N; every function gets pool_event; placements in it return to T2. -/
def State.losePool (s : State) (pool : Nat) : State :=
  let hs := s.eng.shares
  let s := (s.modPool pool fun p => { p with st := .lost, lostAt := s.now }).log 7 3 (toLE 4 pool)
  let s := hs.foldl (fun s h => s.sharePoolLost h pool) (s.answersPoolLost pool)
  let s := s.reqs.foldl (fun s r => s.mergePoolLost pool r) s
  let back := fun (c : Coll) => ({ c with placement := none, since := s.now } : Coll)
  let s : State := { s with colls := modWhere s.colls (fun c => c.placement == some pool) back }
  (s.loseHome pool).recordNode.poolEvent

/-- A pool the node uses: attached or being detached. -/
def Pool.live (p : Pool) : Bool := p.st == .attached || p.st == .detaching

/-- POOL_PROBE_TICK (R499): every 100 ms each attached pool is probed; a failed probe is followed by a repeat, whose result
POOL_ACCESS_FAILURE takes. -/
def execPoolProbeTick (pool : Nat) (ok : Bool) (t : Nat) (s : State) : Result :=
  let s := s.at t
  match s.pool? pool with
  | none => .next s
  | some p =>
    if !p.live || !s.pins.bme || s.now < p.lastProbe + 100 * Config.ticksPerMs then .next s
    else
      let s := (s.modPool pool fun p => { p with lastProbe := s.now }).emit (.poolProbe pool)
      .next (if ok then s else s.emit (.poolProbe pool))

/-- POOL_ACCESS_FAILURE (R499, R500): an access failed; when the repeat probe fails too the pool is LOST. While the host port is in
reset or its link is down no pool counts as lost (R538). -/
def execPoolAccessFailure (pool : Nat) (reprobeOk : Bool) (t : Nat) (s : State) : Result :=
  let s := s.at t
  match s.pool? pool with
  | none => .next s
  | some p => .next (if !p.live || reprobeOk || !s.pins.bme then s else s.losePool pool)

/-- POOL_SHORT (R498): a storage pool is short below 5 % free; an adapter pool is as `short` says, and its output goes through the
root complex meanwhile. A change is logged. -/
def execPoolShort (pool : Nat) (short : Bool) (t : Nat) (s : State) : Result :=
  let s := s.at t
  match s.pool? pool with
  | none => .next s
  | some p =>
    let now := if p.kind = 0 then decide (20 * (p.cap - p.used) < p.cap) else short
    if !p.live || now == p.short then .next s
    else
      .next ((s.modPool pool fun p => { p with short := now, relayed := p.kind == 1 && now }).log 7 (if now then 4 else 5) (toLE 4 pool))

end Sys2Proof.Machine
end

