-- ==== Sys2Proof/Machine/Resets.lean ====
section
/-! DEFINITION. Reset classes and what survives them (R531 to R538, R545), start-up (R539 to R541, R288, R502), brownout, thermal
shutdown and the hot-swap switch (R524, R527, R593 to R596). -/

namespace Sys2Proof.Machine

open Sys2Proof

/-! ### What a cold or node reset clears (R545) -/

/-- Copies of a row being made are abandoned, and what they were charged is released (R321, R545). -/
def State.dropMigrations (s : State) : State :=
  s.shards.foldl (fun s d => d.slots.foldl (fun s x =>
    match x.migration, s.coll? d.coll with
    | some m, some c =>
      if m.oldHome.isSome then s
      else
        let s := match m.promoteFor with
          | some g => s.release g .t2 m.bytes
          | none => s.releaseHome c d m.to_ m.bytes none
        s.modSlot d.id x.num fun x => { x with migration := none }
    | _, _ => s) s) s

/-- Every change stamped but not yet made is made (R288, R305). -/
def State.applyPending (s : State) : State :=
  s.shards.foldl (fun s d => d.slots.foldl (fun s x => s.applyAll d.id x.num 65536) s) s

/-- No reader is left, so every kind 0 tombstone folds into the bitmap (R288). -/
def State.foldTombs (s : State) : State :=
  s.shards.foldl (fun s d => (d.tombs.filter fun t => t.kind == 0 && (d.rebornAfter t.slot t.stamp).isNone).foldl (fun s t =>
    match s.coll? d.coll with
    | none => s
    | some c =>
      let s := match d.slot? t.slot with
        | some x => if x.home == Home.formation then s.releaseHome c d .formation (rowBytes c.spec x.row) none else s
        | none => s
      s.modShard d.id fun d =>
        { d with tombs := d.tombs.filter fun u => !(isTomb t.id t.stamp u && u.kind == 0),
                 slots := modWhere d.slots (·.num == t.slot) fun x => { x with bit := true, deletedAt := t.stamp } }) s) s

/-- A shard with nothing waiting at it and no reader; a move that has not handed over is abandoned. -/
def Shard.quiet (d : Shard) : Shard :=
  { d with readers := [], waiting := [], holds := [], move := if d.forwardTo.isSome then d.move else none }

/-- A list with nothing of it in the hot-list cache. -/
def LList.uncached (l : LList) : LList :=
  { l with admitHot := none, probes := [], urgent := false, versions := l.versions.map fun v => { v with cached := false } }

/-- A model with no run, trainer or window, and its weights as last checkpointed (R373, R545). -/
def Model.quiet (m : Model) : Model :=
  { m with windowBy := none, windowAt := none, windowT1 := 0, trainer := none, trainWait := [], accumulated := 0, version := m.durable }

/-- Function state lost at a cold or node reset (R438, R545). -/
def Fn.restarted (f : Fn) (now : Nat) : Fn :=
  { f.cleared with
    ready := false, resetBusy := false, resetAt := 0, filledTo := now, ceilingTo := now, overPeakAt := 0, overPeakEvents := 0,
    quotaEvents := 0, cancelled := 0, gatherDrops := [0, 0, 0, 0, 0], guestState := 0 }

/-- A trained port is held on idles by the port keeper (R482, R535); its counters and retry buffer are lost. -/
def Port.keep (q : Port) : Port :=
  let st := if q.st == .up || q.st == .narrow then PortState.kept else if q.st == .kept || q.st == .conflict then q.st else .dark
  if st == .dark then {}
  else
    { st := st, width := q.width, spareFree := q.spareFree, txSpareFree := q.txSpareFree, neighbour := q.neighbour,
      neighbourPort := q.neighbourPort, resting := q.resting, known := q.known, rxInUse := q.rxInUse, rxFailed := q.rxFailed,
      txInUse := q.txInUse, txFailed := q.txFailed, txSeq := q.txSeq, rxSeq := q.rxSeq, equaliser := q.equaliser,
      adaptAt := q.adaptAt }

/-- Tails that a reset leaves (R108): unreported; a firmware update leaves its slot empty, a queue that was draining is gone, as is an
output that no requester waits for. -/
def State.resetTails (s : State) : State :=
  let fw := fun (x : Tail) => match x.kind with | .fwStage _ _ => true | .fwVerify => true | .fwActivate => true | _ => false
  let gone := fun (x : Tail) => match x.kind with | .deleteQueue _ => true | .attest _ => true | .getLog => true | _ => fw x
  let s := if s.tails.any fw then s.modAo fun a => a.setSlot (!a.activeB) ⟨0, []⟩ else s
  { s with tails := (s.tails.filter fun x => !gone x).map fun x => ({ x with requester := none } : Tail) }

/-- Clock limits, counters and unit states after a node reset (R530, R545); the supply, the brake and the sensors are the AO
domain's. -/
def Power.restarted (p : Power) : Power :=
  { p with capArith := 2400, capCore := 3000, capBelow := none, thArith := 2400, thCore := 3000, thBelow := none, thStepAt := 0,
           hotTiles := [], events := 0, gustWaits := 0, gustTotal := 0, gustMax := 0, gustTotalCap := 0, gustMaxCap := 0,
           entries := 0, lastMs := 0, units := [], coresSaved := false, maintWake := false }

/-- The journal as replay leaves it (R287, R288): void and unstamped entries are gone, what was programmed waits for its home
writes. -/
def State.replayJournal (s : State) : State :=
  s.modTier fun e =>
    { e with journal := (e.journal.filter fun j => !j.void && j.stamp != 0).map fun j => { j with inBuffer := false },
             hotHits := 0, rowHits := 0, rowCache := [], rowSeen := [], t1Wanted := 0, abandoned := 0 }

/-- An entry that replay needs (R288, R431). -/
def JEntry.replayed (j : JEntry) : Bool := !j.void && j.stamp != 0 && !j.saved && j.kind != .nodeRecord

/-- A journal page that replay needs and that is lost makes its shard lost (R575). -/
def State.loseUnreplayed (s : State) : State :=
  let gone := (s.tier.journal.filter fun j => j.pageLost && j.replayed).map (·.shard)
  { s with shards := s.shards.map fun d => if gone.contains d.id then { d with lost := true } else d }

/-- Each shard's counter after replay (R67): the larger of the highest stamp in its journal and the counter in the newest complete
checkpoint, 1 where that has none yet. -/
def State.replayCounters (s : State) : State :=
  let top := fun (i : Nat) => (s.tier.journal.filter fun j => j.shard == i && j.kind != .nodeRecord).foldl (fun n j => max n j.stamp)
    (((s.tier.checkpoint.find? (·.1 == i)).map (·.2)).getD 1)
  { s with shards := s.shards.map fun d => if d.forwardTo.isSome then d else { d with counter := top d.id } }

/-- Everything outside the AO domain ends or is lost, but for what R545 keeps: the buffer is flushed (R433, R534), stamped changes
are made, unstamped ones dropped (R35, R288). -/
def State.clearNode (s : State) : State :=
  let s := s.flushReserve.applyPending
  let s := (s.runs.map (·.num)).foldl (fun s n => s.endRun n) s
  let s := s.reqs.foldl State.releaseMerge s
  let s := ({ s with reqs := [], pimRuns := [], heldNums := [], filters := [] } : State).cancelWork fun _ _ => true
  let s := (List.range 128).foldl (fun s f => (s.freeFunction f).stopGuest f) s
  let s := (s.shards.map (·.id)).foldl (fun s i => s.dropUpkeep i) s.dropMigrations
  let s : State := { s with shards := s.shards.map Shard.quiet }
  let s := s.foldTombs.loseUnreplayed.replayJournal.replayCounters.resetTails
  let s := s.setPState .breeze
  { s with
    pwr := s.pwr.restarted,
    fns := s.fns.map fun f => f.restarted s.now,
    mboxes := List.replicate 129 {},
    queues := [], sched := {}, arbs := [], arbSelect := 0, arbRequester := 0, arbWaitTotal := 0, arbWaitMax := 0,
    lists := s.lists.map LList.uncached, eng := {}, models := s.models.map Model.quiet, runs := [], regions := [], operandBufs := [],
    activePair := 0, portSelect := 0,
    spares := { s.spares with heldAccess := [], unitResets := [] },
    ao := { s.ao with watchdogOn := false, debugOpen := false, guestChain := List.replicate 64 0 },
    pins := { s.pins with linkDetect := false, crs := true, vfEnable := false, numVfs := 0, bme := false } }

/-! ### Entering a reset (R531 to R535) -/

/-- A cause is recorded: the one before it becomes prior (R556). -/
def Ao.record (a : Ao) (cause : BitVec 8) : Ao := { a with prior := a.cause, cause := cause }

/-- The node is powered and in no reset. -/
def State.alive (s : State) : Bool := s.pinsLive

/-- A node reset begins (R531 to R535): the cause is recorded and logged, the node drives RESET_N low, ALERT_N, THERM_N and WAKE_N
hold their levels, trained ports are held and say that the node rests. One that meets a reset in progress joins it, and is logged.
-/
def State.nodeReset (s : State) (cause : BitVec 8) : State :=
  if s.ao.stage == .off then s
  else if s.ao.stage == .inReset then s.log 0 cause.toNat []
  else
    let kept := s.pins
    let s := s.log 0 cause.toNat []
    let s := s.clearNode
    let s : State := { s with ports := s.ports.map Port.keep }
    let held := (List.range 8).filter fun p => (s.port p).st == .kept
    let s := held.foldl (fun s p => s.sayHello p true) s
    let s := s.modAo fun a =>
      { a.record cause with nodeResets := min 65535 (a.nodeResets + 1), stage := .inReset, resetRank := 2, resetAt := a.now }
    s.modPins fun p =>
      { p with alertN := kept.alertN, thermN := kept.thermN, wakeN := kept.wakeN, resetDriven := true, resetN := false }

/-- A cold reset begins, replacing a narrower one (R531 to R533). While it waits for AO power good everything is off. -/
def State.coldReset (s : State) (cause : BitVec 8) : State :=
  if s.ao.stage == .off then s
  else if s.ao.stage == .inReset && s.ao.resetRank == 3 then s.log 0 cause.toNat []
  else
    let s := s.clearNode
    let s : State := { s with
      ports := List.replicate 8 {}, peers := [], nextNum := 0, cfg := {},
      pwr := { swap := s.pwr.swap, inputMv := s.pwr.inputMv, inputMa := s.pwr.inputMa, inputW := s.pwr.inputW,
               junctions := s.pwr.junctions, inletC := s.pwr.inletC } }
    let s := s.modAo fun a => { a with cause := cause, stage := .inReset, resetRank := 3, resetAt := a.now }
    s.modPins fun p =>
      { p with alertN := true, thermN := true, wakeN := true, clkreqN := true, i3cAddr := none, eid := 0, platform := [],
               resetDriven := true, resetN := false }

/-- An interface reset (R457, R531, R538): every function passes its reset steps, the VFs are gone; peers stay served. -/
def State.interfaceReset (s : State) (source : Nat) : State :=
  let s := s.log 0 0x20 (toLE 1 source)
  if !s.alive then s
  else
    let s := (s.resetFunction 0).clearVfs
    s.modPins fun p => { p with bme := false, linkDetect := source != 0, crs := true }

/-! ### Start-up (R288, R536, R540, R541) -/

/-- Times that name a counter which starts again at 0 (R71, R556): what a cold reset keeps counts as of its start. -/
def State.rebase (s : State) : State :=
  { s with
    fns := s.fns.map fun f => { f with filledTo := 0, ceilingTo := 0, resetAt := 0, overPeakAt := 0 },
    tails := s.tails.map fun x => { x with startedAt := 0 },
    colls := s.colls.map fun c => { c with since := 0, readTimes := [] },
    shards := s.shards.map fun d => { d with lenAt := 0, tombs := d.tombs.map fun t => { t with at_ := 0 } },
    lists := s.lists.map fun l =>
      { l with probedAt := l.probedAt.map fun _ => 0, gb := l.gb.map (fun e => { e with at_ := 0 }), maint := l.maint.map fun m => { m with plannedAt := 0, trigger := 0 } },
    models := s.models.map fun m => { m with lastPart := 0 },
    pools := s.pools.map fun p => { p with lastProbe := 0, lostAt := 0, quiescedAt := none },
    spares := { s.spares with
      scrubAt := 0, arrays := s.spares.arrays.map (fun a => { a with calibratedAt := 0, startedAt := 0, trackedAt := 0, idleAt := 0 }),
      recoveries := s.spares.recoveries.map fun r => { r with progressAt := 0 } },
    tier := { s.tier with
      checkpointAt := 0, rebalancedAt := 0, journal := s.tier.journal.map (fun j => { j with at_ := 0 }),
      channels := s.tier.channels.map fun c =>
        { c with blocks := c.blocks.map fun b => { b with scannedAt := 0, softAt := [] } } } }

/-- Start-up step 1 (R540, R545, R556): AO retention is cleared, AO_LOCAL_COUNT starts at 0, the cause is written. -/
def State.startAo (s : State) (cause : BitVec 8) : State :=
  let s := s.rebase
  let s := s.modAo fun a =>
    { a with now := 0, cause := cause, prior := 0, nodeResets := 0, fallback := false, attempts := 0, boots := 0, log := [], nextEntry := 0,
             ackedTo := 0, resetAt := 0 }
  let s := s.log 0 cause.toNat []
  if cause = 0x02 then s.log 2 3 [] else s

/-- Start-up step 6: every array in use is calibrated (R540, R545). -/
def State.calibrateAll (s : State) : State :=
  let st := fun (r : Arr) =>
    if r.st != 2 then r.st else b2n (decide (groupSize r.arr ≤ (s.inUse r.arr).length))
  s.modArrs s.arraysBuilt fun r => { r with st := st r, calibratedAt := s.now, trackedAt := s.now }

/-- A port that the options in force disable is dark (R14), in recovery as well. -/
def State.darkenPorts (s : State) : State := { s with ports := s.ports.mapIdx fun p q => if s.portOn p then q else ({} : Port) }

/-- Start-up step 9: the held ports go to the fabric logic and hellos go out (R482, R536, R540). -/
def State.handOver (s : State) : State :=
  let f := fun (q : Port) => if q.st == .kept then { q with st := if q.width = 8 then PortState.up else .narrow } else q
  let s : State := { s with ports := s.ports.map f }
  let live := (List.range 8).filter fun p => (s.port p).st == .up || (s.port p).st == .narrow
  (live.foldl (fun s p => s.sayHello p false) s).reroute

/-- Recoveries go on once start-up has ended (R574): each asks its arbiter again. -/
def State.resumeRecoveries (s : State) : State :=
  let ds := s.spares.recoveries.map (·.domain)
  let s := s.modSpares fun x => { x with recoveries := x.recoveries.map fun r => { r with running := false } }
  ds.foldl (fun s d => s.arbRequest 0xA2 d false true (.recovery d)) s

/-- The service cores are those of the lowest enabled tiles, and the shares get their cores (R15, R465). -/
def State.seatCores (s : State) : State :=
  (s.modSpares fun x => { x with service := s.coresUp.take 4 }).placeCores (List.range 128)

/-- Start-up steps 2 to 10 (R540): the option block and a new boot epoch, the image, the arrays, the node record as loaded, the ports,
the host link. Regenerations are planned again (R576). In service stop the boot ROM serves as in recovery (R573). -/
def State.startUp (s : State) (random : BitVec 64) (refclk cold : Bool) : State :=
  let s := (s.modAo fun a => { a with epoch := random, stage := .waitBme }).chooseOptions
  let s : State := if cold then { s with cfg := { s.cfg with
      powerCap := s.ao.opt.powerCap, gustBudget := s.ao.opt.gustBudget, compressDefault := s.ao.opt.compressDefault } } else s
  let s := (if s.spares.serviceStop then s.enterRecovery else s.chooseSlot).seatCores
  let degraded := (s.lists.filter fun l => l.degraded && l.retiredW.isNone).map (·.shard)
  let s := degraded.foldl (fun s d => s.planRegen d) s.calibrateAll
  let (i, s) := s.takeFree
  let s := s.modAo fun a =>
    { a with recordDigest := Config.shake256 (toLE 64 (Config.freeNat i)), boots := a.boots + 1, watchdogOn := true, readySeen := false,
             watchdog := 16000 * Config.ticksPerMs, resetRank := 0 }
  let s := s.darkenPorts
  let s := (if s.ao.stage == .recovery then s else s.handOver.resumeRecoveries).alertLevel
  let s := s.modPins fun p => { p with resetDriven := false, resetN := true, clkreqN := false, linkDetect := p.perstN, crs := false, refclkUsed := refclk }
  if s.pins.perstN then s.emit .linkDetect else s

/-- AO_POWER_GOOD (R533, R540, R594, R596): the bank is charged to 43.5 V or more, or a cold reset has passed: steps 1 to 10. The boot
epoch is never 0. -/
def execAoPowerGood (bankMv : Nat) (found : StartInputs) (s : State) : Result :=
  let charged := s.pwr.swap == .charging
  let waits := s.ao.stage == .inReset && s.ao.resetRank == 3 && s.pwr.swap == .closed
  if bankMv < 43500 || found.random = 0 || !(charged || waits) then .next s
  else
    let s := if charged then (s.modAo fun a => { a with stage := .shutdown }).coldReset 0x01 else s
    let s := s.modPwr fun p => { p with swap := .closed, inputMv := bankMv }
    .next ((s.startAo s.ao.cause).startUp found.random found.refclk true)

/-- NODE_RESET_STRETCH_END (R533, R536, R540): 1 ms and the 10 µs after it have passed and RESET_N is high: steps 2 to 10. While the
carrier holds the pin low the node waits. The epoch differs from the one before. -/
def execNodeResetStretchEnd (resetNHigh : Bool) (found : StartInputs) (t : Nat) (s : State) : Result :=
  let s := s.at t
  if s.ao.stage != .inReset || s.ao.resetRank != 2 || s.now < s.ao.resetAt + 25250 then .next s
  else if !resetNHigh then .next (s.modPins fun p => { p with resetDriven := false, resetN := false })
  else if found.random = 0 || found.random = s.ao.epoch then .next s
  else .next (s.startUp found.random found.refclk false)

/-- A pool that fails its probe is LOST (R499, R502). -/
def State.probePools (s : State) (probes : List (Nat × Bool)) : State :=
  let ps := (s.pools.filter Pool.live).map (·.id)
  ps.foldl (fun s p =>
    let s := (s.modPool p fun x => { x with lastProbe := s.now }).emit (.poolProbe p)
    if (probes.find? (·.1 == p)).any (·.2) then s else s.losePool p) s

/-- BUS_MASTER_ENABLE_SET (R79, R463, R502, R506, R538 to R541, R549, R551, R552): the link is up and the PF's Bus Master Enable is
set: step 11, or the probes after an interface reset. The boot ROM in recovery serves the PF alone. -/
def execBusMasterEnableSet (poolProbes : List (Nat × Bool)) (t : Nat) (s : State) : Result :=
  let s := s.at t
  if s.pins.bme || !s.pins.linkDetect || !s.alive then .next s
  else
    let s := s.modPins fun p => { p with bme := true }
    if s.ao.stage == .recovery then .next (s.modFn 0 fun f => if f.resetBusy then f else { f with ready := true })
    else
      let s := s.probePools poolProbes
      if s.ao.stage == .serving then .next s
      else
        let s := s.modAo fun a => { a with stage := .serving, readySeen := true }
        let s := (0 :: s.vfs).foldl (fun s f => s.modFn f fun x => if x.resetBusy then x else { x with ready := true }) s
        let s := s.imageReady.modAo fun a => { a with watchdog := s.watchdogPeriod }
        let s := (List.range 128).foldl (fun s f => s.bootGuest f) s
        .next (s.setGale s.cfg.galeHold)

/-! ### Reset sources (R531, R533, R538, R539, R557) -/

/-- A valid write to RST_CONTROL: its confirm byte and request (R556). -/
def rstRequest (v : BitVec 32) : Nat := if field v.toNat 8 8 = 0xA5 then field v.toNat 0 4 else 0

/-- RST_NODE_REQUEST (R557): cause 0x13. -/
def execRstNodeRequest (v : BitVec 32) (t : Nat) (s : State) : Result :=
  let s := s.at t
  .next (if s.alive && rstRequest v == 1 then s.nodeReset 0x13 else s)

/-- RST_COLD_REQUEST (R557): cause 0x04. -/
def execRstColdRequest (v : BitVec 32) (t : Nat) (s : State) : Result :=
  let s := s.at t
  .next (if s.alive && rstRequest v == 2 then s.coldReset 0x04 else s)

/-- RESET_N_ASSERT (R527, R533): 2 µs low is a node reset; while the node drives the pin it is no input. In thermal shutdown it counts
once every sensor reads below 90 °C. -/
def execResetNAssert (lowNs t : Nat) (s : State) : Result :=
  let s := s.at t
  let cool := s.pwr.junctions.all fun x => decide (x < 90)
  if lowNs < 2000 || s.pins.resetDriven || !(s.alive || (s.ao.stage == .shutdown && cool)) then .next s
  else .next (s.nodeReset 0x10)

/-- PERST_N_ASSERT (R531, R532, R588): 1 µs low is an interface reset or, with perst_scope 1, a node reset. -/
def execPerstNAssert (lowNs t : Nat) (s : State) : Result :=
  let s := s.at t
  if lowNs < 1000 then .next s
  else
    let s := s.modPins fun p => { p with perstN := false }
    if !(s.alive || s.ao.stage == .inReset) then .next s
    else if s.ao.opt.perstScope = 1 then .next (s.nodeReset 0x14)
    else .next (s.interfaceReset 0)

/-- R599: the host link trains with separate references (SRIS) always, with the common clock on REFCLK alone. -/
def State.trainsWith (s : State) (sris : Bool) : Bool := sris || s.pins.refclkUsed

/-- PERST_N_DEASSERT (R538, R541, R599): the link enters Detect, unless start-up has still to reach step 10; configuration requests
are retried until every function reset has ended. The link retrains, so REFCLK is used or abandoned as it now carries a clock or
not. -/
def execPerstNDeassert (link : LinkInputs) (s : State) : Result :=
  let s := s.at link.t
  let s := s.modPins fun p => { p with perstN := true }
  if !s.alive || s.pins.linkDetect then .next s
  else .next ((s.modPins fun p => { p with linkDetect := true, crs := s.fns.any (·.resetBusy), refclkUsed := link.refclk }).emit .linkDetect)

/-- HOT_RESET (R531, R532, R599): a Hot Reset, or the Data Link Layer going down. The link retrains, on REFCLK where that carries a
clock. -/
def execHotReset (linkDown : Bool) (link : LinkInputs) (s : State) : Result :=
  let s := s.at link.t
  .next (if s.alive && s.pins.linkDetect then
      (s.modPins fun p => { p with refclkUsed := link.refclk }).interfaceReset (if linkDown then 2 else 1)
    else s)

/-- AO_WATCHDOG_BITE (R63, R539, R584): Innkeeper has not serviced the watchdog in its period. -/
def execAoWatchdogBite (t : Nat) (s : State) : Result :=
  let s := s.at t
  .next (if s.alive && s.ao.watchdogOn then (s.log 5 3 []).nodeReset 0x11 else s)

/-! ### Supply and temperature (R524, R527, R593 to R596) -/

/-- BROWNOUT (R524, R596, R597): the bank falls through 38.0 V. With the switch open the module loses its AO power as well. -/
def execBrownout (mv t : Nat) (s : State) : Result :=
  let s := s.at t
  if 38000 ≤ mv || s.ao.stage == .off then .next s
  else
    let s := (s.setVolts mv).coldReset 0x02
    .next (if s.pwr.swap == .closed then s else s.modAo fun a => { a with stage := .off })

/-- THERMAL_SHUTDOWN (R527): a junction reaches 115 °C. THERM_N is low, the buffer is flushed, every rail but the AO domain's goes
off, the other outputs are released and the I3C target is absent (R608), and the cause is recorded. -/
def execThermalShutdown (r : Readings) (t : Nat) (s : State) : Result :=
  let s := s.at t
  if (hottest r.junctions).2 < 115 || !s.alive then .next s
  else
    let s := ((s.setTemps r).log 3 4 []).clearNode
    let s := s.modAo fun a => { a.record 0x05 with stage := .shutdown }
    .next ({ s with ports := List.replicate 8 {} }.modPins fun p =>
      { p with thermN := false, alertN := true, wakeN := true, clkreqN := true, i3cAddr := none, eid := 0, platform := [] })

/-- HOT_SWAP_TURN_ON (R593, R594): the input has been at or above 40.0 V for 100 ms; the bank charges. -/
def execHotSwapTurnOn (mv t : Nat) (s : State) : Result :=
  let s := s.at t
  .next (if s.pwr.swap == .open_ && decide (40000 ≤ mv) then s.modPwr fun p => { p with swap := .charging } else s)

/-- HOT_SWAP_TURN_OFF (R593, R595, R596): undervoltage, overvoltage, or overcurrent after charging opens the switch; the bank decays
from there. After overcurrent it stays open until the input is below 36.0 V. -/
def execHotSwapTurnOff (mv ma forUs t : Nat) (s : State) : Result :=
  let s := s.at t
  let on := s.pwr.swap == .charging || s.pwr.swap == .closed
  let current := s.pwr.swap == .closed && ((decide (42000 < ma) && decide (2000 ≤ forUs)) || (decide (60000 < ma) && decide (10 ≤ forUs)))
  let go := fun (x : HotSwap) => s.modPwr fun p => { p with swap := x }
  .next (if mv < 36000 then go .open_ else if on && 59500 < mv then go .openOvervoltage else if current then go .openCurrent else s)

/-- OVERVOLTAGE_CLOSE (R593, R594): the input falls below 58.5 V; a bank that has decayed charges first. -/
def execOvervoltageClose (mv t : Nat) (s : State) : Result :=
  let s := s.at t
  if s.pwr.swap != .openOvervoltage || 58500 ≤ mv then .next s
  else
    let off := s.ao.stage == .off || (s.ao.stage == .inReset && s.ao.resetRank == 3)
    .next (s.modPwr fun p => { p with swap := if off then .charging else .closed })

end Sys2Proof.Machine
end

