-- ==== Sys2Proof/Machine/Firmware.lean ====
section
/-! DEFINITION. Meanings of FW-UPDATE (R107, R548, R552) on the inactive image slot, and the end of its tails. -/

namespace Sys2Proof.Machine

open Sys2Proof

/-- A FW-UPDATE tail is running (R107). -/
def TailKind.firmware : TailKind → Bool
  | .fwStage _ _ => true
  | .fwVerify => true
  | .fwActivate => true
  | _ => false

/-- FW-UPDATE's row for an action; an unlisted action is answered by the row of action 0. Issued by the PF (R97). -/
def State.fwUpdate (s : State) (r action : Nat) (body : State → Bytes → State) : State :=
  let a := byteAt (s.mbox r).copy 0x20
  if a = action || (action = 0 && 4 ≤ a) then s.commit r 0x000E (r == 0) [(1, 3), (8, 1752)] [(0, decide (a < 4))] body else s

/-- FW_UPDATE_STAGE (R91, R107): the fields and the input buffer are checked before what the row itself refuses. A multiple of 4 KiB
of at most 1 MiB goes into the slot at a multiple of 4 KiB within its 30 MiB. -/
def execFwUpdateStage (r t : Nat) (s : State) : Result :=
  .next ((s.at t).fwUpdate r 0 fun s b =>
    let offset := le b 0x24 4
    let n := le b 16 4
    if n = 0 || n % 4096 != 0 || 2 ^ 20 < n then s.refuse r stInvalid 0xFFFF
    else if offset % 4096 != 0 || 30 * 2 ^ 20 < offset + n then s.refuse r stInvalid 0x24
    else
      match (s.mbox r).input with
      | none => s.refuse r stInvalid 0xFFFE
      | some data =>
        if s.pwr.doldrums then s.refuse r stRetry 1
        else if s.tailRunning TailKind.firmware then s.refuse r stRetry 3
        else s.startTail r (.fwStage offset (slice data 0 n)))

/-- FW_UPDATE_VERIFY (R107): the slot must be staging. -/
def execFwUpdateVerify (r t : Nat) (s : State) : Result :=
  .next ((s.at t).fwUpdate r 1 fun s _ =>
    if s.tailRunning TailKind.firmware then s.refuse r stRetry 3
    else if s.ao.inactive.st ≠ 1 then s.refuse r stInvalid 0x20
    else s.startTail r .fwVerify)

/-- FW_UPDATE_ACTIVATE (R107): the slot must be verified. -/
def execFwUpdateActivate (r t : Nat) (s : State) : Result :=
  .next ((s.at t).fwUpdate r 2 fun s _ =>
    if s.pwr.doldrums then s.refuse r stRetry 1
    else if s.tailRunning TailKind.firmware then s.refuse r stRetry 3
    else if s.ao.inactive.st ≠ 2 then s.refuse r stInvalid 0x20
    else s.startTail r .fwActivate)

/-- FW_UPDATE_STATUS (R107). -/
def execFwUpdateStatus (r t : Nat) (s : State) : Result :=
  .next ((s.at t).fwUpdate r 3 fun s _ => s.reply r stOk 0 (toLE 1 s.ao.inactive.st) [])

/-- Bytes written into an image at an offset; what lies between is erased. -/
def stageBytes (image : Bytes) (offset : Nat) (data : Bytes) : Bytes :=
  let head := image.take offset
  head ++ List.replicate (offset - head.length) 0xFF ++ data ++ image.drop (offset + data.length)

/-- FW_UPDATE_TAIL_END (R107, R522, R548, R552): the slot's new state; a failed verification leaves it staging. Doldrums holds the
tail. An image activated in recovery is followed by a node reset. -/
def execFwUpdateTailEnd (t : Nat) (s : State) : Result :=
  let s := s.at t
  if s.pwr.doldrums then .next s
  else
    let put := fun (x : ImgSlot) => s.modAo fun a => a.setSlot (!a.activeB) x
    let x := s.ao.inactive
    let k : Option TailKind := (s.tails.find? fun y => y.kind.firmware).map (·.kind)
    match k with
    | some (.fwStage offset data) =>
      let image := stageBytes (if offset = 0 then [] else x.image) offset data
      .next ((put ⟨1, image⟩).endTail (.fwStage offset data) stOk 0 (toLE 1 1))
    | some .fwVerify =>
      if s.ao.verifies x then .next ((put ⟨2, x.image⟩).endTail .fwVerify stOk 0 (toLE 1 2))
      else .next (s.endTail .fwVerify stInvalid 0xFFFD [])
    | some .fwActivate =>
      let s := (put ⟨3, x.image⟩).endTail .fwActivate stOk 0 (toLE 1 3)
      .next (if s.ao.stage == .recovery then s.nodeReset 0x12 else s)
    | _ => .next s

end Sys2Proof.Machine
end

