-- ==== Sys2Proof/Machine/Faults.lean ====
section
/-! DEFINITION. Unit resets and resource watchdogs (R52, R61 to R63, R568), faults, recoveries and spares (R564 to R574), lost data and
regeneration (R575 to R578). -/

namespace Sys2Proof.Machine

open Sys2Proof

/-! ### Unit resets (R52, R62) -/

/-- The arbiter of an engine's resource, if it has one. -/
def engineArb : EngineId → Option Nat
  | .channel c => some c
  | .stack c => some (0x40 + c)
  | .coarseField => some 0x80
  | .tensor t => some (0x90 + t)
  | .porter _ => none
  | .innkeeper => some 0xA0
  | .ledger _ => none

/-- Searches whose passengers a channel's CSU carries or waits for. -/
def State.csuKeys (s : State) (c : Nat) : List Key :=
  let u := s.csu c
  let ids := u.queue ++ u.runs.map (·.coach)
  (s.eng.coaches.filter fun k => ids.contains k.id).flatMap fun k => k.seats.map (·.2.1)

/-- Requests that a piece of work serves. -/
def State.workKeys (s : State) : Work → List Key
  | .page c => s.csuKeys c
  | .level2 d at_ => (s.eng.batches.filter fun b => b.shard == d && b.openedAt == at_).flatMap fun b => b.queries ++ b.inserts.map (·.1)
  | w => w.key?.toList

/-- What waits at a shard's ledger arbiter. -/
def State.ledgerKeys (s : State) (shard : Nat) : List Key :=
  let w : List (Nat × LedgerWhat) := ((s.shard? shard).map (·.waiting)).getD []
  w.filterMap fun x => match x.2 with | .member k _ => some k | .search k => some k | .pass (.req k) => some k | _ => none

/-- Requests that an engine holds: those its arbiter has granted, and those in its own queues. -/
def State.engineKeys (s : State) (e : EngineId) : List Key :=
  let atArb : List Key := match engineArb e with
    | some a => (s.arb a).granted.flatMap fun (r : ArbReq) => s.workKeys r.work
    | none => []
  let own : List Key := match e with
    | .channel c => s.csuKeys c
    | .porter t => (s.eng.porter.filter (·.1 == t)).map (·.2.1)
    | .ledger d => s.ledgerKeys d
    | _ => []
  (atArb ++ own).eraseDups

/-- A request that the reset unit held ends (R52): its share here fails, its unstamped members have no effect, a run of this node
completes with ST_RETRY. -/
def State.stopRequest (s : State) (k : Key) (io : HostIO) : State :=
  let s := s.failShare k stRetry 0
  let ms := s.eng.members.filter fun m => m.msg.key == k && m.stage != .stamped && m.stage != .finished
  let s := ms.foldl (fun s m => s.endMember k m.msg.index stRetry 0) s
  if k.origin ≠ s.nodeId then s
  else
    match s.req? k.num with
    | none => s
    | some r =>
      if (s.run? k.num).isSome then (s.dropRun k.num).complete r (.bare stRetry 0) io
      else if s.pimRuns.any (·.num == k.num) then
        ({ s with pimRuns := s.pimRuns.filter (·.num != k.num) } : State).complete r (.bare stRetry 0) io
      else s

/-- Innkeeper's unit holds the command whose commit step runs: it has no effect (R52). -/
def State.stopCommits (s : State) : State :=
  (List.range 129).foldl (fun s r => if (s.mbox r).committing then s.refuse r stRetry 0 else s) s

/-- A unit reset: every request the unit holds is stopped, its grant ends (R52, R62). -/
def State.resetEngine (s : State) (e : EngineId) (io : HostIO) : State :=
  let s := (s.engineKeys e).foldl (fun s k => s.stopRequest k io) s
  let s := if e = .innkeeper then s.stopCommits else s
  let s := match e with
    | .channel c => s.modCsu c fun u => { u with queue := [], runs := [], holdBack := false }
    | _ => s
  match engineArb e with
  | some a => s.modArb a fun a => { a with granted := [], locked := false }
  | none => s

/-! ### Hard faults (R564 to R569, R573, R575) -/

/-- Service stop (R573): the event log names the domain; a node reset follows, and the boot ROM serves from then on. -/
def State.serviceStop (s : State) (e : Element) : State :=
  ((s.modSpares fun x => { x with serviceStop := true }).logElement 9 e 0).nodeReset 0x12

/-- Journal pages of a channel are lost, those of the entries that `gone` names by their place (R575); what is not programmed there
yet goes to another channel. -/
def State.loseJournal (s : State) (channel : Nat) (gone : Nat → Bool) : State :=
  let ch := if (s.tier.channels.getD channel {}).offline then s.journalChannel else channel
  s.modTier fun e =>
    { e with journal := e.journal.mapIdx fun i j =>
        if j.channel != channel || j.void then j
        else if j.phase == .waiting || j.phase == .programming then { j with channel := ch, phase := .waiting }
        else if gone i then { j with pageLost := true } else j }

/-- A channel's sequencer or bus fails (R569, R575): it is offline and its pages are lost. Model stripes lie on every channel. -/
def State.channelOff (s : State) (e : Element) : State :=
  let c := e.domain
  let s := (s.goOffline e).modChannel c fun x => { x with offline := true }
  let pages := s.lists.flatMap fun l => (l.versions.filter (·.channel == c)).flatMap fun v => (List.range v.pages.length).map fun i => (l.id, v.epoch, i)
  let rows := s.shards.flatMap fun d =>
    (d.slots.filter fun x => x.home == .t2 && x.born && !x.bit && !x.lost && s.rowChannelOf x.num == c).map fun x => (d.id, x.num)
  let s := pages.foldl (fun s x => s.losePage x.1 x.2.1 x.2.2) s
  let s := (rows.foldl (fun s x => s.loseRow x.1 x.2) s).loseJournal c fun _ => true
  let s : State := { s with models := s.models.map fun m => { m with degraded := m.degraded || m.t2 != 0 } }
  s.logElement 6 e (16384 * pages.length + 16384 * rows.length)

/-- Another die of the channel is being rebuilt or waits for it (R572). -/
def State.dieRebuilt (s : State) (e : Element) : Bool :=
  flashDie e && s.spares.recoveries.any fun r => r.domain == domainOf e && r.elements.any fun x => flashDie x && x != e

/-- A second die of a channel fails: the stripes not yet rebuilt miss two members, and their pages of both dies are lost (R572,
R575). Which pages these are is free. -/
def State.loseStripes (s : State) (e : Element) : State :=
  let c := e.domain
  let (i, s) := s.takeFree
  let (j, s) := s.takeFree
  let (k, s) := s.takeFree
  let (m, s) := s.takeFree
  let pages := s.lists.flatMap fun l => (l.versions.filter (·.channel == c)).flatMap fun v => (List.range v.pages.length).map fun i => (l.id, v.epoch, i)
  let rows := s.shards.flatMap fun d =>
    (d.slots.filter fun x => x.home == .t2 && x.born && !x.bit && !x.lost && s.rowChannelOf x.num == c).map fun x => (d.id, x.num)
  let pages := (pages.zipIdx.filter fun x => bit (Config.freeNat i) x.2).map (·.1)
  let rows := (rows.zipIdx.filter fun x => bit (Config.freeNat j) x.2).map (·.1)
  let s := pages.foldl (fun s x => s.losePage x.1 x.2.1 x.2.2) s
  let s := (rows.foldl (fun s x => s.loseRow x.1 x.2) s).loseJournal c fun i => bit (Config.freeNat m) i
  let s : State := { s with models := s.models.mapIdx fun n m => { m with degraded := m.degraded || (m.t2 != 0 && bit (Config.freeNat k) n) } }
  s.logElement 6 e (16384 * pages.length + 16384 * rows.length)

/-- A core fails: the guest that runs on it stops (R465, R467, R564). -/
def State.coreLost (s : State) (e : Element) : State :=
  match (List.range 128).find? fun f => (s.corePlace e.domain).any fun p => (s.fn f).cores.contains p with
  | some f => s.modFn f fun x => if x.guestState = 2 then { x with guestState := 3 } else x
  | none => s

/-- The domain and element are built and in service (R13). -/
def State.elementBuilt (s : State) (e : Element) : Bool :=
  !s.spares.offline.contains e &&
  (if e.kind = 0 then s.channelOn e.domain && !(s.tier.channels.getD e.domain {}).offline
   else if e.kind = 1 then s.stacksOn.contains e.domain
   else if e.kind = 2 then e.domain == 4 || s.tileOn e.domain
   else if e.kind = 3 then s.portOn e.domain
   else e.kind == 4 && (s.corePlace e.domain).any fun p =>
     s.tileOn (p / 8) && (e.domain == p || decide (32 ≤ e.domain)) && (s.spares.corePlaces.find? (·.2 == p)).all (·.1 == e.domain))

/-- A hard trigger (R564 to R569). -/
def State.hardTrigger (s : State) (e : Element) : State :=
  let s := s.logElement 1 e 0
  let s := match arrayOf e with | some a => s.modArr a fun r => { r with st := 3 } | none => s
  if e.kind = 4 then (s.coreLost e).recover e
  else if e.kind = 3 then s
  else if s.dieRebuilt e then (s.loseStripes e).recover e
  else if flashDie e || csuArray e || coarseArray e || cluster e then s.recover e
  else if e.kind = 0 then s.channelOff e
  else if dramDie e && s.ao.opt.sparePolicy != 1 && s.spareLeft e then (s.useSpare e).nodeReset 0x12
  else (s.goOffline e).serviceStop e

/-- HARD_FAULT (R564 to R569, R573, R575): a core, cluster, array or flash die asks for its recovery; a DRAM die's spare comes in
over a node reset; lanes follow R470; anything else stops the channel or the service. -/
def execHardFault (e : Element) (t : Nat) (s : State) : Result :=
  let s := s.at t
  .next (if s.alive && s.elementBuilt e then s.hardTrigger e else s)

/-- The element that fails with an engine (R568): the channel's sequencer, the stack's controller, a cluster of the tile, the tile's
Porter slice; what lies on the hub has no spare of its own. -/
def engineElement : EngineId → Element
  | .channel c => ⟨0, c, 35⟩
  | .stack c => ⟨1, c, 16⟩
  | .coarseField => ⟨2, 4, 72⟩
  | .tensor t => ⟨2, t, 0⟩
  | .porter t => ⟨2, t, 8⟩
  | .innkeeper => ⟨2, 4, 73⟩
  | .ledger _ => ⟨2, 4, 74⟩

/-- A reset of a unit counts; the third within 600 s is a hard trigger (R568). -/
def State.countReset (s : State) (e : EngineId) : State :=
  let recent := s.spares.unitResets.filter fun x => decide (s.now < x.2 + 600 * Config.ticksPerS)
  let n := (recent.filter (·.1 == e)).length + 1
  if 3 ≤ n then
    (s.modSpares fun x => { x with unitResets := recent.filter (·.1 != e) }).hardTrigger (engineElement e)
  else s.modSpares fun x => { x with unitResets := recent ++ [(e, s.now)] }

/-- UNIT_RESET (R52, R568, R584): a failed tag check resets the unit. -/
def execUnitReset (e : EngineId) (io : HostIO) (t : Nat) (s : State) : Result :=
  let s := s.at t
  .next (if s.ao.stage == .serving then ((s.log 5 4 []).resetEngine e io).countReset e else s)

/-- The engine that a unit that wakes is part of; what has none is Innkeeper's to start. -/
def wakeEngine : UnitId → EngineId
  | .csu c => .channel c
  | .cluster n => .tensor (n / 4)
  | .lull n => if n < 32 then .stack n else if n < 64 then .channel (n - 32) else if n = 68 then .coarseField else .innkeeper
  | _ => .innkeeper

/-- The unit that holds a grant: the CSU's channel, the slice, the unit that wakes, or the unit the arbiter serves. -/
def grantUnit (arb : Nat) : Option Work → EngineId
  | some (.row t _ _ _) => .porter t
  | some (.page c) => .channel c
  | some (.wake u) => wakeEngine u
  | _ =>
    if arb < 0x20 then .channel arb
    else if arb < 0x60 then .stack (arb - 0x40)
    else if arb = 0x80 then .coarseField
    else .tensor (arb - 0x90)

/-- A wake that hangs at the power-sequencer arbiter ends, its unit is gated again (R62). -/
def State.endWakes (s : State) : State :=
  (s.arb 0xA1).granted.foldl (fun s r => match r.work with
    | .wake u => (s.setUnit u .gated).arbEnd 0xA1 r.work
    | _ => s.arbEnd 0xA1 r.work) s

/-- RESOURCE_WATCHDOG_BITE (R61 to R63, R571, R584): a request waits and no grant was made for 50 ms, in which a grant was held or the
request waited. The unit that holds the grant is reset and the oldest waiting request granted; a ledger arbiter has no grant outside
its locked sequence, so there the oldest request is stamped; where Innkeeper holds the grant the standby pair takes over; the
recovery arbiter's watchdog is RECOVERY_STALL. -/
def execResourceWatchdogBite (arb : Nat) (io : HostIO) (t : Nat) (s : State) : Result :=
  let s := s.at t
  let a := s.arb arb
  let late := fun (x : Nat) => decide (x + 50 * Config.ticksPerMs ≤ s.now)
  let known := arb < 0x20 || (0x40 ≤ arb && arb < 0x60) || arb = 0x80 || (0x90 ≤ arb && arb < 0x94) || arb = 0xA0 || arb = 0xA1
  match s.shards.find? fun d => d.ledger + 0x1000 == arb with
  | some d =>
    if !late a.lastGrant || !d.waiting.any (fun r => late r.1) then .next s
    else execLedgerStamp d.id t (s.log 5 1 (toLE 2 arb ++ toLE 1 a.owner))
  | none =>
  let held := !a.granted.isEmpty && !a.waiting.isEmpty
  if !known || !late a.lastGrant || !(held || a.waiting.any fun r => late r.at_) then .next s
  else
    let s := s.log 5 1 (toLE 2 arb ++ toLE 1 a.owner)
    let e := grantUnit arb (a.granted.head?.map fun (r : ArbReq) => r.work)
    if arb = 0xA0 then .next s.takeOver
    else if arb = 0xA1 then
      if a.granted.isEmpty then execGustGrant t s
      else if e = .innkeeper then execGustGrant t s.takeOver.endWakes
      else execGustGrant t ((s.endWakes.resetEngine e io).countReset e)
    else
      let s := (s.resetEngine e io).modArb arb fun a => { a with granted := [], locked := false }
      let s := match oldest arb (s.arb arb).waiting with
        | some r => s.arbGive arb r true
        | none => s
      .next (s.countReset e)

/-! ### Spares and recoveries (R564, R565, R570 to R574) -/

/-- Repair rows of a stack used so far. -/
def State.repairRows (s : State) (stack : Nat) : Nat := ((s.spares.rowsUsed.find? (·.1 == stack)).map (·.2)).getD 0

/-- A row of a stack: element 32 or above names a row of die `element - 32`. -/
def dramRow (e : Element) : Bool := e.kind == 1 && decide (32 ≤ e.element) && decide (e.element < 48)

/-- SPARE_PREDICTIVE_TRIGGER (R564, R565): `errors` has been counted for the element, in 24 h or in all. A row takes a repair row, and
without one left its die is copied; the others are copied to a spare of their kind. Under spare_policy 1 nothing is brought in. -/
def execSparePredictiveTrigger (e : Element) (errors t : Nat) (s : State) : Result :=
  let s := s.at t
  if s.ao.stage != .serving || !s.elementBuilt e || s.ao.opt.sparePolicy == 1 then .next s
  else
    let copy := fun (x : Element) => if s.spareLeft x then s.replaceElement x else s
    if dramRow e then
      if errors ≤ 16 then .next s
      else
        let used := s.repairRows e.domain
        if used < 1024 then
          .next (s.modSpares fun x => { x with rowsUsed := x.rowsUsed.filter (·.1 != e.domain) ++ [(e.domain, used + 1)] })
        else .next (copy ⟨1, e.domain, e.element - 32⟩)
    else
      let over_ := if e.kind = 4 then decide (64 < errors) else if cluster e then decide (16 < errors)
        else if dramDie e then decide (4096 < errors) else flashDie e && decide (41 < errors)
      .next (if over_ then copy e else s)

/-- RECOVERY_GRANT (R570 to R572): up to four recoveries run, the oldest waiting request first; its elements take spares, or go
offline. -/
def execRecoveryGrant (t : Nat) (s : State) : Result :=
  let s := s.at t
  let a := s.arb 0xA2
  if 4 ≤ a.granted.length then .next s
  else
    match oldest 0xA2 a.waiting with
    | none => .next s
    | some g =>
      let s := s.arbGive 0xA2 g true
      match g.work with
      | .recovery d =>
        match s.spares.recoveries.find? (·.domain == d) with
        | none => .next s
        | some r =>
          let s := s.modSpares fun x =>
            { x with recoveries := modWhere x.recoveries (·.domain == d) fun r => { r with running := true, spareTaken := true, progressAt := s.now } }
          let s := match r.elements with | e :: _ => s.logElement 2 e 0 | [] => s
          .next (if r.spareTaken then s else r.elements.foldl (fun s e => s.spareOrOffline e) s)
      | _ => .next s

/-- RECOVERY_STALL (R571, R584): a granted recovery has journaled no progress for 10 s; it restarts from its journal. -/
def execRecoveryStall (domain t : Nat) (s : State) : Result :=
  let s := s.at t
  match s.spares.recoveries.find? (·.domain == domain) with
  | none => .next s
  | some r =>
    if !r.running || s.now < r.progressAt + 10 * Config.ticksPerS then .next s
    else
      let s := s.modSpares fun x =>
        { x with recoveries := modWhere x.recoveries (·.domain == domain) fun r => { r with progressAt := s.now, restarts := r.restarts + 1 } }
      .next (s.log 5 1 (toLE 2 0xA2 ++ toLE 1 domain))

/-- RECOVERY_END (R570, R574, R584): the recovery is over, and the next may be granted. Doldrums holds its programs. -/
def execRecoveryEnd (domain t : Nat) (s : State) : Result :=
  let s := s.at t
  match s.spares.recoveries.find? (·.domain == domain) with
  | none => .next s
  | some r =>
    if !r.running || s.pwr.doldrums then .next s
    else
      let s := (s.modSpares fun x => { x with recoveries := x.recoveries.filter (·.domain != domain) }).arbEnd 0xA2 (.recovery domain)
      .next (match r.elements with | e :: _ => s.logElement 4 e 0 | [] => s)

/-! ### Regeneration and lost shards (R576 to R578) -/

/-- A list is named by a row's list field, directly or as a successor of the list named (R295). -/
def State.namesList (s : State) (field list : Nat) : Bool := field != noList && (s.resolve 64 field).contains list

/-- A list that the field names still has the identifier's record at `cut`. -/
def State.recordLeft (s : State) (field id cut : Nat) : Bool :=
  (s.resolve 64 field).any fun i => match s.list? i with
    | some l => (l.recordsAt cut).any fun x => x.1.id == id
    | none => false

/-- The scan records of a degraded list that its rows give back at `cut` (R576 step 2). -/
def State.regenerated (s : State) (c : Coll) (d : Shard) (l : LList) (cut : Nat) : List ScanRec :=
  d.slots.filterMap fun x =>
    match d.rowAt x cut with
    | .row r _ =>
      let make := fun (second : Bool) => formScan c.spec d.matrix x.id (qValues r.groups) (!r.lex.isEmpty) second
      if x.lost then none
      else if s.namesList r.list l.id && !s.recordLeft r.list x.id cut then some (make false)
      else if s.namesList r.second l.id && !s.recordLeft r.second x.id cut then some (make true)
      else none
    | _ => none

/-- Vectors of a degraded list whose record and row are both lost (R577). -/
def State.vectorsLost (s : State) (d : Shard) (l : LList) (cut : Nat) : Nat :=
  (d.slots.filter fun x =>
    x.lost && x.born && !x.bit && s.namesList x.row.list l.id && !s.recordLeft x.row.list x.id cut).length

/-- One degraded list switches to its regenerated version at W (R576 steps 3 and 4); the old one is released as after a compaction. -/
def State.regenList (s : State) (c : Coll) (d : Shard) (cut w : Nat) (l : LList) : State :=
  let epoch := (l.versions.foldl (fun n v => max n v.epoch) 0) + 1
  let recs := d.keeps l cut ++ s.regenerated c d l cut
  let pages := fillPages (scanBytes c.spec.projection) (versionRecords epoch recs) 0 []
  let ch := s.compactChannel l.channel
  let s := if pages.isEmpty then s
    else (s.modFn (s.chargedFn c) (·.charge .t2 (16384 * pages.length))).programBytes ch (16384 * pages.length)
  s.modList l.id fun l =>
    { l with versions := l.versions ++ [⟨epoch, cut, w, pages, ch, false, [], s.packs c l⟩], channel := ch, degraded := false,
             maint := some ⟨0, cut, false, none, s.now, s.now, true, some w⟩ }

/-- REGENERATION_SWITCH (R576, R577, R584, R604): every degraded list of the shard gets its new version in one locked sequence, behind
what waits at the shard's ledger arbiter. It waits for maintenance of those lists, for Doldrums to end, for free blocks (R422) and for
room in the buffer. -/
def execRegenerationSwitch (shard t : Nat) (s : State) : Result :=
  let s := s.at t
  match s.shard? shard, (s.shard? shard).bind (·.regen), (s.shard? shard).bind fun d => s.coll? d.coll with
  | some d, some cut, some c =>
    let ls := (s.liveLists shard).filter (·.degraded)
    if s.pwr.doldrums || s.commitLimit || ls.any (fun l => l.maint.isSome || s.programsWait (s.compactChannel l.channel)) then
      .next (s.quitLedger (.pass .regen) shard)
    else .next (s.passLedgers [shard] (.pass .regen) fun s =>
      let n := s.degradedCount
      let lost := ls.foldl (fun n l => n + s.vectorsLost d l cut) 0
      let (w, s') := s.takeSwitch shard
      let s' := ls.foldl (fun y l => y.regenList c d cut w l) s'
      let s' := (s'.modShard shard fun d => { d with regen := none }).dropReader shard .regen
      let s' := s'.modTier fun e => { e with lostVectors := e.lostVectors + lost }
      let ch := (ls.head?.map (·.channel)).getD 0
      (s'.log 8 8 (toLE 4 (elementWord 0 ch 0) ++ toLE 8 ls.length)).degradedEvent n)
  | _, _, _ => .next s

/-- The owner of a shard has been unreachable for shard_lost_after_s (R578). -/
def State.ownerGone (s : State) (shard : Nat) : Bool :=
  match s.ownerOf shard with
  | none => false
  | some o => o != s.nodeId && s.peers.any fun p =>
      p.node == o && p.route == 0 && decide (p.downSince + s.cfg.shardLostAfter * Config.ticksPerS ≤ s.now)

/-- SHARD_LOST (R537, R575, R578): the members delivered to the shard's owner and still open complete with ST_DEGRADED, detail 0. -/
def execShardLost (shard : Nat) (ownerReports : Bool) (io : HostIO) (t : Nat) (s : State) : Result :=
  let s := s.at t
  if !ownerReports && !s.ownerGone shard then .next s
  else
    let own := s.ownerOf shard == some s.nodeId
    let s := if own then s.modShard shard fun d => { d with lost := true } else s
    let here := if own then s.eng.members.filter fun m => m.msg.shard == shard && m.stage != .stamped && m.stage != .finished else []
    let s := here.foldl (fun s m => s.endMember m.msg.key m.msg.index stDegraded 0) s
    let open_ := s.reqs.flatMap fun r => match r.body with
      | .mutation ms => (ms.zipIdx.filter fun x => x.1.msg.shard == shard && x.1.delivered && x.1.outcome.isNone).map fun x => (r.num, x.2)
      | _ => []
    .next (open_.foldl (fun s x => s.takeOutcome ⟨s.nodeId, x.1⟩ x.2 ⟨0, stDegraded, 0, shard⟩ io) s)

end Sys2Proof.Machine
end

