-- ==== Sys2Proof/Machine/Registers.lean ====
section
/-! DEFINITION. Meanings of the register commands: mailbox and queue doorbells, register writes, the read-sensitive reads
and the clearing of MSI-X masks. -/

namespace Sys2Proof.Machine

open Sys2Proof

/-- MBX_DOORBELL (R79, R82, R92): posts the command when go is 1 in IDLE; outside IDLE it sets overrun; it is ignored while
ready is 0 and when go is 0. -/
def execMbxDoorbell (fn : Nat) (v : BitVec 32) (t : Nat) (s : State) : Result :=
  let s := s.at t
  if !(s.fnExists fn && (s.fn fn).ready) then .next s
  else if !v.getLsbD 0 then .next s
  else if (s.mbox fn).st != .idle then .next (s.modMbox fn fun m => { m with overrun := true })
  else
    .next ((s.modMbox fn fun m =>
      { m with st := .posted, sequence := v.extractLsb' 16 16, postedAt := s.now }).arbRequest 0xA0 fn false false
      (.mailbox fn))

/-- MBX_ACK (R82): returns a mailbox in DONE to IDLE; in any other state it sets overrun. -/
def execMbxAck (fn : Nat) (v : BitVec 32) (s : State) : Result :=
  if !(s.fnExists fn && v.getLsbD 0) then .next s
  else if (s.mbox fn).st == .done then .next (s.modMbox fn fun m => { m with st := .idle })
  else .next (s.modMbox fn fun m => { m with overrun := true })

/-- The queue that a doorbell slot of a function serves when the write is not ignored (R79, R119, R120). -/
def State.doorbellQueue (s : State) (fn slot width : Nat) : Option Queue :=
  let x := s.fn fn
  if width = 4 && s.fnExists fn && x.ready && decide (slot < x.queueCount) then s.queue? (x.queueFirst + slot) else none

/-- DBL_SQ_TAIL (R120 to R122, R124, R141): checked on an ACTIVE queue, ignored on any other. -/
def execDblSqTail (fn slot width : Nat) (v : BitVec 32) (t : Nat) (s : State) : Result :=
  let s := s.at t
  match s.doorbellQueue fn slot width with
  | none => .next s
  | some u =>
    let tail := v.toNat % 65536
    let n := u.sqSize
    if u.st != .active then .next s
    else if n ≤ tail then .next (s.queueError u.num 1)
    else if (tail + n - u.sqHead) % n < (u.sqTail + n - u.sqHead) % n then .next (s.queueError u.num 2)
    else
      .next (s.modQueue u.num fun u =>
        { u with sqTail := tail, doorbellAt := if u.sqTail = u.sqHead && tail != u.sqTail then s.now else u.doorbellAt })

/-- DBL_CQ_HEAD (R120, R121, R123, R141): checked on an ACTIVE or DRAINING queue. -/
def execDblCqHead (fn slot width : Nat) (v : BitVec 32) (s : State) : Result :=
  match s.doorbellQueue fn slot width with
  | none => .next s
  | some u =>
    let head := v.toNat % 65536
    let n := u.cqSize
    if u.st == .error then .next s
    else if head < n && (head + n - u.cqHead) % n ≤ (u.cqTail + n - u.cqHead) % n then
      .next (s.modQueue u.num fun u => { u with cqHead := head })
    else .next (s.queueError u.num 3)

/-- An access of 1, 2, 4 or 8 bytes at a multiple of its width (R78). -/
def naturalAccess (offset width : Nat) : Bool :=
  (width == 1 || width == 2 || width == 4 || width == 8) && offset % width == 0

/-- A read of `width` bytes of BAR 0 (R78): of a natural width and alignment, 4 or 8 bytes wide, in the request and response areas
also 1 or 2; any other reads 0, as reserved space does. -/
def State.barRead (s : State) (fn offset width : Nat) : Nat :=
  let area := decide (0x1100 ≤ offset) && decide (offset < 0x2000)
  if naturalAccess offset width && (area || decide (4 ≤ width)) then field (s.readRegister fn (offset / 8 * 8)) (8 * (offset % 8)) (8 * width) else 0

/-- The 8 bytes of a register after `w` bytes of them from byte `sh` on have been written with `v`. -/
def mergeLanes (old sh w v : Nat) : Nat :=
  old - field old (8 * sh) (8 * w) * 2 ^ (8 * sh) + v % 2 ^ (8 * w) * 2 ^ (8 * sh)

/-- Set a vector's table entry word: the mask's clearing sends a held message (R450, R453). -/
def State.writeVec (s : State) (f v : Nat) (upper : Bool) (new : Nat) : State :=
  let s := s.modFn f fun x =>
    { x with vecs := x.vecs.modify v fun e =>
      if upper then { e with data := BitVec.ofNat 32 new, mask := bit new 32 }
      else { e with addrLo := BitVec.ofNat 32 new, addrHi := BitVec.ofNat 32 (new / 2 ^ 32) } }
  s.releaseVec f v

/-- Send every message that was held by the masks alone (R453), in ascending vector order (DESIGN CHOICE). -/
def State.releaseAll (s : State) (f : Nat) : State := (List.range 64).foldl (fun s v => s.releaseVec f v) s

/-- A register write after the width and alignment checks: `o` is the 8-byte aligned offset, `new` the 8 bytes after the
write, `ones` the bits written with 1 (for RW1C fields). -/
def State.putRegister (s : State) (f o new ones : Nat) : State :=
  let clr (i : Nat) (b : Bool) : Bool := b && !bit ones i
  if o = 0x0018 then
    s.modFn f fun x =>
      { x with evMbxDone := clr 0 x.evMbxDone, evQueueError := clr 1 x.evQueueError, evQuota := clr 2 x.evQuota,
               evPool := clr 3 x.evPool }
  else if o = 0x1008 then
    s.modMbox f fun m => { m with overrun := clr 48 m.overrun, discarded := clr 49 m.discarded }
  else if o = 0x1018 then
    s.modMbox f fun m => { m with vector := BitVec.ofNat 6 new, irqEnable := bit new 6 }
  else if 0x2000 ≤ o && o < 0x2400 then s.writeVec f ((o - 0x2000) / 16) (o % 16 == 8) new
  else if o = 0x2C00 then s.modFn f fun x => { x with cqSelect := BitVec.ofNat 16 new }
  else if o = 0x2C08 then
    match s.selectedQueue f with
    | none => s
    | some u =>
      s.modQueue u.num fun u =>
        { u with coalCount := BitVec.ofNat 16 new, coalDelay := BitVec.ofNat 16 (new / 2 ^ 16), irqEnable := bit new 32 }
  else if f ≠ 0 then s
  else if o = 0x20000 then { s with arbSelect := BitVec.ofNat 16 new, arbRequester := BitVec.ofNat 8 (new / 2 ^ 16) }
  else if o = 0x23018 then s.modPwr fun p => { p with events := p.events &&& ~~~(BitVec.ofNat 6 ones) }
  else if o = 0x25000 then { s with portSelect := BitVec.ofNat 3 new }
  else s

/-- Where the model places the MSI-X Message Control register of a function's configuration space (DESIGN CHOICE: the
number is the model's; R436 and R453 name the capability, PCI Express its bits 15 and 14). -/
def msixControl : Nat := 0x100000

/-- REGISTER_WRITE (R20, R78, R81, R450): a write to a register with no row of its own. Accesses are 4 or 8 bytes and
naturally aligned, in the request area also 1 or 2; others are ignored, as are writes to read-only and reserved places. -/
def execRegisterWrite (fn offset width : Nat) (v : BitVec 64) (s : State) : Result :=
  if !s.fnExists fn then .next s
  else if offset = msixControl then
    let s := s.modFn fn fun x => { x with msixEnable := v.getLsbD 15, fnMask := v.getLsbD 14 }
    .next (if v.getLsbD 14 then s else s.releaseAll fn)
  else
    let area := decide (0x1100 ≤ offset) && decide (offset < 0x1800)
    if !naturalAccess offset width then .next s
    else if area then
      .next (s.modMbox fn fun m => { m with req := memWriteAll m.req (offset - 0x1000) (toLE width v.toNat) })
    else if width != 4 && width != 8 then .next s
    else
      let o := offset / 8 * 8
      let sh := offset % 8
      .next (s.putRegister fn o (mergeLanes (s.readRegister fn o) sh width v.toNat)
        (v.toNat % 2 ^ (8 * width) * 2 ^ (8 * sh)))

/-- ARB_GRANTS_READ (R59, R60): the grants since the last read; the wait counters are captured and the live counters of the
selected requester cleared. -/
def execArbGrantsRead (s : State) : Result :=
  match s.arbSelected with
  | none => .next (s.emit (.readData 0))
  | some c =>
    .next (({ s with arbWaitTotal := BitVec.ofNat 64 c.waitTotal, arbWaitMax := BitVec.ofNat 64 c.waitMax }.modArb
      s.arbSelect.toNat fun a => { a with stats := a.stats.filter (·.requester != c.requester) }).emit
      (.readData (BitVec.ofNat 64 c.grants)))

/-- INT_HELD_READ (R450): the count of held messages, cleared by the read. -/
def execIntHeldRead (fn : Nat) (s : State) : Result :=
  if !s.fnExists fn then .next s
  else .next ((s.modFn fn fun x => { x with heldCount := 0 }).emit (.readData ((s.fn fn).heldCount.setWidth 64)))

/-- PWR_GUST_WAITS_READ (R530): the waits since the last read; the total and the longest are captured, all three cleared. -/
def execPwrGustWaitsRead (s : State) : Result :=
  .next ((s.modPwr fun p =>
    { p with gustTotalCap := p.gustTotal, gustMaxCap := p.gustMax, gustWaits := 0, gustTotal := 0, gustMax := 0 }).emit
    (.readData (BitVec.ofNat 64 s.pwr.gustWaits)))

/-- PORT_COUNTER_READ (R492): one of PORT_ERRORS, PORT_TX_BYTES, PORT_RX_BYTES and PORT_CREDIT_WAIT of the port that
PORT_SELECT names, cleared by the read; any other offset is no read-sensitive counter. -/
def execPortCounterRead (offset : Nat) (s : State) : Result :=
  let p := s.portSelect.toNat
  let q := s.port p
  if offset = 0x018 then
    .next ((s.modPort p fun q =>
      { q with retries := 0, tagDiscards := 0, uncorrectable := 0, swaps := 0, retrains := 0 }).emit
      (.readData (BitVec.ofNat 64 q.errorsWord)))
  else if offset = 0x028 then .next ((s.modPort p fun q => { q with txBytes := 0 }).emit (.readData q.txBytes))
  else if offset = 0x030 then .next ((s.modPort p fun q => { q with rxBytes := 0 }).emit (.readData q.rxBytes))
  else if offset = 0x038 then .next ((s.modPort p fun q => { q with creditWait := 0 }).emit (.readData q.creditWait))
  else .next s

/-- MSIX_VECTOR_UNMASK (R453, R455): the vector's mask is cleared and its held message sent, subject to the ceiling. -/
def execMsixVectorUnmask (fn vec t : Nat) (s : State) : Result :=
  let s := s.at t
  if !s.fnExists fn then .next s
  else
    .next ((s.modFn fn fun x => { x with vecs := x.vecs.modify vec fun e => { e with mask := false } }).releaseVec fn vec)

/-- MSIX_FUNCTION_MASK_CLEAR (R453): Function Mask is cleared and the messages held by it are sent. -/
def execMsixFunctionMaskClear (fn t : Nat) (s : State) : Result :=
  let s := s.at t
  if !s.fnExists fn then .next s
  else .next ((s.modFn fn fun x => { x with fnMask := false }).releaseAll fn)

end Sys2Proof.Machine
end

