-- ==== Sys2Proof/Machine/Sideband.lean ====
section
/-! DEFINITION. Meanings of the sideband: I3C addresses, MCTP control, PLDM, and Zizon requests of requester 128 (R535, R601 to
R604). The MCTP and PLDM encodings are the DMTF's, outside the manual (log 20). -/

namespace Sys2Proof.Machine

open Sys2Proof

/-- Private transfers reach the endpoint: it has its dynamic address, and no reset NACKs them (R535). -/
def State.endpointUp (s : State) : Bool := s.targetUp && s.ao.stage != .inReset && s.pins.i3cAddr.isSome

/-- An answer of the endpoint, when transfers reach it. -/
def State.answerMctp (s : State) (data : List Nat) : State := if s.endpointUp then s.emit (.mctp data) else s

/-- ENTDAA (R601): a target without a dynamic address takes one. -/
def execEntdaa (addr : Nat) (s : State) : Result :=
  .next (if s.targetUp && s.pins.i3cAddr.isNone then s.modPins fun p => { p with i3cAddr := some addr } else s)

/-- SETDASA (R590, R601): the same at static address 0x30 + SLOT_ID. -/
def execSetdasa (staticAddr addr : Nat) (s : State) : Result :=
  .next (if s.targetUp && s.pins.i3cAddr.isNone && staticAddr == 0x30 + s.pins.slotId % 16 then
      s.modPins fun p => { p with i3cAddr := some addr }
    else s)

/-- SET_ENDPOINT_ID (R602): completion code 0, accepted, the identifier; one that MCTP reserves is refused. -/
def execSetEndpointId (eid : Nat) (s : State) : Result :=
  .next (if !s.endpointUp then s
    else if eid < 8 || 254 < eid then s.answerMctp [2]
    else (s.modPins fun p => { p with eid := eid }).answerMctp [0, 0, eid, 0])

/-- GET_ENDPOINT_ID (R602). -/
def execGetEndpointId (s : State) : Result := .next (s.answerMctp [0, s.pins.eid, 0, 0])

/-- GET_ENDPOINT_UUID (R602). -/
def execGetEndpointUuid (s : State) : Result := .next (s.answerMctp (0 :: (slice Config.endpointUuid 0 16).map (·.toNat)))

/-- GET_MCTP_VERSION_SUPPORT (R602): one version; the manual does not say which, so its entry is a free value. -/
def execGetMctpVersionSupport (s : State) : Result :=
  let (i, s) := s.takeFree
  .next (s.answerMctp [0, 1, Config.freeNat i % 2 ^ 32])

/-- GET_MESSAGE_TYPE_SUPPORT (R602): MCTP control, PLDM, PCI vendor-defined. -/
def execGetMessageTypeSupport (s : State) : Result := .next (s.answerMctp [0, 3, 0x00, 0x01, 0x7E])

/-- FRU data (R604): the serial number, the ordering number DV-KN8-A1, the manufacturing date. -/
def fruData : List Nat :=
  (slice Config.serial 0 16).map (·.toNat) ++ [0x44, 0x56, 0x2D, 0x4B, 0x4E, 0x38, 0x2D, 0x41, 0x31] ++
  Config.manufacturingDate.map (·.toNat)

/-- The reading of a sensor (Table: PLDM sensors), in the unit of its source. -/
def State.sensorReading (s : State) : Nat → Option Nat
  | 1 => some s.pwr.inputMv
  | 2 => some s.pwr.inputMa
  | 3 => some s.pwr.inputW
  | 4 => some (hottest s.pwr.junctions).2
  | 5 => some s.pwr.inletC
  | 6 => some s.pwr.st.code
  | 7 => some (b2n s.pwr.doldrums)
  | 8 => some s.degradedCount
  | _ => none

/-- PLDM_SENSOR_READ (R604): a sensor by its number, or the FRU data; an unknown sensor is answered with PLDM's code 0x80. -/
def execPldmSensorRead (sensor : Option Nat) (s : State) : Result :=
  match sensor with
  | none => .next (s.answerMctp (0 :: fruData))
  | some n =>
    match s.sensorReading n with
    | some v => .next (s.answerMctp [0, v])
    | none => .next (s.answerMctp [0x80])

/-- POLL_FOR_PLATFORM_EVENT_MESSAGE (R604): the oldest pending event is collected; with none the answer says so. -/
def execPollForPlatformEventMessage (s : State) : Result :=
  if !s.endpointUp then .next s
  else
    match s.pins.platform with
    | [] => .next (s.answerMctp [0, 0])
    | e :: rest => .next ((s.modPins fun p => { p with platform := rest }).answerMctp [0, 1, e.1, e.2])

/-- SIDEBAND_ZIZON_REQUEST (R83, R92, R603): the request of requester 128 waits at the mailbox arbiter; while 128 holds a command,
another is answered at once with ST_RETRY, detail 2. -/
def execSidebandZizonRequest (request input : Bytes) (t : Nat) (s : State) : Result :=
  let s := s.at t
  let served := s.ao.stage == .serving || s.ao.stage == .waitBme || s.ao.stage == .recovery
  if !s.endpointUp || !served then .next s
  else if (s.mbox 128).st != .idle then
    .next (s.emit (.sideband (responseBytes (le request 0 2) stRetry 2 0 [] 0) []))
  else
    let s := s.modMbox 128 fun _ => { st := .posted, copy := slice request 0 1792, input := some input, postedAt := s.now }
    .next (s.arbRequest 0xA0 128 false false (.mailbox 128))

end Sys2Proof.Machine
end

