-- ==== Sys2Proof/Machine/Dispatch.lean ====
section
/-! DEFINITION. Dispatch: one arm for each command, a direct call of its meaning. -/

namespace Sys2Proof.Machine

open Sys2Proof

/-- The effect of one command on everything but the queue of waiting commands. -/
def exec (i : Instr) (s : State) : Host.Outcome State Fault Refusal :=
  match i with
  | .mbxDoorbell fn v t => Sys2Proof.Machine.execMbxDoorbell fn v t s
  | .mbxAck fn v => Sys2Proof.Machine.execMbxAck fn v s
  | .dblSqTail fn slot width v t => Sys2Proof.Machine.execDblSqTail fn slot width v t s
  | .dblCqHead fn slot width v => Sys2Proof.Machine.execDblCqHead fn slot width v s
  | .registerWrite fn offset width v => Sys2Proof.Machine.execRegisterWrite fn offset width v s
  | .arbGrantsRead => Sys2Proof.Machine.execArbGrantsRead s
  | .intHeldRead fn => Sys2Proof.Machine.execIntHeldRead fn s
  | .pwrGustWaitsRead => Sys2Proof.Machine.execPwrGustWaitsRead s
  | .portCounterRead offset => Sys2Proof.Machine.execPortCounterRead offset s
  | .msixVectorUnmask fn vec t => Sys2Proof.Machine.execMsixVectorUnmask fn vec t s
  | .msixFunctionMaskClear fn t => Sys2Proof.Machine.execMsixFunctionMaskClear fn t s
  | .rstNodeRequest v t => Sys2Proof.Machine.execRstNodeRequest v t s
  | .rstColdRequest v t => Sys2Proof.Machine.execRstColdRequest v t s
  | .initiateFunctionLevelReset fn vfReset t => Sys2Proof.Machine.execInitiateFunctionLevelReset fn vfReset t s
  | .vfEnableClear t => Sys2Proof.Machine.execVfEnableClear t s
  | .vfEnableSet numVfs t => Sys2Proof.Machine.execVfEnableSet numVfs t s
  | .functionResetComplete fn t => Sys2Proof.Machine.execFunctionResetComplete fn t s
  | .cancelFilterReceive f t => Sys2Proof.Machine.execCancelFilterReceive f t s
  | .cancelHoldTimeout t => Sys2Proof.Machine.execCancelHoldTimeout t s
  | .identifyNode r t => Sys2Proof.Machine.execIdentifyNode r t s
  | .identifyFunction r t => Sys2Proof.Machine.execIdentifyFunction r t s
  | .identifyCollection r t => Sys2Proof.Machine.execIdentifyCollection r t s
  | .identifyQueue r t => Sys2Proof.Machine.execIdentifyQueue r t s
  | .createQueue r t => Sys2Proof.Machine.execCreateQueue r t s
  | .deleteQueue r t => Sys2Proof.Machine.execDeleteQueue r t s
  | .deleteQueueDrainEnd q t => Sys2Proof.Machine.execDeleteQueueDrainEnd q t s
  | .createCollection r t => Sys2Proof.Machine.execCreateCollection r t s
  | .collectionShardSetup c t => Sys2Proof.Machine.execCollectionShardSetup c t s
  | .createCollectionTailEnd coll peers t => Sys2Proof.Machine.execCreateCollectionTailEnd coll peers t s
  | .collectionAnnounceReceive a => Sys2Proof.Machine.execCollectionAnnounceReceive a s
  | .dropCollection r t => Sys2Proof.Machine.execDropCollection r t s
  | .dropCollectionTailEnd coll t => Sys2Proof.Machine.execDropCollectionTailEnd coll t s
  | .setQuota r t => Sys2Proof.Machine.execSetQuota r t s
  | .setFunction r t => Sys2Proof.Machine.execSetFunction r t s
  | .grantRights r t => Sys2Proof.Machine.execGrantRights r t s
  | .attachPool r t => Sys2Proof.Machine.execAttachPool r t s
  | .attachPoolTailEnd pool probeOk t => Sys2Proof.Machine.execAttachPoolTailEnd pool probeOk t s
  | .detachPool r t => Sys2Proof.Machine.execDetachPool r t s
  | .detachPoolTailEnd pool t => Sys2Proof.Machine.execDetachPoolTailEnd pool t s
  | .getConfig r t => Sys2Proof.Machine.execGetConfig r t s
  | .setConfig r t => Sys2Proof.Machine.execSetConfig r t s
  | .setConfigMoveShard r t => Sys2Proof.Machine.execSetConfigMoveShard r t s
  | .setConfigBringIn r t => Sys2Proof.Machine.execSetConfigBringIn r t s
  | .writeOptions r t => Sys2Proof.Machine.execWriteOptions r t s
  | .writeOptionsTailEnd t => Sys2Proof.Machine.execWriteOptionsTailEnd t s
  | .fwUpdateStage r t => Sys2Proof.Machine.execFwUpdateStage r t s
  | .fwUpdateVerify r t => Sys2Proof.Machine.execFwUpdateVerify r t s
  | .fwUpdateActivate r t => Sys2Proof.Machine.execFwUpdateActivate r t s
  | .fwUpdateStatus r t => Sys2Proof.Machine.execFwUpdateStatus r t s
  | .fwUpdateTailEnd t => Sys2Proof.Machine.execFwUpdateTailEnd t s
  | .attestReport r outOk t => Sys2Proof.Machine.execAttestReport r outOk t s
  | .attestCertificates r outOk t => Sys2Proof.Machine.execAttestCertificates r outOk t s
  | .telemetryAttach r t => Sys2Proof.Machine.execTelemetryAttach r t s
  | .telemetryDetach r t => Sys2Proof.Machine.execTelemetryDetach r t s
  | .telemetrySnapshot r outOk t => Sys2Proof.Machine.execTelemetrySnapshot r outOk t s
  | .getLog r outOk t => Sys2Proof.Machine.execGetLog r outOk t s
  | .innkeeperTakeover t => Sys2Proof.Machine.execInnkeeperTakeover t s
  | .admission entry input cqOk t => Sys2Proof.Machine.execAdmission entry input cqOk t s
  | .coalesceDelayExpiry q t => Sys2Proof.Machine.execCoalesceDelayExpiry q t s
  | .interruptCeilingRefill fn t => Sys2Proof.Machine.execInterruptCeilingRefill fn t s
  | .overPeakEnd fn t => Sys2Proof.Machine.execOverPeakEnd fn t s
  | .timingWheelSlot q port t => Sys2Proof.Machine.execTimingWheelSlot q port t s
  | .egressSend port t => Sys2Proof.Machine.execEgressSend port t s
  | .search num io t => Sys2Proof.Machine.execSearch num io t s
  | .searchShareArrival m t => Sys2Proof.Machine.execSearchShareArrival m t s
  | .ledgerStamp shard t => Sys2Proof.Machine.execLedgerStamp shard t s
  | .ageArbiterGrant arb input t => Sys2Proof.Machine.execAgeArbiterGrant arb input t s
  | .coarseSelection k shard => Sys2Proof.Machine.execCoarseSelection k shard s
  | .level2BatchDepart shard t => Sys2Proof.Machine.execLevel2BatchDepart shard t s
  | .coachBoard shard t => Sys2Proof.Machine.execCoachBoard shard t s
  | .seatWaitTimeout k shard t => Sys2Proof.Machine.execSeatWaitTimeout k shard t s
  | .coachDepart shard t => Sys2Proof.Machine.execCoachDepart shard t s
  | .csuCoachStart csu t => Sys2Proof.Machine.execCsuCoachStart csu t s
  | .csuPageRead csu res t => Sys2Proof.Machine.execCsuPageRead csu res t s
  | .broadcast stack struck t => Sys2Proof.Machine.execBroadcast stack struck t s
  | .overflowPass k => Sys2Proof.Machine.execOverflowPass k s
  | .spillPass k => Sys2Proof.Machine.execSpillPass k s
  | .spillShortDeadline k t => Sys2Proof.Machine.execSpillShortDeadline k t s
  | .formingShardScore k shard => Sys2Proof.Machine.execFormingShardScore k shard s
  | .nodeMerge k => Sys2Proof.Machine.execNodeMerge k s
  | .rerankGather k => Sys2Proof.Machine.execRerankGather k s
  | .porterRowRead tile res t => Sys2Proof.Machine.execPorterRowRead tile res t s
  | .coordinatorAnswerReceive num peer io t => Sys2Proof.Machine.execCoordinatorAnswerReceive num peer io t s
  | .searchTimeout num io t => Sys2Proof.Machine.execSearchTimeout num io t s
  | .insert num io t => Sys2Proof.Machine.execInsert num io t s
  | .delete num io t => Sys2Proof.Machine.execDelete num io t s
  | .upsert num io t => Sys2Proof.Machine.execUpsert num io t s
  | .memberArrival m t => Sys2Proof.Machine.execMemberArrival m t s
  | .insertAssignment k idx => Sys2Proof.Machine.execInsertAssignment k idx s
  | .writeBufferAccept k idx t => Sys2Proof.Machine.execWriteBufferAccept k idx t s
  | .guestbookWaitEnd k idx t => Sys2Proof.Machine.execGuestbookWaitEnd k idx t s
  | .guestbookWaitTimeout k idx t => Sys2Proof.Machine.execGuestbookWaitTimeout k idx t s
  | .formationWaitTimeout k idx t => Sys2Proof.Machine.execFormationWaitTimeout k idx t s
  | .memberOutcomeReceive m io t => Sys2Proof.Machine.execMemberOutcomeReceive m io t s
  | .memberOutcomeQuery num idx r io t => Sys2Proof.Machine.execMemberOutcomeQuery num idx r io t s
  | .gather num peers stamps io t => Sys2Proof.Machine.execGather num peers stamps io t s
  | .scatter num io t => Sys2Proof.Machine.execScatter num io t s
  | .accumulateApply shard slot => Sys2Proof.Machine.execAccumulateApply shard slot s
  | .modelLoadBegin num io t => Sys2Proof.Machine.execModelLoadBegin num io t s
  | .modelLoadPart num io t => Sys2Proof.Machine.execModelLoadPart num io t s
  | .modelLoadCommit num stamps io t => Sys2Proof.Machine.execModelLoadCommit num stamps io t s
  | .modelLoadUnload num stamps io t => Sys2Proof.Machine.execModelLoadUnload num stamps io t s
  | .modelLoadCheckpoint num stamps io t => Sys2Proof.Machine.execModelLoadCheckpoint num stamps io t s
  | .modelLoadPlace num stamps io t => Sys2Proof.Machine.execModelLoadPlace num stamps io t s
  | .modelLoadingExpiry coll model t => Sys2Proof.Machine.execModelLoadingExpiry coll model t s
  | .modelRun num stamps io t => Sys2Proof.Machine.execModelRun num stamps io t s
  | .layerStreamComplete num io t => Sys2Proof.Machine.execLayerStreamComplete num io t s
  | .routedExpertStreamComplete num expert => Sys2Proof.Machine.execRoutedExpertStreamComplete num expert s
  | .activationExchangeReceive k fromNode layer => Sys2Proof.Machine.execActivationExchangeReceive k fromNode layer s
  | .windowRelease coll model t => Sys2Proof.Machine.execWindowRelease coll model t s
  | .trainStep num stamps io t => Sys2Proof.Machine.execTrainStep num stamps io t s
  | .trainSwitch num stamps io t => Sys2Proof.Machine.execTrainSwitch num stamps io t s
  | .pimExecAllocate num io t => Sys2Proof.Machine.execPimExecAllocate num io t s
  | .pimExecFree num io t => Sys2Proof.Machine.execPimExecFree num io t s
  | .pimExecWrite num io t => Sys2Proof.Machine.execPimExecWrite num io t s
  | .pimExecRead num struck io t => Sys2Proof.Machine.execPimExecRead num struck io t s
  | .pimExecRun num io t => Sys2Proof.Machine.execPimExecRun num io t s
  | .barrierQueue num io t => Sys2Proof.Machine.execBarrierQueue num io t s
  | .barrierQueueRelease q io t => Sys2Proof.Machine.execBarrierQueueRelease q io t s
  | .barrierShard num reply io t => Sys2Proof.Machine.execBarrierShard num reply io t s
  | .flush num io t => Sys2Proof.Machine.execFlush num io t s
  | .flushDone num peers io t => Sys2Proof.Machine.execFlushDone num peers io t s
  | .backgroundWindow arb t => Sys2Proof.Machine.execBackgroundWindow arb t s
  | .resourceWatchdogBite arb io t => Sys2Proof.Machine.execResourceWatchdogBite arb io t s
  | .unitReset e io t => Sys2Proof.Machine.execUnitReset e io t s
  | .compactionPlan list t => Sys2Proof.Machine.execCompactionPlan list t s
  | .compactionSwitch list t => Sys2Proof.Machine.execCompactionSwitch list t s
  | .compactionRelease list t => Sys2Proof.Machine.execCompactionRelease list t s
  | .guestbookChunkFree list => Sys2Proof.Machine.execGuestbookChunkFree list s
  | .listLengthTick shard t => Sys2Proof.Machine.execListLengthTick shard t s
  | .splitMergeSwitch list t => Sys2Proof.Machine.execSplitMergeSwitch list t s
  | .splitMergeRelease list => Sys2Proof.Machine.execSplitMergeRelease list s
  | .graphRepair shard => Sys2Proof.Machine.execGraphRepair shard s
  | .tombstoneFold shard id stamp => Sys2Proof.Machine.execTombstoneFold shard id stamp s
  | .tombstonePendingClear shard id stamp => Sys2Proof.Machine.execTombstonePendingClear shard id stamp s
  | .tombstoneGuardConvert shard id stamp => Sys2Proof.Machine.execTombstoneGuardConvert shard id stamp s
  | .slotFree shard slot => Sys2Proof.Machine.execSlotFree shard slot s
  | .rowHistoryRemove shard slot stamp => Sys2Proof.Machine.execRowHistoryRemove shard slot stamp s
  | .formationStart shard => Sys2Proof.Machine.execFormationStart shard s
  | .formationSwitch shard t => Sys2Proof.Machine.execFormationSwitch shard t s
  | .formationBufferRelease shard => Sys2Proof.Machine.execFormationBufferRelease shard s
  | .rowMigrationPlan shard slot toPool => Sys2Proof.Machine.execRowMigrationPlan shard slot toPool s
  | .rowMigrationCopyEnd shard slot => Sys2Proof.Machine.execRowMigrationCopyEnd shard slot s
  | .rowMigrationRelease shard slot => Sys2Proof.Machine.execRowMigrationRelease shard slot s
  | .placementChange coll t => Sys2Proof.Machine.execPlacementChange coll t s
  | .shardMoveCopyEnd shard copied => Sys2Proof.Machine.execShardMoveCopyEnd shard copied s
  | .shardMoveAnnounceReceive coll shard newOwner => Sys2Proof.Machine.execShardMoveAnnounceReceive coll shard newOwner s
  | .shardMoveRelease shard => Sys2Proof.Machine.execShardMoveRelease shard s
  | .cacheRebalance t => Sys2Proof.Machine.execCacheRebalance t s
  | .cacheEvict => Sys2Proof.Machine.execCacheEvict s
  | .writeBufferProgram channel t => Sys2Proof.Machine.execWriteBufferProgram channel t s
  | .writeBufferFree channel => Sys2Proof.Machine.execWriteBufferFree channel s
  | .journalRetire entry => Sys2Proof.Machine.execJournalRetire entry s
  | .checkpoint t => Sys2Proof.Machine.execCheckpoint t s
  | .garbageCollection channel => Sys2Proof.Machine.execGarbageCollection channel s
  | .wearLevelling channel => Sys2Proof.Machine.execWearLevelling channel s
  | .readDisturbRefresh channel block t => Sys2Proof.Machine.execReadDisturbRefresh channel block t s
  | .retentionScan channel block weak t => Sys2Proof.Machine.execRetentionScan channel block weak t s
  | .grownBadBlock channel block => Sys2Proof.Machine.execGrownBadBlock channel block s
  | .journalReserveErase channel => Sys2Proof.Machine.execJournalReserveErase channel s
  | .patrolScrub stack corrected uncorrectable t => Sys2Proof.Machine.execPatrolScrub stack corrected uncorrectable t s
  | .linkAdaptation port setting t => Sys2Proof.Machine.execLinkAdaptation port setting t s
  | .calibrationSlot array errorPpm t => Sys2Proof.Machine.execCalibrationSlot array errorPpm t s
  | .calibrationForced array errorPpm t => Sys2Proof.Machine.execCalibrationForced array errorPpm t s
  | .arrayTemperatureTrack array errorPpm t => Sys2Proof.Machine.execArrayTemperatureTrack array errorPpm t s
  | .telemetryPass fn ring io t => Sys2Proof.Machine.execTelemetryPass fn ring io t s
  | .lullEntry since guestsWait t => Sys2Proof.Machine.execLullEntry since guestsWait t s
  | .calmEntry t => Sys2Proof.Machine.execCalmEntry t s
  | .nodeWake hostRequest linkDown t => Sys2Proof.Machine.execNodeWake hostRequest linkDown t s
  | .maintenanceWake t => Sys2Proof.Machine.execMaintenanceWake t s
  | .unitGate u since t => Sys2Proof.Machine.execUnitGate u since t s
  | .gustGrant t => Sys2Proof.Machine.execGustGrant t s
  | .unitWakeComplete u t => Sys2Proof.Machine.execUnitWakeComplete u t s
  | .powerCapTick r t => Sys2Proof.Machine.execPowerCapTick r t s
  | .brakeAssert t => Sys2Proof.Machine.execBrakeAssert t s
  | .brakeRelease since t => Sys2Proof.Machine.execBrakeRelease since t s
  | .writeInhibit mv t => Sys2Proof.Machine.execWriteInhibit mv t s
  | .releaseHoldStart mv t => Sys2Proof.Machine.execReleaseHoldStart mv t s
  | .doldrumsExit t => Sys2Proof.Machine.execDoldrumsExit t s
  | .brownout mv t => Sys2Proof.Machine.execBrownout mv t s
  | .thermalTick r t => Sys2Proof.Machine.execThermalTick r t s
  | .thermalShutdown r t => Sys2Proof.Machine.execThermalShutdown r t s
  | .inletHigh inletC t => Sys2Proof.Machine.execInletHigh inletC t s
  | .hotSwapTurnOn mv t => Sys2Proof.Machine.execHotSwapTurnOn mv t s
  | .aoPowerGood bankMv found => Sys2Proof.Machine.execAoPowerGood bankMv found s
  | .hotSwapTurnOff mv ma forUs t => Sys2Proof.Machine.execHotSwapTurnOff mv ma forUs t s
  | .resetNAssert lowNs t => Sys2Proof.Machine.execResetNAssert lowNs t s
  | .perstNAssert lowNs t => Sys2Proof.Machine.execPerstNAssert lowNs t s
  | .hotReset linkDown link => Sys2Proof.Machine.execHotReset linkDown link s
  | .aoWatchdogBite t => Sys2Proof.Machine.execAoWatchdogBite t s
  | .nodeResetStretchEnd resetNHigh found t => Sys2Proof.Machine.execNodeResetStretchEnd resetNHigh found t s
  | .busMasterEnableSet poolProbes t => Sys2Proof.Machine.execBusMasterEnableSet poolProbes t s
  | .frameReceive port frame stale t => Sys2Proof.Machine.execFrameReceive port frame stale t s
  | .nackReceive port channel seq => Sys2Proof.Machine.execNackReceive port channel seq s
  | .creditGrant port channel units acked => Sys2Proof.Machine.execCreditGrant port channel units acked s
  | .laneSwap port lane receive t => Sys2Proof.Machine.execLaneSwap port lane receive t s
  | .portRetrain port lane width t => Sys2Proof.Machine.execPortRetrain port lane width t s
  | .portDown port t => Sys2Proof.Machine.execPortDown port t s
  | .helloReceive port h t => Sys2Proof.Machine.execHelloReceive port h t s
  | .portDark port t => Sys2Proof.Machine.execPortDark port t s
  | .unreachableTimeout dest io t => Sys2Proof.Machine.execUnreachableTimeout dest io t s
  | .poolProbeTick pool ok t => Sys2Proof.Machine.execPoolProbeTick pool ok t s
  | .poolAccessFailure pool reprobeOk t => Sys2Proof.Machine.execPoolAccessFailure pool reprobeOk t s
  | .poolShort pool short t => Sys2Proof.Machine.execPoolShort pool short t s
  | .sparePredictiveTrigger e errors t => Sys2Proof.Machine.execSparePredictiveTrigger e errors t s
  | .hardFault e t => Sys2Proof.Machine.execHardFault e t s
  | .recoveryGrant t => Sys2Proof.Machine.execRecoveryGrant t s
  | .recoveryStall domain t => Sys2Proof.Machine.execRecoveryStall domain t s
  | .regenerationSwitch shard t => Sys2Proof.Machine.execRegenerationSwitch shard t s
  | .shardLost shard ownerReports io t => Sys2Proof.Machine.execShardLost shard ownerReports io t s
  | .sidebandZizonRequest request input t => Sys2Proof.Machine.execSidebandZizonRequest request input t s
  | .entdaa addr => Sys2Proof.Machine.execEntdaa addr s
  | .setdasa staticAddr addr => Sys2Proof.Machine.execSetdasa staticAddr addr s
  | .setEndpointId eid => Sys2Proof.Machine.execSetEndpointId eid s
  | .getEndpointId => Sys2Proof.Machine.execGetEndpointId s
  | .getEndpointUuid => Sys2Proof.Machine.execGetEndpointUuid s
  | .getMctpVersionSupport => Sys2Proof.Machine.execGetMctpVersionSupport s
  | .getMessageTypeSupport => Sys2Proof.Machine.execGetMessageTypeSupport s
  | .pldmSensorRead sensor => Sys2Proof.Machine.execPldmSensorRead sensor s
  | .pollForPlatformEventMessage => Sys2Proof.Machine.execPollForPlatformEventMessage s
  | .wakeNTimeout linkL0 t => Sys2Proof.Machine.execWakeNTimeout linkL0 t s
  | .releaseHoldBreak mv t => Sys2Proof.Machine.execReleaseHoldBreak mv t s
  | .overvoltageClose mv t => Sys2Proof.Machine.execOvervoltageClose mv t s
  | .perstNDeassert link => Sys2Proof.Machine.execPerstNDeassert link s
  | .linkUp port width t => Sys2Proof.Machine.execLinkUp port width t s
  | .recoveryEnd domain t => Sys2Proof.Machine.execRecoveryEnd domain t s
  | .guestFault fn => Sys2Proof.Machine.execGuestFault fn s
  | .modelRunTimeout num io t => Sys2Proof.Machine.execModelRunTimeout num io t s

end Sys2Proof.Machine
end

