-- ==== Sys2Proof/Laws/State.lean ====
section
/-! SUPPORT. What each named update of the state leaves as it was: one lemma for each update and field, true by
definition, so that no later proof unfolds a record update. -/

namespace Sys2Proof.Machine

variable (s : State)

@[simp] theorem State.modFn_pending (i : Nat) (f : Fn → Fn) : (s.modFn i f).pending = s.pending := rfl
@[simp] theorem State.modFn_ao (i : Nat) (f : Fn → Fn) : (s.modFn i f).ao = s.ao := rfl
@[simp] theorem State.modFn_pins (i : Nat) (f : Fn → Fn) : (s.modFn i f).pins = s.pins := rfl
@[simp] theorem State.modFn_pwr (i : Nat) (f : Fn → Fn) : (s.modFn i f).pwr = s.pwr := rfl
@[simp] theorem State.modFn_cfg (i : Nat) (f : Fn → Fn) : (s.modFn i f).cfg = s.cfg := rfl
@[simp] theorem State.modFn_mboxes (i : Nat) (f : Fn → Fn) : (s.modFn i f).mboxes = s.mboxes := rfl
@[simp] theorem State.modFn_tails (i : Nat) (f : Fn → Fn) : (s.modFn i f).tails = s.tails := rfl
@[simp] theorem State.modFn_activePair (i : Nat) (f : Fn → Fn) : (s.modFn i f).activePair = s.activePair := rfl
@[simp] theorem State.modFn_queues (i : Nat) (f : Fn → Fn) : (s.modFn i f).queues = s.queues := rfl
@[simp] theorem State.modFn_sched (i : Nat) (f : Fn → Fn) : (s.modFn i f).sched = s.sched := rfl
@[simp] theorem State.modFn_arbs (i : Nat) (f : Fn → Fn) : (s.modFn i f).arbs = s.arbs := rfl
@[simp] theorem State.modFn_arbSelect (i : Nat) (f : Fn → Fn) : (s.modFn i f).arbSelect = s.arbSelect := rfl
@[simp] theorem State.modFn_arbRequester (i : Nat) (f : Fn → Fn) : (s.modFn i f).arbRequester = s.arbRequester := rfl
@[simp] theorem State.modFn_arbWaitTotal (i : Nat) (f : Fn → Fn) : (s.modFn i f).arbWaitTotal = s.arbWaitTotal := rfl
@[simp] theorem State.modFn_arbWaitMax (i : Nat) (f : Fn → Fn) : (s.modFn i f).arbWaitMax = s.arbWaitMax := rfl
@[simp] theorem State.modFn_reqs (i : Nat) (f : Fn → Fn) : (s.modFn i f).reqs = s.reqs := rfl
@[simp] theorem State.modFn_nextNum (i : Nat) (f : Fn → Fn) : (s.modFn i f).nextNum = s.nextNum := rfl
@[simp] theorem State.modFn_nextOrder (i : Nat) (f : Fn → Fn) : (s.modFn i f).nextOrder = s.nextOrder := rfl
@[simp] theorem State.modFn_heldNums (i : Nat) (f : Fn → Fn) : (s.modFn i f).heldNums = s.heldNums := rfl
@[simp] theorem State.modFn_filters (i : Nat) (f : Fn → Fn) : (s.modFn i f).filters = s.filters := rfl
@[simp] theorem State.modFn_unsent (i : Nat) (f : Fn → Fn) : (s.modFn i f).unsent = s.unsent := rfl
@[simp] theorem State.modFn_colls (i : Nat) (f : Fn → Fn) : (s.modFn i f).colls = s.colls := rfl
@[simp] theorem State.modFn_nextColl (i : Nat) (f : Fn → Fn) : (s.modFn i f).nextColl = s.nextColl := rfl
@[simp] theorem State.modFn_shards (i : Nat) (f : Fn → Fn) : (s.modFn i f).shards = s.shards := rfl
@[simp] theorem State.modFn_lists (i : Nat) (f : Fn → Fn) : (s.modFn i f).lists = s.lists := rfl
@[simp] theorem State.modFn_eng (i : Nat) (f : Fn → Fn) : (s.modFn i f).eng = s.eng := rfl
@[simp] theorem State.modFn_models (i : Nat) (f : Fn → Fn) : (s.modFn i f).models = s.models := rfl
@[simp] theorem State.modFn_runs (i : Nat) (f : Fn → Fn) : (s.modFn i f).runs = s.runs := rfl
@[simp] theorem State.modFn_regions (i : Nat) (f : Fn → Fn) : (s.modFn i f).regions = s.regions := rfl
@[simp] theorem State.modFn_operandBufs (i : Nat) (f : Fn → Fn) : (s.modFn i f).operandBufs = s.operandBufs := rfl
@[simp] theorem State.modFn_pimRuns (i : Nat) (f : Fn → Fn) : (s.modFn i f).pimRuns = s.pimRuns := rfl
@[simp] theorem State.modFn_nextHandle (i : Nat) (f : Fn → Fn) : (s.modFn i f).nextHandle = s.nextHandle := rfl
@[simp] theorem State.modFn_tier (i : Nat) (f : Fn → Fn) : (s.modFn i f).tier = s.tier := rfl
@[simp] theorem State.modFn_pools (i : Nat) (f : Fn → Fn) : (s.modFn i f).pools = s.pools := rfl
@[simp] theorem State.modFn_nextPool (i : Nat) (f : Fn → Fn) : (s.modFn i f).nextPool = s.nextPool := rfl
@[simp] theorem State.modFn_ports (i : Nat) (f : Fn → Fn) : (s.modFn i f).ports = s.ports := rfl
@[simp] theorem State.modFn_portSelect (i : Nat) (f : Fn → Fn) : (s.modFn i f).portSelect = s.portSelect := rfl
@[simp] theorem State.modFn_peers (i : Nat) (f : Fn → Fn) : (s.modFn i f).peers = s.peers := rfl
@[simp] theorem State.modFn_spares (i : Nat) (f : Fn → Fn) : (s.modFn i f).spares = s.spares := rfl
@[simp] theorem State.modFn_out (i : Nat) (f : Fn → Fn) : (s.modFn i f).out = s.out := rfl
@[simp] theorem State.modFn_free (i : Nat) (f : Fn → Fn) : (s.modFn i f).free = s.free := rfl

@[simp] theorem State.modMbox_pending (i : Nat) (f : Mbox → Mbox) : (s.modMbox i f).pending = s.pending := rfl
@[simp] theorem State.modMbox_ao (i : Nat) (f : Mbox → Mbox) : (s.modMbox i f).ao = s.ao := rfl
@[simp] theorem State.modMbox_pins (i : Nat) (f : Mbox → Mbox) : (s.modMbox i f).pins = s.pins := rfl
@[simp] theorem State.modMbox_pwr (i : Nat) (f : Mbox → Mbox) : (s.modMbox i f).pwr = s.pwr := rfl
@[simp] theorem State.modMbox_cfg (i : Nat) (f : Mbox → Mbox) : (s.modMbox i f).cfg = s.cfg := rfl
@[simp] theorem State.modMbox_fns (i : Nat) (f : Mbox → Mbox) : (s.modMbox i f).fns = s.fns := rfl
@[simp] theorem State.modMbox_tails (i : Nat) (f : Mbox → Mbox) : (s.modMbox i f).tails = s.tails := rfl
@[simp] theorem State.modMbox_activePair (i : Nat) (f : Mbox → Mbox) : (s.modMbox i f).activePair = s.activePair := rfl
@[simp] theorem State.modMbox_queues (i : Nat) (f : Mbox → Mbox) : (s.modMbox i f).queues = s.queues := rfl
@[simp] theorem State.modMbox_sched (i : Nat) (f : Mbox → Mbox) : (s.modMbox i f).sched = s.sched := rfl
@[simp] theorem State.modMbox_arbs (i : Nat) (f : Mbox → Mbox) : (s.modMbox i f).arbs = s.arbs := rfl
@[simp] theorem State.modMbox_arbSelect (i : Nat) (f : Mbox → Mbox) : (s.modMbox i f).arbSelect = s.arbSelect := rfl
@[simp] theorem State.modMbox_arbRequester (i : Nat) (f : Mbox → Mbox) : (s.modMbox i f).arbRequester = s.arbRequester := rfl
@[simp] theorem State.modMbox_arbWaitTotal (i : Nat) (f : Mbox → Mbox) : (s.modMbox i f).arbWaitTotal = s.arbWaitTotal := rfl
@[simp] theorem State.modMbox_arbWaitMax (i : Nat) (f : Mbox → Mbox) : (s.modMbox i f).arbWaitMax = s.arbWaitMax := rfl
@[simp] theorem State.modMbox_reqs (i : Nat) (f : Mbox → Mbox) : (s.modMbox i f).reqs = s.reqs := rfl
@[simp] theorem State.modMbox_nextNum (i : Nat) (f : Mbox → Mbox) : (s.modMbox i f).nextNum = s.nextNum := rfl
@[simp] theorem State.modMbox_nextOrder (i : Nat) (f : Mbox → Mbox) : (s.modMbox i f).nextOrder = s.nextOrder := rfl
@[simp] theorem State.modMbox_heldNums (i : Nat) (f : Mbox → Mbox) : (s.modMbox i f).heldNums = s.heldNums := rfl
@[simp] theorem State.modMbox_filters (i : Nat) (f : Mbox → Mbox) : (s.modMbox i f).filters = s.filters := rfl
@[simp] theorem State.modMbox_unsent (i : Nat) (f : Mbox → Mbox) : (s.modMbox i f).unsent = s.unsent := rfl
@[simp] theorem State.modMbox_colls (i : Nat) (f : Mbox → Mbox) : (s.modMbox i f).colls = s.colls := rfl
@[simp] theorem State.modMbox_nextColl (i : Nat) (f : Mbox → Mbox) : (s.modMbox i f).nextColl = s.nextColl := rfl
@[simp] theorem State.modMbox_shards (i : Nat) (f : Mbox → Mbox) : (s.modMbox i f).shards = s.shards := rfl
@[simp] theorem State.modMbox_lists (i : Nat) (f : Mbox → Mbox) : (s.modMbox i f).lists = s.lists := rfl
@[simp] theorem State.modMbox_eng (i : Nat) (f : Mbox → Mbox) : (s.modMbox i f).eng = s.eng := rfl
@[simp] theorem State.modMbox_models (i : Nat) (f : Mbox → Mbox) : (s.modMbox i f).models = s.models := rfl
@[simp] theorem State.modMbox_runs (i : Nat) (f : Mbox → Mbox) : (s.modMbox i f).runs = s.runs := rfl
@[simp] theorem State.modMbox_regions (i : Nat) (f : Mbox → Mbox) : (s.modMbox i f).regions = s.regions := rfl
@[simp] theorem State.modMbox_operandBufs (i : Nat) (f : Mbox → Mbox) : (s.modMbox i f).operandBufs = s.operandBufs := rfl
@[simp] theorem State.modMbox_pimRuns (i : Nat) (f : Mbox → Mbox) : (s.modMbox i f).pimRuns = s.pimRuns := rfl
@[simp] theorem State.modMbox_nextHandle (i : Nat) (f : Mbox → Mbox) : (s.modMbox i f).nextHandle = s.nextHandle := rfl
@[simp] theorem State.modMbox_tier (i : Nat) (f : Mbox → Mbox) : (s.modMbox i f).tier = s.tier := rfl
@[simp] theorem State.modMbox_pools (i : Nat) (f : Mbox → Mbox) : (s.modMbox i f).pools = s.pools := rfl
@[simp] theorem State.modMbox_nextPool (i : Nat) (f : Mbox → Mbox) : (s.modMbox i f).nextPool = s.nextPool := rfl
@[simp] theorem State.modMbox_ports (i : Nat) (f : Mbox → Mbox) : (s.modMbox i f).ports = s.ports := rfl
@[simp] theorem State.modMbox_portSelect (i : Nat) (f : Mbox → Mbox) : (s.modMbox i f).portSelect = s.portSelect := rfl
@[simp] theorem State.modMbox_peers (i : Nat) (f : Mbox → Mbox) : (s.modMbox i f).peers = s.peers := rfl
@[simp] theorem State.modMbox_spares (i : Nat) (f : Mbox → Mbox) : (s.modMbox i f).spares = s.spares := rfl
@[simp] theorem State.modMbox_out (i : Nat) (f : Mbox → Mbox) : (s.modMbox i f).out = s.out := rfl
@[simp] theorem State.modMbox_free (i : Nat) (f : Mbox → Mbox) : (s.modMbox i f).free = s.free := rfl

@[simp] theorem State.modPort_pending (i : Nat) (f : Port → Port) : (s.modPort i f).pending = s.pending := rfl
@[simp] theorem State.modPort_ao (i : Nat) (f : Port → Port) : (s.modPort i f).ao = s.ao := rfl
@[simp] theorem State.modPort_pins (i : Nat) (f : Port → Port) : (s.modPort i f).pins = s.pins := rfl
@[simp] theorem State.modPort_pwr (i : Nat) (f : Port → Port) : (s.modPort i f).pwr = s.pwr := rfl
@[simp] theorem State.modPort_cfg (i : Nat) (f : Port → Port) : (s.modPort i f).cfg = s.cfg := rfl
@[simp] theorem State.modPort_fns (i : Nat) (f : Port → Port) : (s.modPort i f).fns = s.fns := rfl
@[simp] theorem State.modPort_mboxes (i : Nat) (f : Port → Port) : (s.modPort i f).mboxes = s.mboxes := rfl
@[simp] theorem State.modPort_tails (i : Nat) (f : Port → Port) : (s.modPort i f).tails = s.tails := rfl
@[simp] theorem State.modPort_activePair (i : Nat) (f : Port → Port) : (s.modPort i f).activePair = s.activePair := rfl
@[simp] theorem State.modPort_queues (i : Nat) (f : Port → Port) : (s.modPort i f).queues = s.queues := rfl
@[simp] theorem State.modPort_sched (i : Nat) (f : Port → Port) : (s.modPort i f).sched = s.sched := rfl
@[simp] theorem State.modPort_arbs (i : Nat) (f : Port → Port) : (s.modPort i f).arbs = s.arbs := rfl
@[simp] theorem State.modPort_arbSelect (i : Nat) (f : Port → Port) : (s.modPort i f).arbSelect = s.arbSelect := rfl
@[simp] theorem State.modPort_arbRequester (i : Nat) (f : Port → Port) : (s.modPort i f).arbRequester = s.arbRequester := rfl
@[simp] theorem State.modPort_arbWaitTotal (i : Nat) (f : Port → Port) : (s.modPort i f).arbWaitTotal = s.arbWaitTotal := rfl
@[simp] theorem State.modPort_arbWaitMax (i : Nat) (f : Port → Port) : (s.modPort i f).arbWaitMax = s.arbWaitMax := rfl
@[simp] theorem State.modPort_reqs (i : Nat) (f : Port → Port) : (s.modPort i f).reqs = s.reqs := rfl
@[simp] theorem State.modPort_nextNum (i : Nat) (f : Port → Port) : (s.modPort i f).nextNum = s.nextNum := rfl
@[simp] theorem State.modPort_nextOrder (i : Nat) (f : Port → Port) : (s.modPort i f).nextOrder = s.nextOrder := rfl
@[simp] theorem State.modPort_heldNums (i : Nat) (f : Port → Port) : (s.modPort i f).heldNums = s.heldNums := rfl
@[simp] theorem State.modPort_filters (i : Nat) (f : Port → Port) : (s.modPort i f).filters = s.filters := rfl
@[simp] theorem State.modPort_unsent (i : Nat) (f : Port → Port) : (s.modPort i f).unsent = s.unsent := rfl
@[simp] theorem State.modPort_colls (i : Nat) (f : Port → Port) : (s.modPort i f).colls = s.colls := rfl
@[simp] theorem State.modPort_nextColl (i : Nat) (f : Port → Port) : (s.modPort i f).nextColl = s.nextColl := rfl
@[simp] theorem State.modPort_shards (i : Nat) (f : Port → Port) : (s.modPort i f).shards = s.shards := rfl
@[simp] theorem State.modPort_lists (i : Nat) (f : Port → Port) : (s.modPort i f).lists = s.lists := rfl
@[simp] theorem State.modPort_eng (i : Nat) (f : Port → Port) : (s.modPort i f).eng = s.eng := rfl
@[simp] theorem State.modPort_models (i : Nat) (f : Port → Port) : (s.modPort i f).models = s.models := rfl
@[simp] theorem State.modPort_runs (i : Nat) (f : Port → Port) : (s.modPort i f).runs = s.runs := rfl
@[simp] theorem State.modPort_regions (i : Nat) (f : Port → Port) : (s.modPort i f).regions = s.regions := rfl
@[simp] theorem State.modPort_operandBufs (i : Nat) (f : Port → Port) : (s.modPort i f).operandBufs = s.operandBufs := rfl
@[simp] theorem State.modPort_pimRuns (i : Nat) (f : Port → Port) : (s.modPort i f).pimRuns = s.pimRuns := rfl
@[simp] theorem State.modPort_nextHandle (i : Nat) (f : Port → Port) : (s.modPort i f).nextHandle = s.nextHandle := rfl
@[simp] theorem State.modPort_tier (i : Nat) (f : Port → Port) : (s.modPort i f).tier = s.tier := rfl
@[simp] theorem State.modPort_pools (i : Nat) (f : Port → Port) : (s.modPort i f).pools = s.pools := rfl
@[simp] theorem State.modPort_nextPool (i : Nat) (f : Port → Port) : (s.modPort i f).nextPool = s.nextPool := rfl
@[simp] theorem State.modPort_portSelect (i : Nat) (f : Port → Port) : (s.modPort i f).portSelect = s.portSelect := rfl
@[simp] theorem State.modPort_peers (i : Nat) (f : Port → Port) : (s.modPort i f).peers = s.peers := rfl
@[simp] theorem State.modPort_spares (i : Nat) (f : Port → Port) : (s.modPort i f).spares = s.spares := rfl
@[simp] theorem State.modPort_out (i : Nat) (f : Port → Port) : (s.modPort i f).out = s.out := rfl
@[simp] theorem State.modPort_free (i : Nat) (f : Port → Port) : (s.modPort i f).free = s.free := rfl

@[simp] theorem State.modEng_pending (f : Engine → Engine) : (s.modEng f).pending = s.pending := rfl
@[simp] theorem State.modEng_ao (f : Engine → Engine) : (s.modEng f).ao = s.ao := rfl
@[simp] theorem State.modEng_pins (f : Engine → Engine) : (s.modEng f).pins = s.pins := rfl
@[simp] theorem State.modEng_pwr (f : Engine → Engine) : (s.modEng f).pwr = s.pwr := rfl
@[simp] theorem State.modEng_cfg (f : Engine → Engine) : (s.modEng f).cfg = s.cfg := rfl
@[simp] theorem State.modEng_fns (f : Engine → Engine) : (s.modEng f).fns = s.fns := rfl
@[simp] theorem State.modEng_mboxes (f : Engine → Engine) : (s.modEng f).mboxes = s.mboxes := rfl
@[simp] theorem State.modEng_tails (f : Engine → Engine) : (s.modEng f).tails = s.tails := rfl
@[simp] theorem State.modEng_activePair (f : Engine → Engine) : (s.modEng f).activePair = s.activePair := rfl
@[simp] theorem State.modEng_queues (f : Engine → Engine) : (s.modEng f).queues = s.queues := rfl
@[simp] theorem State.modEng_sched (f : Engine → Engine) : (s.modEng f).sched = s.sched := rfl
@[simp] theorem State.modEng_arbs (f : Engine → Engine) : (s.modEng f).arbs = s.arbs := rfl
@[simp] theorem State.modEng_arbSelect (f : Engine → Engine) : (s.modEng f).arbSelect = s.arbSelect := rfl
@[simp] theorem State.modEng_arbRequester (f : Engine → Engine) : (s.modEng f).arbRequester = s.arbRequester := rfl
@[simp] theorem State.modEng_arbWaitTotal (f : Engine → Engine) : (s.modEng f).arbWaitTotal = s.arbWaitTotal := rfl
@[simp] theorem State.modEng_arbWaitMax (f : Engine → Engine) : (s.modEng f).arbWaitMax = s.arbWaitMax := rfl
@[simp] theorem State.modEng_reqs (f : Engine → Engine) : (s.modEng f).reqs = s.reqs := rfl
@[simp] theorem State.modEng_nextNum (f : Engine → Engine) : (s.modEng f).nextNum = s.nextNum := rfl
@[simp] theorem State.modEng_nextOrder (f : Engine → Engine) : (s.modEng f).nextOrder = s.nextOrder := rfl
@[simp] theorem State.modEng_heldNums (f : Engine → Engine) : (s.modEng f).heldNums = s.heldNums := rfl
@[simp] theorem State.modEng_filters (f : Engine → Engine) : (s.modEng f).filters = s.filters := rfl
@[simp] theorem State.modEng_unsent (f : Engine → Engine) : (s.modEng f).unsent = s.unsent := rfl
@[simp] theorem State.modEng_colls (f : Engine → Engine) : (s.modEng f).colls = s.colls := rfl
@[simp] theorem State.modEng_nextColl (f : Engine → Engine) : (s.modEng f).nextColl = s.nextColl := rfl
@[simp] theorem State.modEng_shards (f : Engine → Engine) : (s.modEng f).shards = s.shards := rfl
@[simp] theorem State.modEng_lists (f : Engine → Engine) : (s.modEng f).lists = s.lists := rfl
@[simp] theorem State.modEng_models (f : Engine → Engine) : (s.modEng f).models = s.models := rfl
@[simp] theorem State.modEng_runs (f : Engine → Engine) : (s.modEng f).runs = s.runs := rfl
@[simp] theorem State.modEng_regions (f : Engine → Engine) : (s.modEng f).regions = s.regions := rfl
@[simp] theorem State.modEng_operandBufs (f : Engine → Engine) : (s.modEng f).operandBufs = s.operandBufs := rfl
@[simp] theorem State.modEng_pimRuns (f : Engine → Engine) : (s.modEng f).pimRuns = s.pimRuns := rfl
@[simp] theorem State.modEng_nextHandle (f : Engine → Engine) : (s.modEng f).nextHandle = s.nextHandle := rfl
@[simp] theorem State.modEng_tier (f : Engine → Engine) : (s.modEng f).tier = s.tier := rfl
@[simp] theorem State.modEng_pools (f : Engine → Engine) : (s.modEng f).pools = s.pools := rfl
@[simp] theorem State.modEng_nextPool (f : Engine → Engine) : (s.modEng f).nextPool = s.nextPool := rfl
@[simp] theorem State.modEng_ports (f : Engine → Engine) : (s.modEng f).ports = s.ports := rfl
@[simp] theorem State.modEng_portSelect (f : Engine → Engine) : (s.modEng f).portSelect = s.portSelect := rfl
@[simp] theorem State.modEng_peers (f : Engine → Engine) : (s.modEng f).peers = s.peers := rfl
@[simp] theorem State.modEng_spares (f : Engine → Engine) : (s.modEng f).spares = s.spares := rfl
@[simp] theorem State.modEng_out (f : Engine → Engine) : (s.modEng f).out = s.out := rfl
@[simp] theorem State.modEng_free (f : Engine → Engine) : (s.modEng f).free = s.free := rfl

@[simp] theorem State.modCsu_pending (i : Nat) (f : Csu → Csu) : (s.modCsu i f).pending = s.pending := rfl
@[simp] theorem State.modCsu_ao (i : Nat) (f : Csu → Csu) : (s.modCsu i f).ao = s.ao := rfl
@[simp] theorem State.modCsu_pins (i : Nat) (f : Csu → Csu) : (s.modCsu i f).pins = s.pins := rfl
@[simp] theorem State.modCsu_pwr (i : Nat) (f : Csu → Csu) : (s.modCsu i f).pwr = s.pwr := rfl
@[simp] theorem State.modCsu_cfg (i : Nat) (f : Csu → Csu) : (s.modCsu i f).cfg = s.cfg := rfl
@[simp] theorem State.modCsu_fns (i : Nat) (f : Csu → Csu) : (s.modCsu i f).fns = s.fns := rfl
@[simp] theorem State.modCsu_mboxes (i : Nat) (f : Csu → Csu) : (s.modCsu i f).mboxes = s.mboxes := rfl
@[simp] theorem State.modCsu_tails (i : Nat) (f : Csu → Csu) : (s.modCsu i f).tails = s.tails := rfl
@[simp] theorem State.modCsu_activePair (i : Nat) (f : Csu → Csu) : (s.modCsu i f).activePair = s.activePair := rfl
@[simp] theorem State.modCsu_queues (i : Nat) (f : Csu → Csu) : (s.modCsu i f).queues = s.queues := rfl
@[simp] theorem State.modCsu_sched (i : Nat) (f : Csu → Csu) : (s.modCsu i f).sched = s.sched := rfl
@[simp] theorem State.modCsu_arbs (i : Nat) (f : Csu → Csu) : (s.modCsu i f).arbs = s.arbs := rfl
@[simp] theorem State.modCsu_arbSelect (i : Nat) (f : Csu → Csu) : (s.modCsu i f).arbSelect = s.arbSelect := rfl
@[simp] theorem State.modCsu_arbRequester (i : Nat) (f : Csu → Csu) : (s.modCsu i f).arbRequester = s.arbRequester := rfl
@[simp] theorem State.modCsu_arbWaitTotal (i : Nat) (f : Csu → Csu) : (s.modCsu i f).arbWaitTotal = s.arbWaitTotal := rfl
@[simp] theorem State.modCsu_arbWaitMax (i : Nat) (f : Csu → Csu) : (s.modCsu i f).arbWaitMax = s.arbWaitMax := rfl
@[simp] theorem State.modCsu_reqs (i : Nat) (f : Csu → Csu) : (s.modCsu i f).reqs = s.reqs := rfl
@[simp] theorem State.modCsu_nextNum (i : Nat) (f : Csu → Csu) : (s.modCsu i f).nextNum = s.nextNum := rfl
@[simp] theorem State.modCsu_nextOrder (i : Nat) (f : Csu → Csu) : (s.modCsu i f).nextOrder = s.nextOrder := rfl
@[simp] theorem State.modCsu_heldNums (i : Nat) (f : Csu → Csu) : (s.modCsu i f).heldNums = s.heldNums := rfl
@[simp] theorem State.modCsu_filters (i : Nat) (f : Csu → Csu) : (s.modCsu i f).filters = s.filters := rfl
@[simp] theorem State.modCsu_unsent (i : Nat) (f : Csu → Csu) : (s.modCsu i f).unsent = s.unsent := rfl
@[simp] theorem State.modCsu_colls (i : Nat) (f : Csu → Csu) : (s.modCsu i f).colls = s.colls := rfl
@[simp] theorem State.modCsu_nextColl (i : Nat) (f : Csu → Csu) : (s.modCsu i f).nextColl = s.nextColl := rfl
@[simp] theorem State.modCsu_shards (i : Nat) (f : Csu → Csu) : (s.modCsu i f).shards = s.shards := rfl
@[simp] theorem State.modCsu_lists (i : Nat) (f : Csu → Csu) : (s.modCsu i f).lists = s.lists := rfl
@[simp] theorem State.modCsu_models (i : Nat) (f : Csu → Csu) : (s.modCsu i f).models = s.models := rfl
@[simp] theorem State.modCsu_runs (i : Nat) (f : Csu → Csu) : (s.modCsu i f).runs = s.runs := rfl
@[simp] theorem State.modCsu_regions (i : Nat) (f : Csu → Csu) : (s.modCsu i f).regions = s.regions := rfl
@[simp] theorem State.modCsu_operandBufs (i : Nat) (f : Csu → Csu) : (s.modCsu i f).operandBufs = s.operandBufs := rfl
@[simp] theorem State.modCsu_pimRuns (i : Nat) (f : Csu → Csu) : (s.modCsu i f).pimRuns = s.pimRuns := rfl
@[simp] theorem State.modCsu_nextHandle (i : Nat) (f : Csu → Csu) : (s.modCsu i f).nextHandle = s.nextHandle := rfl
@[simp] theorem State.modCsu_tier (i : Nat) (f : Csu → Csu) : (s.modCsu i f).tier = s.tier := rfl
@[simp] theorem State.modCsu_pools (i : Nat) (f : Csu → Csu) : (s.modCsu i f).pools = s.pools := rfl
@[simp] theorem State.modCsu_nextPool (i : Nat) (f : Csu → Csu) : (s.modCsu i f).nextPool = s.nextPool := rfl
@[simp] theorem State.modCsu_ports (i : Nat) (f : Csu → Csu) : (s.modCsu i f).ports = s.ports := rfl
@[simp] theorem State.modCsu_portSelect (i : Nat) (f : Csu → Csu) : (s.modCsu i f).portSelect = s.portSelect := rfl
@[simp] theorem State.modCsu_peers (i : Nat) (f : Csu → Csu) : (s.modCsu i f).peers = s.peers := rfl
@[simp] theorem State.modCsu_spares (i : Nat) (f : Csu → Csu) : (s.modCsu i f).spares = s.spares := rfl
@[simp] theorem State.modCsu_out (i : Nat) (f : Csu → Csu) : (s.modCsu i f).out = s.out := rfl
@[simp] theorem State.modCsu_free (i : Nat) (f : Csu → Csu) : (s.modCsu i f).free = s.free := rfl

@[simp] theorem State.modTier_pending (f : Tier → Tier) : (s.modTier f).pending = s.pending := rfl
@[simp] theorem State.modTier_ao (f : Tier → Tier) : (s.modTier f).ao = s.ao := rfl
@[simp] theorem State.modTier_pins (f : Tier → Tier) : (s.modTier f).pins = s.pins := rfl
@[simp] theorem State.modTier_pwr (f : Tier → Tier) : (s.modTier f).pwr = s.pwr := rfl
@[simp] theorem State.modTier_cfg (f : Tier → Tier) : (s.modTier f).cfg = s.cfg := rfl
@[simp] theorem State.modTier_fns (f : Tier → Tier) : (s.modTier f).fns = s.fns := rfl
@[simp] theorem State.modTier_mboxes (f : Tier → Tier) : (s.modTier f).mboxes = s.mboxes := rfl
@[simp] theorem State.modTier_tails (f : Tier → Tier) : (s.modTier f).tails = s.tails := rfl
@[simp] theorem State.modTier_activePair (f : Tier → Tier) : (s.modTier f).activePair = s.activePair := rfl
@[simp] theorem State.modTier_queues (f : Tier → Tier) : (s.modTier f).queues = s.queues := rfl
@[simp] theorem State.modTier_sched (f : Tier → Tier) : (s.modTier f).sched = s.sched := rfl
@[simp] theorem State.modTier_arbs (f : Tier → Tier) : (s.modTier f).arbs = s.arbs := rfl
@[simp] theorem State.modTier_arbSelect (f : Tier → Tier) : (s.modTier f).arbSelect = s.arbSelect := rfl
@[simp] theorem State.modTier_arbRequester (f : Tier → Tier) : (s.modTier f).arbRequester = s.arbRequester := rfl
@[simp] theorem State.modTier_arbWaitTotal (f : Tier → Tier) : (s.modTier f).arbWaitTotal = s.arbWaitTotal := rfl
@[simp] theorem State.modTier_arbWaitMax (f : Tier → Tier) : (s.modTier f).arbWaitMax = s.arbWaitMax := rfl
@[simp] theorem State.modTier_reqs (f : Tier → Tier) : (s.modTier f).reqs = s.reqs := rfl
@[simp] theorem State.modTier_nextNum (f : Tier → Tier) : (s.modTier f).nextNum = s.nextNum := rfl
@[simp] theorem State.modTier_nextOrder (f : Tier → Tier) : (s.modTier f).nextOrder = s.nextOrder := rfl
@[simp] theorem State.modTier_heldNums (f : Tier → Tier) : (s.modTier f).heldNums = s.heldNums := rfl
@[simp] theorem State.modTier_filters (f : Tier → Tier) : (s.modTier f).filters = s.filters := rfl
@[simp] theorem State.modTier_unsent (f : Tier → Tier) : (s.modTier f).unsent = s.unsent := rfl
@[simp] theorem State.modTier_colls (f : Tier → Tier) : (s.modTier f).colls = s.colls := rfl
@[simp] theorem State.modTier_nextColl (f : Tier → Tier) : (s.modTier f).nextColl = s.nextColl := rfl
@[simp] theorem State.modTier_shards (f : Tier → Tier) : (s.modTier f).shards = s.shards := rfl
@[simp] theorem State.modTier_lists (f : Tier → Tier) : (s.modTier f).lists = s.lists := rfl
@[simp] theorem State.modTier_eng (f : Tier → Tier) : (s.modTier f).eng = s.eng := rfl
@[simp] theorem State.modTier_models (f : Tier → Tier) : (s.modTier f).models = s.models := rfl
@[simp] theorem State.modTier_runs (f : Tier → Tier) : (s.modTier f).runs = s.runs := rfl
@[simp] theorem State.modTier_regions (f : Tier → Tier) : (s.modTier f).regions = s.regions := rfl
@[simp] theorem State.modTier_operandBufs (f : Tier → Tier) : (s.modTier f).operandBufs = s.operandBufs := rfl
@[simp] theorem State.modTier_pimRuns (f : Tier → Tier) : (s.modTier f).pimRuns = s.pimRuns := rfl
@[simp] theorem State.modTier_nextHandle (f : Tier → Tier) : (s.modTier f).nextHandle = s.nextHandle := rfl
@[simp] theorem State.modTier_pools (f : Tier → Tier) : (s.modTier f).pools = s.pools := rfl
@[simp] theorem State.modTier_nextPool (f : Tier → Tier) : (s.modTier f).nextPool = s.nextPool := rfl
@[simp] theorem State.modTier_ports (f : Tier → Tier) : (s.modTier f).ports = s.ports := rfl
@[simp] theorem State.modTier_portSelect (f : Tier → Tier) : (s.modTier f).portSelect = s.portSelect := rfl
@[simp] theorem State.modTier_peers (f : Tier → Tier) : (s.modTier f).peers = s.peers := rfl
@[simp] theorem State.modTier_spares (f : Tier → Tier) : (s.modTier f).spares = s.spares := rfl
@[simp] theorem State.modTier_out (f : Tier → Tier) : (s.modTier f).out = s.out := rfl
@[simp] theorem State.modTier_free (f : Tier → Tier) : (s.modTier f).free = s.free := rfl

@[simp] theorem State.modChannel_pending (i : Nat) (f : Channel → Channel) : (s.modChannel i f).pending = s.pending := rfl
@[simp] theorem State.modChannel_ao (i : Nat) (f : Channel → Channel) : (s.modChannel i f).ao = s.ao := rfl
@[simp] theorem State.modChannel_pins (i : Nat) (f : Channel → Channel) : (s.modChannel i f).pins = s.pins := rfl
@[simp] theorem State.modChannel_pwr (i : Nat) (f : Channel → Channel) : (s.modChannel i f).pwr = s.pwr := rfl
@[simp] theorem State.modChannel_cfg (i : Nat) (f : Channel → Channel) : (s.modChannel i f).cfg = s.cfg := rfl
@[simp] theorem State.modChannel_fns (i : Nat) (f : Channel → Channel) : (s.modChannel i f).fns = s.fns := rfl
@[simp] theorem State.modChannel_mboxes (i : Nat) (f : Channel → Channel) : (s.modChannel i f).mboxes = s.mboxes := rfl
@[simp] theorem State.modChannel_tails (i : Nat) (f : Channel → Channel) : (s.modChannel i f).tails = s.tails := rfl
@[simp] theorem State.modChannel_activePair (i : Nat) (f : Channel → Channel) : (s.modChannel i f).activePair = s.activePair := rfl
@[simp] theorem State.modChannel_queues (i : Nat) (f : Channel → Channel) : (s.modChannel i f).queues = s.queues := rfl
@[simp] theorem State.modChannel_sched (i : Nat) (f : Channel → Channel) : (s.modChannel i f).sched = s.sched := rfl
@[simp] theorem State.modChannel_arbs (i : Nat) (f : Channel → Channel) : (s.modChannel i f).arbs = s.arbs := rfl
@[simp] theorem State.modChannel_arbSelect (i : Nat) (f : Channel → Channel) : (s.modChannel i f).arbSelect = s.arbSelect := rfl
@[simp] theorem State.modChannel_arbRequester (i : Nat) (f : Channel → Channel) : (s.modChannel i f).arbRequester = s.arbRequester := rfl
@[simp] theorem State.modChannel_arbWaitTotal (i : Nat) (f : Channel → Channel) : (s.modChannel i f).arbWaitTotal = s.arbWaitTotal := rfl
@[simp] theorem State.modChannel_arbWaitMax (i : Nat) (f : Channel → Channel) : (s.modChannel i f).arbWaitMax = s.arbWaitMax := rfl
@[simp] theorem State.modChannel_reqs (i : Nat) (f : Channel → Channel) : (s.modChannel i f).reqs = s.reqs := rfl
@[simp] theorem State.modChannel_nextNum (i : Nat) (f : Channel → Channel) : (s.modChannel i f).nextNum = s.nextNum := rfl
@[simp] theorem State.modChannel_nextOrder (i : Nat) (f : Channel → Channel) : (s.modChannel i f).nextOrder = s.nextOrder := rfl
@[simp] theorem State.modChannel_heldNums (i : Nat) (f : Channel → Channel) : (s.modChannel i f).heldNums = s.heldNums := rfl
@[simp] theorem State.modChannel_filters (i : Nat) (f : Channel → Channel) : (s.modChannel i f).filters = s.filters := rfl
@[simp] theorem State.modChannel_unsent (i : Nat) (f : Channel → Channel) : (s.modChannel i f).unsent = s.unsent := rfl
@[simp] theorem State.modChannel_colls (i : Nat) (f : Channel → Channel) : (s.modChannel i f).colls = s.colls := rfl
@[simp] theorem State.modChannel_nextColl (i : Nat) (f : Channel → Channel) : (s.modChannel i f).nextColl = s.nextColl := rfl
@[simp] theorem State.modChannel_shards (i : Nat) (f : Channel → Channel) : (s.modChannel i f).shards = s.shards := rfl
@[simp] theorem State.modChannel_lists (i : Nat) (f : Channel → Channel) : (s.modChannel i f).lists = s.lists := rfl
@[simp] theorem State.modChannel_eng (i : Nat) (f : Channel → Channel) : (s.modChannel i f).eng = s.eng := rfl
@[simp] theorem State.modChannel_models (i : Nat) (f : Channel → Channel) : (s.modChannel i f).models = s.models := rfl
@[simp] theorem State.modChannel_runs (i : Nat) (f : Channel → Channel) : (s.modChannel i f).runs = s.runs := rfl
@[simp] theorem State.modChannel_regions (i : Nat) (f : Channel → Channel) : (s.modChannel i f).regions = s.regions := rfl
@[simp] theorem State.modChannel_operandBufs (i : Nat) (f : Channel → Channel) : (s.modChannel i f).operandBufs = s.operandBufs := rfl
@[simp] theorem State.modChannel_pimRuns (i : Nat) (f : Channel → Channel) : (s.modChannel i f).pimRuns = s.pimRuns := rfl
@[simp] theorem State.modChannel_nextHandle (i : Nat) (f : Channel → Channel) : (s.modChannel i f).nextHandle = s.nextHandle := rfl
@[simp] theorem State.modChannel_pools (i : Nat) (f : Channel → Channel) : (s.modChannel i f).pools = s.pools := rfl
@[simp] theorem State.modChannel_nextPool (i : Nat) (f : Channel → Channel) : (s.modChannel i f).nextPool = s.nextPool := rfl
@[simp] theorem State.modChannel_ports (i : Nat) (f : Channel → Channel) : (s.modChannel i f).ports = s.ports := rfl
@[simp] theorem State.modChannel_portSelect (i : Nat) (f : Channel → Channel) : (s.modChannel i f).portSelect = s.portSelect := rfl
@[simp] theorem State.modChannel_peers (i : Nat) (f : Channel → Channel) : (s.modChannel i f).peers = s.peers := rfl
@[simp] theorem State.modChannel_spares (i : Nat) (f : Channel → Channel) : (s.modChannel i f).spares = s.spares := rfl
@[simp] theorem State.modChannel_out (i : Nat) (f : Channel → Channel) : (s.modChannel i f).out = s.out := rfl
@[simp] theorem State.modChannel_free (i : Nat) (f : Channel → Channel) : (s.modChannel i f).free = s.free := rfl

@[simp] theorem State.modAo_pending (f : Ao → Ao) : (s.modAo f).pending = s.pending := rfl
@[simp] theorem State.modAo_pins (f : Ao → Ao) : (s.modAo f).pins = s.pins := rfl
@[simp] theorem State.modAo_pwr (f : Ao → Ao) : (s.modAo f).pwr = s.pwr := rfl
@[simp] theorem State.modAo_cfg (f : Ao → Ao) : (s.modAo f).cfg = s.cfg := rfl
@[simp] theorem State.modAo_fns (f : Ao → Ao) : (s.modAo f).fns = s.fns := rfl
@[simp] theorem State.modAo_mboxes (f : Ao → Ao) : (s.modAo f).mboxes = s.mboxes := rfl
@[simp] theorem State.modAo_tails (f : Ao → Ao) : (s.modAo f).tails = s.tails := rfl
@[simp] theorem State.modAo_activePair (f : Ao → Ao) : (s.modAo f).activePair = s.activePair := rfl
@[simp] theorem State.modAo_queues (f : Ao → Ao) : (s.modAo f).queues = s.queues := rfl
@[simp] theorem State.modAo_sched (f : Ao → Ao) : (s.modAo f).sched = s.sched := rfl
@[simp] theorem State.modAo_arbs (f : Ao → Ao) : (s.modAo f).arbs = s.arbs := rfl
@[simp] theorem State.modAo_arbSelect (f : Ao → Ao) : (s.modAo f).arbSelect = s.arbSelect := rfl
@[simp] theorem State.modAo_arbRequester (f : Ao → Ao) : (s.modAo f).arbRequester = s.arbRequester := rfl
@[simp] theorem State.modAo_arbWaitTotal (f : Ao → Ao) : (s.modAo f).arbWaitTotal = s.arbWaitTotal := rfl
@[simp] theorem State.modAo_arbWaitMax (f : Ao → Ao) : (s.modAo f).arbWaitMax = s.arbWaitMax := rfl
@[simp] theorem State.modAo_reqs (f : Ao → Ao) : (s.modAo f).reqs = s.reqs := rfl
@[simp] theorem State.modAo_nextNum (f : Ao → Ao) : (s.modAo f).nextNum = s.nextNum := rfl
@[simp] theorem State.modAo_nextOrder (f : Ao → Ao) : (s.modAo f).nextOrder = s.nextOrder := rfl
@[simp] theorem State.modAo_heldNums (f : Ao → Ao) : (s.modAo f).heldNums = s.heldNums := rfl
@[simp] theorem State.modAo_filters (f : Ao → Ao) : (s.modAo f).filters = s.filters := rfl
@[simp] theorem State.modAo_unsent (f : Ao → Ao) : (s.modAo f).unsent = s.unsent := rfl
@[simp] theorem State.modAo_colls (f : Ao → Ao) : (s.modAo f).colls = s.colls := rfl
@[simp] theorem State.modAo_nextColl (f : Ao → Ao) : (s.modAo f).nextColl = s.nextColl := rfl
@[simp] theorem State.modAo_shards (f : Ao → Ao) : (s.modAo f).shards = s.shards := rfl
@[simp] theorem State.modAo_lists (f : Ao → Ao) : (s.modAo f).lists = s.lists := rfl
@[simp] theorem State.modAo_eng (f : Ao → Ao) : (s.modAo f).eng = s.eng := rfl
@[simp] theorem State.modAo_models (f : Ao → Ao) : (s.modAo f).models = s.models := rfl
@[simp] theorem State.modAo_runs (f : Ao → Ao) : (s.modAo f).runs = s.runs := rfl
@[simp] theorem State.modAo_regions (f : Ao → Ao) : (s.modAo f).regions = s.regions := rfl
@[simp] theorem State.modAo_operandBufs (f : Ao → Ao) : (s.modAo f).operandBufs = s.operandBufs := rfl
@[simp] theorem State.modAo_pimRuns (f : Ao → Ao) : (s.modAo f).pimRuns = s.pimRuns := rfl
@[simp] theorem State.modAo_nextHandle (f : Ao → Ao) : (s.modAo f).nextHandle = s.nextHandle := rfl
@[simp] theorem State.modAo_tier (f : Ao → Ao) : (s.modAo f).tier = s.tier := rfl
@[simp] theorem State.modAo_pools (f : Ao → Ao) : (s.modAo f).pools = s.pools := rfl
@[simp] theorem State.modAo_nextPool (f : Ao → Ao) : (s.modAo f).nextPool = s.nextPool := rfl
@[simp] theorem State.modAo_ports (f : Ao → Ao) : (s.modAo f).ports = s.ports := rfl
@[simp] theorem State.modAo_portSelect (f : Ao → Ao) : (s.modAo f).portSelect = s.portSelect := rfl
@[simp] theorem State.modAo_peers (f : Ao → Ao) : (s.modAo f).peers = s.peers := rfl
@[simp] theorem State.modAo_spares (f : Ao → Ao) : (s.modAo f).spares = s.spares := rfl
@[simp] theorem State.modAo_out (f : Ao → Ao) : (s.modAo f).out = s.out := rfl
@[simp] theorem State.modAo_free (f : Ao → Ao) : (s.modAo f).free = s.free := rfl

@[simp] theorem State.modPins_pending (f : Pins → Pins) : (s.modPins f).pending = s.pending := rfl
@[simp] theorem State.modPins_ao (f : Pins → Pins) : (s.modPins f).ao = s.ao := rfl
@[simp] theorem State.modPins_pwr (f : Pins → Pins) : (s.modPins f).pwr = s.pwr := rfl
@[simp] theorem State.modPins_cfg (f : Pins → Pins) : (s.modPins f).cfg = s.cfg := rfl
@[simp] theorem State.modPins_fns (f : Pins → Pins) : (s.modPins f).fns = s.fns := rfl
@[simp] theorem State.modPins_mboxes (f : Pins → Pins) : (s.modPins f).mboxes = s.mboxes := rfl
@[simp] theorem State.modPins_tails (f : Pins → Pins) : (s.modPins f).tails = s.tails := rfl
@[simp] theorem State.modPins_activePair (f : Pins → Pins) : (s.modPins f).activePair = s.activePair := rfl
@[simp] theorem State.modPins_queues (f : Pins → Pins) : (s.modPins f).queues = s.queues := rfl
@[simp] theorem State.modPins_sched (f : Pins → Pins) : (s.modPins f).sched = s.sched := rfl
@[simp] theorem State.modPins_arbs (f : Pins → Pins) : (s.modPins f).arbs = s.arbs := rfl
@[simp] theorem State.modPins_arbSelect (f : Pins → Pins) : (s.modPins f).arbSelect = s.arbSelect := rfl
@[simp] theorem State.modPins_arbRequester (f : Pins → Pins) : (s.modPins f).arbRequester = s.arbRequester := rfl
@[simp] theorem State.modPins_arbWaitTotal (f : Pins → Pins) : (s.modPins f).arbWaitTotal = s.arbWaitTotal := rfl
@[simp] theorem State.modPins_arbWaitMax (f : Pins → Pins) : (s.modPins f).arbWaitMax = s.arbWaitMax := rfl
@[simp] theorem State.modPins_reqs (f : Pins → Pins) : (s.modPins f).reqs = s.reqs := rfl
@[simp] theorem State.modPins_nextNum (f : Pins → Pins) : (s.modPins f).nextNum = s.nextNum := rfl
@[simp] theorem State.modPins_nextOrder (f : Pins → Pins) : (s.modPins f).nextOrder = s.nextOrder := rfl
@[simp] theorem State.modPins_heldNums (f : Pins → Pins) : (s.modPins f).heldNums = s.heldNums := rfl
@[simp] theorem State.modPins_filters (f : Pins → Pins) : (s.modPins f).filters = s.filters := rfl
@[simp] theorem State.modPins_unsent (f : Pins → Pins) : (s.modPins f).unsent = s.unsent := rfl
@[simp] theorem State.modPins_colls (f : Pins → Pins) : (s.modPins f).colls = s.colls := rfl
@[simp] theorem State.modPins_nextColl (f : Pins → Pins) : (s.modPins f).nextColl = s.nextColl := rfl
@[simp] theorem State.modPins_shards (f : Pins → Pins) : (s.modPins f).shards = s.shards := rfl
@[simp] theorem State.modPins_lists (f : Pins → Pins) : (s.modPins f).lists = s.lists := rfl
@[simp] theorem State.modPins_eng (f : Pins → Pins) : (s.modPins f).eng = s.eng := rfl
@[simp] theorem State.modPins_models (f : Pins → Pins) : (s.modPins f).models = s.models := rfl
@[simp] theorem State.modPins_runs (f : Pins → Pins) : (s.modPins f).runs = s.runs := rfl
@[simp] theorem State.modPins_regions (f : Pins → Pins) : (s.modPins f).regions = s.regions := rfl
@[simp] theorem State.modPins_operandBufs (f : Pins → Pins) : (s.modPins f).operandBufs = s.operandBufs := rfl
@[simp] theorem State.modPins_pimRuns (f : Pins → Pins) : (s.modPins f).pimRuns = s.pimRuns := rfl
@[simp] theorem State.modPins_nextHandle (f : Pins → Pins) : (s.modPins f).nextHandle = s.nextHandle := rfl
@[simp] theorem State.modPins_tier (f : Pins → Pins) : (s.modPins f).tier = s.tier := rfl
@[simp] theorem State.modPins_pools (f : Pins → Pins) : (s.modPins f).pools = s.pools := rfl
@[simp] theorem State.modPins_nextPool (f : Pins → Pins) : (s.modPins f).nextPool = s.nextPool := rfl
@[simp] theorem State.modPins_ports (f : Pins → Pins) : (s.modPins f).ports = s.ports := rfl
@[simp] theorem State.modPins_portSelect (f : Pins → Pins) : (s.modPins f).portSelect = s.portSelect := rfl
@[simp] theorem State.modPins_peers (f : Pins → Pins) : (s.modPins f).peers = s.peers := rfl
@[simp] theorem State.modPins_spares (f : Pins → Pins) : (s.modPins f).spares = s.spares := rfl
@[simp] theorem State.modPins_out (f : Pins → Pins) : (s.modPins f).out = s.out := rfl
@[simp] theorem State.modPins_free (f : Pins → Pins) : (s.modPins f).free = s.free := rfl

@[simp] theorem State.modPwr_pending (f : Power → Power) : (s.modPwr f).pending = s.pending := rfl
@[simp] theorem State.modPwr_ao (f : Power → Power) : (s.modPwr f).ao = s.ao := rfl
@[simp] theorem State.modPwr_pins (f : Power → Power) : (s.modPwr f).pins = s.pins := rfl
@[simp] theorem State.modPwr_cfg (f : Power → Power) : (s.modPwr f).cfg = s.cfg := rfl
@[simp] theorem State.modPwr_fns (f : Power → Power) : (s.modPwr f).fns = s.fns := rfl
@[simp] theorem State.modPwr_mboxes (f : Power → Power) : (s.modPwr f).mboxes = s.mboxes := rfl
@[simp] theorem State.modPwr_tails (f : Power → Power) : (s.modPwr f).tails = s.tails := rfl
@[simp] theorem State.modPwr_activePair (f : Power → Power) : (s.modPwr f).activePair = s.activePair := rfl
@[simp] theorem State.modPwr_queues (f : Power → Power) : (s.modPwr f).queues = s.queues := rfl
@[simp] theorem State.modPwr_sched (f : Power → Power) : (s.modPwr f).sched = s.sched := rfl
@[simp] theorem State.modPwr_arbs (f : Power → Power) : (s.modPwr f).arbs = s.arbs := rfl
@[simp] theorem State.modPwr_arbSelect (f : Power → Power) : (s.modPwr f).arbSelect = s.arbSelect := rfl
@[simp] theorem State.modPwr_arbRequester (f : Power → Power) : (s.modPwr f).arbRequester = s.arbRequester := rfl
@[simp] theorem State.modPwr_arbWaitTotal (f : Power → Power) : (s.modPwr f).arbWaitTotal = s.arbWaitTotal := rfl
@[simp] theorem State.modPwr_arbWaitMax (f : Power → Power) : (s.modPwr f).arbWaitMax = s.arbWaitMax := rfl
@[simp] theorem State.modPwr_reqs (f : Power → Power) : (s.modPwr f).reqs = s.reqs := rfl
@[simp] theorem State.modPwr_nextNum (f : Power → Power) : (s.modPwr f).nextNum = s.nextNum := rfl
@[simp] theorem State.modPwr_nextOrder (f : Power → Power) : (s.modPwr f).nextOrder = s.nextOrder := rfl
@[simp] theorem State.modPwr_heldNums (f : Power → Power) : (s.modPwr f).heldNums = s.heldNums := rfl
@[simp] theorem State.modPwr_filters (f : Power → Power) : (s.modPwr f).filters = s.filters := rfl
@[simp] theorem State.modPwr_unsent (f : Power → Power) : (s.modPwr f).unsent = s.unsent := rfl
@[simp] theorem State.modPwr_colls (f : Power → Power) : (s.modPwr f).colls = s.colls := rfl
@[simp] theorem State.modPwr_nextColl (f : Power → Power) : (s.modPwr f).nextColl = s.nextColl := rfl
@[simp] theorem State.modPwr_shards (f : Power → Power) : (s.modPwr f).shards = s.shards := rfl
@[simp] theorem State.modPwr_lists (f : Power → Power) : (s.modPwr f).lists = s.lists := rfl
@[simp] theorem State.modPwr_eng (f : Power → Power) : (s.modPwr f).eng = s.eng := rfl
@[simp] theorem State.modPwr_models (f : Power → Power) : (s.modPwr f).models = s.models := rfl
@[simp] theorem State.modPwr_runs (f : Power → Power) : (s.modPwr f).runs = s.runs := rfl
@[simp] theorem State.modPwr_regions (f : Power → Power) : (s.modPwr f).regions = s.regions := rfl
@[simp] theorem State.modPwr_operandBufs (f : Power → Power) : (s.modPwr f).operandBufs = s.operandBufs := rfl
@[simp] theorem State.modPwr_pimRuns (f : Power → Power) : (s.modPwr f).pimRuns = s.pimRuns := rfl
@[simp] theorem State.modPwr_nextHandle (f : Power → Power) : (s.modPwr f).nextHandle = s.nextHandle := rfl
@[simp] theorem State.modPwr_tier (f : Power → Power) : (s.modPwr f).tier = s.tier := rfl
@[simp] theorem State.modPwr_pools (f : Power → Power) : (s.modPwr f).pools = s.pools := rfl
@[simp] theorem State.modPwr_nextPool (f : Power → Power) : (s.modPwr f).nextPool = s.nextPool := rfl
@[simp] theorem State.modPwr_ports (f : Power → Power) : (s.modPwr f).ports = s.ports := rfl
@[simp] theorem State.modPwr_portSelect (f : Power → Power) : (s.modPwr f).portSelect = s.portSelect := rfl
@[simp] theorem State.modPwr_peers (f : Power → Power) : (s.modPwr f).peers = s.peers := rfl
@[simp] theorem State.modPwr_spares (f : Power → Power) : (s.modPwr f).spares = s.spares := rfl
@[simp] theorem State.modPwr_out (f : Power → Power) : (s.modPwr f).out = s.out := rfl
@[simp] theorem State.modPwr_free (f : Power → Power) : (s.modPwr f).free = s.free := rfl

@[simp] theorem State.modSched_pending (f : Sched → Sched) : (s.modSched f).pending = s.pending := rfl
@[simp] theorem State.modSched_ao (f : Sched → Sched) : (s.modSched f).ao = s.ao := rfl
@[simp] theorem State.modSched_pins (f : Sched → Sched) : (s.modSched f).pins = s.pins := rfl
@[simp] theorem State.modSched_pwr (f : Sched → Sched) : (s.modSched f).pwr = s.pwr := rfl
@[simp] theorem State.modSched_cfg (f : Sched → Sched) : (s.modSched f).cfg = s.cfg := rfl
@[simp] theorem State.modSched_fns (f : Sched → Sched) : (s.modSched f).fns = s.fns := rfl
@[simp] theorem State.modSched_mboxes (f : Sched → Sched) : (s.modSched f).mboxes = s.mboxes := rfl
@[simp] theorem State.modSched_tails (f : Sched → Sched) : (s.modSched f).tails = s.tails := rfl
@[simp] theorem State.modSched_activePair (f : Sched → Sched) : (s.modSched f).activePair = s.activePair := rfl
@[simp] theorem State.modSched_queues (f : Sched → Sched) : (s.modSched f).queues = s.queues := rfl
@[simp] theorem State.modSched_arbs (f : Sched → Sched) : (s.modSched f).arbs = s.arbs := rfl
@[simp] theorem State.modSched_arbSelect (f : Sched → Sched) : (s.modSched f).arbSelect = s.arbSelect := rfl
@[simp] theorem State.modSched_arbRequester (f : Sched → Sched) : (s.modSched f).arbRequester = s.arbRequester := rfl
@[simp] theorem State.modSched_arbWaitTotal (f : Sched → Sched) : (s.modSched f).arbWaitTotal = s.arbWaitTotal := rfl
@[simp] theorem State.modSched_arbWaitMax (f : Sched → Sched) : (s.modSched f).arbWaitMax = s.arbWaitMax := rfl
@[simp] theorem State.modSched_reqs (f : Sched → Sched) : (s.modSched f).reqs = s.reqs := rfl
@[simp] theorem State.modSched_nextNum (f : Sched → Sched) : (s.modSched f).nextNum = s.nextNum := rfl
@[simp] theorem State.modSched_nextOrder (f : Sched → Sched) : (s.modSched f).nextOrder = s.nextOrder := rfl
@[simp] theorem State.modSched_heldNums (f : Sched → Sched) : (s.modSched f).heldNums = s.heldNums := rfl
@[simp] theorem State.modSched_filters (f : Sched → Sched) : (s.modSched f).filters = s.filters := rfl
@[simp] theorem State.modSched_unsent (f : Sched → Sched) : (s.modSched f).unsent = s.unsent := rfl
@[simp] theorem State.modSched_colls (f : Sched → Sched) : (s.modSched f).colls = s.colls := rfl
@[simp] theorem State.modSched_nextColl (f : Sched → Sched) : (s.modSched f).nextColl = s.nextColl := rfl
@[simp] theorem State.modSched_shards (f : Sched → Sched) : (s.modSched f).shards = s.shards := rfl
@[simp] theorem State.modSched_lists (f : Sched → Sched) : (s.modSched f).lists = s.lists := rfl
@[simp] theorem State.modSched_eng (f : Sched → Sched) : (s.modSched f).eng = s.eng := rfl
@[simp] theorem State.modSched_models (f : Sched → Sched) : (s.modSched f).models = s.models := rfl
@[simp] theorem State.modSched_runs (f : Sched → Sched) : (s.modSched f).runs = s.runs := rfl
@[simp] theorem State.modSched_regions (f : Sched → Sched) : (s.modSched f).regions = s.regions := rfl
@[simp] theorem State.modSched_operandBufs (f : Sched → Sched) : (s.modSched f).operandBufs = s.operandBufs := rfl
@[simp] theorem State.modSched_pimRuns (f : Sched → Sched) : (s.modSched f).pimRuns = s.pimRuns := rfl
@[simp] theorem State.modSched_nextHandle (f : Sched → Sched) : (s.modSched f).nextHandle = s.nextHandle := rfl
@[simp] theorem State.modSched_tier (f : Sched → Sched) : (s.modSched f).tier = s.tier := rfl
@[simp] theorem State.modSched_pools (f : Sched → Sched) : (s.modSched f).pools = s.pools := rfl
@[simp] theorem State.modSched_nextPool (f : Sched → Sched) : (s.modSched f).nextPool = s.nextPool := rfl
@[simp] theorem State.modSched_ports (f : Sched → Sched) : (s.modSched f).ports = s.ports := rfl
@[simp] theorem State.modSched_portSelect (f : Sched → Sched) : (s.modSched f).portSelect = s.portSelect := rfl
@[simp] theorem State.modSched_peers (f : Sched → Sched) : (s.modSched f).peers = s.peers := rfl
@[simp] theorem State.modSched_spares (f : Sched → Sched) : (s.modSched f).spares = s.spares := rfl
@[simp] theorem State.modSched_out (f : Sched → Sched) : (s.modSched f).out = s.out := rfl
@[simp] theorem State.modSched_free (f : Sched → Sched) : (s.modSched f).free = s.free := rfl

@[simp] theorem State.modSpares_pending (f : Spares → Spares) : (s.modSpares f).pending = s.pending := rfl
@[simp] theorem State.modSpares_ao (f : Spares → Spares) : (s.modSpares f).ao = s.ao := rfl
@[simp] theorem State.modSpares_pins (f : Spares → Spares) : (s.modSpares f).pins = s.pins := rfl
@[simp] theorem State.modSpares_pwr (f : Spares → Spares) : (s.modSpares f).pwr = s.pwr := rfl
@[simp] theorem State.modSpares_cfg (f : Spares → Spares) : (s.modSpares f).cfg = s.cfg := rfl
@[simp] theorem State.modSpares_fns (f : Spares → Spares) : (s.modSpares f).fns = s.fns := rfl
@[simp] theorem State.modSpares_mboxes (f : Spares → Spares) : (s.modSpares f).mboxes = s.mboxes := rfl
@[simp] theorem State.modSpares_tails (f : Spares → Spares) : (s.modSpares f).tails = s.tails := rfl
@[simp] theorem State.modSpares_activePair (f : Spares → Spares) : (s.modSpares f).activePair = s.activePair := rfl
@[simp] theorem State.modSpares_queues (f : Spares → Spares) : (s.modSpares f).queues = s.queues := rfl
@[simp] theorem State.modSpares_sched (f : Spares → Spares) : (s.modSpares f).sched = s.sched := rfl
@[simp] theorem State.modSpares_arbs (f : Spares → Spares) : (s.modSpares f).arbs = s.arbs := rfl
@[simp] theorem State.modSpares_arbSelect (f : Spares → Spares) : (s.modSpares f).arbSelect = s.arbSelect := rfl
@[simp] theorem State.modSpares_arbRequester (f : Spares → Spares) : (s.modSpares f).arbRequester = s.arbRequester := rfl
@[simp] theorem State.modSpares_arbWaitTotal (f : Spares → Spares) : (s.modSpares f).arbWaitTotal = s.arbWaitTotal := rfl
@[simp] theorem State.modSpares_arbWaitMax (f : Spares → Spares) : (s.modSpares f).arbWaitMax = s.arbWaitMax := rfl
@[simp] theorem State.modSpares_reqs (f : Spares → Spares) : (s.modSpares f).reqs = s.reqs := rfl
@[simp] theorem State.modSpares_nextNum (f : Spares → Spares) : (s.modSpares f).nextNum = s.nextNum := rfl
@[simp] theorem State.modSpares_nextOrder (f : Spares → Spares) : (s.modSpares f).nextOrder = s.nextOrder := rfl
@[simp] theorem State.modSpares_heldNums (f : Spares → Spares) : (s.modSpares f).heldNums = s.heldNums := rfl
@[simp] theorem State.modSpares_filters (f : Spares → Spares) : (s.modSpares f).filters = s.filters := rfl
@[simp] theorem State.modSpares_unsent (f : Spares → Spares) : (s.modSpares f).unsent = s.unsent := rfl
@[simp] theorem State.modSpares_colls (f : Spares → Spares) : (s.modSpares f).colls = s.colls := rfl
@[simp] theorem State.modSpares_nextColl (f : Spares → Spares) : (s.modSpares f).nextColl = s.nextColl := rfl
@[simp] theorem State.modSpares_shards (f : Spares → Spares) : (s.modSpares f).shards = s.shards := rfl
@[simp] theorem State.modSpares_lists (f : Spares → Spares) : (s.modSpares f).lists = s.lists := rfl
@[simp] theorem State.modSpares_eng (f : Spares → Spares) : (s.modSpares f).eng = s.eng := rfl
@[simp] theorem State.modSpares_models (f : Spares → Spares) : (s.modSpares f).models = s.models := rfl
@[simp] theorem State.modSpares_runs (f : Spares → Spares) : (s.modSpares f).runs = s.runs := rfl
@[simp] theorem State.modSpares_regions (f : Spares → Spares) : (s.modSpares f).regions = s.regions := rfl
@[simp] theorem State.modSpares_operandBufs (f : Spares → Spares) : (s.modSpares f).operandBufs = s.operandBufs := rfl
@[simp] theorem State.modSpares_pimRuns (f : Spares → Spares) : (s.modSpares f).pimRuns = s.pimRuns := rfl
@[simp] theorem State.modSpares_nextHandle (f : Spares → Spares) : (s.modSpares f).nextHandle = s.nextHandle := rfl
@[simp] theorem State.modSpares_tier (f : Spares → Spares) : (s.modSpares f).tier = s.tier := rfl
@[simp] theorem State.modSpares_pools (f : Spares → Spares) : (s.modSpares f).pools = s.pools := rfl
@[simp] theorem State.modSpares_nextPool (f : Spares → Spares) : (s.modSpares f).nextPool = s.nextPool := rfl
@[simp] theorem State.modSpares_ports (f : Spares → Spares) : (s.modSpares f).ports = s.ports := rfl
@[simp] theorem State.modSpares_portSelect (f : Spares → Spares) : (s.modSpares f).portSelect = s.portSelect := rfl
@[simp] theorem State.modSpares_peers (f : Spares → Spares) : (s.modSpares f).peers = s.peers := rfl
@[simp] theorem State.modSpares_out (f : Spares → Spares) : (s.modSpares f).out = s.out := rfl
@[simp] theorem State.modSpares_free (f : Spares → Spares) : (s.modSpares f).free = s.free := rfl

@[simp] theorem State.modQueue_pending (i : Nat) (f : Queue → Queue) : (s.modQueue i f).pending = s.pending := rfl
@[simp] theorem State.modQueue_ao (i : Nat) (f : Queue → Queue) : (s.modQueue i f).ao = s.ao := rfl
@[simp] theorem State.modQueue_pins (i : Nat) (f : Queue → Queue) : (s.modQueue i f).pins = s.pins := rfl
@[simp] theorem State.modQueue_pwr (i : Nat) (f : Queue → Queue) : (s.modQueue i f).pwr = s.pwr := rfl
@[simp] theorem State.modQueue_cfg (i : Nat) (f : Queue → Queue) : (s.modQueue i f).cfg = s.cfg := rfl
@[simp] theorem State.modQueue_fns (i : Nat) (f : Queue → Queue) : (s.modQueue i f).fns = s.fns := rfl
@[simp] theorem State.modQueue_mboxes (i : Nat) (f : Queue → Queue) : (s.modQueue i f).mboxes = s.mboxes := rfl
@[simp] theorem State.modQueue_tails (i : Nat) (f : Queue → Queue) : (s.modQueue i f).tails = s.tails := rfl
@[simp] theorem State.modQueue_activePair (i : Nat) (f : Queue → Queue) : (s.modQueue i f).activePair = s.activePair := rfl
@[simp] theorem State.modQueue_sched (i : Nat) (f : Queue → Queue) : (s.modQueue i f).sched = s.sched := rfl
@[simp] theorem State.modQueue_arbs (i : Nat) (f : Queue → Queue) : (s.modQueue i f).arbs = s.arbs := rfl
@[simp] theorem State.modQueue_arbSelect (i : Nat) (f : Queue → Queue) : (s.modQueue i f).arbSelect = s.arbSelect := rfl
@[simp] theorem State.modQueue_arbRequester (i : Nat) (f : Queue → Queue) : (s.modQueue i f).arbRequester = s.arbRequester := rfl
@[simp] theorem State.modQueue_arbWaitTotal (i : Nat) (f : Queue → Queue) : (s.modQueue i f).arbWaitTotal = s.arbWaitTotal := rfl
@[simp] theorem State.modQueue_arbWaitMax (i : Nat) (f : Queue → Queue) : (s.modQueue i f).arbWaitMax = s.arbWaitMax := rfl
@[simp] theorem State.modQueue_reqs (i : Nat) (f : Queue → Queue) : (s.modQueue i f).reqs = s.reqs := rfl
@[simp] theorem State.modQueue_nextNum (i : Nat) (f : Queue → Queue) : (s.modQueue i f).nextNum = s.nextNum := rfl
@[simp] theorem State.modQueue_nextOrder (i : Nat) (f : Queue → Queue) : (s.modQueue i f).nextOrder = s.nextOrder := rfl
@[simp] theorem State.modQueue_heldNums (i : Nat) (f : Queue → Queue) : (s.modQueue i f).heldNums = s.heldNums := rfl
@[simp] theorem State.modQueue_filters (i : Nat) (f : Queue → Queue) : (s.modQueue i f).filters = s.filters := rfl
@[simp] theorem State.modQueue_unsent (i : Nat) (f : Queue → Queue) : (s.modQueue i f).unsent = s.unsent := rfl
@[simp] theorem State.modQueue_colls (i : Nat) (f : Queue → Queue) : (s.modQueue i f).colls = s.colls := rfl
@[simp] theorem State.modQueue_nextColl (i : Nat) (f : Queue → Queue) : (s.modQueue i f).nextColl = s.nextColl := rfl
@[simp] theorem State.modQueue_shards (i : Nat) (f : Queue → Queue) : (s.modQueue i f).shards = s.shards := rfl
@[simp] theorem State.modQueue_lists (i : Nat) (f : Queue → Queue) : (s.modQueue i f).lists = s.lists := rfl
@[simp] theorem State.modQueue_eng (i : Nat) (f : Queue → Queue) : (s.modQueue i f).eng = s.eng := rfl
@[simp] theorem State.modQueue_models (i : Nat) (f : Queue → Queue) : (s.modQueue i f).models = s.models := rfl
@[simp] theorem State.modQueue_runs (i : Nat) (f : Queue → Queue) : (s.modQueue i f).runs = s.runs := rfl
@[simp] theorem State.modQueue_regions (i : Nat) (f : Queue → Queue) : (s.modQueue i f).regions = s.regions := rfl
@[simp] theorem State.modQueue_operandBufs (i : Nat) (f : Queue → Queue) : (s.modQueue i f).operandBufs = s.operandBufs := rfl
@[simp] theorem State.modQueue_pimRuns (i : Nat) (f : Queue → Queue) : (s.modQueue i f).pimRuns = s.pimRuns := rfl
@[simp] theorem State.modQueue_nextHandle (i : Nat) (f : Queue → Queue) : (s.modQueue i f).nextHandle = s.nextHandle := rfl
@[simp] theorem State.modQueue_tier (i : Nat) (f : Queue → Queue) : (s.modQueue i f).tier = s.tier := rfl
@[simp] theorem State.modQueue_pools (i : Nat) (f : Queue → Queue) : (s.modQueue i f).pools = s.pools := rfl
@[simp] theorem State.modQueue_nextPool (i : Nat) (f : Queue → Queue) : (s.modQueue i f).nextPool = s.nextPool := rfl
@[simp] theorem State.modQueue_ports (i : Nat) (f : Queue → Queue) : (s.modQueue i f).ports = s.ports := rfl
@[simp] theorem State.modQueue_portSelect (i : Nat) (f : Queue → Queue) : (s.modQueue i f).portSelect = s.portSelect := rfl
@[simp] theorem State.modQueue_peers (i : Nat) (f : Queue → Queue) : (s.modQueue i f).peers = s.peers := rfl
@[simp] theorem State.modQueue_spares (i : Nat) (f : Queue → Queue) : (s.modQueue i f).spares = s.spares := rfl
@[simp] theorem State.modQueue_out (i : Nat) (f : Queue → Queue) : (s.modQueue i f).out = s.out := rfl
@[simp] theorem State.modQueue_free (i : Nat) (f : Queue → Queue) : (s.modQueue i f).free = s.free := rfl

@[simp] theorem State.modReq_pending (i : Nat) (f : Req → Req) : (s.modReq i f).pending = s.pending := rfl
@[simp] theorem State.modReq_ao (i : Nat) (f : Req → Req) : (s.modReq i f).ao = s.ao := rfl
@[simp] theorem State.modReq_pins (i : Nat) (f : Req → Req) : (s.modReq i f).pins = s.pins := rfl
@[simp] theorem State.modReq_pwr (i : Nat) (f : Req → Req) : (s.modReq i f).pwr = s.pwr := rfl
@[simp] theorem State.modReq_cfg (i : Nat) (f : Req → Req) : (s.modReq i f).cfg = s.cfg := rfl
@[simp] theorem State.modReq_fns (i : Nat) (f : Req → Req) : (s.modReq i f).fns = s.fns := rfl
@[simp] theorem State.modReq_mboxes (i : Nat) (f : Req → Req) : (s.modReq i f).mboxes = s.mboxes := rfl
@[simp] theorem State.modReq_tails (i : Nat) (f : Req → Req) : (s.modReq i f).tails = s.tails := rfl
@[simp] theorem State.modReq_activePair (i : Nat) (f : Req → Req) : (s.modReq i f).activePair = s.activePair := rfl
@[simp] theorem State.modReq_queues (i : Nat) (f : Req → Req) : (s.modReq i f).queues = s.queues := rfl
@[simp] theorem State.modReq_sched (i : Nat) (f : Req → Req) : (s.modReq i f).sched = s.sched := rfl
@[simp] theorem State.modReq_arbs (i : Nat) (f : Req → Req) : (s.modReq i f).arbs = s.arbs := rfl
@[simp] theorem State.modReq_arbSelect (i : Nat) (f : Req → Req) : (s.modReq i f).arbSelect = s.arbSelect := rfl
@[simp] theorem State.modReq_arbRequester (i : Nat) (f : Req → Req) : (s.modReq i f).arbRequester = s.arbRequester := rfl
@[simp] theorem State.modReq_arbWaitTotal (i : Nat) (f : Req → Req) : (s.modReq i f).arbWaitTotal = s.arbWaitTotal := rfl
@[simp] theorem State.modReq_arbWaitMax (i : Nat) (f : Req → Req) : (s.modReq i f).arbWaitMax = s.arbWaitMax := rfl
@[simp] theorem State.modReq_nextNum (i : Nat) (f : Req → Req) : (s.modReq i f).nextNum = s.nextNum := rfl
@[simp] theorem State.modReq_nextOrder (i : Nat) (f : Req → Req) : (s.modReq i f).nextOrder = s.nextOrder := rfl
@[simp] theorem State.modReq_heldNums (i : Nat) (f : Req → Req) : (s.modReq i f).heldNums = s.heldNums := rfl
@[simp] theorem State.modReq_filters (i : Nat) (f : Req → Req) : (s.modReq i f).filters = s.filters := rfl
@[simp] theorem State.modReq_unsent (i : Nat) (f : Req → Req) : (s.modReq i f).unsent = s.unsent := rfl
@[simp] theorem State.modReq_colls (i : Nat) (f : Req → Req) : (s.modReq i f).colls = s.colls := rfl
@[simp] theorem State.modReq_nextColl (i : Nat) (f : Req → Req) : (s.modReq i f).nextColl = s.nextColl := rfl
@[simp] theorem State.modReq_shards (i : Nat) (f : Req → Req) : (s.modReq i f).shards = s.shards := rfl
@[simp] theorem State.modReq_lists (i : Nat) (f : Req → Req) : (s.modReq i f).lists = s.lists := rfl
@[simp] theorem State.modReq_eng (i : Nat) (f : Req → Req) : (s.modReq i f).eng = s.eng := rfl
@[simp] theorem State.modReq_models (i : Nat) (f : Req → Req) : (s.modReq i f).models = s.models := rfl
@[simp] theorem State.modReq_runs (i : Nat) (f : Req → Req) : (s.modReq i f).runs = s.runs := rfl
@[simp] theorem State.modReq_regions (i : Nat) (f : Req → Req) : (s.modReq i f).regions = s.regions := rfl
@[simp] theorem State.modReq_operandBufs (i : Nat) (f : Req → Req) : (s.modReq i f).operandBufs = s.operandBufs := rfl
@[simp] theorem State.modReq_pimRuns (i : Nat) (f : Req → Req) : (s.modReq i f).pimRuns = s.pimRuns := rfl
@[simp] theorem State.modReq_nextHandle (i : Nat) (f : Req → Req) : (s.modReq i f).nextHandle = s.nextHandle := rfl
@[simp] theorem State.modReq_tier (i : Nat) (f : Req → Req) : (s.modReq i f).tier = s.tier := rfl
@[simp] theorem State.modReq_pools (i : Nat) (f : Req → Req) : (s.modReq i f).pools = s.pools := rfl
@[simp] theorem State.modReq_nextPool (i : Nat) (f : Req → Req) : (s.modReq i f).nextPool = s.nextPool := rfl
@[simp] theorem State.modReq_ports (i : Nat) (f : Req → Req) : (s.modReq i f).ports = s.ports := rfl
@[simp] theorem State.modReq_portSelect (i : Nat) (f : Req → Req) : (s.modReq i f).portSelect = s.portSelect := rfl
@[simp] theorem State.modReq_peers (i : Nat) (f : Req → Req) : (s.modReq i f).peers = s.peers := rfl
@[simp] theorem State.modReq_spares (i : Nat) (f : Req → Req) : (s.modReq i f).spares = s.spares := rfl
@[simp] theorem State.modReq_out (i : Nat) (f : Req → Req) : (s.modReq i f).out = s.out := rfl
@[simp] theorem State.modReq_free (i : Nat) (f : Req → Req) : (s.modReq i f).free = s.free := rfl

@[simp] theorem State.modColl_pending (i : Nat) (f : Coll → Coll) : (s.modColl i f).pending = s.pending := rfl
@[simp] theorem State.modColl_ao (i : Nat) (f : Coll → Coll) : (s.modColl i f).ao = s.ao := rfl
@[simp] theorem State.modColl_pins (i : Nat) (f : Coll → Coll) : (s.modColl i f).pins = s.pins := rfl
@[simp] theorem State.modColl_pwr (i : Nat) (f : Coll → Coll) : (s.modColl i f).pwr = s.pwr := rfl
@[simp] theorem State.modColl_cfg (i : Nat) (f : Coll → Coll) : (s.modColl i f).cfg = s.cfg := rfl
@[simp] theorem State.modColl_fns (i : Nat) (f : Coll → Coll) : (s.modColl i f).fns = s.fns := rfl
@[simp] theorem State.modColl_mboxes (i : Nat) (f : Coll → Coll) : (s.modColl i f).mboxes = s.mboxes := rfl
@[simp] theorem State.modColl_tails (i : Nat) (f : Coll → Coll) : (s.modColl i f).tails = s.tails := rfl
@[simp] theorem State.modColl_activePair (i : Nat) (f : Coll → Coll) : (s.modColl i f).activePair = s.activePair := rfl
@[simp] theorem State.modColl_queues (i : Nat) (f : Coll → Coll) : (s.modColl i f).queues = s.queues := rfl
@[simp] theorem State.modColl_sched (i : Nat) (f : Coll → Coll) : (s.modColl i f).sched = s.sched := rfl
@[simp] theorem State.modColl_arbs (i : Nat) (f : Coll → Coll) : (s.modColl i f).arbs = s.arbs := rfl
@[simp] theorem State.modColl_arbSelect (i : Nat) (f : Coll → Coll) : (s.modColl i f).arbSelect = s.arbSelect := rfl
@[simp] theorem State.modColl_arbRequester (i : Nat) (f : Coll → Coll) : (s.modColl i f).arbRequester = s.arbRequester := rfl
@[simp] theorem State.modColl_arbWaitTotal (i : Nat) (f : Coll → Coll) : (s.modColl i f).arbWaitTotal = s.arbWaitTotal := rfl
@[simp] theorem State.modColl_arbWaitMax (i : Nat) (f : Coll → Coll) : (s.modColl i f).arbWaitMax = s.arbWaitMax := rfl
@[simp] theorem State.modColl_reqs (i : Nat) (f : Coll → Coll) : (s.modColl i f).reqs = s.reqs := rfl
@[simp] theorem State.modColl_nextNum (i : Nat) (f : Coll → Coll) : (s.modColl i f).nextNum = s.nextNum := rfl
@[simp] theorem State.modColl_nextOrder (i : Nat) (f : Coll → Coll) : (s.modColl i f).nextOrder = s.nextOrder := rfl
@[simp] theorem State.modColl_heldNums (i : Nat) (f : Coll → Coll) : (s.modColl i f).heldNums = s.heldNums := rfl
@[simp] theorem State.modColl_filters (i : Nat) (f : Coll → Coll) : (s.modColl i f).filters = s.filters := rfl
@[simp] theorem State.modColl_unsent (i : Nat) (f : Coll → Coll) : (s.modColl i f).unsent = s.unsent := rfl
@[simp] theorem State.modColl_nextColl (i : Nat) (f : Coll → Coll) : (s.modColl i f).nextColl = s.nextColl := rfl
@[simp] theorem State.modColl_shards (i : Nat) (f : Coll → Coll) : (s.modColl i f).shards = s.shards := rfl
@[simp] theorem State.modColl_lists (i : Nat) (f : Coll → Coll) : (s.modColl i f).lists = s.lists := rfl
@[simp] theorem State.modColl_eng (i : Nat) (f : Coll → Coll) : (s.modColl i f).eng = s.eng := rfl
@[simp] theorem State.modColl_models (i : Nat) (f : Coll → Coll) : (s.modColl i f).models = s.models := rfl
@[simp] theorem State.modColl_runs (i : Nat) (f : Coll → Coll) : (s.modColl i f).runs = s.runs := rfl
@[simp] theorem State.modColl_regions (i : Nat) (f : Coll → Coll) : (s.modColl i f).regions = s.regions := rfl
@[simp] theorem State.modColl_operandBufs (i : Nat) (f : Coll → Coll) : (s.modColl i f).operandBufs = s.operandBufs := rfl
@[simp] theorem State.modColl_pimRuns (i : Nat) (f : Coll → Coll) : (s.modColl i f).pimRuns = s.pimRuns := rfl
@[simp] theorem State.modColl_nextHandle (i : Nat) (f : Coll → Coll) : (s.modColl i f).nextHandle = s.nextHandle := rfl
@[simp] theorem State.modColl_tier (i : Nat) (f : Coll → Coll) : (s.modColl i f).tier = s.tier := rfl
@[simp] theorem State.modColl_pools (i : Nat) (f : Coll → Coll) : (s.modColl i f).pools = s.pools := rfl
@[simp] theorem State.modColl_nextPool (i : Nat) (f : Coll → Coll) : (s.modColl i f).nextPool = s.nextPool := rfl
@[simp] theorem State.modColl_ports (i : Nat) (f : Coll → Coll) : (s.modColl i f).ports = s.ports := rfl
@[simp] theorem State.modColl_portSelect (i : Nat) (f : Coll → Coll) : (s.modColl i f).portSelect = s.portSelect := rfl
@[simp] theorem State.modColl_peers (i : Nat) (f : Coll → Coll) : (s.modColl i f).peers = s.peers := rfl
@[simp] theorem State.modColl_spares (i : Nat) (f : Coll → Coll) : (s.modColl i f).spares = s.spares := rfl
@[simp] theorem State.modColl_out (i : Nat) (f : Coll → Coll) : (s.modColl i f).out = s.out := rfl
@[simp] theorem State.modColl_free (i : Nat) (f : Coll → Coll) : (s.modColl i f).free = s.free := rfl

@[simp] theorem State.modShard_pending (i : Nat) (f : Shard → Shard) : (s.modShard i f).pending = s.pending := rfl
@[simp] theorem State.modShard_ao (i : Nat) (f : Shard → Shard) : (s.modShard i f).ao = s.ao := rfl
@[simp] theorem State.modShard_pins (i : Nat) (f : Shard → Shard) : (s.modShard i f).pins = s.pins := rfl
@[simp] theorem State.modShard_pwr (i : Nat) (f : Shard → Shard) : (s.modShard i f).pwr = s.pwr := rfl
@[simp] theorem State.modShard_cfg (i : Nat) (f : Shard → Shard) : (s.modShard i f).cfg = s.cfg := rfl
@[simp] theorem State.modShard_fns (i : Nat) (f : Shard → Shard) : (s.modShard i f).fns = s.fns := rfl
@[simp] theorem State.modShard_mboxes (i : Nat) (f : Shard → Shard) : (s.modShard i f).mboxes = s.mboxes := rfl
@[simp] theorem State.modShard_tails (i : Nat) (f : Shard → Shard) : (s.modShard i f).tails = s.tails := rfl
@[simp] theorem State.modShard_activePair (i : Nat) (f : Shard → Shard) : (s.modShard i f).activePair = s.activePair := rfl
@[simp] theorem State.modShard_queues (i : Nat) (f : Shard → Shard) : (s.modShard i f).queues = s.queues := rfl
@[simp] theorem State.modShard_sched (i : Nat) (f : Shard → Shard) : (s.modShard i f).sched = s.sched := rfl
@[simp] theorem State.modShard_arbs (i : Nat) (f : Shard → Shard) : (s.modShard i f).arbs = s.arbs := rfl
@[simp] theorem State.modShard_arbSelect (i : Nat) (f : Shard → Shard) : (s.modShard i f).arbSelect = s.arbSelect := rfl
@[simp] theorem State.modShard_arbRequester (i : Nat) (f : Shard → Shard) : (s.modShard i f).arbRequester = s.arbRequester := rfl
@[simp] theorem State.modShard_arbWaitTotal (i : Nat) (f : Shard → Shard) : (s.modShard i f).arbWaitTotal = s.arbWaitTotal := rfl
@[simp] theorem State.modShard_arbWaitMax (i : Nat) (f : Shard → Shard) : (s.modShard i f).arbWaitMax = s.arbWaitMax := rfl
@[simp] theorem State.modShard_reqs (i : Nat) (f : Shard → Shard) : (s.modShard i f).reqs = s.reqs := rfl
@[simp] theorem State.modShard_nextNum (i : Nat) (f : Shard → Shard) : (s.modShard i f).nextNum = s.nextNum := rfl
@[simp] theorem State.modShard_nextOrder (i : Nat) (f : Shard → Shard) : (s.modShard i f).nextOrder = s.nextOrder := rfl
@[simp] theorem State.modShard_heldNums (i : Nat) (f : Shard → Shard) : (s.modShard i f).heldNums = s.heldNums := rfl
@[simp] theorem State.modShard_filters (i : Nat) (f : Shard → Shard) : (s.modShard i f).filters = s.filters := rfl
@[simp] theorem State.modShard_unsent (i : Nat) (f : Shard → Shard) : (s.modShard i f).unsent = s.unsent := rfl
@[simp] theorem State.modShard_colls (i : Nat) (f : Shard → Shard) : (s.modShard i f).colls = s.colls := rfl
@[simp] theorem State.modShard_nextColl (i : Nat) (f : Shard → Shard) : (s.modShard i f).nextColl = s.nextColl := rfl
@[simp] theorem State.modShard_lists (i : Nat) (f : Shard → Shard) : (s.modShard i f).lists = s.lists := rfl
@[simp] theorem State.modShard_eng (i : Nat) (f : Shard → Shard) : (s.modShard i f).eng = s.eng := rfl
@[simp] theorem State.modShard_models (i : Nat) (f : Shard → Shard) : (s.modShard i f).models = s.models := rfl
@[simp] theorem State.modShard_runs (i : Nat) (f : Shard → Shard) : (s.modShard i f).runs = s.runs := rfl
@[simp] theorem State.modShard_regions (i : Nat) (f : Shard → Shard) : (s.modShard i f).regions = s.regions := rfl
@[simp] theorem State.modShard_operandBufs (i : Nat) (f : Shard → Shard) : (s.modShard i f).operandBufs = s.operandBufs := rfl
@[simp] theorem State.modShard_pimRuns (i : Nat) (f : Shard → Shard) : (s.modShard i f).pimRuns = s.pimRuns := rfl
@[simp] theorem State.modShard_nextHandle (i : Nat) (f : Shard → Shard) : (s.modShard i f).nextHandle = s.nextHandle := rfl
@[simp] theorem State.modShard_tier (i : Nat) (f : Shard → Shard) : (s.modShard i f).tier = s.tier := rfl
@[simp] theorem State.modShard_pools (i : Nat) (f : Shard → Shard) : (s.modShard i f).pools = s.pools := rfl
@[simp] theorem State.modShard_nextPool (i : Nat) (f : Shard → Shard) : (s.modShard i f).nextPool = s.nextPool := rfl
@[simp] theorem State.modShard_ports (i : Nat) (f : Shard → Shard) : (s.modShard i f).ports = s.ports := rfl
@[simp] theorem State.modShard_portSelect (i : Nat) (f : Shard → Shard) : (s.modShard i f).portSelect = s.portSelect := rfl
@[simp] theorem State.modShard_peers (i : Nat) (f : Shard → Shard) : (s.modShard i f).peers = s.peers := rfl
@[simp] theorem State.modShard_spares (i : Nat) (f : Shard → Shard) : (s.modShard i f).spares = s.spares := rfl
@[simp] theorem State.modShard_out (i : Nat) (f : Shard → Shard) : (s.modShard i f).out = s.out := rfl
@[simp] theorem State.modShard_free (i : Nat) (f : Shard → Shard) : (s.modShard i f).free = s.free := rfl

@[simp] theorem State.modList_pending (i : Nat) (f : LList → LList) : (s.modList i f).pending = s.pending := rfl
@[simp] theorem State.modList_ao (i : Nat) (f : LList → LList) : (s.modList i f).ao = s.ao := rfl
@[simp] theorem State.modList_pins (i : Nat) (f : LList → LList) : (s.modList i f).pins = s.pins := rfl
@[simp] theorem State.modList_pwr (i : Nat) (f : LList → LList) : (s.modList i f).pwr = s.pwr := rfl
@[simp] theorem State.modList_cfg (i : Nat) (f : LList → LList) : (s.modList i f).cfg = s.cfg := rfl
@[simp] theorem State.modList_fns (i : Nat) (f : LList → LList) : (s.modList i f).fns = s.fns := rfl
@[simp] theorem State.modList_mboxes (i : Nat) (f : LList → LList) : (s.modList i f).mboxes = s.mboxes := rfl
@[simp] theorem State.modList_tails (i : Nat) (f : LList → LList) : (s.modList i f).tails = s.tails := rfl
@[simp] theorem State.modList_activePair (i : Nat) (f : LList → LList) : (s.modList i f).activePair = s.activePair := rfl
@[simp] theorem State.modList_queues (i : Nat) (f : LList → LList) : (s.modList i f).queues = s.queues := rfl
@[simp] theorem State.modList_sched (i : Nat) (f : LList → LList) : (s.modList i f).sched = s.sched := rfl
@[simp] theorem State.modList_arbs (i : Nat) (f : LList → LList) : (s.modList i f).arbs = s.arbs := rfl
@[simp] theorem State.modList_arbSelect (i : Nat) (f : LList → LList) : (s.modList i f).arbSelect = s.arbSelect := rfl
@[simp] theorem State.modList_arbRequester (i : Nat) (f : LList → LList) : (s.modList i f).arbRequester = s.arbRequester := rfl
@[simp] theorem State.modList_arbWaitTotal (i : Nat) (f : LList → LList) : (s.modList i f).arbWaitTotal = s.arbWaitTotal := rfl
@[simp] theorem State.modList_arbWaitMax (i : Nat) (f : LList → LList) : (s.modList i f).arbWaitMax = s.arbWaitMax := rfl
@[simp] theorem State.modList_reqs (i : Nat) (f : LList → LList) : (s.modList i f).reqs = s.reqs := rfl
@[simp] theorem State.modList_nextNum (i : Nat) (f : LList → LList) : (s.modList i f).nextNum = s.nextNum := rfl
@[simp] theorem State.modList_nextOrder (i : Nat) (f : LList → LList) : (s.modList i f).nextOrder = s.nextOrder := rfl
@[simp] theorem State.modList_heldNums (i : Nat) (f : LList → LList) : (s.modList i f).heldNums = s.heldNums := rfl
@[simp] theorem State.modList_filters (i : Nat) (f : LList → LList) : (s.modList i f).filters = s.filters := rfl
@[simp] theorem State.modList_unsent (i : Nat) (f : LList → LList) : (s.modList i f).unsent = s.unsent := rfl
@[simp] theorem State.modList_colls (i : Nat) (f : LList → LList) : (s.modList i f).colls = s.colls := rfl
@[simp] theorem State.modList_nextColl (i : Nat) (f : LList → LList) : (s.modList i f).nextColl = s.nextColl := rfl
@[simp] theorem State.modList_shards (i : Nat) (f : LList → LList) : (s.modList i f).shards = s.shards := rfl
@[simp] theorem State.modList_eng (i : Nat) (f : LList → LList) : (s.modList i f).eng = s.eng := rfl
@[simp] theorem State.modList_models (i : Nat) (f : LList → LList) : (s.modList i f).models = s.models := rfl
@[simp] theorem State.modList_runs (i : Nat) (f : LList → LList) : (s.modList i f).runs = s.runs := rfl
@[simp] theorem State.modList_regions (i : Nat) (f : LList → LList) : (s.modList i f).regions = s.regions := rfl
@[simp] theorem State.modList_operandBufs (i : Nat) (f : LList → LList) : (s.modList i f).operandBufs = s.operandBufs := rfl
@[simp] theorem State.modList_pimRuns (i : Nat) (f : LList → LList) : (s.modList i f).pimRuns = s.pimRuns := rfl
@[simp] theorem State.modList_nextHandle (i : Nat) (f : LList → LList) : (s.modList i f).nextHandle = s.nextHandle := rfl
@[simp] theorem State.modList_tier (i : Nat) (f : LList → LList) : (s.modList i f).tier = s.tier := rfl
@[simp] theorem State.modList_pools (i : Nat) (f : LList → LList) : (s.modList i f).pools = s.pools := rfl
@[simp] theorem State.modList_nextPool (i : Nat) (f : LList → LList) : (s.modList i f).nextPool = s.nextPool := rfl
@[simp] theorem State.modList_ports (i : Nat) (f : LList → LList) : (s.modList i f).ports = s.ports := rfl
@[simp] theorem State.modList_portSelect (i : Nat) (f : LList → LList) : (s.modList i f).portSelect = s.portSelect := rfl
@[simp] theorem State.modList_peers (i : Nat) (f : LList → LList) : (s.modList i f).peers = s.peers := rfl
@[simp] theorem State.modList_spares (i : Nat) (f : LList → LList) : (s.modList i f).spares = s.spares := rfl
@[simp] theorem State.modList_out (i : Nat) (f : LList → LList) : (s.modList i f).out = s.out := rfl
@[simp] theorem State.modList_free (i : Nat) (f : LList → LList) : (s.modList i f).free = s.free := rfl

@[simp] theorem State.modShare_pending (k : Key) (f : Share → Share) : (s.modShare k f).pending = s.pending := rfl
@[simp] theorem State.modShare_ao (k : Key) (f : Share → Share) : (s.modShare k f).ao = s.ao := rfl
@[simp] theorem State.modShare_pins (k : Key) (f : Share → Share) : (s.modShare k f).pins = s.pins := rfl
@[simp] theorem State.modShare_pwr (k : Key) (f : Share → Share) : (s.modShare k f).pwr = s.pwr := rfl
@[simp] theorem State.modShare_cfg (k : Key) (f : Share → Share) : (s.modShare k f).cfg = s.cfg := rfl
@[simp] theorem State.modShare_fns (k : Key) (f : Share → Share) : (s.modShare k f).fns = s.fns := rfl
@[simp] theorem State.modShare_mboxes (k : Key) (f : Share → Share) : (s.modShare k f).mboxes = s.mboxes := rfl
@[simp] theorem State.modShare_tails (k : Key) (f : Share → Share) : (s.modShare k f).tails = s.tails := rfl
@[simp] theorem State.modShare_activePair (k : Key) (f : Share → Share) : (s.modShare k f).activePair = s.activePair := rfl
@[simp] theorem State.modShare_queues (k : Key) (f : Share → Share) : (s.modShare k f).queues = s.queues := rfl
@[simp] theorem State.modShare_sched (k : Key) (f : Share → Share) : (s.modShare k f).sched = s.sched := rfl
@[simp] theorem State.modShare_arbs (k : Key) (f : Share → Share) : (s.modShare k f).arbs = s.arbs := rfl
@[simp] theorem State.modShare_arbSelect (k : Key) (f : Share → Share) : (s.modShare k f).arbSelect = s.arbSelect := rfl
@[simp] theorem State.modShare_arbRequester (k : Key) (f : Share → Share) : (s.modShare k f).arbRequester = s.arbRequester := rfl
@[simp] theorem State.modShare_arbWaitTotal (k : Key) (f : Share → Share) : (s.modShare k f).arbWaitTotal = s.arbWaitTotal := rfl
@[simp] theorem State.modShare_arbWaitMax (k : Key) (f : Share → Share) : (s.modShare k f).arbWaitMax = s.arbWaitMax := rfl
@[simp] theorem State.modShare_reqs (k : Key) (f : Share → Share) : (s.modShare k f).reqs = s.reqs := rfl
@[simp] theorem State.modShare_nextNum (k : Key) (f : Share → Share) : (s.modShare k f).nextNum = s.nextNum := rfl
@[simp] theorem State.modShare_nextOrder (k : Key) (f : Share → Share) : (s.modShare k f).nextOrder = s.nextOrder := rfl
@[simp] theorem State.modShare_heldNums (k : Key) (f : Share → Share) : (s.modShare k f).heldNums = s.heldNums := rfl
@[simp] theorem State.modShare_filters (k : Key) (f : Share → Share) : (s.modShare k f).filters = s.filters := rfl
@[simp] theorem State.modShare_unsent (k : Key) (f : Share → Share) : (s.modShare k f).unsent = s.unsent := rfl
@[simp] theorem State.modShare_colls (k : Key) (f : Share → Share) : (s.modShare k f).colls = s.colls := rfl
@[simp] theorem State.modShare_nextColl (k : Key) (f : Share → Share) : (s.modShare k f).nextColl = s.nextColl := rfl
@[simp] theorem State.modShare_shards (k : Key) (f : Share → Share) : (s.modShare k f).shards = s.shards := rfl
@[simp] theorem State.modShare_lists (k : Key) (f : Share → Share) : (s.modShare k f).lists = s.lists := rfl
@[simp] theorem State.modShare_models (k : Key) (f : Share → Share) : (s.modShare k f).models = s.models := rfl
@[simp] theorem State.modShare_runs (k : Key) (f : Share → Share) : (s.modShare k f).runs = s.runs := rfl
@[simp] theorem State.modShare_regions (k : Key) (f : Share → Share) : (s.modShare k f).regions = s.regions := rfl
@[simp] theorem State.modShare_operandBufs (k : Key) (f : Share → Share) : (s.modShare k f).operandBufs = s.operandBufs := rfl
@[simp] theorem State.modShare_pimRuns (k : Key) (f : Share → Share) : (s.modShare k f).pimRuns = s.pimRuns := rfl
@[simp] theorem State.modShare_nextHandle (k : Key) (f : Share → Share) : (s.modShare k f).nextHandle = s.nextHandle := rfl
@[simp] theorem State.modShare_tier (k : Key) (f : Share → Share) : (s.modShare k f).tier = s.tier := rfl
@[simp] theorem State.modShare_pools (k : Key) (f : Share → Share) : (s.modShare k f).pools = s.pools := rfl
@[simp] theorem State.modShare_nextPool (k : Key) (f : Share → Share) : (s.modShare k f).nextPool = s.nextPool := rfl
@[simp] theorem State.modShare_ports (k : Key) (f : Share → Share) : (s.modShare k f).ports = s.ports := rfl
@[simp] theorem State.modShare_portSelect (k : Key) (f : Share → Share) : (s.modShare k f).portSelect = s.portSelect := rfl
@[simp] theorem State.modShare_peers (k : Key) (f : Share → Share) : (s.modShare k f).peers = s.peers := rfl
@[simp] theorem State.modShare_spares (k : Key) (f : Share → Share) : (s.modShare k f).spares = s.spares := rfl
@[simp] theorem State.modShare_out (k : Key) (f : Share → Share) : (s.modShare k f).out = s.out := rfl
@[simp] theorem State.modShare_free (k : Key) (f : Share → Share) : (s.modShare k f).free = s.free := rfl

@[simp] theorem State.modPart_pending (k : Key) (i : Nat) (f : SShard → SShard) : (s.modPart k i f).pending = s.pending := rfl
@[simp] theorem State.modPart_ao (k : Key) (i : Nat) (f : SShard → SShard) : (s.modPart k i f).ao = s.ao := rfl
@[simp] theorem State.modPart_pins (k : Key) (i : Nat) (f : SShard → SShard) : (s.modPart k i f).pins = s.pins := rfl
@[simp] theorem State.modPart_pwr (k : Key) (i : Nat) (f : SShard → SShard) : (s.modPart k i f).pwr = s.pwr := rfl
@[simp] theorem State.modPart_cfg (k : Key) (i : Nat) (f : SShard → SShard) : (s.modPart k i f).cfg = s.cfg := rfl
@[simp] theorem State.modPart_fns (k : Key) (i : Nat) (f : SShard → SShard) : (s.modPart k i f).fns = s.fns := rfl
@[simp] theorem State.modPart_mboxes (k : Key) (i : Nat) (f : SShard → SShard) : (s.modPart k i f).mboxes = s.mboxes := rfl
@[simp] theorem State.modPart_tails (k : Key) (i : Nat) (f : SShard → SShard) : (s.modPart k i f).tails = s.tails := rfl
@[simp] theorem State.modPart_activePair (k : Key) (i : Nat) (f : SShard → SShard) : (s.modPart k i f).activePair = s.activePair := rfl
@[simp] theorem State.modPart_queues (k : Key) (i : Nat) (f : SShard → SShard) : (s.modPart k i f).queues = s.queues := rfl
@[simp] theorem State.modPart_sched (k : Key) (i : Nat) (f : SShard → SShard) : (s.modPart k i f).sched = s.sched := rfl
@[simp] theorem State.modPart_arbs (k : Key) (i : Nat) (f : SShard → SShard) : (s.modPart k i f).arbs = s.arbs := rfl
@[simp] theorem State.modPart_arbSelect (k : Key) (i : Nat) (f : SShard → SShard) : (s.modPart k i f).arbSelect = s.arbSelect := rfl
@[simp] theorem State.modPart_arbRequester (k : Key) (i : Nat) (f : SShard → SShard) : (s.modPart k i f).arbRequester = s.arbRequester := rfl
@[simp] theorem State.modPart_arbWaitTotal (k : Key) (i : Nat) (f : SShard → SShard) : (s.modPart k i f).arbWaitTotal = s.arbWaitTotal := rfl
@[simp] theorem State.modPart_arbWaitMax (k : Key) (i : Nat) (f : SShard → SShard) : (s.modPart k i f).arbWaitMax = s.arbWaitMax := rfl
@[simp] theorem State.modPart_reqs (k : Key) (i : Nat) (f : SShard → SShard) : (s.modPart k i f).reqs = s.reqs := rfl
@[simp] theorem State.modPart_nextNum (k : Key) (i : Nat) (f : SShard → SShard) : (s.modPart k i f).nextNum = s.nextNum := rfl
@[simp] theorem State.modPart_nextOrder (k : Key) (i : Nat) (f : SShard → SShard) : (s.modPart k i f).nextOrder = s.nextOrder := rfl
@[simp] theorem State.modPart_heldNums (k : Key) (i : Nat) (f : SShard → SShard) : (s.modPart k i f).heldNums = s.heldNums := rfl
@[simp] theorem State.modPart_filters (k : Key) (i : Nat) (f : SShard → SShard) : (s.modPart k i f).filters = s.filters := rfl
@[simp] theorem State.modPart_unsent (k : Key) (i : Nat) (f : SShard → SShard) : (s.modPart k i f).unsent = s.unsent := rfl
@[simp] theorem State.modPart_colls (k : Key) (i : Nat) (f : SShard → SShard) : (s.modPart k i f).colls = s.colls := rfl
@[simp] theorem State.modPart_nextColl (k : Key) (i : Nat) (f : SShard → SShard) : (s.modPart k i f).nextColl = s.nextColl := rfl
@[simp] theorem State.modPart_shards (k : Key) (i : Nat) (f : SShard → SShard) : (s.modPart k i f).shards = s.shards := rfl
@[simp] theorem State.modPart_lists (k : Key) (i : Nat) (f : SShard → SShard) : (s.modPart k i f).lists = s.lists := rfl
@[simp] theorem State.modPart_models (k : Key) (i : Nat) (f : SShard → SShard) : (s.modPart k i f).models = s.models := rfl
@[simp] theorem State.modPart_runs (k : Key) (i : Nat) (f : SShard → SShard) : (s.modPart k i f).runs = s.runs := rfl
@[simp] theorem State.modPart_regions (k : Key) (i : Nat) (f : SShard → SShard) : (s.modPart k i f).regions = s.regions := rfl
@[simp] theorem State.modPart_operandBufs (k : Key) (i : Nat) (f : SShard → SShard) : (s.modPart k i f).operandBufs = s.operandBufs := rfl
@[simp] theorem State.modPart_pimRuns (k : Key) (i : Nat) (f : SShard → SShard) : (s.modPart k i f).pimRuns = s.pimRuns := rfl
@[simp] theorem State.modPart_nextHandle (k : Key) (i : Nat) (f : SShard → SShard) : (s.modPart k i f).nextHandle = s.nextHandle := rfl
@[simp] theorem State.modPart_tier (k : Key) (i : Nat) (f : SShard → SShard) : (s.modPart k i f).tier = s.tier := rfl
@[simp] theorem State.modPart_pools (k : Key) (i : Nat) (f : SShard → SShard) : (s.modPart k i f).pools = s.pools := rfl
@[simp] theorem State.modPart_nextPool (k : Key) (i : Nat) (f : SShard → SShard) : (s.modPart k i f).nextPool = s.nextPool := rfl
@[simp] theorem State.modPart_ports (k : Key) (i : Nat) (f : SShard → SShard) : (s.modPart k i f).ports = s.ports := rfl
@[simp] theorem State.modPart_portSelect (k : Key) (i : Nat) (f : SShard → SShard) : (s.modPart k i f).portSelect = s.portSelect := rfl
@[simp] theorem State.modPart_peers (k : Key) (i : Nat) (f : SShard → SShard) : (s.modPart k i f).peers = s.peers := rfl
@[simp] theorem State.modPart_spares (k : Key) (i : Nat) (f : SShard → SShard) : (s.modPart k i f).spares = s.spares := rfl
@[simp] theorem State.modPart_out (k : Key) (i : Nat) (f : SShard → SShard) : (s.modPart k i f).out = s.out := rfl
@[simp] theorem State.modPart_free (k : Key) (i : Nat) (f : SShard → SShard) : (s.modPart k i f).free = s.free := rfl

@[simp] theorem State.modMember_pending (k : Key) (i : Nat) (f : MWork → MWork) : (s.modMember k i f).pending = s.pending := rfl
@[simp] theorem State.modMember_ao (k : Key) (i : Nat) (f : MWork → MWork) : (s.modMember k i f).ao = s.ao := rfl
@[simp] theorem State.modMember_pins (k : Key) (i : Nat) (f : MWork → MWork) : (s.modMember k i f).pins = s.pins := rfl
@[simp] theorem State.modMember_pwr (k : Key) (i : Nat) (f : MWork → MWork) : (s.modMember k i f).pwr = s.pwr := rfl
@[simp] theorem State.modMember_cfg (k : Key) (i : Nat) (f : MWork → MWork) : (s.modMember k i f).cfg = s.cfg := rfl
@[simp] theorem State.modMember_fns (k : Key) (i : Nat) (f : MWork → MWork) : (s.modMember k i f).fns = s.fns := rfl
@[simp] theorem State.modMember_mboxes (k : Key) (i : Nat) (f : MWork → MWork) : (s.modMember k i f).mboxes = s.mboxes := rfl
@[simp] theorem State.modMember_tails (k : Key) (i : Nat) (f : MWork → MWork) : (s.modMember k i f).tails = s.tails := rfl
@[simp] theorem State.modMember_activePair (k : Key) (i : Nat) (f : MWork → MWork) : (s.modMember k i f).activePair = s.activePair := rfl
@[simp] theorem State.modMember_queues (k : Key) (i : Nat) (f : MWork → MWork) : (s.modMember k i f).queues = s.queues := rfl
@[simp] theorem State.modMember_sched (k : Key) (i : Nat) (f : MWork → MWork) : (s.modMember k i f).sched = s.sched := rfl
@[simp] theorem State.modMember_arbs (k : Key) (i : Nat) (f : MWork → MWork) : (s.modMember k i f).arbs = s.arbs := rfl
@[simp] theorem State.modMember_arbSelect (k : Key) (i : Nat) (f : MWork → MWork) : (s.modMember k i f).arbSelect = s.arbSelect := rfl
@[simp] theorem State.modMember_arbRequester (k : Key) (i : Nat) (f : MWork → MWork) : (s.modMember k i f).arbRequester = s.arbRequester := rfl
@[simp] theorem State.modMember_arbWaitTotal (k : Key) (i : Nat) (f : MWork → MWork) : (s.modMember k i f).arbWaitTotal = s.arbWaitTotal := rfl
@[simp] theorem State.modMember_arbWaitMax (k : Key) (i : Nat) (f : MWork → MWork) : (s.modMember k i f).arbWaitMax = s.arbWaitMax := rfl
@[simp] theorem State.modMember_reqs (k : Key) (i : Nat) (f : MWork → MWork) : (s.modMember k i f).reqs = s.reqs := rfl
@[simp] theorem State.modMember_nextNum (k : Key) (i : Nat) (f : MWork → MWork) : (s.modMember k i f).nextNum = s.nextNum := rfl
@[simp] theorem State.modMember_nextOrder (k : Key) (i : Nat) (f : MWork → MWork) : (s.modMember k i f).nextOrder = s.nextOrder := rfl
@[simp] theorem State.modMember_heldNums (k : Key) (i : Nat) (f : MWork → MWork) : (s.modMember k i f).heldNums = s.heldNums := rfl
@[simp] theorem State.modMember_filters (k : Key) (i : Nat) (f : MWork → MWork) : (s.modMember k i f).filters = s.filters := rfl
@[simp] theorem State.modMember_unsent (k : Key) (i : Nat) (f : MWork → MWork) : (s.modMember k i f).unsent = s.unsent := rfl
@[simp] theorem State.modMember_colls (k : Key) (i : Nat) (f : MWork → MWork) : (s.modMember k i f).colls = s.colls := rfl
@[simp] theorem State.modMember_nextColl (k : Key) (i : Nat) (f : MWork → MWork) : (s.modMember k i f).nextColl = s.nextColl := rfl
@[simp] theorem State.modMember_shards (k : Key) (i : Nat) (f : MWork → MWork) : (s.modMember k i f).shards = s.shards := rfl
@[simp] theorem State.modMember_lists (k : Key) (i : Nat) (f : MWork → MWork) : (s.modMember k i f).lists = s.lists := rfl
@[simp] theorem State.modMember_models (k : Key) (i : Nat) (f : MWork → MWork) : (s.modMember k i f).models = s.models := rfl
@[simp] theorem State.modMember_runs (k : Key) (i : Nat) (f : MWork → MWork) : (s.modMember k i f).runs = s.runs := rfl
@[simp] theorem State.modMember_regions (k : Key) (i : Nat) (f : MWork → MWork) : (s.modMember k i f).regions = s.regions := rfl
@[simp] theorem State.modMember_operandBufs (k : Key) (i : Nat) (f : MWork → MWork) : (s.modMember k i f).operandBufs = s.operandBufs := rfl
@[simp] theorem State.modMember_pimRuns (k : Key) (i : Nat) (f : MWork → MWork) : (s.modMember k i f).pimRuns = s.pimRuns := rfl
@[simp] theorem State.modMember_nextHandle (k : Key) (i : Nat) (f : MWork → MWork) : (s.modMember k i f).nextHandle = s.nextHandle := rfl
@[simp] theorem State.modMember_tier (k : Key) (i : Nat) (f : MWork → MWork) : (s.modMember k i f).tier = s.tier := rfl
@[simp] theorem State.modMember_pools (k : Key) (i : Nat) (f : MWork → MWork) : (s.modMember k i f).pools = s.pools := rfl
@[simp] theorem State.modMember_nextPool (k : Key) (i : Nat) (f : MWork → MWork) : (s.modMember k i f).nextPool = s.nextPool := rfl
@[simp] theorem State.modMember_ports (k : Key) (i : Nat) (f : MWork → MWork) : (s.modMember k i f).ports = s.ports := rfl
@[simp] theorem State.modMember_portSelect (k : Key) (i : Nat) (f : MWork → MWork) : (s.modMember k i f).portSelect = s.portSelect := rfl
@[simp] theorem State.modMember_peers (k : Key) (i : Nat) (f : MWork → MWork) : (s.modMember k i f).peers = s.peers := rfl
@[simp] theorem State.modMember_spares (k : Key) (i : Nat) (f : MWork → MWork) : (s.modMember k i f).spares = s.spares := rfl
@[simp] theorem State.modMember_out (k : Key) (i : Nat) (f : MWork → MWork) : (s.modMember k i f).out = s.out := rfl
@[simp] theorem State.modMember_free (k : Key) (i : Nat) (f : MWork → MWork) : (s.modMember k i f).free = s.free := rfl

@[simp] theorem State.modModel_pending (c m : Nat) (f : Model → Model) : (s.modModel c m f).pending = s.pending := rfl
@[simp] theorem State.modModel_ao (c m : Nat) (f : Model → Model) : (s.modModel c m f).ao = s.ao := rfl
@[simp] theorem State.modModel_pins (c m : Nat) (f : Model → Model) : (s.modModel c m f).pins = s.pins := rfl
@[simp] theorem State.modModel_pwr (c m : Nat) (f : Model → Model) : (s.modModel c m f).pwr = s.pwr := rfl
@[simp] theorem State.modModel_cfg (c m : Nat) (f : Model → Model) : (s.modModel c m f).cfg = s.cfg := rfl
@[simp] theorem State.modModel_fns (c m : Nat) (f : Model → Model) : (s.modModel c m f).fns = s.fns := rfl
@[simp] theorem State.modModel_mboxes (c m : Nat) (f : Model → Model) : (s.modModel c m f).mboxes = s.mboxes := rfl
@[simp] theorem State.modModel_tails (c m : Nat) (f : Model → Model) : (s.modModel c m f).tails = s.tails := rfl
@[simp] theorem State.modModel_activePair (c m : Nat) (f : Model → Model) : (s.modModel c m f).activePair = s.activePair := rfl
@[simp] theorem State.modModel_queues (c m : Nat) (f : Model → Model) : (s.modModel c m f).queues = s.queues := rfl
@[simp] theorem State.modModel_sched (c m : Nat) (f : Model → Model) : (s.modModel c m f).sched = s.sched := rfl
@[simp] theorem State.modModel_arbs (c m : Nat) (f : Model → Model) : (s.modModel c m f).arbs = s.arbs := rfl
@[simp] theorem State.modModel_arbSelect (c m : Nat) (f : Model → Model) : (s.modModel c m f).arbSelect = s.arbSelect := rfl
@[simp] theorem State.modModel_arbRequester (c m : Nat) (f : Model → Model) : (s.modModel c m f).arbRequester = s.arbRequester := rfl
@[simp] theorem State.modModel_arbWaitTotal (c m : Nat) (f : Model → Model) : (s.modModel c m f).arbWaitTotal = s.arbWaitTotal := rfl
@[simp] theorem State.modModel_arbWaitMax (c m : Nat) (f : Model → Model) : (s.modModel c m f).arbWaitMax = s.arbWaitMax := rfl
@[simp] theorem State.modModel_reqs (c m : Nat) (f : Model → Model) : (s.modModel c m f).reqs = s.reqs := rfl
@[simp] theorem State.modModel_nextNum (c m : Nat) (f : Model → Model) : (s.modModel c m f).nextNum = s.nextNum := rfl
@[simp] theorem State.modModel_nextOrder (c m : Nat) (f : Model → Model) : (s.modModel c m f).nextOrder = s.nextOrder := rfl
@[simp] theorem State.modModel_heldNums (c m : Nat) (f : Model → Model) : (s.modModel c m f).heldNums = s.heldNums := rfl
@[simp] theorem State.modModel_filters (c m : Nat) (f : Model → Model) : (s.modModel c m f).filters = s.filters := rfl
@[simp] theorem State.modModel_unsent (c m : Nat) (f : Model → Model) : (s.modModel c m f).unsent = s.unsent := rfl
@[simp] theorem State.modModel_colls (c m : Nat) (f : Model → Model) : (s.modModel c m f).colls = s.colls := rfl
@[simp] theorem State.modModel_nextColl (c m : Nat) (f : Model → Model) : (s.modModel c m f).nextColl = s.nextColl := rfl
@[simp] theorem State.modModel_shards (c m : Nat) (f : Model → Model) : (s.modModel c m f).shards = s.shards := rfl
@[simp] theorem State.modModel_lists (c m : Nat) (f : Model → Model) : (s.modModel c m f).lists = s.lists := rfl
@[simp] theorem State.modModel_eng (c m : Nat) (f : Model → Model) : (s.modModel c m f).eng = s.eng := rfl
@[simp] theorem State.modModel_runs (c m : Nat) (f : Model → Model) : (s.modModel c m f).runs = s.runs := rfl
@[simp] theorem State.modModel_regions (c m : Nat) (f : Model → Model) : (s.modModel c m f).regions = s.regions := rfl
@[simp] theorem State.modModel_operandBufs (c m : Nat) (f : Model → Model) : (s.modModel c m f).operandBufs = s.operandBufs := rfl
@[simp] theorem State.modModel_pimRuns (c m : Nat) (f : Model → Model) : (s.modModel c m f).pimRuns = s.pimRuns := rfl
@[simp] theorem State.modModel_nextHandle (c m : Nat) (f : Model → Model) : (s.modModel c m f).nextHandle = s.nextHandle := rfl
@[simp] theorem State.modModel_tier (c m : Nat) (f : Model → Model) : (s.modModel c m f).tier = s.tier := rfl
@[simp] theorem State.modModel_pools (c m : Nat) (f : Model → Model) : (s.modModel c m f).pools = s.pools := rfl
@[simp] theorem State.modModel_nextPool (c m : Nat) (f : Model → Model) : (s.modModel c m f).nextPool = s.nextPool := rfl
@[simp] theorem State.modModel_ports (c m : Nat) (f : Model → Model) : (s.modModel c m f).ports = s.ports := rfl
@[simp] theorem State.modModel_portSelect (c m : Nat) (f : Model → Model) : (s.modModel c m f).portSelect = s.portSelect := rfl
@[simp] theorem State.modModel_peers (c m : Nat) (f : Model → Model) : (s.modModel c m f).peers = s.peers := rfl
@[simp] theorem State.modModel_spares (c m : Nat) (f : Model → Model) : (s.modModel c m f).spares = s.spares := rfl
@[simp] theorem State.modModel_out (c m : Nat) (f : Model → Model) : (s.modModel c m f).out = s.out := rfl
@[simp] theorem State.modModel_free (c m : Nat) (f : Model → Model) : (s.modModel c m f).free = s.free := rfl

@[simp] theorem State.modPool_pending (i : Nat) (f : Pool → Pool) : (s.modPool i f).pending = s.pending := rfl
@[simp] theorem State.modPool_ao (i : Nat) (f : Pool → Pool) : (s.modPool i f).ao = s.ao := rfl
@[simp] theorem State.modPool_pins (i : Nat) (f : Pool → Pool) : (s.modPool i f).pins = s.pins := rfl
@[simp] theorem State.modPool_pwr (i : Nat) (f : Pool → Pool) : (s.modPool i f).pwr = s.pwr := rfl
@[simp] theorem State.modPool_cfg (i : Nat) (f : Pool → Pool) : (s.modPool i f).cfg = s.cfg := rfl
@[simp] theorem State.modPool_fns (i : Nat) (f : Pool → Pool) : (s.modPool i f).fns = s.fns := rfl
@[simp] theorem State.modPool_mboxes (i : Nat) (f : Pool → Pool) : (s.modPool i f).mboxes = s.mboxes := rfl
@[simp] theorem State.modPool_tails (i : Nat) (f : Pool → Pool) : (s.modPool i f).tails = s.tails := rfl
@[simp] theorem State.modPool_activePair (i : Nat) (f : Pool → Pool) : (s.modPool i f).activePair = s.activePair := rfl
@[simp] theorem State.modPool_queues (i : Nat) (f : Pool → Pool) : (s.modPool i f).queues = s.queues := rfl
@[simp] theorem State.modPool_sched (i : Nat) (f : Pool → Pool) : (s.modPool i f).sched = s.sched := rfl
@[simp] theorem State.modPool_arbs (i : Nat) (f : Pool → Pool) : (s.modPool i f).arbs = s.arbs := rfl
@[simp] theorem State.modPool_arbSelect (i : Nat) (f : Pool → Pool) : (s.modPool i f).arbSelect = s.arbSelect := rfl
@[simp] theorem State.modPool_arbRequester (i : Nat) (f : Pool → Pool) : (s.modPool i f).arbRequester = s.arbRequester := rfl
@[simp] theorem State.modPool_arbWaitTotal (i : Nat) (f : Pool → Pool) : (s.modPool i f).arbWaitTotal = s.arbWaitTotal := rfl
@[simp] theorem State.modPool_arbWaitMax (i : Nat) (f : Pool → Pool) : (s.modPool i f).arbWaitMax = s.arbWaitMax := rfl
@[simp] theorem State.modPool_reqs (i : Nat) (f : Pool → Pool) : (s.modPool i f).reqs = s.reqs := rfl
@[simp] theorem State.modPool_nextNum (i : Nat) (f : Pool → Pool) : (s.modPool i f).nextNum = s.nextNum := rfl
@[simp] theorem State.modPool_nextOrder (i : Nat) (f : Pool → Pool) : (s.modPool i f).nextOrder = s.nextOrder := rfl
@[simp] theorem State.modPool_heldNums (i : Nat) (f : Pool → Pool) : (s.modPool i f).heldNums = s.heldNums := rfl
@[simp] theorem State.modPool_filters (i : Nat) (f : Pool → Pool) : (s.modPool i f).filters = s.filters := rfl
@[simp] theorem State.modPool_unsent (i : Nat) (f : Pool → Pool) : (s.modPool i f).unsent = s.unsent := rfl
@[simp] theorem State.modPool_colls (i : Nat) (f : Pool → Pool) : (s.modPool i f).colls = s.colls := rfl
@[simp] theorem State.modPool_nextColl (i : Nat) (f : Pool → Pool) : (s.modPool i f).nextColl = s.nextColl := rfl
@[simp] theorem State.modPool_shards (i : Nat) (f : Pool → Pool) : (s.modPool i f).shards = s.shards := rfl
@[simp] theorem State.modPool_lists (i : Nat) (f : Pool → Pool) : (s.modPool i f).lists = s.lists := rfl
@[simp] theorem State.modPool_eng (i : Nat) (f : Pool → Pool) : (s.modPool i f).eng = s.eng := rfl
@[simp] theorem State.modPool_models (i : Nat) (f : Pool → Pool) : (s.modPool i f).models = s.models := rfl
@[simp] theorem State.modPool_runs (i : Nat) (f : Pool → Pool) : (s.modPool i f).runs = s.runs := rfl
@[simp] theorem State.modPool_regions (i : Nat) (f : Pool → Pool) : (s.modPool i f).regions = s.regions := rfl
@[simp] theorem State.modPool_operandBufs (i : Nat) (f : Pool → Pool) : (s.modPool i f).operandBufs = s.operandBufs := rfl
@[simp] theorem State.modPool_pimRuns (i : Nat) (f : Pool → Pool) : (s.modPool i f).pimRuns = s.pimRuns := rfl
@[simp] theorem State.modPool_nextHandle (i : Nat) (f : Pool → Pool) : (s.modPool i f).nextHandle = s.nextHandle := rfl
@[simp] theorem State.modPool_tier (i : Nat) (f : Pool → Pool) : (s.modPool i f).tier = s.tier := rfl
@[simp] theorem State.modPool_nextPool (i : Nat) (f : Pool → Pool) : (s.modPool i f).nextPool = s.nextPool := rfl
@[simp] theorem State.modPool_ports (i : Nat) (f : Pool → Pool) : (s.modPool i f).ports = s.ports := rfl
@[simp] theorem State.modPool_portSelect (i : Nat) (f : Pool → Pool) : (s.modPool i f).portSelect = s.portSelect := rfl
@[simp] theorem State.modPool_peers (i : Nat) (f : Pool → Pool) : (s.modPool i f).peers = s.peers := rfl
@[simp] theorem State.modPool_spares (i : Nat) (f : Pool → Pool) : (s.modPool i f).spares = s.spares := rfl
@[simp] theorem State.modPool_out (i : Nat) (f : Pool → Pool) : (s.modPool i f).out = s.out := rfl
@[simp] theorem State.modPool_free (i : Nat) (f : Pool → Pool) : (s.modPool i f).free = s.free := rfl

@[simp] theorem State.modRun_pending (i : Nat) (f : Run → Run) : (s.modRun i f).pending = s.pending := rfl
@[simp] theorem State.modRun_ao (i : Nat) (f : Run → Run) : (s.modRun i f).ao = s.ao := rfl
@[simp] theorem State.modRun_pins (i : Nat) (f : Run → Run) : (s.modRun i f).pins = s.pins := rfl
@[simp] theorem State.modRun_pwr (i : Nat) (f : Run → Run) : (s.modRun i f).pwr = s.pwr := rfl
@[simp] theorem State.modRun_cfg (i : Nat) (f : Run → Run) : (s.modRun i f).cfg = s.cfg := rfl
@[simp] theorem State.modRun_fns (i : Nat) (f : Run → Run) : (s.modRun i f).fns = s.fns := rfl
@[simp] theorem State.modRun_mboxes (i : Nat) (f : Run → Run) : (s.modRun i f).mboxes = s.mboxes := rfl
@[simp] theorem State.modRun_tails (i : Nat) (f : Run → Run) : (s.modRun i f).tails = s.tails := rfl
@[simp] theorem State.modRun_activePair (i : Nat) (f : Run → Run) : (s.modRun i f).activePair = s.activePair := rfl
@[simp] theorem State.modRun_queues (i : Nat) (f : Run → Run) : (s.modRun i f).queues = s.queues := rfl
@[simp] theorem State.modRun_sched (i : Nat) (f : Run → Run) : (s.modRun i f).sched = s.sched := rfl
@[simp] theorem State.modRun_arbs (i : Nat) (f : Run → Run) : (s.modRun i f).arbs = s.arbs := rfl
@[simp] theorem State.modRun_arbSelect (i : Nat) (f : Run → Run) : (s.modRun i f).arbSelect = s.arbSelect := rfl
@[simp] theorem State.modRun_arbRequester (i : Nat) (f : Run → Run) : (s.modRun i f).arbRequester = s.arbRequester := rfl
@[simp] theorem State.modRun_arbWaitTotal (i : Nat) (f : Run → Run) : (s.modRun i f).arbWaitTotal = s.arbWaitTotal := rfl
@[simp] theorem State.modRun_arbWaitMax (i : Nat) (f : Run → Run) : (s.modRun i f).arbWaitMax = s.arbWaitMax := rfl
@[simp] theorem State.modRun_reqs (i : Nat) (f : Run → Run) : (s.modRun i f).reqs = s.reqs := rfl
@[simp] theorem State.modRun_nextNum (i : Nat) (f : Run → Run) : (s.modRun i f).nextNum = s.nextNum := rfl
@[simp] theorem State.modRun_nextOrder (i : Nat) (f : Run → Run) : (s.modRun i f).nextOrder = s.nextOrder := rfl
@[simp] theorem State.modRun_heldNums (i : Nat) (f : Run → Run) : (s.modRun i f).heldNums = s.heldNums := rfl
@[simp] theorem State.modRun_filters (i : Nat) (f : Run → Run) : (s.modRun i f).filters = s.filters := rfl
@[simp] theorem State.modRun_unsent (i : Nat) (f : Run → Run) : (s.modRun i f).unsent = s.unsent := rfl
@[simp] theorem State.modRun_colls (i : Nat) (f : Run → Run) : (s.modRun i f).colls = s.colls := rfl
@[simp] theorem State.modRun_nextColl (i : Nat) (f : Run → Run) : (s.modRun i f).nextColl = s.nextColl := rfl
@[simp] theorem State.modRun_shards (i : Nat) (f : Run → Run) : (s.modRun i f).shards = s.shards := rfl
@[simp] theorem State.modRun_lists (i : Nat) (f : Run → Run) : (s.modRun i f).lists = s.lists := rfl
@[simp] theorem State.modRun_eng (i : Nat) (f : Run → Run) : (s.modRun i f).eng = s.eng := rfl
@[simp] theorem State.modRun_models (i : Nat) (f : Run → Run) : (s.modRun i f).models = s.models := rfl
@[simp] theorem State.modRun_regions (i : Nat) (f : Run → Run) : (s.modRun i f).regions = s.regions := rfl
@[simp] theorem State.modRun_operandBufs (i : Nat) (f : Run → Run) : (s.modRun i f).operandBufs = s.operandBufs := rfl
@[simp] theorem State.modRun_pimRuns (i : Nat) (f : Run → Run) : (s.modRun i f).pimRuns = s.pimRuns := rfl
@[simp] theorem State.modRun_nextHandle (i : Nat) (f : Run → Run) : (s.modRun i f).nextHandle = s.nextHandle := rfl
@[simp] theorem State.modRun_tier (i : Nat) (f : Run → Run) : (s.modRun i f).tier = s.tier := rfl
@[simp] theorem State.modRun_pools (i : Nat) (f : Run → Run) : (s.modRun i f).pools = s.pools := rfl
@[simp] theorem State.modRun_nextPool (i : Nat) (f : Run → Run) : (s.modRun i f).nextPool = s.nextPool := rfl
@[simp] theorem State.modRun_ports (i : Nat) (f : Run → Run) : (s.modRun i f).ports = s.ports := rfl
@[simp] theorem State.modRun_portSelect (i : Nat) (f : Run → Run) : (s.modRun i f).portSelect = s.portSelect := rfl
@[simp] theorem State.modRun_peers (i : Nat) (f : Run → Run) : (s.modRun i f).peers = s.peers := rfl
@[simp] theorem State.modRun_spares (i : Nat) (f : Run → Run) : (s.modRun i f).spares = s.spares := rfl
@[simp] theorem State.modRun_out (i : Nat) (f : Run → Run) : (s.modRun i f).out = s.out := rfl
@[simp] theorem State.modRun_free (i : Nat) (f : Run → Run) : (s.modRun i f).free = s.free := rfl

@[simp] theorem State.modRegion_pending (i : Nat) (f : Region → Region) : (s.modRegion i f).pending = s.pending := rfl
@[simp] theorem State.modRegion_ao (i : Nat) (f : Region → Region) : (s.modRegion i f).ao = s.ao := rfl
@[simp] theorem State.modRegion_pins (i : Nat) (f : Region → Region) : (s.modRegion i f).pins = s.pins := rfl
@[simp] theorem State.modRegion_pwr (i : Nat) (f : Region → Region) : (s.modRegion i f).pwr = s.pwr := rfl
@[simp] theorem State.modRegion_cfg (i : Nat) (f : Region → Region) : (s.modRegion i f).cfg = s.cfg := rfl
@[simp] theorem State.modRegion_fns (i : Nat) (f : Region → Region) : (s.modRegion i f).fns = s.fns := rfl
@[simp] theorem State.modRegion_mboxes (i : Nat) (f : Region → Region) : (s.modRegion i f).mboxes = s.mboxes := rfl
@[simp] theorem State.modRegion_tails (i : Nat) (f : Region → Region) : (s.modRegion i f).tails = s.tails := rfl
@[simp] theorem State.modRegion_activePair (i : Nat) (f : Region → Region) : (s.modRegion i f).activePair = s.activePair := rfl
@[simp] theorem State.modRegion_queues (i : Nat) (f : Region → Region) : (s.modRegion i f).queues = s.queues := rfl
@[simp] theorem State.modRegion_sched (i : Nat) (f : Region → Region) : (s.modRegion i f).sched = s.sched := rfl
@[simp] theorem State.modRegion_arbs (i : Nat) (f : Region → Region) : (s.modRegion i f).arbs = s.arbs := rfl
@[simp] theorem State.modRegion_arbSelect (i : Nat) (f : Region → Region) : (s.modRegion i f).arbSelect = s.arbSelect := rfl
@[simp] theorem State.modRegion_arbRequester (i : Nat) (f : Region → Region) : (s.modRegion i f).arbRequester = s.arbRequester := rfl
@[simp] theorem State.modRegion_arbWaitTotal (i : Nat) (f : Region → Region) : (s.modRegion i f).arbWaitTotal = s.arbWaitTotal := rfl
@[simp] theorem State.modRegion_arbWaitMax (i : Nat) (f : Region → Region) : (s.modRegion i f).arbWaitMax = s.arbWaitMax := rfl
@[simp] theorem State.modRegion_reqs (i : Nat) (f : Region → Region) : (s.modRegion i f).reqs = s.reqs := rfl
@[simp] theorem State.modRegion_nextNum (i : Nat) (f : Region → Region) : (s.modRegion i f).nextNum = s.nextNum := rfl
@[simp] theorem State.modRegion_nextOrder (i : Nat) (f : Region → Region) : (s.modRegion i f).nextOrder = s.nextOrder := rfl
@[simp] theorem State.modRegion_heldNums (i : Nat) (f : Region → Region) : (s.modRegion i f).heldNums = s.heldNums := rfl
@[simp] theorem State.modRegion_filters (i : Nat) (f : Region → Region) : (s.modRegion i f).filters = s.filters := rfl
@[simp] theorem State.modRegion_unsent (i : Nat) (f : Region → Region) : (s.modRegion i f).unsent = s.unsent := rfl
@[simp] theorem State.modRegion_colls (i : Nat) (f : Region → Region) : (s.modRegion i f).colls = s.colls := rfl
@[simp] theorem State.modRegion_nextColl (i : Nat) (f : Region → Region) : (s.modRegion i f).nextColl = s.nextColl := rfl
@[simp] theorem State.modRegion_shards (i : Nat) (f : Region → Region) : (s.modRegion i f).shards = s.shards := rfl
@[simp] theorem State.modRegion_lists (i : Nat) (f : Region → Region) : (s.modRegion i f).lists = s.lists := rfl
@[simp] theorem State.modRegion_eng (i : Nat) (f : Region → Region) : (s.modRegion i f).eng = s.eng := rfl
@[simp] theorem State.modRegion_models (i : Nat) (f : Region → Region) : (s.modRegion i f).models = s.models := rfl
@[simp] theorem State.modRegion_runs (i : Nat) (f : Region → Region) : (s.modRegion i f).runs = s.runs := rfl
@[simp] theorem State.modRegion_operandBufs (i : Nat) (f : Region → Region) : (s.modRegion i f).operandBufs = s.operandBufs := rfl
@[simp] theorem State.modRegion_pimRuns (i : Nat) (f : Region → Region) : (s.modRegion i f).pimRuns = s.pimRuns := rfl
@[simp] theorem State.modRegion_nextHandle (i : Nat) (f : Region → Region) : (s.modRegion i f).nextHandle = s.nextHandle := rfl
@[simp] theorem State.modRegion_tier (i : Nat) (f : Region → Region) : (s.modRegion i f).tier = s.tier := rfl
@[simp] theorem State.modRegion_pools (i : Nat) (f : Region → Region) : (s.modRegion i f).pools = s.pools := rfl
@[simp] theorem State.modRegion_nextPool (i : Nat) (f : Region → Region) : (s.modRegion i f).nextPool = s.nextPool := rfl
@[simp] theorem State.modRegion_ports (i : Nat) (f : Region → Region) : (s.modRegion i f).ports = s.ports := rfl
@[simp] theorem State.modRegion_portSelect (i : Nat) (f : Region → Region) : (s.modRegion i f).portSelect = s.portSelect := rfl
@[simp] theorem State.modRegion_peers (i : Nat) (f : Region → Region) : (s.modRegion i f).peers = s.peers := rfl
@[simp] theorem State.modRegion_spares (i : Nat) (f : Region → Region) : (s.modRegion i f).spares = s.spares := rfl
@[simp] theorem State.modRegion_out (i : Nat) (f : Region → Region) : (s.modRegion i f).out = s.out := rfl
@[simp] theorem State.modRegion_free (i : Nat) (f : Region → Region) : (s.modRegion i f).free = s.free := rfl

@[simp] theorem State.emit_pending (o : Output) : (s.emit o).pending = s.pending := rfl
@[simp] theorem State.emit_ao (o : Output) : (s.emit o).ao = s.ao := rfl
@[simp] theorem State.emit_pins (o : Output) : (s.emit o).pins = s.pins := rfl
@[simp] theorem State.emit_pwr (o : Output) : (s.emit o).pwr = s.pwr := rfl
@[simp] theorem State.emit_cfg (o : Output) : (s.emit o).cfg = s.cfg := rfl
@[simp] theorem State.emit_fns (o : Output) : (s.emit o).fns = s.fns := rfl
@[simp] theorem State.emit_mboxes (o : Output) : (s.emit o).mboxes = s.mboxes := rfl
@[simp] theorem State.emit_tails (o : Output) : (s.emit o).tails = s.tails := rfl
@[simp] theorem State.emit_activePair (o : Output) : (s.emit o).activePair = s.activePair := rfl
@[simp] theorem State.emit_queues (o : Output) : (s.emit o).queues = s.queues := rfl
@[simp] theorem State.emit_sched (o : Output) : (s.emit o).sched = s.sched := rfl
@[simp] theorem State.emit_arbs (o : Output) : (s.emit o).arbs = s.arbs := rfl
@[simp] theorem State.emit_arbSelect (o : Output) : (s.emit o).arbSelect = s.arbSelect := rfl
@[simp] theorem State.emit_arbRequester (o : Output) : (s.emit o).arbRequester = s.arbRequester := rfl
@[simp] theorem State.emit_arbWaitTotal (o : Output) : (s.emit o).arbWaitTotal = s.arbWaitTotal := rfl
@[simp] theorem State.emit_arbWaitMax (o : Output) : (s.emit o).arbWaitMax = s.arbWaitMax := rfl
@[simp] theorem State.emit_reqs (o : Output) : (s.emit o).reqs = s.reqs := rfl
@[simp] theorem State.emit_nextNum (o : Output) : (s.emit o).nextNum = s.nextNum := rfl
@[simp] theorem State.emit_nextOrder (o : Output) : (s.emit o).nextOrder = s.nextOrder := rfl
@[simp] theorem State.emit_heldNums (o : Output) : (s.emit o).heldNums = s.heldNums := rfl
@[simp] theorem State.emit_filters (o : Output) : (s.emit o).filters = s.filters := rfl
@[simp] theorem State.emit_unsent (o : Output) : (s.emit o).unsent = s.unsent := rfl
@[simp] theorem State.emit_colls (o : Output) : (s.emit o).colls = s.colls := rfl
@[simp] theorem State.emit_nextColl (o : Output) : (s.emit o).nextColl = s.nextColl := rfl
@[simp] theorem State.emit_shards (o : Output) : (s.emit o).shards = s.shards := rfl
@[simp] theorem State.emit_lists (o : Output) : (s.emit o).lists = s.lists := rfl
@[simp] theorem State.emit_eng (o : Output) : (s.emit o).eng = s.eng := rfl
@[simp] theorem State.emit_models (o : Output) : (s.emit o).models = s.models := rfl
@[simp] theorem State.emit_runs (o : Output) : (s.emit o).runs = s.runs := rfl
@[simp] theorem State.emit_regions (o : Output) : (s.emit o).regions = s.regions := rfl
@[simp] theorem State.emit_operandBufs (o : Output) : (s.emit o).operandBufs = s.operandBufs := rfl
@[simp] theorem State.emit_pimRuns (o : Output) : (s.emit o).pimRuns = s.pimRuns := rfl
@[simp] theorem State.emit_nextHandle (o : Output) : (s.emit o).nextHandle = s.nextHandle := rfl
@[simp] theorem State.emit_tier (o : Output) : (s.emit o).tier = s.tier := rfl
@[simp] theorem State.emit_pools (o : Output) : (s.emit o).pools = s.pools := rfl
@[simp] theorem State.emit_nextPool (o : Output) : (s.emit o).nextPool = s.nextPool := rfl
@[simp] theorem State.emit_ports (o : Output) : (s.emit o).ports = s.ports := rfl
@[simp] theorem State.emit_portSelect (o : Output) : (s.emit o).portSelect = s.portSelect := rfl
@[simp] theorem State.emit_peers (o : Output) : (s.emit o).peers = s.peers := rfl
@[simp] theorem State.emit_spares (o : Output) : (s.emit o).spares = s.spares := rfl
@[simp] theorem State.emit_free (o : Output) : (s.emit o).free = s.free := rfl

@[simp] theorem State.at_pending (t : Nat) : (s.at t).pending = s.pending := rfl
@[simp] theorem State.at_pins (t : Nat) : (s.at t).pins = s.pins := rfl
@[simp] theorem State.at_pwr (t : Nat) : (s.at t).pwr = s.pwr := rfl
@[simp] theorem State.at_cfg (t : Nat) : (s.at t).cfg = s.cfg := rfl
@[simp] theorem State.at_fns (t : Nat) : (s.at t).fns = s.fns := rfl
@[simp] theorem State.at_mboxes (t : Nat) : (s.at t).mboxes = s.mboxes := rfl
@[simp] theorem State.at_tails (t : Nat) : (s.at t).tails = s.tails := rfl
@[simp] theorem State.at_activePair (t : Nat) : (s.at t).activePair = s.activePair := rfl
@[simp] theorem State.at_queues (t : Nat) : (s.at t).queues = s.queues := rfl
@[simp] theorem State.at_sched (t : Nat) : (s.at t).sched = s.sched := rfl
@[simp] theorem State.at_arbs (t : Nat) : (s.at t).arbs = s.arbs := rfl
@[simp] theorem State.at_arbSelect (t : Nat) : (s.at t).arbSelect = s.arbSelect := rfl
@[simp] theorem State.at_arbRequester (t : Nat) : (s.at t).arbRequester = s.arbRequester := rfl
@[simp] theorem State.at_arbWaitTotal (t : Nat) : (s.at t).arbWaitTotal = s.arbWaitTotal := rfl
@[simp] theorem State.at_arbWaitMax (t : Nat) : (s.at t).arbWaitMax = s.arbWaitMax := rfl
@[simp] theorem State.at_reqs (t : Nat) : (s.at t).reqs = s.reqs := rfl
@[simp] theorem State.at_nextNum (t : Nat) : (s.at t).nextNum = s.nextNum := rfl
@[simp] theorem State.at_nextOrder (t : Nat) : (s.at t).nextOrder = s.nextOrder := rfl
@[simp] theorem State.at_heldNums (t : Nat) : (s.at t).heldNums = s.heldNums := rfl
@[simp] theorem State.at_filters (t : Nat) : (s.at t).filters = s.filters := rfl
@[simp] theorem State.at_unsent (t : Nat) : (s.at t).unsent = s.unsent := rfl
@[simp] theorem State.at_colls (t : Nat) : (s.at t).colls = s.colls := rfl
@[simp] theorem State.at_nextColl (t : Nat) : (s.at t).nextColl = s.nextColl := rfl
@[simp] theorem State.at_shards (t : Nat) : (s.at t).shards = s.shards := rfl
@[simp] theorem State.at_lists (t : Nat) : (s.at t).lists = s.lists := rfl
@[simp] theorem State.at_eng (t : Nat) : (s.at t).eng = s.eng := rfl
@[simp] theorem State.at_models (t : Nat) : (s.at t).models = s.models := rfl
@[simp] theorem State.at_runs (t : Nat) : (s.at t).runs = s.runs := rfl
@[simp] theorem State.at_regions (t : Nat) : (s.at t).regions = s.regions := rfl
@[simp] theorem State.at_operandBufs (t : Nat) : (s.at t).operandBufs = s.operandBufs := rfl
@[simp] theorem State.at_pimRuns (t : Nat) : (s.at t).pimRuns = s.pimRuns := rfl
@[simp] theorem State.at_nextHandle (t : Nat) : (s.at t).nextHandle = s.nextHandle := rfl
@[simp] theorem State.at_tier (t : Nat) : (s.at t).tier = s.tier := rfl
@[simp] theorem State.at_pools (t : Nat) : (s.at t).pools = s.pools := rfl
@[simp] theorem State.at_nextPool (t : Nat) : (s.at t).nextPool = s.nextPool := rfl
@[simp] theorem State.at_portSelect (t : Nat) : (s.at t).portSelect = s.portSelect := rfl
@[simp] theorem State.at_peers (t : Nat) : (s.at t).peers = s.peers := rfl
@[simp] theorem State.at_spares (t : Nat) : (s.at t).spares = s.spares := rfl
@[simp] theorem State.at_out (t : Nat) : (s.at t).out = s.out := rfl
@[simp] theorem State.at_free (t : Nat) : (s.at t).free = s.free := rfl

@[simp] theorem State.modFn_mbox_ (i : Nat) (f : Fn → Fn) (j : Nat) : (s.modFn i f).mbox j = s.mbox j := rfl
@[simp] theorem State.modFn_port_ (i : Nat) (f : Fn → Fn) (j : Nat) : (s.modFn i f).port j = s.port j := rfl
@[simp] theorem State.modFn_queue_ (i : Nat) (f : Fn → Fn) (j : Nat) : (s.modFn i f).queue? j = s.queue? j := rfl
@[simp] theorem State.modFn_req_ (i : Nat) (f : Fn → Fn) (j : Nat) : (s.modFn i f).req? j = s.req? j := rfl
@[simp] theorem State.modFn_coll_ (i : Nat) (f : Fn → Fn) (j : Nat) : (s.modFn i f).coll? j = s.coll? j := rfl
@[simp] theorem State.modFn_shard_ (i : Nat) (f : Fn → Fn) (j : Nat) : (s.modFn i f).shard? j = s.shard? j := rfl
@[simp] theorem State.modFn_list_ (i : Nat) (f : Fn → Fn) (j : Nat) : (s.modFn i f).list? j = s.list? j := rfl
@[simp] theorem State.modFn_share_ (i : Nat) (f : Fn → Fn) (j : Key) : (s.modFn i f).share? j = s.share? j := rfl
@[simp] theorem State.modFn_member_ (i : Nat) (f : Fn → Fn) (j : Key) (n : Nat) : (s.modFn i f).member? j n = s.member? j n := rfl
@[simp] theorem State.modFn_model_ (i : Nat) (f : Fn → Fn) (j n : Nat) : (s.modFn i f).model? j n = s.model? j n := rfl
@[simp] theorem State.modFn_pool_ (i : Nat) (f : Fn → Fn) (j : Nat) : (s.modFn i f).pool? j = s.pool? j := rfl
@[simp] theorem State.modFn_run_ (i : Nat) (f : Fn → Fn) (j : Nat) : (s.modFn i f).run? j = s.run? j := rfl
@[simp] theorem State.modFn_region_ (i : Nat) (f : Fn → Fn) (j : Nat) : (s.modFn i f).region? j = s.region? j := rfl
@[simp] theorem State.modFn_arb_ (i : Nat) (f : Fn → Fn) (j : Nat) : (s.modFn i f).arb j = s.arb j := rfl
@[simp] theorem State.modMbox_fn_ (i : Nat) (f : Mbox → Mbox) (j : Nat) : (s.modMbox i f).fn j = s.fn j := rfl
@[simp] theorem State.modMbox_port_ (i : Nat) (f : Mbox → Mbox) (j : Nat) : (s.modMbox i f).port j = s.port j := rfl
@[simp] theorem State.modMbox_queue_ (i : Nat) (f : Mbox → Mbox) (j : Nat) : (s.modMbox i f).queue? j = s.queue? j := rfl
@[simp] theorem State.modMbox_req_ (i : Nat) (f : Mbox → Mbox) (j : Nat) : (s.modMbox i f).req? j = s.req? j := rfl
@[simp] theorem State.modMbox_coll_ (i : Nat) (f : Mbox → Mbox) (j : Nat) : (s.modMbox i f).coll? j = s.coll? j := rfl
@[simp] theorem State.modMbox_shard_ (i : Nat) (f : Mbox → Mbox) (j : Nat) : (s.modMbox i f).shard? j = s.shard? j := rfl
@[simp] theorem State.modMbox_list_ (i : Nat) (f : Mbox → Mbox) (j : Nat) : (s.modMbox i f).list? j = s.list? j := rfl
@[simp] theorem State.modMbox_share_ (i : Nat) (f : Mbox → Mbox) (j : Key) : (s.modMbox i f).share? j = s.share? j := rfl
@[simp] theorem State.modMbox_member_ (i : Nat) (f : Mbox → Mbox) (j : Key) (n : Nat) : (s.modMbox i f).member? j n = s.member? j n := rfl
@[simp] theorem State.modMbox_model_ (i : Nat) (f : Mbox → Mbox) (j n : Nat) : (s.modMbox i f).model? j n = s.model? j n := rfl
@[simp] theorem State.modMbox_pool_ (i : Nat) (f : Mbox → Mbox) (j : Nat) : (s.modMbox i f).pool? j = s.pool? j := rfl
@[simp] theorem State.modMbox_run_ (i : Nat) (f : Mbox → Mbox) (j : Nat) : (s.modMbox i f).run? j = s.run? j := rfl
@[simp] theorem State.modMbox_region_ (i : Nat) (f : Mbox → Mbox) (j : Nat) : (s.modMbox i f).region? j = s.region? j := rfl
@[simp] theorem State.modMbox_arb_ (i : Nat) (f : Mbox → Mbox) (j : Nat) : (s.modMbox i f).arb j = s.arb j := rfl
@[simp] theorem State.modPort_fn_ (i : Nat) (f : Port → Port) (j : Nat) : (s.modPort i f).fn j = s.fn j := rfl
@[simp] theorem State.modPort_mbox_ (i : Nat) (f : Port → Port) (j : Nat) : (s.modPort i f).mbox j = s.mbox j := rfl
@[simp] theorem State.modPort_queue_ (i : Nat) (f : Port → Port) (j : Nat) : (s.modPort i f).queue? j = s.queue? j := rfl
@[simp] theorem State.modPort_req_ (i : Nat) (f : Port → Port) (j : Nat) : (s.modPort i f).req? j = s.req? j := rfl
@[simp] theorem State.modPort_coll_ (i : Nat) (f : Port → Port) (j : Nat) : (s.modPort i f).coll? j = s.coll? j := rfl
@[simp] theorem State.modPort_shard_ (i : Nat) (f : Port → Port) (j : Nat) : (s.modPort i f).shard? j = s.shard? j := rfl
@[simp] theorem State.modPort_list_ (i : Nat) (f : Port → Port) (j : Nat) : (s.modPort i f).list? j = s.list? j := rfl
@[simp] theorem State.modPort_share_ (i : Nat) (f : Port → Port) (j : Key) : (s.modPort i f).share? j = s.share? j := rfl
@[simp] theorem State.modPort_member_ (i : Nat) (f : Port → Port) (j : Key) (n : Nat) : (s.modPort i f).member? j n = s.member? j n := rfl
@[simp] theorem State.modPort_model_ (i : Nat) (f : Port → Port) (j n : Nat) : (s.modPort i f).model? j n = s.model? j n := rfl
@[simp] theorem State.modPort_pool_ (i : Nat) (f : Port → Port) (j : Nat) : (s.modPort i f).pool? j = s.pool? j := rfl
@[simp] theorem State.modPort_run_ (i : Nat) (f : Port → Port) (j : Nat) : (s.modPort i f).run? j = s.run? j := rfl
@[simp] theorem State.modPort_region_ (i : Nat) (f : Port → Port) (j : Nat) : (s.modPort i f).region? j = s.region? j := rfl
@[simp] theorem State.modPort_arb_ (i : Nat) (f : Port → Port) (j : Nat) : (s.modPort i f).arb j = s.arb j := rfl
@[simp] theorem State.modEng_fn_ (f : Engine → Engine) (j : Nat) : (s.modEng f).fn j = s.fn j := rfl
@[simp] theorem State.modEng_mbox_ (f : Engine → Engine) (j : Nat) : (s.modEng f).mbox j = s.mbox j := rfl
@[simp] theorem State.modEng_port_ (f : Engine → Engine) (j : Nat) : (s.modEng f).port j = s.port j := rfl
@[simp] theorem State.modEng_queue_ (f : Engine → Engine) (j : Nat) : (s.modEng f).queue? j = s.queue? j := rfl
@[simp] theorem State.modEng_req_ (f : Engine → Engine) (j : Nat) : (s.modEng f).req? j = s.req? j := rfl
@[simp] theorem State.modEng_coll_ (f : Engine → Engine) (j : Nat) : (s.modEng f).coll? j = s.coll? j := rfl
@[simp] theorem State.modEng_shard_ (f : Engine → Engine) (j : Nat) : (s.modEng f).shard? j = s.shard? j := rfl
@[simp] theorem State.modEng_list_ (f : Engine → Engine) (j : Nat) : (s.modEng f).list? j = s.list? j := rfl
@[simp] theorem State.modEng_model_ (f : Engine → Engine) (j n : Nat) : (s.modEng f).model? j n = s.model? j n := rfl
@[simp] theorem State.modEng_pool_ (f : Engine → Engine) (j : Nat) : (s.modEng f).pool? j = s.pool? j := rfl
@[simp] theorem State.modEng_run_ (f : Engine → Engine) (j : Nat) : (s.modEng f).run? j = s.run? j := rfl
@[simp] theorem State.modEng_region_ (f : Engine → Engine) (j : Nat) : (s.modEng f).region? j = s.region? j := rfl
@[simp] theorem State.modEng_arb_ (f : Engine → Engine) (j : Nat) : (s.modEng f).arb j = s.arb j := rfl
@[simp] theorem State.modCsu_fn_ (i : Nat) (f : Csu → Csu) (j : Nat) : (s.modCsu i f).fn j = s.fn j := rfl
@[simp] theorem State.modCsu_mbox_ (i : Nat) (f : Csu → Csu) (j : Nat) : (s.modCsu i f).mbox j = s.mbox j := rfl
@[simp] theorem State.modCsu_port_ (i : Nat) (f : Csu → Csu) (j : Nat) : (s.modCsu i f).port j = s.port j := rfl
@[simp] theorem State.modCsu_queue_ (i : Nat) (f : Csu → Csu) (j : Nat) : (s.modCsu i f).queue? j = s.queue? j := rfl
@[simp] theorem State.modCsu_req_ (i : Nat) (f : Csu → Csu) (j : Nat) : (s.modCsu i f).req? j = s.req? j := rfl
@[simp] theorem State.modCsu_coll_ (i : Nat) (f : Csu → Csu) (j : Nat) : (s.modCsu i f).coll? j = s.coll? j := rfl
@[simp] theorem State.modCsu_shard_ (i : Nat) (f : Csu → Csu) (j : Nat) : (s.modCsu i f).shard? j = s.shard? j := rfl
@[simp] theorem State.modCsu_list_ (i : Nat) (f : Csu → Csu) (j : Nat) : (s.modCsu i f).list? j = s.list? j := rfl
@[simp] theorem State.modCsu_model_ (i : Nat) (f : Csu → Csu) (j n : Nat) : (s.modCsu i f).model? j n = s.model? j n := rfl
@[simp] theorem State.modCsu_pool_ (i : Nat) (f : Csu → Csu) (j : Nat) : (s.modCsu i f).pool? j = s.pool? j := rfl
@[simp] theorem State.modCsu_run_ (i : Nat) (f : Csu → Csu) (j : Nat) : (s.modCsu i f).run? j = s.run? j := rfl
@[simp] theorem State.modCsu_region_ (i : Nat) (f : Csu → Csu) (j : Nat) : (s.modCsu i f).region? j = s.region? j := rfl
@[simp] theorem State.modCsu_arb_ (i : Nat) (f : Csu → Csu) (j : Nat) : (s.modCsu i f).arb j = s.arb j := rfl
@[simp] theorem State.modTier_fn_ (f : Tier → Tier) (j : Nat) : (s.modTier f).fn j = s.fn j := rfl
@[simp] theorem State.modTier_mbox_ (f : Tier → Tier) (j : Nat) : (s.modTier f).mbox j = s.mbox j := rfl
@[simp] theorem State.modTier_port_ (f : Tier → Tier) (j : Nat) : (s.modTier f).port j = s.port j := rfl
@[simp] theorem State.modTier_queue_ (f : Tier → Tier) (j : Nat) : (s.modTier f).queue? j = s.queue? j := rfl
@[simp] theorem State.modTier_req_ (f : Tier → Tier) (j : Nat) : (s.modTier f).req? j = s.req? j := rfl
@[simp] theorem State.modTier_coll_ (f : Tier → Tier) (j : Nat) : (s.modTier f).coll? j = s.coll? j := rfl
@[simp] theorem State.modTier_shard_ (f : Tier → Tier) (j : Nat) : (s.modTier f).shard? j = s.shard? j := rfl
@[simp] theorem State.modTier_list_ (f : Tier → Tier) (j : Nat) : (s.modTier f).list? j = s.list? j := rfl
@[simp] theorem State.modTier_share_ (f : Tier → Tier) (j : Key) : (s.modTier f).share? j = s.share? j := rfl
@[simp] theorem State.modTier_member_ (f : Tier → Tier) (j : Key) (n : Nat) : (s.modTier f).member? j n = s.member? j n := rfl
@[simp] theorem State.modTier_model_ (f : Tier → Tier) (j n : Nat) : (s.modTier f).model? j n = s.model? j n := rfl
@[simp] theorem State.modTier_pool_ (f : Tier → Tier) (j : Nat) : (s.modTier f).pool? j = s.pool? j := rfl
@[simp] theorem State.modTier_run_ (f : Tier → Tier) (j : Nat) : (s.modTier f).run? j = s.run? j := rfl
@[simp] theorem State.modTier_region_ (f : Tier → Tier) (j : Nat) : (s.modTier f).region? j = s.region? j := rfl
@[simp] theorem State.modTier_arb_ (f : Tier → Tier) (j : Nat) : (s.modTier f).arb j = s.arb j := rfl
@[simp] theorem State.modChannel_fn_ (i : Nat) (f : Channel → Channel) (j : Nat) : (s.modChannel i f).fn j = s.fn j := rfl
@[simp] theorem State.modChannel_mbox_ (i : Nat) (f : Channel → Channel) (j : Nat) : (s.modChannel i f).mbox j = s.mbox j := rfl
@[simp] theorem State.modChannel_port_ (i : Nat) (f : Channel → Channel) (j : Nat) : (s.modChannel i f).port j = s.port j := rfl
@[simp] theorem State.modChannel_queue_ (i : Nat) (f : Channel → Channel) (j : Nat) : (s.modChannel i f).queue? j = s.queue? j := rfl
@[simp] theorem State.modChannel_req_ (i : Nat) (f : Channel → Channel) (j : Nat) : (s.modChannel i f).req? j = s.req? j := rfl
@[simp] theorem State.modChannel_coll_ (i : Nat) (f : Channel → Channel) (j : Nat) : (s.modChannel i f).coll? j = s.coll? j := rfl
@[simp] theorem State.modChannel_shard_ (i : Nat) (f : Channel → Channel) (j : Nat) : (s.modChannel i f).shard? j = s.shard? j := rfl
@[simp] theorem State.modChannel_list_ (i : Nat) (f : Channel → Channel) (j : Nat) : (s.modChannel i f).list? j = s.list? j := rfl
@[simp] theorem State.modChannel_share_ (i : Nat) (f : Channel → Channel) (j : Key) : (s.modChannel i f).share? j = s.share? j := rfl
@[simp] theorem State.modChannel_member_ (i : Nat) (f : Channel → Channel) (j : Key) (n : Nat) : (s.modChannel i f).member? j n = s.member? j n := rfl
@[simp] theorem State.modChannel_model_ (i : Nat) (f : Channel → Channel) (j n : Nat) : (s.modChannel i f).model? j n = s.model? j n := rfl
@[simp] theorem State.modChannel_pool_ (i : Nat) (f : Channel → Channel) (j : Nat) : (s.modChannel i f).pool? j = s.pool? j := rfl
@[simp] theorem State.modChannel_run_ (i : Nat) (f : Channel → Channel) (j : Nat) : (s.modChannel i f).run? j = s.run? j := rfl
@[simp] theorem State.modChannel_region_ (i : Nat) (f : Channel → Channel) (j : Nat) : (s.modChannel i f).region? j = s.region? j := rfl
@[simp] theorem State.modChannel_arb_ (i : Nat) (f : Channel → Channel) (j : Nat) : (s.modChannel i f).arb j = s.arb j := rfl
@[simp] theorem State.modAo_fn_ (f : Ao → Ao) (j : Nat) : (s.modAo f).fn j = s.fn j := rfl
@[simp] theorem State.modAo_mbox_ (f : Ao → Ao) (j : Nat) : (s.modAo f).mbox j = s.mbox j := rfl
@[simp] theorem State.modAo_port_ (f : Ao → Ao) (j : Nat) : (s.modAo f).port j = s.port j := rfl
@[simp] theorem State.modAo_queue_ (f : Ao → Ao) (j : Nat) : (s.modAo f).queue? j = s.queue? j := rfl
@[simp] theorem State.modAo_req_ (f : Ao → Ao) (j : Nat) : (s.modAo f).req? j = s.req? j := rfl
@[simp] theorem State.modAo_coll_ (f : Ao → Ao) (j : Nat) : (s.modAo f).coll? j = s.coll? j := rfl
@[simp] theorem State.modAo_shard_ (f : Ao → Ao) (j : Nat) : (s.modAo f).shard? j = s.shard? j := rfl
@[simp] theorem State.modAo_list_ (f : Ao → Ao) (j : Nat) : (s.modAo f).list? j = s.list? j := rfl
@[simp] theorem State.modAo_share_ (f : Ao → Ao) (j : Key) : (s.modAo f).share? j = s.share? j := rfl
@[simp] theorem State.modAo_member_ (f : Ao → Ao) (j : Key) (n : Nat) : (s.modAo f).member? j n = s.member? j n := rfl
@[simp] theorem State.modAo_model_ (f : Ao → Ao) (j n : Nat) : (s.modAo f).model? j n = s.model? j n := rfl
@[simp] theorem State.modAo_pool_ (f : Ao → Ao) (j : Nat) : (s.modAo f).pool? j = s.pool? j := rfl
@[simp] theorem State.modAo_run_ (f : Ao → Ao) (j : Nat) : (s.modAo f).run? j = s.run? j := rfl
@[simp] theorem State.modAo_region_ (f : Ao → Ao) (j : Nat) : (s.modAo f).region? j = s.region? j := rfl
@[simp] theorem State.modAo_arb_ (f : Ao → Ao) (j : Nat) : (s.modAo f).arb j = s.arb j := rfl
@[simp] theorem State.modPins_fn_ (f : Pins → Pins) (j : Nat) : (s.modPins f).fn j = s.fn j := rfl
@[simp] theorem State.modPins_mbox_ (f : Pins → Pins) (j : Nat) : (s.modPins f).mbox j = s.mbox j := rfl
@[simp] theorem State.modPins_port_ (f : Pins → Pins) (j : Nat) : (s.modPins f).port j = s.port j := rfl
@[simp] theorem State.modPins_queue_ (f : Pins → Pins) (j : Nat) : (s.modPins f).queue? j = s.queue? j := rfl
@[simp] theorem State.modPins_req_ (f : Pins → Pins) (j : Nat) : (s.modPins f).req? j = s.req? j := rfl
@[simp] theorem State.modPins_coll_ (f : Pins → Pins) (j : Nat) : (s.modPins f).coll? j = s.coll? j := rfl
@[simp] theorem State.modPins_shard_ (f : Pins → Pins) (j : Nat) : (s.modPins f).shard? j = s.shard? j := rfl
@[simp] theorem State.modPins_list_ (f : Pins → Pins) (j : Nat) : (s.modPins f).list? j = s.list? j := rfl
@[simp] theorem State.modPins_share_ (f : Pins → Pins) (j : Key) : (s.modPins f).share? j = s.share? j := rfl
@[simp] theorem State.modPins_member_ (f : Pins → Pins) (j : Key) (n : Nat) : (s.modPins f).member? j n = s.member? j n := rfl
@[simp] theorem State.modPins_model_ (f : Pins → Pins) (j n : Nat) : (s.modPins f).model? j n = s.model? j n := rfl
@[simp] theorem State.modPins_pool_ (f : Pins → Pins) (j : Nat) : (s.modPins f).pool? j = s.pool? j := rfl
@[simp] theorem State.modPins_run_ (f : Pins → Pins) (j : Nat) : (s.modPins f).run? j = s.run? j := rfl
@[simp] theorem State.modPins_region_ (f : Pins → Pins) (j : Nat) : (s.modPins f).region? j = s.region? j := rfl
@[simp] theorem State.modPins_arb_ (f : Pins → Pins) (j : Nat) : (s.modPins f).arb j = s.arb j := rfl
@[simp] theorem State.modPwr_fn_ (f : Power → Power) (j : Nat) : (s.modPwr f).fn j = s.fn j := rfl
@[simp] theorem State.modPwr_mbox_ (f : Power → Power) (j : Nat) : (s.modPwr f).mbox j = s.mbox j := rfl
@[simp] theorem State.modPwr_port_ (f : Power → Power) (j : Nat) : (s.modPwr f).port j = s.port j := rfl
@[simp] theorem State.modPwr_queue_ (f : Power → Power) (j : Nat) : (s.modPwr f).queue? j = s.queue? j := rfl
@[simp] theorem State.modPwr_req_ (f : Power → Power) (j : Nat) : (s.modPwr f).req? j = s.req? j := rfl
@[simp] theorem State.modPwr_coll_ (f : Power → Power) (j : Nat) : (s.modPwr f).coll? j = s.coll? j := rfl
@[simp] theorem State.modPwr_shard_ (f : Power → Power) (j : Nat) : (s.modPwr f).shard? j = s.shard? j := rfl
@[simp] theorem State.modPwr_list_ (f : Power → Power) (j : Nat) : (s.modPwr f).list? j = s.list? j := rfl
@[simp] theorem State.modPwr_share_ (f : Power → Power) (j : Key) : (s.modPwr f).share? j = s.share? j := rfl
@[simp] theorem State.modPwr_member_ (f : Power → Power) (j : Key) (n : Nat) : (s.modPwr f).member? j n = s.member? j n := rfl
@[simp] theorem State.modPwr_model_ (f : Power → Power) (j n : Nat) : (s.modPwr f).model? j n = s.model? j n := rfl
@[simp] theorem State.modPwr_pool_ (f : Power → Power) (j : Nat) : (s.modPwr f).pool? j = s.pool? j := rfl
@[simp] theorem State.modPwr_run_ (f : Power → Power) (j : Nat) : (s.modPwr f).run? j = s.run? j := rfl
@[simp] theorem State.modPwr_region_ (f : Power → Power) (j : Nat) : (s.modPwr f).region? j = s.region? j := rfl
@[simp] theorem State.modPwr_arb_ (f : Power → Power) (j : Nat) : (s.modPwr f).arb j = s.arb j := rfl
@[simp] theorem State.modSched_fn_ (f : Sched → Sched) (j : Nat) : (s.modSched f).fn j = s.fn j := rfl
@[simp] theorem State.modSched_mbox_ (f : Sched → Sched) (j : Nat) : (s.modSched f).mbox j = s.mbox j := rfl
@[simp] theorem State.modSched_port_ (f : Sched → Sched) (j : Nat) : (s.modSched f).port j = s.port j := rfl
@[simp] theorem State.modSched_queue_ (f : Sched → Sched) (j : Nat) : (s.modSched f).queue? j = s.queue? j := rfl
@[simp] theorem State.modSched_req_ (f : Sched → Sched) (j : Nat) : (s.modSched f).req? j = s.req? j := rfl
@[simp] theorem State.modSched_coll_ (f : Sched → Sched) (j : Nat) : (s.modSched f).coll? j = s.coll? j := rfl
@[simp] theorem State.modSched_shard_ (f : Sched → Sched) (j : Nat) : (s.modSched f).shard? j = s.shard? j := rfl
@[simp] theorem State.modSched_list_ (f : Sched → Sched) (j : Nat) : (s.modSched f).list? j = s.list? j := rfl
@[simp] theorem State.modSched_share_ (f : Sched → Sched) (j : Key) : (s.modSched f).share? j = s.share? j := rfl
@[simp] theorem State.modSched_member_ (f : Sched → Sched) (j : Key) (n : Nat) : (s.modSched f).member? j n = s.member? j n := rfl
@[simp] theorem State.modSched_model_ (f : Sched → Sched) (j n : Nat) : (s.modSched f).model? j n = s.model? j n := rfl
@[simp] theorem State.modSched_pool_ (f : Sched → Sched) (j : Nat) : (s.modSched f).pool? j = s.pool? j := rfl
@[simp] theorem State.modSched_run_ (f : Sched → Sched) (j : Nat) : (s.modSched f).run? j = s.run? j := rfl
@[simp] theorem State.modSched_region_ (f : Sched → Sched) (j : Nat) : (s.modSched f).region? j = s.region? j := rfl
@[simp] theorem State.modSched_arb_ (f : Sched → Sched) (j : Nat) : (s.modSched f).arb j = s.arb j := rfl
@[simp] theorem State.modSpares_fn_ (f : Spares → Spares) (j : Nat) : (s.modSpares f).fn j = s.fn j := rfl
@[simp] theorem State.modSpares_mbox_ (f : Spares → Spares) (j : Nat) : (s.modSpares f).mbox j = s.mbox j := rfl
@[simp] theorem State.modSpares_port_ (f : Spares → Spares) (j : Nat) : (s.modSpares f).port j = s.port j := rfl
@[simp] theorem State.modSpares_queue_ (f : Spares → Spares) (j : Nat) : (s.modSpares f).queue? j = s.queue? j := rfl
@[simp] theorem State.modSpares_req_ (f : Spares → Spares) (j : Nat) : (s.modSpares f).req? j = s.req? j := rfl
@[simp] theorem State.modSpares_coll_ (f : Spares → Spares) (j : Nat) : (s.modSpares f).coll? j = s.coll? j := rfl
@[simp] theorem State.modSpares_shard_ (f : Spares → Spares) (j : Nat) : (s.modSpares f).shard? j = s.shard? j := rfl
@[simp] theorem State.modSpares_list_ (f : Spares → Spares) (j : Nat) : (s.modSpares f).list? j = s.list? j := rfl
@[simp] theorem State.modSpares_share_ (f : Spares → Spares) (j : Key) : (s.modSpares f).share? j = s.share? j := rfl
@[simp] theorem State.modSpares_member_ (f : Spares → Spares) (j : Key) (n : Nat) : (s.modSpares f).member? j n = s.member? j n := rfl
@[simp] theorem State.modSpares_model_ (f : Spares → Spares) (j n : Nat) : (s.modSpares f).model? j n = s.model? j n := rfl
@[simp] theorem State.modSpares_pool_ (f : Spares → Spares) (j : Nat) : (s.modSpares f).pool? j = s.pool? j := rfl
@[simp] theorem State.modSpares_run_ (f : Spares → Spares) (j : Nat) : (s.modSpares f).run? j = s.run? j := rfl
@[simp] theorem State.modSpares_region_ (f : Spares → Spares) (j : Nat) : (s.modSpares f).region? j = s.region? j := rfl
@[simp] theorem State.modSpares_arb_ (f : Spares → Spares) (j : Nat) : (s.modSpares f).arb j = s.arb j := rfl
@[simp] theorem State.modQueue_fn_ (i : Nat) (f : Queue → Queue) (j : Nat) : (s.modQueue i f).fn j = s.fn j := rfl
@[simp] theorem State.modQueue_mbox_ (i : Nat) (f : Queue → Queue) (j : Nat) : (s.modQueue i f).mbox j = s.mbox j := rfl
@[simp] theorem State.modQueue_port_ (i : Nat) (f : Queue → Queue) (j : Nat) : (s.modQueue i f).port j = s.port j := rfl
@[simp] theorem State.modQueue_req_ (i : Nat) (f : Queue → Queue) (j : Nat) : (s.modQueue i f).req? j = s.req? j := rfl
@[simp] theorem State.modQueue_coll_ (i : Nat) (f : Queue → Queue) (j : Nat) : (s.modQueue i f).coll? j = s.coll? j := rfl
@[simp] theorem State.modQueue_shard_ (i : Nat) (f : Queue → Queue) (j : Nat) : (s.modQueue i f).shard? j = s.shard? j := rfl
@[simp] theorem State.modQueue_list_ (i : Nat) (f : Queue → Queue) (j : Nat) : (s.modQueue i f).list? j = s.list? j := rfl
@[simp] theorem State.modQueue_share_ (i : Nat) (f : Queue → Queue) (j : Key) : (s.modQueue i f).share? j = s.share? j := rfl
@[simp] theorem State.modQueue_member_ (i : Nat) (f : Queue → Queue) (j : Key) (n : Nat) : (s.modQueue i f).member? j n = s.member? j n := rfl
@[simp] theorem State.modQueue_model_ (i : Nat) (f : Queue → Queue) (j n : Nat) : (s.modQueue i f).model? j n = s.model? j n := rfl
@[simp] theorem State.modQueue_pool_ (i : Nat) (f : Queue → Queue) (j : Nat) : (s.modQueue i f).pool? j = s.pool? j := rfl
@[simp] theorem State.modQueue_run_ (i : Nat) (f : Queue → Queue) (j : Nat) : (s.modQueue i f).run? j = s.run? j := rfl
@[simp] theorem State.modQueue_region_ (i : Nat) (f : Queue → Queue) (j : Nat) : (s.modQueue i f).region? j = s.region? j := rfl
@[simp] theorem State.modQueue_arb_ (i : Nat) (f : Queue → Queue) (j : Nat) : (s.modQueue i f).arb j = s.arb j := rfl
@[simp] theorem State.modReq_fn_ (i : Nat) (f : Req → Req) (j : Nat) : (s.modReq i f).fn j = s.fn j := rfl
@[simp] theorem State.modReq_mbox_ (i : Nat) (f : Req → Req) (j : Nat) : (s.modReq i f).mbox j = s.mbox j := rfl
@[simp] theorem State.modReq_port_ (i : Nat) (f : Req → Req) (j : Nat) : (s.modReq i f).port j = s.port j := rfl
@[simp] theorem State.modReq_queue_ (i : Nat) (f : Req → Req) (j : Nat) : (s.modReq i f).queue? j = s.queue? j := rfl
@[simp] theorem State.modReq_coll_ (i : Nat) (f : Req → Req) (j : Nat) : (s.modReq i f).coll? j = s.coll? j := rfl
@[simp] theorem State.modReq_shard_ (i : Nat) (f : Req → Req) (j : Nat) : (s.modReq i f).shard? j = s.shard? j := rfl
@[simp] theorem State.modReq_list_ (i : Nat) (f : Req → Req) (j : Nat) : (s.modReq i f).list? j = s.list? j := rfl
@[simp] theorem State.modReq_share_ (i : Nat) (f : Req → Req) (j : Key) : (s.modReq i f).share? j = s.share? j := rfl
@[simp] theorem State.modReq_member_ (i : Nat) (f : Req → Req) (j : Key) (n : Nat) : (s.modReq i f).member? j n = s.member? j n := rfl
@[simp] theorem State.modReq_model_ (i : Nat) (f : Req → Req) (j n : Nat) : (s.modReq i f).model? j n = s.model? j n := rfl
@[simp] theorem State.modReq_pool_ (i : Nat) (f : Req → Req) (j : Nat) : (s.modReq i f).pool? j = s.pool? j := rfl
@[simp] theorem State.modReq_run_ (i : Nat) (f : Req → Req) (j : Nat) : (s.modReq i f).run? j = s.run? j := rfl
@[simp] theorem State.modReq_region_ (i : Nat) (f : Req → Req) (j : Nat) : (s.modReq i f).region? j = s.region? j := rfl
@[simp] theorem State.modReq_arb_ (i : Nat) (f : Req → Req) (j : Nat) : (s.modReq i f).arb j = s.arb j := rfl
@[simp] theorem State.modColl_fn_ (i : Nat) (f : Coll → Coll) (j : Nat) : (s.modColl i f).fn j = s.fn j := rfl
@[simp] theorem State.modColl_mbox_ (i : Nat) (f : Coll → Coll) (j : Nat) : (s.modColl i f).mbox j = s.mbox j := rfl
@[simp] theorem State.modColl_port_ (i : Nat) (f : Coll → Coll) (j : Nat) : (s.modColl i f).port j = s.port j := rfl
@[simp] theorem State.modColl_queue_ (i : Nat) (f : Coll → Coll) (j : Nat) : (s.modColl i f).queue? j = s.queue? j := rfl
@[simp] theorem State.modColl_req_ (i : Nat) (f : Coll → Coll) (j : Nat) : (s.modColl i f).req? j = s.req? j := rfl
@[simp] theorem State.modColl_shard_ (i : Nat) (f : Coll → Coll) (j : Nat) : (s.modColl i f).shard? j = s.shard? j := rfl
@[simp] theorem State.modColl_list_ (i : Nat) (f : Coll → Coll) (j : Nat) : (s.modColl i f).list? j = s.list? j := rfl
@[simp] theorem State.modColl_share_ (i : Nat) (f : Coll → Coll) (j : Key) : (s.modColl i f).share? j = s.share? j := rfl
@[simp] theorem State.modColl_member_ (i : Nat) (f : Coll → Coll) (j : Key) (n : Nat) : (s.modColl i f).member? j n = s.member? j n := rfl
@[simp] theorem State.modColl_model_ (i : Nat) (f : Coll → Coll) (j n : Nat) : (s.modColl i f).model? j n = s.model? j n := rfl
@[simp] theorem State.modColl_pool_ (i : Nat) (f : Coll → Coll) (j : Nat) : (s.modColl i f).pool? j = s.pool? j := rfl
@[simp] theorem State.modColl_run_ (i : Nat) (f : Coll → Coll) (j : Nat) : (s.modColl i f).run? j = s.run? j := rfl
@[simp] theorem State.modColl_region_ (i : Nat) (f : Coll → Coll) (j : Nat) : (s.modColl i f).region? j = s.region? j := rfl
@[simp] theorem State.modColl_arb_ (i : Nat) (f : Coll → Coll) (j : Nat) : (s.modColl i f).arb j = s.arb j := rfl
@[simp] theorem State.modShard_fn_ (i : Nat) (f : Shard → Shard) (j : Nat) : (s.modShard i f).fn j = s.fn j := rfl
@[simp] theorem State.modShard_mbox_ (i : Nat) (f : Shard → Shard) (j : Nat) : (s.modShard i f).mbox j = s.mbox j := rfl
@[simp] theorem State.modShard_port_ (i : Nat) (f : Shard → Shard) (j : Nat) : (s.modShard i f).port j = s.port j := rfl
@[simp] theorem State.modShard_queue_ (i : Nat) (f : Shard → Shard) (j : Nat) : (s.modShard i f).queue? j = s.queue? j := rfl
@[simp] theorem State.modShard_req_ (i : Nat) (f : Shard → Shard) (j : Nat) : (s.modShard i f).req? j = s.req? j := rfl
@[simp] theorem State.modShard_coll_ (i : Nat) (f : Shard → Shard) (j : Nat) : (s.modShard i f).coll? j = s.coll? j := rfl
@[simp] theorem State.modShard_list_ (i : Nat) (f : Shard → Shard) (j : Nat) : (s.modShard i f).list? j = s.list? j := rfl
@[simp] theorem State.modShard_share_ (i : Nat) (f : Shard → Shard) (j : Key) : (s.modShard i f).share? j = s.share? j := rfl
@[simp] theorem State.modShard_member_ (i : Nat) (f : Shard → Shard) (j : Key) (n : Nat) : (s.modShard i f).member? j n = s.member? j n := rfl
@[simp] theorem State.modShard_model_ (i : Nat) (f : Shard → Shard) (j n : Nat) : (s.modShard i f).model? j n = s.model? j n := rfl
@[simp] theorem State.modShard_pool_ (i : Nat) (f : Shard → Shard) (j : Nat) : (s.modShard i f).pool? j = s.pool? j := rfl
@[simp] theorem State.modShard_run_ (i : Nat) (f : Shard → Shard) (j : Nat) : (s.modShard i f).run? j = s.run? j := rfl
@[simp] theorem State.modShard_region_ (i : Nat) (f : Shard → Shard) (j : Nat) : (s.modShard i f).region? j = s.region? j := rfl
@[simp] theorem State.modShard_arb_ (i : Nat) (f : Shard → Shard) (j : Nat) : (s.modShard i f).arb j = s.arb j := rfl
@[simp] theorem State.modList_fn_ (i : Nat) (f : LList → LList) (j : Nat) : (s.modList i f).fn j = s.fn j := rfl
@[simp] theorem State.modList_mbox_ (i : Nat) (f : LList → LList) (j : Nat) : (s.modList i f).mbox j = s.mbox j := rfl
@[simp] theorem State.modList_port_ (i : Nat) (f : LList → LList) (j : Nat) : (s.modList i f).port j = s.port j := rfl
@[simp] theorem State.modList_queue_ (i : Nat) (f : LList → LList) (j : Nat) : (s.modList i f).queue? j = s.queue? j := rfl
@[simp] theorem State.modList_req_ (i : Nat) (f : LList → LList) (j : Nat) : (s.modList i f).req? j = s.req? j := rfl
@[simp] theorem State.modList_coll_ (i : Nat) (f : LList → LList) (j : Nat) : (s.modList i f).coll? j = s.coll? j := rfl
@[simp] theorem State.modList_shard_ (i : Nat) (f : LList → LList) (j : Nat) : (s.modList i f).shard? j = s.shard? j := rfl
@[simp] theorem State.modList_share_ (i : Nat) (f : LList → LList) (j : Key) : (s.modList i f).share? j = s.share? j := rfl
@[simp] theorem State.modList_member_ (i : Nat) (f : LList → LList) (j : Key) (n : Nat) : (s.modList i f).member? j n = s.member? j n := rfl
@[simp] theorem State.modList_model_ (i : Nat) (f : LList → LList) (j n : Nat) : (s.modList i f).model? j n = s.model? j n := rfl
@[simp] theorem State.modList_pool_ (i : Nat) (f : LList → LList) (j : Nat) : (s.modList i f).pool? j = s.pool? j := rfl
@[simp] theorem State.modList_run_ (i : Nat) (f : LList → LList) (j : Nat) : (s.modList i f).run? j = s.run? j := rfl
@[simp] theorem State.modList_region_ (i : Nat) (f : LList → LList) (j : Nat) : (s.modList i f).region? j = s.region? j := rfl
@[simp] theorem State.modList_arb_ (i : Nat) (f : LList → LList) (j : Nat) : (s.modList i f).arb j = s.arb j := rfl
@[simp] theorem State.modShare_fn_ (k : Key) (f : Share → Share) (j : Nat) : (s.modShare k f).fn j = s.fn j := rfl
@[simp] theorem State.modShare_mbox_ (k : Key) (f : Share → Share) (j : Nat) : (s.modShare k f).mbox j = s.mbox j := rfl
@[simp] theorem State.modShare_port_ (k : Key) (f : Share → Share) (j : Nat) : (s.modShare k f).port j = s.port j := rfl
@[simp] theorem State.modShare_queue_ (k : Key) (f : Share → Share) (j : Nat) : (s.modShare k f).queue? j = s.queue? j := rfl
@[simp] theorem State.modShare_req_ (k : Key) (f : Share → Share) (j : Nat) : (s.modShare k f).req? j = s.req? j := rfl
@[simp] theorem State.modShare_coll_ (k : Key) (f : Share → Share) (j : Nat) : (s.modShare k f).coll? j = s.coll? j := rfl
@[simp] theorem State.modShare_shard_ (k : Key) (f : Share → Share) (j : Nat) : (s.modShare k f).shard? j = s.shard? j := rfl
@[simp] theorem State.modShare_list_ (k : Key) (f : Share → Share) (j : Nat) : (s.modShare k f).list? j = s.list? j := rfl
@[simp] theorem State.modShare_model_ (k : Key) (f : Share → Share) (j n : Nat) : (s.modShare k f).model? j n = s.model? j n := rfl
@[simp] theorem State.modShare_pool_ (k : Key) (f : Share → Share) (j : Nat) : (s.modShare k f).pool? j = s.pool? j := rfl
@[simp] theorem State.modShare_run_ (k : Key) (f : Share → Share) (j : Nat) : (s.modShare k f).run? j = s.run? j := rfl
@[simp] theorem State.modShare_region_ (k : Key) (f : Share → Share) (j : Nat) : (s.modShare k f).region? j = s.region? j := rfl
@[simp] theorem State.modShare_arb_ (k : Key) (f : Share → Share) (j : Nat) : (s.modShare k f).arb j = s.arb j := rfl
@[simp] theorem State.modPart_fn_ (k : Key) (i : Nat) (f : SShard → SShard) (j : Nat) : (s.modPart k i f).fn j = s.fn j := rfl
@[simp] theorem State.modPart_mbox_ (k : Key) (i : Nat) (f : SShard → SShard) (j : Nat) : (s.modPart k i f).mbox j = s.mbox j := rfl
@[simp] theorem State.modPart_port_ (k : Key) (i : Nat) (f : SShard → SShard) (j : Nat) : (s.modPart k i f).port j = s.port j := rfl
@[simp] theorem State.modPart_queue_ (k : Key) (i : Nat) (f : SShard → SShard) (j : Nat) : (s.modPart k i f).queue? j = s.queue? j := rfl
@[simp] theorem State.modPart_req_ (k : Key) (i : Nat) (f : SShard → SShard) (j : Nat) : (s.modPart k i f).req? j = s.req? j := rfl
@[simp] theorem State.modPart_coll_ (k : Key) (i : Nat) (f : SShard → SShard) (j : Nat) : (s.modPart k i f).coll? j = s.coll? j := rfl
@[simp] theorem State.modPart_shard_ (k : Key) (i : Nat) (f : SShard → SShard) (j : Nat) : (s.modPart k i f).shard? j = s.shard? j := rfl
@[simp] theorem State.modPart_list_ (k : Key) (i : Nat) (f : SShard → SShard) (j : Nat) : (s.modPart k i f).list? j = s.list? j := rfl
@[simp] theorem State.modPart_model_ (k : Key) (i : Nat) (f : SShard → SShard) (j n : Nat) : (s.modPart k i f).model? j n = s.model? j n := rfl
@[simp] theorem State.modPart_pool_ (k : Key) (i : Nat) (f : SShard → SShard) (j : Nat) : (s.modPart k i f).pool? j = s.pool? j := rfl
@[simp] theorem State.modPart_run_ (k : Key) (i : Nat) (f : SShard → SShard) (j : Nat) : (s.modPart k i f).run? j = s.run? j := rfl
@[simp] theorem State.modPart_region_ (k : Key) (i : Nat) (f : SShard → SShard) (j : Nat) : (s.modPart k i f).region? j = s.region? j := rfl
@[simp] theorem State.modPart_arb_ (k : Key) (i : Nat) (f : SShard → SShard) (j : Nat) : (s.modPart k i f).arb j = s.arb j := rfl
@[simp] theorem State.modMember_fn_ (k : Key) (i : Nat) (f : MWork → MWork) (j : Nat) : (s.modMember k i f).fn j = s.fn j := rfl
@[simp] theorem State.modMember_mbox_ (k : Key) (i : Nat) (f : MWork → MWork) (j : Nat) : (s.modMember k i f).mbox j = s.mbox j := rfl
@[simp] theorem State.modMember_port_ (k : Key) (i : Nat) (f : MWork → MWork) (j : Nat) : (s.modMember k i f).port j = s.port j := rfl
@[simp] theorem State.modMember_queue_ (k : Key) (i : Nat) (f : MWork → MWork) (j : Nat) : (s.modMember k i f).queue? j = s.queue? j := rfl
@[simp] theorem State.modMember_req_ (k : Key) (i : Nat) (f : MWork → MWork) (j : Nat) : (s.modMember k i f).req? j = s.req? j := rfl
@[simp] theorem State.modMember_coll_ (k : Key) (i : Nat) (f : MWork → MWork) (j : Nat) : (s.modMember k i f).coll? j = s.coll? j := rfl
@[simp] theorem State.modMember_shard_ (k : Key) (i : Nat) (f : MWork → MWork) (j : Nat) : (s.modMember k i f).shard? j = s.shard? j := rfl
@[simp] theorem State.modMember_list_ (k : Key) (i : Nat) (f : MWork → MWork) (j : Nat) : (s.modMember k i f).list? j = s.list? j := rfl
@[simp] theorem State.modMember_model_ (k : Key) (i : Nat) (f : MWork → MWork) (j n : Nat) : (s.modMember k i f).model? j n = s.model? j n := rfl
@[simp] theorem State.modMember_pool_ (k : Key) (i : Nat) (f : MWork → MWork) (j : Nat) : (s.modMember k i f).pool? j = s.pool? j := rfl
@[simp] theorem State.modMember_run_ (k : Key) (i : Nat) (f : MWork → MWork) (j : Nat) : (s.modMember k i f).run? j = s.run? j := rfl
@[simp] theorem State.modMember_region_ (k : Key) (i : Nat) (f : MWork → MWork) (j : Nat) : (s.modMember k i f).region? j = s.region? j := rfl
@[simp] theorem State.modMember_arb_ (k : Key) (i : Nat) (f : MWork → MWork) (j : Nat) : (s.modMember k i f).arb j = s.arb j := rfl
@[simp] theorem State.modModel_fn_ (c m : Nat) (f : Model → Model) (j : Nat) : (s.modModel c m f).fn j = s.fn j := rfl
@[simp] theorem State.modModel_mbox_ (c m : Nat) (f : Model → Model) (j : Nat) : (s.modModel c m f).mbox j = s.mbox j := rfl
@[simp] theorem State.modModel_port_ (c m : Nat) (f : Model → Model) (j : Nat) : (s.modModel c m f).port j = s.port j := rfl
@[simp] theorem State.modModel_queue_ (c m : Nat) (f : Model → Model) (j : Nat) : (s.modModel c m f).queue? j = s.queue? j := rfl
@[simp] theorem State.modModel_req_ (c m : Nat) (f : Model → Model) (j : Nat) : (s.modModel c m f).req? j = s.req? j := rfl
@[simp] theorem State.modModel_coll_ (c m : Nat) (f : Model → Model) (j : Nat) : (s.modModel c m f).coll? j = s.coll? j := rfl
@[simp] theorem State.modModel_shard_ (c m : Nat) (f : Model → Model) (j : Nat) : (s.modModel c m f).shard? j = s.shard? j := rfl
@[simp] theorem State.modModel_list_ (c m : Nat) (f : Model → Model) (j : Nat) : (s.modModel c m f).list? j = s.list? j := rfl
@[simp] theorem State.modModel_share_ (c m : Nat) (f : Model → Model) (j : Key) : (s.modModel c m f).share? j = s.share? j := rfl
@[simp] theorem State.modModel_member_ (c m : Nat) (f : Model → Model) (j : Key) (n : Nat) : (s.modModel c m f).member? j n = s.member? j n := rfl
@[simp] theorem State.modModel_pool_ (c m : Nat) (f : Model → Model) (j : Nat) : (s.modModel c m f).pool? j = s.pool? j := rfl
@[simp] theorem State.modModel_run_ (c m : Nat) (f : Model → Model) (j : Nat) : (s.modModel c m f).run? j = s.run? j := rfl
@[simp] theorem State.modModel_region_ (c m : Nat) (f : Model → Model) (j : Nat) : (s.modModel c m f).region? j = s.region? j := rfl
@[simp] theorem State.modModel_arb_ (c m : Nat) (f : Model → Model) (j : Nat) : (s.modModel c m f).arb j = s.arb j := rfl
@[simp] theorem State.modPool_fn_ (i : Nat) (f : Pool → Pool) (j : Nat) : (s.modPool i f).fn j = s.fn j := rfl
@[simp] theorem State.modPool_mbox_ (i : Nat) (f : Pool → Pool) (j : Nat) : (s.modPool i f).mbox j = s.mbox j := rfl
@[simp] theorem State.modPool_port_ (i : Nat) (f : Pool → Pool) (j : Nat) : (s.modPool i f).port j = s.port j := rfl
@[simp] theorem State.modPool_queue_ (i : Nat) (f : Pool → Pool) (j : Nat) : (s.modPool i f).queue? j = s.queue? j := rfl
@[simp] theorem State.modPool_req_ (i : Nat) (f : Pool → Pool) (j : Nat) : (s.modPool i f).req? j = s.req? j := rfl
@[simp] theorem State.modPool_coll_ (i : Nat) (f : Pool → Pool) (j : Nat) : (s.modPool i f).coll? j = s.coll? j := rfl
@[simp] theorem State.modPool_shard_ (i : Nat) (f : Pool → Pool) (j : Nat) : (s.modPool i f).shard? j = s.shard? j := rfl
@[simp] theorem State.modPool_list_ (i : Nat) (f : Pool → Pool) (j : Nat) : (s.modPool i f).list? j = s.list? j := rfl
@[simp] theorem State.modPool_share_ (i : Nat) (f : Pool → Pool) (j : Key) : (s.modPool i f).share? j = s.share? j := rfl
@[simp] theorem State.modPool_member_ (i : Nat) (f : Pool → Pool) (j : Key) (n : Nat) : (s.modPool i f).member? j n = s.member? j n := rfl
@[simp] theorem State.modPool_model_ (i : Nat) (f : Pool → Pool) (j n : Nat) : (s.modPool i f).model? j n = s.model? j n := rfl
@[simp] theorem State.modPool_run_ (i : Nat) (f : Pool → Pool) (j : Nat) : (s.modPool i f).run? j = s.run? j := rfl
@[simp] theorem State.modPool_region_ (i : Nat) (f : Pool → Pool) (j : Nat) : (s.modPool i f).region? j = s.region? j := rfl
@[simp] theorem State.modPool_arb_ (i : Nat) (f : Pool → Pool) (j : Nat) : (s.modPool i f).arb j = s.arb j := rfl
@[simp] theorem State.modRun_fn_ (i : Nat) (f : Run → Run) (j : Nat) : (s.modRun i f).fn j = s.fn j := rfl
@[simp] theorem State.modRun_mbox_ (i : Nat) (f : Run → Run) (j : Nat) : (s.modRun i f).mbox j = s.mbox j := rfl
@[simp] theorem State.modRun_port_ (i : Nat) (f : Run → Run) (j : Nat) : (s.modRun i f).port j = s.port j := rfl
@[simp] theorem State.modRun_queue_ (i : Nat) (f : Run → Run) (j : Nat) : (s.modRun i f).queue? j = s.queue? j := rfl
@[simp] theorem State.modRun_req_ (i : Nat) (f : Run → Run) (j : Nat) : (s.modRun i f).req? j = s.req? j := rfl
@[simp] theorem State.modRun_coll_ (i : Nat) (f : Run → Run) (j : Nat) : (s.modRun i f).coll? j = s.coll? j := rfl
@[simp] theorem State.modRun_shard_ (i : Nat) (f : Run → Run) (j : Nat) : (s.modRun i f).shard? j = s.shard? j := rfl
@[simp] theorem State.modRun_list_ (i : Nat) (f : Run → Run) (j : Nat) : (s.modRun i f).list? j = s.list? j := rfl
@[simp] theorem State.modRun_share_ (i : Nat) (f : Run → Run) (j : Key) : (s.modRun i f).share? j = s.share? j := rfl
@[simp] theorem State.modRun_member_ (i : Nat) (f : Run → Run) (j : Key) (n : Nat) : (s.modRun i f).member? j n = s.member? j n := rfl
@[simp] theorem State.modRun_model_ (i : Nat) (f : Run → Run) (j n : Nat) : (s.modRun i f).model? j n = s.model? j n := rfl
@[simp] theorem State.modRun_pool_ (i : Nat) (f : Run → Run) (j : Nat) : (s.modRun i f).pool? j = s.pool? j := rfl
@[simp] theorem State.modRun_region_ (i : Nat) (f : Run → Run) (j : Nat) : (s.modRun i f).region? j = s.region? j := rfl
@[simp] theorem State.modRun_arb_ (i : Nat) (f : Run → Run) (j : Nat) : (s.modRun i f).arb j = s.arb j := rfl
@[simp] theorem State.modRegion_fn_ (i : Nat) (f : Region → Region) (j : Nat) : (s.modRegion i f).fn j = s.fn j := rfl
@[simp] theorem State.modRegion_mbox_ (i : Nat) (f : Region → Region) (j : Nat) : (s.modRegion i f).mbox j = s.mbox j := rfl
@[simp] theorem State.modRegion_port_ (i : Nat) (f : Region → Region) (j : Nat) : (s.modRegion i f).port j = s.port j := rfl
@[simp] theorem State.modRegion_queue_ (i : Nat) (f : Region → Region) (j : Nat) : (s.modRegion i f).queue? j = s.queue? j := rfl
@[simp] theorem State.modRegion_req_ (i : Nat) (f : Region → Region) (j : Nat) : (s.modRegion i f).req? j = s.req? j := rfl
@[simp] theorem State.modRegion_coll_ (i : Nat) (f : Region → Region) (j : Nat) : (s.modRegion i f).coll? j = s.coll? j := rfl
@[simp] theorem State.modRegion_shard_ (i : Nat) (f : Region → Region) (j : Nat) : (s.modRegion i f).shard? j = s.shard? j := rfl
@[simp] theorem State.modRegion_list_ (i : Nat) (f : Region → Region) (j : Nat) : (s.modRegion i f).list? j = s.list? j := rfl
@[simp] theorem State.modRegion_share_ (i : Nat) (f : Region → Region) (j : Key) : (s.modRegion i f).share? j = s.share? j := rfl
@[simp] theorem State.modRegion_member_ (i : Nat) (f : Region → Region) (j : Key) (n : Nat) : (s.modRegion i f).member? j n = s.member? j n := rfl
@[simp] theorem State.modRegion_model_ (i : Nat) (f : Region → Region) (j n : Nat) : (s.modRegion i f).model? j n = s.model? j n := rfl
@[simp] theorem State.modRegion_pool_ (i : Nat) (f : Region → Region) (j : Nat) : (s.modRegion i f).pool? j = s.pool? j := rfl
@[simp] theorem State.modRegion_run_ (i : Nat) (f : Region → Region) (j : Nat) : (s.modRegion i f).run? j = s.run? j := rfl
@[simp] theorem State.modRegion_arb_ (i : Nat) (f : Region → Region) (j : Nat) : (s.modRegion i f).arb j = s.arb j := rfl
@[simp] theorem State.emit_fn_ (o : Output) (j : Nat) : (s.emit o).fn j = s.fn j := rfl
@[simp] theorem State.emit_mbox_ (o : Output) (j : Nat) : (s.emit o).mbox j = s.mbox j := rfl
@[simp] theorem State.emit_port_ (o : Output) (j : Nat) : (s.emit o).port j = s.port j := rfl
@[simp] theorem State.emit_queue_ (o : Output) (j : Nat) : (s.emit o).queue? j = s.queue? j := rfl
@[simp] theorem State.emit_req_ (o : Output) (j : Nat) : (s.emit o).req? j = s.req? j := rfl
@[simp] theorem State.emit_coll_ (o : Output) (j : Nat) : (s.emit o).coll? j = s.coll? j := rfl
@[simp] theorem State.emit_shard_ (o : Output) (j : Nat) : (s.emit o).shard? j = s.shard? j := rfl
@[simp] theorem State.emit_list_ (o : Output) (j : Nat) : (s.emit o).list? j = s.list? j := rfl
@[simp] theorem State.emit_share_ (o : Output) (j : Key) : (s.emit o).share? j = s.share? j := rfl
@[simp] theorem State.emit_member_ (o : Output) (j : Key) (n : Nat) : (s.emit o).member? j n = s.member? j n := rfl
@[simp] theorem State.emit_model_ (o : Output) (j n : Nat) : (s.emit o).model? j n = s.model? j n := rfl
@[simp] theorem State.emit_pool_ (o : Output) (j : Nat) : (s.emit o).pool? j = s.pool? j := rfl
@[simp] theorem State.emit_run_ (o : Output) (j : Nat) : (s.emit o).run? j = s.run? j := rfl
@[simp] theorem State.emit_region_ (o : Output) (j : Nat) : (s.emit o).region? j = s.region? j := rfl
@[simp] theorem State.emit_arb_ (o : Output) (j : Nat) : (s.emit o).arb j = s.arb j := rfl
@[simp] theorem State.at_fn_ (t : Nat) (j : Nat) : (s.at t).fn j = s.fn j := rfl
@[simp] theorem State.at_mbox_ (t : Nat) (j : Nat) : (s.at t).mbox j = s.mbox j := rfl
@[simp] theorem State.at_queue_ (t : Nat) (j : Nat) : (s.at t).queue? j = s.queue? j := rfl
@[simp] theorem State.at_req_ (t : Nat) (j : Nat) : (s.at t).req? j = s.req? j := rfl
@[simp] theorem State.at_coll_ (t : Nat) (j : Nat) : (s.at t).coll? j = s.coll? j := rfl
@[simp] theorem State.at_shard_ (t : Nat) (j : Nat) : (s.at t).shard? j = s.shard? j := rfl
@[simp] theorem State.at_list_ (t : Nat) (j : Nat) : (s.at t).list? j = s.list? j := rfl
@[simp] theorem State.at_share_ (t : Nat) (j : Key) : (s.at t).share? j = s.share? j := rfl
@[simp] theorem State.at_member_ (t : Nat) (j : Key) (n : Nat) : (s.at t).member? j n = s.member? j n := rfl
@[simp] theorem State.at_model_ (t : Nat) (j n : Nat) : (s.at t).model? j n = s.model? j n := rfl
@[simp] theorem State.at_pool_ (t : Nat) (j : Nat) : (s.at t).pool? j = s.pool? j := rfl
@[simp] theorem State.at_run_ (t : Nat) (j : Nat) : (s.at t).run? j = s.run? j := rfl
@[simp] theorem State.at_region_ (t : Nat) (j : Nat) : (s.at t).region? j = s.region? j := rfl
@[simp] theorem State.at_arb_ (t : Nat) (j : Nat) : (s.at t).arb j = s.arb j := rfl

end Sys2Proof.Machine
end

