-- ==== Sys2Proof/Safety.lean ====
section
/-! DEFINITION. What the statements speak of: the invariant of a run, a control command that has been granted and is in
order, a mailbox that has been answered, and what else a command leaves alone. -/

namespace Sys2Proof.Machine

open Sys2Proof

/-- The register files have their sizes: 128 functions (R436), 129 mailbox requesters (R92), 8 ports (R469). -/
def Shaped (s : State) : Prop := s.fns.length = 128 ∧ s.mboxes.length = 129 ∧ s.ports.length = 8

/-- Every addressed RAM of the node (request and response areas, regions, operand buffers) is in canonical form. -/
def RamCanonical (s : State) : Prop :=
  (∀ m ∈ s.mboxes, m.req.wf = true ∧ m.resp.wf = true) ∧ (∀ g ∈ s.regions, g.mem.wf = true) ∧
    ∀ b ∈ s.operandBufs, b.2.wf = true

/-- The invariant that every step keeps. -/
def Sound (s : State) : Prop := Shaped s ∧ RamCanonical s

/-- Requester `r` holds the grant of the mailbox arbiter for a command of opcode `op` whose header is in order (R86, R93). -/
def Granted (s : State) (r op : Nat) : Prop :=
  r < s.mboxes.length ∧ s.inCommit r op = true ∧ headerGood (s.mbox r).copy = true

/-- The reserved bytes of the command fields are zero (R21, R98); `ranges` counts from 0x120. -/
def ReservedZero (s : State) (r : Nat) (ranges : List (Nat × Nat)) : Prop :=
  firstReserved (s.mbox r).copy (ranges.map fun x => (x.1 + 0x20, x.2)) = none

/-- Function `r`'s mailbox is DONE with this status and detail (R82, R84). -/
def Answered (x : State) (r status detail : Nat) : Prop :=
  (x.mbox r).st = .done ∧ (x.mbox r).status.toNat = status ∧ (x.mbox r).detail.toNat = detail

/-- The result bytes that the response area holds from 0x820 on (R87). -/
def responseResult (x : State) (r n : Nat) : Bytes := memReadAll (x.mbox r).resp 0x820 n

/-- Beside the answer in mailbox `r`, its event and what it signals, `x` is `y` (R84). -/
def OnlyAnswered (y x : State) (r : Nat) : Prop :=
  x = { y with mboxes := x.mboxes, fns := x.fns, arbs := x.arbs, out := x.out, pins := x.pins } ∧
    (∀ g, g ≠ r → x.mbox g = y.mbox g ∧ x.fn g = y.fn g) ∧ (∀ p, p ≠ 0xA0 → x.arb p = y.arb p)

/-- `x` is `s` but for function `f` and what has left the node. -/
def OnlyFnOut (s x : State) (f : Nat) : Prop :=
  x = { s with fns := x.fns, out := x.out } ∧ x.fns.length = s.fns.length ∧ ∀ g, g ≠ f → x.fn g = s.fn g

/-- Request `r` of opcode `op` has been admitted, no row has taken it, and it passes the checks of R132 that every data command has:
reserved bytes, the common header, the collection, right `right`, the input buffer and `need` bytes of output. -/
def Accepted (s : State) (num op : Nat) (io : HostIO) (ranges : List (Nat × Nat)) (rule : CollRule) (right : Option Nat)
    (need : Nat) (r : Req) : Prop :=
  s.req? num = some r ∧ r.opcode = op ∧ r.body = .fresh ∧ rule.good r = true ∧
    firstReserved r.entry (entryRanges ++ ranges) = none ∧ (∀ x ∈ entryChecks r.entry, x.2 = true) ∧
    (∀ b, right = some b → bit r.rights b = true) ∧ (io.input ≠ none ∨ le r.entry 24 4 = 0) ∧ need ≤ le r.entry 40 4 ∧
    ∀ c, s.coll? r.collection = some c → r.collection = 0 ∨ c.st ≠ .creating

/-- The host takes the output and the completion entry. -/
def HostTakes (io : HostIO) : Prop := io.outOk = true ∧ io.cqOk = true

/-- Request `r` has completed with `c` (R135, R138): it is outstanding no more, and where its queue takes completions the ring's next
entry, and before it the output data, have been written. -/
def CompletedWith (s x : State) (r : Req) (c : Compl) : Prop :=
  x.reqs = s.reqs.filter (·.num != r.num) ∧
    ∀ u, s.queue? r.queue = some u → u.stopped = false →
      .completion u.fn r.queue (u.cqAddr + 32 * u.cqTail) (completionEntry u r.cmdId c c.detail c.dataReturned) ∈ x.out ∧
      (0 < c.dataReturned → .hostWrite r.fn (le r.entry 32 8) c.data ∈ x.out)

/-- Beside the completion of `r`, what it signals and the space of a merge that it gives back, `x` is `y` (R138, R247, R452). -/
def OnlyCompleted (y x : State) (r : Req) : Prop :=
  x = { y with reqs := x.reqs, queues := x.queues, fns := x.fns, out := x.out, pins := x.pins, pools := x.pools } ∧
    (r.merge.pool = none → x.pools = y.pools) ∧ ∀ q, q ≠ r.queue → x.queue? q = y.queue? q

/-- What the coordinator makes of the answers of a search (R225, R246, R252, R254, R614): the failure of the lowest rank; else
ST_RETRY 0 where every shard's forwarding ended; else at most k entries, ST_PARTIAL where a shard is missing or a part was short,
else ST_DEGRADED where a list was degraded, else ST_OK, with the counts of the result header. -/
def SearchFinishes (y x : State) (r : Req) (p : SearchParams) (c : Coll) (answers : List (Nat × ShardAnswer)) (got : List Answer) : Prop :=
  ∀ (reply : Nat → Option ShardAnswer) (fails : List (Nat × Nat × Nat)) (replies : List (Nat × Nat × Nat × Bool × Bool × Bool)),
    (reply = fun i => (answers.find? (·.1 == i)).map (·.2)) →
    fails = (c.shardIds.filterMap fun i => match reply i with | some (.failed st d) => some (i, st, d) | _ => none) ++
      (r.merge.refused.map fun d => (2 ^ 24, stQuota, d)).toList →
    replies = (c.shardIds.filterMap fun i => shardReply answers i) →
    (fails ≠ [] → ∃ f ∈ fails, (∀ g ∈ fails, failRank f.2.1 ≤ failRank g.2.1) ∧ CompletedWith y x r (.bare f.2.1 f.2.2) ∧
      OnlyCompleted y x r) ∧
    (fails = [] → (∀ i ∈ c.shardIds, reply i = some .hopEnded) →
      CompletedWith y x r (.bare stRetry 0) ∧ OnlyCompleted y x r) ∧
    (fails = [] → (∃ i ∈ c.shardIds, reply i ≠ some .hopEnded) →
      ∃ m, CompletedWith y x r m ∧ OnlyCompleted { y with free := x.free } x r ∧ m.detail = 0 ∧
        m.status = (if replies.length < c.shardIds.length ∨ (replies.any (·.2.2.2.2.1)) = true then stPartial
          else if replies.any (·.2.2.2.1) then stDegraded else stOk) ∧
        m.value = min p.k (got.flatMap (·.entries)).length ∧ m.value2 = replies.length ∧
        le m.data 0 4 = m.value % 2 ^ 32 ∧ le m.data 4 4 = p.k % 2 ^ 32 ∧ byteAt m.data 9 = m.status ∧
        le m.data 16 4 = replies.length % 2 ^ 32 ∧
        le m.data 28 4 = got.foldl (fun n a => n + a.duplicates) 0 % 2 ^ 32 ∧
        le m.data 32 4 = replies.foldl (fun n z => n + z.2.1) 0 % 2 ^ 32 ∧
        le m.data 48 4 = got.foldl (fun n a => n + a.missingRows) 0 % 2 ^ 32)

/-- Work of kind `w` waits at arbiter `a`. -/
def Waits (x : State) (a : Nat) (w : Work) : Prop := (x.arb a).waiting.any (·.work == w) = true

/-- It is the turn of `w` at the ledger arbiters of these shards: nothing older waits there, and its pass is granted (R55, R65). -/
def LedgerTurn (s : State) (shards : List Nat) (w : LedgerWhat) : Prop :=
  ∀ i ∈ shards, ∀ d, s.shard? i = some d → d.turn w = true

/-- `w` waits at the ledger arbiter of every one of these shards that is here. -/
def LedgerWaits (x : State) (shards : List Nat) (w : LedgerWhat) : Prop :=
  ∀ i ∈ shards, ∀ d, x.shard? i = some d → d.waiting.any (·.2 == w) = true

/-- Every shard is as before but for who waits at its ledger arbiter. -/
def ShardsButWaiting (s x : State) : Prop :=
  ∀ i d, s.shard? i = some d → ∃ e, x.shard? i = some e ∧ e = { d with waiting := e.waiting }

/-- A frame with this body for this node is on its sub-queue or held for a route. -/
def FrameTo (x : State) (dest : Nat) (body : Msg) : Prop :=
  ∃ f, f.dest = dest ∧ f.body = body ∧ (f ∈ x.sched.egress.map (·.2) ∨ f ∈ x.sched.heldFrames.map (·.2))

/-- The outcome of member `m` is on its way to its origin (R35, R264): here over the internal path, else in a frame. -/
def OutcomeLeaves (node : Nat) (x : State) (m : MemberMsg) (stamp status detail : Nat) : Prop :=
  (m.key.origin = node → ⟨m.key, m.index, ⟨stamp, status, detail, m.shard⟩⟩ ∈ x.eng.inOutcomes) ∧
    (m.key.origin ≠ node → FrameTo x m.key.origin (.outcome ⟨m.key, m.index, ⟨stamp, status, detail, m.shard⟩⟩))

/-- Member `k`, `i` has ended without a stamp (R264, R287): it is gone, its outcome leaves, and its journal entries are void. -/
def MemberEnds (node : Nat) (x : State) (k : Key) (i : Nat) (w : MWork) (status detail : Nat) : Prop :=
  x.member? k i = none ∧ OutcomeLeaves node x w.msg 0 status detail ∧ ∀ e ∈ x.tier.journal, e.kind = .member k i → e.void = true

/-- Run `num` is about to compute a unit of a layer in a step of its token generation (R344, R348). -/
def RunAt (x : State) (num layer segment step : Nat) : Prop :=
  ∃ y, x.run? num = some y ∧ y.layer = layer ∧ y.segment = segment ∧ y.step = step ∧ y.stage = .compute

/-- The units of a stage serve run `x` of model `m` now (R38, R355, R402): the clocked tensor clusters of every enabled tile are
granted to it, or for a few tokens of a wholly resident model all of its broadcasts have ended. -/
def Served (s : State) (x : Run) (m : Model) : Prop :=
  (x.small m = true ∧ x.left = some []) ∨ (x.small m = false ∧ ∀ i ∈ s.tilesOn,
    s.arbHolds (tensorArb i) (.layer ⟨s.nodeId, x.num⟩) = true ∧ s.tileReady i = true)

/-- Where a run goes from the end of a unit (R346, R348, R350, R358): to the next segment, the next layer, the next step, which a run
that no token remains in (`left`) begins at once, or to its completion. -/
def LeavesUnit (s x : State) (y : Run) (r : Req) (m : Model) (c : Coll) (left : Bool) : Prop :=
  (left = false → y.segment + 1 < s.segmentsOf y m c y.layer → RunAt x y.num y.layer (y.segment + 1) y.step) ∧
    (left = false → s.segmentsOf y m c y.layer ≤ y.segment + 1 → y.layer < hdrLayers m.header → RunAt x y.num (y.layer + 1) 0 y.step) ∧
    ((left = true ∨ s.segmentsOf y m c y.layer ≤ y.segment + 1 ∧ hdrLayers m.header ≤ y.layer) →
      (y.step + 1 < y.steps → RunAt x y.num 0 0 (y.step + 1)) ∧
      (y.steps ≤ y.step + 1 → le r.entry 88 4 = 0 → x.run? y.num = none ∧ ∃ q, CompletedWith s x r q ∧ q.status = stOk ∧ q.detail = 0 ∧
        q.value = le r.entry 56 4 ∧ le q.data 0 4 = le r.entry 56 4 ∧ le q.data 32 8 = y.readStamp % 2 ^ 64))

/-- An answer is on its way to its coordinator (R29, R245): here over the internal path, else in a frame. -/
def AnswerLeaves (node : Nat) (x : State) (a : Answer) : Prop :=
  (a.key.origin = node → a ∈ x.eng.inAnswers) ∧ (a.key.origin ≠ node → FrameTo x a.key.origin (.answer a))

/-- Member `m` is on its way to the owner of its shard (R261, R320). -/
def MemberSent (node : Nat) (c : Coll) (x : State) (m : MemberMsg) : Prop :=
  ∀ o, c.spec.owners[m.shard - c.spec.firstShard]? = some o →
    (o = node → m ∈ x.eng.inMembers) ∧ (o ≠ node → FrameTo x o (.member m))

/-- Arbiter `a` when work `w` asks it for a grant now, under a requester index (R40, R55). -/
def asking (s : State) (requester : Nat) (background : Bool) (w : Work) (a : Nat) : Arb :=
  if (s.arb a).waiting.any (·.work == w) then s.arb a
  else { s.arb a with waiting := (s.arb a).waiting ++ [⟨requester, s.now, background, false, w⟩] }

/-- Work `w`, once it has asked, holds every one of these arbiters or may take it: no grant is in force and the arbiter's choice falls
on it (R40, R55). -/
def GrantTurn (s : State) (requester : Nat) (background : Bool) (arbs : List Nat) (w : Work) : Prop :=
  ∀ a ∈ arbs, s.arbHolds a w = true ∨
    (s.arb a).granted = [] ∧ ∃ r, s.arbPick (asking s requester background w a) = some r ∧ r.work = w

/-- The same for background work (log 89). -/
def BackgroundTurn (s : State) (arbs : List Nat) (w : Work) : Prop := GrantTurn s backgroundRequester true arbs w

/-- Work `w` waits at those of these arbiters that it does not hold. -/
def GrantWaits (s x : State) (arbs : List Nat) (w : Work) : Prop := ∀ a ∈ arbs, s.arbHolds a w = true ∨ Waits x a w

/-- Background work `w` waits at the arbiters it does not hold, and nothing else has changed. -/
def BackgroundWaits (s x : State) (arbs : List Nat) (w : Work) : Prop := x = { s with arbs := x.arbs } ∧ GrantWaits s x arbs w

/-- It is the turn of an issued read of a Porter slice (R38, R307): its row is not read from flash, or, once the slice has made its
requests, the row's channel is granted to it or its to take. -/
def ReadTurn (s : State) (z : Nat × Key × Nat × Nat) : Prop :=
  (s.issueReads z.1).turnsAll (readWork z) (s.readChannel z).toList = true

/-- The row of an issued read has a change at or below its stamp that is not applied yet (R304). -/
def ReadHeld (s : State) (z : Nat × Key × Nat × Nat) : Prop :=
  ∃ h e p y, s.share? z.2.1 = some h ∧ s.shard? z.2.2.1 = some e ∧ h.part? z.2.2.1 = some p ∧ e.slot? z.2.2.2 = some y ∧
    e.rowAt y p.stamp = .wait

/-- The record of a flash channel. -/
def State.channel (s : State) (i : Nat) : Channel := s.tier.channels.getD i {}

/-- This event was logged now (R584). -/
def Logged (x : State) (cls code : Nat) (detail : Bytes) : Prop :=
  ∃ n, ⟨x.ao.now, n, cls, code, slice detail 0 16⟩ ∈ x.ao.log

/-- `x` is `y` but for its event log and what an event drives, ALERT_N. -/
def OnlyLogged (y x : State) : Prop :=
  x = { y with ao := { y.ao with log := x.ao.log, nextEntry := x.ao.nextEntry }, pins := { y.pins with alertN := x.pins.alertN } }

/-- The detail of an event about an element of the node (R584). -/
def elementDetail (e : Element) : Bytes := toLE 4 (elementWord e.kind e.domain e.element) ++ toLE 8 0

/-- A node reset of this cause has begun (R531 to R535, R545, R556): RESET_N is driven low, THERM_N and
WAKE_N hold their levels, the I3C address is kept, what the node held is gone, trained ports
are held; the options of AO retention and the peers' epochs stay. -/
def NodeResetBegun (s x : State) (cause : BitVec 8) : Prop :=
  x.ao.stage = .inReset ∧ x.ao.resetRank = 2 ∧ x.ao.cause = cause ∧ x.ao.prior = s.ao.cause ∧
    x.ao.nodeResets = min 65535 (s.ao.nodeResets + 1) ∧ x.ao.resetAt = x.ao.now ∧ x.pins.resetDriven = true ∧
    x.pins.resetN = false ∧ x.reqs = [] ∧ x.queues = [] ∧ x.runs = [] ∧ x.regions = [] ∧ x.mboxes = List.replicate 129 {} ∧
    x.cfg = s.cfg ∧ x.peers = s.peers ∧ x.pins.thermN = s.pins.thermN ∧ x.pins.wakeN = s.pins.wakeN ∧ x.pins.i3cAddr = s.pins.i3cAddr ∧
    ∀ p, p < 8 → (s.port p).st = .up ∨ (s.port p).st = .narrow → (x.port p).st = .kept

/-- The host port is in an interface reset (R457, R460, R538): no Bus Master Enable, no VFs, the PF resets; the rest of the node
goes on. -/
def InterfaceReset (s x : State) : Prop :=
  x.pins.bme = false ∧ x.pins.crs = true ∧ x.pins.vfEnable = false ∧ (x.fn 0).resetBusy = true ∧ x.ao.stage = s.ao.stage ∧
    x.peers = s.peers ∧ x.ports.map (·.st) = s.ports.map (·.st) ∧
    ((s.fn 0).resetBusy = false → (x.fn 0).ready = false ∧ (∀ u ∈ x.queues, u.fn ≠ 0) ∧ ∀ r ∈ x.reqs, r.fn ≠ 0)

end Sys2Proof.Machine
end

