-- ==== Sys2Proof/Laws/Ops.lean ====
section
/-! SUPPORT. One specification for each shared operation: reading a record back after its update, addressed RAM, arbiters,
mailbox answers and the commit step. -/

namespace Sys2Proof.Machine

open Sys2Proof

/-! ### Lengths of byte strings -/

@[simp] theorem toLE_length (n v : Nat) : (toLE n v).length = n := by
  induction n generalizing v with
  | zero => rfl
  | succ n ih => simp [toLE, ih]

@[simp] theorem zeros_length (n : Nat) : (zeros n).length = n := List.length_replicate

@[simp] theorem slice_length (b : Bytes) (off n : Nat) : (slice b off n).length = n := by
  simp only [slice, List.length_append, List.length_take, List.length_drop, zeros_length]
  omega

@[simp] theorem layout_length (n : Nat) (l : List (Nat × Bytes)) : (layout n l).length = n := by
  simp [layout]

theorem State.reportBody_length (s : State) (nonce : Bytes) : (s.reportBody nonce).length = 640 := by
  simp [State.reportBody, List.zipIdx, List.range, List.range.loop]

/-! ### Records of the register files -/

theorem State.modFn_fn_same {s : State} {i : Nat} (h : i < s.fns.length) (f : Fn → Fn) :
    (s.modFn i f).fn i = f (s.fn i) := by
  simp [State.modFn, State.fn, List.getD, h]

theorem State.modFn_fn_ne {s : State} {i j : Nat} (h : j ≠ i) (f : Fn → Fn) : (s.modFn i f).fn j = s.fn j := by
  simp [State.modFn, State.fn, List.getD, List.getElem?_modify_ne, h.symm]

theorem State.modMbox_mbox_same {s : State} {i : Nat} (h : i < s.mboxes.length) (f : Mbox → Mbox) :
    (s.modMbox i f).mbox i = f (s.mbox i) := by
  simp [State.modMbox, State.mbox, List.getD, h]

theorem State.modMbox_mbox_ne {s : State} {i j : Nat} (h : j ≠ i) (f : Mbox → Mbox) :
    (s.modMbox i f).mbox j = s.mbox j := by
  simp [State.modMbox, State.mbox, List.getD, List.getElem?_modify_ne, h.symm]

theorem State.modPort_port_same {s : State} {i : Nat} (h : i < s.ports.length) (f : Port → Port) :
    (s.modPort i f).port i = f (s.port i) := by
  simp [State.modPort, State.port, List.getD, h]

theorem State.modPort_port_ne {s : State} {i j : Nat} (h : j ≠ i) (f : Port → Port) :
    (s.modPort i f).port j = s.port j := by
  simp [State.modPort, State.port, List.getD, List.getElem?_modify_ne, h.symm]

@[simp] theorem State.modFn_fns_length {s : State} (i : Nat) (f : Fn → Fn) : (s.modFn i f).fns.length = s.fns.length := by
  simp [State.modFn]

@[simp] theorem State.modMbox_mboxes_length {s : State} (i : Nat) (f : Mbox → Mbox) :
    (s.modMbox i f).mboxes.length = s.mboxes.length := by
  simp [State.modMbox]

@[simp] theorem State.modPort_ports_length {s : State} (i : Nat) (f : Port → Port) :
    (s.modPort i f).ports.length = s.ports.length := by
  simp [State.modPort]

/-! ### The clock changes no other reading -/

@[simp] theorem State.at_fnExists (s : State) (t f : Nat) : (s.at t).fnExists f = s.fnExists f := rfl
@[simp] theorem State.at_nodeId (s : State) (t : Nat) : (s.at t).nodeId = s.nodeId := rfl
@[simp] theorem State.at_rights (s : State) (t f c : Nat) : (s.at t).rights f c = s.rights f c := rfl
@[simp] theorem State.at_inCommit (s : State) (t r op : Nat) : (s.at t).inCommit r op = s.inCommit r op := rfl
@[simp] theorem State.at_commitLimit (s : State) (t : Nat) : (s.at t).commitLimit = s.commitLimit := rfl
@[simp] theorem State.at_tailRunning (s : State) (t : Nat) (p : TailKind → Bool) : (s.at t).tailRunning p = s.tailRunning p := rfl
@[simp] theorem State.at_alive_stage (s : State) (t : Nat) : (s.at t).ao.stage = s.ao.stage := rfl
@[simp] theorem State.at_capacity (s : State) (t : Nat) (k : QKind) : (s.at t).capacity k = s.capacity k := rfl
@[simp] theorem State.at_tierUsed (s : State) (t : Nat) (k : QKind) : (s.at t).tierUsed k = s.tierUsed k := rfl

theorem Granted.at {s : State} {r op : Nat} (h : Granted s r op) (t : Nat) : Granted (s.at t) r op := h

theorem ReservedZero.at {s : State} {r : Nat} {l : List (Nat × Nat)} (h : ReservedZero s r l) (t : Nat) :
    ReservedZero (s.at t) r l := h

/-! ### Records found by a key -/

/-- A record found by a key is found again after an update that keeps the key. -/
theorem find?_modWhere {α : Type} (l : List α) (p : α → Bool) (f : α → α) (hf : ∀ x, p x = true → p (f x) = true) :
    (modWhere l p f).find? p = (l.find? p).map f := by
  induction l with
  | nil => rfl
  | cons x l ih =>
    by_cases h : p x = true
    · simp [modWhere, h, hf x h]
    · simp only [modWhere, List.map_cons, h, Bool.false_eq_true, ↓reduceIte, List.find?_cons] at ih ⊢
      simpa [modWhere, h] using ih

theorem State.modQueue_queue {s : State} {q : Nat} {f : Queue → Queue} (hf : ∀ u, (f u).num = u.num) :
    (s.modQueue q f).queue? q = (s.queue? q).map f :=
  find?_modWhere _ _ _ (by simp [hf])

theorem State.modColl_coll {s : State} {c : Nat} {f : Coll → Coll} (hf : ∀ u, (f u).spec.id = u.spec.id) :
    (s.modColl c f).coll? c = (s.coll? c).map f :=
  find?_modWhere _ _ _ (by simp [hf])

theorem State.modShard_shard {s : State} {c : Nat} {f : Shard → Shard} (hf : ∀ u, (f u).id = u.id) :
    (s.modShard c f).shard? c = (s.shard? c).map f :=
  find?_modWhere _ _ _ (by simp [hf])

theorem State.modList_list {s : State} {c : Nat} {f : LList → LList} (hf : ∀ u, (f u).id = u.id) :
    (s.modList c f).list? c = (s.list? c).map f :=
  find?_modWhere _ _ _ (by simp [hf])

theorem State.modPool_pool {s : State} {c : Nat} {f : Pool → Pool} (hf : ∀ u, (f u).id = u.id) :
    (s.modPool c f).pool? c = (s.pool? c).map f :=
  find?_modWhere _ _ _ (by simp [hf])

theorem State.modRun_run {s : State} {c : Nat} {f : Run → Run} (hf : ∀ u, (f u).num = u.num) :
    (s.modRun c f).run? c = (s.run? c).map f :=
  find?_modWhere _ _ _ (by simp [hf])

/-! ### Addressed RAM -/

theorem memSorted_weaken {lo lo' : Nat} (h : lo ≤ lo') : ∀ {m : Mem}, memSorted lo' m = true → memSorted lo m = true
  | [], _ => rfl
  | (a, v) :: m, hm => by
    simp only [memSorted, Bool.and_eq_true, decide_eq_true_eq] at hm ⊢
    exact ⟨⟨by omega, hm.1.2⟩, hm.2⟩

theorem memWrite_sorted {i : Nat} {x : Byte} : ∀ {m : Mem} {lo : Nat}, lo ≤ i → memSorted lo m = true →
    memSorted lo (memWrite m i x) = true
  | [], lo, hi, _ => by
    by_cases hx : x = 0#8 <;> simp [memWrite, memSorted, hx, hi]
  | (a, v) :: m, lo, hi, hm => by
    simp only [memSorted, Bool.and_eq_true, decide_eq_true_eq] at hm
    obtain ⟨⟨hlo, hv⟩, hm⟩ := hm
    have hv : v ≠ 0#8 := hv
    unfold memWrite
    by_cases h1 : i < a
    · have h3 : i + 1 ≤ a := h1
      by_cases hx : x = 0#8 <;> simp [h1, hx, memSorted, hi, hlo, hv, hm, h3]
    · by_cases h2 : a = i
      · subst h2
        by_cases hx : x = 0#8
        · simpa [hx] using memSorted_weaken (by omega) hm
        · simp [hx, memSorted, hm, hlo]
      · have := memWrite_sorted (i := i) (x := x) (lo := a + 1) (by omega) hm
        simp [h1, h2, memSorted, hlo, hv, this]

/-- Writing a byte keeps the canonical form. -/
theorem memWrite_wf {m : Mem} (h : m.wf = true) (i : Nat) (x : Byte) : Mem.wf (memWrite m i x) = true :=
  memWrite_sorted (Nat.zero_le i) h

/-- Writing bytes keeps the canonical form. -/
theorem memWriteAll_wf : ∀ (b : Bytes) {m : Mem} (i : Nat), m.wf = true → Mem.wf (memWriteAll m i b) = true
  | [], _, _, h => h
  | x :: xs, _, i, h => memWriteAll_wf xs (i + 1) (memWrite_wf h i x)

theorem memRead_low : ∀ {m : Mem} {lo i : Nat}, memSorted lo m = true → i < lo → memRead m i = 0
  | [], _, _, _, _ => rfl
  | (a, v) :: m, lo, i, hm, hi => by
    simp only [memSorted, Bool.and_eq_true, decide_eq_true_eq] at hm
    have : a ≠ i := by omega
    simp [memRead, this, memRead_low hm.2 (by omega : i < a + 1)]

/-- Reading after a write: the byte written, and every other byte as before. -/
theorem memRead_memWrite {i : Nat} {x : Byte} (j : Nat) : ∀ {m : Mem} {lo : Nat}, memSorted lo m = true →
    memRead (memWrite m i x) j = if j = i then x else memRead m j
  | [], lo, _ => by
    by_cases hx : x = 0#8
    · simp [memWrite, hx, memRead]
    · simp [memWrite, hx, memRead, eq_comm]
  | (a, v) :: m, lo, hm => by
    simp only [memSorted, Bool.and_eq_true, decide_eq_true_eq] at hm
    obtain ⟨⟨hlo, hv⟩, hm⟩ := hm
    unfold memWrite
    by_cases h1 : i < a
    · by_cases hx : x = 0#8
      · by_cases hj : j = i
        · have ha : a ≠ i := by omega
          simp [h1, hx, hj, memRead, ha, memRead_low hm (by omega : i < a + 1)]
        · simp [h1, hx, hj, memRead]
      · by_cases hj : j = i
        · simp [h1, hx, hj, memRead]
        · simp [h1, hx, hj, memRead, Ne.symm hj]
    · by_cases h2 : a = i
      · subst h2
        by_cases hj : j = a
        · subst hj
          by_cases hx : x = 0#8
          · simp [hx, memRead_low hm (by omega : j < j + 1)]
          · simp [hx, memRead]
        · by_cases hx : x = 0#8 <;> simp [hx, hj, memRead, Ne.symm hj]
      · have ih := memRead_memWrite (i := i) (x := x) j hm
        by_cases hj : a = j
        · subst hj
          simp [h1, h2, memRead]
        · simp [h1, h2, hj, memRead, ih]

/-- Bytes below the first one written read as before. -/
theorem memRead_memWriteAll_low : ∀ (b : Bytes) {m : Mem} (i j : Nat), m.wf = true → j < i →
    memRead (memWriteAll m i b) j = memRead m j
  | [], _, _, _, _, _ => rfl
  | x :: xs, m, i, j, h, hj => by
    rw [memWriteAll, memRead_memWriteAll_low xs (i + 1) j (memWrite_wf h i x) (by omega), memRead_memWrite j h]
    simp [Nat.ne_of_lt hj]

/-- The bytes written read back. -/
theorem memReadAll_memWriteAll : ∀ (b : Bytes) {m : Mem} (i : Nat), m.wf = true →
    memReadAll (memWriteAll m i b) i b.length = b
  | [], _, _, _ => rfl
  | x :: xs, m, i, h => by
    have h1 := memWrite_wf h i x
    simp only [memWriteAll, List.length_cons, memReadAll, memReadAll_memWriteAll xs (i + 1) h1,
      memRead_memWriteAll_low xs (i + 1) i h1 (by omega), memRead_memWrite i h, if_true]

/-! ### Arbiters -/

theorem State.modArb_arb_same {s : State} {id : Nat} {f : Arb → Arb} (hf : ∀ a, (f a).id = a.id) :
    (s.modArb id f).arb id = f (s.arb id) := by
  unfold State.modArb
  by_cases h : s.arbs.any (·.id == id) = true
  · simp only [h, if_true, State.arb]
    rw [find?_modWhere _ _ _ (by simp [hf])]
    obtain ⟨a, ha, hid⟩ := List.any_eq_true.mp h
    cases hf' : s.arbs.find? (·.id == id) with
    | none => exact absurd hid (by simpa using List.find?_eq_none.mp hf' a ha)
    | some b => rfl
  · have hn : s.arbs.find? (·.id == id) = none := by
      simp only [List.find?_eq_none]
      intro a ha hid
      exact h (List.any_eq_true.mpr ⟨a, ha, hid⟩)
    simp [h, State.arb, List.find?_append, hn, hf]

theorem find?_modWhere_ne {α : Type} (l : List α) (p q : α → Bool) (f : α → α) (hp : ∀ x, p x = true → q x = false)
    (hf : ∀ x, p x = true → q (f x) = false) : (modWhere l p f).find? q = l.find? q := by
  induction l with
  | nil => rfl
  | cons x l ih =>
    by_cases h : p x = true
    · simpa [modWhere, h, hp x h, hf x h] using ih
    · simp only [modWhere, List.map_cons, h, Bool.false_eq_true, if_false, List.find?_cons] at ih ⊢
      cases q x <;> simp_all

theorem State.modArb_arb_ne {s : State} {id j : Nat} {f : Arb → Arb} (h : j ≠ id) (hf : ∀ a, (f a).id = a.id) :
    (s.modArb id f).arb j = s.arb j := by
  unfold State.modArb
  by_cases ha : s.arbs.any (·.id == id) = true
  · simp only [ha, if_true, State.arb]
    rw [find?_modWhere_ne]
    · intro x hx; simp_all [Ne.symm h]
    · intro x hx; simp_all [Ne.symm h]
  · have : ((f { id := id }).id == j) = false := by simp [hf, Ne.symm h]
    simp [ha, State.arb, List.find?_append, this]

theorem State.modArb_frame (s : State) (id : Nat) (f : Arb → Arb) : s.modArb id f = { s with arbs := (s.modArb id f).arbs } := by
  unfold State.modArb; split <;> rfl

@[simp] theorem Arb.addHeld_id (a : Arb) (k n : Nat) : (a.addHeld k n).id = a.id := rfl

theorem State.arbEnd_arb_ne {s : State} {id j : Nat} (h : j ≠ id) (w : Work) : (s.arbEnd id w).arb j = s.arb j :=
  State.modArb_arb_ne h (by
    intro a
    split
    · rfl
    · dsimp only
      split <;> rfl)

/-- A request at an arbiter waits there, and no other arbiter changes (R55). -/
theorem State.arbRequest_waits (s : State) (id requester : Nat) (b rb : Bool) (w : Work) :
    ((s.arbRequest id requester b rb w).arb id).waiting.any (·.work == w) = true := by
  unfold State.arbRequest
  rw [State.modArb_arb_same (by intro a; split <;> rfl)]
  split
  · assumption
  · simp

theorem State.arbRequest_arb_ne {s : State} {id j : Nat} (h : j ≠ id) (requester : Nat) (b rb : Bool) (w : Work) :
    (s.arbRequest id requester b rb w).arb j = s.arb j :=
  State.modArb_arb_ne h (by intro a; split <;> rfl)

/-! ### Interrupts change their function and what leaves the node -/

theorem OnlyFnOut.refl (s : State) (f : Nat) : OnlyFnOut s s f := ⟨rfl, rfl, fun _ _ => rfl⟩

theorem OnlyFnOut.trans {s x y : State} {f : Nat} (h : OnlyFnOut s x f) (k : OnlyFnOut x y f) : OnlyFnOut s y f := by
  obtain ⟨e, l, o⟩ := h
  obtain ⟨e', l', o'⟩ := k
  refine ⟨?_, l'.trans l, fun g hg => (o' g hg).trans (o g hg)⟩
  rw [e'] ; rw [e]

theorem State.modFn_only (s : State) (f : Nat) (g : Fn → Fn) : OnlyFnOut s (s.modFn f g) f :=
  ⟨rfl, by simp, fun _ h => State.modFn_fn_ne h g⟩

theorem State.emit_only (s : State) (o : Output) (f : Nat) : OnlyFnOut s (s.emit o) f := ⟨rfl, rfl, fun _ _ => rfl⟩

theorem State.sendVec_only (s : State) (f v : Nat) : OnlyFnOut s (s.sendVec f v) f :=
  (State.modFn_only s f _).trans (State.emit_only _ _ f)

theorem State.sendCeiling_only (s : State) (f v : Nat) : OnlyFnOut s (s.sendCeiling f v) f := by
  unfold State.sendCeiling
  refine (State.modFn_only s f (·.fillCeiling s.now)).trans ?_
  dsimp only
  split
  · split
    · exact State.modFn_only _ f _
    · split
      · exact State.modFn_only _ f _
      · exact (State.modFn_only _ f _).trans (State.sendVec_only _ f v)
  · exact State.sendVec_only _ f v

/-- A due message changes its function and what has left the node, nothing else (R453 to R455). -/
theorem State.dueVec_only (s : State) (f v : Nat) (c : Bool) : OnlyFnOut s (s.dueVec f v c) f := by
  unfold State.dueVec
  dsimp only
  split
  · exact OnlyFnOut.refl s f
  · split
    · exact OnlyFnOut.refl s f
    · split
      · exact State.modFn_only s f _
      · split
        · exact State.sendCeiling_only s f v
        · exact State.sendVec_only s f v

theorem State.releaseVec_only (s : State) (f v : Nat) : OnlyFnOut s (s.releaseVec f v) f := by
  unfold State.releaseVec
  dsimp only
  split
  · split
    · exact State.sendVec_only s f v
    · exact State.sendCeiling_only s f v
  · exact OnlyFnOut.refl s f

theorem State.wakeSignal_frame (s : State) : s.wakeSignal = { s with pins := s.wakeSignal.pins } := by
  unfold State.wakeSignal; split <;> rfl

/-! ### Mailbox answers (R84) -/

/-- The answer of a function's mailbox: its registers, and nothing of the other mailboxes and functions. -/
theorem State.mailboxDone_spec {s : State} {r : Nat} (hr : r < s.mboxes.length) (h128 : r ≠ 128) (status detail : Nat)
    (results data : Bytes) :
    let x := s.mailboxDone r status detail results data
    x = { s with mboxes := x.mboxes, fns := x.fns, out := x.out, pins := x.pins } ∧
      (∀ g, g ≠ r → x.mbox g = s.mbox g ∧ x.fn g = s.fn g) ∧
      x.mbox r = { s.mbox r with
        st := .done, status := BitVec.ofNat 8 status, detail := BitVec.ofNat 16 detail, committing := false,
        resp := memWriteAll (s.mbox r).resp 0x800
          (responseBytes (le (s.mbox r).copy 0 2) status detail (s.mbox r).sequence.toNat results data.length),
        elapsed := BitVec.ofNat 32 (s.now - (s.mbox r).grantAt),
        wait := BitVec.ofNat 32 ((s.mbox r).grantAt - (s.mbox r).postedAt) } := by
  intro x
  have hx : x = s.mailboxDone r status detail results data := rfl
  unfold State.mailboxDone at hx
  simp only [h128, if_false] at hx
  -- the state after the host buffer write
  generalize hy : (if data = [] then s else s.emit (.hostWrite r (le (s.mbox r).copy 8 8) data)) = y at hx
  have y1 : y = { s with out := y.out } := by rw [← hy]; split <;> rfl
  generalize hz : (y.modMbox r fun m =>
      { m with st := .done, status := BitVec.ofNat 8 status, detail := BitVec.ofNat 16 detail, committing := false,
               resp := memWriteAll m.resp 0x800
                 (responseBytes (le (s.mbox r).copy 0 2) status detail (s.mbox r).sequence.toNat results data.length),
               elapsed := BitVec.ofNat 32 (y.now - m.grantAt),
               wait := BitVec.ofNat 32 (m.grantAt - m.postedAt) }) = z at hx
  have z1 : z = { s with out := z.out, mboxes := z.mboxes } := by rw [← hz, y1]; rfl
  have zr := State.modMbox_mbox_same (s := y) (i := r) (by rw [y1]; exact hr) fun m : Mbox =>
      { m with st := .done, status := BitVec.ofNat 8 status, detail := BitVec.ofNat 16 detail, committing := false,
               resp := memWriteAll m.resp 0x800
                 (responseBytes (le (s.mbox r).copy 0 2) status detail (s.mbox r).sequence.toNat results data.length),
               elapsed := BitVec.ofNat 32 (y.now - m.grantAt),
               wait := BitVec.ofNat 32 (m.grantAt - m.postedAt) }
  rw [hz] at zr
  have ym : y.mbox r = s.mbox r := by rw [y1]; rfl
  have yn : y.now = s.now := by rw [y1]; rfl
  rw [ym, yn] at zr
  have zn : ∀ g, g ≠ r → z.mbox g = s.mbox g := by
    intro g hg
    rw [← hz, State.modMbox_mbox_ne hg, y1]; rfl
  have w0 := State.modFn_only z r fun f => { f with evMbxDone := true }
  generalize (z.modFn r fun f => { f with evMbxDone := true }) = w at hx w0
  have v0 : OnlyFnOut z (if (s.mbox r).irqEnable = true then w.dueVec r (s.mbox r).vector.toNat false else w) r := by
    split
    · exact w0.trans (State.dueVec_only _ _ _ _)
    · exact w0
  generalize (if (s.mbox r).irqEnable = true then w.dueVec r (s.mbox r).vector.toNat false else w) = v at hx v0
  have xf := State.wakeSignal_frame v
  rw [← hx] at xf
  obtain ⟨v1, -, v3⟩ := v0
  refine ⟨?_, ?_, ?_⟩
  · rw [xf, v1, z1]
  · intro g hg
    constructor
    · rw [xf, v1]; exact zn g hg
    · rw [xf]; refine (v3 g hg).trans ?_; rw [z1]; rfl
  · rw [xf, v1]; exact zr

/-- A reply answers the mailbox and parks the mailbox arbiter; nothing else changes. -/
theorem State.reply_only {s : State} {r : Nat} (hr : r < s.mboxes.length) (h128 : r ≠ 128) (status detail : Nat)
    (results data : Bytes) : OnlyAnswered s (s.reply r status detail results data) r := by
  obtain ⟨h1, h2, -⟩ := State.mailboxDone_spec hr h128 status detail results data
  have h3 := State.modArb_frame (s.mailboxDone r status detail results data) 0xA0
  unfold State.reply
  refine ⟨?_, ?_, ?_⟩
  · unfold State.arbEnd; rw [h3, h1]
  · intro g hg
    obtain ⟨a, b⟩ := h2 g hg
    unfold State.arbEnd; rw [h3]; exact ⟨a, b⟩
  · intro p hp
    rw [State.arbEnd_arb_ne hp, h1]; rfl

theorem State.reply_answered {s : State} {r : Nat} (hr : r < s.mboxes.length) (h128 : r ≠ 128) {status detail : Nat}
    (hs : status < 256) (hd : detail < 65536) (results data : Bytes) :
    Answered (s.reply r status detail results data) r status detail := by
  obtain ⟨-, -, h⟩ := State.mailboxDone_spec hr h128 status detail results data
  have e : (s.reply r status detail results data).mbox r = (s.mailboxDone r status detail results data).mbox r := by
    unfold State.reply State.arbEnd; rw [State.modArb_frame]; rfl
  unfold Answered
  rw [e, h]
  simp [Nat.mod_eq_of_lt hs, Nat.mod_eq_of_lt hd]

/-! ### Flash programs (R421, R422): what they change of a channel, and of the state -/

theorem Channel.program_frame (c : Channel) (n : Nat) :
    c.program n = { c with freeBlocks := (c.program n).freeBlocks, openBytes := (c.program n).openBytes } := rfl

theorem Channel.freeOne_frame (c : Channel) (n : Nat) :
    c.freeOne n = { c with freeBlocks := (c.freeOne n).freeBlocks, openBytes := (c.freeOne n).openBytes } := rfl

theorem State.programBytes_frame (s : State) (ch n : Nat) :
    s.programBytes ch n = { s with tier := { s.tier with channels := (s.programBytes ch n).tier.channels } } := rfl

theorem State.programRows_frame (s : State) (n : Nat) :
    s.programRows n =
      { s with tier := { s.tier with channels := (s.programRows n).tier.channels, rowTurn := (s.programRows n).tier.rowTurn } } := rfl

theorem State.programSpread_frame (s : State) (n : Nat) :
    s.programSpread n = { s with tier := { s.tier with channels := (s.programSpread n).tier.channels } } := rfl

/-- A granted command from a permitted issuer with its fields in order is carried out by its body (R91). -/
theorem State.commit_runs {s : State} {r op : Nat} {ranges : List (Nat × Nat)} {checks : List (Nat × Bool)}
    {body : State → Bytes → State} (hg : Granted s r op) (hb : firstBad (s.mbox r).copy ranges checks = none) :
    s.commit r op true ranges checks body = body s (s.mbox r).copy := by
  obtain ⟨-, h1, h2⟩ := hg
  simp [State.commit, h1, h2, hb]

/-- Fields in order: the reserved bytes are zero and every check holds. -/
theorem firstBad_none {b : Bytes} {ranges : List (Nat × Nat)} {checks : List (Nat × Bool)}
    (hr : firstReserved b (ranges.map fun x => (x.1 + 0x20, x.2)) = none) (hc : ∀ c ∈ checks, c.2 = true) :
    firstBad b ranges checks = none := by
  have : checks.filter (fun x => !x.2) = [] := by
    simp only [List.filter_eq_nil_iff]
    intro c h; simp [hc c h]
  simp [firstBad, hr, this]

/-! ### Shared arbiters and ledgers (R55, R65): what requests, grants and their ends change -/

/-- A change made once for each of some things changes no field that one such change leaves. -/
theorem foldl_keeps {α β : Type} (get : State → β) (f : State → α → State) (h : ∀ s x, get (f s x) = get s) :
    ∀ (l : List α) (s : State), get (l.foldl f s) = get s
  | [], _ => rfl
  | x :: l, s => (foldl_keeps get f h l (f s x)).trans (h s x)

/-- A state without its arbiters: what an arbiter operation keeps. -/
def State.noArbs (s : State) : State := { s with arbs := [] }

theorem State.eq_of_noArbs {s x : State} (h : x.noArbs = s.noArbs) : x = { s with arbs := x.arbs } := by
  cases s; cases x; simpa [State.noArbs] using h

@[simp] theorem State.modArb_noArbs (s : State) (id : Nat) (f : Arb → Arb) : (s.modArb id f).noArbs = s.noArbs := by
  rw [State.modArb_frame]; rfl

@[simp] theorem State.arbRequest_noArbs (s : State) (id requester : Nat) (b rb : Bool) (w : Work) :
    (s.arbRequest id requester b rb w).noArbs = s.noArbs := State.modArb_noArbs ..

@[simp] theorem State.arbGive_noArbs (s : State) (id : Nat) (r : ArbReq) (l : Bool) : (s.arbGive id r l).noArbs = s.noArbs :=
  State.modArb_noArbs ..

@[simp] theorem State.arbEnd_noArbs (s : State) (id : Nat) (w : Work) : (s.arbEnd id w).noArbs = s.noArbs :=
  State.modArb_noArbs ..

@[simp] theorem State.arbWithdraw_noArbs (s : State) (p : Work → Bool) : (s.arbWithdraw p).noArbs = s.noArbs := rfl

@[simp] theorem State.dropWork_noArbs (s : State) (p : Work → Bool) : (s.dropWork p).noArbs = s.noArbs := by
  exact foldl_keeps State.noArbs (fun s (x : Nat × Work) => s.arbEnd x.1 x.2) (fun s x => State.arbEnd_noArbs s x.1 x.2) _ (s.arbWithdraw p)

theorem State.dropWork_frame (s : State) (p : Work → Bool) : s.dropWork p = { s with arbs := (s.dropWork p).arbs } :=
  State.eq_of_noArbs (State.dropWork_noArbs s p)

@[simp] theorem State.takeGrant_noArbs (s : State) (w : Work) (a : Nat) : (s.takeGrant w a).noArbs = s.noArbs := by
  unfold State.takeGrant
  repeat' split
  all_goals simp

theorem State.useGrants_frame (s : State) (w : Work) (arbs : List Nat) :
    s.useGrants w arbs = { s with arbs := (s.useGrants w arbs).arbs } :=
  State.eq_of_noArbs (foldl_keeps State.noArbs _ (by intro s a; simp) arbs s)

@[simp] theorem State.requestAt_noArbs (s : State) (n : Nat) (b : Bool) (w : Work) (arbs : List Nat) :
    (s.requestAt n b w arbs).noArbs = s.noArbs :=
  foldl_keeps State.noArbs _ (by intro s a; split <;> simp) arbs s

@[simp] theorem State.requestOnly_noArbs (s : State) (n : Nat) (b : Bool) (w : Work) (arbs : List Nat) :
    (s.requestOnly n b w arbs).noArbs = s.noArbs := by
  unfold State.requestOnly
  rw [State.requestAt_noArbs]
  exact foldl_keeps State.noArbs _ (by intro s a; split <;> simp) s.arbs s

theorem State.requestOnly_frame (s : State) (n : Nat) (b : Bool) (w : Work) (arbs : List Nat) :
    s.requestOnly n b w arbs = { s with arbs := (s.requestOnly n b w arbs).arbs } :=
  State.eq_of_noArbs (State.requestOnly_noArbs s n b w arbs)

/-- A slice that requests the channels of its reads changes arbiters only. -/
theorem State.issueReads_frame (s : State) (tile : Nat) : s.issueReads tile = { s with arbs := (s.issueReads tile).arbs } := by
  refine State.eq_of_noArbs ?_
  unfold State.issueReads
  exact (foldl_keeps State.noArbs _ (by intro s x; simp) _ _).trans (State.dropWork_noArbs s _)

theorem State.needUnit_frame (s : State) (u : UnitId) :
    s.needUnit u = { s with pwr := { s.pwr with units := (s.needUnit u).pwr.units }, arbs := (s.needUnit u).arbs } := by
  unfold State.needUnit
  split
  · unfold State.arbRequest; rw [State.modArb_frame]; rfl
  · rfl

theorem State.modArrs_frame (s : State) (l : List Nat) (f : Arr → Arr) :
    s.modArrs l f = { s with spares := { s.spares with arrays := (s.modArrs l f).spares.arrays } } := rfl

theorem State.joinLedger_frame (s : State) (w : LedgerWhat) (i : Nat) :
    s.joinLedger w i = { s with shards := (s.joinLedger w i).shards } := rfl

theorem State.leaveLedger_frame (s : State) (w : LedgerWhat) (i : Nat) :
    s.leaveLedger w i = { s with shards := (s.leaveLedger w i).shards, arbs := (s.leaveLedger w i).arbs } := by
  unfold State.leaveLedger
  split
  · rfl
  · unfold State.countLedger; rw [State.modArb_frame]; rfl

/-- Its turn at every one of the shards: the pass is granted, and `go` is done. -/
theorem State.passLedgers_granted {s : State} {shards : List Nat} {w : LedgerWhat} (h : LedgerTurn s shards w) (go : State → State) :
    s.passLedgers shards w go = go (shards.foldl (State.leaveLedger · w) s) := by
  have : (shards.all fun i => (s.shard? i).all (·.turn w)) = true := by
    simp only [List.all_eq_true, Option.all_eq_true]
    exact fun i hi d hd => h i hi d hd
  simp [State.passLedgers, this]

/-- Something older waits at one of the shards: it waits, and nothing is done. -/
theorem State.passLedgers_waits {s : State} {shards : List Nat} {w : LedgerWhat} {i : Nat} {d : Shard} (hi : i ∈ shards)
    (hd : s.shard? i = some d) (ht : d.turn w = false) (go : State → State) :
    s.passLedgers shards w go = { s with shards := (s.passLedgers shards w go).shards } := by
  have e : s.passLedgers shards w go = shards.foldl (State.joinLedger · w) s := by
    have : (shards.all fun i => (s.shard? i).all (·.turn w)) = false := by
      simp only [List.all_eq_false, Bool.not_eq_true]
      exact ⟨i, hi, by simp [hd, ht]⟩
    simp [State.passLedgers, this]
  rw [e]
  have k := foldl_keeps (fun s : State => ({ s with shards := [] } : State)) (State.joinLedger · w) (fun _ _ => rfl) shards s
  generalize shards.foldl (State.joinLedger · w) s = x at k ⊢
  cases s; cases x; simpa using k

end Sys2Proof.Machine
end

