-- ==== Sys2Proof/Certificates/Slice0/Obligations.lean ====
section
/-! DEFINITION. The statements for the provers. A frame is said by one equation: `x = { s with f := x.f, … }` leaves every
field not named as it was. `s.at t` is `s` with the clock at `t`: AO_LOCAL_COUNT, the AO watchdog and PORT_CREDIT_WAIT. -/

open Sys2Proof Sys2Proof.Machine

/-! ### The step, reset and the invariant -/

/-- A step carries out the command at the front of the queue, with the queue's rest. -/
def Obligations.StepRunsFrontCommand : Prop :=
  ∀ (c : Instr) (rest : List Instr) (s : State), s.pending = c :: rest → step s = exec c { s with pending := rest }

/-- With no command waiting one AO tick passes (the model's choice, log 7): the clock moves on by one, and nothing but the clock
changes. Model's choices: log 7. -/
def Obligations.EmptyQueueTicks : Prop :=
  ∀ s : State, s.pending = [] → ∃ x, step s = .next x ∧ x.ao.now = s.ao.now + 1 ∧ x = { s with ao := x.ao, ports := x.ports } ∧
    x.ao = { s.ao with now := x.ao.now, watchdog := x.ao.watchdog }

/-- R80: the PF's and the VFs' FN_RESOURCES as the node starts, read through the register. -/
def Obligations.ResourcesAfterReset : Prop :=
  (State.reset.fn 0).resourcesWord = word [(0, 0), (12, 3584), (24, 64), (31, 0), (34, 1)] ∧
    ∀ f, 1 ≤ f → f < 128 → (State.reset.fn f).queueCount = 0 ∧ (State.reset.fn f).msixCount = 0 ∧
      (State.reset.fn f).qosClass = 0 ∧ (State.reset.fn f).mayCreate = false

/-- The invariant holds at reset. -/
def Obligations.ResetIsSound : Prop := Sound State.reset

/-- Every step keeps the invariant: the register files keep their sizes, and every addressed RAM stays in canonical form. -/
def Obligations.StepKeepsSound : Prop := ∀ s x : State, Sound s → step s = .next x → Sound x

/-! ### Registers -/

/-- R82 and R79: MBX_DOORBELL posts a command in IDLE, sets overrun in any other state, is ignored with go = 0 and while the
function is not ready; MBX_ACK frees a mailbox in DONE and sets overrun in any other state. No other mailbox changes. -/
def Obligations.MailboxDoorbellAndAcknowledge : Prop :=
  ∀ (s : State) (fn : Nat) (v : BitVec 32) (t : Nat), s.fnExists fn = true → fn < s.mboxes.length →
    ((s.fn fn).ready = true → v.getLsbD 0 = true → (s.mbox fn).st = .idle →
      ∃ x, exec (.mbxDoorbell fn v t) s = .next x ∧ x = { s.at t with mboxes := x.mboxes, arbs := x.arbs } ∧
        x.mbox fn = { s.mbox fn with st := .posted, sequence := (x.mbox fn).sequence, postedAt := (s.at t).now } ∧
        (∀ g, g ≠ fn → x.mbox g = s.mbox g) ∧ (x.arb 0xA0).waiting.any (·.work == .mailbox fn) = true ∧
        ∀ a, a ≠ 0xA0 → x.arb a = s.arb a) ∧
    ((s.fn fn).ready = true → v.getLsbD 0 = true → (s.mbox fn).st ≠ .idle →
      ∃ x, exec (.mbxDoorbell fn v t) s = .next x ∧ x = { s.at t with mboxes := x.mboxes } ∧
        x.mbox fn = { s.mbox fn with overrun := true } ∧ ∀ g, g ≠ fn → x.mbox g = s.mbox g) ∧
    (((s.fn fn).ready = false ∨ v.getLsbD 0 = false) → exec (.mbxDoorbell fn v t) s = .next (s.at t)) ∧
    (v.getLsbD 0 = true → ∃ x, exec (.mbxAck fn v) s = .next x ∧ x = { s with mboxes := x.mboxes } ∧
      (∀ g, g ≠ fn → x.mbox g = s.mbox g) ∧
      x.mbox fn = if (s.mbox fn).st = .done then { s.mbox fn with st := .idle } else { s.mbox fn with overrun := true })

/-- R120 to R123, R141: a valid DBL_SQ_TAIL on an ACTIVE queue becomes its tail, without effect where it repeats it; an index at or
above the entry count is cause 1 and one behind the old tail cause 2. A valid DBL_CQ_HEAD on an ACTIVE or DRAINING queue becomes its
head; any other is cause 3. An error takes the queue to ERROR and sets queue_error; a write that is not 4 bytes wide is ignored. -/
def Obligations.QueueDoorbells : Prop :=
  ∀ (s : State) (fn slot t : Nat) (v : BitVec 32) (u : Queue), fn < s.fns.length →
    s.doorbellQueue fn slot 4 = some u → s.queue? u.num = some u → u.fn = fn →
    (u.st = .active → v.toNat % 65536 < u.sqSize →
      (u.sqTail + u.sqSize - u.sqHead) % u.sqSize ≤ (v.toNat % 65536 + u.sqSize - u.sqHead) % u.sqSize →
      ∃ x d, exec (.dblSqTail fn slot 4 v t) s = .next x ∧ x = { s.at t with queues := x.queues } ∧
        x.queue? u.num = some { u with sqTail := v.toNat % 65536, doorbellAt := d } ∧
        (v.toNat % 65536 = u.sqTail → x.queue? u.num = some u) ∧ ∀ q, q ≠ u.num → x.queue? q = s.queue? q) ∧
    (u.st = .active → u.sqSize ≤ v.toNat % 65536 →
      ∃ x, exec (.dblSqTail fn slot 4 v t) s = .next x ∧ (x.queue? u.num) = some { u with st := .error, errorCause := 1 } ∧
        (x.fn fn).evQueueError = true) ∧
    (u.st = .active → v.toNat % 65536 < u.sqSize →
      (v.toNat % 65536 + u.sqSize - u.sqHead) % u.sqSize < (u.sqTail + u.sqSize - u.sqHead) % u.sqSize →
      ∃ x, exec (.dblSqTail fn slot 4 v t) s = .next x ∧ (x.queue? u.num) = some { u with st := .error, errorCause := 2 } ∧
        (x.fn fn).evQueueError = true) ∧
    (u.st ≠ .error → v.toNat % 65536 < u.cqSize →
      (v.toNat % 65536 + u.cqSize - u.cqHead) % u.cqSize ≤ (u.cqTail + u.cqSize - u.cqHead) % u.cqSize →
      ∃ x, exec (.dblCqHead fn slot 4 v) s = .next x ∧ x = { s with queues := x.queues } ∧
        x.queue? u.num = some { u with cqHead := v.toNat % 65536 } ∧ ∀ q, q ≠ u.num → x.queue? q = s.queue? q) ∧
    (u.st ≠ .error → ¬ (v.toNat % 65536 < u.cqSize ∧
      (v.toNat % 65536 + u.cqSize - u.cqHead) % u.cqSize ≤ (u.cqTail + u.cqSize - u.cqHead) % u.cqSize) →
      ∃ x, exec (.dblCqHead fn slot 4 v) s = .next x ∧ (x.queue? u.num) = some { u with st := .error, errorCause := 3 } ∧
        (x.fn fn).evQueueError = true) ∧
    (∀ w, w ≠ 4 → exec (.dblSqTail fn slot w v t) s = .next (s.at t) ∧ exec (.dblCqHead fn slot w v) s = .next s)

/-- R81: bytes written to the request area read back, every other byte of it reads as before, and the response area takes no write.
R20, R77: writing FN_EVENTS clears the events whose bit is written with 1 and no other. -/
def Obligations.RegisterWrites : Prop :=
  (∀ (s : State) (fn offset width : Nat) (v : BitVec 64), s.fnExists fn = true → fn < s.mboxes.length →
    (s.mbox fn).req.wf = true → (width = 1 ∨ width = 2 ∨ width = 4 ∨ width = 8) → offset % width = 0 →
    0x1100 ≤ offset → offset < 0x1800 →
    ∃ x, exec (.registerWrite fn offset width v) s = .next x ∧ x = { s with mboxes := x.mboxes } ∧
      (∀ g, g ≠ fn → x.mbox g = s.mbox g) ∧ x.mbox fn = { s.mbox fn with req := (x.mbox fn).req } ∧
      memReadAll (x.mbox fn).req (offset - 0x1000) width = toLE width v.toNat ∧
      ∀ a, a < offset - 0x1000 ∨ offset - 0x1000 + width ≤ a → memRead (x.mbox fn).req a = memRead (s.mbox fn).req a) ∧
  (∀ (s : State) (fn offset width : Nat) (v : BitVec 64), 0x1800 ≤ offset → offset < 0x2000 → (width = 4 ∨ width = 8) →
    exec (.registerWrite fn offset width v) s = .next s) ∧
  ∀ (s : State) (fn : Nat) (v : BitVec 64), s.fnExists fn = true → fn < s.fns.length →
    ∃ x, exec (.registerWrite fn 0x0018 4 v) s = .next x ∧ x = { s with fns := x.fns } ∧
      (∀ g, g ≠ fn → x.fn g = s.fn g) ∧
      x.fn fn = { s.fn fn with evMbxDone := (s.fn fn).evMbxDone && !v.getLsbD 0,
                               evQueueError := (s.fn fn).evQueueError && !v.getLsbD 1,
                               evQuota := (s.fn fn).evQuota && !v.getLsbD 2, evPool := (s.fn fn).evPool && !v.getLsbD 3 }

/-- R59, R450, R492, R530: each read-sensitive register gives its count and leaves it cleared; the reads of PWR_GUST_WAITS and
ARB_GRANTS capture the totals that belong to them. -/
def Obligations.ReadSensitiveRegisters : Prop :=
  (∀ (s : State) (c : ArbStat), s.arbSelected = some c →
    ∃ x, exec .arbGrantsRead s = .next x ∧
      x = { s with arbs := x.arbs, arbWaitTotal := BitVec.ofNat 64 c.waitTotal, arbWaitMax := BitVec.ofNat 64 c.waitMax,
                   out := s.out ++ [.readData (BitVec.ofNat 64 c.grants)] } ∧
      (x.arb s.arbSelect.toNat).stats.all (·.requester != c.requester) = true ∧
      ∀ a, a ≠ s.arbSelect.toNat → x.arb a = s.arb a) ∧
  (∀ (s : State) (fn : Nat), s.fnExists fn = true → fn < s.fns.length →
    ∃ x, exec (.intHeldRead fn) s = .next x ∧
      x = { s with fns := x.fns, out := s.out ++ [.readData ((s.fn fn).heldCount.setWidth 64)] } ∧
      x.fn fn = { s.fn fn with heldCount := 0 } ∧ ∀ g, g ≠ fn → x.fn g = s.fn g) ∧
  (∀ s : State, exec .pwrGustWaitsRead s = .next
    { s with out := s.out ++ [.readData (BitVec.ofNat 64 s.pwr.gustWaits)],
             pwr := { s.pwr with gustTotalCap := s.pwr.gustTotal, gustMaxCap := s.pwr.gustMax, gustWaits := 0,
                                 gustTotal := 0, gustMax := 0 } }) ∧
  (∀ s : State, s.portSelect.toNat < s.ports.length →
    ∃ x, exec (.portCounterRead 0x028) s = .next x ∧
      x = { s with ports := x.ports, out := s.out ++ [.readData (s.port s.portSelect.toNat).txBytes] } ∧
      x.port s.portSelect.toNat = { s.port s.portSelect.toNat with txBytes := 0 } ∧
      ∀ p, p ≠ s.portSelect.toNat → x.port p = s.port p)

/-- R453 to R455: clearing a vector's mask, or Function Mask, leaves no message of a vector below the function's masks pending that
an enabled function could send, and sends a mailbox's held message at once; other functions are not touched. Model's choices: log
62. -/
def Obligations.MaskClearing : Prop :=
  (∀ (s : State) (fn vec t : Nat), s.fnExists fn = true → fn < s.fns.length → vec < (s.fn fn).vecs.length →
    ∃ x, exec (.msixVectorUnmask fn vec t) s = .next x ∧ OnlyFnOut (s.at t) x fn ∧
      ((x.fn fn).vecs.getD vec {}).mask = false ∧
      ((s.fn fn).msixEnable = true → (s.fn fn).fnMask = false → ((s.fn fn).vecs.getD vec {}).pending = true →
        ((s.fn fn).vecs.getD vec {}).direct = true →
        ((x.fn fn).vecs.getD vec {}).pending = false ∧
        x.out = s.out ++ [.msix fn vec ((s.fn fn).vecs.getD vec {}).addrLo ((s.fn fn).vecs.getD vec {}).addrHi
          ((s.fn fn).vecs.getD vec {}).data])) ∧
  ∀ (s : State) (fn t : Nat), s.fnExists fn = true → fn < s.fns.length →
    ∃ x, exec (.msixFunctionMaskClear fn t) s = .next x ∧ OnlyFnOut (s.at t) x fn ∧ (x.fn fn).fnMask = false ∧
      ((s.fn fn).msixEnable = true → ∀ v, v < 64 → ((s.fn fn).vecs.getD v {}).mask = false →
        ((x.fn fn).vecs.getD v {}).pending = false)

/-! ### Control commands -/

/-- R83, R93, R96: when the mailbox arbiter is free, the oldest posted mailbox is granted: it is BUSY in its commit step, with
Innkeeper's copy of its request area and of the host input buffer, and the arbiter is locked. At POSTED, MBX_STATUS takes the
doorbell's sequence number (log 111). At a takeover of Innkeeper no mailbox and no tail changes. Model's choices: logs 12, 26, 27
and 111. -/
def Obligations.MailboxGrant : Prop :=
  (∀ (s : State) (m t : Nat) (input : Option Bytes) (q : ArbReq), m < 128 → m < s.mboxes.length →
    (s.arb 0xA0).granted = [] → oldest 0xA0 (s.arb 0xA0).waiting = some q → q.work = .mailbox m →
    s.unserved (memReadAll (s.mbox m).req 0x100 1792) = none →
    ∃ x, exec (.ageArbiterGrant 0xA0 input t) s = .next x ∧ x = { s.at t with mboxes := x.mboxes, arbs := x.arbs } ∧
      x.mbox m = { s.mbox m with st := .busy, committing := true, grantAt := (s.at t).now, input := input,
                                 copy := memReadAll (s.mbox m).req 0x100 1792 } ∧
      (∀ g, g ≠ m → x.mbox g = s.mbox g) ∧ (x.arb 0xA0).locked = true ∧ x.arbHolds 0xA0 (.mailbox m) = true ∧
      ∀ a, a ≠ 0xA0 → x.arb a = s.arb a) ∧
  (∀ (s : State) (fn : Nat) (v : BitVec 32) (t : Nat), s.fnExists fn = true → fn < s.mboxes.length → (s.fn fn).ready = true →
    v.getLsbD 0 = true → (s.mbox fn).st = .idle →
    ∃ x, exec (.mbxDoorbell fn v t) s = .next x ∧ (x.mbox fn).st = .posted ∧ (x.mbox fn).sequence = v.extractLsb' 16 16) ∧
  ∀ (s : State) (t : Nat), ∃ x, exec (.innkeeperTakeover t) s = .next x ∧ x.activePair = 1 - s.activePair ∧
    x = { s.at t with activePair := x.activePair, ao := x.ao, pins := x.pins } ∧ x.ao.nextEntry = s.ao.nextEntry + 1

/-- R91, R97: an issuer that Table: control commands does not list gets ST_DENIED, one whose header is invalid ST_INVALID 0xFFFF,
one with a reserved byte set ST_INVALID with its offset; nothing else changes. Shown for the commands of the PF. -/
def Obligations.ControlCommandChecks : Prop :=
  ∀ (s : State) (r t : Nat) (i : Instr) (op : Nat) (ranges : List (Nat × Nat)),
    (i, op, ranges) ∈ [(Instr.setQuota r t, 6, [(1, 3), (26, 1734)]), (.setFunction r t, 7, [(1, 1), (9, 3), (30, 1730)]),
      (.attachPool r t, 9, [(1, 1), (4, 4), (28, 1732)]), (.detachPool r t, 10, [(5, 1755)]),
      (.writeOptions r t, 13, [(1, 1759)])] →
    r < s.mboxes.length → r ≠ 128 → s.inCommit r op = true →
    (r ≠ 0 → ∃ x, exec i s = .next x ∧ Answered x r stDenied 0 ∧ OnlyAnswered (s.at t) x r) ∧
    (r = 0 → headerGood (s.mbox r).copy = false →
      ∃ x, exec i s = .next x ∧ Answered x r stInvalid 0xFFFF ∧ OnlyAnswered (s.at t) x r) ∧
    (r = 0 → headerGood (s.mbox r).copy = true → ¬ ReservedZero s r ranges →
      ∃ x d, exec i s = .next x ∧ Answered x r stInvalid d ∧ OnlyAnswered (s.at t) x r)

/-- R99, R144, R178, R439: IDENTIFY answers ST_OK with the identity data of its target, and a VF that names another function or a
queue outside its range gets ST_DENIED; nothing but the answer changes. Model's choices: log 13. -/
def Obligations.IdentifyAnswers : Prop :=
  ∀ (s : State) (r t : Nat), Granted s r 1 → ReservedZero s r identifyRanges → r ≠ 128 → (s.mbox r).resp.wf = true →
    (byteAt (s.mbox r).copy 0x20 = 0 → le (s.mbox r).copy 0x24 4 = 0 →
      ∃ x, exec (.identifyNode r t) s = .next x ∧ Answered x r stOk 0 ∧ OnlyAnswered (s.at t) x r ∧
        responseResult x r 128 = s.nodeIdentity) ∧
    (byteAt (s.mbox r).copy 0x20 = 1 → (r = 0 ∨ le (s.mbox r).copy 0x24 4 = r) → le (s.mbox r).copy 0x24 4 < 128 →
      ∃ x, exec (.identifyFunction r t) s = .next x ∧ Answered x r stOk 0 ∧ OnlyAnswered (s.at t) x r ∧
        responseResult x r 128 = s.functionIdentity (le (s.mbox r).copy 0x24 4)) ∧
    (byteAt (s.mbox r).copy 0x20 = 1 → r ≠ 0 → le (s.mbox r).copy 0x24 4 ≠ r →
      ∃ x, exec (.identifyFunction r t) s = .next x ∧ Answered x r stDenied 0 ∧ OnlyAnswered (s.at t) x r) ∧
    (∀ c, byteAt (s.mbox r).copy 0x20 = 2 → s.coll? (le (s.mbox r).copy 0x24 4) = some c →
      s.rights r (le (s.mbox r).copy 0x24 4) ≠ 0 →
      ∃ x, exec (.identifyCollection r t) s = .next x ∧ Answered x r stOk 0 ∧ OnlyAnswered (s.at t) x r ∧
        responseResult x r 128 = s.collIdentity c (if r = 0 then 0x3F else s.rights r (le (s.mbox r).copy 0x24 4))) ∧
    (byteAt (s.mbox r).copy 0x20 = 3 → le (s.mbox r).copy 0x24 4 < 3584 →
      (r = 0 ∨ (s.fn r).queueFirst ≤ le (s.mbox r).copy 0x24 4 ∧
        le (s.mbox r).copy 0x24 4 < (s.fn r).queueFirst + (s.fn r).queueCount) →
      ∃ x, exec (.identifyQueue r t) s = .next x ∧ Answered x r stOk 0 ∧ OnlyAnswered (s.at t) x r ∧
        responseResult x r 56 = s.queueIdentity (le (s.mbox r).copy 0x24 4)) ∧
    (byteAt (s.mbox r).copy 0x20 = 3 → r ≠ 0 → ¬ ((s.fn r).queueFirst ≤ le (s.mbox r).copy 0x24 4 ∧
        le (s.mbox r).copy 0x24 4 < (s.fn r).queueFirst + (s.fn r).queueCount) →
      ∃ x, exec (.identifyQueue r t) s = .next x ∧ Answered x r stDenied 0 ∧ OnlyAnswered (s.at t) x r)

/-- R102, R113, R115, R136, R141: CREATE-QUEUE makes an ACTIVE queue with empty rings and phase 1; DELETE-QUEUE takes an ACTIVE
queue to DRAINING while its mailbox stays BUSY; once every admitted command has completed the queue is ABSENT and the mailbox DONE.
No other queue changes. -/
def Obligations.QueueLifeCycle : Prop :=
  (∀ (s : State) (r t : Nat), Granted s r 2 → ReservedZero s r [(5, 3), (24, 1736)] → r ≠ 128 →
    (s.fn r).queueFirst ≤ le (s.mbox r).copy 0x20 2 →
    le (s.mbox r).copy 0x20 2 < (s.fn r).queueFirst + (s.fn r).queueCount → s.queue? (le (s.mbox r).copy 0x20 2) = none →
    6 ≤ byteAt (s.mbox r).copy 0x22 → byteAt (s.mbox r).copy 0x22 ≤ 16 → 6 ≤ byteAt (s.mbox r).copy 0x23 →
    byteAt (s.mbox r).copy 0x23 ≤ 16 → byteAt (s.mbox r).copy 0x24 < (s.fn r).msixCount →
    le (s.mbox r).copy 0x28 8 % 4096 = 0 → le (s.mbox r).copy 0x30 8 % 4096 = 0 →
    ∃ x u, exec (.createQueue r t) s = .next x ∧ Answered x r stOk 0 ∧ OnlyAnswered { s.at t with queues := x.queues } x r ∧
      x.queue? (le (s.mbox r).copy 0x20 2) = some u ∧ (∀ q, q ≠ le (s.mbox r).copy 0x20 2 → x.queue? q = s.queue? q) ∧
      u.fn = r ∧ u.st = .active ∧ u.sqLog2 = byteAt (s.mbox r).copy 0x22 ∧ u.cqLog2 = byteAt (s.mbox r).copy 0x23 ∧
      u.vector = byteAt (s.mbox r).copy 0x24 ∧ u.sqAddr = le (s.mbox r).copy 0x28 8 ∧
      u.cqAddr = le (s.mbox r).copy 0x30 8 ∧ u.sqHead = 0 ∧ u.sqTail = 0 ∧ u.cqHead = 0 ∧ u.cqTail = 0 ∧ u.phase = true ∧
      u.minor = byteAt (s.mbox r).copy 2) ∧
  (∀ (s : State) (r t : Nat) (u : Queue), Granted s r 3 → ReservedZero s r [(2, 1758)] → r ≠ 128 →
    (s.fn r).queueFirst ≤ le (s.mbox r).copy 0x20 2 →
    le (s.mbox r).copy 0x20 2 < (s.fn r).queueFirst + (s.fn r).queueCount →
    s.queue? (le (s.mbox r).copy 0x20 2) = some u → u.st = .active →
    ∃ x, exec (.deleteQueue r t) s = .next x ∧
      x = { s.at t with queues := x.queues, tails := x.tails, mboxes := x.mboxes, arbs := x.arbs } ∧
      x.queue? (le (s.mbox r).copy 0x20 2) = some { u with st := .draining } ∧
      (∀ q, q ≠ le (s.mbox r).copy 0x20 2 → x.queue? q = s.queue? q) ∧
      x.tails = s.tails ++ [⟨some r, .deleteQueue (le (s.mbox r).copy 0x20 2), (s.at t).now⟩] ∧
      x.mbox r = { s.mbox r with committing := false }) ∧
  ∀ (s : State) (q r t : Nat) (y : Tail) (u : Queue), s.tailOf (.deleteQueue q) = some y →
    y.requester = some r → r < s.mboxes.length → r ≠ 128 → s.queue? q = some u → u.inFlight = 0 →
    ∃ x, exec (.deleteQueueDrainEnd q t) s = .next x ∧ x.queue? q = none ∧ Answered x r stOk 0 ∧
      OnlyAnswered { s.at t with queues := x.queues, tails := x.tails } x r ∧ (∀ p, p ≠ q → x.queue? p = s.queue? p) ∧
      x.tails = s.tails.erase y

/-- R98, R100, R145 to R149, R152, R169, R170, R615: a valid CREATE-COLLECTION's commit records the collection as being created,
with its settings and all rights for its creator, starts the tail and asks the other owners; each owner node with room sets up its
shards at their list target, FORMING with counter 1 (R64); a node with 1,024 collections already fails it; when every owner is done
the collection is active and its identifier and first shard are the result; an unreachable owner makes it ST_RETRY 0 and leaves no
shard of it. An announcement records the collection on the node that hears of it. Model's choices: logs 15 and 86. -/
def Obligations.CollectionCreation : Prop :=
  (∀ (s : State) (r t n d p gb dw : Nat) (data b : Bytes) (owners : List Nat) (i : Nat), Granted s r 4 → ReservedZero s r [(56, 1704)] →
    r ≠ 128 → b = (s.mbox r).copy → (r = 0 ∨ (s.fn r).mayCreate = true) → (s.mbox r).input = some data →
    nameGood (slice b 0x20 32) = true → (s.colls.any fun c => c.spec.name == slice b 0x20 32 && c.st != .dropping) = false →
    d = le b 0x40 2 → 64 ≤ d → d ≤ 4096 → d % 64 = 0 → p = (if le b 0x42 2 = 0 then min 256 d else le b 0x42 2) → 64 ≤ p → p ≤ 512 →
    p % 64 = 0 → p ≤ d → byteAt b 0x44 ≤ 2 → byteAt b 0x45 ≤ 2 → gb = le b 0x46 2 → (gb = 0 ∨ 256 ≤ gb) → byteAt b 0x48 ≤ 1 →
    byteAt b 0x49 ≤ 1 → dw = le b 0x4A 2 → (dw ≤ 2000 ∨ dw = 0xFFFF) → n = le b 0x4C 4 → 1 ≤ n →
    n ≤ (if s.nodeId = 4095 then 4095 else 4096) → 2 * n ≤ le b 16 4 → owners = (List.range n).map (fun k => le data (2 * k) 2) →
    (∀ o ∈ owners, o < 4096) → (∀ o ∈ owners, (le b 0x50 8 + n - 1) / n * (owners.filter (· == o)).length ≤ 2 ^ 35) →
    s.freeRun n = some i → s.commitLimit = false →
    ∃ x c, exec (.createCollection r t) s = .next x ∧ x.colls = s.colls ++ [c] ∧ c.st = .creating ∧ c.rights = [(r, 0x3F)] ∧
      c.spec = { id := s.nodeId * 2 ^ 20 + s.freeSeq, name := slice b 0x20 32, dimensions := d, projection := p, metric := byteAt b 0x44,
                 group := byteAt b 0x45, guestbookEntries := if gb = 0 then 4096 else gb, guestbookFull := byteAt b 0x48,
                 lexical := byteAt b 0x49 == 1, dwellUs := if dw = 0xFFFF then 120 else dw, shards := n,
                 firstShard := s.nodeId * 4096 + i, maxVectors := le b 0x50 8, creatingFunction := r, owners := owners } ∧
      (∀ o ∈ owners, o ≠ s.nodeId → FrameTo x o (.setup c.spec)) ∧
      x.tails = s.tails ++ [⟨some r, .createColl c.spec.id, (s.at t).now⟩] ∧
      (x.mbox r).st = .busy ∧ (x.mbox r).committing = false ∧ x.shards = s.shards ∧ x.lists = s.lists ∧ x.fns = s.fns ∧
      x.queues = s.queues) ∧
  (∀ (s : State) (c : CollSpec) (t n w : Nat), (c.id / 2 ^ 20 ≠ s.nodeId ∨ s.tailRunning (· == .createColl c.id) = true) →
    n = ((List.range c.shards).filter fun i => c.owners.getD i 4096 == s.nodeId && (s.shard? (c.firstShard + i)).isNone).length →
    w = collTarget c / min 1024 (collTarget c) * coarseColumns c.projection → collTarget c ≤ 16777216 →
    s.owned.length + n ≤ 4096 → s.columnsTaken c + n * w ≤ 16384 → s.listsTaken + n * collTarget c ≤ 16777216 →
    (s.collsHere < 1024 →
      ∃ x, exec (.collectionShardSetup c t) s = .next x ∧ (x.coll? c.id).isSome = true ∧ x.lists = s.lists ∧ x.fns = s.fns ∧
        (c.id / 2 ^ 20 = s.nodeId → (s.coll? c.id).isSome = true → ∀ k, x.coll? c.id = some k → s.nodeId ∈ k.setUp) ∧
        (∀ y ∈ s.shards, y ∈ x.shards) ∧
        ∀ i, i < c.shards → c.owners.getD i 4096 = s.nodeId → s.shard? (c.firstShard + i) = none →
          ∃ h, x.shard? (c.firstShard + i) = some h ∧ h.coll = c.id ∧ h.counter = 1 ∧ h.stage = .forming ∧ h.l = collTarget c ∧
            h.l2 = min 1024 h.l ∧ h.l1 = h.l / h.l2 ∧ h.slots = [] ∧ h.waiting = []) ∧
    (1024 ≤ s.collsHere → c.id / 2 ^ 20 = s.nodeId →
      exec (.collectionShardSetup c t) s = .next ((s.at t).modColl c.id fun x => { x with setupFailed := some (stQuota, 1) }))) ∧
  (∀ (s : State) (coll r t : Nat) (peers : List (Nat × SetupReply)) (c : Coll) (y : Tail), s.coll? coll = some c →
    s.tailOf (.createColl coll) = some y → y.requester = some r → r < s.mboxes.length → r ≠ 128 →
    ((s.nodeId ∈ c.spec.owners → s.nodeId ∈ c.setUp) →
      (∀ o ∈ c.spec.owners, o ≠ s.nodeId → (peers.find? (·.1 == o)).map (·.2) = some .allDone) →
      ∃ x, exec (.createCollectionTailEnd coll peers t) s = .next x ∧ Answered x r stOk 0 ∧
        x.coll? coll = some { c with st := .active } ∧ x.tails = s.tails.erase y ∧ x.shards = s.shards ∧
        ((s.mbox r).resp.wf = true → responseResult x r 8 = toLE 4 coll ++ toLE 4 c.spec.firstShard)) ∧
    (∀ o ∈ c.spec.owners, o ≠ s.nodeId → (peers.find? (·.1 == o)).map (·.2) = some .unreachable → c.setupFailed = none →
      (∀ o ∈ c.spec.owners, o ≠ s.nodeId → (peers.find? (·.1 == o)).map (·.2) ≠ some .limits) →
      ∃ x, exec (.createCollectionTailEnd coll peers t) s = .next x ∧ Answered x r stRetry 0 ∧
        x.coll? coll = none ∧ x.shards = s.shards.filter (·.coll != coll))) ∧
  ∀ (s : State) (c : CollSpec), s.coll? c.id = none →
    ∃ x k, exec (.collectionAnnounceReceive (.created c)) s = .next x ∧ x.coll? c.id = some k ∧ k.spec = c ∧
      k.st = .active ∧ k.rights = [] ∧ x = { s with colls := x.colls, tier := x.tier }

/-- R101: DROP-COLLECTION frees the name and takes every right at its commit; once no admitted command of the collection is left,
its shards, lists and models are gone and the mailbox is DONE. A drop whose creation still runs is ST_RETRY 2. -/
def Obligations.CollectionDrop : Prop :=
  (∀ (s : State) (r t id : Nat) (c : Coll), Granted s r 5 → ReservedZero s r [(4, 1756)] → r ≠ 128 → id = le (s.mbox r).copy 0x20 4 →
    s.coll? id = some c → c.st ≠ .dropping → (r = 0 ∨ bit (s.rights r id) 5 = true) →
    (s.tailRunning (· == .createColl id) = false → s.commitLimit = false →
      ∃ x, exec (.dropCollection r t) s = .next x ∧ x.coll? id = some { c with st := .dropping, rights := [] } ∧
        x.tails = s.tails ++ [⟨some r, .dropColl id, (s.at t).now⟩] ∧
        (x.mbox r).st = .busy ∧ ∀ k, k ≠ id → x.coll? k = s.coll? k) ∧
    (s.tailRunning (· == .createColl id) = true →
      ∃ x, exec (.dropCollection r t) s = .next x ∧ Answered x r stRetry 2 ∧ OnlyAnswered (s.at t) x r)) ∧
  ∀ (s : State) (coll r t : Nat) (c : Coll) (y : Tail), s.coll? coll = some c → c.st = .dropping →
    s.collBusy coll = false → s.tailOf (.dropColl coll) = some y → y.requester = some r →
    r < s.mboxes.length → r ≠ 128 →
    ∃ x, exec (.dropCollectionTailEnd coll t) s = .next x ∧ Answered x r stOk 0 ∧ x.coll? coll = none ∧
      x.shards = s.shards.filter (·.coll != coll) ∧ x.models = s.models.filter (·.coll != coll) ∧
      ∀ l ∈ x.lists, ∀ d ∈ s.shards, d.id = l.shard → d.coll ≠ coll

/-- R80, R103, R104, R440 to R442: SET-QUOTA sets six limits and leaves usage; SET-FUNCTION sets the function's range, vectors,
class, rates and right to create; GRANT-RIGHTS replaces the grantee's rights. Each answers ST_OK and changes no other function or
collection. Model's choices: logs 3 and 14. -/
def Obligations.QuotaFunctionAndRights : Prop :=
  (∀ (s : State) (t : Nat), Granted s 0 6 → ReservedZero s 0 [(1, 3), (26, 1734)] → s.fns.length = 128 →
    byteAt (s.mbox 0).copy 0x20 < 128 → s.commitLimit = false →
    ∃ x y, exec (.setQuota 0 t) s = .next x ∧ Answered x 0 stOk 0 ∧
      x = { s.at t with mboxes := x.mboxes, fns := x.fns, arbs := x.arbs, out := x.out, pins := x.pins, tier := x.tier } ∧
      y = { s.fn (byteAt (s.mbox 0).copy 0x20) with
        t0Limit := le (s.mbox 0).copy 0x24 4, t1Limit := le (s.mbox 0).copy 0x28 4,
        t2Limit := le (s.mbox 0).copy 0x2C 4, t3Limit := le (s.mbox 0).copy 0x30 4,
        gbLimit := le (s.mbox 0).copy 0x34 4, seatsLimit := le (s.mbox 0).copy 0x38 2 } ∧
      (byteAt (s.mbox 0).copy 0x20 ≠ 0 → x.fn (byteAt (s.mbox 0).copy 0x20) = y) ∧
      (byteAt (s.mbox 0).copy 0x20 = 0 → ∀ k, (x.fn 0).limit k = y.limit k) ∧
      ∀ g, g ≠ 0 → g ≠ byteAt (s.mbox 0).copy 0x20 → x.fn g = s.fn g) ∧
  (∀ (s : State) (t f : Nat), Granted s 0 7 → ReservedZero s 0 [(1, 1), (9, 3), (30, 1730)] → s.fns.length = 128 →
    byteAt (s.mbox 0).copy 0x20 = f → f < 128 → byteAt (s.mbox 0).copy 0x28 ≤ 1 → byteAt (s.mbox 0).copy 0x27 ≤ 7 →
    le (s.mbox 0).copy 0x22 2 + le (s.mbox 0).copy 0x24 2 ≤ 3584 → le (s.mbox 0).copy 0x22 2 ≤ 3583 →
    (∀ g, g < 128 → g ≠ f → (s.fn g).queueCount = 0 ∨
      (s.fn g).queueFirst + (s.fn g).queueCount ≤ le (s.mbox 0).copy 0x22 2 ∨
      le (s.mbox 0).copy 0x22 2 + le (s.mbox 0).copy 0x24 2 ≤ (s.fn g).queueFirst) →
    byteAt (s.mbox 0).copy 0x26 ≤ 64 →
    ((s.fns.zipIdx.filter (·.2 != f)).foldl (fun n x => n + x.1.msixCount) 0) + byteAt (s.mbox 0).copy 0x26 ≤ 2048 →
    (le (s.mbox 0).copy 0x30 4 = 0 ∨ le (s.mbox 0).copy 0x2C 4 ≠ 0 ∧ le (s.mbox 0).copy 0x2C 4 ≤ le (s.mbox 0).copy 0x30 4) →
    (le (s.mbox 0).copy 0x38 4 = 0 ∨ le (s.mbox 0).copy 0x34 4 ≠ 0 ∧ le (s.mbox 0).copy 0x34 4 ≤ le (s.mbox 0).copy 0x38 4) →
    (∀ u ∈ s.queues, u.fn = f → le (s.mbox 0).copy 0x22 2 ≤ u.num ∧ u.num < le (s.mbox 0).copy 0x22 2 + le (s.mbox 0).copy 0x24 2) →
    ((s.fn f).msixCount ≤ byteAt (s.mbox 0).copy 0x26 ∨ s.vectorsUsed f ≤ byteAt (s.mbox 0).copy 0x26) → s.commitLimit = false →
    ∃ x, exec (.setFunction 0 t) s = .next x ∧ Answered x 0 stOk 0 ∧
      (x.fn f).queueFirst = le (s.mbox 0).copy 0x22 2 ∧ (x.fn f).queueCount = le (s.mbox 0).copy 0x24 2 ∧
      (x.fn f).msixCount = byteAt (s.mbox 0).copy 0x26 ∧ (x.fn f).qosClass = byteAt (s.mbox 0).copy 0x27 ∧
      (x.fn f).mayCreate = (byteAt (s.mbox 0).copy 0x28 == 1) ∧ (x.fn f).commitCmds = le (s.mbox 0).copy 0x2C 4 ∧
      (x.fn f).peakCmds = le (s.mbox 0).copy 0x30 4 ∧ (x.fn f).commitMbps = le (s.mbox 0).copy 0x34 4 ∧
      (x.fn f).peakMbps = le (s.mbox 0).copy 0x38 4 ∧ (x.fn f).irqCeiling = le (s.mbox 0).copy 0x3C 2 ∧
      ∀ g, g ≠ 0 → g ≠ f → x.fn g = s.fn g) ∧
  ∀ (s : State) (r t id : Nat) (c : Coll), Granted s r 8 → ReservedZero s r [(1, 3), (9, 1751)] → r ≠ 128 →
    byteAt (s.mbox r).copy 0x20 < 128 → byteAt (s.mbox r).copy 0x28 < 64 → id = le (s.mbox r).copy 0x24 4 →
    s.coll? id = some c → c.st ≠ .dropping → (r = 0 ∨ bit (s.rights r id) 5 = true) → s.commitLimit = false →
    ∃ x k, exec (.grantRights r t) s = .next x ∧ Answered x r stOk 0 ∧ x.coll? id = some k ∧ k = { c with rights := k.rights } ∧
      (byteAt (s.mbox r).copy 0x20 ≠ 0 → x.rights (byteAt (s.mbox r).copy 0x20) id = byteAt (s.mbox r).copy 0x28) ∧
      ∀ g, g ≠ byteAt (s.mbox r).copy 0x20 → x.rights g id = s.rights g id

/-- R495 to R497: ATTACH-POOL's commit records the pool as ATTACHING under the next identifier and probes it; a probe that succeeds
attaches it, answers with its identifier, logs event 7/1 and sets pool_event in every existing function; one that fails is
ST_POOL_LOST and leaves no pool. DETACH-POOL closes the pool to placements, and once nothing lies in it, it is removed. Model's
choices: logs 15 and 56. -/
def Obligations.PoolAttachAndDetach : Prop :=
  (∀ (s : State) (t bar size : Nat), Granted s 0 9 → ReservedZero s 0 [(1, 1), (4, 4), (28, 1732)] →
    bar = le (s.mbox 0).copy 0x28 8 → size = le (s.mbox 0).copy 0x30 8 → byteAt (s.mbox 0).copy 0x20 ≤ 1 → s.pools.length < 16 →
    (∀ p ∈ s.pools, bar + size ≤ p.bar ∨ p.bar + p.size ≤ bar) → bar % 4096 = 0 → size % 4096 = 0 →
    (if byteAt (s.mbox 0).copy 0x20 = 0 then le (s.mbox 0).copy 0x38 4 * 2 ^ 40 + 4096 ≤ size else le (s.mbox 0).copy 0x38 4 = 0) →
    s.commitLimit = false →
    ∃ x p, exec (.attachPool 0 t) s = .next x ∧ x.pools = s.pools ++ [p] ∧ p.id = s.nextPool ∧ p.kind = byteAt (s.mbox 0).copy 0x20 ∧
      p.st = .attaching ∧ p.routing = le (s.mbox 0).copy 0x22 2 ∧ p.bar = bar ∧ p.size = size ∧
      p.capTib = le (s.mbox 0).copy 0x38 4 ∧ p.used = 0 ∧ x.nextPool = s.nextPool + 1 ∧
      x.tails = s.tails ++ [⟨some 0, .attachPool s.nextPool, (s.at t).now⟩] ∧ x.out = s.out ++ [.poolProbe s.nextPool] ∧
      (x.mbox 0).st = .busy ∧ x.fns = s.fns ∧ x.queues = s.queues ∧ x.colls = s.colls) ∧
  (∀ (s : State) (pool t : Nat) (y : Tail), s.tailOf (.attachPool pool) = some y →
    y.requester = some 0 → 0 < s.mboxes.length →
    (∃ x, exec (.attachPoolTailEnd pool true t) s = .next x ∧ Answered x 0 stOk 0 ∧
      (x.pool? pool).map (·.st) = (s.pool? pool).map (fun _ => .attached) ∧ x.ao.nextEntry = s.ao.nextEntry + 1 ∧
      (∀ f, f < s.fns.length → s.fnExists f = true → (x.fn f).evPool = true) ∧
      ∀ p, p ≠ pool → x.pool? p = s.pool? p) ∧
    ∃ x, exec (.attachPoolTailEnd pool false t) s = .next x ∧ Answered x 0 stPoolLost 0 ∧ x.pool? pool = none ∧
      ∀ p, p ≠ pool → x.pool? p = s.pool? p) ∧
  (∀ (s : State) (t : Nat) (p : Pool), Granted s 0 10 → ReservedZero s 0 [(5, 1755)] →
    s.pool? (le (s.mbox 0).copy 0x20 4) = some p → p.st ≠ .lost →
    (byteAt (s.mbox 0).copy 0x24 = 0 ∧ s.poolRows (le (s.mbox 0).copy 0x20 4) = 0 ∨
      byteAt (s.mbox 0).copy 0x24 = 1 ∧ p.used ≤ s.capacity .t2 - s.tierUsed .t2) →
    s.commitLimit = false →
    ∃ x, exec (.detachPool 0 t) s = .next x ∧
      x.pool? (le (s.mbox 0).copy 0x20 4) = some { p with st := .detaching, returnData := byteAt (s.mbox 0).copy 0x24 == 1 } ∧
      x.tails = s.tails ++ [⟨some 0, .detachPool (le (s.mbox 0).copy 0x20 4), (s.at t).now⟩] ∧ (x.mbox 0).st = .busy ∧
      ∀ q, q ≠ le (s.mbox 0).copy 0x20 4 → x.pool? q = s.pool? q) ∧
  ∀ (s : State) (pool t : Nat) (p : Pool) (y : Tail), s.tailOf (.detachPool pool) = some y →
    y.requester = some 0 → 0 < s.mboxes.length → s.pool? pool = some p → p.st ≠ .lost → s.poolSpills pool = false →
    s.poolRows pool = 0 → s.poolPriors pool = false →
    ∃ x, exec (.detachPoolTailEnd pool t) s = .next x ∧ Answered x 0 stOk 0 ∧ x.pool? pool = none ∧
      x.ao.nextEntry = s.ao.nextEntry + 1 ∧ x.shards = s.shards

/-- R105, R464: GET-CONFIG answers with the values in force; a SET-CONFIG of valid entries sets each parameter named to its last
value and leaves the others; one entry out of range leaves every parameter as it was and names the entry. A move that it names
starts with its cut at the ledger arbiter, and a spare that it names is brought in. Model's choices: logs 16 and 76. -/
def Obligations.ConfigurationParameters : Prop :=
  (∀ (s : State) (r t n : Nat), Granted s r 0x0B → r ≠ 128 → n = byteAt (s.mbox r).copy 0x20 → 1 ≤ n → n ≤ 64 →
    firstReserved (s.mbox r).copy (configRanges n) = none → (∀ e ∈ configEntries (s.mbox r).copy, configListed e.2.1 = true) →
    (s.mbox r).resp.wf = true →
    ∃ x, exec (.getConfig r t) s = .next x ∧ Answered x r stOk 0 ∧ OnlyAnswered (s.at t) x r ∧
      responseResult x r (8 * n) = (configEntries (s.mbox r).copy).flatMap fun e => toLE 4 (s.configValue e.2.1) ++ zeros 4) ∧
  (∀ (s : State) (t n : Nat) (es : List (Nat × Nat × Nat)), Granted s 0 0x0C → n = byteAt (s.mbox 0).copy 0x20 → 1 ≤ n → n ≤ 64 →
    firstReserved (s.mbox 0).copy (configRanges n) = none → es = configEntries (s.mbox 0).copy →
    (∀ e ∈ es, configListed e.2.1 = true ∧ e.2.1 < 0x100 ∧ e.2.1 ≠ 0x67 ∧ e.2.1 ≠ 0x69 ∧ s.configGood none e.2.1 e.2.2 = true) →
    ((∀ e ∈ es, e.2.1 ≠ 0x10 ∧ e.2.1 ≠ 0x11) ∨ s.commitLimit = false) →
    ∃ x, exec (.setConfig 0 t) s = .next x ∧ Answered x 0 stOk 0 ∧ x.shards = s.shards ∧ x.lists = s.lists ∧ x.queues = s.queues ∧
      ∀ k ∈ [0x01, 0x02, 0x03, 0x12, 0x30, 0x40, 0x41, 0x60, 0x61, 0x62, 0x63, 0x64, 0x65, 0x66, 0x6A],
        x.configValue k = (((es.filter (·.2.1 == k)).getLast?).map (·.2.2)).getD (s.configValue k)) ∧
  (∀ (s : State) (t : Nat), Granted s 0 0x0C → byteAt (s.mbox 0).copy 0x20 = 1 →
    firstReserved (s.mbox 0).copy (configRanges 1) = none → le (s.mbox 0).copy 0x28 2 = 0x60 →
    (5 ≤ le (s.mbox 0).copy 0x2C 4 → le (s.mbox 0).copy 0x2C 4 ≤ 40 →
      ∃ x, exec (.setConfig 0 t) s = .next x ∧ Answered x 0 stOk 0 ∧
        OnlyAnswered { s.at t with cfg := { s.cfg with flashPct := le (s.mbox 0).copy 0x2C 4 } } x 0) ∧
    (¬ (5 ≤ le (s.mbox 0).copy 0x2C 4 ∧ le (s.mbox 0).copy 0x2C 4 ≤ 40) →
      ∃ x, exec (.setConfig 0 t) s = .next x ∧ Answered x 0 stInvalid 0x2C ∧ OnlyAnswered (s.at t) x 0)) ∧
  (∀ (s : State) (t n a b to_ shard : Nat) (d : Shard) (pre : List (Nat × Nat × Nat)), Granted s 0 0x0C →
    n = byteAt (s.mbox 0).copy 0x20 → 1 ≤ n → n ≤ 64 → firstReserved (s.mbox 0).copy (configRanges n) = none →
    configEntries (s.mbox 0).copy = pre ++ [(a, 0x68, to_), (b, 0x69, shard)] →
    (∀ e ∈ pre, configListed e.2.1 = true ∧ e.2.1 < 0x100 ∧ e.2.1 ≠ 0x10 ∧ e.2.1 ≠ 0x11 ∧ e.2.1 ≠ 0x67 ∧ e.2.1 ≠ 0x69 ∧
      s.configGood none e.2.1 e.2.2 = true) → to_ ≤ 4095 → to_ ≠ s.nodeId →
    s.shard? shard = some d → d.forwardTo = none → d.move = none →
    (d.waiting = [] →
      ∃ x, exec (.setConfigMoveShard 0 t) s = .next x ∧ Answered x 0 stOk 0 ∧ x.lists = s.lists ∧
        x.shard? shard = some { d with move := some ⟨to_, d.counter, 1⟩, readers := d.readers ++ [(.move, d.counter)] } ∧
        ∀ i, i ≠ shard → x.shard? i = s.shard? i) ∧
    (d.waiting ≠ [] → (∀ z ∈ d.waiting, z.2 ≠ .pass .move) →
      ∃ x, exec (.setConfigMoveShard 0 t) s = .next x ∧ Answered x 0 stOk 0 ∧ x.lists = s.lists ∧
        x.shard? shard = some { d with move := some ⟨to_, 0, 0⟩, waiting := d.waiting ++ [((s.at t).now, .pass .move)] })) ∧
  ∀ (s : State) (t n a v : Nat) (e : Element) (pre : List (Nat × Nat × Nat)), Granted s 0 0x0C → n = byteAt (s.mbox 0).copy 0x20 →
    1 ≤ n → n ≤ 64 → firstReserved (s.mbox 0).copy (configRanges n) = none → configEntries (s.mbox 0).copy = pre ++ [(a, 0x67, v)] →
    (∀ e ∈ pre, configListed e.2.1 = true ∧ e.2.1 < 0x100 ∧ e.2.1 ≠ 0x67 ∧ e.2.1 ≠ 0x69 ∧ s.configGood none e.2.1 e.2.2 = true) →
    elementOf v = some e → e ∈ s.spares.failed → s.spareLeft e = true → s.commitLimit = false →
    ∃ x, exec (.setConfigBringIn 0 t) s = .next x ∧ Answered x 0 stOk 0 ∧ e ∉ x.spares.failed ∧ x.shards = s.shards

/-- R106, R107, R522: WRITE-OPTIONS and FW-UPDATE start a tail while the mailbox stays BUSY, are ST_RETRY 1 in Doldrums, and take
effect at the tail's end: the one copy named, or the inactive slot's new state. A stage at offset 0 makes the slot hold just the
bytes staged; a verification that fails leaves it staging with 0xFFFD; status answers the slot's state. Model's choices: log 17. -/
def Obligations.OptionsAndFirmware : Prop :=
  (∀ (s : State) (t : Nat) (data : Bytes), Granted s 0 0x0D → ReservedZero s 0 [(1, 1759)] →
    byteAt (s.mbox 0).copy 0x20 ≤ 1 → (s.mbox 0).input = some data → 512 ≤ le (s.mbox 0).copy 16 4 →
    (s.pwr.doldrums = true →
      ∃ x, exec (.writeOptions 0 t) s = .next x ∧ Answered x 0 stRetry 1 ∧ OnlyAnswered (s.at t) x 0) ∧
    (s.pwr.doldrums = false → (∀ y ∈ s.tails, ∀ c b, y.kind ≠ .writeOptions c b) →
      ∃ x, exec (.writeOptions 0 t) s = .next x ∧
        x = { s.at t with tails := s.tails ++ [⟨some 0, .writeOptions (byteAt (s.mbox 0).copy 0x20 == 1) (slice data 0 512),
                            (s.at t).now⟩], mboxes := x.mboxes, arbs := x.arbs } ∧
        x.mbox 0 = { s.mbox 0 with committing := false })) ∧
  (∀ (s : State) (t : Nat) (b : Bool) (block : Bytes) (y : Tail) (pre post : List Tail), s.pwr.doldrums = false → 0 < s.mboxes.length →
    s.tails = pre ++ y :: post → (∀ z ∈ pre, ∀ c w, z.kind ≠ .writeOptions c w) → y.kind = .writeOptions b block →
    y.requester = some 0 →
    ∃ x, exec (.writeOptionsTailEnd t) s = .next x ∧ Answered x 0 stOk 0 ∧ x.tails = pre ++ post ∧
      x.ao.optB = (if b then block else s.ao.optB) ∧ x.ao.optA = (if b then s.ao.optA else block) ∧ x.ao.opt = s.ao.opt) ∧
  (∀ (s : State) (t n off : Nat) (data : Bytes), Granted s 0 0x0E → ReservedZero s 0 [(1, 3), (8, 1752)] →
    s.pwr.doldrums = false → s.tailRunning TailKind.firmware = false →
    (byteAt (s.mbox 0).copy 0x20 = 0 → le (s.mbox 0).copy 16 4 = n → 0 < n → n % 4096 = 0 → n ≤ 2 ^ 20 →
      le (s.mbox 0).copy 0x24 4 = off → off % 4096 = 0 → off + n ≤ 30 * 2 ^ 20 → (s.mbox 0).input = some data →
      ∃ x, exec (.fwUpdateStage 0 t) s = .next x ∧
        x.tails = s.tails ++ [⟨some 0, .fwStage off (slice data 0 n), (s.at t).now⟩] ∧ (x.mbox 0).st = .busy ∧
        x.ao.slotA = s.ao.slotA ∧ x.ao.slotBImg = s.ao.slotBImg) ∧
    (byteAt (s.mbox 0).copy 0x20 = 1 → s.ao.inactive.st = 1 →
      ∃ x, exec (.fwUpdateVerify 0 t) s = .next x ∧ x.tails = s.tails ++ [⟨some 0, .fwVerify, (s.at t).now⟩] ∧
        (x.mbox 0).st = .busy) ∧
    (byteAt (s.mbox 0).copy 0x20 = 2 → s.ao.inactive.st = 2 →
      ∃ x, exec (.fwUpdateActivate 0 t) s = .next x ∧ x.tails = s.tails ++ [⟨some 0, .fwActivate, (s.at t).now⟩] ∧
        (x.mbox 0).st = .busy) ∧
    (byteAt (s.mbox 0).copy 0x20 = 3 → (s.mbox 0).resp.wf = true →
      ∃ x, exec (.fwUpdateStatus 0 t) s = .next x ∧ Answered x 0 stOk 0 ∧ OnlyAnswered (s.at t) x 0 ∧
        responseResult x 0 1 = toLE 1 s.ao.inactive.st)) ∧
  ∀ (s : State) (t : Nat) (y : Tail) (pre post : List Tail), s.pwr.doldrums = false → 0 < s.mboxes.length →
    s.tails = pre ++ y :: post → (∀ z ∈ pre, z.kind.firmware = false) → y.requester = some 0 →
    (∀ off data, y.kind = .fwStage off data →
      ∃ x, exec (.fwUpdateTailEnd t) s = .next x ∧ Answered x 0 stOk 0 ∧
        x.ao.inactive = ⟨1, stageBytes (if off = 0 then [] else s.ao.inactive.image) off data⟩ ∧ x.tails = pre ++ post ∧
        x.ao.activeB = s.ao.activeB) ∧
    (y.kind = .fwVerify → (s.at t).ao.verifies s.ao.inactive = true →
      ∃ x, exec (.fwUpdateTailEnd t) s = .next x ∧ Answered x 0 stOk 0 ∧ x.ao.inactive = ⟨2, s.ao.inactive.image⟩) ∧
    (y.kind = .fwVerify → (s.at t).ao.verifies s.ao.inactive = false →
      ∃ x, exec (.fwUpdateTailEnd t) s = .next x ∧ Answered x 0 stInvalid 0xFFFD ∧ x.ao.inactive = s.ao.inactive) ∧
    (y.kind = .fwActivate → s.ao.stage ≠ .recovery →
      ∃ x, exec (.fwUpdateTailEnd t) s = .next x ∧ Answered x 0 stOk 0 ∧ x.ao.inactive = ⟨3, s.ao.inactive.image⟩ ∧
        x.tails = pre ++ post)

/-- R88, R94, R554, R555, R558, R579 to R582, R588: ATTEST and GET-LOG start a tail whose end writes their bytes to the host buffer
and answers ST_OK with no other effect, but that GET-LOG up to the newest entry releases ALERT_N; a buffer that is too small is
0xFFFE. A telemetry snapshot is written at its commit. TELEMETRY attaches a ring for 1 MiB of T1, a pass fills it and TELEMETRY
detaches it. Model's choices: logs 10, 19 and 85. -/
def Obligations.ReportsLogAndTelemetry : Prop :=
  (∀ (s : State) (r t : Nat) (i : Instr) (w : Nat), (i, w) ∈ [(Instr.attestReport r true t, 0), (.attestCertificates r true t, 1)] →
    Granted s r 0x0F → ReservedZero s r [(33, 1727)] → r ≠ 128 → byteAt (s.mbox r).copy 0x40 = w → s.ownTail r (.attest w) = none →
    ∃ x, exec i s = .next x ∧ x.tails = s.tails ++ [⟨some r, .attest w, (s.at t).now⟩] ∧
      x = { s.at t with tails := x.tails, mboxes := x.mboxes, arbs := x.arbs } ∧ x.mbox r = { s.mbox r with committing := false }) ∧
  (∀ (s : State) (r t w : Nat) (i : Instr) (y : Tail) (out : Bytes), r < s.mboxes.length → r ≠ 128 → s.ownTail r (.attest w) = some y →
    (i = .attestReport r true t ∧ w = 0 ∧ (∃ body, body = (s.at t).reportBody (slice (s.mbox r).copy 0x20 32) ∧
      out = body ++ slice (Config.mldsaSign body) 0 3309) ∨
     i = .attestCertificates r true t ∧ w = 1 ∧ out = [Config.attestCertificate (s.ao.header ++ s.ao.measured.flatMap id), s.ao.certs.1,
      s.ao.certs.2].flatMap fun c => toLE 4 c.length ++ c) →
    (out.length ≤ le (s.mbox r).copy 16 4 →
      ∃ x, exec i s = .next x ∧ Answered x r stOk 0 ∧ OnlyAnswered { s.at t with tails := s.tails.erase y } x r ∧
        .hostWrite r (le (s.mbox r).copy 8 8) out ∈ x.out) ∧
    (le (s.mbox r).copy 16 4 < out.length →
      ∃ x, exec i s = .next x ∧ Answered x r stInvalid 0xFFFE ∧ OnlyAnswered { s.at t with tails := s.tails.erase y } x r)) ∧
  (∀ (s : State) (t : Nat), Granted s 0 0x11 → ReservedZero s 0 [(4, 1756)] → s.ownTail 0 .getLog = none →
    ∃ x, exec (.getLog 0 true t) s = .next x ∧ x.tails = s.tails ++ [⟨some 0, .getLog, (s.at t).now⟩] ∧
      x = { s.at t with tails := x.tails, mboxes := x.mboxes, arbs := x.arbs } ∧ x.mbox 0 = { s.mbox 0 with committing := false }) ∧
  (∀ (s : State) (t : Nat) (y : Tail) (out : Bytes), 0 < s.mboxes.length → s.ownTail 0 .getLog = some y →
    out = (s.logFrom (le (s.mbox 0).copy 0x20 4)).flatMap LogEntry.bytes → out ≠ [] → out.length ≤ le (s.mbox 0).copy 16 4 →
    ∃ x, exec (.getLog 0 true t) s = .next x ∧ Answered x 0 stOk 0 ∧ x.pins.alertN = true ∧
      x.ao = { (s.at t).ao with ackedTo := s.ao.nextEntry } ∧ x.tails = s.tails.erase y ∧
      .hostWrite 0 (le (s.mbox 0).copy 8 8) out ∈ x.out) ∧
  (∀ (s : State) (r t i : Nat), Granted s r 0x10 → ReservedZero s r [(1, 3), (12, 1748)] → r ≠ 128 → r < s.fns.length →
    byteAt (s.mbox r).copy 0x20 = 0 → le (s.mbox r).copy 8 8 % 4096 = 0 → i < 10 → le (s.mbox r).copy 16 4 = 2 ^ (16 + i) →
    (s.fn r).rings.length < 4 → maskGood r (le (s.mbox r).copy 0x24 4) = true → 25000 ≤ le (s.mbox r).copy 0x28 4 →
    le (s.mbox r).copy 0x28 4 ≤ 250000000 → (s.at t).maxPass r (r == 0) (le (s.mbox r).copy 0x24 4) ≤ 2 ^ (16 + i) - 64 →
    s.fits r .t1 (2 ^ 20) = true →
    ∃ x y, exec (.telemetryAttach r t) s = .next x ∧ Answered x r stOk 0 ∧ (x.fn r).rings = (s.fn r).rings ++ [y] ∧ y.ring < 4 ∧
      (∀ z ∈ (s.fn r).rings, z.ring ≠ y.ring) ∧ y.addr = le (s.mbox r).copy 8 8 ∧ y.len = 2 ^ (16 + i) ∧
      y.mask = le (s.mbox r).copy 0x24 4 ∧ y.interval = le (s.mbox r).copy 0x28 4 ∧ y.writeOffset = 64 ∧ y.passes = 0 ∧
      (x.fn r).t1Used = (s.fn r).t1Used + 2 ^ 20) ∧
  (∀ (s : State) (r t : Nat) (y : TelRing), Granted s r 0x10 → ReservedZero s r [(1, 3), (12, 1748)] → r ≠ 128 →
    r < s.fns.length → byteAt (s.mbox r).copy 0x20 = 1 → (s.fn r).rings.find? (·.addr == le (s.mbox r).copy 8 8) = some y →
    ∃ x, exec (.telemetryDetach r t) s = .next x ∧ Answered x r stOk 0 ∧
      (x.fn r).rings = (s.fn r).rings.filter (·.ring != y.ring) ∧ (x.fn r).t1Used = (s.fn r).t1Used - 2 ^ 20) ∧
  (∀ (s : State) (r t : Nat), Granted s r 0x10 → ReservedZero s r [(1, 3), (12, 1748)] → r ≠ 128 →
    byteAt (s.mbox r).copy 0x20 = 2 → maskGood r (le (s.mbox r).copy 0x24 4) = true →
    ((s.at t).passBytes r (r == 0) (le (s.mbox r).copy 0x24 4) 0 []).1.length ≤ le (s.mbox r).copy 16 4 →
    ∃ x, exec (.telemetrySnapshot r true t) s = .next x ∧ Answered x r stOk 0 ∧ OnlyAnswered (s.at t) x r ∧
      .hostWrite r (le (s.mbox r).copy 8 8) ((s.at t).passBytes r (r == 0) (le (s.mbox r).copy 0x24 4) 0 []).1 ∈ x.out) ∧
  ∀ (s : State) (fn ring t : Nat) (io : HostIO) (y : TelRing) (b : Bytes), fn < s.fns.length →
    (s.fn fn).rings.find? (·.ring == ring) = some y → b = ((s.at t).passBytes fn (fn == 0) y.mask y.passes y.prev).1 →
    (y.last + y.interval ≤ (s.at t).now → io.outOk = true →
      ∃ x z, exec (.telemetryPass fn ring io t) s = .next x ∧ (x.fn fn).rings.find? (·.ring == ring) = some z ∧
        z.passes = y.passes + 1 ∧ z.last = (s.at t).now ∧ z.addr = y.addr ∧ OnlyFnOut (s.at t) x fn ∧
        (y.writeOffset + b.length ≤ y.len → z.writeOffset = y.writeOffset + b.length ∧
          x.out = s.out ++ [.hostWrite fn (y.addr + y.writeOffset) b, .hostWrite fn y.addr (ringHeader z)]) ∧
        (y.len < y.writeOffset + b.length → z.writeOffset = 64 + b.length ∧
          x.out = s.out ++ [.hostWrite fn (y.addr + y.writeOffset) (zeros (y.len - y.writeOffset)), .hostWrite fn (y.addr + 64) b,
            .hostWrite fn y.addr (ringHeader z)])) ∧
    ((s.at t).now < y.last + y.interval → exec (.telemetryPass fn ring io t) s = .next (s.at t))

/-! ### Admission, interrupts by time and egress -/

/-- R126 to R129, R47, R74, R114, R445: the entry of the queue whose turn it is is admitted: the head moves past it, the outstanding
count rises by one, a request with a free number holds a copy of the entry, and both buckets lose a token where their rate is not 0;
a BARRIER holds its queue. An unknown opcode completes at once with ST_UNSUPPORTED 1. An entry that cannot be read is cause 4; one
that a shard-mode BARRIER holds stays. On a reserved queue the oldest forwarded command is admitted. Model's choices: logs 25, 26,
38 and 79. -/
def Obligations.AdmissionOfOneEntry : Prop :=
  ∀ (s y : State) (input : Option Bytes) (cqOk : Bool) (t i q : Nat), y = (s.at t).peakEvents.admRefresh → s.pwr.st ≠ .lull →
    s.pwr.st ≠ .calm → s.lullReady = true → y.admServe = some i → (y.sched.admLists.getD i []).head? = some q →
    (∀ (u : Queue) (e : Bytes) (num : Nat) (b : Fn), q < 3584 → s.queue? q = some u → u.fn < s.fns.length → s.freeNum = some num →
      (∀ z ∈ u.shardBarriers, s.targets e (input.getD []) z.2 = false) → b = (s.fn u.fn).fill (s.at t).now →
      (dataOpcode (le e 0 2) = true →
        ∃ x v r, exec (.admission (some e) input cqOk t) s = .next x ∧ x.queue? q = some v ∧ x.reqs = s.reqs ++ [r] ∧
          v.sqHead = (u.sqHead + 1) % u.sqSize ∧ v.inFlight = u.inFlight + 1 ∧ v.admitted = u.admitted + 1 ∧ v.st = u.st ∧
          v.cqTail = u.cqTail ∧ v.barrier = (if le e 0 2 = 11 ∧ byteAt e 48 ≠ 1 then some num else u.barrier) ∧
          v.shardBarriers = u.shardBarriers ++ (if le e 0 2 = 11 ∧ byteAt e 48 = 1 then [(num, barrierTarget e)] else []) ∧
          r.num = num ∧ r.fn = u.fn ∧ r.queue = q ∧ r.opcode = le e 0 2 ∧ r.cmdId = le e 2 2 ∧ r.collection = le e 4 4 ∧
          r.entry = slice e 0 128 ∧ r.admittedAt = (s.at t).now ∧ x.nextNum = (num + 1) % 2 ^ 24 ∧
          (x.fn u.fn).admPeak = (if b.peakCmds = 0 then b.admPeak else b.admPeak - 25000000) ∧
          (x.fn u.fn).admCommit = (if 25000000 ≤ b.admCommit ∧ b.commitCmds ≠ 0 then b.admCommit - 25000000 else b.admCommit) ∧
          x.shards = s.shards ∧ x.out = s.out) ∧
      (dataOpcode (le e 0 2) = false →
        ∃ x, exec (.admission (some e) input cqOk t) s = .next x ∧ x.reqs = s.reqs ∧ x.shards = s.shards ∧
          (u.stopped = false → cqOk = true →
            .completion u.fn q (u.cqAddr + 32 * u.cqTail) (completionEntry { u with sqHead := (u.sqHead + 1) % u.sqSize } (le e 2 2)
              (.bare stUnsupported 1) 1 0) ∈ x.out))) ∧
    (∀ (u : Queue) (e : Bytes), q < 3584 → s.queue? q = some u → s.freeNum ≠ none →
      (∃ z ∈ u.shardBarriers, s.targets e (input.getD []) z.2 = true) →
      ∃ x, exec (.admission (some e) input cqOk t) s = .next x ∧ (x.queue? q).map (·.sqHead) = some u.sqHead ∧ x.reqs = s.reqs ∧
        x.out = s.out) ∧
    (∀ u : Queue, q < 3584 → s.queue? q = some u → u.fn < s.fns.length → s.freeNum ≠ none →
      ∃ x, exec (.admission none input cqOk t) s = .next x ∧ x.reqs = s.reqs ∧ (x.fn u.fn).evQueueError = true ∧
        (x.queue? q).map (fun v => (v.st, v.errorCause)) = some (.error, 4)) ∧
    ∀ (z : Reserved) (e : Option Bytes), 3584 ≤ q → s.sched.reserved.find? (·.queue == q) = some z →
      ∃ x, exec (.admission e input cqOk t) s = .next x ∧ x.sched.reserved = s.sched.reserved.erase z ∧ x.reqs = s.reqs ∧
        (1 ≤ z.tag.kind → z.tag.kind ≤ 8 → x.sched.taken = s.sched.taken ++ [z.tag])

/-- R452, R455: when a ring's coalescing delay has passed its message is requested and its count starts again; over peak, the
ceiling bucket fills by the time passed and held messages leave in order while it has whole tokens, one whose mask is set being held
by it instead; when over-peak ends every held message leaves. Model's choices: logs 25 and 62. -/
def Obligations.InterruptsByTime : Prop :=
  (∀ (s : State) (q t : Nat) (u : Queue), s.queue? q = some u → 0 < u.pendingMsgs → u.coalDelay ≠ 0 →
    25 * u.coalDelay.toNat ≤ (s.at t).now - u.firstAt →
    ∃ x, exec (.coalesceDelayExpiry q t) s = .next x ∧ x.queue? q = some { u with pendingMsgs := 0 } ∧
      (∀ p, p ≠ q → x.queue? p = s.queue? p) ∧ OnlyFnOut { s.at t with queues := x.queues } x u.fn ∧
      (u.irqEnable = true → u.vector < (s.fn u.fn).msixCount → (s.fn u.fn).msixEnable = true → (s.fn u.fn).fnMask = false →
        ((s.fn u.fn).vecs.getD u.vector {}).mask = false → (s.fn u.fn).overPeak = false → u.fn < s.fns.length →
        ∃ a b d, x.out = s.out ++ [.msix u.fn u.vector a b d])) ∧
  (∀ (s : State) (fn t b : Nat) (held : List Nat), fn < s.fns.length → (s.fn fn).overPeak = true → held = (s.fn fn).heldVecs →
    b = min ((s.fn fn).irqCeiling * 25000) ((s.fn fn).ceiling + (s.fn fn).irqCeiling * ((s.at t).now - (s.fn fn).ceilingTo)) →
    ∃ x, exec (.interruptCeilingRefill fn t) s = .next x ∧ OnlyFnOut (s.at t) x fn ∧ (x.fn fn).heldVecs <:+ held ∧
      ((x.fn fn).heldVecs = [] ∨ (x.fn fn).ceiling < 25000) ∧
      ((s.fn fn).fnMask = false → (∀ v ∈ held, ((s.fn fn).vecs.getD v {}).mask = false) →
        (x.fn fn).heldVecs = held.drop (b / 25000) ∧ (x.fn fn).ceiling + 25000 * min held.length (b / 25000) = b ∧
        x.out = s.out ++ (held.take (b / 25000)).map fun v => .msix fn v ((s.fn fn).vecs.getD v {}).addrLo
          ((s.fn fn).vecs.getD v {}).addrHi ((s.fn fn).vecs.getD v {}).data) ∧
      ((s.fn fn).fnMask = true → (x.fn fn).heldVecs = [] ∧ x.out = s.out ∧
        ∀ v ∈ held, v < (s.fn fn).vecs.length → ((x.fn fn).vecs.getD v {}).pending = true)) ∧
  ∀ (s : State) (fn t : Nat), fn < s.fns.length → (s.fn fn).overPeak = true → (s.fn fn).overPeakAt + 25000 ≤ (s.at t).now →
    ∃ x, exec (.overPeakEnd fn t) s = .next x ∧ OnlyFnOut (s.at t) x fn ∧ (x.fn fn).overPeak = false ∧ (x.fn fn).heldVecs = []

/-- R475 to R477, R486 to R490: on a port that is up with room in its retry buffer, the first waiting control frame that has its
credits leaves; else one of the frames that are ready, the committed round before the excess round and the highest class first. A
frame that leaves has its channel's next sequence number, takes credits for its units of 64 bytes and stays in the retry buffer;
with no credits no frame leaves, and none on a port that is down. A timing-wheel entry whose slot has come is taken off the wheel,
and others stay. Model's choices: logs 22, 23, 38 and 50. -/
def Obligations.EgressOfFrames : Prop :=
  (∀ (s y : State) (port t : Nat) (ready : List Frame) (left : Frame → State → Prop), port < s.ports.length →
    (s.port port).st = .up ∨ (s.port port).st = .narrow →
    (s.port port).retry.foldl (fun n f => n + 64 + f.payload) 0 + 4160 ≤ 1048576 →
    left = (fun f x => exec (.egressSend port t) s = .next x ∧ x.sched.egress = s.sched.egress.erase (port, f) ∧
      x.out = s.out ++ [.frame port { f with seq := (s.port port).txSeq.getD f.channel 0 }] ∧
      (x.port port).retry = (s.port port).retry ++ [{ f with seq := (s.port port).txSeq.getD f.channel 0 }] ∧
      (f.channel < (s.port port).credits.length →
        (x.port port).credits.getD f.channel 0 + f.units = (s.port port).credits.getD f.channel 0) ∧
      (f.channel < (s.port port).txSeq.length →
        (x.port port).txSeq.getD f.channel 0 = ((s.port port).txSeq.getD f.channel 0 + 1) % 2 ^ 32) ∧
      (x.port port).txBytes = (s.port port).txBytes + BitVec.ofNat 64 (64 + f.payload) ∧ x.queues = s.queues ∧ x.reqs = s.reqs ∧
      ∀ p, p ≠ port → x.port p = (s.at t).port p) →
    (∀ f, s.sched.egress.find? (fun e => e.1 == port && e.2.channel == 3 && (s.port port).hasCredits e.2) = some (port, f) →
      ∃ x, left f x ∧ (3584 ≤ f.queue → x.fns = s.fns)) ∧
    (s.sched.egress.find? (fun e => e.1 == port && e.2.channel == 3 && (s.port port).hasCredits e.2) = none →
      y = (s.at t).toWheel port (s.headFrames port) →
      ready = (s.headFrames port).filter (fun f => (s.port port).hasCredits f && s.fabricCeiling port (s.headFrames port) f &&
        !y.sched.wheel.any fun w => w.1 == port && w.2.1 == f.queue) →
      (∀ f ∈ ready, s.egClass f ≤ 7 ∧ s.frameCost f ≤ s.cfg.egQuantum.getD (s.egClass f) 9216) →
      (ready ≠ [] → ∃ f x, f ∈ ready ∧ left f x ∧ ∀ g ∈ ready, ((s.at t).frameCommitted g = true → (s.at t).frameCommitted f = true) ∧
        ((s.at t).frameCommitted g = (s.at t).frameCommitted f → s.egClass g ≤ s.egClass f)) ∧
      (ready = [] → ∃ x, exec (.egressSend port t) s = .next x ∧ x.out = s.out ∧ x.sched.egress = s.sched.egress)) ∧
    ((∀ e ∈ s.sched.egress, e.1 = port → (s.port port).hasCredits e.2 = false) →
      ∃ x, exec (.egressSend port t) s = .next x ∧ x.out = s.out ∧ x.sched.egress = s.sched.egress)) ∧
  (∀ (s : State) (port t : Nat), (s.port port).st ≠ .up → (s.port port).st ≠ .narrow →
    exec (.egressSend port t) s = .next (s.at t)) ∧
  ∀ (s : State) (q port t : Nat), ∃ x, exec (.timingWheelSlot q port t) s = .next x ∧ x = { s.at t with sched := x.sched } ∧
    x.sched = { s.sched with wheel := x.sched.wheel } ∧
    ∀ w, w ∈ x.sched.wheel ↔ w ∈ s.sched.wheel ∧ ¬ (w.1 = port ∧ w.2.1 = q ∧ w.2.2 ≤ (s.at t).now)

/-! ### Searches -/

/-- R29, R132, R221, R224: an accepted SEARCH becomes an outstanding search with its fields, due timeout_ms after admission, and
each owner node gets the share of its shards; with encoder input the tensor clusters of its home tile here are asked first, and the
query is the encoder's output. Nothing is answered yet. A SEARCH with a reserved byte set, one without right 0 and one whose
collection is still being created complete at once. Model's choices: logs 22, 23, 28, 90, 92 and 118. -/
def Obligations.SearchIsSentToOwners : Prop :=
  (∀ (s : State) (num : Nat) (io : HostIO) (t : Nat) (r : Req) (c : Coll) (e inp : Bytes) (q : List Int) (tile : Nat),
    Accepted s num 1 io [(50, 2), (73, 1), (88, 40)] .named (some 0)
      (roundUp (64 + 12 * le r.entry 52 4) 16 + (if bit (byteAt r.entry 49) 0 then 16 * c.spec.shards else 0)) r →
    e = r.entry → inp = slice (io.input.getD []) 0 (le e 24 4) → s.coll? (le e 4 4) = some c → r.collection = le e 4 4 →
    c.spec.id = le e 4 4 → byteAt e 48 < 4 → byteAt e 49 < 8 → byteAt e 72 < 3 → (searchParts e).2.2 ≤ le e 24 4 →
    (bit (byteAt e 49) 1 = true → c.spec.lexical = true) → 1 ≤ le e 52 4 → le e 52 4 ≤ 16777216 → 1 ≤ le e 56 2 →
    le e 56 2 ≤ 4096 → le e 58 2 ≤ 256 → (le e 60 4 = 0 ∨ le e 52 4 ≤ le e 60 4 ∧ le e 60 4 ≤ 65536) →
    (le e 64 2 ≤ 2000 ∨ le e 64 2 = 0xFFFF) → le e 66 2 ≤ 60000 →
    (if byteAt e 72 = 0 then le e 74 2 = 0 else 1 ≤ le e 74 2 ∧ le e 74 2 ≤ 256) → le e 76 4 ≤ 256 →
    (le e 76 4 ≠ 0 → bit (byteAt e 49) 1 = true) →
    (byteAt e 48 = 3 → (s.coll? (le e 80 4)).isSome = true ∧ s.encoderGood (le e 80 4) (le e 84 4) c.spec.dimensions = true ∧
      (r.fn = 0 ∨ bit (s.rights r.fn (le e 80 4)) 4 = true)) →
    (byteAt e 48 ≠ 3 → le e 80 4 = 0 ∧ le e 84 4 = 0 ∧ le e 68 4 = vectorBytes (byteAt e 48) c.spec.dimensions) →
    (byteAt e 48 = 2 → firstReserved inp (sq8Reserved 0 c.spec.dimensions) = none) → q = (if byteAt e 48 = 3 then encoded s.free (le e 80 4) (le e 84 4) (slice inp 0 (le e 68 4)) c.spec.dimensions
      else (readVector (byteAt e 48) c.spec.dimensions inp 0).getD (freeElements s.free c.spec.dimensions)) →
    (c.spec.metric = 1 → sqNorm q ≠ 0) → tile = s.homeTile num →
    badTerm inp (searchParts e).1 0 (le e 76 4) = none →
    (∀ x ∈ readRanges inp (searchParts e).2.1 (le e 74 2), x.1 ≤ x.2) →
    (((byteAt e 48 = 3 → s.arbHolds (tensorArb tile) (.encode ⟨s.nodeId, num⟩) = true ∧ s.tileReady tile = true) →
    ∃ x p, exec (.search num io t) s = .next x ∧ x.out = s.out ∧ x.shards = s.shards ∧ x.lists = s.lists ∧ x.fns = s.fns ∧
      x.req? num = some { r with body := .search p [] [] (r.admittedAt + p.timeoutMs * Config.ticksPerMs) } ∧
      p.k = le e 52 4 ∧ p.probes = le e 56 2 ∧ p.rerankDepth = le e 60 4 ∧ p.dwellLimit = le e 64 2 ∧
      p.timeoutMs = (if le e 66 2 = 0 then 1000 else le e 66 2) ∧ p.readStamps = bit (byteAt e 49) 0 ∧
      p.lexical = bit (byteAt e 49) 1 ∧ p.noExpand = bit (byteAt e 49) 2 ∧ p.filterKind = byteAt e 72 ∧
      p.query = q ∧
      ∀ o ∈ c.ownerNodes, ∃ m : ShareMsg, m.key = ⟨s.nodeId, num⟩ ∧ m.function = r.fn ∧ m.shards = c.shardsAt o ∧ m.params = p ∧
        m.hop = 0 ∧ (o = s.nodeId → m ∈ x.eng.inShares) ∧ (o ≠ s.nodeId → FrameTo x o (.share m)))) ∧
    (byteAt e 48 = 3 → ¬ (s.arbHolds (tensorArb tile) (.encode ⟨s.nodeId, num⟩) = true ∧ s.tileReady tile = true) →
      ∃ x, exec (.search num io t) s = .next x ∧ x = { s.at t with arbs := x.arbs, pwr := x.pwr, free := x.free } ∧
        Waits x (tensorArb tile) (.encode ⟨s.nodeId, num⟩))) ∧
  ∀ (s : State) (num : Nat) (io : HostIO) (t : Nat) (r : Req), s.req? num = some r → r.opcode = 1 → r.body = .fresh →
    r.collOk = true → HostTakes io →
    (firstReserved r.entry (entryRanges ++ [(50, 2), (73, 1), (88, 40)]) ≠ none →
      ∃ x d, exec (.search num io t) s = .next x ∧ CompletedWith (s.at t) x r (.bare stInvalid d) ∧ OnlyCompleted (s.at t) x r) ∧
    (firstReserved r.entry (entryRanges ++ [(50, 2), (73, 1), (88, 40)]) = none → (∀ x ∈ entryChecks r.entry, x.2 = true) →
      byteAt r.entry 48 < 4 → byteAt r.entry 49 < 8 → byteAt r.entry 72 < 3 → bit r.rights 0 = false →
      ∃ x, exec (.search num io t) s = .next x ∧ CompletedWith (s.at t) x r (.bare stDenied 0) ∧ OnlyCompleted (s.at t) x r)

/-- R29, R31 steps 2 and 3, R50, R114: a share that has been admitted, or the first on the internal path, is put on the ledger
arbiter of each of its shards that this node serves; shards that have moved on are asked of their new owner with one hop more, and
at the fifth forward they are answered as missing; a share that comes while the query's is there adds its shards to it. A share that
has not been admitted does nothing. Model's choices: logs 22, 26, 93 and 97. -/
def Obligations.ShareArrival : Prop :=
  (∀ (s y : State) (m : ShareMsg) (t : Nat) (i : Instr) (mine : List Nat),
    (i = .searchShareArrival (some m) t ∧ (s.at t).takeAdmitted (tagIsOf m.key 1) = some y ∨
      i = .searchShareArrival none t ∧ ∃ rest, s.eng.inShares = m :: rest ∧ y = { s.at t with eng := { s.eng with inShares := rest } }) →
    mine = m.shards.filter s.serves →
    ∃ x, exec i s = .next x ∧ x.lists = s.lists ∧ x.fns = s.fns ∧ x.out = s.out ∧ x.sched.taken = y.sched.taken ∧
      x.eng.inShares = y.eng.inShares ∧
      (∀ i d, s.shard? i = some d → x.shard? i =
        some (if i ∈ mine then { d with waiting := d.waiting ++ [((s.at t).now, .search m.key)] } else d)) ∧
      (s.share? m.key = none → mine ≠ [] →
        ∃ h, x.share? m.key = some h ∧ h.msg = m ∧ h.arrivedAt = (s.at t).now ∧ h.shards.map (·.shard) = mine ∧
          (∀ p ∈ h.shards, p.stage = .waitStamp) ∧ x.eng.shares = s.eng.shares ++ [h]) ∧
      (s.share? m.key = none → mine = [] → x.eng.shares = s.eng.shares) ∧
      (∀ h, s.share? m.key = some h →
        ∃ g, x.share? m.key = some g ∧ g.shards.map (·.shard) = h.shards.map (·.shard) ++ mine ∧ g.merged = none ∧ g.dups = 0 ∧
          g.missing = 0 ∧ g.msg = h.msg) ∧
      (∀ n, (∃ i ∈ m.shards, (s.shard? i).bind (·.forwardTo) = some n) →
        (m.hop < 4 → FrameTo x n (.share { m with
          shards := m.shards.filter fun i => (s.shard? i).bind (·.forwardTo) == some n, hop := m.hop + 1 })) ∧
        (4 ≤ m.hop → AnswerLeaves s.nodeId x
          (s.emptyAnswer m (m.shards.filter fun i => (s.shard? i).bind (·.forwardTo) == some n) .hopEnded))) ∧
      ((∃ i ∈ m.shards, s.serves i = false ∧ (s.shard? i).bind (·.forwardTo) = none) →
        AnswerLeaves s.nodeId x (s.emptyAnswer m
          (m.shards.filter fun i => !s.serves i && ((s.shard? i).bind (·.forwardTo)).isNone) .hopEnded))) ∧
  ∀ (s : State) (m : ShareMsg) (t : Nat), (s.at t).takeAdmitted (tagIsOf m.key 1) = none →
    exec (.searchShareArrival (some m) t) s = .next (s.at t)

/-- R31 steps 3 and 4, R59, R64, R65, R154: the oldest waiter of a shard's ledger arbiter takes its turn, and its grant is counted;
a search gets the counter's value as its read stamp, held as a reader, without counting it up; with its last read stamp its
projection on the home tile's tensor clusters is requested for each shard, or, where the shard was FORMING at that stamp, its
scoring there. Model's choices: logs 26 and 33. -/
def Obligations.ReadStampOfASearch : Prop :=
  ∀ (s : State) (shard t a : Nat) (k : Key) (rest : List (Nat × LedgerWhat)) (d : Shard) (h : Share) (p : SShard) (f : Bool),
    s.shard? shard = some d → d.waiting = (a, .search k) :: rest → s.share? k = some h → h.part? shard = some p →
    f = (match d.switchW with | some w => decide (d.counter < w) | none => true) →
    ∃ x, exec (.ledgerStamp shard t) s = .next x ∧
      x = { s.at t with shards := x.shards, eng := x.eng, arbs := x.arbs, pwr := x.pwr } ∧
      x.shard? shard = some { d with waiting := rest, readers := d.readers ++ [(.req k, d.counter)] } ∧
      (x.share? k).bind (·.part? shard) =
        some { p with stamp := d.counter, forming := f, stage := .project, since := (s.at t).now } ∧
      ((∀ q ∈ h.shards, q.shard ≠ shard → q.stage ≠ .waitStamp) → ∀ q ∈ h.shards, (q.shard = shard ∨ q.stage = .project) →
        Waits x (tensorArb (s.homeTile k.num))
          (if (if q.shard = shard then f else q.forming) then .forming k q.shard else .project k q.shard)) ∧
      (∃ g ∈ (x.arb (0x1000 + d.ledger)).stats, g.requester = 0 ∧ 0 < g.grants) ∧ ∀ i, i ≠ shard → x.shard? i = s.shard? i

/-- R186, R187, R191 to R193, R210, R267, R296: a query is projected on its home tile's tensor clusters once they are granted and
clocked, and then requests the coarse field; coarse selection keeps the l1_probes best-scored level-1 centroids of the shard and
puts the query in the shard's batch, and waits while the hub is above 108 °C; a batch that is due takes the coarse field in its turn
and leaves each query with its probe set, at most `probes` lists visible at its read stamp, and each insert with one or two live
lists of its centroid; without a level-2 pool the near-bank units of the blocks' stacks are asked. Scores are FP32 values within a
bound of the exact ones. Model's choices: logs 1, 24, 26, 34, 115 and 119. -/
def Obligations.CoarseAndLevelTwo : Prop :=
  (∀ (s : State) (k : Key) (shard tile : Nat) (h : Share) (p : SShard), tile = s.homeTile k.num →
    s.arbHolds (tensorArb tile) (.project k shard) = true → s.share? k = some h → h.part? shard = some p →
    (s.tileReady tile = false → exec (.coarseSelection k shard) s = .next s) ∧
    (s.tileReady tile = true →
      ∃ x, exec (.coarseSelection k shard) s = .next x ∧ x = { s with eng := x.eng, arbs := x.arbs } ∧
        (x.share? k).bind (·.part? shard) = some { p with stage := .coarse, since := s.now } ∧ Waits x 0x80 (.coarse k shard) ∧
        x.arbHolds (tensorArb tile) (.project k shard) = false)) ∧
  (∀ (s : State) (k : Key) (shard : Nat) (h : Share) (p : SShard) (d : Shard) (c : Coll) (q : List Int) (sc : Nat → Int)
    (cols : List (List QGroup × Int)), s.arbHolds (tensorArb (s.homeTile k.num)) (.project k shard) = false →
    s.arbHolds 0x80 (.coarse k shard) = true → s.share? k = some h → h.part? shard = some p → s.shard? shard = some d →
    s.coll? h.msg.collection = some c → q = projectFor c.spec d.matrix (queryFor c.spec h.msg.params.query) →
    cols = d.centroids.zip d.centroidNorms →
    (∀ i, sc i = toFp32 (exactScore c.spec (sq8 q) (cols.getD i ([], 0)).1 (cols.getD i ([], 0)).2 (sqNorm q) +
      clampTo (scoreBound c.spec.metric (some nibble) (sq8 q) (cols.getD i ([], 0)).1 (cols.getD i ([], 0)).2 (sqNorm q).natAbs)
        (Config.scoreError (s.free + i)))) →
    (s.pwr.hotTiles.contains 4 = true → exec (.coarseSelection k shard) s = .next s) ∧
    (s.pwr.hotTiles.contains 4 = false →
      ∃ x y, exec (.coarseSelection k shard) s = .next x ∧ x = { s with eng := x.eng, arbs := x.arbs, free := x.free } ∧
        (x.share? k).bind (·.part? shard) = some y ∧ y = { p with l1 := y.l1, stage := .level2, since := s.now } ∧
        y.l1.length = min h.msg.params.l1Probes cols.length ∧ (∀ i ∈ y.l1, i < cols.length) ∧ y.l1.Nodup ∧
        (∀ i ∈ y.l1, ∀ j, j < cols.length → j ∉ y.l1 → sc j ≤ sc i) ∧
        (∃ b ∈ x.eng.batches, b.shard = shard ∧ k ∈ b.queries) ∧ x.arbHolds 0x80 (.coarse k shard) = false)) ∧
  ∀ (s : State) (shard t : Nat) (b : L2Batch) (d : Shard) (c : Coll) (r : ArbReq),
    s.eng.batches.find? (fun b => b.shard == shard && b.left.isNone) = some b → s.shard? shard = some d → s.coll? d.coll = some c →
    b.due ≤ (s.at t).now →
    (s.poolArrays ≠ 0 → (s.arb 0x80).granted = [] → s.pwr.hotTiles.contains 4 = false →
      (s.at t).requestBatches.arbPick ((s.at t).requestBatches.arb 0x80) = some r → r.work = .level2 shard b.openedAt →
      ∃ x, exec (.level2BatchDepart shard t) s = .next x ∧
        x = { s.at t with eng := x.eng, arbs := x.arbs, free := x.free, spares := x.spares } ∧
        (∀ k ∈ b.queries, ∀ h p, s.share? k = some h → h.part? shard = some p →
          ∃ q, (x.share? k).bind (·.part? shard) = some q ∧ q.stage = .seat ∧ q.stamp = p.stamp ∧
            q.probe.length ≤ h.msg.params.probes ∧
            min h.msg.params.probes ((s.listsAt shard p.stamp).filter fun l => p.l1.contains l.l1).length ≤ q.probe.length ∧
            ∀ i ∈ q.probe, ∃ l ∈ s.lists, l.id = i ∧ l.shard = shard ∧ l.visibleAt p.stamp = true) ∧
        (∀ z ∈ b.inserts, ∀ w, s.member? z.1 z.2 = some w → w.scan ≠ none →
          ∃ v, x.member? z.1 z.2 = some v ∧ (v.stage = .assigned ∨ v.stage = .waitSplit) ∧ v.lists.length ≤ 2 ∧
            ∀ i ∈ v.lists, ∃ l ∈ s.lists, l.id = i ∧ l.shard = shard ∧ l.l1 = w.l1 ∧ l.retiredW = none) ∧
        (∀ y ∈ x.eng.batches, ¬ (y.shard = shard ∧ y.openedAt = b.openedAt)) ∧ (x.arb 0x80).granted = []) ∧
    (s.poolArrays = 0 → s.blockStacks b ≠ [] →
      ∃ x, exec (.level2BatchDepart shard t) s = .next x ∧ x = { s.at t with eng := x.eng, arbs := x.arbs } ∧
        (∀ i ∈ s.blockStacks b, Waits x (0x40 + i) (.level2 shard b.openedAt)) ∧
        ∀ y ∈ x.eng.batches, y.shard = shard → y.openedAt = b.openedAt → y.left = some (s.blockStacks b))

/-- R181, R189, R197 to R203, R235, R415: the next query of the rotation takes a seat of its shard's open coach, or of a new one
that departs at the collection's dwell or the query's own limit, is charged the seat and asks the near-bank units for the guestbook
of every probed list; without its reservation its share fails with ST_QUOTA; a query that found no seat for 10 ms fails its share
with ST_QUOTA 5; a coach whose deadline has come departs, and every CSU of its itinerary queues it; a CSU with a free array for each
row tile starts the first coach of its queue. Model's choices: logs 26, 31, 32 and 94. -/
def Obligations.Coaches : Prop :=
  (∀ (s y : State) (shard t : Nat) (h : Share) (p : SShard) (d : Shard) (c : Coll), s.nextBoarding shard = some h →
    s.share? h.msg.key = some h → h.part? shard = some p → s.shard? shard = some d → s.coll? d.coll = some c →
    (∀ e, (s.at t).reserveSelection h = .inl e →
      ∃ x, exec (.coachBoard shard t) s = .next x ∧ x.share? h.msg.key = none ∧
        AnswerLeaves s.nodeId x (s.emptyAnswer h.msg (h.shards.map (·.shard)) (.failed stQuota e))) ∧
    ((s.at t).reserveSelection h = .inr y →
      (∃ x q, exec (.coachBoard shard t) s = .next x ∧ (x.share? h.msg.key).bind (·.part? shard) = some q ∧
        (p.probe ≠ [] → q.stage = .boarded ∧ q.probe = p.probe) ∧
        (∀ i ∈ p.probe, Waits x (0x40 + s.stackOf i) (.nearBank h.msg.key shard i true)) ∧ x.shards = s.shards ∧ x.out = s.out) ∧
      (0 < c.spec.dwellUs → 0 < h.msg.params.dwellLimit → s.pairFn (pairOf h.msg) < s.fns.length →
        ((∀ z ∈ s.eng.coaches, z.shard = shard → z.departed = true) → (∀ z ∈ s.eng.coaches, z.id ≠ s.eng.nextCoach) →
          ∃ x z, exec (.coachBoard shard t) s = .next x ∧ z ∈ x.eng.coaches ∧ z.id = s.eng.nextCoach ∧ z.shard = shard ∧
            z.departed = false ∧ z.seats = [(0, h.msg.key, h.msg.function)] ∧
            z.deadline = (if h.msg.params.dwellLimit = 0xFFFF then (s.at t).now + c.spec.dwellUs * Config.ticksPerUs
              else (s.at t).now + min c.spec.dwellUs h.msg.params.dwellLimit * Config.ticksPerUs) ∧
            (x.fn (s.pairFn (pairOf h.msg))).seatsUsed = (s.fn (s.pairFn (pairOf h.msg))).seatsUsed + 1) ∧
        ∀ z, (s.eng.coaches.find? fun z => z.shard == shard && !z.departed) = some z → (∀ w ∈ s.eng.coaches, w.id = z.id → w = z) →
          (s.at t).now < z.deadline → z.itin.length + p.probe.length ≤ 16384 → (z.seats.foldl (fun n w => max n (w.1 + 1)) 0) < 255 →
          ∃ x w, exec (.coachBoard shard t) s = .next x ∧ w ∈ x.eng.coaches ∧ w.id = z.id ∧ w.departed = false ∧
            w.seats = z.seats ++ [(z.seats.foldl (fun n w => max n (w.1 + 1)) 0, h.msg.key, h.msg.function)] ∧
            w.deadline = (if h.msg.params.dwellLimit = 0xFFFF then z.deadline
              else min z.deadline ((s.at t).now + h.msg.params.dwellLimit * Config.ticksPerUs)) ∧
            (x.fn (s.pairFn (pairOf h.msg))).seatsUsed = (s.fn (s.pairFn (pairOf h.msg))).seatsUsed + 1))) ∧
  (∀ (s : State) (k : Key) (shard t : Nat) (h : Share) (p : SShard), s.share? k = some h → h.msg.key = k → h.part? shard = some p →
    p.stage = .seat → s.pairFits (pairOf h.msg) .seats 1 = false → p.since + 10 * Config.ticksPerMs ≤ (s.at t).now →
    ∃ x, exec (.seatWaitTimeout k shard t) s = .next x ∧ x.share? k = none ∧
      AnswerLeaves s.nodeId x (s.emptyAnswer h.msg (h.shards.map (·.shard)) (.failed stQuota 5)) ∧
      (∀ y ∈ x.shards, ∀ z ∈ y.readers, z.1 ≠ .req k) ∧ x.lists = s.lists) ∧
  (∀ (s : State) (shard t : Nat) (c : Coach), (s.eng.coaches.find? fun y => y.shard == shard && !y.departed) = some c →
    s.eng.coaches.find? (·.id == c.id) = some c →
    (c.deadline ≤ (s.at t).now →
      ∃ x, exec (.coachDepart shard t) s = .next x ∧ (∀ y ∈ x.eng.coaches, y.id = c.id → y.departed = true) ∧
        (∀ e ∈ c.itin, e.csu < s.eng.csus.length → c.id ∈ (x.csu e.csu).queue) ∧ x.shards = s.shards ∧ x.lists = s.lists ∧
        x.out = s.out) ∧
    ((s.at t).now < c.deadline → exec (.coachDepart shard t) s = .next (s.at t))) ∧
  ∀ (s : State) (csu t id tiles : Nat) (rest free : List Nat) (c : Coach) (left : List ItinEntry), csu < s.eng.csus.length →
    (s.csu csu).queue = id :: rest → s.eng.coaches.find? (·.id == id) = some c → s.unitState (.csu csu) = .ready →
    tiles = (if ((((s.shard? c.shard).bind fun d => s.coll? d.coll).map (·.spec.projection)).getD 256) ≤ 256 then 1 else 2) →
    free = ((s.inUse (128 + 3 * csu)).filter fun a => !(s.csu csu).runs.any (·.arrays.contains a)) →
    left = (c.itin.filter fun e => e.csu == csu && !e.mask.isEmpty) →
    (if s.spares.offline.any fun e => e.kind == 0 && e.domain == csu && decide (32 ≤ e.element) && decide (e.element < 35)
      then (s.csu csu).runs = [] ∧ free ≠ [] else tiles ≤ free.length) →
    ∃ x, exec (.csuCoachStart csu t) s = .next x ∧ (x.csu csu).queue = rest ∧
      (left ≠ [] → ⟨id, left, 0, free.take tiles⟩ ∈ (x.csu csu).runs) ∧ (∀ z ∈ (s.csu csu).runs, z ∈ (x.csu csu).runs) ∧
      (left ≠ [] → (s.csu csu).runs = [] → (s.csu csu).paused = false → (∀ a ∈ free, (s.at t).arrayHeld a = false) →
        (∀ h ∈ s.eng.shares, rangeOf h.msg.params = .full) → Waits x csu (.page csu)) ∧
      (∀ i, i ≠ csu → x.csu i = s.csu i) ∧ x.shards = s.shards ∧ x.lists = s.lists ∧ x.out = s.out

/-- R190, R202 to R206, R208, R252, R425, R576: a granted page read that ends gives each of the page's records one score to every
masked passenger, in a shard of one row tile, and goes on to the next page, for which the channel is requested; after an entry's
last page the list is read; a page lost without redundancy degrades its list and scores nothing; with no masked entry left the coach
is through. Model's choices: logs 24, 32 and 117. -/
def Obligations.CsuPageReads : Prop :=
  (∀ (s : State) (csu t : Nat) (res : PageRead) (r : CsuRun) (pre post : List CsuRun) (e : ItinEntry) (later : List ItinEntry) (y : Coach)
    (d : Shard) (c : Coll) (l : LList) (v : Version), csu < s.eng.csus.length → s.arbHolds csu (.page csu) = true →
    (s.csu csu).paused = false → (s.csu csu).runs = pre ++ r :: post → (∀ z ∈ pre, ∀ e ∈ z.left, e.mask = []) →
    r.left = e :: later → e.mask ≠ [] → (∀ z ∈ pre ++ post, z.coach ≠ r.coach) →
    s.eng.coaches.find? (·.id == r.coach) = some y → s.shard? y.shard = some d → s.coll? d.coll = some c →
    s.list? e.list = some l → l.versions.find? (·.epoch == e.epoch) = some v →
    ((s.passengers y e.mask).map (·.msg.key)).Nodup →
    (res ≠ .lost → v.lostPages.contains r.page = false → r.page + 1 < v.pages.length →
      ∃ x, exec (.csuPageRead csu res t) s = .next x ∧ { r with page := r.page + 1 } ∈ (x.csu csu).runs ∧
        x.arbHolds csu (.page csu) = false ∧ x.lists = s.lists ∧ x.out = s.out ∧
        (∀ h ∈ s.passengers y e.mask, ∀ p, s.share? h.msg.key = some h → h.part? y.shard = some p →
          ∃ q, (x.share? h.msg.key).bind (·.part? y.shard) = some q ∧ (seatListOf h.msg.params q.lists csu).offers ≤
              (seatListOf h.msg.params p.lists csu).offers + (v.pages.getD r.page []).length ∧
            (c.spec.projection ≤ 256 → (seatListOf h.msg.params q.lists csu).offers =
              (seatListOf h.msg.params p.lists csu).offers + (v.pages.getD r.page []).length)) ∧
        (pre = [] → post = [] → r.arrays.any (s.at t).arrayHeld = false → (∀ h ∈ s.eng.shares, rangeOf h.msg.params = .full) →
          Waits x csu (.page csu))) ∧
    (res ≠ .lost → v.lostPages.contains r.page = false → v.pages.length ≤ r.page + 1 →
      ∃ x, exec (.csuPageRead csu res t) s = .next x ∧ x.out = s.out ∧
        (later = [] → ∀ z ∈ (x.csu csu).runs, z.coach ≠ r.coach) ∧
        (later ≠ [] → y.leaving = [] → { r with left := later, page := 0 } ∈ (x.csu csu).runs) ∧
        ∀ h ∈ s.passengers y e.mask, ∀ p, s.share? h.msg.key = some h → h.part? y.shard = some p →
          ∃ q, (x.share? h.msg.key).bind (·.part? y.shard) = some q ∧ e.list ∈ q.covered ∧ e.list ∉ q.flashLeft) ∧
    (res = .lost ∨ v.lostPages.contains r.page = true → v.pages ≠ [] →
      ∃ x m, exec (.csuPageRead csu res t) s = .next x ∧ x.list? e.list = some m ∧ m.degraded = true ∧
        (∀ w ∈ m.versions, w.epoch = e.epoch → r.page ∈ w.lostPages) ∧ (x.shard? l.shard).map (·.counter) =
          (s.shard? l.shard).map (·.counter))) ∧
  ∀ (s : State) (csu t : Nat) (res : PageRead), csu < s.eng.csus.length → s.arbHolds csu (.page csu) = true →
    ((s.csu csu).paused = true → ∃ x, exec (.csuPageRead csu res t) s = .next x ∧ x = { s.at t with arbs := x.arbs } ∧
      x.arbHolds csu (.page csu) = false) ∧
    ((s.csu csu).paused = false → (∀ z ∈ (s.csu csu).runs, ∀ e ∈ z.left, e.mask = []) →
      ∃ x, exec (.csuPageRead csu res t) s = .next x ∧ (x.csu csu).runs = [] ∧ x.arbHolds csu (.page csu) = false)

/-- R55, R152, R187, R195, R204, R234, R236, R239, R400, R401: a broadcast scores a probed list near its bank for the oldest
request, or a level-2 batch's blocks on its stack; where an uncorrectable error struck, it is asked for again and the fault is
logged; a pass over the overflow buffer or the spill area keeps the best c and sets the threshold; at the spill deadline every part
of the share ends, and what had not ended is short; a FORMING shard offers each row that its read stamp sees once, as source 33, or
its share fails with ST_QUOTA. Model's choices: logs 24, 29, 33, 102 and 127. -/
def Obligations.SelectionSources : Prop :=
  (∀ (s : State) (stack t : Nat) (struck : List (Nat × Nat)) (r : ArbReq),
    (match (s.arb (0x40 + stack)).granted with | g :: _ => some g | [] => (s.at t).arbPick (s.arb (0x40 + stack))) = some r →
    r.background = false →
    (∀ (k : Key) (shard list : Nat) (gb : Bool) (h : Share) (p : SShard), r.work = .nearBank k shard list gb → s.share? k = some h →
      h.part? shard = some p →
      (struck = [] →
        ∃ x q, exec (.broadcast stack [] t) s = .next x ∧ (x.share? k).bind (·.part? shard) = some q ∧ (list, gb) ∉ q.nearLeft ∧
          (∀ i, (list, gb) ≠ i → (i ∈ q.nearLeft ↔ i ∈ p.nearLeft)) ∧ x.arbHolds (0x40 + stack) r.work = false ∧
          x.lists = s.lists ∧ x.shards = s.shards ∧ x.out = s.out) ∧
      (struck ≠ [] →
        ∃ x e, exec (.broadcast stack struck t) s = .next x ∧ x.eng = s.eng ∧ Waits x (0x40 + stack) r.work ∧ Logged x 8 1 e ∧
          x.arbHolds (0x40 + stack) r.work = false ∧ x.lists = s.lists ∧ x.shards = s.shards)) ∧
    ∀ (shard at_ : Nat) (b : L2Batch) (d : Shard) (c : Coll), r.work = .level2 shard at_ →
      (s.eng.batches.find? fun y => y.shard == shard && y.openedAt == at_) = some b → s.shard? shard = some d → s.coll? d.coll = some c →
      (struck = [] → (b.left.getD []).filter (· != stack) ≠ [] →
        ∃ x, exec (.broadcast stack [] t) s = .next x ∧ x.eng.shares = s.eng.shares ∧
          ∀ y ∈ x.eng.batches, y.shard = shard → y.openedAt = at_ → y.left = some ((b.left.getD []).filter (· != stack))) ∧
      (struck = [] → (b.left.getD []).filter (· != stack) = [] →
        ∃ x, exec (.broadcast stack [] t) s = .next x ∧ (∀ y ∈ x.eng.batches, ¬ (y.shard = shard ∧ y.openedAt = at_)) ∧
          ∀ k ∈ b.queries, ∀ h p, s.share? k = some h → h.part? shard = some p →
            ∃ q, (x.share? k).bind (·.part? shard) = some q ∧ q.stage = .seat ∧ q.probe.length ≤ h.msg.params.probes) ∧
      (struck ≠ [] →
        ∃ x, exec (.broadcast stack struck t) s = .next x ∧ x.eng = s.eng ∧ Waits x (0x40 + stack) r.work)) ∧
  (∀ (s : State) (k : Key) (h : Share) (i : Instr) (g : Range), (i, g) ∈ [(Instr.overflowPass k, Range.overflow), (.spillPass k, .core)] →
    s.share? k = some h → rangeOf h.msg.params = g → h.final = false →
    (h.sourcesDone = true →
      ∃ x y, exec i s = .next x ∧ x = { s with eng := x.eng } ∧ x.share? k = some y ∧ y.final = true ∧
        y.overBuf = (sortCands h.overBuf).take (capOf h.msg.params)) ∧
    (h.sourcesDone = false → passAt h.msg.params ≤ h.overBuf.length →
      ∃ x y, exec i s = .next x ∧ x = { s with eng := x.eng, arbs := x.arbs } ∧ x.share? k = some y ∧ y.final = false ∧
        y.overBuf = (sortCands (h.overBuf.take (passAt h.msg.params))).take (capOf h.msg.params) ++
          h.overBuf.drop (passAt h.msg.params) ∧
        (0 < capOf h.msg.params →
          y.threshold = ((sortCands (h.overBuf.take (passAt h.msg.params))).take (capOf h.msg.params)).getLast?.map (·.score))) ∧
    (h.sourcesDone = false → h.overBuf.length < passAt h.msg.params → exec i s = .next s)) ∧
  (∀ (s : State) (k : Key) (t due : Nat) (h : Share), s.share? k = some h → rangeOf h.msg.params = .core → h.merged = none →
    due = h.arrivedAt + (if h.msg.params.timeoutMs < 4 then h.msg.params.timeoutMs * Config.ticksPerMs / 2
      else (h.msg.params.timeoutMs - 2) * Config.ticksPerMs) →
    (due ≤ (s.at t).now →
      ∃ x y, exec (.spillShortDeadline k t) s = .next x ∧ x.share? k = some y ∧ (∀ p ∈ y.shards, p.stage = .done) ∧
        (∀ i p, h.part? i = some p → p.stage ≠ .done → ∃ q, y.part? i = some q ∧ q.short = true) ∧ x.lists = s.lists ∧
        (∀ i d, s.shard? i = some d → x.shard? i = some { d with waiting := d.waiting.filter (·.2 != .search k) }) ∧ x.out = s.out) ∧
    ((s.at t).now < due → exec (.spillShortDeadline k t) s = .next (s.at t))) ∧
  ∀ (s : State) (k : Key) (shard : Nat) (h : Share) (p : SShard) (d : Shard) (c : Coll),
    s.arbHolds (tensorArb (s.homeTile k.num)) (.forming k shard) = true → s.tileReady (s.homeTile k.num) = true →
    s.share? k = some h → h.part? shard = some p → s.shard? shard = some d → s.coll? h.msg.collection = some c →
    (∀ y ∈ d.slots, d.rowAt y p.stamp ≠ .wait) →
    (∀ n, s.reserveSelection h = .inl n →
      ∃ x, exec (.formingShardScore k shard) s = .next x ∧ x.share? k = none ∧
        AnswerLeaves s.nodeId x (s.emptyAnswer h.msg (h.shards.map (·.shard)) (.failed stQuota n))) ∧
    ∀ y, s.reserveSelection h = .inr y →
      ∃ x q, exec (.formingShardScore k shard) s = .next x ∧ x = { y with eng := x.eng, arbs := x.arbs, free := x.free } ∧
        (x.share? k).bind (·.part? shard) = some q ∧ q.stage = .done ∧
        (seatListOf h.msg.params q.lists 33).offers = (seatListOf h.msg.params p.lists 33).offers +
          (d.slots.filter fun y => match d.rowAt y p.stamp with | .row _ _ => true | _ => false).length ∧
        x.arbHolds (tensorArb (s.homeTile k.num)) (.forming k shard) = false

/-- R38, R240 to R245, R304, R307, R425: when every source has finished, and over a buffer its last pass, the node merges its lists,
without duplicates, in the order of R229, to the first m; without re-rank that is its answer, with it the rows are requested, those
in flash at their channels; the oldest row read ends whose row is applied and whose turn at its channel has come, and until there is
one they wait: a row that arrives is struck off and the last one requests the re-rank, while a lost one drops its candidate; the
re-rank answers with at most k. Model's choices: logs 24, 31, 32, 35 and 121. -/
def Obligations.NodeMergeAndRerank : Prop :=
  (∀ (s : State) (k : Key) (h : Share), s.share? k = some h → h.shards ≠ [] → h.sourcesDone = true → h.merged = none →
    (rangeOf h.msg.params = .full ∨ h.final = true) →
    (h.msg.params.rerankDepth = 0 →
      ∃ x a, exec (.nodeMerge k) s = .next x ∧ x.share? k = none ∧ a.key = k ∧ a.node = s.nodeId ∧
        a.entries = (dedupe [] (sortCands (if rangeOf h.msg.params = .full then (h.shards.flatMap (·.lists)).flatMap (·.entries)
          else h.overBuf))).1.take h.msg.params.k ∧
        a.shards.map (·.1) = h.shards.map (·.shard) ∧ AnswerLeaves s.nodeId x a ∧ x.lists = s.lists ∧ x.out = s.out) ∧
    (h.msg.params.rerankDepth ≠ 0 →
      ∃ x y l, exec (.nodeMerge k) s = .next x ∧ x.share? k = some y ∧ y.merged = some l ∧ l.length ≤ h.msg.params.rerankDepth ∧
        x.eng.porter = s.eng.porter ++ y.rows.map (fun z => (s.homeTile k.num, k, z.1, z.2)) ∧
        (y.rows = [] → Waits x (tensorArb (s.homeTile k.num)) (.rerank k)) ∧ x.shards = s.shards ∧ x.out = s.out ∧
        ∀ z ∈ x.issued (s.homeTile k.num), ∀ ch, x.readChannel z = some ch → GrantWaits s x [ch] (readWork z))) ∧
  (∀ (s : State) (tile t shard slot : Nat) (res : PageRead) (k : Key) (h : Share) (p : SShard) (d : Shard) (y : Slot)
    (row : Row) (home : Home) (pre post : List (Nat × Key × Nat × Nat)) (current cached : Bool),
    s.issued tile = pre ++ (tile, k, shard, slot) :: post →
    (∀ z ∈ pre, ReadHeld s z ∨ ¬ ReadTurn (s.at t) z) → ReadTurn (s.at t) (tile, k, shard, slot) →
    s.share? k = some h → h.part? shard = some p → s.shard? shard = some d → d.slot? slot = some y →
    d.rowAt y p.stamp = .row row home → current = (d.histAfter y.num p.stamp).isNone →
    cached = (current && s.tier.rowCache.any fun z => z.1 == shard && z.2.1 == slot) →
    ((y.lost && current) = false → s.homeLost home = false → (res ≠ .lost ∨ home ≠ .t2 ∨ cached = true) →
      ∃ x z, exec (.porterRowRead tile res t) s = .next x ∧ x.eng.porter = s.eng.porter.erase (tile, k, shard, slot) ∧
        x.share? k = some z ∧ z.rows = h.rows.erase (shard, slot) ∧ z.merged = h.merged ∧ z.missing = h.missing ∧
        (z.rows = [] → h.merged ≠ none → Waits x (tensorArb tile) (.rerank k)) ∧ x.shards = s.shards ∧ x.lists = s.lists) ∧
    ((y.lost && current) = true ∨ s.homeLost home = true ∨ home = .t2 ∧ res = .lost ∧ cached = false →
      ∃ x z, exec (.porterRowRead tile res t) s = .next x ∧ x.eng.porter = s.eng.porter.erase (tile, k, shard, slot) ∧
        x.share? k = some z ∧ z.rows = h.rows.erase (shard, slot) ∧ z.missing = h.missing + 1 ∧
        z.merged = h.merged.map (fun l => l.filter fun c => !(c.shard == shard && c.id == y.id)) ∧
        (z.rows = [] → h.merged ≠ none → Waits x (tensorArb tile) (.rerank k)) ∧
        (y.lost = false → s.homeLost home = false → current = true → x.tier.lostRows = s.tier.lostRows + 1))) ∧
  (∀ (s : State) (tile t : Nat) (res : PageRead), (∀ z ∈ s.issued tile, ReadHeld s z ∨ ¬ ReadTurn (s.at t) z) →
    ∃ x, exec (.porterRowRead tile res t) s = .next x ∧ x = { s.at t with arbs := x.arbs } ∧
      ∀ z ∈ s.issued tile, ∀ ch, s.readChannel z = some ch → GrantWaits s x [ch] (readWork z)) ∧
  ∀ (s : State) (k : Key) (h : Share) (l : List Cand) (c : Coll), s.arbHolds (tensorArb (s.homeTile k.num)) (.rerank k) = true →
    s.tileReady (s.homeTile k.num) = true → s.share? k = some h → h.rows = [] → h.merged = some l →
    s.coll? h.msg.collection = some c →
    ∃ x a, exec (.rerankGather k) s = .next x ∧ x.share? k = none ∧ a.key = k ∧ a.entries.length ≤ h.msg.params.k ∧
      a.reranked ≤ l.length ∧ (∀ z ∈ a.entries, ∃ w ∈ l, w.id = z.id ∧ w.shard = z.shard) ∧ AnswerLeaves s.nodeId x a ∧
      x.arbHolds (tensorArb (s.homeTile k.num)) (.rerank k) = false ∧ x.lists = s.lists ∧ x.out = s.out

/-- R224, R225, R246, R247, R252, R254, R614: an answer in time, from a peer or over the internal path, counts for the shards that
have not answered; the first with a result reserves the merge's space; the last one completes the search, with a failure where a
shard failed, else with at most k entries, ST_PARTIAL where a shard is missing or short, else ST_DEGRADED where a list was degraded,
else ST_OK; an answer that is late, or for a shard that has answered, changes nothing; at the timeout what has not answered is
missing. Model's choices: logs 30, 55 and 95. -/
def Obligations.CoordinatorMerge : Prop :=
  ∀ (s : State) (num t due : Nat) (io : HostIO) (r : Req) (p : SearchParams) (c : Coll) (answers : List (Nat × ShardAnswer))
    (got : List Answer), s.req? num = some r → r.body = .search p answers got due → s.coll? r.collection = some c → HostTakes io →
    (∀ (a : Answer) (i : Instr) (y z : State) (q : Req),
      (i = .coordinatorAnswerReceive num (some a) io t ∧ a.key = ⟨s.nodeId, num⟩ ∧ y = s.at t ∨
        i = .coordinatorAnswerReceive num none io t ∧ (s.eng.inAnswers.find? fun a => a.key.num == num) = some a ∧
          y = { s.at t with eng := { s.eng with inAnswers := s.eng.inAnswers.erase a } }) →
      (due < (s.at t).now ∨ (∃ x ∈ a.shards, (answers.any (·.1 == x.1)) = true) → exec i s = .next y) ∧
      ((s.at t).now ≤ due → (∀ x ∈ a.shards, (answers.any (·.1 == x.1)) = false) →
        z = (if a.shards.any fun x => match x.2 with | .answered _ _ _ _ _ _ => true | _ => false then y.reserveMerge r p else y) →
        z.req? num = some q →
        q = { r with merge := q.merge } ∧ (rangeOf p = .full → q.merge = r.merge ∧ z.fns = s.fns ∧ z.pools = s.pools) ∧
        ((∃ i ∈ c.shardIds, ((answers ++ a.shards).any (·.1 == i)) = false) →
          ∃ x, exec i s = .next x ∧ x = { z with reqs := x.reqs } ∧
            x.req? num = some { q with body := .search p (answers ++ a.shards) (got ++ [a]) due }) ∧
        ((∀ i ∈ c.shardIds, ((answers ++ a.shards).any (·.1 == i)) = true) →
          ∃ x, exec i s = .next x ∧ SearchFinishes z x q p c (answers ++ a.shards) (got ++ [a])))) ∧
    (due ≤ (s.at t).now → ∃ x, exec (.searchTimeout num io t) s = .next x ∧ SearchFinishes (s.at t) x r p c answers got) ∧
    ((s.at t).now < due → exec (.searchTimeout num io t) s = .next (s.at t))

/-! ### Mutations and gathers -/

/-- R33, R261, R262, R265, R299, R315: an accepted INSERT, UPSERT, DELETE or SCATTER becomes its members, in the order of its batch,
each with no outcome yet and each sent to the owner of the shard its identifier (or slot reference) lies in. Model's choices: logs
22 and 23. -/
def Obligations.MutationsBecomeMembers : Prop :=
  (∀ (s : State) (num t op : Nat) (io : HostIO) (r : Req) (c : Coll) (inp : Bytes) (i : Instr) (kind : MemberKind),
    (i, op, kind) ∈ [(Instr.insert num io t, 2, MemberKind.insert), (.upsert num io t, 4, .upsert)] →
    Accepted s num op io [(49, 3), (56, 72)] .named (some 1) (16 * le r.entry 52 4) r → s.coll? r.collection = some c →
    inp = slice (io.input.getD []) 0 (le r.entry 24 4) → byteAt r.entry 48 < 3 → 1 ≤ le r.entry 52 4 → le r.entry 52 4 ≤ 4096 →
    entriesEnd (splitEntries inp (vectorBytes (byteAt r.entry 48) c.spec.dimensions) (le r.entry 52 4) 0) ≤ le r.entry 24 4 →
    ∃ x ms, exec i s = .next x ∧ x.req? num = some { r with body := .mutation ms } ∧
      ms.map (fun m => (m.msg.index, m.msg.name, m.msg.kind, m.outcome)) =
        (splitEntries inp (vectorBytes (byteAt r.entry 48) c.spec.dimensions) (le r.entry 52 4) 0).zipIdx.map
          (fun y => (y.2, le inp y.1.1 8, kind, none)) ∧
      (∀ m ∈ ms, m.msg.key = ⟨s.nodeId, num⟩ ∧ m.msg.shard = ownerShard m.msg.name c.spec.firstShard c.spec.shards ∧
        MemberSent s.nodeId c x m.msg) ∧ x.shards = s.shards ∧ x.lists = s.lists ∧ x.fns = s.fns ∧ x.out = s.out) ∧
  (∀ (s : State) (num t : Nat) (io : HostIO) (r : Req) (c : Coll) (inp : Bytes),
    Accepted s num 3 io [(48, 4), (56, 72)] .named (some 1) (16 * le r.entry 52 4) r → s.coll? r.collection = some c →
    inp = slice (io.input.getD []) 0 (le r.entry 24 4) → 1 ≤ le r.entry 52 4 → le r.entry 52 4 ≤ 65536 →
    8 * le r.entry 52 4 ≤ le r.entry 24 4 →
    ∃ x ms, exec (.delete num io t) s = .next x ∧ x.req? num = some { r with body := .mutation ms } ∧
      ms.map (fun m => (m.msg.index, m.msg.name, m.msg.kind, m.outcome)) =
        (readIds inp 0 (le r.entry 52 4)).zipIdx.map (fun y => (y.2, y.1, MemberKind.delete, none)) ∧
      (∀ m ∈ ms, m.msg.shard = ownerShard m.msg.name c.spec.firstShard c.spec.shards ∧ MemberSent s.nodeId c x m.msg) ∧
      x.shards = s.shards ∧ x.lists = s.lists ∧ x.fns = s.fns ∧ x.out = s.out) ∧
  ∀ (s : State) (num t : Nat) (io : HostIO) (r : Req) (c : Coll) (inp : Bytes),
    Accepted s num 6 io [(51, 1), (56, 72)] .named (some 3) (16 * le r.entry 52 4) r → s.coll? r.collection = some c →
    inp = slice (io.input.getD []) 0 (le r.entry 24 4) → byteAt r.entry 48 < 2 → byteAt r.entry 49 < 2 → byteAt r.entry 50 < 3 →
    1 ≤ le r.entry 52 4 → le r.entry 52 4 ≤ 4096 →
    entriesEnd (splitEntries inp (vectorBytes (byteAt r.entry 50) c.spec.dimensions) (le r.entry 52 4) 0) ≤ le r.entry 24 4 →
    ∃ x ms, exec (.scatter num io t) s = .next x ∧ x.req? num = some { r with body := .mutation ms } ∧
      ms.map (fun m => (m.msg.index, m.msg.name, m.msg.kind, m.outcome)) =
        (splitEntries inp (vectorBytes (byteAt r.entry 50) c.spec.dimensions) (le r.entry 52 4) 0).zipIdx.map
          (fun y => (y.2, le inp y.1.1 8, if byteAt r.entry 48 = 0 then MemberKind.replace else .accumulate, none)) ∧
      (∀ m ∈ ms, m.msg.byRef = (byteAt r.entry 49 == 1) ∧
        m.msg.shard = (if byteAt r.entry 49 = 1 then field m.msg.name 35 24
          else ownerShard m.msg.name c.spec.firstShard c.spec.shards) ∧ MemberSent s.nodeId c x m.msg) ∧
      x.shards = s.shards ∧ x.lists = s.lists ∧ x.fns = s.fns ∧ x.out = s.out

/-- R33 steps 1 and 2, R50, R114, R188, R266 to R268, R272, R299, R302, R320: at its owner a member that has been admitted, or the
first on the internal path, holds its identifier when it has no fault and no other holds it; an insert into a FORMED shard asks the
coarse field for its assignment, others go on at once; a fault ends it with its outcome; a shard that moved on forwards it, at most
four times; the assignment takes a level-1 centroid and joins the shard's batch, and waits above 108 °C. Model's choices: logs 24,
34, 93, 97 and 115. -/
def Obligations.MembersAtTheirOwner : Prop :=
  (∀ (s y : State) (m : MemberMsg) (t : Nat) (a : Instr) (c : Coll),
    (a = .memberArrival (some m) t ∧ (s.at t).takeAdmitted (tagIsMember m.key m.shard) = some y ∨
      a = .memberArrival none t ∧ ∃ rest, s.eng.inMembers = m :: rest ∧ y = { s.at t with eng := { s.eng with inMembers := rest } }) →
    s.coll? m.collection = some c →
    (∀ d, s.shard? m.shard = some d → d.coll = m.collection →
      (∀ n, d.forwardTo = some n →
        (m.hop < 4 → ∃ x, exec a s = .next x ∧ FrameTo x n (.member { m with hop := m.hop + 1 }) ∧ x.shards = s.shards ∧
          x.eng = y.eng) ∧
        (4 ≤ m.hop → ∃ x, exec a s = .next x ∧ OutcomeLeaves s.nodeId x m 0 stRetry 0 ∧ x.shards = s.shards)) ∧
      (d.forwardTo = none → d.lost = true →
        ∃ x, exec a s = .next x ∧ OutcomeLeaves s.nodeId x m 0 stDegraded 0 ∧ x.shards = s.shards) ∧
      (d.forwardTo = none → d.lost = false → s.member? m.key m.index ≠ none → exec a s = .next y) ∧
      (d.forwardTo = none → d.lost = false → s.member? m.key m.index = none →
        (memberFault c d m = none → d.holds.contains (d.idOf m.byRef m.name) = false →
          ∃ x w e, exec a s = .next x ∧ x.member? m.key m.index = some w ∧ w.msg = m ∧ w.stamp = 0 ∧
            x.shard? m.shard = some e ∧ e.holds = d.holds ++ [d.idOf m.byRef m.name] ∧ e.counter = d.counter ∧ e.hist = d.hist ∧
            e.tombs = d.tombs ∧ (∀ z, d.named m.byRef m.name = some z → w.slot = some z.num ∧ e.slots = d.slots) ∧
            ((m.kind = .insert ∨ m.kind = .upsert) → d.stage = .formed →
              w.stage = .resolved ∧ Waits x 0x80 (.assign m.key m.index)) ∧
            (¬ ((m.kind = .insert ∨ m.kind = .upsert) ∧ d.stage = .formed) → w.stage = .assigned) ∧ x.lists = s.lists ∧
            x.out = s.out) ∧
        (memberFault c d m = none → d.holds.contains (d.idOf m.byRef m.name) = true →
          ∃ x w, exec a s = .next x ∧ x.member? m.key m.index = some w ∧ w.msg = m ∧ w.stage = .waitIdentifier ∧
            x.shards = s.shards) ∧
        (∀ st dt, memberFault c d m = some (st, dt) →
          ∃ x, exec a s = .next x ∧ OutcomeLeaves s.nodeId x m 0 st dt ∧ x.shards = s.shards ∧
            x.eng.members = s.eng.members))) ∧
    (s.shard? m.shard = none → ∃ x d, exec a s = .next x ∧ x.shards = s.shards ∧
      (d = (stRetry, 0) ∨ d = (stInvalid, 6) ∧ m.byRef = true) ∧ OutcomeLeaves s.nodeId x m 0 d.1 d.2)) ∧
  ∀ (s : State) (k : Key) (idx : Nat) (w : MWork) (d : Shard) (c : Coll), s.member? k idx = some w →
    s.shard? w.msg.shard = some d → s.coll? d.coll = some c →
    (w.stage = .resolved → s.arbHolds 0x80 (.assign k idx) = true → w.scan ≠ none →
      (s.pwr.hotTiles.contains 4 = true → exec (.insertAssignment k idx) s = .next s) ∧
      (s.pwr.hotTiles.contains 4 = false →
        ∃ x v, exec (.insertAssignment k idx) s = .next x ∧ x = { s with eng := x.eng, arbs := x.arbs, free := x.free } ∧
          x.member? k idx = some v ∧ v = { w with l1 := v.l1, stage := .level2, since := s.now } ∧
          (d.columns ≠ [] → v.l1 < d.columns.length) ∧
          (∃ b ∈ x.eng.batches, b.shard = w.msg.shard ∧ (k, idx) ∈ b.inserts) ∧ x.arbHolds 0x80 (.assign k idx) = false)) ∧
    (w.stage = .waitSplit →
      ((∃ i ∈ w.lists, ∃ l, s.list? i = some l ∧ l.closed = true ∧ l.retiredW = none) → exec (.insertAssignment k idx) s = .next s) ∧
      ((∀ i ∈ w.lists, ∀ l, s.list? i = some l → l.closed = true → l.retiredW ≠ none) → d.stage = .formed →
        (w.msg.kind = .insert ∨ w.msg.kind = .upsert) →
        ∃ x, exec (.insertAssignment k idx) s = .next x ∧ (x.member? k idx).map (·.stage) = some .resolved ∧
          Waits x 0x80 (.assign k idx)))

/-- R33 steps 3 and 4, R156, R273, R275, R277, R278, R287, R306, R430: an assigned member with a slot and room in the formation
buffer, whose charges and journal entry fit, is journaled with no stamp yet; its scan records, without a stamp, are appended to the
guestbooks of its lists, and it goes to its shard's ledger arbiter when no earlier member of its command is on its way; full
guestbooks make it wait or end, by the collection's setting, and a quota ends it; what waits goes on when it can, and ends with
ST_RETRY 2 after 2 s. Model's choices: logs 48 and 96. -/
def Obligations.MembersBeforeTheLedger : Prop :=
  (∀ (s : State) (k : Key) (idx t n : Nat) (w : MWork) (d : Shard) (c : Coll) (room : Bool) (charged : Nat ⊕ State),
    s.member? k idx = some w → w.stage ∈ [MStage.assigned, .waitFormation, .waitJournal] → w.journaled = false →
    s.shard? w.msg.shard = some d → s.coll? d.coll = some c →
    (room = true ↔ ¬ (d.stage = .forming ∧ (w.row ≠ none ∨ w.msg.kind = .accumulate) ∧ 2 * formationSize c d ≤ s.bufferCount d)) →
    n = (match w.row, (w.slot.bind d.slot?).map (·.row) with
      | some r, _ => rowBytes c.spec r
      | none, some r => if w.msg.kind == .accumulate then rowBytes c.spec r else 0
      | none, none => 0) →
    charged = (if n = 0 then .inr (s.at t) else
      (s.at t).chargeRow c d k idx n (match w.slot.bind d.slot? with | some y => !y.born | none => false)) →
    ((w.slot = none ∧ (w.msg.kind = .insert ∨ w.msg.kind = .upsert)) →
      ∃ x, exec (.writeBufferAccept k idx t) s = .next x ∧ MemberEnds s.nodeId x k idx w stQuota 1) ∧
    ((w.slot ≠ none ∨ w.msg.kind ≠ .insert ∧ w.msg.kind ≠ .upsert) →
      (room = false →
        ∃ x, exec (.writeBufferAccept k idx t) s = .next x ∧
          if c.spec.guestbookFull = 1 then MemberEnds s.nodeId x k idx w stRetry 2
          else (x.member? k idx).map (·.stage) = some .waitFormation ∧ x = { s.at t with eng := x.eng }) ∧
      (room = true → s.journalLimit (64 + n + w.lists.length * scanBytes c.spec.projection) = true →
        ∃ x, exec (.writeBufferAccept k idx t) s = .next x ∧
          if s.pwr.doldrums then MemberEnds s.nodeId x k idx w stRetry 4
          else (x.member? k idx).map (·.stage) = some .waitJournal ∧ x = { s.at t with eng := x.eng }) ∧
      (room = true → s.journalLimit (64 + n + w.lists.length * scanBytes c.spec.projection) = false →
        (∀ q, charged = .inl q →
          ∃ x, exec (.writeBufferAccept k idx t) s = .next x ∧ MemberEnds s.nodeId x k idx w stQuota q) ∧
        ∀ z, charged = .inr z →
          (z.gbStopOf c w = .none → (∀ e ∈ s.tier.journal, e.kind = .member k idx → e.void = true) →
            ∃ x v e, exec (.writeBufferAccept k idx t) s = .next x ∧ x.member? k idx = some v ∧ v.journaled = true ∧
              (v.stage = .ready ∨ v.stage = .atLedger) ∧
              x.tier.journal = s.tier.journal ++ [e] ∧ e.kind = .member k idx ∧ e.shard = w.msg.shard ∧ e.stamp = 0 ∧ e.void = false ∧
              (s.eng.members = [w] → v.stage = .atLedger ∧ (x.shard? w.msg.shard).map (·.waiting) =
                some (d.waiting ++ [((s.at t).now, .member k idx)])) ∧
              (w.lists.Nodup → ∀ i j r l, w.lists[j]? = some i → w.scan = some r → s.list? i = some l →
                ∃ y, x.list? i = some y ∧ y.gb = l.gb ++ [⟨{ r with secondCopy := j != 0 }, 0, (s.at t).now⟩]) ∧
              (∀ i, i ∉ w.lists → x.list? i = s.list? i) ∧ x.out = s.out) ∧
          (z.gbStopOf c w = .quota →
            ∃ x, exec (.writeBufferAccept k idx t) s = .next x ∧ MemberEnds s.nodeId x k idx w stQuota 4) ∧
          ∀ ls, z.gbStopOf c w = .full ls →
            ∃ x, exec (.writeBufferAccept k idx t) s = .next x ∧ (∀ l ∈ x.lists, l.id ∈ ls → l.urgent = true) ∧
              if c.spec.guestbookFull = 1 then MemberEnds s.nodeId x k idx w stRetry 2
              else ∃ v, x.member? k idx = some v ∧ v.stage = .waitGuestbook ∧ v.journaled = true))) ∧
  (∀ (s : State) (k : Key) (idx t : Nat) (w : MWork) (d : Shard) (c : Coll), s.member? k idx = some w →
    w.stage = .waitGuestbook → s.shard? w.msg.shard = some d → s.coll? d.coll = some c →
    ((s.at t).gbStopOf c w = .none →
      ∃ x v, exec (.guestbookWaitEnd k idx t) s = .next x ∧ x.member? k idx = some v ∧ (v.stage = .ready ∨ v.stage = .atLedger) ∧
        (w.lists.Nodup → ∀ i j r l, w.lists[j]? = some i → w.scan = some r → s.list? i = some l →
          ∃ y, x.list? i = some y ∧ y.gb = l.gb ++ [⟨{ r with secondCopy := j != 0 }, 0, (s.at t).now⟩]) ∧ x.out = s.out) ∧
    (∀ ls, (s.at t).gbStopOf c w = .full ls → c.spec.guestbookFull ≠ 1 →
      ∃ x, exec (.guestbookWaitEnd k idx t) s = .next x ∧ x.member? k idx = some w) ∧
    ((s.at t).gbStopOf c w = .quota →
      ∃ x, exec (.guestbookWaitEnd k idx t) s = .next x ∧ MemberEnds s.nodeId x k idx w stQuota 4)) ∧
  (∀ (s : State) (k : Key) (idx t : Nat) (w : MWork) (d : Shard) (c : Coll), s.member? k idx = some w → w.stage = .waitTable →
    s.shard? w.msg.shard = some d → s.coll? d.coll = some c →
    (s.verdict c d w ≠ .wait →
      ∃ x v, exec (.guestbookWaitEnd k idx t) s = .next x ∧ x.member? k idx = some v ∧ v = { w with stage := v.stage } ∧
        (v.stage = .ready ∨ v.stage = .atLedger) ∧ x.lists = s.lists ∧ ShardsButWaiting s x ∧
        (s.eng.members = [w] → v.stage = .atLedger ∧ (x.shard? w.msg.shard).map (·.waiting) =
          some (d.waiting ++ [((s.at t).now, .member k idx)]))) ∧
    (s.verdict c d w = .wait → exec (.guestbookWaitEnd k idx t) s = .next (s.at t))) ∧
  ∀ (s : State) (k : Key) (idx t : Nat) (w : MWork) (i : Instr), s.member? k idx = some w →
    (i, w.stage) ∈ [(Instr.guestbookWaitTimeout k idx t, MStage.waitGuestbook), (.guestbookWaitTimeout k idx t, .waitTable),
      (.formationWaitTimeout k idx t, .waitFormation)] →
    (w.since + 2 * Config.ticksPerS ≤ (s.at t).now →
      ∃ x, exec i s = .next x ∧ MemberEnds s.nodeId x k idx w stRetry 2 ∧
        (x.shard? w.msg.shard).map (·.counter) = (s.shard? w.msg.shard).map (·.counter) ∧ x.out = s.out) ∧
    ((s.at t).now < w.since + 2 * Config.ticksPerS → exec i s = .next (s.at t))

/-- R33 step 5, R65, R66, R264, R269 to R271, R284, R303, R613: at the head of the ledger arbiter a mutation takes the next counter
value as its stamp, and with it everything it changes: an insert of an identifier without a slot's row makes its row current, a
delete of a live one adds its tombstone; the outcome leaves with the stamp. A second insert and a delete of what is not live leave
the counter and the rows as they were. Model's choices: log 26. -/
def Obligations.MutationStamps : Prop :=
  ∀ (s : State) (shard t a n i : Nat) (k : Key) (rest : List (Nat × LedgerWhat)) (d : Shard) (c : Coll) (w : MWork) (y : Slot),
    s.shard? shard = some d → d.waiting = (a, .member k i) :: rest → s.coll? d.coll = some c → s.member? k i = some w →
    w.msg.shard = shard → w.slot = some n → d.slot? n = some y → d.pendingAcc n = none →
    (w.msg.kind = .insert → y.born = false → y.bit = false → (d.stage = .forming ∨ w.lists ≠ []) → s.tablesFree false true = true →
      ∃ x e z, exec (.ledgerStamp shard t) s = .next x ∧ x.shard? shard = some e ∧ e.counter = d.counter + 1 ∧ e.tombs = d.tombs ∧
        e.slot? n = some z ∧ z.born = true ∧ z.bit = false ∧ z.row = listedRow (w.row.getD y.row) w.lists ∧ z.id = y.id ∧
        e.hist = d.hist ++ [⟨n, d.counter + 1, 0, true, none, none⟩] ∧ OutcomeLeaves s.nodeId x w.msg (d.counter + 1) stOk 0 ∧
        x.member? k i = none ∧ (∀ j ∈ x.tier.journal, j.kind = .member k i → j.stamp = d.counter + 1) ∧
        ∀ l ∈ x.lists, l.id ∈ w.lists → ∀ g ∈ l.gb, g.scan.id = y.id → g.stamp ≠ 0) ∧
    (w.msg.kind = .delete → d.live y = true → s.tablesFree true false = true →
      ∃ x e, exec (.ledgerStamp shard t) s = .next x ∧ x.shard? shard = some e ∧ e.counter = d.counter + 1 ∧
        e.tombs = d.tombs ++ [tombOf y.id (d.counter + 1) 0 n (s.at t).now y.row] ∧ e.slot? n = some y ∧
        OutcomeLeaves s.nodeId x w.msg (d.counter + 1) stOk 0 ∧ x.member? k i = none ∧ x.lists = s.lists) ∧
    (w.msg.kind = .insert → d.live y = true → (d.stage = .forming ∨ w.lists ≠ []) →
      ∃ x e, exec (.ledgerStamp shard t) s = .next x ∧ x.shard? shard = some e ∧ e.counter = d.counter ∧ e.tombs = d.tombs ∧
        e.hist = d.hist ∧ OutcomeLeaves s.nodeId x w.msg 0 stInvalid 1 ∧ x.member? k i = none) ∧
    (w.msg.kind = .delete → d.live y = false →
      ∃ x e, exec (.ledgerStamp shard t) s = .next x ∧ x.shard? shard = some e ∧ e.counter = d.counter ∧ e.tombs = d.tombs ∧
        e.hist = d.hist ∧ OutcomeLeaves s.nodeId x w.msg 0 stOk 1 ∧ x.member? k i = none)

/-- R35, R264, R265, R305, R317, R537: the last outcome completes its command: ST_OK when every member is ST_OK, else ST_PARTIAL
with one stamped, else the first failure; a query of a delivered member's outcome goes to its owner, and a member that its owner
does not know is sent again; an accumulate is applied to its row, and its outcome leaves with its stamp. -/
def Obligations.OutcomesAndAccumulates : Prop :=
  (∀ (s y : State) (num t j : Nat) (io : HostIO) (r : Req) (ms new : List OMember) (o : Outcome) (os : List Outcome) (i : Instr),
    (i = .memberOutcomeReceive (some ⟨⟨s.nodeId, num⟩, j, o⟩) io t ∧ y = s.at t ∨
      i = .memberOutcomeReceive none io t ∧ ∃ rest, s.eng.inOutcomes = ⟨⟨s.nodeId, num⟩, j, o⟩ :: rest ∧
        y = { s.at t with eng := { s.eng with inOutcomes := rest } }) →
    s.req? num = some r → r.body = .mutation ms → HostTakes io →
    new = (ms.mapIdx fun a m => if a = j ∧ m.outcome = none then { m with outcome := some o } else m) →
    ((∃ m ∈ new, m.outcome = none) →
      ∃ x, exec i s = .next x ∧ x.req? num = some { r with body := .mutation new } ∧ x = { y with reqs := x.reqs }) ∧
    ((∀ m ∈ new, m.outcome ≠ none) → os = new.filterMap (·.outcome) → (r.opcode ≠ 8 ∨ s.run? num = none) →
      ∃ x q, exec i s = .next x ∧ CompletedWith y x r q ∧ OnlyCompleted y x r ∧ q.data = os.flatMap outcomeBytes ∧
        q.dataReturned = q.data.length ∧ q.value2 = (os.filter (·.stamp != 0)).length ∧
        (∀ z, os = [z] → q.value = z.stamp) ∧ (os.length ≠ 1 → r.opcode ≠ 6 → q.value = 0) ∧
        ((∀ z ∈ os, z.status = stOk) → q.status = stOk ∧ q.detail = 0) ∧
        ((∃ z ∈ os, z.status ≠ stOk) → 0 < q.value2 → q.status = stPartial ∧ q.detail = 0) ∧
        (∀ z, os.find? (·.status != stOk) = some z → q.value2 = 0 →
          q.status = z.status ∧ q.detail = if z.status = stInvalid then z.detail + 0x100 else z.detail))) ∧
  (∀ (s : State) (num idx t owner : Nat) (io : HostIO) (r : Req) (ms : List OMember) (m : OMember) (c : Coll), s.req? num = some r →
    r.body = .mutation ms → ms[idx]? = some m → m.outcome = none → m.delivered = true → s.ownerOf m.msg.shard = some owner →
    s.reachable owner = true → s.coll? r.collection = some c →
    (∃ x, exec (.memberOutcomeQuery num idx .inProgress io t) s = .next x ∧ FrameTo x owner (.outcomeQuery ⟨s.nodeId, num⟩ idx) ∧
      x.req? num = some { r with body := .mutation (ms.mapIdx fun j y => if j = idx then { y with queried := true } else y) } ∧
      x.out = s.out ∧ x.shards = s.shards) ∧
    ∃ x, exec (.memberOutcomeQuery num idx .unknown io t) s = .next x ∧ MemberSent s.nodeId c x m.msg ∧ x.out = s.out ∧
      x.shards = s.shards) ∧
  ∀ (s : State) (shard slot : Nat) (d : Shard) (c : Coll) (e : Hist) (y : Slot) (dl : List Int × List (Nat × Int)) (r : Row),
    s.shard? shard = some d → s.coll? d.coll = some c → d.pendingAcc slot = some e → d.slot? slot = some y → y.lost = false →
    e.delta = some dl → accumulated c.spec y.row dl = some r →
    ∃ x f, exec (.accumulateApply shard slot) s = .next x ∧ x.shard? shard = some f ∧ f.slot? slot = some { y with row := r } ∧
      f.counter = d.counter ∧ f.tombs = d.tombs ∧ (∀ h ∈ f.hist, h.slot = slot → h.stamp = e.stamp → h.applied = true) ∧
      (∀ w, (s.eng.members.find? fun w => w.msg.shard == shard && w.stamp == e.stamp && w.stage == .stamped) = some w →
        OutcomeLeaves s.nodeId x w.msg e.stamp stOk 0) ∧ x.lists = s.lists ∧ x.out = s.out

/-- R38, R55, R65, R308 to R313: a GATHER takes its turn at the ledger arbiters of this node's shards that its indices lie in and at
the flash channels of their rows, and completes with one reply for each index, at the counter values of their shards: a row, or one
of the drop counts, ST_PARTIAL with an unreached one, else ST_DEGRADED with a lost one; with indices on other nodes it asks them
first; a peer whose pool failed under a row it read ends it with ST_POOL_LOST (R500); the sentinel identifier is ST_INVALID 0xFFFC
with its offset. Model's choices: logs 31, 32, 55, 90 and 121. -/
def Obligations.Gathers : Prop :=
  ∀ (s : State) (num t : Nat) (io : HostIO) (peers : List (Nat × IndexReply)) (stamps : List (Nat × Nat)) (r : Req) (c : Coll)
    (inp : Bytes) (byRef : Bool) (names : List Nat) (inColl : Nat → Prop) (here chans : List Nat) (w : LedgerWhat) (g : Work),
    s.coll? r.collection = some c → inp = slice (io.input.getD []) 0 (le r.entry 24 4) → byRef = (byteAt r.entry 48 == 1) →
    names = readIds inp 0 (le r.entry 52 4) → HostTakes io → w = .pass (.req ⟨s.nodeId, num⟩) → g = .gather ⟨s.nodeId, num⟩ →
    (inColl = fun n => byRef = false ∨ n < 2 ^ 59 ∧ c.spec.firstShard ≤ memberShard c byRef n ∧
      memberShard c byRef n < c.spec.firstShard + c.spec.shards) →
    (∀ i, i ∈ here ↔ ∃ n ∈ names, inColl n ∧ s.gatherOwner (memberShard c byRef n) = some s.nodeId ∧ memberShard c byRef n = i) →
    (∀ i, i ∈ chans ↔ ∃ n ∈ names, inColl n ∧ s.gatherOwner (memberShard c byRef n) = some s.nodeId ∧ ∃ d y,
      s.shard? (memberShard c byRef n) = some d ∧ d.named byRef n = some y ∧ s.rowRead d y d.counter = some i) →
    (s.req? num = some r ∧ r.opcode = 5 ∧ r.body = .gatherWait ∨
      Accepted s num 5 io [(51, 1), (56, 72)] .named (some 2) (64 + le r.entry 52 4 * (16 + gatherWidth c.spec (byteAt r.entry 49)) +
        (if bit (byteAt r.entry 50) 0 then 16 * c.spec.shards else 0)) r ∧
      r.collection = le r.entry 4 4 ∧ byteAt r.entry 48 < 2 ∧ byteAt r.entry 49 < 2 ∧ byteAt r.entry 50 < 4 ∧ 1 ≤ le r.entry 52 4 ∧
      le r.entry 52 4 ≤ 65536 ∧ 8 * le r.entry 52 4 ≤ le r.entry 24 4) →
    ((r.body = .gatherWait ∨ (byRef = false → ∀ n ∈ names, n ≠ 0xFFFFFFFFFFFFFFFF) ∧
        ∀ n ∈ names, ∀ o, s.gatherOwner (memberShard c byRef n) = some o → o = s.nodeId) →
      (∀ n ∈ names, inColl n → ∀ d y, s.shard? (memberShard c byRef n) = some d → d.named byRef n = some y →
        d.rowAt y d.counter ≠ .wait) →
      (LedgerTurn s here w → GrantTurn (s.at t) (1 + s.homeTile num) false chans g → (∀ z ∈ peers, z.2 ≠ .poolLost) →
        (bit (byteAt r.entry 8) 0 = true ∨ r.body = .fresh ∨ ∀ p ∈ s.pools, p.st = .lost → p.lostAt < r.admittedAt) →
        ∃ x q, exec (.gather num peers stamps io t) s = .next x ∧ CompletedWith (s.at t) x r q ∧ q.detail = 0 ∧
          q.value + q.value2 = le r.entry 52 4 ∧ le q.data 0 4 = le r.entry 52 4 % 2 ^ 32 ∧ x.lists = s.lists ∧
          (bit (byteAt r.entry 50) 1 = false → ShardsButWaiting s x) ∧
          ((∀ n ∈ names, inColl n ∧ s.gatherOwner (memberShard c byRef n) = some s.nodeId) →
            q.value = (names.filter fun n => isReply 0 (s.gatherLocal c (byteAt r.entry 49) n (memberShard c byRef n) byRef)).length ∧
            q.status = (if names.any fun n => isReply 5 (s.gatherLocal c (byteAt r.entry 49) n (memberShard c byRef n) byRef) then stPartial
              else if names.any fun n => isReply 4 (s.gatherLocal c (byteAt r.entry 49) n (memberShard c byRef n) byRef) then stDegraded
              else stOk))) ∧
      (¬ (LedgerTurn s here w ∧ GrantTurn (s.at t) (1 + s.homeTile num) false chans g) →
        ∃ x, exec (.gather num peers stamps io t) s = .next x ∧ x = { s.at t with shards := x.shards, arbs := x.arbs } ∧
          ShardsButWaiting s x ∧ LedgerWaits x here w ∧ GrantWaits s x chans g) ∧
      (LedgerTurn s here w → GrantTurn (s.at t) (1 + s.homeTile num) false chans g → ∀ i n, names[i]? = some n → inColl n → s.gatherOwner (memberShard c byRef n) ≠ some s.nodeId →
        peers.find? (·.1 == i) = some (i, .poolLost) →
        ∃ x, exec (.gather num peers stamps io t) s = .next x ∧ CompletedWith (s.at t) x r (.bare stPoolLost 0))) ∧
    (r.body = .fresh → (byRef = false → ∀ n ∈ names, n ≠ 0xFFFFFFFFFFFFFFFF) → ∀ n ∈ names, ∀ o,
      s.gatherOwner (memberShard c byRef n) = some o → o ≠ s.nodeId →
      ∃ x l, exec (.gather num peers stamps io t) s = .next x ∧ x.req? num = some { r with body := .gatherWait } ∧
        FrameTo x o (.gatherShare ⟨s.nodeId, num⟩ c.spec.id l) ∧ (n, byRef) ∈ l ∧ x.shards = s.shards ∧ x.out = s.out) ∧
    (r.body = .fresh → byRef = false → 0xFFFFFFFFFFFFFFFF ∈ names →
      ∃ x q, exec (.gather num peers stamps io t) s = .next x ∧ CompletedWith (s.at t) x r q ∧ OnlyCompleted (s.at t) x r ∧
        q.status = stInvalid ∧ q.detail = 0xFFFC ∧ q.value % 8 = 0)

/-! ### Models -/

/-- R334, R336 to R339, R341, R342: a MODEL-LOAD begin that passes its checks and quotas makes a LOADING model under the
collection's next identifier, charged to its function; a part adds its bytes; a model left LOADING for 24 h goes; in Doldrums the
actions that write T2 are ST_RETRY 1. Model's choices: logs 40 and 41. -/
def Obligations.ModelLoading : Prop :=
  (∀ (s : State) (num t n t1 t2 : Nat) (io : HostIO) (r : Req) (c : Coll) (inp : Bytes), Accepted s num 7 io [(50, 2), (64, 64)] .named (some 4) 0 r →
    byteAt r.entry 48 = 0 → byteAt r.entry 49 < 2 → le r.entry 52 4 = 0 → s.coll? r.collection = some c → c.spec.id = r.collection →
    (s.at t).ownersReachable c = true → HostTakes io → r.fn < s.fns.length → inp = slice (io.input.getD []) 0 (le r.entry 24 4) →
    n = hdrTensors inp → 256 + 48 * n ≤ inp.length → packageBad inp n = [] →
    s.modelLimits c (slice inp 0 256) (readTensors inp n 256) (byteAt r.entry 49 == 1) = true →
    t2 = s.shareSum c (readTensors inp n 256) Tensor.shareOf →
    t1 = (if byteAt r.entry 49 = 1 then s.residentBytes c (slice inp 0 256) (readTensors inp n 256) else 0) →
    s.fits r.fn .t1 t1 = true → s.fits r.fn .t2 t2 = true →
    ∃ x m, exec (.modelLoadBegin num io t) s = .next x ∧
      CompletedWith (s.at t) x r { status := stOk, detail := 0, value := c.nextModel } ∧ x.models = s.models ++ [m] ∧
      m.id = c.nextModel ∧ m.coll = c.spec.id ∧ m.fn = r.fn ∧ m.st = .loading ∧ m.tensors = readTensors inp n 256 ∧
      m.resident = (byteAt r.entry 49 == 1) ∧ m.readyAt = [] ∧ (x.coll? c.spec.id).map (·.nextModel) = some (c.nextModel + 1) ∧
      (x.fn r.fn).t1Used = (s.fn r.fn).t1Used + t1 ∧ (x.fn r.fn).t2Used = (s.fn r.fn).t2Used + t2 ∧ x.shards = s.shards) ∧
  (∀ (s : State) (num t : Nat) (io : HostIO) (r : Req) (c : Coll) (m : Model) (inp : Bytes),
    Accepted s num 7 io [(50, 2), (64, 64)] .named (some 4) 0 r → byteAt r.entry 48 = 1 → byteAt r.entry 49 < 2 →
    le r.entry 56 8 % 4096 = 0 → s.coll? r.collection = some c → (s.at t).ownersReachable c = true → s.pwr.doldrums = false →
    inp = slice (io.input.getD []) 0 (le r.entry 24 4) → s.model? c.spec.id (le r.entry 52 4) = some m → m.fn = r.fn →
    m.st = .loading → le r.entry 56 8 + inp.length ≤ hdrLength m.header →
    (inp.length % 4096 = 0 ∨ le r.entry 56 8 + inp.length = hdrLength m.header) → s.anyWaits = false → HostTakes io →
    ∃ x, exec (.modelLoadPart num io t) s = .next x ∧ CompletedWith (s.at t) x r (.bare stOk 0) ∧
      x.model? c.spec.id (le r.entry 52 4) =
        some { m with parts := m.parts ++ [(le r.entry 56 8, inp)], lastPart := (s.at t).now } ∧ x.shards = s.shards) ∧
  (∀ (s : State) (coll model t : Nat) (m : Model), s.model? coll model = some m → m.st = .loading →
    (∀ r ∈ s.runs, ¬ (r.coll = coll ∧ r.model = model)) →
    (m.lastPart + 86400 * Config.ticksPerS ≤ (s.at t).now →
      ∃ x, exec (.modelLoadingExpiry coll model t) s = .next x ∧ x = { s.at t with models := x.models, fns := x.fns } ∧
        x.models = s.models.filter fun y => !(y.coll == coll && y.id == model)) ∧
    ((s.at t).now < m.lastPart + 86400 * Config.ticksPerS → exec (.modelLoadingExpiry coll model t) s = .next (s.at t))) ∧
  ∀ (s : State) (num t a : Nat) (io : HostIO) (r : Req) (c : Coll) (i : Instr),
    (i, a) ∈ [(Instr.modelLoadPart num io t, 1), (.modelLoadCommit num [] io t, 2), (.modelLoadCheckpoint num [] io t, 4),
      (.modelLoadPlace num [] io t, 5)] →
    Accepted s num 7 io [(50, 2), (64, 64)] .named (some 4) 0 r → byteAt r.entry 48 = a → byteAt r.entry 49 < 2 →
    le r.entry 56 8 % 4096 = 0 → s.coll? r.collection = some c → s.pwr.doldrums = true → HostTakes io →
    ∃ x, exec i s = .next x ∧ CompletedWith (s.at t) x r { status := stRetry, detail := 1, value := 0, value2 := 0 } ∧
      OnlyCompleted (s.at t) x r

/-- R55, R65, R338 to R343, R367, R373: commit, unload, checkpoint and place go behind what waits at the ledger arbiters of this
node's shards of the collection; in their turn they take a stamp on every one and complete with the first: a package that passes is
READY from its stamps, an unloaded model is absent from them and goes once no run reads it, a checkpoint makes the trained version
durable, a place moves the model to T1 or back. Whether a digest or a program is good is a free value of the model. Model's choices:
logs 40 and 41. -/
def Obligations.ModelVersions : Prop :=
  ∀ (s : State) (num t a : Nat) (io : HostIO) (stamps : List (Nat × Nat)) (r : Req) (c : Coll) (m : Model) (w : LedgerWhat),
    Accepted s num 7 io [(50, 2), (64, 64)] .named (some 4) 0 r → byteAt r.entry 48 = a → byteAt r.entry 49 < 2 →
    s.coll? r.collection = some c → (s.at t).ownersReachable c = true → s.pwr.doldrums = false →
    s.model? c.spec.id (le r.entry 52 4) = some m → HostTakes io → w = .pass (.req ⟨s.nodeId, num⟩) →
    (∀ i ∈ c.shardIds, s.ownerOf i ≠ some s.nodeId → stamps.any (·.1 == i) = true) →
    (a = 2 → m.st = .loading →
      ∃ x, exec (.modelLoadCommit num stamps io t) s = .next x ∧
        (Config.knownProgram (le m.header 4 2) = false →
          CompletedWith (s.at t) x r { status := stUnsupported, detail := 2, value := 0, value2 := 0 }) ∧
        (Config.knownProgram (le m.header 4 2) = true → ∀ why, commitFault m = some why →
          CompletedWith (s.at t) x r { status := stInvalid, detail := 0x30, value := 0, value2 := why } ∧ x.models = s.models) ∧
        (Config.knownProgram (le m.header 4 2) = true → commitFault m = none → LedgerTurn s (s.localShards c) w → ∃ y v,
          CompletedWith (s.at t) x r { status := stOk, detail := 0, value := v } ∧
          x.model? c.spec.id (le r.entry 52 4) = some y ∧ y = { m with st := .ready, readyAt := y.readyAt } ∧
          (∀ i ∈ c.shardIds, ∀ d, s.ownerOf i = some s.nodeId → s.shard? i = some d →
            (i, d.counter + 1) ∈ y.readyAt ∧ (x.shard? i).map (·.counter) = some (d.counter + 1)))) ∧
    (a = 3 → m.st ≠ .absent → LedgerTurn s (s.localShards c) w →
      ∃ x v, exec (.modelLoadUnload num stamps io t) s = .next x ∧
        CompletedWith (s.at t) x r { status := stOk, detail := 0, value := v } ∧
        ((∀ y ∈ s.runs, ¬ (y.coll = c.spec.id ∧ y.model = le r.entry 52 4)) → x.model? c.spec.id (le r.entry 52 4) = none) ∧
        ((∃ y ∈ s.runs, y.coll = c.spec.id ∧ y.model = le r.entry 52 4) → ∃ n, x.model? c.spec.id (le r.entry 52 4) = some n ∧
          n = { m with st := .absent, absentAt := n.absentAt } ∧ x.runs = s.runs) ∧
        ∀ i ∈ c.shardIds, ∀ d, s.ownerOf i = some s.nodeId → s.shard? i = some d →
          (x.shard? i).map (·.counter) = some (d.counter + 1)) ∧
    (a = 4 → m.st = .ready → s.anyWaits = false → LedgerTurn s (s.localShards c) w →
      ∃ x v, exec (.modelLoadCheckpoint num stamps io t) s = .next x ∧
        CompletedWith (s.at t) x r { status := stOk, detail := 0, value := v } ∧
        x.model? c.spec.id (le r.entry 52 4) = some { m with durable := m.version }) ∧
    (a = 5 → m.st = .ready → LedgerTurn s (s.localShards c) w →
      (byteAt r.entry 49 = 0 ∨ m.resident = true ∨
        s.residentParams + s.shareSum c (residentOf m.tensors) Tensor.paramsOf ≤ 480 * 10 ^ 9 ∧
        s.fits m.fn .t1 (s.residentBytes c m.header m.tensors) = true) →
      ∃ x v, exec (.modelLoadPlace num stamps io t) s = .next x ∧
        CompletedWith (s.at t) x r { status := stOk, detail := 0, value := v } ∧
        x.model? c.spec.id (le r.entry 52 4) = some
          { m with resident := byteAt r.entry 49 == 1,
                   t1 := if byteAt r.entry 49 = 1 then (if m.resident then m.t1 else s.residentBytes c m.header m.tensors) else 0 }) ∧
    (∀ i, (i, a) ∈ [(Instr.modelLoadCommit num stamps io t, 2), (.modelLoadUnload num stamps io t, 3),
        (.modelLoadCheckpoint num stamps io t, 4), (.modelLoadPlace num stamps io t, 5)] →
      (a = 2 → m.st = .loading ∧ Config.knownProgram (le m.header 4 2) = true ∧ commitFault m = none) → (a = 3 → m.st ≠ .absent) →
      (4 ≤ a → m.st = .ready) → (a = 4 → s.anyWaits = false) → (a = 5 → byteAt r.entry 49 = 0 ∨ m.resident = true ∨
        s.residentParams + s.shareSum c (residentOf m.tensors) Tensor.paramsOf ≤ 480 * 10 ^ 9 ∧
        s.fits m.fn .t1 (s.residentBytes c m.header m.tensors) = true) →
      ¬ LedgerTurn s (s.localShards c) w →
      ∃ x, exec i s = .next x ∧ x = { s.at t with shards := x.shards } ∧ ShardsButWaiting s x ∧ LedgerWaits x (s.localShards c) w)

/-- R55, R345 to R347, R355 to R364: a MODEL-RUN that passes its checks goes behind what waits at the ledger arbiters; in its turn
it takes its read stamps and its T0 space, or is ST_QUOTA 0, keeps a state under a handle, or is ST_QUOTA 1, and waits while another
run holds the model's window. The first waiting run takes a free window: two slots of the largest unit, or as many bytes as T1 has
for segments of whole tensors, or is ST_QUOTA 1 where not even the largest tensor fits twice; its first layer is asked of every
channel. At its timeout a run ends with ST_RETRY 0. Model's choices: logs 40, 41 and 103. -/
def Obligations.ModelRuns : Prop :=
  (∀ (s : State) (num t n kept t0 : Nat) (io : HostIO) (stamps rs : List (Nat × Nat)) (r : Req) (c : Coll) (m : Model)
    (e inp : Bytes) (kind : Nat × Nat × Nat) (w : LedgerWhat), Accepted s num 8 io [(92, 36)] .named (some 4) (runNeed e kind) r →
    s.run? num = none → e = r.entry → r.collection = le e 4 4 → s.coll? (le e 4 4) = some c →
    s.model? (le e 4 4) (le e 52 4) = some m → kind = Config.entryKind (le m.header 4 2) (byteAt e 48) →
    inp = slice (io.input.getD []) 0 (le e 24 4) → byteAt e 49 < 32 → byteAt e 49 % 4 < 3 → byteAt e 50 < 2 → n = le e 56 4 →
    (le e 88 4 = 0 ∨ bit (s.rights r.fn (le e 88 4)) 1 = true) → (∀ x ∈ s.runChecks r.fn m kind e inp, x.2 = true) →
    seqBads inp (inputSize kind m) n = [] → s.runStamps c stamps = some rs → w = .pass (.req ⟨s.nodeId, num⟩) →
    t0 = (s.homeSequences c n).foldl (fun a i => a + (seqLengths inp n 0).getD i 0) 0 * hdrPerToken m.header →
    kept = (if bit (byteAt e 49) 3 then Config.modelCount (s.free + n) else 0) → HostTakes io →
    (¬ LedgerTurn s (s.localShards c) w → ∃ x, exec (.modelRun num stamps io t) s = .next x ∧
      x = { s.at t with shards := x.shards } ∧ ShardsButWaiting s x ∧ LedgerWaits x (s.localShards c) w) ∧
    (LedgerTurn s (s.localShards c) w → ∃ x, exec (.modelRun num stamps io t) s = .next x ∧
      (m.seenAt rs = none → CompletedWith (s.at t) x r (.bare stRetry 2)) ∧
      (m.seenAt rs = some false → CompletedWith (s.at t) x r (.bare stInvalid 52)) ∧
      (m.seenAt rs = some true → m.degraded = true → CompletedWith (s.at t) x r (.bare stDegraded 0)) ∧
      (m.seenAt rs = some true → m.degraded = false →
        (¬ (s.fits r.fn .t0 t0 = true ∧ s.tilesHold t0 = true) →
          CompletedWith (s.at t) x r (.bare stQuota 0) ∧ x.runs = s.runs) ∧
        (s.fits r.fn .t0 t0 = true → s.tilesHold t0 = true → bit (byteAt e 49) 3 = true → s.fits r.fn .t1 kept = false →
          CompletedWith (s.at t) x r (.bare stQuota 1) ∧ x.runs = s.runs) ∧
        (s.fits r.fn .t0 t0 = true → s.tilesHold t0 = true →
          (bit (byteAt e 49) 3 = true → s.fits r.fn .t1 kept = true ∧ ((s.fn r.fn).handles.map (·.1)).eraseDups.length < 4096) →
          (m.streamed = [] ∨ m.windowBy ≠ none) →
          ∃ y h, x.run? num = some y ∧ y.coll = m.coll ∧ y.model = m.id ∧ y.train = false ∧ y.waiting = !m.streamed.isEmpty ∧
            y.layer = 0 ∧ y.segment = 0 ∧ y.stage = .compute ∧ y.step = 0 ∧ y.t0 = t0 ∧ y.handle = h ∧
            y.due = r.admittedAt + (if le e 68 4 = 0 then 60000 else le e 68 4) * Config.ticksPerMs ∧
            (∀ q ∈ y.seqs, q.2.2 ≤ if kind.2.1 = 2 then le e 64 2 else 0) ∧ y.seqs.length = n ∧
            (bit (byteAt e 49) 3 = false → h = 0) ∧ x.req? num = some { r with body := .run h } ∧ x.models = s.models ∧ x.out = s.out ∧
            ∀ i d, s.shard? i = some d → d.coll = c.spec.id → d.forwardTo = none →
              ∃ f, x.shard? i = some f ∧ f.counter = d.counter ∧ f.readers = d.readers ++ [(.req ⟨s.nodeId, num⟩, d.counter)])))) ∧
  (∀ (s : State) (num t room : Nat) (io : HostIO) (x : Run) (r : Req) (m : Model) (c : Coll), s.run? num = some x →
    s.req? num = some r → x.waiting = true → x.train = false → x.slots = [] → s.model? x.coll x.model = some m →
    s.coll? x.coll = some c → room = (s.release m.windowFn .t1 m.windowT1).t1Free r.fn → HostTakes io →
    (m.streamed = [] → ∃ y z, exec (.modelRun num [] io t) s = .next y ∧ y.run? num = some z ∧ z.waiting = false ∧
      z.slots.head? = some ((x.layer, x.segment), true) ∧ y.models = s.models) ∧
    (m.streamed ≠ [] → (m.windowBy ≠ none ∨ s.firstWaiting m ≠ some num) → exec (.modelRun num [] io t) s = .next (s.at t)) ∧
    (m.streamed ≠ [] → m.windowBy = none → s.firstWaiting m = some num →
      (2 * s.slotBytes c m ≤ room ∨ 2 * s.tensorBytes c m ≤ room →
        ∃ y z, exec (.modelRun num [] io t) s = .next y ∧ y.run? num = some z ∧ z.waiting = false ∧
          z.segmented = decide (room < 2 * s.slotBytes c m) ∧ y.model? x.coll x.model = some
            { m with windowBy := some num, windowAt := none, windowFn := r.fn,
                     windowT1 := if 2 * s.slotBytes c m ≤ room then 2 * s.slotBytes c m else room / 2 * 2 } ∧
          ((∃ p ∈ m.streamsFor (x.routedAt x.step) x.layer, s.storedBytes c p ≠ 0) →
            z.slots = [((x.layer, x.segment), false)] ∧
            ∀ ch ∈ s.channelsOn, Waits y ch (.layer ⟨s.nodeId, num⟩) ∨ s.arbHolds ch (.layer ⟨s.nodeId, num⟩) = true)) ∧
      (room < 2 * s.slotBytes c m → room < 2 * s.tensorBytes c m →
        ∃ y, exec (.modelRun num [] io t) s = .next y ∧ CompletedWith (s.at t) y r (.bare stQuota 1) ∧ y.run? num = none))) ∧
  ∀ (s : State) (num t : Nat) (io : HostIO) (x : Run) (r : Req), s.run? num = some x → s.req? num = some r → x.output = [] →
    HostTakes io →
    (x.due ≤ (s.at t).now →
      ∃ y, exec (.modelRunTimeout num io t) s = .next y ∧ CompletedWith (s.at t) y r (.bare stRetry 0) ∧ y.run? num = none ∧
        ∀ d ∈ y.shards, ∀ z ∈ d.readers, z.1 ≠ .req ⟨s.nodeId, num⟩) ∧
    ((s.at t).now < x.due → exec (.modelRunTimeout num io t) s = .next (s.at t))

/-- R37, R38, R344 to R355, R363, R364: a layer's stream in its turn on every channel completes its slot; a layer whose slot is
complete and whose striped parts have come from every other owner is computed on the tensor clusters of every tile, or for a few
tokens on every stack; where it is routed, tokens go to their experts' owners, in blocks of at most 256 by expert, and the outputs
back; then the next segment, layer or step follows, and at last the run completes (which tokens leave early is a free value), or
with ST_DEGRADED once a tensor of its model lies in lost data. A routed expert that has streamed is waited for no longer and is
cached when T1 holds it; a peer's frame is kept for its layer; an unused window is released after 1 s. Model's choices: logs 40, 41,
103, 104 and 125. -/
def Obligations.LayersOfARun : Prop :=
  (∀ (s : State) (num t : Nat) (io : HostIO) (x : Run) (r : Req) (m : Model) (c : Coll) (y : (Nat × Nat) × Bool) (w : Work),
    s.run? num = some x → s.req? num = some r → s.model? x.coll x.model = some m → s.coll? x.coll = some c →
    x.slots.find? (!·.2) = some y → w = .layer ⟨s.nodeId, num⟩ →
    ((s.at t).turnsAll w s.channelsOn = false → exec (.layerStreamComplete num io t) s = .next (s.at t)) ∧
    ((s.at t).turnsAll w s.channelsOn = true → ∃ z, exec (.layerStreamComplete num io t) s = .next z ∧
      (∀ ch ∈ s.channelsOn, z.arbHolds ch w = false) ∧
      (x.waiting = false → x.output = [] → x.stage = .combine → m.degraded = false → (s.otherOwners c).any (fun o => !x.heard [o] (· == .outputs)) = true →
        (z.run? num).map (·.stage) = some .combine ∧
        (∀ v, z.run? num = some v → v.slots.take x.slots.length = x.slots.map fun a => (a.1, true)) ∧
        (m.striped y.1.1 = true → y.1.2 + 1 = s.segmentsOf x m c y.1.1 →
          ∀ o ∈ s.otherOwners c, FrameTo z o (.activation ⟨s.nodeId, num⟩ y.1.1 .part))) ∧
      (x.waiting = false → x.train = false → x.output = [] → x.step < x.steps → x.stage = .compute → y.1 = (x.layer, x.segment) →
        m.degraded = false → (m.striped x.layer = false ∨ x.heard (s.otherOwners c) (· == .part) = true) →
        hdrExperts m.header = 0 → Served s x m →
        bit (byteAt r.entry 49) 2 = false → HostTakes io → LeavesUnit (s.at t) z x r m c false))) ∧
  (∀ (s : State) (num t : Nat) (io : HostIO) (x : Run) (r : Req) (m : Model) (c : Coll) (others : List Nat) (left done : Bool),
    s.run? num = some x → s.req? num = some r → s.model? x.coll x.model = some m → s.coll? x.coll = some c → x.train = false →
    x.waiting = false → x.output = [] → x.step < x.steps → others = s.otherOwners c → HostTakes io →
    left = (bit (byteAt r.entry 49) 2 && decide (x.layer < hdrLayers m.header) && Config.modelCount s.free % 2 == 1) →
    done = x.slots.any (fun y => y.1 == (x.layer, x.segment) && y.2) →
    (m.degraded = true → ∃ z, exec (.modelRun num [] io t) s = .next z ∧ CompletedWith (s.at t) z r (.bare stDegraded 0) ∧
      z.run? num = none) ∧
    (m.degraded = false → ∃ z, exec (.modelRun num [] io t) s = .next z ∧
      (x.stage = .compute → (done = false ∨ m.striped x.layer = true ∧ x.segment + 1 = s.segmentsOf x m c x.layer ∧
        x.heard others (· == .part) = false) → z = s.at t) ∧
      (x.stage = .compute → done = true → (m.striped x.layer = false ∨ x.heard others (· == .part) = true) →
        (x.small m = true → x.left = none → ∀ i ∈ s.stacksOn, Waits z (0x40 + i) (.layer ⟨s.nodeId, num⟩) ∨
          s.arbHolds (0x40 + i) (.layer ⟨s.nodeId, num⟩) = true) ∧
        (x.small m = false → ∀ i ∈ s.tilesOn, s.arbHolds (tensorArb i) (.layer ⟨s.nodeId, num⟩) = false → s.tileReady i = false →
          (z.run? num).map (·.stage) = some .compute ∧ Waits z (tensorArb i) (.layer ⟨s.nodeId, num⟩)) ∧
        (Served s x m → (hdrExperts m.header = 0 ∨ hdrLayers m.header ≤ x.layer ∨ x.segment + 1 < s.segmentsOf x m c x.layer) →
          LeavesUnit (s.at t) z x r m c left) ∧
        (Served s x m → hdrExperts m.header ≠ 0 → x.layer < hdrLayers m.header → x.segment + 1 = s.segmentsOf x m c x.layer →
          (∃ y, z.run? num = some y ∧ y.stage = .exchange ∧ y.layer = x.layer ∧
            ∀ p ∈ y.routes, p.1 < x.homeTokens ∧ p.2 < hdrExperts m.header ∧ s.ownerOf (expertShard c p.2) = some s.nodeId) ∧
          ∀ o ∈ others, ∃ l, FrameTo z o (.activation ⟨s.nodeId, num⟩ x.layer (.tokens l)) ∧
            ∀ p ∈ l, s.ownerOf (expertShard c p.2) = some o)) ∧
      (x.stage = .exchange → (∀ o ∈ others, ∃ l, (o, x.layer, Exchange.tokens l) ∈ x.inbox) → ∃ y, z.run? num = some y ∧
        y.stage = .experts ∧ (∀ b ∈ y.blocks, b.2 ≠ [] ∧ b.2.length ≤ 256 ∧ expertShard c b.1 ∈ s.localShards c) ∧
        (∀ p ∈ x.routes, p.2 < hdrExperts m.header → expertShard c p.2 ∈ s.localShards c → ∃ b ∈ y.blocks, b.1 = p.2 ∧ (s.nodeId, p.1) ∈ b.2) ∧
        (∀ e ∈ y.waitingExperts, ∀ ch ∈ s.channelsOn, Waits z ch (.expert ⟨s.nodeId, num⟩ e) ∨
          s.arbHolds ch (.expert ⟨s.nodeId, num⟩ e) = true)) ∧
      (x.stage = .experts → x.blocks = [] → (z.run? num).map (·.stage) = some .combine ∧
        ∀ o ∈ others, FrameTo z o (.activation ⟨s.nodeId, num⟩ x.layer .outputs)) ∧
      (x.stage = .experts → ∀ b, x.blocks.find? (fun b => !x.waitingExperts.contains b.1) = some b → Served s x m →
        (z.run? num).map (·.blocks) = some (x.blocks.filter (·.1 != b.1))) ∧
      (x.stage = .combine → (x.heard others (· == .outputs) = true → LeavesUnit (s.at t) z x r m c left) ∧
        (x.heard others (· == .outputs) = false → z = s.at t)))) ∧
  (∀ (s : State) (num expert n : Nat) (x : Run) (r : Req) (w : Work), s.run? num = some x → s.req? num = some r →
    w = .expert ⟨s.nodeId, num⟩ expert → ∃ y, exec (.routedExpertStreamComplete num expert) s = .next y ∧
      ((expert ∉ x.waitingExperts ∨ s.turnsAll w s.channelsOn = false) → y = s) ∧
      (expert ∈ x.waitingExperts → s.turnsAll w s.channelsOn = true →
        y.run? num = some { x with waitingExperts := x.waitingExperts.filter (· != expert) } ∧
        y = { s with runs := y.runs, fns := y.fns, models := y.models, arbs := y.arbs } ∧
        ∀ m c, s.model? x.coll x.model = some m → s.coll? x.coll = some c →
          n = (m.tensors.filter fun t => t.layer == x.layer && t.placement == 2 && t.expert == expert).foldl
            (fun n t => n + s.storedBytes c t) 0 →
          m.expertCache.foldl (fun n y => n + y.2.2.1) 0 + n ≤ m.allowance → s.fits r.fn .t1 n = true → n ≤ s.t1Free r.fn →
          (y.model? x.coll x.model).map (·.expertCache) = some (m.expertCache ++ [(x.layer, expert, n, r.fn)]))) ∧
  (∀ (s : State) (k : Key) (peer layer : Nat) (p : Exchange) (x : Run), s.run? k.num = some x →
    (k.origin = s.nodeId → ∃ y, exec (.activationExchangeReceive k peer ⟨layer, p⟩) s = .next y ∧ y = { s with runs := y.runs } ∧
      y.run? k.num = some { x with inbox := x.inbox ++ [(peer, layer, p)] }) ∧
    (k.origin ≠ s.nodeId → exec (.activationExchangeReceive k peer ⟨layer, p⟩) s = .next s)) ∧
  ∀ (s : State) (coll model t a : Nat) (m : Model), s.model? coll model = some m → m.windowBy = none → m.windowAt = some a →
    m.windowFn < s.fns.length →
    (a + Config.ticksPerS ≤ (s.at t).now →
      ∃ y, exec (.windowRelease coll model t) s = .next y ∧ y.model? coll model = some { m with windowAt := none, windowT1 := 0 } ∧
        (y.fn m.windowFn).t1Used = (s.fn m.windowFn).t1Used - m.windowT1 ∧
        y = { s.at t with models := y.models, fns := y.fns }) ∧
    ((s.at t).now < a + Config.ticksPerS → exec (.windowRelease coll model t) s = .next (s.at t))

/-- R55, R366 to R374: a TRAIN-STEP that passes its checks goes behind what waits at the ledger arbiters, takes its read stamps and
its T0 space and waits for its model's trainer; the first that waits takes a free trainer; a forward and a backward pass go over the
layers and at their end the gradients are accumulated, where the step without apply completes; at the switch of finite values the
new version is current at the next stamp of the model's shard, the accumulator is cleared and the step completes with the stamp;
values that are not finite take no stamp. Model's choices: logs 40 and 41. -/
def Obligations.Training : Prop :=
  (∀ (s : State) (num t t0 : Nat) (io : HostIO) (stamps rs : List (Nat × Nat)) (r : Req) (c : Coll) (m : Model) (e inp : Bytes)
    (w : LedgerWhat), Accepted s num 9 io [(84, 44)] .named (some 4) 32 r → s.run? num = none → e = r.entry →
    s.coll? r.collection = some c → s.model? r.collection (le e 52 4) = some m → inp = slice (io.input.getD []) 0 (le e 24 4) →
    byteAt e 48 < 2 → byteAt e 49 < 4 → byteAt e 51 < 2 → 1 ≤ le e 56 4 → le e 56 4 ≤ 65536 →
    (∃ v, fp32Value (le e 60 4) = some v ∧ 0 < v) → (∃ v, fp32Value (le e 64 4) = some v ∧ 0 ≤ v ∧ v < 2 ^ 149) →
    (byteAt e 48 = 1 → (∃ v, fp32Value (le e 68 4) = some v ∧ 0 ≤ v ∧ v < 2 ^ 149) ∧ ∃ v, fp32Value (le e 72 4) = some v ∧ 0 < v) →
    (∃ v, fp32Value (le e 76 4) = some v ∧ 0 ≤ v) → (∃ v, fp32Value (le e 80 4) = some v ∧ 0 ≤ v) → 16 * le e 56 4 ≤ inp.length →
    byteAt e 50 < hdrEntries m.header → s.runStamps c stamps = some rs → w = .pass (.req ⟨s.nodeId, num⟩) →
    t0 = (seqLengths inp (le e 56 4) 0).foldl (· + ·) 0 * hdrPerToken m.header → HostTakes io →
    (¬ LedgerTurn s (s.localShards c) w → ∃ x, exec (.trainStep num stamps io t) s = .next x ∧
      x = { s.at t with shards := x.shards } ∧ ShardsButWaiting s x ∧ LedgerWaits x (s.localShards c) w) ∧
    (LedgerTurn s (s.localShards c) w → m.seenAt rs = some true → m.degraded = false →
      ∃ x, exec (.trainStep num stamps io t) s = .next x ∧
      (s.canTrain c m = false → CompletedWith (s.at t) x r (.bare stUnsupported 3)) ∧
      (s.canTrain c m = true → ¬ (s.fits r.fn .t0 t0 = true ∧ s.tilesHold t0 = true) →
        CompletedWith (s.at t) x r (.bare stQuota 0) ∧ x.runs = s.runs ∧ x.models = s.models) ∧
      (s.canTrain c m = true → s.fits r.fn .t0 t0 = true → s.tilesHold t0 = true → ∃ y, x.run? num = some y ∧ y.train = true ∧
        y.waiting = true ∧ y.layer = 0 ∧ y.step = 0 ∧ y.stage = .compute ∧ y.t0 = t0 ∧ x.out = s.out ∧
        x.model? r.collection (le e 52 4) = some { m with trainWait := m.trainWait ++ [num] } ∧
        x.req? num = some { r with body := .train } ∧
        ∀ i d, s.shard? i = some d → d.coll = c.spec.id → d.forwardTo = none →
          ∃ f, x.shard? i = some f ∧ f.counter = d.counter ∧ f.readers = d.readers ++ [(.req ⟨s.nodeId, num⟩, d.counter)]))) ∧
  (∀ (s : State) (num t : Nat) (io : HostIO) (x : Run) (r : Req) (m : Model) (c : Coll), s.run? num = some x → s.req? num = some r →
    s.model? x.coll x.model = some m → s.coll? x.coll = some c → x.train = true →
    (x.waiting = true → m.trainer = none → m.trainWait.head? = some num → (m.streamed = [] ∨ m.windowBy ≠ none) →
      ∃ y z, exec (.trainStep num [] io t) s = .next y ∧
        y.model? x.coll x.model = some { m with trainer := some num, trainWait := m.trainWait.drop 1 } ∧ y.run? num = some z ∧
        z.waiting = !m.streamed.isEmpty ∧ z.prior = m.accumulated ∧ y.out = s.out ∧ y.shards = s.shards) ∧
    (x.waiting = true → m.trainer ≠ none → m.trainer ≠ some num → exec (.trainStep num [] io t) s = .next (s.at t)) ∧
    (x.waiting = false → x.output = [] → x.step < x.steps → x.stage = .compute → m.degraded = false →
      x.slots.any (fun y => y.1 == (x.layer, x.segment) && y.2) = true →
      (m.striped x.layer = false ∨ x.heard (s.otherOwners c) (· == .part) = true) → Served s x m → HostTakes io →
      ∃ y, exec (.trainStep num [] io t) s = .next y ∧
        ((hdrExperts m.header = 0 ∨ x.segment + 1 < s.segmentsOf x m c x.layer) → x.segment + 1 < s.segmentsOf x m c x.layer →
          RunAt y num x.layer (x.segment + 1) x.step) ∧
        (hdrExperts m.header = 0 → s.segmentsOf x m c x.layer ≤ x.segment + 1 → x.layer < hdrLayers m.header →
          RunAt y num (x.layer + 1) 0 x.step) ∧
        (s.segmentsOf x m c x.layer ≤ x.segment + 1 → hdrLayers m.header ≤ x.layer →
          (x.step = 0 → RunAt y num 0 0 1) ∧
          (x.step = 1 → ∀ bad total, bad = Config.trainNonFinite s.free →
            total = (if bad = 0 then (if bit (byteAt r.entry 49) 1 then 0 else m.accumulated) + le r.entry 56 4 else 0) →
            (bit (byteAt r.entry 49) 0 = true → y.model? x.coll x.model = some { m with accumulated := total } ∧
              y.run? num = some { x with step := 2, nonFinite := bad } ∧ y.out = s.out) ∧
            (bit (byteAt r.entry 49) 0 = false → y.run? num = none ∧ ∃ q, CompletedWith (s.at t) y r q ∧ q.status = stOk ∧
              q.value = 0 ∧ q.value2 = le r.entry 56 4 ∧ le q.data 8 4 = total % 2 ^ 32 ∧ le q.data 12 4 = bad % 2 ^ 32))))) ∧
  ∀ (s : State) (num t bad i : Nat) (io : HostIO) (stamps : List (Nat × Nat)) (x : Run) (r : Req) (m : Model) (c : Coll)
    (w : LedgerWhat), s.run? num = some x → s.req? num = some r → s.model? x.coll x.model = some m → s.coll? x.coll = some c →
    x.train = true → w = .pass (.req ⟨s.nodeId, num⟩) → bad = x.nonFinite + Config.trainNonFinite s.free → i = c.spec.firstShard →
    ((x.waiting = true ∨ x.step < x.steps) → exec (.trainSwitch num stamps io t) s = .next (s.at t)) ∧
    (x.waiting = false → x.steps ≤ x.step → bad = 0 → s.ownerOf i = some s.nodeId → ¬ LedgerTurn s [i] w →
      ∃ y, exec (.trainSwitch num stamps io t) s = .next y ∧ y = { s.at t with free := s.free + 1, shards := y.shards } ∧
        ShardsButWaiting s y ∧ LedgerWaits y [i] w) ∧
    (x.waiting = false → x.steps ≤ x.step → m.st = .ready → m.trainer = some num →
      (bad = 0 → s.ownerOf i = some s.nodeId → LedgerTurn s [i] w) → HostTakes io →
      ∃ y n q, exec (.trainSwitch num stamps io t) s = .next y ∧ CompletedWith (s.at t) y r q ∧ q.status = stOk ∧
        q.value2 = le r.entry 56 4 ∧ y.model? x.coll x.model = some n ∧ n.accumulated = 0 ∧ n.trainer = none ∧ y.run? num = none ∧
        (bad = 0 → s.ownerOf i = some s.nodeId → ∀ d, s.shard? i = some d →
          n.version = d.counter + 1 ∧ q.value = d.counter + 1 ∧ (y.shard? i).map (·.counter) = some (d.counter + 1)) ∧
        (bad = 0 → s.ownerOf i ≠ some s.nodeId → ∀ v, stamps.find? (·.1 == i) = some (i, v) → n.version = v ∧ q.value = v) ∧
        (bad ≠ 0 → n.version = m.version ∧ q.value = 0 ∧ ∀ j, (y.shard? j).map (·.counter) = (s.shard? j).map (·.counter)))

/-! ### Near-bank commands -/

/-- R380 to R384, R389, R390, R395 to R397: no two addresses of the ordinary space share a place, and every bank exists. PIM-EXEC
allocates frames that were no regions, all bytes zero, charged to T1; frees a region that no command uses; writes and reads a
region's bytes exactly; and starts a valid list of steps on the stacks of the first step's mask. A broadcast carries out as many
units of work as 2 µs hold: the stack is asked for again while some are left, the next step begins when every stack has ended, and
the last completes the command; a load step puts its bytes into every unit's operand buffer. Model's choices: logs 2, 42 and 105. -/
def Obligations.NearBankCommands : Prop :=
  (∀ (s : State) (num t n : Nat) (io : HostIO) (r : Req), Accepted s num 10 io [(49, 3), (66, 62)] .zero none (2 * le r.entry 54 2) r →
    byteAt r.entry 48 = 0 → (∀ x ∈ pimChecks r.entry 0 s.frameBytes, x.2 = true) → n = le r.entry 54 2 → HostTakes io →
    (∀ g ∈ s.regions, g.fn ≠ 128) → s.fits r.fn .t1 (n * s.frameBytes) = true → n * s.frameBytes ≤ s.t1Free r.fn →
    s.regions.length + n ≤ 384 → r.fn < s.fns.length →
    ∃ (x : State) (l : List Nat) (q : Compl), exec (.pimExecAllocate num io t) s = .next x ∧ x.regions = s.regions ++ l.map (fun f => ⟨f, r.fn, []⟩) ∧ l.length = n ∧
      l.Nodup ∧ (∀ f ∈ l, f < 384 ∧ ∀ g ∈ s.regions, g.idx ≠ f) ∧ CompletedWith (s.at t) x r q ∧ q.status = stOk ∧ q.detail = 0 ∧
      q.value = n ∧ q.data = l.flatMap (fun f => toLE 2 f) ∧ (x.fn r.fn).t1Used = (s.fn r.fn).t1Used + n * s.frameBytes) ∧
  (∀ (s : State) (num t i : Nat) (io : HostIO) (r : Req) (g : Region), Accepted s num 10 io [(49, 3), (66, 62)] .zero none 0 r →
    i = le r.entry 52 2 → s.region? i = some g → g.fn = r.fn → HostTakes io → r.fn < s.fns.length →
    (byteAt r.entry 48 = 1 → (∀ x ∈ pimChecks r.entry 1 s.frameBytes, x.2 = true) → s.regionUsed r.fn i num = false →
      ∃ x, exec (.pimExecFree num io t) s = .next x ∧ CompletedWith (s.at t) x r (.bare stOk 0) ∧
        x.regions = s.regions.filter (·.idx != i) ∧ (x.fn r.fn).t1Used = (s.fn r.fn).t1Used - s.frameBytes) ∧
    (∀ inp : Bytes, inp = slice (io.input.getD []) 0 (le r.entry 24 4) → byteAt r.entry 48 = 2 →
      (∀ x ∈ pimChecks r.entry 2 s.frameBytes, x.2 = true) → le r.entry 60 4 ≤ inp.length → g.mem.wf = true →
      ∃ x y v, exec (.pimExecWrite num io t) s = .next x ∧
        CompletedWith (s.at t) x r { status := stOk, detail := 0, value := le r.entry 60 4, value2 := v } ∧
        x.region? i = some y ∧ y.fn = g.fn ∧ y.mem.wf = true ∧
        memReadAll y.mem (le r.entry 56 4) (le r.entry 60 4) = inp.take (le r.entry 60 4) ∧
        ∀ a, a < le r.entry 56 4 ∨ le r.entry 56 4 + le r.entry 60 4 ≤ a → memRead y.mem a = memRead g.mem a) ∧
    (byteAt r.entry 48 = 3 → (∀ x ∈ pimChecks r.entry 3 s.frameBytes, x.2 = true) → le r.entry 60 4 ≤ le r.entry 40 4 →
      ∃ x q, exec (.pimExecRead num [] io t) s = .next x ∧ x.regions = s.regions ∧ CompletedWith (s.at t) x r q ∧ q.status = stOk ∧
        q.detail = 0 ∧ q.value = le r.entry 60 4 ∧ q.data = memReadAll g.mem (le r.entry 56 4) (le r.entry 60 4) ∧
        q.dataReturned = le r.entry 60 4)) ∧
  (∀ (s : State) (num t : Nat) (io : HostIO) (r : Req) (inp : Bytes) (l : List PimStep) (p : PimStep) (ps : List PimStep),
    inp = slice (io.input.getD []) 0 (le r.entry 24 4) → l = (List.range (le r.entry 64 2)).map (fun i => readStep inp (32 * i)) →
    badFields l = [] →
    Accepted s num 10 io [(49, 3), (66, 62)] .zero none (4 * (l.filter (·.reduces)).length) r → byteAt r.entry 48 = 4 →
    (∀ x ∈ pimChecks r.entry 4 s.frameBytes, x.2 = true) → 32 * le r.entry 64 2 ≤ inp.length →
    (∀ x ∈ l, ∀ y ∈ x.refs, s.ownsRegion r.fn (refRegion y) = true) →
    (∀ x ∈ l, s.stepGood x inp.length = true) → l = p :: ps → s.pimRuns.find? (·.num == num) = none →
    ∃ x z, exec (.pimExecRun num io t) s = .next x ∧ x.pimRuns = s.pimRuns ++ [z] ∧ z.num = num ∧ z.steps = l ∧ z.idx = 0 ∧ z.bcasts = 0 ∧
      x.req? num = some { r with body := .pim } ∧
      (∀ c, c < 32 → bit p.mask c = true → Waits x (0x40 + c) (.pimStep ⟨s.nodeId, num⟩ 0)) ∧
      x = { s.at t with reqs := x.reqs, pimRuns := x.pimRuns, arbs := x.arbs }) ∧
  (∀ (s : State) (stack num t d total : Nat) (k : Key) (a : ArbReq) (p : PimRun) (x : PimStep) (struck : List (Nat × Nat)),
    (s.arb (0x40 + stack)).granted = [] → (s.at t).arbPick (s.arb (0x40 + stack)) = some a → a.background = false →
    a.work = .pimStep k p.idx → k.num = num → s.pimRuns.find? (·.num == num) = some p → p.steps[p.idx]? = some x →
    p.left.find? (·.1 == stack) = some (stack, d) → total = (if x.op = 1 then 1 else x.items) →
    ∃ y, exec (.broadcast stack struck t) s = .next y ∧
      (x.op = 1 → y.regions = s.regions ∧ (x.buf + x.len ≤ 16380 ∨ x.reduces = false → ∀ u, u < 128 →
        (∀ b ∈ s.operandBufs, b.2.wf = true) →
        memReadAll (y.operandBuf stack u) x.buf x.len = slice p.input x.extent x.len)) ∧
      (d + x.perBroadcast < total → ∃ z, y.pimRuns.find? (·.num == num) = some z ∧ z.idx = p.idx ∧ z.bcasts = p.bcasts + 1 ∧
        z.left.find? (·.1 == stack) = some (stack, d + x.perBroadcast) ∧ Waits y (0x40 + stack) (.pimStep ⟨s.nodeId, num⟩ p.idx)) ∧
      (total ≤ d + x.perBroadcast → p.left.filter (·.1 != stack) ≠ [] → ∃ z, y.pimRuns.find? (·.num == num) = some z ∧
        z.idx = p.idx ∧ z.bcasts = p.bcasts + 1 ∧ z.left = p.left.filter (·.1 != stack)) ∧
      (total ≤ d + x.perBroadcast → p.left.filter (·.1 != stack) = [] → ∀ x', p.steps[p.idx + 1]? = some x' →
        ∃ z, y.pimRuns.find? (·.num == num) = some z ∧ z.idx = p.idx + 1 ∧ z.bcasts = p.bcasts + 1 ∧
          ∀ i, i < 32 → bit x'.mask i = true → Waits y (0x40 + i) (.pimStep ⟨s.nodeId, num⟩ (p.idx + 1))) ∧
      (total ≤ d + x.perBroadcast → p.left.filter (·.1 != stack) = [] → p.steps.length = p.idx + 1 → ∀ r, s.req? num = some r →
        p.hostCq = true → p.hostOut = true → struck = [] → ∃ q, y.pimRuns.find? (·.num == num) = none ∧ CompletedWith (s.at t) y r q ∧
          q.status = (if p.struck = [] then stOk else stDegraded) ∧ q.detail = min p.struck.length 0xFFFF ∧ q.value = p.bcasts + 1 ∧
          q.dataReturned = 4 * (p.reduced.length + if x.reduces then 1 else 0))) ∧
  ∀ (stacks_ frames : List Nat) (S a b : Nat) (p q : Place), stacks_.Nodup → frames.Nodup → stacks_.length = S → S ∈ [8, 16, 24, 32] →
    interleave stacks_ frames a = some p → interleave stacks_ frames b = some q → p.bank < 256 ∧ (p = q → a = b)

/-! ### Barriers, flushes and windows -/

/-- R55, R68, R73, R74, R76, R134: a queue-mode BARRIER waits until no earlier command of its queue is outstanding, then completes,
and its queue is held no longer; a shard-mode BARRIER waits until every earlier mutation of its queue on the shard is stamped, goes
behind what waits at the ledger arbiter and completes with the shard's counter; it asks the node that serves a peer's shard, or one
that has moved, and completes with that node's answer. Model's choices: log 37. -/
def Obligations.Barriers : Prop :=
  (∀ (s : State) (num t : Nat) (io : HostIO) (r : Req), Accepted s num 0x0B io [(49, 3), (55, 73)] .zero none 0 r →
    byteAt r.entry 48 = 0 → barrierTarget r.entry = 0 →
    ∃ x, exec (.barrierQueue num io t) s = .next x ∧ x.req? num = some { r with body := .barrierQ } ∧
      x = { s.at t with reqs := x.reqs, queues := x.queues } ∧ (∀ m, m ≠ num → x.req? m = s.req? m)) ∧
  (∀ (s : State) (q t : Nat) (io : HostIO) (r : Req), (s.reqs.find? fun r => r.queue == q && r.body == .barrierQ) = some r →
    HostTakes io →
    ((∀ y ∈ s.reqs, y.queue = q → r.seq ≤ y.seq) →
      ∃ x, exec (.barrierQueueRelease q io t) s = .next x ∧ CompletedWith (s.at t) x r (.bare stOk 0) ∧
        (∀ u, x.queue? q = some u → u.barrier ≠ some r.num) ∧ x.shards = s.shards) ∧
    ((∃ y ∈ s.reqs, y.queue = q ∧ y.seq < r.seq) → exec (.barrierQueueRelease q io t) s = .next (s.at t))) ∧
  ∀ (s : State) (num t server shard : Nat) (io : HostIO) (r : Req) (reply : Option (Option Nat)) (sent earlier : Bool) (w : LedgerWhat),
    shard = barrierTarget r.entry → s.serverOf shard = some server → HostTakes io → w = .barrier ⟨s.nodeId, num⟩ →
    (Accepted s num 0x0B io [(49, 3), (55, 73)] .zero (some 6) 0 r ∧ byteAt r.entry 48 = 1 ∧ sent = false ∨
      s.req? num = some r ∧ r.body = .barrierShard sent) →
    earlier = (s.reqs.any fun x => x.queue == r.queue && decide (x.seq < r.seq) &&
      x.mutates shard (((s.colls.find? fun c => c.shardIds.contains shard).map (·.spec.id)).getD 0)) →
    ∃ x, exec (.barrierShard num reply io t) s = .next x ∧
      (earlier = true → x.req? num = some { r with body := .barrierShard sent } ∧ x.out = s.out ∧ x.shards = s.shards) ∧
      (earlier = false → server = s.nodeId → ∀ d, s.shard? shard = some d →
        (LedgerTurn s [shard] w → CompletedWith (s.at t) x r { status := stOk, detail := 0, value := d.counter } ∧ ShardsButWaiting s x ∧
          ∀ u ∈ x.queues, ∀ z ∈ u.shardBarriers, z.1 ≠ num) ∧
        (¬ LedgerTurn s [shard] w → x.req? num = some { r with body := .barrierShard false } ∧ x.out = s.out ∧
          ShardsButWaiting s x ∧ LedgerWaits x [shard] w)) ∧
      (earlier = false → server ≠ s.nodeId →
        (sent = false → x.req? num = some { r with body := .barrierShard true } ∧
          FrameTo x server (.barrierShare ⟨s.nodeId, num⟩ shard) ∧ x.out = s.out) ∧
        (sent = true → reply = none → x = s.at t) ∧
        (sent = true → reply = some none → CompletedWith (s.at t) x r (.bare stRetry 0)) ∧
        ∀ f, sent = true → reply = some (some f) → CompletedWith (s.at t) x r { status := stOk, detail := 0, value := f })

/-- R40, R55, R434, R435: a FLUSH of a collection goes behind what waits at the ledger arbiters of its shards here, takes a read
stamp on each, asks its other owners, and completes when every journal entry it covers is programmed, here and there, with the
counts of all; one of collection 0 covers what lay in the write buffer; the counts of a resource's window start again every 10 ms.
Model's choices: logs 36, 37 and 39. -/
def Obligations.FlushAndWindows : Prop :=
  (∀ (s : State) (num t : Nat) (io : HostIO) (r : Req) (c : Coll) (here : List Shard) (w : LedgerWhat),
    Accepted s num 0x0C io [(48, 80)] .either (some 1) 0 r → le r.entry 4 4 ≠ 0 → s.coll? r.collection = some c →
    here = s.shards.filter (fun d => d.forwardTo.isNone && d.coll == c.spec.id) → w = .pass (.req ⟨s.nodeId, num⟩) →
    (LedgerTurn s (here.map (·.id)) w → ∃ (x : State) (n : Nat), exec (.flush num io t) s = .next x ∧
      x.req? num = some { r with body := .flush (here.map fun d => (d.id, d.counter)) false [] n here.length } ∧
      (∀ i d, s.shard? i = some d → d ∈ here →
        ∃ e, x.shard? i = some e ∧ e.counter = d.counter ∧ e.readers = d.readers ++ [(.req ⟨s.nodeId, num⟩, d.counter)]) ∧
      (∀ o ∈ s.otherOwners c, FrameTo x o (.flushShare ⟨s.nodeId, num⟩ c.spec.id)) ∧ x.out = s.out ∧ x.tier = s.tier) ∧
    (¬ LedgerTurn s (here.map (·.id)) w → ∃ x, exec (.flush num io t) s = .next x ∧ x = { s.at t with shards := x.shards } ∧
      ShardsButWaiting s x ∧ LedgerWaits x (here.map (·.id)) w)) ∧
  (∀ (s : State) (num t : Nat) (io : HostIO) (r : Req), Accepted s num 0x0C io [(48, 80)] .either none 0 r → le r.entry 4 4 = 0 →
    ∃ (x : State) (l : List Nat), exec (.flush num io t) s = .next x ∧ x = { s.at t with reqs := x.reqs } ∧
      x.req? num = some { r with body := .flush [] true l l.length 0 } ∧
      ∀ j ∈ s.tier.journal, j.unprogrammed = true → j.inBuffer = true → j.at_ ≤ r.admittedAt → j.seq ∈ l) ∧
  (∀ (s : State) (num t count shards : Nat) (io : HostIO) (r : Req) (l : List (Nat × Nat)) (waiting : List Nat) (all : Bool)
    (peers : List (Nat × Option (Nat × Nat))) (others : List Nat) (open_ : Bool), s.req? num = some r →
    r.body = .flush l all waiting count shards → HostTakes io →
    (others = if all then [] else match s.coll? r.collection with | some c => s.otherOwners c | none => []) →
    open_ = s.tier.journal.any (fun j => j.unprogrammed && (if all then waiting.contains j.seq else l.any j.covered)) →
    ((open_ = true ∨ ∃ o ∈ others, peers.find? (·.1 == o) = none) → exec (.flushDone num peers io t) s = .next (s.at t)) ∧
    (open_ = false → (∀ o ∈ others, ∃ v, peers.find? (·.1 == o) = some v) →
      ∃ x, exec (.flushDone num peers io t) s = .next x ∧
        (∀ y ∈ l, ∀ d, x.shard? y.1 = some d → ∀ z ∈ d.readers, z.1 ≠ .req ⟨s.nodeId, num⟩) ∧
        ((∃ o ∈ others, peers.find? (·.1 == o) = some (o, none)) → CompletedWith (s.at t) x r (.bare stRetry 0)) ∧
        (∀ got : List (Nat × Nat), others.map (fun o => (peers.find? (·.1 == o)).bind (·.2)) = got.map some →
          CompletedWith (s.at t) x r { status := stOk, detail := 0, value := count + (got.map (·.1)).sum,
                                       value2 := shards + (got.map (·.2)).sum }))) ∧
  ∀ (s : State) (arb t : Nat), (arb < 0x20 ∨ 0x40 ≤ arb ∧ arb < 0x60 ∨ arb = 0x80 ∨ 0x90 ≤ arb ∧ arb < 0x94 ∨ 0x100 ≤ arb ∧ arb < 0x108) →
    ((s.arb arb).windowStart + 10 * Config.ticksPerMs ≤ (s.at t).now →
      ∃ x, exec (.backgroundWindow arb t) s = .next x ∧ x = { s.at t with arbs := x.arbs } ∧
        x.arb arb = { s.arb arb with windowStart := (s.at t).now / (10 * Config.ticksPerMs) * (10 * Config.ticksPerMs),
                                     bgHeld := 0, bgBy := [], rbHeld := 0, sent := 0 } ∧ ∀ a, a ≠ arb → x.arb a = s.arb a) ∧
    ((s.at t).now < (s.arb arb).windowStart + 10 * Config.ticksPerMs → exec (.backgroundWindow arb t) s = .next (s.at t))

/-! ### Upkeep of lists, tombstones, rows and shards -/

/-- R40, R55, R275, R282, R289, R290: a list whose compaction is due is planned and, in its turn at the ledger arbiter, gets a cut
at the counter, held as a reader. In the plan's turn, as background work under the ceilings of its resources, the records that the
deletion filter keeps at the cut are written as the next version; in its turn at the ledger arbiter it is visible from the stamp W
that it takes. Once no reader is below W the older versions and the entries folded in go, and then their chunks. Model's choices:
logs 39, 43, 61, 89 and 98. -/
def Obligations.Compaction : Prop :=
  (∀ (s : State) (list t : Nat) (l : LList) (d : Shard) (c : Coll) (urgent : Bool) (since : Nat) (w : LedgerWhat), s.list? list = some l →
    s.shard? l.shard = some d → s.coll? d.coll = some c → l.retiredW = none → l.maint = none → d.stage = .formed → d.forwardTo = none →
    d.lost = false → (s.at t).compactionDue c d l = some (urgent, since) → list ∉ l.neighbours → w = .pass (.maint list) →
    (d.turn w = true → ∃ x e p, exec (.compactionPlan list t) s = .next x ∧
      x.list? list = some { l with urgent := false, maint := some ⟨s.planKind d l, d.counter, urgent, p, (s.at t).now, since, false, none⟩ } ∧
      (s.planKind d l ≠ 2 → p = none) ∧ (∀ i, i ≠ list → p ≠ some i → x.list? i = s.list? i) ∧
      (∀ i y, p = some i → s.list? i = some y → i ∈ l.neighbours ∧ x.list? i =
        some { y with maint := some ⟨3, d.counter, urgent, some list, (s.at t).now, since, false, none⟩ }) ∧
      x.shard? l.shard = some e ∧ e.readers = d.readers ++ [(.maint list, d.counter)] ∧ e.counter = d.counter ∧ x.tier = s.tier) ∧
    (d.turn w = false → ∃ x, exec (.compactionPlan list t) s = .next x ∧ x = { s.at t with lists := x.lists, shards := x.shards } ∧
      x.list? list = some { l with urgent := false, maint := some ⟨0, 0, urgent, none, (s.at t).now, since, false, none⟩ } ∧
      ShardsButWaiting s x ∧ LedgerWaits x [d.id] w)) ∧
  (∀ (s : State) (list t : Nat) (l : LList) (d : Shard) (c : Coll) (m : Maint) (arbs : List Nat) (w : LedgerWhat) (u : Work),
    s.list? list = some l → s.shard? l.shard = some d → s.coll? d.coll = some c → l.maint = some m → m.kind = 0 → m.cut ≠ 0 →
    m.switched = none → s.pwr.doldrums = false → s.commitLimit = false → s.programsWait (s.compactChannel l.channel) = false →
    w = .pass (.maint list) → u = .upkeep 0x12 list → arbs = s.writeArbs l →
    (m.written = false → s.planBefore l m = true → exec (.compactionSwitch list t) s = .next (s.at t)) ∧
    (m.written = false → s.planBefore l m = false → ¬ BackgroundTurn (s.at t) arbs u →
      ∃ x, exec (.compactionSwitch list t) s = .next x ∧ BackgroundWaits (s.at t) x arbs u) ∧
    ((m.written = true ∨ s.planBefore l m = false ∧ BackgroundTurn (s.at t) arbs u) →
      ∃ x y, exec (.compactionSwitch list t) s = .next x ∧ x.list? list = some y ∧ y.gb = l.gb ∧
        (∀ i, i ≠ list → x.list? i = s.list? i) ∧
        (d.turn w = true → ∃ v, y.versions = l.versions ++ [v] ∧ v.cut = m.cut ∧ v.switch = d.counter + 1 ∧
          (∀ z ∈ l.versions, z.epoch < v.epoch) ∧ v.pages.flatMap (fun p => p) = versionRecords v.epoch (d.keeps l m.cut) ∧
          y.maint = some { m with written := true, switched := some (d.counter + 1) } ∧
          (x.shard? l.shard).map (·.counter) = some (d.counter + 1) ∧ ∀ i, i ≠ l.shard → x.shard? i = s.shard? i) ∧
        (d.turn w = false → y = { l with maint := some { m with written := true } } ∧ ShardsButWaiting s x ∧ LedgerWaits x [d.id] w))) ∧
  (∀ (s : State) (list t w : Nat) (l : LList) (d : Shard) (c : Coll) (m : Maint), s.list? list = some l → s.shard? l.shard = some d →
    s.coll? d.coll = some c → l.maint = some m → m.kind = 0 → m.switched = some w →
    (d.drainedBelow w = true →
      ∃ x y, exec (.compactionRelease list t) s = .next x ∧ x.list? list = some y ∧ y.maint = none ∧
        y.versions = l.versions.filter (fun v => decide (w ≤ v.switch)) ∧
        y.gb = l.gb.filter (fun e => e.stamp == 0 || decide (m.cut < e.stamp)) ∧ y.oldChunks = l.oldChunks + l.chunks ∧
        (x.shard? l.shard).map (·.counter) = some d.counter ∧ ∀ i, i ≠ list → x.list? i = s.list? i) ∧
    (d.drainedBelow w = false → exec (.compactionRelease list t) s = .next (s.at t))) ∧
  ∀ (s : State) (list : Nat) (l : LList) (d : Shard) (c : Coll), s.list? list = some l → s.shard? l.shard = some d →
    s.coll? d.coll = some c → l.oldChunks ≠ 0 → (∀ a ∈ s.arbs, a.granted = []) → s.chargedFn c < s.fns.length →
    ∃ x, exec (.guestbookChunkFree list) s = .next x ∧ x = { s with lists := x.lists, fns := x.fns } ∧
      x.list? list = some { l with oldChunks := 0 } ∧
      (x.fn (s.chargedFn c)).gbUsed = (s.fn (s.chargedFn c)).gbUsed - 16 * l.oldChunks

/-- R40, R55, R175, R268, R289, R292, R294 to R296: every 10 s the visible records of a shard and its lists are counted for its mean
list length; in the plan's turn, as background work, the new lists of a split or merge are made, then the list and its partner are
closed, and in its turn at the ledger arbiter it takes W, retires them and makes their successors, born at W; a split for which its
level-1 centroid has no room is a compaction again. A retired list that no reader needs gives up its versions and its identifier; a
repaired graph names only live lists of the shard. Model's choices: logs 43, 89 and 99. -/
def Obligations.SplitsAndMerges : Prop :=
  (∀ (s : State) (shard t : Nat) (d : Shard), s.shard? shard = some d →
    (d.lenAt + 10 * Config.ticksPerS ≤ (s.at t).now →
      ∃ x, exec (.listLengthTick shard t) s = .next x ∧ x = { s.at t with shards := x.shards } ∧
        ∃ n, x.shard? shard = some { d with lenAt := (s.at t).now, meanRecords := n, meanLists := (s.liveLists shard).length } ∧
          n = (s.liveLists shard).foldl (fun n l => n + (d.keeps l d.counter).length) 0) ∧
    ((s.at t).now < d.lenAt + 10 * Config.ticksPerS → exec (.listLengthTick shard t) s = .next (s.at t))) ∧
  (∀ (s : State) (list t : Nat) (l : LList) (d : Shard) (c : Coll) (m : Maint) (arbs : List Nat) (w : LedgerWhat) (u : Work),
    s.list? list = some l → s.shard? l.shard = some d → s.coll? d.coll = some c → l.maint = some m → (m.kind = 1 ∨ m.kind = 2) →
    m.cut ≠ 0 → m.switched = none → s.pwr.doldrums = false → s.commitLimit = false → s.programsWait s.homeChannel = false →
    w = .pass (.maint list) → u = .upkeep 0x13 list → arbs = s.writeArbs l ++ [tensorArb (s.homeTile list), 0x80] →
    (m.written = false → s.planBefore l m = true → exec (.splitMergeSwitch list t) s = .next (s.at t)) ∧
    (m.written = false → s.planBefore l m = false → ¬ BackgroundTurn (s.at t) arbs u →
      ∃ x, exec (.splitMergeSwitch list t) s = .next x ∧ BackgroundWaits (s.at t) x arbs u) ∧
    (m.written = false → s.planBefore l m = false → BackgroundTurn (s.at t) arbs u →
      ∃ x, exec (.splitMergeSwitch list t) s = .next x ∧ x.list? list = some { l with maint := some { m with written := true } } ∧
        (∀ i, i ≠ list → x.list? i = s.list? i) ∧ x.shards = s.shards) ∧
    (m.written = true → l.closed = false →
      ∃ x, exec (.splitMergeSwitch list t) s = .next x ∧ x = { s.at t with lists := x.lists } ∧
        x.list? list = some { l with closed := true } ∧
        ∀ i y, m.partner = some i → s.list? i = some y → x.list? i = some { y with closed := true }) ∧
    (m.written = true → l.closed = true → d.turn w = false →
      ∃ x, exec (.splitMergeSwitch list t) s = .next x ∧ x = { s.at t with shards := x.shards } ∧ ShardsButWaiting s x ∧
        LedgerWaits x [d.id] w) ∧
    (m.written = true → l.closed = true → d.turn w = true → m.kind = 1 → 1024 ≤ s.headsOf l → m.partner = none →
      ∃ x, exec (.splitMergeSwitch list t) s = .next x ∧ (x.shard? l.shard).map (·.counter) = some d.counter ∧
        x.list? list = some { l with closed := false, maint := some { m with kind := 0, partner := none, written := false } }) ∧
    (∀ ids v, m.written = true → l.closed = true → d.turn w = true → (m.kind = 1 → s.headsOf l < 1024) →
      s.takeLists (if m.kind = 1 then 2 else 1) = some (ids, v) → ids.Nodup → list ∉ ids → (∀ i, m.partner = some i → i ∉ ids) →
      ∃ x y, exec (.splitMergeSwitch list t) s = .next x ∧ x.list? list = some y ∧ y.retiredW = some (d.counter + 1) ∧
        y.successors = ids ∧ (x.shard? l.shard).map (·.counter) = some (d.counter + 1) ∧
        (∀ i z, m.partner = some i → x.list? i = some z → z.retiredW = some (d.counter + 1) ∧ z.successors = ids) ∧
        ∀ i ∈ ids, ∃ z ∈ x.lists, z.id = i ∧ z.shard = l.shard ∧ z.bornW = d.counter + 1 ∧ z.retiredW = none ∧ z.l1 = l.l1)) ∧
  (∀ (s : State) (list w : Nat) (l : LList) (d : Shard) (c : Coll), s.list? list = some l → s.shard? l.shard = some d →
    s.coll? d.coll = some c → l.retiredW = some w → d.drainedBelow w = true → l.maint ≠ none →
    ∃ x y, exec (.splitMergeRelease list) s = .next x ∧ x = { s with lists := x.lists, fns := x.fns, tier := x.tier } ∧
      x.list? list = some y ∧ y.versions = [] ∧ y.gb = [] ∧ y.maint = none ∧ y.retiredW = some w ∧ y.successors = l.successors ∧
      x.tier.freeLists = s.tier.freeLists ++ [list] ∧ ∀ i, i ≠ list → x.list? i = s.list? i) ∧
  ∀ (s : State) (shard : Nat) (d : Shard) (c : Coll) (arbs : List Nat) (u : Work), s.shard? shard = some d → s.coll? d.coll = some c →
    arbs = [tensorArb (s.homeTile shard)] → u = .upkeep 0x13 (16777216 + shard) →
    (¬ BackgroundTurn s arbs u → ∃ x, exec (.graphRepair shard) s = .next x ∧ BackgroundWaits s x arbs u) ∧
    (BackgroundTurn s arbs u → ∃ x, exec (.graphRepair shard) s = .next x ∧
      x = { s with lists := x.lists, arbs := x.arbs, free := x.free } ∧
      (∀ y ∈ x.lists, y.shard = shard → y.retiredW = none → ∀ i ∈ y.neighbours,
        ∃ z ∈ s.lists, z.id = i ∧ z.shard = shard ∧ z.retiredW = none) ∧
      x.lists.map (fun y => { y with neighbours := [] }) = s.lists.map (fun y => { y with neighbours := [] }))

/-- R282 to R284, R300, R306, R613: with no reader below a delete, and the slot not taken again, its tombstone is folded into the
slot's bit; a tombstone whose lists have all switched past it goes; a delete before a re-insert becomes a guard; a deleted slot
whose lists have switched is free; a history entry that no reader needs goes. Model's choices: log 61. -/
def Obligations.TombstonesAndHistory : Prop :=
  (∀ (s : State) (shard id stamp : Nat) (d : Shard) (c : Coll) (u : Tomb), s.shard? shard = some d → s.coll? d.coll = some c →
    (d.tombs.find? fun u => isTomb id stamp u && u.kind == 0) = some u →
    (stamp ≤ d.oldestRead → d.rebornAfter u.slot stamp = none →
      ∃ x e, exec (.tombstoneFold shard id stamp) s = .next x ∧ x.shard? shard = some e ∧
        e = { d with tombs := e.tombs, slots := e.slots } ∧
        (∀ y, y ∈ e.tombs ↔ y ∈ d.tombs ∧ ¬ (y.id = id ∧ y.stamp = stamp ∧ y.kind = 0)) ∧
        (∀ y, d.slot? u.slot = some y → e.slot? u.slot = some { y with bit := true, deletedAt := stamp }) ∧
        (∀ n, n ≠ u.slot → e.slot? n = d.slot? n) ∧ x = { s with shards := x.shards, fns := x.fns }) ∧
    (d.oldestRead < stamp → exec (.tombstoneFold shard id stamp) s = .next s) ∧
    (∀ i, d.rebornAfter u.slot stamp = some i → i ≤ d.oldestRead →
      ∃ x e, exec (.tombstoneGuardConvert shard id stamp) s = .next x ∧ x = { s with shards := x.shards } ∧ x.shard? shard = some e ∧
        e = { d with tombs := e.tombs } ∧
        { u with kind := 2, pendA := u.listA != noList, pendB := u.listB != noList } ∈ e.tombs ∧
        ∀ y ∈ e.tombs, ¬ (y.id = id ∧ y.stamp = stamp ∧ y.kind = 0))) ∧
  (∀ (s : State) (shard id stamp : Nat) (d : Shard), s.shard? shard = some d →
    (∀ u ∈ d.tombs, isTomb id stamp u = true → u.kind ≠ 0 →
      (u.pendA = true → s.switchedPast d u.id u.stamp u.listA = true) ∧ (u.pendB = true → s.switchedPast d u.id u.stamp u.listB = true)) →
    ∃ x e, exec (.tombstonePendingClear shard id stamp) s = .next x ∧ x = { s with shards := x.shards } ∧ x.shard? shard = some e ∧
      e = { d with tombs := e.tombs } ∧ (∀ y ∈ e.tombs, isTomb id stamp y = true → y.kind = 0) ∧
      ∀ y, isTomb id stamp y = false → (y ∈ e.tombs ↔ y ∈ d.tombs)) ∧
  (∀ (s : State) (shard slot : Nat) (d : Shard) (y : Slot) (c : Coll), s.shard? shard = some d → d.slot? slot = some y →
    s.coll? d.coll = some c → y.bit = true → (∀ w ∈ s.eng.members, w.msg.shard = shard → w.slot ≠ some slot) →
    (∀ i ∈ [y.row.list, y.row.second], i ≠ noList → s.switchedPast d y.id y.deletedAt i = true) →
    ∃ x e, exec (.slotFree shard slot) s = .next x ∧ x.shard? shard = some e ∧ e = { d with slots := d.slots.filter (·.num != slot) } ∧
      x.tier.freeSlots = s.tier.freeSlots ++ [slot] ∧
      x = { s with shards := x.shards, fns := x.fns, pools := x.pools, tier := x.tier }) ∧
  ∀ (s : State) (shard slot stamp : Nat) (d : Shard) (c : Coll) (h : Hist), s.shard? shard = some d → s.coll? d.coll = some c →
    (d.hist.find? fun e => e.slot == slot && e.stamp == stamp) = some h → stamp ≤ d.oldestRead →
    (∀ y ∈ d.hist, y.slot = slot → y.stamp ≤ stamp → y.applied = true) →
    (h.kind = 3 → ∀ u ∈ d.tombs, u.kind = 0 → u.slot = slot → stamp ≤ u.stamp) →
    ∃ x e, exec (.rowHistoryRemove shard slot stamp) s = .next x ∧ x.shard? shard = some e ∧
      e = { d with hist := d.hist.filter fun y => !(y.slot == slot && y.stamp == stamp) } ∧
      x = { s with shards := x.shards, fns := x.fns, pools := x.pools }

/-- R40, R55, R153, R154, R171, R272, R281: a FORMING shard with F visible vectors starts its training at its counter; the training
is background work on its tile's tensor clusters and the coarse field; then, in its turn at the ledger arbiter, the switch makes one
list for each level-1 centroid, born at the stamp W that it takes, and the shard is FORMED from W on; once no reader is below W the
buffer is released. Model's choices: logs 44, 89 and 100. -/
def Obligations.Formation : Prop :=
  (∀ (s : State) (shard : Nat) (d : Shard) (c : Coll), s.shard? shard = some d → s.coll? d.coll = some c → d.stage = .forming →
    d.training = false → d.forwardTo = none →
    (formationSize c d ≤ (d.slots.filter d.live).length →
      ∃ x, exec (.formationStart shard) s = .next x ∧ x = { s with shards := x.shards } ∧
        x.shard? shard = some { d with training := true, sampleCut := d.counter, readers := d.readers ++ [(.formation, d.counter)] }) ∧
    ((d.slots.filter d.live).length < formationSize c d → exec (.formationStart shard) s = .next s)) ∧
  (∀ (s : State) (shard t : Nat) (d : Shard) (c : Coll) (ids : List Nat) (v : State) (w : LedgerWhat) (arbs : List Nat) (u : Work),
    s.shard? shard = some d → s.coll? d.coll = some c → d.training = true → s.pwr.doldrums = false → s.commitLimit = false →
    s.anyWaits = false → s.takeLists d.l1 = some (ids, v) → w = .pass .formation → arbs = [tensorArb (s.homeTile shard), 0x80] →
    u = .upkeep 0x13 (33554432 + shard) →
    (d.formCut = none → ¬ BackgroundTurn (s.at t) arbs u →
      ∃ x, exec (.formationSwitch shard t) s = .next x ∧ BackgroundWaits (s.at t) x arbs u) ∧
    ((d.formCut ≠ none ∨ BackgroundTurn (s.at t) arbs u) → ∃ x e, exec (.formationSwitch shard t) s = .next x ∧
      x.shard? shard = some e ∧
      (d.turn w = false → e.formCut = some (d.formCut.getD d.counter) ∧ e.stage = d.stage ∧ e.counter = d.counter ∧
        LedgerWaits x [shard] w ∧ x.lists = s.lists) ∧
      (d.turn w = true → (d.formCut ≠ none → d.centroids.length = d.l1 ∧ d.centroidNorms.length = d.l1) →
        e.stage = .formed ∧ e.training = false ∧ e.switchW = some (d.counter + 1) ∧ e.counter = d.counter + 1 ∧
        e.centroids.length = d.l1 ∧ (∀ y ∈ e.readers, y.1 ≠ .formation) ∧
        ∀ i id, ids[i]? = some id → ∃ z ∈ x.lists, z.id = id ∧ z.shard = shard ∧ z.l1 = i ∧ z.bornW = d.counter + 1 ∧
          z.retiredW = none))) ∧
  ∀ (s : State) (shard w : Nat) (d : Shard) (c : Coll), s.shard? shard = some d → s.coll? d.coll = some c → d.switchW = some w →
    d.buffer = true → s.chargedFn c < s.fns.length →
    (d.drainedBelow w = true →
      ∃ x, exec (.formationBufferRelease shard) s = .next x ∧ x = { s with shards := x.shards, fns := x.fns } ∧
        x.shard? shard = some { d with buffer := false, bufBytes := 0 } ∧
        (x.fn (s.chargedFn c)).t1Used = (s.fn (s.chargedFn c)).t1Used - d.bufBytes) ∧
    (d.drainedBelow w = false → exec (.formationBufferRelease shard) s = .next s)

/-- R38, R50, R55, R68, R321 to R324, R416, R497: a live row whose home is not its collection's placement starts to move when its
charge fits, and without refusal out of a pool being detached; a pass has its turn at the row's channel; a clean one in its turn at
the ledger arbiter makes the new home current at a stamp with a history entry, a changed one is copied again, at most 8 times; a
collection little read for a day goes to a storage pool and comes back when it is read. A moving shard is handed over with its
counter and forwards from then on; the new owner goes on from that counter and announces the move, which every node's map follows;
the old copy is released when no reader is left. Model's choices: logs 45, 46, 89, 101 and 121. -/
def Obligations.RowAndShardMoves : Prop :=
  (∀ (s : State) (shard slot : Nat) (d : Shard) (y : Slot) (c : Coll), s.shard? shard = some d → d.slot? slot = some y →
    s.coll? d.coll = some c → d.live y = true → y.bit = false → y.lost = false → y.migration = none → d.forwardTo = none →
    (∀ p q, y.home = .t2 → c.placement = some p → s.pool? p = some q → q.takes (rowBytes c.spec y.row) = true →
      s.misplaced < 4194304 → s.fits (s.chargedFn c) .t3 (rowBytes c.spec y.row) = true →
      ∃ x e z, exec (.rowMigrationPlan shard slot (some p)) s = .next x ∧ x.shard? shard = some e ∧
        e.slot? slot = some { y with migration := some z } ∧ z.to_ = .t3 p ∧ z.dirty = false ∧ z.oldHome = none ∧ e.counter = d.counter ∧
        (x.pool? p).map (·.used) = some (q.used + rowBytes c.spec y.row)) ∧
    (∀ p, y.home = .t3 p → c.placement ≠ some p → s.fits (s.chargedFn c) .t2 (rowBytes c.spec y.row) = true →
      ∃ x e z, exec (.rowMigrationPlan shard slot none) s = .next x ∧ x.shard? shard = some e ∧
        e.slot? slot = some { y with migration := some z } ∧ z.to_ = .t2 ∧ z.dirty = false ∧ z.oldHome = none ∧ e.counter = d.counter) ∧
    (∀ p q, y.home = .t3 p → s.pool? p = some q → q.st = .detaching → q.returnData = true →
      ∃ x e z, exec (.rowMigrationPlan shard slot none) s = .next x ∧ x.shard? shard = some e ∧
        e.slot? slot = some { y with migration := some z } ∧ z.to_ = .t2 ∧ z.dirty = false ∧ z.oldHome = none ∧ e.counter = d.counter)) ∧
  (∀ (s : State) (shard slot : Nat) (d : Shard) (y : Slot) (c : Coll) (m : Migration) (w : Work) (arbs : List Nat) (n : Nat),
    s.shard? shard = some d → d.slot? slot = some y → s.coll? d.coll = some c → d.pendingAcc slot = none → y.migration = some m →
    w = .upkeep 0x0F slot → arbs = (if m.to_ = .t2 then s.rowTargets 1 else [s.rowChannelOf slot]) →
    n = (if m.promoteFor = none then backgroundRequester else 0) →
    (m.oldHome = none → m.dirty = false → s.histCount < 16777216 → s.commitLimit = false → (∀ ch, ch < 32 → s.programsWait ch = false) →
      GrantTurn s n m.promoteFor.isNone arbs w → d.turn (.row slot) = true →
      ∃ x e z, exec (.rowMigrationCopyEnd shard slot) s = .next x ∧ x.shard? shard = some e ∧ e.counter = d.counter + 1 ∧
        e.slot? slot = some z ∧ z.home = m.to_ ∧ z.row = y.row ∧
        e.hist = d.hist ++ [⟨slot, d.counter + 1, 2, true, some (y.row, y.home), none⟩]) ∧
    (m.oldHome = none → m.dirty = false → s.histCount < 16777216 → s.commitLimit = false → (∀ ch, ch < 32 → s.programsWait ch = false) →
      GrantTurn s n m.promoteFor.isNone arbs w → d.turn (.row slot) = false →
      ∃ x, exec (.rowMigrationCopyEnd shard slot) s = .next x ∧
        x = { s with shards := x.shards, arbs := x.arbs } ∧ ShardsButWaiting s x ∧ LedgerWaits x [shard] (.row slot)) ∧
    (m.oldHome = none → (m.dirty = true ∨ s.histCount < 16777216 ∧ s.commitLimit = false ∧ ∀ ch, ch < 32 → s.programsWait ch = false) →
      ¬ GrantTurn s n m.promoteFor.isNone arbs w →
      ∃ x, exec (.rowMigrationCopyEnd shard slot) s = .next x ∧ BackgroundWaits s x arbs w) ∧
    (m.oldHome = none → m.dirty = true → m.passes < 7 → GrantTurn s n m.promoteFor.isNone arbs w →
      ∃ x e, exec (.rowMigrationCopyEnd shard slot) s = .next x ∧ x = { s with shards := x.shards, arbs := x.arbs } ∧ x.shard? shard = some e ∧
        e.slot? slot = some { y with migration := some { m with dirty := false, passes := m.passes + 1 } } ∧ e.counter = d.counter) ∧
    (m.oldHome = none → m.dirty = true → 7 ≤ m.passes → GrantTurn s n m.promoteFor.isNone arbs w →
      ∃ x e, exec (.rowMigrationCopyEnd shard slot) s = .next x ∧ x.shard? shard = some e ∧
        e.slot? slot = some { y with migration := none } ∧ x.tier.abandoned = s.tier.abandoned + 1) ∧
    (m.oldHome ≠ none → (∀ h ∈ d.hist, ¬ (h.slot = slot ∧ h.stamp = m.stamp)) →
      ∃ x e, exec (.rowMigrationRelease shard slot) s = .next x ∧ x.shard? shard = some e ∧
        e.slot? slot = some { y with migration := none } ∧ e.counter = d.counter)) ∧
  (∀ (s : State) (coll t day hour : Nat) (c : Coll) (rows : Nat × Nat), s.coll? coll = some c → rows = s.collRows c →
    day = (c.readTimes.filter fun x => decide ((s.at t).now ≤ x + 86400 * Config.ticksPerS)).length →
    hour = (c.readTimes.filter fun x => decide ((s.at t).now ≤ x + 3600 * Config.ticksPerS)).length →
    (∀ p, c.placement = none → s.pools.find? (fun p => p.kind == 0 && p.st == .attached && decide (p.cap ≤ 10 * (p.cap - p.used))) = some p →
      c.since + 86400 * Config.ticksPerS ≤ (s.at t).now → (s.fn (s.chargedFn c)).admits .t3 rows.2 = true → 1000 * day < rows.1 * 24 →
      ∃ x, exec (.placementChange coll t) s = .next x ∧ x = { s.at t with colls := x.colls } ∧
        x.coll? coll = some { c with placement := some p.id, since := (s.at t).now }) ∧
    (c.placement = none → ((s.at t).now < c.since + 86400 * Config.ticksPerS ∨ rows.1 * 24 ≤ 1000 * day ∨
        (s.fn (s.chargedFn c)).admits .t3 rows.2 = false ∨
        ∀ p ∈ s.pools, ¬ (p.kind = 0 ∧ p.st = .attached ∧ p.cap ≤ 10 * (p.cap - p.used))) →
      exec (.placementChange coll t) s = .next (s.at t)) ∧
    ∀ i leave, c.placement = some i →
      leave = (match s.pool? i with
        | none => true
        | some p => p.st == .lost || (p.st == .detaching && p.returnData) || decide (20 * (p.cap - p.used) < p.cap)) →
      ((leave = true ∨ rows.1 < 100 * hour) →
        ∃ x, exec (.placementChange coll t) s = .next x ∧ x = { s.at t with colls := x.colls } ∧
          x.coll? coll = some { c with placement := none, since := (s.at t).now }) ∧
      (leave = false → 100 * hour ≤ rows.1 → exec (.placementChange coll t) s = .next (s.at t))) ∧
  (∀ (s : State) (shard t : Nat) (d : Shard) (m : Move), s.shard? shard = some d → d.move = some m → d.forwardTo = none → m.step ≠ 0 →
    (∀ z ∈ d.waiting, ∀ k, z.2 ≠ .search k ∧ z.2 ≠ .barrier k ∧ z.2 ≠ .pass (.req k)) → (s.at t).reachable m.to_ = true →
    ∃ x e g, exec (.shardMoveCopyEnd shard ⟨none, t⟩) s = .next x ∧ x.shard? shard = some e ∧ e.forwardTo = some m.to_ ∧
      e.counter = d.counter ∧ e.holds = [] ∧ FrameTo x m.to_ (.moveState g) ∧ g.shard = shard ∧ g.coll = d.coll ∧
      g.counter = d.counter) ∧
  (∀ (s : State) (shard t : Nat) (g : ShardImage) (c : Coll), s.coll? g.coll = some c → g.shard = shard → shard ∈ c.shardIds →
    ((∃ d ∈ s.owned, d.id = shard) → exec (.shardMoveCopyEnd shard ⟨some g, t⟩) s = .next (s.at t)) ∧
    ((∀ d ∈ s.owned, d.id ≠ shard) → ((s.at t).takeShard c g).isSome = true →
      ∃ x e, exec (.shardMoveCopyEnd shard ⟨some g, t⟩) s = .next x ∧ x.shard? shard = some e ∧ e.counter = g.counter ∧
        e.forwardTo = none ∧ e.stage = g.stage ∧ e.slots.length = g.slots.length ∧ e.tombs.length = g.tombs.length ∧ e.readers = [] ∧
        x.coll? g.coll = some { c with spec := { c.spec with owners := c.spec.owners.set (shard - c.spec.firstShard) s.nodeId } } ∧
        ∀ n ∈ s.peerNodes, (s.at t).reachable n = true → FrameTo x n (.moveAnnounce g.coll shard s.nodeId))) ∧
  (∀ (s : State) (coll shard owner : Nat) (c : Coll), s.coll? coll = some c → shard ∈ c.shardIds →
    ∃ x e, exec (.shardMoveAnnounceReceive coll shard owner) s = .next x ∧ x = { s with colls := x.colls, tier := x.tier } ∧
      x.coll? coll = some { c with spec := { c.spec with owners := c.spec.owners.set (shard - c.spec.firstShard) owner } } ∧
      x.tier.journal = s.tier.journal ++ [e] ∧ e.kind = .nodeRecord) ∧
  ∀ (s : State) (shard n : Nat) (d : Shard) (c : Coll) (m : Move), s.shard? shard = some d → s.coll? d.coll = some c →
    d.forwardTo = some n → d.move = some m → d.readers = [] → (∀ h ∈ s.eng.shares, ∀ p ∈ h.shards, p.shard ≠ shard) →
    (∀ w ∈ s.eng.members, w.msg.shard ≠ shard) →
    ∃ x e, exec (.shardMoveRelease shard) s = .next x ∧ x.shard? shard = some e ∧ e.slots = [] ∧ e.forwardTo = some n ∧ e.move = none ∧
      x.lists = s.lists.filter (·.shard != shard)

/-- R38, R194, R407 to R410, R422 to R424, R430 to R432, R564, R567: the caches' division follows their hits every 60 s; eviction
goes on until T1 has its margin or nothing that is not pinned is left; due journal entries of a channel are programmed into its
reserve, then homed, each in its turn at the channels, and freed, then retired once saved by a checkpoint; garbage collection, wear
levelling, refresh and retention, as background work on the channel, rewrite the block they name and no other. Model's choices: logs
5, 39, 47, 48, 89, 121 and 126. -/
def Obligations.CachesAndFlash : Prop :=
  (∀ (s : State) (t : Nat),
    (s.tier.rebalancedAt + 60 * Config.ticksPerS ≤ (s.at t).now →
      ∃ x, exec (.cacheRebalance t) s = .next x ∧ x = { s.at t with tier := x.tier } ∧
        x.tier = { s.tier with hotShare := x.tier.hotShare, hotHits := 0, rowHits := 0, rebalancedAt := (s.at t).now } ∧
        (s.tier.hotHits = 0 → s.tier.rowHits = 0 → x.tier.hotShare = s.tier.hotShare) ∧
        (0 < s.tier.hotHits * (100 - s.tier.hotShare) + s.tier.rowHits * s.tier.hotShare →
          10 ≤ x.tier.hotShare ∧ x.tier.hotShare ≤ 90)) ∧
    ((s.at t).now < s.tier.rebalancedAt + 60 * Config.ticksPerS → exec (.cacheRebalance t) s = .next (s.at t))) ∧
  (∀ s : State, ∃ x, exec .cacheEvict s = .next x ∧ x = { s with lists := x.lists, tier := x.tier } ∧ x.tier.t1Wanted = 0 ∧
    (s.t1Short = 0 → x.lists = s.lists ∧ x.tier.rowCache = s.tier.rowCache) ∧
    (({ x with tier := { x.tier with t1Wanted := s.tier.t1Wanted } } : State).t1Short = 0 ∨
      x.tier.rowCache = [] ∧ ∀ l ∈ x.lists, x.evictable l = false) ∧
    ((s.lists.map (·.id)).Nodup → ∀ l ∈ s.lists, s.evictable l = false → l ∈ x.lists)) ∧
  (∀ (s : State) (ch t n : Nat), s.channelOn ch = true → (s.channel ch).offline = false → ch < s.tier.channels.length →
    n = (s.tier.journal.filter (·.waitsOn ch)).foldl (fun n j => n + j.bytes) 0 → n ≤ (s.channel ch).reserve →
    (65536 ≤ n ∨ (∃ j ∈ s.tier.journal, j.waitsOn ch = true ∧ j.at_ + 500 * Config.ticksPerUs ≤ (s.at t).now) ∨ s.pwr.doldrums = true) →
    ∃ x, exec (.writeBufferProgram ch t) s = .next x ∧
      (¬ GrantTurn (s.at t) 0 false [ch] (.program ch) → BackgroundWaits (s.at t) x [ch] (.program ch)) ∧
      (GrantTurn (s.at t) 0 false [ch] (.program ch) → x = { s.at t with tier := x.tier, arbs := x.arbs } ∧
        (∀ j ∈ s.tier.journal, j.waitsOn ch = true → { j with phase := .programming } ∈ x.tier.journal) ∧
        x.tier.journal.length = s.tier.journal.length ∧ (x.channel ch).reserve = (s.channel ch).reserve - n)) ∧
  (∀ (s : State) (ch : Nat) (to_ : List Nat), s.pwr.doldrums = false → to_ = s.rowTargets (s.homePages ch) →
    ∃ x, exec (.writeBufferFree ch) s = .next x ∧ x = { s with arbs := x.arbs, tier :=
          { s.tier with journal := x.tier.journal, channels := x.tier.channels, rowTurn := x.tier.rowTurn } } ∧
      (∀ c, x.channel c = { s.channel c with freeBlocks := (x.channel c).freeBlocks, openBytes := (x.channel c).openBytes }) ∧
      (∀ j, j.channel ≠ ch → (j ∈ x.tier.journal ↔ j ∈ s.tier.journal)) ∧
      ((∀ c ∈ to_, s.programsWait c = false) → GrantTurn s 0 false to_ (.homeWrites ch) →
        ∀ j ∈ x.tier.journal, j.channel = ch → j.void = false ∧ j.phase ≠ .programming ∧ j.phase ≠ .programmed) ∧
      ((∀ c ∈ to_, s.programsWait c = false) → ¬ GrantTurn s 0 false to_ (.homeWrites ch) → GrantWaits s x to_ (.homeWrites ch)) ∧
      ((∃ c ∈ to_, s.programsWait c = true) ∨ ¬ GrantTurn s 0 false to_ (.homeWrites ch) → x.tier.channels = s.tier.channels ∧
        ∀ j ∈ s.tier.journal, j.goesHome ch = true → { j with phase := .programmed } ∈ x.tier.journal)) ∧
  (∀ (s : State) (n : Nat), ∃ x, exec (.journalRetire n) s = .next x ∧ x = { s with tier := { s.tier with journal := x.tier.journal } } ∧
    ∀ j, j ∈ x.tier.journal ↔ j ∈ s.tier.journal ∧ ¬ (j.seq = n ∧ j.phase = .homed ∧ j.saved = true)) ∧
  (∀ (s : State) (t : Nat), s.pwr.doldrums = false → s.anyWaits = false →
    s.tier.checkpointAt + 60 * Config.ticksPerS ≤ (s.at t).now →
    ∃ x, exec (.checkpoint t) s = .next x ∧ x = { s.at t with tier := x.tier } ∧
      x.tier.checkpoint = s.shards.map (fun d => (d.id, d.counter)) ∧ x.tier.checkpointCopy = !s.tier.checkpointCopy ∧
      x.tier.checkpointSeq = s.tier.nextSeq) ∧
  (∀ (s : State) (ch : Nat), ch < s.tier.channels.length → s.pwr.doldrums = false → (s.channel ch).offline = false →
    (s.channel ch).reserve < 8388608 →
    ∃ x, exec (.journalReserveErase ch) s = .next x ∧ x = { s with tier := x.tier } ∧
      x.channel ch = { s.channel ch with reserve := (s.channel ch).reserve + 33554432 }) ∧
  ∀ (s : State) (ch t : Nat), ch < s.tier.channels.length → s.pwr.doldrums = false → (s.channel ch).offline = false →
    s.channelOn ch = true →
    (∀ n i u y, (i, u, y) ∈ [(Instr.garbageCollection ch, Work.upkeep 0x12 (2 ^ 26 + ch), { s with free := s.free + 1 }),
        (.wearLevelling ch, .upkeep 0x15 (4 * ch + 1), s), (.readDisturbRefresh ch n t, .upkeep 0x15 (4 * n + 130), s.at t)] →
      ¬ BackgroundTurn y [ch] u → ∃ x, exec i s = .next x ∧ BackgroundWaits y x [ch] u) ∧
    (BackgroundTurn s [ch] (.upkeep 0x12 (2 ^ 26 + ch)) → ∃ x, exec (.garbageCollection ch) s = .next x ∧
      x = { s with tier := x.tier, arbs := x.arbs, free := x.free } ∧
      ((∃ b ∈ (s.channel ch).blocks, b.bad = false ∧ b.valid ≠ 0) → ∃ b ∈ (s.channel ch).blocks,
        (∀ y ∈ (s.channel ch).blocks, y.bad = false → y.valid ≠ 0 → b.valid ≤ y.valid) ∧
        (x.channel ch).blocks = modWhere (s.channel ch).blocks (·.block == b.block) Block.erase) ∧
      ((∀ b ∈ (s.channel ch).blocks, b.bad = true ∨ b.valid = 0) → (x.channel ch).blocks = (s.channel ch).blocks)) ∧
    (BackgroundTurn s [ch] (.upkeep 0x15 (4 * ch + 1)) → ∀ good top low,
      good = (s.channel ch).blocks.filter (!·.bad) → top = good.foldl (fun n b => max n b.cycles) 0 →
      (good.length < 126976 → low = 0) → (126976 ≤ good.length → (∃ b ∈ good, b.cycles = low) ∧ ∀ b ∈ good, low ≤ b.cycles) →
      ∃ x, exec (.wearLevelling ch) s = .next x ∧ x = { s with tier := x.tier, arbs := x.arbs, free := x.free } ∧
        (top ≤ low + 300 → (x.channel ch).blocks = (s.channel ch).blocks) ∧
        (low + 300 < top → (∃ b ∈ good, b.valid ≠ 0) → (∃ b ∈ good, b.valid = 0) → ∃ a ∈ good, ∃ b ∈ good, a.valid ≠ 0 ∧ b.valid = 0 ∧
          (∀ y ∈ good, y.valid ≠ 0 → a.cycles ≤ y.cycles) ∧ (∀ y ∈ good, y.valid = 0 → y.cycles ≤ b.cycles) ∧
          (x.channel ch).blocks = (s.channel ch).blocks.map fun y =>
            if y.block = a.block then y.erase else if y.block = b.block then { y with valid := a.valid } else y)) ∧
    (∀ n, BackgroundTurn (s.at t) [ch] (.upkeep 0x15 (4 * n + 130)) →
      ∃ x, exec (.readDisturbRefresh ch n t) s = .next x ∧ x = { s.at t with tier := x.tier, arbs := x.arbs, free := x.free } ∧
      ∀ y ∈ (s.channel ch).blocks, (y.block = n → y.bad = false → (200000 ≤ y.reads ∨
        2 ≤ (y.softAt.filter fun z => decide ((s.at t).now ≤ z + 3600 * Config.ticksPerS)).length) → y.erase ∈ (x.channel ch).blocks) ∧
        (y.block ≠ n → y ∈ (x.channel ch).blocks)) ∧
    (∀ n weak y, (s.channel ch).blocks.find? (·.block == n) = some y →
      ((s.at t).awake < y.scannedAt + 604800 * Config.ticksPerS → exec (.retentionScan ch n weak t) s = .next (s.at t)) ∧
      (y.scannedAt + 604800 * Config.ticksPerS ≤ (s.at t).awake →
        ∃ x, exec (.retentionScan ch n weak t) s = .next x ∧
          (¬ BackgroundTurn (s.at t) [ch] (.upkeep 0x15 (4 * n + 131)) → BackgroundWaits (s.at t) x [ch] (.upkeep 0x15 (4 * n + 131))) ∧
          (BackgroundTurn (s.at t) [ch] (.upkeep 0x15 (4 * n + 131)) →
            x = { s.at t with tier := x.tier, arbs := x.arbs, free := x.free } ∧
            (x.channel ch).blocks.find? (·.block == n) =
              some (if weak then ({ y with scannedAt := (s.at t).awake } : Block).erase else { y with scannedAt := (s.at t).awake }) ∧
            ∀ z ∈ (s.channel ch).blocks, z.block ≠ n → z ∈ (x.channel ch).blocks))) ∧
    ∀ n, (∀ y ∈ (s.channel ch).blocks, y.block = n → y.bad = false) →
      ∃ x, exec (.grownBadBlock ch n) s = .next x ∧ x = { s with tier := x.tier } ∧ (x.channel ch).grownBad = (s.channel ch).grownBad + 1 ∧
        (x.channel ch).reservedBlocks = (s.channel ch).reservedBlocks - 1 ∧
        (∃ b ∈ (x.channel ch).blocks, b.block = n ∧ b.bad = true) ∧
        ∀ y ∈ (s.channel ch).blocks, y.block ≠ n → y ∈ (x.channel ch).blocks

/-! ### Faults, spares and recoveries -/

/-- R52, R55, R61 to R63, R181, R213, R215, R217, R537, R559, R564 to R578: what each watchdog, unit reset, scrub step, retuning,
calibration, fault, spare and recovery does, when its condition holds, and what it leaves. Model's choices: logs 26, 39, 71, 72, 73,
74, 107, 108 and 109. -/
def Obligations.FaultsAndSpares : Prop :=
  (∀ (s : State) (arb t : Nat) (io : HostIO) (e : EngineId), (s.arb arb).lastGrant + 50 * Config.ticksPerMs ≤ (s.at t).now →
    (∀ d, (s.shards.find? fun d => d.ledger + 0x1000 == arb) = some d → (∃ y ∈ d.waiting, y.1 + 50 * Config.ticksPerMs ≤ (s.at t).now) →
      exec (.resourceWatchdogBite arb io t) s =
        exec (.ledgerStamp d.id t) ((s.at t).log 5 1 (toLE 2 arb ++ toLE 1 (s.arb arb).owner))) ∧
    ((∀ d ∈ s.shards, d.ledger + 0x1000 ≠ arb) → ((s.arb arb).granted ≠ [] ∧ (s.arb arb).waiting ≠ [] ∨
        ∃ y ∈ (s.arb arb).waiting, y.at_ + 50 * Config.ticksPerMs ≤ (s.at t).now) →
      (arb = 0xA0 → ∃ x, exec (.resourceWatchdogBite arb io t) s = .next x ∧ x.activePair = 1 - s.activePair ∧
        Logged x 5 1 (toLE 2 arb ++ toLE 1 (s.arb arb).owner) ∧ Logged x 5 2 [] ∧
        OnlyLogged { s.at t with activePair := x.activePair } x) ∧
      (arb = 0xA1 → (s.arb arb).granted = [] → exec (.resourceWatchdogBite arb io t) s =
        exec (.gustGrant t) ((s.at t).log 5 1 (toLE 2 arb ++ toLE 1 (s.arb arb).owner))) ∧
      (arb < 0x20 ∨ 0x40 ≤ arb ∧ arb < 0x60 ∨ arb = 0x80 ∨ 0x90 ≤ arb ∧ arb < 0x94 →
        e = grantUnit arb ((s.arb arb).granted.head?.map (·.work)) → s.spares.unitResets = [] →
        ∃ x, exec (.resourceWatchdogBite arb io t) s = .next x ∧ (∀ k ∈ s.engineKeys e, x.share? k = none) ∧
          x.spares.unitResets = [(e, (s.at t).now)] ∧ (x.arb arb).granted.length ≤ 1 ∧
          (s.engineKeys e = [] → ∀ y, oldest arb (s.arb arb).waiting = some y → (x.arb arb).granted = [y] ∧
            (x.arb arb).locked = true ∧ (x.arb arb).owner = y.requester ∧ (x.arb arb).waiting = (s.arb arb).waiting.filter (· != y) ∧
            Logged x 5 1 (toLE 2 arb ++ toLE 1 (s.arb arb).owner) ∧
            ∀ a, a ≠ arb → engineArb e ≠ some a → x.arb a = s.arb a)))) ∧
  (∀ (s : State) (arb t : Nat) (io : HostIO), (∀ d ∈ s.shards, d.ledger + 0x1000 ≠ arb) →
    ((s.at t).now < (s.arb arb).lastGrant + 50 * Config.ticksPerMs ∨ (s.arb arb).waiting = []) →
    exec (.resourceWatchdogBite arb io t) s = .next (s.at t)) ∧
  (∀ (s : State) (e : EngineId) (io : HostIO) (t : Nat), s.ao.stage = .serving →
    (∃ x, exec (.unitReset e io t) s = .next x ∧ (∀ a, engineArb e = some a → (x.arb a).granted = []) ∧
      ∀ k ∈ s.engineKeys e, x.share? k = none) ∧
    (s.engineKeys e = [] → engineArb e = none → s.spares.unitResets = [] →
      ∃ x, exec (.unitReset e io t) s = .next x ∧ Logged x 5 4 [] ∧ x.spares = { s.spares with unitResets := [(e, (s.at t).now)] } ∧
        OnlyLogged { s.at t with spares := x.spares } x)) ∧
  (∀ (s : State) (stack corrected uncorrectable t a b : Nat) (u : Work), stack ∈ s.stacksOn → u = .upkeep 0x14 stack →
    ((s.spares.dramErrors.find? (·.1 == stack)).map (·.2)).getD (0, 0) = (a, b) →
    ∃ x, exec (.patrolScrub stack corrected uncorrectable t) s = .next x ∧
      (¬ BackgroundTurn (s.at t) [0x40 + stack] u → BackgroundWaits (s.at t) x [0x40 + stack] u) ∧
      (BackgroundTurn (s.at t) [0x40 + stack] u → x = { s.at t with spares := x.spares, arbs := x.arbs, free := x.free } ∧
        x.spares = { s.spares with dramErrors := x.spares.dramErrors, scrubAt := (s.at t).awake } ∧
        x.spares.dramErrors.find? (·.1 == stack) = some (stack, a + corrected, b + uncorrectable) ∧
        ∀ i, i ≠ stack → x.spares.dramErrors.find? (·.1 == i) = s.spares.dramErrors.find? (·.1 == i))) ∧
  (∀ (s : State) (port setting t : Nat), port < s.ports.length → (s.port port).st = .up ∨ (s.port port).st = .narrow →
    ((s.pwr.doldrums = false ∧ (s.port port).adaptAt + Config.ticksPerS ≤ (s.at t).awake ∧ ((∀ f ∈ s.headFrames port, f.tag.background = true ∨ f.tag.kind = 0x19) ∨
        (s.arb (0x100 + port)).bgHeld * 100 < s.cfg.fabricPct * (s.arb (0x100 + port)).sent)) →
      ∃ x, exec (.linkAdaptation port setting t) s = .next x ∧
        x = { s.at t with ports := x.ports, arbs := x.arbs, free := s.free + 1 } ∧
        x.port port = { (s.at t).port port with equaliser := setting, adaptAt := (s.at t).awake } ∧
        (x.arb (0x100 + port)).bgHeld = (s.arb (0x100 + port)).bgHeld + Config.freeNat s.free ∧
        (∀ a, a ≠ 0x100 + port → x.arb a = s.arb a) ∧ ∀ p, p ≠ port → x.port p = (s.at t).port p) ∧
    ((s.pwr.doldrums = true ∨ (s.at t).awake < (s.port port).adaptAt + Config.ticksPerS ∨ (∃ f ∈ s.headFrames port, f.tag.background = false ∧ f.tag.kind ≠ 0x19) ∧
        s.cfg.fabricPct * (s.arb (0x100 + port)).sent ≤ (s.arb (0x100 + port)).bgHeld * 100) →
      exec (.linkAdaptation port setting t) s = .next (s.at t))) ∧
  (∀ (s : State) (array ppm t : Nat), array ∈ s.arraysBuilt →
    (∀ i, i = Instr.calibrationSlot array ppm t ∨ i = .calibrationForced array ppm t ∧ (s.at t).calibrationDue array = true ∧
        s.spareless array = true →
      (s.arrRec array).st = 2 →
      ((s.at t).calibrated array = false → exec i s = .next (s.at t)) ∧
      ((s.at t).calibrated array = true → ppm ≤ 16000 → ∃ x, exec i s = .next x ∧ x.arrRec array =
          { s.arrRec array with st := if (s.inUse array).length < groupSize array then 0 else 1, calibratedAt := (s.at t).now,
                                trackedAt := (s.at t).now, trims := s.free, gains := s.free + 1, errorPpm := ppm } ∧
        ∀ a, a ≠ array → x.arrRec a = s.arrRec a)) ∧
    ((s.arrRec array).st = 0 → (s.at t).slotFree array = true →
      (∀ b, s.standIn array = some b → ∃ x, exec (.calibrationSlot array ppm t) s = .next x ∧
        x.arrRec array = { s.arrRec array with st := 2, startedAt := (s.at t).now } ∧ (x.arrRec b).st = 0 ∧
        (x.arrRec b).nibble = (s.arrRec array).nibble ∧ x.spares.field = s.spares.field.map (fun a => if a = array then b else a) ∧
        (∀ a, a ≠ array → a ≠ b → x.arrRec a = s.arrRec a) ∧ x.shards = s.shards ∧ x.out = s.out) ∧
      (s.spareless array = true → (s.at t).arrayIdle array = true → ∃ x, exec (.calibrationSlot array ppm t) s = .next x ∧
        x.arrRec array = { s.arrRec array with st := 2, startedAt := (s.at t).now } ∧ ∀ a, a ≠ array → x.arrRec a = s.arrRec a) ∧
      (s.standIn array = none → (s.spareless array = false ∨ (s.at t).arrayIdle array = false) →
        exec (.calibrationSlot array ppm t) s = .next (s.at t)) ∧
      ((s.at t).calibrationDue array = true → s.spareless array = true → (array < 72 → (s.arb 0x80).granted = []) →
        (72 ≤ array → s.arbHolds ((array - 128) / 3) (.page ((array - 128) / 3)) = false) →
        ∃ x, exec (.calibrationForced array ppm t) s = .next x ∧
          x.arrRec array = { s.arrRec array with st := 2, startedAt := (s.at t).now } ∧ ∀ a, a ≠ array → x.arrRec a = s.arrRec a)) ∧
    ((s.arrRec array).st = 0 → (s.at t).slotFree array = false → exec (.calibrationSlot array ppm t) s = .next (s.at t)) ∧
    ((s.spareless array = false ∨ (s.at t).calibrationDue array = false) → exec (.calibrationForced array ppm t) s = .next (s.at t))) ∧
  (∀ (s : State) (array ppm t : Nat), array ∈ s.arraysBuilt → (s.arrRec array).st ≠ 3 →
    ((s.at t).now < (s.arrRec array).trackedAt + Config.ticksPerMs → exec (.arrayTemperatureTrack array ppm t) s = .next (s.at t)) ∧
    ((s.arrRec array).trackedAt + Config.ticksPerMs ≤ (s.at t).now →
      ∃ x, exec (.arrayTemperatureTrack array ppm t) s = .next x ∧
        (ppm ≤ 16000 → x = { s.at t with spares := { s.spares with arrays := x.spares.arrays }, free := s.free + 1 } ∧
          x.arrRec array = { s.arrRec array with errorPpm := ppm, gains := s.free, trackedAt := (s.at t).now } ∧
          ∀ a, a ≠ array → x.arrRec a = s.arrRec a) ∧
        (16000 < ppm → (x.arrRec array).st = 3 ∧ Logged x 8 1 (elementDetail (arrayElement array)) ∧
          ∃ r ∈ x.spares.recoveries, r.domain = domainOf (arrayElement array) ∧ arrayElement array ∈ r.elements))) ∧
  (∀ (s : State) (e : Element) (errors t : Nat), s.ao.stage = .serving → s.elementBuilt e = true → s.ao.opt.sparePolicy ≠ 1 →
    (dramRow e = true → 16 < errors → s.repairRows e.domain < 1024 →
      ∃ x, exec (.sparePredictiveTrigger e errors t) s = .next x ∧ x = { s.at t with spares := { s.spares with rowsUsed := x.spares.rowsUsed } } ∧
        x.repairRows e.domain = s.repairRows e.domain + 1) ∧
    (e.kind = 4 ∧ 64 < errors ∨ cluster e = true ∧ 16 < errors ∨ dramDie e = true ∧ 4096 < errors ∨ flashDie e = true ∧ 41 < errors →
      s.spareLeft e = true →
      ∃ x, exec (.sparePredictiveTrigger e errors t) s = .next x ∧ Logged x 8 3 (elementDetail e) ∧
        ∃ r ∈ x.spares.recoveries, r.domain = domainOf e)) ∧
  (∀ (s : State) (e : Element) (t : Nat), s.alive = true → s.elementBuilt e = true →
    (e.kind = 3 → ∃ x, exec (.hardFault e t) s = .next x ∧ Logged x 8 1 (elementDetail e) ∧ OnlyLogged (s.at t) x) ∧
    (e.kind = 4 ∨ flashDie e = true ∨ csuArray e = true ∨ coarseArray e = true ∨ cluster e = true →
      ∃ x, exec (.hardFault e t) s = .next x ∧ (s.dieRebuilt e = false → Logged x 8 1 (elementDetail e)) ∧
        ∃ r ∈ x.spares.recoveries, r.domain = domainOf e ∧ e ∈ r.elements) ∧
    (∀ p f, e.kind = 4 → s.corePlace e.domain = some p → p ∈ (s.fn f).cores → f < s.fns.length → (∀ g < s.fns.length, p ∈ (s.fn g).cores → g = f) →
      (s.fn f).guestState = 2 → (∀ r ∈ s.spares.recoveries, r.domain = domainOf e → r.running = false) →
      ∃ x, exec (.hardFault e t) s = .next x ∧ (x.fn f).guestState = 3) ∧
    (e.kind = 0 → 35 ≤ e.element → e.domain < s.tier.channels.length →
      ∃ x, exec (.hardFault e t) s = .next x ∧ (x.channel e.domain).offline = true ∧ e ∈ x.spares.offline) ∧
    (dramDie e = true → s.ao.opt.sparePolicy ≠ 1 → s.spareLeft e = true →
      ∃ x, exec (.hardFault e t) s = .next x ∧ e.domain ∈ x.spares.dramUsed ∧ x.ao.stage = .inReset ∧ x.ao.cause = 0x12) ∧
    (dramDie e = true → s.ao.opt.sparePolicy = 1 ∨ s.spareLeft e = false →
      ∃ x, exec (.hardFault e t) s = .next x ∧ x.spares.serviceStop = true ∧ e ∈ x.spares.offline ∧ x.ao.stage = .inReset)) ∧
  (∀ (s : State) (t d : Nat) (g : ArbReq) (r : Recovery), (s.arb 0xA2).granted.length < 4 → oldest 0xA2 (s.arb 0xA2).waiting = some g →
    g.work = .recovery d → s.spares.recoveries.find? (·.domain == d) = some r →
    ∃ x, exec (.recoveryGrant t) s = .next x ∧ (x.arb 0xA2).granted = (s.arb 0xA2).granted ++ [g] ∧
      (x.arb 0xA2).waiting = (s.arb 0xA2).waiting.filter (· != g) ∧
      x.spares.recoveries.find? (·.domain == d) = some { r with running := true, spareTaken := true, progressAt := (s.at t).now } ∧
      (∀ e, r.elements = [e] → Logged x 8 2 (elementDetail e) ∧
        (r.spareTaken = false → s.ao.opt.sparePolicy ≠ 1 → s.spareLeft e = true → Logged x 8 3 (elementDetail e)) ∧
        (r.spareTaken = false → s.ao.opt.sparePolicy = 1 ∨ s.spareLeft e = false → e ∈ x.spares.offline))) ∧
  (∀ (s : State) (domain t : Nat) (r : Recovery), s.spares.recoveries.find? (·.domain == domain) = some r → r.running = true →
    (r.progressAt + 10 * Config.ticksPerS ≤ (s.at t).now →
      ∃ x, exec (.recoveryStall domain t) s = .next x ∧ Logged x 5 1 (toLE 2 0xA2 ++ toLE 1 domain) ∧
        x.spares.recoveries.find? (·.domain == domain) = some { r with progressAt := (s.at t).now, restarts := r.restarts + 1 } ∧
        OnlyLogged { s.at t with spares := { s.spares with recoveries := x.spares.recoveries } } x) ∧
    ((s.at t).now < r.progressAt + 10 * Config.ticksPerS → exec (.recoveryStall domain t) s = .next (s.at t)) ∧
    (s.pwr.doldrums = false → ∃ x, exec (.recoveryEnd domain t) s = .next x ∧
      x.spares.recoveries = s.spares.recoveries.filter (·.domain != domain) ∧
      (∀ y ∈ (x.arb 0xA2).granted, y.work ≠ .recovery domain) ∧
      OnlyLogged { s.at t with spares := { s.spares with recoveries := x.spares.recoveries }, arbs := x.arbs } x ∧
      ∀ e l, r.elements = e :: l → Logged x 8 4 (elementDetail e)) ∧
    (s.pwr.doldrums = true → exec (.recoveryEnd domain t) s = .next (s.at t))) ∧
  (∀ (s : State) (shard cut t : Nat) (d : Shard) (c : Coll) (w : LedgerWhat), s.shard? shard = some d → d.regen = some cut →
    s.coll? d.coll = some c → s.pwr.doldrums = false → s.commitLimit = false → (∀ ch, ch < 32 → s.programsWait ch = false) →
    (∀ l ∈ s.lists, l.shard = shard → l.retiredW = none → l.degraded = true → l.maint = none) → w = .pass .regen →
    (d.turn w = false → ∃ x, exec (.regenerationSwitch shard t) s = .next x ∧ x = { s.at t with shards := x.shards } ∧
      ShardsButWaiting s x ∧ LedgerWaits x [shard] w) ∧
    (d.turn w = true → ∃ x e, exec (.regenerationSwitch shard t) s = .next x ∧ x.shard? shard = some e ∧
      e = { d with counter := d.counter + 1, regen := none, readers := d.readers.filter (·.1 != .regen), waiting := e.waiting } ∧
      ((s.lists.map (·.id)).Nodup → ∀ l ∈ s.lists, l.shard = shard → l.retiredW = none → l.degraded = true →
        ∃ y v, x.list? l.id = some y ∧ y.degraded = false ∧ y.versions = l.versions ++ [v] ∧ v.cut = cut ∧ v.switch = d.counter + 1 ∧
          v.lostPages = []))) ∧
  (∀ (s : State) (shard t : Nat) (ownerReports : Bool) (io : HostIO), ownerReports = true ∨ (s.at t).ownerGone shard = true →
    HostTakes io → (s.reqs.map (·.num)).Nodup → ∃ x, exec (.shardLost shard ownerReports io t) s = .next x ∧
      (∀ d, s.ownerOf shard = some s.nodeId → s.shard? shard = some d →
        (∃ e, x.shard? shard = some e ∧ e.lost = true) ∧
        ∀ w ∈ s.eng.members, w.msg.shard = shard → w.stage ≠ .stamped → w.stage ≠ .finished →
          x.member? w.msg.key w.msg.index = none) ∧
      ∀ r ms new, r ∈ s.reqs → r.body = .mutation ms → r.opcode ≠ 8 → (∃ m ∈ ms, m.outcome = none) →
        new = (ms.map fun m => if m.msg.shard == shard && m.delivered && m.outcome.isNone then
          { m with outcome := some ⟨0, stDegraded, 0, shard⟩ } else m) →
        ((∃ m ∈ new, m.outcome = none) → x.req? r.num = some { r with body := .mutation new }) ∧
        ((∀ m ∈ new, m.outcome ≠ none) → x.req? r.num = none)) ∧
  (∀ (s : State) (shard t : Nat) (io : HostIO) (r : Req) (m : OMember), (s.at t).ownerGone shard = true →
    s.ownerOf shard ≠ some s.nodeId → s.reqs = [r] → r.body = .mutation [m] → r.opcode ≠ 8 → m.msg.shard = shard → m.delivered = true →
    m.outcome = none → HostTakes io →
    ∃ x, exec (.shardLost shard false io t) s = .next x ∧
      CompletedWith (s.at t) x r { status := stDegraded, detail := 0, value := 0, value2 := 0,
                                   data := outcomeBytes ⟨0, stDegraded, 0, shard⟩,
                                   dataReturned := (outcomeBytes ⟨0, stDegraded, 0, shard⟩).length } ∧
      OnlyCompleted (s.at t) x r) ∧
  ∀ (s : State) (shard t : Nat) (io : HostIO), (s.at t).ownerGone shard = false → exec (.shardLost shard false io t) s = .next (s.at t)

/-! ### Power, supply and temperature -/

/-- R505 to R519, R526 to R528, R539, R591: entering and leaving Lull and Calm, units that gate and wake under the gust limiter, and
the clock demands of the power cap, the brake and the junctions, each once its time has come. Model's choices: logs 57, 58, 63 and
78. -/
def Obligations.PowerStates : Prop :=
  (∀ (s : State) (since t : Nat) (guestsWait : Bool), s.pwr.st = .breeze → s.ao.stage = .serving → s.lullReady = true →
    (s.cfg.lullAfter ≠ 0 → since + s.cfg.lullAfter * Config.ticksPerMs ≤ (s.at t).now → (s.at t).breezeIdle guestsWait = true →
      (s.at t).maintenanceDue = false → ∃ x, exec (.lullEntry since guestsWait t) s = .next x ∧ x.pwr.st = .lull ∧ x.pwr.lullAt = (s.at t).now ∧
        (∀ u ∈ s.lullUnits, x.unitState u = .gated) ∧ (6, 2) ∈ x.pins.platform ∧ .ibi ∈ x.out ∧
        x = { s.at t with pwr := x.pwr, pins := x.pins, out := x.out, ao := { (s.at t).ao with watchdogOn := false } }) ∧
    (s.cfg.lullAfter = 0 → exec (.lullEntry since guestsWait t) s = .next (s.at t))) ∧
  (∀ (s : State) (t : Nat), s.pwr.st = .lull →
    (s.cfg.calmAfter ≠ 0 → s.pwr.lullAt + s.cfg.calmAfter * Config.ticksPerS ≤ (s.at t).now →
      ∃ x, exec (.calmEntry t) s = .next x ∧ x.pwr.st = .calm ∧ x.pwr.coresSaved = true ∧ (∀ q ∈ x.ports, q.st = .dark) ∧
        (∀ p, p < 8 → (s.port p).st = .up ∨ (s.port p).st = .narrow →
          .hello p ⟨s.nodeId, p, true, s.ao.epoch.toNat⟩ ∈ x.out ∧ x.unitState (.port p) = .gated) ∧
        x = { s.at t with pwr := x.pwr, pins := x.pins, out := x.out, ports := x.ports }) ∧
    (s.cfg.calmAfter = 0 → exec (.calmEntry t) s = .next (s.at t))) ∧
  (∀ (s : State) (hostRequest linkDown : Bool) (t : Nat),
    (s.pwr.st = .lull ∨ s.pwr.st = .calm →
      ∃ x, exec (.nodeWake hostRequest linkDown t) s = .next x ∧ x.pwr.st = .breeze ∧ x.pwr.coresSaved = false ∧
        (∀ u ∈ s.lullUnits, s.unitState u = .gated → x.unitState u = .waiting ∧ Waits x 0xA1 (.wake u)) ∧
        (hostRequest = false → linkDown = true → x.pins.wakeN = false ∧ x.pins.wakeAt = (s.at t).now) ∧
        (hostRequest = true ∨ linkDown = false → x.pins.wakeN = s.pins.wakeN) ∧
        x = { s.at t with pwr := x.pwr, pins := x.pins, out := x.out, arbs := x.arbs,
                          ao := { (s.at t).ao with watchdogOn := true, watchdog := s.watchdogPeriod } }) ∧
    (s.pwr.st = .breeze ∨ s.pwr.st = .gale → exec (.nodeWake hostRequest linkDown t) s = .next (s.at t))) ∧
  (∀ (s : State) (t : Nat), s.pwr.st = .lull ∨ s.pwr.st = .calm →
    (s.pwr.lullAt + 86400 * Config.ticksPerS ≤ (s.at t).now →
      ∃ x, exec (.maintenanceWake t) s = .next x ∧ x.pwr.st = .breeze ∧ x.pwr.maintWake = true ∧ x.pins.wakeN = false ∧
        x = { s.at t with pwr := x.pwr, pins := x.pins, out := x.out, arbs := x.arbs,
                          ao := { (s.at t).ao with watchdogOn := true, watchdog := s.watchdogPeriod } }) ∧
    ((s.at t).now < s.pwr.lullAt + 86400 * Config.ticksPerS → exec (.maintenanceWake t) s = .next (s.at t))) ∧
  (∀ (s : State) (linkL0 : Bool) (t : Nat), s.pins.wakeN = false → s.ao.stage ≠ .inReset →
    linkL0 = true ∨ s.pins.wakeAt + 100 * Config.ticksPerMs ≤ (s.at t).now →
    exec (.wakeNTimeout linkL0 t) s = .next { s.at t with pins := { s.pins with wakeN := true } }) ∧
  (∀ (s : State) (u : UnitId) (since t ms : Nat), gateAfter u = some ms → s.pwr.st = .breeze → s.unitBuilt u = true →
    s.unitState u = .ready → s.unitIdle u = true →
    (since + ms * Config.ticksPerMs ≤ (s.at t).now →
      ∃ x, exec (.unitGate u since t) s = .next x ∧ x = { s.at t with pwr := { s.pwr with units := x.pwr.units } } ∧
        x.unitState u = .gated ∧ ∀ v, v ≠ u → x.unitState v = s.unitState v) ∧
    ((s.at t).now < since + ms * Config.ticksPerMs → exec (.unitGate u since t) s = .next (s.at t))) ∧
  (∀ (s : State) (t : Nat) (y : ArbReq) (u : UnitId), s.pwr.st = .breeze ∨ s.pwr.st = .gale → y.work = .wake u →
    ((∀ g ∈ (s.arb 0xA1).granted, ∀ v, g.work = .wake v → (s.arb 0xA1).lastGrant + s.rampTicks v ≤ (s.at t).now) →
      oldest 0xA1 ((s.arb 0xA1).waiting.filter (s.at t).wakeAllowed) = some y →
      ∃ x, exec (.gustGrant t) s = .next x ∧ x.unitState u = .waking ∧ (x.arb 0xA1).granted = [y] ∧
        (x.arb 0xA1).waiting = (s.arb 0xA1).waiting.filter (· != y) ∧
        (y.at_ < (s.at t).now → x.pwr.gustWaits = s.pwr.gustWaits + 1 ∧
          x.pwr.gustTotal = s.pwr.gustTotal + ((s.at t).now - y.at_) ∧ x.pwr.gustMax = max s.pwr.gustMax ((s.at t).now - y.at_)) ∧
        ((s.at t).now ≤ y.at_ → x.pwr.gustWaits = s.pwr.gustWaits ∧ x.pwr.gustTotal = s.pwr.gustTotal) ∧
        x = { s.at t with pwr := x.pwr, arbs := x.arbs } ∧ ∀ v, v ≠ u → x.unitState v = s.unitState v) ∧
    ((s.arb 0xA1).granted = [y] → (s.at t).now < (s.arb 0xA1).lastGrant + s.rampTicks u →
      exec (.gustGrant t) s = .next (s.at t))) ∧
  (∀ (s : State) (u : UnitId) (t : Nat) (z : Machine.PUnit), s.pwr.units.find? (·.unit == u) = some z → z.st = .waking →
    (z.idleSince + s.wakeTicks u ≤ (s.at t).now →
      ∃ x, exec (.unitWakeComplete u t) s = .next x ∧ x.unitState u = .ready ∧ (∀ y ∈ (x.arb 0xA1).granted, y.work ≠ .wake u) ∧
        (∀ c i, u = .csu c → i < 3 → s.channelOn c = true → (x.arrRec (128 + 3 * c + i)).calibratedAt = (s.at t).now) ∧
        (∀ v, v ≠ u → x.unitState v = s.unitState v) ∧
        x = { s.at t with pwr := x.pwr, arbs := x.arbs, spares := x.spares, eng := x.eng }) ∧
    ((s.at t).now < z.idleSince + s.wakeTicks u → exec (.unitWakeComplete u t) s = .next (s.at t))) ∧
  (∀ (s : State) (r : Readings) (t : Nat),
    (s.pwr.capAt + Config.ticksPerMs ≤ (s.at t).now →
      ∃ x, exec (.powerCapTick r t) s = .next x ∧ x = { s.at t with pwr := x.pwr, pins := x.pins, out := x.out, ao := x.ao } ∧
        x.pwr.inputMv = r.inputMv ∧ x.pwr.inputMa = r.inputMa ∧ x.pwr.inputW = r.inputW ∧ x.pwr.capAt = (s.at t).now ∧
        (s.cfg.powerCap < r.inputW → (x.pwr.capArith, x.pwr.capCore) = stepDown s.pwr.capArith s.pwr.capCore ∧ x.pwr.capBelow = none ∧
          (limits s.pwr.capArith s.pwr.capCore = false → x.pwr.events = s.pwr.events ||| 0x10#6 ∧ Logged x 4 1 [])) ∧
        (r.inputW ≤ s.cfg.powerCap → s.cfg.powerCap ≤ r.inputW + 50 →
          (x.pwr.capArith, x.pwr.capCore) = (s.pwr.capArith, s.pwr.capCore) ∧ x.pwr.capBelow = none) ∧
        (∀ b, r.inputW + 50 < s.cfg.powerCap → s.pwr.capBelow = some b → b + 10 * Config.ticksPerMs ≤ (s.at t).now →
          limits s.pwr.capArith s.pwr.capCore = true → (x.pwr.capArith, x.pwr.capCore) = stepUp s.pwr.capArith s.pwr.capCore) ∧
        (s.pwr.doldrums = false → limits s.pwr.dolArith s.pwr.dolCore = true → s.pwr.dolAt + Config.ticksPerMs ≤ (s.at t).now →
          (x.pwr.dolArith, x.pwr.dolCore) = stepUp s.pwr.dolArith s.pwr.dolCore)) ∧
    ((s.at t).now < s.pwr.capAt + Config.ticksPerMs → exec (.powerCapTick r t) s = .next (s.at t))) ∧
  (∀ (s : State) (t : Nat), ∃ x, exec (.brakeAssert t) s = .next x ∧ Logged x 4 3 [] ∧
    x.pwr = { s.pwr with brake := true, brakeArith := 900, brakeCore := 1500, events := s.pwr.events ||| 0x04#6 } ∧
    OnlyLogged { s.at t with pwr := x.pwr, pins := { s.pins with brakeN := false } } x) ∧
  (∀ (s : State) (since t : Nat), s.pwr.brake = true → since + 10 * Config.ticksPerMs ≤ (s.at t).now →
    s.pwr.brakeAt + Config.ticksPerMs ≤ (s.at t).now →
    ∃ x, exec (.brakeRelease since t) s = .next x ∧ (x.pwr.brakeArith, x.pwr.brakeCore) = stepUp s.pwr.brakeArith s.pwr.brakeCore ∧
      x.pwr.brake = limits x.pwr.brakeArith x.pwr.brakeCore ∧ x.pwr.brakeAt = (s.at t).now ∧ (x.pwr.brake = false → Logged x 4 4 []) ∧
      OnlyLogged { s.at t with pwr := x.pwr, pins := { s.pins with brakeN := true } } x) ∧
  (∀ (s : State) (r : Readings) (t top : Nat), (hottest r.junctions).2 = top → s.pwr.thAt + Config.ticksPerMs ≤ (s.at t).now →
    (s.ao.stage = .off ∨ s.ao.stage = .inReset → exec (.thermalTick r t) s = .next (s.at t)) ∧
    (s.alive = true →
      ∃ x, exec (.thermalTick r t) s = .next x ∧ x.pwr.junctions = r.junctions ∧ x.pwr.inletC = r.inletC ∧
        x.pwr.hotTiles = pausedTiles s.pwr.hotTiles r.junctions ∧ x.pins.thermN = !limits x.pwr.thArith x.pwr.thCore ∧
        (105 < top → (x.pwr.thArith, x.pwr.thCore) = stepDown s.pwr.thArith s.pwr.thCore) ∧
        (100 < top → top ≤ 105 → (x.pwr.thArith, x.pwr.thCore) = (s.pwr.thArith, s.pwr.thCore)) ∧
        (∀ b, top ≤ 100 → s.pwr.thBelow = some b → b + 10 * Config.ticksPerMs ≤ (s.at t).now → limits s.pwr.thArith s.pwr.thCore = true →
          s.pwr.thStepAt + 10 * Config.ticksPerMs ≤ (s.at t).now →
          (x.pwr.thArith, x.pwr.thCore) = stepUp s.pwr.thArith s.pwr.thCore ∧ x.pwr.thStepAt = (s.at t).now) ∧
        (∀ c, c < 32 → c < s.eng.csus.length → (x.csu c).paused = x.pwr.hotTiles.contains (c / 8)) ∧
        x = { s.at t with pwr := x.pwr, pins := x.pins, out := x.out, ao := x.ao, eng := x.eng, arbs := x.arbs }) ∧
    (s.ao.stage = .shutdown →
      ∃ x, exec (.thermalTick r t) s = .next x ∧ x.pins.thermN = decide (top ≤ 100) ∧
        x = { s.at t with pwr := x.pwr, pins := x.pins, out := x.out })) ∧
  ∀ (s : State) (inletC t : Nat),
    (∀ b, 40 < inletC → s.pwr.inletSince = some b → b + Config.ticksPerS ≤ (s.at t).now → s.pwr.events.getLsbD 5 = false →
      ∃ x, exec (.inletHigh inletC t) s = .next x ∧ x.pwr = { s.pwr with inletC := inletC, events := s.pwr.events ||| 0x20#6 } ∧
        Logged x 3 5 [] ∧
        OnlyLogged { s.at t with pwr := x.pwr, pins := { s.pins with platform := x.pins.platform }, out := x.out } x) ∧
    (inletC ≤ 40 →
      ∃ x, exec (.inletHigh inletC t) s = .next x ∧
        x = { s.at t with pwr := { s.pwr with inletC := inletC }, pins := { s.pins with platform := x.pins.platform }, out := x.out })

/-- R432, R517, R520 to R524, R527, R540, R593 to R596: Doldrums begins as the bank falls through 42.0 V and ends 10 ms after a rise
through 43.5 V; a brownout and an overtemperature stop the node; the hot-swap switch; power good starts the node. Model's choices:
logs 58 and 64. -/
def Obligations.SupplyAndDoldrums : Prop :=
  (∀ (s : State) (mv t : Nat), s.pwr.doldrums = false →
    (mv < 42000 →
      ∃ x, exec (.writeInhibit mv t) s = .next x ∧ x.pwr.doldrums = true ∧ x.pwr.doldrumsAt = (s.at t).now ∧ x.pwr.hold = none ∧
        x.pwr.inputMv = mv ∧ x.pwr.dolArith = 600 ∧ x.pwr.dolCore = 1000 ∧ x.pwr.events = s.pwr.events ||| 0x01#6 ∧
        x.pwr.entries = s.pwr.entries + 1 ∧ Logged x 2 1 [] ∧ (7, 1) ∈ x.pins.platform ∧
        (∀ j ∈ x.tier.journal, j.void = false → j.stamp ≠ 0 → j.phase ≠ .waiting ∧ j.phase ≠ .programming) ∧
        (∀ c ∈ x.tier.channels, c.suspended = true) ∧
        ((x.tilesOn.flatMap tileClusters).filter fun u => x.unitState u == .ready).length ≤ 8 ∧
        x = { s.at t with pwr := x.pwr, pins := x.pins, out := x.out, ao := x.ao, tier := x.tier }) ∧
    (42000 ≤ mv →
      ∃ x, exec (.writeInhibit mv t) s = .next x ∧
        x = { s.at t with pwr := { s.pwr with inputMv := mv }, pins := { s.pins with platform := x.pins.platform }, out := x.out })) ∧
  (∀ (s : State) (mv t : Nat), s.pwr.doldrums = true →
    (43500 ≤ mv → s.pwr.hold = none →
      ∃ x, exec (.releaseHoldStart mv t) s = .next x ∧ x = { s.at t with
        pwr := { s.pwr with inputMv := mv, hold := some (s.at t).now }, pins := { s.pins with platform := x.pins.platform }, out := x.out }) ∧
    (mv < 43500 →
      ∃ x, exec (.releaseHoldBreak mv t) s = .next x ∧ x = { s.at t with
        pwr := { s.pwr with inputMv := mv, hold := none }, pins := { s.pins with platform := x.pins.platform }, out := x.out }) ∧
    (∀ h, s.pwr.hold = some h → h + 10 * Config.ticksPerMs ≤ (s.at t).now →
      ∃ x, exec (.doldrumsExit t) s = .next x ∧
        x.pwr = { s.pwr with doldrums := false, hold := none, events := s.pwr.events ||| 0x02#6,
                             lastMs := msUp ((s.at t).now - s.pwr.doldrumsAt), dolAt := (s.at t).now } ∧
        Logged x 2 2 (toLE 4 x.pwr.lastMs) ∧ (7, 0) ∈ x.pins.platform ∧
        x.tier = { s.tier with channels := s.tier.channels.map fun c => { c with suspended := false } } ∧
        x = { s.at t with pwr := x.pwr, pins := x.pins, out := x.out, ao := x.ao, tier := x.tier }) ∧
    (∀ h, s.pwr.hold = some h → (s.at t).now < h + 10 * Config.ticksPerMs → exec (.doldrumsExit t) s = .next (s.at t)) ∧
    (s.pwr.hold = none → exec (.doldrumsExit t) s = .next (s.at t))) ∧
  (∀ (s : State) (mv t : Nat), s.ao.stage ≠ .off →
    (mv < 38000 →
      ∃ x, exec (.brownout mv t) s = .next x ∧ x.ao.stage = (if s.pwr.swap = .closed then .inReset else .off) ∧ x.pwr.inputMv = mv ∧
        x.pwr.swap = s.pwr.swap ∧
        (¬ (s.ao.stage = .inReset ∧ s.ao.resetRank = 3) → x.ao.cause = 0x02 ∧ x.ao.resetRank = 3 ∧ x.reqs = [] ∧ x.queues = [])) ∧
    (38000 ≤ mv → exec (.brownout mv t) s = .next (s.at t))) ∧
  (∀ (s : State) (r : Readings) (t : Nat), s.alive = true →
    (115 ≤ (hottest r.junctions).2 →
      ∃ x, exec (.thermalShutdown r t) s = .next x ∧ x.ao.stage = .shutdown ∧ x.ao.cause = 0x05 ∧ x.ao.prior = s.ao.cause ∧
        x.pins.thermN = false ∧ x.pins.alertN = true ∧ x.pins.wakeN = true ∧ x.pins.i3cAddr = none ∧ x.targetUp = false ∧
        x.pwr.junctions = r.junctions ∧ x.reqs = [] ∧ x.queues = [] ∧ x.ports = List.replicate 8 {}) ∧
    ((hottest r.junctions).2 < 115 → exec (.thermalShutdown r t) s = .next (s.at t))) ∧
  (∀ (s : State) (mv t : Nat),
    (s.pwr.swap = .open_ → 40000 ≤ mv → exec (.hotSwapTurnOn mv t) s = .next { s.at t with pwr := { s.pwr with swap := .charging } }) ∧
    (s.pwr.swap ≠ .open_ ∨ mv < 40000 → exec (.hotSwapTurnOn mv t) s = .next (s.at t)) ∧
    (s.pwr.swap = .openOvervoltage → mv < 58500 →
      exec (.overvoltageClose mv t) s = .next { s.at t with pwr := { s.pwr with swap :=
        if s.ao.stage = .off ∨ s.ao.stage = .inReset ∧ s.ao.resetRank = 3 then .charging else .closed } }) ∧
    (s.pwr.swap = .openOvervoltage → 58500 ≤ mv → exec (.overvoltageClose mv t) s = .next (s.at t))) ∧
  (∀ (s : State) (mv ma forUs t : Nat),
    (mv < 36000 → exec (.hotSwapTurnOff mv ma forUs t) s = .next { s.at t with pwr := { s.pwr with swap := .open_ } }) ∧
    (59500 < mv → s.pwr.swap = .charging ∨ s.pwr.swap = .closed →
      exec (.hotSwapTurnOff mv ma forUs t) s = .next { s.at t with pwr := { s.pwr with swap := .openOvervoltage } }) ∧
    (36000 ≤ mv → mv ≤ 59500 → s.pwr.swap = .closed → 42000 < ma ∧ 2000 ≤ forUs ∨ 60000 < ma ∧ 10 ≤ forUs →
      exec (.hotSwapTurnOff mv ma forUs t) s = .next { s.at t with pwr := { s.pwr with swap := .openCurrent } }) ∧
    (36000 ≤ mv → mv ≤ 59500 → s.pwr.swap = .charging → exec (.hotSwapTurnOff mv ma forUs t) s = .next (s.at t))) ∧
  ∀ (s : State) (bankMv : Nat) (random : BitVec 64) (refclk : Bool),
    (43500 ≤ bankMv → random ≠ 0 →
      s.pwr.swap = .charging ∨ (s.ao.stage = .inReset ∧ s.ao.resetRank = 3 ∧ s.pwr.swap = .closed) →
      ∃ x, exec (.aoPowerGood bankMv ⟨random, refclk⟩) s = .next x ∧ x.pwr.swap = .closed ∧ x.ao.now = 0 ∧ x.ao.epoch = random ∧
        x.ao.prior = 0 ∧ x.ao.nodeResets = 0 ∧ x.ao.boots = 1 ∧ x.ao.resetRank = 0 ∧ x.ao.watchdogOn = true ∧
        (x.ao.stage = .waitBme ∨ x.ao.stage = .recovery) ∧ (s.pwr.swap = .closed → x.ao.cause = s.ao.cause) ∧
        (s.pwr.swap = .charging → x.ao.cause = 0x01) ∧ x.pins.resetN = true ∧ x.pins.resetDriven = false ∧ x.pins.refclkUsed = refclk ∧
        (x.pins.perstN = true → .linkDetect ∈ x.out)) ∧
    (bankMv < 43500 → exec (.aoPowerGood bankMv ⟨random, refclk⟩) s = .next s)

/-! ### Resets -/

/-- R531 to R541, R556, R557, R63, R502: which source begins a node, cold or interface reset and with which cause, the end of the
stretch, the host link after PERST_N, and step 11 of start-up at Bus Master Enable. Model's choices: logs 64, 66, 67, 68 and 70. -/
def Obligations.ResetClasses : Prop :=
  (∀ (s : State) (lowNs t : Nat), s.alive = true ∨ s.ao.stage = .shutdown ∧ (∀ c ∈ s.pwr.junctions, c < 90) →
    s.pins.resetDriven = false →
    (2000 ≤ lowNs → ∃ x, exec (.resetNAssert lowNs t) s = .next x ∧ NodeResetBegun s x 0x10) ∧
    (lowNs < 2000 → exec (.resetNAssert lowNs t) s = .next (s.at t))) ∧
  (∀ (s : State) (lowNs t : Nat), s.alive = true → 0 < s.fns.length →
    (1000 ≤ lowNs → s.ao.opt.perstScope = 1 →
      ∃ x, exec (.perstNAssert lowNs t) s = .next x ∧ NodeResetBegun s x 0x14 ∧ x.pins.perstN = false) ∧
    (1000 ≤ lowNs → s.ao.opt.perstScope ≠ 1 →
      ∃ x, exec (.perstNAssert lowNs t) s = .next x ∧ InterfaceReset s x ∧ x.pins.perstN = false ∧ x.pins.linkDetect = false) ∧
    (lowNs < 1000 → exec (.perstNAssert lowNs t) s = .next (s.at t))) ∧
  (∀ (s : State) (refclk : Bool) (t : Nat),
    (s.alive = true → s.pins.linkDetect = false →
      exec (.perstNDeassert ⟨refclk, t⟩) s = .next { s.at t with
        pins := { s.pins with perstN := true, linkDetect := true, crs := s.fns.any (·.resetBusy),
                              refclkUsed := refclk }, out := s.out ++ [.linkDetect] }) ∧
    (s.alive = false ∨ s.pins.linkDetect = true →
      exec (.perstNDeassert ⟨refclk, t⟩) s = .next { s.at t with pins := { s.pins with perstN := true } })) ∧
  (∀ (s : State) (linkDown refclk : Bool) (t : Nat), 0 < s.fns.length →
    (s.alive = true → s.pins.linkDetect = true →
      ∃ x, exec (.hotReset linkDown ⟨refclk, t⟩) s = .next x ∧ InterfaceReset s x ∧ x.pins.linkDetect = true ∧ x.pins.refclkUsed = refclk) ∧
    (s.alive = false ∨ s.pins.linkDetect = false → exec (.hotReset linkDown ⟨refclk, t⟩) s = .next (s.at t))) ∧
  (∀ (s : State) (t : Nat),
    (s.alive = true → s.ao.watchdogOn = true → ∃ x, exec (.aoWatchdogBite t) s = .next x ∧ NodeResetBegun s x 0x11) ∧
    (s.ao.watchdogOn = false → exec (.aoWatchdogBite t) s = .next (s.at t))) ∧
  (∀ (s : State) (v : BitVec 32) (t : Nat), s.alive = true →
    (rstRequest v = 1 → ∃ x, exec (.rstNodeRequest v t) s = .next x ∧ NodeResetBegun s x 0x13) ∧
    (rstRequest v ≠ 1 → exec (.rstNodeRequest v t) s = .next (s.at t)) ∧
    (rstRequest v = 2 →
      ∃ x, exec (.rstColdRequest v t) s = .next x ∧ x.ao.stage = .inReset ∧ x.ao.resetRank = 3 ∧ x.ao.cause = 0x04 ∧
        x.pins.resetN = false ∧ x.pins.resetDriven = true ∧ x.reqs = [] ∧ x.queues = [] ∧ x.cfg = {} ∧ x.peers = [] ∧
        x.ports = List.replicate 8 {}) ∧
    (rstRequest v ≠ 2 → exec (.rstColdRequest v t) s = .next (s.at t))) ∧
  (∀ (s : State) (high refclk : Bool) (random : BitVec 64) (t : Nat), s.ao.stage = .inReset → s.ao.resetRank = 2 →
    (s.ao.resetAt + 25250 ≤ (s.at t).now → high = true → random ≠ 0 → random ≠ s.ao.epoch →
      ∃ x, exec (.nodeResetStretchEnd high ⟨random, refclk⟩ t) s = .next x ∧ x.ao.epoch = random ∧ x.ao.resetRank = 0 ∧
        (x.ao.stage = .waitBme ∨ x.ao.stage = .recovery) ∧ x.ao.cause = s.ao.cause ∧ x.ao.boots = s.ao.boots + 1 ∧
        x.ao.watchdogOn = true ∧ x.ao.readySeen = false ∧ x.pins.resetN = true ∧ x.pins.resetDriven = false ∧
        x.pins.refclkUsed = refclk ∧ x.cfg = s.cfg ∧
        (x.pins.perstN = true → .linkDetect ∈ x.out) ∧
        (x.ao.stage = .waitBme → ∀ p, p < 8 → (s.port p).st = .kept → x.portOn p = true →
          (x.port p).st = if (s.port p).width = 8 then .up else .narrow)) ∧
    (s.ao.resetAt + 25250 ≤ (s.at t).now → high = false →
      exec (.nodeResetStretchEnd high ⟨random, refclk⟩ t) s =
        .next { s.at t with pins := { s.pins with resetDriven := false, resetN := false } }) ∧
    ((s.at t).now < s.ao.resetAt + 25250 → exec (.nodeResetStretchEnd high ⟨random, refclk⟩ t) s = .next (s.at t))) ∧
  ∀ (s : State) (probes : List (Nat × Bool)) (t : Nat),
    (s.pins.bme = false → s.pins.linkDetect = true →
      (s.ao.stage = .waitBme ∨ s.ao.stage = .serving → ∃ x, exec (.busMasterEnableSet probes t) s = .next x ∧ x.pins.bme = true ∧
        ∀ p ∈ s.pools, p.live = true → .poolProbe p.id ∈ x.out ∧
          ((∀ y ∈ probes, y.1 = p.id → y.2 = false) → ∀ q ∈ x.pools, q.id = p.id → q.st = .lost)) ∧
      (s.ao.stage = .waitBme →
        ∃ x, exec (.busMasterEnableSet probes t) s = .next x ∧ x.pins.bme = true ∧ x.ao.stage = .serving ∧ x.ao.readySeen = true ∧
          x.ao.watchdog = s.cfg.watchdogMs * Config.ticksPerMs ∧
          ∀ f, f < 128 → f < s.fns.length → s.fnExists f = true → (s.fn f).resetBusy = false → (x.fn f).ready = true) ∧
      (s.ao.stage = .recovery → 0 < s.fns.length → (s.fn 0).resetBusy = false →
        ∃ x, exec (.busMasterEnableSet probes t) s = .next x ∧
          x = { s.at t with pins := { s.pins with bme := true }, fns := x.fns } ∧ x.fn 0 = { s.fn 0 with ready := true } ∧
          ∀ f, f ≠ 0 → x.fn f = s.fn f) ∧
      (s.ao.stage = .serving → s.pools = [] →
        exec (.busMasterEnableSet probes t) s = .next { s.at t with pins := { s.pins with bme := true } })) ∧
    (s.pins.bme = true ∨ s.pins.linkDetect = false → exec (.busMasterEnableSet probes t) s = .next (s.at t))

/-! ### Functions that come, reset and go -/

/-- R53, R54, R437, R438, R457 to R462, R467: a function reset ends its requests, empties its mailbox and drops its queues, regions
and rings; VFs come and go with VF Enable; a reset is over once nothing of the function is left; a cancellation filter leaves none
of the matching searches of a peer's function and is confirmed; a fault stops a guest. Model's choices: logs 51, 52 and 87. -/
def Obligations.FunctionResets : Prop :=
  (∀ (s : State) (fn t : Nat) (vfReset : Bool), s.fnExists fn = true →
    (fn < s.fns.length → fn < s.mboxes.length → (s.fn fn).resetBusy = false →
      ∃ x, exec (.initiateFunctionLevelReset fn vfReset t) s = .next x ∧ (x.fn fn).resetBusy = true ∧ (x.fn fn).ready = false ∧
        (x.fn fn).resetAt = (s.at t).now ∧ (x.fn fn).vecs = List.replicate 64 {} ∧ (x.fn fn).msixEnable = false ∧
        (x.fn fn).rings = [] ∧ (x.fn fn).handles = [] ∧ (x.fn fn).evQueueError = false ∧
        x.mbox fn = { discarded := (s.mbox fn).st == .posted || (s.mbox fn).st == .busy, req := (s.mbox fn).req, resp := (s.mbox fn).resp } ∧
        (∀ u ∈ x.queues, u.fn ≠ fn) ∧ (∀ r ∈ x.reqs, r.fn ≠ fn) ∧ (∀ g ∈ x.regions, g.fn ≠ fn) ∧
        (fn = 0 → x.pins.vfEnable = false) ∧
        (fn ≠ 0 → x.pins = { s.pins with alertN := x.pins.alertN } ∧ x.queues = s.queues.filter (·.fn != fn) ∧
          ∀ g, g ≠ fn → (x.fn g).resetBusy = (s.fn g).resetBusy ∧ (x.fn g).ready = (s.fn g).ready ∧ (x.fn g).vecs = (s.fn g).vecs)) ∧
    (fn ≠ 0 → (s.fn fn).resetBusy = true →
      ∃ x, exec (.initiateFunctionLevelReset fn vfReset t) s = .next x ∧ Logged x 0 0x21 (toLE 2 fn ++ toLE 1 (b2n vfReset)) ∧
        OnlyLogged (s.at t) x)) ∧
  (∀ (s : State) (fn t : Nat) (vfReset : Bool), s.fnExists fn = false →
    exec (.initiateFunctionLevelReset fn vfReset t) s = .next (s.at t)) ∧
  (∀ (s : State) (t : Nat),
    (s.pins.vfEnable = true →
      ∃ x, exec (.vfEnableClear t) s = .next x ∧ x.pins.vfEnable = false ∧
        ∀ f, 0 < f → f ≤ s.pins.numVfs → f < 128 → f < s.fns.length → (x.fn f).resetBusy = true ∧
          ((s.fn f).resetBusy = false → (x.fn f).ready = false ∧ (∀ u ∈ x.queues, u.fn ≠ f) ∧ ∀ r ∈ x.reqs, r.fn ≠ f)) ∧
    (s.pins.vfEnable = false → exec (.vfEnableClear t) s = .next (s.at t))) ∧
  (∀ (s : State) (numVfs t : Nat),
    (s.pins.vfEnable = false →
      ∃ x, exec (.vfEnableSet numVfs t) s = .next x ∧
        x = { s.at t with pins := { s.pins with vfEnable := true, numVfs := numVfs }, fns := x.fns } ∧
        (s.ao.stage ≠ .serving → x.fns = s.fns) ∧
        ∀ f, (s.ao.stage = .serving → 0 < f → f ≤ numVfs → f < 128 → f < s.fns.length → (s.fn f).resetBusy = false →
            x.fn f = { s.fn f with ready := true }) ∧
          (f = 0 ∨ numVfs < f ∨ (s.fn f).resetBusy = true → x.fn f = s.fn f)) ∧
    (s.pins.vfEnable = true → exec (.vfEnableSet numVfs t) s = .next (s.at t))) ∧
  (∀ (s : State) (fn t : Nat), (s.fn fn).resetBusy = true →
    (s.functionBusy fn = false →
      ∃ x, exec (.functionResetComplete fn t) s = .next x ∧
        x = { s.at t with fns := x.fns, pins := { s.pins with crs := x.pins.crs } } ∧
        x.fn fn = { s.fn fn with resetBusy := false, ready := s.fnExists fn && s.ao.stage == .serving } ∧
        (∀ g, g ≠ fn → x.fn g = s.fn g) ∧ ((∀ f ∈ x.fns, f.resetBusy = false) → x.pins.crs = false) ∧
        ((∃ f ∈ x.fns, f.resetBusy = true) → x.pins.crs = s.pins.crs)) ∧
    (s.functionBusy fn = true → exec (.functionResetComplete fn t) s = .next (s.at t))) ∧
  (∀ (s : State) (f : CancelFilter) (t : Nat),
    ∃ x, exec (.cancelFilterReceive f t) s = .next x ∧ ((s.at t).now, f) ∈ x.filters ∧
      (∀ h ∈ x.eng.shares, filterHits f h.msg.key h.msg.function = false) ∧
      x.eng.inShares = s.eng.inShares.filter (fun m => !filterHits f m.key m.function) ∧
      x.eng.inMembers = s.eng.inMembers.filter (fun m => !filterHits f m.key m.function) ∧
      x.sched.reserved = s.sched.reserved.filter (fun z => !tagHits (filterHits f) z.tag) ∧
      FrameTo x f.origin (.filterConfirm f) ∧ x.queues = s.queues ∧ x.ports = (s.at t).ports) ∧
  (∀ (s : State) (t : Nat), exec (.cancelHoldTimeout t) s =
    .next { s.at t with heldNums := s.heldNums.filter fun h => decide ((s.at t).now < h.until_) }) ∧
  ∀ (s : State) (fn : Nat),
    ((s.fn fn).guestState = 2 →
      ∃ x, exec (.guestFault fn) s = .next x ∧ x = { s with fns := x.fns } ∧ x.fn fn = { s.fn fn with guestState := 3 } ∧
        ∀ g, g ≠ fn → x.fn g = s.fn g) ∧
    ((s.fn fn).guestState ≠ 2 → exec (.guestFault fn) s = .next s)

/-! ### Fabric ports and pools -/

/-- R469 to R483, R498 to R500, R536, R537: a received frame is refused, discarded or delivered; refusals and credits; a failed
lane, a retrain, a port that goes down, dark or up; hellos; frames that found no port; a pool's probe, loss and shortage. Model's
choices: logs 50, 53, 54, 55 and 56. -/
def Obligations.FabricPortsAndPools : Prop :=
  (∀ (s : State) (port t : Nat) (frame : Bytes) (stale : Bool) (h : FrameHead) (ch want : Nat), frameHead frame = h → ch = h.channel % 4 →
    want = (s.port port).rxSeq.getD ch 0 →
    ((s.port port).carries = false → exec (.frameReceive port frame stale t) s = .next (s.at t)) ∧
    ((s.port port).carries = true →
      (frameCrcGood frame = false →
        ∃ x, exec (.frameReceive port frame stale t) s = .next x ∧ x.out = s.out ++ [.nack port ch want] ∧
          (x.port port).rxSeq = (s.port port).rxSeq ∧ x = { s.at t with ports := x.ports, pwr := x.pwr, out := x.out }) ∧
      (frameCrcGood frame = true → h.seq ≠ want →
        ∃ x, exec (.frameReceive port frame stale t) s = .next x ∧ (x.port port).rxSeq = (s.port port).rxSeq ∧
          x = { s.at t with ports := x.ports, pwr := x.pwr }) ∧
      (frameCrcGood frame = true → h.seq = want → tagGood (slice frame 16 32) = false →
        ∃ x, exec (.frameReceive port frame stale t) s = .next x ∧ x.out = s.out ++ [.nack port ch want] ∧
          (x.port port).tagDiscards = (s.port port).tagDiscards + 1 ∧ (x.port port).rxSeq = (s.port port).rxSeq ∧
          x = { s.at t with ports := x.ports, pwr := x.pwr, out := x.out }) ∧
      (frameCrcGood frame = true → h.seq = want → tagGood (slice frame 16 32) = true →
        ∃ x, exec (.frameReceive port frame stale t) s = .next x ∧ .ack port ch want ∈ x.out ∧
          (x.port port).rxSeq = (s.port port).rxSeq.set ch ((want + 1) % 2 ^ 32) ∧
          (x.port port).rxBytes = (s.port port).rxBytes + BitVec.ofNat 64 frame.length ∧ x.pwr.frameAt = (s.at t).now ∧
          (ch ≠ 0 → .credits port ch ((frame.length + 63) / 64) ∈ x.out) ∧
          (h.channel = 0 → h.dest = s.nodeId → stale = false → s.filters = [] → h.tag.kind ≠ 0x11 →
            x.sched.reserved = s.sched.reserved ++ [⟨reservedQueue h.tag, h.tag, slice frame 48 h.payload, port⟩]) ∧
          (h.dest ≠ s.nodeId ∨ stale = true → x.sched = s.sched ∧ x.heldNums = s.heldNums) ∧
          x = { s.at t with ports := x.ports, pwr := x.pwr, out := x.out, sched := x.sched, heldNums := x.heldNums }))) ∧
  (∀ (s : State) (port channel seq : Nat), (s.port port).carries = true →
    ((s.port port).holds channel seq = false →
      ∃ x, exec (.nackReceive port channel seq) s = .next x ∧ x = { s with ports := x.ports } ∧
        x.port port = { s.port port with retries := (s.port port).retries + 1 }) ∧
    ((s.port port).holds channel seq = true →
      ((s.port port).before channel seq ≠ [] ∨ (s.port port).refused.getD channel 0 < 15 →
        ∃ x, exec (.nackReceive port channel seq) s = .next x ∧ (x.port port).retries = (s.port port).retries + 1 ∧
          (x.port port).st = (s.port port).st ∧
          ∀ f ∈ (s.port port).retry, f.channel = channel → f ∉ (s.port port).before channel seq →
            .frame port f ∈ x.out ∧ f ∈ (x.port port).retry) ∧
      ((s.port port).before channel seq = [] → 15 ≤ (s.port port).refused.getD channel 0 →
        ∃ x, exec (.nackReceive port channel seq) s = .next x ∧ (x.port port).st = .training ∧
          (x.port port).retrains = (s.port port).retrains + 1 ∧ (x.port port).retry = (s.port port).retry ∧
          Logged x 6 2 (toLE 1 port)))) ∧
  (∀ (s : State) (port channel units : Nat), port < s.ports.length →
    (∃ x, exec (.creditGrant port channel units none) s = .next x ∧ x = { s with ports := x.ports } ∧
      (x.port port).credits = (s.port port).credits.modify channel (fun n => min 2048 (n + units)) ∧
      ∀ p, p ≠ port → x.port p = s.port p) ∧
    (∀ n, (s.port port).holds channel n = true →
      ∃ x, exec (.creditGrant port channel units (some n)) s = .next x ∧
        (x.port port).credits = (s.port port).credits.modify channel (fun n => min 2048 (n + units)) ∧
        (∀ f ∈ (s.port port).before channel n, f ∉ (x.port port).retry) ∧
        ∀ f ∈ (s.port port).retry, f.channel ≠ channel → f ∈ (x.port port).retry)) ∧
  (∀ (s : State) (port lane i t : Nat), (s.port port).carries = true →
    ((s.port port).rxInUse.getLsbD lane = true → (s.port port).spareFree = true →
      ((healthyLanes (s.port port).rxFailed).find? fun i => !(s.port port).rxInUse.getLsbD i) = some i →
      ∃ x, exec (.laneSwap port lane true t) s = .next x ∧ x.out = s.out ++ [.laneSwap port lane] ∧ Logged x 6 1 (toLE 1 port) ∧
        x.port port = { (s.at t).port port with
          rxInUse := (s.port port).rxInUse &&& ~~~(laneWord [lane]) ||| laneWord [i],
          rxFailed := (s.port port).rxFailed ||| laneWord [lane], spareFree := false, swaps := (s.port port).swaps + 1 } ∧
        OnlyLogged { s.at t with ports := x.ports, out := x.out } x) ∧
    ((s.port port).txInUse.getLsbD lane = true → (s.port port).txSpareFree = true →
      ((healthyLanes (s.port port).txFailed).find? fun i => !(s.port port).txInUse.getLsbD i) = some i →
      ∃ x, exec (.laneSwap port lane false t) s = .next x ∧ Logged x 6 1 (toLE 1 port) ∧
        x.port port = { (s.at t).port port with
          txInUse := (s.port port).txInUse &&& ~~~(laneWord [lane]) ||| laneWord [i],
          txFailed := (s.port port).txFailed ||| laneWord [lane], txSpareFree := false, swaps := (s.port port).swaps + 1 } ∧
        OnlyLogged { s.at t with ports := x.ports } x) ∧
    ((s.port port).rxInUse.getLsbD lane = true → (s.port port).spareFree = false →
      ∃ x, exec (.portRetrain port lane 0 t) s = .next x ∧ (x.port port).st = .training ∧ (x.port port).trainAt = (s.at t).now ∧
        (x.port port).retrains = (s.port port).retrains + 1 ∧ (x.port port).rxFailed = (s.port port).rxFailed ||| laneWord [lane] ∧
        (x.port port).retry = (s.port port).retry ∧ Logged x 6 2 (toLE 1 port) ∧
        OnlyLogged { s.at t with ports := x.ports, peers := x.peers, sched := x.sched } x)) ∧
  (∀ (s : State) (port lane width t : Nat), (s.port port).st = .training →
    ((s.at t).now ≤ (s.port port).trainAt + 100 * Config.ticksPerMs → (s.port port).canTrain width = true →
      ∃ x, exec (.portRetrain port lane width t) s = .next x ∧ (x.port port).st = (if width = 8 then .up else .narrow) ∧
        (x.port port).width = width ∧ ∀ f ∈ (s.port port).retry, .frame port f ∈ x.out) ∧
    ((s.port port).trainAt + 100 * Config.ticksPerMs ≤ (s.at t).now →
      ∃ x, exec (.portDown port t) s = .next x ∧ (x.port port).st = .down ∧ (x.port port).retry = [] ∧ Logged x 6 3 (toLE 1 port) ∧
        ∀ f ∈ (s.port port).retry, f ∈ x.sched.egress.map (·.2) ∨ f ∈ x.sched.heldFrames.map (·.2)) ∧
    ((s.at t).now < (s.port port).trainAt + 100 * Config.ticksPerMs → exec (.portDown port t) s = .next (s.at t))) ∧
  (∀ (s : State) (port t : Nat), port < s.ports.length →
    ∃ x, exec (.portDark port t) s = .next x ∧ (x.port port).st = .dark ∧ (x.port port).known = false ∧ (x.port port).retry = [] ∧
      (∀ f ∈ (s.port port).retry, f ∈ x.sched.egress.map (·.2) ∨ f ∈ x.sched.heldFrames.map (·.2)) ∧
      (∀ p, p ≠ port → x.port p = (s.at t).port p) ∧
      x = { s.at t with ports := x.ports, sched := x.sched, peers := x.peers }) ∧
  (∀ (s : State) (port width t : Nat), port < s.ports.length → s.portOn port = true →
    (s.port port).st = .dark ∨ (s.port port).st = .down → (s.port port).canTrain width = true →
    s.ao.stage = .serving ∨ s.ao.stage = .waitBme → s.pwr.st ≠ .calm →
    ∃ x, exec (.linkUp port width t) s = .next x ∧ (x.port port).st = (if width = 8 then .up else .narrow) ∧
      (x.port port).width = width ∧ (x.port port).credits = [2048, 2048, 2048, 2048] ∧ (x.port port).txSeq = [0, 0, 0, 0] ∧
      (x.port port).rxSeq = [0, 0, 0, 0] ∧ .hello port ⟨s.nodeId, port, false, s.ao.epoch.toNat⟩ ∈ x.out ∧
      (∀ p, p ≠ port → x.port p = (s.at t).port p) ∧
      x = { s.at t with ports := x.ports, out := x.out, sched := x.sched, peers := x.peers }) ∧
  (∀ (s : State) (port t : Nat) (h : Hello), (s.port port).carries = true →
    (h.node = s.nodeId →
      ∃ x, exec (.helloReceive port h t) s = .next x ∧ (x.port port).st = .conflict ∧ Logged x 6 4 (toLE 1 port)) ∧
    (h.node ≠ s.nodeId →
      ∃ x, exec (.helloReceive port h t) s = .next x ∧ (∃ p ∈ x.peers, p.node = h.node ∧ p.epoch = h.epoch) ∧
        (s.switched = false → (x.port port).known = true ∧ (x.port port).neighbour = h.node ∧
          (x.port port).neighbourPort = h.port % 8 ∧ (x.port port).resting = h.resting) ∧
        (h.resting = false → (∀ u ∈ x.unsent, u.1 ≠ h.node) ∧ (∀ p ∈ x.peers, p.node = h.node → p.told = true) ∧
          ((∀ p, s.peers.find? (·.node == h.node) = some p → p.told = false) →
            ∀ c ∈ s.colls, c.spec.id / 2 ^ 20 = s.nodeId → c.st = .active → FrameTo x h.node (.announce (.created c.spec)))) ∧
        ∀ p, s.peers.find? (·.node == h.node) = some p → p.epoch ≠ h.epoch →
          ∀ y ∈ x.eng.shares, y.msg.key.origin ≠ h.node)) ∧
  (∀ (s : State) (dest t : Nat) (io : HostIO),
    (∃ x, exec (.unreachableTimeout dest io t) s = .next x ∧
      (∀ z ∈ x.sched.heldFrames, z.2.dest = dest → (s.at t).now < z.1 + Config.ticksPerS) ∧
      ∀ z ∈ s.sched.heldFrames,
        (z.2.dest ≠ dest ∨ (s.at t).now < z.1 + Config.ticksPerS → z ∈ x.sched.heldFrames) ∧
        (z.2.dest = dest → z.1 + Config.ticksPerS ≤ (s.at t).now →
          (∀ m, z.2.body = .share m → m.key.origin = s.nodeId → s.emptyAnswer m m.shards .unreached ∈ x.eng.inAnswers) ∧
          (∀ k l, z.2.body = .barrierShare k l → k.origin = s.nodeId → x.req? k.num = none) ∧
          (∀ k l, z.2.body = .flushShare k l → k.origin = s.nodeId → x.req? k.num = none))) ∧
    ((∀ z ∈ s.sched.heldFrames, z.2.dest = dest → (s.at t).now < z.1 + Config.ticksPerS) →
      exec (.unreachableTimeout dest io t) s = .next (s.at t))) ∧
  (∀ (s : State) (pool t : Nat) (p : Pool), s.pool? pool = some p → p.live = true →
    (∀ ok, s.pins.bme = true → p.lastProbe + 100 * Config.ticksPerMs ≤ (s.at t).now →
      ∃ x, exec (.poolProbeTick pool ok t) s = .next x ∧ x.pool? pool = some { p with lastProbe := (s.at t).now } ∧
        x.out = s.out ++ (if ok then [.poolProbe pool] else [.poolProbe pool, .poolProbe pool]) ∧
        x = { s.at t with pools := x.pools, out := x.out }) ∧
    (∀ ok, (s.at t).now < p.lastProbe + 100 * Config.ticksPerMs → exec (.poolProbeTick pool ok t) s = .next (s.at t)) ∧
    (s.pins.bme = true →
      ∃ x, exec (.poolAccessFailure pool false t) s = .next x ∧
        (x.pool? pool).map (fun q => (q.st, q.lostAt)) = some (.lost, (s.at t).now) ∧
        Logged x 7 3 (toLE 4 pool) ∧ (∀ c ∈ x.colls, c.placement ≠ some pool) ∧
        (∀ f, f < s.fns.length → s.fnExists f = true → (x.fn f).evPool = true) ∧
        (∀ d ∈ x.shards, ∀ y ∈ d.slots, y.home = .t3 pool → y.born = true → y.bit = false → y.lost = true) ∧
        ∀ h ∈ s.eng.shares, h.pool = some pool → h.msg.params.retryAllowed = false ∨ h.rerunDone = true → x.share? h.msg.key = none) ∧
    (∀ r sp answers got due gone, s.pins.bme = true → s.req? r.num = some r → r.body = .search sp answers got due →
      gone = (got.filter fun a => a.node == s.nodeId && a.pools.contains pool).flatMap (fun a => a.shards.map (·.1)) →
      ∃ x, exec (.poolAccessFailure pool false t) s = .next x ∧ (x.req? r.num).map (·.body) =
        some (.search sp (answers.map fun i => if gone.contains i.1 then (i.1, .failed stPoolLost 0) else i) got due)) ∧
    (∀ r sp answers got due, s.pins.bme = true → s.req? r.num = some r → r.body = .search sp answers got due → r.merge.pool = some pool →
      sp.retryAllowed = false →
      ∃ x, exec (.poolAccessFailure pool false t) s = .next x ∧ (x.req? r.num).map (·.merge) = some { lost := true }) ∧
    (s.pins.bme = false → exec (.poolAccessFailure pool false t) s = .next (s.at t)) ∧
    exec (.poolAccessFailure pool true t) s = .next (s.at t) ∧
    (∀ short now, now = (if p.kind = 0 then decide (20 * (p.cap - p.used) < p.cap) else short) → now ≠ p.short →
      ∃ x, exec (.poolShort pool short t) s = .next x ∧
        x.pool? pool = some { p with short := now, relayed := p.kind == 1 && now } ∧
        Logged x 7 (if now then 4 else 5) (toLE 4 pool) ∧ OnlyLogged { s.at t with pools := x.pools } x) ∧
    ∀ short, (if p.kind = 0 then decide (20 * (p.cap - p.used) < p.cap) else short) = p.short →
      exec (.poolShort pool short t) s = .next (s.at t))

/-! ### Sideband -/

/-- R83, R92, R535, R590, R601 to R604: the dynamic address is taken once, by ENTDAA or at the static address of the slot; while
transfers reach the endpoint each MCTP control and PLDM request is answered, in the encodings of log 20, and a platform event is
collected in order; a Zizon request waits at the mailbox arbiter as requester 128. Model's choices: log 20. -/
def Obligations.Sideband : Prop :=
  (∀ (s : State) (addr : Nat), s.targetUp = true →
    (s.pins.i3cAddr = none →
      exec (.entdaa addr) s = .next { s with pins := { s.pins with i3cAddr := some addr } } ∧
      exec (.setdasa (0x30 + s.pins.slotId % 16) addr) s = .next { s with pins := { s.pins with i3cAddr := some addr } } ∧
      ∀ a, a ≠ 0x30 + s.pins.slotId % 16 → exec (.setdasa a addr) s = .next s) ∧
    (s.pins.i3cAddr ≠ none → exec (.entdaa addr) s = .next s ∧ ∀ a, exec (.setdasa a addr) s = .next s)) ∧
  (∀ s : State, s.endpointUp = true →
    (∀ eid, 8 ≤ eid → eid ≤ 254 →
      exec (.setEndpointId eid) s = .next { s with pins := { s.pins with eid := eid }, out := s.out ++ [.mctp [0, 0, eid, 0]] }) ∧
    (∀ eid, eid < 8 ∨ 254 < eid → exec (.setEndpointId eid) s = .next { s with out := s.out ++ [.mctp [2]] }) ∧
    exec .getEndpointId s = .next { s with out := s.out ++ [.mctp [0, s.pins.eid, 0, 0]] } ∧
    (∃ l : List Nat, l.length = 16 ∧ exec .getEndpointUuid s = .next { s with out := s.out ++ [.mctp (0 :: l)] }) ∧
    (∃ v, exec .getMctpVersionSupport s = .next { s with out := s.out ++ [.mctp [0, 1, v]], free := s.free + 1 }) ∧
    exec .getMessageTypeSupport s = .next { s with out := s.out ++ [.mctp [0, 3, 0x00, 0x01, 0x7E]] } ∧
    (∀ n v, s.sensorReading n = some v → exec (.pldmSensorRead (some n)) s = .next { s with out := s.out ++ [.mctp [0, v]] }) ∧
    exec (.pldmSensorRead (some 1)) s = .next { s with out := s.out ++ [.mctp [0, s.pwr.inputMv]] } ∧
    exec (.pldmSensorRead (some 4)) s = .next { s with out := s.out ++ [.mctp [0, (hottest s.pwr.junctions).2]] } ∧
    exec (.pldmSensorRead (some 6)) s = .next { s with out := s.out ++ [.mctp [0, s.pwr.st.code]] } ∧
    exec (.pldmSensorRead (some 9)) s = .next { s with out := s.out ++ [.mctp [0x80]] } ∧
    (∃ l, exec (.pldmSensorRead none) s = .next { s with out := s.out ++ [.mctp (0 :: l)] } ∧
      (l.drop 16).take 9 = [0x44, 0x56, 0x2D, 0x4B, 0x4E, 0x38, 0x2D, 0x41, 0x31]) ∧
    (s.pins.platform = [] → exec .pollForPlatformEventMessage s = .next { s with out := s.out ++ [.mctp [0, 0]] }) ∧
    (∀ e l, s.pins.platform = e :: l → exec .pollForPlatformEventMessage s =
      .next { s with pins := { s.pins with platform := l }, out := s.out ++ [.mctp [0, 1, e.1, e.2]] })) ∧
  (∀ s : State, s.endpointUp = false → ∀ eid sensor, exec (.setEndpointId eid) s = .next s ∧ exec .getEndpointId s = .next s ∧
    exec .getEndpointUuid s = .next s ∧ exec .getMessageTypeSupport s = .next s ∧ exec (.pldmSensorRead sensor) s = .next s ∧
    exec .pollForPlatformEventMessage s = .next s) ∧
  ∀ (s : State) (request input : Bytes) (t : Nat),
    (s.endpointUp = true → s.alive = true →
      ((s.mbox 128).st = .idle → 128 < s.mboxes.length →
        ∃ x, exec (.sidebandZizonRequest request input t) s = .next x ∧
          x.mbox 128 = { st := .posted, copy := slice request 0 1792, input := some input, postedAt := (s.at t).now } ∧
          Waits x 0xA0 (.mailbox 128) ∧ (∀ m, m ≠ 128 → x.mbox m = s.mbox m) ∧
          x = { s.at t with mboxes := x.mboxes, arbs := x.arbs }) ∧
      ((s.mbox 128).st ≠ .idle →
        exec (.sidebandZizonRequest request input t) s = .next { s.at t with
          out := s.out ++ [.sideband (responseBytes (le request 0 2) stRetry 2 0 [] 0) []] })) ∧
    (s.endpointUp = false ∨ s.alive = false → exec (.sidebandZizonRequest request input t) s = .next (s.at t))
end

