-- ==== Sys2Proof/Tests/Slice0.lean ====
section
/-! SUPPORT. Tests: small states, ill-formed commands that the check refuses, the manual's worked examples, and for each
obligation with hypotheses a concrete state and operands that meet them. -/

namespace Sys2Proof.Tests

open Sys2Proof Sys2Proof.Machine

set_option Elab.async false

/-! ### Small states -/

/-- The node in service, with every function in existence and ready. -/
def node : State :=
  { State.reset with
    ao := { State.reset.ao with now := 1000, stage := .serving, readySeen := true },
    pins := { State.reset.pins with bme := true, linkDetect := true, vfEnable := true, numVfs := 127 },
    fns := State.reset.fns.map fun f => { f with ready := true } }

/-- A request area whose header names opcode `op` with an output of `len` bytes, and these fields (R86). -/
def request (op len : Nat) (f : List (Nat × Bytes)) : Bytes := layout 128 ((0, toLE 2 op) :: (16, toLE 4 len) :: f)

/-- `s` with requester `r` holding the grant of the mailbox arbiter for this command (R93). -/
def held (s : State) (r : Nat) (copy : Bytes) (input : Option Bytes) : State :=
  s.modMbox r fun m => { m with st := .busy, committing := true, copy := copy, input := input }

/-- `s` with arbiter `a` holding a grant of this work. -/
def grant (s : State) (a : Nat) (w : Work) : State := { s with arbs := [{ id := a, granted := [⟨0, 0, false, false, w⟩] }] }

/-- `s` with this work waiting at arbiter `a` since 0. -/
def waits (s : State) (a : Nat) (w : Work) : State := { s with arbs := [{ id := a, waiting := [⟨0, 0, false, false, w⟩] }] }

/-- A queue pair of 64 entries each way. -/
def queue (num fn : Nat) : Queue where
  num := num
  fn := fn
  st := .active
  errorCause := 0
  sqLog2 := 6
  cqLog2 := 6
  vector := 0
  minor := 0
  sqHead := 0
  sqTail := 0
  cqHead := 0
  cqTail := 0
  phase := true
  stopped := false
  inFlight := 0
  admitted := 0
  completed := 0
  sqAddr := 4096
  cqAddr := 8192
  coalCount := 1
  coalDelay := 0
  irqEnable := true
  pendingMsgs := 0
  firstAt := 0
  deficit := 0
  doorbellAt := 0
  barrier := none
  shardBarriers := []

/-- A request of function 1 on queue 3, numbered 7, with this entry (R117). -/
def req (op coll : Nat) (entry : Bytes) (body : Body) : Req where
  num := 7
  fn := 1
  qosClass := 0
  queue := 3
  cmdId := 9
  opcode := op
  collection := coll
  entry := entry
  rights := 63
  collOk := true
  admittedAt := 0
  seq := 0
  body := body

/-- A submission entry (R117). -/
def entry (op coll : Nat) (f : List (Nat × Bytes)) : Bytes := layout 128 ((0, toLE 2 op) :: (4, toLE 4 coll) :: f)

/-- Host memory takes everything and gives this input. -/
def host (b : Bytes) : HostIO := ⟨some b, true, true⟩

/-- A collection of 64 dimensions in one shard that this node owns. -/
def spec (id : Nat) : CollSpec where
  id := id
  name := layout 32 [(0, [0x61])]
  dimensions := 64
  projection := 64
  metric := 0
  group := 32
  guestbookEntries := 1024
  guestbookFull := 0
  lexical := false
  dwellUs := 1000
  shards := 1
  firstShard := 15 * 4096
  maxVectors := 4096
  creatingFunction := 1
  owners := [15]

/-- Collection `id`, ACTIVE. -/
def coll (id : Nat) : Coll where
  spec := spec id
  st := .active
  compress := false
  placement := none
  readTimes := []
  since := 0
  rights := [(1, 63)]
  setUp := []
  setupFailed := none
  nextModel := 1

/-- The identifier of the collection used here: sequence number 1 of node 15 (R145). -/
def cid : Nat := 15 * 2 ^ 20 + 1

/-- Its shard. -/
def sid : Nat := 15 * 4096

/-- A forming shard with nothing in it. -/
def shard : Shard where
  id := sid
  coll := cid
  ledger := 0
  counter := 5
  stage := .forming
  switchW := none
  training := false
  sampleCut := 0
  buffer := false
  l := 4
  l2 := 4
  l1 := 2
  formCut := none
  centroids := []
  centroidNorms := []
  matrix := []
  slots := []
  hist := []
  tombs := []
  readers := []
  waiting := []
  holds := []
  meanRecords := 0
  meanLists := 1
  lenAt := 0
  bufBytes := 0
  move := none
  forwardTo := none
  lost := false
  regen := none

/-- The node with that collection and shard. -/
def tenant : State := { node with colls := [coll cid], shards := [shard] }

/-- `s` with shard `d`. -/
def withShard (s : State) (d : Shard) : State := { s with shards := [d] }

/-- A search for one candidate. -/
def params : SearchParams where
  k := 1
  probes := 1
  l1Probes := 1
  rerankDepth := 0
  dwellLimit := 10
  timeoutMs := 1000
  readStamps := false
  lexical := false
  noExpand := false
  retryAllowed := false
  filterKind := 0
  ranges := []
  query := [1]
  terms := []

/-- Key of request 7 of this node, and of request 7 of node 3. -/
def ours : Key := ⟨15, 7⟩
def theirs : Key := ⟨3, 7⟩

/-- A share of that search for the shard. -/
def shareMsg : ShareMsg := ⟨theirs, 1, 0, 0, cid, [sid], params⟩

/-- The share's work on the shard. -/
def part : SShard where
  shard := sid
  stamp := 4
  forming := false
  stage := .coarse
  since := 0
  l1 := []
  probe := []
  skipped := 0
  flash := []
  cached := []
  seat := 0
  lists := []
  flashLeft := []
  nearLeft := []
  nearOffers := []
  covered := []
  degraded := false
  short := false

/-- The share on this node. -/
def share : Share where
  msg := shareMsg
  arrivedAt := 0
  shards := [part]
  t0 := 0
  t1 := 0
  t3 := 0
  pool := none
  rerunDone := false
  merged := none
  dups := 0
  missing := 0
  rows := []
  overBuf := []
  threshold := none
  final := false
  cuts := []
  failure := none
  lostRows := false

/-- `s` with share `h`. -/
def withShare (s : State) (h : Share) : State := { s with eng := { s.eng with shares := [h] } }

/-- A member of an INSERT of node 3 for the shard. -/
def memberMsg : MemberMsg := ⟨theirs, 0, 1, 0, 0, cid, sid, .insert, false, 77, 0, layout 272 [(0, [77])]⟩

/-- That member on this node. -/
def member : MWork where
  msg := memberMsg
  slot := none
  row := none
  scan := none
  delta := none
  l1 := 0
  lists := []
  stage := .resolved
  since := 0
  stamp := 0
  journaled := false
  t1 := 0
  t2 := 0

/-- `s` with member `w`. -/
def withMember (s : State) (w : MWork) : State := { s with eng := { s.eng with members := [w] } }

/-- Records of identifier 77. -/
def row : Row := ⟨77, [], 0, noList, noList, []⟩
def scan : ScanRec := ⟨77, [], 0, false, false, false, false, 0⟩

/-- Slot 2 holds identifier 77, live and at home in T2. -/
def slot : Slot := ⟨2, 77, row, .t2, false, 0, true, false, none, none, false⟩

/-- List 5 of the shard, on channel 0, with one version of one page. -/
def list : LList where
  id := 5
  shard := sid
  l1 := 0
  centroid := []
  norm := 0
  versions := [⟨1, 0, 0, [[scan]], 0, false, [], false⟩]
  gb := []
  chunks := 1
  oldChunks := 0
  urgent := false
  closed := false
  bornW := 0
  retiredW := none
  successors := []
  neighbours := []
  degraded := false
  channel := 0
  probes := []
  probedAt := none
  admitHot := none
  maint := none

/-- `s` with list `l`. -/
def withList (s : State) (l : LList) : State := { s with lists := [l] }

/-- The header of a package with one tensor of one row of 64 (R338). -/
def header : Bytes := layout 256 [(0, toLE 4 0x4C444D4B), (6, [1]), (8, toLE 8 64), (24, [1]), (28, [1]), (34, [64]), (36, [1])]

/-- Model 1 of the collection, of function 1. -/
def model : Model where
  id := 1
  coll := cid
  fn := 1
  st := .ready
  header := header
  tensors := [⟨0, 0, 0, 0, 0, 0, 0, 0, 1, 64, 0, 128⟩]
  parts := []
  lastPart := 0
  resident := false
  readyAt := [(sid, 2)]
  absentAt := []
  t1 := 0
  t2 := 0
  windowBy := none
  windowAt := none
  windowT1 := 0
  windowFn := 1
  trainer := none
  trainWait := []
  accumulated := 0
  version := 1
  durable := 1
  expertCache := []
  degraded := false

/-- Request 7 runs model 1. -/
def run : Run where
  num := 7
  coll := cid
  model := 1
  train := false
  waiting := false
  layer := 0
  segment := 0
  stage := .compute
  step := 0
  routed := false
  routedLater := false
  seqs := [(true, 1, 0)]
  slots := []
  nearBank := false
  left := none
  routes := []
  blocks := []
  mode := 0
  t0 := 0
  segmented := false
  waitingExperts := []
  inbox := []
  due := 2000
  prior := 0
  handle := 0
  readStamp := 4
  output := []
  tokensOut := 0
  nonFinite := 0

/-- Pool 1, of memory behind a switch port, attached. -/
def pool : Pool where
  id := 1
  kind := 0
  routing := 0
  bar := 0
  size := 2 ^ 41
  capTib := 1
  st := .attached
  returnData := false
  used := 0
  short := false
  relayed := false
  lastProbe := 0
  quiescedAt := none

/-- A frame for node 3. -/
def frame (body : Msg) : Frame := ⟨3, 3, 64, 0, ⟨0, 0, false, 0, 0, 15, 3, 0, 0, true, 0⟩, 3584, 0, body⟩

/-- `s` with tail `k` of requester 0 running. -/
def tailing (s : State) (k : TailKind) : State := { s with tails := [⟨some 0, k, 0⟩] }

/-- Work at rest: `s` with these always-on fields, power fields, pins. -/
def withFn (s : State) (f : Fn) : State := s.modFn 0 fun _ => f

/-- Readings with this junction temperature. -/
def readings (c : Nat) : Readings := ⟨48000, 1000, 48, [c, 0, 0, 0, 0, 0, 0], 20⟩

/-- Function 1 has queues 3 to 6 and two vectors; queue `u` exists. -/
def queued (u : Queue) : State :=
  { node.modFn 1 fun f => { f with queueFirst := 3, queueCount := 4, msixCount := 2 } with queues := [u] }

/-- A collection of node 3 with its shard on this node. -/
def theirSpec : CollSpec := { spec (3 * 2 ^ 20 + 1) with firstShard := 3 * 4096 }

/-- `s` in Doldrums. -/
def doldrums (s : State) : State := { s with pwr := { s.pwr with doldrums := true } }

/-- `s` with request `r` outstanding on queue 3 of function 1. -/
def posing (s : State) (r : Req) : State := { s with queues := [queue 3 1], reqs := [r] }

/-- A SEARCH for one candidate with an FP32 query (R221). -/
def searchEntry : Bytes := entry 1 cid [(24, toLE 4 256), (40, toLE 4 128), (52, [1]), (56, [1]), (68, toLE 4 256)]

/-- A request that searches with `p` until `due`. -/
def searching (p : SearchParams) (due : Nat) : Req := req 1 cid searchEntry (.search p [] [] due)

/-- An answer about the shard to that request. -/
def answer (l : List (Nat × ShardAnswer)) : Answer := ⟨ours, 15, l, [], 0, 0, 0, 0, none, []⟩

/-- A coach of the shard with node 3's search in seat 0. -/
def coach : Coach := ⟨1, sid, [(0, theirs, 1)], 100000, [⟨0, 5, 1, [0]⟩], false, []⟩

/-- CSU 0 runs that coach on list `l`. -/
def riding (l : LList) : State :=
  { grant { withShare tenant share with lists := [l] } 0 (.page 0) with
    eng := { node.eng with shares := [share], coaches := [coach], csus := node.eng.csus.set 0 { runs := [⟨1, [⟨0, 5, 1, [0]⟩], 0, []⟩] } } }

/-- A request whose members are these. -/
def mutating (l : List OMember) : Req := req 2 cid (entry 2 cid []) (.mutation l)

/-- Member `i` of our request, not yet answered. -/
def ownMember (i : Nat) : OMember := ⟨{ memberMsg with key := ours, index := i }, none, true, false⟩

/-- The node with that model, which function 1 may hold. -/
def trained (m : Model) : State :=
  { tenant.modFn 1 fun f => { f with t0Limit := 1, t1Limit := 2, t2Limit := 1 } with models := [m] }

/-- A MODEL-RUN of one sequence of one token (R356). -/
def runEntry : Bytes := entry 8 cid [(24, [16]), (40, [128]), (52, [1]), (56, [1]), (60, [1])]

/-- A TRAIN-STEP of one sequence with a learning rate of 1 (R366). -/
def trainEntry : Bytes := entry 9 cid [(24, [16]), (40, [32]), (49, [1]), (52, [1]), (56, [1]), (60, toLE 4 0x3F800000)]

/-- Function 1 owns region 3. -/
def regional : State := { trained model with regions := [⟨3, 1, []⟩] }

/-- A run of one write to the operand buffers of stack 0 (R395). -/
def pimRun : PimRun := ⟨7, [⟨1, 0, 0, 0, 1, 0, 0, 0, 32, 0, 0, 32⟩], 0, [(0, 0)], zeros 64, 0, 0, [], [], true, true⟩

/-- A journal entry of the shard's stamp 3. -/
def journal : JEntry := ⟨0, .switch sid, sid, 3, false, 64, 0, .waiting, true, 0, false, none, false⟩

/-- `s` with these blocks on flash channel 0. -/
def blocks (s : State) (l : List Block) : State :=
  { s with tier := { s.tier with channels := s.tier.channels.set 0 { blocks := l } } }

/-- Node 3 is the neighbour on port 0. -/
def neighboured (s : State) : State :=
  { s with peers := [⟨3, 1, 1, 0, 0, true⟩], ports := s.ports.set 0 { st := .up, width := 8, neighbour := 3, known := true } }

/-- A frame of one tag of kind `k` with no payload, its tag_check and its frame CRC in place (R46, R475). -/
def wire (k : Nat) : Bytes :=
  let tag := layout 24 [(0, toLE 2 (2048 * k))]
  let front := layout 16 [(0, [15]), (2, [3])] ++ tag ++ toLE 4 (crc32c tag) ++ zeros 4
  front ++ toLE 4 (crc32c front) ++ zeros 12

/-- The node in power state `p`. -/
def powered (p : PState) : State := { node with pwr := { node.pwr with st := p } }

/-- The node with an MCTP endpoint (R601, R602). -/
def managed : State := { node with pins := { node.pins with i3cAddr := some 9 } }

/-- The shard with these slots. -/
def holding (l : List Slot) : Shard := { shard with slots := l }

/-- The shard once formed, and with a read stamp of 3 held. -/
def formed : Shard := { shard with stage := .formed }
def behind : Shard := { shard with readers := [(.move, 3)] }

/-- The shard with a member waiting at its ledger and slot `y`. -/
def ledgered (y : Slot) : Shard := { shard with waiting := [(0, .member theirs 0)], slots := [y] }

/-- The collection with its shard on node 3. -/
def theirColl : Coll := { coll cid with spec := { spec cid with owners := [3] } }

/-- The share waiting for a seat, with all sources done, ranking `k`, and gathering a row. -/
def seating : SShard := { part with stage := .seat, probe := [5] }
def seated : Share := { share with shards := [seating] }
def scored : Share := { share with shards := [{ part with stage := .done }] }
def ranking (k : Nat) : Share := { scored with msg := { shareMsg with params := { params with k := k } } }
def gathering : Share := { share with rows := [(sid, 2)], merged := some [] }

/-- A Porter read of slot 2 for that share. -/
def porting : State :=
  { withShard node (holding [slot]) with
    colls := [coll cid], eng := { node.eng with shares := [gathering], porter := [(0, theirs, sid, 2)] } }

/-- The node with these recoveries. -/
def recovering (l : List Recovery) : State := { node with spares := { node.spares with recoveries := l } }

/-- A recovery of one DRAM die in progress since 0. -/
def recovery : Recovery := ⟨0, [⟨1, 0, 0⟩], 0, true, false, 0⟩

/-- The member of kind `k` at the ledger. -/
def atLedger (k : MemberKind) : MWork :=
  { member with stage := .atLedger, slot := some 2, row := some row, msg := { memberMsg with kind := k } }

/-- A shard-mode and a queue-mode BARRIER (R73, R74). -/
def shardBarrier : Req := { req 11 0 (entry 11 0 [(48, [1]), (52, toLE 3 sid)]) .fresh with rights := 127 }
def queueBarrier : Req := { req 11 0 (entry 11 0 []) .barrierQ with seq := 5 }

/-- The list with two pages, and under maintenance `k`. -/
def twoPages : LList := { list with versions := [⟨1, 0, 0, [[scan], [scan]], 0, false, [], false⟩] }
def maintained (k : Nat) (switched : Option Nat) : LList := { list with maint := some ⟨k, 3, false, none, 0, 0, true, switched⟩ }

/-- The model while it loads. -/
def loading : Model := { model with st := .loading }

/-- The node in a node reset since 0. -/
def inReset : State := { node with ao := { node.ao with stage := .inReset, resetRank := 2, resetAt := 0 } }

/-- Our share's frame held for node 3. -/
def heldFrame : Frame := frame (.share { shareMsg with key := ours })
def framesHeld : State := { node with sched := { node.sched with heldFrames := [(0, heldFrame)] } }

/-- The slot under migration to pool 1. -/
def migrating (dirty : Bool) (passes : Nat) (old : Option Home) (stamp : Nat) : Slot :=
  { slot with migration := some ⟨.t3 1, dirty, passes, old, stamp, none, 64⟩ }

/-- Port 0 in state `st`. -/
def onPort (st : PortState) : State := node.modPort 0 fun q => { q with st := st }

/-- A MODEL-LOAD place of model 1 in T1 (R340). -/
def placing : Req := req 7 cid (entry 7 cid [(48, [5]), (52, [1]), (49, [1])]) .fresh


/-! ### Ill-formed commands -/

/-- Commands with one operand out of range (1). -/
def ill1 : List Instr := [
  .mbxDoorbell 128 0 0,
  .mbxAck 128 0,
  .dblSqTail 128 0 1 0 0,
  .dblSqTail 0 3584 1 0 0,
  .dblSqTail 0 0 3 0 0,
  .dblCqHead 128 0 1 0,
  .dblCqHead 0 3584 1 0,
  .dblCqHead 0 0 3 0,
  .registerWrite 128 0 1 0,
  .registerWrite 0 0 3 0,
  .intHeldRead 128,
  .msixVectorUnmask 128 0 0,
  .msixVectorUnmask 0 64 0,
  .msixFunctionMaskClear 128 0,
  .initiateFunctionLevelReset 128 false 0,
  .vfEnableSet 128 0,
  .functionResetComplete 128 0,
  .identifyNode 129 0,
  .identifyFunction 129 0,
  .identifyCollection 129 0,
  .identifyQueue 129 0,
  .createQueue 129 0,
  .deleteQueue 129 0,
  .deleteQueueDrainEnd 4096 0,
  .createCollection 129 0,
  .dropCollection 129 0,
  .setQuota 129 0,
  .setFunction 129 0,
  .grantRights 129 0,
  .attachPool 129 0]

theorem test_illFormed1 : ill1.all (fun i => !i.wf) = true := by decide

/-- Commands with one operand out of range (2). -/
def ill2 : List Instr := [
  .detachPool 129 0,
  .getConfig 129 0,
  .setConfig 129 0,
  .setConfigMoveShard 129 0,
  .setConfigBringIn 129 0,
  .writeOptions 129 0,
  .fwUpdateStage 129 0,
  .fwUpdateVerify 129 0,
  .fwUpdateActivate 129 0,
  .fwUpdateStatus 129 0,
  .attestReport 129 false 0,
  .attestCertificates 129 false 0,
  .telemetryAttach 129 0,
  .telemetryDetach 129 0,
  .telemetrySnapshot 129 false 0,
  .getLog 129 false 0,
  .coalesceDelayExpiry 4096 0,
  .interruptCeilingRefill 128 0,
  .overPeakEnd 128 0,
  .timingWheelSlot 4096 0 0,
  .timingWheelSlot 0 8 0,
  .egressSend 8 0,
  .search 16777216 ⟨none, true, true⟩ 0,
  .ageArbiterGrant 65536 none 0,
  .coarseSelection ⟨4096, 0⟩ 0,
  .coarseSelection ⟨0, 16777216⟩ 0,
  .seatWaitTimeout ⟨4096, 0⟩ 0 0,
  .seatWaitTimeout ⟨0, 16777216⟩ 0 0,
  .csuCoachStart 32 0,
  .csuPageRead 32 .clean 0]

theorem test_illFormed2 : ill2.all (fun i => !i.wf) = true := by decide

/-- Commands with one operand out of range (3). -/
def ill3 : List Instr := [
  .broadcast 32 [] 0,
  .overflowPass ⟨4096, 0⟩,
  .overflowPass ⟨0, 16777216⟩,
  .spillPass ⟨4096, 0⟩,
  .spillPass ⟨0, 16777216⟩,
  .spillShortDeadline ⟨4096, 0⟩ 0,
  .spillShortDeadline ⟨0, 16777216⟩ 0,
  .formingShardScore ⟨4096, 0⟩ 0,
  .formingShardScore ⟨0, 16777216⟩ 0,
  .nodeMerge ⟨4096, 0⟩,
  .nodeMerge ⟨0, 16777216⟩,
  .rerankGather ⟨4096, 0⟩,
  .rerankGather ⟨0, 16777216⟩,
  .porterRowRead 4 .clean 0,
  .coordinatorAnswerReceive 16777216 none ⟨none, true, true⟩ 0,
  .searchTimeout 16777216 ⟨none, true, true⟩ 0,
  .insert 16777216 ⟨none, true, true⟩ 0,
  .delete 16777216 ⟨none, true, true⟩ 0,
  .upsert 16777216 ⟨none, true, true⟩ 0,
  .insertAssignment ⟨4096, 0⟩ 0,
  .insertAssignment ⟨0, 16777216⟩ 0,
  .writeBufferAccept ⟨4096, 0⟩ 0 0,
  .writeBufferAccept ⟨0, 16777216⟩ 0 0,
  .guestbookWaitEnd ⟨4096, 0⟩ 0 0,
  .guestbookWaitEnd ⟨0, 16777216⟩ 0 0,
  .guestbookWaitTimeout ⟨4096, 0⟩ 0 0,
  .guestbookWaitTimeout ⟨0, 16777216⟩ 0 0,
  .formationWaitTimeout ⟨4096, 0⟩ 0 0,
  .formationWaitTimeout ⟨0, 16777216⟩ 0 0,
  .memberOutcomeQuery 16777216 0 .unknown ⟨none, true, true⟩ 0]

theorem test_illFormed3 : ill3.all (fun i => !i.wf) = true := by decide

/-- Commands with one operand out of range (4). -/
def ill4 : List Instr := [
  .gather 16777216 [] [] ⟨none, true, true⟩ 0,
  .scatter 16777216 ⟨none, true, true⟩ 0,
  .accumulateApply 0 34359738368,
  .modelLoadBegin 16777216 ⟨none, true, true⟩ 0,
  .modelLoadPart 16777216 ⟨none, true, true⟩ 0,
  .modelLoadCommit 16777216 [] ⟨none, true, true⟩ 0,
  .modelLoadUnload 16777216 [] ⟨none, true, true⟩ 0,
  .modelLoadCheckpoint 16777216 [] ⟨none, true, true⟩ 0,
  .modelLoadPlace 16777216 [] ⟨none, true, true⟩ 0,
  .modelRun 16777216 [] ⟨none, true, true⟩ 0,
  .layerStreamComplete 16777216 ⟨none, true, true⟩ 0,
  .routedExpertStreamComplete 16777216 0,
  .routedExpertStreamComplete 0 65536,
  .activationExchangeReceive ⟨0, 0⟩ 4096 ⟨0, .part⟩,
  .activationExchangeReceive ⟨4096, 0⟩ 0 ⟨0, .part⟩,
  .activationExchangeReceive ⟨0, 16777216⟩ 0 ⟨0, .part⟩,
  .trainStep 16777216 [] ⟨none, true, true⟩ 0,
  .trainSwitch 16777216 [] ⟨none, true, true⟩ 0,
  .pimExecAllocate 16777216 ⟨none, true, true⟩ 0,
  .pimExecFree 16777216 ⟨none, true, true⟩ 0,
  .pimExecWrite 16777216 ⟨none, true, true⟩ 0,
  .pimExecRead 16777216 [] ⟨none, true, true⟩ 0,
  .pimExecRun 16777216 ⟨none, true, true⟩ 0,
  .barrierQueue 16777216 ⟨none, true, true⟩ 0,
  .barrierQueueRelease 4096 ⟨none, true, true⟩ 0,
  .barrierShard 16777216 none ⟨none, true, true⟩ 0,
  .flush 16777216 ⟨none, true, true⟩ 0,
  .flushDone 16777216 [] ⟨none, true, true⟩ 0,
  .backgroundWindow 65536 0,
  .resourceWatchdogBite 65536 ⟨none, true, true⟩ 0]

theorem test_illFormed4 : ill4.all (fun i => !i.wf) = true := by decide

/-- Commands with one operand out of range (5). -/
def ill5 : List Instr := [
  .compactionPlan 16777216 0,
  .compactionSwitch 16777216 0,
  .compactionRelease 16777216 0,
  .guestbookChunkFree 16777216,
  .splitMergeSwitch 16777216 0,
  .splitMergeRelease 16777216,
  .slotFree 0 34359738368,
  .rowHistoryRemove 0 34359738368 0,
  .rowMigrationPlan 0 34359738368 none,
  .rowMigrationCopyEnd 0 34359738368,
  .rowMigrationRelease 0 34359738368,
  .shardMoveAnnounceReceive 0 0 4096,
  .writeBufferProgram 32 0,
  .writeBufferFree 32,
  .garbageCollection 32,
  .wearLevelling 32,
  .readDisturbRefresh 32 0 0,
  .retentionScan 32 0 false 0,
  .grownBadBlock 32 0,
  .journalReserveErase 32,
  .patrolScrub 32 0 0 0,
  .linkAdaptation 8 0 0,
  .telemetryPass 128 0 ⟨none, true, true⟩ 0,
  .telemetryPass 0 4 ⟨none, true, true⟩ 0,
  .frameReceive 8 [] false 0,
  .nackReceive 8 0 0,
  .nackReceive 0 32 0,
  .nackReceive 0 0 4294967296,
  .creditGrant 8 0 0 none,
  .creditGrant 0 32 0 none]

theorem test_illFormed5 : ill5.all (fun i => !i.wf) = true := by decide

/-- Commands with one operand out of range (6). -/
def ill6 : List Instr := [
  .laneSwap 8 0 false 0,
  .laneSwap 0 9 false 0,
  .portRetrain 8 0 1 0,
  .portRetrain 0 9 1 0,
  .portDown 8 0,
  .helloReceive 8 ⟨0, 0, false, 0⟩ 0,
  .portDark 8 0,
  .unreachableTimeout 4096 ⟨none, true, true⟩ 0,
  .sparePredictiveTrigger ⟨16, 0, 0⟩ 0 0,
  .sparePredictiveTrigger ⟨0, 256, 0⟩ 0 0,
  .sparePredictiveTrigger ⟨0, 0, 256⟩ 0 0,
  .hardFault ⟨16, 0, 0⟩ 0,
  .hardFault ⟨0, 256, 0⟩ 0,
  .hardFault ⟨0, 0, 256⟩ 0,
  .recoveryStall 111 0,
  .entdaa 128,
  .setdasa 0 128,
  .setEndpointId 256,
  .linkUp 8 1 0,
  .recoveryEnd 111 0,
  .guestFault 128,
  .modelRunTimeout 16777216 ⟨none, true, true⟩ 0]

theorem test_illFormed6 : ill6.all (fun i => !i.wf) = true := by decide

/-! ### Meanings, on the manual's worked examples -/

/-- No row of the opcode table gives a command bits. -/
theorem test_decodeTableWord : decodeTableWord 32 0x00010203 = none ∧ State.reset.withFetchWord 32 7 = State.reset := by
  decide +kernel

/-- Chapter 00, the example of tile_enable: tiles 0 and 1 give 16 channels, 16 stacks, 12 tenant cores and 52 TiB. -/
theorem test_tile_enable :
    let s := { node with ao := { node.ao with opt := { node.ao.opt with tileEnable := 3 } } }
    s.channelsOn.length = 16 ∧ s.stacksOn.length = 16 ∧ s.tenantCores = 12 ∧ s.capacity .t2 = 52 * 2 ^ 40 := by decide +kernel

/-- Chapter 02, Table: channel 5 arbitration, in units of 0.1 us: at 3.0 us the oldest waiting request is the Porter's (30),
and after it compaction (40) is older than CSU 5 (5). -/
theorem test_oldest :
    (oldest 5 [⟨40, 16, true, false, .page 5⟩, ⟨5, 29, false, false, .page 5⟩, ⟨30, 8, false, false, .page 5⟩]).map (·.requester) =
      some 30 ∧
    (oldest 5 [⟨5, 29, false, false, .page 5⟩, ⟨40, 16, true, false, .page 5⟩]).map (·.requester) = some 40 := by decide +kernel

/-- Chapter 03, Table: two mailboxes at the arbiter: function 3 reads 950 ticks and no wait, the PF 75 ticks and 700. -/
theorem test_mailbox_elapsed :
    let n := { node with ao := { node.ao with now := 0 } }
    let s := (n.modMbox 3 fun m => { m with postedAt := 0, grantAt := 0 }).modMbox 0 fun m =>
      { m with postedAt := 250, grantAt := 950 }
    let a := ((s.at 950).mailboxDone 3 0 0 [] []).mbox 3
    let b := ((s.at 1025).mailboxDone 0 4 2 [] []).mbox 0
    (a.elapsed = 950 ∧ a.wait = 0 ∧ a.st = .done) ∧ b.elapsed = 75 ∧ b.wait = 700 ∧ b.detail = 2 := by decide +kernel

/-- Chapter 04, step 2 of the rings' example: 23 commands in flight and 40 completions not yet consumed count 63; after
DBL_CQ_HEAD = 40 the count is 23. -/
theorem test_outstanding :
    ({ queue 200 3 with inFlight := 23, cqTail := 40 } : Queue).outstanding = 63 ∧
    ({ queue 200 3 with inFlight := 23, cqTail := 40, cqHead := 40 } : Queue).outstanding = 23 := by decide +kernel

/-- Chapter 06, the worked example of one group: the query's and the record's groups. -/
def exampleQuery : QGroup := ⟨0x18, 7, (List.replicate 16 [9, 5, 11, 7]).flatten, []⟩
def exampleRecord : QGroup := ⟨0x20, 6, ((List.replicate 16 [10, 6, 3, 8]).flatten).set 2 15, [(2, -27 * 2 ^ 144)]⟩

/-- Its row sums 512 and 435, and its contribution -0.6171875 (79/128 in units of 2^-298); -27/32 is the escape. -/
theorem test_group_score :
    exampleQuery.rowSum = 512 ∧ exampleRecord.rowSum = 435 ∧ recordDot [exampleQuery] [exampleRecord] = -79 * 2 ^ 291 := by
  decide +kernel

/-- Chapter 07, the seat list of CSU 3 with k = 5, scores in quarters: the list and the floor counter after the offers. -/
theorem test_seat_list :
    let h := { share with msg := { shareMsg with params := { params with k := 5 } } }
    let h := [(0x0A01, 30), (0x0A02, 25), (0x0A03, 24), (0x0A04, 22), (0x0A05, 22), (0x0A06, 23), (0x0A07, 22)].foldl
      (fun h x => h.offer sid 3 x.1 (x.2 : Int) true none) h
    let l := seatListOf h.msg.params ((h.part? sid).map (·.lists) |>.getD []) 3
    l.entries.map (·.id) = [0x0A01, 0x0A02, 0x0A03, 0x0A06, 0x0A04] ∧ l.floorCount = 2 ∧ l.offers = 7 := by decide +kernel

/-- Chapter 07, Table: node merge of the example: the order, the two duplicates, the five kept and the tie record. -/
theorem test_node_merge :
    let l : List Cand := [⟨30, 0, 3, 0, 0x0A01⟩, ⟨25, 0, 3, 1, 0x0A02⟩, ⟨24, 0, 3, 2, 0x0A03⟩, ⟨22, 0, 3, 3, 0x0A04⟩,
      ⟨23, 0, 3, 5, 0x0A06⟩, ⟨25, 0, 9, 0, 0x0B01⟩, ⟨26, 0, 9, 1, 0x0A02⟩, ⟨23, 0, 9, 2, 0x0B02⟩, ⟨23, 0, 32, 0, 0x0C01⟩,
      ⟨24, 0, 32, 1, 0x0A03⟩]
    let d := dedupe [] (sortCands l)
    let c := cutAt 5 d.1
    c.1.map (·.id) = [0x0A01, 0x0A02, 0x0B01, 0x0A03, 0x0A06] ∧ c.2 = some (23, 2) ∧ d.2 = 2 := by decide +kernel

/-- Chapter 14, why the overhead counts: payloads of 4,096 and 48 bytes cost 4,180 and 132. -/
theorem test_frame_cost :
    node.frameCost { heldFrame with payload := 4096 } = 4180 ∧ node.frameCost { heldFrame with payload := 48 } = 132 := by
  decide +kernel

/-- Chapter 15, Table: a dip and its recovery: the hold of 9.2 ms is not complete at 19.1 ms and is at 19.2 ms, when the node
leaves Doldrums and logs 20 ms. -/
theorem test_doldrums_exit :
    let s := { node with pwr := { node.pwr with doldrums := true, doldrumsAt := 0, hold := some 230000 } }
    (match execDoldrumsExit 477500 s with
     | .next t => t.pwr.doldrums
     | _ => false) = true ∧
    (match execDoldrumsExit 480000 s with
     | .next t => !t.pwr.doldrums && t.pwr.lastMs == 20
     | _ => false) = true := by decide +kernel

/-- Chapter 02: waits of 2.2 us and 2.6 us at the flash channel's arbiter are 2,640 and 3,120 cycles. -/
theorem test_wait_cycles : arbCycles 5 55 = 2640 ∧ arbCycles 5 65 = 3120 := by decide +kernel

/-- Chapter 11: the record of unit 17 of stack 3 lies at region offset 1,047,667,552, and that offset names the unit again. -/
theorem test_place : placeOf 32 3 17 255840 = 1047667552 ∧ unitOf 32 1047667552 = (3, 17) := by decide +kernel


/-! ### What meets the hypotheses of the obligations -/

/-- A placement of the model in T1 takes 128 bytes: no parameter is trainable. -/
theorem placing_resident : (posing (trained model) placing).residentBytes (coll cid) model.header model.tensors = 128 := by
  have h1 : (posing (trained model) placing).shareSum (coll cid) ((residentOf model.tensors).filter (·.trainable)) Tensor.paramsOf =
      0 := by decide +kernel
  have h2 : (posing (trained model) placing).shareSum (coll cid) (residentOf model.tensors) Tensor.shareOf = 128 := by
    decide +kernel
  simp only [State.residentBytes, h1, h2, Nat.zero_mul]

/-- `Accepted`, from what can be computed. -/
theorem accepted {s : State} {num op : Nat} {io : HostIO} {ranges : List (Nat × Nat)} {rule : CollRule} {right : Option Nat}
    {need : Nat} {r : Req}
    (h : s.req? num = some r ∧ r.opcode = op ∧ r.body = .fresh ∧ rule.good r = true ∧
      firstReserved r.entry (entryRanges ++ ranges) = none ∧ (∀ x ∈ entryChecks r.entry, x.2 = true) ∧
      (right.all fun b => bit r.rights b) = true ∧ (io.input ≠ none ∨ le r.entry 24 4 = 0) ∧ need ≤ le r.entry 40 4)
    (hc : ((s.coll? r.collection).all fun c => decide (r.collection = 0 ∨ c.st ≠ .creating)) = true) :
    Accepted s num op io ranges rule right need r := by
  obtain ⟨h1, h2, h3, h4, h5, h6, h7, h8, h9⟩ := h
  refine ⟨h1, h2, h3, h4, h5, h6, ?_, h8, h9, ?_⟩
  · intro b hb
    simpa [hb] using h7
  · intro c hs
    simpa [hs] using hc

/-- It is the turn of some work, from what can be computed. -/
theorem grant_turn {s : State} {n : Nat} {b : Bool} {arbs : List Nat} {w : Work}
    (h : ∀ a ∈ arbs, s.arbHolds a w = true ∨ (s.arb a).granted = [] ∧ (s.arbPick (asking s n b w a)).map (·.work) = some w) :
    GrantTurn s n b arbs w := by
  intro a ha
  refine (h a ha).imp_right fun hp => ⟨hp.1, ?_⟩
  cases hr : s.arbPick (asking s n b w a) with
  | none => simp [hr] at hp
  | some r => exact ⟨r, rfl, by simpa [hr] using hp.2⟩

/-- A request alone at an arbiter is the one it grants next. -/
theorem alone {s : State} {a : Arb} {r : ArbReq} (hw : a.waiting = [r]) (hr : r.rebuild = false) (hf : s.fieldHeld = false ∧ s.pwr.doldrums = false ∧ s.pwr.brake = false) :
    s.arbPick a = some r := by
  have hb : s.brakeHolds a.id = false := by simp [State.brakeHolds, hf.2.2]
  have he : s.eligible a = a.waiting := by simp [State.eligible, hf.2.1]
  unfold State.arbPick
  rw [he, hw, hf.1, hb]
  cases s.ceilingPct a.id with
  | none => simp [oldest]
  | some p =>
    cases hb : r.background
    · simp [hb, hr, Arb.fairest, oldest]
    · cases he : a.behind p (s.now - a.windowStart) r <;> simp [hb, hr, Arb.fairest, oldest, he]

/-- It is, at whichever of the other arbiters, where nothing has asked for any yet. -/
theorem idle_turn {s : State} {n : Nat} {b : Bool} {arbs : List Nat} {w : Work} (h : s.arbs = []) (hf : s.fieldHeld = false ∧ s.pwr.doldrums = false ∧ s.pwr.brake = false) :
    GrantTurn s n b arbs w := by
  intro a _
  have ha : s.arb a = { id := a } := by simp [State.arb, h]
  exact .inr ⟨by rw [ha], ⟨n, s.now, b, false, w⟩, alone (by simp [asking, ha]) rfl hf, rfl⟩

/-- The one read that a slice has issued has its turn there. -/
theorem read_turn {s : State} {z : Nat × Key × Nat × Nat} (h : s.arbs = []) (hf : s.fieldHeld = false ∧ s.pwr.doldrums = false ∧ s.pwr.brake = false) (hi : s.issued z.1 = [z]) :
    ReadTurn s z := by
  have hd : ∀ p, s.dropWork p = s := by intro p; simp [State.dropWork, State.arbWithdraw, h]; cases s; simp_all
  unfold ReadTurn State.issueReads
  rw [hd]
  show ((s.issued z.1).foldl _ s).turnsAll _ _ = true
  rw [hi]
  cases hc : s.readChannel z with
  | none => rfl
  | some ch =>
    simp only [List.foldl_cons, List.foldl_nil, hc, Option.toList_some, State.turnsAll, State.requestAt, State.arbHolds, State.arbRequest,
      State.modArb, State.arb, h, List.find?_nil, Option.getD_none, List.any_nil, List.all_cons, List.all_nil, Bool.and_true,
      Bool.false_eq_true, if_false, List.nil_append, State.turnsTo, List.find?_cons, beq_self_eq_true, Option.getD_some, List.isEmpty_nil,
      Bool.true_and, Bool.false_or]
    have hp := alone (s := { s with arbs := [{ id := ch, waiting := [⟨1 + z.1, s.now, false, false, readWork z⟩] }] })
      (a := { id := ch, waiting := [⟨1 + z.1, s.now, false, false, readWork z⟩] }) rfl rfl hf
    simp only [hp, Option.any_some, beq_self_eq_true]

/-- The same where versions are written, whichever stack the guestbook is in. -/
theorem background_turn_writing {s : State} {l : LList} {more : List Nat} {w : Work}
    (h : ∀ a ∈ [l.channel, s.compactChannel l.channel].eraseDups ++ (0 :: s.stacksOn).map (0x40 + ·) ++ more,
      s.arbHolds a w = true ∨ (s.arb a).granted = [] ∧ (s.arbPick (asking s backgroundRequester true w a)).map (·.work) = some w) :
    BackgroundTurn s (s.writeArbs l ++ more) w := by
  have hs : s.stackOf l.id ∈ 0 :: s.stacksOn := by
    unfold State.stackOf
    rw [List.getD_eq_getElem?_getD]
    cases hg : s.stacksOn[Config.listStack l.id % s.stacksOn.length]? with
    | none => exact List.mem_cons_self
    | some y => exact List.mem_cons_of_mem _ (List.mem_of_getElem? hg)
  refine grant_turn fun a ha => h a ?_
  simp only [State.writeArbs, List.mem_append, List.mem_singleton] at ha ⊢
  rcases ha with (ha | ha) | ha
  · exact .inl (.inl ha)
  · exact .inl (.inr (ha ▸ List.mem_map_of_mem hs))
  · exact .inr ha

/-- It is not where one of its arbiters serves another. -/
theorem not_grant_turn {s : State} {n : Nat} {b : Bool} {arbs : List Nat} {w : Work} (a : Nat)
    (h : a ∈ arbs ∧ s.arbHolds a w = false ∧ (s.arb a).granted ≠ []) : ¬ GrantTurn s n b arbs w := by
  intro hb
  rcases hb a h.1 with hh | hh
  · exact absurd (hh.symm.trans h.2.1) (by decide)
  · exact h.2.2 hh.1

/-- It is this pass's turn at these ledgers, from what can be computed. -/
theorem ledger_turn {s : State} {shards : List Nat} {w : LedgerWhat}
    (h : ∀ i ∈ shards, (s.shard? i).all (·.turn w) = true) : LedgerTurn s shards w := by
  intro i hi d hd
  simpa [hd] using h i hi

/-- It is not where something older waits at one of them. -/
theorem not_ledger_turn {s : State} {shards : List Nat} {w : LedgerWhat} (i : Nat)
    (h : i ∈ shards ∧ (s.shard? i).any (fun d => !d.turn w) = true) : ¬ LedgerTurn s shards w := by
  intro ht
  cases hd : s.shard? i with
  | none => simp [hd] at h
  | some d => simp [hd, ht i h.1 d hd] at h

/-- A report and its signature are 3,949 bytes. -/
theorem report_length (s : State) (nonce : Bytes) :
    (s.reportBody nonce ++ slice (Config.mldsaSign (s.reportBody nonce)) 0 3309).length = 3949 := by
  rw [List.length_append, State.reportBody_length, slice_length]

theorem report_fits {s : State} {nonce : Bytes} {n : Nat} (h : 3949 ≤ n) :
    (s.reportBody nonce ++ slice (Config.mldsaSign (s.reportBody nonce)) 0 3309).length ≤ n := (report_length s nonce).trans_le h

theorem report_overflows {s : State} {nonce : Bytes} {n : Nat} (h : n < 3949) :
    n < (s.reportBody nonce ++ slice (Config.mldsaSign (s.reportBody nonce)) 0 3309).length := h.trans_eq (report_length s nonce).symm

/-- Where the members that a GATHER names are, from what can be computed of one. -/
theorem here_is {s : State} {c : Coll} {byRef : Bool} {n k : Nat} {p : Nat → Prop} (hp : p n)
    (h : s.gatherOwner (memberShard c byRef n) = some s.nodeId ∧ memberShard c byRef n = k) :
    ∀ i, i ∈ [k] ↔ ∃ m ∈ [n], p m ∧ s.gatherOwner (memberShard c byRef m) = some s.nodeId ∧ memberShard c byRef m = i := by
  intro i
  simp only [List.mem_singleton, exists_eq_left]
  exact ⟨fun e => ⟨hp, h.1, h.2.trans e.symm⟩, fun e => e.2.2.symm.trans h.2⟩

theorem here_is_none {s : State} {c : Coll} {byRef : Bool} {n : Nat} {p : Nat → Prop}
    (h : s.gatherOwner (memberShard c byRef n) ≠ some s.nodeId) :
    ∀ i, i ∈ ([] : List Nat) ↔ ∃ m ∈ [n], p m ∧ s.gatherOwner (memberShard c byRef m) = some s.nodeId ∧ memberShard c byRef m = i := by
  intro i
  simp only [List.mem_singleton, exists_eq_left]
  exact ⟨fun e => absurd e List.not_mem_nil, fun e => absurd e.2.1 h⟩

theorem owned_here {s : State} {c : Coll} {byRef : Bool} {n : Nat} (h : s.gatherOwner (memberShard c byRef n) = some s.nodeId) :
    ∀ m ∈ [n], ∀ o, s.gatherOwner (memberShard c byRef m) = some o → o = s.nodeId := by
  simp only [List.mem_singleton, forall_eq]
  exact fun o e => Option.some.inj (e.symm.trans h)

/-- The rows it names are not read from flash. -/
theorem no_channels {s : State} {c : Coll} {byRef : Bool} {n : Nat} {p : Nat → Prop}
    (h : (s.shard? (memberShard c byRef n)).all (fun d => (d.named byRef n).all fun y => (s.rowRead d y d.counter).isNone) = true) :
    ∀ i, i ∈ ([] : List Nat) ↔ ∃ m ∈ [n], p m ∧ s.gatherOwner (memberShard c byRef m) = some s.nodeId ∧
      ∃ d y, s.shard? (memberShard c byRef m) = some d ∧ d.named byRef m = some y ∧ s.rowRead d y d.counter = some i := by
  intro i
  simp only [List.mem_singleton, exists_eq_left]
  refine ⟨fun e => absurd e List.not_mem_nil, fun ⟨_, _, d, y, hd, hy, hr⟩ => ?_⟩
  simp [hd, hy, hr] at h

/-- The rows it names wait for nothing. -/
theorem settled {s : State} {c : Coll} {byRef : Bool} {n : Nat} {p : Nat → Prop}
    (h : (s.shard? (memberShard c byRef n)).all (fun d => (d.named byRef n).all fun y => decide (d.rowAt y d.counter ≠ .wait)) = true) :
    ∀ m ∈ [n], p m → ∀ d y, s.shard? (memberShard c byRef m) = some d → d.named byRef m = some y → d.rowAt y d.counter ≠ .wait := by
  simp only [List.mem_singleton, forall_eq]
  intro _ d y hd hy
  simpa [hd, hy] using h

/-- Every one of some peers has answered, from what can be computed. -/
theorem all_answered {α β : Type} {f : α → Option β} {l : List α} (h : ∀ o ∈ l, (f o).isSome = true) : ∀ o ∈ l, ∃ v, f o = some v :=
  fun o ho => Option.isSome_iff_exists.1 (h o ho)

/-- The shard with these entries in the row history table; an insert waits where they fill it. -/
def withHistory (l : List Hist) : Shard := { shard with hist := l }

theorem fullHistory_waits {l : List Hist} {w : MWork} (hl : l.length = 16777216) (hk : w.msg.kind = .insert) (hs : w.slot = none) :
    (withMember (withShard tenant (withHistory l)) w).verdict (coll cid) (withHistory l) w = .wait := by
  have h : (withMember (withShard tenant (withHistory l)) w).histCount = 16777216 := by
    show 0 + l.length = _
    rw [hl, Nat.zero_add]
  have hf : (withMember (withShard tenant (withHistory l)) w).tablesFree false true = false := by
    simp [State.tablesFree, h]
  unfold State.verdict
  rw [hk, hs]
  show (if (withMember (withShard tenant (withHistory l)) w).tablesFree false true then Verdict.apply 0 else Verdict.wait) = _
  rw [hf]
  rfl

theorem witness_StepRunsFrontCommand :
    ∃ (c : Instr) (rest : List Instr) (s : State), s.pending = c :: rest :=
  ⟨Instr.arbGrantsRead, [.cacheRebalance 5], { node with pending := [.arbGrantsRead, .cacheRebalance 5] }, by decide +kernel⟩

theorem witness_EmptyQueueTicks :
    ∃ (s : State), s.pending = [] :=
  ⟨node, by decide +kernel⟩

theorem witness_ResourcesAfterReset :
    ∃ f, 1 ≤ f ∧ f < 128 :=
  ⟨127, by decide +kernel⟩

theorem witness_StepKeepsSound :
    ∃ (s x : State), step s = .next x ∧ Sound s :=
  ⟨node, node.tick, rfl, by unfold Sound Shaped RamCanonical; decide +kernel⟩

theorem witness_MailboxDoorbellAndAcknowledge :
    (∃ (s : State) (fn : Nat) (v : BitVec 32), s.fnExists fn = true ∧ fn < s.mboxes.length ∧ (s.fn fn).ready = true ∧ v.getLsbD
      0 = true ∧ (s.mbox fn).st = .idle) ∧
    (∃ (s : State) (fn : Nat) (v : BitVec 32), s.fnExists fn = true ∧ fn < s.mboxes.length ∧ (s.fn fn).ready = true ∧ v.getLsbD
      0 = true ∧ (s.mbox fn).st ≠ .idle) ∧
    (∃ (s : State) (fn : Nat) (v : BitVec 32), s.fnExists fn = true ∧ fn < s.mboxes.length ∧ ((s.fn fn).ready = false ∨
      v.getLsbD 0 = false)) ∧
    (∃ (s : State) (fn : Nat) (v : BitVec 32), s.fnExists fn = true ∧ fn < s.mboxes.length ∧ v.getLsbD 0 = true) :=
  ⟨⟨node, 1, 0x50001, by decide +kernel⟩,
   ⟨node.modMbox 1 (fun m => { m with st := .done }), 1, 1, by decide +kernel⟩,
   ⟨node, 1, 0x50000, by decide +kernel⟩,
   ⟨node, 127, 1, by decide +kernel⟩⟩

theorem witness_QueueDoorbells :
    (∃ (s : State) (fn slot : Nat) (v : BitVec 32) (u : Queue), fn < s.fns.length ∧ s.doorbellQueue fn slot 4 = some u ∧
      s.queue? u.num = some u ∧ u.fn = fn ∧ u.st = .active ∧ v.toNat % 65536 < u.sqSize ∧ (u.sqTail + u.sqSize - u.sqHead) %
      u.sqSize ≤ (v.toNat % 65536 + u.sqSize - u.sqHead) % u.sqSize) ∧
    (∃ (s : State) (fn slot : Nat) (v : BitVec 32) (u : Queue), fn < s.fns.length ∧ s.doorbellQueue fn slot 4 = some u ∧
      s.queue? u.num = some u ∧ u.fn = fn ∧ u.st = .active ∧ u.sqSize ≤ v.toNat % 65536) ∧
    (∃ (s : State) (fn slot : Nat) (v : BitVec 32) (u : Queue), fn < s.fns.length ∧ s.doorbellQueue fn slot 4 = some u ∧
      s.queue? u.num = some u ∧ u.fn = fn ∧ u.st = .active ∧ v.toNat % 65536 < u.sqSize ∧ (v.toNat % 65536 + u.sqSize -
      u.sqHead) % u.sqSize < (u.sqTail + u.sqSize - u.sqHead) % u.sqSize) ∧
    (∃ (s : State) (fn slot : Nat) (v : BitVec 32) (u : Queue), fn < s.fns.length ∧ s.doorbellQueue fn slot 4 = some u ∧
      s.queue? u.num = some u ∧ u.fn = fn ∧ u.st ≠ .error ∧ v.toNat % 65536 < u.cqSize ∧ (v.toNat % 65536 + u.cqSize - u.cqHead)
      % u.cqSize ≤ (u.cqTail + u.cqSize - u.cqHead) % u.cqSize) ∧
    (∃ (s : State) (fn slot : Nat) (v : BitVec 32) (u : Queue), fn < s.fns.length ∧ s.doorbellQueue fn slot 4 = some u ∧
      s.queue? u.num = some u ∧ u.fn = fn ∧ u.st ≠ .error ∧ ¬ (v.toNat % 65536 < u.cqSize ∧ (v.toNat % 65536 + u.cqSize -
      u.cqHead) % u.cqSize ≤ (u.cqTail + u.cqSize - u.cqHead) % u.cqSize)) ∧
    (∃ (s : State), ∃ (fn slot : Nat), ∃ (u : Queue), ∃ w, fn < s.fns.length ∧ s.doorbellQueue fn slot 4 = some u ∧ s.queue?
      u.num = some u ∧ u.fn = fn ∧ w ≠ 4) :=
  ⟨⟨queued (queue 3 1), 1, 0, 63, queue 3 1, by decide +kernel⟩,
   ⟨queued (queue 3 1), 1, 0, 64, queue 3 1, by decide +kernel⟩,
   ⟨queued { queue 3 1 with sqTail := 5 }, 1, 0, 4, { queue 3 1 with sqTail := 5 }, by decide +kernel⟩,
   ⟨queued { queue 3 1 with st := .draining, cqTail := 3 }, 1, 0, 3, { queue 3 1 with st := .draining, cqTail := 3 },
     by decide +kernel⟩,
   ⟨queued { queue 3 1 with cqTail := 3 }, 1, 0, 4, { queue 3 1 with cqTail := 3 }, by decide +kernel⟩,
   ⟨queued (queue 3 1), 1, 0, queue 3 1, 8, by decide +kernel⟩⟩

theorem witness_RegisterWrites :
    (∃ (s : State) (fn offset width : Nat), s.fnExists fn = true ∧ fn < s.mboxes.length ∧ (s.mbox fn).req.wf = true ∧ (width = 1
      ∨ width = 2 ∨ width = 4 ∨ width = 8) ∧ offset % width = 0 ∧ 0x1100 ≤ offset ∧ offset < 0x1800) ∧
    (∃ (offset width : Nat), 0x1800 ≤ offset ∧ offset < 0x2000 ∧ (width = 4 ∨ width = 8)) ∧
    (∃ (s : State) (fn : Nat), s.fnExists fn = true ∧ fn < s.fns.length) :=
  ⟨⟨node, 1, 0x17F8, 8, by decide +kernel⟩,
   ⟨0x1804, 4, by decide +kernel⟩,
   ⟨node, 1, by decide +kernel⟩⟩

theorem witness_ReadSensitiveRegisters :
    (∃ (s : State) (c : ArbStat), s.arbSelected = some c) ∧
    (∃ (s : State) (fn : Nat), s.fnExists fn = true ∧ fn < s.fns.length) ∧
    (∃ (s : State), s.portSelect.toNat < s.ports.length) :=
  ⟨⟨{ node with arbSelect := 0xA0 }, ⟨0, 0, 0, 0⟩, by decide +kernel⟩,
   ⟨node, 1, by decide +kernel⟩,
   ⟨node, by decide +kernel⟩⟩

theorem witness_MaskClearing :
    (∃ (s : State) (fn vec : Nat), s.fnExists fn = true ∧ fn < s.fns.length ∧ vec < (s.fn fn).vecs.length) ∧
    (∃ (s : State) (fn : Nat), s.fnExists fn = true ∧ fn < s.fns.length) :=
  ⟨⟨node, 1, 63, by decide +kernel⟩,
   ⟨node, 1, by decide +kernel⟩⟩

theorem witness_MailboxGrant :
    (∃ (s : State) (m : Nat) (q : ArbReq), m < 128 ∧ m < s.mboxes.length ∧ (s.arb 0xA0).granted = [] ∧ oldest 0xA0 (s.arb
      0xA0).waiting = some q ∧ q.work = .mailbox m ∧ s.unserved (memReadAll (s.mbox m).req 0x100 1792) = none) ∧
    (∃ (s : State) (fn : Nat) (v : BitVec 32), s.fnExists fn = true ∧ fn < s.mboxes.length ∧ (s.fn fn).ready = true ∧ v.getLsbD
      0 = true ∧ (s.mbox fn).st = .idle) :=
  ⟨⟨(waits node 0xA0 (.mailbox 1)).modMbox 1 (fun m => { m with st := .posted, req := [(0x100, 1), (0x103, 1)] }), 1, ⟨0, 0,
     false, false, .mailbox 1⟩, by decide +kernel⟩,
   ⟨node, 1, 0x50001, by decide +kernel⟩⟩

theorem witness_ControlCommandChecks :
    (∃ (s : State) (r t : Nat) (i : Instr) (op : Nat) (ranges : List (Nat × Nat)), (i, op, ranges) ∈ [(Instr.setQuota r t, 6,
      [(1, 3), (26, 1734)]), (.setFunction r t, 7, [(1, 1), (9, 3), (30, 1730)]), (.attachPool r t, 9, [(1, 1), (4, 4), (28,
      1732)]), (.detachPool r t, 10, [(5, 1755)]), (.writeOptions r t, 13, [(1, 1759)])] ∧ r < s.mboxes.length ∧ r ≠ 128 ∧
      s.inCommit r op = true ∧ r ≠ 0) ∧
    (∃ (s : State) (r t : Nat) (i : Instr) (op : Nat) (ranges : List (Nat × Nat)), (i, op, ranges) ∈ [(Instr.setQuota r t, 6,
      [(1, 3), (26, 1734)]), (.setFunction r t, 7, [(1, 1), (9, 3), (30, 1730)]), (.attachPool r t, 9, [(1, 1), (4, 4), (28,
      1732)]), (.detachPool r t, 10, [(5, 1755)]), (.writeOptions r t, 13, [(1, 1759)])] ∧ r < s.mboxes.length ∧ r ≠ 128 ∧
      s.inCommit r op = true ∧ r = 0 ∧ headerGood (s.mbox r).copy = false) ∧
    (∃ (s : State) (r t : Nat) (i : Instr) (op : Nat) (ranges : List (Nat × Nat)), (i, op, ranges) ∈ [(Instr.setQuota r t, 6,
      [(1, 3), (26, 1734)]), (.setFunction r t, 7, [(1, 1), (9, 3), (30, 1730)]), (.attachPool r t, 9, [(1, 1), (4, 4), (28,
      1732)]), (.detachPool r t, 10, [(5, 1755)]), (.writeOptions r t, 13, [(1, 1759)])] ∧ r < s.mboxes.length ∧ r ≠ 128 ∧
      s.inCommit r op = true ∧ r = 0 ∧ headerGood (s.mbox r).copy = true ∧ ¬ ReservedZero s r ranges) :=
  ⟨⟨held node 1 (request 6 0 []) none, 1, 2000, .setQuota 1 2000, 6, [(1, 3), (26, 1734)], by decide +kernel⟩,
   ⟨held node 0 (request 10 0 [(4, [1])]) none, 0, 2000, .detachPool 0 2000, 10, [(5, 1755)], by decide +kernel⟩,
   ⟨held node 0 (request 6 0 [(0x21, [1])]) none, 0, 2000, .setQuota 0 2000, 6, [(1, 3), (26, 1734)],
     by unfold ReservedZero; decide +kernel⟩⟩

theorem witness_IdentifyAnswers :
    (∃ (s : State) (r : Nat), Granted s r 1 ∧ ReservedZero s r identifyRanges ∧ r ≠ 128 ∧ (s.mbox r).resp.wf = true ∧ byteAt
      (s.mbox r).copy 0x20 = 0 ∧ le (s.mbox r).copy 0x24 4 = 0) ∧
    (∃ (s : State) (r : Nat), Granted s r 1 ∧ ReservedZero s r identifyRanges ∧ r ≠ 128 ∧ (s.mbox r).resp.wf = true ∧ byteAt
      (s.mbox r).copy 0x20 = 1 ∧ (r = 0 ∨ le (s.mbox r).copy 0x24 4 = r) ∧ le (s.mbox r).copy 0x24 4 < 128) ∧
    (∃ (s : State) (r : Nat), Granted s r 1 ∧ ReservedZero s r identifyRanges ∧ r ≠ 128 ∧ (s.mbox r).resp.wf = true ∧ byteAt
      (s.mbox r).copy 0x20 = 1 ∧ r ≠ 0 ∧ le (s.mbox r).copy 0x24 4 ≠ r) ∧
    (∃ (s : State), ∃ (r : Nat), ∃ c, Granted s r 1 ∧ ReservedZero s r identifyRanges ∧ r ≠ 128 ∧ (s.mbox r).resp.wf = true ∧
      byteAt (s.mbox r).copy 0x20 = 2 ∧ s.coll? (le (s.mbox r).copy 0x24 4) = some c ∧ s.rights r (le (s.mbox r).copy 0x24 4) ≠
      0) ∧
    (∃ (s : State) (r : Nat), Granted s r 1 ∧ ReservedZero s r identifyRanges ∧ r ≠ 128 ∧ (s.mbox r).resp.wf = true ∧ byteAt
      (s.mbox r).copy 0x20 = 3 ∧ le (s.mbox r).copy 0x24 4 < 3584 ∧ (r = 0 ∨ (s.fn r).queueFirst ≤ le (s.mbox r).copy 0x24 4 ∧
      le (s.mbox r).copy 0x24 4 < (s.fn r).queueFirst + (s.fn r).queueCount)) ∧
    (∃ (s : State) (r : Nat), Granted s r 1 ∧ ReservedZero s r identifyRanges ∧ r ≠ 128 ∧ (s.mbox r).resp.wf = true ∧ byteAt
      (s.mbox r).copy 0x20 = 3 ∧ r ≠ 0 ∧ ¬ ((s.fn r).queueFirst ≤ le (s.mbox r).copy 0x24 4 ∧ le (s.mbox r).copy 0x24 4 < (s.fn
      r).queueFirst + (s.fn r).queueCount)) :=
  ⟨⟨held (queued (queue 3 1)) 1 (request 1 128 []) none, 1, by unfold Granted ReservedZero; decide +kernel⟩,
   ⟨held (queued (queue 3 1)) 1 (request 1 128 [(0x20, [1]), (0x24, [1])]) none, 1,
     by unfold Granted ReservedZero; decide +kernel⟩,
   ⟨held (queued (queue 3 1)) 1 (request 1 128 [(0x20, [1]), (0x24, [2])]) none, 1,
     by unfold Granted ReservedZero; decide +kernel⟩,
   ⟨held tenant 1 (request 1 128 [(0x20, [2]), (0x24, toLE 4 cid)]) none, 1, coll cid,
     by unfold Granted ReservedZero; decide +kernel⟩,
   ⟨held (queued (queue 3 1)) 1 (request 1 128 [(0x20, [3]), (0x24, [6])]) none, 1,
     by unfold Granted ReservedZero; decide +kernel⟩,
   ⟨held (queued (queue 3 1)) 1 (request 1 128 [(0x20, [3]), (0x24, [7])]) none, 1,
     by unfold Granted ReservedZero; decide +kernel⟩⟩

theorem witness_QueueLifeCycle :
    (∃ (s : State) (r : Nat), Granted s r 2 ∧ ReservedZero s r [(5, 3), (24, 1736)] ∧ r ≠ 128 ∧ (s.fn r).queueFirst ≤ le (s.mbox
      r).copy 0x20 2 ∧ le (s.mbox r).copy 0x20 2 < (s.fn r).queueFirst + (s.fn r).queueCount ∧ s.queue? (le (s.mbox r).copy 0x20
      2) = none ∧ 6 ≤ byteAt (s.mbox r).copy 0x22 ∧ byteAt (s.mbox r).copy 0x22 ≤ 16 ∧ 6 ≤ byteAt (s.mbox r).copy 0x23 ∧ byteAt
      (s.mbox r).copy 0x23 ≤ 16 ∧ byteAt (s.mbox r).copy 0x24 < (s.fn r).msixCount ∧ le (s.mbox r).copy 0x28 8 % 4096 = 0 ∧ le
      (s.mbox r).copy 0x30 8 % 4096 = 0) ∧
    (∃ (s : State) (r : Nat) (u : Queue), Granted s r 3 ∧ ReservedZero s r [(2, 1758)] ∧ r ≠ 128 ∧ (s.fn r).queueFirst ≤ le
      (s.mbox r).copy 0x20 2 ∧ le (s.mbox r).copy 0x20 2 < (s.fn r).queueFirst + (s.fn r).queueCount ∧ s.queue? (le (s.mbox
      r).copy 0x20 2) = some u ∧ u.st = .active) ∧
    (∃ (s : State) (q r : Nat) (y : Tail) (u : Queue), s.tailOf (.deleteQueue q) = some y ∧ y.requester = some r ∧ r <
      s.mboxes.length ∧ r ≠ 128 ∧ s.queue? q = some u ∧ u.inFlight = 0) :=
  ⟨⟨held (queued (queue 4 1)) 1 (request 2 0 [(0x20, [3]), (0x22, [6]), (0x23, [16]), (0x24, [1]), (0x28, toLE 8 4096), (0x30,
     toLE 8 8192)]) none, 1, by unfold Granted ReservedZero; decide +kernel⟩,
   ⟨held (queued (queue 3 1)) 1 (request 3 0 [(0x20, [3])]) none, 1, queue 3 1, by unfold Granted ReservedZero; decide +kernel⟩,
   ⟨{ queued { queue 3 1 with st := .draining } with tails := [⟨some 1, .deleteQueue 3, 0⟩] }, 3, 1, ⟨some 1, .deleteQueue 3,
     0⟩, { queue 3 1 with st := .draining }, by decide +kernel⟩⟩

theorem witness_CollectionCreation :
    (∃ (s : State) (r n d p gb dw : Nat) (data b : Bytes) (owners : List Nat) (i : Nat), Granted s r 4 ∧ ReservedZero s r [(56,
      1704)] ∧ r ≠ 128 ∧ b = (s.mbox r).copy ∧ (r = 0 ∨ (s.fn r).mayCreate = true) ∧ (s.mbox r).input = some data ∧ nameGood
      (slice b 0x20 32) = true ∧ (s.colls.any fun c => c.spec.name == slice b 0x20 32 && c.st != .dropping) = false ∧ d = le b
      0x40 2 ∧ 64 ≤ d ∧ d ≤ 4096 ∧ d % 64 = 0 ∧ p = (if le b 0x42 2 = 0 then min 256 d else le b 0x42 2) ∧ 64 ≤ p ∧ p ≤ 512 ∧ p
      % 64 = 0 ∧ p ≤ d ∧ byteAt b 0x44 ≤ 2 ∧ byteAt b 0x45 ≤ 2 ∧ gb = le b 0x46 2 ∧ (gb = 0 ∨ 256 ≤ gb) ∧ byteAt b 0x48 ≤ 1 ∧
      byteAt b 0x49 ≤ 1 ∧ dw = le b 0x4A 2 ∧ (dw ≤ 2000 ∨ dw = 0xFFFF) ∧ n = le b 0x4C 4 ∧ 1 ≤ n ∧ n ≤ (if s.nodeId = 4095 then
      4095 else 4096) ∧ 2 * n ≤ le b 16 4 ∧ owners = (List.range n).map (fun k => le data (2 * k) 2) ∧ (∀ o ∈ owners, o < 4096)
      ∧ (∀ o ∈ owners, (le b 0x50 8 + n - 1) / n * (owners.filter (· == o)).length ≤ 2 ^ 35) ∧ s.freeRun n = some i ∧
      s.commitLimit = false) ∧
    (∃ (s : State) (c : CollSpec) (n w : Nat), (c.id / 2 ^ 20 ≠ s.nodeId ∨ s.tailRunning (· == .createColl c.id) = true) ∧ n =
      ((List.range c.shards).filter fun i => c.owners.getD i 4096 == s.nodeId && (s.shard? (c.firstShard + i)).isNone).length ∧
      w = collTarget c / min 1024 (collTarget c) * coarseColumns c.projection ∧ collTarget c ≤ 16777216 ∧ s.owned.length + n ≤
      4096 ∧ s.columnsTaken c + n * w ≤ 16384 ∧ s.listsTaken + n * collTarget c ≤ 16777216 ∧ s.collsHere < 1024) ∧
    (∃ (s : State) (c : CollSpec) (n w : Nat), (c.id / 2 ^ 20 ≠ s.nodeId ∨ s.tailRunning (· == .createColl c.id) = true) ∧ n =
      ((List.range c.shards).filter fun i => c.owners.getD i 4096 == s.nodeId && (s.shard? (c.firstShard + i)).isNone).length ∧
      w = collTarget c / min 1024 (collTarget c) * coarseColumns c.projection ∧ collTarget c ≤ 16777216 ∧ s.owned.length + n ≤
      4096 ∧ s.columnsTaken c + n * w ≤ 16384 ∧ s.listsTaken + n * collTarget c ≤ 16777216 ∧ 1024 ≤ s.collsHere ∧ c.id / 2 ^ 20
      = s.nodeId) ∧
    (∃ (s : State) (coll r : Nat) (peers : List (Nat × SetupReply)) (c : Coll) (y : Tail), s.coll? coll = some c ∧ s.tailOf
      (.createColl coll) = some y ∧ y.requester = some r ∧ r < s.mboxes.length ∧ r ≠ 128 ∧ (s.nodeId ∈ c.spec.owners → s.nodeId
      ∈ c.setUp) ∧ (∀ o ∈ c.spec.owners, o ≠ s.nodeId → (peers.find? (·.1 == o)).map (·.2) = some .allDone)) ∧
    (∃ (s : State), ∃ (coll r : Nat), ∃ (peers : List (Nat × SetupReply)), ∃ (c : Coll), ∃ (y : Tail), ∃ o, s.coll? coll = some
      c ∧ s.tailOf (.createColl coll) = some y ∧ y.requester = some r ∧ r < s.mboxes.length ∧ r ≠ 128 ∧ o ≠ s.nodeId ∧
      (peers.find? (·.1 == o)).map (·.2) = some .unreachable ∧ c.setupFailed = none ∧ (∀ o ∈ c.spec.owners, o ≠ s.nodeId →
      (peers.find? (·.1 == o)).map (·.2) ≠ some .limits) ∧ o ∈ c.spec.owners) ∧
    (∃ (s : State) (c : CollSpec), s.coll? c.id = none) :=
  ⟨⟨held node 0 (request 4 2 [(0x20, [0x61]), (0x40, toLE 2 64), (0x4A, [0xFF, 0xFF]), (0x4C, [1]), (0x50, toLE 8 4096)]) (some
     (toLE 2 15)), 0, 1, 64, 64, 0, 65535, toLE 2 15, ((held node 0 (request 4 2 [(0x20, [0x61]), (0x40, toLE 2 64), (0x4A,
     [0xFF, 0xFF]), (0x4C, [1]), (0x50, toLE 8 4096)]) (some (toLE 2 15))).mbox 0).copy, [15], 0,
     by unfold Granted ReservedZero; decide +kernel⟩,
   ⟨node, theirSpec, 1, collTarget theirSpec / min 1024 (collTarget theirSpec) * coarseColumns 64, by decide +kernel⟩,
   ⟨{ tailing tenant (.createColl (cid + 1)) with colls := List.replicate 1024 (coll cid) },
     { spec (cid + 1) with firstShard := sid + 1 }, 1, collTarget theirSpec / min 1024 (collTarget theirSpec) * coarseColumns
     64, by decide +kernel⟩,
   ⟨{ tailing tenant (.createColl cid) with colls := [{ coll cid with st := .creating, setUp := [15] }] }, cid, 0, [],
     { coll cid with st := .creating, setUp := [15] }, ⟨some 0, .createColl cid, 0⟩, by decide +kernel⟩,
   ⟨{ tailing node (.createColl cid) with colls := [{ coll cid with st := .creating, spec := theirColl.spec }] }, cid, 0, [(3,
     .unreachable)], { coll cid with st := .creating, spec := theirColl.spec }, ⟨some 0, .createColl cid, 0⟩, 3,
     by decide +kernel⟩,
   ⟨node, spec cid, by decide +kernel⟩⟩

theorem witness_CollectionDrop :
    (∃ (s : State) (r id : Nat) (c : Coll), Granted s r 5 ∧ ReservedZero s r [(4, 1756)] ∧ r ≠ 128 ∧ id = le (s.mbox r).copy
      0x20 4 ∧ s.coll? id = some c ∧ c.st ≠ .dropping ∧ (r = 0 ∨ bit (s.rights r id) 5 = true) ∧ s.tailRunning (· == .createColl
      id) = false ∧ s.commitLimit = false) ∧
    (∃ (s : State) (r id : Nat) (c : Coll), Granted s r 5 ∧ ReservedZero s r [(4, 1756)] ∧ r ≠ 128 ∧ id = le (s.mbox r).copy
      0x20 4 ∧ s.coll? id = some c ∧ c.st ≠ .dropping ∧ (r = 0 ∨ bit (s.rights r id) 5 = true) ∧ s.tailRunning (· == .createColl
      id) = true) ∧
    (∃ (s : State) (coll r : Nat) (c : Coll) (y : Tail), s.coll? coll = some c ∧ c.st = .dropping ∧ s.collBusy coll = false ∧
      s.tailOf (.dropColl coll) = some y ∧ y.requester = some r ∧ r < s.mboxes.length ∧ r ≠ 128) :=
  ⟨⟨held tenant 0 (request 5 0 [(0x20, toLE 4 cid)]) none, 0, cid, coll cid, by unfold Granted ReservedZero; decide +kernel⟩,
   ⟨held (tailing tenant (.createColl cid)) 1 (request 5 0 [(0x20, toLE 4 cid)]) none, 1, cid, coll cid,
     by unfold Granted ReservedZero; decide +kernel⟩,
   ⟨{ tailing tenant (.dropColl cid) with colls := [{ coll cid with st := .dropping }] }, cid, 0,
     { coll cid with st := .dropping }, ⟨some 0, .dropColl cid, 0⟩, by decide +kernel⟩⟩

theorem witness_QuotaFunctionAndRights :
    (∃ (s : State), Granted s 0 6 ∧ ReservedZero s 0 [(1, 3), (26, 1734)] ∧ s.fns.length = 128 ∧ byteAt (s.mbox 0).copy 0x20 <
      128 ∧ s.commitLimit = false) ∧
    (∃ (s : State) (f : Nat), Granted s 0 7 ∧ ReservedZero s 0 [(1, 1), (9, 3), (30, 1730)] ∧ s.fns.length = 128 ∧ byteAt
      (s.mbox 0).copy 0x20 = f ∧ f < 128 ∧ byteAt (s.mbox 0).copy 0x28 ≤ 1 ∧ byteAt (s.mbox 0).copy 0x27 ≤ 7 ∧ le (s.mbox
      0).copy 0x22 2 + le (s.mbox 0).copy 0x24 2 ≤ 3584 ∧ le (s.mbox 0).copy 0x22 2 ≤ 3583 ∧ (∀ g, g < 128 → g ≠ f → (s.fn
      g).queueCount = 0 ∨ (s.fn g).queueFirst + (s.fn g).queueCount ≤ le (s.mbox 0).copy 0x22 2 ∨ le (s.mbox 0).copy 0x22 2 + le
      (s.mbox 0).copy 0x24 2 ≤ (s.fn g).queueFirst) ∧ byteAt (s.mbox 0).copy 0x26 ≤ 64 ∧ ((s.fns.zipIdx.filter (·.2 != f)).foldl
      (fun n x => n + x.1.msixCount) 0) + byteAt (s.mbox 0).copy 0x26 ≤ 2048 ∧ (le (s.mbox 0).copy 0x30 4 = 0 ∨ le (s.mbox
      0).copy 0x2C 4 ≠ 0 ∧ le (s.mbox 0).copy 0x2C 4 ≤ le (s.mbox 0).copy 0x30 4) ∧ (le (s.mbox 0).copy 0x38 4 = 0 ∨ le (s.mbox
      0).copy 0x34 4 ≠ 0 ∧ le (s.mbox 0).copy 0x34 4 ≤ le (s.mbox 0).copy 0x38 4) ∧ (∀ u ∈ s.queues, u.fn = f → le (s.mbox
      0).copy 0x22 2 ≤ u.num ∧ u.num < le (s.mbox 0).copy 0x22 2 + le (s.mbox 0).copy 0x24 2) ∧ ((s.fn f).msixCount ≤ byteAt
      (s.mbox 0).copy 0x26 ∨ s.vectorsUsed f ≤ byteAt (s.mbox 0).copy 0x26) ∧ s.commitLimit = false) ∧
    (∃ (s : State) (r id : Nat) (c : Coll), Granted s r 8 ∧ ReservedZero s r [(1, 3), (9, 1751)] ∧ r ≠ 128 ∧ byteAt (s.mbox
      r).copy 0x20 < 128 ∧ byteAt (s.mbox r).copy 0x28 < 64 ∧ id = le (s.mbox r).copy 0x24 4 ∧ s.coll? id = some c ∧ c.st ≠
      .dropping ∧ (r = 0 ∨ bit (s.rights r id) 5 = true) ∧ s.commitLimit = false) :=
  ⟨⟨held node 0 (request 6 0 [(0x20, [127])]) none, by unfold Granted ReservedZero; decide +kernel⟩,
   ⟨held (node.modFn 0 fun f => { f with queueCount := 100 }) 0 (request 7 0 [(0x20, [1]), (0x22, [100]), (0x24, [4]), (0x26,
     [2]), (0x27, [7]), (0x28, [1]), (0x2C, [1]), (0x30, [2])]) none, 1, by unfold Granted ReservedZero; decide +kernel⟩,
   ⟨held tenant 1 (request 8 0 [(0x20, [2]), (0x24, toLE 4 cid), (0x28, [63])]) none, 1, cid, coll cid,
     by unfold Granted ReservedZero; decide +kernel⟩⟩

theorem witness_PoolAttachAndDetach :
    (∃ (s : State) (bar size : Nat), Granted s 0 9 ∧ ReservedZero s 0 [(1, 1), (4, 4), (28, 1732)] ∧ bar = le (s.mbox 0).copy
      0x28 8 ∧ size = le (s.mbox 0).copy 0x30 8 ∧ byteAt (s.mbox 0).copy 0x20 ≤ 1 ∧ s.pools.length < 16 ∧ (∀ p ∈ s.pools, bar +
      size ≤ p.bar ∨ p.bar + p.size ≤ bar) ∧ bar % 4096 = 0 ∧ size % 4096 = 0 ∧ (if byteAt (s.mbox 0).copy 0x20 = 0 then le
      (s.mbox 0).copy 0x38 4 * 2 ^ 40 + 4096 ≤ size else le (s.mbox 0).copy 0x38 4 = 0) ∧ s.commitLimit = false) ∧
    (∃ (s : State) (pool : Nat) (y : Tail), s.tailOf (.attachPool pool) = some y ∧ y.requester = some 0 ∧ 0 < s.mboxes.length) ∧
    (∃ (s : State) (p : Pool), Granted s 0 10 ∧ ReservedZero s 0 [(5, 1755)] ∧ s.pool? (le (s.mbox 0).copy 0x20 4) = some p ∧
      p.st ≠ .lost ∧ (byteAt (s.mbox 0).copy 0x24 = 0 ∧ s.poolRows (le (s.mbox 0).copy 0x20 4) = 0 ∨ byteAt (s.mbox 0).copy 0x24
      = 1 ∧ p.used ≤ s.capacity .t2 - s.tierUsed .t2) ∧ s.commitLimit = false) ∧
    (∃ (s : State) (pool : Nat) (p : Pool) (y : Tail), s.tailOf (.detachPool pool) = some y ∧ y.requester = some 0 ∧ 0 <
      s.mboxes.length ∧ s.pool? pool = some p ∧ p.st ≠ .lost ∧ s.poolSpills pool = false ∧ s.poolRows pool = 0 ∧ s.poolPriors
      pool = false) :=
  ⟨⟨held node 0 (request 9 0 [(0x28, toLE 8 4096), (0x30, toLE 8 (2 ^ 40 + 4096)), (0x38, [1])]) none, 4096, 2 ^ 40 + 4096,
     by unfold Granted ReservedZero; decide +kernel⟩,
   ⟨tailing node (.attachPool 1), 1, ⟨some 0, .attachPool 1, 0⟩, by decide +kernel⟩,
   ⟨held { node with pools := [pool] } 0 (request 10 0 [(0x20, [1])]) none, pool,
     by unfold Granted ReservedZero; decide +kernel⟩,
   ⟨{ tailing node (.detachPool 1) with pools := [{ pool with st := .detaching }] }, 1, { pool with st := .detaching }, ⟨some 0,
     .detachPool 1, 0⟩, by decide +kernel⟩⟩

theorem witness_ConfigurationParameters :
    (∃ (s : State) (r n : Nat), Granted s r 0x0B ∧ r ≠ 128 ∧ n = byteAt (s.mbox r).copy 0x20 ∧ 1 ≤ n ∧ n ≤ 64 ∧ firstReserved
      (s.mbox r).copy (configRanges n) = none ∧ (∀ e ∈ configEntries (s.mbox r).copy, configListed e.2.1 = true) ∧ (s.mbox
      r).resp.wf = true) ∧
    (∃ (s : State) (n : Nat) (es : List (Nat × Nat × Nat)), Granted s 0 0x0C ∧ n = byteAt (s.mbox 0).copy 0x20 ∧ 1 ≤ n ∧ n ≤ 64
      ∧ firstReserved (s.mbox 0).copy (configRanges n) = none ∧ es = configEntries (s.mbox 0).copy ∧ (∀ e ∈ es, configListed
      e.2.1 = true ∧ e.2.1 < 0x100 ∧ e.2.1 ≠ 0x67 ∧ e.2.1 ≠ 0x69 ∧ s.configGood none e.2.1 e.2.2 = true) ∧ ((∀ e ∈ es, e.2.1 ≠
      0x10 ∧ e.2.1 ≠ 0x11) ∨ s.commitLimit = false)) ∧
    (∃ (s : State), Granted s 0 0x0C ∧ byteAt (s.mbox 0).copy 0x20 = 1 ∧ firstReserved (s.mbox 0).copy (configRanges 1) = none ∧
      le (s.mbox 0).copy 0x28 2 = 0x60 ∧ 5 ≤ le (s.mbox 0).copy 0x2C 4 ∧ le (s.mbox 0).copy 0x2C 4 ≤ 40) ∧
    (∃ (s : State), Granted s 0 0x0C ∧ byteAt (s.mbox 0).copy 0x20 = 1 ∧ firstReserved (s.mbox 0).copy (configRanges 1) = none ∧
      le (s.mbox 0).copy 0x28 2 = 0x60 ∧ ¬ (5 ≤ le (s.mbox 0).copy 0x2C 4 ∧ le (s.mbox 0).copy 0x2C 4 ≤ 40)) ∧
    (∃ (s : State) (n a b to_ shard : Nat) (d : Shard) (pre : List (Nat × Nat × Nat)), Granted s 0 0x0C ∧ n = byteAt (s.mbox
      0).copy 0x20 ∧ 1 ≤ n ∧ n ≤ 64 ∧ firstReserved (s.mbox 0).copy (configRanges n) = none ∧ configEntries (s.mbox 0).copy =
      pre ++ [(a, 0x68, to_), (b, 0x69, shard)] ∧ (∀ e ∈ pre, configListed e.2.1 = true ∧ e.2.1 < 0x100 ∧ e.2.1 ≠ 0x10 ∧ e.2.1 ≠
      0x11 ∧ e.2.1 ≠ 0x67 ∧ e.2.1 ≠ 0x69 ∧ s.configGood none e.2.1 e.2.2 = true) ∧ to_ ≤ 4095 ∧ to_ ≠ s.nodeId ∧ s.shard? shard
      = some d ∧ d.forwardTo = none ∧ d.move = none ∧ d.waiting = []) ∧
    (∃ (s : State) (n a b to_ shard : Nat) (d : Shard) (pre : List (Nat × Nat × Nat)), Granted s 0 0x0C ∧ n = byteAt (s.mbox
      0).copy 0x20 ∧ 1 ≤ n ∧ n ≤ 64 ∧ firstReserved (s.mbox 0).copy (configRanges n) = none ∧ configEntries (s.mbox 0).copy =
      pre ++ [(a, 0x68, to_), (b, 0x69, shard)] ∧ (∀ e ∈ pre, configListed e.2.1 = true ∧ e.2.1 < 0x100 ∧ e.2.1 ≠ 0x10 ∧ e.2.1 ≠
      0x11 ∧ e.2.1 ≠ 0x67 ∧ e.2.1 ≠ 0x69 ∧ s.configGood none e.2.1 e.2.2 = true) ∧ to_ ≤ 4095 ∧ to_ ≠ s.nodeId ∧ s.shard? shard
      = some d ∧ d.forwardTo = none ∧ d.move = none ∧ d.waiting ≠ [] ∧ (∀ z ∈ d.waiting, z.2 ≠ .pass .move)) ∧
    (∃ (s : State) (n a v : Nat) (e : Element) (pre : List (Nat × Nat × Nat)), Granted s 0 0x0C ∧ n = byteAt (s.mbox 0).copy
      0x20 ∧ 1 ≤ n ∧ n ≤ 64 ∧ firstReserved (s.mbox 0).copy (configRanges n) = none ∧ configEntries (s.mbox 0).copy = pre ++
      [(a, 0x67, v)] ∧ (∀ e ∈ pre, configListed e.2.1 = true ∧ e.2.1 < 0x100 ∧ e.2.1 ≠ 0x67 ∧ e.2.1 ≠ 0x69 ∧ s.configGood none
      e.2.1 e.2.2 = true) ∧ elementOf v = some e ∧ e ∈ s.spares.failed ∧ s.spareLeft e = true ∧ s.commitLimit = false) :=
  ⟨⟨held node 1 (request 0x0B 128 [(0x20, [2]), (0x28, [1]), (0x30, [0x60])]) none, 1, 2, by unfold Granted; decide +kernel⟩,
   ⟨held node 0 (request 0x0C 0 [(0x20, [2]), (0x28, [0x60]), (0x2C, [40]), (0x30, [0x12]), (0x34, [2])]) none, 2, configEntries
     ((held node 0 (request 0x0C 0 [(0x20, [2]), (0x28, [0x60]), (0x2C, [40]), (0x30, [0x12]), (0x34, [2])]) none).mbox 0).copy,
     by unfold Granted; decide +kernel⟩,
   ⟨held node 0 (request 0x0C 0 [(0x20, [1]), (0x28, [0x60]), (0x2C, [40])]) none, by unfold Granted; decide +kernel⟩,
   ⟨held node 0 (request 0x0C 0 [(0x20, [1]), (0x28, [0x60]), (0x2C, [41])]) none, by unfold Granted; decide +kernel⟩,
   ⟨held tenant 0 (request 0x0C 0 [(0x20, [3]), (0x28, [0x60]), (0x2C, [40]), (0x30, [0x68]), (0x34, [3]), (0x38, [0x69]),
     (0x3C, toLE 4 sid)]) none, 3, 1, 2, 3, sid, shard, [(0, 0x60, 40)], by unfold Granted; decide +kernel⟩,
   ⟨held (withShard tenant { shard with waiting := [(0, .search theirs)] }) 0 (request 0x0C 0 [(0x20, [3]), (0x28, [0x60]),
     (0x2C, [40]), (0x30, [0x68]), (0x34, [3]), (0x38, [0x69]), (0x3C, toLE 4 sid)]) none, 3, 1, 2, 3, sid,
     { shard with waiting := [(0, .search theirs)] }, [(0, 0x60, 40)], by unfold Granted; decide +kernel⟩,
   ⟨held { node with spares := { node.spares with failed := [⟨4, 0, 0⟩] } } 0 (request 0x0C 0 [(0x20, [1]), (0x28, [0x67]),
     (0x2C, [4])]) none, 1, 0, 4, ⟨4, 0, 0⟩, [], by unfold Granted; decide +kernel⟩⟩

theorem witness_OptionsAndFirmware :
    (∃ (s : State) (data : Bytes), Granted s 0 0x0D ∧ ReservedZero s 0 [(1, 1759)] ∧ byteAt (s.mbox 0).copy 0x20 ≤ 1 ∧ (s.mbox
      0).input = some data ∧ 512 ≤ le (s.mbox 0).copy 16 4 ∧ s.pwr.doldrums = true) ∧
    (∃ (s : State) (data : Bytes), (∀ y ∈ s.tails, ∀ c b, y.kind ≠ .writeOptions c b) ∧ Granted s 0 0x0D ∧ ReservedZero s 0 [(1,
      1759)] ∧ byteAt (s.mbox 0).copy 0x20 ≤ 1 ∧ (s.mbox 0).input = some data ∧ 512 ≤ le (s.mbox 0).copy 16 4 ∧ s.pwr.doldrums =
      false) ∧
    (∃ (s : State) (b : Bool) (block : Bytes) (y : Tail) (pre post : List Tail), (∀ z ∈ pre, ∀ c w, z.kind ≠ .writeOptions c w)
      ∧ s.pwr.doldrums = false ∧ 0 < s.mboxes.length ∧ s.tails = pre ++ y :: post ∧ y.kind = .writeOptions b block ∧ y.requester
      = some 0) ∧
    (∃ (s : State) (n off : Nat) (data : Bytes), Granted s 0 0x0E ∧ ReservedZero s 0 [(1, 3), (8, 1752)] ∧ s.pwr.doldrums =
      false ∧ s.tailRunning TailKind.firmware = false ∧ byteAt (s.mbox 0).copy 0x20 = 0 ∧ le (s.mbox 0).copy 16 4 = n ∧ 0 < n ∧
      n % 4096 = 0 ∧ n ≤ 2 ^ 20 ∧ le (s.mbox 0).copy 0x24 4 = off ∧ off % 4096 = 0 ∧ off + n ≤ 30 * 2 ^ 20 ∧ (s.mbox 0).input =
      some data) ∧
    (∃ (s : State), Granted s 0 0x0E ∧ ReservedZero s 0 [(1, 3), (8, 1752)] ∧ s.pwr.doldrums = false ∧ s.tailRunning
      TailKind.firmware = false ∧ byteAt (s.mbox 0).copy 0x20 = 1 ∧ s.ao.inactive.st = 1) ∧
    (∃ (s : State), Granted s 0 0x0E ∧ ReservedZero s 0 [(1, 3), (8, 1752)] ∧ s.pwr.doldrums = false ∧ s.tailRunning
      TailKind.firmware = false ∧ byteAt (s.mbox 0).copy 0x20 = 2 ∧ s.ao.inactive.st = 2) ∧
    (∃ (s : State), Granted s 0 0x0E ∧ ReservedZero s 0 [(1, 3), (8, 1752)] ∧ s.pwr.doldrums = false ∧ s.tailRunning
      TailKind.firmware = false ∧ byteAt (s.mbox 0).copy 0x20 = 3 ∧ (s.mbox 0).resp.wf = true) ∧
    (∃ (s : State), ∃ (y : Tail), ∃ (pre post : List Tail), ∃ off data, s.pwr.doldrums = false ∧ 0 < s.mboxes.length ∧ s.tails =
      pre ++ y :: post ∧ (∀ z ∈ pre, z.kind.firmware = false) ∧ y.requester = some 0 ∧ y.kind = .fwStage off data) ∧
    (∃ (s : State) (t : Nat) (y : Tail) (pre post : List Tail), s.pwr.doldrums = false ∧ 0 < s.mboxes.length ∧ s.tails = pre ++
      y :: post ∧ (∀ z ∈ pre, z.kind.firmware = false) ∧ y.requester = some 0 ∧ y.kind = .fwVerify ∧ (s.at t).ao.verifies
      s.ao.inactive = true) ∧
    (∃ (s : State) (t : Nat) (y : Tail) (pre post : List Tail), s.pwr.doldrums = false ∧ 0 < s.mboxes.length ∧ s.tails = pre ++
      y :: post ∧ (∀ z ∈ pre, z.kind.firmware = false) ∧ y.requester = some 0 ∧ y.kind = .fwVerify ∧ (s.at t).ao.verifies
      s.ao.inactive = false) ∧
    (∃ (s : State) (y : Tail) (pre post : List Tail), s.pwr.doldrums = false ∧ 0 < s.mboxes.length ∧ s.tails = pre ++ y :: post
      ∧ (∀ z ∈ pre, z.kind.firmware = false) ∧ y.requester = some 0 ∧ y.kind = .fwActivate ∧ s.ao.stage ≠ .recovery) :=
  ⟨⟨held (doldrums node) 0 (request 0x0D 512 []) (some [1]), [1], by unfold Granted ReservedZero; decide +kernel⟩,
   ⟨held node 0 (request 0x0D 512 [(0x20, [1])]) (some [1]), [1], (fun _ h => absurd h List.not_mem_nil),
     by unfold Granted ReservedZero; decide +kernel⟩,
   ⟨tailing node (.writeOptions true [1]), true, [1], ⟨some 0, .writeOptions true [1], 0⟩, [], [], (fun _ h => absurd h
     List.not_mem_nil), by decide +kernel⟩,
   ⟨held node 0 (request 0x0E 4096 [(0x25, [16])]) (some [1]), 4096, 4096, [1], by unfold Granted ReservedZero; decide +kernel⟩,
   ⟨held ({ node with ao := { node.ao with slotBImg := ⟨1, []⟩ } }) 0 (request 0x0E 0 [(0x20, [1])]) none,
     by unfold Granted ReservedZero; decide +kernel⟩,
   ⟨held ({ node with ao := { node.ao with slotBImg := ⟨2, []⟩ } }) 0 (request 0x0E 0 [(0x20, [2])]) none,
     by unfold Granted ReservedZero; decide +kernel⟩,
   ⟨held node 0 (request 0x0E 64 [(0x20, [3])]) none, by unfold Granted ReservedZero; decide +kernel⟩,
   ⟨tailing node (.fwStage 0 [1]), ⟨some 0, .fwStage 0 [1], 0⟩, [], [], 0, [1], by decide +kernel⟩,
   ⟨tailing ({ node with ao := { node.ao with slotBImg := ⟨1, []⟩ } }) .fwVerify, 2000, ⟨some 0, .fwVerify, 0⟩, [], [],
     by decide +kernel⟩,
   ⟨tailing ({ node with ao := { node.ao with slotBImg := ⟨1, [1]⟩ } }) .fwVerify, 2000, ⟨some 0, .fwVerify, 0⟩, [], [],
     by decide +kernel⟩,
   ⟨tailing ({ node with ao := { node.ao with slotBImg := ⟨2, []⟩ } }) .fwActivate, ⟨some 0, .fwActivate, 0⟩, [], [],
     by decide +kernel⟩⟩

theorem witness_ReportsLogAndTelemetry :
    (∃ (s : State) (r t : Nat) (i : Instr) (w : Nat), (i, w) ∈ [(Instr.attestReport r true t, 0), (.attestCertificates r true t,
      1)] ∧ Granted s r 0x0F ∧ ReservedZero s r [(33, 1727)] ∧ r ≠ 128 ∧ byteAt (s.mbox r).copy 0x40 = w ∧ s.ownTail r (.attest
      w) = none) ∧
    (∃ (s : State) (r t w : Nat) (i : Instr) (y : Tail) (out : Bytes), (i = .attestReport r true t ∧ w = 0 ∧ (∃ body, body =
      (s.at t).reportBody (slice (s.mbox r).copy 0x20 32) ∧ out = body ++ slice (Config.mldsaSign body) 0 3309) ∨ i =
      .attestCertificates r true t ∧ w = 1 ∧ out = [Config.attestCertificate (s.ao.header ++ s.ao.measured.flatMap id),
      s.ao.certs.1, s.ao.certs.2].flatMap fun c => toLE 4 c.length ++ c) ∧ out.length ≤ le (s.mbox r).copy 16 4 ∧ r <
      s.mboxes.length ∧ r ≠ 128 ∧ s.ownTail r (.attest w) = some y) ∧
    (∃ (s : State) (r t w : Nat) (i : Instr) (y : Tail) (out : Bytes), (i = .attestReport r true t ∧ w = 0 ∧ (∃ body, body =
      (s.at t).reportBody (slice (s.mbox r).copy 0x20 32) ∧ out = body ++ slice (Config.mldsaSign body) 0 3309) ∨ i =
      .attestCertificates r true t ∧ w = 1 ∧ out = [Config.attestCertificate (s.ao.header ++ s.ao.measured.flatMap id),
      s.ao.certs.1, s.ao.certs.2].flatMap fun c => toLE 4 c.length ++ c) ∧ le (s.mbox r).copy 16 4 < out.length ∧ r <
      s.mboxes.length ∧ r ≠ 128 ∧ s.ownTail r (.attest w) = some y) ∧
    (∃ (s : State), Granted s 0 0x11 ∧ ReservedZero s 0 [(4, 1756)] ∧ s.ownTail 0 .getLog = none) ∧
    (∃ (s : State) (y : Tail) (out : Bytes), out = (s.logFrom (le (s.mbox 0).copy 0x20 4)).flatMap LogEntry.bytes ∧ 0 <
      s.mboxes.length ∧ s.ownTail 0 .getLog = some y ∧ out ≠ [] ∧ out.length ≤ le (s.mbox 0).copy 16 4) ∧
    (∃ (s : State) (r t i : Nat), Granted s r 0x10 ∧ ReservedZero s r [(1, 3), (12, 1748)] ∧ r ≠ 128 ∧ r < s.fns.length ∧ byteAt
      (s.mbox r).copy 0x20 = 0 ∧ le (s.mbox r).copy 8 8 % 4096 = 0 ∧ i < 10 ∧ le (s.mbox r).copy 16 4 = 2 ^ (16 + i) ∧ (s.fn
      r).rings.length < 4 ∧ maskGood r (le (s.mbox r).copy 0x24 4) = true ∧ 25000 ≤ le (s.mbox r).copy 0x28 4 ∧ le (s.mbox
      r).copy 0x28 4 ≤ 250000000 ∧ (s.at t).maxPass r (r == 0) (le (s.mbox r).copy 0x24 4) ≤ 2 ^ (16 + i) - 64 ∧ s.fits r .t1 (2
      ^ 20) = true) ∧
    (∃ (s : State) (r : Nat) (y : TelRing), Granted s r 0x10 ∧ ReservedZero s r [(1, 3), (12, 1748)] ∧ r ≠ 128 ∧ r <
      s.fns.length ∧ byteAt (s.mbox r).copy 0x20 = 1 ∧ (s.fn r).rings.find? (·.addr == le (s.mbox r).copy 8 8) = some y) ∧
    (∃ (s : State) (r t : Nat), Granted s r 0x10 ∧ ReservedZero s r [(1, 3), (12, 1748)] ∧ r ≠ 128 ∧ byteAt (s.mbox r).copy 0x20
      = 2 ∧ maskGood r (le (s.mbox r).copy 0x24 4) = true ∧ ((s.at t).passBytes r (r == 0) (le (s.mbox r).copy 0x24 4) 0
      []).1.length ≤ le (s.mbox r).copy 16 4) ∧
    (∃ (s : State) (fn ring t : Nat) (io : HostIO) (y : TelRing) (b : Bytes), b = ((s.at t).passBytes fn (fn == 0) y.mask
      y.passes y.prev).1 ∧ fn < s.fns.length ∧ (s.fn fn).rings.find? (·.ring == ring) = some y ∧ y.last + y.interval ≤ (s.at
      t).now ∧ io.outOk = true) ∧
    (∃ (s : State) (fn ring t : Nat) (y : TelRing) (b : Bytes), b = ((s.at t).passBytes fn (fn == 0) y.mask y.passes y.prev).1 ∧
      fn < s.fns.length ∧ (s.fn fn).rings.find? (·.ring == ring) = some y ∧ (s.at t).now < y.last + y.interval) :=
  ⟨⟨held node 1 (request 0x0F 8192 []) none, 1, 2000, .attestReport 1 true 2000, 0,
     by unfold Granted ReservedZero; decide +kernel⟩,
   ⟨{ held node 1 (request 0x0F 8192 [(0x40, [0])]) none with tails := [⟨some 1, .attest 0, 0⟩] }, 1, 2000, 0, .attestReport 1
     true 2000, ⟨some 1, .attest 0, 0⟩, _, .inl ⟨rfl, rfl, _, rfl, rfl⟩, report_fits (by decide +kernel), by decide +kernel⟩,
   ⟨{ held node 1 (request 0x0F 0 [(0x40, [0])]) none with tails := [⟨some 1, .attest 0, 0⟩] }, 1, 2000, 0, .attestReport 1 true
     2000, ⟨some 1, .attest 0, 0⟩, _, .inl ⟨rfl, rfl, _, rfl, rfl⟩, report_overflows (by decide +kernel), by decide +kernel⟩,
   ⟨held node 0 (request 0x11 32 []) none, by unfold Granted ReservedZero; decide +kernel⟩,
   ⟨{ held { node with ao := { node.ao with log := [⟨5, 0, 1, 1, []⟩] } } 0 (request 0x11 32 []) none with tails := [⟨some 0, .getLog, 0⟩] },
     ⟨some 0, .getLog, 0⟩, _, rfl, by decide +kernel⟩,
   ⟨held (node.modFn 1 fun f => { f with t1Limit := 1 }) 1 (request 0x10 (2 ^ 20) [(8, toLE 8 4096), (0x24, [1]), (0x28, toLE 4
     25000)]) none, 1, 2000, 4, by unfold Granted ReservedZero; decide +kernel⟩,
   ⟨held (node.modFn 1 fun f => { f with rings := [⟨0, 4096, 2 ^ 20, 1, 25000, 64, 0, 1000, []⟩] }) 1 (request 0x10 0 [(0x20,
     [1]), (8, toLE 8 4096)]) none, 1, ⟨0, 4096, 2 ^ 20, 1, 25000, 64, 0, 1000, []⟩,
     by unfold Granted ReservedZero; decide +kernel⟩,
   ⟨held node 1 (request 0x10 (2 ^ 20) [(0x20, [2]), (0x24, [1])]) none, 1, 2000,
     by unfold Granted ReservedZero; decide +kernel⟩,
   ⟨(node.modFn 1 fun f => { f with rings := [⟨0, 4096, 2 ^ 20, 1, 25000, 64, 0, 1000, []⟩] }), 1, 0, 26000, host [], ⟨0, 4096,
     2 ^ 20, 1, 25000, 64, 0, 1000, []⟩, _, rfl, by decide +kernel⟩,
   ⟨(node.modFn 1 fun f => { f with rings := [⟨0, 4096, 2 ^ 20, 1, 25000, 64, 0, 1000, []⟩] }), 1, 0, 2000, ⟨0, 4096, 2 ^ 20, 1,
     25000, 64, 0, 1000, []⟩, _, rfl, by decide +kernel⟩⟩

theorem witness_AdmissionOfOneEntry :
    (∃ (s y : State) (input : Option Bytes) (t i q : Nat) (u : Queue) (e : Bytes) (num : Nat) (b : Fn), y = (s.at
      t).peakEvents.admRefresh ∧ b = (s.fn u.fn).fill (s.at t).now ∧ s.pwr.st ≠ .lull ∧ s.pwr.st ≠ .calm ∧ s.lullReady = true ∧
      y.admServe = some i ∧ (y.sched.admLists.getD i []).head? = some q ∧ q < 3584 ∧ s.queue? q = some u ∧ u.fn < s.fns.length ∧
      s.freeNum = some num ∧ (∀ z ∈ u.shardBarriers, s.targets e (input.getD []) z.2 = false) ∧ dataOpcode (le e 0 2) = true) ∧
    (∃ (s y : State) (input : Option Bytes) (t i q : Nat) (u : Queue) (e : Bytes) (num : Nat) (b : Fn), y = (s.at
      t).peakEvents.admRefresh ∧ b = (s.fn u.fn).fill (s.at t).now ∧ s.pwr.st ≠ .lull ∧ s.pwr.st ≠ .calm ∧ s.lullReady = true ∧
      y.admServe = some i ∧ (y.sched.admLists.getD i []).head? = some q ∧ q < 3584 ∧ s.queue? q = some u ∧ u.fn < s.fns.length ∧
      s.freeNum = some num ∧ (∀ z ∈ u.shardBarriers, s.targets e (input.getD []) z.2 = false) ∧ dataOpcode (le e 0 2) = false) ∧
    (∃ (s y : State) (input : Option Bytes) (t i q : Nat) (u : Queue) (e : Bytes), y = (s.at t).peakEvents.admRefresh ∧ s.pwr.st
      ≠ .lull ∧ s.pwr.st ≠ .calm ∧ s.lullReady = true ∧ y.admServe = some i ∧ (y.sched.admLists.getD i []).head? = some q ∧ q <
      3584 ∧ s.queue? q = some u ∧ s.freeNum ≠ none ∧ (∃ z ∈ u.shardBarriers, s.targets e (input.getD []) z.2 = true)) ∧
    (∃ (s y : State) (t i q : Nat) (u : Queue), y = (s.at t).peakEvents.admRefresh ∧ s.pwr.st ≠ .lull ∧ s.pwr.st ≠ .calm ∧
      s.lullReady = true ∧ y.admServe = some i ∧ (y.sched.admLists.getD i []).head? = some q ∧ q < 3584 ∧ s.queue? q = some u ∧
      u.fn < s.fns.length ∧ s.freeNum ≠ none) ∧
    (∃ (s y : State) (t i q : Nat) (z : Reserved), y = (s.at t).peakEvents.admRefresh ∧ s.pwr.st ≠ .lull ∧ s.pwr.st ≠ .calm ∧
      s.lullReady = true ∧ y.admServe = some i ∧ (y.sched.admLists.getD i []).head? = some q ∧ 3584 ≤ q ∧ s.sched.reserved.find?
      (·.queue == q) = some z) :=
  ⟨⟨queued { queue 3 1 with sqTail := 1 }, _, some [], 2000, 1, 3, { queue 3 1 with sqTail := 1 }, layout 128 [(0, [10])], 0, _,
     rfl, rfl, by decide +kernel⟩,
   ⟨queued { queue 3 1 with sqTail := 1 }, _, some [], 2000, 1, 3, { queue 3 1 with sqTail := 1 }, layout 128 [(0, [99])], 0, _,
     rfl, rfl, by decide +kernel⟩,
   ⟨{ tenant with queues := [{ queue 3 1 with sqTail := 1, shardBarriers := [(5, sid)] }] }, _, some [], 2000, 1, 3,
     { queue 3 1 with sqTail := 1, shardBarriers := [(5, sid)] }, entry 1 cid [], rfl, by decide +kernel⟩,
   ⟨queued { queue 3 1 with sqTail := 1 }, _, 2000, 1, 3, { queue 3 1 with sqTail := 1 }, rfl, by decide +kernel⟩,
   ⟨{ node with sched := { node.sched with reserved := [⟨3584, ⟨1, 0, false, 2, 7, 3, 15, sid, 0, false, 0⟩, [], 0⟩] } }, _,
     2000, 1, 3584, ⟨3584, ⟨1, 0, false, 2, 7, 3, 15, sid, 0, false, 0⟩, [], 0⟩, rfl, by decide +kernel⟩⟩

theorem witness_InterruptsByTime :
    (∃ (s : State) (q t : Nat) (u : Queue), s.queue? q = some u ∧ 0 < u.pendingMsgs ∧ u.coalDelay ≠ 0 ∧ 25 * u.coalDelay.toNat ≤
      (s.at t).now - u.firstAt) ∧
    (∃ (s : State) (fn t b : Nat) (held : List Nat), held = (s.fn fn).heldVecs ∧ b = min ((s.fn fn).irqCeiling * 25000) ((s.fn
      fn).ceiling + (s.fn fn).irqCeiling * ((s.at t).now - (s.fn fn).ceilingTo)) ∧ fn < s.fns.length ∧ (s.fn fn).overPeak =
      true) ∧
    (∃ (s : State) (fn t : Nat), fn < s.fns.length ∧ (s.fn fn).overPeak = true ∧ (s.fn fn).overPeakAt + 25000 ≤ (s.at t).now) :=
  ⟨⟨queued { queue 3 1 with pendingMsgs := 1, coalDelay := 1 }, 3, 2000, { queue 3 1 with pendingMsgs := 1, coalDelay := 1 },
     by decide +kernel⟩,
   ⟨node.modFn 1 (fun f => { f with overPeak := true, heldVecs := [0], irqCeiling := 1, vecs := [{ mask := false }] }), 1,
     25000, _, _, rfl, rfl, by decide +kernel⟩,
   ⟨node.modFn 1 (fun f => { f with overPeak := true }), 1, 25000, by decide +kernel⟩⟩

theorem witness_EgressOfFrames :
    (∃ (s : State), ∃ (port t : Nat), ∃ (left : Frame → State → Prop), ∃ f, left = (fun f x => exec (.egressSend port t) s =
      .next x ∧ x.sched.egress = s.sched.egress.erase (port, f) ∧ x.out = s.out ++ [.frame port
      { f with seq := (s.port port).txSeq.getD f.channel 0 }] ∧ (x.port port).retry = (s.port port).retry ++
      [{ f with seq := (s.port port).txSeq.getD f.channel 0 }] ∧ (f.channel < (s.port port).credits.length → (x.port
      port).credits.getD f.channel 0 + f.units = (s.port port).credits.getD f.channel 0) ∧ (f.channel < (s.port
      port).txSeq.length → (x.port port).txSeq.getD f.channel 0 = ((s.port port).txSeq.getD f.channel 0 + 1) % 2 ^ 32) ∧ (x.port
      port).txBytes = (s.port port).txBytes + BitVec.ofNat 64 (64 + f.payload) ∧ x.queues = s.queues ∧ x.reqs = s.reqs ∧ ∀ p, p
      ≠ port → x.port p = (s.at t).port p) ∧ port < s.ports.length ∧ ((s.port port).st = .up ∨ (s.port port).st = .narrow) ∧
      (s.port port).retry.foldl (fun n f => n + 64 + f.payload) 0 + 4160 ≤ 1048576 ∧ s.sched.egress.find? (fun e => e.1 == port
      && e.2.channel == 3 && (s.port port).hasCredits e.2) = some (port, f)) ∧
    (∃ (s y : State) (port t : Nat) (ready : List Frame) (left : Frame → State → Prop), left = (fun f x => exec (.egressSend
      port t) s = .next x ∧ x.sched.egress = s.sched.egress.erase (port, f) ∧ x.out = s.out ++ [.frame port
      { f with seq := (s.port port).txSeq.getD f.channel 0 }] ∧ (x.port port).retry = (s.port port).retry ++
      [{ f with seq := (s.port port).txSeq.getD f.channel 0 }] ∧ (f.channel < (s.port port).credits.length → (x.port
      port).credits.getD f.channel 0 + f.units = (s.port port).credits.getD f.channel 0) ∧ (f.channel < (s.port
      port).txSeq.length → (x.port port).txSeq.getD f.channel 0 = ((s.port port).txSeq.getD f.channel 0 + 1) % 2 ^ 32) ∧ (x.port
      port).txBytes = (s.port port).txBytes + BitVec.ofNat 64 (64 + f.payload) ∧ x.queues = s.queues ∧ x.reqs = s.reqs ∧ ∀ p, p
      ≠ port → x.port p = (s.at t).port p) ∧ y = (s.at t).toWheel port (s.headFrames port) ∧ ready = (s.headFrames port).filter
      (fun f => (s.port port).hasCredits f && s.fabricCeiling port (s.headFrames port) f && !y.sched.wheel.any fun w => w.1 ==
      port && w.2.1 == f.queue) ∧ port < s.ports.length ∧ ((s.port port).st = .up ∨ (s.port port).st = .narrow) ∧ (s.port
      port).retry.foldl (fun n f => n + 64 + f.payload) 0 + 4160 ≤ 1048576 ∧ s.sched.egress.find? (fun e => e.1 == port &&
      e.2.channel == 3 && (s.port port).hasCredits e.2) = none ∧ (∀ f ∈ ready, s.egClass f ≤ 7 ∧ s.frameCost f ≤
      s.cfg.egQuantum.getD (s.egClass f) 9216) ∧ ready ≠ []) ∧
    (∃ (s y : State) (port t : Nat) (ready : List Frame) (left : Frame → State → Prop), left = (fun f x => exec (.egressSend
      port t) s = .next x ∧ x.sched.egress = s.sched.egress.erase (port, f) ∧ x.out = s.out ++ [.frame port
      { f with seq := (s.port port).txSeq.getD f.channel 0 }] ∧ (x.port port).retry = (s.port port).retry ++
      [{ f with seq := (s.port port).txSeq.getD f.channel 0 }] ∧ (f.channel < (s.port port).credits.length → (x.port
      port).credits.getD f.channel 0 + f.units = (s.port port).credits.getD f.channel 0) ∧ (f.channel < (s.port
      port).txSeq.length → (x.port port).txSeq.getD f.channel 0 = ((s.port port).txSeq.getD f.channel 0 + 1) % 2 ^ 32) ∧ (x.port
      port).txBytes = (s.port port).txBytes + BitVec.ofNat 64 (64 + f.payload) ∧ x.queues = s.queues ∧ x.reqs = s.reqs ∧ ∀ p, p
      ≠ port → x.port p = (s.at t).port p) ∧ y = (s.at t).toWheel port (s.headFrames port) ∧ ready = (s.headFrames port).filter
      (fun f => (s.port port).hasCredits f && s.fabricCeiling port (s.headFrames port) f && !y.sched.wheel.any fun w => w.1 ==
      port && w.2.1 == f.queue) ∧ port < s.ports.length ∧ ((s.port port).st = .up ∨ (s.port port).st = .narrow) ∧ (s.port
      port).retry.foldl (fun n f => n + 64 + f.payload) 0 + 4160 ≤ 1048576 ∧ s.sched.egress.find? (fun e => e.1 == port &&
      e.2.channel == 3 && (s.port port).hasCredits e.2) = none ∧ (∀ f ∈ ready, s.egClass f ≤ 7 ∧ s.frameCost f ≤
      s.cfg.egQuantum.getD (s.egClass f) 9216) ∧ ready = []) ∧
    (∃ (s : State) (port t : Nat) (left : Frame → State → Prop), left = (fun f x => exec (.egressSend port t) s = .next x ∧
      x.sched.egress = s.sched.egress.erase (port, f) ∧ x.out = s.out ++ [.frame port
      { f with seq := (s.port port).txSeq.getD f.channel 0 }] ∧ (x.port port).retry = (s.port port).retry ++
      [{ f with seq := (s.port port).txSeq.getD f.channel 0 }] ∧ (f.channel < (s.port port).credits.length → (x.port
      port).credits.getD f.channel 0 + f.units = (s.port port).credits.getD f.channel 0) ∧ (f.channel < (s.port
      port).txSeq.length → (x.port port).txSeq.getD f.channel 0 = ((s.port port).txSeq.getD f.channel 0 + 1) % 2 ^ 32) ∧ (x.port
      port).txBytes = (s.port port).txBytes + BitVec.ofNat 64 (64 + f.payload) ∧ x.queues = s.queues ∧ x.reqs = s.reqs ∧ ∀ p, p
      ≠ port → x.port p = (s.at t).port p) ∧ port < s.ports.length ∧ ((s.port port).st = .up ∨ (s.port port).st = .narrow) ∧
      (s.port port).retry.foldl (fun n f => n + 64 + f.payload) 0 + 4160 ≤ 1048576 ∧ (∀ e ∈ s.sched.egress, e.1 = port → (s.port
      port).hasCredits e.2 = false)) ∧
    (∃ (s : State) (port : Nat), (s.port port).st ≠ .up ∧ (s.port port).st ≠ .narrow) :=
  ⟨⟨{ onPort .up with sched := { node.sched with egress := [(0, frame (.compress 0 true))] } }, 0, 2000, _, frame (.compress 0
     true), rfl, by decide +kernel⟩,
   ⟨{ onPort .up with sched := { node.sched with egress := [(0, { frame (.compress 0 true) with channel := 0 })] } }, _, 0,
     2000, _, _, rfl, rfl, rfl, by decide +kernel⟩,
   ⟨{ node.modPort 0 (fun q => { q with st := .up, credits := [0, 0, 0, 0] }) with sched := { node.sched with egress := [(0, { frame (.compress 0 true) with channel := 0 })] } },
     _, 0, 2000, _, _, rfl, rfl, rfl, by decide +kernel⟩,
   ⟨{ node.modPort 0 (fun q => { q with st := .up, credits := [0, 0, 0, 1] }) with sched := { node.sched with egress := [(0, frame (.compress 0 true))] } },
     0, 2000, _, rfl, by decide +kernel⟩,
   ⟨node, 0, by decide +kernel⟩⟩

theorem witness_SearchIsSentToOwners :
    (∃ (s : State) (num : Nat) (io : HostIO) (r : Req) (c : Coll) (e inp : Bytes) (q : List Int) (tile : Nat), e = r.entry ∧ inp
      = slice (io.input.getD []) 0 (le e 24 4) ∧ q = (if byteAt e 48 = 3 then encoded s.free (le e 80 4) (le e 84 4) (slice inp
      0 (le e 68 4)) c.spec.dimensions else (readVector (byteAt e 48) c.spec.dimensions inp 0).getD (freeElements s.free
      c.spec.dimensions)) ∧ tile = s.homeTile num ∧ Accepted s num 1 io [(50, 2), (73, 1), (88, 40)] .named (some 0) (roundUp
      (64 + 12 * le r.entry 52 4) 16 + (if bit (byteAt r.entry 49) 0 then 16 * c.spec.shards else 0)) r ∧ s.coll? (le e 4 4) =
      some c ∧ r.collection = le e 4 4 ∧ c.spec.id = le e 4 4 ∧ byteAt e 48 < 4 ∧ byteAt e 49 < 8 ∧ byteAt e 72 < 3 ∧
      (searchParts e).2.2 ≤ le e 24 4 ∧ (bit (byteAt e 49) 1 = true → c.spec.lexical = true) ∧ 1 ≤ le e 52 4 ∧ le e 52 4 ≤
      16777216 ∧ 1 ≤ le e 56 2 ∧ le e 56 2 ≤ 4096 ∧ le e 58 2 ≤ 256 ∧ (le e 60 4 = 0 ∨ le e 52 4 ≤ le e 60 4 ∧ le e 60 4 ≤
      65536) ∧ (le e 64 2 ≤ 2000 ∨ le e 64 2 = 0xFFFF) ∧ le e 66 2 ≤ 60000 ∧ (if byteAt e 72 = 0 then le e 74 2 = 0 else 1 ≤ le
      e 74 2 ∧ le e 74 2 ≤ 256) ∧ le e 76 4 ≤ 256 ∧ (le e 76 4 ≠ 0 → bit (byteAt e 49) 1 = true) ∧ (byteAt e 48 = 3 → (s.coll?
      (le e 80 4)).isSome = true ∧ s.encoderGood (le e 80 4) (le e 84 4) c.spec.dimensions = true ∧ (r.fn = 0 ∨ bit (s.rights
      r.fn (le e 80 4)) 4 = true)) ∧ (byteAt e 48 ≠ 3 → le e 80 4 = 0 ∧ le e 84 4 = 0 ∧ le e 68 4 = vectorBytes (byteAt e 48)
      c.spec.dimensions) ∧ (byteAt e 48 = 2 → firstReserved inp (sq8Reserved 0 c.spec.dimensions) = none) ∧ (c.spec.metric = 1 →
      sqNorm q ≠ 0) ∧ badTerm inp (searchParts e).1 0 (le e 76 4) = none ∧ (∀ x ∈ readRanges inp (searchParts e).2.1 (le e 74
      2), x.1 ≤ x.2) ∧ (byteAt e 48 = 3 → s.arbHolds (tensorArb tile) (.encode ⟨s.nodeId, num⟩) = true ∧ s.tileReady tile =
      true)) ∧
    (Config.entryKind (le header 4 2) 0 = (0, 0, 64) → ∃ (s : State) (num : Nat) (io : HostIO) (r : Req) (c : Coll) (e inp :
      Bytes) (q : List Int) (tile : Nat), e = r.entry ∧ inp = slice (io.input.getD []) 0 (le e 24 4) ∧ q = (if byteAt e 48 = 3
      then encoded s.free (le e 80 4) (le e 84 4) (slice inp 0 (le e 68 4)) c.spec.dimensions else (readVector (byteAt e 48)
      c.spec.dimensions inp 0).getD (freeElements s.free c.spec.dimensions)) ∧ tile = s.homeTile num ∧ Accepted s num 1 io [(50,
      2), (73, 1), (88, 40)] .named (some 0) (roundUp (64 + 12 * le r.entry 52 4) 16 + (if bit (byteAt r.entry 49) 0 then 16 *
      c.spec.shards else 0)) r ∧ (byteAt e 48 = 3 → (s.coll? (le e 80 4)).isSome = true ∧ s.encoderGood (le e 80 4) (le e 84 4)
      c.spec.dimensions = true ∧ (r.fn = 0 ∨ bit (s.rights r.fn (le e 80 4)) 4 = true)) ∧ s.coll? (le e 4 4) = some c ∧
      r.collection = le e 4 4 ∧ c.spec.id = le e 4 4 ∧ byteAt e 48 < 4 ∧ byteAt e 49 < 8 ∧ byteAt e 72 < 3 ∧ (searchParts e).2.2
      ≤ le e 24 4 ∧ (bit (byteAt e 49) 1 = true → c.spec.lexical = true) ∧ 1 ≤ le e 52 4 ∧ le e 52 4 ≤ 16777216 ∧ 1 ≤ le e 56 2
      ∧ le e 56 2 ≤ 4096 ∧ le e 58 2 ≤ 256 ∧ (le e 60 4 = 0 ∨ le e 52 4 ≤ le e 60 4 ∧ le e 60 4 ≤ 65536) ∧ (le e 64 2 ≤ 2000 ∨
      le e 64 2 = 0xFFFF) ∧ le e 66 2 ≤ 60000 ∧ (if byteAt e 72 = 0 then le e 74 2 = 0 else 1 ≤ le e 74 2 ∧ le e 74 2 ≤ 256) ∧
      le e 76 4 ≤ 256 ∧ (le e 76 4 ≠ 0 → bit (byteAt e 49) 1 = true) ∧ (byteAt e 48 ≠ 3 → le e 80 4 = 0 ∧ le e 84 4 = 0 ∧ le e
      68 4 = vectorBytes (byteAt e 48) c.spec.dimensions) ∧ (byteAt e 48 = 2 → firstReserved inp (sq8Reserved 0
      c.spec.dimensions) = none) ∧ (c.spec.metric = 1 → sqNorm q ≠ 0) ∧ badTerm inp (searchParts e).1 0 (le e 76 4) = none ∧ (∀
      x ∈ readRanges inp (searchParts e).2.1 (le e 74 2), x.1 ≤ x.2) ∧ byteAt e 48 = 3 ∧ ¬ (s.arbHolds (tensorArb tile) (.encode
      ⟨s.nodeId, num⟩) = true ∧ s.tileReady tile = true)) ∧
    (∃ (s : State) (num : Nat) (io : HostIO) (r : Req), s.req? num = some r ∧ r.opcode = 1 ∧ r.body = .fresh ∧ r.collOk = true ∧
      HostTakes io ∧ firstReserved r.entry (entryRanges ++ [(50, 2), (73, 1), (88, 40)]) ≠ none) ∧
    (∃ (s : State) (num : Nat) (io : HostIO) (r : Req), s.req? num = some r ∧ r.opcode = 1 ∧ r.body = .fresh ∧ r.collOk = true ∧
      HostTakes io ∧ firstReserved r.entry (entryRanges ++ [(50, 2), (73, 1), (88, 40)]) = none ∧ (∀ x ∈ entryChecks r.entry,
      x.2 = true) ∧ byteAt r.entry 48 < 4 ∧ byteAt r.entry 49 < 8 ∧ byteAt r.entry 72 < 3 ∧ bit r.rights 0 = false) :=
  ⟨⟨posing tenant (req 1 cid searchEntry .fresh), 7, host (zeros 256), req 1 cid searchEntry .fresh, coll cid, _, _, _, _, rfl,
     rfl, rfl, rfl, accepted (by decide +kernel) (by decide +kernel), by decide +kernel⟩,
   fun hk => ⟨posing { trained model with colls := [coll cid] } (req 1 cid (entry 1 cid [(24, toLE 4 256), (40, toLE 4 128),
     (48, [3]), (52, [1]), (56, [1]), (68, toLE 4 256), (80, toLE 4 cid), (84, [1])]) .fresh), 7, host (zeros 256), req 1 cid
     (entry 1 cid [(24, toLE 4 256), (40, toLE 4 128), (48, [3]), (52, [1]), (56, [1]), (68, toLE 4 256), (80, toLE 4 cid), (84,
     [1])]) .fresh, coll cid, _, _, _, _, rfl, rfl, rfl, rfl, accepted (by decide +kernel) (by decide +kernel), (fun _ =>
     ⟨by decide +kernel, by
        show (_ && ((Config.entryKind (le header 4 2) 0).2.1 == 0) && ((Config.entryKind (le header 4 2) 0).2.2 == 64)) = true
        rw [hk]
        decide +kernel, .inr (by decide +kernel)⟩), by decide +kernel⟩,
   ⟨posing tenant (req 1 cid (entry 1 cid [(9, [1])]) .fresh), 7, host [], req 1 cid (entry 1 cid [(9, [1])]) .fresh,
     by unfold HostTakes; decide +kernel⟩,
   ⟨posing tenant { req 1 cid searchEntry .fresh with rights := 62 }, 7, host [],
     { req 1 cid searchEntry .fresh with rights := 62 }, by unfold HostTakes; decide +kernel⟩⟩

theorem witness_ShareArrival :
    (∃ (s y : State) (m : ShareMsg) (t : Nat) (i : Instr) (mine : List Nat), mine = m.shards.filter s.serves ∧ (i =
      .searchShareArrival (some m) t ∧ (s.at t).takeAdmitted (tagIsOf m.key 1) = some y ∨ i = .searchShareArrival none t ∧ ∃
      rest, s.eng.inShares = m :: rest ∧ y = { s.at t with eng := { s.eng with inShares := rest } })) ∧
    (∃ (s : State) (m : ShareMsg) (t : Nat), (s.at t).takeAdmitted (tagIsOf m.key 1) = none) :=
  ⟨⟨{ tenant with sched := { node.sched with taken := [⟨1, 0, false, 1, 7, 3, 15, sid, 0, false, 0⟩] } },
     ((({ tenant with sched := { node.sched with taken := [⟨1, 0, false, 1, 7, 3, 15, sid, 0, false, 0⟩] } }).at
     2000).takeAdmitted (tagIsOf theirs 1)).getD node, shareMsg, 2000, .searchShareArrival (some shareMsg) 2000, _, rfl, .inl
     ⟨rfl, by decide +kernel⟩⟩,
   ⟨tenant, shareMsg, 2000, by decide +kernel⟩⟩

theorem witness_ReadStampOfASearch :
    ∃ (s : State) (shard a : Nat) (k : Key) (rest : List (Nat × LedgerWhat)) (d : Shard) (h : Share) (p : SShard) (f : Bool), f
      = (match d.switchW with | some w => decide (d.counter < w) | none => true) ∧ s.shard? shard = some d ∧ d.waiting = (a,
      .search k) :: rest ∧ s.share? k = some h ∧ h.part? shard = some p :=
  ⟨withShare (withShard tenant { shard with waiting := [(0, .search theirs)] }) share, sid, 0, theirs, [],
    { shard with waiting := [(0, .search theirs)] }, share, part, _, rfl, by decide +kernel⟩

theorem witness_CoarseAndLevelTwo :
    (∃ (s : State) (k : Key) (shard tile : Nat) (h : Share) (p : SShard), tile = s.homeTile k.num ∧ s.arbHolds (tensorArb tile)
      (.project k shard) = true ∧ s.share? k = some h ∧ h.part? shard = some p ∧ s.tileReady tile = false) ∧
    (∃ (s : State) (k : Key) (shard tile : Nat) (h : Share) (p : SShard), tile = s.homeTile k.num ∧ s.arbHolds (tensorArb tile)
      (.project k shard) = true ∧ s.share? k = some h ∧ h.part? shard = some p ∧ s.tileReady tile = true) ∧
    (∃ (s : State) (k : Key) (shard : Nat) (h : Share) (p : SShard) (d : Shard) (c : Coll) (q : List Int) (sc : Nat → Int) (cols
      : List (List QGroup × Int)), q = projectFor c.spec d.matrix (queryFor c.spec h.msg.params.query) ∧ cols = d.centroids.zip
      d.centroidNorms ∧ (∀ i, sc i = toFp32 (exactScore c.spec (sq8 q) (cols.getD i ([], 0)).1 (cols.getD i ([], 0)).2 (sqNorm
      q) + clampTo (scoreBound c.spec.metric (some nibble) (sq8 q) (cols.getD i ([], 0)).1 (cols.getD i ([], 0)).2 (sqNorm
      q).natAbs) (Config.scoreError (s.free + i)))) ∧ s.arbHolds (tensorArb (s.homeTile k.num)) (.project k shard) = false ∧
      s.arbHolds 0x80 (.coarse k shard) = true ∧ s.share? k = some h ∧ h.part? shard = some p ∧ s.shard? shard = some d ∧
      s.coll? h.msg.collection = some c ∧ s.pwr.hotTiles.contains 4 = true) ∧
    (∃ (s : State) (k : Key) (shard : Nat) (h : Share) (p : SShard) (d : Shard) (c : Coll) (q : List Int) (sc : Nat → Int) (cols
      : List (List QGroup × Int)), q = projectFor c.spec d.matrix (queryFor c.spec h.msg.params.query) ∧ cols = d.centroids.zip
      d.centroidNorms ∧ (∀ i, sc i = toFp32 (exactScore c.spec (sq8 q) (cols.getD i ([], 0)).1 (cols.getD i ([], 0)).2 (sqNorm
      q) + clampTo (scoreBound c.spec.metric (some nibble) (sq8 q) (cols.getD i ([], 0)).1 (cols.getD i ([], 0)).2 (sqNorm
      q).natAbs) (Config.scoreError (s.free + i)))) ∧ s.arbHolds (tensorArb (s.homeTile k.num)) (.project k shard) = false ∧
      s.arbHolds 0x80 (.coarse k shard) = true ∧ s.share? k = some h ∧ h.part? shard = some p ∧ s.shard? shard = some d ∧
      s.coll? h.msg.collection = some c ∧ s.pwr.hotTiles.contains 4 = false) ∧
    (∃ (s : State) (shard t : Nat) (b : L2Batch) (d : Shard) (c : Coll) (r : ArbReq), s.eng.batches.find? (fun b => b.shard ==
      shard && b.left.isNone) = some b ∧ s.shard? shard = some d ∧ s.coll? d.coll = some c ∧ b.due ≤ (s.at t).now ∧ s.poolArrays
      ≠ 0 ∧ (s.arb 0x80).granted = [] ∧ s.pwr.hotTiles.contains 4 = false ∧ (s.at t).requestBatches.arbPick ((s.at
      t).requestBatches.arb 0x80) = some r ∧ r.work = .level2 shard b.openedAt) ∧
    (∃ (s : State) (shard t : Nat) (b : L2Batch) (d : Shard) (c : Coll), s.eng.batches.find? (fun b => b.shard == shard &&
      b.left.isNone) = some b ∧ s.shard? shard = some d ∧ s.coll? d.coll = some c ∧ b.due ≤ (s.at t).now ∧ s.poolArrays = 0 ∧
      s.blockStacks b ≠ []) :=
  ⟨⟨{ grant (withShare tenant share) 0x93 (.project theirs sid) with pwr := { node.pwr with units := [⟨.cluster 12, .gated, 0⟩, ⟨.cluster 13, .gated, 0⟩, ⟨.cluster 14, .gated, 0⟩, ⟨.cluster 15, .gated, 0⟩] } },
     theirs, sid, _, share, part, rfl, by decide +kernel⟩,
   ⟨grant (withShare tenant share) 0x93 (.project theirs sid), theirs, sid, _, share, part, rfl, by decide +kernel⟩,
   ⟨{ grant (withShare tenant share) 0x80 (.coarse theirs sid) with pwr := { node.pwr with hotTiles := [4] } }, theirs, sid,
     share, part, shard, coll cid, _, _, _, rfl, rfl, (fun _ => rfl), by decide +kernel⟩,
   ⟨grant (withShare (withShard tenant { shard with centroids := [[], []], centroidNorms := [0, 0] }) share) 0x80 (.coarse
     theirs sid), theirs, sid, share, part, { shard with centroids := [[], []], centroidNorms := [0, 0] }, coll cid, _, _, _,
     rfl, rfl, (fun _ => rfl), by decide +kernel⟩,
   ⟨{ tenant with eng := { tenant.eng with shares := [share], batches := [⟨sid, [theirs], [], 0, none, none⟩] } }, sid, 2000,
     ⟨sid, [theirs], [], 0, none, none⟩, shard, coll cid, ⟨0, 200, false, false, .level2 sid 0⟩, by decide +kernel⟩,
   ⟨{ tenant with eng := { tenant.eng with shares := [{ share with shards := [{ part with l1 := [0], stage := .level2 }] }], batches := [⟨sid, [theirs], [], 0, none, none⟩] }, spares := { node.spares with field := [] } },
     sid, 2000, ⟨sid, [theirs], [], 0, none, none⟩, shard, coll cid, by decide +kernel⟩⟩

theorem witness_Coaches :
    (∃ (s : State), ∃ (shard t : Nat), ∃ (h : Share), ∃ (p : SShard), ∃ (d : Shard), ∃ (c : Coll), ∃ e, s.nextBoarding shard =
      some h ∧ s.share? h.msg.key = some h ∧ h.part? shard = some p ∧ s.shard? shard = some d ∧ s.coll? d.coll = some c ∧ (s.at
      t).reserveSelection h = .inl e) ∧
    (∃ (s y : State) (shard t : Nat) (h : Share) (p : SShard) (d : Shard) (c : Coll), s.nextBoarding shard = some h ∧ s.share?
      h.msg.key = some h ∧ h.part? shard = some p ∧ s.shard? shard = some d ∧ s.coll? d.coll = some c ∧ (s.at
      t).reserveSelection h = .inr y) ∧
    (∃ (s y : State) (shard t : Nat) (h : Share) (p : SShard) (d : Shard) (c : Coll), s.nextBoarding shard = some h ∧ s.share?
      h.msg.key = some h ∧ h.part? shard = some p ∧ s.shard? shard = some d ∧ s.coll? d.coll = some c ∧ (s.at
      t).reserveSelection h = .inr y ∧ 0 < c.spec.dwellUs ∧ 0 < h.msg.params.dwellLimit ∧ s.pairFn (pairOf h.msg) < s.fns.length
      ∧ (∀ z ∈ s.eng.coaches, z.shard = shard → z.departed = true) ∧ (∀ z ∈ s.eng.coaches, z.id ≠ s.eng.nextCoach)) ∧
    (∃ (s y : State), ∃ (shard t : Nat), ∃ (h : Share), ∃ (p : SShard), ∃ (d : Shard), ∃ (c : Coll), ∃ z, s.nextBoarding shard =
      some h ∧ s.share? h.msg.key = some h ∧ h.part? shard = some p ∧ s.shard? shard = some d ∧ s.coll? d.coll = some c ∧ (s.at
      t).reserveSelection h = .inr y ∧ 0 < c.spec.dwellUs ∧ 0 < h.msg.params.dwellLimit ∧ s.pairFn (pairOf h.msg) < s.fns.length
      ∧ (s.eng.coaches.find? fun z => z.shard == shard && !z.departed) = some z ∧ (∀ w ∈ s.eng.coaches, w.id = z.id → w = z) ∧
      (s.at t).now < z.deadline ∧ z.itin.length + p.probe.length ≤ 16384 ∧ (z.seats.foldl (fun n w => max n (w.1 + 1)) 0) < 255) ∧
    (∃ (s : State) (k : Key) (shard t : Nat) (h : Share) (p : SShard), s.share? k = some h ∧ h.msg.key = k ∧ h.part? shard =
      some p ∧ p.stage = .seat ∧ s.pairFits (pairOf h.msg) .seats 1 = false ∧ p.since + 10 * Config.ticksPerMs ≤ (s.at t).now) ∧
    (∃ (s : State) (shard t : Nat) (c : Coach), (s.eng.coaches.find? fun y => y.shard == shard && !y.departed) = some c ∧
      s.eng.coaches.find? (·.id == c.id) = some c ∧ c.deadline ≤ (s.at t).now) ∧
    (∃ (s : State) (shard t : Nat) (c : Coach), (s.eng.coaches.find? fun y => y.shard == shard && !y.departed) = some c ∧
      s.eng.coaches.find? (·.id == c.id) = some c ∧ (s.at t).now < c.deadline) ∧
    (∃ (s : State) (csu id tiles : Nat) (rest free : List Nat) (c : Coach) (left : List ItinEntry), tiles = (if ((((s.shard?
      c.shard).bind fun d => s.coll? d.coll).map (·.spec.projection)).getD 256) ≤ 256 then 1 else 2) ∧ free = ((s.inUse (128 + 3
      * csu)).filter fun a => !(s.csu csu).runs.any (·.arrays.contains a)) ∧ left = (c.itin.filter fun e => e.csu == csu &&
      !e.mask.isEmpty) ∧ csu < s.eng.csus.length ∧ (s.csu csu).queue = id :: rest ∧ s.eng.coaches.find? (·.id == id) = some c ∧
      s.unitState (.csu csu) = .ready ∧ (if s.spares.offline.any fun e => e.kind == 0 && e.domain == csu && decide (32 ≤
      e.element) && decide (e.element < 35) then (s.csu csu).runs = [] ∧ free ≠ [] else tiles ≤ free.length)) :=
  ⟨⟨withShare (tenant.modFn 1 fun f => { f with seatsLimit := 5 })
     ({ share with msg := { shareMsg with key := ours, params := { params with k := 129 } }, shards := [seating] }), sid, 2000,
     { share with msg := { shareMsg with key := ours, params := { params with k := 129 } }, shards := [seating] }, seating,
     shard, coll cid, 0, by decide +kernel⟩,
   ⟨withShare tenant seated,
     (match ((withShare tenant seated).at 2000).reserveSelection seated with | .inr y => y | .inl _ => node), sid, 2000, seated,
     seating, shard, coll cid, by decide +kernel⟩,
   ⟨withShare tenant seated,
     (match ((withShare tenant seated).at 2000).reserveSelection seated with | .inr y => y | .inl _ => node), sid, 2000, seated,
     seating, shard, coll cid, by decide +kernel⟩,
   ⟨{ tenant with eng := { tenant.eng with shares := [seated], coaches := [coach], nextCoach := 2 }, lists := [list] },
     (match (({ tenant with eng := { tenant.eng with shares := [seated], coaches := [coach], nextCoach := 2 }, lists := [list] }).at 2000).reserveSelection seated with | .inr y => y | .inl _ => node),
     sid, 2000, seated, seating, shard, coll cid, coach, by decide +kernel⟩,
   ⟨withShare tenant { share with msg := { shareMsg with key := ours }, shards := [seating] }, ours, sid, 250000,
     { share with msg := { shareMsg with key := ours }, shards := [seating] }, seating, by decide +kernel⟩,
   ⟨{ tenant with eng := { tenant.eng with coaches := [coach] } }, sid, 100000, coach, by decide +kernel⟩,
   ⟨{ tenant with eng := { tenant.eng with coaches := [coach] } }, sid, 2000, coach, by decide +kernel⟩,
   ⟨{ riding list with eng := { (riding list).eng with csus := node.eng.csus.set 0 { queue := [1] } } }, 0, 1, _, [], _, coach,
     _, rfl, rfl, rfl, by decide +kernel⟩⟩

theorem witness_CsuPageReads :
    (∃ (s : State) (csu : Nat) (res : PageRead) (r : CsuRun) (pre post : List CsuRun) (e : ItinEntry) (later : List ItinEntry)
      (y : Coach) (d : Shard) (c : Coll) (l : LList) (v : Version), csu < s.eng.csus.length ∧ s.arbHolds csu (.page csu) = true
      ∧ (s.csu csu).paused = false ∧ (s.csu csu).runs = pre ++ r :: post ∧ (∀ z ∈ pre, ∀ e ∈ z.left, e.mask = []) ∧ r.left = e
      :: later ∧ e.mask ≠ [] ∧ (∀ z ∈ pre ++ post, z.coach ≠ r.coach) ∧ s.eng.coaches.find? (·.id == r.coach) = some y ∧
      s.shard? y.shard = some d ∧ s.coll? d.coll = some c ∧ s.list? e.list = some l ∧ l.versions.find? (·.epoch == e.epoch) =
      some v ∧ ((s.passengers y e.mask).map (·.msg.key)).Nodup ∧ res ≠ .lost ∧ v.lostPages.contains r.page = false ∧ r.page + 1
      < v.pages.length) ∧
    (∃ (s : State) (csu : Nat) (res : PageRead) (r : CsuRun) (pre post : List CsuRun) (e : ItinEntry) (later : List ItinEntry)
      (y : Coach) (d : Shard) (c : Coll) (l : LList) (v : Version), csu < s.eng.csus.length ∧ s.arbHolds csu (.page csu) = true
      ∧ (s.csu csu).paused = false ∧ (s.csu csu).runs = pre ++ r :: post ∧ (∀ z ∈ pre, ∀ e ∈ z.left, e.mask = []) ∧ r.left = e
      :: later ∧ e.mask ≠ [] ∧ (∀ z ∈ pre ++ post, z.coach ≠ r.coach) ∧ s.eng.coaches.find? (·.id == r.coach) = some y ∧
      s.shard? y.shard = some d ∧ s.coll? d.coll = some c ∧ s.list? e.list = some l ∧ l.versions.find? (·.epoch == e.epoch) =
      some v ∧ ((s.passengers y e.mask).map (·.msg.key)).Nodup ∧ res ≠ .lost ∧ v.lostPages.contains r.page = false ∧
      v.pages.length ≤ r.page + 1) ∧
    (∃ (s : State) (csu : Nat) (res : PageRead) (r : CsuRun) (pre post : List CsuRun) (e : ItinEntry) (later : List ItinEntry)
      (y : Coach) (d : Shard) (c : Coll) (l : LList) (v : Version), csu < s.eng.csus.length ∧ s.arbHolds csu (.page csu) = true
      ∧ (s.csu csu).paused = false ∧ (s.csu csu).runs = pre ++ r :: post ∧ (∀ z ∈ pre, ∀ e ∈ z.left, e.mask = []) ∧ r.left = e
      :: later ∧ e.mask ≠ [] ∧ (∀ z ∈ pre ++ post, z.coach ≠ r.coach) ∧ s.eng.coaches.find? (·.id == r.coach) = some y ∧
      s.shard? y.shard = some d ∧ s.coll? d.coll = some c ∧ s.list? e.list = some l ∧ l.versions.find? (·.epoch == e.epoch) =
      some v ∧ ((s.passengers y e.mask).map (·.msg.key)).Nodup ∧ (res = .lost ∨ v.lostPages.contains r.page = true) ∧ v.pages ≠
      []) ∧
    (∃ (s : State) (csu : Nat), csu < s.eng.csus.length ∧ s.arbHolds csu (.page csu) = true ∧ (s.csu csu).paused = true) ∧
    (∃ (s : State) (csu : Nat), csu < s.eng.csus.length ∧ s.arbHolds csu (.page csu) = true ∧ (s.csu csu).paused = false ∧ (∀ z
      ∈ (s.csu csu).runs, ∀ e ∈ z.left, e.mask = [])) :=
  ⟨⟨riding twoPages, 0, .clean, ⟨1, [⟨0, 5, 1, [0]⟩], 0, []⟩, [], [], ⟨0, 5, 1, [0]⟩, [], coach, shard, coll cid, twoPages, ⟨1,
     0, 0, [[scan], [scan]], 0, false, [], false⟩, by decide +kernel⟩,
   ⟨riding list, 0, .soft 1, ⟨1, [⟨0, 5, 1, [0]⟩], 0, []⟩, [], [], ⟨0, 5, 1, [0]⟩, [], coach, shard, coll cid, list, ⟨1, 0, 0,
     [[scan]], 0, false, [], false⟩, by decide +kernel⟩,
   ⟨riding twoPages, 0, .lost, ⟨1, [⟨0, 5, 1, [0]⟩], 0, []⟩, [], [], ⟨0, 5, 1, [0]⟩, [], coach, shard, coll cid, twoPages, ⟨1,
     0, 0, [[scan], [scan]], 0, false, [], false⟩, by decide +kernel⟩,
   ⟨{ riding list with eng := { (riding list).eng with csus := node.eng.csus.set 0 { runs := [⟨1, [⟨0, 5, 1, [0]⟩], 0, []⟩], paused := true } } },
     0, by decide +kernel⟩,
   ⟨{ riding list with eng := { (riding list).eng with csus := node.eng.csus.set 0 { runs := [⟨1, [⟨0, 5, 1, []⟩], 0, []⟩] } } },
     0, by decide +kernel⟩⟩

theorem witness_SelectionSources :
    (∃ (s : State) (stack t : Nat) (struck : List (Nat × Nat)) (r : ArbReq) (k : Key) (shard list : Nat) (gb : Bool) (h : Share)
      (p : SShard),
      (match (s.arb (0x40 + stack)).granted with | g :: _ => some g | [] => (s.at t).arbPick (s.arb (0x40 + stack))) = some r ∧
      r.background = false ∧ r.work = .nearBank k shard list gb ∧ s.share? k = some h ∧ h.part? shard = some p ∧ struck = []) ∧
    (∃ (s : State) (stack t : Nat) (struck : List (Nat × Nat)) (r : ArbReq) (k : Key) (shard list : Nat) (gb : Bool) (h : Share)
      (p : SShard),
      (match (s.arb (0x40 + stack)).granted with | g :: _ => some g | [] => (s.at t).arbPick (s.arb (0x40 + stack))) = some r ∧
      r.background = false ∧ r.work = .nearBank k shard list gb ∧ s.share? k = some h ∧ h.part? shard = some p ∧ struck ≠ []) ∧
    (∃ (s : State) (stack t : Nat) (struck : List (Nat × Nat)) (r : ArbReq) (shard at_ : Nat) (b : L2Batch) (d : Shard) (c :
      Coll), (match (s.arb (0x40 + stack)).granted with | g :: _ => some g | [] => (s.at t).arbPick (s.arb (0x40 + stack))) =
      some r ∧ r.background = false ∧ r.work = .level2 shard at_ ∧ (s.eng.batches.find? fun y => y.shard == shard && y.openedAt
      == at_) = some b ∧ s.shard? shard = some d ∧ s.coll? d.coll = some c ∧ struck = [] ∧ (b.left.getD []).filter (· != stack)
      ≠ []) ∧
    (∃ (s : State) (stack t : Nat) (struck : List (Nat × Nat)) (r : ArbReq) (shard at_ : Nat) (b : L2Batch) (d : Shard) (c :
      Coll), (match (s.arb (0x40 + stack)).granted with | g :: _ => some g | [] => (s.at t).arbPick (s.arb (0x40 + stack))) =
      some r ∧ r.background = false ∧ r.work = .level2 shard at_ ∧ (s.eng.batches.find? fun y => y.shard == shard && y.openedAt
      == at_) = some b ∧ s.shard? shard = some d ∧ s.coll? d.coll = some c ∧ struck = [] ∧ (b.left.getD []).filter (· != stack)
      = []) ∧
    (∃ (s : State) (stack t : Nat) (struck : List (Nat × Nat)) (r : ArbReq) (shard at_ : Nat) (b : L2Batch) (d : Shard) (c :
      Coll), (match (s.arb (0x40 + stack)).granted with | g :: _ => some g | [] => (s.at t).arbPick (s.arb (0x40 + stack))) =
      some r ∧ r.background = false ∧ r.work = .level2 shard at_ ∧ (s.eng.batches.find? fun y => y.shard == shard && y.openedAt
      == at_) = some b ∧ s.shard? shard = some d ∧ s.coll? d.coll = some c ∧ struck ≠ []) ∧
    (∃ (s : State) (k : Key) (h : Share) (i : Instr) (g : Range), (i, g) ∈ [(Instr.overflowPass k, Range.overflow), (.spillPass
      k, .core)] ∧ s.share? k = some h ∧ rangeOf h.msg.params = g ∧ h.final = false ∧ h.sourcesDone = true) ∧
    (∃ (s : State) (k : Key) (h : Share) (i : Instr) (g : Range), s.share? k = some h ∧ passAt h.msg.params ≤ h.overBuf.length ∧
      (i, g) ∈ [(Instr.overflowPass k, Range.overflow), (.spillPass k, .core)] ∧ rangeOf h.msg.params = g ∧ h.final = false ∧
      h.sourcesDone = false) ∧
    (∃ (s : State) (k : Key) (h : Share) (i : Instr) (g : Range), (i, g) ∈ [(Instr.overflowPass k, Range.overflow), (.spillPass
      k, .core)] ∧ s.share? k = some h ∧ rangeOf h.msg.params = g ∧ h.final = false ∧ h.sourcesDone = false ∧ h.overBuf.length <
      passAt h.msg.params) ∧
    (∃ (s : State) (k : Key) (t due : Nat) (h : Share), due = h.arrivedAt + (if h.msg.params.timeoutMs < 4 then
      h.msg.params.timeoutMs * Config.ticksPerMs / 2 else (h.msg.params.timeoutMs - 2) * Config.ticksPerMs) ∧ s.share? k = some
      h ∧ rangeOf h.msg.params = .core ∧ h.merged = none ∧ due ≤ (s.at t).now) ∧
    (∃ (s : State) (k : Key) (t due : Nat) (h : Share), due = h.arrivedAt + (if h.msg.params.timeoutMs < 4 then
      h.msg.params.timeoutMs * Config.ticksPerMs / 2 else (h.msg.params.timeoutMs - 2) * Config.ticksPerMs) ∧ s.share? k = some
      h ∧ rangeOf h.msg.params = .core ∧ h.merged = none ∧ (s.at t).now < due) ∧
    (∃ (s : State), ∃ (k : Key), ∃ (shard : Nat), ∃ (h : Share), ∃ (p : SShard), ∃ (d : Shard), ∃ (c : Coll), ∃ n, s.arbHolds
      (tensorArb (s.homeTile k.num)) (.forming k shard) = true ∧ s.tileReady (s.homeTile k.num) = true ∧ s.share? k = some h ∧
      h.part? shard = some p ∧ s.shard? shard = some d ∧ s.coll? h.msg.collection = some c ∧ (∀ y ∈ d.slots, d.rowAt y p.stamp ≠
      .wait) ∧ s.reserveSelection h = .inl n) ∧
    (∃ (s : State), ∃ (k : Key), ∃ (shard : Nat), ∃ (h : Share), ∃ (p : SShard), ∃ (d : Shard), ∃ (c : Coll), ∃ y, s.arbHolds
      (tensorArb (s.homeTile k.num)) (.forming k shard) = true ∧ s.tileReady (s.homeTile k.num) = true ∧ s.share? k = some h ∧
      h.part? shard = some p ∧ s.shard? shard = some d ∧ s.coll? h.msg.collection = some c ∧ (∀ y ∈ d.slots, d.rowAt y p.stamp ≠
      .wait) ∧ s.reserveSelection h = .inr y) :=
  ⟨⟨withList (withShare (waits tenant 0x40 (.nearBank theirs sid 5 false))
     ({ share with shards := [{ part with nearLeft := [(5, false), (6, true)] }] })) list, 0, 2000, [], ⟨0, 0, false, false,
     .nearBank theirs sid 5 false⟩, theirs, sid, 5, false,
     { share with shards := [{ part with nearLeft := [(5, false), (6, true)] }] },
     { part with nearLeft := [(5, false), (6, true)] }, by decide +kernel⟩,
   ⟨withList (withShare (waits tenant 0x40 (.nearBank theirs sid 5 false))
     ({ share with shards := [{ part with nearLeft := [(5, false), (6, true)] }] })) list, 0, 2000, [(0, 3)], ⟨0, 0, false,
     false, .nearBank theirs sid 5 false⟩, theirs, sid, 5, false,
     { share with shards := [{ part with nearLeft := [(5, false), (6, true)] }] },
     { part with nearLeft := [(5, false), (6, true)] }, by decide +kernel⟩,
   ⟨{ waits tenant 0x40 (.level2 sid 0) with eng := { tenant.eng with shares := [share], batches := [⟨sid, [theirs], [], 0, none, some [0, 1]⟩] } },
     0, 2000, [], ⟨0, 0, false, false, .level2 sid 0⟩, sid, 0, ⟨sid, [theirs], [], 0, none, some [0, 1]⟩, shard, coll cid,
     by decide +kernel⟩,
   ⟨{ waits tenant 0x40 (.level2 sid 0) with eng := { tenant.eng with shares := [share], batches := [⟨sid, [theirs], [], 0, none, some [0]⟩] } },
     0, 2000, [], ⟨0, 0, false, false, .level2 sid 0⟩, sid, 0, ⟨sid, [theirs], [], 0, none, some [0]⟩, shard, coll cid,
     by decide +kernel⟩,
   ⟨{ waits tenant 0x40 (.level2 sid 0) with eng := { tenant.eng with shares := [share], batches := [⟨sid, [theirs], [], 0, none, some [0]⟩] } },
     0, 2000, [(0, 3)], ⟨0, 0, false, false, .level2 sid 0⟩, sid, 0, ⟨sid, [theirs], [], 0, none, some [0]⟩, shard, coll cid,
     by decide +kernel⟩,
   ⟨withShare tenant (ranking 129), theirs, ranking 129, .overflowPass theirs, .overflow, by decide +kernel⟩,
   ⟨withShare tenant { ranking 129 with shards := [part], overBuf := List.replicate 12288 ⟨0, sid, 3, 0, 77⟩ }, theirs,
     { ranking 129 with shards := [part], overBuf := List.replicate 12288 ⟨0, sid, 3, 0, 77⟩ }, .overflowPass theirs, .overflow,
     rfl, by
        show passAt _ ≤ (List.replicate 12288 _).length
        rw [List.length_replicate]
        decide +kernel, by decide +kernel⟩,
   ⟨withShare tenant { ranking 129 with shards := [part] }, theirs, { ranking 129 with shards := [part] }, .overflowPass theirs,
     .overflow, by decide +kernel⟩,
   ⟨withShare tenant (ranking 4097), theirs, 24950000, _, ranking 4097, rfl, by decide +kernel⟩,
   ⟨withShare tenant (ranking 4097), theirs, 2000, _, ranking 4097, rfl, by decide +kernel⟩,
   ⟨grant (withShare (withShard tenant (holding [slot]))
     ({ share with msg := { shareMsg with key := ours, params := { params with k := 129 } }, shards := [part] })) 0x93 (.forming
     ours sid), ours, sid,
     { share with msg := { shareMsg with key := ours, params := { params with k := 129 } }, shards := [part] }, part, holding
     [slot], coll cid, 0, by decide +kernel⟩,
   ⟨grant (withShare (withShard tenant (holding [slot])) share) 0x93 (.forming theirs sid), theirs, sid, share, part, holding
     [slot], coll cid,
     (match (grant (withShare (withShard tenant (holding [slot])) share) 0x93 (.forming theirs sid)).reserveSelection share with | .inr y => y | .inl _ => node),
     by decide +kernel⟩⟩

theorem witness_NodeMergeAndRerank :
    (∃ (s : State) (k : Key) (h : Share), s.share? k = some h ∧ h.shards ≠ [] ∧ h.sourcesDone = true ∧ h.merged = none ∧
      (rangeOf h.msg.params = .full ∨ h.final = true) ∧ h.msg.params.rerankDepth = 0) ∧
    (∃ (s : State) (k : Key) (h : Share), s.share? k = some h ∧ h.shards ≠ [] ∧ h.sourcesDone = true ∧ h.merged = none ∧
      (rangeOf h.msg.params = .full ∨ h.final = true) ∧ h.msg.params.rerankDepth ≠ 0) ∧
    (∃ (s : State) (tile t shard slot : Nat) (res : PageRead) (k : Key) (h : Share) (p : SShard) (d : Shard) (y : Slot) (row :
      Row) (home : Home) (pre post : List (Nat × Key × Nat × Nat)) (current cached : Bool), current = (d.histAfter y.num
      p.stamp).isNone ∧ cached = (current && s.tier.rowCache.any fun z => z.1 == shard && z.2.1 == slot) ∧ (∀ z ∈ pre, ReadHeld
      s z ∨ ¬ ReadTurn (s.at t) z) ∧ ReadTurn (s.at t) (tile, k, shard, slot) ∧ s.issued tile = pre ++ (tile, k, shard, slot) ::
      post ∧ s.share? k = some h ∧ h.part? shard = some p ∧ s.shard? shard = some d ∧ d.slot? slot = some y ∧ d.rowAt y p.stamp
      = .row row home ∧ (y.lost && current) = false ∧ s.homeLost home = false ∧ (res ≠ .lost ∨ home ≠ .t2 ∨ cached = true)) ∧
    (∃ (s : State) (tile t shard slot : Nat) (res : PageRead) (k : Key) (h : Share) (p : SShard) (d : Shard) (y : Slot) (row :
      Row) (home : Home) (pre post : List (Nat × Key × Nat × Nat)) (current cached : Bool), current = (d.histAfter y.num
      p.stamp).isNone ∧ cached = (current && s.tier.rowCache.any fun z => z.1 == shard && z.2.1 == slot) ∧ (∀ z ∈ pre, ReadHeld
      s z ∨ ¬ ReadTurn (s.at t) z) ∧ ReadTurn (s.at t) (tile, k, shard, slot) ∧ s.issued tile = pre ++ (tile, k, shard, slot) ::
      post ∧ s.share? k = some h ∧ h.part? shard = some p ∧ s.shard? shard = some d ∧ d.slot? slot = some y ∧ d.rowAt y p.stamp
      = .row row home ∧ ((y.lost && current) = true ∨ s.homeLost home = true ∨ home = .t2 ∧ res = .lost ∧ cached = false)) ∧
    (∃ (s : State) (tile t : Nat), (∀ z ∈ s.issued tile, ReadHeld s z ∨ ¬ ReadTurn (s.at t) z)) ∧
    (∃ (s : State) (k : Key) (h : Share) (l : List Cand) (c : Coll), s.arbHolds (tensorArb (s.homeTile k.num)) (.rerank k) =
      true ∧ s.tileReady (s.homeTile k.num) = true ∧ s.share? k = some h ∧ h.rows = [] ∧ h.merged = some l ∧ s.coll?
      h.msg.collection = some c) :=
  ⟨⟨withShare tenant scored, theirs, scored, by decide +kernel⟩,
   ⟨withShare tenant { scored with msg := { shareMsg with params := { params with rerankDepth := 1 } } }, theirs,
     { scored with msg := { shareMsg with params := { params with rerankDepth := 1 } } }, by decide +kernel⟩,
   ⟨{ withShard node (holding [slot]) with colls := [coll cid], pools := [pool], eng := { node.eng with shares := [gathering], porter := [(0, theirs, sid, 2)] } },
     0, 2000, sid, 2, .clean, theirs, gathering, part, holding [slot], slot, row, .t2, [], [], _, _, rfl, rfl, (fun _ h =>
     absurd h List.not_mem_nil), read_turn rfl (by decide +kernel) rfl, by decide +kernel⟩,
   ⟨{ withShard node (holding [slot]) with colls := [coll cid], pools := [pool], eng := { node.eng with shares := [gathering], porter := [(0, theirs, sid, 2)] } },
     0, 2000, sid, 2, .lost, theirs, gathering, part, holding [slot], slot, row, .t2, [], [], _, _, rfl, rfl, (fun _ h => absurd
     h List.not_mem_nil), read_turn rfl (by decide +kernel) rfl, by decide +kernel⟩,
   ⟨{ withShard node ({ holding [slot] with hist := [⟨2, 1, 3, false, none, none⟩] }) with colls := [coll cid], pools := [pool], eng := { node.eng with shares := [gathering], porter := [(0, theirs, sid, 2)] } },
     0, 2000, by
        intro z hz
        rcases List.mem_singleton.1 hz with rfl
        exact .inl ⟨_, _, _, _, rfl, rfl, rfl, rfl, by decide +kernel⟩⟩,
   ⟨grant (withShare tenant { share with merged := some [] }) 0x93 (.rerank theirs), theirs, { share with merged := some [] },
     [], coll cid, by decide +kernel⟩⟩

theorem witness_CoordinatorMerge :
    (∃ (s : State) (num t due : Nat) (io : HostIO) (r : Req) (p : SearchParams) (c : Coll) (answers : List (Nat × ShardAnswer))
      (got : List Answer) (a : Answer) (i : Instr) (y : State), s.req? num = some r ∧ r.body = .search p answers got due ∧
      s.coll? r.collection = some c ∧ HostTakes io ∧ (i = .coordinatorAnswerReceive num (some a) io t ∧ a.key = ⟨s.nodeId, num⟩
      ∧ y = s.at t ∨ i = .coordinatorAnswerReceive num none io t ∧ (s.eng.inAnswers.find? fun a => a.key.num == num) = some a ∧
      y = { s.at t with eng := { s.eng with inAnswers := s.eng.inAnswers.erase a } }) ∧ (due < (s.at t).now ∨ (∃ x ∈ a.shards,
      (answers.any (·.1 == x.1)) = true))) ∧
    (∃ (s : State) (num t due : Nat) (io : HostIO) (r : Req) (p : SearchParams) (c : Coll) (answers : List (Nat × ShardAnswer))
      (got : List Answer) (a : Answer) (i : Instr) (y z : State) (q : Req), s.req? num = some r ∧ r.body = .search p answers got
      due ∧ s.coll? r.collection = some c ∧ HostTakes io ∧ (i = .coordinatorAnswerReceive num (some a) io t ∧ a.key = ⟨s.nodeId,
      num⟩ ∧ y = s.at t ∨ i = .coordinatorAnswerReceive num none io t ∧ (s.eng.inAnswers.find? fun a => a.key.num == num) = some
      a ∧ y = { s.at t with eng := { s.eng with inAnswers := s.eng.inAnswers.erase a } }) ∧ (s.at t).now ≤ due ∧ (∀ x ∈
      a.shards, (answers.any (·.1 == x.1)) = false) ∧ z = (if a.shards.any fun x =>
      match x.2 with | .answered _ _ _ _ _ _ => true | _ => false then y.reserveMerge r p else y) ∧ z.req? num = some q) ∧
    (∃ (s : State) (num t due : Nat) (io : HostIO) (r : Req) (p : SearchParams) (c : Coll) (answers : List (Nat × ShardAnswer))
      (got : List Answer) (a : Answer) (i : Instr) (y z : State) (q : Req), s.req? num = some r ∧ r.body = .search p answers got
      due ∧ s.coll? r.collection = some c ∧ HostTakes io ∧ (i = .coordinatorAnswerReceive num (some a) io t ∧ a.key = ⟨s.nodeId,
      num⟩ ∧ y = s.at t ∨ i = .coordinatorAnswerReceive num none io t ∧ (s.eng.inAnswers.find? fun a => a.key.num == num) = some
      a ∧ y = { s.at t with eng := { s.eng with inAnswers := s.eng.inAnswers.erase a } }) ∧ (s.at t).now ≤ due ∧ (∀ x ∈
      a.shards, (answers.any (·.1 == x.1)) = false) ∧ z = (if a.shards.any fun x =>
      match x.2 with | .answered _ _ _ _ _ _ => true | _ => false then y.reserveMerge r p else y) ∧ z.req? num = some q ∧
      rangeOf p = .full) ∧
    (∃ (s : State) (num t due : Nat) (io : HostIO) (r : Req) (p : SearchParams) (c : Coll) (answers : List (Nat × ShardAnswer))
      (got : List Answer) (a : Answer) (i : Instr) (y z : State) (q : Req), s.req? num = some r ∧ r.body = .search p answers got
      due ∧ s.coll? r.collection = some c ∧ HostTakes io ∧ (i = .coordinatorAnswerReceive num (some a) io t ∧ a.key = ⟨s.nodeId,
      num⟩ ∧ y = s.at t ∨ i = .coordinatorAnswerReceive num none io t ∧ (s.eng.inAnswers.find? fun a => a.key.num == num) = some
      a ∧ y = { s.at t with eng := { s.eng with inAnswers := s.eng.inAnswers.erase a } }) ∧ (s.at t).now ≤ due ∧ (∀ x ∈
      a.shards, (answers.any (·.1 == x.1)) = false) ∧ z = (if a.shards.any fun x =>
      match x.2 with | .answered _ _ _ _ _ _ => true | _ => false then y.reserveMerge r p else y) ∧ z.req? num = some q ∧ (∃ i ∈
      c.shardIds, ((answers ++ a.shards).any (·.1 == i)) = false)) ∧
    (∃ (s : State) (num t due : Nat) (io : HostIO) (r : Req) (p : SearchParams) (c : Coll) (answers : List (Nat × ShardAnswer))
      (got : List Answer) (a : Answer) (i : Instr) (y z : State) (q : Req), s.req? num = some r ∧ r.body = .search p answers got
      due ∧ s.coll? r.collection = some c ∧ HostTakes io ∧ (i = .coordinatorAnswerReceive num (some a) io t ∧ a.key = ⟨s.nodeId,
      num⟩ ∧ y = s.at t ∨ i = .coordinatorAnswerReceive num none io t ∧ (s.eng.inAnswers.find? fun a => a.key.num == num) = some
      a ∧ y = { s.at t with eng := { s.eng with inAnswers := s.eng.inAnswers.erase a } }) ∧ (s.at t).now ≤ due ∧ (∀ x ∈
      a.shards, (answers.any (·.1 == x.1)) = false) ∧ z = (if a.shards.any fun x =>
      match x.2 with | .answered _ _ _ _ _ _ => true | _ => false then y.reserveMerge r p else y) ∧ z.req? num = some q ∧ (∀ i ∈
      c.shardIds, ((answers ++ a.shards).any (·.1 == i)) = true)) ∧
    (∃ (s : State) (num t due : Nat) (io : HostIO) (r : Req) (p : SearchParams) (c : Coll) (answers : List (Nat × ShardAnswer))
      (got : List Answer), s.req? num = some r ∧ r.body = .search p answers got due ∧ s.coll? r.collection = some c ∧ HostTakes
      io ∧ due ≤ (s.at t).now) ∧
    (∃ (s : State) (num t due : Nat) (io : HostIO) (r : Req) (p : SearchParams) (c : Coll) (answers : List (Nat × ShardAnswer))
      (got : List Answer), s.req? num = some r ∧ r.body = .search p answers got due ∧ s.coll? r.collection = some c ∧ HostTakes
      io ∧ (s.at t).now < due) :=
  ⟨⟨posing tenant (searching params 100000), 7, 200000, 100000, host [], searching params 100000, params, coll cid, [], [],
     answer [(sid, .answered 4 1 1 false false false)], .coordinatorAnswerReceive 7 (some (answer [(sid, .answered 4 1 1 false
     false false)])) (host []) 200000, (posing tenant (searching params 100000)).at 200000, by unfold HostTakes; decide +kernel⟩,
   ⟨posing tenant (searching params 100000), 7, 2000, 100000, host [], searching params 100000, params, coll cid, [], [], answer
     [], .coordinatorAnswerReceive 7 (some (answer [])) (host []) 2000, (posing tenant (searching params 100000)).at 2000,
     (posing tenant (searching params 100000)).at 2000, (((posing tenant (searching params 100000)).at 2000).req? 7).getD (req 1
     cid [] .fresh), by unfold HostTakes; decide +kernel⟩,
   ⟨posing tenant (searching params 100000), 7, 2000, 100000, host [], searching params 100000, params, coll cid, [], [], answer
     [(sid, .failed 2 0)], .coordinatorAnswerReceive 7 (some (answer [(sid, .failed 2 0)])) (host []) 2000, (posing tenant
     (searching params 100000)).at 2000, (posing tenant (searching params 100000)).at 2000, (((posing tenant (searching params
     100000)).at 2000).req? 7).getD (req 1 cid [] .fresh), by unfold HostTakes; decide +kernel⟩,
   ⟨posing tenant (searching params 100000), 7, 2000, 100000, host [], searching params 100000, params, coll cid, [], [], answer
     [], .coordinatorAnswerReceive 7 (some (answer [])) (host []) 2000, (posing tenant (searching params 100000)).at 2000,
     (posing tenant (searching params 100000)).at 2000, (((posing tenant (searching params 100000)).at 2000).req? 7).getD (req 1
     cid [] .fresh), by unfold HostTakes; decide +kernel⟩,
   ⟨posing tenant (searching params 100000), 7, 2000, 100000, host [], searching params 100000, params, coll cid, [], [], answer
     [(sid, .answered 4 1 1 false false false)], .coordinatorAnswerReceive 7 (some (answer [(sid, .answered 4 1 1 false false
     false)])) (host []) 2000, (posing tenant (searching params 100000)).at 2000, (posing tenant (searching params 100000)).at
     2000, (((posing tenant (searching params 100000)).at 2000).req? 7).getD (req 1 cid [] .fresh),
     by unfold HostTakes; decide +kernel⟩,
   ⟨posing tenant (searching params 100000), 7, 100000, 100000, host [], searching params 100000, params, coll cid, [], [],
     by unfold HostTakes; decide +kernel⟩,
   ⟨posing tenant (searching params 100000), 7, 2000, 100000, host [], searching params 100000, params, coll cid, [], [],
     by unfold HostTakes; decide +kernel⟩⟩

theorem witness_MutationsBecomeMembers :
    (∃ (s : State) (num t op : Nat) (io : HostIO) (r : Req) (c : Coll) (inp : Bytes) (i : Instr) (kind : MemberKind), Accepted s
      num op io [(49, 3), (56, 72)] .named (some 1) (16 * le r.entry 52 4) r ∧ (i, op, kind) ∈ [(Instr.insert num io t, 2,
      MemberKind.insert), (.upsert num io t, 4, .upsert)] ∧ s.coll? r.collection = some c ∧ inp = slice (io.input.getD []) 0 (le
      r.entry 24 4) ∧ byteAt r.entry 48 < 3 ∧ 1 ≤ le r.entry 52 4 ∧ le r.entry 52 4 ≤ 4096 ∧ entriesEnd (splitEntries inp
      (vectorBytes (byteAt r.entry 48) c.spec.dimensions) (le r.entry 52 4) 0) ≤ le r.entry 24 4) ∧
    (∃ (s : State) (num : Nat) (io : HostIO) (r : Req) (c : Coll) (inp : Bytes), Accepted s num 3 io [(48, 4), (56, 72)] .named
      (some 1) (16 * le r.entry 52 4) r ∧ s.coll? r.collection = some c ∧ inp = slice (io.input.getD []) 0 (le r.entry 24 4) ∧ 1
      ≤ le r.entry 52 4 ∧ le r.entry 52 4 ≤ 65536 ∧ 8 * le r.entry 52 4 ≤ le r.entry 24 4) ∧
    (∃ (s : State) (num : Nat) (io : HostIO) (r : Req) (c : Coll) (inp : Bytes), Accepted s num 6 io [(51, 1), (56, 72)] .named
      (some 3) (16 * le r.entry 52 4) r ∧ s.coll? r.collection = some c ∧ inp = slice (io.input.getD []) 0 (le r.entry 24 4) ∧
      byteAt r.entry 48 < 2 ∧ byteAt r.entry 49 < 2 ∧ byteAt r.entry 50 < 3 ∧ 1 ≤ le r.entry 52 4 ∧ le r.entry 52 4 ≤ 4096 ∧
      entriesEnd (splitEntries inp (vectorBytes (byteAt r.entry 50) c.spec.dimensions) (le r.entry 52 4) 0) ≤ le r.entry 24 4) :=
  ⟨⟨posing tenant (req 2 cid (entry 2 cid [(52, [1]), (24, toLE 4 272), (40, [16])]) .fresh), 7, 2000, 2, host (layout 272 [(0,
     [77])]), req 2 cid (entry 2 cid [(52, [1]), (24, toLE 4 272), (40, [16])]) .fresh, coll cid, slice (layout 272 [(0, [77])])
     0 272, .insert 7 (host (layout 272 [(0, [77])])) 2000, .insert, accepted (by decide +kernel) (by decide +kernel),
     by decide +kernel⟩,
   ⟨posing tenant (req 3 cid (entry 3 cid [(52, [1]), (24, toLE 4 8), (40, [16])]) .fresh), 7, host [77], req 3 cid (entry 3 cid
     [(52, [1]), (24, toLE 4 8), (40, [16])]) .fresh, coll cid, slice [77] 0 8, accepted (by decide +kernel)
     (by decide +kernel), by decide +kernel⟩,
   ⟨posing tenant (req 6 cid (entry 6 cid [(52, [1]), (24, toLE 4 272), (40, [16])]) .fresh), 7, host (layout 272 [(0, [77])]),
     req 6 cid (entry 6 cid [(52, [1]), (24, toLE 4 272), (40, [16])]) .fresh, coll cid, slice (layout 272 [(0, [77])]) 0 272,
     accepted (by decide +kernel) (by decide +kernel), by decide +kernel⟩⟩

theorem witness_MembersAtTheirOwner :
    (∃ (s y : State), ∃ (m : MemberMsg), ∃ (t : Nat), ∃ (a : Instr), ∃ (c : Coll), ∃ d n, (a = .memberArrival (some m) t ∧ (s.at
      t).takeAdmitted (tagIsMember m.key m.shard) = some y ∨ a = .memberArrival none t ∧ ∃ rest, s.eng.inMembers = m :: rest ∧ y
      = { s.at t with eng := { s.eng with inMembers := rest } }) ∧ s.coll? m.collection = some c ∧ s.shard? m.shard = some d ∧
      d.coll = m.collection ∧ d.forwardTo = some n ∧ m.hop < 4) ∧
    (∃ (s y : State), ∃ (m : MemberMsg), ∃ (t : Nat), ∃ (a : Instr), ∃ (c : Coll), ∃ d n, (a = .memberArrival (some m) t ∧ (s.at
      t).takeAdmitted (tagIsMember m.key m.shard) = some y ∨ a = .memberArrival none t ∧ ∃ rest, s.eng.inMembers = m :: rest ∧ y
      = { s.at t with eng := { s.eng with inMembers := rest } }) ∧ s.coll? m.collection = some c ∧ s.shard? m.shard = some d ∧
      d.coll = m.collection ∧ d.forwardTo = some n ∧ 4 ≤ m.hop) ∧
    (∃ (s y : State), ∃ (m : MemberMsg), ∃ (t : Nat), ∃ (a : Instr), ∃ (c : Coll), ∃ d, (a = .memberArrival (some m) t ∧ (s.at
      t).takeAdmitted (tagIsMember m.key m.shard) = some y ∨ a = .memberArrival none t ∧ ∃ rest, s.eng.inMembers = m :: rest ∧ y
      = { s.at t with eng := { s.eng with inMembers := rest } }) ∧ s.coll? m.collection = some c ∧ s.shard? m.shard = some d ∧
      d.coll = m.collection ∧ d.forwardTo = none ∧ d.lost = true) ∧
    (∃ (s y : State), ∃ (m : MemberMsg), ∃ (t : Nat), ∃ (a : Instr), ∃ (c : Coll), ∃ d, (a = .memberArrival (some m) t ∧ (s.at
      t).takeAdmitted (tagIsMember m.key m.shard) = some y ∨ a = .memberArrival none t ∧ ∃ rest, s.eng.inMembers = m :: rest ∧ y
      = { s.at t with eng := { s.eng with inMembers := rest } }) ∧ s.coll? m.collection = some c ∧ s.shard? m.shard = some d ∧
      d.coll = m.collection ∧ d.forwardTo = none ∧ d.lost = false ∧ s.member? m.key m.index ≠ none) ∧
    (∃ (s y : State), ∃ (m : MemberMsg), ∃ (t : Nat), ∃ (a : Instr), ∃ (c : Coll), ∃ d, (a = .memberArrival (some m) t ∧ (s.at
      t).takeAdmitted (tagIsMember m.key m.shard) = some y ∨ a = .memberArrival none t ∧ ∃ rest, s.eng.inMembers = m :: rest ∧ y
      = { s.at t with eng := { s.eng with inMembers := rest } }) ∧ s.coll? m.collection = some c ∧ s.shard? m.shard = some d ∧
      d.coll = m.collection ∧ d.forwardTo = none ∧ d.lost = false ∧ s.member? m.key m.index = none ∧ memberFault c d m = none ∧
      d.holds.contains (d.idOf m.byRef m.name) = false) ∧
    (∃ (s y : State), ∃ (m : MemberMsg), ∃ (t : Nat), ∃ (a : Instr), ∃ (c : Coll), ∃ d, (a = .memberArrival (some m) t ∧ (s.at
      t).takeAdmitted (tagIsMember m.key m.shard) = some y ∨ a = .memberArrival none t ∧ ∃ rest, s.eng.inMembers = m :: rest ∧ y
      = { s.at t with eng := { s.eng with inMembers := rest } }) ∧ s.coll? m.collection = some c ∧ s.shard? m.shard = some d ∧
      d.coll = m.collection ∧ d.forwardTo = none ∧ d.lost = false ∧ s.member? m.key m.index = none ∧ memberFault c d m = none ∧
      d.holds.contains (d.idOf m.byRef m.name) = true) ∧
    (∃ (s y : State), ∃ (m : MemberMsg), ∃ (t : Nat), ∃ (a : Instr), ∃ (c : Coll), ∃ d st dt, (a = .memberArrival (some m) t ∧
      (s.at t).takeAdmitted (tagIsMember m.key m.shard) = some y ∨ a = .memberArrival none t ∧ ∃ rest, s.eng.inMembers = m ::
      rest ∧ y = { s.at t with eng := { s.eng with inMembers := rest } }) ∧ s.coll? m.collection = some c ∧ s.shard? m.shard =
      some d ∧ d.coll = m.collection ∧ d.forwardTo = none ∧ d.lost = false ∧ s.member? m.key m.index = none ∧ memberFault c d m
      = some (st, dt)) ∧
    (∃ (s y : State) (m : MemberMsg) (t : Nat) (a : Instr) (c : Coll), (a = .memberArrival (some m) t ∧ (s.at t).takeAdmitted
      (tagIsMember m.key m.shard) = some y ∨ a = .memberArrival none t ∧ ∃ rest, s.eng.inMembers = m :: rest ∧ y =
      { s.at t with eng := { s.eng with inMembers := rest } }) ∧ s.coll? m.collection = some c ∧ s.shard? m.shard = none) ∧
    (∃ (s : State) (k : Key) (idx : Nat) (w : MWork) (d : Shard) (c : Coll), s.member? k idx = some w ∧ s.shard? w.msg.shard =
      some d ∧ s.coll? d.coll = some c ∧ w.stage = .resolved ∧ s.arbHolds 0x80 (.assign k idx) = true ∧ w.scan ≠ none ∧
      s.pwr.hotTiles.contains 4 = true) ∧
    (∃ (s : State) (k : Key) (idx : Nat) (w : MWork) (d : Shard) (c : Coll), s.member? k idx = some w ∧ s.shard? w.msg.shard =
      some d ∧ s.coll? d.coll = some c ∧ w.stage = .resolved ∧ s.arbHolds 0x80 (.assign k idx) = true ∧ w.scan ≠ none ∧
      s.pwr.hotTiles.contains 4 = false) ∧
    (∃ (s : State) (k : Key) (idx : Nat) (w : MWork) (d : Shard) (c : Coll), s.member? k idx = some w ∧ s.shard? w.msg.shard =
      some d ∧ s.coll? d.coll = some c ∧ w.stage = .waitSplit ∧ (∃ i ∈ w.lists, ∃ l, s.list? i = some l ∧ l.closed = true ∧
      l.retiredW = none)) ∧
    (∃ (s : State) (k : Key) (idx : Nat) (w : MWork) (d : Shard) (c : Coll), s.member? k idx = some w ∧ s.shard? w.msg.shard =
      some d ∧ s.coll? d.coll = some c ∧ w.stage = .waitSplit ∧ (∀ i ∈ w.lists, ∀ l, s.list? i = some l → l.closed = true →
      l.retiredW ≠ none) ∧ d.stage = .formed ∧ (w.msg.kind = .insert ∨ w.msg.kind = .upsert)) :=
  ⟨⟨{ withShard tenant { shard with forwardTo := some 3 } with sched := { node.sched with taken := [⟨2, 0, false, 2, 7, 3, 15, sid, 0, false, 0⟩] } },
     ((({ withShard tenant { shard with forwardTo := some 3 } with sched := { node.sched with taken := [⟨2, 0, false, 2, 7, 3, 15, sid, 0, false, 0⟩] } }).at
     2000).takeAdmitted (tagIsMember theirs sid)).getD node, memberMsg, 2000, .memberArrival (some (memberMsg)) 2000, coll cid,
     { shard with forwardTo := some 3 }, 3, .inl ⟨rfl, by decide +kernel⟩, by decide +kernel⟩,
   ⟨{ withShard tenant { shard with forwardTo := some 3 } with sched := { node.sched with taken := [⟨2, 0, false, 2, 7, 3, 15, sid, 0, false, 0⟩] } },
     ((({ withShard tenant { shard with forwardTo := some 3 } with sched := { node.sched with taken := [⟨2, 0, false, 2, 7, 3, 15, sid, 0, false, 0⟩] } }).at
     2000).takeAdmitted (tagIsMember theirs sid)).getD node, { memberMsg with hop := 4 }, 2000, .memberArrival (some
     ({ memberMsg with hop := 4 })) 2000, coll cid, { shard with forwardTo := some 3 }, 3, .inl ⟨rfl, by decide +kernel⟩,
     by decide +kernel⟩,
   ⟨{ withShard tenant { shard with lost := true } with sched := { node.sched with taken := [⟨2, 0, false, 2, 7, 3, 15, sid, 0, false, 0⟩] } },
     ((({ withShard tenant { shard with lost := true } with sched := { node.sched with taken := [⟨2, 0, false, 2, 7, 3, 15, sid, 0, false, 0⟩] } }).at
     2000).takeAdmitted (tagIsMember theirs sid)).getD node, memberMsg, 2000, .memberArrival (some (memberMsg)) 2000, coll cid,
     { shard with lost := true }, .inl ⟨rfl, by decide +kernel⟩, by decide +kernel⟩,
   ⟨{ withMember tenant member with sched := { node.sched with taken := [⟨2, 0, false, 2, 7, 3, 15, sid, 0, false, 0⟩] } },
     ((({ withMember tenant member with sched := { node.sched with taken := [⟨2, 0, false, 2, 7, 3, 15, sid, 0, false, 0⟩] } }).at
     2000).takeAdmitted (tagIsMember theirs sid)).getD node, memberMsg, 2000, .memberArrival (some (memberMsg)) 2000, coll cid,
     shard, .inl ⟨rfl, by decide +kernel⟩, by decide +kernel⟩,
   ⟨{ tenant with sched := { node.sched with taken := [⟨2, 0, false, 2, 7, 3, 15, sid, 0, false, 0⟩] } },
     ((({ tenant with sched := { node.sched with taken := [⟨2, 0, false, 2, 7, 3, 15, sid, 0, false, 0⟩] } }).at
     2000).takeAdmitted (tagIsMember theirs sid)).getD node, memberMsg, 2000, .memberArrival (some (memberMsg)) 2000, coll cid,
     shard, .inl ⟨rfl, by decide +kernel⟩, by decide +kernel⟩,
   ⟨{ withShard tenant { shard with holds := [77] } with sched := { node.sched with taken := [⟨2, 0, false, 2, 7, 3, 15, sid, 0, false, 0⟩] } },
     ((({ withShard tenant { shard with holds := [77] } with sched := { node.sched with taken := [⟨2, 0, false, 2, 7, 3, 15, sid, 0, false, 0⟩] } }).at
     2000).takeAdmitted (tagIsMember theirs sid)).getD node, memberMsg, 2000, .memberArrival (some (memberMsg)) 2000, coll cid,
     { shard with holds := [77] }, .inl ⟨rfl, by decide +kernel⟩, by decide +kernel⟩,
   ⟨{ tenant with sched := { node.sched with taken := [⟨2, 0, false, 2, 7, 3, 15, sid, 0, false, 0⟩] } },
     ((({ tenant with sched := { node.sched with taken := [⟨2, 0, false, 2, 7, 3, 15, sid, 0, false, 0⟩] } }).at
     2000).takeAdmitted (tagIsMember theirs sid)).getD node, { memberMsg with name := 2 ^ 64 - 1 }, 2000, .memberArrival (some
     ({ memberMsg with name := 2 ^ 64 - 1 })) 2000, coll cid, shard, stInvalid, 2, .inl ⟨rfl, by decide +kernel⟩,
     by decide +kernel⟩,
   ⟨{ { tenant with shards := [] } with sched := { node.sched with taken := [⟨2, 0, false, 2, 7, 3, 15, sid, 0, false, 0⟩] } },
     ((({ { tenant with shards := [] } with sched := { node.sched with taken := [⟨2, 0, false, 2, 7, 3, 15, sid, 0, false, 0⟩] } }).at
     2000).takeAdmitted (tagIsMember theirs sid)).getD node, memberMsg, 2000, .memberArrival (some (memberMsg)) 2000, coll cid,
     .inl ⟨rfl, by decide +kernel⟩, by decide +kernel⟩,
   ⟨{ grant (withMember tenant { member with scan := some scan }) 0x80 (.assign theirs 0) with pwr := { node.pwr with hotTiles := [4] } },
     theirs, 0, { member with scan := some scan }, shard, coll cid, by decide +kernel⟩,
   ⟨grant (withMember (withShard tenant { shard with centroids := [[⟨0, 0, [], []⟩]] }) { member with scan := some scan }) 0x80
     (.assign theirs 0), theirs, 0, { member with scan := some scan }, { shard with centroids := [[⟨0, 0, [], []⟩]] }, coll cid,
     by decide +kernel⟩,
   ⟨withList (withMember tenant { member with stage := .waitSplit, lists := [5] }) { list with closed := true }, theirs, 0,
     { member with stage := .waitSplit, lists := [5] }, shard, coll cid, by decide +kernel⟩,
   ⟨withList (withMember (withShard tenant formed) { member with stage := .waitSplit, lists := [5] })
     { list with closed := true, retiredW := some 3 }, theirs, 0, { member with stage := .waitSplit, lists := [5] }, formed,
     coll cid, by decide +kernel⟩⟩

theorem witness_MembersBeforeTheLedger :
    (∃ (s : State) (k : Key) (idx t n : Nat) (w : MWork) (d : Shard) (c : Coll) (room : Bool) (charged : Nat ⊕ State), n =
      (match w.row, (w.slot.bind d.slot?).map (·.row) with | some r, _ => rowBytes c.spec r | none, some r => if w.msg.kind == .accumulate then rowBytes c.spec r else 0 | none, none => 0)
      ∧ charged = (if n = 0 then .inr (s.at t) else (s.at t).chargeRow c d k idx n
      (match w.slot.bind d.slot? with | some y => !y.born | none => false)) ∧ s.member? k idx = some w ∧ w.stage ∈
      [MStage.assigned, .waitFormation, .waitJournal] ∧ w.journaled = false ∧ s.shard? w.msg.shard = some d ∧ s.coll? d.coll =
      some c ∧ (room = true ↔ ¬ (d.stage = .forming ∧ (w.row ≠ none ∨ w.msg.kind = .accumulate) ∧ 2 * formationSize c d ≤
      s.bufferCount d)) ∧ (w.slot = none ∧ (w.msg.kind = .insert ∨ w.msg.kind = .upsert))) ∧
    (∃ (s : State) (k : Key) (idx t n : Nat) (w : MWork) (d : Shard) (c : Coll) (room : Bool) (charged : Nat ⊕ State), n =
      (match w.row, (w.slot.bind d.slot?).map (·.row) with | some r, _ => rowBytes c.spec r | none, some r => if w.msg.kind == .accumulate then rowBytes c.spec r else 0 | none, none => 0)
      ∧ charged = (if n = 0 then .inr (s.at t) else (s.at t).chargeRow c d k idx n
      (match w.slot.bind d.slot? with | some y => !y.born | none => false)) ∧ s.member? k idx = some w ∧ w.stage ∈
      [MStage.assigned, .waitFormation, .waitJournal] ∧ w.journaled = false ∧ s.shard? w.msg.shard = some d ∧ s.coll? d.coll =
      some c ∧ (room = true ↔ ¬ (d.stage = .forming ∧ (w.row ≠ none ∨ w.msg.kind = .accumulate) ∧ 2 * formationSize c d ≤
      s.bufferCount d)) ∧ (w.slot ≠ none ∨ w.msg.kind ≠ .insert ∧ w.msg.kind ≠ .upsert) ∧ room = false) ∧
    (∃ (s : State) (k : Key) (idx t n : Nat) (w : MWork) (d : Shard) (c : Coll) (room : Bool) (charged : Nat ⊕ State), n =
      (match w.row, (w.slot.bind d.slot?).map (·.row) with | some r, _ => rowBytes c.spec r | none, some r => if w.msg.kind == .accumulate then rowBytes c.spec r else 0 | none, none => 0)
      ∧ charged = (if n = 0 then .inr (s.at t) else (s.at t).chargeRow c d k idx n
      (match w.slot.bind d.slot? with | some y => !y.born | none => false)) ∧ s.member? k idx = some w ∧ w.stage ∈
      [MStage.assigned, .waitFormation, .waitJournal] ∧ w.journaled = false ∧ s.shard? w.msg.shard = some d ∧ s.coll? d.coll =
      some c ∧ (room = true ↔ ¬ (d.stage = .forming ∧ (w.row ≠ none ∨ w.msg.kind = .accumulate) ∧ 2 * formationSize c d ≤
      s.bufferCount d)) ∧ (w.slot ≠ none ∨ w.msg.kind ≠ .insert ∧ w.msg.kind ≠ .upsert) ∧ room = true ∧ s.journalLimit (64 + n +
      w.lists.length * scanBytes c.spec.projection) = true) ∧
    (∃ (s : State), ∃ (k : Key), ∃ (idx t n : Nat), ∃ (w : MWork), ∃ (d : Shard), ∃ (c : Coll), ∃ (room : Bool), ∃ (charged :
      Nat ⊕ State), ∃ q, n =
      (match w.row, (w.slot.bind d.slot?).map (·.row) with | some r, _ => rowBytes c.spec r | none, some r => if w.msg.kind == .accumulate then rowBytes c.spec r else 0 | none, none => 0)
      ∧ charged = (if n = 0 then .inr (s.at t) else (s.at t).chargeRow c d k idx n
      (match w.slot.bind d.slot? with | some y => !y.born | none => false)) ∧ s.member? k idx = some w ∧ w.stage ∈
      [MStage.assigned, .waitFormation, .waitJournal] ∧ w.journaled = false ∧ s.shard? w.msg.shard = some d ∧ s.coll? d.coll =
      some c ∧ (room = true ↔ ¬ (d.stage = .forming ∧ (w.row ≠ none ∨ w.msg.kind = .accumulate) ∧ 2 * formationSize c d ≤
      s.bufferCount d)) ∧ (w.slot ≠ none ∨ w.msg.kind ≠ .insert ∧ w.msg.kind ≠ .upsert) ∧ room = true ∧ s.journalLimit (64 + n +
      w.lists.length * scanBytes c.spec.projection) = false ∧ charged = .inl q) ∧
    (∃ (s : State), ∃ (k : Key), ∃ (idx t n : Nat), ∃ (w : MWork), ∃ (d : Shard), ∃ (c : Coll), ∃ (room : Bool), ∃ (charged :
      Nat ⊕ State), ∃ z, n =
      (match w.row, (w.slot.bind d.slot?).map (·.row) with | some r, _ => rowBytes c.spec r | none, some r => if w.msg.kind == .accumulate then rowBytes c.spec r else 0 | none, none => 0)
      ∧ charged = (if n = 0 then .inr (s.at t) else (s.at t).chargeRow c d k idx n
      (match w.slot.bind d.slot? with | some y => !y.born | none => false)) ∧ s.member? k idx = some w ∧ w.stage ∈
      [MStage.assigned, .waitFormation, .waitJournal] ∧ w.journaled = false ∧ s.shard? w.msg.shard = some d ∧ s.coll? d.coll =
      some c ∧ (room = true ↔ ¬ (d.stage = .forming ∧ (w.row ≠ none ∨ w.msg.kind = .accumulate) ∧ 2 * formationSize c d ≤
      s.bufferCount d)) ∧ (w.slot ≠ none ∨ w.msg.kind ≠ .insert ∧ w.msg.kind ≠ .upsert) ∧ room = true ∧ s.journalLimit (64 + n +
      w.lists.length * scanBytes c.spec.projection) = false ∧ charged = .inr z ∧ z.gbStopOf c w = .none ∧ (∀ e ∈ s.tier.journal,
      e.kind = .member k idx → e.void = true)) ∧
    (∃ (s : State), ∃ (k : Key), ∃ (idx t n : Nat), ∃ (w : MWork), ∃ (d : Shard), ∃ (c : Coll), ∃ (room : Bool), ∃ (charged :
      Nat ⊕ State), ∃ z, n =
      (match w.row, (w.slot.bind d.slot?).map (·.row) with | some r, _ => rowBytes c.spec r | none, some r => if w.msg.kind == .accumulate then rowBytes c.spec r else 0 | none, none => 0)
      ∧ charged = (if n = 0 then .inr (s.at t) else (s.at t).chargeRow c d k idx n
      (match w.slot.bind d.slot? with | some y => !y.born | none => false)) ∧ s.member? k idx = some w ∧ w.stage ∈
      [MStage.assigned, .waitFormation, .waitJournal] ∧ w.journaled = false ∧ s.shard? w.msg.shard = some d ∧ s.coll? d.coll =
      some c ∧ (room = true ↔ ¬ (d.stage = .forming ∧ (w.row ≠ none ∨ w.msg.kind = .accumulate) ∧ 2 * formationSize c d ≤
      s.bufferCount d)) ∧ (w.slot ≠ none ∨ w.msg.kind ≠ .insert ∧ w.msg.kind ≠ .upsert) ∧ room = true ∧ s.journalLimit (64 + n +
      w.lists.length * scanBytes c.spec.projection) = false ∧ charged = .inr z ∧ z.gbStopOf c w = .quota) ∧
    (∃ (s : State), ∃ (k : Key), ∃ (idx t n : Nat), ∃ (w : MWork), ∃ (d : Shard), ∃ (c : Coll), ∃ (room : Bool), ∃ (charged :
      Nat ⊕ State), ∃ z ls, n =
      (match w.row, (w.slot.bind d.slot?).map (·.row) with | some r, _ => rowBytes c.spec r | none, some r => if w.msg.kind == .accumulate then rowBytes c.spec r else 0 | none, none => 0)
      ∧ charged = (if n = 0 then .inr (s.at t) else (s.at t).chargeRow c d k idx n
      (match w.slot.bind d.slot? with | some y => !y.born | none => false)) ∧ s.member? k idx = some w ∧ w.stage ∈
      [MStage.assigned, .waitFormation, .waitJournal] ∧ w.journaled = false ∧ s.shard? w.msg.shard = some d ∧ s.coll? d.coll =
      some c ∧ (room = true ↔ ¬ (d.stage = .forming ∧ (w.row ≠ none ∨ w.msg.kind = .accumulate) ∧ 2 * formationSize c d ≤
      s.bufferCount d)) ∧ (w.slot ≠ none ∨ w.msg.kind ≠ .insert ∧ w.msg.kind ≠ .upsert) ∧ room = true ∧ s.journalLimit (64 + n +
      w.lists.length * scanBytes c.spec.projection) = false ∧ charged = .inr z ∧ z.gbStopOf c w = .full ls) ∧
    (∃ (s : State) (k : Key) (idx t : Nat) (w : MWork) (d : Shard) (c : Coll), s.member? k idx = some w ∧ w.stage =
      .waitGuestbook ∧ s.shard? w.msg.shard = some d ∧ s.coll? d.coll = some c ∧ (s.at t).gbStopOf c w = .none) ∧
    (∃ (s : State), ∃ (k : Key), ∃ (idx t : Nat), ∃ (w : MWork), ∃ (d : Shard), ∃ (c : Coll), ∃ ls, s.member? k idx = some w ∧
      w.stage = .waitGuestbook ∧ s.shard? w.msg.shard = some d ∧ s.coll? d.coll = some c ∧ (s.at t).gbStopOf c w = .full ls ∧
      c.spec.guestbookFull ≠ 1) ∧
    (∃ (s : State) (k : Key) (idx t : Nat) (w : MWork) (d : Shard) (c : Coll), s.member? k idx = some w ∧ w.stage =
      .waitGuestbook ∧ s.shard? w.msg.shard = some d ∧ s.coll? d.coll = some c ∧ (s.at t).gbStopOf c w = .quota) ∧
    (∃ (s : State) (k : Key) (idx : Nat) (w : MWork) (d : Shard) (c : Coll), s.member? k idx = some w ∧ w.stage = .waitTable ∧
      s.shard? w.msg.shard = some d ∧ s.coll? d.coll = some c ∧ s.verdict c d w ≠ .wait) ∧
    (∃ (s : State) (k : Key) (idx : Nat) (w : MWork) (d : Shard) (c : Coll), s.shard? w.msg.shard = some d ∧ s.verdict c d w =
      .wait ∧ s.member? k idx = some w ∧ w.stage = .waitTable ∧ s.coll? d.coll = some c) ∧
    (∃ (s : State) (k : Key) (idx t : Nat) (w : MWork) (i : Instr), s.member? k idx = some w ∧ (i, w.stage) ∈
      [(Instr.guestbookWaitTimeout k idx t, MStage.waitGuestbook), (.guestbookWaitTimeout k idx t, .waitTable),
      (.formationWaitTimeout k idx t, .waitFormation)] ∧ w.since + 2 * Config.ticksPerS ≤ (s.at t).now) ∧
    (∃ (s : State) (k : Key) (idx t : Nat) (w : MWork) (i : Instr), s.member? k idx = some w ∧ (i, w.stage) ∈
      [(Instr.guestbookWaitTimeout k idx t, MStage.waitGuestbook), (.guestbookWaitTimeout k idx t, .waitTable),
      (.formationWaitTimeout k idx t, .waitFormation)] ∧ (s.at t).now < w.since + 2 * Config.ticksPerS) :=
  ⟨⟨withList (withMember (withShard tenant (holding [slot])) { member with stage := .assigned }) list, theirs, 0, 2000, _,
     { member with stage := .assigned }, holding [slot], coll cid, true, _, rfl, rfl, by decide +kernel⟩,
   ⟨withList (withMember (withShard tenant ({ shard with slots := List.replicate 512 { slot with home := .formation } }))
     { member with stage := .assigned, slot := some 2, row := some row }) list, theirs, 0, 2000, _,
     { member with stage := .assigned, slot := some 2, row := some row },
     { shard with slots := List.replicate 512 { slot with home := .formation } }, coll cid, false, _, rfl, rfl,
     by decide +kernel⟩,
   ⟨{ withList (withMember (withShard tenant ({ formed with slots := [slot] })) { member with stage := .assigned, slot := some 2, lists := [5], scan := some scan }) list with tier := { node.tier with journal := [⟨0, .member ours 0, sid, 3, false, 2 ^ 28, 0, .waiting, true, 0, false, none, false⟩] } },
     theirs, 0, 2000, _, { member with stage := .assigned, slot := some 2, lists := [5], scan := some scan },
     { formed with slots := [slot] }, coll cid, true, _, rfl, rfl, by decide +kernel⟩,
   ⟨withList (withMember (withShard tenant ({ formed with slots := [slot] }))
     { member with stage := .assigned, slot := some 2, row := some row }) list, theirs, 0, 2000, _,
     { member with stage := .assigned, slot := some 2, row := some row }, { formed with slots := [slot] }, coll cid, true, _, 2,
     rfl, rfl, by decide +kernel⟩,
   ⟨withList (withMember (withShard tenant ({ formed with slots := [slot] }))
     { member with stage := .assigned, slot := some 2, lists := [5], scan := some scan }) list, theirs, 0, 2000, _,
     { member with stage := .assigned, slot := some 2, lists := [5], scan := some scan }, { formed with slots := [slot] }, coll
     cid, true, _, ((withList (withMember (withShard tenant ({ formed with slots := [slot] }))
     { member with stage := .assigned, slot := some 2, lists := [5], scan := some scan }) list).at 2000), rfl, rfl,
     by decide +kernel⟩,
   ⟨(withList (withMember (withShard tenant ({ formed with slots := [slot] }))
     { member with stage := .assigned, slot := some 2, lists := [5], scan := some scan })
     { list with gb := List.replicate 16 ⟨scan, 2, 0⟩ }).modFn 1 fun f => { f with t1Limit := 0 }, theirs, 0, 2000, _,
     { member with stage := .assigned, slot := some 2, lists := [5], scan := some scan }, { formed with slots := [slot] }, coll
     cid, true, _, (((withList (withMember (withShard tenant ({ formed with slots := [slot] }))
     { member with stage := .assigned, slot := some 2, lists := [5], scan := some scan })
     { list with gb := List.replicate 16 ⟨scan, 2, 0⟩ }).modFn 1 fun f => { f with t1Limit := 0 }).at 2000), rfl, rfl,
     by decide +kernel⟩,
   ⟨withList (withMember (withShard tenant ({ formed with slots := [slot] }))
     { member with stage := .assigned, slot := some 2, lists := [5], scan := some scan })
     { list with gb := List.replicate 1024 ⟨scan, 2, 0⟩, chunks := 1000 }, theirs, 0, 2000, _,
     { member with stage := .assigned, slot := some 2, lists := [5], scan := some scan }, { formed with slots := [slot] }, coll
     cid, true, _, ((withList (withMember (withShard tenant ({ formed with slots := [slot] }))
     { member with stage := .assigned, slot := some 2, lists := [5], scan := some scan })
     { list with gb := List.replicate 1024 ⟨scan, 2, 0⟩, chunks := 1000 }).at 2000), [5], rfl, rfl, by decide +kernel⟩,
   ⟨withList (withMember (withShard tenant formed) { member with stage := .waitGuestbook, lists := [5], scan := some scan })
     list, theirs, 0, 2000, { member with stage := .waitGuestbook, lists := [5], scan := some scan }, formed, coll cid,
     by decide +kernel⟩,
   ⟨withList (withMember (withShard tenant formed) { member with stage := .waitGuestbook, lists := [5], scan := some scan })
     { list with gb := List.replicate 1024 ⟨scan, 2, 0⟩, chunks := 1000 }, theirs, 0, 2000,
     { member with stage := .waitGuestbook, lists := [5], scan := some scan }, formed, coll cid, [5], by decide +kernel⟩,
   ⟨(withList (withMember (withShard tenant formed) { member with stage := .waitGuestbook, lists := [5], scan := some scan })
     { list with gb := List.replicate 16 ⟨scan, 2, 0⟩ }).modFn 1 fun f => { f with t1Limit := 0 }, theirs, 0, 2000,
     { member with stage := .waitGuestbook, lists := [5], scan := some scan }, formed, coll cid, by decide +kernel⟩,
   ⟨withMember tenant { member with stage := .waitTable }, theirs, 0, { member with stage := .waitTable }, shard, coll cid,
     by decide +kernel⟩,
   ⟨withMember (withShard tenant (withHistory (List.replicate 16777216 ⟨2, 5, 1, false, none, none⟩)))
     { member with stage := .waitTable }, theirs, 0, { member with stage := .waitTable }, withHistory (List.replicate 16777216
     ⟨2, 5, 1, false, none, none⟩), coll cid, rfl, fullHistory_waits List.length_replicate rfl rfl, by decide +kernel⟩,
   ⟨withMember tenant { member with stage := .waitGuestbook }, theirs, 0, 50000000, { member with stage := .waitGuestbook },
     .guestbookWaitTimeout theirs 0 50000000, by decide +kernel⟩,
   ⟨withMember tenant { member with stage := .waitGuestbook }, theirs, 0, 2000, { member with stage := .waitGuestbook },
     .guestbookWaitTimeout theirs 0 2000, by decide +kernel⟩⟩

theorem witness_MutationStamps :
    (∃ (s : State) (shard a n i : Nat) (k : Key) (rest : List (Nat × LedgerWhat)) (d : Shard) (c : Coll) (w : MWork) (y : Slot),
      s.shard? shard = some d ∧ d.waiting = (a, .member k i) :: rest ∧ s.coll? d.coll = some c ∧ s.member? k i = some w ∧
      w.msg.shard = shard ∧ w.slot = some n ∧ d.slot? n = some y ∧ d.pendingAcc n = none ∧ w.msg.kind = .insert ∧ y.born = false
      ∧ y.bit = false ∧ (d.stage = .forming ∨ w.lists ≠ []) ∧ s.tablesFree false true = true) ∧
    (∃ (s : State) (shard a n i : Nat) (k : Key) (rest : List (Nat × LedgerWhat)) (d : Shard) (c : Coll) (w : MWork) (y : Slot),
      s.shard? shard = some d ∧ d.waiting = (a, .member k i) :: rest ∧ s.coll? d.coll = some c ∧ s.member? k i = some w ∧
      w.msg.shard = shard ∧ w.slot = some n ∧ d.slot? n = some y ∧ d.pendingAcc n = none ∧ w.msg.kind = .delete ∧ d.live y =
      true ∧ s.tablesFree true false = true) ∧
    (∃ (s : State) (shard a n i : Nat) (k : Key) (rest : List (Nat × LedgerWhat)) (d : Shard) (c : Coll) (w : MWork) (y : Slot),
      s.shard? shard = some d ∧ d.waiting = (a, .member k i) :: rest ∧ s.coll? d.coll = some c ∧ s.member? k i = some w ∧
      w.msg.shard = shard ∧ w.slot = some n ∧ d.slot? n = some y ∧ d.pendingAcc n = none ∧ w.msg.kind = .insert ∧ d.live y =
      true ∧ (d.stage = .forming ∨ w.lists ≠ [])) ∧
    (∃ (s : State) (shard a n i : Nat) (k : Key) (rest : List (Nat × LedgerWhat)) (d : Shard) (c : Coll) (w : MWork) (y : Slot),
      s.shard? shard = some d ∧ d.waiting = (a, .member k i) :: rest ∧ s.coll? d.coll = some c ∧ s.member? k i = some w ∧
      w.msg.shard = shard ∧ w.slot = some n ∧ d.slot? n = some y ∧ d.pendingAcc n = none ∧ w.msg.kind = .delete ∧ d.live y =
      false) :=
  ⟨⟨withMember (withShard tenant (ledgered { slot with born := false })) (atLedger .insert), sid, 0, 2, 0, theirs, [], (ledgered
     { slot with born := false }), coll cid, atLedger .insert, { slot with born := false }, by decide +kernel⟩,
   ⟨withMember (withShard tenant (ledgered slot)) (atLedger .delete), sid, 0, 2, 0, theirs, [], ledgered slot, coll cid,
     atLedger .delete, slot, by decide +kernel⟩,
   ⟨withMember (withShard tenant (ledgered slot)) (atLedger .insert), sid, 0, 2, 0, theirs, [], ledgered slot, coll cid,
     atLedger .insert, slot, by decide +kernel⟩,
   ⟨withMember (withShard tenant (ledgered { slot with born := false })) (atLedger .delete), sid, 0, 2, 0, theirs, [], (ledgered
     { slot with born := false }), coll cid, atLedger .delete, { slot with born := false }, by decide +kernel⟩⟩

theorem witness_OutcomesAndAccumulates :
    (∃ (s y : State) (num t j : Nat) (io : HostIO) (r : Req) (ms new : List OMember) (o : Outcome) (i : Instr), new = (ms.mapIdx
      fun a m => if a = j ∧ m.outcome = none then { m with outcome := some o } else m) ∧ (i = .memberOutcomeReceive (some
      ⟨⟨s.nodeId, num⟩, j, o⟩) io t ∧ y = s.at t ∨ i = .memberOutcomeReceive none io t ∧ ∃ rest, s.eng.inOutcomes = ⟨⟨s.nodeId,
      num⟩, j, o⟩ :: rest ∧ y = { s.at t with eng := { s.eng with inOutcomes := rest } }) ∧ s.req? num = some r ∧ r.body =
      .mutation ms ∧ HostTakes io ∧ (∃ m ∈ new, m.outcome = none)) ∧
    (∃ (s y : State) (num t j : Nat) (io : HostIO) (r : Req) (ms new : List OMember) (o : Outcome) (os : List Outcome) (i :
      Instr), new = (ms.mapIdx fun a m => if a = j ∧ m.outcome = none then { m with outcome := some o } else m) ∧ (i =
      .memberOutcomeReceive (some ⟨⟨s.nodeId, num⟩, j, o⟩) io t ∧ y = s.at t ∨ i = .memberOutcomeReceive none io t ∧ ∃ rest,
      s.eng.inOutcomes = ⟨⟨s.nodeId, num⟩, j, o⟩ :: rest ∧ y = { s.at t with eng := { s.eng with inOutcomes := rest } }) ∧
      s.req? num = some r ∧ r.body = .mutation ms ∧ HostTakes io ∧ (∀ m ∈ new, m.outcome ≠ none) ∧ os = new.filterMap
      (·.outcome) ∧ (r.opcode ≠ 8 ∨ s.run? num = none)) ∧
    (∃ (s : State) (num idx owner : Nat) (r : Req) (ms : List OMember) (m : OMember) (c : Coll), s.req? num = some r ∧ r.body =
      .mutation ms ∧ ms[idx]? = some m ∧ m.outcome = none ∧ m.delivered = true ∧ s.ownerOf m.msg.shard = some owner ∧
      s.reachable owner = true ∧ s.coll? r.collection = some c) ∧
    (∃ (s : State) (shard slot : Nat) (d : Shard) (c : Coll) (e : Hist) (y : Slot) (dl : List Int × List (Nat × Int)) (r : Row),
      s.shard? shard = some d ∧ s.coll? d.coll = some c ∧ d.pendingAcc slot = some e ∧ d.slot? slot = some y ∧ y.lost = false ∧
      e.delta = some dl ∧ accumulated c.spec y.row dl = some r) :=
  ⟨⟨posing tenant (mutating [ownMember 0, ownMember 1]), (posing tenant (mutating [ownMember 0, ownMember 1])).at 2000, 7, 2000,
     0, host [], mutating [ownMember 0, ownMember 1], [ownMember 0, ownMember 1], _, ⟨5, 0, 0, sid⟩, .memberOutcomeReceive (some
     ⟨⟨15, 7⟩, 0, ⟨5, 0, 0, sid⟩⟩) (host []) 2000, rfl, .inl ⟨rfl, rfl⟩, by unfold HostTakes; decide +kernel⟩,
   ⟨posing tenant (mutating [ownMember 0]), (posing tenant (mutating [ownMember 0])).at 2000, 7, 2000, 0, host [], mutating
     [ownMember 0], [ownMember 0], _, ⟨5, 0, 0, sid⟩, [⟨5, 0, 0, sid⟩], .memberOutcomeReceive (some ⟨⟨15, 7⟩, 0, ⟨5, 0, 0,
     sid⟩⟩) (host []) 2000, rfl, .inl ⟨rfl, rfl⟩, by unfold HostTakes; decide +kernel⟩,
   ⟨posing (neighboured { node with colls := [theirColl] }) (mutating [ownMember 0]), 7, 0, 3, mutating [ownMember 0],
     [ownMember 0], ownMember 0, theirColl, by decide +kernel⟩,
   ⟨withShard tenant { shard with slots := [slot], hist := [⟨2, 5, 1, false, none, some ([], [])⟩] }, sid, 2,
     { shard with slots := [slot], hist := [⟨2, 5, 1, false, none, some ([], [])⟩] }, coll cid, ⟨2, 5, 1, false, none, some ([],
     [])⟩, slot, ([], []), (accumulated (spec cid) row ([], [])).getD row, by decide +kernel⟩⟩

theorem witness_Gathers :
    (∃ (s : State) (num t : Nat) (io : HostIO) (peers : List (Nat × IndexReply)) (r : Req) (c : Coll) (inp : Bytes) (byRef :
      Bool) (names : List Nat) (inColl : Nat → Prop) (here chans : List Nat) (w : LedgerWhat) (g : Work), inp = slice
      (io.input.getD []) 0 (le r.entry 24 4) ∧ byRef = (byteAt r.entry 48 == 1) ∧ w = .pass (.req ⟨s.nodeId, num⟩) ∧ g = .gather
      ⟨s.nodeId, num⟩ ∧ (inColl = fun n => byRef = false ∨ n < 2 ^ 59 ∧ c.spec.firstShard ≤ memberShard c byRef n ∧ memberShard
      c byRef n < c.spec.firstShard + c.spec.shards) ∧ (∀ i, i ∈ here ↔ ∃ n ∈ names, inColl n ∧ s.gatherOwner (memberShard c
      byRef n) = some s.nodeId ∧ memberShard c byRef n = i) ∧ (∀ i, i ∈ chans ↔ ∃ n ∈ names, inColl n ∧ s.gatherOwner
      (memberShard c byRef n) = some s.nodeId ∧ ∃ d y, s.shard? (memberShard c byRef n) = some d ∧ d.named byRef n = some y ∧
      s.rowRead d y d.counter = some i) ∧ (s.req? num = some r ∧ r.opcode = 5 ∧ r.body = .gatherWait ∨ Accepted s num 5 io [(51,
      1), (56, 72)] .named (some 2) (64 + le r.entry 52 4 * (16 + gatherWidth c.spec (byteAt r.entry 49)) + (if bit (byteAt
      r.entry 50) 0 then 16 * c.spec.shards else 0)) r ∧ r.collection = le r.entry 4 4 ∧ byteAt r.entry 48 < 2 ∧ byteAt r.entry
      49 < 2 ∧ byteAt r.entry 50 < 4 ∧ 1 ≤ le r.entry 52 4 ∧ le r.entry 52 4 ≤ 65536 ∧ 8 * le r.entry 52 4 ≤ le r.entry 24 4) ∧
      (r.body = .gatherWait ∨ (byRef = false → ∀ n ∈ names, n ≠ 0xFFFFFFFFFFFFFFFF) ∧ ∀ n ∈ names, ∀ o, s.gatherOwner
      (memberShard c byRef n) = some o → o = s.nodeId) ∧ (∀ n ∈ names, inColl n → ∀ d y, s.shard? (memberShard c byRef n) = some
      d → d.named byRef n = some y → d.rowAt y d.counter ≠ .wait) ∧ LedgerTurn s here w ∧ GrantTurn (s.at t) (1 + s.homeTile
      num) false chans g ∧ s.coll? r.collection = some c ∧ names = readIds inp 0 (le r.entry 52 4) ∧ HostTakes io ∧ (∀ z ∈
      peers, z.2 ≠ .poolLost) ∧ (bit (byteAt r.entry 8) 0 = true ∨ r.body = .fresh ∨ ∀ p ∈ s.pools, p.st = .lost → p.lostAt <
      r.admittedAt)) ∧
    (∃ (s : State) (num t : Nat) (io : HostIO) (r : Req) (c : Coll) (inp : Bytes) (byRef : Bool) (names : List Nat) (inColl :
      Nat → Prop) (here chans : List Nat) (w : LedgerWhat) (g : Work), inp = slice (io.input.getD []) 0 (le r.entry 24 4) ∧
      byRef = (byteAt r.entry 48 == 1) ∧ w = .pass (.req ⟨s.nodeId, num⟩) ∧ g = .gather ⟨s.nodeId, num⟩ ∧ (inColl = fun n =>
      byRef = false ∨ n < 2 ^ 59 ∧ c.spec.firstShard ≤ memberShard c byRef n ∧ memberShard c byRef n < c.spec.firstShard +
      c.spec.shards) ∧ (∀ i, i ∈ here ↔ ∃ n ∈ names, inColl n ∧ s.gatherOwner (memberShard c byRef n) = some s.nodeId ∧
      memberShard c byRef n = i) ∧ (∀ i, i ∈ chans ↔ ∃ n ∈ names, inColl n ∧ s.gatherOwner (memberShard c byRef n) = some
      s.nodeId ∧ ∃ d y, s.shard? (memberShard c byRef n) = some d ∧ d.named byRef n = some y ∧ s.rowRead d y d.counter = some i)
      ∧ (s.req? num = some r ∧ r.opcode = 5 ∧ r.body = .gatherWait ∨ Accepted s num 5 io [(51, 1), (56, 72)] .named (some 2) (64
      + le r.entry 52 4 * (16 + gatherWidth c.spec (byteAt r.entry 49)) + (if bit (byteAt r.entry 50) 0 then 16 * c.spec.shards
      else 0)) r ∧ r.collection = le r.entry 4 4 ∧ byteAt r.entry 48 < 2 ∧ byteAt r.entry 49 < 2 ∧ byteAt r.entry 50 < 4 ∧ 1 ≤
      le r.entry 52 4 ∧ le r.entry 52 4 ≤ 65536 ∧ 8 * le r.entry 52 4 ≤ le r.entry 24 4) ∧ (r.body = .gatherWait ∨ (byRef =
      false → ∀ n ∈ names, n ≠ 0xFFFFFFFFFFFFFFFF) ∧ ∀ n ∈ names, ∀ o, s.gatherOwner (memberShard c byRef n) = some o → o =
      s.nodeId) ∧ (∀ n ∈ names, inColl n → ∀ d y, s.shard? (memberShard c byRef n) = some d → d.named byRef n = some y → d.rowAt
      y d.counter ≠ .wait) ∧ ¬ (LedgerTurn s here w ∧ GrantTurn (s.at t) (1 + s.homeTile num) false chans g) ∧ s.coll?
      r.collection = some c ∧ names = readIds inp 0 (le r.entry 52 4) ∧ HostTakes io) ∧
    (∃ (s : State), ∃ (num t : Nat), ∃ (io : HostIO), ∃ (peers : List (Nat × IndexReply)), ∃ (r : Req), ∃ (c : Coll), ∃ (inp :
      Bytes), ∃ (byRef : Bool), ∃ (names : List Nat), ∃ (inColl : Nat → Prop), ∃ (here chans : List Nat), ∃ (w : LedgerWhat), ∃
      (g : Work), ∃ i n, inp = slice (io.input.getD []) 0 (le r.entry 24 4) ∧ byRef = (byteAt r.entry 48 == 1) ∧ w = .pass (.req
      ⟨s.nodeId, num⟩) ∧ g = .gather ⟨s.nodeId, num⟩ ∧ (inColl = fun n => byRef = false ∨ n < 2 ^ 59 ∧ c.spec.firstShard ≤
      memberShard c byRef n ∧ memberShard c byRef n < c.spec.firstShard + c.spec.shards) ∧ (∀ i, i ∈ here ↔ ∃ n ∈ names, inColl
      n ∧ s.gatherOwner (memberShard c byRef n) = some s.nodeId ∧ memberShard c byRef n = i) ∧ (∀ i, i ∈ chans ↔ ∃ n ∈ names,
      inColl n ∧ s.gatherOwner (memberShard c byRef n) = some s.nodeId ∧ ∃ d y, s.shard? (memberShard c byRef n) = some d ∧
      d.named byRef n = some y ∧ s.rowRead d y d.counter = some i) ∧ (s.req? num = some r ∧ r.opcode = 5 ∧ r.body = .gatherWait
      ∨ Accepted s num 5 io [(51, 1), (56, 72)] .named (some 2) (64 + le r.entry 52 4 * (16 + gatherWidth c.spec (byteAt r.entry
      49)) + (if bit (byteAt r.entry 50) 0 then 16 * c.spec.shards else 0)) r ∧ r.collection = le r.entry 4 4 ∧ byteAt r.entry
      48 < 2 ∧ byteAt r.entry 49 < 2 ∧ byteAt r.entry 50 < 4 ∧ 1 ≤ le r.entry 52 4 ∧ le r.entry 52 4 ≤ 65536 ∧ 8 * le r.entry 52
      4 ≤ le r.entry 24 4) ∧ (r.body = .gatherWait ∨ (byRef = false → ∀ n ∈ names, n ≠ 0xFFFFFFFFFFFFFFFF) ∧ ∀ n ∈ names, ∀ o,
      s.gatherOwner (memberShard c byRef n) = some o → o = s.nodeId) ∧ (∀ n ∈ names, inColl n → ∀ d y, s.shard? (memberShard c
      byRef n) = some d → d.named byRef n = some y → d.rowAt y d.counter ≠ .wait) ∧ LedgerTurn s here w ∧ GrantTurn (s.at t) (1
      + s.homeTile num) false chans g ∧ inColl n ∧ s.coll? r.collection = some c ∧ names = readIds inp 0 (le r.entry 52 4) ∧
      HostTakes io ∧ names[i]? = some n ∧ s.gatherOwner (memberShard c byRef n) ≠ some s.nodeId ∧ peers.find? (·.1 == i) = some
      (i, .poolLost)) ∧
    (∃ (s : State), ∃ (num : Nat), ∃ (io : HostIO), ∃ (r : Req), ∃ (c : Coll), ∃ (inp : Bytes), ∃ (byRef : Bool), ∃ (names :
      List Nat), ∃ (inColl : Nat → Prop), ∃ (here chans : List Nat), ∃ (w : LedgerWhat), ∃ (g : Work), ∃ n o, inp = slice
      (io.input.getD []) 0 (le r.entry 24 4) ∧ byRef = (byteAt r.entry 48 == 1) ∧ w = .pass (.req ⟨s.nodeId, num⟩) ∧ g = .gather
      ⟨s.nodeId, num⟩ ∧ (inColl = fun n => byRef = false ∨ n < 2 ^ 59 ∧ c.spec.firstShard ≤ memberShard c byRef n ∧ memberShard
      c byRef n < c.spec.firstShard + c.spec.shards) ∧ (∀ i, i ∈ here ↔ ∃ n ∈ names, inColl n ∧ s.gatherOwner (memberShard c
      byRef n) = some s.nodeId ∧ memberShard c byRef n = i) ∧ (∀ i, i ∈ chans ↔ ∃ n ∈ names, inColl n ∧ s.gatherOwner
      (memberShard c byRef n) = some s.nodeId ∧ ∃ d y, s.shard? (memberShard c byRef n) = some d ∧ d.named byRef n = some y ∧
      s.rowRead d y d.counter = some i) ∧ (s.req? num = some r ∧ r.opcode = 5 ∧ r.body = .gatherWait ∨ Accepted s num 5 io [(51,
      1), (56, 72)] .named (some 2) (64 + le r.entry 52 4 * (16 + gatherWidth c.spec (byteAt r.entry 49)) + (if bit (byteAt
      r.entry 50) 0 then 16 * c.spec.shards else 0)) r ∧ r.collection = le r.entry 4 4 ∧ byteAt r.entry 48 < 2 ∧ byteAt r.entry
      49 < 2 ∧ byteAt r.entry 50 < 4 ∧ 1 ≤ le r.entry 52 4 ∧ le r.entry 52 4 ≤ 65536 ∧ 8 * le r.entry 52 4 ≤ le r.entry 24 4) ∧
      s.coll? r.collection = some c ∧ names = readIds inp 0 (le r.entry 52 4) ∧ HostTakes io ∧ r.body = .fresh ∧ (byRef = false
      → ∀ n ∈ names, n ≠ 0xFFFFFFFFFFFFFFFF) ∧ s.gatherOwner (memberShard c byRef n) = some o ∧ o ≠ s.nodeId ∧ n ∈ names) ∧
    (∃ (s : State) (num : Nat) (io : HostIO) (r : Req) (c : Coll) (inp : Bytes) (byRef : Bool) (names : List Nat) (inColl : Nat
      → Prop) (here chans : List Nat) (w : LedgerWhat) (g : Work), inp = slice (io.input.getD []) 0 (le r.entry 24 4) ∧ byRef =
      (byteAt r.entry 48 == 1) ∧ w = .pass (.req ⟨s.nodeId, num⟩) ∧ g = .gather ⟨s.nodeId, num⟩ ∧ (inColl = fun n => byRef =
      false ∨ n < 2 ^ 59 ∧ c.spec.firstShard ≤ memberShard c byRef n ∧ memberShard c byRef n < c.spec.firstShard +
      c.spec.shards) ∧ (∀ i, i ∈ here ↔ ∃ n ∈ names, inColl n ∧ s.gatherOwner (memberShard c byRef n) = some s.nodeId ∧
      memberShard c byRef n = i) ∧ (∀ i, i ∈ chans ↔ ∃ n ∈ names, inColl n ∧ s.gatherOwner (memberShard c byRef n) = some
      s.nodeId ∧ ∃ d y, s.shard? (memberShard c byRef n) = some d ∧ d.named byRef n = some y ∧ s.rowRead d y d.counter = some i)
      ∧ (s.req? num = some r ∧ r.opcode = 5 ∧ r.body = .gatherWait ∨ Accepted s num 5 io [(51, 1), (56, 72)] .named (some 2) (64
      + le r.entry 52 4 * (16 + gatherWidth c.spec (byteAt r.entry 49)) + (if bit (byteAt r.entry 50) 0 then 16 * c.spec.shards
      else 0)) r ∧ r.collection = le r.entry 4 4 ∧ byteAt r.entry 48 < 2 ∧ byteAt r.entry 49 < 2 ∧ byteAt r.entry 50 < 4 ∧ 1 ≤
      le r.entry 52 4 ∧ le r.entry 52 4 ≤ 65536 ∧ 8 * le r.entry 52 4 ≤ le r.entry 24 4) ∧ s.coll? r.collection = some c ∧ names
      = readIds inp 0 (le r.entry 52 4) ∧ HostTakes io ∧ r.body = .fresh ∧ byRef = false ∧ 0xFFFFFFFFFFFFFFFF ∈ names) :=
  ⟨⟨posing (withShard tenant (holding [{ slot with home := .t3 1 }])) (req 5 cid (entry 5 cid [(24, [8]), (40, toLE 4 512), (52,
     [1])]) .fresh), 7, 2000, host ([77]), [], req 5 cid (entry 5 cid [(24, [8]), (40, toLE 4 512), (52, [1])]) .fresh, coll
     cid, _, _, [77], _, [sid], [], _, _, rfl, rfl, rfl, rfl, rfl, here_is (.inl (by decide +kernel)) (by decide +kernel),
     no_channels (by decide +kernel), .inr ⟨accepted (by decide +kernel) (by decide +kernel), by decide +kernel⟩, .inr
     ⟨by decide +kernel, owned_here (by decide +kernel)⟩, settled (by decide +kernel), ledger_turn (by decide +kernel),
     grant_turn (by decide +kernel), by unfold HostTakes; decide +kernel⟩,
   ⟨posing (withShard tenant ({ holding [{ slot with home := .t3 1 }] with waiting := [(0, .search theirs)] })) (req 5 cid
     (entry 5 cid [(24, [8]), (40, toLE 4 512), (52, [1])]) .fresh), 7, 2000, host ([77]), req 5 cid (entry 5 cid [(24, [8]),
     (40, toLE 4 512), (52, [1])]) .fresh, coll cid, _, _, [77], _, [sid], [], _, _, rfl, rfl, rfl, rfl, rfl, here_is (.inl
     (by decide +kernel)) (by decide +kernel), no_channels (by decide +kernel), .inr ⟨accepted (by decide +kernel)
     (by decide +kernel), by decide +kernel⟩, .inr ⟨by decide +kernel, owned_here (by decide +kernel)⟩, settled
     (by decide +kernel), (fun h => not_ledger_turn sid (by decide +kernel) h.1), by unfold HostTakes; decide +kernel⟩,
   ⟨posing ({ node with colls := [theirColl] }) (req 5 cid (entry 5 cid [(24, [8]), (40, toLE 4 512), (52, [1])]) .gatherWait),
     7, 2000, host ([77]), [(0, .poolLost)], req 5 cid (entry 5 cid [(24, [8]), (40, toLE 4 512), (52, [1])]) .gatherWait,
     theirColl, _, _, [77], _, [], [], _, _, 0, 77, rfl, rfl, rfl, rfl, rfl, here_is_none (by decide +kernel), no_channels
     (by decide +kernel), .inl (by decide +kernel), .inl rfl, settled (by decide +kernel), ledger_turn (by decide +kernel),
     grant_turn (by decide +kernel), .inl (by decide +kernel), by unfold HostTakes; decide +kernel⟩,
   ⟨posing (neighboured { node with colls := [theirColl] }) (req 5 cid (entry 5 cid [(24, [8]), (40, toLE 4 512), (52, [1])])
     .fresh), 7, host ([77]), req 5 cid (entry 5 cid [(24, [8]), (40, toLE 4 512), (52, [1])]) .fresh, theirColl, _, _, [77], _,
     [], [], _, _, 77, 3, rfl, rfl, rfl, rfl, rfl, here_is_none (by decide +kernel), no_channels (by decide +kernel), .inr
     ⟨accepted (by decide +kernel) (by decide +kernel), by decide +kernel⟩, by unfold HostTakes; decide +kernel⟩,
   ⟨posing (withShard tenant (holding [{ slot with home := .t3 1 }])) (req 5 cid (entry 5 cid [(24, [8]), (40, toLE 4 512), (52,
     [1])]) .fresh), 7, host (toLE 8 (2 ^ 64 - 1)), req 5 cid (entry 5 cid [(24, [8]), (40, toLE 4 512), (52, [1])]) .fresh,
     coll cid, _, _, [2 ^ 64 - 1], _, [sid], [], _, _, rfl, rfl, rfl, rfl, rfl, here_is (.inl (by decide +kernel))
     (by decide +kernel), no_channels (by decide +kernel), .inr ⟨accepted (by decide +kernel) (by decide +kernel),
     by decide +kernel⟩, by unfold HostTakes; decide +kernel⟩⟩

theorem witness_ModelLoading :
    (∃ (s : State) (num t n t1 t2 : Nat) (io : HostIO) (r : Req) (c : Coll) (inp : Bytes), Accepted s num 7 io [(50, 2), (64,
      64)] .named (some 4) 0 r ∧ byteAt r.entry 48 = 0 ∧ byteAt r.entry 49 < 2 ∧ le r.entry 52 4 = 0 ∧ s.coll? r.collection =
      some c ∧ c.spec.id = r.collection ∧ (s.at t).ownersReachable c = true ∧ HostTakes io ∧ r.fn < s.fns.length ∧ inp = slice
      (io.input.getD []) 0 (le r.entry 24 4) ∧ n = hdrTensors inp ∧ 256 + 48 * n ≤ inp.length ∧ packageBad inp n = [] ∧
      s.modelLimits c (slice inp 0 256) (readTensors inp n 256) (byteAt r.entry 49 == 1) = true ∧ t2 = s.shareSum c (readTensors
      inp n 256) Tensor.shareOf ∧ t1 = (if byteAt r.entry 49 = 1 then s.residentBytes c (slice inp 0 256) (readTensors inp n
      256) else 0) ∧ s.fits r.fn .t1 t1 = true ∧ s.fits r.fn .t2 t2 = true) ∧
    (∃ (s : State) (num t : Nat) (io : HostIO) (r : Req) (c : Coll) (m : Model) (inp : Bytes), Accepted s num 7 io [(50, 2),
      (64, 64)] .named (some 4) 0 r ∧ byteAt r.entry 48 = 1 ∧ byteAt r.entry 49 < 2 ∧ le r.entry 56 8 % 4096 = 0 ∧ s.coll?
      r.collection = some c ∧ (s.at t).ownersReachable c = true ∧ s.pwr.doldrums = false ∧ inp = slice (io.input.getD []) 0 (le
      r.entry 24 4) ∧ s.model? c.spec.id (le r.entry 52 4) = some m ∧ m.fn = r.fn ∧ m.st = .loading ∧ le r.entry 56 8 +
      inp.length ≤ hdrLength m.header ∧ (inp.length % 4096 = 0 ∨ le r.entry 56 8 + inp.length = hdrLength m.header) ∧ s.anyWaits
      = false ∧ HostTakes io) ∧
    (∃ (s : State) (coll model t : Nat) (m : Model), s.model? coll model = some m ∧ m.st = .loading ∧ (∀ r ∈ s.runs, ¬ (r.coll =
      coll ∧ r.model = model)) ∧ m.lastPart + 86400 * Config.ticksPerS ≤ (s.at t).now) ∧
    (∃ (s : State) (coll model t : Nat) (m : Model), s.model? coll model = some m ∧ m.st = .loading ∧ (∀ r ∈ s.runs, ¬ (r.coll =
      coll ∧ r.model = model)) ∧ (s.at t).now < m.lastPart + 86400 * Config.ticksPerS) ∧
    (∃ (s : State) (num t a : Nat) (io : HostIO) (r : Req) (c : Coll) (i : Instr), Accepted s num 7 io [(50, 2), (64, 64)]
      .named (some 4) 0 r ∧ (i, a) ∈ [(Instr.modelLoadPart num io t, 1), (.modelLoadCommit num [] io t, 2),
      (.modelLoadCheckpoint num [] io t, 4), (.modelLoadPlace num [] io t, 5)] ∧ byteAt r.entry 48 = a ∧ byteAt r.entry 49 < 2 ∧
      le r.entry 56 8 % 4096 = 0 ∧ s.coll? r.collection = some c ∧ s.pwr.doldrums = true ∧ HostTakes io) :=
  ⟨⟨{ posing (trained model) (req 7 cid (entry 7 cid [(48, [0]), (24, toLE 4 304)]) .fresh) with models := [] }, 7, 2000, 1, 0,
     128, host (header ++ layout 48 [(16, [1]), (20, [64]), (32, [128])]), req 7 cid (entry 7 cid [(48, [0]), (24, toLE 4 304)])
     .fresh, coll cid, slice (header ++ layout 48 [(16, [1]), (20, [64]), (32, [128])]) 0 304, accepted (by decide +kernel)
     (by decide +kernel), by unfold HostTakes; decide +kernel⟩,
   ⟨posing (trained loading) (req 7 cid (entry 7 cid [(48, [1]), (24, [64]), (52, [1])]) .fresh), 7, 2000, host (zeros 64), req
     7 cid (entry 7 cid [(48, [1]), (24, [64]), (52, [1])]) .fresh, coll cid, loading, slice (zeros 64) 0 64, accepted
     (by decide +kernel) (by decide +kernel), by unfold HostTakes; decide +kernel⟩,
   ⟨trained loading, cid, 1, 86400 * 25000000, loading, by decide +kernel⟩,
   ⟨trained loading, cid, 1, 2000, loading, by decide +kernel⟩,
   ⟨posing (doldrums (trained loading)) (req 7 cid (entry 7 cid [(48, [1])]) .fresh), 7, 2000, 1, host [], req 7 cid (entry 7
     cid [(48, [1])]) .fresh, coll cid, .modelLoadPart 7 (host []) 2000, accepted (by decide +kernel) (by decide +kernel),
     by unfold HostTakes; decide +kernel⟩⟩

theorem witness_ModelVersions :
    (∃ (s : State) (num t a : Nat) (io : HostIO) (stamps : List (Nat × Nat)) (r : Req) (c : Coll) (m : Model) (w : LedgerWhat),
      w = .pass (.req ⟨s.nodeId, num⟩) ∧ Accepted s num 7 io [(50, 2), (64, 64)] .named (some 4) 0 r ∧ byteAt r.entry 48 = a ∧
      byteAt r.entry 49 < 2 ∧ s.coll? r.collection = some c ∧ (s.at t).ownersReachable c = true ∧ s.pwr.doldrums = false ∧
      s.model? c.spec.id (le r.entry 52 4) = some m ∧ HostTakes io ∧ (∀ i ∈ c.shardIds, s.ownerOf i ≠ some s.nodeId → stamps.any
      (·.1 == i) = true) ∧ a = 2 ∧ m.st = .loading) ∧
    (∃ (s : State) (num t a : Nat) (io : HostIO) (stamps : List (Nat × Nat)) (r : Req) (c : Coll) (m : Model) (w : LedgerWhat),
      w = .pass (.req ⟨s.nodeId, num⟩) ∧ Accepted s num 7 io [(50, 2), (64, 64)] .named (some 4) 0 r ∧ LedgerTurn s
      (s.localShards c) w ∧ byteAt r.entry 48 = a ∧ byteAt r.entry 49 < 2 ∧ s.coll? r.collection = some c ∧ (s.at
      t).ownersReachable c = true ∧ s.pwr.doldrums = false ∧ s.model? c.spec.id (le r.entry 52 4) = some m ∧ HostTakes io ∧ (∀ i
      ∈ c.shardIds, s.ownerOf i ≠ some s.nodeId → stamps.any (·.1 == i) = true) ∧ a = 3 ∧ m.st ≠ .absent) ∧
    (∃ (s : State) (num t a : Nat) (io : HostIO) (stamps : List (Nat × Nat)) (r : Req) (c : Coll) (m : Model) (w : LedgerWhat),
      w = .pass (.req ⟨s.nodeId, num⟩) ∧ Accepted s num 7 io [(50, 2), (64, 64)] .named (some 4) 0 r ∧ LedgerTurn s
      (s.localShards c) w ∧ byteAt r.entry 48 = a ∧ byteAt r.entry 49 < 2 ∧ s.coll? r.collection = some c ∧ (s.at
      t).ownersReachable c = true ∧ s.pwr.doldrums = false ∧ s.model? c.spec.id (le r.entry 52 4) = some m ∧ HostTakes io ∧ (∀ i
      ∈ c.shardIds, s.ownerOf i ≠ some s.nodeId → stamps.any (·.1 == i) = true) ∧ a = 4 ∧ m.st = .ready ∧ s.anyWaits = false) ∧
    (∃ (s : State) (num t a : Nat) (io : HostIO) (stamps : List (Nat × Nat)) (r : Req) (c : Coll) (m : Model) (w : LedgerWhat),
      w = .pass (.req ⟨s.nodeId, num⟩) ∧ Accepted s num 7 io [(50, 2), (64, 64)] .named (some 4) 0 r ∧ LedgerTurn s
      (s.localShards c) w ∧ (byteAt r.entry 49 = 0 ∨ m.resident = true ∨ s.residentParams + s.shareSum c (residentOf m.tensors)
      Tensor.paramsOf ≤ 480 * 10 ^ 9 ∧ s.fits m.fn .t1 (s.residentBytes c m.header m.tensors) = true) ∧ byteAt r.entry 48 = a ∧
      byteAt r.entry 49 < 2 ∧ s.coll? r.collection = some c ∧ (s.at t).ownersReachable c = true ∧ s.pwr.doldrums = false ∧
      s.model? c.spec.id (le r.entry 52 4) = some m ∧ HostTakes io ∧ (∀ i ∈ c.shardIds, s.ownerOf i ≠ some s.nodeId → stamps.any
      (·.1 == i) = true) ∧ a = 5 ∧ m.st = .ready) ∧
    (∃ (s : State), ∃ (num t a : Nat), ∃ (io : HostIO), ∃ (stamps : List (Nat × Nat)), ∃ (r : Req), ∃ (c : Coll), ∃ (m : Model),
      ∃ (w : LedgerWhat), ∃ i, w = .pass (.req ⟨s.nodeId, num⟩) ∧ Accepted s num 7 io [(50, 2), (64, 64)] .named (some 4) 0 r ∧
      (a = 5 → byteAt r.entry 49 = 0 ∨ m.resident = true ∨ s.residentParams + s.shareSum c (residentOf m.tensors)
      Tensor.paramsOf ≤ 480 * 10 ^ 9 ∧ s.fits m.fn .t1 (s.residentBytes c m.header m.tensors) = true) ∧ ¬ LedgerTurn s
      (s.localShards c) w ∧ byteAt r.entry 48 = a ∧ byteAt r.entry 49 < 2 ∧ s.coll? r.collection = some c ∧ (s.at
      t).ownersReachable c = true ∧ s.pwr.doldrums = false ∧ s.model? c.spec.id (le r.entry 52 4) = some m ∧ HostTakes io ∧ (∀ i
      ∈ c.shardIds, s.ownerOf i ≠ some s.nodeId → stamps.any (·.1 == i) = true) ∧ (i, a) ∈ [(Instr.modelLoadCommit num stamps io
      t, 2), (.modelLoadUnload num stamps io t, 3), (.modelLoadCheckpoint num stamps io t, 4), (.modelLoadPlace num stamps io t,
      5)] ∧ (a = 2 → m.st = .loading ∧ Config.knownProgram (le m.header 4 2) = true ∧ commitFault m = none) ∧ (a = 3 → m.st ≠
      .absent) ∧ (4 ≤ a → m.st = .ready) ∧ (a = 4 → s.anyWaits = false)) :=
  ⟨⟨posing (trained loading) (req 7 cid (entry 7 cid [(48, [2]), (52, [1])]) .fresh), 7, 2000, 2, host [], [], req 7 cid (entry
     7 cid [(48, [2]), (52, [1])]) .fresh, coll cid, loading, _, rfl, accepted (by decide +kernel) (by decide +kernel),
     by unfold HostTakes; decide +kernel⟩,
   ⟨posing (trained model) (req 7 cid (entry 7 cid [(48, [3]), (52, [1])]) .fresh), 7, 2000, 3, host [], [], req 7 cid (entry 7
     cid [(48, [3]), (52, [1])]) .fresh, coll cid, model, _, rfl, accepted (by decide +kernel) (by decide +kernel), ledger_turn
     (by decide +kernel), by unfold HostTakes; decide +kernel⟩,
   ⟨posing (trained model) (req 7 cid (entry 7 cid [(48, [4]), (52, [1])]) .fresh), 7, 2000, 4, host [], [], req 7 cid (entry 7
     cid [(48, [4]), (52, [1])]) .fresh, coll cid, model, _, rfl, accepted (by decide +kernel) (by decide +kernel), ledger_turn
     (by decide +kernel), by unfold HostTakes; decide +kernel⟩,
   ⟨posing (trained model) placing, 7, 2000, 5, host [], [], placing, coll cid, model, _, rfl, accepted (by decide +kernel)
     (by decide +kernel), ledger_turn (by decide +kernel), .inr (.inr ⟨by decide +kernel,
     by rw [placing_resident]; decide +kernel⟩), by unfold HostTakes; decide +kernel⟩,
   ⟨posing ({ trained model with shards := [{ shard with waiting := [(0, .search theirs)] }] }) (req 7 cid (entry 7 cid [(48,
     [3]), (52, [1])]) .fresh), 7, 2000, 3, host [], [], req 7 cid (entry 7 cid [(48, [3]), (52, [1])]) .fresh, coll cid, model,
     _, .modelLoadUnload 7 [] (host []) 2000, rfl, accepted (by decide +kernel) (by decide +kernel), (fun h => absurd h
     (by decide +kernel)), not_ledger_turn sid (by decide +kernel), by unfold HostTakes; decide +kernel⟩⟩

theorem witness_ModelRuns :
    (Config.entryKind (le header 4 2) 0 = (0, 2, 4) → ∃ (s : State) (num n kept t0 : Nat) (io : HostIO) (stamps rs : List (Nat ×
      Nat)) (r : Req) (c : Coll) (m : Model) (e inp : Bytes) (kind : Nat × Nat × Nat) (w : LedgerWhat), e = r.entry ∧ inp =
      slice (io.input.getD []) 0 (le e 24 4) ∧ w = .pass (.req ⟨s.nodeId, num⟩) ∧ t0 = (s.homeSequences c n).foldl (fun a i => a
      + (seqLengths inp n 0).getD i 0) 0 * hdrPerToken m.header ∧ kept = (if bit (byteAt e 49) 3 then Config.modelCount (s.free
      + n) else 0) ∧ Accepted s num 8 io [(92, 36)] .named (some 4) (runNeed e kind) r ∧ kind = Config.entryKind (le m.header 4
      2) (byteAt e 48) ∧ ¬ LedgerTurn s (s.localShards c) w ∧ s.run? num = none ∧ r.collection = le e 4 4 ∧ s.coll? (le e 4 4) =
      some c ∧ s.model? (le e 4 4) (le e 52 4) = some m ∧ byteAt e 49 < 32 ∧ byteAt e 49 % 4 < 3 ∧ byteAt e 50 < 2 ∧ n = le e 56
      4 ∧ (le e 88 4 = 0 ∨ bit (s.rights r.fn (le e 88 4)) 1 = true) ∧ (∀ x ∈ s.runChecks r.fn m kind e inp, x.2 = true) ∧
      seqBads inp (inputSize kind m) n = [] ∧ s.runStamps c stamps = some rs ∧ HostTakes io) ∧
    (Config.entryKind (le header 4 2) 0 = (0, 2, 4) → ∃ (s : State) (num n kept t0 : Nat) (io : HostIO) (stamps rs : List (Nat ×
      Nat)) (r : Req) (c : Coll) (m : Model) (e inp : Bytes) (kind : Nat × Nat × Nat) (w : LedgerWhat), e = r.entry ∧ inp =
      slice (io.input.getD []) 0 (le e 24 4) ∧ w = .pass (.req ⟨s.nodeId, num⟩) ∧ t0 = (s.homeSequences c n).foldl (fun a i => a
      + (seqLengths inp n 0).getD i 0) 0 * hdrPerToken m.header ∧ kept = (if bit (byteAt e 49) 3 then Config.modelCount (s.free
      + n) else 0) ∧ Accepted s num 8 io [(92, 36)] .named (some 4) (runNeed e kind) r ∧ kind = Config.entryKind (le m.header 4
      2) (byteAt e 48) ∧ LedgerTurn s (s.localShards c) w ∧ s.run? num = none ∧ r.collection = le e 4 4 ∧ s.coll? (le e 4 4) =
      some c ∧ s.model? (le e 4 4) (le e 52 4) = some m ∧ byteAt e 49 < 32 ∧ byteAt e 49 % 4 < 3 ∧ byteAt e 50 < 2 ∧ n = le e 56
      4 ∧ (le e 88 4 = 0 ∨ bit (s.rights r.fn (le e 88 4)) 1 = true) ∧ (∀ x ∈ s.runChecks r.fn m kind e inp, x.2 = true) ∧
      seqBads inp (inputSize kind m) n = [] ∧ s.runStamps c stamps = some rs ∧ HostTakes io) ∧
    (∃ (s : State) (num room : Nat) (io : HostIO) (x : Run) (r : Req) (m : Model) (c : Coll), room = (s.release m.windowFn .t1
      m.windowT1).t1Free r.fn ∧ s.run? num = some x ∧ s.req? num = some r ∧ x.waiting = true ∧ x.train = false ∧ x.slots = [] ∧
      s.model? x.coll x.model = some m ∧ s.coll? x.coll = some c ∧ HostTakes io ∧ m.streamed = []) ∧
    (∃ (s : State) (num room : Nat) (io : HostIO) (x : Run) (r : Req) (m : Model) (c : Coll), room = (s.release m.windowFn .t1
      m.windowT1).t1Free r.fn ∧ s.run? num = some x ∧ s.req? num = some r ∧ x.waiting = true ∧ x.train = false ∧ x.slots = [] ∧
      s.model? x.coll x.model = some m ∧ s.coll? x.coll = some c ∧ HostTakes io ∧ m.streamed ≠ [] ∧ (m.windowBy ≠ none ∨
      s.firstWaiting m ≠ some num)) ∧
    (∃ (s : State) (num room : Nat) (io : HostIO) (x : Run) (r : Req) (m : Model) (c : Coll), room = (s.release m.windowFn .t1
      m.windowT1).t1Free r.fn ∧ s.run? num = some x ∧ s.req? num = some r ∧ x.waiting = true ∧ x.train = false ∧ x.slots = [] ∧
      s.model? x.coll x.model = some m ∧ s.coll? x.coll = some c ∧ HostTakes io ∧ m.streamed ≠ [] ∧ m.windowBy = none ∧
      s.firstWaiting m = some num ∧ (2 * s.slotBytes c m ≤ room ∨ 2 * s.tensorBytes c m ≤ room)) ∧
    (∃ (s : State) (num room : Nat) (io : HostIO) (x : Run) (r : Req) (m : Model) (c : Coll), room = (s.release m.windowFn .t1
      m.windowT1).t1Free r.fn ∧ s.run? num = some x ∧ s.req? num = some r ∧ x.waiting = true ∧ x.train = false ∧ x.slots = [] ∧
      s.model? x.coll x.model = some m ∧ s.coll? x.coll = some c ∧ HostTakes io ∧ m.streamed ≠ [] ∧ m.windowBy = none ∧
      s.firstWaiting m = some num ∧ room < 2 * s.slotBytes c m ∧ room < 2 * s.tensorBytes c m) ∧
    (∃ (s : State) (num t : Nat) (io : HostIO) (x : Run) (r : Req), s.run? num = some x ∧ s.req? num = some r ∧ x.output = [] ∧
      HostTakes io ∧ x.due ≤ (s.at t).now) ∧
    (∃ (s : State) (num t : Nat) (io : HostIO) (x : Run) (r : Req), s.run? num = some x ∧ s.req? num = some r ∧ x.output = [] ∧
      HostTakes io ∧ (s.at t).now < x.due) :=
  ⟨fun hk => ⟨posing
     ({ trained { model with windowBy := some 9 } with shards := [{ shard with waiting := [(0, .search theirs)] }] }) (req 8 cid
     runEntry .fresh), 7, 1, _, _, host (layout 16 [(4, [1])]), [], [(sid, 5)], req 8 cid runEntry .fresh, coll cid,
     { model with windowBy := some 9 }, _, _, (0, 2, 4), _, rfl, rfl, rfl, rfl, rfl, accepted (by decide +kernel)
     (by decide +kernel), hk.symm, not_ledger_turn sid (by decide +kernel), by unfold HostTakes; decide +kernel⟩,
   fun hk => ⟨posing (trained { model with windowBy := some 9 }) (req 8 cid runEntry .fresh), 7, 1, _, _, host (layout 16 [(4,
     [1])]), [], [(sid, 5)], req 8 cid runEntry .fresh, coll cid, { model with windowBy := some 9 }, _, _, (0, 2, 4), _, rfl,
     rfl, rfl, rfl, rfl, accepted (by decide +kernel) (by decide +kernel), hk.symm, ledger_turn (by decide +kernel),
     by unfold HostTakes; decide +kernel⟩,
   ⟨{ posing (trained ({ model with tensors := [] })) (req 8 cid runEntry (.run 0)) with runs := [{ run with waiting := true }] },
     7, _, host [], { run with waiting := true }, req 8 cid runEntry (.run 0), { model with tensors := [] }, coll cid, rfl,
     by unfold HostTakes; decide +kernel⟩,
   ⟨{ posing (trained ({ model with windowBy := some 9 })) (req 8 cid runEntry (.run 0)) with runs := [{ run with waiting := true }] },
     7, _, host [], { run with waiting := true }, req 8 cid runEntry (.run 0), { model with windowBy := some 9 }, coll cid, rfl,
     by unfold HostTakes; decide +kernel⟩,
   ⟨{ posing (trained (model)) (req 8 cid runEntry (.run 0)) with runs := [{ run with waiting := true }] }, 7, _, host [],
     { run with waiting := true }, req 8 cid runEntry (.run 0), model, coll cid, rfl, by unfold HostTakes; decide +kernel⟩,
   ⟨{ posing ({ node with colls := [coll cid], shards := [shard], models := [model] }) (req 8 cid runEntry (.run 0)) with runs := [{ run with waiting := true }] },
     7, _, host [], { run with waiting := true }, req 8 cid runEntry (.run 0), model, coll cid, rfl,
     by unfold HostTakes; decide +kernel⟩,
   ⟨{ posing (trained model) (req 8 cid runEntry (.run 0)) with runs := [run] }, 7, 2000, host [], run, req 8 cid runEntry (.run
     0), by unfold HostTakes; decide +kernel⟩,
   ⟨{ posing (trained model) (req 8 cid runEntry (.run 0)) with runs := [run] }, 7, 1999, host [], run, req 8 cid runEntry (.run
     0), by unfold HostTakes; decide +kernel⟩⟩

theorem witness_LayersOfARun :
    (∃ (s : State) (num t : Nat) (x : Run) (r : Req) (m : Model) (c : Coll) (y : (Nat × Nat) × Bool) (w : Work), w = .layer
      ⟨s.nodeId, num⟩ ∧ s.run? num = some x ∧ s.req? num = some r ∧ s.model? x.coll x.model = some m ∧ s.coll? x.coll = some c ∧
      x.slots.find? (!·.2) = some y ∧ (s.at t).turnsAll w s.channelsOn = false) ∧
    (∃ (s : State) (num t : Nat) (x : Run) (r : Req) (m : Model) (c : Coll) (y : (Nat × Nat) × Bool) (w : Work), w = .layer
      ⟨s.nodeId, num⟩ ∧ s.run? num = some x ∧ s.req? num = some r ∧ s.model? x.coll x.model = some m ∧ s.coll? x.coll = some c ∧
      x.slots.find? (!·.2) = some y ∧ (s.at t).turnsAll w s.channelsOn = true) ∧
    (∃ (s : State) (num : Nat) (io : HostIO) (x : Run) (r : Req) (m : Model) (c : Coll) (others : List Nat) (left done : Bool),
      others = s.otherOwners c ∧ left = (bit (byteAt r.entry 49) 2 && decide (x.layer < hdrLayers m.header) && Config.modelCount
      s.free % 2 == 1) ∧ done = x.slots.any (fun y => y.1 == (x.layer, x.segment) && y.2) ∧ s.run? num = some x ∧ s.req? num =
      some r ∧ s.model? x.coll x.model = some m ∧ s.coll? x.coll = some c ∧ x.train = false ∧ x.waiting = false ∧ x.output = []
      ∧ x.step < x.steps ∧ HostTakes io ∧ m.degraded = true) ∧
    (∃ (s : State) (num : Nat) (io : HostIO) (x : Run) (r : Req) (m : Model) (c : Coll) (others : List Nat) (left done : Bool),
      others = s.otherOwners c ∧ left = (bit (byteAt r.entry 49) 2 && decide (x.layer < hdrLayers m.header) && Config.modelCount
      s.free % 2 == 1) ∧ done = x.slots.any (fun y => y.1 == (x.layer, x.segment) && y.2) ∧ s.run? num = some x ∧ s.req? num =
      some r ∧ s.model? x.coll x.model = some m ∧ s.coll? x.coll = some c ∧ x.train = false ∧ x.waiting = false ∧ x.output = []
      ∧ x.step < x.steps ∧ HostTakes io ∧ m.degraded = false) ∧
    (∃ (s : State) (num expert : Nat) (x : Run) (r : Req) (w : Work), w = .expert ⟨s.nodeId, num⟩ expert ∧ s.run? num = some x ∧
      s.req? num = some r) ∧
    (∃ (s : State) (k : Key) (x : Run), s.run? k.num = some x ∧ k.origin = s.nodeId) ∧
    (∃ (s : State) (k : Key) (x : Run), s.run? k.num = some x ∧ k.origin ≠ s.nodeId) ∧
    (∃ (s : State) (coll model t a : Nat) (m : Model), s.model? coll model = some m ∧ m.windowBy = none ∧ m.windowAt = some a ∧
      m.windowFn < s.fns.length ∧ a + Config.ticksPerS ≤ (s.at t).now) ∧
    (∃ (s : State) (coll model t a : Nat) (m : Model), s.model? coll model = some m ∧ m.windowBy = none ∧ m.windowAt = some a ∧
      m.windowFn < s.fns.length ∧ (s.at t).now < a + Config.ticksPerS) :=
  ⟨⟨{ posing (grant (trained model) 0 (.page 0)) (req 8 cid runEntry (.run 0)) with runs := [{ run with slots := [((0, 0), false)] }] },
     7, 1500, { run with slots := [((0, 0), false)] }, req 8 cid runEntry (.run 0), model, coll cid, ((0, 0), false), _, rfl,
     by decide +kernel⟩,
   ⟨{ posing ({ trained model with arbs := ((List.range 64).map fun i => { id := i, granted := [⟨0, 0, false, false, .layer ours⟩] }) ++ [{ id := 0x93, granted := [⟨0, 0, false, false, .layer ours⟩] }, { id := 0x92, granted := [⟨0, 0, false, false, .layer ours⟩] }, { id := 0x91, granted := [⟨0, 0, false, false, .layer ours⟩] }, { id := 0x90, granted := [⟨0, 0, false, false, .layer ours⟩] }] }) (req 8 cid runEntry (.run 0)) with runs := [{ run with slots := [((0, 0), false)] }] },
     7, 1500, { run with slots := [((0, 0), false)] }, req 8 cid runEntry (.run 0), model, coll cid, ((0, 0), false), _, rfl,
     by decide +kernel⟩,
   ⟨{ posing (trained ({ model with degraded := true })) (req 8 cid runEntry (.run 0)) with runs := [run] }, 7, host [], run,
     req 8 cid runEntry (.run 0), { model with degraded := true }, coll cid, _, _, _, rfl, rfl, rfl,
     by unfold HostTakes; decide +kernel⟩,
   ⟨{ posing (trained (model)) (req 8 cid runEntry (.run 0)) with runs := [run] }, 7, host [], run, req 8 cid runEntry (.run 0),
     model, coll cid, _, _, _, rfl, rfl, rfl, by unfold HostTakes; decide +kernel⟩,
   ⟨{ posing (trained model) (req 8 cid runEntry (.run 0)) with runs := [{ run with waitingExperts := [3] }] }, 7, 3,
     { run with waitingExperts := [3] }, req 8 cid runEntry (.run 0), _, rfl, by decide +kernel⟩,
   ⟨{ posing (trained model) (req 8 cid runEntry (.run 0)) with runs := [run] }, ours, run, by decide +kernel⟩,
   ⟨{ posing (trained model) (req 8 cid runEntry (.run 0)) with runs := [run] }, theirs, run, by decide +kernel⟩,
   ⟨trained { model with windowAt := some 0, windowT1 := 64 }, cid, 1, 25000000, 0,
     { model with windowAt := some 0, windowT1 := 64 }, by decide +kernel⟩,
   ⟨trained { model with windowAt := some 0, windowT1 := 64 }, cid, 1, 2000, 0,
     { model with windowAt := some 0, windowT1 := 64 }, by decide +kernel⟩⟩

theorem witness_Training :
    (∃ (s : State) (num t0 : Nat) (io : HostIO) (stamps rs : List (Nat × Nat)) (r : Req) (c : Coll) (m : Model) (e inp : Bytes)
      (w : LedgerWhat), e = r.entry ∧ inp = slice (io.input.getD []) 0 (le e 24 4) ∧ w = .pass (.req ⟨s.nodeId, num⟩) ∧ t0 =
      (seqLengths inp (le e 56 4) 0).foldl (· + ·) 0 * hdrPerToken m.header ∧ Accepted s num 9 io [(84, 44)] .named (some 4) 32
      r ∧ (∃ v, fp32Value (le e 60 4) = some v ∧ 0 < v) ∧ (∃ v, fp32Value (le e 64 4) = some v ∧ 0 ≤ v ∧ v < 2 ^ 149) ∧ (byteAt
      e 48 = 1 → (∃ v, fp32Value (le e 68 4) = some v ∧ 0 ≤ v ∧ v < 2 ^ 149) ∧ ∃ v, fp32Value (le e 72 4) = some v ∧ 0 < v) ∧ (∃
      v, fp32Value (le e 76 4) = some v ∧ 0 ≤ v) ∧ (∃ v, fp32Value (le e 80 4) = some v ∧ 0 ≤ v) ∧ ¬ LedgerTurn s (s.localShards
      c) w ∧ s.run? num = none ∧ s.coll? r.collection = some c ∧ s.model? r.collection (le e 52 4) = some m ∧ byteAt e 48 < 2 ∧
      byteAt e 49 < 4 ∧ byteAt e 51 < 2 ∧ 1 ≤ le e 56 4 ∧ le e 56 4 ≤ 65536 ∧ 16 * le e 56 4 ≤ inp.length ∧ byteAt e 50 <
      hdrEntries m.header ∧ s.runStamps c stamps = some rs ∧ HostTakes io) ∧
    (∃ (s : State) (num t0 : Nat) (io : HostIO) (stamps rs : List (Nat × Nat)) (r : Req) (c : Coll) (m : Model) (e inp : Bytes)
      (w : LedgerWhat), e = r.entry ∧ inp = slice (io.input.getD []) 0 (le e 24 4) ∧ w = .pass (.req ⟨s.nodeId, num⟩) ∧ t0 =
      (seqLengths inp (le e 56 4) 0).foldl (· + ·) 0 * hdrPerToken m.header ∧ Accepted s num 9 io [(84, 44)] .named (some 4) 32
      r ∧ (∃ v, fp32Value (le e 60 4) = some v ∧ 0 < v) ∧ (∃ v, fp32Value (le e 64 4) = some v ∧ 0 ≤ v ∧ v < 2 ^ 149) ∧ (byteAt
      e 48 = 1 → (∃ v, fp32Value (le e 68 4) = some v ∧ 0 ≤ v ∧ v < 2 ^ 149) ∧ ∃ v, fp32Value (le e 72 4) = some v ∧ 0 < v) ∧ (∃
      v, fp32Value (le e 76 4) = some v ∧ 0 ≤ v) ∧ (∃ v, fp32Value (le e 80 4) = some v ∧ 0 ≤ v) ∧ LedgerTurn s (s.localShards
      c) w ∧ s.run? num = none ∧ s.coll? r.collection = some c ∧ s.model? r.collection (le e 52 4) = some m ∧ byteAt e 48 < 2 ∧
      byteAt e 49 < 4 ∧ byteAt e 51 < 2 ∧ 1 ≤ le e 56 4 ∧ le e 56 4 ≤ 65536 ∧ 16 * le e 56 4 ≤ inp.length ∧ byteAt e 50 <
      hdrEntries m.header ∧ s.runStamps c stamps = some rs ∧ HostTakes io ∧ m.seenAt rs = some true ∧ m.degraded = false) ∧
    (∃ (s : State) (num : Nat) (x : Run) (r : Req) (m : Model) (c : Coll), s.run? num = some x ∧ s.req? num = some r ∧ s.model?
      x.coll x.model = some m ∧ s.coll? x.coll = some c ∧ x.train = true ∧ x.waiting = true ∧ m.trainer = none ∧
      m.trainWait.head? = some num ∧ (m.streamed = [] ∨ m.windowBy ≠ none)) ∧
    (∃ (s : State) (num : Nat) (x : Run) (r : Req) (m : Model) (c : Coll), s.run? num = some x ∧ s.req? num = some r ∧ s.model?
      x.coll x.model = some m ∧ s.coll? x.coll = some c ∧ x.train = true ∧ x.waiting = true ∧ m.trainer ≠ none ∧ m.trainer ≠
      some num) ∧
    (∃ (s : State) (num : Nat) (io : HostIO) (x : Run) (r : Req) (m : Model) (c : Coll), s.run? num = some x ∧ s.req? num = some
      r ∧ s.model? x.coll x.model = some m ∧ s.coll? x.coll = some c ∧ x.train = true ∧ x.waiting = false ∧ x.output = [] ∧
      x.step < x.steps ∧ x.stage = .compute ∧ m.degraded = false ∧ x.slots.any (fun y => y.1 == (x.layer, x.segment) && y.2) =
      true ∧ (m.striped x.layer = false ∨ x.heard (s.otherOwners c) (· == .part) = true) ∧ Served s x m ∧ HostTakes io) ∧
    (∃ (s : State) (num bad i : Nat) (x : Run) (r : Req) (m : Model) (c : Coll) (w : LedgerWhat), w = .pass (.req ⟨s.nodeId,
      num⟩) ∧ bad = x.nonFinite + Config.trainNonFinite s.free ∧ i = c.spec.firstShard ∧ s.run? num = some x ∧ s.req? num = some
      r ∧ s.model? x.coll x.model = some m ∧ s.coll? x.coll = some c ∧ x.train = true ∧ (x.waiting = true ∨ x.step < x.steps)) ∧
    (Config.trainNonFinite 0 = 0 → ∃ (s : State) (num bad i : Nat) (x : Run) (r : Req) (m : Model) (c : Coll) (w : LedgerWhat),
      w = .pass (.req ⟨s.nodeId, num⟩) ∧ bad = x.nonFinite + Config.trainNonFinite s.free ∧ i = c.spec.firstShard ∧ bad = 0 ∧ ¬
      LedgerTurn s [i] w ∧ s.run? num = some x ∧ s.req? num = some r ∧ s.model? x.coll x.model = some m ∧ s.coll? x.coll = some
      c ∧ x.train = true ∧ x.waiting = false ∧ x.steps ≤ x.step ∧ s.ownerOf i = some s.nodeId) ∧
    (∃ (s : State) (num bad i : Nat) (io : HostIO) (x : Run) (r : Req) (m : Model) (c : Coll) (w : LedgerWhat), w = .pass (.req
      ⟨s.nodeId, num⟩) ∧ bad = x.nonFinite + Config.trainNonFinite s.free ∧ i = c.spec.firstShard ∧ (bad = 0 → s.ownerOf i =
      some s.nodeId → LedgerTurn s [i] w) ∧ s.run? num = some x ∧ s.req? num = some r ∧ s.model? x.coll x.model = some m ∧
      s.coll? x.coll = some c ∧ x.train = true ∧ x.waiting = false ∧ x.steps ≤ x.step ∧ m.st = .ready ∧ m.trainer = some num ∧
      HostTakes io) :=
  ⟨⟨posing ({ trained { model with resident := true } with shards := [{ shard with waiting := [(0, .search theirs)] }] }) (req 9
     cid trainEntry .fresh), 7, _, host (layout 16 [(4, [1])]), [], [(sid, 5)], req 9 cid trainEntry .fresh, coll cid,
     { model with resident := true }, _, _, _, rfl, rfl, rfl, rfl, accepted (by decide +kernel) (by decide +kernel), ⟨2 ^ 149,
     by decide +kernel⟩, ⟨0, by decide +kernel⟩, (fun h => absurd h (by decide +kernel)), ⟨0, by decide +kernel⟩, ⟨0,
     by decide +kernel⟩, not_ledger_turn sid (by decide +kernel), by unfold HostTakes; decide +kernel⟩,
   ⟨posing (trained { model with resident := true }) (req 9 cid trainEntry .fresh), 7, _, host (layout 16 [(4, [1])]), [],
     [(sid, 5)], req 9 cid trainEntry .fresh, coll cid, { model with resident := true }, _, _, _, rfl, rfl, rfl, rfl, accepted
     (by decide +kernel) (by decide +kernel), ⟨2 ^ 149, by decide +kernel⟩, ⟨0, by decide +kernel⟩, (fun h => absurd h
     (by decide +kernel)), ⟨0, by decide +kernel⟩, ⟨0, by decide +kernel⟩, ledger_turn (by decide +kernel),
     by unfold HostTakes; decide +kernel⟩,
   ⟨{ posing (trained ({ model with trainWait := [7], windowBy := some 9 })) (req 9 cid trainEntry .train) with runs := [{ run with train := true, waiting := true }] },
     7, { run with train := true, waiting := true }, req 9 cid trainEntry .train,
     { model with trainWait := [7], windowBy := some 9 }, coll cid, by decide +kernel⟩,
   ⟨{ posing (trained ({ model with trainer := some 9 })) (req 9 cid trainEntry .train) with runs := [{ run with train := true, waiting := true }] },
     7, { run with train := true, waiting := true }, req 9 cid trainEntry .train, { model with trainer := some 9 }, coll cid,
     by decide +kernel⟩,
   ⟨{ posing ({ trained { model with trainer := some 7 } with arbs := [{ id := 0x93, granted := [⟨0, 0, false, false, .layer ours⟩] }, { id := 0x92, granted := [⟨0, 0, false, false, .layer ours⟩] }, { id := 0x91, granted := [⟨0, 0, false, false, .layer ours⟩] }, { id := 0x90, granted := [⟨0, 0, false, false, .layer ours⟩] }] }) (req 9 cid trainEntry .train) with runs := [{ run with train := true, slots := [((0, 0), true)] }] },
     7, host [], { run with train := true, slots := [((0, 0), true)] }, req 9 cid trainEntry .train,
     { model with trainer := some 7 }, coll cid, by unfold HostTakes Served; decide +kernel⟩,
   ⟨{ posing (trained ({ model with trainer := some 9 })) (req 9 cid trainEntry .train) with runs := [{ run with train := true, waiting := true }] },
     7, _, _, { run with train := true, waiting := true }, req 9 cid trainEntry .train, { model with trainer := some 9 }, coll
     cid, _, rfl, rfl, rfl, by decide +kernel⟩,
   fun hk =>
     ⟨{ posing ({ trained { model with trainer := some 7 } with shards := [{ shard with waiting := [(0, .search theirs)] }] }) (req 9 cid trainEntry .train) with runs := [{ run with train := true, step := 2 }] },
     7, _, _, { run with train := true, step := 2 }, req 9 cid trainEntry .train, { model with trainer := some 7 }, coll cid, _,
     rfl, rfl, rfl, congrArg (0 + ·) hk, not_ledger_turn sid (by decide +kernel), by decide +kernel⟩,
   ⟨{ posing (trained ({ model with trainer := some 7 })) (req 9 cid trainEntry .train) with runs := [{ run with train := true, step := 2 }] },
     7, _, _, host [], { run with train := true, step := 2 }, req 9 cid trainEntry .train, { model with trainer := some 7 },
     coll cid, _, rfl, rfl, rfl, (fun _ _ => ledger_turn (by decide +kernel)), by unfold HostTakes; decide +kernel⟩⟩

theorem witness_NearBankCommands :
    (∃ (s : State) (num n : Nat) (io : HostIO) (r : Req), Accepted s num 10 io [(49, 3), (66, 62)] .zero none (2 * le r.entry 54
      2) r ∧ byteAt r.entry 48 = 0 ∧ (∀ x ∈ pimChecks r.entry 0 s.frameBytes, x.2 = true) ∧ n = le r.entry 54 2 ∧ HostTakes io ∧
      (∀ g ∈ s.regions, g.fn ≠ 128) ∧ s.fits r.fn .t1 (n * s.frameBytes) = true ∧ n * s.frameBytes ≤ s.t1Free r.fn ∧
      s.regions.length + n ≤ 384 ∧ r.fn < s.fns.length) ∧
    (∃ (s : State) (num i : Nat) (io : HostIO) (r : Req) (g : Region), Accepted s num 10 io [(49, 3), (66, 62)] .zero none 0 r ∧
      i = le r.entry 52 2 ∧ s.region? i = some g ∧ g.fn = r.fn ∧ HostTakes io ∧ r.fn < s.fns.length ∧ byteAt r.entry 48 = 1 ∧ (∀
      x ∈ pimChecks r.entry 1 s.frameBytes, x.2 = true) ∧ s.regionUsed r.fn i num = false) ∧
    (∃ (s : State) (num i : Nat) (io : HostIO) (r : Req) (g : Region) (inp : Bytes), Accepted s num 10 io [(49, 3), (66, 62)]
      .zero none 0 r ∧ i = le r.entry 52 2 ∧ s.region? i = some g ∧ g.fn = r.fn ∧ HostTakes io ∧ r.fn < s.fns.length ∧ inp =
      slice (io.input.getD []) 0 (le r.entry 24 4) ∧ byteAt r.entry 48 = 2 ∧ (∀ x ∈ pimChecks r.entry 2 s.frameBytes, x.2 =
      true) ∧ le r.entry 60 4 ≤ inp.length ∧ g.mem.wf = true) ∧
    (∃ (s : State) (num i : Nat) (io : HostIO) (r : Req) (g : Region), Accepted s num 10 io [(49, 3), (66, 62)] .zero none 0 r ∧
      i = le r.entry 52 2 ∧ s.region? i = some g ∧ g.fn = r.fn ∧ HostTakes io ∧ r.fn < s.fns.length ∧ byteAt r.entry 48 = 3 ∧ (∀
      x ∈ pimChecks r.entry 3 s.frameBytes, x.2 = true) ∧ le r.entry 60 4 ≤ le r.entry 40 4) ∧
    (∃ (s : State) (num : Nat) (io : HostIO) (r : Req) (inp : Bytes) (l : List PimStep) (p : PimStep) (ps : List PimStep),
      Accepted s num 10 io [(49, 3), (66, 62)] .zero none (4 * (l.filter (·.reduces)).length) r ∧ inp = slice (io.input.getD [])
      0 (le r.entry 24 4) ∧ l = (List.range (le r.entry 64 2)).map (fun i => readStep inp (32 * i)) ∧ badFields l = [] ∧ byteAt
      r.entry 48 = 4 ∧ (∀ x ∈ pimChecks r.entry 4 s.frameBytes, x.2 = true) ∧ 32 * le r.entry 64 2 ≤ inp.length ∧ (∀ x ∈ l, ∀ y
      ∈ x.refs, s.ownsRegion r.fn (refRegion y) = true) ∧ (∀ x ∈ l, s.stepGood x inp.length = true) ∧ l = p :: ps ∧
      s.pimRuns.find? (·.num == num) = none) ∧
    (∃ (s : State) (stack num t d total : Nat) (k : Key) (a : ArbReq) (p : PimRun) (x : PimStep), total = (if x.op = 1 then 1
      else x.items) ∧ (s.arb (0x40 + stack)).granted = [] ∧ (s.at t).arbPick (s.arb (0x40 + stack)) = some a ∧ a.background =
      false ∧ a.work = .pimStep k p.idx ∧ k.num = num ∧ s.pimRuns.find? (·.num == num) = some p ∧ p.steps[p.idx]? = some x ∧
      p.left.find? (·.1 == stack) = some (stack, d)) ∧
    (∃ (stacks_ frames : List Nat) (S a b : Nat) (p q : Place), stacks_.Nodup ∧ frames.Nodup ∧ stacks_.length = S ∧ S ∈ [8, 16,
      24, 32] ∧ interleave stacks_ frames a = some p ∧ interleave stacks_ frames b = some q) ∧
    (∃ (stacks_ frames : List Nat) (S a b : Nat) (p q : Place), stacks_.Nodup ∧ frames.Nodup ∧ stacks_.length = S ∧ S ∈ [8, 16,
      24, 32] ∧ interleave stacks_ frames a = some p ∧ interleave stacks_ frames b = some q ∧ p = q) :=
  ⟨⟨posing (trained model) (req 10 0 (entry 10 0 [(40, [2]), (54, [1])]) .fresh), 7, 1, host [], req 10 0 (entry 10 0 [(40,
     [2]), (54, [1])]) .fresh, accepted (by decide +kernel) (by decide +kernel), by unfold HostTakes; decide +kernel⟩,
   ⟨posing regional (req 10 0 (entry 10 0 [(48, [1]), (52, [3])]) .fresh), 7, 3, host ([]), req 10 0 (entry 10 0 [(48, [1]),
     (52, [3])]) .fresh, ⟨3, 1, []⟩, accepted (by decide +kernel) (by decide +kernel), by unfold HostTakes; decide +kernel⟩,
   ⟨posing regional (req 10 0 (entry 10 0 [(24, [64]), (48, [2]), (52, [3]), (60, [64])]) .fresh), 7, 3, host (zeros 64), req 10
     0 (entry 10 0 [(24, [64]), (48, [2]), (52, [3]), (60, [64])]) .fresh, ⟨3, 1, []⟩, slice (zeros 64) 0 64, accepted
     (by decide +kernel) (by decide +kernel), by unfold HostTakes; decide +kernel⟩,
   ⟨posing regional (req 10 0 (entry 10 0 [(40, [64]), (48, [3]), (52, [3]), (60, [64])]) .fresh), 7, 3, host ([]), req 10 0
     (entry 10 0 [(40, [64]), (48, [3]), (52, [3]), (60, [64])]) .fresh, ⟨3, 1, []⟩, accepted (by decide +kernel)
     (by decide +kernel), by unfold HostTakes; decide +kernel⟩,
   ⟨posing regional (req 10 0 (entry 10 0 [(24, [64]), (48, [4]), (64, [1])]) .fresh), 7, host (layout 64 [(0, [1]), (4, [1]),
     (20, [32]), (28, [32])]), req 10 0 (entry 10 0 [(24, [64]), (48, [4]), (64, [1])]) .fresh, slice (layout 64 [(0, [1]), (4,
     [1]), (20, [32]), (28, [32])]) 0 64, [⟨1, 0, 0, 0, 1, 0, 0, 0, 32, 0, 0, 32⟩], ⟨1, 0, 0, 0, 1, 0, 0, 0, 32, 0, 0, 32⟩, [],
     accepted (by decide +kernel) (by decide +kernel), by decide +kernel⟩,
   ⟨{ posing (waits regional 0x40 (.pimStep ours 0)) (req 10 0 (entry 10 0 []) .pim) with pimRuns := [pimRun] }, 0, 7, 2000, 0,
     _, ours, ⟨0, 0, false, false, .pimStep ours 0⟩, pimRun, ⟨1, 0, 0, 0, 1, 0, 0, 0, 32, 0, 0, 32⟩, rfl, by decide +kernel⟩,
   ⟨List.range 8, [4], 8, 64, 0, (interleave (List.range 8) [4] 64).getD ⟨0, 0, 0⟩, (interleave (List.range 8) [4] 0).getD ⟨0,
     0, 0⟩, by decide +kernel⟩,
   ⟨List.range 8, [4], 8, 64, 64, (interleave (List.range 8) [4] 64).getD ⟨0, 0, 0⟩, (interleave (List.range 8) [4] 64).getD ⟨0,
     0, 0⟩, by decide +kernel⟩⟩

theorem witness_Barriers :
    (∃ (s : State) (num : Nat) (io : HostIO) (r : Req), Accepted s num 0x0B io [(49, 3), (55, 73)] .zero none 0 r ∧ byteAt
      r.entry 48 = 0 ∧ barrierTarget r.entry = 0) ∧
    (∃ (s : State) (q : Nat) (io : HostIO) (r : Req), (s.reqs.find? fun r => r.queue == q && r.body == .barrierQ) = some r ∧
      HostTakes io ∧ (∀ y ∈ s.reqs, y.queue = q → r.seq ≤ y.seq)) ∧
    (∃ (s : State) (q : Nat) (io : HostIO) (r : Req), (s.reqs.find? fun r => r.queue == q && r.body == .barrierQ) = some r ∧
      HostTakes io ∧ (∃ y ∈ s.reqs, y.queue = q ∧ y.seq < r.seq)) ∧
    (∃ (s : State) (num server shard : Nat) (io : HostIO) (r : Req) (sent earlier : Bool) (w : LedgerWhat), shard =
      barrierTarget r.entry ∧ w = .barrier ⟨s.nodeId, num⟩ ∧ earlier = (s.reqs.any fun x => x.queue == r.queue && decide (x.seq
      < r.seq) && x.mutates shard (((s.colls.find? fun c => c.shardIds.contains shard).map (·.spec.id)).getD 0)) ∧ (Accepted s
      num 0x0B io [(49, 3), (55, 73)] .zero (some 6) 0 r ∧ byteAt r.entry 48 = 1 ∧ sent = false ∨ s.req? num = some r ∧ r.body =
      .barrierShard sent) ∧ s.serverOf shard = some server ∧ HostTakes io) :=
  ⟨⟨posing node (req 11 0 (entry 11 0 []) .fresh), 7, host [], req 11 0 (entry 11 0 []) .fresh, accepted (by decide +kernel)
     (by decide +kernel), by decide +kernel⟩,
   ⟨posing node queueBarrier, 3, host [], queueBarrier, by unfold HostTakes; decide +kernel⟩,
   ⟨{ posing node queueBarrier with reqs := [queueBarrier, { req 1 cid [] .fresh with num := 8 }] }, 3, host [], queueBarrier,
     by unfold HostTakes; decide +kernel⟩,
   ⟨posing (tenant) (shardBarrier), 7, 15, _, host [], shardBarrier, false, _, _, rfl, rfl, rfl, .inl ⟨accepted
     (by decide +kernel) (by decide +kernel), by decide +kernel⟩, by unfold HostTakes; decide +kernel⟩⟩

theorem witness_FlushAndWindows :
    (∃ (s : State) (num : Nat) (io : HostIO) (r : Req) (c : Coll) (here : List Shard) (w : LedgerWhat), here = s.shards.filter
      (fun d => d.forwardTo.isNone && d.coll == c.spec.id) ∧ w = .pass (.req ⟨s.nodeId, num⟩) ∧ Accepted s num 0x0C io [(48,
      80)] .either (some 1) 0 r ∧ LedgerTurn s (here.map (·.id)) w ∧ le r.entry 4 4 ≠ 0 ∧ s.coll? r.collection = some c) ∧
    (∃ (s : State) (num : Nat) (io : HostIO) (r : Req) (c : Coll) (here : List Shard) (w : LedgerWhat), here = s.shards.filter
      (fun d => d.forwardTo.isNone && d.coll == c.spec.id) ∧ w = .pass (.req ⟨s.nodeId, num⟩) ∧ Accepted s num 0x0C io [(48,
      80)] .either (some 1) 0 r ∧ ¬ LedgerTurn s (here.map (·.id)) w ∧ le r.entry 4 4 ≠ 0 ∧ s.coll? r.collection = some c) ∧
    (∃ (s : State) (num : Nat) (io : HostIO) (r : Req), Accepted s num 0x0C io [(48, 80)] .either none 0 r ∧ le r.entry 4 4 = 0) ∧
    (∃ (s : State) (num count shards : Nat) (io : HostIO) (r : Req) (l : List (Nat × Nat)) (waiting : List Nat) (all : Bool)
      (peers : List (Nat × Option (Nat × Nat))) (others : List Nat) (open_ : Bool), (others = if all then [] else match s.coll?
      r.collection with | some c => s.otherOwners c | none => []) ∧ open_ = s.tier.journal.any (fun j => j.unprogrammed && (if
      all then waiting.contains j.seq else l.any j.covered)) ∧ s.req? num = some r ∧ r.body = .flush l all waiting count shards
      ∧ HostTakes io ∧ (open_ = true ∨ ∃ o ∈ others, peers.find? (·.1 == o) = none)) ∧
    (∃ (s : State) (num count shards : Nat) (io : HostIO) (r : Req) (l : List (Nat × Nat)) (waiting : List Nat) (all : Bool)
      (peers : List (Nat × Option (Nat × Nat))) (others : List Nat) (open_ : Bool), (others = if all then [] else match s.coll?
      r.collection with | some c => s.otherOwners c | none => []) ∧ open_ = s.tier.journal.any (fun j => j.unprogrammed && (if
      all then waiting.contains j.seq else l.any j.covered)) ∧ (∀ o ∈ others, ∃ v, peers.find? (·.1 == o) = some v) ∧ s.req? num
      = some r ∧ r.body = .flush l all waiting count shards ∧ HostTakes io ∧ open_ = false) ∧
    (∃ (s : State) (arb t : Nat), (arb < 0x20 ∨ 0x40 ≤ arb ∧ arb < 0x60 ∨ arb = 0x80 ∨ 0x90 ≤ arb ∧ arb < 0x94 ∨ 0x100 ≤ arb ∧
      arb < 0x108) ∧ (s.arb arb).windowStart + 10 * Config.ticksPerMs ≤ (s.at t).now) ∧
    (∃ (s : State) (arb t : Nat), (arb < 0x20 ∨ 0x40 ≤ arb ∧ arb < 0x60 ∨ arb = 0x80 ∨ 0x90 ≤ arb ∧ arb < 0x94 ∨ 0x100 ≤ arb ∧
      arb < 0x108) ∧ (s.at t).now < (s.arb arb).windowStart + 10 * Config.ticksPerMs) :=
  ⟨⟨posing tenant (req 12 cid (entry 12 cid []) .fresh), 7, host [], req 12 cid (entry 12 cid []) .fresh, coll cid, _, _, rfl,
     rfl, accepted (by decide +kernel) (by decide +kernel), ledger_turn (by decide +kernel), by decide +kernel⟩,
   ⟨posing (withShard tenant { shard with waiting := [(0, .search theirs)] }) (req 12 cid (entry 12 cid []) .fresh), 7, host [],
     req 12 cid (entry 12 cid []) .fresh, coll cid, _, _, rfl, rfl, accepted (by decide +kernel) (by decide +kernel),
     not_ledger_turn sid (by decide +kernel), by decide +kernel⟩,
   ⟨posing tenant (req 12 0 (entry 12 0 []) .fresh), 7, host [], req 12 0 (entry 12 0 []) .fresh, accepted (by decide +kernel)
     (by decide +kernel), by decide +kernel⟩,
   ⟨{ posing (tenant) (req 12 cid (entry 12 cid []) (.flush [(sid, 4)] false [] 1 1)) with tier := { node.tier with journal := [journal] } },
     7, 1, 1, host [], req 12 cid (entry 12 cid []) (.flush [(sid, 4)] false [] 1 1), [(sid, 4)], [], false, [], _, _, rfl, rfl,
     by unfold HostTakes; decide +kernel⟩,
   ⟨posing (tenant) (req 12 cid (entry 12 cid []) (.flush [(sid, 4)] false [] 1 1)), 7, 1, 1, host [], req 12 cid (entry 12 cid
     []) (.flush [(sid, 4)] false [] 1 1), [(sid, 4)], [], false, [], _, _, rfl, rfl, all_answered (by decide +kernel),
     by unfold HostTakes; decide +kernel⟩,
   ⟨{ node with arbs := [{ id := 0x40 }] }, 0x40, 250000, by decide +kernel⟩,
   ⟨node, 0x80, 2000, by decide +kernel⟩⟩

theorem witness_Compaction :
    (∃ (s : State) (list t : Nat) (l : LList) (d : Shard) (c : Coll) (urgent : Bool) (since : Nat) (w : LedgerWhat), w = .pass
      (.maint list) ∧ s.list? list = some l ∧ s.shard? l.shard = some d ∧ s.coll? d.coll = some c ∧ l.retiredW = none ∧ l.maint
      = none ∧ d.stage = .formed ∧ d.forwardTo = none ∧ d.lost = false ∧ (s.at t).compactionDue c d l = some (urgent, since) ∧
      list ∉ l.neighbours ∧ d.turn w = true) ∧
    (∃ (s : State) (list t : Nat) (l : LList) (d : Shard) (c : Coll) (urgent : Bool) (since : Nat) (w : LedgerWhat), w = .pass
      (.maint list) ∧ s.list? list = some l ∧ s.shard? l.shard = some d ∧ s.coll? d.coll = some c ∧ l.retiredW = none ∧ l.maint
      = none ∧ d.stage = .formed ∧ d.forwardTo = none ∧ d.lost = false ∧ (s.at t).compactionDue c d l = some (urgent, since) ∧
      list ∉ l.neighbours ∧ d.turn w = false) ∧
    (∃ (s : State) (list : Nat) (l : LList) (d : Shard) (c : Coll) (m : Maint) (arbs : List Nat) (w : LedgerWhat) (u : Work), w
      = .pass (.maint list) ∧ u = .upkeep 0x12 list ∧ arbs = s.writeArbs l ∧ s.list? list = some l ∧ s.shard? l.shard = some d ∧
      s.coll? d.coll = some c ∧ l.maint = some m ∧ m.kind = 0 ∧ m.cut ≠ 0 ∧ m.switched = none ∧ s.pwr.doldrums = false ∧
      s.commitLimit = false ∧ s.programsWait (s.compactChannel l.channel) = false ∧ m.written = false ∧ s.planBefore l m = true) ∧
    (∃ (s : State) (list t : Nat) (l : LList) (d : Shard) (c : Coll) (m : Maint) (arbs : List Nat) (w : LedgerWhat) (u : Work),
      w = .pass (.maint list) ∧ u = .upkeep 0x12 list ∧ arbs = s.writeArbs l ∧ ¬ BackgroundTurn (s.at t) arbs u ∧ s.list? list =
      some l ∧ s.shard? l.shard = some d ∧ s.coll? d.coll = some c ∧ l.maint = some m ∧ m.kind = 0 ∧ m.cut ≠ 0 ∧ m.switched =
      none ∧ s.pwr.doldrums = false ∧ s.commitLimit = false ∧ s.programsWait (s.compactChannel l.channel) = false ∧ m.written =
      false ∧ s.planBefore l m = false) ∧
    (∃ (s : State) (list t : Nat) (l : LList) (d : Shard) (c : Coll) (m : Maint) (arbs : List Nat) (w : LedgerWhat) (u : Work),
      w = .pass (.maint list) ∧ u = .upkeep 0x12 list ∧ arbs = s.writeArbs l ∧ (m.written = true ∨ s.planBefore l m = false ∧
      BackgroundTurn (s.at t) arbs u) ∧ s.list? list = some l ∧ s.shard? l.shard = some d ∧ s.coll? d.coll = some c ∧ l.maint =
      some m ∧ m.kind = 0 ∧ m.cut ≠ 0 ∧ m.switched = none ∧ s.pwr.doldrums = false ∧ s.commitLimit = false ∧ s.programsWait
      (s.compactChannel l.channel) = false) ∧
    (∃ (s : State) (list w : Nat) (l : LList) (d : Shard) (c : Coll) (m : Maint), s.list? list = some l ∧ s.shard? l.shard =
      some d ∧ s.coll? d.coll = some c ∧ l.maint = some m ∧ m.kind = 0 ∧ m.switched = some w ∧ d.drainedBelow w = true) ∧
    (∃ (s : State) (list w : Nat) (l : LList) (d : Shard) (c : Coll) (m : Maint), s.list? list = some l ∧ s.shard? l.shard =
      some d ∧ s.coll? d.coll = some c ∧ l.maint = some m ∧ m.kind = 0 ∧ m.switched = some w ∧ d.drainedBelow w = false) ∧
    (∃ (s : State) (list : Nat) (l : LList) (d : Shard) (c : Coll), s.list? list = some l ∧ s.shard? l.shard = some d ∧ s.coll?
      d.coll = some c ∧ l.oldChunks ≠ 0 ∧ (∀ a ∈ s.arbs, a.granted = []) ∧ s.chargedFn c < s.fns.length) :=
  ⟨⟨withList (withShard tenant (formed)) ({ list with urgent := true }), 5, 2000, { list with urgent := true }, formed, coll
     cid, true, 2000, _, rfl, by decide +kernel⟩,
   ⟨withList (withShard tenant ({ formed with waiting := [(0, .search theirs)] })) ({ list with urgent := true }), 5, 2000,
     { list with urgent := true }, { formed with waiting := [(0, .search theirs)] }, coll cid, true, 2000, _, rfl,
     by decide +kernel⟩,
   ⟨{ withShard tenant formed with lists := [{ list with maint := some (Maint.mk 0 3 false none 0 0 false none) }, { list with id := 6, maint := some (Maint.mk 0 2 true none 0 0 false none) }] },
     5, { list with maint := some (Maint.mk 0 3 false none 0 0 false none) }, formed, coll cid, (Maint.mk 0 3 false none 0 0
     false none), _, _, _, rfl, rfl, rfl, by decide +kernel⟩,
   ⟨{ withList (withShard tenant (formed)) ({ list with maint := some (Maint.mk 0 3 false none 0 0 false none) }) with arbs := [{ id := 0, granted := [⟨0, 0, false, false, .page 0⟩] }] },
     5, 2000, { list with maint := some (Maint.mk 0 3 false none 0 0 false none) }, formed, coll cid, (Maint.mk 0 3 false none 0
     0 false none), _, _, _, rfl, rfl, rfl, not_grant_turn 0 (by decide +kernel), by decide +kernel⟩,
   ⟨withList (withShard tenant (formed)) ({ list with maint := some (Maint.mk 0 3 false none 0 0 true none) }), 5, 2000,
     { list with maint := some (Maint.mk 0 3 false none 0 0 true none) }, formed, coll cid, (Maint.mk 0 3 false none 0 0 true
     none), _, _, _, rfl, rfl, rfl, .inl (by decide +kernel), by decide +kernel⟩,
   ⟨withList (withShard tenant formed) ({ list with maint := some (Maint.mk 0 3 false none 0 0 true (some 4)) }), 5, 4,
     { list with maint := some (Maint.mk 0 3 false none 0 0 true (some 4)) }, formed, coll cid, Maint.mk 0 3 false none 0 0 true
     (some 4), by decide +kernel⟩,
   ⟨withList (withShard tenant behind) ({ list with maint := some (Maint.mk 0 3 false none 0 0 true (some 4)) }), 5, 4,
     { list with maint := some (Maint.mk 0 3 false none 0 0 true (some 4)) }, behind, coll cid, Maint.mk 0 3 false none 0 0 true
     (some 4), by decide +kernel⟩,
   ⟨withList tenant { list with oldChunks := 1 }, 5, { list with oldChunks := 1 }, shard, coll cid, by decide +kernel⟩⟩

theorem witness_SplitsAndMerges :
    (∃ (s : State) (shard t : Nat) (d : Shard), s.shard? shard = some d ∧ d.lenAt + 10 * Config.ticksPerS ≤ (s.at t).now) ∧
    (∃ (s : State) (shard t : Nat) (d : Shard), s.shard? shard = some d ∧ (s.at t).now < d.lenAt + 10 * Config.ticksPerS) ∧
    (∃ (s : State) (list : Nat) (l : LList) (d : Shard) (c : Coll) (m : Maint) (arbs : List Nat) (w : LedgerWhat) (u : Work), w
      = .pass (.maint list) ∧ u = .upkeep 0x13 list ∧ arbs = s.writeArbs l ++ [tensorArb (s.homeTile list), 0x80] ∧ s.list? list
      = some l ∧ s.shard? l.shard = some d ∧ s.coll? d.coll = some c ∧ l.maint = some m ∧ (m.kind = 1 ∨ m.kind = 2) ∧ m.cut ≠ 0
      ∧ m.switched = none ∧ s.pwr.doldrums = false ∧ s.commitLimit = false ∧ s.programsWait s.homeChannel = false ∧ m.written =
      false ∧ s.planBefore l m = true) ∧
    (∃ (s : State) (list t : Nat) (l : LList) (d : Shard) (c : Coll) (m : Maint) (arbs : List Nat) (w : LedgerWhat) (u : Work),
      w = .pass (.maint list) ∧ u = .upkeep 0x13 list ∧ arbs = s.writeArbs l ++ [tensorArb (s.homeTile list), 0x80] ∧ ¬
      BackgroundTurn (s.at t) arbs u ∧ s.list? list = some l ∧ s.shard? l.shard = some d ∧ s.coll? d.coll = some c ∧ l.maint =
      some m ∧ (m.kind = 1 ∨ m.kind = 2) ∧ m.cut ≠ 0 ∧ m.switched = none ∧ s.pwr.doldrums = false ∧ s.commitLimit = false ∧
      s.programsWait s.homeChannel = false ∧ m.written = false ∧ s.planBefore l m = false) ∧
    (∃ (s : State) (list t : Nat) (l : LList) (d : Shard) (c : Coll) (m : Maint) (arbs : List Nat) (w : LedgerWhat) (u : Work),
      w = .pass (.maint list) ∧ u = .upkeep 0x13 list ∧ arbs = s.writeArbs l ++ [tensorArb (s.homeTile list), 0x80] ∧
      BackgroundTurn (s.at t) arbs u ∧ s.list? list = some l ∧ s.shard? l.shard = some d ∧ s.coll? d.coll = some c ∧ l.maint =
      some m ∧ (m.kind = 1 ∨ m.kind = 2) ∧ m.cut ≠ 0 ∧ m.switched = none ∧ s.pwr.doldrums = false ∧ s.commitLimit = false ∧
      s.programsWait s.homeChannel = false ∧ m.written = false ∧ s.planBefore l m = false) ∧
    (∃ (s : State) (list : Nat) (l : LList) (d : Shard) (c : Coll) (m : Maint) (arbs : List Nat) (w : LedgerWhat) (u : Work), w
      = .pass (.maint list) ∧ u = .upkeep 0x13 list ∧ arbs = s.writeArbs l ++ [tensorArb (s.homeTile list), 0x80] ∧ s.list? list
      = some l ∧ s.shard? l.shard = some d ∧ s.coll? d.coll = some c ∧ l.maint = some m ∧ (m.kind = 1 ∨ m.kind = 2) ∧ m.cut ≠ 0
      ∧ m.switched = none ∧ s.pwr.doldrums = false ∧ s.commitLimit = false ∧ s.programsWait s.homeChannel = false ∧ m.written =
      true ∧ l.closed = false) ∧
    (∃ (s : State) (list : Nat) (l : LList) (d : Shard) (c : Coll) (m : Maint) (arbs : List Nat) (w : LedgerWhat) (u : Work), w
      = .pass (.maint list) ∧ u = .upkeep 0x13 list ∧ arbs = s.writeArbs l ++ [tensorArb (s.homeTile list), 0x80] ∧ s.list? list
      = some l ∧ s.shard? l.shard = some d ∧ s.coll? d.coll = some c ∧ l.maint = some m ∧ (m.kind = 1 ∨ m.kind = 2) ∧ m.cut ≠ 0
      ∧ m.switched = none ∧ s.pwr.doldrums = false ∧ s.commitLimit = false ∧ s.programsWait s.homeChannel = false ∧ m.written =
      true ∧ l.closed = true ∧ d.turn w = false) ∧
    (∃ (s : State) (list : Nat) (l : LList) (d : Shard) (c : Coll) (m : Maint) (arbs : List Nat) (w : LedgerWhat) (u : Work), w
      = .pass (.maint list) ∧ u = .upkeep 0x13 list ∧ arbs = s.writeArbs l ++ [tensorArb (s.homeTile list), 0x80] ∧ s.list? list
      = some l ∧ s.shard? l.shard = some d ∧ s.coll? d.coll = some c ∧ l.maint = some m ∧ (m.kind = 1 ∨ m.kind = 2) ∧ m.cut ≠ 0
      ∧ m.switched = none ∧ s.pwr.doldrums = false ∧ s.commitLimit = false ∧ s.programsWait s.homeChannel = false ∧ m.written =
      true ∧ l.closed = true ∧ d.turn w = true ∧ m.kind = 1 ∧ 1024 ≤ s.headsOf l ∧ m.partner = none) ∧
    (∃ (s : State), ∃ (list : Nat), ∃ (l : LList), ∃ (d : Shard), ∃ (c : Coll), ∃ (m : Maint), ∃ (arbs : List Nat), ∃ (w :
      LedgerWhat), ∃ (u : Work), ∃ ids v, w = .pass (.maint list) ∧ u = .upkeep 0x13 list ∧ arbs = s.writeArbs l ++ [tensorArb
      (s.homeTile list), 0x80] ∧ s.list? list = some l ∧ s.shard? l.shard = some d ∧ s.coll? d.coll = some c ∧ l.maint = some m
      ∧ (m.kind = 1 ∨ m.kind = 2) ∧ m.cut ≠ 0 ∧ m.switched = none ∧ s.pwr.doldrums = false ∧ s.commitLimit = false ∧
      s.programsWait s.homeChannel = false ∧ m.written = true ∧ l.closed = true ∧ d.turn w = true ∧ (m.kind = 1 → s.headsOf l <
      1024) ∧ s.takeLists (if m.kind = 1 then 2 else 1) = some (ids, v) ∧ ids.Nodup ∧ list ∉ ids ∧ (∀ i, m.partner = some i → i
      ∉ ids)) ∧
    (∃ (s : State) (list w : Nat) (l : LList) (d : Shard) (c : Coll), s.list? list = some l ∧ s.shard? l.shard = some d ∧
      s.coll? d.coll = some c ∧ l.retiredW = some w ∧ d.drainedBelow w = true ∧ l.maint ≠ none) ∧
    (∃ (s : State) (shard : Nat) (d : Shard) (c : Coll) (arbs : List Nat) (u : Work), arbs = [tensorArb (s.homeTile shard)] ∧ u
      = .upkeep 0x13 (16777216 + shard) ∧ ¬ BackgroundTurn s arbs u ∧ s.shard? shard = some d ∧ s.coll? d.coll = some c) ∧
    (∃ (s : State) (shard : Nat) (d : Shard) (c : Coll) (arbs : List Nat) (u : Work), arbs = [tensorArb (s.homeTile shard)] ∧ u
      = .upkeep 0x13 (16777216 + shard) ∧ BackgroundTurn s arbs u ∧ s.shard? shard = some d ∧ s.coll? d.coll = some c) :=
  ⟨⟨tenant, sid, 250000000, shard, by decide +kernel⟩,
   ⟨tenant, sid, 2000, shard, by decide +kernel⟩,
   ⟨{ withShard tenant formed with lists := [{ list with maint := some (Maint.mk 1 3 false none 0 0 false none) }, { list with id := 6, maint := some (Maint.mk 1 2 true none 0 0 false none) }] },
     5, { list with maint := some (Maint.mk 1 3 false none 0 0 false none) }, formed, coll cid, (Maint.mk 1 3 false none 0 0
     false none), _, _, _, rfl, rfl, rfl, by decide +kernel⟩,
   ⟨{ withList (withShard tenant (formed)) ({ list with maint := some (Maint.mk 1 3 false none 0 0 false none) }) with arbs := [{ id := 0x80, granted := [⟨0, 0, false, false, .page 0⟩] }] },
     5, 2000, { list with maint := some (Maint.mk 1 3 false none 0 0 false none) }, formed, coll cid, (Maint.mk 1 3 false none 0
     0 false none), _, _, _, rfl, rfl, rfl, not_grant_turn 0x80 ⟨List.mem_append_right _ (by decide +kernel),
     by decide +kernel⟩, by decide +kernel⟩,
   ⟨withList (withShard tenant (formed)) ({ list with maint := some (Maint.mk 1 3 false none 0 0 false none) }), 5, 2000,
     { list with maint := some (Maint.mk 1 3 false none 0 0 false none) }, formed, coll cid, (Maint.mk 1 3 false none 0 0 false
     none), _, _, _, rfl, rfl, rfl, background_turn_writing (by decide +kernel), by decide +kernel⟩,
   ⟨withList (withShard tenant (formed)) ({ list with maint := some (Maint.mk 1 3 false none 0 0 true none) }), 5,
     { list with maint := some (Maint.mk 1 3 false none 0 0 true none) }, formed, coll cid, (Maint.mk 1 3 false none 0 0 true
     none), _, _, _, rfl, rfl, rfl, by decide +kernel⟩,
   ⟨withList (withShard tenant ({ formed with waiting := [(0, .search theirs)] }))
     ({ list with maint := some (Maint.mk 1 3 false none 0 0 true none), closed := true }), 5,
     { list with maint := some (Maint.mk 1 3 false none 0 0 true none), closed := true },
     { formed with waiting := [(0, .search theirs)] }, coll cid, (Maint.mk 1 3 false none 0 0 true none), _, _, _, rfl, rfl,
     rfl, by decide +kernel⟩,
   ⟨{ withShard tenant formed with lists := { list with maint := some (Maint.mk 1 3 false none 0 0 true none), closed := true } :: (List.range 1023).map fun i => { list with id := 100 + i } },
     5, { list with maint := some (Maint.mk 1 3 false none 0 0 true none), closed := true }, formed, coll cid, (Maint.mk 1 3
     false none 0 0 true none), _, _, _, rfl, rfl, rfl, by decide +kernel⟩,
   ⟨{ withList (withShard tenant (formed)) ({ list with maint := some (Maint.mk 1 3 false none 0 0 true none), closed := true }) with tier := { node.tier with nextList := 6 } },
     5, { list with maint := some (Maint.mk 1 3 false none 0 0 true none), closed := true }, formed, coll cid, (Maint.mk 1 3
     false none 0 0 true none), _, _, _, [6, 7],
     (match ({ withList (withShard tenant (formed)) ({ list with maint := some (Maint.mk 1 3 false none 0 0 true none), closed := true }) with tier := { node.tier with nextList := 6 } }).takeLists 2 with | some x => x.2 | none => node),
     rfl, rfl, rfl, by decide +kernel⟩,
   ⟨withList tenant ({ list with retiredW := some 4, maint := some (Maint.mk 1 3 false none 0 0 true (some 4)) }), 5, 4,
     { list with retiredW := some 4, maint := some (Maint.mk 1 3 false none 0 0 true (some 4)) }, shard, coll cid,
     by decide +kernel⟩,
   ⟨{ tenant with arbs := (List.range 4).map fun i => { id := 0x90 + i, granted := [⟨0, 0, false, false, .page 0⟩] } }, sid,
     shard, coll cid, _, _, rfl, rfl, not_grant_turn (tensorArb (node.homeTile sid)) (by decide +kernel), by decide +kernel⟩,
   ⟨tenant, sid, shard, coll cid, _, _, rfl, rfl, grant_turn (by decide +kernel), by decide +kernel⟩⟩

theorem witness_TombstonesAndHistory :
    (∃ (s : State) (shard id stamp : Nat) (d : Shard) (c : Coll) (u : Tomb), s.shard? shard = some d ∧ s.coll? d.coll = some c ∧
      (d.tombs.find? fun u => isTomb id stamp u && u.kind == 0) = some u ∧ stamp ≤ d.oldestRead ∧ d.rebornAfter u.slot stamp =
      none) ∧
    (∃ (s : State) (shard id stamp : Nat) (d : Shard) (c : Coll) (u : Tomb), s.shard? shard = some d ∧ s.coll? d.coll = some c ∧
      (d.tombs.find? fun u => isTomb id stamp u && u.kind == 0) = some u ∧ d.oldestRead < stamp) ∧
    (∃ (s : State), ∃ (shard id stamp : Nat), ∃ (d : Shard), ∃ (c : Coll), ∃ (u : Tomb), ∃ i, s.shard? shard = some d ∧ s.coll?
      d.coll = some c ∧ (d.tombs.find? fun u => isTomb id stamp u && u.kind == 0) = some u ∧ d.rebornAfter u.slot stamp = some i
      ∧ i ≤ d.oldestRead) ∧
    (∃ (s : State) (shard id stamp : Nat) (d : Shard), s.shard? shard = some d ∧ (∀ u ∈ d.tombs, isTomb id stamp u = true →
      u.kind ≠ 0 → (u.pendA = true → s.switchedPast d u.id u.stamp u.listA = true) ∧ (u.pendB = true → s.switchedPast d u.id
      u.stamp u.listB = true))) ∧
    (∃ (s : State) (shard slot : Nat) (d : Shard) (y : Slot) (c : Coll), s.shard? shard = some d ∧ d.slot? slot = some y ∧
      s.coll? d.coll = some c ∧ y.bit = true ∧ (∀ w ∈ s.eng.members, w.msg.shard = shard → w.slot ≠ some slot) ∧ (∀ i ∈
      [y.row.list, y.row.second], i ≠ noList → s.switchedPast d y.id y.deletedAt i = true)) ∧
    (∃ (s : State) (shard slot stamp : Nat) (d : Shard) (c : Coll) (h : Hist), s.shard? shard = some d ∧ s.coll? d.coll = some c
      ∧ (d.hist.find? fun e => e.slot == slot && e.stamp == stamp) = some h ∧ stamp ≤ d.oldestRead ∧ (∀ y ∈ d.hist, y.slot =
      slot → y.stamp ≤ stamp → y.applied = true) ∧ (h.kind = 3 → ∀ u ∈ d.tombs, u.kind = 0 → u.slot = slot → stamp ≤ u.stamp)) :=
  ⟨⟨withShard tenant { shard with slots := [slot], tombs := [⟨77, 3, 0, noList, noList, false, false, 2, 0⟩] }, sid, 77, 3,
     { shard with slots := [slot], tombs := [⟨77, 3, 0, noList, noList, false, false, 2, 0⟩] }, coll cid, ⟨77, 3, 0, noList,
     noList, false, false, 2, 0⟩, by decide +kernel⟩,
   ⟨withShard tenant
     { shard with slots := [slot], tombs := [⟨77, 3, 0, noList, noList, false, false, 2, 0⟩], readers := [(.move, 2)] }, sid,
     77, 3, { shard with slots := [slot], tombs := [⟨77, 3, 0, noList, noList, false, false, 2, 0⟩], readers := [(.move, 2)] },
     coll cid, ⟨77, 3, 0, noList, noList, false, false, 2, 0⟩, by decide +kernel⟩,
   ⟨withShard tenant
     { shard with slots := [slot], tombs := [⟨77, 3, 0, noList, noList, false, false, 2, 0⟩], hist := [⟨2, 4, 3, true, none, none⟩] },
     sid, 77, 3,
     { shard with slots := [slot], tombs := [⟨77, 3, 0, noList, noList, false, false, 2, 0⟩], hist := [⟨2, 4, 3, true, none, none⟩] },
     coll cid, ⟨77, 3, 0, noList, noList, false, false, 2, 0⟩, 4, by decide +kernel⟩,
   ⟨withList (withShard tenant { shard with slots := [slot], tombs := [⟨77, 3, 1, 5, noList, true, false, 2, 0⟩] })
     { list with versions := [⟨1, 4, 4, [[scan]], 0, false, [], false⟩] }, sid, 77, 3,
     { shard with slots := [slot], tombs := [⟨77, 3, 1, 5, noList, true, false, 2, 0⟩] }, by decide +kernel⟩,
   ⟨withShard tenant (holding [{ slot with bit := true, deletedAt := 3 }]), sid, 2, holding
     [{ slot with bit := true, deletedAt := 3 }], { slot with bit := true, deletedAt := 3 }, coll cid, by decide +kernel⟩,
   ⟨withShard tenant { shard with slots := [slot], hist := [⟨2, 3, 1, true, none, none⟩] }, sid, 2, 3,
     { shard with slots := [slot], hist := [⟨2, 3, 1, true, none, none⟩] }, coll cid, ⟨2, 3, 1, true, none, none⟩,
     by decide +kernel⟩⟩

theorem witness_Formation :
    (∃ (s : State) (shard : Nat) (d : Shard) (c : Coll), s.shard? shard = some d ∧ s.coll? d.coll = some c ∧ d.stage = .forming
      ∧ d.training = false ∧ d.forwardTo = none ∧ formationSize c d ≤ (d.slots.filter d.live).length) ∧
    (∃ (s : State) (shard : Nat) (d : Shard) (c : Coll), s.shard? shard = some d ∧ s.coll? d.coll = some c ∧ d.stage = .forming
      ∧ d.training = false ∧ d.forwardTo = none ∧ (d.slots.filter d.live).length < formationSize c d) ∧
    (∃ (s : State) (shard t : Nat) (d : Shard) (c : Coll) (ids : List Nat) (v : State) (w : LedgerWhat) (arbs : List Nat) (u :
      Work), w = .pass .formation ∧ arbs = [tensorArb (s.homeTile shard), 0x80] ∧ u = .upkeep 0x13 (33554432 + shard) ∧ ¬
      BackgroundTurn (s.at t) arbs u ∧ s.shard? shard = some d ∧ s.coll? d.coll = some c ∧ d.training = true ∧ s.pwr.doldrums =
      false ∧ s.commitLimit = false ∧ s.anyWaits = false ∧ s.takeLists d.l1 = some (ids, v) ∧ d.formCut = none) ∧
    (∃ (s : State) (shard t : Nat) (d : Shard) (c : Coll) (ids : List Nat) (v : State) (w : LedgerWhat) (arbs : List Nat) (u :
      Work), w = .pass .formation ∧ arbs = [tensorArb (s.homeTile shard), 0x80] ∧ u = .upkeep 0x13 (33554432 + shard) ∧
      (d.formCut ≠ none ∨ BackgroundTurn (s.at t) arbs u) ∧ s.shard? shard = some d ∧ s.coll? d.coll = some c ∧ d.training =
      true ∧ s.pwr.doldrums = false ∧ s.commitLimit = false ∧ s.anyWaits = false ∧ s.takeLists d.l1 = some (ids, v)) ∧
    (∃ (s : State) (shard w : Nat) (d : Shard) (c : Coll), s.shard? shard = some d ∧ s.coll? d.coll = some c ∧ d.switchW = some
      w ∧ d.buffer = true ∧ s.chargedFn c < s.fns.length ∧ d.drainedBelow w = true) ∧
    (∃ (s : State) (shard w : Nat) (d : Shard) (c : Coll), s.shard? shard = some d ∧ s.coll? d.coll = some c ∧ d.switchW = some
      w ∧ d.buffer = true ∧ s.chargedFn c < s.fns.length ∧ d.drainedBelow w = false) :=
  ⟨⟨withShard tenant { shard with slots := List.replicate 256 slot }, sid, { shard with slots := List.replicate 256 slot }, coll
     cid, by decide +kernel⟩,
   ⟨tenant, sid, shard, coll cid, by decide +kernel⟩,
   ⟨{ withShard tenant ({ shard with training := true }) with tier := { node.tier with nextList := 6 }, arbs := [{ id := 0x80, granted := [⟨0, 0, false, false, .page 0⟩] }] },
     sid, 2000, { shard with training := true }, coll cid, [6, 7],
     (match ({ withShard tenant ({ shard with training := true }) with tier := { node.tier with nextList := 6 }, arbs := [{ id := 0x80, granted := [⟨0, 0, false, false, .page 0⟩] }] }).takeLists 2 with | some x => x.2 | none => node),
     _, _, _, rfl, rfl, rfl, not_grant_turn 0x80 (by decide +kernel), by decide +kernel⟩,
   ⟨{ withShard tenant ({ shard with training := true }) with tier := { node.tier with nextList := 6 } }, sid, 2000,
     { shard with training := true }, coll cid, [6, 7],
     (match ({ withShard tenant ({ shard with training := true }) with tier := { node.tier with nextList := 6 } }).takeLists 2 with | some x => x.2 | none => node),
     _, _, _, rfl, rfl, rfl, .inr (grant_turn (by decide +kernel)), by decide +kernel⟩,
   ⟨withShard tenant { shard with stage := .formed, switchW := some 4, buffer := true }, sid, 4,
     { shard with stage := .formed, switchW := some 4, buffer := true }, coll cid, by decide +kernel⟩,
   ⟨withShard tenant { shard with stage := .formed, switchW := some 4, buffer := true, readers := [(.move, 3)] }, sid, 4,
     { shard with stage := .formed, switchW := some 4, buffer := true, readers := [(.move, 3)] }, coll cid, by decide +kernel⟩⟩

theorem witness_RowAndShardMoves :
    (∃ (s : State), ∃ (shard slot : Nat), ∃ (d : Shard), ∃ (y : Slot), ∃ (c : Coll), ∃ p q, s.shard? shard = some d ∧ d.slot?
      slot = some y ∧ s.coll? d.coll = some c ∧ d.live y = true ∧ y.bit = false ∧ y.lost = false ∧ y.migration = none ∧
      d.forwardTo = none ∧ y.home = .t2 ∧ c.placement = some p ∧ s.pool? p = some q ∧ q.takes (rowBytes c.spec y.row) = true ∧
      s.misplaced < 4194304 ∧ s.fits (s.chargedFn c) .t3 (rowBytes c.spec y.row) = true) ∧
    (∃ (s : State), ∃ (shard slot : Nat), ∃ (d : Shard), ∃ (y : Slot), ∃ (c : Coll), ∃ p, s.shard? shard = some d ∧ d.slot? slot
      = some y ∧ s.coll? d.coll = some c ∧ d.live y = true ∧ y.bit = false ∧ y.lost = false ∧ y.migration = none ∧ d.forwardTo =
      none ∧ y.home = .t3 p ∧ c.placement ≠ some p ∧ s.fits (s.chargedFn c) .t2 (rowBytes c.spec y.row) = true) ∧
    (∃ (s : State), ∃ (shard slot : Nat), ∃ (d : Shard), ∃ (y : Slot), ∃ (c : Coll), ∃ p q, s.shard? shard = some d ∧ d.slot?
      slot = some y ∧ s.coll? d.coll = some c ∧ d.live y = true ∧ y.bit = false ∧ y.lost = false ∧ y.migration = none ∧
      d.forwardTo = none ∧ y.home = .t3 p ∧ s.pool? p = some q ∧ q.st = .detaching ∧ q.returnData = true) ∧
    (∃ (s : State) (shard slot : Nat) (d : Shard) (y : Slot) (c : Coll) (m : Migration) (w : Work) (arbs : List Nat) (n : Nat),
      w = .upkeep 0x0F slot ∧ arbs = (if m.to_ = .t2 then s.rowTargets 1 else [s.rowChannelOf slot]) ∧ n = (if m.promoteFor =
      none then backgroundRequester else 0) ∧ GrantTurn s n m.promoteFor.isNone arbs w ∧ s.shard? shard = some d ∧ d.slot? slot
      = some y ∧ s.coll? d.coll = some c ∧ d.pendingAcc slot = none ∧ y.migration = some m ∧ m.oldHome = none ∧ m.dirty = false
      ∧ s.histCount < 16777216 ∧ s.commitLimit = false ∧ (∀ ch, ch < 32 → s.programsWait ch = false) ∧ d.turn (.row slot) =
      true) ∧
    (∃ (s : State) (shard slot : Nat) (d : Shard) (y : Slot) (c : Coll) (m : Migration) (w : Work) (arbs : List Nat) (n : Nat),
      w = .upkeep 0x0F slot ∧ arbs = (if m.to_ = .t2 then s.rowTargets 1 else [s.rowChannelOf slot]) ∧ n = (if m.promoteFor =
      none then backgroundRequester else 0) ∧ GrantTurn s n m.promoteFor.isNone arbs w ∧ s.shard? shard = some d ∧ d.slot? slot
      = some y ∧ s.coll? d.coll = some c ∧ d.pendingAcc slot = none ∧ y.migration = some m ∧ m.oldHome = none ∧ m.dirty = false
      ∧ s.histCount < 16777216 ∧ s.commitLimit = false ∧ (∀ ch, ch < 32 → s.programsWait ch = false) ∧ d.turn (.row slot) =
      false) ∧
    (∃ (s : State) (shard slot : Nat) (d : Shard) (y : Slot) (c : Coll) (m : Migration) (w : Work) (arbs : List Nat) (n : Nat),
      w = .upkeep 0x0F slot ∧ arbs = (if m.to_ = .t2 then s.rowTargets 1 else [s.rowChannelOf slot]) ∧ n = (if m.promoteFor =
      none then backgroundRequester else 0) ∧ ¬ GrantTurn s n m.promoteFor.isNone arbs w ∧ s.shard? shard = some d ∧ d.slot?
      slot = some y ∧ s.coll? d.coll = some c ∧ d.pendingAcc slot = none ∧ y.migration = some m ∧ m.oldHome = none ∧ (m.dirty =
      true ∨ s.histCount < 16777216 ∧ s.commitLimit = false ∧ ∀ ch, ch < 32 → s.programsWait ch = false)) ∧
    (∃ (s : State) (shard slot : Nat) (d : Shard) (y : Slot) (c : Coll) (m : Migration) (w : Work) (arbs : List Nat) (n : Nat),
      w = .upkeep 0x0F slot ∧ arbs = (if m.to_ = .t2 then s.rowTargets 1 else [s.rowChannelOf slot]) ∧ n = (if m.promoteFor =
      none then backgroundRequester else 0) ∧ GrantTurn s n m.promoteFor.isNone arbs w ∧ s.shard? shard = some d ∧ d.slot? slot
      = some y ∧ s.coll? d.coll = some c ∧ d.pendingAcc slot = none ∧ y.migration = some m ∧ m.oldHome = none ∧ m.dirty = true ∧
      m.passes < 7) ∧
    (∃ (s : State) (shard slot : Nat) (d : Shard) (y : Slot) (c : Coll) (m : Migration) (w : Work) (arbs : List Nat) (n : Nat),
      w = .upkeep 0x0F slot ∧ arbs = (if m.to_ = .t2 then s.rowTargets 1 else [s.rowChannelOf slot]) ∧ n = (if m.promoteFor =
      none then backgroundRequester else 0) ∧ GrantTurn s n m.promoteFor.isNone arbs w ∧ s.shard? shard = some d ∧ d.slot? slot
      = some y ∧ s.coll? d.coll = some c ∧ d.pendingAcc slot = none ∧ y.migration = some m ∧ m.oldHome = none ∧ m.dirty = true ∧
      7 ≤ m.passes) ∧
    (∃ (s : State) (shard slot : Nat) (d : Shard) (y : Slot) (c : Coll) (m : Migration) (w : Work) (arbs : List Nat) (n : Nat),
      w = .upkeep 0x0F slot ∧ arbs = (if m.to_ = .t2 then s.rowTargets 1 else [s.rowChannelOf slot]) ∧ n = (if m.promoteFor =
      none then backgroundRequester else 0) ∧ s.shard? shard = some d ∧ d.slot? slot = some y ∧ s.coll? d.coll = some c ∧
      d.pendingAcc slot = none ∧ y.migration = some m ∧ m.oldHome ≠ none ∧ (∀ h ∈ d.hist, ¬ (h.slot = slot ∧ h.stamp =
      m.stamp))) ∧
    (∃ (s : State), ∃ (coll t day hour : Nat), ∃ (c : Coll), ∃ (rows : Nat × Nat), ∃ p, s.coll? coll = some c ∧ rows =
      s.collRows c ∧ day = (c.readTimes.filter fun x => decide ((s.at t).now ≤ x + 86400 * Config.ticksPerS)).length ∧ hour =
      (c.readTimes.filter fun x => decide ((s.at t).now ≤ x + 3600 * Config.ticksPerS)).length ∧ c.placement = none ∧
      s.pools.find? (fun p => p.kind == 0 && p.st == .attached && decide (p.cap ≤ 10 * (p.cap - p.used))) = some p ∧ c.since +
      86400 * Config.ticksPerS ≤ (s.at t).now ∧ (s.fn (s.chargedFn c)).admits .t3 rows.2 = true ∧ 1000 * day < rows.1 * 24) ∧
    (∃ (s : State) (coll t day hour : Nat) (c : Coll) (rows : Nat × Nat), s.coll? coll = some c ∧ rows = s.collRows c ∧ day =
      (c.readTimes.filter fun x => decide ((s.at t).now ≤ x + 86400 * Config.ticksPerS)).length ∧ hour = (c.readTimes.filter fun
      x => decide ((s.at t).now ≤ x + 3600 * Config.ticksPerS)).length ∧ c.placement = none ∧ ((s.at t).now < c.since + 86400 *
      Config.ticksPerS ∨ rows.1 * 24 ≤ 1000 * day ∨ (s.fn (s.chargedFn c)).admits .t3 rows.2 = false ∨ ∀ p ∈ s.pools, ¬ (p.kind
      = 0 ∧ p.st = .attached ∧ p.cap ≤ 10 * (p.cap - p.used)))) ∧
    (∃ (s : State), ∃ (coll t day hour : Nat), ∃ (c : Coll), ∃ (rows : Nat × Nat), ∃ i leave, s.coll? coll = some c ∧ rows =
      s.collRows c ∧ day = (c.readTimes.filter fun x => decide ((s.at t).now ≤ x + 86400 * Config.ticksPerS)).length ∧ hour =
      (c.readTimes.filter fun x => decide ((s.at t).now ≤ x + 3600 * Config.ticksPerS)).length ∧ c.placement = some i ∧ leave =
      (match s.pool? i with | none => true | some p => p.st == .lost || (p.st == .detaching && p.returnData) || decide (20 * (p.cap - p.used) < p.cap))
      ∧ (leave = true ∨ rows.1 < 100 * hour)) ∧
    (∃ (s : State), ∃ (coll t day hour : Nat), ∃ (c : Coll), ∃ (rows : Nat × Nat), ∃ i leave, s.coll? coll = some c ∧ rows =
      s.collRows c ∧ day = (c.readTimes.filter fun x => decide ((s.at t).now ≤ x + 86400 * Config.ticksPerS)).length ∧ hour =
      (c.readTimes.filter fun x => decide ((s.at t).now ≤ x + 3600 * Config.ticksPerS)).length ∧ c.placement = some i ∧ leave =
      (match s.pool? i with | none => true | some p => p.st == .lost || (p.st == .detaching && p.returnData) || decide (20 * (p.cap - p.used) < p.cap))
      ∧ leave = false ∧ 100 * hour ≤ rows.1) ∧
    (∃ (s : State) (shard t : Nat) (d : Shard) (m : Move), (∀ z ∈ d.waiting, ∀ k, z.2 ≠ .search k ∧ z.2 ≠ .barrier k ∧ z.2 ≠
      .pass (.req k)) ∧ s.shard? shard = some d ∧ d.move = some m ∧ d.forwardTo = none ∧ m.step ≠ 0 ∧ (s.at t).reachable m.to_ =
      true) ∧
    (∃ (s : State) (shard : Nat) (g : ShardImage) (c : Coll), s.coll? g.coll = some c ∧ g.shard = shard ∧ shard ∈ c.shardIds ∧
      (∃ d ∈ s.owned, d.id = shard)) ∧
    (∃ (s : State) (shard t : Nat) (g : ShardImage) (c : Coll), s.coll? g.coll = some c ∧ g.shard = shard ∧ shard ∈ c.shardIds ∧
      (∀ d ∈ s.owned, d.id ≠ shard) ∧ ((s.at t).takeShard c g).isSome = true) ∧
    (∃ (s : State) (coll shard : Nat) (c : Coll), s.coll? coll = some c ∧ shard ∈ c.shardIds) ∧
    (∃ (s : State) (shard n : Nat) (d : Shard) (c : Coll) (m : Move), s.shard? shard = some d ∧ s.coll? d.coll = some c ∧
      d.forwardTo = some n ∧ d.move = some m ∧ d.readers = [] ∧ (∀ h ∈ s.eng.shares, ∀ p ∈ h.shards, p.shard ≠ shard) ∧ (∀ w ∈
      s.eng.members, w.msg.shard ≠ shard)) :=
  ⟨⟨withShard
     ({ node.modFn 1 fun f => { f with t2Limit := 1, t3Limit := 1 } with colls := [{ coll cid with placement := some 1 }], pools := [pool] })
     (holding [slot]), sid, 2, holding [slot], slot, { coll cid with placement := some 1 }, 1, pool, by decide +kernel⟩,
   ⟨withShard ({ node.modFn 1 fun f => { f with t2Limit := 1, t3Limit := 1 } with colls := [coll cid], pools := [pool] })
     (holding [{ slot with home := .t3 1 }]), sid, 2, holding [{ slot with home := .t3 1 }], { slot with home := .t3 1 }, coll
     cid, 1, by decide +kernel⟩,
   ⟨withShard
     ({ node.modFn 1 fun f => { f with t2Limit := 1, t3Limit := 1 } with colls := [{ coll cid with placement := some 1 }], pools := [{ pool with st := .detaching, returnData := true }] })
     (holding [{ slot with home := .t3 1 }]), sid, 2, holding [{ slot with home := .t3 1 }], { slot with home := .t3 1 },
     { coll cid with placement := some 1 }, 1, { pool with st := .detaching, returnData := true }, by decide +kernel⟩,
   ⟨withShard tenant (holding [migrating false 0 none 0]), sid, 2, holding [migrating false 0 none 0], migrating false 0 none 0,
     coll cid, ⟨.t3 1, false, 0, none, 0, none, 64⟩, _, _, _, rfl, rfl, rfl, idle_turn rfl (by decide +kernel),
     by decide +kernel⟩,
   ⟨withShard tenant ({ shard with slots := [migrating false 0 none 0], waiting := [(0, .search theirs)] }), sid, 2,
     { shard with slots := [migrating false 0 none 0], waiting := [(0, .search theirs)] }, migrating false 0 none 0, coll cid,
     ⟨.t3 1, false, 0, none, 0, none, 64⟩, _, _, _, rfl, rfl, rfl, idle_turn rfl (by decide +kernel), by decide +kernel⟩,
   ⟨{ (withShard tenant (holding [{ slot with home := .t3 1, migration := some ⟨.t2, true, 0, none, 0, none, 64⟩ }])) with arbs := [{ id := 0, granted := [⟨0, 0, false, false, .page 0⟩] }] },
     sid, 2, holding [{ slot with home := .t3 1, migration := some ⟨.t2, true, 0, none, 0, none, 64⟩ }],
     { slot with home := .t3 1, migration := some ⟨.t2, true, 0, none, 0, none, 64⟩ }, coll cid, ⟨.t2, true, 0, none, 0, none,
     64⟩, _, _, _, rfl, rfl, rfl, not_grant_turn 0 (by decide +kernel), by decide +kernel⟩,
   ⟨withShard tenant (holding [migrating true 6 none 0]), sid, 2, holding [migrating true 6 none 0], migrating true 6 none 0,
     coll cid, ⟨.t3 1, true, 6, none, 0, none, 64⟩, _, _, _, rfl, rfl, rfl, idle_turn rfl (by decide +kernel),
     by decide +kernel⟩,
   ⟨withShard tenant (holding [migrating true 7 none 0]), sid, 2, holding [migrating true 7 none 0], migrating true 7 none 0,
     coll cid, ⟨.t3 1, true, 7, none, 0, none, 64⟩, _, _, _, rfl, rfl, rfl, idle_turn rfl (by decide +kernel),
     by decide +kernel⟩,
   ⟨withShard tenant (holding [migrating false 0 (some .t2) 3]), sid, 2, holding [migrating false 0 (some .t2) 3], migrating
     false 0 (some .t2) 3, coll cid, ⟨.t3 1, false, 0, some .t2, 3, none, 64⟩, _, _, _, rfl, rfl, rfl, by decide +kernel⟩,
   ⟨{ node.modFn 1 fun f => { f with t3Limit := 0xFFFFFFFF } with colls := [coll cid], shards := [holding [slot]], pools := [pool] },
     cid, 86400 * 25000000, 0, 0, coll cid,
     ({ node.modFn 1 fun f => { f with t3Limit := 0xFFFFFFFF } with colls := [coll cid], shards := [holding [slot]], pools := [pool] }).collRows
     (coll cid), pool, by decide +kernel⟩,
   ⟨tenant, cid, 2000, 0, 0, coll cid, (tenant).collRows (coll cid), by decide +kernel⟩,
   ⟨{ tenant with colls := [{ coll cid with placement := some 1 }] }, cid, 2000, 0, 0, { coll cid with placement := some 1 },
     ({ tenant with colls := [{ coll cid with placement := some 1 }] }).collRows (coll cid), 1, true, by decide +kernel⟩,
   ⟨{ tenant with colls := [{ coll cid with placement := some 1 }], pools := [pool] }, cid, 2000, 0, 0,
     { coll cid with placement := some 1 },
     ({ tenant with colls := [{ coll cid with placement := some 1 }], pools := [pool] }).collRows (coll cid), 1, false,
     by decide +kernel⟩,
   ⟨neighboured (withShard tenant { shard with move := some ⟨3, 4, 2⟩ }), sid, 2000, { shard with move := some ⟨3, 4, 2⟩ }, ⟨3,
     4, 2⟩, (fun _ h => absurd h List.not_mem_nil), by decide +kernel⟩,
   ⟨tenant, sid, (⟨cid, sid, 9, .forming, none, false, 4, 4, 2, [], [], [], [slot], [], [], []⟩ : ShardImage), coll cid,
     by decide +kernel⟩,
   ⟨neighboured { node with colls := [theirColl] }, sid, 2000, (⟨cid, sid, 9, .forming, none, false, 4, 4, 2, [], [], [],
     [slot], [], [], []⟩ : ShardImage), theirColl, by decide +kernel⟩,
   ⟨tenant, cid, sid, coll cid, by decide +kernel⟩,
   ⟨withShard tenant { shard with move := some ⟨3, 4, 2⟩, forwardTo := some 3 }, sid, 3,
     { shard with move := some ⟨3, 4, 2⟩, forwardTo := some 3 }, coll cid, ⟨3, 4, 2⟩, by decide +kernel⟩⟩

theorem witness_CachesAndFlash :
    (∃ (s : State) (t : Nat), s.tier.rebalancedAt + 60 * Config.ticksPerS ≤ (s.at t).now) ∧
    (∃ (s : State) (t : Nat), (s.at t).now < s.tier.rebalancedAt + 60 * Config.ticksPerS) ∧
    (∃ (s : State) (ch t n : Nat), s.channelOn ch = true ∧ (s.channel ch).offline = false ∧ ch < s.tier.channels.length ∧ n =
      (s.tier.journal.filter (·.waitsOn ch)).foldl (fun n j => n + j.bytes) 0 ∧ n ≤ (s.channel ch).reserve ∧ (65536 ≤ n ∨ (∃ j ∈
      s.tier.journal, j.waitsOn ch = true ∧ j.at_ + 500 * Config.ticksPerUs ≤ (s.at t).now) ∨ s.pwr.doldrums = true)) ∧
    (∃ (s : State) (ch : Nat) (to_ : List Nat), to_ = s.rowTargets (s.homePages ch) ∧ s.pwr.doldrums = false) ∧
    (∃ (s : State) (t : Nat), s.pwr.doldrums = false ∧ s.anyWaits = false ∧ s.tier.checkpointAt + 60 * Config.ticksPerS ≤ (s.at
      t).now) ∧
    (∃ (s : State) (ch : Nat), ch < s.tier.channels.length ∧ s.pwr.doldrums = false ∧ (s.channel ch).offline = false ∧
      (s.channel ch).reserve < 8388608) ∧
    (∃ (s : State), ∃ (ch t : Nat), ∃ n i u y, ¬ BackgroundTurn y [ch] u ∧ ch < s.tier.channels.length ∧ s.pwr.doldrums = false
      ∧ (s.channel ch).offline = false ∧ s.channelOn ch = true ∧ (i, u, y) ∈ [(Instr.garbageCollection ch, Work.upkeep 0x12 (2 ^
      26 + ch), { s with free := s.free + 1 }), (.wearLevelling ch, .upkeep 0x15 (4 * ch + 1), s), (.readDisturbRefresh ch n t,
      .upkeep 0x15 (4 * n + 130), s.at t)]) ∧
    (∃ (s : State) (ch : Nat), BackgroundTurn s [ch] (.upkeep 0x12 (2 ^ 26 + ch)) ∧ ch < s.tier.channels.length ∧ s.pwr.doldrums
      = false ∧ (s.channel ch).offline = false ∧ s.channelOn ch = true) ∧
    (∃ (s : State), ∃ (ch : Nat), ∃ good top low, good = (s.channel ch).blocks.filter (!·.bad) ∧ top = good.foldl (fun n b =>
      max n b.cycles) 0 ∧ BackgroundTurn s [ch] (.upkeep 0x15 (4 * ch + 1)) ∧ ch < s.tier.channels.length ∧ s.pwr.doldrums =
      false ∧ (s.channel ch).offline = false ∧ s.channelOn ch = true ∧ (good.length < 126976 → low = 0) ∧ (126976 ≤ good.length
      → (∃ b ∈ good, b.cycles = low) ∧ ∀ b ∈ good, low ≤ b.cycles)) ∧
    (∃ (s : State), ∃ (ch t : Nat), ∃ n, BackgroundTurn (s.at t) [ch] (.upkeep 0x15 (4 * n + 130)) ∧ ch < s.tier.channels.length
      ∧ s.pwr.doldrums = false ∧ (s.channel ch).offline = false ∧ s.channelOn ch = true) ∧
    (∃ (s : State), ∃ (ch t : Nat), ∃ n y, ch < s.tier.channels.length ∧ s.pwr.doldrums = false ∧ (s.channel ch).offline = false
      ∧ s.channelOn ch = true ∧ (s.channel ch).blocks.find? (·.block == n) = some y ∧ (s.at t).awake < y.scannedAt + 604800 *
      Config.ticksPerS) ∧
    (∃ (s : State), ∃ (ch t : Nat), ∃ n y, ch < s.tier.channels.length ∧ s.pwr.doldrums = false ∧ (s.channel ch).offline = false
      ∧ s.channelOn ch = true ∧ (s.channel ch).blocks.find? (·.block == n) = some y ∧ y.scannedAt + 604800 * Config.ticksPerS ≤
      (s.at t).awake) ∧
    (∃ (s : State), ∃ (ch : Nat), ∃ n, ch < s.tier.channels.length ∧ s.pwr.doldrums = false ∧ (s.channel ch).offline = false ∧
      s.channelOn ch = true ∧ (∀ y ∈ (s.channel ch).blocks, y.block = n → y.bad = false)) :=
  ⟨⟨node, 60 * 25000000, by decide +kernel⟩,
   ⟨node, 2000, by decide +kernel⟩,
   ⟨{ node with tier := { node.tier with journal := [journal] } }, 0, 12500, 64, by decide +kernel⟩,
   ⟨node, 0, _, rfl, by decide +kernel⟩,
   ⟨node, 60 * 25000000, by decide +kernel⟩,
   ⟨{ node with tier := { node.tier with channels := node.tier.channels.set 0 { reserve := 0 } } }, 0, by decide +kernel⟩,
   ⟨{ blocks node [⟨0, 0, 0, 1, 0, false, []⟩] with arbs := [{ id := 0, granted := [⟨0, 0, false, false, .page 0⟩] }] }, 0,
     2000, 0, .garbageCollection 0, .upkeep 0x12 (2 ^ 26 + 0),
     { ({ blocks node [⟨0, 0, 0, 1, 0, false, []⟩] with arbs := [{ id := 0, granted := [⟨0, 0, false, false, .page 0⟩] }] }) with free := ({ blocks node [⟨0, 0, 0, 1, 0, false, []⟩] with arbs := [{ id := 0, granted := [⟨0, 0, false, false, .page 0⟩] }] }).free + 1 },
     not_grant_turn 0 (by decide +kernel), by decide +kernel⟩,
   ⟨blocks node [⟨0, 0, 0, 1, 0, false, []⟩], 0, grant_turn (by decide +kernel), by decide +kernel⟩,
   ⟨blocks node [⟨0, 0, 0, 1, 0, false, []⟩, ⟨1, 0, 500, 0, 0, false, []⟩], 0, _, _, 0, rfl, rfl, grant_turn
     (by decide +kernel), by decide +kernel⟩,
   ⟨blocks node [⟨0, 0, 0, 1, 0, false, []⟩], 0, 2000, 0, grant_turn (by decide +kernel), by decide +kernel⟩,
   ⟨blocks node [⟨0, 0, 0, 1, 0, false, []⟩], 0, 2000, 0, ⟨0, 0, 0, 1, 0, false, []⟩, by decide +kernel⟩,
   ⟨blocks node [⟨0, 0, 0, 1, 0, false, []⟩], 0, 604800 * 25000000, 0, ⟨0, 0, 0, 1, 0, false, []⟩, by decide +kernel⟩,
   ⟨blocks node [⟨0, 0, 0, 1, 0, false, []⟩], 0, 0, by decide +kernel⟩⟩

theorem witness_FaultsAndSpares :
    (∃ (s : State), ∃ (arb t : Nat), ∃ d, (s.arb arb).lastGrant + 50 * Config.ticksPerMs ≤ (s.at t).now ∧ (s.shards.find? fun d
      => d.ledger + 0x1000 == arb) = some d ∧ (∃ y ∈ d.waiting, y.1 + 50 * Config.ticksPerMs ≤ (s.at t).now)) ∧
    (∃ (s : State) (arb t : Nat), (s.arb arb).lastGrant + 50 * Config.ticksPerMs ≤ (s.at t).now ∧ (∀ d ∈ s.shards, d.ledger +
      0x1000 ≠ arb) ∧ ((s.arb arb).granted ≠ [] ∧ (s.arb arb).waiting ≠ [] ∨ ∃ y ∈ (s.arb arb).waiting, y.at_ + 50 *
      Config.ticksPerMs ≤ (s.at t).now) ∧ arb = 0xA0) ∧
    (∃ (s : State) (arb t : Nat), (s.arb arb).lastGrant + 50 * Config.ticksPerMs ≤ (s.at t).now ∧ (∀ d ∈ s.shards, d.ledger +
      0x1000 ≠ arb) ∧ ((s.arb arb).granted ≠ [] ∧ (s.arb arb).waiting ≠ [] ∨ ∃ y ∈ (s.arb arb).waiting, y.at_ + 50 *
      Config.ticksPerMs ≤ (s.at t).now) ∧ arb = 0xA1 ∧ (s.arb arb).granted = []) ∧
    (∃ (s : State) (arb t : Nat) (e : EngineId), (s.arb arb).lastGrant + 50 * Config.ticksPerMs ≤ (s.at t).now ∧ (∀ d ∈
      s.shards, d.ledger + 0x1000 ≠ arb) ∧ ((s.arb arb).granted ≠ [] ∧ (s.arb arb).waiting ≠ [] ∨ ∃ y ∈ (s.arb arb).waiting,
      y.at_ + 50 * Config.ticksPerMs ≤ (s.at t).now) ∧ (arb < 0x20 ∨ 0x40 ≤ arb ∧ arb < 0x60 ∨ arb = 0x80 ∨ 0x90 ≤ arb ∧ arb <
      0x94) ∧ e = grantUnit arb ((s.arb arb).granted.head?.map (·.work)) ∧ s.spares.unitResets = []) ∧
    (∃ (s : State) (arb t : Nat), (∀ d ∈ s.shards, d.ledger + 0x1000 ≠ arb) ∧ ((s.at t).now < (s.arb arb).lastGrant + 50 *
      Config.ticksPerMs ∨ (s.arb arb).waiting = [])) ∧
    (∃ (s : State), s.ao.stage = .serving) ∧
    (∃ (s : State) (e : EngineId), s.ao.stage = .serving ∧ s.engineKeys e = [] ∧ engineArb e = none ∧ s.spares.unitResets = []) ∧
    (∃ (s : State) (stack a b : Nat) (u : Work), stack ∈ s.stacksOn ∧ u = .upkeep 0x14 stack ∧ ((s.spares.dramErrors.find? (·.1
      == stack)).map (·.2)).getD (0, 0) = (a, b)) ∧
    (∃ (s : State) (port t : Nat), port < s.ports.length ∧ ((s.port port).st = .up ∨ (s.port port).st = .narrow) ∧
      (s.pwr.doldrums = false ∧ (s.port port).adaptAt + Config.ticksPerS ≤ (s.at t).awake ∧ ((∀ f ∈ s.headFrames port,
      f.tag.background = true ∨ f.tag.kind = 0x19) ∨ (s.arb (0x100 + port)).bgHeld * 100 < s.cfg.fabricPct * (s.arb (0x100 +
      port)).sent))) ∧
    (∃ (s : State) (port t : Nat), port < s.ports.length ∧ ((s.port port).st = .up ∨ (s.port port).st = .narrow) ∧
      (s.pwr.doldrums = true ∨ (s.at t).awake < (s.port port).adaptAt + Config.ticksPerS ∨ (∃ f ∈ s.headFrames port,
      f.tag.background = false ∧ f.tag.kind ≠ 0x19) ∧ s.cfg.fabricPct * (s.arb (0x100 + port)).sent ≤ (s.arb (0x100 +
      port)).bgHeld * 100)) ∧
    (∃ (s : State), ∃ (array ppm t : Nat), ∃ i, array ∈ s.arraysBuilt ∧ (i = Instr.calibrationSlot array ppm t ∨ i =
      .calibrationForced array ppm t ∧ (s.at t).calibrationDue array = true ∧ s.spareless array = true) ∧ (s.arrRec array).st =
      2 ∧ (s.at t).calibrated array = false) ∧
    (∃ (s : State), ∃ (array ppm t : Nat), ∃ i, array ∈ s.arraysBuilt ∧ (i = Instr.calibrationSlot array ppm t ∨ i =
      .calibrationForced array ppm t ∧ (s.at t).calibrationDue array = true ∧ s.spareless array = true) ∧ (s.arrRec array).st =
      2 ∧ (s.at t).calibrated array = true ∧ ppm ≤ 16000) ∧
    (∃ (s : State), ∃ (array t : Nat), ∃ b, array ∈ s.arraysBuilt ∧ (s.arrRec array).st = 0 ∧ (s.at t).slotFree array = true ∧
      s.standIn array = some b) ∧
    (∃ (s : State) (array t : Nat), array ∈ s.arraysBuilt ∧ (s.arrRec array).st = 0 ∧ (s.at t).slotFree array = true ∧
      s.spareless array = true ∧ (s.at t).arrayIdle array = true) ∧
    (∃ (s : State) (array t : Nat), array ∈ s.arraysBuilt ∧ (s.arrRec array).st = 0 ∧ (s.at t).slotFree array = true ∧ s.standIn
      array = none ∧ (s.spareless array = false ∨ (s.at t).arrayIdle array = false)) ∧
    (∃ (s : State) (array t : Nat), array ∈ s.arraysBuilt ∧ (s.arrRec array).st = 0 ∧ (s.at t).slotFree array = true ∧ (s.at
      t).calibrationDue array = true ∧ s.spareless array = true ∧ (array < 72 → (s.arb 0x80).granted = []) ∧ (72 ≤ array →
      s.arbHolds ((array - 128) / 3) (.page ((array - 128) / 3)) = false)) ∧
    (∃ (s : State) (array t : Nat), array ∈ s.arraysBuilt ∧ (s.arrRec array).st = 0 ∧ (s.at t).slotFree array = false) ∧
    (∃ (s : State) (array t : Nat), array ∈ s.arraysBuilt ∧ (s.spareless array = false ∨ (s.at t).calibrationDue array = false)) ∧
    (∃ (s : State) (array t : Nat), array ∈ s.arraysBuilt ∧ (s.arrRec array).st ≠ 3 ∧ (s.at t).now < (s.arrRec array).trackedAt
      + Config.ticksPerMs) ∧
    (∃ (s : State) (array t : Nat), array ∈ s.arraysBuilt ∧ (s.arrRec array).st ≠ 3 ∧ (s.arrRec array).trackedAt +
      Config.ticksPerMs ≤ (s.at t).now) ∧
    (∃ (s : State) (e : Element) (errors : Nat), s.ao.stage = .serving ∧ s.elementBuilt e = true ∧ s.ao.opt.sparePolicy ≠ 1 ∧
      dramRow e = true ∧ 16 < errors ∧ s.repairRows e.domain < 1024) ∧
    (∃ (s : State) (e : Element) (errors : Nat), s.ao.stage = .serving ∧ s.elementBuilt e = true ∧ s.ao.opt.sparePolicy ≠ 1 ∧
      (e.kind = 4 ∧ 64 < errors ∨ cluster e = true ∧ 16 < errors ∨ dramDie e = true ∧ 4096 < errors ∨ flashDie e = true ∧ 41 <
      errors) ∧ s.spareLeft e = true) ∧
    (∃ (s : State) (e : Element), s.alive = true ∧ s.elementBuilt e = true ∧ e.kind = 3) ∧
    (∃ (s : State) (e : Element), s.alive = true ∧ s.elementBuilt e = true ∧ (e.kind = 4 ∨ flashDie e = true ∨ csuArray e = true
      ∨ coarseArray e = true ∨ cluster e = true)) ∧
    (∃ (s : State), ∃ (e : Element), ∃ p f, s.alive = true ∧ s.elementBuilt e = true ∧ e.kind = 4 ∧ s.corePlace e.domain = some
      p ∧ p ∈ (s.fn f).cores ∧ f < s.fns.length ∧ (∀ g < s.fns.length, p ∈ (s.fn g).cores → g = f) ∧ (s.fn f).guestState = 2 ∧
      (∀ r ∈ s.spares.recoveries, r.domain = domainOf e → r.running = false)) ∧
    (∃ (s : State) (e : Element), s.alive = true ∧ s.elementBuilt e = true ∧ e.kind = 0 ∧ 35 ≤ e.element ∧ e.domain <
      s.tier.channels.length) ∧
    (∃ (s : State) (e : Element), s.alive = true ∧ s.elementBuilt e = true ∧ dramDie e = true ∧ s.ao.opt.sparePolicy ≠ 1 ∧
      s.spareLeft e = true) ∧
    (∃ (s : State) (e : Element), s.alive = true ∧ s.elementBuilt e = true ∧ dramDie e = true ∧ (s.ao.opt.sparePolicy = 1 ∨
      s.spareLeft e = false)) ∧
    (∃ (s : State) (d : Nat) (g : ArbReq) (r : Recovery), (s.arb 0xA2).granted.length < 4 ∧ oldest 0xA2 (s.arb 0xA2).waiting =
      some g ∧ g.work = .recovery d ∧ s.spares.recoveries.find? (·.domain == d) = some r) ∧
    (∃ (s : State) (domain t : Nat) (r : Recovery), s.spares.recoveries.find? (·.domain == domain) = some r ∧ r.running = true ∧
      r.progressAt + 10 * Config.ticksPerS ≤ (s.at t).now) ∧
    (∃ (s : State) (domain t : Nat) (r : Recovery), s.spares.recoveries.find? (·.domain == domain) = some r ∧ r.running = true ∧
      (s.at t).now < r.progressAt + 10 * Config.ticksPerS) ∧
    (∃ (s : State) (domain : Nat) (r : Recovery), s.spares.recoveries.find? (·.domain == domain) = some r ∧ r.running = true ∧
      s.pwr.doldrums = false) ∧
    (∃ (s : State) (domain : Nat) (r : Recovery), s.spares.recoveries.find? (·.domain == domain) = some r ∧ r.running = true ∧
      s.pwr.doldrums = true) ∧
    (∃ (s : State) (shard cut : Nat) (d : Shard) (c : Coll) (w : LedgerWhat), w = .pass .regen ∧ s.shard? shard = some d ∧
      d.regen = some cut ∧ s.coll? d.coll = some c ∧ s.pwr.doldrums = false ∧ s.commitLimit = false ∧ (∀ ch, ch < 32 →
      s.programsWait ch = false) ∧ (∀ l ∈ s.lists, l.shard = shard → l.retiredW = none → l.degraded = true → l.maint = none) ∧
      d.turn w = false) ∧
    (∃ (s : State) (shard cut : Nat) (d : Shard) (c : Coll) (w : LedgerWhat), w = .pass .regen ∧ s.shard? shard = some d ∧
      d.regen = some cut ∧ s.coll? d.coll = some c ∧ s.pwr.doldrums = false ∧ s.commitLimit = false ∧ (∀ ch, ch < 32 →
      s.programsWait ch = false) ∧ (∀ l ∈ s.lists, l.shard = shard → l.retiredW = none → l.degraded = true → l.maint = none) ∧
      d.turn w = true) ∧
    (∃ (s : State) (shard t : Nat) (ownerReports : Bool) (io : HostIO), (ownerReports = true ∨ (s.at t).ownerGone shard = true)
      ∧ HostTakes io ∧ (s.reqs.map (·.num)).Nodup) ∧
    (∃ (s : State) (shard t : Nat) (io : HostIO) (r : Req) (m : OMember), (s.at t).ownerGone shard = true ∧ s.ownerOf shard ≠
      some s.nodeId ∧ s.reqs = [r] ∧ r.body = .mutation [m] ∧ r.opcode ≠ 8 ∧ m.msg.shard = shard ∧ m.delivered = true ∧
      m.outcome = none ∧ HostTakes io) ∧
    (∃ (s : State) (shard t : Nat), (s.at t).ownerGone shard = false) :=
  ⟨⟨withShard tenant ({ shard with waiting := [(0, .search theirs)] }), 0x1000, 2000000,
     { shard with waiting := [(0, .search theirs)] }, by decide +kernel⟩,
   ⟨waits node 0xA0 (.mailbox 1), 0xA0, 2000000, by decide +kernel⟩,
   ⟨waits node 0xA1 (.wake (.csu 0)), 0xA1, 2000000, by decide +kernel⟩,
   ⟨waits node 0 (.page 0), 0, 2000000, .channel 0, by decide +kernel⟩,
   ⟨node, 0, 2000000, by decide +kernel⟩,
   ⟨node, by decide +kernel⟩,
   ⟨node, .porter 0, by decide +kernel⟩,
   ⟨node, 0, 0, 0, .upkeep 0x14 0, by decide +kernel⟩,
   ⟨onPort .up, 0, 25000000, by decide +kernel⟩,
   ⟨onPort .up, 0, 2000, by decide +kernel⟩,
   ⟨{ node with spares := { node.spares with arrays := [(⟨128, 2, 0, 0, 900, 0, 0, 0, false, 0, 0⟩ : Arr)] } }, 128, 5, 1200,
     .calibrationSlot 128 5 1200, by decide +kernel⟩,
   ⟨{ node with spares := { node.spares with arrays := [(⟨128, 2, 0, 0, 0, 0, 0, 0, false, 0, 0⟩ : Arr)] } }, 128, 16000, 2000,
     .calibrationSlot 128 16000 2000, by decide +kernel⟩,
   ⟨node, 128, 500000, 130, by decide +kernel⟩,
   ⟨{ node with spares := { node.spares with csuUsed := [0] } }, 128, 500000, by decide +kernel⟩,
   ⟨{ node with spares := { node.spares with csuUsed := [0], arrays := [(⟨128, 0, 0, 0, 0, 0, 0, 0, false, 0, 1900⟩ : Arr)] } },
     128, 2000, by decide +kernel⟩,
   ⟨{ node with spares := { node.spares with csuUsed := [0] } }, 128, 1250000, by decide +kernel⟩,
   ⟨node, 128, 2000, by decide +kernel⟩,
   ⟨node, 128, 2000, by decide +kernel⟩,
   ⟨node, 0, 2000, by decide +kernel⟩,
   ⟨node, 0, 25000, by decide +kernel⟩,
   ⟨node, ⟨1, 0, 32⟩, 17, by decide +kernel⟩,
   ⟨node, ⟨4, 0, 0⟩, 65, by decide +kernel⟩,
   ⟨node, ⟨3, 7, 0⟩, by decide +kernel⟩,
   ⟨node, ⟨4, 31, 0⟩, by decide +kernel⟩,
   ⟨{ node with fns := [{}, { coreShare := 1, cores := [5], guestState := 2 }] }, ⟨4, 5, 0⟩, 5, 1, by decide +kernel⟩,
   ⟨node, ⟨0, 31, 35⟩, by decide +kernel⟩,
   ⟨node, ⟨1, 0, 0⟩, by decide +kernel⟩,
   ⟨{ node with spares := { node.spares with dramUsed := [0] } }, ⟨1, 0, 15⟩, by decide +kernel⟩,
   ⟨{ { node with spares := { node.spares with recoveries := [(⟨0, [⟨1, 0, 0⟩], 0, false, false, 0⟩ : Recovery)] } } with arbs := [{ id := 0xA2, waiting := [⟨0, 0, false, false, .recovery 0⟩] }] },
     0, ⟨0, 0, false, false, .recovery 0⟩, (⟨0, [⟨1, 0, 0⟩], 0, false, false, 0⟩ : Recovery), by decide +kernel⟩,
   ⟨{ node with spares := { node.spares with recoveries := [(recovery : Recovery)] } }, 0, 250000000, (recovery : Recovery),
     by decide +kernel⟩,
   ⟨{ node with spares := { node.spares with recoveries := [(recovery : Recovery)] } }, 0, 2000, (recovery : Recovery),
     by decide +kernel⟩,
   ⟨{ node with spares := { node.spares with recoveries := [(recovery : Recovery)] } }, 0, (recovery : Recovery),
     by decide +kernel⟩,
   ⟨doldrums ({ node with spares := { node.spares with recoveries := [(recovery : Recovery)] } }), 0, (recovery : Recovery),
     by decide +kernel⟩,
   ⟨withList (withShard tenant ({ shard with regen := some 3, waiting := [(0, .search theirs)] }))
     ({ list with degraded := true }), sid, 3, { shard with regen := some 3, waiting := [(0, .search theirs)] }, coll cid, _,
     rfl, by decide +kernel⟩,
   ⟨withList (withShard tenant ({ shard with regen := some 3 })) ({ list with degraded := true }), sid, 3,
     { shard with regen := some 3 }, coll cid, _, rfl, by decide +kernel⟩,
   ⟨posing tenant (mutating [ownMember 0]), sid, 2000, true, host [], by unfold HostTakes; decide +kernel⟩,
   ⟨posing ({ node with colls := [theirColl], peers := [⟨3, 1, 0, 0, 0, true⟩] }) (mutating [ownMember 0]), sid, 3600 *
     25000000, host [], mutating [ownMember 0], ownMember 0, by unfold HostTakes; decide +kernel⟩,
   ⟨node, sid, 2000, by decide +kernel⟩⟩

theorem witness_PowerStates :
    (∃ (s : State) (since t : Nat) (guestsWait : Bool), s.pwr.st = .breeze ∧ s.ao.stage = .serving ∧ s.lullReady = true ∧
      s.cfg.lullAfter ≠ 0 ∧ since + s.cfg.lullAfter * Config.ticksPerMs ≤ (s.at t).now ∧ (s.at t).breezeIdle guestsWait = true ∧
      (s.at t).maintenanceDue = false) ∧
    (∃ (s : State), s.pwr.st = .breeze ∧ s.ao.stage = .serving ∧ s.lullReady = true ∧ s.cfg.lullAfter = 0) ∧
    (∃ (s : State) (t : Nat), s.pwr.st = .lull ∧ s.cfg.calmAfter ≠ 0 ∧ s.pwr.lullAt + s.cfg.calmAfter * Config.ticksPerS ≤ (s.at
      t).now) ∧
    (∃ (s : State), s.pwr.st = .lull ∧ s.cfg.calmAfter = 0) ∧
    (∃ (s : State), (s.pwr.st = .lull ∨ s.pwr.st = .calm)) ∧
    (∃ (s : State), (s.pwr.st = .breeze ∨ s.pwr.st = .gale)) ∧
    (∃ (s : State) (t : Nat), (s.pwr.st = .lull ∨ s.pwr.st = .calm) ∧ s.pwr.lullAt + 86400 * Config.ticksPerS ≤ (s.at t).now) ∧
    (∃ (s : State) (t : Nat), (s.pwr.st = .lull ∨ s.pwr.st = .calm) ∧ (s.at t).now < s.pwr.lullAt + 86400 * Config.ticksPerS) ∧
    (∃ (s : State) (linkL0 : Bool) (t : Nat), s.pins.wakeN = false ∧ s.ao.stage ≠ .inReset ∧ (linkL0 = true ∨ s.pins.wakeAt +
      100 * Config.ticksPerMs ≤ (s.at t).now)) ∧
    (∃ (s : State) (u : UnitId) (since t ms : Nat), gateAfter u = some ms ∧ s.pwr.st = .breeze ∧ s.unitBuilt u = true ∧
      s.unitState u = .ready ∧ s.unitIdle u = true ∧ since + ms * Config.ticksPerMs ≤ (s.at t).now) ∧
    (∃ (s : State) (u : UnitId) (since t ms : Nat), gateAfter u = some ms ∧ s.pwr.st = .breeze ∧ s.unitBuilt u = true ∧
      s.unitState u = .ready ∧ s.unitIdle u = true ∧ (s.at t).now < since + ms * Config.ticksPerMs) ∧
    (∃ (s : State) (t : Nat) (y : ArbReq) (u : UnitId), (∀ g ∈ (s.arb 0xA1).granted, ∀ v, g.work = .wake v → (s.arb
      0xA1).lastGrant + s.rampTicks v ≤ (s.at t).now) ∧ (s.pwr.st = .breeze ∨ s.pwr.st = .gale) ∧ y.work = .wake u ∧ oldest 0xA1
      ((s.arb 0xA1).waiting.filter (s.at t).wakeAllowed) = some y) ∧
    (∃ (s : State) (t : Nat) (y : ArbReq) (u : UnitId), (s.pwr.st = .breeze ∨ s.pwr.st = .gale) ∧ y.work = .wake u ∧ (s.arb
      0xA1).granted = [y] ∧ (s.at t).now < (s.arb 0xA1).lastGrant + s.rampTicks u) ∧
    (∃ (s : State) (u : UnitId) (t : Nat) (z : Machine.PUnit), s.pwr.units.find? (·.unit == u) = some z ∧ z.st = .waking ∧
      z.idleSince + s.wakeTicks u ≤ (s.at t).now) ∧
    (∃ (s : State) (u : UnitId) (t : Nat) (z : Machine.PUnit), s.pwr.units.find? (·.unit == u) = some z ∧ z.st = .waking ∧ (s.at
      t).now < z.idleSince + s.wakeTicks u) ∧
    (∃ (s : State) (t : Nat), s.pwr.capAt + Config.ticksPerMs ≤ (s.at t).now) ∧
    (∃ (s : State) (t : Nat), (s.at t).now < s.pwr.capAt + Config.ticksPerMs) ∧
    (∃ (s : State) (since t : Nat), s.pwr.brake = true ∧ since + 10 * Config.ticksPerMs ≤ (s.at t).now ∧ s.pwr.brakeAt +
      Config.ticksPerMs ≤ (s.at t).now) ∧
    (∃ (s : State) (r : Readings) (t top : Nat), (hottest r.junctions).2 = top ∧ s.pwr.thAt + Config.ticksPerMs ≤ (s.at t).now ∧
      (s.ao.stage = .off ∨ s.ao.stage = .inReset)) ∧
    (∃ (s : State) (r : Readings) (t top : Nat), (hottest r.junctions).2 = top ∧ s.pwr.thAt + Config.ticksPerMs ≤ (s.at t).now ∧
      s.alive = true) ∧
    (∃ (s : State) (r : Readings) (t top : Nat), (hottest r.junctions).2 = top ∧ s.pwr.thAt + Config.ticksPerMs ≤ (s.at t).now ∧
      s.ao.stage = .shutdown) ∧
    (∃ (s : State), ∃ (inletC t : Nat), ∃ b, 40 < inletC ∧ s.pwr.inletSince = some b ∧ b + Config.ticksPerS ≤ (s.at t).now ∧
      s.pwr.events.getLsbD 5 = false) ∧
    (∃ (inletC : Nat), inletC ≤ 40) :=
  ⟨⟨node, 0, 500000, true, by decide +kernel⟩,
   ⟨{ node with cfg := { node.cfg with lullAfter := 0 } }, by decide +kernel⟩,
   ⟨{ powered .lull with cfg := { node.cfg with calmAfter := 1 } }, 25000000, by decide +kernel⟩,
   ⟨powered .lull, by decide +kernel⟩,
   ⟨powered .lull, by decide +kernel⟩,
   ⟨powered .breeze, by decide +kernel⟩,
   ⟨powered .lull, 2160000000000, by decide +kernel⟩,
   ⟨powered .calm, 2000, by decide +kernel⟩,
   ⟨{ node with pins := { node.pins with wakeN := false } }, true, 2000, by decide +kernel⟩,
   ⟨node, .csu 0, 0, 50000, 2, by decide +kernel⟩,
   ⟨node, .csu 0, 0, 2000, 2, by decide +kernel⟩,
   ⟨waits node 0xA1 (.wake (.csu 0)), 2000, ⟨0, 0, false, false, .wake (.csu 0)⟩, .csu 0, (fun _ h => absurd h
     List.not_mem_nil), by decide +kernel⟩,
   ⟨{ node with arbs := [{ id := 0xA1, granted := [⟨0, 0, false, false, .wake (.csu 0)⟩], lastGrant := 1000 }] }, 1000, ⟨0, 0,
     false, false, .wake (.csu 0)⟩, .csu 0, by decide +kernel⟩,
   ⟨{ node with pwr := { node.pwr with units := [⟨.csu 0, .waking, 0⟩] } }, .csu 0, 2000, ⟨.csu 0, .waking, 0⟩,
     by decide +kernel⟩,
   ⟨{ node with pwr := { node.pwr with units := [⟨.csu 0, .waking, 1000⟩] } }, .csu 0, 1000, ⟨.csu 0, .waking, 1000⟩,
     by decide +kernel⟩,
   ⟨node, 25000, by decide +kernel⟩,
   ⟨node, 2000, by decide +kernel⟩,
   ⟨{ node with pwr := { node.pwr with brake := true, brakeArith := 900, brakeCore := 1500 } }, 0, 250000, by decide +kernel⟩,
   ⟨{ node with ao := { node.ao with stage := .off } }, readings 60, 25000, 60, by decide +kernel⟩,
   ⟨node, readings 60, 25000, 60, by decide +kernel⟩,
   ⟨{ node with ao := { node.ao with stage := .shutdown } }, readings 60, 25000, 60, by decide +kernel⟩,
   ⟨{ node with pwr := { node.pwr with inletSince := some 0 } }, 41, 25000000, 0, by decide +kernel⟩,
   ⟨40, by decide +kernel⟩⟩

theorem witness_SupplyAndDoldrums :
    (∃ (s : State) (mv : Nat), s.pwr.doldrums = false ∧ mv < 42000) ∧
    (∃ (s : State) (mv : Nat), s.pwr.doldrums = false ∧ 42000 ≤ mv) ∧
    (∃ (s : State) (mv : Nat), s.pwr.doldrums = true ∧ 43500 ≤ mv ∧ s.pwr.hold = none) ∧
    (∃ (s : State) (mv : Nat), s.pwr.doldrums = true ∧ mv < 43500) ∧
    (∃ (s : State), ∃ (t : Nat), ∃ h, s.pwr.doldrums = true ∧ s.pwr.hold = some h ∧ h + 10 * Config.ticksPerMs ≤ (s.at t).now) ∧
    (∃ (s : State), ∃ (t : Nat), ∃ h, s.pwr.doldrums = true ∧ s.pwr.hold = some h ∧ (s.at t).now < h + 10 * Config.ticksPerMs) ∧
    (∃ (s : State), s.pwr.doldrums = true ∧ s.pwr.hold = none) ∧
    (∃ (s : State) (mv : Nat), s.ao.stage ≠ .off ∧ mv < 38000) ∧
    (∃ (s : State) (mv : Nat), s.ao.stage ≠ .off ∧ 38000 ≤ mv) ∧
    (∃ (s : State) (r : Readings), s.alive = true ∧ 115 ≤ (hottest r.junctions).2) ∧
    (∃ (s : State) (r : Readings), s.alive = true ∧ (hottest r.junctions).2 < 115) ∧
    (∃ (s : State) (mv : Nat), s.pwr.swap = .open_ ∧ 40000 ≤ mv) ∧
    (∃ (s : State) (mv : Nat), (s.pwr.swap ≠ .open_ ∨ mv < 40000)) ∧
    (∃ (s : State) (mv : Nat), s.pwr.swap = .openOvervoltage ∧ mv < 58500) ∧
    (∃ (s : State) (mv : Nat), s.pwr.swap = .openOvervoltage ∧ 58500 ≤ mv) ∧
    (∃ (mv : Nat), mv < 36000) ∧
    (∃ (s : State) (mv : Nat), 59500 < mv ∧ (s.pwr.swap = .charging ∨ s.pwr.swap = .closed)) ∧
    (∃ (s : State) (mv ma forUs : Nat), 36000 ≤ mv ∧ mv ≤ 59500 ∧ s.pwr.swap = .closed ∧ (42000 < ma ∧ 2000 ≤ forUs ∨ 60000 < ma
      ∧ 10 ≤ forUs)) ∧
    (∃ (s : State) (mv : Nat), 36000 ≤ mv ∧ mv ≤ 59500 ∧ s.pwr.swap = .charging) ∧
    (∃ (s : State) (bankMv : Nat) (random : BitVec 64), 43500 ≤ bankMv ∧ random ≠ 0 ∧ (s.pwr.swap = .charging ∨ (s.ao.stage =
      .inReset ∧ s.ao.resetRank = 3 ∧ s.pwr.swap = .closed))) ∧
    (∃ (bankMv : Nat), bankMv < 43500) :=
  ⟨⟨node, 41999, by decide +kernel⟩,
   ⟨node, 42000, by decide +kernel⟩,
   ⟨doldrums node, 43500, by decide +kernel⟩,
   ⟨doldrums node, 43499, by decide +kernel⟩,
   ⟨{ node with pwr := { node.pwr with doldrums := true, hold := some 1000 } }, 251000, 1000, by decide +kernel⟩,
   ⟨{ node with pwr := { node.pwr with doldrums := true, hold := some 1000 } }, 250999, 1000, by decide +kernel⟩,
   ⟨doldrums node, by decide +kernel⟩,
   ⟨node, 37999, by decide +kernel⟩,
   ⟨node, 38000, by decide +kernel⟩,
   ⟨node, readings 115, by decide +kernel⟩,
   ⟨node, readings 114, by decide +kernel⟩,
   ⟨State.reset, 40000, by decide +kernel⟩,
   ⟨State.reset, 39999, by decide +kernel⟩,
   ⟨{ node with pwr := { node.pwr with swap := .openOvervoltage } }, 58499, by decide +kernel⟩,
   ⟨{ node with pwr := { node.pwr with swap := .openOvervoltage } }, 58500, by decide +kernel⟩,
   ⟨35999, by decide +kernel⟩,
   ⟨{ node with pwr := { node.pwr with swap := .closed } }, 59501, by decide +kernel⟩,
   ⟨{ node with pwr := { node.pwr with swap := .closed } }, 36000, 42001, 2000, by decide +kernel⟩,
   ⟨{ node with pwr := { node.pwr with swap := .charging } }, 59500, by decide +kernel⟩,
   ⟨{ State.reset with pwr := { State.reset.pwr with swap := .charging } }, 43500, 5, by decide +kernel⟩,
   ⟨43499, by decide +kernel⟩⟩

theorem witness_ResetClasses :
    (∃ (s : State) (lowNs : Nat), (s.alive = true ∨ s.ao.stage = .shutdown ∧ (∀ c ∈ s.pwr.junctions, c < 90)) ∧
      s.pins.resetDriven = false ∧ 2000 ≤ lowNs) ∧
    (∃ (s : State) (lowNs : Nat), (s.alive = true ∨ s.ao.stage = .shutdown ∧ (∀ c ∈ s.pwr.junctions, c < 90)) ∧
      s.pins.resetDriven = false ∧ lowNs < 2000) ∧
    (∃ (s : State) (lowNs : Nat), s.alive = true ∧ 0 < s.fns.length ∧ 1000 ≤ lowNs ∧ s.ao.opt.perstScope = 1) ∧
    (∃ (s : State) (lowNs : Nat), s.alive = true ∧ 0 < s.fns.length ∧ 1000 ≤ lowNs ∧ s.ao.opt.perstScope ≠ 1) ∧
    (∃ (s : State) (lowNs : Nat), s.alive = true ∧ 0 < s.fns.length ∧ lowNs < 1000) ∧
    (∃ (s : State), s.alive = true ∧ s.pins.linkDetect = false) ∧
    (∃ (s : State), (s.alive = false ∨ s.pins.linkDetect = true)) ∧
    (∃ (s : State), 0 < s.fns.length ∧ s.alive = true ∧ s.pins.linkDetect = true) ∧
    (∃ (s : State), 0 < s.fns.length ∧ (s.alive = false ∨ s.pins.linkDetect = false)) ∧
    (∃ (s : State), s.alive = true ∧ s.ao.watchdogOn = true) ∧
    (∃ (s : State), s.ao.watchdogOn = false) ∧
    (∃ (s : State) (v : BitVec 32), s.alive = true ∧ rstRequest v = 1) ∧
    (∃ (s : State) (v : BitVec 32), s.alive = true ∧ rstRequest v ≠ 1) ∧
    (∃ (s : State) (v : BitVec 32), s.alive = true ∧ rstRequest v = 2) ∧
    (∃ (s : State) (v : BitVec 32), s.alive = true ∧ rstRequest v ≠ 2) ∧
    (∃ (s : State) (high : Bool) (random : BitVec 64) (t : Nat), s.ao.stage = .inReset ∧ s.ao.resetRank = 2 ∧ s.ao.resetAt +
      25250 ≤ (s.at t).now ∧ high = true ∧ random ≠ 0 ∧ random ≠ s.ao.epoch) ∧
    (∃ (s : State) (high : Bool) (t : Nat), s.ao.stage = .inReset ∧ s.ao.resetRank = 2 ∧ s.ao.resetAt + 25250 ≤ (s.at t).now ∧
      high = false) ∧
    (∃ (s : State) (t : Nat), s.ao.stage = .inReset ∧ s.ao.resetRank = 2 ∧ (s.at t).now < s.ao.resetAt + 25250) ∧
    (∃ (s : State), s.pins.bme = false ∧ s.pins.linkDetect = true ∧ (s.ao.stage = .waitBme ∨ s.ao.stage = .serving)) ∧
    (∃ (s : State), s.pins.bme = false ∧ s.pins.linkDetect = true ∧ s.ao.stage = .waitBme) ∧
    (∃ (s : State), s.pins.bme = false ∧ s.pins.linkDetect = true ∧ s.ao.stage = .recovery ∧ 0 < s.fns.length ∧ (s.fn
      0).resetBusy = false) ∧
    (∃ (s : State), s.pins.bme = false ∧ s.pins.linkDetect = true ∧ s.ao.stage = .serving ∧ s.pools = []) ∧
    (∃ (s : State), (s.pins.bme = true ∨ s.pins.linkDetect = false)) :=
  ⟨⟨node, 2000, by decide +kernel⟩,
   ⟨node, 1999, by decide +kernel⟩,
   ⟨{ node with ao := { node.ao with opt := { perstScope := 1 } } }, 1000, by decide +kernel⟩,
   ⟨node, 1000, by decide +kernel⟩,
   ⟨node, 999, by decide +kernel⟩,
   ⟨{ node with pins := { node.pins with linkDetect := false } }, by decide +kernel⟩,
   ⟨node, by decide +kernel⟩,
   ⟨node, by decide +kernel⟩,
   ⟨State.reset, by decide +kernel⟩,
   ⟨{ node with ao := { node.ao with watchdogOn := true } }, by decide +kernel⟩,
   ⟨node, by decide +kernel⟩,
   ⟨node, 0xA501, by decide +kernel⟩,
   ⟨node, 0xA502, by decide +kernel⟩,
   ⟨node, 0xA502, by decide +kernel⟩,
   ⟨node, 0xA501, by decide +kernel⟩,
   ⟨inReset, true, 5, 25250, by decide +kernel⟩,
   ⟨inReset, false, 25250, by decide +kernel⟩,
   ⟨inReset, 25249, by decide +kernel⟩,
   ⟨{ { node with pools := [pool] } with pins := { node.pins with bme := false } }, by decide +kernel⟩,
   ⟨{ { node with ao := { node.ao with stage := .waitBme } } with pins := { node.pins with bme := false } }, by decide +kernel⟩,
   ⟨{ { node with ao := { node.ao with stage := .recovery } } with pins := { node.pins with bme := false } }, by decide +kernel⟩,
   ⟨{ node with pins := { node.pins with bme := false } }, by decide +kernel⟩,
   ⟨node, by decide +kernel⟩⟩

theorem witness_FunctionResets :
    (∃ (s : State) (fn : Nat), s.fnExists fn = true ∧ fn < s.fns.length ∧ fn < s.mboxes.length ∧ (s.fn fn).resetBusy = false) ∧
    (∃ (s : State) (fn : Nat), s.fnExists fn = true ∧ fn ≠ 0 ∧ (s.fn fn).resetBusy = true) ∧
    (∃ (s : State) (fn : Nat), s.fnExists fn = false) ∧
    (∃ (s : State), s.pins.vfEnable = true) ∧
    (∃ (s : State), s.pins.vfEnable = false) ∧
    (∃ (s : State), s.pins.vfEnable = false) ∧
    (∃ (s : State), s.pins.vfEnable = true) ∧
    (∃ (s : State) (fn : Nat), (s.fn fn).resetBusy = true ∧ s.functionBusy fn = false) ∧
    (∃ (s : State) (fn : Nat), (s.fn fn).resetBusy = true ∧ s.functionBusy fn = true) ∧
    (∃ (s : State) (fn : Nat), (s.fn fn).guestState = 2) ∧
    (∃ (s : State) (fn : Nat), (s.fn fn).guestState ≠ 2) :=
  ⟨⟨node, 1, by decide +kernel⟩,
   ⟨node.modFn 1 (fun f => { f with resetBusy := true }), 1, by decide +kernel⟩,
   ⟨{ node with pins := { node.pins with vfEnable := false } }, 1, by decide +kernel⟩,
   ⟨node, by decide +kernel⟩,
   ⟨{ node with pins := { node.pins with vfEnable := false } }, by decide +kernel⟩,
   ⟨{ node with pins := { node.pins with vfEnable := false } }, by decide +kernel⟩,
   ⟨node, by decide +kernel⟩,
   ⟨node.modFn 1 (fun f => { f with resetBusy := true }), 1, by decide +kernel⟩,
   ⟨withMember (node.modFn 1 (fun f => { f with resetBusy := true })) { member with msg := { memberMsg with key := ours } }, 1,
     by decide +kernel⟩,
   ⟨node.modFn 1 (fun f => { f with guestState := 2 }), 1, by decide +kernel⟩,
   ⟨node, 1, by decide +kernel⟩⟩

theorem witness_FabricPortsAndPools :
    (∃ (s : State) (port : Nat) (frame : Bytes) (h : FrameHead) (ch want : Nat), frameHead frame = h ∧ ch = h.channel % 4 ∧ want
      = (s.port port).rxSeq.getD ch 0 ∧ (s.port port).carries = false) ∧
    (∃ (s : State) (port : Nat) (frame : Bytes) (h : FrameHead) (ch want : Nat), frameHead frame = h ∧ ch = h.channel % 4 ∧ want
      = (s.port port).rxSeq.getD ch 0 ∧ (s.port port).carries = true ∧ frameCrcGood frame = false) ∧
    (∃ (s : State) (port : Nat) (frame : Bytes) (h : FrameHead) (ch want : Nat), frameHead frame = h ∧ ch = h.channel % 4 ∧ want
      = (s.port port).rxSeq.getD ch 0 ∧ (s.port port).carries = true ∧ frameCrcGood frame = true ∧ h.seq ≠ want) ∧
    (∃ (s : State) (port : Nat) (frame : Bytes) (h : FrameHead) (ch want : Nat), frameHead frame = h ∧ ch = h.channel % 4 ∧ want
      = (s.port port).rxSeq.getD ch 0 ∧ (s.port port).carries = true ∧ frameCrcGood frame = true ∧ h.seq = want ∧ tagGood (slice
      frame 16 32) = false) ∧
    (∃ (s : State) (port : Nat) (frame : Bytes) (h : FrameHead) (ch want : Nat), frameHead frame = h ∧ ch = h.channel % 4 ∧ want
      = (s.port port).rxSeq.getD ch 0 ∧ (s.port port).carries = true ∧ frameCrcGood frame = true ∧ h.seq = want ∧ tagGood (slice
      frame 16 32) = true) ∧
    (∃ (s : State) (port channel seq : Nat), (s.port port).carries = true ∧ (s.port port).holds channel seq = false) ∧
    (∃ (s : State) (port channel seq : Nat), (s.port port).carries = true ∧ (s.port port).holds channel seq = true ∧ ((s.port
      port).before channel seq ≠ [] ∨ (s.port port).refused.getD channel 0 < 15)) ∧
    (∃ (s : State) (port channel seq : Nat), (s.port port).carries = true ∧ (s.port port).holds channel seq = true ∧ (s.port
      port).before channel seq = [] ∧ 15 ≤ (s.port port).refused.getD channel 0) ∧
    (∃ (s : State) (port : Nat), port < s.ports.length) ∧
    (∃ (s : State), ∃ (port channel : Nat), ∃ n, port < s.ports.length ∧ (s.port port).holds channel n = true) ∧
    (∃ (s : State) (port lane i : Nat), (s.port port).carries = true ∧ (s.port port).rxInUse.getLsbD lane = true ∧ (s.port
      port).spareFree = true ∧ ((healthyLanes (s.port port).rxFailed).find? fun i => !(s.port port).rxInUse.getLsbD i) = some i) ∧
    (∃ (s : State) (port lane i : Nat), (s.port port).carries = true ∧ (s.port port).txInUse.getLsbD lane = true ∧ (s.port
      port).txSpareFree = true ∧ ((healthyLanes (s.port port).txFailed).find? fun i => !(s.port port).txInUse.getLsbD i) = some
      i) ∧
    (∃ (s : State) (port lane : Nat), (s.port port).carries = true ∧ (s.port port).rxInUse.getLsbD lane = true ∧ (s.port
      port).spareFree = false) ∧
    (∃ (s : State) (port width t : Nat), (s.port port).st = .training ∧ (s.at t).now ≤ (s.port port).trainAt + 100 *
      Config.ticksPerMs ∧ (s.port port).canTrain width = true) ∧
    (∃ (s : State) (port t : Nat), (s.port port).st = .training ∧ (s.port port).trainAt + 100 * Config.ticksPerMs ≤ (s.at
      t).now) ∧
    (∃ (s : State) (port t : Nat), (s.port port).st = .training ∧ (s.at t).now < (s.port port).trainAt + 100 *
      Config.ticksPerMs) ∧
    (∃ (s : State) (port : Nat), port < s.ports.length) ∧
    (∃ (s : State) (port width : Nat), port < s.ports.length ∧ s.portOn port = true ∧ ((s.port port).st = .dark ∨ (s.port
      port).st = .down) ∧ (s.port port).canTrain width = true ∧ (s.ao.stage = .serving ∨ s.ao.stage = .waitBme) ∧ s.pwr.st ≠
      .calm) ∧
    (∃ (s : State) (port : Nat) (h : Hello), (s.port port).carries = true ∧ h.node = s.nodeId) ∧
    (∃ (s : State) (port : Nat) (h : Hello), (s.port port).carries = true ∧ h.node ≠ s.nodeId) ∧
    (∃ (s : State) (dest t : Nat), (∀ z ∈ s.sched.heldFrames, z.2.dest = dest → (s.at t).now < z.1 + Config.ticksPerS)) ∧
    (∃ (s : State) (pool t : Nat) (p : Pool), s.pool? pool = some p ∧ p.live = true ∧ s.pins.bme = true ∧ p.lastProbe + 100 *
      Config.ticksPerMs ≤ (s.at t).now) ∧
    (∃ (s : State) (pool t : Nat) (p : Pool), s.pool? pool = some p ∧ p.live = true ∧ (s.at t).now < p.lastProbe + 100 *
      Config.ticksPerMs) ∧
    (∃ (s : State) (pool : Nat) (p : Pool), s.pool? pool = some p ∧ p.live = true ∧ s.pins.bme = true) ∧
    (∃ (s : State), ∃ (pool : Nat), ∃ (p : Pool), ∃ r sp answers got due gone, s.pool? pool = some p ∧ p.live = true ∧
      s.pins.bme = true ∧ s.req? r.num = some r ∧ r.body = .search sp answers got due ∧ gone = (got.filter fun a => a.node ==
      s.nodeId && a.pools.contains pool).flatMap (fun a => a.shards.map (·.1))) ∧
    (∃ (s : State), ∃ (pool : Nat), ∃ (p : Pool), ∃ r sp answers got due, s.pool? pool = some p ∧ p.live = true ∧ s.pins.bme =
      true ∧ s.req? r.num = some r ∧ r.body = .search sp answers got due ∧ r.merge.pool = some pool ∧ sp.retryAllowed = false) ∧
    (∃ (s : State) (pool : Nat) (p : Pool), s.pool? pool = some p ∧ p.live = true ∧ s.pins.bme = false) ∧
    (∃ (s : State) (pool : Nat) (p : Pool), s.pool? pool = some p ∧ p.live = true) ∧
    (∃ (s : State), ∃ (pool : Nat), ∃ (p : Pool), ∃ short now, now = (if p.kind = 0 then decide (20 * (p.cap - p.used) < p.cap)
      else short) ∧ s.pool? pool = some p ∧ p.live = true ∧ now ≠ p.short) ∧
    (∃ (s : State), ∃ (pool : Nat), ∃ (p : Pool), ∃ short, s.pool? pool = some p ∧ p.live = true ∧ (if p.kind = 0 then decide
      (20 * (p.cap - p.used) < p.cap) else short) = p.short) :=
  ⟨⟨onPort .down, 0, wire 1, frameHead (wire 1), 0, 0, by decide +kernel⟩,
   ⟨onPort .up, 0, 0xFF :: (wire 1).drop 1, frameHead (0xFF :: (wire 1).drop 1), 0, 0, by decide +kernel⟩,
   ⟨node.modPort 0 (fun q => { q with st := .up, rxSeq := [1, 0, 0, 0] }), 0, wire 1, frameHead (wire 1), 0, 1,
     by decide +kernel⟩,
   ⟨onPort .up, 0, wire 0x1F, frameHead (wire 0x1F), 0, 0, by decide +kernel⟩,
   ⟨onPort .up, 0, wire 1, frameHead (wire 1), 0, 0, by decide +kernel⟩,
   ⟨onPort .up, 0, 1, 0, by decide +kernel⟩,
   ⟨node.modPort 0 (fun q => { q with st := .up, retry := [{ frame (.compress 0 true) with channel := 1 }] }), 0, 1, 0,
     by decide +kernel⟩,
   ⟨node.modPort 0 (fun q =>
     { q with st := .up, retry := [{ frame (.compress 0 true) with channel := 1 }], refused := [0, 15, 0, 0] }), 0, 1, 0,
     by decide +kernel⟩,
   ⟨node, 7, by decide +kernel⟩,
   ⟨node.modPort 0 (fun q => { q with st := .up, retry := [{ frame (.compress 0 true) with channel := 1 }] }), 0, 1, 0,
     by decide +kernel⟩,
   ⟨onPort .up, 0, 7, 8, by decide +kernel⟩,
   ⟨onPort .up, 0, 7, 8, by decide +kernel⟩,
   ⟨node.modPort 0 (fun q => { q with st := .up, spareFree := false }), 0, 7, by decide +kernel⟩,
   ⟨onPort .training, 0, 8, 2000, by decide +kernel⟩,
   ⟨onPort .training, 0, 2500000, by decide +kernel⟩,
   ⟨onPort .training, 0, 2000, by decide +kernel⟩,
   ⟨node, 7, by decide +kernel⟩,
   ⟨node, 7, 8, by decide +kernel⟩,
   ⟨onPort .up, 0, ⟨15, 1, false, 5⟩, by decide +kernel⟩,
   ⟨onPort .up, 0, ⟨3, 1, false, 5⟩, by decide +kernel⟩,
   ⟨framesHeld, 3, 2000, by decide +kernel⟩,
   ⟨{ node with pools := [pool] }, 1, 2500000, pool, by decide +kernel⟩,
   ⟨{ node with pools := [pool] }, 1, 2000, pool, by decide +kernel⟩,
   ⟨{ node with pools := [pool] }, 1, pool, by decide +kernel⟩,
   ⟨posing ({ node with pools := [pool] })
     ({ searching params 500 with body := .search params [(sid, .failed 0 0)] [{ answer [(sid, .failed 0 0)] with pools := [1] }] 500 }),
     1, pool,
     { searching params 500 with body := .search params [(sid, .failed 0 0)] [{ answer [(sid, .failed 0 0)] with pools := [1] }] 500 },
     params, [(sid, .failed 0 0)], [{ answer [(sid, .failed 0 0)] with pools := [1] }], 500, [sid], by decide +kernel⟩,
   ⟨posing ({ node with pools := [pool] }) ({ searching params 500 with merge := { t3 := 5, pool := some 1 } }), 1, pool,
     { searching params 500 with merge := { t3 := 5, pool := some 1 } }, params, [], [], 500, by decide +kernel⟩,
   ⟨{ { node with pools := [pool] } with pins := { node.pins with bme := false } }, 1, pool, by decide +kernel⟩,
   ⟨{ node with pools := [pool] }, 1, pool, by decide +kernel⟩,
   ⟨{ node with pools := [{ pool with used := 2 ^ 40 }] }, 1, { pool with used := 2 ^ 40 }, false, _, rfl, by decide +kernel⟩,
   ⟨{ node with pools := [pool] }, 1, pool, true, by decide +kernel⟩⟩

theorem witness_Sideband :
    (∃ (s : State), s.targetUp = true ∧ s.pins.i3cAddr = none) ∧
    (∃ (s : State), ∃ a, s.targetUp = true ∧ s.pins.i3cAddr = none ∧ a ≠ 0x30 + s.pins.slotId % 16) ∧
    (∃ (s : State), s.targetUp = true ∧ s.pins.i3cAddr ≠ none) ∧
    (∃ (s : State), s.targetUp = true ∧ s.pins.i3cAddr ≠ none) ∧
    (∃ (s : State), ∃ eid, s.endpointUp = true ∧ 8 ≤ eid ∧ eid ≤ 254) ∧
    (∃ (s : State), ∃ eid, s.endpointUp = true ∧ (eid < 8 ∨ 254 < eid)) ∧
    (∃ (s : State), s.endpointUp = true) ∧
    (∃ (s : State), ∃ n v, s.endpointUp = true ∧ s.sensorReading n = some v) ∧
    (∃ (s : State), s.endpointUp = true ∧ s.pins.platform = []) ∧
    (∃ (s : State), ∃ e l, s.endpointUp = true ∧ s.pins.platform = e :: l) ∧
    (∃ (s : State), s.endpointUp = false) ∧
    (∃ (s : State), s.endpointUp = true ∧ s.alive = true ∧ (s.mbox 128).st = .idle ∧ 128 < s.mboxes.length) ∧
    (∃ (s : State), s.endpointUp = true ∧ s.alive = true ∧ (s.mbox 128).st ≠ .idle) ∧
    (∃ (s : State), (s.endpointUp = false ∨ s.alive = false)) :=
  ⟨⟨node, by decide +kernel⟩,
   ⟨node, 1, by decide +kernel⟩,
   ⟨managed, by decide +kernel⟩,
   ⟨managed, by decide +kernel⟩,
   ⟨managed, 8, by decide +kernel⟩,
   ⟨managed, 7, by decide +kernel⟩,
   ⟨managed, by decide +kernel⟩,
   ⟨managed, 1, 0, by decide +kernel⟩,
   ⟨managed, by decide +kernel⟩,
   ⟨{ managed with pins := { managed.pins with platform := [(1, 2)] } }, (1, 2), [], by decide +kernel⟩,
   ⟨node, by decide +kernel⟩,
   ⟨managed, by decide +kernel⟩,
   ⟨managed.modMbox 128 (fun m => { m with st := .busy }), by decide +kernel⟩,
   ⟨node, by decide +kernel⟩⟩

end Sys2Proof.Tests
end

-- ==== Proofs: shared rules ====
section
/-! SUPPORT. One rule for each operation that the rows of the node at work share: an accepted data command reaches its body, a
completion writes its entry, what is sent is on its way and nothing else changes, a request at an arbiter waits there. -/

namespace Sys2Proof.Machine

open Sys2Proof

/-! ### What an update makes of the record it names -/

@[simp] theorem State.emit_out (s : State) (o : Output) : (s.emit o).out = s.out ++ [o] := rfl
@[simp] theorem State.modSched_sched (s : State) (f : Sched → Sched) : (s.modSched f).sched = f s.sched := rfl
@[simp] theorem State.modEng_eng (s : State) (f : Engine → Engine) : (s.modEng f).eng = f s.eng := rfl
@[simp] theorem State.modTier_tier (s : State) (f : Tier → Tier) : (s.modTier f).tier = f s.tier := rfl

/-! ### Folds over the state -/

theorem foldl_head_keeps {σ α : Type} {R : σ → σ → Prop} (refl : ∀ s, R s s) (trans : ∀ s x y, R s x → R x y → R s y)
    {f : σ → α → σ} (h : ∀ s a, R s (f s a)) : ∀ (l : List α) (s : σ), R s (l.foldl f s)
  | [], s => refl s
  | a :: l, s => trans s (f s a) _ (h s a) (foldl_head_keeps refl trans h l (f s a))

/-- What each step of a fold brings about is there at its end, where the steps after it keep it. -/
theorem foldl_brings {σ α : Type} {R : σ → σ → Prop} (refl : ∀ s, R s s) (trans : ∀ s x y, R s x → R x y → R s y)
    {f : σ → α → σ} (h : ∀ s a, R s (f s a)) {P : α → σ → Prop} (s₀ : σ) (brings : ∀ s a, R s₀ s → P a (f s a))
    (keeps : ∀ s x a, R s x → P a s → P a x) : ∀ (l : List α) (s : σ), R s₀ s → ∀ a ∈ l, P a (l.foldl f s)
  | [], _, _, _, ha => absurd ha (List.not_mem_nil)
  | b :: l, s, hs, a, ha => by
    have hb := trans s₀ s (f s b) hs (h s b)
    rcases List.mem_cons.mp ha with rfl | ha
    · exact keeps (f s a) _ a (foldl_head_keeps refl trans h l (f s a)) (brings s a hs)
    · exact foldl_brings refl trans h s₀ brings keeps l (f s b) hb a ha

/-! ### Data commands (R132) -/

theorem lowestBad_eq_none {b : Bytes} {ranges : List (Nat × Nat)} {checks : List (Nat × Bool)}
    (hr : firstReserved b ranges = none) (hc : ∀ c ∈ checks, c.2 = true) : lowestBad b ranges checks = none := by
  have : checks.filter (fun x => !x.2) = [] := by
    simp only [List.filter_eq_nil_iff]
    intro c h; simp [hc c h]
  simp [lowestBad, hr, this]

theorem lowestBad_of_reserved {b : Bytes} {ranges : List (Nat × Nat)} (checks : List (Nat × Bool))
    (hr : firstReserved b ranges ≠ none) : ∃ d, lowestBad b ranges checks = some d := by
  obtain ⟨o, ho⟩ := Option.ne_none_iff_exists'.mp hr
  exact ⟨_, by simp only [lowestBad, ho, Option.toList_some, List.singleton_append]; rfl⟩

theorem Accepted.at {s : State} {num op : Nat} {io : HostIO} {ranges : List (Nat × Nat)} {rule : CollRule} {right : Option Nat}
    {need : Nat} {r : Req} (h : Accepted s num op io ranges rule right need r) (t : Nat) :
    Accepted (s.at t) num op io ranges rule right need r := h

/-- An accepted data command with its own checks in order is carried out by its body (R132). -/
theorem State.dataCommit_accepted {s : State} {num op : Nat} {io : HostIO} {ranges : List (Nat × Nat)} {rule : CollRule}
    {right : Option Nat} {need : Nat} {r : Req} (h : Accepted s num op io ranges rule right need r) {checks : List (Nat × Bool)}
    (hc : ∀ c ∈ checks, c.2 = true) (body : State → Req → Bytes → State) :
    s.dataCommit num op io ranges checks rule right need body = body s r (slice (io.input.getD []) 0 (le r.entry 24 4)) := by
  obtain ⟨hr, hop, hb, hrule, hres, hck, hright, hin, hneed, hcoll⟩ := h
  have hbad : lowestBad r.entry (entryRanges ++ ranges) (entryChecks r.entry ++ checks ++ [(4, rule.good r)]) = none := by
    refine lowestBad_eq_none hres fun c hm => ?_
    simp only [List.append_assoc, List.mem_append, List.mem_singleton] at hm
    rcases hm with h1 | h1 | rfl
    · exact hck c h1
    · exact hc c h1
    · exact hrule
  simp only [State.dataCommit, hr, Option.filter_some, hop, hb, beq_self_eq_true, Bool.and_self, if_true, hbad]
  rw [if_neg, if_neg, if_neg]
  · cases hcl : s.coll? r.collection with
    | none => simp
    | some c => rcases hcoll c hcl with h1 | h1 <;> simp [h1]
  · rcases hin with h1 | h1
    · obtain ⟨b, hb⟩ := Option.ne_none_iff_exists'.mp h1
      simp [hb, hneed]
    · simp [h1, hneed]
  · cases right with
    | none => simp
    | some b => simp [hright b rfl]

/-! ### Completions (R135 to R142) -/

theorem State.release_frame (s : State) (f : Nat) (k : QKind) (n : Nat) :
    s.release f k n = { s with fns := (s.release f k n).fns } := rfl

theorem State.releaseMerge_frame (s : State) (r : Req) :
    s.releaseMerge r = { s with fns := (s.releaseMerge r).fns, pools := (s.releaseMerge r).pools } := by
  unfold State.releaseMerge; dsimp only; split <;> rfl

theorem State.releaseMerge_pools {s : State} {r : Req} (h : r.merge.pool = none) : (s.releaseMerge r).pools = s.pools := by
  unfold State.releaseMerge; simp only [h]; rfl

/-- A message that is due changes function records and what has left the node (R453 to R455). -/
theorem State.dueVec_frame (s : State) (f v : Nat) (c : Bool) :
    s.dueVec f v c = { s with fns := (s.dueVec f v c).fns, out := (s.dueVec f v c).out } := (State.dueVec_only s f v c).1

theorem State.requestMsg_frame (s : State) (q : Nat) :
    s.requestMsg q = { s with queues := (s.requestMsg q).queues, fns := (s.requestMsg q).fns, out := (s.requestMsg q).out } := by
  unfold State.requestMsg
  split
  · rfl
  · dsimp only
    split
    · rw [State.dueVec_frame]; rfl
    · rfl

theorem State.signalCompletion_frame (s : State) (q : Nat) :
    s.signalCompletion q =
      { s with queues := (s.signalCompletion q).queues, fns := (s.signalCompletion q).fns, out := (s.signalCompletion q).out } := by
  unfold State.signalCompletion
  dsimp only
  split
  · rfl
  · split
    · rw [State.requestMsg_frame]; rfl
    · rfl

theorem State.sendVec_out (s : State) (f v : Nat) : s.out ⊆ (s.sendVec f v).out := by
  simp [State.sendVec]

theorem State.sendCeiling_out (s : State) (f v : Nat) : s.out ⊆ (s.sendCeiling f v).out := by
  unfold State.sendCeiling
  dsimp only
  split
  · split
    · simp
    · split
      · simp
      · exact State.sendVec_out ((s.modFn f _).modFn f _) f v
  · exact State.sendVec_out (s.modFn f _) f v

/-- What has left the node stays so when a message is due. -/
theorem State.dueVec_out (s : State) (f v : Nat) (c : Bool) : s.out ⊆ (s.dueVec f v c).out := by
  unfold State.dueVec
  dsimp only
  split
  · simp
  · split
    · simp
    · split
      · simp
      · split
        · exact State.sendCeiling_out s f v
        · exact State.sendVec_out s f v

theorem State.modQueue_queue_ne {s : State} {q j : Nat} {f : Queue → Queue} (h : j ≠ q) (hf : ∀ u, (f u).num = u.num) :
    (s.modQueue q f).queue? j = s.queue? j :=
  find?_modWhere_ne _ _ _ _ (by intro x hx; simp_all [Ne.symm h]) (by intro x hx; simp_all [Ne.symm h])

theorem State.dueVec_queue (s : State) (f v : Nat) (c : Bool) (q : Nat) : (s.dueVec f v c).queue? q = s.queue? q := by
  rw [State.dueVec_frame]; rfl

theorem State.requestMsg_spec (s : State) (q : Nat) :
    s.out ⊆ (s.requestMsg q).out ∧ ∀ j, j ≠ q → (s.requestMsg q).queue? j = s.queue? j := by
  unfold State.requestMsg
  split
  · exact ⟨by simp, fun _ _ => rfl⟩
  · dsimp only
    split
    · exact ⟨State.dueVec_out (s.modQueue q _) _ _ _, fun j hj => (State.dueVec_queue _ _ _ _ j).trans
        (State.modQueue_queue_ne hj fun _ => rfl)⟩
    · exact ⟨by simp, fun j hj => State.modQueue_queue_ne hj fun _ => rfl⟩

theorem State.signalCompletion_spec (s : State) (q : Nat) :
    s.out ⊆ (s.signalCompletion q).out ∧ ∀ j, j ≠ q → (s.signalCompletion q).queue? j = s.queue? j := by
  unfold State.signalCompletion
  dsimp only
  split
  · exact ⟨by simp, fun j hj => State.modQueue_queue_ne hj fun _ => rfl⟩
  · split
    · obtain ⟨ho, hq⟩ := State.requestMsg_spec (s.modQueue q _) q
      exact ⟨ho, fun j hj => (hq j hj).trans (State.modQueue_queue_ne hj fun _ => rfl)⟩
    · exact ⟨by simp, fun j hj => State.modQueue_queue_ne hj fun _ => rfl⟩

theorem State.queueError_frame (s : State) (q cause : Nat) :
    s.queueError q cause = { s with queues := (s.queueError q cause).queues, fns := (s.queueError q cause).fns } := by
  unfold State.queueError
  split
  · rfl
  · split <;> rfl

theorem State.writeCompletion_frame (s : State) (q cmd : Nat) (c : Compl) (detail n : Nat) (ok : Bool) :
    s.writeCompletion q cmd c detail n ok =
      { s with queues := (s.writeCompletion q cmd c detail n ok).queues, fns := (s.writeCompletion q cmd c detail n ok).fns,
               out := (s.writeCompletion q cmd c detail n ok).out, pins := (s.writeCompletion q cmd c detail n ok).pins } := by
  unfold State.writeCompletion
  split
  · rfl
  · split
    · rfl
    · split
      · rw [State.wakeSignal_frame, State.signalCompletion_frame]; rfl
      · rw [State.queueError_frame]; rfl

/-- An entry that the host takes is written, on its own queue and no other (R135, R136). -/
theorem State.writeCompletion_spec (s : State) (q cmd : Nat) (c : Compl) (detail n : Nat) :
    s.out ⊆ (s.writeCompletion q cmd c detail n true).out ∧
      (∀ j, j ≠ q → (s.writeCompletion q cmd c detail n true).queue? j = s.queue? j) ∧
      ∀ u, s.queue? q = some u → u.stopped = false →
        .completion u.fn q (u.cqAddr + 32 * u.cqTail) (completionEntry u cmd c detail n) ∈
          (s.writeCompletion q cmd c detail n true).out := by
  unfold State.writeCompletion
  cases hq : s.queue? q with
  | none => exact ⟨by simp, fun _ _ => rfl, by simp⟩
  | some u =>
    dsimp only
    split
    · rename_i hs
      exact ⟨by simp, fun j hj => State.modQueue_queue_ne hj fun _ => rfl, by simp [hs]⟩
    · rw [if_pos rfl, State.wakeSignal_frame]
      obtain ⟨ho, hj⟩ := State.signalCompletion_spec
        ((s.emit (.completion u.fn q (u.cqAddr + 32 * u.cqTail) (completionEntry u cmd c detail n))).modQueue q Queue.advance) q
      refine ⟨fun o h => ho (by simp [h]), fun j h => (hj j h).trans (State.modQueue_queue_ne h fun _ => rfl), ?_⟩
      rintro v hv -
      obtain rfl : u = v := Option.some.inj hv
      exact ho (by simp)

/-- The state in which a request's entry is written: it is outstanding no more, its merge's space is back, its output is out. -/
def State.readyToWrite (s : State) (r : Req) (c : Compl) (io : HostIO) : State :=
  let y := { s with reqs := s.reqs.filter (·.num != r.num) }.releaseMerge r
  if 0 < c.dataReturned && io.outOk && (y.queue? r.queue).isSome then y.emit (.hostWrite r.fn (le r.entry 32 8) c.data) else y

theorem State.readyToWrite_frame (s : State) (r : Req) (c : Compl) (io : HostIO) :
    s.readyToWrite r c io = { s with reqs := s.reqs.filter (·.num != r.num), fns := (s.readyToWrite r c io).fns,
                                     pools := (s.readyToWrite r c io).pools, out := (s.readyToWrite r c io).out } := by
  unfold State.readyToWrite
  dsimp only
  split
  · rw [State.releaseMerge_frame]; rfl
  · rw [State.releaseMerge_frame]

/-- A host that takes the output data and the entry gets them as they are (R132, R138). -/
theorem State.complete_taken {s : State} {r : Req} {c : Compl} {io : HostIO} (h : HostTakes io) :
    s.complete r c io = (s.readyToWrite r c io).writeCompletion r.queue r.cmdId c c.detail c.dataReturned true := by
  obtain ⟨ho, hc⟩ := h
  simp [State.complete, State.readyToWrite, ho, hc]

theorem State.complete_completedWith {s : State} {r : Req} {c : Compl} {io : HostIO} (h : HostTakes io) :
    CompletedWith s (s.complete r c io) r c := by
  rw [State.complete_taken h]
  obtain ⟨hout, -, hent⟩ := State.writeCompletion_spec (s.readyToWrite r c io) r.queue r.cmdId c c.detail c.dataReturned
  have hf := State.readyToWrite_frame s r c io
  refine ⟨?_, fun u hu hs => ⟨hent u ?_ hs, fun hd => hout ?_⟩⟩
  · rw [State.writeCompletion_frame, hf]
  · rw [hf]; exact hu
  · have hq : (({ s with reqs := s.reqs.filter (·.num != r.num) }.releaseMerge r).queue? r.queue).isSome = true := by
      rw [State.releaseMerge_frame]; exact Option.isSome_of_eq_some hu
    simp [State.readyToWrite, hd, h.1, hq]

theorem State.complete_only {s : State} {r : Req} {c : Compl} {io : HostIO} (h : HostTakes io) :
    OnlyCompleted s (s.complete r c io) r := by
  rw [State.complete_taken h]
  obtain ⟨-, hq, -⟩ := State.writeCompletion_spec (s.readyToWrite r c io) r.queue r.cmdId c c.detail c.dataReturned
  have hf := State.readyToWrite_frame s r c io
  refine ⟨?_, fun hm => ?_, fun q hne => (hq q hne).trans ?_⟩
  · rw [State.writeCompletion_frame, hf]
  · rw [State.writeCompletion_frame]
    have := State.releaseMerge_pools (s := { s with reqs := s.reqs.filter (·.num != r.num) }) hm
    unfold State.readyToWrite
    dsimp only
    split <;> exact this
  · rw [hf]; rfl

theorem OnlyCompleted.shards_eq {y x : State} {r : Req} (h : OnlyCompleted y x r) : x.shards = y.shards := by rw [h.1]

/-- A completion reads the requests and the queues of the state it is made in, and nothing else of it. -/
theorem CompletedWith.of_eq {s s' x : State} {r : Req} {c : Compl} (h : CompletedWith s' x r c) (hr : s'.reqs = s.reqs)
    (hq : s'.queues = s.queues) : CompletedWith s x r c := by
  obtain ⟨h1, h2⟩ := h
  exact ⟨hr ▸ h1, fun u hu => h2 u (by simpa [State.queue?, hq] using hu)⟩

/-! ### Sending (R29, R47, R480) -/

/-- `x` is `s` but for frames and internal messages that have been added since, and the request numbers and free values they took. -/
structure Sent (s x : State) : Prop where
  frame : x = { s with
    sched := { s.sched with egress := x.sched.egress, heldFrames := x.sched.heldFrames }, free := x.free, nextNum := x.nextNum,
    eng := { s.eng with inShares := x.eng.inShares, inMembers := x.eng.inMembers, inOutcomes := x.eng.inOutcomes,
                        inAnswers := x.eng.inAnswers } }
  egress : s.sched.egress ⊆ x.sched.egress
  held : s.sched.heldFrames ⊆ x.sched.heldFrames
  shares : s.eng.inShares ⊆ x.eng.inShares
  members : s.eng.inMembers ⊆ x.eng.inMembers
  outcomes : s.eng.inOutcomes ⊆ x.eng.inOutcomes
  answers : s.eng.inAnswers ⊆ x.eng.inAnswers

theorem Sent.refl (s : State) : Sent s s := by
  constructor <;> simp

theorem Sent.trans (s x y : State) (h : Sent s x) (k : Sent x y) : Sent s y where
  frame := by rw [k.frame, h.frame]
  egress := List.Subset.trans h.egress k.egress
  held := List.Subset.trans h.held k.held
  shares := List.Subset.trans h.shares k.shares
  members := List.Subset.trans h.members k.members
  outcomes := List.Subset.trans h.outcomes k.outcomes
  answers := List.Subset.trans h.answers k.answers

/-- Sending for each of some things, one after the other. -/
theorem Sent.foldl {α : Type} {f : State → α → State} (h : ∀ s a, Sent s (f s a)) (l : List α) (s : State) : Sent s (l.foldl f s) :=
  foldl_head_keeps Sent.refl Sent.trans h l s

section
variable {s x : State} (h : Sent s x)
include h

theorem Sent.shards_eq : x.shards = s.shards := by rw [h.frame]
theorem Sent.lists_eq : x.lists = s.lists := by rw [h.frame]
theorem Sent.fns_eq : x.fns = s.fns := by rw [h.frame]
theorem Sent.out_eq : x.out = s.out := by rw [h.frame]
theorem Sent.reqs_eq : x.reqs = s.reqs := by rw [h.frame]
theorem Sent.tier_eq : x.tier = s.tier := by rw [h.frame]
theorem Sent.arbs_eq : x.arbs = s.arbs := by rw [h.frame]
theorem Sent.colls_eq : x.colls = s.colls := by rw [h.frame]
theorem Sent.nodeId_eq : x.nodeId = s.nodeId := by rw [h.frame]; rfl

theorem FrameTo.sent {dest : Nat} {body : Msg} (hf : FrameTo s dest body) : FrameTo x dest body := by
  obtain ⟨f, hd, hb, hm⟩ := hf
  refine ⟨f, hd, hb, hm.imp (fun hm => ?_) fun hm => ?_⟩
  · exact List.map_subset _ h.egress hm
  · exact List.map_subset _ h.held hm

theorem AnswerLeaves.sent {node : Nat} {a : Answer} (ha : AnswerLeaves node s a) : AnswerLeaves node x a :=
  ⟨fun e => h.answers (ha.1 e), fun e => (ha.2 e).sent h⟩

theorem OutcomeLeaves.sent {node : Nat} {m : MemberMsg} {stamp status detail : Nat} (ho : OutcomeLeaves node s m stamp status detail) :
    OutcomeLeaves node x m stamp status detail :=
  ⟨fun e => h.outcomes (ho.1 e), fun e => (ho.2 e).sent h⟩

theorem MemberSent.sent {node : Nat} {c : Coll} {m : MemberMsg} (hm : MemberSent node c s m) : MemberSent node c x m :=
  fun o ho => ⟨fun e => h.members ((hm o ho).1 e), fun e => ((hm o ho).2 e).sent h⟩

end

theorem State.produce_sent (s : State) (dest : Nat) (tag : Tag) (q : Nat) (body : Msg) : Sent s (s.produce dest tag q body) := by
  unfold State.produce
  dsimp only
  split
  · exact ⟨rfl, by simp [State.takeFree], fun _ h => h, fun _ h => h, fun _ h => h, fun _ h => h, fun _ h => h⟩
  · exact ⟨rfl, fun _ h => h, by simp [State.takeFree], fun _ h => h, fun _ h => h, fun _ h => h, fun _ h => h⟩

theorem State.produce_frameTo (s : State) (dest : Nat) (tag : Tag) (q : Nat) (body : Msg) :
    FrameTo (s.produce dest tag q body) dest body := by
  unfold State.produce
  dsimp only
  split
  · exact ⟨_, rfl, rfl, Or.inl (List.mem_map_of_mem (List.mem_append_right _ (List.mem_singleton_self _)))⟩
  · exact ⟨_, rfl, rfl, Or.inr (List.mem_map_of_mem (List.mem_append_right _ (List.mem_singleton_self _)))⟩

theorem State.sendWork_sent (s : State) (t : Tag) (body : Msg) : Sent s (s.sendWork t body) := State.produce_sent ..

theorem State.sendWork_frameTo (s : State) (t : Tag) (body : Msg) : FrameTo (s.sendWork t body) t.ownerNode body :=
  State.produce_frameTo ..

theorem State.sendAnswer_sent (s : State) (m : ShareMsg) (a : Answer) : Sent s (s.sendAnswer m a) := by
  unfold State.sendAnswer
  dsimp only
  split
  · exact ⟨rfl, fun _ h => h, fun _ h => h, fun _ h => h, fun _ h => h, fun _ h => h, by simp⟩
  · exact State.sendWork_sent ..

theorem State.sendAnswer_leaves (s : State) (m : ShareMsg) {a : Answer} (h : a.key = m.key) :
    AnswerLeaves s.nodeId (s.sendAnswer m a) a := by
  unfold State.sendAnswer
  dsimp only
  split
  · rename_i ho
    exact ⟨fun _ => by simp, fun hn => absurd (h ▸ ho) hn⟩
  · rename_i ho
    exact ⟨fun hn => absurd (h ▸ hn) ho, fun _ => by rw [h]; exact State.sendWork_frameTo s _ _⟩

/-! ### Requests at arbiters (R55) -/

theorem State.modArb_waiting_keeps {s : State} {id : Nat} {f : Arb → Arb} (hf : ∀ a, (f a).id = a.id) {w : Work}
    (hw : ∀ a, a.waiting.any (·.work == w) = true → (f a).waiting.any (·.work == w) = true) {j : Nat} (h : Waits s j w) :
    Waits (s.modArb id f) j w := by
  unfold Waits at *
  by_cases hj : j = id
  · subst hj; rw [State.modArb_arb_same hf]; exact hw _ h
  · rw [State.modArb_arb_ne hj hf]; exact h

/-- A request at an arbiter takes no other request away. -/
theorem State.arbRequest_keeps_waits (s : State) (id n : Nat) (b rb : Bool) (v : Work) {j : Nat} {w : Work} (h : Waits s j w) :
    Waits (s.arbRequest id n b rb v) j w := by
  refine State.modArb_waiting_keeps (by intro a; split <;> rfl) (fun a ha => ?_) h
  split
  · exact ha
  · simpa using Or.inl (by simpa using ha)

/-- A request for a tile's tensor clusters changes arbiters and the unit that it wakes (R38, R39). -/
theorem State.needTensor_frame (s : State) (tile : Nat) (b rb : Bool) (w : Work) :
    s.needTensor tile b rb w =
      { s with arbs := (s.needTensor tile b rb w).arbs,
               pwr := { s.pwr with units := (s.needTensor tile b rb w).pwr.units } } := by
  unfold State.needTensor
  dsimp only
  split
  · unfold State.arbRequest; rw [State.modArb_frame]
  · rw [State.needUnit_frame]; unfold State.arbRequest; rw [State.modArb_frame]

theorem State.needUnit_keeps_waits (s : State) (u : UnitId) {j : Nat} {w : Work} (h : Waits s j w) : Waits (s.needUnit u) j w := by
  unfold State.needUnit
  split
  · exact State.arbRequest_keeps_waits (s.setUnit u .waiting) _ _ _ _ _ h
  · exact h

theorem State.needTensor_waits (s : State) (tile : Nat) (b rb : Bool) (w : Work) : Waits (s.needTensor tile b rb w) (tensorArb tile) w := by
  unfold State.needTensor
  dsimp only
  split
  · exact State.arbRequest_waits ..
  · exact State.needUnit_keeps_waits _ _ (State.arbRequest_waits ..)

theorem State.needTensor_keeps_waits (s : State) (tile : Nat) (b rb : Bool) (v : Work) {j : Nat} {w : Work} (h : Waits s j w) :
    Waits (s.needTensor tile b rb v) j w := by
  unfold State.needTensor
  dsimp only
  split
  · exact State.arbRequest_keeps_waits s _ _ _ _ _ h
  · exact State.needUnit_keeps_waits _ _ (State.arbRequest_keeps_waits s _ _ _ _ _ h)

end Sys2Proof.Machine
end

-- ==== Proofs: FLUSH ====
section
/-! SUPPORT. FLUSH, FLUSH_DONE and the windows of the background ceilings (R40, R434, R435). -/

namespace Sys2Proof.Machine

open Sys2Proof

/-! ### Leaving and joining ledger arbiters (R55, R65) -/

theorem State.modReq_req {s : State} {n : Nat} {f : Req → Req} (hf : ∀ r, (f r).num = r.num) :
    (s.modReq n f).req? n = (s.req? n).map f :=
  find?_modWhere _ _ _ (by simp [hf])

theorem find?_modWhere_keeps {α : Type} {l : List α} {p q : α → Bool} {f : α → α} (hf : ∀ x, q (f x) = q x) :
    (modWhere l p f).find? q = (l.find? q).map fun x => if p x then f x else x := by
  induction l with
  | nil => rfl
  | cons x l ih =>
    have hx : q (if p x then f x else x) = q x := by split <;> simp [hf]
    simp only [modWhere, List.map_cons, List.find?_cons, hx] at ih ⊢
    cases q x <;> simp_all

/-- A change of some shards that keeps their identifiers, read back. -/
theorem State.shard?_modWhere {s x : State} {p : Shard → Bool} {f : Shard → Shard} (hx : x.shards = modWhere s.shards p f)
    (hf : ∀ d, (f d).id = d.id) (i : Nat) : x.shard? i = (s.shard? i).map fun d => if p d then f d else d := by
  unfold State.shard?; rw [hx]; exact find?_modWhere_keeps (by simp [hf])

theorem State.modShard_shard? (s : State) (j : Nat) {f : Shard → Shard} (hf : ∀ d, (f d).id = d.id) (i : Nat) :
    (s.modShard j f).shard? i = (s.shard? i).map fun d => if d.id == j then f d else d :=
  State.shard?_modWhere rfl hf i

theorem State.shard?_id {s : State} {i : Nat} {d : Shard} (h : s.shard? i = some d) : d.id = i := by
  simpa using List.find?_some h

theorem State.shard?_mem {s : State} {i : Nat} {d : Shard} (h : s.shard? i = some d) : d ∈ s.shards := List.mem_of_find?_eq_some h

/-- A shard without who waits at its ledger arbiter. -/
def Shard.noWait (d : Shard) : Shard := { d with waiting := [] }

/-- The shard of an identifier, without who waits at its ledger arbiter. -/
def State.shardNoWait? (s : State) (i : Nat) : Option Shard := (s.shard? i).map Shard.noWait

theorem ShardsButWaiting.of_noWait {s x : State} (h : x.shardNoWait? = s.shardNoWait?) : ShardsButWaiting s x := by
  intro i d hd
  have hi : (x.shard? i).map Shard.noWait = (s.shard? i).map Shard.noWait := congrFun h i
  rw [hd] at hi
  obtain ⟨e, he, hn⟩ := Option.map_eq_some_iff.mp hi
  exact ⟨e, he, by cases d; cases e; simpa [Shard.noWait] using hn⟩

theorem State.shardNoWait?_congr {s x : State} (h : x.shards = s.shards) : x.shardNoWait? = s.shardNoWait? := by
  funext i; simp [State.shardNoWait?, State.shard?, h]

theorem State.modShard_noWait (s : State) (j : Nat) {f : Shard → Shard} (hf : ∀ d, (f d).noWait = d.noWait) :
    (s.modShard j f).shardNoWait? = s.shardNoWait? := by
  have hid : ∀ d, (f d).id = d.id := fun d => show (f d).noWait.id = d.noWait.id by rw [hf]
  funext i
  simp only [State.shardNoWait?, State.modShard_shard? s j hid, Option.map_map]
  congr 1; funext d; simp only [Function.comp]; split <;> simp [hf]

theorem State.leaveLedger_noWait (s : State) (w : LedgerWhat) (i : Nat) : (s.leaveLedger w i).shardNoWait? = s.shardNoWait? := by
  unfold State.leaveLedger
  split
  · rfl
  · refine (State.shardNoWait?_congr ?_).trans (State.modShard_noWait s i (f := fun d => { d with waiting := d.waiting.filter (·.2 != w) })
      fun d => rfl)
    unfold State.countLedger; rw [State.modArb_frame]

theorem State.joinLedger_noWait (s : State) (w : LedgerWhat) (i : Nat) : (s.joinLedger w i).shardNoWait? = s.shardNoWait? :=
  State.modShard_noWait s i (by intro d; split <;> rfl)

/-- Leaving the ledger arbiters of some shards changes who waits there, and the arbiters' counters. -/
theorem State.leaveLedgers_noWait (s : State) (w : LedgerWhat) (l : List Nat) :
    (l.foldl (State.leaveLedger · w) s).shardNoWait? = s.shardNoWait? :=
  foldl_keeps State.shardNoWait? (State.leaveLedger · w) (fun s i => State.leaveLedger_noWait s w i) l s

theorem State.leaveLedgers_frame (s : State) (w : LedgerWhat) (l : List Nat) :
    l.foldl (State.leaveLedger · w) s =
      { s with shards := (l.foldl (State.leaveLedger · w) s).shards, arbs := (l.foldl (State.leaveLedger · w) s).arbs } := by
  have k := foldl_keeps (fun s : State => ({ s with shards := [], arbs := [] } : State)) (State.leaveLedger · w)
    (fun s i => by rw [State.leaveLedger_frame]) l s
  generalize l.foldl (State.leaveLedger · w) s = x at k ⊢
  cases s; cases x; simpa using k

theorem State.joinLedger_shard? (s : State) (w : LedgerWhat) (j i : Nat) :
    (s.joinLedger w j).shard? i = (s.shard? i).map fun d =>
      if d.id == j then (if d.waiting.any (·.2 == w) then d else { d with waiting := d.waiting ++ [(s.now, w)] }) else d :=
  State.modShard_shard? s j (fun d => by split <;> rfl) i

/-- One that joins a ledger arbiter waits there, and so does whatever it asked before. -/
theorem State.joinLedger_waits (s : State) (w : LedgerWhat) (j i : Nat) (h : i = j ∨ LedgerWaits s [i] w) :
    LedgerWaits (s.joinLedger w j) [i] w := by
  intro k hk e he
  obtain rfl := List.mem_singleton.mp hk
  rw [State.joinLedger_shard?] at he
  obtain ⟨d, hd, rfl⟩ := Option.map_eq_some_iff.mp he
  have hid := State.shard?_id hd
  rcases h with rfl | h
  · by_cases hw : d.waiting.any (·.2 == w) = true
    · simp [hid, hw]
    · simp [hid, hw]
  · have hw := h k hk d hd
    simp [hw]

/-- What waits for its turn at some ledger arbiters waits at each of them, and nothing else has changed. -/
theorem State.passLedgers_waitsAt {s : State} {l : List Nat} {w : LedgerWhat} (h : ¬ LedgerTurn s l w) (go : State → State) :
    s.passLedgers l w go = { s with shards := (s.passLedgers l w go).shards } ∧ ShardsButWaiting s (s.passLedgers l w go) ∧
      LedgerWaits (s.passLedgers l w go) l w := by
  obtain ⟨i, hi, d, hd, ht⟩ : ∃ i ∈ l, ∃ d, s.shard? i = some d ∧ d.turn w = false := by
    simpa [LedgerTurn] using h
  have e : s.passLedgers l w go = l.foldl (State.joinLedger · w) s := by
    have : (l.all fun i => (s.shard? i).all (·.turn w)) = false := by
      simp only [List.all_eq_false, Bool.not_eq_true]
      exact ⟨i, hi, by simp [hd, ht]⟩
    simp [State.passLedgers, this]
  refine ⟨State.passLedgers_waits hi hd ht go, ?_, ?_⟩
  · rw [e]
    exact .of_noWait (foldl_keeps State.shardNoWait? (State.joinLedger · w) (fun s i => State.joinLedger_noWait s w i) l s)
  · rw [e]
    intro j hj e he
    exact foldl_brings (R := fun s x => ∀ i, LedgerWaits s [i] w → LedgerWaits x [i] w) (P := fun j x => LedgerWaits x [j] w)
      (fun _ _ h => h) (fun _ _ _ h k i hi => k i (h i hi)) (fun s a i hi => State.joinLedger_waits s w a i (Or.inr hi)) s
      (fun s a _ => State.joinLedger_waits s w a a (Or.inl rfl)) (fun _ _ a h ha => h a ha) l s (fun _ h => h) j hj j
      (List.mem_singleton_self j) e he

/-! ### FLUSH (R434, R435) -/

/-- A change of shards that keeps where each has moved on to keeps the other owners of a collection. -/
theorem State.otherOwners_congr {s x : State} (c : Coll) (hn : x.nodeId = s.nodeId)
    (hs : ∀ i, (x.shard? i).bind (·.forwardTo) = (s.shard? i).bind (·.forwardTo)) : x.otherOwners c = s.otherOwners c := by
  simp [State.otherOwners, hn, hs]

/-- The read stamps that a FLUSH of a collection takes in its turn, and what it covers (R434). -/
def State.flushStamp (s : State) (k : Key) (here : List Shard) : State :=
  let stamps := here.map fun d => (d.id, d.counter)
  let n := (s.tier.journal.filter fun j => j.unprogrammed && stamps.any j.covered).length
  let s : State := { s with shards := modWhere s.shards (fun d => stamps.any (·.1 == d.id)) fun d =>
    { d with readers := d.readers ++ [(.req k, d.counter)] } }
  s.modReq k.num fun r => { r with body := .flush stamps false [] n stamps.length }

/-- The shares of a FLUSH leave for the other owners. -/
def State.flushSend (s : State) (k : Key) (r : Req) (c : Coll) : State :=
  (s.otherOwners c).foldl (fun s o => s.sendWork (workTag k r.fn r.qosClass 0x0C o (soleShard (c.shardsAt o)) 0) (.flushShare k c.spec.id)) s

/-- An accepted FLUSH of a collection goes behind what waits at the ledger arbiters of its shards here. -/
theorem execFlush_coll {s : State} {num t : Nat} {io : HostIO} {r : Req} {c : Coll}
    (h : Accepted s num 0x0C io [(48, 80)] .either (some 1) 0 r) (hn : le r.entry 4 4 ≠ 0) (hc : s.coll? r.collection = some c) :
    execFlush num io t s = .next ((s.at t).passLedgers ((s.owned.filter (·.coll == c.spec.id)).map (·.id))
      (.pass (.req ⟨s.nodeId, num⟩)) fun y => (y.flushStamp ⟨s.nodeId, num⟩ (s.owned.filter (·.coll == c.spec.id))).flushSend ⟨s.nodeId, num⟩ r c) := by
  have he : (s.at t).entryOf num = r.entry := by
    have hr : (s.at t).req? num = some r := h.1
    simp [State.entryOf, hr]
  have hb : (le r.entry 4 4 != 0) = true := by simpa using hn
  have hc' : (s.at t).coll? r.collection = some c := hc
  simp only [execFlush, he, hb, if_true]
  rw [State.dataCommit_accepted (h.at t) (by simp)]
  simp only [hc']
  rfl

theorem State.flushStamp_shard? (s : State) (k : Key) (here : List Shard) (i : Nat) :
    (s.flushStamp k here).shard? i = (s.shard? i).map fun d => if (here.map fun d => (d.id, d.counter)).any (·.1 == d.id) then
      { d with readers := d.readers ++ [(.req k, d.counter)] } else d :=
  State.shard?_modWhere rfl (by intro d; rfl) i

theorem State.flushStamp_req? {s : State} {k : Key} {r : Req} (here : List Shard) (h : s.req? k.num = some r) :
    ∃ n, (s.flushStamp k here).req? k.num =
      some { r with body := .flush (here.map fun d => (d.id, d.counter)) false [] n here.length } := by
  have e : ∀ n m, (s.modReq k.num fun r => { r with body := .flush (here.map fun d => (d.id, d.counter)) false [] n m }).req? k.num =
      some { r with body := .flush (here.map fun d => (d.id, d.counter)) false [] n m } := by
    intro n m; rw [State.modReq_req (by intro r; rfl), h]; rfl
  exact ⟨_, (e _ _).trans (by rw [List.length_map])⟩

theorem State.flushStamp_otherOwners (s : State) (k : Key) (here : List Shard) (c : Coll) :
    (s.flushStamp k here).otherOwners c = s.otherOwners c := by
  refine State.otherOwners_congr c rfl fun i => ?_
  rw [State.flushStamp_shard?]
  cases s.shard? i with
  | none => rfl
  | some d => simp only [Option.map_some, Option.bind_some]; split <;> rfl

theorem State.flushSend_sent (s : State) (k : Key) (r : Req) (c : Coll) : Sent s (s.flushSend k r c) :=
  Sent.foldl (fun _ _ => State.sendWork_sent ..) _ s

theorem State.flushSend_frameTo (s : State) (k : Key) (r : Req) (c : Coll) :
    ∀ o ∈ s.otherOwners c, FrameTo (s.flushSend k r c) o (.flushShare k c.spec.id) :=
  foldl_brings Sent.refl Sent.trans (fun _ _ => State.sendWork_sent ..) s
    (P := fun o x => FrameTo x o (.flushShare k c.spec.id)) (fun _ _ _ => State.sendWork_frameTo ..)
    (fun _ _ _ h hf => hf.sent h) _ s (Sent.refl s)


theorem State.otherOwners_noWait {s x : State} (c : Coll) (hn : x.nodeId = s.nodeId) (h : x.shardNoWait? = s.shardNoWait?) :
    x.otherOwners c = s.otherOwners c := by
  have e : ∀ z : State, ∀ i, (z.shard? i).bind (·.forwardTo) = (z.shardNoWait? i).bind (·.forwardTo) := by
    intro z i; simp only [State.shardNoWait?]; cases z.shard? i <;> rfl
  exact State.otherOwners_congr c hn fun i => by rw [e x, e s, h]

/-- R434: in its turn a FLUSH of a collection has its read stamps, and its shares leave. -/
theorem flush_turn {s : State} {num t : Nat} {io : HostIO} {r : Req} {c : Coll} {here : List Shard} {w : LedgerWhat}
    (hacc : Accepted s num 0x0C io [(48, 80)] .either (some 1) 0 r) (hn : le r.entry 4 4 ≠ 0) (hc : s.coll? r.collection = some c)
    (hhere : here = s.owned.filter (·.coll == c.spec.id)) (hw : w = .pass (.req ⟨s.nodeId, num⟩))
    (hturn : LedgerTurn s (here.map (·.id)) w) :
    ∃ (x : State) (n : Nat), exec (.flush num io t) s = .next x ∧
      x.req? num = some { r with body := .flush (here.map fun d => (d.id, d.counter)) false [] n here.length } ∧
      (∀ i d, s.shard? i = some d → d ∈ here →
        ∃ e, x.shard? i = some e ∧ e.counter = d.counter ∧ e.readers = d.readers ++ [(.req ⟨s.nodeId, num⟩, d.counter)]) ∧
      (∀ o ∈ s.otherOwners c, FrameTo x o (.flushShare ⟨s.nodeId, num⟩ c.spec.id)) ∧ x.out = s.out ∧ x.tier = s.tier := by
  have hex := execFlush_coll (t := t) hacc hn hc
  rw [← hhere, ← hw, State.passLedgers_granted (s := s.at t) hturn] at hex
  have hframe := State.leaveLedgers_frame (s.at t) w (here.map (·.id))
  have hnw := State.leaveLedgers_noWait (s.at t) w (here.map (·.id))
  generalize (here.map (·.id)).foldl (State.leaveLedger · w) (s.at t) = y at hex hframe hnw
  have hsent := State.flushSend_sent (y.flushStamp ⟨s.nodeId, num⟩ here) ⟨s.nodeId, num⟩ r c
  have hframes := State.flushSend_frameTo (y.flushStamp ⟨s.nodeId, num⟩ here) ⟨s.nodeId, num⟩ r c
  rw [State.flushStamp_otherOwners, State.otherOwners_noWait c (by rw [hframe]; rfl) hnw] at hframes
  obtain ⟨n, hreq⟩ := State.flushStamp_req? (s := y) (k := ⟨s.nodeId, num⟩) here (by rw [hframe]; exact hacc.1)
  refine ⟨_, n, hex, ?_, ?_, hframes, ?_, ?_⟩
  · rw [← hreq]; simp [State.req?, hsent.reqs_eq]
  · intro i d hd hm
    obtain ⟨e, he, hde⟩ := ShardsButWaiting.of_noWait hnw i d hd
    refine ⟨{ e with readers := e.readers ++ [(.req ⟨s.nodeId, num⟩, e.counter)] }, ?_, by rw [hde], by rw [hde]⟩
    have hx : ∀ z : State, z.shards = (y.flushStamp ⟨s.nodeId, num⟩ here).shards → z.shard? i = (y.flushStamp ⟨s.nodeId, num⟩ here).shard? i :=
      fun z h => by simp [State.shard?, h]
    have hany : (here.map fun d => (d.id, d.counter)).any (·.1 == e.id) = true := by
      simp only [List.any_map, List.any_eq_true]
      exact ⟨d, hm, show (d.id == e.id) = true by rw [hde]; exact beq_self_eq_true _⟩
    rw [hx _ hsent.shards_eq, State.flushStamp_shard?, he, Option.map_some, if_pos hany]
  · rw [hsent.out_eq]; show y.out = s.out; rw [hframe]; rfl
  · rw [hsent.tier_eq]; show y.tier = s.tier; rw [hframe]; rfl

/-- R434: a FLUSH of collection 0 covers what lay in the write buffer when it was admitted. -/
theorem flush_all {s : State} {num t : Nat} {io : HostIO} {r : Req} (hacc : Accepted s num 0x0C io [(48, 80)] .either none 0 r)
    (hn : le r.entry 4 4 = 0) :
    ∃ (x : State) (l : List Nat), exec (.flush num io t) s = .next x ∧ x = { s.at t with reqs := x.reqs } ∧
      x.req? num = some { r with body := .flush [] true l l.length 0 } ∧
      ∀ j ∈ s.tier.journal, j.unprogrammed = true → j.inBuffer = true → j.at_ ≤ r.admittedAt → j.seq ∈ l := by
  let open_ := s.tier.journal.filter fun j => j.unprogrammed && j.inBuffer && decide (j.at_ ≤ r.admittedAt)
  have hr : (s.at t).req? num = some r := hacc.1
  have he : (s.at t).entryOf num = r.entry := by simp [State.entryOf, hr]
  have hex : execFlush num io t s =
      .next ((s.at t).modReq num fun r => { r with body := .flush [] true (open_.map (·.seq)) open_.length 0 }) := by
    simp only [execFlush, he, hn, bne_self_eq_false, Bool.false_eq_true, if_false]
    rw [State.dataCommit_accepted (hacc.at t) (by simp)]
    rfl
  refine ⟨_, open_.map (·.seq), hex, rfl, ?_, ?_⟩
  · rw [State.modReq_req (by intro r; rfl), hr, List.length_map]; rfl
  · intro j hj h1 h2 h3
    exact List.mem_map_of_mem (List.mem_filter.mpr ⟨hj, by simp [h1, h2, h3]⟩)


/-- Read stamps given up, one after the other. -/
theorem State.dropReaders_frame (s : State) (k : ReaderId) (l : List (Nat × Nat)) :
    l.foldl (fun s x => s.dropReader x.1 k) s = { s with shards := (l.foldl (fun s x => s.dropReader x.1 k) s).shards } := by
  have e := foldl_keeps (fun s : State => ({ s with shards := [] } : State)) (fun s (x : Nat × Nat) => s.dropReader x.1 k)
    (fun s x => rfl) l s
  generalize l.foldl (fun s x => s.dropReader x.1 k) s = x at e ⊢
  cases s; cases x; simpa using e

/-- No shard of identifier `i` has `k` as a reader. -/
def NoReader (k : ReaderId) (i : Nat) (x : State) : Prop := ∀ d, x.shard? i = some d → ∀ z ∈ d.readers, z.1 ≠ k

theorem State.dropReader_noReader (s : State) (k : ReaderId) (j i : Nat) (h : i = j ∨ NoReader k i s) :
    NoReader k i (s.dropReader j k) := by
  intro d hd z hz
  rw [State.dropReader, State.modShard_shard? s j (by intro d; rfl)] at hd
  obtain ⟨e, he, rfl⟩ := Option.map_eq_some_iff.mp hd
  have hid := State.shard?_id he
  rcases h with rfl | h
  · simp only [hid, beq_self_eq_true, if_true, List.mem_filter] at hz
    simpa using hz.2
  · refine h e he z ?_
    split at hz
    · exact List.mem_of_mem_filter hz
    · exact hz

theorem State.dropReaders_noReader (s : State) (k : ReaderId) (l : List (Nat × Nat)) :
    ∀ y ∈ l, NoReader k y.1 (l.foldl (fun s x => s.dropReader x.1 k) s) :=
  foldl_brings (R := fun s x => ∀ i, NoReader k i s → NoReader k i x) (fun _ _ h => h) (fun _ _ _ h g i hi => g i (h i hi))
    (fun s a i hi => State.dropReader_noReader s k a.1 i (Or.inr hi)) s (P := fun y x => NoReader k y.1 x)
    (fun s a _ => State.dropReader_noReader s k a.1 a.1 (Or.inl rfl)) (fun _ _ a h ha => h a.1 ha) l s (fun _ h => h)

theorem foldl_add_sum {α : Type} (f : α → Nat) : ∀ (l : List α) (n : Nat), l.foldl (fun n x => n + f x) n = n + (l.map f).sum
  | [], n => by simp
  | a :: l, n => by simp [foldl_add_sum f l, Nat.add_assoc]

section
variable {s : State} {num t count shards : Nat} {io : HostIO} {r : Req} {l : List (Nat × Nat)} {waiting : List Nat} {all : Bool}
  {peers : List (Nat × Option (Nat × Nat))} {others : List Nat}

/-- What FLUSH_DONE answers once every entry covered is programmed and every other owner has answered (R434). -/
def flushAnswer (others : List Nat) (peers : List (Nat × Option (Nat × Nat))) (count shards : Nat) : Compl :=
  let got := (others.map fun o => (peers.find? (·.1 == o)).map (·.2)).filterMap id
  if got.any (·.isNone) then .bare stRetry 0
  else { status := stOk, detail := 0, value := (got.filterMap id).foldl (fun n x => n + x.1) count,
         value2 := (got.filterMap id).foldl (fun n x => n + x.2) shards }

/-- The other owners that a FLUSH has asked: none for collection 0. -/
def State.flushAsked (s : State) (all : Bool) (coll : Nat) : List Nat :=
  if all then [] else match s.coll? coll with | some c => s.otherOwners c | none => []

/-- FLUSH_DONE waits while an entry covered has not been programmed or an owner has not answered; then it gives its read stamps up
and completes. -/
theorem execFlushDone_eq (hr : s.req? num = some r) (hb : r.body = .flush l all waiting count shards)
    (ho : others = s.flushAsked all r.collection) :
    execFlushDone num peers io t s =
      .next (if s.tier.journal.any (fun j => j.unprogrammed && (if all then waiting.contains j.seq else l.any j.covered)) ||
          others.any (fun o => (peers.find? (·.1 == o)).isNone) then s.at t
        else (l.foldl (fun z x => z.dropReader x.1 (.req ⟨s.nodeId, num⟩)) (s.at t)).complete r (flushAnswer others peers count shards) io) := by
  have hr' : (s.at t).req? num = some r := hr
  have ha : ∀ o : List Nat, (o.map fun o => (peers.find? (·.1 == o)).map (·.2)).any (·.isNone) =
      o.any fun o => (peers.find? (·.1 == o)).isNone := by
    intro o; simp [List.any_map, Function.comp_def]
  have hc : (s.at t).coll? r.collection = s.coll? r.collection := rfl
  have hw : ∀ c, (s.at t).otherOwners c = s.otherOwners c := fun _ => rfl
  have hj : (s.at t).tier = s.tier := rfl
  subst ho
  unfold execFlushDone State.flushAsked
  simp only [hr', hb, ha, hc, hw, hj, State.at_nodeId, flushAnswer]
  cases all
  · cases s.coll? r.collection <;> simp only [Bool.false_eq_true, if_false] <;> split_ifs <;> rfl
  · simp only [if_true]; split_ifs <;> rfl

theorem flushAnswer_unreached (h : ∃ o ∈ others, peers.find? (·.1 == o) = some (o, none)) :
    flushAnswer others peers count shards = .bare stRetry 0 := by
  obtain ⟨o, ho, hf⟩ := h
  refine if_pos ?_
  simp only [List.any_eq_true, List.mem_filterMap, List.mem_map, id]
  exact ⟨none, ⟨some none, ⟨o, ho, by rw [hf]; rfl⟩, rfl⟩, rfl⟩

/-- With an answer from every other owner the counts are added. -/
theorem flushAnswer_counts {got : List (Nat × Nat)} (h : others.map (fun o => (peers.find? (·.1 == o)).bind (·.2)) = got.map some) :
    flushAnswer others peers count shards =
      { status := stOk, detail := 0, value := count + (got.map (·.1)).sum, value2 := shards + (got.map (·.2)).sum } := by
  have hg : (others.map fun o => (peers.find? (·.1 == o)).map (·.2)).filterMap id = got.map some := by
    induction others generalizing got with
    | nil => simpa using h
    | cons o l ih =>
      cases got with
      | nil => simp at h
      | cons g got =>
        simp only [List.map_cons, List.cons.injEq] at h
        obtain ⟨v, hv, hv2⟩ := Option.bind_eq_some_iff.mp h.1
        simpa [hv, hv2] using ih h.2
  have hn : ((got.map some).any fun x : Option (Nat × Nat) => x.isNone) = false := by simp
  have hs : (got.map some).filterMap id = got := by simp
  simp only [flushAnswer, hg, hn, hs, Bool.false_eq_true, if_false, foldl_add_sum]

/-- R434, R435: a FLUSH waits while an entry that it covers has not been programmed or another owner has not answered; then it gives
its read stamps up and completes. -/
theorem flushDone_spec (hr : s.req? num = some r) (hb : r.body = .flush l all waiting count shards) (hio : HostTakes io)
    (ho : others = s.flushAsked all r.collection) (t : Nat) {open_ : Bool}
    (hop : open_ = s.tier.journal.any (fun j => j.unprogrammed && (if all then waiting.contains j.seq else l.any j.covered))) :
    ((open_ = true ∨ ∃ o ∈ others, peers.find? (·.1 == o) = none) → exec (.flushDone num peers io t) s = .next (s.at t)) ∧
    (open_ = false → (∀ o ∈ others, ∃ v, peers.find? (·.1 == o) = some v) →
      ∃ x, exec (.flushDone num peers io t) s = .next x ∧
        (∀ y ∈ l, ∀ d, x.shard? y.1 = some d → ∀ z ∈ d.readers, z.1 ≠ .req ⟨s.nodeId, num⟩) ∧
        ((∃ o ∈ others, peers.find? (·.1 == o) = some (o, none)) → CompletedWith (s.at t) x r (.bare stRetry 0)) ∧
        (∀ got : List (Nat × Nat), others.map (fun o => (peers.find? (·.1 == o)).bind (·.2)) = got.map some →
          CompletedWith (s.at t) x r { status := stOk, detail := 0, value := count + (got.map (·.1)).sum,
                                       value2 := shards + (got.map (·.2)).sum })) := by
  have hex := execFlushDone_eq (t := t) (io := io) (peers := peers) hr hb ho
  rw [← hop] at hex
  refine ⟨fun h => hex.trans ?_, fun hopen hall => ?_⟩
  · rw [if_pos]
    rcases h with h | ⟨o, hm, hn⟩
    · simp [h]
    · simp only [Bool.or_eq_true, List.any_eq_true]
      exact Or.inr ⟨o, hm, by simp [hn]⟩
  · have hnone : (others.any fun o => (peers.find? (·.1 == o)).isNone) = false := by
      simp only [List.any_eq_false, Bool.not_eq_true]
      intro o hm
      obtain ⟨v, hv⟩ := hall o hm
      simp [hv]
    rw [hopen, hnone, if_neg (by simp)] at hex
    have hfr := State.dropReaders_frame (s.at t) (.req ⟨s.nodeId, num⟩) l
    have hno := State.dropReaders_noReader (s.at t) (.req ⟨s.nodeId, num⟩) l
    generalize l.foldl (fun z x => z.dropReader x.1 (.req ⟨s.nodeId, num⟩)) (s.at t) = y at hex hfr hno
    have hdone : ∀ c, flushAnswer others peers count shards = c → CompletedWith (s.at t) (y.complete r (flushAnswer others peers count shards) io) r c :=
      fun c hc => hc ▸ (State.complete_completedWith hio).of_eq (by rw [hfr]) (by rw [hfr])
    refine ⟨_, hex, fun z hz d hd => hno z hz d ?_, fun h => hdone _ (flushAnswer_unreached h), fun got h => hdone _ (flushAnswer_counts h)⟩
    rw [← hd]; simp [State.shard?, (State.complete_only hio).shards_eq]

end

/-- The counts of a 10 ms window start again (R40). -/
def Arb.newWindow (a : Arb) (now : Nat) : Arb :=
  { a with windowStart := now / (10 * Config.ticksPerMs) * (10 * Config.ticksPerMs), bgHeld := 0, bgBy := [], rbHeld := 0, sent := 0 }

/-- R40: the counts of a resource's window of 10 ms start again at its end, and not before. -/
theorem backgroundWindow_spec (s : State) (arb t : Nat)
    (h : arb < 0x20 ∨ 0x40 ≤ arb ∧ arb < 0x60 ∨ arb = 0x80 ∨ 0x90 ≤ arb ∧ arb < 0x94 ∨ 0x100 ≤ arb ∧ arb < 0x108) :
    ((s.arb arb).windowStart + 10 * Config.ticksPerMs ≤ (s.at t).now →
      ∃ x, exec (.backgroundWindow arb t) s = .next x ∧ x = { s.at t with arbs := x.arbs } ∧
        x.arb arb = { s.arb arb with windowStart := (s.at t).now / (10 * Config.ticksPerMs) * (10 * Config.ticksPerMs),
                                     bgHeld := 0, bgBy := [], rbHeld := 0, sent := 0 } ∧ ∀ a, a ≠ arb → x.arb a = s.arb a) ∧
    ((s.at t).now < (s.arb arb).windowStart + 10 * Config.ticksPerMs → exec (.backgroundWindow arb t) s = .next (s.at t)) := by
  have hcount : (((s.at t).ceilingPct arb).isSome || (decide (0x100 ≤ arb) && decide (arb < 0x108))) = true := by
    unfold State.ceilingPct
    rcases h with h | ⟨h, h'⟩ | rfl | ⟨h, h'⟩ | ⟨h, h'⟩
    · simp [h]
    · simp [h, h', show ¬ arb < 32 by omega]
    · simp
    · simp [h, h', show ¬ arb < 32 by omega, show ¬ arb < 96 by omega, show ¬ arb = 128 by omega]
    · simp [h, h']
  have ha : (s.at t).arb arb = s.arb arb := rfl
  refine ⟨fun hw => ⟨(s.at t).modArb arb (Arb.newWindow · (s.at t).now), ?_, State.modArb_frame _ _ _, State.modArb_arb_same (by intro a; rfl),
    fun a hne => State.modArb_arb_ne hne (by intro a; rfl)⟩, fun hw => ?_⟩
  · show execBackgroundWindow arb t s = _
    simp [execBackgroundWindow, Arb.newWindow, hcount, ha, hw]
  · show execBackgroundWindow arb t s = _
    simp [execBackgroundWindow, ha, Nat.not_le.mpr hw]

/-- Settles O47: the four rows of FLUSH, FLUSH_DONE and the windows, one lemma each. -/
theorem flushAndWindows : Obligations.FlushAndWindows := by
  unfold Obligations.FlushAndWindows
  refine ⟨fun s num t io r c here w hacc hn hc hhere hw => ⟨?_, ?_⟩, fun s num t io r => flush_all, ?_, backgroundWindow_spec⟩
  · refine flush_turn hacc hn hc (hhere.trans ?_) hw
    simp [State.owned, List.filter_filter, Bool.and_comm]
  · intro hturn
    have hown : s.owned.filter (·.coll == c.spec.id) = here := by
      rw [hhere]; simp [State.owned, List.filter_filter, Bool.and_comm]
    have hex := execFlush_coll (t := t) hacc hn hc
    rw [hown, ← hw] at hex
    exact ⟨_, hex, State.passLedgers_waitsAt (s := s.at t) hturn _⟩
  · intro s num t count shards io r l waiting all peers others open_ hr hb hio ho hop
    exact flushDone_spec hr hb hio (ho.trans (by cases all <;> rfl)) t hop

end Sys2Proof.Machine
end

-- ==== Proofs: SEARCH ====
section
/-! SUPPORT. SEARCH at its coordinator (R29, R132, R221, R224): its checks, the encoder's turn, and the shares it sends. -/

namespace Sys2Proof.Machine

open Sys2Proof

/-- The checks of a SEARCH's own fields (R221), in the order of their offsets. -/
def State.searchChecks (s : State) (e : Bytes) (c : Coll) : List (Nat × Bool) :=
  [(24, decide ((searchParts e).2.2 ≤ le e 24 4)), (49, !bit (byteAt e 49) 1 || c.spec.lexical),
   (52, decide (1 ≤ le e 52 4) && decide (le e 52 4 ≤ 16777216)), (56, decide (1 ≤ le e 56 2) && decide (le e 56 2 ≤ 4096)),
   (58, decide (le e 58 2 ≤ 256)), (60, le e 60 4 == 0 || (decide (le e 52 4 ≤ le e 60 4) && decide (le e 60 4 ≤ 65536))),
   (64, decide (le e 64 2 ≤ 2000) || le e 64 2 == 0xFFFF), (66, decide (le e 66 2 ≤ 60000)),
   (68, decide (byteAt e 48 = 3) || le e 68 4 == vectorBytes (byteAt e 48) c.spec.dimensions),
   (74, if byteAt e 72 = 0 then le e 74 2 == 0 else decide (1 ≤ le e 74 2) && decide (le e 74 2 ≤ 256)),
   (76, decide (le e 76 4 ≤ 256) && (bit (byteAt e 49) 1 || le e 76 4 == 0)),
   (80, if byteAt e 48 = 3 then (s.coll? (le e 80 4)).isSome else le e 80 4 == 0),
   (84, if byteAt e 48 = 3 then s.encoderGood (le e 80 4) (le e 84 4) c.spec.dimensions else le e 84 4 == 0)]

/-- The query of a SEARCH: what its encoder makes of the input, or the vector given (R221, R223). -/
def searchQuery (i : Nat) (e inp : Bytes) (d : Nat) : List Int :=
  if byteAt e 48 = 3 then encoded i (le e 80 4) (le e 84 4) (slice inp 0 (le e 68 4)) d
  else (readVector (byteAt e 48) d inp 0).getD (freeElements i d)

/-- The offsets of the input buffer's items that are not in order (R133). -/
def searchBads (e inp : Bytes) (c : Coll) (q : List Int) : List Nat :=
  (if byteAt e 48 = 2 then (firstReserved inp (sq8Reserved 0 c.spec.dimensions)).toList else []) ++
  (if c.spec.metric = 1 && sqNorm q == 0 then [0] else []) ++
  (badTerm inp (searchParts e).1 0 (le e 76 4)).toList ++
  (((readRanges inp (searchParts e).2.1 (le e 74 2)).findIdx? fun x => decide (x.2 < x.1)).map fun j => (searchParts e).2.1 + 16 * j).toList

/-- What the shares of a SEARCH carry (R221). -/
def searchSetUp (i : Nat) (e inp : Bytes) (q : List Int) : SearchParams :=
  { k := le e 52 4, probes := le e 56 2, l1Probes := if le e 58 2 = 0 then (le e 56 2 + 11) / 12 else le e 58 2,
    rerankDepth := le e 60 4, dwellLimit := le e 64 2, timeoutMs := if le e 66 2 = 0 then 1000 else le e 66 2,
    readStamps := bit (byteAt e 49) 0, lexical := bit (byteAt e 49) 1, noExpand := bit (byteAt e 49) 2,
    retryAllowed := bit (byteAt e 8) 0, filterKind := byteAt e 72, ranges := readRanges inp (searchParts e).2.1 (le e 74 2),
    query := q, terms := queryTerms inp i (searchParts e).1 (le e 76 4) }

/-- The share of an owner node. -/
def searchShare (k : Key) (r : Req) (c : Coll) (p : SearchParams) (o : Nat) : ShareMsg :=
  ⟨k, r.fn, r.qosClass, 0, c.spec.id, c.shardsAt o, p⟩

/-- The share of one owner leaves: over the internal path to this node itself (R29). -/
def State.sendShare (s : State) (k : Key) (r : Req) (c : Coll) (p : SearchParams) (o : Nat) : State :=
  if o = s.nodeId then s.modEng fun e => { e with inShares := e.inShares ++ [searchShare k r c p o] }
  else s.sendWork (workTag k r.fn r.qosClass 1 o (soleShard (c.shardsAt o)) 0) (.share (searchShare k r c p o))

/-- The search is outstanding with its fields and its due time (R221, R225). -/
def State.openSearch (s : State) (num : Nat) (p : SearchParams) : State :=
  s.modReq num fun r => { r with body := .search p [] [] (r.admittedAt + p.timeoutMs * Config.ticksPerMs) }

/-- A SEARCH whose input is in order: its encoder's turn first, then the shares (R29, R223). -/
def State.searchGo (s : State) (num : Nat) (r : Req) (c : Coll) (inp : Bytes) : State :=
  let p := searchSetUp s.free r.entry inp (searchQuery s.free r.entry inp c.spec.dimensions)
  let y := s.takeFree.2
  let tile := y.homeTile num
  let w : Work := .encode ⟨y.nodeId, num⟩
  if decide (byteAt r.entry 48 = 3) && !(y.arbHolds (tensorArb tile) w && y.tileReady tile) then y.needTensor tile false false w
  else
    c.ownerNodes.foldl (fun z o => z.sendShare ⟨z.nodeId, num⟩ r c p o)
      ((if byteAt r.entry 48 = 3 then y.arbEnd (tensorArb tile) w else y).openSearch num p)

section
variable {s : State} {num t : Nat} {io : HostIO} {r : Req} {c : Coll} {e inp : Bytes}

/-- An accepted SEARCH with every field in order goes on to its encoder and its shares (R132, R221). -/
theorem execSearch_accepted (hacc : Accepted s num 1 io [(50, 2), (73, 1), (88, 40)] .named (some 0)
      (roundUp (64 + 12 * le r.entry 52 4) 16 + (if bit (byteAt r.entry 49) 0 then 16 * c.spec.shards else 0)) r)
    (he : e = r.entry) (hinp : inp = slice (io.input.getD []) 0 (le e 24 4)) (hc : s.coll? (le e 4 4) = some c)
    (hrc : r.collection = le e 4 4) (h48 : byteAt e 48 < 4) (h49 : byteAt e 49 < 8) (h72 : byteAt e 72 < 3)
    (hright : byteAt e 48 = 3 → r.fn = 0 ∨ bit (s.rights r.fn (le e 80 4)) 4 = true)
    (hchecks : ∀ x ∈ s.searchChecks e c, x.2 = true)
    (hbads : searchBads e inp c (searchQuery s.free e inp c.spec.dimensions) = []) :
    exec (.search num io t) s = .next ((s.at t).searchGo num r c inp) := by
  have hr : (s.at t).req? num = some r := hacc.1
  have hent : (s.at t).entryOf num = e := by simp [State.entryOf, hr, he]
  have hcoll : (s.at t).collOf num = some c := by simp only [State.collOf, hent]; exact hc
  have hc' : (s.at t).coll? r.collection = some c := hrc ▸ hc
  have hden : (decide (byteAt e 48 = 3) && decide (r.fn ≠ 0) && !bit ((s.at t).rights r.fn (le e 80 4)) 4 &&
      ((s.at t).coll? (le e 80 4)).isSome) = false := by
    by_cases h3 : byteAt e 48 = 3
    · rcases hright h3 with h | h <;> simp [h]
    · simp [h3]
  have hlow := lowestBad_eq_none (b := e) (ranges := []) rfl hchecks
  subst he
  show execSearch num io t s = _
  simp only [execSearch, hent, hcoll, Option.map_some, Option.getD_some]
  rw [State.dataCommit_accepted (hacc.at t) (by simp [h48, h49, h72])]
  simp only [hc']
  rw [if_neg (by rw [hden]; simp)]
  split
  · rename_i o ho
    exact absurd (ho.symm.trans hlow) (Option.some_ne_none o)
  · split
    · rename_i o l ho
      exact absurd (ho.symm.trans (hinp ▸ hbads)) (List.cons_ne_nil o l)
    · subst hinp; rfl

theorem State.sendShare_sent (s : State) (k : Key) (r : Req) (c : Coll) (p : SearchParams) (o : Nat) : Sent s (s.sendShare k r c p o) := by
  unfold State.sendShare
  split
  · exact ⟨rfl, fun _ h => h, fun _ h => h, by simp, fun _ h => h, fun _ h => h, fun _ h => h⟩
  · exact State.sendWork_sent ..

/-- The share of owner `o` is on its way to it. -/
def ShareLeaves (node : Nat) (x : State) (m : ShareMsg) (o : Nat) : Prop :=
  (o = node → m ∈ x.eng.inShares) ∧ (o ≠ node → FrameTo x o (.share m))

theorem ShareLeaves.sent {node o : Nat} {m : ShareMsg} {s x : State} (h : Sent s x) (hm : ShareLeaves node s m o) : ShareLeaves node x m o :=
  ⟨fun e => h.shares (hm.1 e), fun e => (hm.2 e).sent h⟩

theorem State.sendShare_leaves (s : State) (k : Key) (r : Req) (c : Coll) (p : SearchParams) (o : Nat) :
    ShareLeaves s.nodeId (s.sendShare k r c p o) (searchShare k r c p o) o := by
  unfold State.sendShare
  split
  · rename_i h
    exact ⟨fun _ => by simp, fun hn => absurd h hn⟩
  · rename_i h
    exact ⟨fun hn => absurd hn h, fun _ => State.sendWork_frameTo ..⟩

theorem State.sendShares_leave (s : State) (num : Nat) (r : Req) (c : Coll) (p : SearchParams) (l : List Nat) :
    ∀ o ∈ l, ShareLeaves s.nodeId (l.foldl (fun z o => z.sendShare ⟨z.nodeId, num⟩ r c p o) s) (searchShare ⟨s.nodeId, num⟩ r c p o) o :=
  foldl_brings Sent.refl Sent.trans (fun _ _ => State.sendShare_sent ..) s
    (P := fun o x => ShareLeaves s.nodeId x (searchShare ⟨s.nodeId, num⟩ r c p o) o)
    (fun _ _ hz => hz.nodeId_eq ▸ State.sendShare_leaves ..) (fun _ _ _ h hm => hm.sent h) l s (Sent.refl s)

theorem State.arbEnd_frame (s : State) (id : Nat) (w : Work) : s.arbEnd id w = { s with arbs := (s.arbEnd id w).arbs } :=
  State.modArb_frame ..

/-- Once its encoder has run the search is outstanding, and each owner's share is on its way (R29, R221). -/
theorem State.searchGo_sends (hr : s.req? num = some r)
    (hturn : byteAt r.entry 48 = 3 → s.arbHolds (tensorArb (s.homeTile num)) (.encode ⟨s.nodeId, num⟩) = true ∧
      s.tileReady (s.homeTile num) = true) (p : SearchParams)
    (hp : p = searchSetUp s.free r.entry inp (searchQuery s.free r.entry inp c.spec.dimensions)) :
    let x := s.searchGo num r c inp
    x.out = s.out ∧ x.shards = s.shards ∧ x.lists = s.lists ∧ x.fns = s.fns ∧
      x.req? num = some { r with body := .search p [] [] (r.admittedAt + p.timeoutMs * Config.ticksPerMs) } ∧
      ∀ o ∈ c.ownerNodes, ShareLeaves s.nodeId x (searchShare ⟨s.nodeId, num⟩ r c p o) o := by
  intro x
  have hx : x = s.searchGo num r c inp := rfl
  unfold State.searchGo at hx
  rw [← hp] at hx
  dsimp only at hx
  rw [if_neg] at hx
  swap
  · by_cases h3 : byteAt r.entry 48 = 3
    · obtain ⟨ha, ht⟩ := hturn h3
      have ha' : s.takeFree.2.arbHolds (tensorArb (s.takeFree.2.homeTile num)) (.encode ⟨s.takeFree.2.nodeId, num⟩) = true := ha
      have ht' : s.takeFree.2.tileReady (s.takeFree.2.homeTile num) = true := ht
      simp [ha', ht']
    · simp [h3]
  have hy : ∀ y : State, (if byteAt r.entry 48 = 3 then s.takeFree.2.arbEnd (tensorArb (s.takeFree.2.homeTile num))
      (.encode ⟨s.takeFree.2.nodeId, num⟩) else s.takeFree.2) = y → y = { s with arbs := y.arbs, free := y.free } := by
    rintro y rfl
    split
    · rw [State.arbEnd_frame]; rfl
    · rfl
  generalize (if byteAt r.entry 48 = 3 then _ else s.takeFree.2 : State) = y at hx hy
  have hy := hy y rfl
  have hsent := Sent.foldl (fun z o => State.sendShare_sent z ⟨z.nodeId, num⟩ r c p o) c.ownerNodes (y.openSearch num p)
  have hleave := State.sendShares_leave (y.openSearch num p) num r c p c.ownerNodes
  rw [← hx] at hsent hleave
  have hn : (y.openSearch num p).nodeId = s.nodeId := by show y.nodeId = _; rw [hy]; rfl
  rw [hn] at hleave
  refine ⟨?_, ?_, ?_, ?_, ?_, hleave⟩
  · rw [hsent.out_eq]; show y.out = _; rw [hy]
  · rw [hsent.shards_eq]; show y.shards = _; rw [hy]
  · rw [hsent.lists_eq]; show y.lists = _; rw [hy]
  · rw [hsent.fns_eq]; show y.fns = _; rw [hy]
  · have hq : y.req? num = some r := by rw [hy]; exact hr
    have : x.req? num = (y.openSearch num p).req? num := by simp [State.req?, hsent.reqs_eq]
    rw [this, State.openSearch, State.modReq_req (by intro r; rfl), hq]
    rfl

/-- Until the encoder has its turn the search asks the tensor clusters of its home tile (R223). -/
theorem State.searchGo_waits (h3 : byteAt r.entry 48 = 3)
    (hturn : ¬ (s.arbHolds (tensorArb (s.homeTile num)) (.encode ⟨s.nodeId, num⟩) = true ∧ s.tileReady (s.homeTile num) = true)) :
    let x := s.searchGo num r c inp
    x = { s with arbs := x.arbs, pwr := x.pwr, free := x.free } ∧ Waits x (tensorArb (s.homeTile num)) (.encode ⟨s.nodeId, num⟩) := by
  have hx : s.searchGo num r c inp =
      s.takeFree.2.needTensor (s.homeTile num) false false (.encode ⟨s.nodeId, num⟩) := by
    unfold State.searchGo
    dsimp only
    rw [if_pos]
    · rfl
    · have ht : ¬ (s.takeFree.2.arbHolds (tensorArb (s.takeFree.2.homeTile num)) (.encode ⟨s.takeFree.2.nodeId, num⟩) = true ∧
          s.takeFree.2.tileReady (s.takeFree.2.homeTile num) = true) := hturn
      simpa [h3, imp_iff_not_or, ← Bool.not_eq_true] using ht
  intro x
  have hx : x = _ := hx
  refine ⟨?_, hx ▸ State.needTensor_waits ..⟩
  rw [hx, State.needTensor_frame]
  rfl

end

/-- A SEARCH that names its collection and fails a check of R132 completes with the status of that check. -/
theorem search_reserved {s : State} {num t : Nat} {io : HostIO} {r : Req} (hr : s.req? num = some r) (hop : r.opcode = 1)
    (hb : r.body = .fresh) (hio : HostTakes io)
    (hres : firstReserved r.entry (entryRanges ++ [(50, 2), (73, 1), (88, 40)]) ≠ none) :
    ∃ x d, exec (.search num io t) s = .next x ∧ CompletedWith (s.at t) x r (.bare stInvalid d) ∧ OnlyCompleted (s.at t) x r := by
  have hr' : (s.at t).req? num = some r := hr
  have hent : (s.at t).entryOf num = r.entry := by simp [State.entryOf, hr']
  obtain ⟨d, hd⟩ := lowestBad_of_reserved (entryChecks r.entry ++ [(48, decide (byteAt r.entry 48 < 4)),
    (49, decide (byteAt r.entry 49 < 8)), (72, decide (byteAt r.entry 72 < 3))] ++ [(4, CollRule.named.good r)]) hres
  refine ⟨_, d, ?_, State.complete_completedWith hio, State.complete_only hio⟩
  show execSearch num io t s = _
  simp only [execSearch, State.dataCommit, hr', hent, Option.filter_some, hop, hb, beq_self_eq_true, Bool.and_self, if_true, hd]

/-- A SEARCH of a function without right 0 is ST_DENIED (R132, R441). -/
theorem search_denied {s : State} {num t : Nat} {io : HostIO} {r : Req} (hr : s.req? num = some r) (hop : r.opcode = 1)
    (hb : r.body = .fresh) (hcoll : r.collOk = true) (hio : HostTakes io)
    (hres : firstReserved r.entry (entryRanges ++ [(50, 2), (73, 1), (88, 40)]) = none) (hck : ∀ x ∈ entryChecks r.entry, x.2 = true)
    (h48 : byteAt r.entry 48 < 4) (h49 : byteAt r.entry 49 < 8) (h72 : byteAt r.entry 72 < 3) (hright : bit r.rights 0 = false) :
    ∃ x, exec (.search num io t) s = .next x ∧ CompletedWith (s.at t) x r (.bare stDenied 0) ∧ OnlyCompleted (s.at t) x r := by
  have hr' : (s.at t).req? num = some r := hr
  have hent : (s.at t).entryOf num = r.entry := by simp [State.entryOf, hr']
  have hbad := lowestBad_eq_none (checks := entryChecks r.entry ++ [(48, decide (byteAt r.entry 48 < 4)),
    (49, decide (byteAt r.entry 49 < 8)), (72, decide (byteAt r.entry 72 < 3))] ++ [(4, CollRule.named.good r)]) hres (by
      simp only [List.append_assoc, List.mem_append]
      rintro x (h | h | h)
      · exact hck x h
      · simp only [h48, h49, h72, decide_true, List.mem_cons, List.not_mem_nil, or_false] at h
        rcases h with rfl | rfl | rfl <;> rfl
      · obtain rfl := List.mem_singleton.mp h
        exact hcoll)
  refine ⟨_, ?_, State.complete_completedWith hio, State.complete_only hio⟩
  show execSearch num io t s = _
  simp only [execSearch, State.dataCommit, hr', hent, Option.filter_some, hop, hb, beq_self_eq_true, Bool.and_self, if_true, hbad,
    hright, Bool.not_false]

/-- Settles O25: the shares of an accepted SEARCH, its encoder's turn, and its two refusals. -/
theorem searchIsSentToOwners : Obligations.SearchIsSentToOwners := by
  unfold Obligations.SearchIsSentToOwners
  refine ⟨?_, fun s num io t r hr hop hb hcoll hio => ⟨search_reserved hr hop hb hio, search_denied hr hop hb hcoll hio⟩⟩
  intro s num io t r c e inp q tile hacc he hinp hc hrc _ h48 h49 h72 hend hlex hk1 hk2 hp1 hp2 hl1 hrr hdw htmo hf hl hlb henc hvec
    hsq hq hnorm htile hterm hrange
  have hchecks : ∀ x ∈ s.searchChecks e c, x.2 = true := by
    simp only [State.searchChecks, List.forall_mem_cons, List.not_mem_nil, false_implies, implies_true, and_true]
    refine ⟨by simpa using hend, by simpa [← Bool.not_eq_true, imp_iff_not_or] using hlex, by simp [hk1, hk2], by simp [hp1, hp2],
      by simp [hl1], by simpa using hrr, by simpa using hdw, by simpa using htmo, ?_, ?_, ?_, ?_, ?_⟩
    · by_cases h3 : byteAt e 48 = 3
      · simp [h3]
      · simp [(hvec h3).2.2]
    · by_cases h0 : byteAt e 72 = 0
      · simpa [h0] using hf
      · simpa [h0] using hf
    · by_cases h0 : le e 76 4 = 0
      · simp [h0]
      · simp [hl, hlb h0]
    · split
      · exact (henc ‹_›).1
      · simp [(hvec ‹_›).1]
    · split
      · exact (henc ‹_›).2.1
      · simp [(hvec ‹_›).2.1]
  have hbads : searchBads e inp c q = [] := by
    have hr : (readRanges inp (searchParts e).2.1 (le e 74 2)).findIdx? (fun x => decide (x.2 < x.1)) = none := by
      simp only [List.findIdx?_eq_none_iff, decide_eq_false_iff_not, not_lt]
      exact hrange
    simp only [searchBads, hterm, hr, Option.map_none, Option.toList_none, List.append_nil, List.append_eq_nil_iff]
    constructor
    · split
      · rw [hsq ‹_›]; rfl
      · rfl
    · rw [if_neg]
      simpa using hnorm
  rw [show q = searchQuery s.free e inp c.spec.dimensions from hq] at hbads
  have hex := execSearch_accepted (t := t) hacc he hinp hc hrc h48 h49 h72 (fun h => (henc h).2.2) hchecks hbads
  have hr : (s.at t).req? num = some r := hacc.1
  subst he htile
  refine ⟨fun hturn => ?_, fun h3 hturn => ?_⟩
  · obtain ⟨ho, hs, hls, hfn, hreq, hsh⟩ := State.searchGo_sends (s := s.at t) (c := c) (inp := inp) hr hturn _ rfl
    exact ⟨_, _, hex, ho, hs, hls, hfn, hreq, rfl, rfl, rfl, rfl, rfl, rfl, rfl, rfl, rfl, hq.symm,
      fun o h => ⟨_, rfl, rfl, rfl, rfl, rfl, hsh o h⟩⟩
  · obtain ⟨hf, hw⟩ := State.searchGo_waits (s := s.at t) (c := c) (inp := inp) h3 hturn
    exact ⟨_, hex, hf, hw⟩

end Sys2Proof.Machine
end

-- ==== Proofs: shares at their owner ====
section
/-! SUPPORT. A share arrives at an owner (R29, R50, R114), and its queries take their read stamps (R31, R65). -/

namespace Sys2Proof.Machine

open Sys2Proof

theorem FrameTo.congr {s x : State} (h : x.sched = s.sched) {dest : Nat} {body : Msg} (hf : FrameTo s dest body) : FrameTo x dest body := by
  unfold FrameTo; rw [h]; exact hf

theorem AnswerLeaves.congr {s x : State} (hs : x.sched = s.sched) (he : x.eng.inAnswers = s.eng.inAnswers) {node : Nat} {a : Answer}
    (ha : AnswerLeaves node s a) : AnswerLeaves node x a :=
  ⟨fun e => he ▸ ha.1 e, fun e => (ha.2 e).congr hs⟩

/-! ### Arrival (R29, R50) -/

/-- The shards of a share that have moved on, with their new owners. -/
def State.movedOn (s : State) (l : List Nat) : List (Nat × Nat) :=
  l.filterMap fun i => (s.shard? i).bind fun d => d.forwardTo.map fun n => (i, n)

/-- The shards of a share that have moved on to node `n`. -/
def State.movedTo (s : State) (l : List Nat) (n : Nat) : List Nat := l.filter fun i => (s.shard? i).bind (·.forwardTo) == some n

/-- The shards of a share that this node neither serves nor knows to have moved on. -/
def State.goneFrom (s : State) (l : List Nat) : List Nat := l.filter fun i => !s.serves i && ((s.shard? i).bind (·.forwardTo)).isNone

/-- The part of a share whose shards are at node `n` by now goes there, or is answered as missing (R50). -/
def State.passShareOn (s : State) (m : ShareMsg) (moved : List (Nat × Nat)) (n : Nat) : State :=
  let part := { m with shards := (moved.filter (·.2 == n)).map (·.1), hop := m.hop + 1 }
  if 4 ≤ m.hop then s.sendAnswer m (s.emptyAnswer m part.shards .hopEnded)
  else
    let tag := workTag m.key m.function m.qosClass 1 n (soleShard part.shards) (m.hop + 1)
    s.produce n tag (reservedQueue tag) (.share part)

/-- A share as it is put in place. -/
def newShare (m : ShareMsg) (now : Nat) (parts : List SShard) : Share :=
  { msg := m, arrivedAt := now, shards := parts, t0 := 0, t1 := 0, t3 := 0, pool := none, rerunDone := false, merged := none,
    dups := 0, missing := 0, rows := [], overBuf := [], threshold := none, final := false, cuts := [], failure := none, lostRows := false }

/-- What of a share is not at this node goes on or is answered as missing (R50, R114). -/
def State.forwardShare (s : State) (m : ShareMsg) : State :=
  let mine := m.shards.filter s.serves
  let moved := s.movedOn m.shards
  let gone := m.shards.filter fun i => !mine.contains i && !moved.any (·.1 == i)
  let y := (moved.map (·.2)).eraseDups.foldl (fun z n => z.passShareOn m moved n) s
  if gone.isEmpty then y else y.sendAnswer m (y.emptyAnswer m gone .hopEnded)

/-- A share's queries wait at the ledger arbiters of some shards (R31). -/
def State.queueShare (s : State) (m : ShareMsg) (mine : List Nat) : State :=
  { s with shards := modWhere s.shards (fun d => mine.contains d.id) fun d =>
    { d with waiting := d.waiting ++ [(s.now, .search m.key)] } }

/-- A share is put in place, or takes its new shards in when it is there. -/
def State.placeShare (s : State) (m : ShareMsg) (parts : List SShard) : State :=
  if (s.share? m.key).isSome then s.reopenShare m.key fun h => { h with shards := h.shards ++ parts }
  else if parts.isEmpty then s
  else s.modEng fun e => { e with shares := e.shares ++ [newShare m s.now parts] }

/-- What an admitted share does on arrival. -/
def State.receiveShare (s : State) (m : ShareMsg) : State :=
  let mine := m.shards.filter s.serves
  let y := s.forwardShare m
  (y.queueShare m mine).placeShare m (mine.map fun i => freshPart i y.now)

/-- The last choice of a share's arrival, as its row makes it. -/
theorem placeShare_next (z : State) (m : ShareMsg) (mine : List Nat) (now : Nat) (hn : z.now = now) :
    (match z.share? m.key with
      | some _ => .next (z.reopenShare m.key fun h => { h with shards := h.shards ++ mine.map fun i => freshPart i now })
      | none => if mine.isEmpty then .next z
        else .next (z.modEng fun e => { e with shares := e.shares ++ [newShare m now (mine.map fun i => freshPart i now)] }) : Result) =
      .next (z.placeShare m (mine.map fun i => freshPart i now)) := by
  subst hn
  unfold State.placeShare
  cases z.share? m.key with
  | some h => rfl
  | none => cases mine <;> rfl

theorem execSearchShareArrival_admitted {s y : State} {m : ShareMsg} {t : Nat}
    (h : (s.at t).takeAdmitted (tagIsOf m.key 1) = some y) : exec (.searchShareArrival (some m) t) s = .next (y.receiveShare m) := by
  show execSearchShareArrival (some m) t s = _
  simp only [execSearchShareArrival, h]
  exact placeShare_next ((y.forwardShare m).queueShare m (m.shards.filter y.serves)) m _ _ rfl

theorem execSearchShareArrival_internal {s : State} {m : ShareMsg} {t : Nat} {rest : List ShareMsg} (h : s.eng.inShares = m :: rest) :
    exec (.searchShareArrival none t) s = .next (({ s.at t with eng := { s.eng with inShares := rest } } : State).receiveShare m) := by
  have hh : (s.at t).eng.inShares.head? = some m := by rw [State.at_eng, h]; rfl
  have hd : ((s.at t).modEng fun e => { e with inShares := e.inShares.drop 1 }) = { s.at t with eng := { s.eng with inShares := rest } } := by
    simp [State.modEng, h]
  show execSearchShareArrival none t s = _
  simp only [execSearchShareArrival, hh, hd]
  generalize ({ s.at t with eng := { s.eng with inShares := rest } } : State) = y
  exact placeShare_next ((y.forwardShare m).queueShare m (m.shards.filter y.serves)) m _ _ rfl

section
variable (s : State) (m : ShareMsg)

theorem State.movedOn_map_fst (l : List Nat) (n : Nat) : ((s.movedOn l).filter (·.2 == n)).map (·.1) = s.movedTo l n := by
  induction l with
  | nil => rfl
  | cons i l ih =>
    unfold State.movedOn State.movedTo at ih ⊢
    cases hi : (s.shard? i).bind (·.forwardTo) with
    | none =>
      have : ((s.shard? i).bind fun d => d.forwardTo.map fun n => (i, n)) = none := by
        cases hd : s.shard? i with
        | none => rfl
        | some d => simpa [hd] using hi
      simpa [hi, this] using ih
    | some k =>
      have : ((s.shard? i).bind fun d => d.forwardTo.map fun n => (i, n)) = some (i, k) := by
        obtain ⟨d, hd, hf⟩ := Option.bind_eq_some_iff.mp hi
        simp [hd, hf]
      by_cases hk : k = n
      · simpa [hi, this, hk] using ih
      · simpa [hi, this, hk] using ih

theorem State.mem_movedOn {l : List Nat} {i n : Nat} : (i, n) ∈ s.movedOn l ↔ i ∈ l ∧ (s.shard? i).bind (·.forwardTo) = some n := by
  simp only [State.movedOn, List.mem_filterMap, Option.bind_eq_some_iff, Option.map_eq_some_iff, Prod.mk.injEq]
  constructor
  · rintro ⟨j, hj, d, hd, k, hk, rfl, rfl⟩; exact ⟨hj, d, hd, hk⟩
  · rintro ⟨hj, d, hd, hk⟩; exact ⟨i, hj, d, hd, n, hk, rfl, rfl⟩

theorem State.serves_forwardTo {i : Nat} (h : s.serves i = true) : (s.shard? i).bind (·.forwardTo) = none := by
  unfold State.serves at h
  cases hd : s.shard? i with
  | none => rfl
  | some d => simp [hd] at h; simpa using h.1

theorem State.goneFrom_eq (l : List Nat) :
    (l.filter fun i => !(l.filter s.serves).contains i && !(s.movedOn l).any (·.1 == i)) = s.goneFrom l := by
  refine List.filter_congr fun i hi => ?_
  have h1 : (l.filter s.serves).contains i = s.serves i := by
    rw [Bool.eq_iff_iff]; simp [hi]
  have h2 : (s.movedOn l).any (·.1 == i) = ((s.shard? i).bind (·.forwardTo)).isSome := by
    rw [Bool.eq_iff_iff, List.any_eq_true, Option.isSome_iff_exists]
    constructor
    · rintro ⟨⟨j, n⟩, hm, he⟩
      obtain rfl : j = i := by simpa using he
      exact ⟨n, (s.mem_movedOn.mp hm).2⟩
    · rintro ⟨n, hn⟩
      exact ⟨(i, n), s.mem_movedOn.mpr ⟨hi, hn⟩, by simp⟩
  rw [h1, h2]
  cases (s.shard? i).bind (·.forwardTo) <;> rfl

theorem State.passShareOn_sent (moved : List (Nat × Nat)) (n : Nat) : Sent s (s.passShareOn m moved n) := by
  unfold State.passShareOn
  dsimp only
  split
  · exact State.sendAnswer_sent ..
  · exact State.produce_sent ..

/-- The part of a share for node `n` is on its way there, or is answered as missing at the fifth forward (R50). -/
def PassedOn (node : Nat) (m : ShareMsg) (part : Nat → List Nat) (n : Nat) (x : State) : Prop :=
  (m.hop < 4 → FrameTo x n (.share { m with shards := part n, hop := m.hop + 1 })) ∧
    (4 ≤ m.hop → AnswerLeaves node x
      { key := m.key, node := node, shards := (part n).map fun i => (i, .hopEnded), entries := [], duplicates := 0, missingRows := 0,
        edgesSkipped := 0, reranked := 0, tie := none, pools := [] })

theorem PassedOn.sent {node : Nat} {m : ShareMsg} {part : Nat → List Nat} {n : Nat} {s x : State} (h : Sent s x)
    (hp : PassedOn node m part n s) : PassedOn node m part n x :=
  ⟨fun h4 => (hp.1 h4).sent h, fun h4 => (hp.2 h4).sent h⟩

theorem State.passShareOn_passedOn (moved : List (Nat × Nat)) (n : Nat) :
    PassedOn s.nodeId m (fun n => (moved.filter (·.2 == n)).map (·.1)) n (s.passShareOn m moved n) := by
  unfold State.passShareOn
  dsimp only
  split
  · exact ⟨fun h => by omega, fun _ => State.sendAnswer_leaves _ _ rfl⟩
  · exact ⟨fun _ => State.produce_frameTo .., fun h => by omega⟩

theorem State.forwardShare_sent : Sent s (s.forwardShare m) := by
  unfold State.forwardShare
  dsimp only
  have h := Sent.foldl (fun z n => State.passShareOn_sent z m (s.movedOn m.shards) n) ((s.movedOn m.shards).map (·.2)).eraseDups s
  split
  · exact h
  · exact Sent.trans _ _ _ h (State.sendAnswer_sent ..)

theorem State.sendAnswer_inShares (a : Answer) : (s.sendAnswer m a).eng.inShares = s.eng.inShares := by
  unfold State.sendAnswer
  dsimp only
  split
  · rfl
  · unfold State.sendWork State.produce; dsimp only; split <;> rfl

theorem State.forwardShare_inShares : (s.forwardShare m).eng.inShares = s.eng.inShares := by
  have hpass : ∀ (z : State) n, (z.passShareOn m (s.movedOn m.shards) n).eng.inShares = z.eng.inShares := by
    intro z n
    unfold State.passShareOn
    dsimp only
    split
    · exact State.sendAnswer_inShares ..
    · unfold State.produce; dsimp only; split <;> rfl
  have h := foldl_keeps (fun z : State => z.eng.inShares) (fun z n => z.passShareOn m (s.movedOn m.shards) n) hpass
    ((s.movedOn m.shards).map (·.2)).eraseDups s
  unfold State.forwardShare
  dsimp only
  split
  · exact h
  · exact (State.sendAnswer_inShares ..).trans h

theorem State.forwardShare_passedOn {n : Nat} (h : ∃ i ∈ m.shards, (s.shard? i).bind (·.forwardTo) = some n) :
    PassedOn s.nodeId m (s.movedTo m.shards) n (s.forwardShare m) := by
  obtain ⟨i, hi, hn⟩ := h
  have hmem : n ∈ ((s.movedOn m.shards).map (·.2)).eraseDups := by
    rw [List.mem_eraseDups]
    exact List.mem_map_of_mem (f := Prod.snd) (s.mem_movedOn.mpr ⟨hi, hn⟩)
  have hfold := foldl_brings Sent.refl Sent.trans (fun z n => State.passShareOn_sent z m (s.movedOn m.shards) n) s
    (P := PassedOn s.nodeId m (s.movedTo m.shards)) (fun z n hz => by
      have hp := State.passShareOn_passedOn z m (s.movedOn m.shards) n
      simp only [State.movedOn_map_fst] at hp
      exact hz.nodeId_eq ▸ hp) (fun _ _ _ h hp => hp.sent h) _ s (Sent.refl s) n hmem
  unfold State.forwardShare
  dsimp only
  split
  · exact hfold
  · exact hfold.sent (State.sendAnswer_sent ..)

theorem State.forwardShare_gone (h : s.goneFrom m.shards ≠ []) :
    AnswerLeaves s.nodeId (s.forwardShare m) (s.emptyAnswer m (s.goneFrom m.shards) .hopEnded) := by
  unfold State.forwardShare
  dsimp only
  rw [State.goneFrom_eq, if_neg (by simpa using h)]
  have hs := Sent.foldl (fun z n => State.passShareOn_sent z m (s.movedOn m.shards) n) ((s.movedOn m.shards).map (·.2)).eraseDups s
  generalize List.foldl _ s _ = y at hs ⊢
  have e : y.emptyAnswer m (s.goneFrom m.shards) .hopEnded = s.emptyAnswer m (s.goneFrom m.shards) .hopEnded := by
    simp [State.emptyAnswer, hs.nodeId_eq]
  rw [e, ← hs.nodeId_eq]
  exact State.sendAnswer_leaves _ _ rfl

theorem State.placeShare_frame (parts : List SShard) : s.placeShare m parts =
    { s with arbs := (s.placeShare m parts).arbs, eng :=
      { s.eng with shares := (s.placeShare m parts).eng.shares, porter := (s.placeShare m parts).eng.porter } } := by
  unfold State.placeShare
  split
  · rfl
  · split <;> rfl

theorem State.share?_key {s : State} {k : Key} {h : Share} (hs : s.share? k = some h) : h.msg.key = k := by
  simpa using List.find?_some hs

theorem State.modShare_share? (s : State) (k : Key) {f : Share → Share} (hf : ∀ h, (f h).msg = h.msg) :
    (s.modShare k f).share? k = (s.share? k).map f :=
  find?_modWhere _ _ _ (by simp [hf])

theorem State.placeShare_opened {parts : List SShard} {h : Share} (hs : s.share? m.key = some h) :
    (s.placeShare m parts).share? m.key =
      some { h with shards := h.shards ++ parts, merged := none, final := false, dups := 0, missing := 0, rows := [] } := by
  unfold State.placeShare
  rw [if_pos (Option.isSome_of_eq_some hs)]
  unfold State.reopenShare
  rw [State.modShare_share? _ _ (by intro h; rfl)]
  exact congrArg _ hs

theorem State.placeShare_new {parts : List SShard} (hs : s.share? m.key = none) (hp : parts ≠ []) :
    (s.placeShare m parts).eng.shares = s.eng.shares ++ [newShare m s.now parts] ∧
      (s.placeShare m parts).share? m.key = some (newShare m s.now parts) := by
  have e : s.placeShare m parts = s.modEng fun e => { e with shares := e.shares ++ [newShare m s.now parts] } := by
    unfold State.placeShare
    rw [hs, if_neg (by simp), if_neg (by simpa using hp)]
  have hf : s.eng.shares.find? (·.msg.key == m.key) = none := hs
  rw [e]
  exact ⟨rfl, by simp [State.share?, List.find?_append, hf, newShare]⟩

theorem State.placeShare_nothing (hs : s.share? m.key = none) : s.placeShare m [] = s := by
  simp [State.placeShare, hs]

end

/-- What an admitted share does on arrival (R29, R31, R50): `y` is the state that has taken it in. -/
theorem State.receiveShare_spec (y : State) (m : ShareMsg) {mine : List Nat} (hm : mine = m.shards.filter y.serves) :
    let x := y.receiveShare m
    x.lists = y.lists ∧ x.fns = y.fns ∧ x.out = y.out ∧ x.sched.taken = y.sched.taken ∧ x.eng.inShares = y.eng.inShares ∧
      (∀ i d, y.shard? i = some d → x.shard? i =
        some (if i ∈ mine then { d with waiting := d.waiting ++ [(y.now, .search m.key)] } else d)) ∧
      (y.share? m.key = none → mine ≠ [] →
        ∃ h, x.share? m.key = some h ∧ h.msg = m ∧ h.arrivedAt = y.now ∧ h.shards.map (·.shard) = mine ∧
          (∀ p ∈ h.shards, p.stage = .waitStamp) ∧ x.eng.shares = y.eng.shares ++ [h]) ∧
      (y.share? m.key = none → mine = [] → x.eng.shares = y.eng.shares) ∧
      (∀ h, y.share? m.key = some h →
        ∃ g, x.share? m.key = some g ∧ g.shards.map (·.shard) = h.shards.map (·.shard) ++ mine ∧ g.merged = none ∧ g.dups = 0 ∧
          g.missing = 0 ∧ g.msg = h.msg) ∧
      (∀ n, (∃ i ∈ m.shards, (y.shard? i).bind (·.forwardTo) = some n) → PassedOn y.nodeId m (y.movedTo m.shards) n x) ∧
      (y.goneFrom m.shards ≠ [] → AnswerLeaves y.nodeId x (y.emptyAnswer m (y.goneFrom m.shards) .hopEnded)) := by
  have hsent := State.forwardShare_sent y m
  have hin := State.forwardShare_inShares y m
  have hpass := fun n => State.forwardShare_passedOn y m (n := n)
  have hgone := State.forwardShare_gone y m
  intro x
  have hx : x = ((y.forwardShare m).queueShare m mine).placeShare m (mine.map fun i => freshPart i (y.forwardShare m).now) := by rw [hm]; rfl
  clear_value x
  generalize y.forwardShare m = z at hsent hin hpass hgone hx
  have hfr := State.placeShare_frame (z.queueShare m mine) m (mine.map fun i => freshPart i z.now)
  rw [← hx] at hfr
  have hnow : z.now = y.now := by rw [hsent.frame]; rfl
  have hshare : ∀ k, (z.queueShare m mine).share? k = y.share? k := by
    intro k; show z.share? k = _; rw [hsent.frame]; rfl
  have hsched : x.sched = z.sched := by rw [hfr]; rfl
  have hans : x.eng.inAnswers = z.eng.inAnswers := by rw [hfr]; rfl
  have hparts : (mine.map fun i => freshPart i z.now).map (·.shard) = mine := by simp [Function.comp_def, freshPart]
  have hshares : z.eng.shares = y.eng.shares := by rw [hsent.frame]
  refine ⟨?_, ?_, ?_, ?_, ?_, ?_, ?_, ?_, ?_, ?_, ?_⟩
  · rw [hfr]; exact hsent.lists_eq
  · rw [hfr]; exact hsent.fns_eq
  · rw [hfr]; exact hsent.out_eq
  · rw [hsched, hsent.frame]
  · rw [hfr]; exact hin
  · intro i d hd
    have hxs : x.shard? i = (z.queueShare m mine).shard? i := by rw [hfr]; rfl
    have hzd : z.shard? i = some d := by rw [hsent.frame]; exact hd
    rw [hxs, State.shard?_modWhere (s := z) (x := z.queueShare m mine) rfl (by intro d; rfl), hzd, hnow]
    simp [State.shard?_id hd]
  · intro hn hne
    obtain ⟨h1, h2⟩ := State.placeShare_new (z.queueShare m mine) m (parts := mine.map fun i => freshPart i z.now)
      ((hshare _).trans hn) (by simpa using hne)
    rw [← hx] at h1 h2
    refine ⟨_, h2, rfl, hnow, hparts, ?_, h1.trans (congrArg (· ++ _) hshares)⟩
    simp [newShare, freshPart]
  · rintro hn rfl
    rw [hx, List.map_nil, State.placeShare_nothing _ _ ((hshare _).trans hn)]
    exact hshares
  · intro h hh
    have h1 := State.placeShare_opened (z.queueShare m mine) m (parts := mine.map fun i => freshPart i z.now) ((hshare _).trans hh)
    rw [← hx] at h1
    exact ⟨_, h1, by rw [List.map_append, hparts], rfl, rfl, rfl, rfl⟩
  · intro n hn
    obtain ⟨h1, h2⟩ := hpass n hn
    exact ⟨fun h => (h1 h).congr hsched, fun h => (h2 h).congr hsched hans⟩
  · exact fun h => (hgone h).congr hsched hans

/-- Settles O26: an admitted share, or the first of the internal path, is received; one that has not been admitted does nothing. -/
theorem shareArrival : Obligations.ShareArrival := by
  unfold Obligations.ShareArrival
  constructor
  · intro s y m t i mine hi hmine
    have hy : exec i s = .next (y.receiveShare m) ∧ y = { s.at t with sched := y.sched, eng := { s.eng with inShares := y.eng.inShares } } := by
      rcases hi with ⟨rfl, hadm⟩ | ⟨rfl, rest, hin, rfl⟩
      · refine ⟨execSearchShareArrival_admitted hadm, ?_⟩
        unfold State.takeAdmitted at hadm
        split at hadm
        · cases hadm
        · obtain rfl := Option.some.inj hadm; rfl
      · exact ⟨execSearchShareArrival_internal hin, rfl⟩
    obtain ⟨hex, hy⟩ := hy
    have hserves : y.serves = s.serves := by rw [hy]; rfl
    have hshard : y.shard? = s.shard? := by rw [hy]; rfl
    have hshare : y.share? = s.share? := by rw [hy]; rfl
    have hnode : y.nodeId = s.nodeId := by rw [hy]; rfl
    have hnow : y.now = (s.at t).now := by rw [hy]; rfl
    have hsh : y.eng.shares = s.eng.shares := by rw [hy]
    have hmoved : y.movedTo m.shards = s.movedTo m.shards := by rw [hy]; rfl
    have hempty : ∀ l, y.emptyAnswer m l .hopEnded = s.emptyAnswer m l .hopEnded := by intro l; simp [State.emptyAnswer, hnode]
    obtain ⟨hl, hf, ho, ht, hin, hwait, hnew, hnone, hold, hpass, hgone⟩ := y.receiveShare_spec m (hserves ▸ hmine)
    simp only [hshard, hshare, hnode, hnow, hsh, hempty, hmoved, State.goneFrom, hserves] at hwait hnew hnone hold hpass hgone
    refine ⟨_, hex, hl.trans (by rw [hy]; rfl), hf.trans (by rw [hy]; rfl), ho.trans (by rw [hy]; rfl), ht, hin, hwait, hnew, hnone, hold, hpass, ?_⟩
    rintro ⟨i, hi, hs, hn⟩
    refine hgone (List.ne_nil_of_mem (List.mem_filter.mpr ⟨hi, ?_⟩))
    rw [hs, hn]; rfl
  · intro s m t h
    show execSearchShareArrival (some m) t s = _
    simp only [execSearchShareArrival, h]

/-! ### Read stamps (R31 steps 3 and 4, R65) -/

/-- What the scoring of a share's part on a shard waits for: its projection, or its formation scoring (R154). -/
def stampWork (k : Key) (p : SShard) : Work := if p.forming then .forming k p.shard else .project k p.shard

/-- A part of a share takes its read stamp (R31 step 3). -/
def SShard.stamped (p : SShard) (stamp : Nat) (forming : Bool) (now : Nat) : SShard :=
  { p with stamp := stamp, forming := forming, stage := .project, since := now }

/-- The projections and formation scorings of a share's parts are requested (R31 step 4). -/
def State.askTensor (s : State) (tile : Nat) (k : Key) (p : SShard) : State :=
  if p.stage != .project then s else s.needTensor tile false false (stampWork k p)

theorem State.askTensors_frame (s : State) (tile : Nat) (k : Key) (l : List SShard) :
    l.foldl (fun s p => s.askTensor tile k p) s =
      { s with arbs := (l.foldl (fun s p => s.askTensor tile k p) s).arbs, pwr := (l.foldl (fun s p => s.askTensor tile k p) s).pwr } := by
  have e := foldl_keeps (fun s : State => ({ s with arbs := [], pwr := {} } : State)) (fun s p => s.askTensor tile k p) (fun s p => by
    unfold State.askTensor; split
    · rfl
    · rw [State.needTensor_frame]) l s
  generalize l.foldl (fun s p => s.askTensor tile k p) s = x at e ⊢
  cases s; cases x; simpa using e

/-- Every part that is to be projected is waited for at the tile's tensor clusters. -/
theorem State.askTensors_waits (s : State) (tile : Nat) (k : Key) (l : List SShard) :
    ∀ p ∈ l, p.stage = .project → Waits (l.foldl (fun s p => s.askTensor tile k p) s) (tensorArb tile) (stampWork k p) :=
  foldl_brings (R := fun s x => ∀ j w, Waits s j w → Waits x j w) (fun _ _ _ h => h) (fun _ _ _ h g j w hw => g j w (h j w hw))
    (fun s p j w hw => by
      unfold State.askTensor; split
      · exact hw
      · exact State.needTensor_keeps_waits _ _ _ _ _ hw) s
    (P := fun p x => p.stage = .project → Waits x (tensorArb tile) (stampWork k p))
    (fun s p _ hp => by
      unfold State.askTensor
      rw [if_neg (by simp [hp])]
      exact State.needTensor_waits ..)
    (fun _ _ p h hp (hs : p.stage = .project) => h _ _ (hp hs)) l s (fun _ _ h => h)

theorem Share.modPart_part? (h : Share) (i : Nat) {f : SShard → SShard} (hf : ∀ p, (f p).shard = p.shard) :
    (h.modPart i f).part? i = (h.part? i).map f :=
  find?_modWhere _ _ _ (by simp [hf])

theorem State.modPart_share? (s : State) (k : Key) (i : Nat) (f : SShard → SShard) :
    (s.modPart k i f).share? k = (s.share? k).map (·.modPart i f) :=
  State.modShare_share? s k fun _ => rfl

/-- A request at an arbiter keeps what every arbiter has counted. -/
theorem State.arbRequest_stats (s : State) (id n : Nat) (b rb : Bool) (w : Work) (a : Nat) :
    ((s.arbRequest id n b rb w).arb a).stats = (s.arb a).stats := by
  by_cases h : a = id
  · subst h
    unfold State.arbRequest
    rw [State.modArb_arb_same (by intro x; split <;> rfl)]
    split <;> rfl
  · rw [State.arbRequest_arb_ne h]

theorem State.needTensor_stats (s : State) (tile : Nat) (b rb : Bool) (w : Work) (a : Nat) :
    ((s.needTensor tile b rb w).arb a).stats = (s.arb a).stats := by
  have hn : ∀ (z : State) u, ((z.needUnit u).arb a).stats = (z.arb a).stats := by
    intro z u
    unfold State.needUnit
    split
    · exact State.arbRequest_stats (z.setUnit u .waiting) _ _ _ _ _ a
    · rfl
  unfold State.needTensor
  dsimp only
  split
  · exact State.arbRequest_stats ..
  · exact (hn _ _).trans (State.arbRequest_stats ..)

theorem State.askTensors_stats (s : State) (tile : Nat) (k : Key) (l : List SShard) (a : Nat) :
    ((l.foldl (fun s p => s.askTensor tile k p) s).arb a).stats = (s.arb a).stats :=
  foldl_keeps (fun s : State => (s.arb a).stats) (fun s p => s.askTensor tile k p) (fun s p => by
    unfold State.askTensor; split
    · rfl
    · exact State.needTensor_stats ..) l s

/-- A count of a requester is there after a wait of it was added (R59). -/
theorem bumpStat_counts (l : List ArbStat) (requester wait : Nat) :
    ∃ g ∈ bumpStat l requester wait, g.requester = requester ∧ 0 < g.grants := by
  unfold bumpStat
  split
  · rename_i h
    obtain ⟨g, hg, hr⟩ := List.any_eq_true.mp h
    refine ⟨{ g with grants := g.grants + 1, waitTotal := g.waitTotal + wait, waitMax := max g.waitMax wait },
      List.mem_map.mpr ⟨g, hg, ?_⟩, by simpa using hr, Nat.succ_pos _⟩
    rw [if_pos hr]
  · exact ⟨⟨requester, 1, wait, wait⟩, by simp, rfl, Nat.one_pos⟩

/-- The head of a ledger arbiter's queue leaves it, its grant counted (R59, R65). -/
def State.grantHead (s : State) (shard : Nat) (d : Shard) (since : Nat) (rest : List (Nat × LedgerWhat)) : State :=
  (s.modShard shard fun d => { d with waiting := rest }).countLedger d since

theorem State.grantHead_frame (s : State) (shard : Nat) (d : Shard) (since : Nat) (rest : List (Nat × LedgerWhat)) :
    s.grantHead shard d since rest =
      { s with shards := (s.grantHead shard d since rest).shards, arbs := (s.grantHead shard d since rest).arbs } := by
  unfold State.grantHead State.countLedger; dsimp only; rw [State.modArb_frame]; rfl

theorem State.grantHead_shard? {s : State} {shard : Nat} {d : Shard} (hd : s.shard? shard = some d) (since : Nat)
    (rest : List (Nat × LedgerWhat)) :
    (s.grantHead shard d since rest).shard? shard = some { d with waiting := rest } ∧
      ∀ i, i ≠ shard → (s.grantHead shard d since rest).shard? i = s.shard? i := by
  have h : ∀ i, (s.grantHead shard d since rest).shard? i = (s.shard? i).map fun d => if d.id == shard then { d with waiting := rest } else d := by
    intro i
    have e : (s.grantHead shard d since rest).shard? i = (s.modShard shard fun d => { d with waiting := rest }).shard? i := by
      unfold State.grantHead State.countLedger; dsimp only; rw [State.modArb_frame]; rfl
    rw [e]; exact State.modShard_shard? s shard (by intro d; rfl) i
  constructor
  · rw [h, hd, Option.map_some, State.shard?_id hd, beq_self_eq_true, if_pos rfl]
  · intro i hi
    rw [h]
    cases he : s.shard? i with
    | none => rfl
    | some e => simp [State.shard?_id he, hi]

theorem State.grantHead_counts (s : State) (shard : Nat) (d : Shard) (since : Nat) (rest : List (Nat × LedgerWhat)) :
    ∃ g ∈ ((s.grantHead shard d since rest).arb (0x1000 + d.ledger)).stats, g.requester = 0 ∧ 0 < g.grants := by
  unfold State.grantHead State.countLedger
  dsimp only
  rw [State.modArb_arb_same (by intro a; rfl)]
  exact bumpStat_counts ..

/-- A query takes its read stamp on a shard and is held as its reader (R31, R281). -/
def State.holdRead (s : State) (shard : Nat) (k : Key) (stamp : Nat) (forming : Bool) : State :=
  (s.modShard shard fun d => { d with readers := d.readers ++ [(.req k, stamp)] }).modPart k shard (SShard.stamped · stamp forming s.now)

/-- What a query does at the head of a ledger arbiter (R31): its part of shard `d` takes the counter as its read stamp, and with its
last read stamp the scorings are requested. -/
theorem State.stampShare_eq {s : State} {shard : Nat} {k : Key} {d : Shard} {h : Share} (hd : s.shard? shard = some d)
    (hk : s.share? k = some h) {f : Bool} (hf : f = (match d.switchW with | some w => decide (d.counter < w) | none => true)) :
    s.stampShare shard k =
      if h.shards.any fun p => p.shard != shard && p.stage == .waitStamp then s.holdRead shard k d.counter f
      else (h.modPart shard (SShard.stamped · d.counter f s.now)).shards.foldl (fun z p => z.askTensor (s.homeTile k.num) k p)
        (s.holdRead shard k d.counter f) := by
  have hy : ((s.holdRead shard k d.counter f).share? k) = some (h.modPart shard (SShard.stamped · d.counter f s.now)) := by
    unfold State.holdRead
    rw [State.modPart_share?]
    exact congrArg _ hk
  subst hf
  have hl : (((s.holdRead shard k d.counter _).share? k).map (·.shards)).getD [] = _ := congrArg (fun o => (o.map Share.shards).getD []) hy
  unfold State.stampShare
  simp only [hd, hk]
  split
  · rfl
  · exact congrArg (fun l => List.foldl (fun (z : State) p => z.askTensor (s.homeTile k.num) k p) (s.holdRead shard k d.counter _) l) hl

theorem State.holdRead_frame (s : State) (shard : Nat) (k : Key) (stamp : Nat) (f : Bool) :
    s.holdRead shard k stamp f =
      { s with shards := (s.holdRead shard k stamp f).shards, eng := (s.holdRead shard k stamp f).eng } := rfl

theorem execLedgerStamp_search {s : State} {shard t a : Nat} {k : Key} {rest : List (Nat × LedgerWhat)} {d : Shard}
    (hd : s.shard? shard = some d) (hw : d.waiting = (a, .search k) :: rest) :
    exec (.ledgerStamp shard t) s = .next (((s.at t).grantHead shard d a rest).stampShare shard k) := by
  have hd' : (s.at t).shard? shard = some d := hd
  show execLedgerStamp shard t s = _
  simp only [execLedgerStamp, hd', hw]
  rfl

/-- Settles O27: the query at the head is granted, holds the counter as its read stamp, and asks for its scorings with its last. -/
theorem readStampOfASearch : Obligations.ReadStampOfASearch := by
  unfold Obligations.ReadStampOfASearch
  intro s shard t a k rest d h p f hd hw hk hp hf
  have hex := execLedgerStamp_search (t := t) hd hw
  obtain ⟨hgs, hgn⟩ := State.grantHead_shard? (s := s.at t) hd a rest
  have hgf := State.grantHead_frame (s.at t) shard d a rest
  have hgc := State.grantHead_counts (s.at t) shard d a rest
  generalize (s.at t).grantHead shard d a rest = y at hex hgs hgn hgf hgc
  have hyk : y.share? k = some h := by rw [hgf]; exact hk
  rw [State.stampShare_eq hgs hyk hf] at hex
  have hnow : y.now = (s.at t).now := by rw [hgf]; rfl
  have htile : y.homeTile k.num = s.homeTile k.num := by rw [hgf]; rfl
  have hshare : (y.holdRead shard k d.counter f).share? k = some (h.modPart shard (SShard.stamped · d.counter f y.now)) := by
    unfold State.holdRead
    rw [State.modPart_share?]
    exact congrArg _ hyk
  have hshard : ∀ i, (y.holdRead shard k d.counter f).shard? i =
      (y.shard? i).map fun d' => if d'.id == shard then { d' with readers := d'.readers ++ [(.req k, d.counter)] } else d' :=
    State.modShard_shard? y shard (by intro d; rfl)
  rw [htile, hnow] at hex
  rw [hnow] at hshare
  have hzf := State.holdRead_frame y shard k d.counter f
  have hzst : ((y.holdRead shard k d.counter f).arb (0x1000 + d.ledger)).stats = (y.arb (0x1000 + d.ledger)).stats := rfl
  generalize y.holdRead shard k d.counter f = z at hex hshare hshard hzf hzst
  -- the scorings that may follow change arbiters and units only
  obtain ⟨x, hx, hxf, hxst, hxw⟩ : ∃ x, exec (.ledgerStamp shard t) s = .next x ∧ x = { z with arbs := x.arbs, pwr := x.pwr } ∧
      (x.arb (0x1000 + d.ledger)).stats = (z.arb (0x1000 + d.ledger)).stats ∧
      ((∀ q ∈ h.shards, q.shard ≠ shard → q.stage ≠ .waitStamp) →
        ∀ q ∈ (h.modPart shard (SShard.stamped · d.counter f (s.at t).now)).shards, q.stage = .project →
          Waits x (tensorArb (s.homeTile k.num)) (stampWork k q)) := by
    by_cases hany : (h.shards.any fun p => p.shard != shard && p.stage == .waitStamp) = true
    · rw [if_pos hany] at hex
      refine ⟨z, hex, rfl, rfl, fun hall => ?_⟩
      obtain ⟨q, hq, hqs⟩ := List.any_eq_true.mp hany
      simp only [Bool.and_eq_true, bne_iff_ne, ne_eq, beq_iff_eq] at hqs
      exact absurd hqs.2 (hall q hq hqs.1)
    · rw [if_neg hany] at hex
      exact ⟨_, hex, State.askTensors_frame .., State.askTensors_stats .., fun _ => State.askTensors_waits _ _ _ _⟩
  have hxs : x.shard? = z.shard? := by rw [hxf]; rfl
  have hxk : x.share? = z.share? := by rw [hxf]; rfl
  refine ⟨x, hx, ?_, ?_, ?_, ?_, ?_, ?_⟩
  · rw [hxf, hzf, hgf]
  · rw [hxs, hshard, hgs, Option.map_some, State.shard?_id hd, beq_self_eq_true, if_pos rfl]
  · rw [hxk, hshare, Option.bind_some, Share.modPart_part? _ _ (by intro p; rfl), hp]
    rfl
  · intro hall q hq hqs
    have hm := hxw hall _ (List.mem_map_of_mem hq)
    by_cases hsh : q.shard = shard
    · simpa [hsh, SShard.stamped, stampWork] using hm
    · have hst := hqs.resolve_left hsh
      simpa [hsh, hst, stampWork] using hm
  · rw [hxst, hzst]; exact hgc
  · intro i hi
    rw [hxs, hshard, hgn i hi]
    cases he : (s.at t).shard? i with
    | none => exact he.symm
    | some e => simp [State.shard?_id he, hi]; exact he.symm

end Sys2Proof.Machine
end

-- ==== Proofs: mutations at their origin ====
section
/-! SUPPORT. INSERT, UPSERT, DELETE and SCATTER become members at their origin (R33, R261, R262, R315). -/

namespace Sys2Proof.Machine

open Sys2Proof

theorem State.sendMember_sent (s : State) (c : Coll) (op : Nat) (m : MemberMsg) : Sent s (s.sendMember c op m) := by
  have hin : Sent s (s.modEng fun e => { e with inMembers := e.inMembers ++ [m] }) :=
    ⟨rfl, fun _ h => h, fun _ h => h, fun _ h => h, by simp, fun _ h => h, fun _ h => h⟩
  unfold State.sendMember
  split
  · exact hin
  · split
    · exact hin
    · exact State.sendWork_sent ..

theorem State.sendMember_memberSent (s : State) (c : Coll) (op : Nat) (m : MemberMsg) :
    MemberSent s.nodeId c (s.sendMember c op m) m := by
  intro o ho
  unfold State.sendMember
  simp only [ho]
  split
  · rename_i h
    exact ⟨fun _ => by simp, fun hn => absurd h hn⟩
  · rename_i h
    exact ⟨fun hn => absurd hn h, fun _ => State.sendWork_frameTo ..⟩

/-- The members that the items of a batch become (R261). -/
def batchMembers (node : Nat) (r : Req) (c : Coll) (kind : MemberKind) (byRef : Bool) (fmt : Nat) (items : List (Nat × Bytes)) :
    List MemberMsg :=
  items.zipIdx.map fun x =>
    { key := ⟨node, r.num⟩, index := x.2, function := r.fn, qosClass := r.qosClass, hop := 0, collection := c.spec.id,
      shard := memberShard c byRef x.1.1, kind := kind, byRef := byRef, name := x.1.1, format := fmt, entry := x.1.2 }

theorem State.startMembers_eq (s : State) (r : Req) (c : Coll) (kind : MemberKind) (byRef : Bool) (fmt : Nat) (items : List (Nat × Bytes)) :
    s.startMembers r c kind byRef fmt items =
      (batchMembers s.nodeId r c kind byRef fmt items).foldl (fun s m => s.sendMember c r.opcode m)
        (s.modReq r.num fun r' => { r' with body := .mutation ((batchMembers s.nodeId r c kind byRef fmt items).map fun m => ⟨m, none, false, false⟩) }) :=
  rfl

theorem State.req?_num {s : State} {n : Nat} {r : Req} (h : s.req? n = some r) : r.num = n := by
  simpa using List.find?_some h

/-- A mutation becomes its members, in the order of its batch, each without an outcome and on its way to its owner (R261, R265). -/
theorem State.startMembers_spec {s : State} {num : Nat} {r : Req} (hr : s.req? num = some r) (c : Coll) (kind : MemberKind) (byRef : Bool)
    (fmt : Nat) (items : List (Nat × Bytes)) :
    ∃ ms : List OMember, let x := s.startMembers r c kind byRef fmt items
      x.req? num = some { r with body := .mutation ms } ∧
      ms.map (fun m => (m.msg.index, m.msg.name, m.msg.kind, m.outcome)) = items.zipIdx.map (fun y => (y.2, y.1.1, kind, none)) ∧
      (∀ m ∈ ms, m.msg.key = ⟨s.nodeId, num⟩ ∧ m.msg.byRef = byRef ∧ m.msg.shard = memberShard c byRef m.msg.name ∧
        MemberSent s.nodeId c x m.msg) ∧ x.shards = s.shards ∧ x.lists = s.lists ∧ x.fns = s.fns ∧ x.out = s.out := by
  obtain rfl := State.req?_num hr
  refine ⟨(batchMembers s.nodeId r c kind byRef fmt items).map fun m => ⟨m, none, false, false⟩, ?_⟩
  intro x
  have hx : x = _ := State.startMembers_eq s r c kind byRef fmt items
  generalize hy : (s.modReq r.num fun r' => { r' with body := .mutation ((batchMembers s.nodeId r c kind byRef fmt items).map
    fun m => (⟨m, none, false, false⟩ : OMember)) }) = y at hx
  have hyr : y.req? r.num = some { r with body := .mutation ((batchMembers s.nodeId r c kind byRef fmt items).map
      fun m => (⟨m, none, false, false⟩ : OMember)) } := by
    rw [← hy, State.modReq_req (by intro r; rfl), hr]; rfl
  have hnode : y.nodeId = s.nodeId := by rw [← hy]; rfl
  have hsent : Sent y x := hx ▸ Sent.foldl (fun _ _ => State.sendMember_sent ..) _ y
  have hms : ∀ m ∈ batchMembers s.nodeId r c kind byRef fmt items, MemberSent s.nodeId c x m := by
    rw [hx]
    exact foldl_brings Sent.refl Sent.trans (fun _ _ => State.sendMember_sent ..) y (P := fun m x => MemberSent s.nodeId c x m)
      (fun z m hz => hnode ▸ hz.nodeId_eq ▸ State.sendMember_memberSent z c _ m) (fun _ _ _ h hm => hm.sent h) _ y (Sent.refl y)
  refine ⟨?_, ?_, ?_, ?_, ?_, ?_, ?_⟩
  · rw [← hyr]; simp [State.req?, hsent.reqs_eq]
  · simp [batchMembers, Function.comp_def]
  · intro m hm
    obtain ⟨g, hg, rfl⟩ := List.mem_map.mp hm
    have hg' := hms g hg
    obtain ⟨z, -, rfl⟩ := List.mem_map.mp hg
    exact ⟨rfl, rfl, rfl, hg'⟩
  · rw [hsent.shards_eq, ← hy]; rfl
  · rw [hsent.lists_eq, ← hy]; rfl
  · rw [hsent.fns_eq, ← hy]; rfl
  · rw [hsent.out_eq, ← hy]; rfl

section
variable {s : State} {num op t : Nat} {io : HostIO} {r : Req} {c : Coll} {inp : Bytes}

/-- The items of a batch of entries: the identifier that each entry begins with, and its bytes (R262). -/
def batchItems (inp : Bytes) (vec count : Nat) : List (Nat × Bytes) :=
  (splitEntries inp vec count 0).map fun x => (le inp x.1 8, slice inp x.1 x.2)

theorem State.insertCommand_accepted {kind : MemberKind} (hacc : Accepted s num op io [(49, 3), (56, 72)] .named (some 1) (16 * le r.entry 52 4) r)
    (hc : s.coll? r.collection = some c) (hinp : inp = slice (io.input.getD []) 0 (le r.entry 24 4)) (h48 : byteAt r.entry 48 < 3)
    (h1 : 1 ≤ le r.entry 52 4) (h2 : le r.entry 52 4 ≤ 4096)
    (hend : entriesEnd (splitEntries inp (vectorBytes (byteAt r.entry 48) c.spec.dimensions) (le r.entry 52 4) 0) ≤ le r.entry 24 4) :
    s.insertCommand num op kind io = s.startMembers r c kind false (byteAt r.entry 48)
      (batchItems inp (vectorBytes (byteAt r.entry 48) c.spec.dimensions) (le r.entry 52 4)) := by
  have hent : s.entryOf num = r.entry := by simp [State.entryOf, hacc.1]
  have hbad := lowestBad_eq_none (b := r.entry) (ranges := []) (checks := [(24, decide (entriesEnd (splitEntries inp
    (vectorBytes (byteAt r.entry 48) c.spec.dimensions) (le r.entry 52 4) 0) ≤ le r.entry 24 4)),
    (52, decide (1 ≤ le r.entry 52 4) && decide (le r.entry 52 4 ≤ 4096))]) rfl (by simp [hend, h1, h2])
  simp only [State.insertCommand, hent]
  rw [State.dataCommit_accepted hacc (by simp [h48])]
  simp only [hc, if_pos h2, ← hinp, hbad]
  rfl

theorem execDelete_accepted (hacc : Accepted s num 3 io [(48, 4), (56, 72)] .named (some 1) (16 * le r.entry 52 4) r)
    (hc : s.coll? r.collection = some c) (hinp : inp = slice (io.input.getD []) 0 (le r.entry 24 4)) (h1 : 1 ≤ le r.entry 52 4)
    (h2 : le r.entry 52 4 ≤ 65536) (hend : 8 * le r.entry 52 4 ≤ le r.entry 24 4) :
    execDelete num io t s =
      .next ((s.at t).startMembers r c .delete false 0 ((readIds inp 0 (le r.entry 52 4)).map fun i => (i, []))) := by
  have hr : (s.at t).req? num = some r := hacc.1
  have hent : (s.at t).entryOf num = r.entry := by simp [State.entryOf, hr]
  have hc' : (s.at t).coll? r.collection = some c := hc
  have hbad := lowestBad_eq_none (b := r.entry) (ranges := []) (checks := [(24, decide (8 * le r.entry 52 4 ≤ le r.entry 24 4)),
    (52, decide (1 ≤ le r.entry 52 4) && decide (le r.entry 52 4 ≤ 65536))]) rfl (by simp [hend, h1, h2])
  simp only [execDelete, hent]
  rw [State.dataCommit_accepted (hacc.at t) (by simp)]
  simp only [hc', ← hinp, hbad]

theorem execScatter_accepted (hacc : Accepted s num 6 io [(51, 1), (56, 72)] .named (some 3) (16 * le r.entry 52 4) r)
    (hc : s.coll? r.collection = some c) (hinp : inp = slice (io.input.getD []) 0 (le r.entry 24 4)) (h48 : byteAt r.entry 48 < 2)
    (h49 : byteAt r.entry 49 < 2) (h50 : byteAt r.entry 50 < 3) (h1 : 1 ≤ le r.entry 52 4) (h2 : le r.entry 52 4 ≤ 4096)
    (hend : entriesEnd (splitEntries inp (vectorBytes (byteAt r.entry 50) c.spec.dimensions) (le r.entry 52 4) 0) ≤ le r.entry 24 4) :
    execScatter num io t s =
      .next ((s.at t).startMembers r c (if byteAt r.entry 48 = 0 then .replace else .accumulate) (byteAt r.entry 49 == 1) (byteAt r.entry 50)
        (batchItems inp (vectorBytes (byteAt r.entry 50) c.spec.dimensions) (le r.entry 52 4))) := by
  have hr : (s.at t).req? num = some r := hacc.1
  have hent : (s.at t).entryOf num = r.entry := by simp [State.entryOf, hr]
  have hc' : (s.at t).coll? r.collection = some c := hc
  have hbad := lowestBad_eq_none (b := r.entry) (ranges := []) (checks := [(24, decide (entriesEnd (splitEntries inp
    (vectorBytes (byteAt r.entry 50) c.spec.dimensions) (le r.entry 52 4) 0) ≤ le r.entry 24 4)),
    (52, decide (1 ≤ le r.entry 52 4) && decide (le r.entry 52 4 ≤ 4096))]) rfl (by simp [hend, h1, h2])
  simp only [execScatter, hent]
  rw [State.dataCommit_accepted (hacc.at t) (by simp [h48, h49, h50])]
  simp only [hc', if_pos h2, ← hinp, hbad]
  rfl

end

/-- Settles O34: INSERT and UPSERT, DELETE, and SCATTER become the members of their batch. -/
theorem mutationsBecomeMembers : Obligations.MutationsBecomeMembers := by
  unfold Obligations.MutationsBecomeMembers
  refine ⟨?_, ?_, ?_⟩
  · intro s num t op io r c inp i kind hi hacc hc hinp h48 h1 h2 hend
    have hex : exec i s = .next ((s.at t).insertCommand num op kind io) := by
      simp only [List.mem_cons, Prod.mk.injEq, List.not_mem_nil, or_false] at hi
      rcases hi with ⟨rfl, rfl, rfl⟩ | ⟨rfl, rfl, rfl⟩ <;> rfl
    rw [State.insertCommand_accepted (s := s.at t) hacc hc hinp h48 h1 h2 hend] at hex
    obtain ⟨ms, hreq, hmap, hms, hs, hl, hf, ho⟩ := State.startMembers_spec (s := s.at t) hacc.1 c kind false (byteAt r.entry 48)
      (batchItems inp (vectorBytes (byteAt r.entry 48) c.spec.dimensions) (le r.entry 52 4))
    refine ⟨_, ms, hex, hreq, hmap.trans ?_, fun m hm => ?_, hs, hl, hf, ho⟩
    · simp [batchItems, List.zipIdx_map, Function.comp_def]
    · obtain ⟨hk, -, hsh, hsent⟩ := hms m hm
      exact ⟨hk, hsh, hsent⟩
  · intro s num t io r c inp hacc hc hinp h1 h2 hend
    have hex : exec (.delete num io t) s = _ := execDelete_accepted hacc hc hinp h1 h2 hend
    obtain ⟨ms, hreq, hmap, hms, hs, hl, hf, ho⟩ := State.startMembers_spec (s := s.at t) hacc.1 c .delete false 0
      ((readIds inp 0 (le r.entry 52 4)).map fun i => (i, []))
    refine ⟨_, ms, hex, hreq, hmap.trans ?_, fun m hm => ?_, hs, hl, hf, ho⟩
    · simp [List.zipIdx_map, Function.comp_def]
    · obtain ⟨-, -, hsh, hsent⟩ := hms m hm
      exact ⟨hsh, hsent⟩
  · intro s num t io r c inp hacc hc hinp h48 h49 h50 h1 h2 hend
    have hex : exec (.scatter num io t) s = _ := execScatter_accepted hacc hc hinp h48 h49 h50 h1 h2 hend
    obtain ⟨ms, hreq, hmap, hms, hs, hl, hf, ho⟩ := State.startMembers_spec (s := s.at t) hacc.1 c
      (if byteAt r.entry 48 = 0 then .replace else .accumulate) (byteAt r.entry 49 == 1) (byteAt r.entry 50)
      (batchItems inp (vectorBytes (byteAt r.entry 50) c.spec.dimensions) (le r.entry 52 4))
    refine ⟨_, ms, hex, hreq, hmap.trans ?_, fun m hm => ?_, hs, hl, hf, ho⟩
    · simp [batchItems, List.zipIdx_map, Function.comp_def]
    · obtain ⟨-, hb, hsh, hsent⟩ := hms m hm
      refine ⟨hb, hsh.trans ?_, hsent⟩
      simp [memberShard]

end Sys2Proof.Machine
end

-- ==== Proofs: an accumulate and the packing of its row ====
section
/-! SUPPORT. An accumulate rewrites its row under the compression its collection has then (R317, R427, R428), so the slot's
packing may change with the row. -/

namespace Sys2Proof.Machine

open Sys2Proof

/-- A collection of one shard of node 15, of 64 dimensions under metric 0. -/
def packingSpec : CollSpec where
  id := 1
  name := []
  dimensions := 64
  projection := 64
  metric := 0
  group := 32
  guestbookEntries := 1024
  guestbookFull := 0
  lexical := false
  dwellUs := 1000
  shards := 1
  firstShard := 0
  maxVectors := 4096
  creatingFunction := 0
  owners := [0]

/-- That collection with its compression on (R428). -/
def packingColl : Coll where
  spec := packingSpec
  st := .active
  compress := true
  placement := none
  readTimes := []
  since := 0
  rights := []
  setUp := []
  setupFailed := none
  nextModel := 1

/-- A slot whose row was written into T2 before the compression was turned on. -/
def unpackedSlot : Slot where
  num := 2
  id := 7
  row := ⟨7, [], 0, 0, 0, []⟩
  home := .t2
  bit := false
  deletedAt := 0
  born := true
  lost := false
  migration := none
  payer := none
  packed := false

/-- An accumulate of that slot at stamp 5 that waits to be applied (R303). -/
def pendingHist : Hist := ⟨2, 5, 1, false, none, some ([], [])⟩

/-- The collection's shard, with that slot and that accumulate. -/
def packingShard : Shard where
  id := 0
  coll := 1
  ledger := 0
  counter := 5
  stage := .forming
  switchW := none
  training := false
  sampleCut := 0
  formCut := none
  buffer := false
  l := 4
  l2 := 4
  l1 := 2
  centroids := []
  centroidNorms := []
  matrix := []
  slots := [unpackedSlot]
  hist := [pendingHist]
  tombs := []
  readers := []
  waiting := []
  holds := []
  meanRecords := 0
  meanLists := 0
  lenAt := 0
  bufBytes := 0
  move := none
  forwardTo := none
  lost := false
  regen := none

def packingNode : State := { State.reset with colls := [packingColl], shards := [packingShard] }

/-- The row that the accumulate makes. -/
def appliedRow : Row := (accumulated packingSpec unpackedSlot.row ([], [])).getD unpackedSlot.row

theorem accumulated_unpackedSlot : accumulated packingSpec unpackedSlot.row ([], []) = some appliedRow := by decide +kernel

/-- After the accumulate the row is packed: it was written with the compression on. -/
theorem applyAcc_packingNode :
    ((packingNode.applyAcc 0 2).shard? 0).bind (fun f => (f.slot? 2).map (·.packed)) = some true := by
  decide +kernel

/-- Refutes O38: an accumulate writes its row anew, so with the collection's compression on a slot whose row lay unpacked in T2
becomes packed (R427, R428), where the statement keeps every field of the slot but the row. -/
theorem not_outcomesAndAccumulates : ¬ Obligations.OutcomesAndAccumulates := by
  unfold Obligations.OutcomesAndAccumulates
  rintro ⟨-, -, hAcc⟩
  obtain ⟨x, f, hx, hf, hslot, -⟩ := hAcc packingNode 0 2 packingShard packingColl pendingHist unpackedSlot ([], []) appliedRow
    (by decide +kernel) (by decide +kernel) (by decide +kernel) (by decide +kernel) rfl rfl accumulated_unpackedSlot
  obtain rfl : packingNode.applyAcc 0 2 = x := by
    exact Host.Outcome.next.inj hx
  have hpacked := applyAcc_packingNode
  rw [hf] at hpacked
  simp [hslot, unpackedSlot] at hpacked

end Sys2Proof.Machine

end

-- ==== Proofs: members that go on at their owner ====
section
/-! SUPPORT. What the end of a member and a grant of the ledger arbiter let go on: ready members queue up (R265), and the next
member of the identifier resolves (R302). -/

namespace Sys2Proof.Machine

open Sys2Proof

/-! ### A member read back -/

theorem State.modMember_member? (s : State) (k : Key) (i : Nat) {f : MWork → MWork} (hf : ∀ w, (f w).msg = w.msg) (k' : Key) (i' : Nat) :
    (s.modMember k i f).member? k' i' = (s.member? k' i').map fun w => if isMember k i w then f w else w :=
  find?_modWhere_keeps (by simp [hf])

theorem State.member?_is {s : State} {k : Key} {i : Nat} {w : MWork} (h : s.member? k i = some w) : w.msg.key = k ∧ w.msg.index = i := by
  simpa using List.find?_some h

theorem State.modMember_member {s : State} {k : Key} {i : Nat} {w : MWork} (h : s.member? k i = some w) {f : MWork → MWork}
    (hf : ∀ w, (f w).msg = w.msg) : (s.modMember k i f).member? k i = some (f w) := by
  obtain ⟨hk, hi⟩ := State.member?_is h
  simp [State.modMember_member? s k i hf, h, isMember, hk, hi]

/-- Once its records are filtered out, the member is gone. -/
theorem State.member?_gone {s : State} {k : Key} {i : Nat} (h : s.eng.members.filter (fun w => !isMember k i w) = s.eng.members) :
    s.member? k i = none := by
  refine List.find?_eq_none.mpr fun w hw => ?_
  rw [← h] at hw
  simpa [isMember, imp_iff_not_or] using (List.mem_filter.mp hw).2

/-! ### Ready members (R265) -/

/-- `x` is `s` but for members that have gone to the ledger arbiters. -/
structure QueuesUp (s x : State) : Prop where
  frame : x = { s with eng := { s.eng with members := x.eng.members }, shards := x.shards }
  noWait : x.shardNoWait? = s.shardNoWait?
  stays : ∀ k i w, s.member? k i = some w → ∃ v, x.member? k i = some v ∧ v = { w with stage := v.stage } ∧
    (v.stage = w.stage ∨ v.stage = .atLedger)
  ended : ∀ k i, s.member? k i = none → x.member? k i = none

theorem QueuesUp.refl (s : State) : QueuesUp s s := ⟨rfl, rfl, fun _ _ w h => ⟨w, h, rfl, .inl rfl⟩, fun _ _ h => h⟩

theorem QueuesUp.trans (s x y : State) (h : QueuesUp s x) (g : QueuesUp x y) : QueuesUp s y where
  frame := by rw [g.frame, h.frame]
  noWait := g.noWait.trans h.noWait
  ended k i hn := g.ended k i (h.ended k i hn)
  stays k i w hw := by
    obtain ⟨v, hv, hvw, hvs⟩ := h.stays k i w hw
    obtain ⟨u, hu, huv, hus⟩ := g.stays k i v hv
    refine ⟨u, hu, by rw [huv, hvw], ?_⟩
    rcases hus with e | e
    · rw [e]; exact hvs
    · exact .inr e

/-- A member goes to its shard's ledger arbiter. -/
def State.queueMember (s : State) (k : Key) (i shard : Nat) : State :=
  (s.modMember k i fun x => { x with stage := .atLedger }).modShard shard fun d => { d with waiting := d.waiting ++ [(s.now, .member k i)] }

theorem State.queueMember_queuesUp (s : State) (k : Key) (i shard : Nat) : QueuesUp s (s.queueMember k i shard) where
  frame := rfl
  noWait := State.modShard_noWait _ _ (by intro d; rfl)
  ended k' i' hn := (State.modMember_member? s k i (by intro w; rfl) k' i').trans (by rw [hn]; rfl)
  stays k' i' w hw := by
    refine ⟨_, (State.modMember_member? s k i (by intro w; rfl) k' i').trans (by rw [hw]; rfl), ?_⟩
    dsimp only
    split <;> simp

theorem State.queueReady_queuesUp (k : Key) (shard : Nat) (l : List MWork) (s : State) : QueuesUp s (s.queueReady k shard l) := by
  induction l generalizing s with
  | nil => exact QueuesUp.refl s
  | cons w l ih =>
    unfold State.queueReady
    dsimp only
    split
    · exact QueuesUp.trans _ _ _ (State.queueMember_queuesUp s k w.msg.index shard) (ih _)
    · exact ih s

theorem State.flushReady_queuesUp (s : State) (k : Key) (shard : Nat) : QueuesUp s (s.flushReady k shard) :=
  State.queueReady_queuesUp ..

/-- The only member here goes to the ledger arbiter as soon as it is ready. -/
theorem State.flushReady_only {s : State} {w : MWork} (h : s.eng.members = [w]) (hr : w.stage = .ready) :
    s.flushReady w.msg.key w.msg.shard = s.queueMember w.msg.key w.msg.index w.msg.shard := by
  unfold State.flushReady
  rw [h]
  change s.queueReady w.msg.key w.msg.shard [w] = _
  simp [State.queueReady, h, hr, State.queueMember]
  rfl

/-! ### Members that go on (R302) -/

/-- `x` is `s` after members have gone on: where members stand, what shards hold, who waits at arbiters, slot numbers taken and the
statistics of collections may differ, and shards may have new slots. -/
structure GoesOn (s x : State) : Prop where
  frame : x = { s with
    eng := { s.eng with members := x.eng.members }, shards := x.shards, colls := x.colls, arbs := x.arbs,
    tier := { s.tier with freeSlots := x.tier.freeSlots, nextSlot := x.tier.nextSlot } }
  shards : ∀ i d, s.shard? i = some d → ∃ e new, x.shard? i = some e ∧
    e = { d with slots := d.slots ++ new, holds := e.holds, waiting := e.waiting }
  noShard : ∀ i, s.shard? i = none → x.shard? i = none
  ended : ∀ k i, s.member? k i = none → x.member? k i = none

theorem GoesOn.refl (s : State) : GoesOn s s := ⟨rfl, fun _ d h => ⟨d, [], h, by simp⟩, fun _ h => h, fun _ _ h => h⟩

theorem GoesOn.trans (s x y : State) (h : GoesOn s x) (g : GoesOn x y) : GoesOn s y where
  frame := by rw [g.frame, h.frame]
  ended k i hn := g.ended k i (h.ended k i hn)
  noShard i hn := g.noShard i (h.noShard i hn)
  shards i d hd := by
    obtain ⟨e, new, he, hed⟩ := h.shards i d hd
    obtain ⟨f, more, hf, hfe⟩ := g.shards i e he
    exact ⟨f, new ++ more, hf, by rw [hfe, hed]; simp⟩

theorem QueuesUp.goesOn {s x : State} (h : QueuesUp s x) : GoesOn s x where
  frame := by rw [h.frame]
  ended := h.ended
  noShard i hn := by
    have hi : (x.shard? i).map Shard.noWait = (s.shard? i).map Shard.noWait := congrFun h.noWait i
    rw [hn] at hi
    exact Option.map_eq_none_iff.mp hi
  shards i d hd := by
    obtain ⟨e, he, hed⟩ := ShardsButWaiting.of_noWait h.noWait i d hd
    exact ⟨e, [], he, by rw [hed]; simp⟩

theorem State.modMember_goesOn (s : State) (k : Key) (i : Nat) {f : MWork → MWork} (hf : ∀ w, (f w).msg = w.msg) :
    GoesOn s (s.modMember k i f) where
  frame := rfl
  ended k' i' hn := by rw [State.modMember_member? s k i hf, hn]; rfl
  noShard _ hn := hn
  shards _ d hd := ⟨d, [], hd, by simp⟩

theorem State.modShard_goesOn (s : State) (j : Nat) {f : Shard → Shard}
    (hf : ∀ d, ∃ new, f d = { d with slots := d.slots ++ new, holds := (f d).holds, waiting := (f d).waiting }) :
    GoesOn s (s.modShard j f) where
  frame := rfl
  ended _ _ hn := hn
  noShard i hn := by
    have hid : ∀ d, (f d).id = d.id := fun d => by obtain ⟨new, h⟩ := hf d; rw [h]
    rw [State.modShard_shard? s j hid i, hn]; rfl
  shards i d hd := by
    have hid : ∀ d, (f d).id = d.id := fun d => by obtain ⟨new, h⟩ := hf d; rw [h]
    rw [State.modShard_shard? s j hid i, hd]
    refine (ite_eq_or_eq (d.id == j) (f d) d).elim (fun e => ?_) fun e => ?_
    · obtain ⟨new, h⟩ := hf d
      exact ⟨f d, new, congrArg some e, h⟩
    · exact ⟨d, [], congrArg some e, by simp⟩

theorem State.modColl_goesOn (s : State) (c : Nat) (f : Coll → Coll) : GoesOn s (s.modColl c f) :=
  ⟨rfl, fun _ d hd => ⟨d, [], hd, by simp⟩, fun _ hn => hn, fun _ _ hn => hn⟩

theorem State.arbRequest_goesOn (s : State) (id n : Nat) (b rb : Bool) (w : Work) : GoesOn s (s.arbRequest id n b rb w) := by
  have h : s.arbRequest id n b rb w = { s with arbs := (s.arbRequest id n b rb w).arbs } := by
    unfold State.arbRequest; rw [State.modArb_frame]
  rw [h]
  exact ⟨rfl, fun _ d hd => ⟨d, [], hd, by simp⟩, fun _ hn => hn, fun _ _ hn => hn⟩

theorem State.takeSlot_goesOn {s x : State} {n : Nat} (h : s.takeSlot = some (n, x)) : GoesOn s x := by
  unfold State.takeSlot at h
  split at h
  · cases h; exact ⟨rfl, fun _ d hd => ⟨d, [], hd, by simp⟩, fun _ hn => hn, fun _ _ hn => hn⟩
  · split at h
    · cases h; exact ⟨rfl, fun _ d hd => ⟨d, [], hd, by simp⟩, fun _ hn => hn, fun _ _ hn => hn⟩
    · cases h

theorem State.askAssignment_goesOn (s : State) (k : Key) (i : Nat) : GoesOn s (s.askAssignment k i) := by
  unfold State.askAssignment
  split
  · exact GoesOn.refl s
  · split
    · split
      · exact GoesOn.trans _ _ _ (State.modMember_goesOn s k i (by intro w; rfl)) (State.arbRequest_goesOn ..)
      · exact State.modMember_goesOn s k i (by intro w; rfl)
    · exact GoesOn.refl s

/-- The row that a member forms when it resolves (R266, R316). -/
def formedRow (c : Coll) (m : MemberMsg) (id : Nat) (found : Option Slot) : Option Row :=
  match m.kind with
  | .insert | .upsert => some (formRow c.spec id (queryFor c.spec ((entryVector c.spec m).getD [])) ((entryLex c.spec m).getD []) noList noList)
  | .replace => some (formRow c.spec id (queryFor c.spec ((entryVector c.spec m).getD [])) ((entryLex c.spec m).getD [])
      ((found.map (·.row.list)).getD noList) ((found.map (·.row.second)).getD noList))
  | _ => none

/-- A row's statistics are noted, if there is one. -/
def State.noteRow (s : State) (c : Coll) (row : Option Row) : State := match row with | some r => s.notePeaks c r | none => s

/-- A slot that has just been taken for an identifier. -/
def takenSlot (d : Shard) (n id : Nat) : Slot :=
  { num := n, id := id, row := emptyRow, home := if d.stage == .forming then .formation else .t2, bit := false, deletedAt := 0,
    born := false, lost := false, migration := none, payer := none, packed := false }

/-- The slot that an identifier has, or one taken for a member that writes (R302). -/
def State.slotFor (s : State) (d : Shard) (writes : Bool) (id : Nat) (found : Option Slot) : Option Nat × State :=
  match found with
  | some x => (some x.num, s)
  | none =>
    match (if writes then s.takeSlot else none) with
    | some (n, s) => (some n, s.modShard d.id fun d' => { d' with slots := d'.slots ++ [takenSlot d n id] })
    | none => (none, s)

/-- The member is the first to hold its identifier. -/
def State.holdMember (s : State) (d : Shard) (c : Coll) (w : MWork) : Option Nat × State :=
  let id := d.idOf w.msg.byRef w.msg.name
  let found := d.named w.msg.byRef w.msg.name
  ((s.modShard d.id fun d => { d with holds := d.holds ++ [id] }).noteRow c (formedRow c w.msg id found)).slotFor d
    (w.msg.kind == .insert || w.msg.kind == .upsert) id found

/-- The fields a member gets when it resolves. -/
def MWork.resolvedWith (w : MWork) (d : Shard) (c : Coll) (m : MemberMsg) (slot : Option Nat) : MWork :=
  { w with
    slot := slot, row := formedRow c m (d.idOf m.byRef m.name) (d.named m.byRef m.name),
    delta := if m.kind == .accumulate then some ((entryVector c.spec m).getD [], (entryLex c.spec m).getD []) else none }

section
variable {s : State} {k : Key} {i : Nat} {w : MWork} {d : Shard} {c : Coll}

theorem State.resolveMember_free (hw : s.member? k i = some w) (hd : s.shard? w.msg.shard = some d) (hc : s.coll? d.coll = some c)
    (hh : d.holds.contains (d.idOf w.msg.byRef w.msg.name) = false) :
    s.resolveMember k i = ((s.holdMember d c w).2.modMember k i fun x => x.resolvedWith d c w.msg (s.holdMember d c w).1).askAssignment k i := by
  have hb : (s.shard? w.msg.shard).bind (fun d => s.coll? d.coll) = some c := by rw [hd]; exact hc
  unfold State.resolveMember
  rw [hw]; dsimp only
  rw [hb, hd]; dsimp only
  rw [if_neg (by rw [hh]; decide)]
  rfl

theorem State.resolveMember_held (hw : s.member? k i = some w) (hd : s.shard? w.msg.shard = some d) (hc : s.coll? d.coll = some c)
    (hh : d.holds.contains (d.idOf w.msg.byRef w.msg.name) = true) :
    s.resolveMember k i = s.modMember k i fun w => { w with stage := .waitIdentifier, since := s.now } := by
  have hb : (s.shard? w.msg.shard).bind (fun d => s.coll? d.coll) = some c := by rw [hd]; exact hc
  unfold State.resolveMember
  rw [hw]; dsimp only
  rw [hb, hd]; dsimp only
  rw [if_pos hh]

end

theorem State.slotFor_goesOn (s : State) (d : Shard) (b : Bool) (id : Nat) (found : Option Slot) : GoesOn s (s.slotFor d b id found).2 := by
  unfold State.slotFor
  split
  · exact GoesOn.refl s
  · split
    · rename_i n y h
      split at h
      · exact GoesOn.trans _ _ _ (State.takeSlot_goesOn h) (State.modShard_goesOn _ _ fun d' => ⟨_, rfl⟩)
      · cases h
    · exact GoesOn.refl s

theorem State.holdMember_goesOn (s : State) (d : Shard) (c : Coll) (w : MWork) : GoesOn s (s.holdMember d c w).2 := by
  have h : GoesOn s (s.modShard d.id fun d' => { d' with holds := d'.holds ++ [d.idOf w.msg.byRef w.msg.name] }) :=
    State.modShard_goesOn _ _ fun d' => ⟨[], by simp⟩
  refine GoesOn.trans _ _ _ h (GoesOn.trans _ _ _ ?_ (State.slotFor_goesOn ..))
  unfold State.noteRow
  split
  · exact State.modColl_goesOn ..
  · exact GoesOn.refl _

theorem State.resolveMember_goesOn (s : State) (k : Key) (i : Nat) : GoesOn s (s.resolveMember k i) := by
  cases hw : s.member? k i with
  | none => unfold State.resolveMember; rw [hw]; exact GoesOn.refl s
  | some w =>
    cases hd : s.shard? w.msg.shard with
    | none => unfold State.resolveMember; simp only [hw, hd]; exact GoesOn.refl s
    | some d =>
      cases hc : s.coll? d.coll with
      | none => unfold State.resolveMember; simp only [hw, hd, Option.bind_some, hc]; exact GoesOn.refl s
      | some c =>
        cases hh : d.holds.contains (d.idOf w.msg.byRef w.msg.name) with
        | true =>
          rw [State.resolveMember_held hw hd hc hh]
          exact State.modMember_goesOn s k i (by intro w; rfl)
        | false =>
          rw [State.resolveMember_free hw hd hc hh]
          exact GoesOn.trans _ _ _ (State.holdMember_goesOn s d c w)
            (GoesOn.trans _ _ _ (State.modMember_goesOn _ k i (by intro w; rfl)) (State.askAssignment_goesOn ..))

/-- The next member that waited for an identifier resolves, if there is one. -/
def State.letGoOn (s : State) (next : Option MWork) : State :=
  match next with
  | some x => (s.modMember x.msg.key x.msg.index fun x => { x with stage := .resolved }).resolveMember x.msg.key x.msg.index
  | none => s

theorem State.letGoOn_goesOn (s : State) (next : Option MWork) : GoesOn s (s.letGoOn next) := by
  unfold State.letGoOn
  split
  · exact GoesOn.trans _ _ _ (State.modMember_goesOn s _ _ (by intro w; rfl)) (State.resolveMember_goesOn ..)
  · exact GoesOn.refl s

/-- What a member that is over lets go on (R265, R302): the ready members of its command, and the next one of its identifier. -/
theorem State.flushReady_letGoOn_goesOn (s : State) (k : Key) (shard : Nat) (next : Option MWork) :
    GoesOn s ((s.flushReady k shard).letGoOn next) :=
  GoesOn.trans _ _ _ (State.flushReady_queuesUp s k shard).goesOn (State.letGoOn_goesOn ..)

section
variable {s x : State} (h : GoesOn s x)
include h

theorem GoesOn.journal_eq : x.tier.journal = s.tier.journal := by rw [h.frame]
theorem GoesOn.lists_eq : x.lists = s.lists := by rw [h.frame]
theorem GoesOn.out_eq : x.out = s.out := by rw [h.frame]

theorem OutcomeLeaves.goesOn {node : Nat} {m : MemberMsg} {stamp status detail : Nat} (ho : OutcomeLeaves node s m stamp status detail) :
    OutcomeLeaves node x m stamp status detail := by
  rw [h.frame]
  exact ⟨ho.1, fun e => (ho.2 e).congr rfl⟩

theorem MemberEnds.goesOn {node : Nat} {k : Key} {i : Nat} {w : MWork} {status detail : Nat} (he : MemberEnds node s k i w status detail) :
    MemberEnds node x k i w status detail :=
  ⟨h.ended k i he.1, he.2.1.goesOn h, by rw [h.journal_eq]; exact he.2.2⟩

end

/-! ### The end of a member without a stamp (R140, R264, R278, R287) -/

theorem State.sendOutcome_sent (s : State) (m : MemberMsg) (stamp status detail : Nat) : Sent s (s.sendOutcome m stamp status detail) := by
  unfold State.sendOutcome
  dsimp only
  split
  · exact ⟨rfl, fun _ h => h, fun _ h => h, fun _ h => h, fun _ h => h, by simp, fun _ h => h⟩
  · exact State.sendWork_sent ..

theorem State.sendOutcome_leaves (s : State) (m : MemberMsg) (stamp status detail : Nat) :
    OutcomeLeaves s.nodeId (s.sendOutcome m stamp status detail) m stamp status detail := by
  unfold State.sendOutcome
  dsimp only
  split
  · rename_i h
    exact ⟨fun _ => by simp, fun hn => absurd h hn⟩
  · rename_i h
    exact ⟨fun hn => absurd hn h, fun _ => State.sendWork_frameTo ..⟩

theorem State.endMember_eq {s : State} {k : Key} {i : Nat} {w : MWork} (hw : s.member? k i = some w) (st dt : Nat) :
    ∃ next, s.endMember k i st dt = (((s.dropMember k i).sendOutcome w.msg 0 st dt).flushReady k w.msg.shard).letGoOn next := by
  refine ⟨(((s.dropMember k i).sendOutcome w.msg 0 st dt).flushReady k w.msg.shard).nextHeld w.msg.shard w.msg.name w.msg.byRef, ?_⟩
  unfold State.endMember
  rw [hw]
  rfl

section
variable {s : State} {k : Key} {i : Nat} {w : MWork} (hw : s.member? k i = some w)
include hw

theorem State.dropMember_member? : (s.dropMember k i).member? k i = none := by
  refine State.member?_gone ?_
  unfold State.dropMember
  rw [hw]
  simp

theorem State.dropMember_journal : ∀ e ∈ (s.dropMember k i).tier.journal, e.kind = .member k i → e.void = true := by
  unfold State.dropMember
  rw [hw]
  intro e he hk
  obtain ⟨j, -, rfl⟩ := List.mem_map.mp (show e ∈ modWhere s.tier.journal (fun j => j.ofMember k i) fun j => { j with void := true } from he)
  split
  · rfl
  · rename_i h
    rw [if_neg h] at hk
    simp [JEntry.ofMember, hk] at h

end

theorem State.dropMember_frame (s : State) (k : Key) (i : Nat) : s.dropMember k i =
    { s with fns := (s.dropMember k i).fns, eng := (s.dropMember k i).eng, tier := (s.dropMember k i).tier,
             shards := (s.dropMember k i).shards, lists := (s.dropMember k i).lists } := by
  unfold State.dropMember
  split <;> rfl

theorem State.dropMember_shard? (s : State) (k : Key) (i : Nat) {j : Nat} {d : Shard} (hd : s.shard? j = some d) :
    ∃ e, (s.dropMember k i).shard? j = some e ∧ e = { d with slots := e.slots, holds := e.holds, waiting := e.waiting } := by
  unfold State.dropMember
  split
  · exact ⟨d, hd, rfl⟩
  · refine ⟨_, (State.shard?_modWhere (s := s) rfl (by intro d; rfl) j).trans (by rw [hd]; rfl), ?_⟩
    dsimp only
    split <;> rfl

theorem State.dropMember_noShard (s : State) (k : Key) (i : Nat) {j : Nat} (hd : s.shard? j = none) : (s.dropMember k i).shard? j = none := by
  unfold State.dropMember
  split
  · exact hd
  · exact (State.shard?_modWhere (s := s) rfl (by intro d; rfl) j).trans (by rw [hd]; rfl)

theorem State.dropMember_lists (s : State) (k : Key) (i : Nat) :
    ∀ l ∈ (s.dropMember k i).lists, ∃ m ∈ s.lists, l = { m with gb := l.gb } := by
  unfold State.dropMember
  split
  · exact fun l hl => ⟨l, hl, rfl⟩
  · rename_i w _
    intro l hl
    obtain ⟨m, hm, rfl⟩ := List.mem_map.mp (show l ∈ modWhere s.lists (fun l => w.lists.contains l.id)
      (dropPending ((w.row.map (·.id)).getD w.msg.name)) from hl)
    refine ⟨m, hm, ?_⟩
    split <;> rfl

/-- A member ends: the shards' counters, tombstones and history and what has left the node are as before. -/
theorem State.endMember_spec {s : State} {k : Key} {i : Nat} {w : MWork} (hw : s.member? k i = some w) (st dt : Nat) :
    MemberEnds s.nodeId (s.endMember k i st dt) k i w st dt ∧ (s.endMember k i st dt).out = s.out ∧
      (∀ j d, s.shard? j = some d → ∃ e, (s.endMember k i st dt).shard? j = some e ∧
        e = { d with slots := e.slots, holds := e.holds, waiting := e.waiting }) ∧
      (∀ j, s.shard? j = none → (s.endMember k i st dt).shard? j = none) ∧
      ∀ l ∈ (s.endMember k i st dt).lists, ∃ m ∈ s.lists, l = { m with gb := l.gb } := by
  obtain ⟨next, he⟩ := State.endMember_eq hw st dt
  rw [he]
  have hdrop := State.dropMember_frame s k i
  have hsent := State.sendOutcome_sent (s.dropMember k i) w.msg 0 st dt
  have hgo := State.flushReady_letGoOn_goesOn ((s.dropMember k i).sendOutcome w.msg 0 st dt) k w.msg.shard next
  refine ⟨MemberEnds.goesOn hgo ⟨?_, ?_, ?_⟩, ?_, fun j d hd => ?_, fun j hd => hgo.noShard j ?_, ?_⟩
  · have hm : ((s.dropMember k i).sendOutcome w.msg 0 st dt).member? k i = (s.dropMember k i).member? k i := by
      rw [hsent.frame]; rfl
    rw [hm]; exact State.dropMember_member? hw
  · have hn : (s.dropMember k i).nodeId = s.nodeId := by rw [hdrop]; rfl
    exact hn ▸ State.sendOutcome_leaves ..
  · rw [hsent.tier_eq]; exact State.dropMember_journal hw
  · rw [hgo.out_eq, hsent.out_eq, hdrop]
  · obtain ⟨e, hde, hed⟩ := State.dropMember_shard? s k i hd
    have hse : ((s.dropMember k i).sendOutcome w.msg 0 st dt).shard? j = some e := by
      unfold State.shard?; rw [hsent.shards_eq]; exact hde
    obtain ⟨f, new, hf, hfe⟩ := hgo.shards j e hse
    exact ⟨f, hf, by rw [hfe, hed]⟩
  · unfold State.shard?; rw [hsent.shards_eq]; exact State.dropMember_noShard s k i hd
  · rw [hgo.lists_eq, hsent.lists_eq]; exact State.dropMember_lists s k i

end Sys2Proof.Machine

end

-- ==== Proofs: mutation stamps ====
section
/-! SUPPORT. A mutation takes its stamp at the head of the ledger arbiter (R33, R65, R264, R269 to R271, R284, R303). -/

namespace Sys2Proof.Machine

open Sys2Proof

theorem State.applyAll_none {s : State} {shard slot : Nat} (h : (s.shard? shard).bind (·.pendingAcc slot) = none) (n : Nat) :
    s.applyAll shard slot n = s := by
  cases n with
  | zero => rfl
  | succ n => unfold State.applyAll; rw [h]

/-- `x` is `s` but for what functions and pools are charged. -/
def OnlyCharged (s x : State) : Prop := x = { s with fns := x.fns, pools := x.pools }

theorem OnlyCharged.refl (s : State) : OnlyCharged s s := rfl

theorem OnlyCharged.trans {s x y : State} (h : OnlyCharged s x) (g : OnlyCharged x y) : OnlyCharged s y := by
  unfold OnlyCharged at *; rw [g, h]

theorem State.modFn_onlyCharged (s : State) (i : Nat) (f : Fn → Fn) : OnlyCharged s (s.modFn i f) := rfl

theorem State.chargeHome_onlyCharged (s : State) (c : Coll) (d : Shard) (h : Home) (n : Nat) : OnlyCharged s (s.chargeHome c d h n) := by
  unfold State.chargeHome
  split
  · split <;> rfl
  · rfl
  · rfl

theorem State.releaseHome_onlyCharged (s : State) (c : Coll) (d : Shard) (h : Home) (n : Nat) (p : Option Nat) :
    OnlyCharged s (s.releaseHome c d h n p) := by
  unfold State.releaseHome
  split
  · split <;> rfl
  · rfl
  · rfl

theorem State.recharge_onlyCharged (s : State) (c : Coll) (d : Shard) (w : MWork) (x : Slot) : OnlyCharged s (s.recharge c d w x) := by
  unfold State.recharge
  dsimp only
  split
  · exact OnlyCharged.refl s
  · generalize hy : (if x.bit = true then _ else _ : State) = y
    have h : OnlyCharged s y := by
      subst hy
      split
      · exact State.releaseHome_onlyCharged ..
      · split
        · exact State.modFn_onlyCharged ..
        · exact OnlyCharged.refl s
    split
    · split
      · exact h
      · exact h.trans ((State.modFn_onlyCharged ..).trans (State.chargeHome_onlyCharged ..))
    · exact h

/-- A member that writes, replaces or deletes takes its shard's next counter value as its stamp, with all that becomes visible at
it, and its outcome leaves. -/
def State.takeStamp (s : State) (shard : Nat) (k : Key) (i : Nat) (d : Shard) (c : Coll) (w : MWork) (x : Slot) (detail : Nat) : State :=
  let writes := w.msg.kind == .insert || w.msg.kind == .upsert
  let stamp := d.counter + 1
  let s := s.recharge c d w x
  let s := s.modShard shard fun d => { d.applyMember c w x stamp s.now with counter := stamp, holds := d.holds.filter (· != x.id) }
  let s := if writes then s.stampGb w.lists x.id stamp else s
  let s := s.modTier fun e =>
    { e with journal := modWhere e.journal (fun j => j.ofMember k i) fun j => { j with stamp := stamp },
             rowCache := if w.msg.kind == .delete then e.rowCache.filter fun y => !(y.1 == shard && y.2.1 == x.num) else e.rowCache }
  (s.sendOutcome w.msg stamp stOk detail).modEng fun e => { e with members := e.members.filter fun y => !isMember k i y }

section
variable {s : State} {shard : Nat} {k : Key} {i : Nat} {d : Shard} {c : Coll} {w : MWork}
variable (hd : s.shard? shard = some d) (hw : s.member? k i = some w) (hc : s.coll? d.coll = some c)
variable (ha : d.stage = .forming ∨ w.lists ≠ [] ∨ w.msg.kind = .delete)
include hd hw hc ha

theorem State.stampMember_applied {n dt : Nat} {y : Slot} (hv : s.verdict c d w = .apply dt) (hn : w.slot = some n) (hy : d.slot? n = some y)
    (hp : d.pendingAcc n = none) (hk : w.msg.kind ≠ .accumulate) :
    ∃ next, s.stampMember shard k i = ((s.takeStamp shard k i d c w y dt).flushReady k shard).letGoOn next := by
  have hgo : ((w.msg.kind == .insert || w.msg.kind == .upsert) && d.stage == .formed && w.lists.isEmpty) = false := by
    rcases ha with h | h | h <;> simp [h]
  have hall : s.applyAll shard n 65536 = s := State.applyAll_none (by rw [hd]; exact hp) _
  have hslot : w.slot.bind d.slot? = some y := by rw [hn]; exact hy
  refine ⟨((s.takeStamp shard k i d c w y dt).flushReady k shard).nextHeld shard w.msg.name w.msg.byRef, ?_⟩
  unfold State.stampMember
  rw [hd, hw]; dsimp only
  rw [hc]; dsimp only
  rw [hgo, hv, hn]; dsimp only
  rw [hall, hd]; dsimp only
  rw [if_neg Bool.false_ne_true, Option.bind_some, hy]; dsimp only
  rw [if_neg (by simpa using hk)]
  rfl

theorem State.stampMember_ended {st dt : Nat} (hv : s.verdict c d w = .refuse st dt ∨ s.verdict c d w = .quiet st dt) :
    s.stampMember shard k i = s.endMember k i st dt := by
  have hgo : ((w.msg.kind == .insert || w.msg.kind == .upsert) && d.stage == .formed && w.lists.isEmpty) = false := by
    rcases ha with h | h | h <;> simp [h]
  unfold State.stampMember
  rw [hd, hw]; dsimp only
  rw [hc]; dsimp only
  rw [hgo]
  rcases hv with hv | hv <;> rw [hv, if_neg Bool.false_ne_true]

end

theorem Shard.applyMember_id (d : Shard) (c : Coll) (w : MWork) (x : Slot) (stamp at_ : Nat) : (d.applyMember c w x stamp at_).id = d.id := by
  unfold Shard.applyMember
  dsimp only
  split
  · split
    · rfl
    · split <;> rfl
  · split
    · rfl
    · split
      · rfl
      · split <;> rfl
  · rfl
  · rfl
  · rfl

section
variable {s : State} {shard : Nat} {k : Key} {i : Nat} {d : Shard} (c : Coll) (w : MWork) (y : Slot) (dt : Nat)

/-- The state in which the outcome of a stamped member leaves. -/
def State.beforeOutcome (s : State) (shard : Nat) (k : Key) (i : Nat) (d : Shard) (c : Coll) (w : MWork) (x : Slot) : State :=
  let stamp := d.counter + 1
  let s := s.recharge c d w x
  let s := s.modShard shard fun d => { d.applyMember c w x stamp s.now with counter := stamp, holds := d.holds.filter (· != x.id) }
  let s := if w.msg.kind == .insert || w.msg.kind == .upsert then s.stampGb w.lists x.id stamp else s
  s.modTier fun e =>
    { e with journal := modWhere e.journal (fun j => j.ofMember k i) fun j => { j with stamp := stamp },
             rowCache := if w.msg.kind == .delete then e.rowCache.filter fun y => !(y.1 == shard && y.2.1 == x.num) else e.rowCache }

theorem State.takeStamp_eq : s.takeStamp shard k i d c w y dt =
    ((s.beforeOutcome shard k i d c w y).sendOutcome w.msg (d.counter + 1) stOk dt).modEng fun e =>
      { e with members := e.members.filter fun y => !isMember k i y } := rfl

theorem State.beforeOutcome_frame : s.beforeOutcome shard k i d c w y =
    { s with fns := (s.recharge c d w y).fns, pools := (s.recharge c d w y).pools,
             shards := modWhere s.shards (·.id == shard) fun e =>
               { e.applyMember c w y (d.counter + 1) s.now with counter := d.counter + 1, holds := e.holds.filter (· != y.id) },
             lists := if w.msg.kind == .insert || w.msg.kind == .upsert
               then modWhere s.lists (fun l => w.lists.contains l.id) (stampPending y.id (d.counter + 1)) else s.lists,
             tier := { s.tier with
               journal := modWhere s.tier.journal (fun j => j.ofMember k i) fun j => { j with stamp := d.counter + 1 },
               rowCache := if w.msg.kind == .delete then s.tier.rowCache.filter fun z => !(z.1 == shard && z.2.1 == y.num)
                 else s.tier.rowCache } } := by
  have h : s.recharge c d w y = { s with fns := (s.recharge c d w y).fns, pools := (s.recharge c d w y).pools } :=
    State.recharge_onlyCharged s c d w y
  unfold State.beforeOutcome
  dsimp only
  rw [h]
  split <;> rfl

theorem State.takeStamp_leaves : OutcomeLeaves s.nodeId (s.takeStamp shard k i d c w y dt) w.msg (d.counter + 1) stOk dt := by
  have hn : (s.beforeOutcome shard k i d c w y).nodeId = s.nodeId := by rw [State.beforeOutcome_frame]; rfl
  have h := State.sendOutcome_leaves (s.beforeOutcome shard k i d c w y) w.msg (d.counter + 1) stOk dt
  rw [hn] at h
  rw [State.takeStamp_eq]
  exact ⟨h.1, fun e => (h.2 e).congr rfl⟩

theorem State.takeStamp_member? : (s.takeStamp shard k i d c w y dt).member? k i = none :=
  State.member?_gone (by rw [State.takeStamp_eq]; simp)

theorem State.takeStamp_lists : (s.takeStamp shard k i d c w y dt).lists = if w.msg.kind == .insert || w.msg.kind == .upsert
    then modWhere s.lists (fun l => w.lists.contains l.id) (stampPending y.id (d.counter + 1)) else s.lists := by
  have h : (s.takeStamp shard k i d c w y dt).lists = (s.beforeOutcome shard k i d c w y).lists :=
    (State.sendOutcome_sent ..).lists_eq
  rw [h, State.beforeOutcome_frame]

theorem State.takeStamp_journal : ∀ j ∈ (s.takeStamp shard k i d c w y dt).tier.journal, j.kind = .member k i → j.stamp = d.counter + 1 := by
  have h : (s.takeStamp shard k i d c w y dt).tier = (s.beforeOutcome shard k i d c w y).tier :=
    (State.sendOutcome_sent ..).tier_eq
  rw [h, State.beforeOutcome_frame]
  intro j hj hk
  obtain ⟨e, -, rfl⟩ := List.mem_map.mp hj
  split
  · rfl
  · rename_i he
    rw [if_neg he] at hk
    simp [JEntry.ofMember, hk] at he

theorem State.takeStamp_shard? (hd : s.shard? shard = some d) : (s.takeStamp shard k i d c w y dt).shard? shard =
    some { d.applyMember c w y (d.counter + 1) s.now with counter := d.counter + 1, holds := d.holds.filter (· != y.id) } := by
  have h : (s.takeStamp shard k i d c w y dt).shards = (s.beforeOutcome shard k i d c w y).shards :=
    (State.sendOutcome_sent ..).shards_eq
  rw [State.beforeOutcome_frame] at h
  rw [State.shard?_modWhere (s := s) h (fun e => Shard.applyMember_id ..) shard, hd]
  simp [State.shard?_id hd]

end

/-- After the members' own pending entries take the stamp, none of that identifier in these lists is without one. -/
theorem stampPending_stamped {lists : List LList} {ids : List Nat} {id stamp : Nat} (hs : stamp ≠ 0) :
    ∀ l ∈ modWhere lists (fun l => ids.contains l.id) (stampPending id stamp), l.id ∈ ids → ∀ g ∈ l.gb, g.scan.id = id → g.stamp ≠ 0 := by
  intro l hl hid g hg hgid
  obtain ⟨m, -, rfl⟩ := List.mem_map.mp hl
  split at hid
  · rename_i hm
    rw [if_pos hm] at hg
    obtain ⟨e, -, rfl⟩ := List.mem_map.mp hg
    split at hgid
    · rename_i he; rw [if_pos he]; exact hs
    · rename_i he
      rw [if_neg he]
      simpa [GbEntry.pendingOf, hgid] using he
  · rename_i hm
    exact absurd (by simpa using hid) (by simpa using hm)

theorem execLedgerStamp_member {s : State} {shard t a i : Nat} {k : Key} {rest : List (Nat × LedgerWhat)} {d : Shard}
    (hd : s.shard? shard = some d) (hw : d.waiting = (a, .member k i) :: rest) :
    exec (.ledgerStamp shard t) s = .next (((s.at t).grantHead shard d a rest).stampMember shard k i) := by
  have hd' : (s.at t).shard? shard = some d := hd
  show execLedgerStamp shard t s = _
  unfold execLedgerStamp
  dsimp only
  rw [hd']; dsimp only
  rw [hw]
  rfl

theorem Shard.live_unborn {d : Shard} {y : Slot} (h : y.born = false) : d.live y = false := by
  unfold Shard.live Shard.rowAt; simp [h]

theorem State.grantHead_shards (s : State) (shard : Nat) (d : Shard) (since : Nat) (rest : List (Nat × LedgerWhat)) :
    (s.grantHead shard d since rest).shards = modWhere s.shards (·.id == shard) fun d => { d with waiting := rest } := by
  unfold State.grantHead State.countLedger
  dsimp only
  rw [State.modArb_frame]
  rfl

/-- A fold over the shards does not see who waits at them. -/
theorem foldl_modWhere_congr {α β : Type} (l : List α) (p : α → Bool) (f : α → α) (g : β → α → β) (hg : ∀ b a, g b (f a) = g b a) (b : β) :
    (modWhere l p f).foldl g b = l.foldl g b := by
  unfold modWhere
  rw [List.foldl_map]
  congr 1
  funext b a
  split
  · exact hg b a
  · rfl

theorem State.grantHead_tablesFree (s : State) (shard : Nat) (d : Shard) (since : Nat) (rest : List (Nat × LedgerWhat)) (tomb hist : Bool) :
    (s.grantHead shard d since rest).tablesFree tomb hist = s.tablesFree tomb hist := by
  unfold State.tablesFree State.tombCount State.histCount
  rw [State.grantHead_shards, foldl_modWhere_congr _ _ _ _ (by intro n d; rfl), foldl_modWhere_congr _ _ _ _ (by intro n d; rfl)]

/-- A member at the head of the ledger arbiter, just granted: its state `s`, its shard `d` and its slot's record `y`. -/
structure AtHead (s : State) (shard : Nat) (k : Key) (i n : Nat) (d : Shard) (c : Coll) (w : MWork) (y : Slot) : Prop where
  shard : s.shard? shard = some d
  member : s.member? k i = some w
  coll : s.coll? d.coll = some c
  slot : w.slot = some n
  record : d.slot? n = some y
  applied : d.pendingAcc n = none

section
variable {s : State} {shard : Nat} {k : Key} {i n : Nat} {d : Shard} {c : Coll} {w : MWork} {y : Slot}
variable (h : AtHead s shard k i n d c w y) (ha : d.stage = .forming ∨ w.lists ≠ [] ∨ w.msg.kind = .delete)
include h ha

/-- A member that the ledger arbiter stamps. -/
theorem State.stampMember_stamps {dt : Nat} (hv : s.verdict c d w = .apply dt) (hk : w.msg.kind ≠ .accumulate) :
    ∃ x e more, s.stampMember shard k i = x ∧ x.shard? shard = some e ∧
      e = { d.applyMember c w y (d.counter + 1) s.now with
        counter := d.counter + 1, slots := (d.applyMember c w y (d.counter + 1) s.now).slots ++ more, holds := e.holds, waiting := e.waiting } ∧
      OutcomeLeaves s.nodeId x w.msg (d.counter + 1) stOk dt ∧ x.member? k i = none ∧
      (∀ j ∈ x.tier.journal, j.kind = .member k i → j.stamp = d.counter + 1) ∧
      x.lists = if w.msg.kind == .insert || w.msg.kind == .upsert
        then modWhere s.lists (fun l => w.lists.contains l.id) (stampPending y.id (d.counter + 1)) else s.lists := by
  obtain ⟨next, hx⟩ := State.stampMember_applied h.shard h.member h.coll ha hv h.slot h.record h.applied hk
  have hgo := State.flushReady_letGoOn_goesOn (s.takeStamp shard k i d c w y dt) k shard next
  obtain ⟨e, more, he, hed⟩ := hgo.shards shard _ (State.takeStamp_shard? c w y dt h.shard)
  refine ⟨_, e, more, hx, he, hed, (State.takeStamp_leaves c w y dt).goesOn hgo, hgo.ended k i (State.takeStamp_member? c w y dt), ?_, ?_⟩
  · rw [hgo.journal_eq]; exact State.takeStamp_journal c w y dt
  · rw [hgo.lists_eq]; exact State.takeStamp_lists c w y dt

/-- A member that the ledger arbiter ends without a stamp. -/
theorem State.stampMember_ends {st dt : Nat} (hv : s.verdict c d w = .refuse st dt ∨ s.verdict c d w = .quiet st dt) :
    ∃ x e, s.stampMember shard k i = x ∧ x.shard? shard = some e ∧ e.counter = d.counter ∧ e.tombs = d.tombs ∧ e.hist = d.hist ∧
      OutcomeLeaves s.nodeId x w.msg 0 st dt ∧ x.member? k i = none := by
  obtain ⟨⟨hm, hl, -⟩, -, hs, -, -⟩ := State.endMember_spec h.member st dt
  obtain ⟨e, he, hed⟩ := hs shard d h.shard
  exact ⟨_, e, State.stampMember_ended h.shard h.member h.coll ha hv, he, by rw [hed], by rw [hed], by rw [hed], hl, hm⟩

omit ha in
theorem State.verdict_slot : s.verdict c d w = match w.msg.kind with
    | .insert => if d.live y then .refuse stInvalid 1 else
        if s.tablesFree y.bit true then .apply 0 else if c.spec.guestbookFull = 1 then .refuse stRetry 2 else .wait
    | .delete => if d.live y then (if s.tablesFree true false then .apply 0 else if c.spec.guestbookFull = 1 then .refuse stRetry 2 else .wait)
        else .quiet stOk 1
    | _ => s.verdict c d w := by
  have hs : w.slot.bind d.slot? = some y := by rw [h.slot]; exact h.record
  unfold State.verdict
  simp only [hs]
  cases w.msg.kind <;> rfl

end

/-- A slot's record with the row that an insert or upsert puts there at its stamp (R269). -/
def Slot.put (u : Slot) (d : Shard) (c : Coll) (w : MWork) (y : Slot) : Slot :=
  ({ u with row := listedRow (w.row.getD y.row) w.lists,
            home := if d.stage == .forming then .formation else if y.home == .formation || y.lost then .t2 else y.home,
            born := true, bit := false, lost := false, migration := u.migration.map fun m => { m with dirty := true } } : Slot).written c

/-- The first insert into a slot makes its row current (R269, R303). -/
theorem Shard.applyMember_insert {d : Shard} (c : Coll) {w : MWork} {y : Slot} (stamp at_ : Nat) (hk : w.msg.kind = .insert)
    (hborn : y.born = false) (hbit : y.bit = false) :
    d.applyMember c w y stamp at_ = d.change y.num stamp 0 true none none (Slot.put · d c w y) := by
  unfold Shard.applyMember
  simp only [hk, hborn, hbit]
  rfl

/-- A slot that a change makes current, read back. -/
theorem Shard.change_slot? {d : Shard} {n stamp kind : Nat} {b : Bool} {p : Option (Row × Home)} {dl : Option (List Int × List (Nat × Int))}
    {f : Slot → Slot} (hf : ∀ u, (f u).num = u.num) {y : Slot} (hy : d.slot? n = some y) :
    (d.change n stamp kind b p dl f).slot? n = some { f y with payer := none } := by
  have h : (d.change n stamp kind b p dl f).slot? n = (d.slot? n).map fun y => { f y with payer := none } :=
    find?_modWhere _ _ _ (by simp [hf])
  rw [h, hy]
  rfl

theorem Shard.slot?_append {d e : Shard} {n : Nat} {y : Slot} {more : List Slot} (he : e.slots = d.slots ++ more) (hy : d.slot? n = some y) :
    e.slot? n = some y := by
  unfold Shard.slot? at *; rw [he, List.find?_append, hy]; rfl

/-- Settles O37: the stamp, and with it the row or the tombstone; what is refused or already dead leaves all as it was. -/
theorem mutationStamps : Obligations.MutationStamps := by
  unfold Obligations.MutationStamps
  intro s shard t a n i k rest d c w y hd hq hc hw hsh hn hy hp
  have hex := execLedgerStamp_member (t := t) hd hq
  have hgf := State.grantHead_frame (s.at t) shard d a rest
  have hgt := State.grantHead_tablesFree (s.at t) shard d a rest
  have hgs := (State.grantHead_shard? (s := s.at t) hd a rest).1
  generalize (s.at t).grantHead shard d a rest = z at hex hgf hgt hgs
  have hz : AtHead z shard k i n { d with waiting := rest } c w y :=
    ⟨hgs, by rw [hgf]; exact hw, by rw [hgf]; exact hc, hn, hy, hp⟩
  have hnode : z.nodeId = s.nodeId := by rw [hgf]; rfl
  have hnow : z.now = (s.at t).now := by rw [hgf]; rfl
  have hlists : z.lists = s.lists := by rw [hgf]; rfl
  have hv := State.verdict_slot hz
  rw [hex]
  refine ⟨fun hk hborn hbit ha hfree => ?_, fun hk hlive hfree => ?_, fun hk hlive ha => ?_, fun hk hlive => ?_⟩
  · have hv' : z.verdict c { d with waiting := rest } w = .apply 0 := by
      rw [hv, hk]
      refine (if_neg ?_).trans (if_pos ?_)
      · rw [Shard.live_unborn hborn]; exact Bool.false_ne_true
      · rw [hbit, hgt]; exact hfree
    obtain ⟨x, e, more, hx, he, hed, hl, hm, hj, hls⟩ := State.stampMember_stamps hz (ha.imp_right .inl) hv' (by rw [hk]; decide)
    have hnum : y.num = n := by simpa using List.find?_some hy
    rw [Shard.applyMember_insert c (d.counter + 1) z.now hk hborn hbit, hnum] at hed
    have hslot := Shard.slot?_append (e := e) (by rw [hed])
      (Shard.change_slot? (d := { d with waiting := rest }) (f := (Slot.put · { d with waiting := rest } c w y)) (by intro u; rfl) hy)
    refine ⟨x, e, _, congrArg _ hx, he, by rw [hed], by rw [hed]; rfl, hslot, rfl, rfl, rfl, rfl, by rw [hed]; rfl, hnode ▸ hl, hm, hj, ?_⟩
    rw [hls, hk, if_pos (by decide)]
    exact stampPending_stamped (Nat.succ_ne_zero _)
  · have hv' : z.verdict c { d with waiting := rest } w = .apply 0 := by
      rw [hv, hk]
      exact (if_pos hlive).trans (if_pos (by rw [hgt]; exact hfree))
    obtain ⟨x, e, more, hx, he, hed, hl, hm, -, hls⟩ := State.stampMember_stamps hz (.inr (.inr hk)) hv' (by rw [hk]; decide)
    have hnum : y.num = n := by simpa using List.find?_some hy
    have hap : ({ d with waiting := rest } : Shard).applyMember c w y (d.counter + 1) z.now =
        { d with waiting := rest, tombs := d.tombs ++ [tombOf y.id (d.counter + 1) 0 n (s.at t).now y.row] } := by
      unfold Shard.applyMember
      simp only [hk, hnum, hnow]
    rw [hap] at hed
    refine ⟨x, e, congrArg _ hx, he, by rw [hed], by rw [hed], Shard.slot?_append (by rw [hed]) hy, hnode ▸ hl, hm, ?_⟩
    rw [hls, hk, if_neg (by decide), hlists]
  · have hv' : z.verdict c { d with waiting := rest } w = .refuse stInvalid 1 := by
      rw [hv, hk]; exact if_pos hlive
    obtain ⟨x, e, hx, he⟩ := State.stampMember_ends hz (ha.imp_right .inl) (.inl hv')
    exact ⟨x, e, congrArg _ hx, hnode ▸ he⟩
  · have hv' : z.verdict c { d with waiting := rest } w = .quiet stOk 1 := by
      rw [hv, hk]; exact if_neg (by simp [show ({ d with waiting := rest } : Shard).live y = false from hlive])
    obtain ⟨x, e, hx, he⟩ := State.stampMember_ends hz (.inr (.inr hk)) (.inr hv')
    exact ⟨x, e, congrArg _ hx, hnode ▸ he⟩

end Sys2Proof.Machine

end

-- ==== Proofs: members at their owner ====
section
/-! SUPPORT. A member comes to its owner (R33 steps 1 and 2, R50, R114, R266 to R268, R302, R320). -/

namespace Sys2Proof.Machine

open Sys2Proof

/-- What a member that has been admitted does on arrival. -/
def State.memberArrives (s : State) (m : MemberMsg) : Result :=
  match s.shard? m.shard, s.coll? m.collection with
  | some d, some c =>
    match d.forwardTo with
    | some n =>
      if 4 ≤ m.hop then .next (s.sendOutcome m 0 stRetry 0)
      else
        let g := workTag m.key m.function m.qosClass (memberOpcode m.kind) n m.shard (m.hop + 1)
        .next (s.produce n g (reservedQueue g) (.member { m with hop := m.hop + 1 }))
    | none =>
      if d.lost then .next (s.sendOutcome m 0 stDegraded 0)
      else if (s.member? m.key m.index).isSome then .next s
      else
        match memberFault c d m with
        | some x => .next (s.sendOutcome m 0 x.1 x.2)
        | none => .next ((s.modEng fun e => { e with members := e.members ++ [newMember m s.now] }).resolveMember m.key m.index)
  | _, some c =>
    if m.byRef && !(decide (c.spec.firstShard ≤ m.shard) && decide (m.shard < c.spec.firstShard + c.spec.shards)) then
      .next (s.sendOutcome m 0 stInvalid 6)
    else .next (s.sendOutcome m 0 stRetry 0)
  | _, none => .next (s.sendOutcome m 0 stRetry 0)

theorem execMemberArrival_admitted {s y : State} {m : MemberMsg} {t : Nat} (h : (s.at t).takeAdmitted (tagIsMember m.key m.shard) = some y) :
    exec (.memberArrival (some m) t) s = y.memberArrives m := by
  show execMemberArrival (some m) t s = _
  simp only [execMemberArrival, h]
  rfl

theorem execMemberArrival_internal {s : State} {m : MemberMsg} {t : Nat} {rest : List MemberMsg} (h : s.eng.inMembers = m :: rest) :
    exec (.memberArrival none t) s = State.memberArrives { s.at t with eng := { s.eng with inMembers := rest } } m := by
  have hh : (s.at t).eng.inMembers.head? = some m := by rw [State.at_eng, h]; rfl
  have hd : ((s.at t).modEng fun e => { e with inMembers := e.inMembers.drop 1 }) = { s.at t with eng := { s.eng with inMembers := rest } } := by
    simp [State.modEng, h]
  show execMemberArrival none t s = _
  simp only [execMemberArrival, hh, hd]
  rfl

theorem State.takeAdmitted_frame {s y : State} {p : Tag → Bool} (h : s.takeAdmitted p = some y) : y = { s with sched := y.sched } := by
  unfold State.takeAdmitted at h
  split at h
  · cases h
  · obtain rfl := Option.some.inj h; rfl

/-! ### A member that takes its identifier (R302) -/

section
variable {s : State} {k : Key} {i : Nat} {w : MWork} {d : Shard} {c : Coll}
variable (hw : s.member? k i = some w) (hd : s.shard? w.msg.shard = some d) (hc : s.coll? d.coll = some c)
include hw hd hc

/-- An insert into a FORMED shard asks the coarse field for its assignment (R267). -/
theorem State.askAssignment_asks (hk : w.msg.kind = .insert ∨ w.msg.kind = .upsert) (hf : d.stage = .formed) :
    ∃ sc, s.askAssignment k i = (s.modMember k i fun w => { w with stage := .resolved, scan := some sc, since := s.now }).arbRequest 0x80
      (s.homeTile k.num) false false (.assign k i) := by
  have hb : (s.shard? w.msg.shard).bind (fun d => s.coll? d.coll) = some c := by rw [hd]; exact hc
  have hgo : ((w.msg.kind == .insert || w.msg.kind == .upsert) && d.stage == .formed) = true := by
    rcases hk with h | h <;> simp [h, hf]
  unfold State.askAssignment
  rw [hw]; dsimp only
  rw [hb, hd]; dsimp only
  rw [if_pos hgo]
  exact ⟨_, rfl⟩

/-- Every other member goes on at once (R272). -/
theorem State.askAssignment_assigns (h : ¬ ((w.msg.kind = .insert ∨ w.msg.kind = .upsert) ∧ d.stage = .formed)) :
    s.askAssignment k i = s.modMember k i fun w => { w with stage := .assigned, since := s.now } := by
  have hb : (s.shard? w.msg.shard).bind (fun d => s.coll? d.coll) = some c := by rw [hd]; exact hc
  unfold State.askAssignment
  rw [hw]; dsimp only
  rw [hb, hd]; dsimp only
  rw [if_neg (by simpa using h)]

/-- A member that asks waits at the coarse field in its stage; another one is assigned. -/
theorem State.askAssignment_spec : ∃ v, (s.askAssignment k i).member? k i = some v ∧ v = { w with stage := v.stage, scan := v.scan, since := v.since } ∧
    ((w.msg.kind = .insert ∨ w.msg.kind = .upsert) → d.stage = .formed → v.stage = .resolved ∧ Waits (s.askAssignment k i) 0x80 (.assign k i)) ∧
    (¬ ((w.msg.kind = .insert ∨ w.msg.kind = .upsert) ∧ d.stage = .formed) → v.stage = .assigned) := by
  by_cases h : (w.msg.kind = .insert ∨ w.msg.kind = .upsert) ∧ d.stage = .formed
  · obtain ⟨sc, he⟩ := State.askAssignment_asks hw hd hc h.1 h.2
    have hm := State.modMember_member hw (f := fun w => { w with stage := .resolved, scan := some sc, since := s.now }) (by intro w; rfl)
    have hx : ∀ z : State, (z.arbRequest 0x80 (s.homeTile k.num) false false (.assign k i)).member? k i = z.member? k i := by
      intro z; rw [State.eq_of_noArbs (State.arbRequest_noArbs z ..)]; rfl
    rw [he]
    exact ⟨_, (hx _).trans hm, rfl, fun _ _ => ⟨rfl, State.arbRequest_waits ..⟩, fun hn => absurd h hn⟩
  · have hm := State.modMember_member hw (f := fun w => { w with stage := .assigned, since := s.now }) (by intro w; rfl)
    rw [State.askAssignment_assigns hw hd hc h]
    exact ⟨_, hm, rfl, fun hk hf => absurd ⟨hk, hf⟩ h, fun _ => rfl⟩

end

theorem State.noteRow_frame (s : State) (c : Coll) (row : Option Row) : s.noteRow c row = { s with colls := (s.noteRow c row).colls } := by
  unfold State.noteRow; split <;> rfl

/-- A collection with the peaks of one more row (R266). -/
def Coll.notedPeaks (now : Nat) (mine : List Int) (c : Coll) : Coll :=
  if c.peaksFrom + 10 * Config.ticksPerS ≤ now then
    { c with peaks := mine, peaksFrom := now / (10 * Config.ticksPerS) * (10 * Config.ticksPerS) }
  else { c with peaks := mine.mapIdx fun i v => max v (c.peaks.getD i 0) }

theorem Coll.notedPeaks_spec (now : Nat) (mine : List Int) (c : Coll) : (c.notedPeaks now mine).spec = c.spec := by
  unfold Coll.notedPeaks; split <;> rfl

theorem State.notePeaks_eq (s : State) (c : Coll) (r : Row) : s.notePeaks c r =
    s.modColl c.spec.id (Coll.notedPeaks s.now (r.groups.map fun g => listMax (g.values.map fun v => (v.natAbs : Int)))) := rfl

theorem State.noteRow_coll? {s : State} {i : Nat} {c : Coll} (hc : s.coll? i = some c) (b : Coll) (row : Option Row) :
    ∃ c', (s.noteRow b row).coll? i = some c' := by
  unfold State.noteRow
  split
  · rename_i r
    rw [State.notePeaks_eq]
    generalize (r.groups.map fun g => listMax (g.values.map fun v => (v.natAbs : Int))) = mine
    have h : (s.modColl b.spec.id (Coll.notedPeaks s.now mine)).coll? i =
        (s.coll? i).map fun c => if c.spec.id == b.spec.id then c.notedPeaks s.now mine else c :=
      find?_modWhere_keeps (by intro c; rw [Coll.notedPeaks_spec])
    rw [h, hc]
    exact ⟨_, rfl⟩
  · exact ⟨c, hc⟩

/-- The identifier's slot is given, or one is appended to the shard's. -/
theorem State.slotFor_spec {s : State} {d : Shard} {j : Nat} {d' : Shard} (hd : s.shard? j = some d') (b : Bool) (id : Nat) (found : Option Slot) :
    (s.slotFor d b id found).2.eng = s.eng ∧ (s.slotFor d b id found).2.colls = s.colls ∧
      ∃ e, (s.slotFor d b id found).2.shard? j = some e ∧ e = { d' with slots := e.slots } ∧
        ∀ z, found = some z → (s.slotFor d b id found).1 = some z.num ∧ e.slots = d'.slots := by
  unfold State.slotFor
  cases found with
  | some x => exact ⟨rfl, rfl, d', hd, rfl, fun z h => ⟨by rw [Option.some.inj h], rfl⟩⟩
  | none =>
    dsimp only
    split
    · rename_i n y h
      have hy : y = { s with tier := y.tier } := by
        split at h
        · unfold State.takeSlot at h
          split at h
          · cases h; rfl
          · split at h
            · cases h; rfl
            · cases h
        · cases h
      rw [hy]
      refine ⟨rfl, rfl, _, (State.modShard_shard? _ d.id (by intro d; rfl) j).trans (congrArg (Option.map _) hd), ?_, fun z h => by cases h⟩
      dsimp only
      split <;> rfl
    · exact ⟨rfl, rfl, d', hd, rfl, fun z h => by cases h⟩

/-- What holding its identifier does for a member: the shard holds it, and the member has the identifier's slot. -/
theorem State.holdMember_spec {s : State} {d : Shard} {c : Coll} (w : MWork) (hd : s.shard? w.msg.shard = some d) (hc : s.coll? d.coll = some c) :
    (s.holdMember d c w).2.eng = s.eng ∧ (∃ c', (s.holdMember d c w).2.coll? d.coll = some c') ∧
      ∃ e, (s.holdMember d c w).2.shard? w.msg.shard = some e ∧
        e = { d with slots := e.slots, holds := d.holds ++ [d.idOf w.msg.byRef w.msg.name] } ∧
        ∀ z, d.named w.msg.byRef w.msg.name = some z → (s.holdMember d c w).1 = some z.num ∧ e.slots = d.slots := by
  have h1 : (s.modShard d.id fun d' => { d' with holds := d'.holds ++ [d.idOf w.msg.byRef w.msg.name] }).shard? w.msg.shard =
      some { d with holds := d.holds ++ [d.idOf w.msg.byRef w.msg.name] } := by
    rw [State.modShard_shard? s d.id (by intro d; rfl), hd]; simp
  unfold State.holdMember
  dsimp only
  generalize formedRow c w.msg (d.idOf w.msg.byRef w.msg.name) (d.named w.msg.byRef w.msg.name) = row
  have hcoll : (s.modShard d.id fun d' => { d' with holds := d'.holds ++ [d.idOf w.msg.byRef w.msg.name] }).coll? d.coll = some c := hc
  have heng : (s.modShard d.id fun d' => { d' with holds := d'.holds ++ [d.idOf w.msg.byRef w.msg.name] }).eng = s.eng := rfl
  generalize (s.modShard d.id fun d' => { d' with holds := d'.holds ++ [d.idOf w.msg.byRef w.msg.name] }) = y at h1 hcoll heng
  have hn := State.noteRow_frame y c row
  obtain ⟨c', hc'⟩ := State.noteRow_coll? hcoll c row
  have h2 : (y.noteRow c row).shard? w.msg.shard = some { d with holds := d.holds ++ [d.idOf w.msg.byRef w.msg.name] } := by
    rw [hn]; exact h1
  have heng2 : (y.noteRow c row).eng = s.eng := by rw [hn]; exact heng
  obtain ⟨he, hcs, e, hse, hed, hz⟩ := State.slotFor_spec (d := d) h2 (w.msg.kind == .insert || w.msg.kind == .upsert)
    (d.idOf w.msg.byRef w.msg.name) (d.named w.msg.byRef w.msg.name)
  exact ⟨he.trans heng2, ⟨c', by unfold State.coll?; rw [hcs]; exact hc'⟩, e, hse, hed, hz⟩

theorem State.askAssignment_shards (s : State) (k : Key) (i : Nat) : (s.askAssignment k i).shards = s.shards := by
  unfold State.askAssignment
  split
  · rfl
  · split
    · split
      · rw [State.eq_of_noArbs (State.arbRequest_noArbs ..)]; rfl
      · rfl
    · rfl

/-- A member resolves: it holds its identifier, has its slot, and asks for its assignment or goes on at once. -/
theorem State.resolveMember_spec {s : State} {k : Key} {i : Nat} {w : MWork} {d : Shard} {c : Coll} (hw : s.member? k i = some w)
    (hd : s.shard? w.msg.shard = some d) (hc : s.coll? d.coll = some c) (hh : d.holds.contains (d.idOf w.msg.byRef w.msg.name) = false) :
    ∃ v e, (s.resolveMember k i).member? k i = some v ∧ v.msg = w.msg ∧ v.stamp = w.stamp ∧
      (s.resolveMember k i).shard? w.msg.shard = some e ∧ e = { d with slots := e.slots, holds := d.holds ++ [d.idOf w.msg.byRef w.msg.name] } ∧
      (∀ z, d.named w.msg.byRef w.msg.name = some z → v.slot = some z.num ∧ e.slots = d.slots) ∧
      ((w.msg.kind = .insert ∨ w.msg.kind = .upsert) → d.stage = .formed →
        v.stage = .resolved ∧ Waits (s.resolveMember k i) 0x80 (.assign k i)) ∧
      (¬ ((w.msg.kind = .insert ∨ w.msg.kind = .upsert) ∧ d.stage = .formed) → v.stage = .assigned) := by
  obtain ⟨heng, ⟨c', hc'⟩, e, he, hed, hz⟩ := State.holdMember_spec w hd hc
  rw [State.resolveMember_free hw hd hc hh]
  generalize s.holdMember d c w = r at heng hc' he hz
  obtain ⟨slot, y⟩ := r
  have hy : y.member? k i = some w := by
    have : y.member? k i = s.member? k i := by unfold State.member?; rw [heng]
    exact this.trans hw
  have hm := State.modMember_member hy (f := fun x => x.resolvedWith d c w.msg slot) (by intro w; rfl)
  have hstage : e.stage = d.stage := by rw [hed]
  have hcoll : e.coll = d.coll := by rw [hed]
  dsimp only at hc' he hz ⊢
  generalize hyz : (y.modMember k i fun x => x.resolvedWith d c w.msg slot) = z at hm
  have hzs : z.shard? w.msg.shard = some e := by rw [← hyz]; exact he
  have hzc : z.coll? e.coll = some c' := by rw [← hyz, hcoll]; exact hc'
  obtain ⟨v, hv, hve, hask, hass⟩ := State.askAssignment_spec hm hzs hzc
  rw [hstage] at hask hass
  have hxs : (z.askAssignment k i).shard? w.msg.shard = some e := by
    unfold State.shard?; rw [State.askAssignment_shards]; exact hzs
  exact ⟨v, e, hv, by rw [hve]; rfl, by rw [hve]; rfl, hxs, hed, fun u hu => ⟨by rw [hve]; exact (hz u hu).1, (hz u hu).2⟩, hask, hass⟩

/-! ### Level-1 assignment (R36, R188, R267, R268) -/

theorem State.scoreL1_spec (c : CollSpec) (m : Nat) (q : List QGroup) (qn : Int) (l : List ((List QGroup × Int) × Nat)) (s : State) :
    (s.scoreL1 c m q qn l).2 = { s with free := (s.scoreL1 c m q qn l).2.free } ∧ (s.scoreL1 c m q qn l).1.map (·.2) = l.map (·.2) := by
  induction l generalizing s with
  | nil => exact ⟨rfl, rfl⟩
  | cons x l ih =>
    obtain ⟨⟨x, n⟩, i⟩ := x
    unfold State.scoreL1
    dsimp only
    obtain ⟨hf, hl⟩ := ih (s.scoreOf c (some m) q x n qn 0).2
    refine ⟨?_, ?_⟩
    · rw [hf]; rfl
    · rw [List.map_cons, hl]; rfl

theorem mem_insertBest {x y : Int × Nat} {l : List (Int × Nat)} : y ∈ insertBest x l ↔ y = x ∨ y ∈ l := by
  induction l with
  | nil => simp [insertBest]
  | cons z l ih =>
    unfold insertBest
    split
    · simp
    · simp only [List.mem_cons, ih]; tauto

theorem mem_ranked {y : Int × Nat} {l : List (Int × Nat)} : y ∈ ranked l ↔ y ∈ l := by
  have h : ∀ (l a : List (Int × Nat)), y ∈ l.foldl (fun a x => insertBest x a) a ↔ y ∈ a ∨ y ∈ l := by
    intro l
    induction l with
    | nil => simp
    | cons z l ih => intro a; rw [List.foldl_cons, ih, mem_insertBest, List.mem_cons]; tauto
  unfold ranked
  simp [h]

/-- The best of some scores is one of them. -/
theorem ranked_head_mem {l : List (Int × Nat)} (h : l ≠ []) : ((ranked l).head?.map (·.2)).getD 0 ∈ l.map (·.2) := by
  obtain ⟨x, hx⟩ := List.exists_mem_of_ne_nil l h
  cases hr : ranked l with
  | nil => exact absurd (mem_ranked.mpr hx) (by rw [hr]; exact List.not_mem_nil)
  | cons y _ => exact List.mem_map_of_mem (mem_ranked.mp (by rw [hr]; exact List.mem_cons_self))

theorem Shard.columns_lt {d : Shard} {i : Nat} (h : i ∈ d.columns.map (·.2)) : i < d.columns.length := by
  obtain ⟨⟨x, i⟩, hx, rfl⟩ := List.mem_map.mp h
  simpa [Shard.columns] using (List.mem_zipIdx' hx).1

theorem L2Batch.board_insert (b : L2Batch) (now : Nat) (m : Key × Nat) :
    (b.board now fun b => { b with inserts := b.inserts ++ [m] }).shard = b.shard ∧
      m ∈ (b.board now fun b => { b with inserts := b.inserts ++ [m] }).inserts := by
  unfold L2Batch.board
  dsimp only
  split <;> exact ⟨rfl, by simp⟩

theorem State.boardBatch_insert (s : State) (shard : Nat) (m : Key × Nat) :
    ∃ b ∈ (s.boardBatch shard fun b => { b with inserts := b.inserts ++ [m] }).eng.batches, b.shard = shard ∧ m ∈ b.inserts := by
  unfold State.boardBatch
  dsimp only
  rw [State.modEng_eng]
  split
  · rename_i h
    obtain ⟨b, hb, hmine⟩ := List.any_eq_true.mp h
    have hsh : b.shard = shard := by simp at hmine; exact hmine.1
    refine ⟨_, List.mem_map_of_mem hb, ?_⟩
    rw [if_pos hmine]
    exact ⟨(L2Batch.board_insert b s.now m).1.trans hsh, (L2Batch.board_insert b s.now m).2⟩
  · exact ⟨_, List.mem_append_right _ (List.mem_singleton_self _), L2Batch.board_insert _ s.now m⟩

theorem State.arbEnd_arbHolds (s : State) (id : Nat) (w : Work) : (s.arbEnd id w).arbHolds id w = false := by
  unfold State.arbHolds State.arbEnd
  rw [State.modArb_arb_same (by intro a; split; rfl; dsimp only; split <;> rfl)]
  split
  · rename_i h
    simpa using h
  · dsimp only
    split <;> simp [Arb.addHeld]

section
variable {s : State} {k : Key} {i : Nat} {w : MWork} {d : Shard} {c : Coll}
variable (hw : s.member? k i = some w) (hd : s.shard? w.msg.shard = some d) (hc : s.coll? d.coll = some c)
include hw hd hc

/-- The coarse field assigns a level-1 centroid to an insert, which joins its shard's level-2 batch. -/
theorem insertAssignment_assigns (hst : w.stage = .resolved) (hh : s.arbHolds 0x80 (.assign k i) = true) (hs : w.scan ≠ none)
    (hcool : s.pwr.hotTiles.contains 4 = false) :
    ∃ x v, exec (.insertAssignment k i) s = .next x ∧ x = { s with eng := x.eng, arbs := x.arbs, free := x.free } ∧
      x.member? k i = some v ∧ v = { w with l1 := v.l1, stage := .level2, since := s.now } ∧
      (d.columns ≠ [] → v.l1 < d.columns.length) ∧
      (∃ b ∈ x.eng.batches, b.shard = w.msg.shard ∧ (k, i) ∈ b.inserts) ∧ x.arbHolds 0x80 (.assign k i) = false := by
  obtain ⟨r, hr⟩ := Option.ne_none_iff_exists'.mp hs
  have hb : (s.shard? w.msg.shard).bind (fun d => s.coll? d.coll) = some c := by rw [hd]; exact hc
  obtain ⟨hf, hl⟩ := State.scoreL1_spec c.spec fourBit r.groups r.norm d.columns s
  have hex : exec (.insertAssignment k i) s = .next (((((s.scoreL1 c.spec fourBit r.groups r.norm d.columns).2).modMember k i fun m =>
      { m with l1 := ((ranked (s.scoreL1 c.spec fourBit r.groups r.norm d.columns).1).head?.map (·.2)).getD 0, stage := .level2,
               since := (s.scoreL1 c.spec fourBit r.groups r.norm d.columns).2.now }).boardBatch d.id
        fun b => { b with inserts := b.inserts ++ [(k, i)] }).arbEnd 0x80 (.assign k i)) := by
    show execInsertAssignment k i s = _
    unfold execInsertAssignment
    dsimp only
    rw [hw]; dsimp only
    rw [if_neg (by rw [hst]; decide), if_neg (by rw [hh, hst, hcool]; decide), hb, hd, hr]
  have hlt : d.columns ≠ [] → ((ranked (s.scoreL1 c.spec fourBit r.groups r.norm d.columns).1).head?.map (·.2)).getD 0 < d.columns.length := by
    intro hne
    refine Shard.columns_lt (hl ▸ ranked_head_mem fun he => hne ?_)
    simpa [he] using hl
  rw [hex]
  generalize s.scoreL1 c.spec fourBit r.groups r.norm d.columns = p at hf hl hlt
  obtain ⟨sc, y⟩ := p
  dsimp only at hf hl hlt ⊢
  generalize ((ranked sc).head?.map (·.2)).getD 0 = best at hlt
  have hy : y.member? k i = some w := by rw [hf]; exact hw
  have hnow : y.now = s.now := by rw [hf]; rfl
  have hm := State.modMember_member hy (f := fun m => { m with l1 := best, stage := .level2, since := y.now }) (by intro w; rfl)
  have hbb : ∀ z : State, z.boardBatch d.id (fun b => { b with inserts := b.inserts ++ [(k, i)] }) =
      { z with eng := { z.eng with batches := (z.boardBatch d.id fun b => { b with inserts := b.inserts ++ [(k, i)] }).eng.batches } } := by
    intro z; unfold State.boardBatch State.modEng; dsimp only; split <;> rfl
  have hba := State.boardBatch_insert (y.modMember k i fun m => { m with l1 := best, stage := .level2, since := y.now }) d.id (k, i)
  have hbf := hbb (y.modMember k i fun m => { m with l1 := best, stage := .level2, since := y.now })
  generalize (y.modMember k i fun m => { m with l1 := best, stage := .level2, since := y.now }).boardBatch d.id
    (fun b => { b with inserts := b.inserts ++ [(k, i)] }) = z at hba hbf
  have hef := State.arbEnd_frame z 0x80 (.assign k i)
  have hzm : z.member? k i = some { w with l1 := best, stage := .level2, since := y.now } := by rw [hbf]; exact hm
  refine ⟨_, { w with l1 := best, stage := .level2, since := y.now }, rfl, ?_, ?_, by rw [hnow], hlt, ?_, State.arbEnd_arbHolds ..⟩
  · rw [hef, hbf, hf]; rfl
  · rw [hef]; exact hzm
  · rw [hef, ← State.shard?_id hd]; exact hba

end

theorem State.produce_eng (s : State) (dest : Nat) (tag : Tag) (q : Nat) (body : Msg) : (s.produce dest tag q body).eng = s.eng := by
  unfold State.produce
  dsimp only
  split <;> rfl

section
variable {y : State} {m : MemberMsg} {d : Shard} {c : Coll}
variable (hd : y.shard? m.shard = some d) (hc : y.coll? m.collection = some c)
include hd hc

/-- A shard that has moved on forwards the member, four times at most. -/
theorem State.memberArrives_forwards {n : Nat} (hn : d.forwardTo = some n) :
    (m.hop < 4 → ∃ x, y.memberArrives m = .next x ∧ FrameTo x n (.member { m with hop := m.hop + 1 }) ∧ x.shards = y.shards ∧ x.eng = y.eng) ∧
      (4 ≤ m.hop → ∃ x, y.memberArrives m = .next x ∧ OutcomeLeaves y.nodeId x m 0 stRetry 0 ∧ x.shards = y.shards) := by
  unfold State.memberArrives
  rw [hd, hc]; dsimp only
  rw [hn]; dsimp only
  refine ⟨fun h => ?_, fun h => ?_⟩
  · rw [if_neg (by omega)]
    exact ⟨_, rfl, State.produce_frameTo .., (State.produce_sent ..).shards_eq, State.produce_eng ..⟩
  · rw [if_pos h]
    exact ⟨_, rfl, State.sendOutcome_leaves .., (State.sendOutcome_sent ..).shards_eq⟩

section
variable (hn : d.forwardTo = none)
include hn

theorem State.memberArrives_lost (hl : d.lost = true) : y.memberArrives m = .next (y.sendOutcome m 0 stDegraded 0) := by
  unfold State.memberArrives
  rw [hd, hc]; dsimp only
  rw [hn]; dsimp only
  rw [if_pos hl]

theorem State.memberArrives_again (hl : d.lost = false) (hk : y.member? m.key m.index ≠ none) : y.memberArrives m = .next y := by
  unfold State.memberArrives
  rw [hd, hc]; dsimp only
  rw [hn]; dsimp only
  rw [if_neg (by rw [hl]; decide), if_pos (Option.isSome_iff_ne_none.mpr hk)]

theorem State.memberArrives_new (hl : d.lost = false) (hk : y.member? m.key m.index = none) : y.memberArrives m =
    match memberFault c d m with
    | some x => .next (y.sendOutcome m 0 x.1 x.2)
    | none => .next ((y.modEng fun e => { e with members := e.members ++ [newMember m y.now] }).resolveMember m.key m.index) := by
  unfold State.memberArrives
  rw [hd, hc]; dsimp only
  rw [hn]; dsimp only
  rw [if_neg (by rw [hl]; decide), if_neg (by rw [hk]; decide)]

end

end

theorem State.memberArrives_noShard {y : State} {m : MemberMsg} {c : Coll} (hd : y.shard? m.shard = none) (hc : y.coll? m.collection = some c) :
    ∃ d, y.memberArrives m = .next (y.sendOutcome m 0 d.1 d.2) ∧ (d = (stRetry, 0) ∨ d = (stInvalid, 6) ∧ m.byRef = true) := by
  unfold State.memberArrives
  rw [hd, hc]; dsimp only
  split
  · rename_i h
    simp only [Bool.and_eq_true] at h
    exact ⟨(stInvalid, 6), rfl, .inr ⟨rfl, h.1⟩⟩
  · exact ⟨(stRetry, 0), rfl, .inl rfl⟩

/-- A member that this node takes up is found among its members. -/
theorem State.newMember_member? {y : State} {m : MemberMsg} (h : y.member? m.key m.index = none) :
    (y.modEng fun e => { e with members := e.members ++ [newMember m y.now] }).member? m.key m.index = some (newMember m y.now) := by
  have : (y.eng.members ++ [newMember m y.now]).find? (fun w => w.msg.key == m.key && w.msg.index == m.index) = some (newMember m y.now) := by
    rw [List.find?_append, show y.eng.members.find? _ = none from h]
    simp [newMember]
  exact this

/-- Settles O35, by the cases of a member's arrival and those of its assignment. -/
theorem membersAtTheirOwner : Obligations.MembersAtTheirOwner := by
  unfold Obligations.MembersAtTheirOwner
  constructor
  · intro s y m t a c ha hc
    have hy : exec a s = y.memberArrives m ∧ y = { s.at t with sched := y.sched, eng := { s.eng with inMembers := y.eng.inMembers } } := by
      rcases ha with ⟨rfl, hadm⟩ | ⟨rfl, rest, hin, rfl⟩
      · exact ⟨execMemberArrival_admitted hadm, by rw [State.takeAdmitted_frame hadm]; rfl⟩
      · exact ⟨execMemberArrival_internal hin, rfl⟩
    obtain ⟨hex, hyf⟩ := hy
    have hyc : y.coll? = s.coll? := by rw [hyf]; rfl
    have hys : y.shards = s.shards := by rw [hyf]; rfl
    have hyd : y.shard? = s.shard? := by rw [hyf]; rfl
    have hyn : y.nodeId = s.nodeId := by rw [hyf]; rfl
    have hym : y.eng.members = s.eng.members := by rw [hyf]
    have hyk : y.member? = s.member? := by rw [hyf]; rfl
    have hyl : y.lists = s.lists := by rw [hyf]; rfl
    have hyo : y.out = s.out := by rw [hyf]; rfl
    rw [← hyc] at hc
    rw [hex, ← hys, ← hyd, ← hyn, ← hyk, ← hyl, ← hyo, ← hym]
    clear hex ha hyf hyc hys hyd hyn hym hyk hyl hyo
    refine ⟨fun d hd hdc => ⟨fun n hn => State.memberArrives_forwards hd hc hn, fun hn hl => ?_, fun hn hl hk => ?_, fun hn hl hk => ⟨?_, ?_, ?_⟩⟩, fun hd => ?_⟩
    · exact ⟨_, State.memberArrives_lost hd hc hn hl, State.sendOutcome_leaves .., (State.sendOutcome_sent ..).shards_eq⟩
    · exact State.memberArrives_again hd hc hn hl hk
    · intro hfault hh
      rw [State.memberArrives_new hd hc hn hl hk, hfault]
      have hw := State.newMember_member? hk
      have hgo := State.resolveMember_goesOn (y.modEng fun e => { e with members := e.members ++ [newMember m y.now] }) m.key m.index
      obtain ⟨v, e, hv, hvm, hvs, he, hed, hz, hask, hass⟩ := State.resolveMember_spec (d := d) (c := c) hw hd (by rw [hdc]; exact hc) hh
      exact ⟨_, v, e, rfl, hv, hvm, hvs, he, congrArg Shard.holds hed, by rw [hed], by rw [hed],
        by rw [hed], hz, hask, hass, hgo.lists_eq, hgo.out_eq⟩
    · intro hfault hh
      rw [State.memberArrives_new hd hc hn hl hk, hfault]
      have hw := State.newMember_member? hk
      have hm := State.modMember_member hw (f := fun w => { w with stage := .waitIdentifier, since := y.now }) (by intro w; rfl)
      have hr := State.resolveMember_held (d := d) (c := c) hw hd (by rw [hdc]; exact hc) hh
      exact ⟨_, _, congrArg _ hr, hm, rfl, rfl, rfl⟩
    · intro st dt hfault
      rw [State.memberArrives_new hd hc hn hl hk, hfault]
      exact ⟨_, rfl, State.sendOutcome_leaves .., (State.sendOutcome_sent ..).shards_eq, by rw [(State.sendOutcome_sent ..).frame]⟩
    · obtain ⟨d, hex, hdd⟩ := State.memberArrives_noShard hd hc
      exact ⟨_, d, hex, (State.sendOutcome_sent ..).shards_eq, hdd, State.sendOutcome_leaves ..⟩
  · intro s k idx w d c hw hd hc
    refine ⟨fun hst hh hs => ⟨fun hhot => ?_, insertAssignment_assigns hw hd hc hst hh hs⟩, fun hst => ⟨?_, ?_⟩⟩
    · show execInsertAssignment k idx s = _
      unfold execInsertAssignment
      rw [hw]; dsimp only
      rw [if_neg (by rw [hst]; decide), if_pos (by rw [hhot]; simp)]
    · rintro ⟨i, hi, l, hl, hcl, hrw⟩
      show execInsertAssignment k idx s = _
      unfold execInsertAssignment
      rw [hw]; dsimp only
      rw [if_pos (by rw [hst]; decide), if_pos (List.any_eq_true.mpr ⟨i, hi, by rw [hl]; dsimp only; rw [hcl, hrw]; rfl⟩)]
    · intro hopen hf hk
      have hex : exec (.insertAssignment k idx) s = .next (s.askAssignment k idx) := by
        show execInsertAssignment k idx s = _
        unfold execInsertAssignment
        rw [hw]; dsimp only
        rw [if_pos (by rw [hst]; decide)]
        refine congrArg _ (if_neg fun h => ?_)
        obtain ⟨i, hi, hm⟩ := List.any_eq_true.mp h
        cases hl : s.list? i with
        | none => rw [hl] at hm; cases hm
        | some l =>
          rw [hl] at hm
          obtain ⟨hcl, hrw⟩ := Bool.and_eq_true_iff.mp hm
          exact hopen i hi l hl hcl (by simpa using hrw)
      obtain ⟨v, hv, -, hask, -⟩ := State.askAssignment_spec hw hd hc
      obtain ⟨hvs, hwaits⟩ := hask hk hf
      exact ⟨_, hex, by rw [hv, Option.map_some, hvs], hwaits⟩

end Sys2Proof.Machine

end

-- ==== Proofs: members before the ledger ====
section
/-! SUPPORT. A member is journaled, and its scan records go to the guestbooks of its lists (R33 steps 3 and 4, R156, R273 to R278,
R287, R306, R430). -/

namespace Sys2Proof.Machine

open Sys2Proof

/-! ### Guestbook entries (R273, R275) -/

theorem State.gbAppend_frame (s : State) (c : Coll) (j : Nat) (e : GbEntry) :
    s.gbAppend c j e = { s with fns := (s.gbAppend c j e).fns, lists := (s.gbAppend c j e).lists } := by
  unfold State.gbAppend
  split
  · rfl
  · dsimp only
    split <;> rfl

theorem State.gbAppend_list?_ne (s : State) (c : Coll) {i j : Nat} (e : GbEntry) (h : i ≠ j) : (s.gbAppend c j e).list? i = s.list? i := by
  unfold State.gbAppend
  split
  · rfl
  · dsimp only
    have hm : ∀ (z : State) (f : LList → LList), (∀ l, (f l).id = l.id) → (z.modList j f).list? i = z.list? i := fun z f hf =>
      find?_modWhere_ne _ _ _ _ (by intro l; simp; omega) (by intro l; simp [hf]; omega)
    rw [hm _ _ (by intro l; rfl)]
    split <;> rfl

theorem State.gbAppend_list? {s : State} {j : Nat} {l : LList} (c : Coll) (e : GbEntry) (h : s.list? j = some l) :
    ∃ y, (s.gbAppend c j e).list? j = some y ∧ y.gb = l.gb ++ [e] := by
  unfold State.gbAppend
  rw [h]
  dsimp only
  refine ⟨_, (State.modList_list (by intro l; rfl)).trans (congrArg _ (?_ : _ = some l)), rfl⟩
  split <;> exact h

/-- The entries are appended one after the other. -/
def State.gbAppends (s : State) (c : Coll) (items : List (Nat × GbEntry)) : State := items.foldl (fun s x => s.gbAppend c x.1 x.2) s

theorem State.gbAppends_frame (c : Coll) (items : List (Nat × GbEntry)) (s : State) :
    s.gbAppends c items = { s with fns := (s.gbAppends c items).fns, lists := (s.gbAppends c items).lists } :=
  foldl_head_keeps (R := fun s x : State => x = { s with fns := x.fns, lists := x.lists }) (fun s => rfl)
    (fun s x y h k => by rw [k, h]) (fun s x => State.gbAppend_frame s c x.1 x.2) items s

theorem State.gbAppends_list?_notMem (c : Coll) {i : Nat} (items : List (Nat × GbEntry)) (s : State) (h : i ∉ items.map (·.1)) :
    (s.gbAppends c items).list? i = s.list? i := by
  induction items generalizing s with
  | nil => rfl
  | cons x items ih =>
    obtain ⟨hx, hr⟩ := not_or.mp (fun hm => h (List.mem_cons.mpr hm))
    exact (ih _ hr).trans (State.gbAppend_list?_ne s c x.2 hx)

theorem State.gbAppends_list? (c : Coll) {i : Nat} {e : GbEntry} (items : List (Nat × GbEntry)) (s : State) {l : LList}
    (hn : (items.map (·.1)).Nodup) (hi : (i, e) ∈ items) (hl : s.list? i = some l) :
    ∃ y, (s.gbAppends c items).list? i = some y ∧ y.gb = l.gb ++ [e] := by
  induction items generalizing s with
  | nil => cases hi
  | cons x items ih =>
    obtain ⟨hx, hr⟩ := List.nodup_cons.mp hn
    rcases List.mem_cons.mp hi with rfl | hi
    · obtain ⟨y, hy, hg⟩ := State.gbAppend_list? c e hl
      exact ⟨y, (State.gbAppends_list?_notMem c items _ hx).trans hy, hg⟩
    · refine ih _ hr hi ((State.gbAppend_list?_ne s c x.2 ?_).trans hl)
      rintro rfl
      exact hx (List.mem_map.mpr ⟨_, hi, rfl⟩)

theorem MWork.entries_fst {w : MWork} {r : ScanRec} (now : Nat) (h : w.scan = some r) : (w.entries now).map (·.1) = w.lists := by
  unfold MWork.entries; rw [h]; simp [Function.comp_def]

theorem MWork.entries_fst_subset (w : MWork) (now : Nat) : (w.entries now).map (·.1) ⊆ w.lists := by
  cases h : w.scan with
  | none => unfold MWork.entries; rw [h]; simp
  | some r => rw [MWork.entries_fst now h]; exact fun _ h => h

theorem MWork.entries_mem {w : MWork} {r : ScanRec} {i j : Nat} (now : Nat) (h : w.scan = some r) (hj : w.lists[j]? = some i) :
    (i, ⟨{ r with secondCopy := j != 0 }, 0, now⟩) ∈ w.entries now := by
  unfold MWork.entries
  rw [h]
  exact List.mem_map.mpr ⟨(i, j), List.mk_mem_zipIdx_iff_getElem?.mpr hj, rfl⟩

/-- Lists become urgent, so that their compaction comes first (R277). -/
def State.urge (s : State) (ls : List Nat) : State := ls.foldl (fun s j => s.modList j fun l => { l with urgent := true }) s

theorem State.urge_eq (ls : List Nat) (s : State) :
    s.urge ls = { s with lists := modWhere s.lists (fun l => ls.contains l.id) fun l => { l with urgent := true } } := by
  induction ls generalizing s with
  | nil => simp [State.urge, modWhere]
  | cons j ls ih =>
    have h : s.urge (j :: ls) = (s.modList j fun l => { l with urgent := true }).urge ls := rfl
    rw [h, ih]
    congr 1
    simp only [State.modList, modWhere, List.map_map]
    congr 1
    funext l
    by_cases hj : l.id = j <;> by_cases hl : l.id ∈ ls <;> simp [hj, hl, Function.comp]

theorem State.urge_urgent (s : State) (ls : List Nat) : ∀ l ∈ (s.urge ls).lists, l.id ∈ ls → l.urgent = true := by
  rw [State.urge_eq]
  intro l hl hi
  obtain ⟨m, -, rfl⟩ := List.mem_map.mp hl
  split
  · rfl
  · rename_i h
    rw [if_neg h] at hi
    simp [hi] at h

/-- A member that goes to the ledger arbiter stands there last. -/
theorem queueMember_first {y x : State} {k : Key} {i j : Nat} {u v : MWork} {d : Shard} {now : Nat} (hfl : x = y.queueMember k i j)
    (hm : y.member? k i = some u) (hd : y.shard? j = some d) (hv : x.member? k i = some v) (hn : y.now = now) :
    v.stage = .atLedger ∧ (x.shard? j).map (·.waiting) = some (d.waiting ++ [(now, .member k i)]) := by
  subst hn
  rw [hfl] at hv ⊢
  have hqm : (y.queueMember k i j).member? k i = some { u with stage := .atLedger } :=
    State.modMember_member hm (f := fun w => { w with stage := .atLedger }) (by intro w; rfl)
  have hqs : (y.queueMember k i j).shard? j = some { d with waiting := d.waiting ++ [(y.now, .member k i)] } :=
    (State.modShard_shard (by intro d; rfl)).trans (congrArg _ hd)
  rw [hqm] at hv
  exact ⟨by rw [← Option.some.inj hv], by rw [hqs]; rfl⟩

/-! ### Step 4: the entries are appended, or the member waits or ends (R273, R277, R278) -/

section
variable {s : State} {k : Key} {i : Nat} {w : MWork} {d : Shard} {c : Coll}
variable (hw : s.member? k i = some w) (hd : s.shard? w.msg.shard = some d) (hc : s.coll? d.coll = some c)
include hw hd hc

theorem State.appendMember_none (hg : s.gbStopOf c w = .none) : s.appendMember k i =
    ((s.gbAppends c (w.entries s.now)).modMember k i fun w => { w with stage := .ready, since := s.now }).flushReady k w.msg.shard := by
  have hb : (s.shard? w.msg.shard).bind (fun d => s.coll? d.coll) = some c := by rw [hd]; exact hc
  have hnow : (s.gbAppends c (w.entries s.now)).now = s.now := by rw [State.gbAppends_frame]; rfl
  unfold State.appendMember
  rw [hw]; dsimp only
  rw [hb]; dsimp only
  rw [hg]; dsimp only
  have e : (w.entries s.now).foldl (fun s x => s.gbAppend c x.1 x.2) s = s.gbAppends c (w.entries s.now) := rfl
  rw [e, hnow]

/-- The entries are appended, and the member is ready. -/
theorem State.appendMember_goes (hg : s.gbStopOf c w = .none) : ∃ v, (s.appendMember k i).member? k i = some v ∧
    v = { w with stage := v.stage, since := s.now } ∧ (v.stage = .ready ∨ v.stage = .atLedger) ∧ (s.appendMember k i).tier = s.tier ∧
    (s.appendMember k i).out = s.out ∧
    (s.eng.members = [w] → v.stage = .atLedger ∧ ((s.appendMember k i).shard? w.msg.shard).map (·.waiting) =
      some (d.waiting ++ [(s.now, .member k i)])) ∧
    (w.lists.Nodup → ∀ a j r l, w.lists[j]? = some a → w.scan = some r → s.list? a = some l →
      ∃ y, (s.appendMember k i).list? a = some y ∧ y.gb = l.gb ++ [⟨{ r with secondCopy := j != 0 }, 0, s.now⟩]) ∧
    ∀ a, a ∉ w.lists → (s.appendMember k i).list? a = s.list? a := by
  rw [State.appendMember_none hw hd hc hg]
  have hf := State.gbAppends_frame c (w.entries s.now) s
  have hin := fun (hn : w.lists.Nodup) a j r l (hj : w.lists[j]? = some a) (hr : w.scan = some r) (hl : s.list? a = some l) =>
    State.gbAppends_list? c (w.entries s.now) s (by rw [MWork.entries_fst _ hr]; exact hn) (MWork.entries_mem s.now hr hj) hl
  have hout := fun a (ha : a ∉ w.lists) =>
    State.gbAppends_list?_notMem c (w.entries s.now) s fun hm => ha (w.entries_fst_subset s.now hm)
  generalize s.gbAppends c (w.entries s.now) = z at hf hin hout
  have hz : z.member? k i = some w := by rw [hf]; exact hw
  have hm := State.modMember_member hz (f := fun w => { w with stage := .ready, since := s.now }) (by intro w; rfl)
  generalize hy : (z.modMember k i fun w => { w with stage := .ready, since := s.now }) = y at hm
  have hq := State.flushReady_queuesUp y k w.msg.shard
  obtain ⟨v, hv, hvw, hvs⟩ := hq.stays k i _ hm
  have hl : ∀ a, (y.flushReady k w.msg.shard).list? a = z.list? a := by
    intro a; rw [hq.frame, ← hy]; rfl
  refine ⟨v, hv, hvw, hvs, ?_, ?_, fun hone => ?_, fun hn a j r l hj hr h => ?_, fun a ha => ?_⟩
  · rw [hq.frame, ← hy, hf]; rfl
  · rw [hq.frame, ← hy, hf]; rfl
  · obtain ⟨hk, hi⟩ := State.member?_is hw
    have hy1 : y.eng.members = [{ w with stage := .ready, since := s.now }] := by
      rw [← hy, hf]
      simp [State.modMember, hone, modWhere, hk, hi]
    have hnow : y.now = s.now := by rw [← hy, hf]; rfl
    have hyd : y.shard? w.msg.shard = some d := by rw [← hy, hf]; exact hd
    have hfl : y.flushReady k w.msg.shard = y.queueMember k i w.msg.shard := by
      have := State.flushReady_only hy1 rfl
      dsimp only at this
      rwa [hk, hi] at this
    exact queueMember_first hfl hm hyd hv hnow
  · rw [hl]; exact hin hn a j r l hj hr h
  · rw [hl]; exact hout a ha

theorem State.appendMember_quota (hg : s.gbStopOf c w = .quota) : MemberEnds s.nodeId (s.appendMember k i) k i w stQuota 4 := by
  have hb : (s.shard? w.msg.shard).bind (fun d => s.coll? d.coll) = some c := by rw [hd]; exact hc
  unfold State.appendMember
  rw [hw]; dsimp only
  rw [hb]; dsimp only
  rw [hg]; dsimp only
  exact (State.endMember_spec (s := s.quotaRefuse (s.chargedFn c) 4) hw stQuota 4).1

/-- Full guestbooks make their lists urgent, and end the member or make it wait (R277). -/
theorem State.appendMember_full {ls : List Nat} (hg : s.gbStopOf c w = .full ls) : s.appendMember k i =
    if c.spec.guestbookFull = 1 then (s.urge ls).endMember k i stRetry 2
    else (s.urge ls).modMember k i fun w => { w with stage := .waitGuestbook, since := if w.stage == .waitGuestbook then w.since else s.now } := by
  have hb : (s.shard? w.msg.shard).bind (fun d => s.coll? d.coll) = some c := by rw [hd]; exact hc
  have hnow : (s.urge ls).now = s.now := by rw [State.urge_eq]; rfl
  unfold State.appendMember
  rw [hw]; dsimp only
  rw [hb]; dsimp only
  rw [hg]; dsimp only
  change (if c.spec.guestbookFull = 1 then (s.urge ls).endMember k i stRetry 2 else (s.urge ls).modMember k i fun w =>
    { w with stage := .waitGuestbook, since := if w.stage == .waitGuestbook then w.since else (s.urge ls).now }) = _
  rw [hnow]

theorem State.appendMember_full_spec {ls : List Nat} (hg : s.gbStopOf c w = .full ls) :
    (∀ l ∈ (s.appendMember k i).lists, l.id ∈ ls → l.urgent = true) ∧
      if c.spec.guestbookFull = 1 then MemberEnds s.nodeId (s.appendMember k i) k i w stRetry 2
      else (s.appendMember k i).member? k i =
        some { w with stage := .waitGuestbook, since := if w.stage == .waitGuestbook then w.since else s.now } := by
  rw [State.appendMember_full hw hd hc hg]
  have hu := State.urge_urgent s ls
  have hm : (s.urge ls).member? k i = some w := by rw [State.urge_eq]; exact hw
  have hn : (s.urge ls).nodeId = s.nodeId := by rw [State.urge_eq]; rfl
  split
  · obtain ⟨he, -, -, -, hl⟩ := State.endMember_spec hm stRetry 2
    refine ⟨fun l hml hi => ?_, hn ▸ he⟩
    obtain ⟨m, hmm, hlm⟩ := hl l hml
    rw [hlm] at hi ⊢
    exact hu m hmm hi
  · exact ⟨hu, State.modMember_member hm (f := fun w => { w with stage := .waitGuestbook, since := if w.stage == .waitGuestbook then w.since else s.now })
      (by intro w; rfl)⟩

end

/-! ### Step 3: space is reserved and the journal entry taken (R156, R287, R412, R429, R430) -/

/-- Bytes of the row that a member puts into the write buffer. -/
def memberBytes (w : MWork) (d : Shard) (c : Coll) : Nat :=
  match w.row, (w.slot.bind d.slot?).map (·.row) with
  | some r, _ => rowBytes c.spec r
  | none, some r => if w.msg.kind == .accumulate then rowBytes c.spec r else 0
  | none, none => 0

/-- The member's slot has no current incarnation yet. -/
def memberFresh (w : MWork) (d : Shard) : Bool := match w.slot.bind d.slot? with | some x => !x.born | none => false

/-- A member is charged bytes of T1 and of T2, or refused. -/
def State.chargeTiers (s : State) (f : Nat) (k : Key) (i t1 t2 : Nat) : Nat ⊕ State :=
  if 0 < t1 && !((s.fn f).admits .t1 t1 && s.t1Room t1) then .inl 1
  else if 0 < t2 && !s.fits f .t2 t2 then .inl 2
  else
    let s := if t1 = 0 then s else s.modFn f (·.charge .t1 t1)
    let s := if t2 = 0 then s else s.modFn f (·.charge .t2 t2)
    .inr (s.modMember k i fun w => { w with t1 := w.t1 + t1, t2 := w.t2 + t2 })

theorem State.chargeRow_eq (s : State) (c : Coll) (d : Shard) (k : Key) (i n : Nat) (b : Bool) :
    ∃ t1 t2, s.chargeRow c d k i n b = s.chargeTiers (s.chargedFn c) k i t1 t2 := ⟨_, _, rfl⟩

/-- The row and the map entry are charged, if there is a row. -/
def State.chargeMember (s : State) (k : Key) (i : Nat) (w : MWork) (d : Shard) (c : Coll) : Nat ⊕ State :=
  if memberBytes w d c = 0 then .inr s else s.chargeRow c d k i (memberBytes w d c) (memberFresh w d)

/-- Bytes of a member's journal entry. -/
def journalBytes (w : MWork) (d : Shard) (c : Coll) : Nat := 64 + memberBytes w d c + w.lists.length * scanBytes c.spec.projection

/-- The record of a member in its journal entry (R287). -/
def memberRecord (w : MWork) (d : Shard) : JRecord :=
  ⟨w.msg.kind, d.idOf w.msg.byRef w.msg.name, w.slot, w.lists, w.lists.filterMap fun _ => w.scan, w.row, w.delta⟩

/-- The member is in the journal. -/
def State.journalMember (s : State) (k : Key) (i : Nat) (w : MWork) (d : Shard) (c : Coll) : State :=
  let s := s.addJournal (.member k i) d.id 0 (journalBytes w d c)
  let s := s.modTier fun e =>
    { e with journal := modWhere e.journal (fun j => j.ofMember k i && !j.void) fun j => { j with record := some (memberRecord w d) } }
  s.modMember k i fun w => { w with journaled := true }

/-- The formation buffer has no room for the member (R156). -/
def State.noRoom (s : State) (w : MWork) (d : Shard) (c : Coll) : Bool :=
  (d.stage == .forming && (w.row.isSome || w.msg.kind == .accumulate)) && decide (2 * formationSize c d ≤ s.bufferCount d)

/-- What WRITE_BUFFER_ACCEPT does with a member that is not in the journal yet. -/
def State.acceptMember (s : State) (k : Key) (i : Nat) (w : MWork) (d : Shard) (c : Coll) : Result :=
  if w.slot.isNone && (w.msg.kind == .insert || w.msg.kind == .upsert) then
    .next ((s.quotaRefuse (s.chargedFn c) 1).endMember k i stQuota 1)
  else if s.noRoom w d c then
    if c.spec.guestbookFull = 1 then .next (s.endMember k i stRetry 2)
    else .next (s.modMember k i fun w => { w with stage := .waitFormation, since := if w.stage == .waitFormation then w.since else s.now })
  else if s.journalLimit (journalBytes w d c) then
    if s.pwr.doldrums then .next (s.endMember k i stRetry 4) else .next (s.modMember k i fun w => { w with stage := .waitJournal })
  else
    match s.chargeMember k i w d c with
    | .inl x => .next ((s.quotaRefuse (s.chargedFn c) x).endMember k i stQuota x)
    | .inr s => .next ((s.journalMember k i w d c).appendMember k i)

section
variable {s : State} {k : Key} {i : Nat} {w : MWork} {d : Shard} {c : Coll}
variable (hw : s.member? k i = some w) (hd : s.shard? w.msg.shard = some d) (hc : s.coll? d.coll = some c)

section
include hw hd hc

theorem execWriteBufferAccept_eq (t : Nat) (hs : w.stage ∈ [MStage.assigned, .waitFormation, .waitJournal]) (hj : w.journaled = false) :
    exec (.writeBufferAccept k i t) s = (s.at t).acceptMember k i w d c := by
  have hw' : (s.at t).member? k i = some w := hw
  have hd' : (s.at t).shard? w.msg.shard = some d := hd
  have hb : ((s.at t).shard? w.msg.shard).bind (fun d => (s.at t).coll? d.coll) = some c := by rw [hd']; exact hc
  have hst : (w.stage == .assigned || w.stage == .waitFormation || w.stage == .waitJournal) = true := by
    simp only [List.mem_cons, List.not_mem_nil, or_false] at hs
    rcases hs with h | h | h <;> rw [h] <;> rfl
  show execWriteBufferAccept k i t s = _
  unfold execWriteBufferAccept
  dsimp only
  rw [hw']; dsimp only
  rw [hb, hd']; dsimp only
  rw [hst, hj, if_neg (by decide), if_neg (by decide)]
  rfl

omit hd hc in
theorem State.chargeMember_frame {x : State} (h : s.chargeMember k i w d c = .inr x) :
    x = { s with fns := x.fns, eng := { s.eng with members := x.eng.members } } ∧
      ∃ v, x.member? k i = some v ∧ v = { w with t1 := v.t1, t2 := v.t2 } ∧ (s.eng.members = [w] → x.eng.members = [v]) := by
  unfold State.chargeMember at h
  split at h
  · obtain rfl := Sum.inr.inj h
    exact ⟨rfl, w, hw, rfl, fun h => h⟩
  · obtain ⟨t1, t2, he⟩ := s.chargeRow_eq c d k i (memberBytes w d c) (memberFresh w d)
    rw [he] at h
    unfold State.chargeTiers at h
    dsimp only at h
    split at h
    · cases h
    split at h
    · cases h
    obtain rfl := Sum.inr.inj h
    generalize hy : (if t1 = 0 then s else s.modFn (s.chargedFn c) (·.charge .t1 t1)) = y
    have hyf : y = { s with fns := y.fns } := by rw [← hy]; split <;> rfl
    generalize hz : (if t2 = 0 then y else y.modFn (s.chargedFn c) (·.charge .t2 t2)) = z
    have hzf : z = { s with fns := z.fns } := by rw [← hz, hyf]; split <;> rfl
    have hzm : z.member? k i = some w := by rw [hzf]; exact hw
    obtain ⟨hk, hi⟩ := State.member?_is hw
    refine ⟨?_, _, State.modMember_member hzm (f := fun w => { w with t1 := w.t1 + t1, t2 := w.t2 + t2 }) (by intro w; rfl), rfl, fun h => ?_⟩
    · rw [hzf]; rfl
    · rw [hzf]; simp [State.modMember, modWhere, h, hk, hi]

end

/-- A member whose entry is taken has one entry more in the journal, with no stamp yet. -/
theorem State.journalMember_spec {s : State} {k : Key} {i : Nat} {v : MWork} (w : MWork) (d : Shard) (c : Coll) (hv : s.member? k i = some v)
    (hvoid : ∀ e ∈ s.tier.journal, e.kind = .member k i → e.void = true) :
    s.journalMember k i w d c = { s with tier := (s.journalMember k i w d c).tier, eng := { s.eng with members := (s.journalMember k i w d c).eng.members } } ∧
      (s.journalMember k i w d c).member? k i = some { v with journaled := true } ∧
      (s.eng.members = [v] → (s.journalMember k i w d c).eng.members = [{ v with journaled := true }]) ∧
      ∃ e, (s.journalMember k i w d c).tier.journal = s.tier.journal ++ [e] ∧ e.kind = .member k i ∧ e.shard = d.id ∧ e.stamp = 0 ∧ e.void = false := by
  obtain ⟨hk, hi⟩ := State.member?_is hv
  refine ⟨rfl, State.modMember_member (s := _) hv (by intro w; rfl), fun h => ?_, ?_⟩
  · simp [State.journalMember, State.addJournal, State.modMember, modWhere, h, hk, hi]
  · have hold : s.tier.journal.map (fun j => if (j.ofMember k i && !j.void) = true then { j with record := some (memberRecord w d) } else j) =
        s.tier.journal := by
      refine (List.map_congr_left fun j hj => if_neg fun h => ?_).trans (List.map_id _)
      obtain ⟨hk, hnv⟩ := Bool.and_eq_true_iff.mp h
      rw [hvoid j hj (by simpa [JEntry.ofMember] using hk)] at hnv
      cases hnv
    refine ⟨⟨s.tier.nextSeq, .member k i, d.id, 0, false, journalBytes w d c, s.journalChannel, .waiting, true, s.now, false,
      some (memberRecord w d), false⟩, ?_, rfl, rfl, rfl, rfl⟩
    change modWhere (s.tier.journal ++ _) _ _ = _
    unfold modWhere
    rw [List.map_append, hold]
    simp [JEntry.ofMember]

end

/-! ### The outcomes of WRITE_BUFFER_ACCEPT -/

section
variable {s : State} {k : Key} {i : Nat} {w : MWork} {d : Shard} {c : Coll}
variable (hw : s.member? k i = some w) (hd : s.shard? w.msg.shard = some d) (hc : s.coll? d.coll = some c)
variable (hslot : w.slot ≠ none ∨ w.msg.kind ≠ .insert ∧ w.msg.kind ≠ .upsert)

theorem State.acceptMember_noSlot (hw : s.member? k i = some w) (h : w.slot = none ∧ (w.msg.kind = .insert ∨ w.msg.kind = .upsert)) :
    ∃ x, s.acceptMember k i w d c = .next x ∧ MemberEnds s.nodeId x k i w stQuota 1 := by
  refine ⟨_, if_pos ?_, (State.endMember_spec (s := s.quotaRefuse (s.chargedFn c) 1) hw stQuota 1).1⟩
  obtain ⟨hs, hk⟩ := h
  rcases hk with hk | hk <;> simp [hs, hk]

include hslot

theorem hasSlot : (w.slot.isNone && (w.msg.kind == .insert || w.msg.kind == .upsert)) = false := by
  rcases hslot with h | ⟨h, h'⟩
  · obtain ⟨n, hn⟩ := Option.ne_none_iff_exists'.mp h
    simp [hn]
  · simp [h, h']

include hw

theorem State.acceptMember_noRoom (hr : s.noRoom w d c = true) : ∃ x, s.acceptMember k i w d c = .next x ∧
    if c.spec.guestbookFull = 1 then MemberEnds s.nodeId x k i w stRetry 2
    else (x.member? k i).map (·.stage) = some .waitFormation ∧ x = { s with eng := x.eng } := by
  unfold State.acceptMember
  rw [hasSlot hslot, if_neg Bool.false_ne_true, if_pos hr]
  split
  · exact ⟨_, rfl, (State.endMember_spec hw stRetry 2).1⟩
  · have hm := State.modMember_member hw
      (f := fun w => { w with stage := .waitFormation, since := if w.stage == .waitFormation then w.since else s.now }) (by intro w; rfl)
    exact ⟨_, rfl, by rw [hm]; rfl, rfl⟩

theorem State.acceptMember_limit (hr : s.noRoom w d c = false) (hl : s.journalLimit (journalBytes w d c) = true) :
    ∃ x, s.acceptMember k i w d c = .next x ∧
      if s.pwr.doldrums then MemberEnds s.nodeId x k i w stRetry 4
      else (x.member? k i).map (·.stage) = some .waitJournal ∧ x = { s with eng := x.eng } := by
  unfold State.acceptMember
  rw [hasSlot hslot, if_neg Bool.false_ne_true, hr, if_neg Bool.false_ne_true, if_pos hl]
  split
  · exact ⟨_, rfl, (State.endMember_spec hw stRetry 4).1⟩
  · have hm := State.modMember_member hw (f := fun w => { w with stage := .waitJournal }) (by intro w; rfl)
    exact ⟨_, rfl, by rw [hm]; rfl, rfl⟩

theorem State.acceptMember_refused {q : Nat} (hr : s.noRoom w d c = false) (hl : s.journalLimit (journalBytes w d c) = false)
    (hq : s.chargeMember k i w d c = .inl q) : ∃ x, s.acceptMember k i w d c = .next x ∧ MemberEnds s.nodeId x k i w stQuota q := by
  unfold State.acceptMember
  rw [hasSlot hslot, if_neg Bool.false_ne_true, hr, if_neg Bool.false_ne_true, hl, if_neg Bool.false_ne_true, hq]
  exact ⟨_, rfl, (State.endMember_spec (s := s.quotaRefuse (s.chargedFn c) q) hw stQuota q).1⟩

include hd hc

/-- A member whose charges fit is journaled, and its entries are appended where they can. -/
theorem State.acceptMember_taken {z : State} (hr : s.noRoom w d c = false) (hl : s.journalLimit (journalBytes w d c) = false)
    (hq : s.chargeMember k i w d c = .inr z) :
    (z.gbStopOf c w = .none → (∀ e ∈ s.tier.journal, e.kind = .member k i → e.void = true) →
      ∃ x v e, s.acceptMember k i w d c = .next x ∧ x.member? k i = some v ∧ v.journaled = true ∧
        (v.stage = .ready ∨ v.stage = .atLedger) ∧
        x.tier.journal = s.tier.journal ++ [e] ∧ e.kind = .member k i ∧ e.shard = w.msg.shard ∧ e.stamp = 0 ∧ e.void = false ∧
        (s.eng.members = [w] → v.stage = .atLedger ∧ (x.shard? w.msg.shard).map (·.waiting) =
          some (d.waiting ++ [(s.now, .member k i)])) ∧
        (w.lists.Nodup → ∀ a j r l, w.lists[j]? = some a → w.scan = some r → s.list? a = some l →
          ∃ y, x.list? a = some y ∧ y.gb = l.gb ++ [⟨{ r with secondCopy := j != 0 }, 0, s.now⟩]) ∧
        (∀ a, a ∉ w.lists → x.list? a = s.list? a) ∧ x.out = s.out) ∧
    (z.gbStopOf c w = .quota → ∃ x, s.acceptMember k i w d c = .next x ∧ MemberEnds s.nodeId x k i w stQuota 4) ∧
    ∀ ls, z.gbStopOf c w = .full ls →
      ∃ x, s.acceptMember k i w d c = .next x ∧ (∀ l ∈ x.lists, l.id ∈ ls → l.urgent = true) ∧
        if c.spec.guestbookFull = 1 then MemberEnds s.nodeId x k i w stRetry 2
        else ∃ v, x.member? k i = some v ∧ v.stage = .waitGuestbook ∧ v.journaled = true := by
  have hex : s.acceptMember k i w d c = .next ((z.journalMember k i w d c).appendMember k i) := by
    unfold State.acceptMember
    rw [hasSlot hslot, if_neg Bool.false_ne_true, hr, if_neg Bool.false_ne_true, hl, if_neg Bool.false_ne_true, hq]
  rw [hex]
  obtain ⟨hzf, v, hv, hvw, hone⟩ := State.chargeMember_frame hw hq
  have hspec := State.journalMember_spec w d c hv
  have hjf : z.journalMember k i w d c = { z with
      tier := (z.journalMember k i w d c).tier, eng := { z.eng with members := (z.journalMember k i w d c).eng.members } } := rfl
  have hym : (z.journalMember k i w d c).member? k i = some { v with journaled := true } :=
    State.modMember_member (s := _) hv (by intro w; rfl)
  generalize z.journalMember k i w d c = y at hspec hjf hym
  have hyd : y.shard? w.msg.shard = some d := by rw [hjf, hzf]; exact hd
  have hyc : y.coll? d.coll = some c := by rw [hjf, hzf]; exact hc
  have hyn : y.nodeId = s.nodeId := by rw [hjf, hzf]; rfl
  have hynow : y.now = s.now := by rw [hjf, hzf]; rfl
  have hyl : y.list? = s.list? := by rw [hjf, hzf]; rfl
  have hyo : y.out = s.out := by rw [hjf, hzf]
  have hzj : z.tier.journal = s.tier.journal := by rw [hzf]
  have hg : y.gbStopOf c { v with journaled := true } = z.gbStopOf c w := by rw [hjf, hvw]; rfl
  have hmsg : v.msg = w.msg := by rw [hvw]
  have hyd' : y.shard? ({ v with journaled := true } : MWork).msg.shard = some d := by
    change y.shard? v.msg.shard = some d
    rw [hmsg]; exact hyd
  have hends : ∀ {x : State} {st dt : Nat}, MemberEnds y.nodeId x k i { v with journaled := true } st dt → MemberEnds s.nodeId x k i w st dt := by
    intro x st dt h
    rw [hyn] at h
    unfold MemberEnds at h ⊢
    rwa [← hmsg]
  refine ⟨fun hn hvoid => ?_, fun hn => ?_, fun ls hn => ?_⟩
  · obtain ⟨-, -, hone', e, hje, hek, hes, hest, hev⟩ := hspec (by rw [hzj]; exact hvoid)
    obtain ⟨u, hu, huv, hus, htier, hout, hfirst, hin, hnot⟩ := State.appendMember_goes hym hyd' hyc (hg.trans hn)
    rw [hynow] at hfirst hin
    simp only [hyl] at hin hnot
    dsimp only at hfirst hin hnot
    rw [show v.msg.shard = w.msg.shard by rw [hmsg]] at hfirst
    rw [show v.lists = w.lists by rw [hvw]] at hin hnot
    rw [show v.scan = w.scan by rw [hvw]] at hin
    exact ⟨_, u, e, rfl, hu, by rw [huv], hus, by rw [htier, hje, hzj], hek, by rw [hes, State.shard?_id hd], hest, hev,
      fun h => hfirst (hone' (hone h)), hin, hnot, hout.trans hyo⟩
  · exact ⟨_, rfl, hends (State.appendMember_quota hym hyd' hyc (hg.trans hn))⟩
  · obtain ⟨hu, hend⟩ := State.appendMember_full_spec hym hyd' hyc (hg.trans hn)
    refine ⟨_, rfl, hu, ?_⟩
    split
    · rename_i h
      rw [if_pos h] at hend
      exact hends hend
    · rename_i h
      rw [if_neg h] at hend
      exact ⟨_, hend, rfl, rfl⟩

end

/-- Settles O36, by the outcomes of WRITE_BUFFER_ACCEPT and those of the waits' ends. -/
theorem membersBeforeTheLedger : Obligations.MembersBeforeTheLedger := by
  unfold Obligations.MembersBeforeTheLedger
  refine ⟨?_, ?_, ?_, ?_⟩
  · intro s k idx t n w d c room charged hw hst hj hd hc hroom hn hcharged
    rw [execWriteBufferAccept_eq hw hd hc t hst hj]
    have hn' : n = memberBytes w d c := hn
    have hq : charged = (s.at t).chargeMember k idx w d c := by rw [hcharged, hn']; rfl
    have hlim : ∀ b, s.journalLimit (64 + n + w.lists.length * scanBytes c.spec.projection) = b →
        (s.at t).journalLimit (journalBytes w d c) = b := by intro b h; rw [hn'] at h; exact h
    have hr : (s.at t).noRoom w d c = !room := by
      have h : (s.at t).noRoom w d c = true ↔ (d.stage = .forming ∧ (w.row ≠ none ∨ w.msg.kind = .accumulate) ∧
          2 * formationSize c d ≤ s.bufferCount d) := by
        unfold State.noRoom
        simp only [Bool.and_eq_true, Bool.or_eq_true, beq_iff_eq, decide_eq_true_eq, Option.isSome_iff_ne_none, and_assoc]
        rfl
      rw [Bool.eq_iff_iff, h]
      cases room <;> simp_all
    have hw' : (s.at t).member? k idx = some w := hw
    refine ⟨fun h => State.acceptMember_noSlot hw' h, fun hslot => ⟨fun h => ?_, fun h hl => ?_, fun h hl => ⟨fun q hcq => ?_, fun z hcz => ?_⟩⟩⟩
    · exact State.acceptMember_noRoom hw' hslot (by rw [hr, h]; rfl)
    · exact State.acceptMember_limit hw' hslot (by rw [hr, h]; rfl) (hlim _ hl)
    · exact State.acceptMember_refused hw' hslot (by rw [hr, h]; rfl) (hlim _ hl) (hq ▸ hcq)
    · exact State.acceptMember_taken hw' hd hc hslot (by rw [hr, h]; rfl) (hlim _ hl) (hq ▸ hcz)
  · intro s k idx t w d c hw hst hd hc
    have hw' : (s.at t).member? k idx = some w := hw
    have hex : exec (.guestbookWaitEnd k idx t) s = .next ((s.at t).appendMember k idx) := by
      show execGuestbookWaitEnd k idx t s = _
      unfold execGuestbookWaitEnd
      dsimp only
      rw [hw']; dsimp only
      rw [if_pos (by rw [hst]; rfl)]
    rw [hex]
    refine ⟨fun hg => ?_, fun ls hg hfull => ?_, fun hg => ?_⟩
    · obtain ⟨v, hv, -, hvs, -, hout, -, hin, -⟩ := State.appendMember_goes hw' hd hc hg
      exact ⟨_, v, rfl, hv, hvs, hin, hout⟩
    · obtain ⟨-, hend⟩ := State.appendMember_full_spec hw' hd hc hg
      rw [if_neg hfull] at hend
      refine ⟨_, rfl, hend.trans ?_⟩
      rw [hst]
      cases w
      dsimp only at hst
      rw [hst]
      rfl
    · exact ⟨_, rfl, State.appendMember_quota hw' hd hc hg⟩
  · intro s k idx t w d c hw hst hd hc
    have hw' : (s.at t).member? k idx = some w := hw
    have hd' : (s.at t).shard? w.msg.shard = some d := hd
    have hb : ((s.at t).shard? w.msg.shard).bind (fun d => (s.at t).coll? d.coll) = some c := by rw [hd']; exact hc
    have hex : exec (.guestbookWaitEnd k idx t) s = if (s.at t).verdict c d w == .wait then .next (s.at t)
        else .next (((s.at t).modMember k idx fun w => { w with stage := .ready }).flushReady k w.msg.shard) := by
      show execGuestbookWaitEnd k idx t s = _
      unfold execGuestbookWaitEnd
      dsimp only
      rw [hw']; dsimp only
      rw [hst, if_neg (by decide), if_pos (by decide), hb, hd']
    rw [hex]
    refine ⟨fun hv => ?_, fun hv => if_pos (by rw [show (s.at t).verdict c d w = .wait from hv]; rfl)⟩
    have hgo : ¬ ((s.at t).verdict c d w == .wait) = true := fun h => hv (eq_of_beq h)
    rw [if_neg hgo]
    have hm := State.modMember_member hw' (f := fun w => { w with stage := .ready }) (by intro w; rfl)
    have hone : s.eng.members = [w] → ((s.at t).modMember k idx fun w => { w with stage := .ready }).eng.members = [{ w with stage := .ready }] := by
      intro h
      obtain ⟨hk, hi⟩ := State.member?_is hw
      simp [State.modMember, modWhere, h, hk, hi]
    have hyf : ∀ f, (s.at t).modMember k idx f = { s.at t with eng := ((s.at t).modMember k idx f).eng } := fun f => rfl
    have hyf := hyf fun w => { w with stage := .ready }
    generalize ((s.at t).modMember k idx fun w => { w with stage := .ready }) = y at hm hone hyf
    have hq := State.flushReady_queuesUp y k w.msg.shard
    obtain ⟨v, hv, hvw, hvs⟩ := hq.stays k idx _ hm
    refine ⟨_, v, rfl, hv, hvw, hvs, ?_, ?_, fun h => ?_⟩
    · rw [hq.frame, hyf]; rfl
    · have := ShardsButWaiting.of_noWait hq.noWait
      rw [hyf] at this
      rw [hyf]
      exact this
    · have hfl := State.flushReady_only (hone h) rfl
      obtain ⟨hk, hi⟩ := State.member?_is hw
      dsimp only at hfl
      rw [hk, hi] at hfl
      exact queueMember_first hfl hm (by rw [hyf]; exact hd) hv (by rw [hyf]; rfl)
  · intro s k idx t w i hw hi
    have hw' : (s.at t).member? k idx = some w := hw
    have hex : ∃ l, w.stage ∈ l ∧ exec i s = .next ((s.at t).waitOver k idx l) := by
      simp only [List.mem_cons, Prod.mk.injEq, List.not_mem_nil, or_false] at hi
      rcases hi with ⟨rfl, hst⟩ | ⟨rfl, hst⟩ | ⟨rfl, hst⟩
      · exact ⟨[.waitGuestbook, .waitTable], by rw [hst]; simp, rfl⟩
      · exact ⟨[.waitGuestbook, .waitTable], by rw [hst]; simp, rfl⟩
      · exact ⟨[.waitFormation], by rw [hst]; simp, rfl⟩
    obtain ⟨l, hl, hex⟩ := hex
    rw [hex]
    unfold State.waitOver
    rw [hw']; dsimp only
    rw [show l.contains w.stage = true by simpa using hl, Bool.true_and]
    refine ⟨fun h => ?_, fun h => ?_⟩
    · rw [if_pos (by simpa using h)]
      obtain ⟨he, hout, hsh, hno, -⟩ := State.endMember_spec hw' stRetry 2
      refine ⟨_, rfl, he, ?_, hout⟩
      cases hd : s.shard? w.msg.shard with
      | none => rw [hno _ hd]
      | some d =>
        obtain ⟨e, hxe, hed⟩ := hsh w.msg.shard d hd
        rw [hxe, Option.map_some, hed]
        rfl
    · rw [if_neg (by simpa using h)]

end Sys2Proof.Machine

end

-- ==== Proofs: a journal program under the brake profile ====
section
/-! SUPPORT. Under the brake profile at most 16 channels program, so a channel whose arbiter is free may still wait (R519). -/

namespace Sys2Proof.Machine

open Sys2Proof

/-- A journal entry of a switch, on a channel in a phase. -/
def switchEntry (seq channel : Nat) (phase : JPhase) : JEntry := ⟨seq, .switch 0, 0, 1, false, 65536, channel, phase, true, 0, false, none, false⟩

/-- The node under the brake profile: channels 1 to 16 program, and 64 KiB wait for channel 0. -/
def brakedNode : State := { State.reset with
  pwr := { State.reset.pwr with brake := true },
  tier := { State.reset.tier with
    journal := switchEntry 0 0 .waiting :: (List.range 16).map fun i => switchEntry (i + 1) (i + 1) .programming } }

/-- The journal as WRITE_BUFFER_PROGRAM leaves it. -/
def journalAfter (r : Result) : List JEntry := match r with | .next x => x.tier.journal | _ => []

theorem brakedNode_turn : GrantTurn (brakedNode.at 0) 0 false [0] (.program 0) := by
  intro a ha
  obtain rfl := List.mem_singleton.mp ha
  exact .inr ⟨by decide +kernel, ⟨0, 0, false, false, .program 0⟩, by decide +kernel, rfl⟩

/-- The waiting entry stays where it is, for 16 other channels program. -/
theorem brakedNode_stays : journalAfter (execWriteBufferProgram 0 0 brakedNode) = brakedNode.tier.journal := by decide +kernel

/-- Refutes O53: under the brake profile with 16 other channels programming, the channel's arbiter gives the program its turn and the
waiting entries are not programmed all the same (R519). -/
theorem not_cachesAndFlash : ¬ Obligations.CachesAndFlash := by
  unfold Obligations.CachesAndFlash
  rintro ⟨-, -, hProgram, -⟩
  obtain ⟨x, hx, -, hgo⟩ := hProgram brakedNode 0 0 65536 (by decide +kernel) (by decide +kernel) (by decide +kernel) (by decide +kernel)
    (by decide +kernel) (.inl (Nat.le_refl _))
  obtain ⟨-, hj, -⟩ := hgo brakedNode_turn
  have hmem := hj (switchEntry 0 0 .waiting) List.mem_cons_self (by decide +kernel)
  have hstay : x.tier.journal = brakedNode.tier.journal := by
    have he : execWriteBufferProgram 0 0 brakedNode = .next x := hx
    rw [← brakedNode_stays, he]
    rfl
  rw [hstay] at hmem
  revert hmem
  decide +kernel

end Sys2Proof.Machine

end

-- ==== Proofs: a node merge with no rows and an older read ====
section
/-! SUPPORT. A merge that needs no row requests no channel, so an older read that was held until its row was applied is not requested
by it (R304, R307). -/

namespace Sys2Proof.Machine

open Sys2Proof

/-- A query for one candidate, re-ranked to a depth of one. -/
def rerankParams : SearchParams where
  k := 1
  probes := 1
  l1Probes := 1
  rerankDepth := 1
  dwellLimit := 10
  timeoutMs := 1000
  readStamps := false
  lexical := false
  noExpand := false
  retryAllowed := false
  filterKind := 0
  ranges := []
  query := []
  terms := []

/-- A part of a query on shard 0 that has finished with nothing, at read stamp 5. -/
def finishedPart : SShard where
  shard := 0
  stamp := 5
  forming := false
  stage := .done
  since := 0
  l1 := []
  probe := []
  skipped := 0
  flash := []
  cached := []
  seat := 0
  lists := []
  flashLeft := []
  nearLeft := []
  nearOffers := []
  covered := []
  degraded := false
  short := false

/-- The share of query `num` of the node, all its sources finished. -/
def finishedShare (num : Nat) : Share where
  msg := ⟨⟨15, num⟩, 0, 0, 0, 1, [0], rerankParams⟩
  arrivedAt := 0
  shards := [finishedPart]
  t0 := 0
  t1 := 0
  t3 := 0
  pool := none
  rerunDone := false
  merged := none
  dups := 0
  missing := 0
  rows := []
  overBuf := []
  threshold := none
  final := false
  cuts := []
  failure := none
  lostRows := false

/-- The node: query 0 is to merge, and a row read of query 4 stands at the same tile, its row in T2 applied by now and its channel
not requested yet. -/
def mergingNode : State := { State.reset with
  colls := [packingColl],
  shards := [{ packingShard with hist := [] }],
  eng := { State.reset.eng with shares := [finishedShare 0, finishedShare 4], porter := [(0, ⟨15, 4⟩, 0, 2)] } }

/-- The node after the merge of query 0. -/
def mergedNode : State := match execNodeMerge ⟨15, 0⟩ mergingNode with | .next x => x | _ => mergingNode

theorem mergedNode_eq : exec (.nodeMerge ⟨15, 0⟩) mergingNode = .next mergedNode := by rfl

/-- No arbiter holds a grant where there is none. -/
theorem arbHolds_noArbs {s : State} (h : s.arbs = []) (a : Nat) (w : Work) : s.arbHolds a w = false := by
  simp [State.arbHolds, State.arb, h]

/-- A work that waits at an arbiter stands in one of the state's arbiters. -/
theorem waits_mem {s : State} {a : Nat} {w : Work} (h : Waits s a w) : ∃ b ∈ s.arbs, ∃ r ∈ b.waiting, r.work = w := by
  unfold Waits State.arb at h
  cases hb : s.arbs.find? (·.id == a) with
  | none => rw [hb] at h; cases h
  | some b =>
    rw [hb] at h
    obtain ⟨r, hr, hw⟩ := List.any_eq_true.mp h
    exact ⟨b, List.mem_of_find?_eq_some hb, r, hr, eq_of_beq hw⟩

/-- The read goes to a channel, and neither holds a grant nor waits anywhere. -/
theorem mergedNode_read : (0, ⟨15, 4⟩, 0, 2) ∈ mergedNode.issued 0 ∧ (mergedNode.readChannel (0, ⟨15, 4⟩, 0, 2)).isSome = true ∧
    mergingNode.arbs = [] ∧
    (∀ a ∈ mergedNode.arbs, ∀ r ∈ a.waiting, r.work ≠ readWork (0, ⟨15, 4⟩, 0, 2)) :=
  ⟨by decide +kernel, by decide +kernel, by decide +kernel, by decide +kernel⟩

/-- Refutes O32: a merge none of whose candidates needs a row asks for its re-rank alone; an older read of the tile, held until an
accumulate of its row was applied, is issued then and its channel not requested. -/
theorem not_nodeMergeAndRerank : ¬ Obligations.NodeMergeAndRerank := by
  unfold Obligations.NodeMergeAndRerank
  rintro ⟨hMerge, -⟩
  obtain ⟨-, hRerank⟩ := hMerge mergingNode ⟨15, 0⟩ (finishedShare 0) (by decide +kernel) (by decide) (by decide) rfl (.inl (by decide))
  obtain ⟨x, y, l, hx, -, -, -, -, -, -, -, hreads⟩ := hRerank (by decide)
  rw [mergedNode_eq] at hx
  obtain rfl := Host.Outcome.next.inj hx
  have htile : mergingNode.homeTile (⟨15, 0⟩ : Key).num = 0 := by decide +kernel
  rw [htile] at hreads
  obtain ⟨hissued, hsome, hnone, hfree⟩ := mergedNode_read
  obtain ⟨ch, hch⟩ := Option.isSome_iff_exists.mp hsome
  rcases hreads _ hissued ch hch ch (List.mem_singleton_self _) with h | h
  · rw [arbHolds_noArbs hnone] at h; cases h
  · obtain ⟨b, hb, r, hr, hw⟩ := waits_mem h
    exact hfree b hb r hr hw

end Sys2Proof.Machine

end

-- ==== Proofs: background work and its turn ====
section
/-! SUPPORT. What work asks of the arbiters it needs, when it is its turn at all of them, and what background work leaves as it was
(R38, R40, R55). -/

namespace Sys2Proof.Machine

open Sys2Proof

/-! ### Requests leave the grants in force as they are -/

/-- The arbiters that serve a grant. -/
def State.busyArbs (s : State) : List Nat := (s.arbs.filter fun a => !a.granted.isEmpty).map (·.id)

theorem State.brakeHolds_eq (s : State) (a : Nat) : s.brakeHolds a =
    (s.pwr.brake && decide (0x40 ≤ a) && decide (a < 0x60) &&
      decide (16 ≤ (s.busyArbs.filter fun i => decide (0x40 ≤ i) && decide (i < 0x60) && i != a).length)) := by
  unfold State.brakeHolds State.busyArbs
  rw [List.filter_map, List.length_map, List.filter_filter]
  rfl

/-- An arbiter's choice speaks of the other arbiters only by which of them serve a grant. -/
theorem State.arbPick_congr {s x : State} (h : x = { s with arbs := x.arbs }) (hb : x.busyArbs = s.busyArbs) (a : Arb) :
    x.arbPick a = s.arbPick a := by
  have hh : x.brakeHolds a.id = s.brakeHolds a.id := by
    rw [State.brakeHolds_eq, State.brakeHolds_eq, hb, h]
  unfold State.arbPick
  rw [hh, h]
  rfl

theorem State.modArb_busyArbs (s : State) (id : Nat) {f : Arb → Arb} (hid : ∀ a, (f a).id = a.id)
    (hg : ∀ a, (f a).granted = a.granted) : (s.modArb id f).busyArbs = s.busyArbs := by
  unfold State.modArb State.busyArbs
  split
  · have hp : ((fun a : Arb => !a.granted.isEmpty) ∘ fun x => if (x.id == id) = true then f x else x) =
        fun a => !a.granted.isEmpty := by
      funext x; dsimp only [Function.comp]; split
      · rw [hg]
      · rfl
    have hi : ((fun a : Arb => a.id) ∘ fun x => if (x.id == id) = true then f x else x) = fun a => a.id := by
      funext x; dsimp only [Function.comp]; split
      · rw [hid]
      · rfl
    unfold modWhere
    rw [List.filter_map, List.map_map, hp, hi]
  · simp [hg]

theorem State.arbRequest_busyArbs (s : State) (id n : Nat) (b rb : Bool) (w : Work) :
    (s.arbRequest id n b rb w).busyArbs = s.busyArbs :=
  State.modArb_busyArbs s id (by intro a; split <;> rfl) (by intro a; split <;> rfl)

theorem State.requestAt_busyArbs (n : Nat) (b : Bool) (w : Work) :
    ∀ (l : List Nat) (s : State), (s.requestAt n b w l).busyArbs = s.busyArbs :=
  foldl_keeps State.busyArbs _ (by
    intro s a
    split
    · rfl
    · exact State.arbRequest_busyArbs s a n b false w)

theorem State.requestAt_frame (s : State) (n : Nat) (b : Bool) (w : Work) (l : List Nat) :
    s.requestAt n b w l = { s with arbs := (s.requestAt n b w l).arbs } :=
  State.eq_of_noArbs (State.requestAt_noArbs s n b w l)

theorem State.requestAt_arbPick (s : State) (n : Nat) (b : Bool) (w : Work) (l : List Nat) (a : Arb) :
    (s.requestAt n b w l).arbPick a = s.arbPick a :=
  State.arbPick_congr (State.requestAt_frame s n b w l) (State.requestAt_busyArbs n b w l s) a

/-! ### The arbiters of some work once it has asked them -/

/-- One arbiter once some work has asked it, where it does not serve the work already. -/
def asked (s : State) (n : Nat) (b : Bool) (w : Work) (a : Nat) : Arb :=
  if s.arbHolds a w then s.arb a else asking s n b w a

theorem asking_granted (s : State) (n : Nat) (b : Bool) (w : Work) (a : Nat) :
    (asking s n b w a).granted = (s.arb a).granted := by
  unfold asking; split <;> rfl

theorem asked_granted (s : State) (n : Nat) (b : Bool) (w : Work) (a : Nat) : (asked s n b w a).granted = (s.arb a).granted := by
  unfold asked
  split
  · rfl
  · exact asking_granted s n b w a

theorem asking_waits (s : State) (n : Nat) (b : Bool) (w : Work) (a : Nat) :
    (asking s n b w a).waiting.any (·.work == w) = true := by
  unfold asking
  split
  · assumption
  · simp

/-- One request of the work at an arbiter, where it is not served there. -/
def State.requestOne (s : State) (n : Nat) (b : Bool) (w : Work) (a : Nat) : State :=
  if s.arbHolds a w then s else s.arbRequest a n b false w

theorem State.requestOne_now (s : State) (n : Nat) (b : Bool) (w : Work) (a : Nat) : (s.requestOne n b w a).now = s.now := by
  unfold State.requestOne
  split
  · rfl
  · unfold State.arbRequest; rw [State.modArb_frame]; rfl

theorem State.requestOne_arb_same (s : State) (n : Nat) (b : Bool) (w : Work) (a : Nat) :
    (s.requestOne n b w a).arb a = asked s n b w a := by
  unfold State.requestOne asked asking
  split
  · rfl
  · unfold State.arbRequest
    rw [State.modArb_arb_same (by intro a; split <;> rfl)]

theorem State.requestOne_arb_ne {s : State} {a j : Nat} (h : j ≠ a) (n : Nat) (b : Bool) (w : Work) :
    (s.requestOne n b w a).arb j = s.arb j := by
  unfold State.requestOne
  split
  · rfl
  · exact State.arbRequest_arb_ne h n b false w

/-- What an arbiter becomes when it is asked depends on that arbiter and the time alone. -/
theorem asked_congr {s x : State} {a : Nat} (ha : x.arb a = s.arb a) (hn : x.now = s.now) (n : Nat) (b : Bool) (w : Work) :
    asked x n b w a = asked s n b w a := by
  unfold asked asking State.arbHolds
  rw [ha, hn]

/-- Asking twice is asking once. -/
theorem asked_requestOne (s : State) (n : Nat) (b : Bool) (w : Work) (a : Nat) :
    asked (s.requestOne n b w a) n b w a = asked s n b w a := by
  have h := State.requestOne_arb_same s n b w a
  have hh : (s.requestOne n b w a).arbHolds a w = s.arbHolds a w := by
    unfold State.arbHolds; rw [h, asked_granted]
  rw [asked, hh, h]
  split
  · rfl
  · rename_i hn
    rw [asking, h, asked, if_neg hn, if_pos (asking_waits s n b w a)]

theorem State.requestAt_arb (n : Nat) (b : Bool) (w : Work) (a : Nat) : ∀ (l : List Nat) (s : State),
    (s.requestAt n b w l).arb a = if a ∈ l then asked s n b w a else s.arb a
  | [], _ => rfl
  | j :: l, s => by
    have ih := State.requestAt_arb n b w a l (s.requestOne n b w j)
    have e : s.requestAt n b w (j :: l) = (s.requestOne n b w j).requestAt n b w l := rfl
    rw [e, ih]
    by_cases hj : a = j
    · subst hj
      rw [asked_requestOne, State.requestOne_arb_same]
      simp
    · rw [asked_congr (State.requestOne_arb_ne hj n b w) (State.requestOne_now s n b w j), State.requestOne_arb_ne hj]
      simp [hj]

/-! ### Whose turn it is -/

/-- The turn that is spoken of is the one that is computed: every arbiter, asked, serves the work or may. -/
theorem grantTurn_iff (s : State) (n : Nat) (b : Bool) (arbs : List Nat) (w : Work) :
    GrantTurn s n b arbs w ↔ (s.requestAt n b w arbs).turnsAll w arbs = true := by
  unfold GrantTurn State.turnsAll
  rw [List.all_eq_true]
  refine forall₂_congr fun a ha => ?_
  unfold State.turnsTo
  rw [State.requestAt_arbPick]
  unfold State.arbHolds
  rw [State.requestAt_arb, if_pos ha, asked_granted, Bool.or_eq_true, Bool.and_eq_true, List.isEmpty_iff, Option.any_eq_true]
  by_cases hh : (s.arb a).granted.any (·.work == w) = true
  · simp [hh]
  · rw [asked, State.arbHolds, if_neg hh]
    simp

/-- Work that has asked its arbiters waits at those that do not serve it. -/
theorem requestAt_grantWaits (s : State) (n : Nat) (b : Bool) (arbs : List Nat) (w : Work) :
    GrantWaits s (s.requestAt n b w arbs) arbs w := by
  intro a ha
  by_cases hh : s.arbHolds a w = true
  · exact .inl hh
  · refine .inr ?_
    unfold Waits
    rw [State.requestAt_arb, if_pos ha, asked, if_neg hh]
    exact asking_waits s n b w a

theorem requestAt_backgroundWaits (s : State) (n : Nat) (b : Bool) (arbs : List Nat) (w : Work) :
    BackgroundWaits s (s.requestAt n b w arbs) arbs w :=
  ⟨State.requestAt_frame s n b w arbs, requestAt_grantWaits s n b arbs w⟩

theorem State.holdBackground_frame (s : State) (sv : Bool) (w : Work) (a : Nat) :
    s.holdBackground sv w a = { s with arbs := (s.holdBackground sv w a).arbs, free := (s.holdBackground sv w a).free } := by
  unfold State.holdBackground
  dsimp only
  rw [State.modArb_frame]
  unfold State.arbEnd
  rw [State.modArb_frame]
  rfl

theorem State.holdBackgrounds_frame (sv : Bool) (w : Work) : ∀ (l : List Nat) (s : State),
    ∃ bs n, l.foldl (State.holdBackground · sv w) s = { s with arbs := bs, free := n }
  | [], s => ⟨s.arbs, s.free, rfl⟩
  | a :: l, s => by
    obtain ⟨bs, n, h⟩ := State.holdBackgrounds_frame sv w l (s.holdBackground sv w a)
    refine ⟨bs, n, ?_⟩
    rw [List.foldl_cons, h, State.holdBackground_frame]

/-- In its turn background work is done, and but for the work only arbiters have changed. -/
theorem State.background_done {s : State} {arbs : List Nat} {k t : Nat} (h : BackgroundTurn s arbs (.upkeep k t)) (sv : Bool)
    (f : State → State) : ∃ as bs n, s.background arbs k t sv f = { f { s with arbs := as } with
      arbs := bs, free := n } := by
  have ht := (grantTurn_iff s backgroundRequester true arbs (.upkeep k t)).mp h
  unfold State.turnsAll at ht
  unfold State.background
  dsimp only
  rw [if_pos ht]
  have hg : arbs.foldl (State.takeGrant · (.upkeep k t)) (s.requestAt backgroundRequester true (.upkeep k t) arbs) = { s with
      arbs := (arbs.foldl (State.takeGrant · (.upkeep k t)) (s.requestAt backgroundRequester true (.upkeep k t) arbs)).arbs } :=
    State.eq_of_noArbs ((foldl_keeps State.noArbs (State.takeGrant · (.upkeep k t)) (by intro s a; simp) arbs _).trans
      (State.requestAt_noArbs ..))
  rw [hg]
  obtain ⟨bs, n, hb⟩ := State.holdBackgrounds_frame sv (.upkeep k t) arbs (f { s with
    arbs := (arbs.foldl (State.takeGrant · (.upkeep k t)) (s.requestAt backgroundRequester true (.upkeep k t) arbs)).arbs })
  exact ⟨_, bs, n, hb⟩

/-- Until its turn it waits, and nothing else has changed. -/
theorem State.background_waits {s : State} {arbs : List Nat} {k t : Nat} (h : ¬ BackgroundTurn s arbs (.upkeep k t)) (sv : Bool)
    (f : State → State) : s.background arbs k t sv f = s.requestAt backgroundRequester true (.upkeep k t) arbs := by
  have ht := fun ht => h ((grantTurn_iff s backgroundRequester true arbs (.upkeep k t)).mpr ht)
  unfold State.turnsAll at ht
  unfold State.background
  dsimp only
  rw [if_neg ht]

theorem State.background_backgroundWaits {s : State} {arbs : List Nat} {k t : Nat} (h : ¬ BackgroundTurn s arbs (.upkeep k t))
    (sv : Bool) (f : State → State) : BackgroundWaits s (s.background arbs k t sv f) arbs (.upkeep k t) := by
  rw [State.background_waits h]
  exact requestAt_backgroundWaits ..

end Sys2Proof.Machine

end

-- ==== Proofs: lists, their identifiers, and a pass of one ledger arbiter ====
section
/-! SUPPORT. Reading a list back after an update, whether a list identifier can be had, what a new list's pages hold, and what a
maintenance finds after its turn at the shard's ledger arbiter. -/

namespace Sys2Proof.Machine

open Sys2Proof

/-! ### Reading lists back -/

theorem State.list?_id {s : State} {i : Nat} {l : LList} (h : s.list? i = some l) : l.id = i := by simpa using List.find?_some h

theorem State.list?_mem {s : State} {i : Nat} {l : LList} (h : s.list? i = some l) : l ∈ s.lists := List.mem_of_find?_eq_some h

theorem State.list?_modWhere {s x : State} {p : LList → Bool} {f : LList → LList} (hx : x.lists = modWhere s.lists p f)
    (hf : ∀ l, (f l).id = l.id) (i : Nat) : x.list? i = (s.list? i).map fun l => if p l then f l else l := by
  unfold State.list?; rw [hx]; exact find?_modWhere_keeps (by simp [hf])

theorem State.modList_list?_ne {s : State} {i j : Nat} (h : i ≠ j) {f : LList → LList} (hf : ∀ l, (f l).id = l.id) :
    (s.modList j f).list? i = s.list? i :=
  find?_modWhere_ne _ _ _ _ (by intro l hl; simp at hl ⊢; omega) (by intro l hl; simp [hf] at hl ⊢; omega)

theorem State.list?_congr {s x : State} (h : x.lists = s.lists) (i : Nat) : x.list? i = s.list? i := by
  unfold State.list?; rw [h]

theorem State.shard?_congr {s x : State} (h : x.shards = s.shards) (i : Nat) : x.shard? i = s.shard? i := by
  unfold State.shard?; rw [h]

theorem State.modShard_shard?_ne {s : State} {i j : Nat} (h : i ≠ j) {f : Shard → Shard} (hf : ∀ d, (f d).id = d.id) :
    (s.modShard j f).shard? i = s.shard? i :=
  find?_modWhere_ne _ _ _ _ (by intro l hl; simp at hl ⊢; omega) (by intro l hl; simp [hf] at hl ⊢; omega)

/-- A list with its shard and collection, by what each is found to be. -/
theorem State.listOf_some {s : State} {list : Nat} {l : LList} {d : Shard} {c : Coll} (hl : s.list? list = some l)
    (hd : s.shard? l.shard = some d) (hc : s.coll? d.coll = some c) : s.listOf list = some (l, d, c) := by
  simp [State.listOf, hl, hd, hc]

/-- What a fold over some records adds up speaks of a change of them only by what it counts. -/
theorem filter_modWhere_length {α : Type} (l : List α) (p q : α → Bool) (f : α → α) (hf : ∀ x, q (f x) = q x) :
    ((modWhere l p f).filter q).length = (l.filter q).length := by
  unfold modWhere
  rw [List.filter_map, List.length_map]
  refine congrArg (fun r => (l.filter r).length) (funext fun x => ?_)
  dsimp only [Function.comp]
  split
  · exact hf x
  · rfl

/-! ### Pages of a version -/

/-- Records put in pages are those records, in order. -/
theorem fillPages_flatten (size : Nat) : ∀ (l : List ScanRec) (esc : Nat) (cur : List ScanRec),
    (fillPages size l esc cur).flatMap (fun p => p) = cur ++ l
  | [], _, cur => by
    unfold fillPages
    split
    · rename_i h; simp [List.isEmpty_iff.mp h]
    · simp
  | r :: rest, esc, cur => by
    unfold fillPages
    dsimp only
    split
    · rw [fillPages_flatten]; simp
    · rw [List.flatMap_cons, fillPages_flatten]; simp

/-! ### List identifiers -/

/-- What the choice of a list identifier looks at (R173, R295): the freed and the unused ones, and what names a list. -/
def State.naming (s : State) : (List Nat × Nat) × List (Nat × List Nat) × List (List Slot × List Tomb × List Hist) :=
  ((s.tier.freeLists, s.tier.nextList), s.lists.map (fun l => (l.id, l.successors)), s.shards.map fun d => (d.slots, d.tombs, d.hist))

theorem State.listNamed_congr {s x : State} (h : x.naming = s.naming) (i : Nat) : x.listNamed i = s.listNamed i := by
  have e : ∀ z : State, z.listNamed i =
      (z.naming.2.1.any (fun l => l.1 != i && l.2.contains i) ||
        z.naming.2.2.any fun d => d.1.any (fun y => y.row.list == i || y.row.second == i) ||
          d.2.1.any (fun t => t.listA == i || t.listB == i) ||
          d.2.2.any fun e => match e.prior with | some p => p.1.list == i || p.1.second == i | none => false) := by
    intro z
    unfold State.listNamed State.naming
    rw [List.any_map, List.any_map]
    rfl
  rw [e x, e s, h]

theorem State.reuseList_naming {s x : State} (h : x.naming = s.naming) (i : Nat) : (x.reuseList i).naming = (s.reuseList i).naming := by
  have e : ∀ z : State, (z.reuseList i).naming =
      ((z.naming.1.1.filter (· != i), z.naming.1.2), z.naming.2.1.filter (·.1 != i), z.naming.2.2) := by
    intro z
    unfold State.reuseList State.naming
    dsimp only
    rw [List.filter_map]
    rfl
  rw [e x, e s, h]

/-- What a choice of an identifier gives, as far as the next choice looks at it. -/
def namingOf {α : Type} (o : Option (α × State)) := o.map fun y => (y.1, y.2.naming)

theorem State.takeList_congr {s x : State} (h : x.naming = s.naming) : namingOf x.takeList = namingOf s.takeList := by
  have hfree : x.tier.freeLists = s.tier.freeLists := congrArg (·.1.1) h
  have hnext : x.tier.nextList = s.tier.nextList := congrArg (·.1.2) h
  have hnew : (x.modTier fun e => { e with nextList := e.nextList + 1 }).naming =
      (s.modTier fun e => { e with nextList := e.nextList + 1 }).naming := by
    have e : ∀ z : State, (z.modTier fun e => { e with nextList := e.nextList + 1 }).naming =
        ((z.naming.1.1, z.naming.1.2 + 1), z.naming.2) := fun z => rfl
    rw [e x, e s, h]
  have hnamed : (fun i => !x.listNamed i) = fun i => !s.listNamed i := funext fun i => by rw [State.listNamed_congr h]
  unfold State.takeList
  dsimp only
  rw [hfree, hnext, hnamed]
  cases (s.tier.freeLists.head?.filter fun i => !s.listNamed i) with
  | some i => simp only [namingOf, Option.map_some, State.reuseList_naming h]
  | none =>
    dsimp only
    split
    · simp only [namingOf, Option.map_some, hnew]
    · cases s.tier.freeLists.find? fun i => !s.listNamed i with
      | none => rfl
      | some i => simp only [namingOf, Option.map_some, State.reuseList_naming h]

theorem State.takeLists_congr : ∀ (n : Nat) {s x : State}, x.naming = s.naming → namingOf (x.takeLists n) = namingOf (s.takeLists n)
  | 0, s, x, h => by simp only [State.takeLists, namingOf, Option.map_some, h]
  | n + 1, s, x, h => by
    have ht := State.takeList_congr h
    unfold State.takeLists
    cases hx : x.takeList with
    | none =>
      cases hs : s.takeList with
      | none => rfl
      | some z => rw [hx, hs] at ht; simp [namingOf] at ht
    | some y =>
      cases hs : s.takeList with
      | none => rw [hx, hs] at ht; simp [namingOf] at ht
      | some z =>
        rw [hx, hs] at ht
        obtain ⟨hi, hn⟩ : y.1 = z.1 ∧ y.2.naming = z.2.naming := by simpa [namingOf] using ht
        have ih := State.takeLists_congr n hn
        dsimp only
        rw [hi]
        revert ih
        cases y.2.takeLists n <;> cases z.2.takeLists n <;> simp [namingOf]

/-- The same identifiers can be had in a state that names the same lists. -/
theorem State.takeLists_of_naming {s x : State} (h : x.naming = s.naming) {n : Nat} {ids : List Nat} {v : State}
    (hs : s.takeLists n = some (ids, v)) : ∃ y, x.takeLists n = some (ids, y) := by
  have hc := State.takeLists_congr n h
  rw [hs] at hc
  cases hx : x.takeLists n with
  | none => rw [hx] at hc; simp [namingOf] at hc
  | some y =>
    rw [hx] at hc
    have hy : y.1 = ids := (by simpa [namingOf] using hc : y.1 = ids ∧ _).1
    exact ⟨y.2, by rw [← hy]⟩

theorem State.takeList_spec {s y : State} {i : Nat} (h : s.takeList = some (i, y)) :
    y = { s with lists := y.lists, tier := y.tier } ∧ (∃ p, y.lists = s.lists.filter p ∧ ∀ l ∈ s.lists, l.id ≠ i → p l = true) := by
  have hre : ∀ j, s.reuseList j = { s with lists := (s.reuseList j).lists, tier := (s.reuseList j).tier } ∧
      ∃ p, (s.reuseList j).lists = s.lists.filter p ∧ ∀ l ∈ s.lists, l.id ≠ j → p l = true :=
    fun j => ⟨rfl, _, rfl, fun l _ hl => by simpa using hl⟩
  unfold State.takeList at h
  dsimp only at h
  split at h
  · obtain ⟨rfl, rfl⟩ := Prod.mk.inj (Option.some.inj h); exact hre _
  · split at h
    · obtain ⟨rfl, rfl⟩ := Prod.mk.inj (Option.some.inj h)
      exact ⟨rfl, fun _ => true, by simp, fun _ _ _ => rfl⟩
    · obtain ⟨j, -, hj⟩ := Option.map_eq_some_iff.mp h
      obtain ⟨rfl, rfl⟩ := Prod.mk.inj hj; exact hre _

/-- Taking list identifiers changes the lists and the tiers; of the lists only the records of those identifiers go. -/
theorem State.takeLists_spec : ∀ {n : Nat} {s y : State} {ids : List Nat}, s.takeLists n = some (ids, y) →
    y = { s with lists := y.lists, tier := y.tier } ∧ ids.length = n ∧ ∀ i, i ∉ ids → y.list? i = s.list? i
  | 0, s, y, ids, h => by
    obtain ⟨rfl, rfl⟩ := Prod.mk.inj (Option.some.inj h)
    exact ⟨rfl, rfl, fun _ _ => rfl⟩
  | n + 1, s, y, ids, h => by
    unfold State.takeLists at h
    cases ht : s.takeList with
    | none => rw [ht] at h; cases h
    | some z =>
      rw [ht] at h
      obtain ⟨u, hu, he⟩ := Option.map_eq_some_iff.mp h
      obtain ⟨rfl, rfl⟩ := Prod.mk.inj he
      obtain ⟨hz, p, hl, hp⟩ := State.takeList_spec ht
      obtain ⟨hf, hlen, hk⟩ := State.takeLists_spec hu
      refine ⟨by rw [hf, hz], by simp [hlen], fun i hi => ?_⟩
      obtain ⟨h1, h2⟩ := not_or.mp (fun h => hi (List.mem_cons.mpr h))
      rw [hk i h2]
      unfold State.list?
      rw [hl, List.find?_filter]
      generalize s.lists = ls at hp
      clear * - hp h1
      induction ls with
      | nil => rfl
      | cons a l ih =>
        have ih := ih fun l hl => hp l (List.mem_cons_of_mem _ hl)
        by_cases ha : a.id = i
        · have hpa : p a = true := hp a List.mem_cons_self (by omega)
          simp [ha, hpa]
        · simpa [List.find?_cons, ha] using ih

/-! ### A pass of one shard's ledger arbiter -/

theorem ledgerTurn_one {s : State} {i : Nat} {d : Shard} {w : LedgerWhat} (hd : s.shard? i = some d) :
    LedgerTurn s [i] w ↔ d.turn w = true := by
  constructor
  · exact fun h => h i (List.mem_singleton_self i) d hd
  · intro h j hj e he
    rw [List.mem_singleton] at hj
    subst hj
    rw [hd] at he
    obtain rfl := Option.some.inj he
    exact h

theorem State.leaveLedger_shard? {s : State} {i : Nat} {d : Shard} (hd : s.shard? i = some d) (w : LedgerWhat) :
    (s.leaveLedger w i).shard? i = some { d with waiting := d.waiting.filter (·.2 != w) } := by
  unfold State.leaveLedger
  rw [hd]
  dsimp only
  refine (State.shard?_congr (s := s.modShard i fun d => { d with waiting := d.waiting.filter (·.2 != w) }) ?_ i).trans ?_
  · unfold State.countLedger; rw [State.modArb_frame]
  · rw [State.modShard_shard (by intro d; rfl), hd]; rfl

theorem State.leaveLedger_shard?_ne {s : State} {i j : Nat} (h : j ≠ i) (w : LedgerWhat) :
    (s.leaveLedger w i).shard? j = s.shard? j := by
  unfold State.leaveLedger
  split
  · rfl
  · refine (State.shard?_congr (s := s.modShard i fun d => { d with waiting := d.waiting.filter (·.2 != w) }) ?_ j).trans ?_
    · unfold State.countLedger; rw [State.modArb_frame]
    · exact State.modShard_shard?_ne h (by intro d; rfl)

theorem State.leaveLedger_naming (s : State) (w : LedgerWhat) (i : Nat) : (s.leaveLedger w i).naming = s.naming := by
  unfold State.leaveLedger
  split
  · rfl
  · have : ∀ (z : State) (d : Shard) (n : Nat), (z.countLedger d n).naming = z.naming := by
      intro z d n; unfold State.countLedger; rw [State.modArb_frame]; rfl
    rw [this]
    unfold State.naming State.modShard modWhere
    simp only [List.map_map]
    refine congrArg _ (congrArg _ (List.map_congr_left fun d _ => ?_))
    dsimp only [Function.comp]
    split <;> rfl

/-- In its turn at a shard's ledger arbiter what passes there is done, from the state it has left the arbiter in. -/
theorem State.passLedgers_one {s : State} {i : Nat} {d : Shard} {w : LedgerWhat} (hd : s.shard? i = some d) (h : d.turn w = true)
    (go : State → State) : s.passLedgers [i] w go = go (s.leaveLedger w i) :=
  State.passLedgers_granted ((ledgerTurn_one hd).mpr h) go

/-- Out of its turn it waits there. -/
theorem State.passLedgers_one_waits {s : State} {i : Nat} {d : Shard} {w : LedgerWhat} (hd : s.shard? i = some d) (h : d.turn w = false)
    (go : State → State) : s.passLedgers [i] w go = { s with shards := (s.passLedgers [i] w go).shards } ∧
      ShardsButWaiting s (s.passLedgers [i] w go) ∧ LedgerWaits (s.passLedgers [i] w go) [i] w :=
  State.passLedgers_waitsAt (fun ht => by rw [(ledgerTurn_one hd).mp ht] at h; cases h) go

end Sys2Proof.Machine

end

-- ==== Proofs: compaction (O48) ====
section
/-! SUPPORT. A compaction from its plan to the release of what it replaced (R289, R290). -/

namespace Sys2Proof.Machine

open Sys2Proof

/-! ### The plan -/

/-- A list as its plan leaves it, before the plan has its cut. -/
def LList.planned (l : LList) (urgent : Bool) (since now : Nat) : LList :=
  { l with urgent := false, maint := some ⟨0, 0, urgent, none, now, since, false, none⟩ }

theorem execCompactionPlan_due {s : State} {list t : Nat} {l : LList} {d : Shard} {c : Coll} {urgent : Bool} {since : Nat}
    (hl : s.list? list = some l) (hd : s.shard? l.shard = some d) (hc : s.coll? d.coll = some c) (hr : l.retiredW = none)
    (hm : l.maint = none) (hst : d.stage = .formed) (hf : d.forwardTo = none) (hlost : d.lost = false)
    (hdue : (s.at t).compactionDue c d l = some (urgent, since)) :
    exec (.compactionPlan list t) s = .next (((s.at t).modList list fun l => l.planned urgent since (s.at t).now).passLedgers [d.id]
      (.pass (.maint list)) (·.cutMaint list)) := by
  have ho : (s.at t).listOf list = some (l, d, c) := State.listOf_some (s := s.at t) hl hd hc
  show execCompactionPlan list t s = _
  unfold execCompactionPlan
  dsimp only
  rw [ho]
  dsimp only
  rw [hr, hm, hst, hf, hlost, hdue]
  rfl

/-- What a plan becomes depends on the records of its list, the live lists beside it and the identifiers to be had. -/
theorem State.planKind_congr {s x : State} {d e : Shard} {l k : LList} (hk : e.keeps k e.counter = d.keeps l d.counter)
    (hmr : e.meanRecords = d.meanRecords) (hml : e.meanLists = d.meanLists) (hl2 : e.l2 = d.l2) (hh : x.headsOf k = s.headsOf l)
    (hn : x.naming = s.naming) (hp : x.partnerOf k = s.partnerOf l) : x.planKind e k = s.planKind d l := by
  have hfree : x.listsFree = s.listsFree := by
    simpa [State.listsFree, namingOf] using congrArg Option.isSome (State.takeLists_congr 2 hn)
  unfold State.planKind
  rw [hk, hmr, hml, hl2, hh, hp, hfree]

section
variable {s : State} {list : Nat} {l : LList} {d : Shard} {c : Coll} {urgent : Bool} {since now : Nat}

/-- The state of a plan that has its turn at the ledger arbiter. -/
def State.planTurn (s : State) (list : Nat) (urgent : Bool) (since now i : Nat) : State :=
  (s.modList list fun l => l.planned urgent since now).leaveLedger (.pass (.maint list)) i

theorem State.planTurn_frame : s.planTurn list urgent since now d.id = { s with
    lists := modWhere s.lists (·.id == list) fun l => l.planned urgent since now,
    shards := (s.planTurn list urgent since now d.id).shards, arbs := (s.planTurn list urgent since now d.id).arbs } :=
  State.leaveLedger_frame ..

theorem State.planTurn_list? (hl : s.list? list = some l) :
    (s.planTurn list urgent since now d.id).list? list = some (l.planned urgent since now) := by
  rw [State.planTurn_frame]
  refine (State.modList_list (s := s) (f := fun l => l.planned urgent since now) (by intro l; rfl)).trans ?_
  rw [hl]; rfl

theorem State.planTurn_list?_ne {i : Nat} (hi : i ≠ list) : (s.planTurn list urgent since now d.id).list? i = s.list? i := by
  rw [State.planTurn_frame]
  exact State.modList_list?_ne hi (s := s) (f := fun l => l.planned urgent since now) (by intro l; rfl)

theorem State.planTurn_naming : (s.planTurn list urgent since now d.id).naming = s.naming := by
  unfold State.planTurn
  rw [State.leaveLedger_naming]
  unfold State.naming State.modList modWhere
  simp only [List.map_map]
  refine congrArg _ (congrArg (·, _) (List.map_congr_left fun l _ => ?_))
  dsimp only [Function.comp]
  split <;> rfl

theorem State.planTurn_headsOf : (s.planTurn list urgent since now d.id).headsOf (l.planned urgent since now) = s.headsOf l := by
  rw [State.planTurn_frame]
  unfold State.headsOf State.liveLists
  rw [List.filter_filter, List.filter_filter]
  exact filter_modWhere_length _ _ _ _ (by intro x; rfl)

theorem State.planTurn_partnerOf (hn : list ∉ l.neighbours) :
    (s.planTurn list urgent since now d.id).partnerOf (l.planned urgent since now) = s.partnerOf l := by
  have e : ∀ ns : List Nat, list ∉ ns → ∀ p : Option LList → Bool,
      (ns.find? fun i => p ((s.planTurn list urgent since now d.id).list? i)) = ns.find? fun i => p (s.list? i) := by
    intro ns h p
    induction ns with
    | nil => rfl
    | cons i ns ih =>
      obtain ⟨h1, h2⟩ := not_or.mp fun k => h (List.mem_cons.mpr k)
      rw [List.find?_cons, List.find?_cons, ih h2, State.planTurn_list?_ne fun k => h1 k.symm]
  exact e l.neighbours hn fun o => match o with
    | some x => x.retiredW.isNone && x.shard == l.shard && x.l1 == l.l1 && x.maint.isNone
    | none => false

/-- The partner that a plan of this kind takes. -/
def State.planPartner (s : State) (d : Shard) (l : LList) : Option Nat := if s.planKind d l = 2 then s.partnerOf l else none

/-- A partner is one of the list's neighbours. -/
theorem State.planPartner_mem {i : Nat} (h : s.planPartner d l = some i) : i ∈ l.neighbours := by
  unfold State.planPartner at h
  split at h
  · exact List.mem_of_find?_eq_some h
  · cases h

end

/-- A list that a plan of kind `kind` cuts at the counter of its shard. -/
def LList.cutAt (l : LList) (kind cut : Nat) (partner : Option Nat) : LList :=
  { l with maint := l.maint.map fun m => { m with kind := kind, cut := cut, partner := partner } }

/-- The ledger arbiter gives a plan its cut: the list's maintenance and its partner's, and a reader of the shard. -/
theorem State.cutMaint_eq {s : State} {list : Nat} {l : LList} {d : Shard} {c : Coll} (hl : s.list? list = some l)
    (hd : s.shard? l.shard = some d) (hc : s.coll? d.coll = some c) {m : Maint} (hm : l.maint = some m) :
    ∃ x, s.cutMaint list = x ∧ x = { s with lists := x.lists, shards := x.shards } ∧
      x.shard? d.id = some { d with readers := d.readers ++ [(.maint list, d.counter)] } ∧
      (s.planPartner d l ≠ some list → x.list? list = some (l.cutAt (s.planKind d l) d.counter (s.planPartner d l))) ∧
      (∀ i, i ≠ list → s.planPartner d l ≠ some i → x.list? i = s.list? i) ∧
      ∀ i y, i ≠ list → s.planPartner d l = some i → s.list? i = some y →
        x.list? i = some { y with maint := some { m with kind := 3, cut := d.counter, partner := some list } } := by
  have hs := State.shard?_id hd
  rw [← hs] at hd
  refine ⟨_, rfl, ?_⟩
  unfold State.cutMaint
  rw [State.listOf_some hl (hs ▸ hd) hc]
  dsimp only
  rw [show (if s.planKind d l = 2 then s.partnerOf l else none) = s.planPartner d l from rfl]
  generalize hk : s.planKind d l = kind
  generalize s.planPartner d l = partner
  generalize hz : (s.modShard d.id fun e => { e with readers := e.readers ++ [(.maint list, e.counter)] }) = z
  have hzl : z.lists = s.lists := by rw [← hz]; rfl
  have hzs : z.shard? d.id = some { d with readers := d.readers ++ [(.maint list, d.counter)] } := by
    rw [← hz, State.modShard_shard (by intro d; rfl), hd]; rfl
  have hzf : z = { s with shards := z.shards } := by rw [← hz]; rfl
  clear hz
  have h1 : (z.modList list (·.cutAt kind d.counter partner)).list? list = some (l.cutAt kind d.counter partner) := by
    rw [State.modList_list (by intro l; rfl), State.list?_congr hzl, hl]; rfl
  have h2 : ∀ i, i ≠ list → (z.modList list (·.cutAt kind d.counter partner)).list? i = s.list? i := fun i hi =>
    (State.modList_list?_ne hi (by intro l; rfl)).trans (State.list?_congr hzl i)
  rw [hm]
  cases partner with
  | none =>
    refine ⟨by rw [hzf]; rfl, hzs, fun _ => h1, fun i hi _ => h2 i hi, ?_⟩
    intro i y _ h; cases h
  | some p =>
    refine ⟨by rw [hzf]; rfl, hzs, fun h => ?_, fun i hi hp => ?_, fun i y hi hp hy => ?_⟩
    · exact (State.modList_list?_ne (fun k => h (by rw [k])) (by intro l; rfl)).trans h1
    · exact (State.modList_list?_ne (fun k => hp (by rw [k])) (by intro l; rfl)).trans (h2 i hi)
    · obtain rfl := Option.some.inj hp
      exact (State.modList_list (by intro l; rfl)).trans (congrArg (Option.map _) ((h2 p hi).trans hy))

section
variable {s : State} {list t : Nat} {l : LList} {d : Shard} {c : Coll} {urgent : Bool} {since : Nat} {w : LedgerWhat}

/-- A due plan in its turn has its cut and becomes what the records say; a merge has its partner. -/
theorem compactionPlan_turn (hl : s.list? list = some l) (hd : s.shard? l.shard = some d) (hc : s.coll? d.coll = some c)
    (hr : l.retiredW = none) (hm : l.maint = none) (hst : d.stage = .formed) (hf : d.forwardTo = none) (hlost : d.lost = false)
    (hdue : (s.at t).compactionDue c d l = some (urgent, since)) (hn : list ∉ l.neighbours) (hw : w = .pass (.maint list))
    (ht : d.turn w = true) : ∃ x e p, exec (.compactionPlan list t) s = .next x ∧
      x.list? list = some { l with urgent := false, maint := some ⟨s.planKind d l, d.counter, urgent, p, (s.at t).now, since, false, none⟩ } ∧
      (s.planKind d l ≠ 2 → p = none) ∧ (∀ i, i ≠ list → p ≠ some i → x.list? i = s.list? i) ∧
      (∀ i y, p = some i → s.list? i = some y → i ∈ l.neighbours ∧ x.list? i =
        some { y with maint := some ⟨3, d.counter, urgent, some list, (s.at t).now, since, false, none⟩ }) ∧
      x.shard? l.shard = some e ∧ e.readers = d.readers ++ [(.maint list, d.counter)] ∧ e.counter = d.counter ∧ x.tier = s.tier := by
  have hid := State.shard?_id hd
  have hdt : (s.at t).shard? d.id = some d := hid ▸ hd
  have hmod : ((s.at t).modList list fun l => l.planned urgent since (s.at t).now).shard? d.id = some d := hdt
  have hz := State.leaveLedger_shard? hmod (.pass (.maint list))
  have hzl := State.planTurn_list? (d := d) (urgent := urgent) (since := since) (now := (s.at t).now) (show (s.at t).list? list = some l from hl)
  have hzn := State.planTurn_naming (s := s.at t) (list := list) (d := d) (urgent := urgent) (since := since) (now := (s.at t).now)
  have hzh := State.planTurn_headsOf (s := s.at t) (list := list) (d := d) (l := l) (urgent := urgent) (since := since) (now := (s.at t).now)
  have hzp := State.planTurn_partnerOf (s := s.at t) (d := d) (urgent := urgent) (since := since) (now := (s.at t).now) hn
  have hzf := State.planTurn_frame (s := s.at t) (list := list) (d := d) (urgent := urgent) (since := since) (now := (s.at t).now)
  have hzi := fun (i : Nat) (hi : i ≠ list) =>
    State.planTurn_list?_ne (s := s.at t) (d := d) (urgent := urgent) (since := since) (now := (s.at t).now) hi
  have hx := execCompactionPlan_due (t := t) hl hd hc hr hm hst hf hlost hdue
  rw [State.passLedgers_one hmod (hw ▸ ht)] at hx
  change exec (.compactionPlan list t) s = .next (((s.at t).planTurn list urgent since (s.at t).now d.id).cutMaint list) at hx
  change ((s.at t).planTurn list urgent since (s.at t).now d.id).shard? d.id = _ at hz
  generalize hze : ({ d with waiting := d.waiting.filter (·.2 != .pass (.maint list)) } : Shard) = e at hz
  generalize (s.at t).planTurn list urgent since (s.at t).now d.id = z at hx hz hzl hzn hzh hzp hzf hzi
  have hkind : z.planKind e (l.planned urgent since (s.at t).now) = s.planKind d l :=
    State.planKind_congr (s := s) (d := d) (e := e) (l := l) (by subst hze; rfl) (by subst hze; rfl) (by subst hze; rfl)
      (by subst hze; rfl) hzh hzn hzp
  have hpart : z.planPartner e (l.planned urgent since (s.at t).now) = s.planPartner d l := by
    unfold State.planPartner; rw [hkind, hzp]; rfl
  have hzd : z.shard? (l.planned urgent since (s.at t).now).shard = some e :=
    (congrArg z.shard? hid.symm).trans hz
  have hzc : z.coll? e.coll = some c := by rw [hzf]; subst hze; exact hc
  obtain ⟨x, hcx, hxf, hxs, hxl, hxi, hxp⟩ := State.cutMaint_eq hzl hzd hzc (m := ⟨0, 0, urgent, none, (s.at t).now, since, false, none⟩) rfl
  rw [hkind, hpart] at hxl
  rw [hpart] at hxi
  have hself : s.planPartner d l ≠ some list := fun h => hn (State.planPartner_mem h)
  have hed : e.id = d.id := by subst hze; rfl
  have her : e.readers = d.readers := by subst hze; rfl
  have hec : e.counter = d.counter := by subst hze; rfl
  rw [hcx] at hx
  refine ⟨x, { e with readers := e.readers ++ [(.maint list, e.counter)] }, s.planPartner d l, hx, ?_, fun hk => if_neg hk, ?_, ?_, ?_, ?_, hec, ?_⟩
  · rw [hxl hself, hec]; rfl
  · intro i hi hp; rw [hxi i hi hp, hzi i hi]; rfl
  · intro i y hp hy
    have hi : i ≠ list := fun k => hself (k ▸ hp)
    refine ⟨State.planPartner_mem hp, ?_⟩
    rw [hxp i y hi (hpart.trans hp) ((hzi i hi).trans hy), hec]
  · rw [← hid, ← hed]; exact hxs
  · rw [← her, ← hec]
  · rw [hxf, hzf]; rfl

/-- A due plan out of its turn waits at the ledger arbiter, without a cut. -/
theorem compactionPlan_waits (hl : s.list? list = some l) (hd : s.shard? l.shard = some d) (hc : s.coll? d.coll = some c)
    (hr : l.retiredW = none) (hm : l.maint = none) (hst : d.stage = .formed) (hf : d.forwardTo = none) (hlost : d.lost = false)
    (hdue : (s.at t).compactionDue c d l = some (urgent, since)) (hw : w = .pass (.maint list)) (ht : d.turn w = false) :
    ∃ x, exec (.compactionPlan list t) s = .next x ∧ x = { s.at t with lists := x.lists, shards := x.shards } ∧
      x.list? list = some { l with urgent := false, maint := some ⟨0, 0, urgent, none, (s.at t).now, since, false, none⟩ } ∧
      ShardsButWaiting s x ∧ LedgerWaits x [d.id] w := by
  subst hw
  have hdt : ((s.at t).modList list fun l => l.planned urgent since (s.at t).now).shard? d.id = some d := (State.shard?_id hd) ▸ hd
  obtain ⟨hxf, hxb, hxw⟩ := State.passLedgers_one_waits hdt ht (·.cutMaint list)
  refine ⟨_, execCompactionPlan_due hl hd hc hr hm hst hf hlost hdue, ?_, ?_, hxb, hxw⟩
  · rw [hxf]; rfl
  · rw [hxf]
    refine (State.modList_list (s := s.at t) (f := fun l => l.planned urgent since (s.at t).now) (by intro l; rfl)).trans ?_
    rw [show (s.at t).list? list = some l from hl]; rfl

end

/-! ### Writing and switching -/

/-- A list whose maintenance has its new pages written. -/
def LList.wroteMaint (l : LList) (m : Maint) : LList := { l with maint := some { m with written := true } }

section
variable {s : State} {l : LList} {m : Maint} {kind : Nat} {arbs : List Nat}

/-- While the plan of another list runs first nothing is written. -/
theorem State.writeMaint_before (h : s.planBefore l m = true) : s.writeMaint l m kind arbs = s := if_pos h

/-- Out of its turn at its resources it waits there. -/
theorem State.writeMaint_waits (h : s.planBefore l m = false) (ht : ¬ BackgroundTurn s arbs (.upkeep kind l.id)) :
    BackgroundWaits s (s.writeMaint l m kind arbs) arbs (.upkeep kind l.id) := by
  have e : s.writeMaint l m kind arbs = s.background arbs kind l.id true fun s =>
      s.modList l.id fun l => { l with maint := l.maint.map fun m => { m with written := true } } := if_neg (by simp [h])
  rw [e]
  exact State.background_backgroundWaits ht ..

/-- In its turn the new pages are written: the list says so, and no other list changes. -/
theorem State.writeMaint_done (h : s.planBefore l m = false) (ht : BackgroundTurn s arbs (.upkeep kind l.id))
    (hl : s.list? l.id = some l) (hm : l.maint = some m) :
    s.writeMaint l m kind arbs = { s with
      lists := (s.writeMaint l m kind arbs).lists, arbs := (s.writeMaint l m kind arbs).arbs, free := (s.writeMaint l m kind arbs).free } ∧
    (s.writeMaint l m kind arbs).list? l.id = some (l.wroteMaint m) ∧
    ∀ i, i ≠ l.id → (s.writeMaint l m kind arbs).list? i = s.list? i := by
  have e : s.writeMaint l m kind arbs = s.background arbs kind l.id true fun s =>
      s.modList l.id fun l => { l with maint := l.maint.map fun m => { m with written := true } } := if_neg (by simp [h])
  obtain ⟨as, bs, n, hb⟩ := State.background_done ht true
    fun s => s.modList l.id fun l => { l with maint := l.maint.map fun m => { m with written := true } }
  rw [e, hb]
  refine ⟨rfl, ?_, fun i hi => ?_⟩
  · refine (State.modList_list (s := s) (f := fun l => { l with maint := l.maint.map fun m => { m with written := true } })
      (by intro l; rfl)).trans ?_
    rw [hl, Option.map_some, hm]; rfl
  · exact State.modList_list?_ne hi (s := s) (f := fun l => { l with maint := l.maint.map fun m => { m with written := true } })
      (by intro l; rfl)

end

/-- A maintenance in its turn at the ledger arbiter does its switch. -/
theorem State.switchMaint_turn {s : State} {list i : Nat} {l : LList} {d : Shard} {c : Coll} {m : Maint} (hl : s.list? list = some l)
    (hi : l.shard = i) (hd : s.shard? i = some d) (hc : s.coll? d.coll = some c) (hm : l.maint = some m)
    (ht : d.turn (.pass (.maint list)) = true) (go : State → Coll → Shard → LList → Maint → State) :
    s.switchMaint list i go = go (s.leaveLedger (.pass (.maint list)) i) c
      { d with waiting := d.waiting.filter (·.2 != .pass (.maint list)) } l m := by
  have hz := State.leaveLedger_shard? hd (.pass (.maint list))
  have hzf := State.leaveLedger_frame s (.pass (.maint list)) i
  unfold State.switchMaint
  rw [State.passLedgers_one hd ht]
  generalize s.leaveLedger (.pass (.maint list)) i = z at hz hzf ⊢
  have hzl : z.list? list = some l := by rw [hzf]; exact hl
  rw [State.listOf_some hzl (hi ▸ hz) (by rw [hzf]; exact hc), hzl]
  dsimp only [Option.bind_some]
  rw [hm]

/-- Out of its turn a maintenance waits at the ledger arbiter. -/
theorem State.switchMaint_waits {s : State} {list i : Nat} {d : Shard} (hd : s.shard? i = some d)
    (ht : d.turn (.pass (.maint list)) = false) (go : State → Coll → Shard → LList → Maint → State) :
    s.switchMaint list i go = { s with shards := (s.switchMaint list i go).shards } ∧ ShardsButWaiting s (s.switchMaint list i go) ∧
      LedgerWaits (s.switchMaint list i go) [i] (.pass (.maint list)) :=
  State.passLedgers_one_waits hd ht _

/-- A switch takes the next counter value as its stamp, and is journaled (R287). -/
theorem State.takeSwitch_spec {s : State} {i : Nat} {d : Shard} (hd : s.shard? i = some d) :
    (s.takeSwitch i).1 = d.counter + 1 ∧
    (s.takeSwitch i).2 = { s with shards := (s.takeSwitch i).2.shards, tier := (s.takeSwitch i).2.tier } ∧
    (s.takeSwitch i).2.shard? i = some { d with counter := d.counter + 1 } ∧
    ∀ j, j ≠ i → (s.takeSwitch i).2.shard? j = s.shard? j := by
  refine ⟨by unfold State.takeSwitch; rw [hd]; rfl, rfl, ?_, fun j hj => ?_⟩
  · refine (State.modShard_shard (s := s) (f := fun h => { h with counter := h.counter + 1 }) (by intro d; rfl)).trans ?_
    rw [hd]; rfl
  · exact State.modShard_shard?_ne hj (s := s) (f := fun h => { h with counter := h.counter + 1 }) (by intro d; rfl)

theorem le_foldl_max {α : Type} (f : α → Nat) : ∀ (l : List α) (n : Nat), n ≤ l.foldl (fun n a => max n (f a)) n ∧
    ∀ a ∈ l, f a ≤ l.foldl (fun n a => max n (f a)) n
  | [], n => ⟨Nat.le_refl n, by simp⟩
  | b :: l, n => by
    obtain ⟨h1, h2⟩ := le_foldl_max f l (max n (f b))
    refine ⟨le_trans (Nat.le_max_left ..) h1, fun a ha => ?_⟩
    rcases List.mem_cons.mp ha with rfl | ha
    · exact le_trans (Nat.le_max_right ..) h1
    · exact h2 a ha

/-- R290 step 3: the next version is visible from the stamp that the compaction takes, and holds what the deletion filter keeps. -/
theorem State.compact_spec {s : State} {c : Coll} {d : Shard} {l : LList} {m : Maint} (hl : s.list? l.id = some l)
    (hd : s.shard? d.id = some d) : ∃ y v, (s.compact c d l m).list? l.id = some y ∧ y.gb = l.gb ∧
      y.versions = l.versions ++ [v] ∧ v.cut = m.cut ∧ v.switch = d.counter + 1 ∧ (∀ z ∈ l.versions, z.epoch < v.epoch) ∧
      v.pages.flatMap (fun p => p) = versionRecords v.epoch (d.keeps l m.cut) ∧
      y.maint = some { m with switched := some (d.counter + 1) } ∧
      ((s.compact c d l m).shard? d.id).map (·.counter) = some (d.counter + 1) ∧
      (∀ i, i ≠ d.id → (s.compact c d l m).shard? i = s.shard? i) ∧ ∀ i, i ≠ l.id → (s.compact c d l m).list? i = s.list? i := by
  obtain ⟨hw, hf, hds, hdo⟩ := State.takeSwitch_spec hd
  unfold State.compact
  dsimp only
  rw [hw]
  generalize (s.takeSwitch d.id).2 = z at hf hds hdo
  generalize hpages : fillPages (scanBytes c.spec.projection)
    (versionRecords ((l.versions.foldl (fun n v => max n v.epoch) 0) + 1) (d.keeps l m.cut)) 0 [] = pages
  generalize hy : (if pages.isEmpty then z
    else (z.modFn (z.chargedFn c) (·.charge .t2 (16384 * pages.length))).programBytes (s.compactChannel l.channel) (16384 * pages.length)) = y
  have hyf : y = { z with fns := y.fns, tier := y.tier } := by rw [← hy]; split <;> rfl
  clear hy
  have hyl : y.list? l.id = some l := by rw [hyf, hf]; exact hl
  have hys : ∀ i, y.shard? i = z.shard? i := State.shard?_congr (by rw [hyf])
  have hyls : ∀ i, y.list? i = s.list? i := State.list?_congr (by rw [hyf, hf])
  refine ⟨_, _, (State.modList_list (s := y) (by intro l; rfl)).trans (congrArg (Option.map _) hyl), rfl, rfl, rfl, rfl, ?_, ?_, rfl, ?_, ?_,
    ?_⟩
  · exact fun v hv => Nat.lt_succ_of_le ((le_foldl_max Version.epoch l.versions 0).2 v hv)
  · rw [← hpages]; exact fillPages_flatten ..
  · refine (congrArg (Option.map _) (State.modShard_shard (s := y) (c := d.id) (by intro d; rfl))).trans ?_
    rw [hys, hds]; rfl
  · intro i hi
    exact (State.modShard_shard?_ne hi (s := y) (by intro d; rfl)).trans ((hys i).trans (hdo i hi))
  · intro i hi
    exact (State.modList_list?_ne hi (s := y) (by intro l; rfl)).trans (hyls i)

section
variable {s : State} {list t : Nat} {l : LList} {d : Shard} {c : Coll} {m : Maint} {arbs : List Nat} {w : LedgerWhat} {u : Work}

/-- A compaction with its cut, when nothing holds its programs, writes what is not written yet and passes the ledger arbiter. -/
theorem execCompactionSwitch_open (hl : s.list? list = some l) (hd : s.shard? l.shard = some d) (hc : s.coll? d.coll = some c)
    (hm : l.maint = some m) (hk : m.kind = 0) (hcut : m.cut ≠ 0) (hsw : m.switched = none) (hdol : s.pwr.doldrums = false)
    (hlim : s.commitLimit = false) (hpw : s.programsWait (s.compactChannel l.channel) = false) {x : State}
    (hx : x = if m.written then s.at t else (s.at t).writeMaint l m 0x12 (s.writeArbs l)) :
    exec (.compactionSwitch list t) s =
      .next (if ((x.list? list).bind (·.maint)).any (·.written) then x.switchMaint list d.id State.compact else x) := by
  have ho : (s.at t).listOf list = some (l, d, c) := State.listOf_some (s := s.at t) hl hd hc
  have hgo : ¬ ((s.at t).pwr.doldrums || (s.at t).commitLimit || (s.at t).programsWait ((s.at t).compactChannel l.channel)) = true := by
    show ¬ (s.pwr.doldrums || s.commitLimit || s.programsWait (s.compactChannel l.channel)) = true
    rw [hdol, hlim, hpw]; decide
  show execCompactionSwitch list t s = _
  unfold execCompactionSwitch
  dsimp only
  rw [ho]
  dsimp only
  rw [hm]
  dsimp only
  rw [if_neg (by simp [hk, hcut, hsw]), if_neg hgo]
  rw [show (s.at t).writeArbs l = s.writeArbs l from rfl, ← hx]
  split <;> rfl

/-- What a compaction is after its pages are written. -/
structure Wrote (s x : State) (l : LList) (m : Maint) : Prop where
  frame : x = { s with lists := x.lists, arbs := x.arbs, free := x.free }
  list : x.list? l.id = some (l.wroteMaint m)
  others : ∀ i, i ≠ l.id → x.list? i = s.list? i

/-- Whether its pages were written before or are written now, a maintenance then stands so. -/
theorem wrote_of_turn (hl : s.list? l.id = some l) (hm : l.maint = some m) {kind : Nat}
    (ht : m.written = true ∨ s.planBefore l m = false ∧ BackgroundTurn (s.at t) arbs (.upkeep kind l.id)) :
    Wrote (s.at t) (if m.written then s.at t else (s.at t).writeMaint l m kind arbs) l m := by
  by_cases hw : m.written = true
  · rw [if_pos hw]
    have he : l.wroteMaint m = l := by
      cases l; cases m
      simp only [LList.wroteMaint] at hm hw ⊢
      rw [hm, hw]
    exact ⟨rfl, by rw [he]; exact hl, fun _ _ => rfl⟩
  · rw [if_neg hw]
    obtain ⟨hb, ht⟩ := ht.resolve_left hw
    obtain ⟨h1, h2, h3⟩ := State.writeMaint_done (s := s.at t) (kind := kind) (arbs := arbs) hb ht hl hm
    exact ⟨h1, h2, h3⟩

/-- R290 step 2: nothing is written while another plan runs first, and out of its turn at its resources the compaction waits there. -/
theorem compactionSwitch_held (hl : s.list? list = some l) (hd : s.shard? l.shard = some d) (hc : s.coll? d.coll = some c)
    (hm : l.maint = some m) (hk : m.kind = 0) (hcut : m.cut ≠ 0) (hsw : m.switched = none) (hdol : s.pwr.doldrums = false)
    (hlim : s.commitLimit = false) (hpw : s.programsWait (s.compactChannel l.channel) = false) (hu : u = .upkeep 0x12 list)
    (harbs : arbs = s.writeArbs l) (hwr : m.written = false) :
    (s.planBefore l m = true → exec (.compactionSwitch list t) s = .next (s.at t)) ∧
    (s.planBefore l m = false → ¬ BackgroundTurn (s.at t) arbs u →
      ∃ x, exec (.compactionSwitch list t) s = .next x ∧ BackgroundWaits (s.at t) x arbs u) := by
  have hx := execCompactionSwitch_open (t := t) hl hd hc hm hk hcut hsw hdol hlim hpw rfl
  rw [if_neg (by simp [hwr] : ¬ m.written = true)] at hx
  have hnot : ∀ x : State, x.lists = s.lists → ((x.list? list).bind (·.maint)).any (·.written) = false := by
    intro x h
    rw [State.list?_congr h, hl, Option.bind_some, hm, Option.any_some, hwr]
  refine ⟨fun hb => ?_, fun hb ht => ?_⟩
  · rw [State.writeMaint_before (s := s.at t) hb, hnot (s.at t) rfl] at hx
    exact hx
  · subst hu harbs
    obtain rfl := State.list?_id hl
    have hwait := State.writeMaint_waits (s := s.at t) hb ht
    rw [hnot _ (by rw [hwait.1]; rfl)] at hx
    exact ⟨_, hx, hwait⟩

/-- R290 step 3: once written, the compaction switches in its turn at the ledger arbiter and waits there until then. -/
theorem compactionSwitch_written (hl : s.list? list = some l) (hd : s.shard? l.shard = some d) (hc : s.coll? d.coll = some c)
    (hm : l.maint = some m) (hk : m.kind = 0) (hcut : m.cut ≠ 0) (hsw : m.switched = none) (hdol : s.pwr.doldrums = false)
    (hlim : s.commitLimit = false) (hpw : s.programsWait (s.compactChannel l.channel) = false) (hw : w = .pass (.maint list))
    (hu : u = .upkeep 0x12 list) (harbs : arbs = s.writeArbs l)
    (ht : m.written = true ∨ s.planBefore l m = false ∧ BackgroundTurn (s.at t) arbs u) :
    ∃ x y, exec (.compactionSwitch list t) s = .next x ∧ x.list? list = some y ∧ y.gb = l.gb ∧
      (∀ i, i ≠ list → x.list? i = s.list? i) ∧
      (d.turn w = true → ∃ v, y.versions = l.versions ++ [v] ∧ v.cut = m.cut ∧ v.switch = d.counter + 1 ∧
        (∀ z ∈ l.versions, z.epoch < v.epoch) ∧ v.pages.flatMap (fun p => p) = versionRecords v.epoch (d.keeps l m.cut) ∧
        y.maint = some { m with written := true, switched := some (d.counter + 1) } ∧
        (x.shard? l.shard).map (·.counter) = some (d.counter + 1) ∧ ∀ i, i ≠ l.shard → x.shard? i = s.shard? i) ∧
      (d.turn w = false → y = { l with maint := some { m with written := true } } ∧ ShardsButWaiting s x ∧ LedgerWaits x [d.id] w) := by
  obtain rfl := State.list?_id hl
  have hid := State.shard?_id hd
  subst hu harbs hw
  have hx := execCompactionSwitch_open (t := t) hl hd hc hm hk hcut hsw hdol hlim hpw rfl
  obtain ⟨hf, hli, hlo⟩ := wrote_of_turn (t := t) (kind := 0x12) (arbs := s.writeArbs l) hl hm ht
  generalize (if m.written then s.at t else (s.at t).writeMaint l m 0x12 (s.writeArbs l)) = y at hx hf hli hlo
  rw [hli, if_pos (by rfl)] at hx
  have hds : y.shard? d.id = some d := by rw [hf]; exact hid ▸ hd
  cases hturn : d.turn (.pass (.maint l.id)) with
  | true =>
    rw [State.switchMaint_turn hli hid.symm hds (by rw [hf]; exact hc) rfl hturn] at hx
    have hz := State.leaveLedger_shard? hds (.pass (.maint l.id))
    have hzf := State.leaveLedger_frame y (.pass (.maint l.id)) d.id
    have hzo := fun (i : Nat) (hi : i ≠ d.id) => State.leaveLedger_shard?_ne (s := y) hi (.pass (.maint l.id))
    generalize y.leaveLedger (.pass (.maint l.id)) d.id = z at hx hz hzf hzo
    obtain ⟨k, v, h1, h2, h3, h4, h5, h6, h7, h8, h9, h10, h11⟩ := State.compact_spec (s := z) (c := c)
      (d := { d with waiting := d.waiting.filter (·.2 != .pass (.maint l.id)) }) (l := l.wroteMaint m) (m := { m with written := true })
      (by rw [hzf]; exact hli) hz
    refine ⟨_, k, hx, h1, h2, fun i hi => ?_, fun _ => ⟨v, h3, h4, h5, h6, h7, h8, hid ▸ h9, fun i hi => ?_⟩, nofun⟩
    · rw [h11 i hi, hzf]; exact hlo i hi
    · rw [h10 i (hid ▸ hi), hzo i (hid ▸ hi), hf]; rfl
  | false =>
    obtain ⟨hxf, hxb, hxw⟩ := State.switchMaint_waits hds hturn State.compact
    refine ⟨_, l.wroteMaint m, hx, ?_, rfl, fun i hi => ?_, nofun, fun _ => ⟨rfl, ?_, hxw⟩⟩
    · rw [hxf]; exact hli
    · rw [hxf]; exact hlo i hi
    · intro i e he
      exact hxb i e (by rw [hf]; exact he)

end

/-! ### Release -/

section
variable {s : State} {list t w : Nat} {l : LList} {d : Shard} {c : Coll} {m : Maint}

/-- A list whose compaction has switched at `w`, without what its new version replaced. -/
def LList.compacted (l : LList) (m : Maint) (w : Nat) : LList :=
  let gb := l.gb.filter fun e => e.stamp == 0 || decide (m.cut < e.stamp)
  { l with gb := gb, oldChunks := l.oldChunks + l.chunks, chunks := gbChunks 0 0 gb, maint := none,
           versions := l.versions.filter fun v => decide (w ≤ v.switch) }

/-- R290 step 4, R275 step 5: once no reader is below W what the new version replaced goes; until then nothing changes. -/
theorem compactionRelease_spec (hl : s.list? list = some l) (hd : s.shard? l.shard = some d) (hc : s.coll? d.coll = some c)
    (hm : l.maint = some m) (hk : m.kind = 0) (hsw : m.switched = some w) :
    (d.drainedBelow w = true →
      ∃ x y, exec (.compactionRelease list t) s = .next x ∧ x.list? list = some y ∧ y.maint = none ∧
        y.versions = l.versions.filter (fun v => decide (w ≤ v.switch)) ∧
        y.gb = l.gb.filter (fun e => e.stamp == 0 || decide (m.cut < e.stamp)) ∧ y.oldChunks = l.oldChunks + l.chunks ∧
        (x.shard? l.shard).map (·.counter) = some d.counter ∧ ∀ i, i ≠ list → x.list? i = s.list? i) ∧
    (d.drainedBelow w = false → exec (.compactionRelease list t) s = .next (s.at t)) := by
  have hls : (s.at t).list? list = some l := hl
  have hds : (s.at t).shard? l.shard = some d := hd
  have hcs : (s.at t).coll? d.coll = some c := hc
  have hid := State.shard?_id hd
  have hx : exec (.compactionRelease list t) s = execCompactionRelease list t s := rfl
  unfold execCompactionRelease at hx
  dsimp only at hx
  rw [hls, Option.bind_some, hds, Option.bind_some, hcs] at hx
  dsimp only at hx
  rw [hm, Option.bind_some, hsw] at hx
  dsimp only at hx
  constructor
  · intro hdr
    rw [if_neg (by simp [hk, hdr])] at hx
    generalize hz : (if gbChunks 0 0 (l.gb.filter fun e => e.stamp == 0 || decide (m.cut < e.stamp)) = 0 then
        (s.at t).release ((s.at t).chargedFn c) .t2 ((l.versions.filter fun v => decide (v.switch < w)).foldl (fun n v => n + v.bytes) 0)
      else _) = z at hx
    have hzf : z = { s.at t with fns := z.fns } := by rw [← hz]; split <;> rfl
    clear hz
    refine ⟨_, l.compacted m w, hx, ?_, rfl, rfl, rfl, rfl, ?_, fun i hi => ?_⟩
    · refine (State.modList_list (s := z) (by intro l; rfl)).trans (congrArg (Option.map _) (?_ : z.list? list = some l))
      rw [hzf]; exact hl
    · have hzd : z.shard? d.id = some d := by rw [hzf]; exact hid ▸ hd
      rw [← hid, State.modShard_shard (by intro d; rfl), State.modList_shard_, hzd]
      rfl
    · refine (State.modList_list?_ne hi (s := z) (by intro l; rfl)).trans ?_
      rw [hzf]; rfl
  · intro hdr
    rw [if_pos (by simp [hdr])] at hx
    exact hx

/-- R275 step 6: while nothing scores, the old chunks and their quota go. -/
theorem guestbookChunkFree_spec (hl : s.list? list = some l) (hd : s.shard? l.shard = some d) (hc : s.coll? d.coll = some c)
    (hold : l.oldChunks ≠ 0) (hidle : ∀ a ∈ s.arbs, a.granted = []) (hfn : s.chargedFn c < s.fns.length) :
    ∃ x, exec (.guestbookChunkFree list) s = .next x ∧ x = { s with lists := x.lists, fns := x.fns } ∧
      x.list? list = some { l with oldChunks := 0 } ∧
      (x.fn (s.chargedFn c)).gbUsed = (s.fn (s.chargedFn c)).gbUsed - 16 * l.oldChunks := by
  have hx : exec (.guestbookChunkFree list) s = execGuestbookChunkFree list s := rfl
  unfold execGuestbookChunkFree at hx
  rw [hl, Option.bind_some, hd, Option.bind_some, hc] at hx
  dsimp only at hx
  rw [if_neg (by
    simp only [Bool.or_eq_true, decide_eq_true_eq, not_or]
    refine ⟨hold, ?_⟩
    rw [List.any_eq_true]
    rintro ⟨a, ha, hg⟩
    rw [hidle a ha] at hg
    cases hg)] at hx
  refine ⟨_, hx, rfl, ?_, ?_⟩
  · exact (State.modList_list (by intro l; rfl)).trans (congrArg (Option.map _) hl)
  · exact congrArg Fn.gbUsed (State.modFn_fn_same hfn (·.release .guestbook (16 * l.oldChunks)))

end

/-- Settles O48: a plan's cut and kind are what the ledger arbiter's turn finds, the write is background work, the switch takes the
next stamp, and the release waits for the last reader below it. -/
theorem compaction : Obligations.Compaction := by
  unfold Obligations.Compaction
  refine ⟨?_, ?_, ?_, ?_⟩
  · intro s list t l d c urgent since w hl hd hc hr hm hst hf hlost hdue hn hw
    exact ⟨compactionPlan_turn hl hd hc hr hm hst hf hlost hdue hn hw, compactionPlan_waits hl hd hc hr hm hst hf hlost hdue hw⟩
  · intro s list t l d c m arbs w u hl hd hc hm hk hcut hsw hdol hlim hpw hw hu harbs
    exact ⟨fun h => (compactionSwitch_held hl hd hc hm hk hcut hsw hdol hlim hpw hu harbs h).1,
      fun h => (compactionSwitch_held hl hd hc hm hk hcut hsw hdol hlim hpw hu harbs h).2,
      compactionSwitch_written hl hd hc hm hk hcut hsw hdol hlim hpw hw hu harbs⟩
  · intro s list t w l d c m hl hd hc hm hk hsw
    exact compactionRelease_spec hl hd hc hm hk hsw
  · intro s list l d c hl hd hc hold hidle hfn
    exact guestbookChunkFree_spec hl hd hc hold hidle hfn

end Sys2Proof.Machine

end

-- ==== Proofs: formation (O51) ====
section
/-! SUPPORT. A formation from its sample to its switch and the release of its buffer (R153, R154, R272). -/

namespace Sys2Proof.Machine

open Sys2Proof

/-! ### Accumulates that wait are applied -/

/-- `x` is `s` after changes of the rows of one shard: its collections, lists and identifiers are as before, and of the shard's record
only slots and row history have changed. -/
structure RowsOnly (s x : State) (shard : Nat) : Prop where
  colls : x.colls = s.colls
  lists : x.lists = s.lists
  shard : ∀ d, s.shard? shard = some d → ∃ e, x.shard? shard = some e ∧ e = { d with slots := e.slots, hist := e.hist }

theorem RowsOnly.refl (s : State) (shard : Nat) : RowsOnly s s shard := ⟨rfl, rfl, fun d h => ⟨d, h, rfl⟩⟩

theorem RowsOnly.trans {s x y : State} {shard : Nat} (h : RowsOnly s x shard) (k : RowsOnly x y shard) : RowsOnly s y shard := by
  refine ⟨k.colls.trans h.colls, k.lists.trans h.lists, fun d hd => ?_⟩
  obtain ⟨e, he, hed⟩ := h.shard d hd
  obtain ⟨g, hg, hge⟩ := k.shard e he
  refine ⟨g, hg, ?_⟩
  rw [hge, hed]

theorem RowsOnly.of_frame {s x : State} {shard : Nat} (hc : x.colls = s.colls) (hl : x.lists = s.lists) (hs : x.shards = s.shards) :
    RowsOnly s x shard := ⟨hc, hl, fun d h => ⟨d, (State.shard?_congr hs shard).trans h, rfl⟩⟩

theorem OnlyCharged.rowsOnly {s x : State} (h : OnlyCharged s x) (shard : Nat) : RowsOnly s x shard :=
  .of_frame (by rw [h]) (by rw [h]) (by rw [h])

theorem State.modShard_rowsOnly (s : State) (shard : Nat) {f : Shard → Shard}
    (hf : ∀ d, f d = { d with slots := (f d).slots, hist := (f d).hist }) : RowsOnly s (s.modShard shard f) shard := by
  refine ⟨rfl, rfl, fun d hd => ⟨f d, ?_, hf d⟩⟩
  rw [State.modShard_shard (by intro d; rw [hf]), hd]; rfl

theorem Sent.rowsOnly {s x : State} (h : Sent s x) (shard : Nat) : RowsOnly s x shard :=
  .of_frame h.colls_eq h.lists_eq h.shards_eq

theorem State.applyAcc_rowsOnly (s : State) (shard slot : Nat) : RowsOnly s (s.applyAcc shard slot) shard := by
  unfold State.applyAcc
  split
  · rename_i d c _ _
    split
    · rename_i e x _ _
      dsimp only
      generalize (if x.lost then none else (e.delta.bind fun dl => accumulated c.spec x.row dl)) = new
      have hmod : ∀ (y : State) (f : Shard → Shard), RowsOnly s y shard → (∀ d, f d = { d with slots := (f d).slots, hist := (f d).hist }) →
          RowsOnly s (y.modShard shard f) shard := fun y f hy hf => hy.trans (State.modShard_rowsOnly y shard hf)
      have hend : ∀ (z : State) (m : MemberMsg) (n st dt : Nat) (f : Engine → Engine), RowsOnly s z shard →
          RowsOnly s ((z.sendOutcome m n st dt).modEng f) shard := fun z m n st dt f hz =>
        (hz.trans ((State.sendOutcome_sent ..).rowsOnly shard)).trans (RowsOnly.of_frame rfl rfl rfl)
      cases new with
      | none =>
        dsimp only
        split
        · exact hend _ _ _ _ _ _ (hmod _ _ (RowsOnly.refl s shard) (by intro d; rfl))
        · exact hmod _ _ (RowsOnly.refl s shard) (by intro d; rfl)
      | some r =>
        have hy := ((State.releaseHome_onlyCharged s c d x.home (rowBytes c.spec x.row) none).trans
          (State.chargeHome_onlyCharged _ c d x.home (rowBytes c.spec r))).rowsOnly shard
        dsimp only
        split
        · exact hend _ _ _ _ _ _ (hmod _ _ hy (by intro d; rfl))
        · exact hmod _ _ hy (by intro d; rfl)
    · exact RowsOnly.refl s shard
  · exact RowsOnly.refl s shard

theorem State.applyAll_rowsOnly (shard slot : Nat) : ∀ (n : Nat) (s : State), RowsOnly s (s.applyAll shard slot n) shard
  | 0, s => RowsOnly.refl s shard
  | n + 1, s => by
    unfold State.applyAll
    split
    · exact RowsOnly.refl s shard
    · exact (State.applyAcc_rowsOnly s shard slot).trans (State.applyAll_rowsOnly shard slot n _)

theorem State.applySlots_rowsOnly (shard : Nat) : ∀ (l : List Nat) (s : State), RowsOnly s (s.applySlots shard l) shard
  | [], s => RowsOnly.refl s shard
  | n :: l, s => (State.applyAll_rowsOnly shard n 65536 s).trans (State.applySlots_rowsOnly shard l _)

/-! ### New lists -/

theorem State.addList_frame (s : State) (c : Coll) (l : LList) : s.addList c l = { s with
    lists := s.lists ++ [l], fns := (s.addList c l).fns, tier := (s.addList c l).tier } := by
  unfold State.addList
  dsimp only
  split <;> split <;> rfl

/-- Lists made one after another: those there were stay as they are and are found as before, and each new one is there. -/
theorem State.addLists_spec {α : Type} (c : Coll) (g : State → α → LList) : ∀ (l : List α) (s : State),
    l.foldl (fun s x => s.addList c (g s x)) s = { s with
      lists := (l.foldl (fun s x => s.addList c (g s x)) s).lists, fns := (l.foldl (fun s x => s.addList c (g s x)) s).fns,
      tier := (l.foldl (fun s x => s.addList c (g s x)) s).tier } ∧
    (∃ more, (l.foldl (fun s x => s.addList c (g s x)) s).lists = s.lists ++ more ∧ ∀ k ∈ more, ∃ z, ∃ a ∈ l, k = g z a) ∧
    ∀ a ∈ l, ∃ z, g z a ∈ (l.foldl (fun s x => s.addList c (g s x)) s).lists
  | [], s => ⟨rfl, ⟨[], by simp⟩, fun _ h => by cases h⟩
  | a :: l, s => by
    obtain ⟨hf, ⟨more, hm, hof⟩, hg⟩ := State.addLists_spec c g l (s.addList c (g s a))
    rw [List.foldl_cons]
    have hs := State.addList_frame s c (g s a)
    have hl : (s.addList c (g s a)).lists = s.lists ++ [g s a] := by rw [hs]
    rw [hl] at hm
    refine ⟨?_, ⟨g s a :: more, by rw [hm]; simp, fun k hk => ?_⟩, fun b hb => ?_⟩
    · rw [hf, hs]
    · rcases List.mem_cons.mp hk with rfl | hk
      · exact ⟨s, a, List.mem_cons_self, rfl⟩
      · obtain ⟨z, b, hb, hkb⟩ := hof k hk
        exact ⟨z, b, List.mem_cons_of_mem _ hb, hkb⟩
    · rcases List.mem_cons.mp hb with rfl | hb
      · exact ⟨s, by rw [hm]; simp⟩
      · exact hg b hb

theorem State.linkLists_mem {s : State} {c : CollSpec} {d : Shard} {ids : List Nat} {z : LList} (hz : z ∈ s.lists) :
    ∃ y ∈ (s.linkLists c d ids).lists, y = { z with neighbours := y.neighbours } := by
  refine ⟨_, List.mem_map_of_mem hz, ?_⟩
  split <;> rfl

/-! ### Training -/

theorem State.freeVectors_spec (p : Nat) : ∀ (n : Nat) (s : State),
    (s.freeVectors p n).2 = { s with free := (s.freeVectors p n).2.free } ∧ (s.freeVectors p n).1.length = n
  | 0, _ => ⟨rfl, rfl⟩
  | n + 1, s => by
    obtain ⟨hf, hl⟩ := State.freeVectors_spec p n s.takeFree.2
    unfold State.freeVectors
    dsimp only
    exact ⟨by rw [hf]; rfl, by rw [List.length_cons, hl]⟩

/-- K-means keeps the number of its centroids. -/
theorem kMeans_length (vs : List (List Int)) : ∀ (n : Nat) (cents : List (List Int)), (kMeans vs n cents).length = cents.length
  | 0, _ => rfl
  | n + 1, cents => by
    unfold kMeans
    rw [kMeans_length vs n]
    simp [lloyd]

/-- What training leaves: the shard has its cut and as many centroids as it is to have; its rows, its readers and who waits at its
ledger arbiter are as before, and so is every list. -/
structure Trained (s x : State) (shard : Nat) (d e : Shard) : Prop where
  frame : x = { s with shards := x.shards, arbs := x.arbs, free := x.free }
  shard : x.shard? shard = some e
  same : e = { d with matrix := e.matrix, centroids := e.centroids, centroidNorms := e.centroidNorms, formCut := e.formCut }
  cut : e.formCut = some (d.formCut.getD d.counter)
  naming : x.naming = s.naming

theorem State.trainShard_spec {s : State} {c : Coll} {d : Shard} (hd : s.shard? d.id = some d) :
    ∃ e, (s.trainShard c d) = { s with shards := (s.trainShard c d).shards, free := (s.trainShard c d).free } ∧
      (s.trainShard c d).shard? d.id = some e ∧
      e = { d with matrix := e.matrix, centroids := e.centroids, centroidNorms := e.centroidNorms, formCut := some d.counter } ∧
      e.centroids.length = d.l1 ∧ e.centroidNorms.length = d.l1 ∧ (s.trainShard c d).naming = s.naming := by
  obtain ⟨hf, hl⟩ := State.freeVectors_spec c.spec.projection d.l1 s
  unfold State.trainShard
  dsimp only
  generalize s.freeVectors c.spec.projection d.l1 = z at hf hl
  obtain ⟨seeds, z⟩ := z
  dsimp only at hf hl ⊢
  generalize (if c.spec.projection = c.spec.dimensions then [] else trainedRows d.sample c.spec.projection) = rows
  have hlen := kMeans_length (d.sample.map (projectFor c.spec rows)) 20 seeds
  generalize kMeans (d.sample.map (projectFor c.spec rows)) 20 seeds = cents at hlen ⊢
  have hz : z.shard? d.id = some d := by rw [hf]; exact hd
  refine ⟨_, by rw [hf]; rfl, (State.modShard_shard (by intro d; rfl)).trans (congrArg (Option.map _) hz), rfl, ?_, ?_, ?_⟩
  · rw [List.length_map, hlen, hl]
  · rw [List.length_map, hlen, hl]
  · rw [hf]
    unfold State.naming State.modShard modWhere
    simp only [List.map_map]
    refine congrArg _ (congrArg _ (List.map_congr_left fun d _ => ?_))
    dsimp only [Function.comp]
    split <;> rfl

/-! ### The switch -/

theorem State.assignAll_frame (c : Coll) (d : Shard) : ∀ (l : List Slot) (s : State),
    (s.assignAll c d l).2 = { s with free := (s.assignAll c d l).2.free }
  | [], _ => rfl
  | x :: l, s => by
    unfold State.assignAll
    dsimp only
    have h1 := (State.scoreL1_spec c.spec fourBit
      { formScan c.spec d.matrix x.id (qValues x.row.groups) (!x.row.lex.isEmpty) false with guestbook := false, epoch := 1 }.groups
      { formScan c.spec d.matrix x.id (qValues x.row.groups) (!x.row.lex.isEmpty) false with guestbook := false, epoch := 1 }.norm d.columns s).1
    rw [State.assignAll_frame c d l]
    dsimp only at h1
    rw [h1]

theorem State.retier_frame (s : State) (c : Coll) (d : Shard) (w : MWork) :
    s.retier c d w = { s with fns := (s.retier c d w).fns, eng := (s.retier c d w).eng } := by
  unfold State.retier
  dsimp only
  cases w.row with
  | some r => dsimp only; split <;> rfl
  | none =>
    dsimp only
    generalize (if w.msg.kind == MemberKind.accumulate then ((w.slot.bind d.slot?).map fun x => rowBytes c.spec x.row).getD 0 else 0) = bytes
    split <;> rfl

theorem State.retiers_frame (c : Coll) (d : Shard) : ∀ (l : List MWork) (s : State),
    ∃ fs e, l.foldl (fun s x => s.retier c d x) s = { s with fns := fs, eng := e }
  | [], s => ⟨s.fns, s.eng, rfl⟩
  | w :: l, s => by
    obtain ⟨fs, e, h⟩ := State.retiers_frame c d l (s.retier c d w)
    exact ⟨fs, e, by rw [List.foldl_cons, h, State.retier_frame]⟩

/-- The list that a formation makes for a level-1 centroid. -/
def formList (c : Coll) (d : Shard) (recs : List (Nat × ScanRec × Nat)) (w : Nat) (s : State) (x : (Nat × List QGroup × Int) × Nat) : LList :=
  let cut := d.formCut.getD d.counter
  let late := fun (r : Nat × ScanRec × Nat) => decide (cut < d.stampOf r.1)
  let own := recs.filter fun r => r.2.2 == x.2
  let pages := fillPages (scanBytes c.spec.projection) ((own.filter fun r => !late r).map (·.2.1)) 0 []
  let gb := (own.filter late).foldl (fun l r => insertEntry ⟨{ r.2.1 with guestbook := true, epoch := 0 }, d.stampOf r.1, s.now⟩ l) []
  let new := { freshList x.1.1 d.id x.2 [] cut w s.homeChannel pages gb with centroid := x.1.2.1, norm := x.1.2.2 }
  let full := decide (c.spec.guestbookEntries < gb.length) || (0 < new.chunks && !(s.fn (s.chargedFn c)).admits .guestbook (16 * new.chunks))
  { new with urgent := full }

/-- The rows of a FORMING shard go to T2, and so do the charges of the members taken in and not stamped. -/
def State.formRows (s : State) (c : Coll) (d : Shard) : State :=
  let rows := (d.slots.filter d.live).foldl (fun n x => n + rowBytes c.spec x.row) 0
  let s := if rows = 0 then s else (s.modFn (s.chargedFn c) (·.charge .t2 rows)).programRows ((rows + 16383) / 16384)
  (s.eng.members.filter fun x => x.msg.shard == d.id).foldl (fun s x => s.retier c d x) s

/-- A shard as its formation leaves it. -/
def Shard.formed (c : Coll) (d : Shard) (w : Nat) (place : Slot → Option Nat) (e : Shard) : Shard :=
  { e with stage := .formed, switchW := some w, training := false, formCut := none,
           bufBytes := (d.slots.filter fun x => x.home == .formation && !x.bit && x.born).foldl (fun n x => n + rowBytes c.spec x.row) 0 +
             d.hist.foldl (fun n e => match e.prior with | some p => if p.2 == .formation then n + rowBytes c.spec p.1 else n | none => n) 0,
           readers := e.readers.filter (·.1 != .formation),
           slots := e.slots.map fun x => match place x with
             | some l => ({ x with row := { x.row with list := l, second := noList }, home := .t2 } : Slot).written c
             | none => x }

/-- A formation's state when its shard has switched, before the neighbour entries of its lists are written. -/
def State.formSwitched (s : State) (c : Coll) (d : Shard) (ids : List Nat) : State :=
  let a := s.assignAll c d (d.slots.filter d.live)
  let z := a.2.takeSwitch d.id
  let y := ((ids.zip (d.centroids.zip d.centroidNorms)).zipIdx).foldl (fun s x => s.addList c (formList c d a.1 z.1 s x)) z.2
  (y.formRows c d).modShard d.id
    (Shard.formed c d z.1 fun x => (a.1.find? (·.1 == x.num)).map fun r => ids.getD r.2.2 noList)

/-- The neighbour entries of a shard's new lists are written. -/
def State.relink (s : State) (c : Coll) (i : Nat) (ids : List Nat) : State := match s.shard? i with
  | some d => s.linkLists c.spec d ids
  | none => s

theorem State.form_eq (s : State) (c : Coll) (d : Shard) (ids : List Nat) : s.form c d ids = (s.formSwitched c d ids).relink c d.id ids := rfl

theorem State.formRows_frame (s : State) (c : Coll) (d : Shard) : s.formRows c d = { s with
    fns := (s.formRows c d).fns, tier := (s.formRows c d).tier, eng := (s.formRows c d).eng } := by
  unfold State.formRows
  dsimp only
  generalize hz : (if (d.slots.filter d.live).foldl (fun n x => n + rowBytes c.spec x.row) 0 = 0 then s else _) = z
  have hzf : z = { s with fns := z.fns, tier := z.tier } := by rw [← hz]; split <;> rfl
  obtain ⟨fs, e, h⟩ := State.retiers_frame c d (z.eng.members.filter fun x => x.msg.shard == d.id) z
  rw [h, hzf]

/-- R153 steps 4 and 5: the lists are made, one for each level-1 centroid, and the shard is FORMED from the stamp that it takes. -/
theorem State.form_spec {s : State} {c : Coll} {d : Shard} {ids : List Nat} (hd : s.shard? d.id = some d) :
    ∃ e, (s.form c d ids).shard? d.id = some e ∧ e.stage = .formed ∧ e.training = false ∧ e.switchW = some (d.counter + 1) ∧
      e.counter = d.counter + 1 ∧ e.centroids = d.centroids ∧ e.readers = d.readers.filter (·.1 != .formation) ∧
      ∀ i id, ids[i]? = some id → i < d.centroids.length → i < d.centroidNorms.length →
        ∃ z ∈ (s.form c d ids).lists, z.id = id ∧ z.shard = d.id ∧ z.l1 = i ∧ z.bornW = d.counter + 1 ∧ z.retiredW = none := by
  have ha := State.assignAll_frame c d (d.slots.filter d.live) s
  have hS : s.formSwitched c d ids = s.formSwitched c d ids := rfl
  conv_rhs at hS => unfold State.formSwitched
  dsimp only at hS
  generalize s.assignAll c d (d.slots.filter d.live) = a at ha hS
  obtain ⟨recs, a⟩ := a
  dsimp only at ha hS
  obtain ⟨hw, hzf, hzs, -⟩ := State.takeSwitch_spec (s := a) (i := d.id) (d := d) (by rw [ha]; exact hd)
  rw [hw] at hS
  generalize (a.takeSwitch d.id).2 = z at hzf hzs hS
  obtain ⟨hyf, -, hyl⟩ := State.addLists_spec c (formList c d recs (d.counter + 1)) ((ids.zip (d.centroids.zip d.centroidNorms)).zipIdx) z
  generalize List.foldl (fun s x => State.addList s c (formList c d recs (d.counter + 1) s x)) z
    ((ids.zip (d.centroids.zip d.centroidNorms)).zipIdx) = y at hyf hyl hS
  have hrf := State.formRows_frame y c d
  generalize y.formRows c d = u at hrf hS
  have hus : u.shard? d.id = some { d with counter := d.counter + 1 } := by rw [hrf, hyf]; exact hzs
  generalize (fun x : Slot => (recs.find? (·.1 == x.num)).map fun r => ids.getD r.2.2 noList) = place at hS
  have hSs : (s.formSwitched c d ids).shard? d.id = some (Shard.formed c d (d.counter + 1) place { d with counter := d.counter + 1 }) := by
    rw [hS, State.modShard_shard (by intro d; rfl), hus]; rfl
  have hSl : (s.formSwitched c d ids).lists = y.lists := by rw [hS]; show u.lists = _; rw [hrf]
  have hform : s.form c d ids = (s.formSwitched c d ids).linkLists c.spec
      (Shard.formed c d (d.counter + 1) place { d with counter := d.counter + 1 }) ids := by
    rw [State.form_eq, State.relink, hSs]
  rw [hform]
  refine ⟨_, hSs, rfl, rfl, rfl, rfl, rfl, rfl, fun i id hid hc hn => ?_⟩
  have hmem : ((id, d.centroids[i], d.centroidNorms[i]), i) ∈ (ids.zip (d.centroids.zip d.centroidNorms)).zipIdx := by
    rw [List.mem_zipIdx_iff_getElem?, List.getElem?_zip_eq_some]
    exact ⟨hid, List.getElem?_zip_eq_some.mpr ⟨List.getElem?_eq_getElem hc, List.getElem?_eq_getElem hn⟩⟩
  obtain ⟨v, hv⟩ := hyl _ hmem
  obtain ⟨k, hk, hke⟩ := State.linkLists_mem (c := c.spec) (ids := ids)
    (d := Shard.formed c d (d.counter + 1) place { d with counter := d.counter + 1 }) (hSl ▸ hv)
  refine ⟨k, hk, ?_, ?_, ?_, ?_, ?_⟩ <;> rw [hke] <;> rfl

/-- Out of its turn a formation waits at the ledger arbiter. -/
theorem State.switchFormation_waits {s : State} {shard : Nat} {d : Shard} (hd : s.shard? shard = some d)
    (ht : d.turn (.pass .formation) = false) :
    s.switchFormation shard = { s with shards := (s.switchFormation shard).shards } ∧ ShardsButWaiting s (s.switchFormation shard) ∧
      LedgerWaits (s.switchFormation shard) [shard] (.pass .formation) :=
  State.passLedgers_one_waits hd ht _

/-- A FORMING shard with its cut, in its turn at the ledger arbiter, is formed. -/
theorem State.switchFormation_turn {s : State} {shard : Nat} {d : Shard} {c : Coll} {ids : List Nat} {v : State} {w : LedgerWhat}
    (hd : s.shard? shard = some d) (hc : s.coll? d.coll = some c) (hids : s.takeLists d.l1 = some (ids, v)) (hw : w = .pass .formation)
    (ht : d.turn w = true) :
    ∃ e, (s.switchFormation shard).shard? shard = some e ∧ e.stage = .formed ∧ e.training = false ∧
      e.switchW = some (d.counter + 1) ∧ e.counter = d.counter + 1 ∧ e.centroids = d.centroids ∧ (∀ y ∈ e.readers, y.1 ≠ .formation) ∧
      ∀ i id, ids[i]? = some id → i < d.centroids.length → i < d.centroidNorms.length →
        ∃ z ∈ (s.switchFormation shard).lists, z.id = id ∧ z.shard = shard ∧ z.l1 = i ∧ z.bornW = d.counter + 1 ∧ z.retiredW = none := by
  subst hw
  obtain rfl := State.shard?_id hd
  have hz := State.leaveLedger_shard? hd (.pass .formation)
  have hzf := State.leaveLedger_frame s (.pass .formation) d.id
  have hzn := State.leaveLedger_naming s (.pass .formation) d.id
  unfold State.switchFormation
  rw [State.passLedgers_one hd ht]
  generalize s.leaveLedger (.pass .formation) d.id = z at hz hzf hzn ⊢
  obtain ⟨u, hu⟩ := State.takeLists_of_naming hzn hids
  obtain ⟨huf, -, -⟩ := State.takeLists_spec hu
  rw [hz, Option.bind_some]
  dsimp only
  rw [hu]
  dsimp only
  have hus : u.shard? d.id = some { d with waiting := d.waiting.filter (·.2 != .pass .formation) } := by rw [huf]; exact hz
  have hrows := State.applySlots_rowsOnly d.id (((u.shard? d.id).map fun d => d.slots.map (·.num)).getD []) u
  generalize u.applySlots d.id (((u.shard? d.id).map fun d => d.slots.map (·.num)).getD []) = y at hrows ⊢
  obtain ⟨e, hys, hee⟩ := hrows.shard _ hus
  have hyc : y.coll? e.coll = some c := by
    have : e.coll = d.coll := by rw [hee]
    rw [this]
    unfold State.coll?
    rw [hrows.colls, huf, hzf]
    exact hc
  rw [hys, Option.bind_some, hyc]
  dsimp only
  have hid : e.id = d.id := by rw [hee]
  have hcnt : e.counter = d.counter := by rw [hee]
  have hcen : e.centroids = d.centroids := by rw [hee]
  have hnor : e.centroidNorms = d.centroidNorms := by rw [hee]
  obtain ⟨g, h1, h2, h3, h4, h5, h6, h7, h8⟩ := State.form_spec (s := y) (c := c) (ids := ids) (hid ▸ hys)
  rw [hid] at h1 h8
  rw [hcnt] at h4 h5 h8
  refine ⟨g, h1, h2, h3, h4, h5, h6.trans hcen, fun r hr => ?_, fun i id hi hl1 hl2 => h8 i id hi (hcen ▸ hl1) (hnor ▸ hl2)⟩
  rw [h7] at hr
  simpa using (List.mem_filter.mp hr).2

/-! ### The commands -/

section
variable {s : State} {shard t : Nat} {d : Shard} {c : Coll} {ids : List Nat} {v : State} {w : LedgerWhat} {arbs : List Nat} {u : Work}

/-- R153 step 1: the sample is taken at the counter when the shard has its vectors, and not before. -/
theorem formationStart_spec (hd : s.shard? shard = some d) (hc : s.coll? d.coll = some c) (hst : d.stage = .forming)
    (htr : d.training = false) (hf : d.forwardTo = none) :
    (formationSize c d ≤ (d.slots.filter d.live).length →
      ∃ x, exec (.formationStart shard) s = .next x ∧ x = { s with shards := x.shards } ∧
        x.shard? shard = some { d with training := true, sampleCut := d.counter, readers := d.readers ++ [(.formation, d.counter)] }) ∧
    ((d.slots.filter d.live).length < formationSize c d → exec (.formationStart shard) s = .next s) := by
  have hx : exec (.formationStart shard) s = execFormationStart shard s := rfl
  unfold execFormationStart at hx
  rw [hd, Option.bind_some, hc] at hx
  dsimp only at hx
  rw [hst, htr, hf] at hx
  constructor
  · intro h
    rw [if_neg (by simpa using h)] at hx
    refine ⟨_, hx, rfl, ?_⟩
    rw [State.modShard_shard (by intro d; rfl), hd]; rfl
  · intro h
    rw [if_pos (by simp [h])] at hx
    exact hx

/-- A formation that nothing holds trains its shard if it has no cut yet, and passes the ledger arbiter once it has. -/
theorem execFormationSwitch_open (hd : s.shard? shard = some d) (hc : s.coll? d.coll = some c) (htr : d.training = true)
    (hdol : s.pwr.doldrums = false) (hlim : s.commitLimit = false) (hany : s.anyWaits = false)
    (hids : s.takeLists d.l1 = some (ids, v)) {x : State} (hx : x = if d.formCut.isSome then s.at t
      else (s.at t).background [tensorArb (s.homeTile shard), 0x80] 0x13 (33554432 + shard) true fun s => s.trainShard c d) :
    exec (.formationSwitch shard t) s =
      .next (if (x.shard? shard).any (·.formCut.isSome) then x.switchFormation shard else x) := by
  have hds : (s.at t).shard? shard = some d := hd
  have hcs : (s.at t).coll? d.coll = some c := hc
  obtain ⟨v', hv⟩ := State.takeLists_of_naming (s := s) (x := s.at t) rfl hids
  have hgo : ¬ (!d.training || (s.at t).pwr.doldrums || (s.at t).commitLimit || (s.at t).anyWaits ||
      ((s.at t).takeLists d.l1).isNone) = true := by
    rw [hv, htr]
    show ¬ (!true || s.pwr.doldrums || s.commitLimit || s.anyWaits || false) = true
    rw [hdol, hlim, hany]; decide
  have he : exec (.formationSwitch shard t) s = execFormationSwitch shard t s := rfl
  unfold execFormationSwitch at he
  dsimp only at he
  rw [hds, Option.bind_some, hcs] at he
  dsimp only at he
  rw [if_neg hgo, show (s.at t).homeTile shard = s.homeTile shard from rfl, ← hx] at he
  rw [he]
  split <;> rfl

/-- R153 steps 2 and 3: the training waits for its turn at the tensor clusters and the coarse field. -/
theorem formationSwitch_held (hd : s.shard? shard = some d) (hc : s.coll? d.coll = some c) (htr : d.training = true)
    (hdol : s.pwr.doldrums = false) (hlim : s.commitLimit = false) (hany : s.anyWaits = false)
    (hids : s.takeLists d.l1 = some (ids, v)) (harbs : arbs = [tensorArb (s.homeTile shard), 0x80])
    (hu : u = .upkeep 0x13 (33554432 + shard)) (hcut : d.formCut = none) (ht : ¬ BackgroundTurn (s.at t) arbs u) :
    ∃ x, exec (.formationSwitch shard t) s = .next x ∧ BackgroundWaits (s.at t) x arbs u := by
  subst harbs hu
  have hx := execFormationSwitch_open (t := t) hd hc htr hdol hlim hany hids rfl
  have hw := State.background_backgroundWaits ht true fun s => s.trainShard c d
  rw [if_neg (by simp [hcut] : ¬ d.formCut.isSome = true)] at hx
  generalize (s.at t).background [tensorArb (s.homeTile shard), 0x80] 0x13 (33554432 + shard) true (fun s => s.trainShard c d) = x at hx hw
  have hs : x.shard? shard = some d := (State.shard?_congr (by rw [hw.1]; rfl) shard).trans hd
  rw [hs, if_neg (by simp [hcut])] at hx
  exact ⟨x, hx, hw⟩

/-- A shard with its cut: trained before, or trained now in its turn. -/
theorem trained_of_turn (hd : s.shard? shard = some d)
    (ht : d.formCut ≠ none ∨ BackgroundTurn (s.at t) arbs (.upkeep 0x13 (33554432 + shard))) :
    ∃ e, Trained (s.at t) (if d.formCut.isSome then s.at t
      else (s.at t).background arbs 0x13 (33554432 + shard) true fun s => s.trainShard c d) shard d e ∧
      ((d.formCut ≠ none → d.centroids.length = d.l1 ∧ d.centroidNorms.length = d.l1) →
        e.centroids.length = d.l1 ∧ e.centroidNorms.length = d.l1) := by
  cases hcut : d.formCut with
  | some n =>
    refine ⟨d, ⟨rfl, hd, rfl, by rw [hcut]; rfl, rfl⟩, fun h => h nofun⟩
  | none =>
    obtain ⟨as, bs, n, hb⟩ := State.background_done (ht.resolve_left fun h => h hcut) true fun s => s.trainShard c d
    obtain rfl := State.shard?_id hd
    obtain ⟨e, h1, h2, h3, h4, h5, h6⟩ := State.trainShard_spec (s := { s.at t with arbs := as }) (c := c) (d := d) hd
    rw [if_neg (by simp), hb]
    refine ⟨e, ⟨by rw [h1], h2, ?_, ?_, h6⟩, fun _ => ⟨h4, h5⟩⟩
    · rw [h3]
    · rw [h3, hcut]; rfl

/-- R153 step 5: with its cut the formation waits for its turn at the ledger arbiter, and in it the shard is FORMED. -/
theorem formationSwitch_cut (hd : s.shard? shard = some d) (hc : s.coll? d.coll = some c) (htr : d.training = true)
    (hdol : s.pwr.doldrums = false) (hlim : s.commitLimit = false) (hany : s.anyWaits = false)
    (hids : s.takeLists d.l1 = some (ids, v)) (hw : w = .pass .formation) (harbs : arbs = [tensorArb (s.homeTile shard), 0x80])
    (hu : u = .upkeep 0x13 (33554432 + shard)) (ht : d.formCut ≠ none ∨ BackgroundTurn (s.at t) arbs u) :
    ∃ x e, exec (.formationSwitch shard t) s = .next x ∧ x.shard? shard = some e ∧
      (d.turn w = false → e.formCut = some (d.formCut.getD d.counter) ∧ e.stage = d.stage ∧ e.counter = d.counter ∧
        LedgerWaits x [shard] w ∧ x.lists = s.lists) ∧
      (d.turn w = true → (d.formCut ≠ none → d.centroids.length = d.l1 ∧ d.centroidNorms.length = d.l1) →
        e.stage = .formed ∧ e.training = false ∧ e.switchW = some (d.counter + 1) ∧ e.counter = d.counter + 1 ∧
        e.centroids.length = d.l1 ∧ (∀ y ∈ e.readers, y.1 ≠ .formation) ∧
        ∀ i id, ids[i]? = some id → ∃ z ∈ x.lists, z.id = id ∧ z.shard = shard ∧ z.l1 = i ∧ z.bornW = d.counter + 1 ∧
          z.retiredW = none) := by
  subst harbs hu
  have hx := execFormationSwitch_open (t := t) hd hc htr hdol hlim hany hids rfl
  obtain ⟨e, hT, hlen⟩ := trained_of_turn (c := c) hd ht
  generalize (if d.formCut.isSome then s.at t else (s.at t).background [tensorArb (s.homeTile shard), 0x80] 0x13 (33554432 + shard) true
    fun s => s.trainShard c d) = y at hx hT
  rw [hT.shard, if_pos (by simp [hT.cut])] at hx
  have hsame := hT.same
  have hturn : e.turn w = d.turn w := by unfold Shard.turn; rw [hsame]
  have hcnt : e.counter = d.counter := by rw [hsame]
  have hl1 : e.l1 = d.l1 := by rw [hsame]
  cases hb : d.turn w with
  | false =>
    subst hw
    obtain ⟨hf, hsb, hlw⟩ := State.switchFormation_waits hT.shard (hturn.trans hb)
    obtain ⟨g, hg, hge⟩ := hsb shard e hT.shard
    refine ⟨_, g, hx, hg, fun _ => ⟨?_, ?_, ?_, hlw, ?_⟩, nofun⟩
    · rw [hge]; exact hT.cut
    · rw [hge, hsame]
    · rw [hge]; exact hcnt
    · rw [hf, hT.frame]; rfl
  | true =>
    obtain ⟨v', hv⟩ := State.takeLists_of_naming (s := s) (x := y) hT.naming hids
    obtain ⟨g, h1, h2, h3, h4, h5, h6, h7, h8⟩ := State.switchFormation_turn (c := c) hT.shard (by
      rw [show e.coll = d.coll by rw [hsame], hT.frame]; exact hc) (hl1 ▸ hv) hw (hturn.trans hb)
    refine ⟨_, g, hx, h1, nofun, fun _ hlen' => ?_⟩
    obtain ⟨hc1, hc2⟩ := hlen hlen'
    rw [hcnt] at h4 h5 h8
    refine ⟨h2, h3, h4, h5, by rw [h6, hc1], h7, fun i id hi => ?_⟩
    have hlt : i < d.l1 := by
      obtain ⟨-, hn, -⟩ := State.takeLists_spec hids
      rw [← hn]
      exact (List.getElem?_eq_some_iff.mp hi).1
    exact h8 i id hi (hc1 ▸ hlt) (hc2 ▸ hlt)

/-- R153 step 6: the buffer goes once no reader is below W, and not before. -/
theorem formationBufferRelease_spec {w : Nat} (hd : s.shard? shard = some d) (hc : s.coll? d.coll = some c) (hsw : d.switchW = some w)
    (hbuf : d.buffer = true) (hfn : s.chargedFn c < s.fns.length) :
    (d.drainedBelow w = true →
      ∃ x, exec (.formationBufferRelease shard) s = .next x ∧ x = { s with shards := x.shards, fns := x.fns } ∧
        x.shard? shard = some { d with buffer := false, bufBytes := 0 } ∧
        (x.fn (s.chargedFn c)).t1Used = (s.fn (s.chargedFn c)).t1Used - d.bufBytes) ∧
    (d.drainedBelow w = false → exec (.formationBufferRelease shard) s = .next s) := by
  have hx : exec (.formationBufferRelease shard) s = execFormationBufferRelease shard s := rfl
  unfold execFormationBufferRelease at hx
  rw [hd, Option.bind_some, hc] at hx
  dsimp only at hx
  rw [hsw] at hx
  dsimp only at hx
  constructor
  · intro h
    rw [if_neg (by simp [hbuf, h])] at hx
    refine ⟨_, hx, rfl, ?_, congrArg Fn.t1Used (State.modFn_fn_same hfn (·.release .t1 d.bufBytes))⟩
    rw [State.modShard_shard (by intro d; rfl)]
    exact congrArg (Option.map _) hd
  · intro h
    rw [if_pos (by simp [h])] at hx
    exact hx

end

/-- Settles O51: the training leaves a cut and as many centroids as the shard is to have, and the switch in the ledger arbiter's turn
makes a list for each of them. -/
theorem formation : Obligations.Formation := by
  unfold Obligations.Formation
  refine ⟨?_, ?_, ?_⟩
  · intro s shard d c hd hc hst htr hf
    exact formationStart_spec hd hc hst htr hf
  · intro s shard t d c ids v w arbs u hd hc htr hdol hlim hany hids hw harbs hu
    exact ⟨formationSwitch_held hd hc htr hdol hlim hany hids harbs hu,
      formationSwitch_cut hd hc htr hdol hlim hany hids hw harbs hu⟩
  · intro s shard w d c hd hc hsw hbuf hfn
    exact formationBufferRelease_spec hd hc hsw hbuf hfn

end Sys2Proof.Machine

end

-- ==== Proofs: splits and merges (O49) ====
section
/-! SUPPORT. A split or merge from its plan to the release of the lists that it replaced, and the repair of a shard's graph (R292 to
R296). -/

namespace Sys2Proof.Machine

open Sys2Proof

/-! ### The steps of a switch, named -/

/-- The lists that a maintenance replaces: its own and, in a merge, its partner. -/
def State.oldLists (s : State) (l : LList) (m : Maint) : List LList := (l.id :: m.partner.toList).filterMap s.list?

/-- The new list that a record goes to: the one whose sub-centroid is nearest. -/
def sideOf (ids : List Nat) (subs : List (List Int)) (r : ScanRec) : Nat :=
  ids.getD (nearest (subs.map fun v => qValues (sq4 v)) (qValues r.groups)) 0

/-- A list that a split or merge makes. -/
def splitList (c : Coll) (d : Shard) (l : LList) (m : Maint) (olds : List LList) (ids : List Nat) (subs : List (List Int)) (w : Nat)
    (s : State) (x : Nat × List Int) : LList :=
  let recs := versionRecords 1 (olds.flatMap fun l => d.keeps l m.cut)
  let moved := fun (e : GbEntry) => e.stamp == 0 || decide (m.cut < e.stamp)
  let ents := olds.flatMap fun l => l.gb.filter moved
  let pages := fillPages (scanBytes c.spec.projection) (recs.filter fun r => sideOf ids subs r == x.1) 0 []
  let new := freshList x.1 d.id l.l1 x.2 m.cut w s.homeChannel pages (ents.filter fun e => sideOf ids subs e.scan == x.1)
  { new with degraded := olds.any (·.degraded) }

/-- A list retired at a stamp, with its successors. -/
def LList.retire (w : Nat) (ids : List Nat) (l : LList) : LList :=
  { l with retiredW := some w, successors := ids, gb := l.gb.filter fun e => e.stamp != 0,
           maint := l.maint.map fun m => { m with switched := some w } }

/-- Members that waited for the switch ask for their assignment again, and those on their way go to the new lists. -/
def State.splitMembers (s : State) (d : Shard) (gone ids : List Nat) (side : ScanRec → Nat) : State :=
  let held := s.eng.members.filter fun x => x.stage == .waitSplit && x.lists.any gone.contains
  let mine := fun (x : MWork) => x.msg.shard == d.id && x.stage != .stamped && x.stage != .finished
  let s := s.modEng fun e =>
    { e with members := modWhere e.members mine fun x =>
      { x with lists := (x.lists.map fun i => if gone.contains i then
          (match x.scan with | some r => side r | none => ids.headD 0) else i).eraseDups } }
  held.foldl (fun s x => s.askAssignment x.msg.key x.msg.index) s

/-- Steps 2 to 6 of a split or merge once it has its list identifiers. -/
def State.splitTo (s : State) (c : Coll) (d : Shard) (l : LList) (m : Maint) (olds : List LList) (ids : List Nat) : State :=
  let a := s.newCentroids c.spec.projection d olds m
  let z := a.2.takeSwitch d.id
  let y := (ids.zip a.1).foldl (fun s x => s.addList c (splitList c d l m olds ids a.1 z.1 s x)) z.2
  let u : State := { y with lists := modWhere y.lists (fun l => (olds.map (·.id)).contains l.id) (LList.retire z.1 ids) }
  ((u.linkLists c.spec d ids).dropReader d.id (.maint l.id)).splitMembers d (olds.map (·.id)) ids (sideOf ids a.1)

theorem State.splitMerge_room {s v : State} {c : Coll} {d : Shard} {l : LList} {m : Maint} {ids : List Nat}
    (hroom : m.kind = 1 → s.headsOf l < 1024) (h : s.takeLists (if m.kind = 1 then 2 else 1) = some (ids, v)) :
    s.splitMerge c d l m = v.splitTo c d l m (s.oldLists l m) ids := by
  have hr : ¬ (m.kind = 1 && decide (1024 ≤ s.headsOf l)) = true := by
    simp only [Bool.and_eq_true, decide_eq_true_eq, not_and, not_le]
    exact hroom
  unfold State.splitMerge
  dsimp only
  rw [if_neg hr, h]
  rfl

/-- With no room under its level-1 centroid a split is a compaction again. -/
theorem State.splitMerge_full {s : State} {c : Coll} {d : Shard} {l : LList} {m : Maint} (hk : m.kind = 1) (h : 1024 ≤ s.headsOf l) :
    s.splitMerge c d l m = s.asCompaction l m := by
  unfold State.splitMerge
  dsimp only
  rw [if_pos (by simp [hk, h])]

/-! ### What the new lists and the old ones are -/

theorem splitCentroids_length {l : LList} {vs out : List (List Int)} (h : splitCentroids l vs = some out) : out.length = 2 := by
  unfold splitCentroids at h
  cases ha : farthestFrom (qValues l.centroid) vs with
  | none => rw [ha] at h; cases h
  | some a =>
    rw [ha] at h
    cases hb : farthestFrom a vs with
    | none => simp [hb] at h
    | some b =>
      simp only [bind, Option.bind_some, hb, pure, Option.some.injEq] at h
      rw [← h, kMeans_length]; rfl

/-- As many sub-centroids as lists are made; nothing but the free values has changed. -/
theorem State.newCentroids_spec (s : State) (p : Nat) (d : Shard) (olds : List LList) (m : Maint) :
    (s.newCentroids p d olds m).2 = { s with free := (s.newCentroids p d olds m).2.free } ∧
      (s.newCentroids p d olds m).1.length = if m.kind = 1 then 2 else 1 := by
  unfold State.newCentroids
  dsimp only
  split
  · rename_i vs h
    refine ⟨rfl, ?_⟩
    split at h
    · rename_i hk; rw [if_pos hk]; exact splitCentroids_length h
    · rename_i hk
      rw [if_neg hk]
      obtain ⟨v, -, rfl⟩ := Option.map_eq_some_iff.mp h
      rfl
  · exact ⟨(State.freeVectors_spec ..).1, (State.freeVectors_spec ..).2⟩

theorem State.splitMembers_goesOn (s : State) (d : Shard) (gone ids : List Nat) (side : ScanRec → Nat) :
    (s.splitMembers d gone ids side).lists = s.lists ∧
      ∀ e, s.shard? d.id = some e → ∃ g, (s.splitMembers d gone ids side).shard? d.id = some g ∧ g.counter = e.counter := by
  have hfold : ∀ (l : List MWork) (z : State), GoesOn z (l.foldl (fun s x => s.askAssignment x.msg.key x.msg.index) z) := by
    intro l
    induction l with
    | nil => exact GoesOn.refl
    | cons x l ih => exact fun z => GoesOn.trans _ _ _ (State.askAssignment_goesOn z _ _) (ih _)
  unfold State.splitMembers
  dsimp only
  generalize hz : State.modEng s _ = z
  have hzl : z.lists = s.lists := by rw [← hz]; rfl
  have hzs : z.shards = s.shards := by rw [← hz]; rfl
  have h := hfold (s.eng.members.filter fun x => x.stage == .waitSplit && x.lists.any gone.contains) z
  refine ⟨h.lists_eq.trans hzl, fun e he => ?_⟩
  obtain ⟨g, new, hg, hge⟩ := h.shards d.id e ((State.shard?_congr hzs _).trans he)
  exact ⟨g, hg, by rw [hge]⟩

/-- Lists added under other identifiers hide none of those there were. -/
theorem find?_append_other {l more : List LList} {i : Nat} (h : ∀ k ∈ more, k.id ≠ i) :
    (l ++ more).find? (·.id == i) = l.find? (·.id == i) := by
  rw [List.find?_append, List.find?_eq_none (l := more).mpr (by intro k hk; simpa using h k hk), Option.or_none]

/-- R294 step 5: what the lists and the shard are after a switch. -/
theorem State.splitTo_spec {v : State} {c : Coll} {d : Shard} {l : LList} {m : Maint} {olds : List LList} {ids : List Nat}
    (hd : v.shard? d.id = some d) (hlen : ids.length = if m.kind = 1 then 2 else 1) :
    ((v.splitTo c d l m olds ids).shard? d.id).map (·.counter) = some (d.counter + 1) ∧
    (∀ i, i ∉ ids → v.list? i = none → (v.splitTo c d l m olds ids).list? i = none) ∧
    (∀ i k, i ∉ ids → i ∈ olds.map (·.id) → v.list? i = some k →
      ∃ y, (v.splitTo c d l m olds ids).list? i = some y ∧ y.retiredW = some (d.counter + 1) ∧ y.successors = ids) ∧
    ∀ i ∈ ids, i ∉ olds.map (·.id) → ∃ z ∈ (v.splitTo c d l m olds ids).lists,
      z.id = i ∧ z.shard = d.id ∧ z.bornW = d.counter + 1 ∧ z.retiredW = none ∧ z.l1 = l.l1 := by
  obtain ⟨haf, hal⟩ := State.newCentroids_spec v c.spec.projection d olds m
  have hx : v.splitTo c d l m olds ids = v.splitTo c d l m olds ids := rfl
  conv_rhs at hx => unfold State.splitTo
  dsimp only at hx
  generalize v.newCentroids c.spec.projection d olds m = a at haf hal hx
  obtain ⟨subs, a⟩ := a
  dsimp only at haf hal hx
  obtain ⟨hw, hzf, hzs, -⟩ := State.takeSwitch_spec (s := a) (i := d.id) (d := d) (by rw [haf]; exact hd)
  rw [hw] at hx
  generalize (a.takeSwitch d.id).2 = z at hzf hzs hx
  obtain ⟨hyf, ⟨more, hm, hof⟩, hnew⟩ := State.addLists_spec c (splitList c d l m olds ids subs (d.counter + 1)) (ids.zip subs) z
  generalize List.foldl (fun s x => State.addList s c (splitList c d l m olds ids subs (d.counter + 1) s x)) z (ids.zip subs) = y
    at hyf hm hnew hx
  generalize hu : ({ y with lists := modWhere y.lists (fun l => (olds.map (·.id)).contains l.id) (LList.retire (d.counter + 1) ids) } : State) = u
    at hx
  have hzl : z.lists = v.lists := by rw [hzf, haf]
  have hus : u.shard? d.id = some { d with counter := d.counter + 1 } := by rw [← hu, hyf]; exact hzs
  obtain ⟨hxl, hxs⟩ := State.splitMembers_goesOn ((u.linkLists c.spec d ids).dropReader d.id (.maint l.id)) d (olds.map (·.id)) ids
    (sideOf ids subs)
  rw [← hx] at hxl hxs
  -- a list that is found is retired where it is replaced, and may have its neighbours written anew
  have hlist : ∀ i, i ∉ ids → (v.splitTo c d l m olds ids).list? i = (v.list? i).map fun k =>
      (fun k : LList => if ids.contains k.id then { k with neighbours := u.nearLists c.spec d k } else k)
        (if (olds.map (·.id)).contains k.id then k.retire (d.counter + 1) ids else k) := by
    intro i hi
    have h1 : y.list? i = v.list? i := by
      unfold State.list?
      rw [hm, hzl]
      refine find?_append_other fun k hk hki => ?_
      obtain ⟨z', b, hb, hkb⟩ := hof k hk
      have : k.id = b.1 := by rw [hkb]; rfl
      exact hi (hki ▸ this ▸ (List.of_mem_zip hb).1)
    have h2 : u.list? i = (v.list? i).map fun k => if (olds.map (·.id)).contains k.id then k.retire (d.counter + 1) ids else k := by
      rw [← h1]
      exact State.list?_modWhere (s := y) (x := u) (by rw [← hu]) (by intro k; rfl) i
    rw [State.list?_congr (x := v.splitTo c d l m olds ids) (s := u.linkLists c.spec d ids) hxl,
      State.list?_modWhere (s := u) (x := u.linkLists c.spec d ids) rfl (by intro k; rfl), h2, Option.map_map]
    rfl
  refine ⟨?_, fun i hi hn => ?_, fun i k hi hg hk => ?_, fun i hi hg => ?_⟩
  · obtain ⟨g, hg, hgc⟩ := hxs ({ d with counter := d.counter + 1, readers := d.readers.filter (·.1 != .maint l.id) } : Shard) (by
      rw [State.dropReader, State.modShard_shard (by intro d; rfl)]
      exact congrArg (Option.map _) hus)
    rw [hg, Option.map_some, hgc]
  · rw [hlist i hi, hn]; rfl
  · rw [hlist i hi, hk]
    have hkg : (olds.map (·.id)).contains k.id = true := by rw [State.list?_id hk]; simpa using hg
    refine ⟨_, rfl, ?_, ?_⟩
    · dsimp only; rw [if_pos hkg]; split <;> rfl
    · dsimp only; rw [if_pos hkg]; split <;> rfl
  · obtain ⟨n, hn, rfl⟩ := List.getElem_of_mem hi
    have hns : n < subs.length := by rw [hal, ← hlen]; exact hn
    have hmem : (ids[n], subs[n]) ∈ ids.zip subs := by
      have := List.getElem_mem (l := ids.zip subs) (n := n) (by simp [hn, hns])
      simpa using this
    obtain ⟨z', hz'⟩ := hnew _ hmem
    have huz : splitList c d l m olds ids subs (d.counter + 1) z' (ids[n], subs[n]) ∈ u.lists := by
      rw [← hu]
      refine List.mem_map.mpr ⟨_, hz', if_neg ?_⟩
      change ¬ (olds.map (·.id)).contains ids[n] = true
      simpa using hg
    obtain ⟨k, hk, hke⟩ := State.linkLists_mem (c := c.spec) (d := d) (ids := ids) huz
    refine ⟨k, hxl ▸ hk, ?_, ?_, ?_, ?_, ?_⟩ <;> rw [hke] <;> rfl

/-! ### The commands -/

/-- R292: every 10 s, and not before, the visible records are counted. -/
theorem listLengthTick_spec {s : State} {shard : Nat} {d : Shard} (t : Nat) (hd : s.shard? shard = some d) :
    (d.lenAt + 10 * Config.ticksPerS ≤ (s.at t).now →
      ∃ x, exec (.listLengthTick shard t) s = .next x ∧ x = { s.at t with shards := x.shards } ∧
        ∃ n, x.shard? shard = some { d with lenAt := (s.at t).now, meanRecords := n, meanLists := (s.liveLists shard).length } ∧
          n = (s.liveLists shard).foldl (fun n l => n + (d.keeps l d.counter).length) 0) ∧
    ((s.at t).now < d.lenAt + 10 * Config.ticksPerS → exec (.listLengthTick shard t) s = .next (s.at t)) := by
  have hx : exec (.listLengthTick shard t) s = execListLengthTick shard t s := rfl
  unfold execListLengthTick at hx
  dsimp only at hx
  rw [show (s.at t).shard? shard = some d from hd] at hx
  dsimp only at hx
  constructor
  · intro h
    rw [if_neg (by omega)] at hx
    refine ⟨_, hx, rfl, _, ?_, rfl⟩
    rw [State.modShard_shard (by intro d; rfl)]
    exact congrArg (Option.map _) hd
  · intro h
    rw [if_pos h] at hx
    exact hx

section
variable {s : State} {list t : Nat} {l : LList} {d : Shard} {c : Coll} {m : Maint} {arbs : List Nat} {w : LedgerWhat} {u : Work}

/-- A split or merge with its cut, when nothing holds its programs, takes its next step. -/
theorem execSplitMergeSwitch_open (hl : s.list? list = some l) (hd : s.shard? l.shard = some d) (hc : s.coll? d.coll = some c)
    (hm : l.maint = some m) (hk : m.kind = 1 ∨ m.kind = 2) (hcut : m.cut ≠ 0) (hsw : m.switched = none) (hdol : s.pwr.doldrums = false)
    (hlim : s.commitLimit = false) (hpw : s.programsWait s.homeChannel = false) :
    exec (.splitMergeSwitch list t) s = .next (
      if m.written = false then (s.at t).writeMaint l m 0x13 (s.writeArbs l ++ [tensorArb (s.homeTile list), 0x80])
      else if l.closed = false then { s.at t with
        lists := modWhere s.lists (fun x => x.id == list || some x.id == m.partner) fun l => { l with closed := true } }
      else (s.at t).switchMaint list d.id State.splitMerge) := by
  have ho : (s.at t).listOf list = some (l, d, c) := State.listOf_some (s := s.at t) hl hd hc
  have hgo : ¬ ((s.at t).pwr.doldrums || (s.at t).commitLimit || (s.at t).programsWait (s.at t).homeChannel) = true := by
    show ¬ (s.pwr.doldrums || s.commitLimit || s.programsWait s.homeChannel) = true
    rw [hdol, hlim, hpw]; decide
  have hx : exec (.splitMergeSwitch list t) s = execSplitMergeSwitch list t s := rfl
  unfold execSplitMergeSwitch at hx
  dsimp only at hx
  rw [ho] at hx
  dsimp only at hx
  rw [hm] at hx
  dsimp only at hx
  rw [if_neg (by simp only [hcut, hsw]; rcases hk with h | h <;> simp [h]), if_neg hgo] at hx
  rw [hx]
  cases hw : m.written with
  | false => rfl
  | true => cases hcl : l.closed <;> rfl

variable (hl : s.list? list = some l) (hd : s.shard? l.shard = some d) (hc : s.coll? d.coll = some c)
  (hm : l.maint = some m) (hk : m.kind = 1 ∨ m.kind = 2) (hcut : m.cut ≠ 0) (hsw : m.switched = none) (hdol : s.pwr.doldrums = false)
  (hlim : s.commitLimit = false) (hpw : s.programsWait s.homeChannel = false)
include hl hd hc hm hk hcut hsw hdol hlim hpw

/-- R294 steps 2 and 3: the new lists are made as background work, when no other plan runs first. -/
theorem splitMergeSwitch_write (hu : u = .upkeep 0x13 list) (harbs : arbs = s.writeArbs l ++ [tensorArb (s.homeTile list), 0x80])
    (hwr : m.written = false) :
    (s.planBefore l m = true → exec (.splitMergeSwitch list t) s = .next (s.at t)) ∧
    (s.planBefore l m = false → ¬ BackgroundTurn (s.at t) arbs u →
      ∃ x, exec (.splitMergeSwitch list t) s = .next x ∧ BackgroundWaits (s.at t) x arbs u) ∧
    (s.planBefore l m = false → BackgroundTurn (s.at t) arbs u →
      ∃ x, exec (.splitMergeSwitch list t) s = .next x ∧ x.list? list = some { l with maint := some { m with written := true } } ∧
        (∀ i, i ≠ list → x.list? i = s.list? i) ∧ x.shards = s.shards) := by
  have hx := execSplitMergeSwitch_open (t := t) hl hd hc hm hk hcut hsw hdol hlim hpw
  obtain rfl := State.list?_id hl
  subst hu harbs
  rw [if_pos hwr] at hx
  refine ⟨fun hb => ?_, fun hb ht => ⟨_, hx, State.writeMaint_waits (s := s.at t) hb ht⟩, fun hb ht => ?_⟩
  · rw [State.writeMaint_before (s := s.at t) hb] at hx; exact hx
  · obtain ⟨hf, h1, h2⟩ := State.writeMaint_done (s := s.at t) hb ht hl hm
    exact ⟨_, hx, h1, h2, by rw [hf]; rfl⟩

/-- R294 step 4: then the list and its partner are closed to assignment. -/
theorem splitMergeSwitch_close (hwr : m.written = true) (hcl : l.closed = false) :
    ∃ x, exec (.splitMergeSwitch list t) s = .next x ∧ x = { s.at t with lists := x.lists } ∧
      x.list? list = some { l with closed := true } ∧
      ∀ i y, m.partner = some i → s.list? i = some y → x.list? i = some { y with closed := true } := by
  have hx := execSplitMergeSwitch_open (t := t) hl hd hc hm hk hcut hsw hdol hlim hpw
  rw [if_neg (by simp [hwr]), if_pos hcl] at hx
  have hlist : ∀ i y, s.list? i = some y → (i = list ∨ m.partner = some i) →
      State.list? { s.at t with
        lists := modWhere s.lists (fun x => x.id == list || some x.id == m.partner) fun l => { l with closed := true } } i =
        some { y with closed := true } := by
    intro i y hy hi
    rw [State.list?_modWhere (s := s) rfl (by intro l; rfl), hy, Option.map_some, State.list?_id hy, if_pos]
    rcases hi with rfl | h
    · simp
    · simp [h]
  exact ⟨_, hx, rfl, hlist list l hl (.inl rfl), fun i y hp hy => hlist i y hy (.inr hp)⟩

/-- R294 step 5: out of its turn at the ledger arbiter the switch waits there. -/
theorem splitMergeSwitch_waits (hw : w = .pass (.maint list)) (hwr : m.written = true) (hcl : l.closed = true) (ht : d.turn w = false) :
    ∃ x, exec (.splitMergeSwitch list t) s = .next x ∧ x = { s.at t with shards := x.shards } ∧ ShardsButWaiting s x ∧
      LedgerWaits x [d.id] w := by
  subst hw
  have hx := execSplitMergeSwitch_open (t := t) hl hd hc hm hk hcut hsw hdol hlim hpw
  rw [if_neg (by simp [hwr]), if_neg (by simp [hcl])] at hx
  have hds : (s.at t).shard? d.id = some d := (State.shard?_id hd) ▸ hd
  obtain ⟨hf, hb, hlw⟩ := State.switchMaint_waits hds ht State.splitMerge
  exact ⟨_, hx, hf, hb, hlw⟩

/-- In its turn there the switch is made, from the state it has left the arbiter in. -/
theorem splitMergeSwitch_turn (hw : w = .pass (.maint list)) (hwr : m.written = true) (hcl : l.closed = true) (ht : d.turn w = true) :
    ∃ z : State, z = { s.at t with shards := z.shards, arbs := z.arbs } ∧ z.naming = s.naming ∧
      z.shard? d.id = some { d with waiting := d.waiting.filter (·.2 != w) } ∧
      exec (.splitMergeSwitch list t) s = .next (z.splitMerge c { d with waiting := d.waiting.filter (·.2 != w) } l m) := by
  subst hw
  have hx := execSplitMergeSwitch_open (t := t) hl hd hc hm hk hcut hsw hdol hlim hpw
  rw [if_neg (by simp [hwr]), if_neg (by simp [hcl])] at hx
  have hid := State.shard?_id hd
  have hds : (s.at t).shard? d.id = some d := hid ▸ hd
  rw [State.switchMaint_turn (s := s.at t) hl hid.symm hds hc hm ht] at hx
  exact ⟨_, State.leaveLedger_frame .., State.leaveLedger_naming (s.at t) _ _, State.leaveLedger_shard? hds _, hx⟩

/-- R268, R292: a split for which its level-1 centroid has no room is a compaction again, and takes no stamp. -/
theorem splitMergeSwitch_full (hw : w = .pass (.maint list)) (hwr : m.written = true) (hcl : l.closed = true) (ht : d.turn w = true)
    (hkind : m.kind = 1) (hheads : 1024 ≤ s.headsOf l) (hp : m.partner = none) :
    ∃ x, exec (.splitMergeSwitch list t) s = .next x ∧ (x.shard? l.shard).map (·.counter) = some d.counter ∧
      x.list? list = some { l with closed := false, maint := some { m with kind := 0, partner := none, written := false } } := by
  obtain ⟨z, hzf, -, hzs, hx⟩ := splitMergeSwitch_turn (t := t) hl hd hc hm hk hcut hsw hdol hlim hpw hw hwr hcl ht
  rw [State.splitMerge_full hkind (by rw [hzf]; exact hheads)] at hx
  obtain rfl := State.list?_id hl
  have ha : z.asCompaction l m = z.modList l.id fun l => { l with closed := false, maint := some { m with kind := 0, partner := none, written := false } } := by
    unfold State.asCompaction; rw [hp]
  rw [ha] at hx
  refine ⟨_, hx, ?_, ?_⟩
  · rw [State.modList_shard_, ← State.shard?_id hd, hzs]; rfl
  · rw [State.modList_list (by intro l; rfl), hzf]
    exact congrArg (Option.map _) hl

/-- R294 step 5, R295: with its identifiers the switch takes W, retires the lists it replaces and makes their successors. -/
theorem splitMergeSwitch_done {ids : List Nat} {v : State} (hw : w = .pass (.maint list)) (hwr : m.written = true) (hcl : l.closed = true)
    (ht : d.turn w = true) (hroom : m.kind = 1 → s.headsOf l < 1024) (hids : s.takeLists (if m.kind = 1 then 2 else 1) = some (ids, v))
    (hown : list ∉ ids) (hpart : ∀ i, m.partner = some i → i ∉ ids) :
    ∃ x y, exec (.splitMergeSwitch list t) s = .next x ∧ x.list? list = some y ∧ y.retiredW = some (d.counter + 1) ∧
      y.successors = ids ∧ (x.shard? l.shard).map (·.counter) = some (d.counter + 1) ∧
      (∀ i z, m.partner = some i → x.list? i = some z → z.retiredW = some (d.counter + 1) ∧ z.successors = ids) ∧
      ∀ i ∈ ids, ∃ z ∈ x.lists, z.id = i ∧ z.shard = l.shard ∧ z.bornW = d.counter + 1 ∧ z.retiredW = none ∧ z.l1 = l.l1 := by
  obtain ⟨z, hzf, hzn, hzs, hx⟩ := splitMergeSwitch_turn (t := t) hl hd hc hm hk hcut hsw hdol hlim hpw hw hwr hcl ht
  obtain rfl := State.list?_id hl
  have hid := State.shard?_id hd
  have hzl : ∀ i, z.list? i = s.list? i := State.list?_congr (by rw [hzf]; rfl)
  obtain ⟨v', hv⟩ := State.takeLists_of_naming hzn hids
  obtain ⟨hvf, hlen, hvl⟩ := State.takeLists_spec hv
  rw [State.splitMerge_room (by rw [hzf]; exact hroom) hv] at hx
  generalize hd' : ({ d with waiting := d.waiting.filter (·.2 != w) } : Shard) = e at hzs hx
  have heid : e.id = d.id := by rw [← hd']
  have hec : e.counter = d.counter := by rw [← hd']
  obtain ⟨h1, h2, h3, h4⟩ := State.splitTo_spec (v := v') (c := c) (d := e) (l := l) (m := m) (olds := z.oldLists l m) (ids := ids)
    (by rw [heid]; refine (State.shard?_congr (by rw [hvf]) _).trans hzs) hlen
  rw [hec] at h1 h3 h4
  rw [heid, hid] at h1 h4
  -- the lists that are replaced: the list's own and its partner, where it is found
  have hgone : ∀ i, i ∈ (z.oldLists l m).map (·.id) ↔ (i = l.id ∨ m.partner = some i) ∧ (s.list? i).isSome = true := by
    intro i
    simp only [State.oldLists, List.mem_map, List.mem_filterMap, List.mem_cons, Option.mem_toList]
    constructor
    · rintro ⟨k, ⟨j, hj, hk⟩, rfl⟩
      rw [hzl] at hk
      obtain rfl := State.list?_id hk
      exact ⟨hj, by rw [hk]; rfl⟩
    · rintro ⟨hi, hs⟩
      obtain ⟨k, hk⟩ := Option.isSome_iff_exists.mp hs
      exact ⟨k, ⟨i, hi, (hzl i).trans hk⟩, State.list?_id hk⟩
  obtain ⟨y, hy, hy1, hy2⟩ := h3 l.id l hown ((hgone l.id).mpr ⟨.inl rfl, by rw [hl]; rfl⟩) ((hvl _ hown).trans ((hzl _).trans hl))
  refine ⟨_, y, hx, hy, hy1, hy2, h1, fun i k hp hk => ?_, fun i hi => ?_⟩
  · have hi := hpart i hp
    cases hs : s.list? i with
    | none => rw [h2 i hi ((hvl i hi).trans ((hzl i).trans hs))] at hk; cases hk
    | some q =>
      obtain ⟨r, hr, hr1, hr2⟩ := h3 i q hi ((hgone i).mpr ⟨.inr hp, by rw [hs]; rfl⟩) ((hvl i hi).trans ((hzl i).trans hs))
      rw [hr] at hk
      obtain rfl := Option.some.inj hk
      exact ⟨hr1, hr2⟩
  · refine h4 i hi fun hg => ?_
    rcases ((hgone i).mp hg).1 with rfl | hp
    · exact hown hi
    · exact hpart i hp hi

end

/-- R294 step 7: a retired list that no reader needs gives up what it holds and its identifier. -/
theorem splitMergeRelease_spec {s : State} {list w : Nat} {l : LList} {d : Shard} {c : Coll} (hl : s.list? list = some l)
    (hd : s.shard? l.shard = some d) (hc : s.coll? d.coll = some c) (hr : l.retiredW = some w) (hdr : d.drainedBelow w = true)
    (hm : l.maint ≠ none) :
    ∃ x y, exec (.splitMergeRelease list) s = .next x ∧ x = { s with lists := x.lists, fns := x.fns, tier := x.tier } ∧
      x.list? list = some y ∧ y.versions = [] ∧ y.gb = [] ∧ y.maint = none ∧ y.retiredW = some w ∧ y.successors = l.successors ∧
      x.tier.freeLists = s.tier.freeLists ++ [list] ∧ ∀ i, i ≠ list → x.list? i = s.list? i := by
  have hx : exec (.splitMergeRelease list) s = execSplitMergeRelease list s := rfl
  unfold execSplitMergeRelease at hx
  rw [hl, Option.bind_some, hd, Option.bind_some, hc] at hx
  dsimp only at hx
  rw [hr] at hx
  dsimp only at hx
  rw [if_neg (by simp [hdr, hm])] at hx
  generalize hz : ((s.release (s.chargedFn c) .t2 (l.versions.foldl (fun n v => n + v.bytes) 0)).release (s.chargedFn c) .guestbook
    (16 * (l.chunks + l.oldChunks))) = z at hx
  have hzf : z = { s with fns := z.fns } := by rw [← hz]; rfl
  have hzl : ∀ i, z.list? i = s.list? i := State.list?_congr (by rw [hzf])
  refine ⟨_, _, hx, by rw [hzf]; rfl, (State.modList_list (s := z) (by intro l; rfl)).trans (congrArg (Option.map _) ((hzl list).trans hl)),
    rfl, rfl, rfl, hr, rfl, by rw [hzf]; rfl, fun i hi => ?_⟩
  · exact (State.modList_list?_ne hi (s := z) (by intro l; rfl)).trans (hzl i)

/-! ### The graph -/

/-- A neighbour is a live list of the shard. -/
theorem State.nearLists_live {s : State} {c : CollSpec} {d : Shard} {l : LList} {i : Nat} (h : i ∈ s.nearLists c d l) :
    ∃ z ∈ s.lists, z.id = i ∧ z.shard = d.id ∧ z.retiredW = none := by
  unfold State.nearLists at h
  obtain ⟨y, hy, rfl⟩ := List.mem_map.mp h
  obtain ⟨z, hz, rfl⟩ := List.mem_map.mp (mem_ranked.mp (List.mem_of_mem_take hy))
  obtain ⟨hlive, -⟩ := List.mem_filter.mp hz
  obtain ⟨hmem, hp⟩ := List.mem_filter.mp hlive
  simp only [Bool.and_eq_true, beq_iff_eq, Option.isNone_iff_eq_none] at hp
  exact ⟨z, hmem, rfl, hp.1, hp.2⟩

/-- R175, R296: a repaired graph names only live lists of its shard, and nothing else of any list has changed. -/
theorem State.linkLists_live (s : State) (c : CollSpec) {d : Shard} {shard : Nat} (hid : d.id = shard) :
    (∀ y ∈ (s.linkLists c d ((s.liveLists shard).map (·.id))).lists, y.shard = shard → y.retiredW = none → ∀ i ∈ y.neighbours,
      ∃ z ∈ s.lists, z.id = i ∧ z.shard = shard ∧ z.retiredW = none) ∧
    (s.linkLists c d ((s.liveLists shard).map (·.id))).lists.map (fun y => { y with neighbours := [] }) =
      s.lists.map (fun y => { y with neighbours := [] }) := by
  constructor
  · intro y hy hsh hr i hi
    obtain ⟨l, hl, rfl⟩ := List.mem_map.mp hy
    by_cases hin : ((s.liveLists shard).map (·.id)).contains l.id = true
    · rw [if_pos hin] at hi
      obtain ⟨z, h1, h2, h3, h4⟩ := State.nearLists_live hi
      exact ⟨z, h1, h2, h3.trans hid, h4⟩
    · rw [if_neg hin] at hsh hr
      refine absurd ?_ hin
      rw [List.contains_iff_mem, List.mem_map]
      refine ⟨l, List.mem_filter.mpr ⟨hl, ?_⟩, rfl⟩
      simp [hsh, hr]
  · unfold State.linkLists modWhere
    rw [List.map_map]
    refine List.map_congr_left fun l _ => ?_
    dsimp only [Function.comp]
    split <;> rfl

theorem graphRepair_spec {s : State} {shard : Nat} {d : Shard} {c : Coll} {arbs : List Nat} {u : Work} (hd : s.shard? shard = some d)
    (hc : s.coll? d.coll = some c) (harbs : arbs = [tensorArb (s.homeTile shard)]) (hu : u = .upkeep 0x13 (16777216 + shard)) :
    (¬ BackgroundTurn s arbs u → ∃ x, exec (.graphRepair shard) s = .next x ∧ BackgroundWaits s x arbs u) ∧
    (BackgroundTurn s arbs u → ∃ x, exec (.graphRepair shard) s = .next x ∧
      x = { s with lists := x.lists, arbs := x.arbs, free := x.free } ∧
      (∀ y ∈ x.lists, y.shard = shard → y.retiredW = none → ∀ i ∈ y.neighbours,
        ∃ z ∈ s.lists, z.id = i ∧ z.shard = shard ∧ z.retiredW = none) ∧
      x.lists.map (fun y => { y with neighbours := [] }) = s.lists.map (fun y => { y with neighbours := [] })) := by
  subst harbs hu
  have hx : exec (.graphRepair shard) s = execGraphRepair shard s := rfl
  unfold execGraphRepair at hx
  rw [hd, Option.bind_some, hc] at hx
  dsimp only at hx
  constructor
  · exact fun ht => ⟨_, hx, State.background_backgroundWaits ht ..⟩
  · intro ht
    obtain ⟨as, bs, n, hb⟩ := State.background_done ht true fun s => s.linkLists c.spec d ((s.liveLists shard).map (·.id))
    rw [hb] at hx
    have hlive := State.linkLists_live { s with arbs := as } c.spec (State.shard?_id hd)
    exact ⟨_, hx, rfl, hlive.1, hlive.2⟩

/-- Settles O49: each step of a split or merge is the one its list's record calls for, and the switch in the ledger arbiter's turn
retires the old lists under the stamp that bears the new ones. -/
theorem splitsAndMerges : Obligations.SplitsAndMerges := by
  unfold Obligations.SplitsAndMerges
  refine ⟨?_, ?_, ?_, ?_⟩
  · exact fun s shard t d hd => listLengthTick_spec t hd
  · intro s list t l d c m arbs w u hl hd hc hm hk hcut hsw hdol hlim hpw hw hu harbs
    refine ⟨fun hwr => ?_, fun hwr => ?_, fun hwr => ?_, ?_, ?_, ?_, ?_⟩
    · exact (splitMergeSwitch_write hl hd hc hm hk hcut hsw hdol hlim hpw hu harbs hwr).1
    · exact (splitMergeSwitch_write hl hd hc hm hk hcut hsw hdol hlim hpw hu harbs hwr).2.1
    · exact (splitMergeSwitch_write hl hd hc hm hk hcut hsw hdol hlim hpw hu harbs hwr).2.2
    · exact splitMergeSwitch_close hl hd hc hm hk hcut hsw hdol hlim hpw
    · exact splitMergeSwitch_waits hl hd hc hm hk hcut hsw hdol hlim hpw hw
    · exact splitMergeSwitch_full hl hd hc hm hk hcut hsw hdol hlim hpw hw
    · exact fun ids v hwr hcl ht hroom hids _ hown hpart =>
        splitMergeSwitch_done hl hd hc hm hk hcut hsw hdol hlim hpw hw hwr hcl ht hroom hids hown hpart
  · intro s list w l d c hl hd hc hr hdr hm
    exact splitMergeRelease_spec hl hd hc hr hdr hm
  · intro s shard d c arbs u hd hc harbs hu
    exact graphRepair_spec hd hc harbs hu

end Sys2Proof.Machine

end

-- ==== Proofs: moves of rows (O52) ====
section
/-! SUPPORT. A row's move from its plan to the release of its old home, and the placement of a collection (R321, R322, R416). -/

namespace Sys2Proof.Machine

open Sys2Proof

/-! ### Work that is wanted at some arbiters and at no others -/

theorem State.arb_id (s : State) (a : Nat) : (s.arb a).id = a := by
  unfold State.arb
  cases h : s.arbs.find? (·.id == a) with
  | none => rfl
  | some b => simpa using List.find?_some h

theorem asked_id (s : State) (n : Nat) (b : Bool) (w : Work) (a : Nat) : (asked s n b w a).id = a := by
  unfold asked asking
  split
  · exact State.arb_id s a
  · split <;> exact State.arb_id s a

/-- Below the stack ports no arbiter's choice speaks of the others. -/
theorem State.arbPick_low {s x : State} (h : x = { s with arbs := x.arbs }) {a : Arb} (ha : a.id < 0x40) : x.arbPick a = s.arbPick a := by
  have hb : ∀ z : State, z.brakeHolds a.id = false := by
    intro z
    unfold State.brakeHolds
    rw [show decide (0x40 ≤ a.id) = false by simp; omega]
    simp
  unfold State.arbPick
  rw [hb x, hb s, h]
  rfl

/-- The work leaves the arbiters that it does not want. -/
def State.leaveOthers (s : State) (w : Work) (arbs : List Nat) : State :=
  s.arbs.foldl (fun s a => if arbs.contains a.id then s
    else (s.modArb a.id fun a => { a with waiting := a.waiting.filter (·.work != w) }).arbEnd a.id w) s

theorem State.requestOnly_eq (s : State) (n : Nat) (b : Bool) (w : Work) (arbs : List Nat) :
    s.requestOnly n b w arbs = (s.leaveOthers w arbs).requestAt n b w arbs := rfl

theorem State.leaveOthers_frame (s : State) (w : Work) (arbs : List Nat) :
    s.leaveOthers w arbs = { s with arbs := (s.leaveOthers w arbs).arbs } :=
  State.eq_of_noArbs (foldl_keeps State.noArbs _ (by intro s a; split <;> simp) s.arbs s)

theorem State.leaveOthers_arb (s : State) (w : Work) {arbs : List Nat} {a : Nat} (ha : a ∈ arbs) :
    (s.leaveOthers w arbs).arb a = s.arb a := by
  unfold State.leaveOthers
  refine foldl_keeps (fun s => s.arb a) _ ?_ s.arbs s
  intro s b
  split
  · rfl
  · rename_i hb
    have hne : a ≠ b.id := fun h => hb (by rw [← h]; simpa using ha)
    rw [State.arbEnd_arb_ne hne, State.modArb_arb_ne hne (by intro a; rfl)]

theorem State.requestOnly_arb (s : State) (n : Nat) (b : Bool) (w : Work) {arbs : List Nat} {a : Nat} (ha : a ∈ arbs) :
    (s.requestOnly n b w arbs).arb a = asked s n b w a := by
  rw [State.requestOnly_eq, State.requestAt_arb, if_pos ha]
  exact asked_congr (State.leaveOthers_arb s w ha) (by rw [State.leaveOthers_frame]; rfl) n b w

/-- Work on the channels of flash has its turn once it has asked there, whatever it gives up elsewhere. -/
theorem grantTurn_iff_only (s : State) (n : Nat) (b : Bool) {arbs : List Nat} (w : Work) (hlow : ∀ a ∈ arbs, a < 0x40) :
    GrantTurn s n b arbs w ↔ (s.requestOnly n b w arbs).turnsAll w arbs = true := by
  rw [grantTurn_iff]
  unfold State.turnsAll
  rw [List.all_eq_true, List.all_eq_true]
  refine forall₂_congr fun a ha => ?_
  have hid : (asked s n b w a).id < 0x40 := by rw [asked_id]; exact hlow a ha
  unfold State.turnsTo State.arbHolds
  rw [State.requestAt_arb, if_pos ha, State.requestOnly_arb s n b w ha, State.requestAt_arbPick,
    State.arbPick_low (State.requestOnly_frame s n b w arbs) hid]

theorem requestOnly_grantWaits (s : State) (n : Nat) (b : Bool) (arbs : List Nat) (w : Work) :
    GrantWaits s (s.requestOnly n b w arbs) arbs w := by
  intro a ha
  by_cases hh : s.arbHolds a w = true
  · exact .inl hh
  · refine .inr ?_
    unfold Waits
    rw [State.requestOnly_arb s n b w ha, asked, if_neg hh]
    exact asking_waits s n b w a

theorem State.channelsOn_getD_lt (s : State) {l : List Nat} (hl : ∀ a ∈ l, a ∈ s.channelsOn) (i : Nat) : l.getD i 0 < 32 := by
  rw [List.getD_eq_getElem?_getD]
  cases h : l[i]? with
  | none => decide
  | some a =>
    have ha := hl a (List.mem_of_getElem? h)
    simp only [State.channelsOn, List.mem_filter, List.mem_range] at ha
    exact ha.1

theorem State.rowChannelOf_lt (s : State) (slot : Nat) : s.rowChannelOf slot < 32 := s.channelsOn_getD_lt (fun _ h => h) _

theorem State.rowTargets_lt (s : State) {n a : Nat} (h : a ∈ s.rowTargets n) : a < 32 := by
  unfold State.rowTargets at h
  dsimp only at h
  split at h
  · cases h
  · obtain ⟨i, -, rfl⟩ := List.mem_map.mp h
    exact s.channelsOn_getD_lt (fun a ha => (List.mem_filter.mp ha).1) _

/-! ### Slots of a shard -/

theorem find?_modWhere_num (l : List Slot) (n : Nat) {f : Slot → Slot} (hf : ∀ y, (f y).num = y.num) :
    (modWhere l (·.num == n) f).find? (·.num == n) = (l.find? (·.num == n)).map f :=
  find?_modWhere _ _ _ (by simp [hf])

/-- A changed slot is found changed, and nothing else of its shard's record has changed. -/
theorem State.modSlot_spec {s : State} {shard slot : Nat} {d : Shard} {y : Slot} (hd : s.shard? shard = some d)
    (hy : d.slot? slot = some y) {f : Slot → Slot} (hf : ∀ y, (f y).num = y.num) :
    ∃ e, (s.modSlot shard slot f).shard? shard = some e ∧ e.slot? slot = some (f y) ∧ e = { d with slots := e.slots } := by
  refine ⟨_, (State.modShard_shard (by intro d; rfl)).trans (congrArg (Option.map _) hd), ?_, rfl⟩
  exact (find?_modWhere_num d.slots slot hf).trans (congrArg (Option.map f) hy)

/-! ### The plan -/

section
variable {s : State} {shard slot : Nat} {d : Shard} {y : Slot} {c : Coll}

/-- A move begins: the space at the new home is charged, and the slot says where it goes. -/
def State.startRowMove (s : State) (c : Coll) (d : Shard) (shard slot n : Nat) (to_ : Home) : State :=
  (s.chargeHome c d to_ n).modSlot shard slot fun x => { x with migration := some ⟨to_, false, 0, none, 0, none, n⟩ }

theorem State.startRowMove_spec (hd : s.shard? shard = some d) (hy : d.slot? slot = some y) (n : Nat) (to_ : Home) :
    ∃ e z, (s.startRowMove c d shard slot n to_).shard? shard = some e ∧ e.slot? slot = some { y with migration := some z } ∧
      z.to_ = to_ ∧ z.dirty = false ∧ z.oldHome = none ∧ e.counter = d.counter := by
  have hch := State.chargeHome_onlyCharged s c d to_ n
  have hds : (s.chargeHome c d to_ n).shard? shard = some d := (State.shard?_congr (by rw [hch]) shard).trans hd
  obtain ⟨e, he, hes, hee⟩ := State.modSlot_spec hds hy (f := fun x => { x with migration := some ⟨to_, false, 0, none, 0, none, n⟩ })
    (by intro y; rfl)
  exact ⟨e, _, he, hes, rfl, rfl, rfl, by rw [hee]⟩

variable (hd : s.shard? shard = some d) (hy : d.slot? slot = some y) (hc : s.coll? d.coll = some c) (hlive : d.live y = true)
  (hbit : y.bit = false) (hlost : y.lost = false) (hmig : y.migration = none) (hfw : d.forwardTo = none)
include hd hy hc hlive hbit hlost hmig hfw

/-- R416: a row in T2 moves to the pool its collection is placed in, when both charges fit. -/
theorem rowMigrationPlan_out {p : Nat} {q : Pool} (hh : y.home = .t2) (hp : c.placement = some p) (hq : s.pool? p = some q)
    (ht : q.takes (rowBytes c.spec y.row) = true) (hmis : s.misplaced < 4194304)
    (hfit : s.fits (s.chargedFn c) .t3 (rowBytes c.spec y.row) = true) :
    ∃ x e z, exec (.rowMigrationPlan shard slot (some p)) s = .next x ∧ x.shard? shard = some e ∧
      e.slot? slot = some { y with migration := some z } ∧ z.to_ = .t3 p ∧ z.dirty = false ∧ z.oldHome = none ∧ e.counter = d.counter ∧
      (x.pool? p).map (·.used) = some (q.used + rowBytes c.spec y.row) := by
  have hx : exec (.rowMigrationPlan shard slot (some p)) s = execRowMigrationPlan shard slot (some p) s := rfl
  unfold execRowMigrationPlan at hx
  rw [hd, Option.bind_some, hy, Option.bind_some, hc] at hx
  dsimp only at hx
  rw [if_neg (by simp [hlive, hbit, hlost, hmig, hfw]), hh] at hx
  dsimp only at hx
  rw [hq] at hx
  dsimp only at hx
  rw [if_neg (by simp [hp, ht]; omega), if_neg (by simp [hfit])] at hx
  obtain ⟨e, z, h1, h2, h3, h4, h5, h6⟩ := State.startRowMove_spec (c := c) hd hy (rowBytes c.spec y.row) (.t3 p)
  refine ⟨_, e, z, hx, h1, h2, h3, h4, h5, h6, ?_⟩
  have hpool : (s.startRowMove c d shard slot (rowBytes c.spec y.row) (.t3 p)).pool? p =
      some { q with used := q.used + rowBytes c.spec y.row } :=
    (State.modPool_pool (s := s.modFn (s.chargedFn c) (·.charge .t3 (rowBytes c.spec y.row))) (c := p)
      (f := fun x => { x with used := x.used + rowBytes c.spec y.row }) (by intro u; rfl)).trans (congrArg (Option.map _) hq)
  exact congrArg (Option.map Pool.used) hpool

/-- R321, R497: a row in a pool comes back to T2, without refusal where the pool is being detached with its rows. -/
theorem rowMigrationPlan_back {p : Nat} (hh : y.home = .t3 p)
    (hwhy : (∃ q, s.pool? p = some q ∧ q.st = .detaching ∧ q.returnData = true) ∨
      c.placement ≠ some p ∧ s.fits (s.chargedFn c) .t2 (rowBytes c.spec y.row) = true) :
    ∃ x e z, exec (.rowMigrationPlan shard slot none) s = .next x ∧ x.shard? shard = some e ∧
      e.slot? slot = some { y with migration := some z } ∧ z.to_ = .t2 ∧ z.dirty = false ∧ z.oldHome = none ∧ e.counter = d.counter := by
  have hx : exec (.rowMigrationPlan shard slot none) s = execRowMigrationPlan shard slot none s := rfl
  unfold execRowMigrationPlan at hx
  rw [hd, Option.bind_some, hy, Option.bind_some, hc] at hx
  dsimp only at hx
  rw [if_neg (by simp [hlive, hbit, hlost, hmig, hfw]), hh] at hx
  dsimp only at hx
  obtain ⟨e, z, hs⟩ := State.startRowMove_spec (c := c) hd hy (rowBytes c.spec y.row) .t2
  rcases hwhy with ⟨q, hq, hst, hret⟩ | ⟨hp, hfit⟩
  · rw [hq] at hx
    dsimp only at hx
    rw [if_pos (by simp [hst, hret])] at hx
    exact ⟨_, e, z, hx, hs⟩
  · rw [if_neg (c := (c.placement == some p) = true) (by simpa using hp), if_neg (c := (!s.fits _ _ _) = true) (by simp [hfit]),
      ite_self] at hx
    exact ⟨_, e, z, hx, hs⟩

end

/-! ### A pass of the copy -/

/-- The space that a move was charged at its new home is given back. -/
def State.undoMove (s : State) (c : Coll) (d : Shard) (m : Migration) : State :=
  match m.promoteFor with
  | some g => s.release g .t2 m.bytes
  | none => s.releaseHome c d m.to_ m.bytes none

theorem State.undoMove_onlyCharged (s : State) (c : Coll) (d : Shard) (m : Migration) : OnlyCharged s (s.undoMove c d m) := by
  unfold State.undoMove
  split
  · rfl
  · exact State.releaseHome_onlyCharged ..

/-- A pass over a row that has changed: it is copied again, or given up at the eighth. -/
def State.copyAgain (s : State) (c : Coll) (d : Shard) (shard slot : Nat) (m : Migration) : State :=
  if 8 ≤ m.passes + 1 then
    ((s.undoMove c d m).modSlot shard slot fun x => { x with migration := none }).modTier fun e => { e with abandoned := e.abandoned + 1 }
  else s.modSlot shard slot fun x => { x with migration := some { m with dirty := false, passes := m.passes + 1 } }

/-- The charges of a clean pass: the grants end, the row is programmed, and its space is charged at its new home. -/
def State.movedCharges (s : State) (c : Coll) (d : Shard) (y : Slot) (m : Migration) (f : Nat) (w : Work) (arbs : List Nat) : State :=
  let now := rowBytes c.spec y.row
  let s := s.useGrants w arbs
  let s := if m.to_ == .t2 then (s.rowTargets 1).foldl (fun s ch => s.programBytes ch now) s else s
  let s := match m.promoteFor with
    | some g => (s.undoMove c d m).modFn g (·.charge .t2 now)
    | none => (s.undoMove c d m).chargeHome c d m.to_ now
  match y.payer with
  | some g => (s.release g .t2 now).modFn f (·.charge .t2 now)
  | none => s

/-- The new home of a slot is current at a stamp, with its entry in the row history. -/
def Shard.moveSlot (d : Shard) (c : Coll) (slot w : Nat) (y : Slot) (m : Migration) : Shard :=
  { d with hist := d.hist ++ [⟨slot, w, 2, true, some (y.row, y.home), none⟩],
           slots := modWhere d.slots (·.num == slot) fun x =>
             ({ x with home := m.to_, payer := m.promoteFor,
                       migration := some { m with oldHome := some y.home, stamp := w, bytes := rowBytes c.spec y.row } } : Slot).written c }

/-- A clean pass in its turn at the ledger arbiter. -/
def State.moveRow (s : State) (c : Coll) (d : Shard) (shard slot : Nat) (y : Slot) (m : Migration) (f : Nat) (w : Work) (arbs : List Nat) :
    State :=
  let z := (s.movedCharges c d y m f w arbs).takeSwitch shard
  z.2.modShard shard fun d => d.moveSlot c slot z.1 y m

theorem State.programs_frame (n : Nat) : ∀ (l : List Nat) (s : State),
    l.foldl (fun s ch => s.programBytes ch n) s = { s with tier := (l.foldl (fun s ch => s.programBytes ch n) s).tier }
  | [], _ => rfl
  | a :: l, s => by
    rw [List.foldl_cons, State.programs_frame n l]
    rfl

theorem State.movedCharges_frame (s : State) (c : Coll) (d : Shard) (y : Slot) (m : Migration) (f : Nat) (w : Work) (arbs : List Nat) :
    ∃ as e fs ps, s.movedCharges c d y m f w arbs = { s with arbs := as, tier := e, fns := fs, pools := ps } := by
  have hu := State.useGrants_frame s w arbs
  unfold State.movedCharges
  dsimp only
  generalize s.useGrants w arbs = u at hu ⊢
  generalize hz : (if m.to_ == .t2 then (u.rowTargets 1).foldl (fun s ch => s.programBytes ch (rowBytes c.spec y.row)) u else u) = z
  have hzf : z = { u with tier := z.tier } := by
    rw [← hz]
    split
    · exact State.programs_frame _ _ u
    · rfl
  have hundo := State.undoMove_onlyCharged z c d m
  have hv : ∀ v : State, OnlyCharged z v → ∃ as e fs ps, v = { s with arbs := as, tier := e, fns := fs, pools := ps } := by
    intro v h
    exact ⟨u.arbs, z.tier, v.fns, v.pools, by rw [h, hzf, hu]⟩
  cases m.promoteFor with
  | none =>
    have h := hundo.trans (State.chargeHome_onlyCharged _ c d m.to_ (rowBytes c.spec y.row))
    cases y.payer with
    | none => exact hv _ h
    | some g => exact hv _ ((h.trans (State.modFn_onlyCharged ..)).trans (State.modFn_onlyCharged ..))
  | some g =>
    have h := hundo.trans (State.modFn_onlyCharged _ g (·.charge .t2 (rowBytes c.spec y.row)))
    cases y.payer with
    | none => exact hv _ h
    | some g => exact hv _ ((h.trans (State.modFn_onlyCharged ..)).trans (State.modFn_onlyCharged ..))

/-- R321 step 3: the new home is current at the next stamp, and the old one stands in the row history. -/
theorem State.moveRow_spec {s : State} {c : Coll} {d e : Shard} {shard slot : Nat} {y : Slot} (hd : s.shard? shard = some e)
    (hy : e.slot? slot = some y) (m : Migration) (f : Nat) (w : Work) (arbs : List Nat) :
    ∃ g z, (s.moveRow c d shard slot y m f w arbs).shard? shard = some g ∧ g.counter = e.counter + 1 ∧ g.slot? slot = some z ∧
      z.home = m.to_ ∧ z.row = y.row ∧ g.hist = e.hist ++ [⟨slot, e.counter + 1, 2, true, some (y.row, y.home), none⟩] := by
  obtain ⟨as, te, fs, ps, hf⟩ := State.movedCharges_frame s c d y m f w arbs
  unfold State.moveRow
  dsimp only
  have hds : (s.movedCharges c d y m f w arbs).shard? shard = some e := by rw [hf]; exact hd
  obtain ⟨hw, -, hzs, -⟩ := State.takeSwitch_spec hds
  rw [hw]
  refine ⟨_, _, (State.modShard_shard (by intro d; rfl)).trans (congrArg (Option.map _) hzs), rfl,
    (find?_modWhere_num e.slots slot (by intro y; rfl)).trans (congrArg (Option.map _) hy), rfl, rfl, rfl⟩

section
variable {s : State} {shard slot : Nat} {d : Shard} {y : Slot} {c : Coll} {m : Migration} {w : Work} {arbs : List Nat} {n : Nat}

/-- ROW_MIGRATION_COPY_END of a row whose old home is still current, when nothing holds the pass. -/
theorem execRowMigrationCopyEnd_open (hd : s.shard? shard = some d) (hy : d.slot? slot = some y) (hc : s.coll? d.coll = some c)
    (hacc : d.pendingAcc slot = none) (hm : y.migration = some m) (hw : w = .upkeep 0x0F slot)
    (harbs : arbs = (if m.to_ = .t2 then s.rowTargets 1 else [s.rowChannelOf slot]))
    (hn : n = (if m.promoteFor = none then backgroundRequester else 0)) (hold : m.oldHome = none)
    (hfree : m.dirty = true ∨ s.histCount < 16777216 ∧ s.commitLimit = false ∧ ∀ ch, ch < 32 → s.programsWait ch = false) :
    exec (.rowMigrationCopyEnd shard slot) s = .next (
      if (s.requestOnly n m.promoteFor.isNone w arbs).turnsAll w arbs = false then s.requestOnly n m.promoteFor.isNone w arbs
      else if m.dirty then ((s.requestOnly n m.promoteFor.isNone w arbs).useGrants w arbs).copyAgain c d shard slot m
      else (s.requestOnly n m.promoteFor.isNone w arbs).passLedgers [shard] (.row slot)
        (·.moveRow c d shard slot y m (s.chargedFn c) w arbs)) := by
  have hx : exec (.rowMigrationCopyEnd shard slot) s = execRowMigrationCopyEnd shard slot s := rfl
  unfold execRowMigrationCopyEnd at hx
  rw [State.applyAll_none (by rw [hd]; exact hacc)] at hx
  dsimp only at hx
  rw [hd, Option.bind_some, hy, Option.bind_some, hc] at hx
  dsimp only at hx
  rw [hm] at hx
  dsimp only at hx
  have harbs' : (if (m.to_ == Home.t2) = true then s.rowTargets 1 else [s.rowChannelOf slot]) = arbs := by
    rw [harbs]; simp only [beq_iff_eq]
  have hn' : (if m.promoteFor.isSome = true then 0 else backgroundRequester) = n := by
    rw [hn]; cases m.promoteFor <;> rfl
  have hhold : ¬ (!m.dirty && (decide (16777216 ≤ s.histCount) || s.commitLimit || (m.to_ == .t2 && (s.rowTargets 1).any s.programsWait))) = true := by
    rcases hfree with h | ⟨h1, h2, h3⟩
    · simp [h]
    · have h4 : (s.rowTargets 1).any s.programsWait = false := by
        rw [List.any_eq_false]
        intro ch hch
        rw [h3 ch (s.rowTargets_lt hch)]; simp
      simp [h2, h4, h1]
  rw [harbs', ← hw, hn', if_neg (c := m.oldHome.isSome = true) (by simp [hold]), if_neg hhold] at hx
  rw [hx]
  by_cases hturn : (s.requestOnly n m.promoteFor.isNone w arbs).turnsAll w arbs = true
  · rw [if_neg (by simp [hturn]), if_neg (c := State.turnsAll _ _ _ = false) (by simp [hturn])]
    by_cases hdirty : m.dirty = true
    · rw [if_pos hdirty, if_pos hdirty, State.copyAgain]
      split <;> rfl
    · rw [if_neg hdirty, if_neg hdirty]
      rfl
  · rw [Bool.not_eq_true] at hturn
    rw [if_pos (by simp [hturn]), if_pos hturn]

/-- The channels of a pass lie below the stack ports. -/
theorem moveArbs_low (harbs : arbs = (if m.to_ = .t2 then s.rowTargets 1 else [s.rowChannelOf slot])) : ∀ a ∈ arbs, a < 0x40 := by
  intro a ha
  rw [harbs] at ha
  split at ha
  · exact lt_trans (s.rowTargets_lt ha) (by decide)
  · rw [List.mem_singleton.mp ha]
    exact lt_trans (s.rowChannelOf_lt slot) (by decide)

section
variable (hd : s.shard? shard = some d) (hy : d.slot? slot = some y) (hc : s.coll? d.coll = some c)
  (hacc : d.pendingAcc slot = none) (hm : y.migration = some m) (hw : w = .upkeep 0x0F slot)
  (harbs : arbs = (if m.to_ = .t2 then s.rowTargets 1 else [s.rowChannelOf slot]))
  (hn : n = (if m.promoteFor = none then backgroundRequester else 0)) (hold : m.oldHome = none)
include hd hy hc hacc hm hw harbs hn hold

/-- R38: out of its turn at the row's channel the pass waits there. -/
theorem rowMigrationCopyEnd_held
    (hfree : m.dirty = true ∨ s.histCount < 16777216 ∧ s.commitLimit = false ∧ ∀ ch, ch < 32 → s.programsWait ch = false)
    (ht : ¬ GrantTurn s n m.promoteFor.isNone arbs w) :
    ∃ x, exec (.rowMigrationCopyEnd shard slot) s = .next x ∧ BackgroundWaits s x arbs w := by
  have hx := execRowMigrationCopyEnd_open hd hy hc hacc hm hw harbs hn hold hfree
  rw [grantTurn_iff_only s n _ w (moveArbs_low harbs), Bool.not_eq_true] at ht
  rw [if_pos ht] at hx
  exact ⟨_, hx, State.requestOnly_frame .., requestOnly_grantWaits s n _ arbs w⟩

/-- R322: a row changed meanwhile is copied again, and its move given up at the eighth pass. -/
theorem rowMigrationCopyEnd_dirty (hdirty : m.dirty = true) (ht : GrantTurn s n m.promoteFor.isNone arbs w) :
    (m.passes < 7 → ∃ x e, exec (.rowMigrationCopyEnd shard slot) s = .next x ∧ x = { s with shards := x.shards, arbs := x.arbs } ∧
      x.shard? shard = some e ∧
      e.slot? slot = some { y with migration := some { m with dirty := false, passes := m.passes + 1 } } ∧ e.counter = d.counter) ∧
    (7 ≤ m.passes → ∃ x e, exec (.rowMigrationCopyEnd shard slot) s = .next x ∧ x.shard? shard = some e ∧
      e.slot? slot = some { y with migration := none } ∧ x.tier.abandoned = s.tier.abandoned + 1) := by
  have hx := execRowMigrationCopyEnd_open hd hy hc hacc hm hw harbs hn hold (.inl hdirty)
  rw [grantTurn_iff_only s n _ w (moveArbs_low harbs)] at ht
  rw [if_neg (by simp [ht]), if_pos hdirty, State.copyAgain] at hx
  have hf := State.useGrants_frame (s.requestOnly n m.promoteFor.isNone w arbs) w arbs
  rw [State.requestOnly_frame] at hf
  rw [State.requestOnly_frame] at hx
  generalize ({ s with arbs := (s.requestOnly n m.promoteFor.isNone w arbs).arbs } : State).useGrants w arbs = z at hx hf
  have hzs : z.shard? shard = some d := by rw [hf]; exact hd
  constructor
  · intro hp
    rw [if_neg (by omega)] at hx
    obtain ⟨e, h1, h2, h3⟩ := State.modSlot_spec hzs hy (f := fun x => { x with migration := some { m with dirty := false, passes := m.passes + 1 } })
      (by intro y; rfl)
    exact ⟨_, e, hx, by rw [hf]; rfl, h1, h2, by rw [h3]⟩
  · intro hp
    rw [if_pos (by omega)] at hx
    have hu := State.undoMove_onlyCharged z c d m
    obtain ⟨e, h1, h2, -⟩ := State.modSlot_spec (s := z.undoMove c d m) ((State.shard?_congr (by rw [hu]) shard).trans hzs) hy
      (f := fun x => { x with migration := none }) (by intro y; rfl)
    refine ⟨_, e, hx, h1, h2, ?_⟩
    show (z.undoMove c d m).tier.abandoned + 1 = _
    rw [hu, hf]

/-- R321 steps 3 and 4: a clean pass switches in its turn at the ledger arbiter and waits there until then. -/
theorem rowMigrationCopyEnd_clean (hdirty : m.dirty = false)
    (hfree : s.histCount < 16777216 ∧ s.commitLimit = false ∧ ∀ ch, ch < 32 → s.programsWait ch = false)
    (ht : GrantTurn s n m.promoteFor.isNone arbs w) :
    (d.turn (.row slot) = true → ∃ x e z, exec (.rowMigrationCopyEnd shard slot) s = .next x ∧ x.shard? shard = some e ∧
      e.counter = d.counter + 1 ∧ e.slot? slot = some z ∧ z.home = m.to_ ∧ z.row = y.row ∧
      e.hist = d.hist ++ [⟨slot, d.counter + 1, 2, true, some (y.row, y.home), none⟩]) ∧
    (d.turn (.row slot) = false → ∃ x, exec (.rowMigrationCopyEnd shard slot) s = .next x ∧
      x = { s with shards := x.shards, arbs := x.arbs } ∧ ShardsButWaiting s x ∧ LedgerWaits x [shard] (.row slot)) := by
  have hx := execRowMigrationCopyEnd_open hd hy hc hacc hm hw harbs hn hold (.inr hfree)
  rw [grantTurn_iff_only s n _ w (moveArbs_low harbs)] at ht
  rw [if_neg (by simp [ht]), if_neg (by simp [hdirty])] at hx
  have hf := State.requestOnly_frame s n m.promoteFor.isNone w arbs
  generalize s.requestOnly n m.promoteFor.isNone w arbs = z at hx hf
  have hzs : z.shard? shard = some d := by rw [hf]; exact hd
  constructor
  · intro hturn
    rw [State.passLedgers_one hzs hturn] at hx
    obtain ⟨e, k, h⟩ := State.moveRow_spec (State.leaveLedger_shard? hzs (.row slot)) hy m (s.chargedFn c) w arbs (c := c) (d := d)
    exact ⟨_, e, k, hx, h⟩
  · intro hturn
    obtain ⟨h1, h2, h3⟩ := State.passLedgers_one_waits hzs hturn (·.moveRow c d shard slot y m (s.chargedFn c) w arbs)
    refine ⟨_, hx, by rw [h1, hf], fun i e he => h2 i e (by rw [hf]; exact he), h3⟩

end

/-- R321 step 5: once its entry is gone the old home is released, and the move is over. -/
theorem rowMigrationRelease_spec (hd : s.shard? shard = some d) (hy : d.slot? slot = some y) (hc : s.coll? d.coll = some c)
    (hm : y.migration = some m) (hold : m.oldHome ≠ none) (hgone : ∀ h ∈ d.hist, ¬ (h.slot = slot ∧ h.stamp = m.stamp)) :
    ∃ x e, exec (.rowMigrationRelease shard slot) s = .next x ∧ x.shard? shard = some e ∧
      e.slot? slot = some { y with migration := none } ∧ e.counter = d.counter := by
  obtain ⟨h, hh⟩ := Option.ne_none_iff_exists'.mp hold
  have hx : exec (.rowMigrationRelease shard slot) s = execRowMigrationRelease shard slot s := rfl
  unfold execRowMigrationRelease at hx
  rw [hd, Option.bind_some, hy, Option.bind_some, hc] at hx
  dsimp only at hx
  rw [hm, Option.bind_some, hh] at hx
  dsimp only at hx
  rw [if_neg (by
    rw [List.any_eq_true]
    rintro ⟨e, he, hb⟩
    exact hgone e he (by simpa using hb))] at hx
  have hr := State.releaseHome_onlyCharged s c d h m.bytes none
  obtain ⟨e, h1, h2, h3⟩ := State.modSlot_spec (s := s.releaseHome c d h m.bytes none) ((State.shard?_congr (by rw [hr]) shard).trans hd) hy
    (f := fun x => { x with migration := none }) (by intro y; rfl)
  exact ⟨_, e, hx, h1, h2, by rw [h3]⟩

end

/-! ### Placement -/

section
variable {s : State} {coll t day hour : Nat} {c : Coll} {rows : Nat × Nat}

/-- R416: where the rows of a collection that lies in T2 are placed next. -/
theorem placementChange_out (hc : s.coll? coll = some c) (hrows : rows = s.collRows c)
    (hday : day = (c.readTimes.filter fun x => decide ((s.at t).now ≤ x + 86400 * Config.ticksPerS)).length) (hp : c.placement = none) :
    (∀ p, s.pools.find? (fun p => p.kind == 0 && p.st == .attached && decide (p.cap ≤ 10 * (p.cap - p.used))) = some p →
      c.since + 86400 * Config.ticksPerS ≤ (s.at t).now → (s.fn (s.chargedFn c)).admits .t3 rows.2 = true → 1000 * day < rows.1 * 24 →
      ∃ x, exec (.placementChange coll t) s = .next x ∧ x = { s.at t with colls := x.colls } ∧
        x.coll? coll = some { c with placement := some p.id, since := (s.at t).now }) ∧
    (((s.at t).now < c.since + 86400 * Config.ticksPerS ∨ rows.1 * 24 ≤ 1000 * day ∨
        (s.fn (s.chargedFn c)).admits .t3 rows.2 = false ∨
        ∀ p ∈ s.pools, ¬ (p.kind = 0 ∧ p.st = .attached ∧ p.cap ≤ 10 * (p.cap - p.used))) →
      exec (.placementChange coll t) s = .next (s.at t)) := by
  have hh : 24 * (3600 * Config.ticksPerS) = 86400 * Config.ticksPerS := by omega
  have hx : exec (.placementChange coll t) s = execPlacementChange coll t s := rfl
  unfold execPlacementChange at hx
  dsimp only at hx
  rw [show (s.at t).coll? coll = some c from hc] at hx
  dsimp only at hx
  rw [hp] at hx
  dsimp only at hx
  rw [hh, show (s.at t).pools = s.pools from rfl] at hx
  subst hrows hday
  constructor
  · intro p hpool hsince hadm hfew
    rw [hpool] at hx
    have hgo : ¬ (decide ((s.at t).now < c.since + 86400 * Config.ticksPerS) || !(s.fn (s.chargedFn c)).admits .t3 (s.collRows c).2 ||
        decide ((s.collRows c).1 * 24 ≤ 1000 * (c.readTimes.filter fun x => decide ((s.at t).now ≤ x + 86400 * Config.ticksPerS)).length)) =
        true := by
      simp [hadm]; omega
    exact ⟨_, hx.trans (if_neg hgo), rfl, (State.modColl_coll (by intro c; rfl)).trans (congrArg (Option.map _) hc)⟩
  · intro h
    cases hpool : s.pools.find? (fun p => p.kind == 0 && p.st == .attached && decide (p.cap ≤ 10 * (p.cap - p.used))) with
    | none => rw [hpool] at hx; exact hx
    | some p =>
      rw [hpool] at hx
      have hgo : (decide ((s.at t).now < c.since + 86400 * Config.ticksPerS) || !(s.fn (s.chargedFn c)).admits .t3 (s.collRows c).2 ||
          decide ((s.collRows c).1 * 24 ≤ 1000 * (c.readTimes.filter fun x => decide ((s.at t).now ≤ x + 86400 * Config.ticksPerS)).length)) =
          true := by
        rcases h with h | h | h | h
        · simp [h]
        · simp [h]
        · simp [h]
        · have hb := List.find?_some hpool
          simp only [Bool.and_eq_true, beq_iff_eq, decide_eq_true_eq] at hb
          exact absurd ⟨hb.1.1, hb.1.2, hb.2⟩ (h p (List.mem_of_find?_eq_some hpool))
      exact hx.trans (if_pos hgo)

/-- R416: when the rows of a collection placed in a pool come back to T2. -/
theorem placementChange_back {i : Nat} {leave : Bool} (hc : s.coll? coll = some c) (hrows : rows = s.collRows c)
    (hhour : hour = (c.readTimes.filter fun x => decide ((s.at t).now ≤ x + 3600 * Config.ticksPerS)).length)
    (hp : c.placement = some i) (hleave : leave = (match s.pool? i with
      | none => true
      | some p => p.st == .lost || (p.st == .detaching && p.returnData) || decide (20 * (p.cap - p.used) < p.cap))) :
    ((leave = true ∨ rows.1 < 100 * hour) →
      ∃ x, exec (.placementChange coll t) s = .next x ∧ x = { s.at t with colls := x.colls } ∧
        x.coll? coll = some { c with placement := none, since := (s.at t).now }) ∧
    (leave = false → 100 * hour ≤ rows.1 → exec (.placementChange coll t) s = .next (s.at t)) := by
  have hx : exec (.placementChange coll t) s = .next (if leave || decide (rows.1 < 100 * hour) then
      (s.at t).modColl coll fun c => { c with placement := none, since := (s.at t).now } else s.at t) := by
    show execPlacementChange coll t s = _
    unfold execPlacementChange
    dsimp only
    rw [show (s.at t).coll? coll = some c from hc]
    dsimp only
    rw [hp]
    dsimp only
    rw [show (s.at t).pool? i = s.pool? i from rfl]
    subst hrows hhour hleave
    cases s.pool? i with
    | none => exact (apply_ite Host.Outcome.next _ _ _).symm
    | some q => exact (apply_ite Host.Outcome.next _ _ _).symm
  constructor
  · intro h
    rw [if_pos (by rcases h with h | h <;> simp [h])] at hx
    exact ⟨_, hx, rfl, (State.modColl_coll (by intro c; rfl)).trans (congrArg (Option.map _) hc)⟩
  · intro h1 h2
    rw [if_neg (by simp [h1]; omega)] at hx
    exact hx

end

end Sys2Proof.Machine

end

-- ==== Proofs: moves of shards (O52) ====
section
/-! SUPPORT. A shard's hand-over, what its new owner makes of it, the announcement and the release of the old copy (R68, R323,
R324). -/

namespace Sys2Proof.Machine

open Sys2Proof

/-! ### Frames of the node's own work -/

/-- `x` is `s` after frames were produced: its shards and collections are as before, and no frame is gone. -/
structure Produced (s x : State) : Prop where
  shards : x.shards = s.shards
  colls : x.colls = s.colls
  frames : ∀ dest body, FrameTo s dest body → FrameTo x dest body

theorem Produced.refl (s : State) : Produced s s := ⟨rfl, rfl, fun _ _ h => h⟩

theorem Produced.trans (s x y : State) (h : Produced s x) (k : Produced x y) : Produced s y :=
  ⟨k.shards.trans h.shards, k.colls.trans h.colls, fun d b f => k.frames d b (h.frames d b f)⟩

theorem State.produceFw_produced (s : State) (dest kind shard : Nat) (b : Bool) (body : Msg) :
    Produced s (s.produceFw dest kind shard b body) := by
  unfold State.produceFw
  dsimp only
  have h := State.produce_sent s.takeNum.2 dest (s.takeNum.2.fwTag kind s.takeNum.1 dest shard b)
    (reservedQueue (s.takeNum.2.fwTag kind s.takeNum.1 dest shard b)) body
  exact ⟨h.shards_eq, h.colls_eq, fun d b f => (f.congr rfl : FrameTo s.takeNum.2 d b).sent h⟩

theorem State.produceFw_frameTo (s : State) (dest kind shard : Nat) (b : Bool) (body : Msg) :
    FrameTo (s.produceFw dest kind shard b body) dest body := by
  unfold State.produceFw
  exact State.produce_frameTo ..

theorem State.produceFws_spec (kind shard : Nat) (b : Bool) (body : Msg) (l : List Nat) (s : State) :
    Produced s (l.foldl (fun s n => s.produceFw n kind shard b body) s) ∧
      ∀ n ∈ l, FrameTo (l.foldl (fun s n => s.produceFw n kind shard b body) s) n body :=
  ⟨foldl_head_keeps Produced.refl Produced.trans (fun s n => State.produceFw_produced s n kind shard b body) l s,
    foldl_brings (P := fun n x => FrameTo x n body) Produced.refl Produced.trans
      (fun s n => State.produceFw_produced s n kind shard b body) s (fun _ _ _ => State.produceFw_frameTo ..)
      (fun _ _ n h f => h.frames n body f) l s (Produced.refl s)⟩

/-! ### The hand-over -/

/-- The shard of an identifier stays that shard, at its counter. -/
def CounterKept (s x : State) (i : Nat) : Prop :=
  ∀ d, s.shard? i = some d → ∃ e, x.shard? i = some e ∧ e.coll = d.coll ∧ e.counter = d.counter

theorem CounterKept.refl (s : State) (i : Nat) : CounterKept s s i := fun d h => ⟨d, h, rfl, rfl⟩

theorem CounterKept.trans {s x y : State} {i : Nat} (h : CounterKept s x i) (k : CounterKept x y i) : CounterKept s y i := by
  intro d hd
  obtain ⟨e, he, h1, h2⟩ := h d hd
  obtain ⟨g, hg, h3, h4⟩ := k e he
  exact ⟨g, hg, h3.trans h1, h4.trans h2⟩

theorem CounterKept.of_shards {s x : State} {i : Nat} (h : x.shards = s.shards) : CounterKept s x i :=
  fun d hd => ⟨d, (State.shard?_congr h i).trans hd, rfl, rfl⟩

theorem RowsOnly.counterKept {s x : State} {i : Nat} (h : RowsOnly s x i) : CounterKept s x i := by
  intro d hd
  obtain ⟨e, he, hed⟩ := h.shard d hd
  exact ⟨e, he, by rw [hed], by rw [hed]⟩

theorem State.forwardMember_counterKept (s : State) (w : MWork) (node i : Nat) : CounterKept s (s.forwardMember w node) i := by
  have hdrop : CounterKept s (s.dropMember w.msg.key w.msg.index) i := by
    intro d hd
    obtain ⟨e, he, hed⟩ := State.dropMember_shard? s w.msg.key w.msg.index hd
    exact ⟨e, he, by rw [hed], by rw [hed]⟩
  unfold State.forwardMember
  dsimp only
  split
  · exact hdrop.trans (.of_shards (Sent.shards_eq (State.sendOutcome_sent ..)))
  · exact hdrop.trans (.of_shards (Sent.shards_eq (State.produce_sent ..)))

theorem State.forwardMembers_counterKept (node i : Nat) (l : List MWork) (s : State) :
    CounterKept s (l.foldl (fun s w => s.forwardMember w node) s) i :=
  foldl_head_keeps (R := fun s x => CounterKept s x i) (fun s => .refl s i) (fun _ _ _ h k => h.trans k)
    (fun s w => State.forwardMember_counterKept s w node i) l s

theorem State.dropUpkeep_counterKept (s : State) (i : Nat) : CounterKept s (s.dropUpkeep i) i := by
  have hbg : ∀ (z : State) (k t : Nat), (z.dropBackground k t).shards = z.shards := by
    intro z k t; unfold State.dropBackground; rw [State.dropWork_frame]
  unfold State.dropUpkeep
  dsimp only
  generalize hy : List.foldl _ s _ = y
  have hys : y.shards = s.shards := by
    rw [← hy]
    exact foldl_keeps State.shards _ (by intro s l; rw [hbg, hbg]) _ s
  generalize hz : (y.dropBackground 0x13 (16777216 + i)).dropBackground 0x13 (33554432 + i) = z
  have hzs : z.shards = s.shards := by rw [← hz, hbg, hbg, hys]
  intro d hd
  refine ⟨_, (State.modShard_shard (by intro d; rfl)).trans (congrArg (Option.map _) ((State.shard?_congr ?_ i).trans hd)), rfl, rfl⟩
  exact hzs

theorem State.handShard_spec {s : State} {shard : Nat} {d : Shard} {m : Move} (hd : s.shard? shard = some d) (hm : d.move = some m)
    (hf : d.forwardTo = none) (hstep : m.step ≠ 0)
    (hq : ∀ z ∈ d.waiting, ∀ k, z.2 ≠ .search k ∧ z.2 ≠ .barrier k ∧ z.2 ≠ .pass (.req k)) (hr : s.reachable m.to_ = true) :
    ∃ e g, (s.handShard shard).shard? shard = some e ∧ e.forwardTo = some m.to_ ∧ e.counter = d.counter ∧ e.holds = [] ∧
      FrameTo (s.handShard shard) m.to_ (.moveState g) ∧ g.shard = shard ∧ g.coll = d.coll ∧ g.counter = d.counter := by
  have hx : s.handShard shard = s.handShard shard := rfl
  conv_rhs at hx => unfold State.handShard
  rw [hd, Option.bind_some, hm] at hx
  dsimp only at hx
  rw [if_neg (by
    simp only [hf, hr, hstep, Option.isSome_none, decide_false, Bool.false_or, Bool.not_true, Bool.or_false, List.any_eq_true, not_exists,
      not_and]
    intro z hz
    have h := hq z hz
    split
    · exact absurd ‹_› (h _).1
    · exact absurd ‹_› (h _).2.1
    · exact absurd ‹_› (h _).2.2
    · exact Bool.false_ne_true)] at hx
  have h1 := (State.applySlots_rowsOnly shard (d.slots.map (·.num)) s).counterKept
  generalize s.applySlots shard (d.slots.map (·.num)) = y at hx h1
  have h2 := h1.trans (State.forwardMembers_counterKept m.to_ shard
    (y.eng.members.filter fun w => w.msg.shard == shard && w.stage != .stamped && w.stage != .finished) y)
  generalize (y.eng.members.filter fun w => w.msg.shard == shard && w.stage != .stamped && w.stage != .finished).foldl
    (fun s w => s.forwardMember w m.to_) y = z at hx h2
  have h3 := h2.trans (State.dropUpkeep_counterKept z shard)
  generalize z.dropUpkeep shard = u at hx h3
  obtain ⟨e, he, hec, hen⟩ := h3 d hd
  rw [he, Option.map_some, Option.getD_some] at hx
  rw [hx]
  have hp := fun (v : State) => (State.produceFw_produced v m.to_ 0x0F shard true (.moveState (u.imageOf e))).shards
  refine ⟨_, u.imageOf e, (State.shard?_congr (hp _) shard).trans ((State.modShard_shard (by intro d; rfl)).trans
    (congrArg (Option.map _) he)), rfl, hen, rfl, State.produceFw_frameTo .., State.shard?_id he, hec, hen⟩

/-! ### The take-over -/

/-- A shard as its new owner holds it, under this node's numbers. -/
def ShardImage.taken (m : ShardImage) (c : Coll) (ledger now : Nat) (slots lists : List (Nat × Nat)) : Shard :=
  let slot := fun (x : Slot) => { x with num := renamed slots x.num, row := x.row.rename lists, home := x.home.arrived, migration := none, payer := none, packed := c.compress }
  let hist := fun (e : Hist) => { e with slot := renamed slots e.slot, prior := e.prior.map fun p => (p.1.rename lists, p.2.arrived) }
  let tomb := fun (t : Tomb) => { t with listA := renamed lists t.listA, listB := renamed lists t.listB, slot := renamed slots t.slot }
  { id := m.shard, coll := m.coll, ledger := ledger, counter := m.counter, stage := m.stage, switchW := m.switchW, training := false,
    sampleCut := 0, formCut := none, buffer := m.buffer, l := m.l, l2 := m.l2, l1 := m.l1, centroids := m.centroids,
    centroidNorms := m.centroidNorms, matrix := m.matrix, slots := m.slots.map slot, hist := m.hist.map hist, tombs := m.tombs.map tomb,
    readers := [], waiting := [], holds := [], meanRecords := 0, meanLists := 0, lenAt := now, bufBytes := 0, move := none,
    forwardTo := none, lost := false, regen := none }

/-- The rows of a shard taken over, and the prior versions in its row history, are charged. -/
def State.chargeRows (s : State) (c : Coll) (d : Shard) : State :=
  let s := d.slots.foldl (fun s x => if x.home == .formation && x.bit then s else s.chargeHome c d x.home (rowBytes c.spec x.row)) s
  d.hist.foldl (fun s e => match e.prior with
    | some p => s.chargeHome c d p.2 (rowBytes c.spec p.1)
    | none => s) s

/-- The rest of a take-over: the shard is there and journaled, its lists are added, and what it holds is charged. -/
def State.takeWith (s : State) (c : Coll) (m : ShardImage) (d : Shard) (lists : List (Nat × Nat)) : State :=
  let list := renamed lists
  let s := ({ s with shards := s.shards.filter (·.id != m.shard) ++ [d] } : State).addJournal (.switch m.shard) m.shard m.counter 64
  let s := m.lists.foldl (fun s l =>
    let ch := s.homeChannel
    s.addList c { l with id := list l.id, successors := l.successors.map list, neighbours := l.neighbours.map list, channel := ch, maint := none,
                         oldChunks := 0, closed := false, admitHot := none,
                         versions := l.versions.map fun v => { v with channel := ch, cached := false } }) s
  (s.modFn (s.chargedFn c) (·.charge .t1 (mapBytes d.slots.length))).chargeRows c d

theorem onlyCharged_foldl {α : Type} {f : State → α → State} (h : ∀ s a, OnlyCharged s (f s a)) (l : List α) (s : State) :
    OnlyCharged s (l.foldl f s) :=
  foldl_head_keeps (R := OnlyCharged) OnlyCharged.refl (fun _ _ _ h k => h.trans k) h l s

theorem State.chargeRows_onlyCharged (s : State) (c : Coll) (d : Shard) : OnlyCharged s (s.chargeRows c d) := by
  unfold State.chargeRows
  refine (onlyCharged_foldl ?_ d.slots s).trans (onlyCharged_foldl ?_ d.hist _)
  · intro s x
    split
    · exact OnlyCharged.refl s
    · exact State.chargeHome_onlyCharged ..
  · intro s e
    split
    · exact State.chargeHome_onlyCharged ..
    · exact OnlyCharged.refl s

theorem State.takeSlots_frame : ∀ {l : List Nat} {s y : State} {r : List (Nat × Nat)}, s.takeSlots l = some (r, y) →
    y = { s with tier := y.tier }
  | [], s, y, r, h => by
    obtain ⟨-, rfl⟩ := Prod.mk.inj (Option.some.inj h)
    rfl
  | i :: l, s, y, r, h => by
    unfold State.takeSlots at h
    obtain ⟨⟨n, z⟩, hz, h⟩ := Option.bind_eq_some_iff.mp h
    obtain ⟨⟨more, u⟩, hu, h⟩ := Option.bind_eq_some_iff.mp h
    obtain ⟨-, rfl⟩ := Prod.mk.inj (Option.some.inj h)
    have hzf : z = { s with tier := z.tier } := by
      unfold State.takeSlot at hz
      split at hz
      · obtain ⟨-, rfl⟩ := Prod.mk.inj (Option.some.inj hz); rfl
      · split at hz
        · obtain ⟨-, rfl⟩ := Prod.mk.inj (Option.some.inj hz); rfl
        · cases hz
    rw [State.takeSlots_frame hu, hzf]

theorem State.takeShard_some {s x : State} {c : Coll} {m : ShardImage} (h : s.takeShard c m = some x) :
    ∃ (v : State) (ledger : Nat) (slots lists : List (Nat × Nat)), v = { s with lists := v.lists, tier := v.tier } ∧
      x = v.takeWith c m (m.taken c ledger v.now slots lists) lists := by
  unfold State.takeShard at h
  obtain ⟨ledger, -, h⟩ := Option.bind_eq_some_iff.mp h
  obtain ⟨⟨slots, u⟩, hu, h⟩ := Option.bind_eq_some_iff.mp h
  obtain ⟨⟨ids, v⟩, hv, h⟩ := Option.bind_eq_some_iff.mp h
  have h1 := State.takeSlots_frame hu
  have h2 := (State.takeLists_spec hv).1
  refine ⟨v, ledger, slots, (m.lists.map (·.id)).zip ids, by rw [h2, h1], ?_⟩
  rw [← Option.some.inj h]
  unfold State.takeWith State.chargeRows ShardImage.taken
  rfl

theorem State.takeWith_frame (s : State) (c : Coll) (m : ShardImage) (d : Shard) (lists : List (Nat × Nat)) :
    ∃ ls fs ps e, s.takeWith c m d lists = { s with
      shards := s.shards.filter (·.id != m.shard) ++ [d], lists := ls, fns := fs, pools := ps, tier := e } := by
  unfold State.takeWith
  dsimp only
  generalize hy : List.foldl _ (State.addJournal _ _ _ _ _) m.lists = y
  have hyf : ∃ ls fs e, y = { s with
      shards := s.shards.filter (·.id != m.shard) ++ [d], lists := ls, fns := fs, tier := e } := by
    rw [← hy]
    exact ⟨_, _, _, (State.addLists_spec c _ m.lists _).1⟩
  clear hy
  obtain ⟨ls, fs, e, hyf⟩ := hyf
  have h := (State.modFn_onlyCharged y (y.chargedFn c) (·.charge .t1 (mapBytes d.slots.length))).trans (State.chargeRows_onlyCharged _ c d)
  generalize (y.modFn (y.chargedFn c) (·.charge .t1 (mapBytes d.slots.length))).chargeRows c d = u at h ⊢
  exact ⟨ls, u.fns, u.pools, e, by rw [h, hyf]⟩

section
variable {s : State} {shard t : Nat} {g : ShardImage} {c : Coll}

theorem execShardMoveCopyEnd_image (hc : s.coll? g.coll = some c) (hg : g.shard = shard) (hin : shard ∈ c.shardIds) :
    ((∃ d ∈ s.owned, d.id = shard) → exec (.shardMoveCopyEnd shard ⟨some g, t⟩) s = .next (s.at t)) ∧
    ∀ x, (∀ d ∈ s.owned, d.id ≠ shard) → (s.at t).takeShard c g = some x →
      exec (.shardMoveCopyEnd shard ⟨some g, t⟩) s = .next
        ((((x.writeColumns.setOwner g.coll shard x.nodeId).recordNode.peerNodes.filter
            (x.writeColumns.setOwner g.coll shard x.nodeId).recordNode.reachable).foldl
          (fun s n => s.produceFw n 0x0F shard true (.moveAnnounce g.coll shard s.nodeId))
          (x.writeColumns.setOwner g.coll shard x.nodeId).recordNode)) := by
  have hx : exec (.shardMoveCopyEnd shard ⟨some g, t⟩) s = execShardMoveCopyEnd shard ⟨some g, t⟩ s := rfl
  unfold execShardMoveCopyEnd at hx
  dsimp only at hx
  rw [show (s.at t).coll? g.coll = some c from hc] at hx
  dsimp only at hx
  constructor
  · rintro ⟨d, hd, hid⟩
    have hown : (s.at t).owned.any (·.id == shard) = true := List.any_eq_true.mpr ⟨d, hd, by simpa using hid⟩
    rw [if_pos (by rw [hown]; simp)] at hx
    exact hx
  · intro x hno ht
    have hown : (s.at t).owned.any (·.id == shard) = false := by
      rw [List.any_eq_false]
      intro d hd
      simpa using hno d hd
    rw [if_neg (by rw [hown]; simp [hg, hin]), ht] at hx
    exact hx

theorem setPoints_frame (s : State) (l : List Nat) (b : Bool) :
    s.setPoints l b = { s with spares := { s.spares with arrays := (s.setPoints l b).spares.arrays } } := State.modArrs_frame s l _

/-- R323 step 4, R324: the new owner goes on from the counter, and announces the move to every node it reaches. -/
theorem shardMoveCopyEnd_taken (hc : s.coll? g.coll = some c) (hg : g.shard = shard) (hin : shard ∈ c.shardIds)
    (hno : ∀ d ∈ s.owned, d.id ≠ shard) (ht : ((s.at t).takeShard c g).isSome = true) :
    ∃ x e, exec (.shardMoveCopyEnd shard ⟨some g, t⟩) s = .next x ∧ x.shard? shard = some e ∧ e.counter = g.counter ∧
      e.forwardTo = none ∧ e.stage = g.stage ∧ e.slots.length = g.slots.length ∧ e.tombs.length = g.tombs.length ∧ e.readers = [] ∧
      x.coll? g.coll = some { c with spec := { c.spec with owners := c.spec.owners.set (shard - c.spec.firstShard) s.nodeId } } ∧
      ∀ n ∈ s.peerNodes, (s.at t).reachable n = true → FrameTo x n (.moveAnnounce g.coll shard s.nodeId) := by
  obtain ⟨x, hx⟩ := Option.isSome_iff_exists.mp ht
  have he := (execShardMoveCopyEnd_image (t := t) hc hg hin).2 x hno hx
  obtain ⟨v, ledger, slots, lists, hv, hxv⟩ := State.takeShard_some hx
  obtain ⟨ls, fs, ps, e, hf⟩ := State.takeWith_frame v c g (g.taken c ledger v.now slots lists) lists
  rw [← hxv] at hf
  have hnode : x.nodeId = s.nodeId := by rw [hf, hv]; rfl
  have hxs : x.shard? shard = some (g.taken c ledger v.now slots lists) := by
    have hfind : (v.shards.filter (·.id != g.shard)).find? (·.id == shard) = none := by
      rw [List.find?_eq_none]
      intro d hd
      have := (List.mem_filter.mp hd).2
      rw [hg] at this
      simpa using this
    rw [hf]
    show (v.shards.filter (·.id != g.shard) ++ [g.taken c ledger v.now slots lists]).find? (·.id == shard) = _
    rw [List.find?_append, hfind, Option.none_or]
    exact List.find?_cons_of_pos (by simpa [ShardImage.taken] using hg)
  have hxc : x.coll? g.coll = some c := by rw [hf, hv]; exact hc
  have hw : x.writeColumns = { x with spares := x.writeColumns.spares } := setPoints_frame ..
  generalize hu : (x.writeColumns.setOwner g.coll shard x.nodeId).recordNode = u at he
  have hus : u.shards = x.shards := by rw [← hu, hw]; rfl
  have hun : u.nodeId = s.nodeId := by rw [← hu, hw, ← hnode]; rfl
  have hup : u.peerNodes = s.peerNodes := by rw [← hu, hw, hf, hv]; rfl
  have hur : u.reachable = (s.at t).reachable := by rw [← hu, hw, hf, hv]; rfl
  have huc : u.coll? g.coll = some { c with spec := { c.spec with owners := c.spec.owners.set (shard - c.spec.firstShard) s.nodeId } } := by
    rw [← hu, ← hnode]
    refine (State.modColl_coll (s := x.writeColumns) (f := fun c => { c with
      spec := { c.spec with owners := c.spec.owners.set (shard - c.spec.firstShard) x.nodeId } }) (by intro c; rfl)).trans ?_
    exact congrArg (Option.map _) hxc
  have hann : (u.peerNodes.filter u.reachable).foldl (fun s n => s.produceFw n 0x0F shard true (.moveAnnounce g.coll shard s.nodeId)) u =
      (u.peerNodes.filter u.reachable).foldl (fun s n => s.produceFw n 0x0F shard true (.moveAnnounce g.coll shard u.nodeId)) u := by
    have : ∀ (l : List Nat) (z : State), z.nodeId = u.nodeId →
        l.foldl (fun s n => s.produceFw n 0x0F shard true (.moveAnnounce g.coll shard s.nodeId)) z =
        l.foldl (fun s n => s.produceFw n 0x0F shard true (.moveAnnounce g.coll shard u.nodeId)) z := by
      intro l
      induction l with
      | nil => exact fun _ _ => rfl
      | cons n l ih =>
        intro z hz
        rw [List.foldl_cons, List.foldl_cons, hz]
        exact ih _ ((State.produce_sent ..).nodeId_eq.trans hz)
    exact this _ u rfl
  rw [hann, hun] at he
  obtain ⟨hp, hfr⟩ := State.produceFws_spec 0x0F shard true (.moveAnnounce g.coll shard s.nodeId) (u.peerNodes.filter u.reachable) u
  refine ⟨_, _, he, (State.shard?_congr (hp.shards.trans hus) shard).trans hxs, rfl, rfl, rfl, List.length_map .., List.length_map .., rfl,
    ?_, fun n hn hr => hfr n ?_⟩
  · unfold State.coll? at huc ⊢
    rw [hp.colls]; exact huc
  · rw [hup, hur]; exact List.mem_filter.mpr ⟨hn, hr⟩

/-- R323 step 5: every node's map follows an announcement. -/
theorem shardMoveAnnounceReceive_spec {coll owner : Nat} (hc : s.coll? coll = some c) (hin : shard ∈ c.shardIds) :
    ∃ x e, exec (.shardMoveAnnounceReceive coll shard owner) s = .next x ∧ x = { s with colls := x.colls, tier := x.tier } ∧
      x.coll? coll = some { c with spec := { c.spec with owners := c.spec.owners.set (shard - c.spec.firstShard) owner } } ∧
      x.tier.journal = s.tier.journal ++ [e] ∧ e.kind = .nodeRecord := by
  have hx : exec (.shardMoveAnnounceReceive coll shard owner) s = execShardMoveAnnounceReceive coll shard owner s := rfl
  unfold execShardMoveAnnounceReceive at hx
  rw [hc] at hx
  dsimp only at hx
  rw [if_neg (by simp [hin])] at hx
  refine ⟨_, _, hx, rfl, ?_, rfl, rfl⟩
  exact (State.modColl_coll (s := s) (f := fun c => { c with
    spec := { c.spec with owners := c.spec.owners.set (shard - c.spec.firstShard) owner } }) (by intro c; rfl)).trans (congrArg (Option.map _) hc)

theorem State.releaseShard_onlyCharged (s : State) (c : Coll) (d : Shard) : OnlyCharged s (s.releaseShard c d) := by
  unfold State.releaseShard
  dsimp only
  refine OnlyCharged.trans (OnlyCharged.trans ?_ (onlyCharged_foldl ?_ d.slots _)) (onlyCharged_foldl ?_ d.hist _)
  · exact ((State.modFn_onlyCharged ..).trans (State.modFn_onlyCharged ..)).trans (State.modFn_onlyCharged ..)
  · intro s x
    split
    · exact OnlyCharged.refl s
    · exact State.releaseHome_onlyCharged ..
  · intro s e
    split
    · exact State.releaseHome_onlyCharged ..
    · exact OnlyCharged.refl s

theorem State.degradedEvent_frame (s : State) (n : Nat) : s.degradedEvent n = { s with
    pins := (s.degradedEvent n).pins, out := (s.degradedEvent n).out } := by
  unfold State.degradedEvent
  dsimp only
  split
  · rfl
  · unfold State.platformEvent
    dsimp only
    split <;> rfl

/-- R323 step 6: the old copy goes once no reader is left, and the shard stays known for forwarding. -/
theorem shardMoveRelease_spec {n : Nat} {d : Shard} {m : Move} (hd : s.shard? shard = some d) (hc : s.coll? d.coll = some c)
    (hf : d.forwardTo = some n) (hm : d.move = some m) (hr : d.readers = []) (hsh : ∀ h ∈ s.eng.shares, ∀ p ∈ h.shards, p.shard ≠ shard)
    (hmem : ∀ w ∈ s.eng.members, w.msg.shard ≠ shard) :
    ∃ x e, exec (.shardMoveRelease shard) s = .next x ∧ x.shard? shard = some e ∧ e.slots = [] ∧ e.forwardTo = some n ∧ e.move = none ∧
      x.lists = s.lists.filter (·.shard != shard) := by
  have hx : exec (.shardMoveRelease shard) s = execShardMoveRelease shard s := rfl
  unfold execShardMoveRelease at hx
  rw [hd, Option.bind_some, hc] at hx
  dsimp only at hx
  have h1 : (s.eng.shares.any fun h => h.shards.any (·.shard == shard)) = false := by
    simp only [List.any_eq_false, Bool.not_eq_true, beq_eq_false_iff_ne]
    exact hsh
  have h2 : (s.eng.members.any fun w => w.msg.shard == shard) = false := by
    simp only [List.any_eq_false, beq_iff_eq]
    exact hmem
  rw [if_neg (by simp [hf, hm, hr, h1, h2])] at hx
  have hrel := State.releaseShard_onlyCharged s c d
  generalize s.releaseShard c d = y at hx hrel
  have hev := State.degradedEvent_frame { y with lists := y.lists.filter (·.shard != shard) } y.degradedCount
  generalize ({ y with lists := y.lists.filter (·.shard != shard) } : State).degradedEvent y.degradedCount = z at hx hev
  have hzs : z.shard? shard = some d := by rw [hev, hrel]; exact hd
  refine ⟨_, _, hx, (State.modShard_shard (by intro d; rfl)).trans (congrArg (Option.map _) hzs), rfl, hf, rfl, ?_⟩
  show z.lists = _
  rw [hev, hrel]

end

/-- Settles O52: a row's move and a shard's move from step to step; a row's pass lies at channels alone, so what it gives up elsewhere
takes no part in its turn. -/
theorem rowAndShardMoves : Obligations.RowAndShardMoves := by
  unfold Obligations.RowAndShardMoves
  refine ⟨?_, ?_, ?_, ?_, ?_, ?_, ?_⟩
  · intro s shard slot d y c hd hy hc hlive hbit hlost hmig hfw
    refine ⟨fun p q hh hp hq ht hmis hfit => rowMigrationPlan_out hd hy hc hlive hbit hlost hmig hfw hh hp hq ht hmis hfit,
      fun p hh hp hfit => ?_, fun p q hh hq hst hret => ?_⟩
    · exact rowMigrationPlan_back hd hy hc hlive hbit hlost hmig hfw hh (.inr ⟨hp, hfit⟩)
    · exact rowMigrationPlan_back hd hy hc hlive hbit hlost hmig hfw hh (.inl ⟨q, hq, hst, hret⟩)
  · intro s shard slot d y c m w arbs n hd hy hc hacc hm hw harbs hn
    refine ⟨fun hold hdirty h1 h2 h3 ht => ?_, fun hold hdirty h1 h2 h3 ht => ?_, fun hold hfree ht => ?_, fun hold hdirty hp ht => ?_,
      fun hold hdirty hp ht => ?_, fun hold hgone => rowMigrationRelease_spec hd hy hc hm hold hgone⟩
    · exact (rowMigrationCopyEnd_clean hd hy hc hacc hm hw harbs hn hold hdirty ⟨h1, h2, h3⟩ ht).1
    · exact (rowMigrationCopyEnd_clean hd hy hc hacc hm hw harbs hn hold hdirty ⟨h1, h2, h3⟩ ht).2
    · exact rowMigrationCopyEnd_held hd hy hc hacc hm hw harbs hn hold hfree ht
    · exact (rowMigrationCopyEnd_dirty hd hy hc hacc hm hw harbs hn hold hdirty ht).1 hp
    · exact (rowMigrationCopyEnd_dirty hd hy hc hacc hm hw harbs hn hold hdirty ht).2 hp
  · intro s coll t day hour c rows hc hrows hday hhour
    refine ⟨fun p hp => (placementChange_out hc hrows hday hp).1 p, fun hp => (placementChange_out hc hrows hday hp).2,
      fun i leave hp hleave => placementChange_back hc hrows hhour hp hleave⟩
  · intro s shard t d m hd hm hf hstep hq hr
    obtain ⟨e, g, h⟩ := State.handShard_spec (s := s.at t) hd hm hf hstep hq hr
    exact ⟨_, e, g, rfl, h⟩
  · intro s shard t g c hc hg hin
    exact ⟨(execShardMoveCopyEnd_image hc hg hin).1, shardMoveCopyEnd_taken hc hg hin⟩
  · intro s coll shard owner c hc hin
    exact shardMoveAnnounceReceive_spec hc hin
  · intro s shard n d c m hd hc hf hm hr hsh hmem
    exact shardMoveRelease_spec hd hc hf hm hr hsh hmem

end Sys2Proof.Machine

end

-- ==== Proofs: Grants of a run (O43) ====
section
/-! SUPPORT. What gives no grant, what a run's work leaves as it was, and the units that serve a stage. -/

namespace Sys2Proof.Machine

open Sys2Proof

/-! ### What gives no grant (R55) -/

/-- No arbiter's grant is for a work in `x` that it was not for in `s`. -/
structure NoGrant (s x : State) : Prop where
  keeps : ∀ a w, s.arbHolds a w = false → x.arbHolds a w = false

theorem NoGrant.refl (s : State) : NoGrant s s := ⟨fun _ _ h => h⟩

theorem NoGrant.trans (s x y : State) (h : NoGrant s x) (k : NoGrant x y) : NoGrant s y := ⟨fun a w ha => k.keeps a w (h.keeps a w ha)⟩

theorem NoGrant.of_arbs {s x : State} (h : x.arbs = s.arbs) : NoGrant s x := ⟨fun a w ha => by
  unfold State.arbHolds State.arb at *
  rw [h]
  exact ha⟩

theorem NoGrant.foldl {α : Type} {f : State → α → State} (h : ∀ s a, NoGrant s (f s a)) (l : List α) (s : State) :
    NoGrant s (l.foldl f s) := foldl_head_keeps NoGrant.refl NoGrant.trans h l s

/-- A change of one arbiter that gives `w` no grant there gives it none at all. -/
theorem State.modArb_arbHolds {s : State} {id j : Nat} {f : Arb → Arb} {w : Work} (hf : ∀ a, (f a).id = a.id)
    (hg : ∀ a, a.granted.any (·.work == w) = false → (f a).granted.any (·.work == w) = false)
    (h : s.arbHolds j w = false) : (s.modArb id f).arbHolds j w = false := by
  unfold State.arbHolds at *
  by_cases hj : j = id
  · subst hj; rw [State.modArb_arb_same hf]; exact hg _ h
  · rw [State.modArb_arb_ne hj hf]; exact h

theorem State.arbRequest_noGrant (s : State) (id n : Nat) (b rb : Bool) (w : Work) : NoGrant s (s.arbRequest id n b rb w) :=
  ⟨fun _ _ h => State.modArb_arbHolds (by intro a; split <;> rfl) (by intro a ha; split <;> exact ha) h⟩

theorem State.arbEnd_noGrant (s : State) (id : Nat) (w : Work) : NoGrant s (s.arbEnd id w) := by
  refine ⟨fun j v h => ?_⟩
  refine State.modArb_arbHolds (by intro a; split; rfl; dsimp only; split <;> rfl) (fun a ha => ?_) h
  rw [List.any_eq_false] at ha
  split
  · exact List.any_eq_false.mpr ha
  · dsimp only
    split <;> exact List.any_eq_false.mpr fun y hy => ha y (List.mem_of_mem_filter hy)

theorem State.requestAt_noGrant (s : State) (n : Nat) (b : Bool) (w : Work) (l : List Nat) : NoGrant s (s.requestAt n b w l) := by
  refine NoGrant.foldl (fun s a => ?_) l s
  split
  · exact NoGrant.refl s
  · exact State.arbRequest_noGrant ..

theorem State.needUnit_noGrant (s : State) (u : UnitId) : NoGrant s (s.needUnit u) := by
  unfold State.needUnit
  split
  · exact NoGrant.trans _ (s.setUnit u .waiting) _ (NoGrant.of_arbs rfl) (State.arbRequest_noGrant ..)
  · exact NoGrant.refl s

theorem State.needTensor_noGrant (s : State) (tile : Nat) (b rb : Bool) (w : Work) : NoGrant s (s.needTensor tile b rb w) := by
  unfold State.needTensor
  dsimp only
  split
  · exact State.arbRequest_noGrant ..
  · exact NoGrant.trans _ _ _ (State.arbRequest_noGrant ..) (State.needUnit_noGrant ..)

theorem State.dropWork_noGrant (s : State) (p : Work → Bool) : NoGrant s (s.dropWork p) := by
  refine NoGrant.trans s (s.arbWithdraw p) _ ⟨fun a w h => ?_⟩ (NoGrant.foldl (fun s (x : Nat × Work) => State.arbEnd_noGrant s x.1 x.2) _ _)
  unfold State.arbHolds State.arb State.arbWithdraw at *
  rw [List.find?_map]
  have hp : ((fun b : Arb => b.id == a) ∘ fun b : Arb => { b with waiting := b.waiting.filter fun r => !p r.work }) = fun b => b.id == a :=
    rfl
  rw [hp]
  revert h
  cases s.arbs.find? fun b => b.id == a <;> exact id

/-- Work takes its own grants, gives none to others, and in the end has none of them (R55, R56). -/
theorem State.takeGrant_arbEnd_noGrant (s : State) (w : Work) (a : Nat) : NoGrant s ((s.takeGrant w a).arbEnd a w) := by
  refine ⟨fun j v h => ?_⟩
  by_cases hv : v = w
  · by_cases hj : j = a
    · subst hv hj; exact State.arbEnd_arbHolds ..
    · unfold State.arbHolds
      rw [State.arbEnd_arb_ne hj]
      unfold State.takeGrant
      split
      · unfold State.arbGive; rw [State.modArb_arb_ne hj (by intro a; rfl)]; exact h
      · exact h
  · refine (State.arbEnd_noGrant _ _ _).keeps _ _ ?_
    unfold State.takeGrant
    split
    · rename_i r hr
      have hw : r.work = w := by simpa using List.find?_some hr
      refine State.modArb_arbHolds (by intro a; rfl) (fun b hb => ?_) h
      simp only [List.any_append, hb, List.any_cons, List.any_nil, Bool.or_false, Bool.false_or, beq_eq_false_iff_ne]
      exact fun e => hv (e.symm.trans hw)
    · exact h

theorem State.useGrants_noGrant (s : State) (w : Work) (l : List Nat) : NoGrant s (s.useGrants w l) :=
  NoGrant.foldl (fun s a => State.takeGrant_arbEnd_noGrant s w a) l s

theorem State.useGrants_arbHolds (w : Work) {a : Nat} : ∀ (l : List Nat) (s : State), a ∈ l → (s.useGrants w l).arbHolds a w = false
  | [], _, h => absurd h List.not_mem_nil
  | j :: l, s, h => by
    have e : s.useGrants w (j :: l) = ((s.takeGrant w j).arbEnd j w).useGrants w l := rfl
    rw [e]
    obtain rfl | h := List.mem_cons.mp h
    · exact (State.useGrants_noGrant _ _ _).keeps _ _ (State.arbEnd_arbHolds ..)
    · exact State.useGrants_arbHolds w l _ h

/-- Grants at other arbiters are as they were. -/
theorem State.useGrants_arb_ne (w : Work) {a : Nat} : ∀ (l : List Nat) (s : State), a ∉ l → (s.useGrants w l).arb a = s.arb a
  | [], _, _ => rfl
  | j :: l, s, h => by
    have hj : a ≠ j := fun e => h (e ▸ List.mem_cons_self ..)
    have hl : a ∉ l := fun m => h (List.mem_cons_of_mem _ m)
    have e : s.useGrants w (j :: l) = ((s.takeGrant w j).arbEnd j w).useGrants w l := rfl
    rw [e, State.useGrants_arb_ne w l _ hl, State.arbEnd_arb_ne hj]
    unfold State.takeGrant
    split
    · exact State.modArb_arb_ne hj (by intro a; rfl)
    · rfl

theorem State.writeCompletion_arbs (s : State) (q cmd : Nat) (c : Compl) (detail n : Nat) (ok : Bool) :
    (s.writeCompletion q cmd c detail n ok).arbs = s.arbs := by
  rw [State.writeCompletion_frame]

theorem State.complete_noGrant (s : State) (r : Req) (c : Compl) (io : HostIO) : NoGrant s (s.complete r c io) := by
  refine NoGrant.of_arbs ?_
  have hm := State.releaseMerge_frame { s with reqs := s.reqs.filter (·.num != r.num) } r
  have hma : ({ s with reqs := s.reqs.filter (·.num != r.num) }.releaseMerge r).arbs = s.arbs := by rw [hm]
  refine (State.writeCompletion_arbs ..).trans ?_
  rw [apply_ite State.arbs, State.emit_arbs]
  exact (ite_self _).trans hma

end Sys2Proof.Machine
end

-- ==== Proofs: The window and the units of a run (O43) ====
section
/-! SUPPORT. What the work of a run leaves as it was, the slots that its window takes, and the unit that comes next. -/

namespace Sys2Proof.Machine

open Sys2Proof

/-! ### What the work of a run leaves as it was -/

/-- `x` is `s` but for the runs, what arbiters and units are asked for, free values taken and what has been sent since; nothing has
been granted. -/
structure Aside (s x : State) : Prop where
  frame : x = { s with runs := x.runs, arbs := x.arbs, free := x.free, nextNum := x.nextNum, pwr := x.pwr, sched := x.sched, eng := x.eng }
  grants : NoGrant s x
  frames : ∀ d b, FrameTo s d b → FrameTo x d b

theorem Aside.refl (s : State) : Aside s s := ⟨rfl, NoGrant.refl s, fun _ _ h => h⟩

theorem Aside.trans (s x y : State) (h : Aside s x) (k : Aside x y) : Aside s y where
  frame := by rw [k.frame, h.frame]
  grants := NoGrant.trans _ _ _ h.grants k.grants
  frames := fun d b hf => k.frames d b (h.frames d b hf)

theorem Aside.foldl {α : Type} {f : State → α → State} (h : ∀ s a, Aside s (f s a)) (l : List α) (s : State) : Aside s (l.foldl f s) :=
  foldl_head_keeps Aside.refl Aside.trans h l s

section
variable {s x : State} (h : Aside s x)
include h

theorem Aside.nodeId_eq : x.nodeId = s.nodeId := by rw [h.frame]; rfl
theorem Aside.reqs_eq : x.reqs = s.reqs := by rw [h.frame]
theorem Aside.queues_eq : x.queues = s.queues := by rw [h.frame]
theorem Aside.req?_eq (n : Nat) : x.req? n = s.req? n := by rw [h.frame]; rfl
theorem Aside.coll?_eq (n : Nat) : x.coll? n = s.coll? n := by rw [h.frame]; rfl
theorem Aside.ownerOf_eq (n : Nat) : x.ownerOf n = s.ownerOf n := by rw [h.frame]; rfl
theorem Aside.model?_eq (n k : Nat) : x.model? n k = s.model? n k := by rw [h.frame]; rfl
theorem Aside.otherOwners_eq (c : Coll) : x.otherOwners c = s.otherOwners c := by rw [h.frame]; rfl
theorem Aside.channelsOn_eq : x.channelsOn = s.channelsOn := by rw [h.frame]; rfl
theorem Aside.tilesOn_eq : x.tilesOn = s.tilesOn := by rw [h.frame]; rfl
theorem Aside.segmentsOf_eq (y : Run) (m : Model) (c : Coll) (u : Nat) : x.segmentsOf y m c u = s.segmentsOf y m c u := by
  rw [h.frame]; rfl

end

theorem Sent.aside {s x : State} (h : Sent s x) : Aside s x where
  frame := by rw [h.frame]
  grants := NoGrant.of_arbs h.arbs_eq
  frames := fun _ _ hf => hf.sent h

theorem State.modRun_aside (s : State) (n : Nat) (f : Run → Run) : Aside s (s.modRun n f) := ⟨rfl, NoGrant.of_arbs rfl, fun _ _ h => h⟩

theorem Aside.of_free (s : State) (n : Nat) : Aside s { s with free := n } := ⟨rfl, NoGrant.of_arbs rfl, fun _ _ h => h⟩

/-- A change of arbiters that gives no grant. -/
theorem Aside.of_arbs {s x : State} (hx : x = { s with arbs := x.arbs }) (hg : NoGrant s x) : Aside s x where
  frame := by rw [hx]
  grants := hg
  frames := fun _ _ hf => by rw [hx]; exact hf

theorem State.requestAll_aside (s : State) (w : Work) (l : List Nat) : Aside s (s.requestAll w l) :=
  Aside.of_arbs (State.requestAt_frame s 0 false w l) (State.requestAt_noGrant ..)

theorem State.useGrants_aside (s : State) (w : Work) (l : List Nat) : Aside s (s.useGrants w l) :=
  Aside.of_arbs (State.useGrants_frame s w l) (State.useGrants_noGrant ..)

theorem State.dropWork_aside (s : State) (p : Work → Bool) : Aside s (s.dropWork p) :=
  Aside.of_arbs (State.dropWork_frame s p) (State.dropWork_noGrant ..)

theorem State.needTensor_aside (s : State) (tile : Nat) (b rb : Bool) (w : Work) : Aside s (s.needTensor tile b rb w) where
  frame := by rw [State.needTensor_frame]
  grants := State.needTensor_noGrant ..
  frames := fun _ _ hf => by rw [State.needTensor_frame]; exact hf

theorem State.run?_of_runs {s x : State} (h : x.runs = s.runs) (n : Nat) : x.run? n = s.run? n := by
  unfold State.run?; rw [h]

theorem State.requestAll_runs (s : State) (w : Work) (l : List Nat) : (s.requestAll w l).runs = s.runs := by
  unfold State.requestAll; rw [State.requestAt_frame]

theorem State.useGrants_runs (s : State) (w : Work) (l : List Nat) : (s.useGrants w l).runs = s.runs := by
  rw [State.useGrants_frame]

theorem State.dropWork_runs (s : State) (p : Work → Bool) : (s.dropWork p).runs = s.runs := by
  rw [State.dropWork_frame]

theorem Sent.runs_eq {s x : State} (h : Sent s x) : x.runs = s.runs := by rw [h.frame]

theorem State.run?_num {s : State} {n : Nat} {x : Run} (h : s.run? n = some x) : x.num = n := by
  simpa using List.find?_some h

/-- A request for work at some arbiters waits at each of them, or is served there. -/
theorem State.requestAll_waits (s : State) (w : Work) {l : List Nat} {a : Nat} (h : a ∈ l) :
    Waits (s.requestAll w l) a w ∨ s.arbHolds a w = true := by
  by_cases hh : s.arbHolds a w = true
  · exact Or.inr hh
  · refine Or.inl ?_
    unfold Waits State.requestAll
    rw [State.requestAt_arb, if_pos h, asked, if_neg hh]
    exact asking_waits ..

theorem State.requestAll_keeps_waits (s : State) (w : Work) (l : List Nat) {a : Nat} {v : Work} (h : Waits s a v) :
    Waits (s.requestAll w l) a v := by
  refine foldl_head_keeps (R := fun s x => Waits s a v → Waits x a v) (fun _ h => h) (fun _ _ _ h k hs => k (h hs)) (fun s j hs => ?_) l s h
  split
  · exact hs
  · exact State.arbRequest_keeps_waits s _ _ _ _ _ hs

/-! ### Frames to the other owners (R363) -/

theorem State.exchange_sent (s : State) (c : Coll) (num layer : Nat) (x : Nat → Exchange) : Sent s (s.exchange c num layer x) := by
  unfold State.exchange
  split
  · exact Sent.refl s
  · exact Sent.foldl (fun _ _ => State.sendWork_sent ..) _ s

theorem State.exchange_frameTo {s : State} {num : Nat} {r : Req} (hr : s.req? num = some r) (c : Coll) (layer : Nat) (x : Nat → Exchange)
    {o : Nat} (ho : o ∈ s.otherOwners c) : FrameTo (s.exchange c num layer x) o (.activation ⟨s.nodeId, num⟩ layer (x o)) := by
  unfold State.exchange
  rw [hr]
  exact foldl_brings Sent.refl Sent.trans (fun _ _ => State.sendWork_sent ..) s
    (P := fun o y => FrameTo y o (.activation ⟨s.nodeId, num⟩ layer (x o)))
    (fun z o _ => State.sendWork_frameTo z _ _) (fun _ _ _ h hf => hf.sent h) _ s (Sent.refl s) o ho

/-! ### The window (R37, R344) -/

/-- Filling adds slots to the window of the run; nothing else of it changes, no grant ends and no unit goes off. -/
structure FilledFrom (s z : State) (num : Nat) : Prop where
  aside : Aside s z
  run : ∀ x, s.run? num = some x → ∃ l, z.run? num = some { x with slots := x.slots ++ l }
  holds : ∀ a w, s.arbHolds a w = true → z.arbHolds a w = true
  pwr : z.pwr = s.pwr

theorem FilledFrom.trans {s y z : State} {num : Nat} (h : FilledFrom s y num) (k : FilledFrom y z num) : FilledFrom s z num where
  aside := Aside.trans _ _ _ h.aside k.aside
  run x hx := by
    obtain ⟨l, hl⟩ := h.run x hx
    obtain ⟨l', hl'⟩ := k.run _ hl
    exact ⟨l ++ l', by rw [← List.append_assoc]; exact hl'⟩
  holds a w hw := k.holds a w (h.holds a w hw)
  pwr := k.pwr.trans h.pwr

theorem State.run?_keepsSlots {s z : State} {num : Nat} (hr : z.runs = s.runs) (x : Run) (hx : s.run? num = some x) :
    ∃ l, z.run? num = some { x with slots := x.slots ++ l } :=
  ⟨[], by rw [List.append_nil, State.run?_of_runs hr]; exact hx⟩

theorem Sent.filledFrom {s z : State} (h : Sent s z) (num : Nat) : FilledFrom s z num where
  aside := h.aside
  run := State.run?_keepsSlots h.runs_eq
  holds a w hw := by
    unfold State.arbHolds State.arb at *
    rw [h.arbs_eq]
    exact hw
  pwr := by rw [h.frame]

theorem FilledFrom.refl (s : State) (num : Nat) : FilledFrom s s num := (Sent.refl s).filledFrom num

theorem State.requestAll_filledFrom (s : State) (w : Work) (l : List Nat) (num : Nat) : FilledFrom s (s.requestAll w l) num where
  aside := State.requestAll_aside ..
  run := State.run?_keepsSlots (State.requestAll_runs ..)
  holds a v hv := by
    unfold State.arbHolds State.requestAll at *
    rw [State.requestAt_arb]
    split
    · rw [asked_granted]; exact hv
    · exact hv
  pwr := by
    unfold State.requestAll
    rw [State.requestAt_frame]

theorem State.addSlot_filledFrom (s : State) (num : Nat) (y : (Nat × Nat) × Bool) :
    FilledFrom s (s.modRun num fun x => { x with slots := x.slots ++ [y] }) num where
  aside := State.modRun_aside ..
  run x hx := ⟨[y], by rw [State.modRun_run (by intro u; rfl), hx]; rfl⟩
  holds _ _ hw := hw
  pwr := rfl

/-- A free slot takes a unit, which streams unless it is idle (R37, R335, R344). -/
def State.fillSlot (s : State) (num : Nat) (m : Model) (c : Coll) (u : Nat × Nat) (idle : Bool) : State :=
  let s := s.modRun num fun x => { x with slots := x.slots ++ [(u, idle)] }
  if !idle then s.requestAll (.layer ⟨s.nodeId, num⟩) s.channelsOn
  else if m.striped u.1 then s.exchange c num u.1 fun _ => .part else s

theorem State.fillSlot_filledFrom (s : State) (num : Nat) (m : Model) (c : Coll) (u : Nat × Nat) (idle : Bool) :
    FilledFrom s (s.fillSlot num m c u idle) num := by
  refine (State.addSlot_filledFrom s num (u, idle)).trans ?_
  unfold State.fillSlot
  dsimp only
  generalize (s.modRun num fun x => { x with slots := x.slots ++ [(u, idle)] } : State) = y
  split
  · exact State.requestAll_filledFrom ..
  · split
    · exact (State.exchange_sent y c num u.1 fun _ => Exchange.part).filledFrom num
    · exact FilledFrom.refl ..

theorem State.fill_filledFrom (s : State) (num : Nat) : FilledFrom s (s.fill num) num := by
  unfold State.fill
  split
  · exact FilledFrom.refl ..
  · split
    · dsimp only
      split
      · exact FilledFrom.refl ..
      · refine iteInduction (motive := fun z => FilledFrom s z num) (fun _ => FilledFrom.refl ..)
          (fun _ => State.fillSlot_filledFrom s num _ _ _ _)
    · exact FilledFrom.refl ..

theorem State.fillWindow_filledFrom (s : State) (num : Nat) : FilledFrom s (s.fillWindow num) num :=
  (State.fill_filledFrom s num).trans (State.fill_filledFrom ..)

/-! ### The next unit (R346, R348, R350) -/

/-- No token of a run remains in its step behind this layer: the model's free choice `i` (R350). -/
def Run.leaves (x : Run) (r : Req) (m : Model) (i : Nat) : Bool :=
  !x.train && bit (byteAt r.entry 49) 2 && decide (x.layer < hdrLayers m.header) && Config.modelCount i % 2 == 1

/-- The unit that a run goes on with, and whether it begins a step. -/
def State.unitNext (s : State) (x : Run) (m : Model) (c : Coll) (left : Bool) : Option ((Nat × Nat) × Bool) :=
  if left then (if x.step + 1 < x.steps then some ((0, 0), true) else none) else s.unitAfter x m c (x.layer, x.segment)

/-- The run stands at the beginning of a unit. -/
def Run.goTo (left : Bool) (u : (Nat × Nat) × Bool) (y : Run) : Run :=
  { y with layer := u.1.1, segment := u.1.2, stage := .compute, step := if u.2 then y.step + 1 else y.step,
           slots := if left then [] else y.slots.drop 1, routes := [],
           inbox := if u.1.1 = y.layer then y.inbox else y.inbox.filter (·.2.1 != y.layer) }

section
variable {s : State} {x y : Run} {r : Req} {m : Model} {c : Coll} {u : (Nat × Nat) × Bool}

theorem State.nextUnit_eq (s : State) (x : Run) (r : Req) (m : Model) (c : Coll) :
    s.nextUnit x r m c = (s.unitNext x m c (x.leaves r m s.free)).map fun u =>
      ((if x.leaves r m s.free then s.takeFree.2.dropWork (· == .layer ⟨s.nodeId, x.num⟩) else s.takeFree.2).modRun x.num
        (Run.goTo (x.leaves r m s.free) u)).fillWindow x.num := by
  unfold State.nextUnit
  dsimp only
  split
  · rename_i h
    have hu : s.unitNext x m c (x.leaves r m s.free) = none := h
    rw [hu]; rfl
  · rename_i u wraps h
    have hu : s.unitNext x m c (x.leaves r m s.free) = some (u, wraps) := h
    rw [hu]; rfl

theorem State.nextUnit_none (h : s.unitNext x m c (x.leaves r m s.free) = none) : s.nextUnit x r m c = none := by
  rw [State.nextUnit_eq, h]; rfl

/-- The state in which the slots of a run's next unit are filled. -/
theorem State.nextUnit_fills {z : State} (h : s.nextUnit x r m c = some z) : ∃ u y, s.unitNext x m c (x.leaves r m s.free) = some u ∧
    Aside s y ∧ y.runs = s.runs ∧ z = (y.modRun x.num (Run.goTo (x.leaves r m s.free) u)).fillWindow x.num := by
  rw [State.nextUnit_eq, Option.map_eq_some_iff] at h
  obtain ⟨u, hu, rfl⟩ := h
  have hfree : Aside s s.takeFree.2 := Aside.of_free s _
  refine ⟨u, _, hu, ?_, ?_, rfl⟩
  · split
    · exact Aside.trans _ _ _ hfree (State.dropWork_aside ..)
    · exact hfree
  · split
    · exact State.dropWork_runs ..
    · rfl

theorem State.nextUnit_aside {z : State} (h : s.nextUnit x r m c = some z) : Aside s z := by
  obtain ⟨u, y, -, hy, -, rfl⟩ := State.nextUnit_fills h
  exact Aside.trans _ _ _ hy (Aside.trans _ _ _ (State.modRun_aside ..) (State.fillWindow_filledFrom ..).aside)

/-- A run that has a next unit goes to its beginning. -/
theorem State.nextUnit_some (h : s.unitNext x m c (x.leaves r m s.free) = some u) (hy : s.run? x.num = some y) :
    ∃ z, s.nextUnit x r m c = some z ∧ RunAt z x.num u.1.1 u.1.2 (if u.2 then y.step + 1 else y.step) := by
  have hz := State.nextUnit_eq s x r m c
  rw [h] at hz
  refine ⟨_, hz, ?_⟩
  obtain ⟨v, b, hv, -, hrb, he⟩ := State.nextUnit_fills hz
  obtain rfl : v = u := Option.some.inj (hv.symm.trans h)
  rw [he]
  have hg : (b.modRun x.num (Run.goTo (x.leaves r m s.free) v)).run? x.num = some (Run.goTo (x.leaves r m s.free) v y) := by
    rw [State.modRun_run (by intro z; rfl), State.run?_of_runs hrb, hy]; rfl
  obtain ⟨l, hl⟩ := (State.fillWindow_filledFrom _ x.num).run _ hg
  exact ⟨_, hl, rfl, rfl, rfl, rfl⟩

end

end Sys2Proof.Machine
end

-- ==== Proofs: The end of a run (O43) ====
section
/-! SUPPORT. Fields of a layout read back, and what the end of a run leaves as it was. -/

namespace Sys2Proof.Machine

open Sys2Proof

/-! ### Fields of a layout -/

theorem le_congr {b b' : Bytes} : ∀ {n i j : Nat}, (∀ k < n, b.getD (i + k) 0 = b'.getD (j + k) 0) → le b i n = le b' j n
  | 0, _, _, _ => rfl
  | n + 1, i, j, h => by
    have h0 := h 0 (Nat.succ_pos n)
    have ih : le b (i + 1) n = le b' (j + 1) n := le_congr fun k hk => by
      have := h (k + 1) (Nat.succ_lt_succ hk)
      rwa [show i + (k + 1) = i + 1 + k by omega, show j + (k + 1) = j + 1 + k by omega] at this
    simp only [le, byteAt, ih]
    rw [show b.getD i 0 = b'.getD j 0 from h0]

theorem le_cons (x : Byte) (b : Bytes) (n i : Nat) : le (x :: b) (i + 1) n = le b i n :=
  le_congr fun k _ => by rw [show i + 1 + k = i + k + 1 by omega, List.getD_cons_succ]

theorem le_toLE : ∀ (n v : Nat), le (toLE n v) 0 n = v % 256 ^ n
  | 0, v => (Nat.mod_one v).symm
  | n + 1, v => by
    have ih := le_toLE n (v / 256)
    have e : le (toLE (n + 1) v) 0 (n + 1) = v % 256 + 256 * (v / 256 % 256 ^ n) := by
      simp only [le, toLE, le_cons, ih]
      simp [byteAt]
    rw [e, Nat.pow_succ', Nat.mod_mul]

theorem le_lt (b : Bytes) : ∀ (n i : Nat), le b i n < 256 ^ n
  | 0, _ => Nat.one_pos
  | n + 1, i => by
    have ih := le_lt b n (i + 1)
    have hb : byteAt b i < 256 := (b.getD i 0).isLt
    simp only [le, Nat.pow_succ']
    omega

theorem layout_getD {n i : Nat} (l : List (Nat × Bytes)) (h : i < n) :
    (layout n l).getD i 0 = match l.find? fun f => decide (f.1 ≤ i) && decide (i < f.1 + f.2.length) with
      | some f => f.2.getD (i - f.1) 0
      | none => 0 := by
  simp only [layout, List.getD_eq_getElem?_getD, List.getElem?_map, List.getElem?_range h]
  rfl

/-- A field that no field before it reaches is read back, whatever follows. -/
theorem le_layout {n off len : Nat} {l : List (Nat × Bytes)} {b rest : Bytes} (i : Nat) (hi : l[i]? = some (off, b)) (hb : b.length = len)
    (hpre : ∀ f ∈ l.take i, f.1 + f.2.length ≤ off) (hoff : off + len ≤ n) : le (layout n l ++ rest) off len = le b 0 len := by
  refine le_congr fun k hk => ?_
  have hlt : off + k < n := by omega
  obtain ⟨hil, hib⟩ := List.getElem?_eq_some_iff.mp hi
  have hl : l = l.take i ++ (off, b) :: l.drop (i + 1) := by
    rw [← hib, List.getElem_cons_drop, List.take_append_drop]
  have hfind : l.find? (fun f => decide (f.1 ≤ off + k) && decide (off + k < f.1 + f.2.length)) = some (off, b) := by
    rw [hl, List.find?_append, List.find?_eq_none.mpr]
    · simp [hb, hk]
    · intro f hf
      have := hpre f hf
      simp only [Bool.and_eq_true, decide_eq_true_eq, not_and]
      omega
  rw [List.getD_append _ _ _ _ (by simpa using hlt), layout_getD _ hlt, hfind]
  simp

/-! ### What the end of a run leaves as it was (R345, R360, R370) -/

/-- `x` is `s` but for readers, charges, models and what arbiters hold for the run; nothing has been granted. -/
structure Ending (s x : State) : Prop where
  frame : x = { s with shards := x.shards, arbs := x.arbs, fns := x.fns, models := x.models, free := x.free }
  grants : NoGrant s x

theorem Ending.refl (s : State) : Ending s s := ⟨rfl, NoGrant.refl s⟩

theorem Ending.trans {s x y : State} (h : Ending s x) (k : Ending x y) : Ending s y where
  frame := by rw [k.frame, h.frame]
  grants := NoGrant.trans _ _ _ h.grants k.grants

theorem Ending.withRuns {s x : State} (h : Ending s x) (l : List Run) : Ending { s with runs := l } { x with runs := l } where
  frame := by rw [h.frame]
  grants := ⟨h.grants.keeps⟩

theorem State.modFn_ending (s : State) (i : Nat) (f : Fn → Fn) : Ending s (s.modFn i f) := ⟨rfl, NoGrant.of_arbs rfl⟩

theorem State.modModel_ending (s : State) (c m : Nat) (f : Model → Model) : Ending s (s.modModel c m f) := ⟨rfl, NoGrant.of_arbs rfl⟩

theorem State.release_ending (s : State) (f : Nat) (k : QKind) (n : Nat) : Ending s (s.release f k n) := State.modFn_ending ..

theorem State.releaseModel_ending (s : State) (m : Model) : Ending s (s.releaseModel m) := by
  unfold State.releaseModel
  dsimp only
  refine Ending.trans ?_ (foldl_head_keeps Ending.refl (fun _ _ _ h k => h.trans k) (fun _ _ => State.release_ending ..) m.expertCache _)
  exact ((State.release_ending s m.fn .t1 m.t1).trans (State.release_ending ..)).trans (State.release_ending ..)

theorem State.reapModel_ending (s : State) (c m : Nat) : Ending s (s.reapModel c m) := by
  unfold State.reapModel
  split
  · exact Ending.refl s
  · split
    · exact Ending.refl s
    · exact (State.releaseModel_ending ..).trans ⟨rfl, NoGrant.of_arbs rfl⟩

/-- The state without run `num`. -/
def State.sansRun (s : State) (num : Nat) : State := { s with runs := s.runs.filter (·.num != num) }

theorem State.sansRun_run (s : State) (num : Nat) : (s.sansRun num).run? num = none :=
  List.find?_eq_none.mpr fun x hx => by simpa using (List.mem_filter.mp hx).2

theorem State.sansRun_of_none {s : State} {num : Nat} (h : s.run? num = none) : s.sansRun num = s := by
  have hf : s.runs.filter (·.num != num) = s.runs :=
    List.filter_eq_self.mpr fun x hx => by simpa using List.find?_eq_none.mp h x hx
  unfold State.sansRun
  rw [hf]

theorem State.endRun_ending (s : State) (num : Nat) : Ending (s.sansRun num) (s.endRun num) := by
  unfold State.endRun
  split
  · rename_i h
    rw [State.sansRun_of_none h]
    exact Ending.refl s
  · dsimp only
    refine Ending.trans ?_ (State.reapModel_ending ..)
    refine Ending.trans ?_ (State.modModel_ending ..)
    refine Ending.trans ?_ (State.release_ending ..)
    refine Ending.trans (x := { s.sansRun num with shards := s.shards.map fun (d : Shard) =>
      ({ d with readers := d.readers.filter (·.1 != .req ⟨s.nodeId, num⟩) } : Shard) }) ⟨rfl, NoGrant.of_arbs rfl⟩ ?_
    exact ⟨by rw [State.dropWork_frame]; rfl, State.dropWork_noGrant ..⟩

theorem Ending.endRun {s x : State} (h : Ending s x) (hr : x.runs = s.runs) (num : Nat) : Ending (s.sansRun num) (x.endRun num) := by
  have hs := h.withRuns (s.runs.filter (·.num != num))
  refine Ending.trans (x := x.sansRun num) ?_ (State.endRun_ending x num)
  unfold State.sansRun
  rw [hr]
  exact hs

theorem Ending.runs_eq {s x : State} (h : Ending s x) : x.runs = s.runs := by rw [h.frame]

theorem State.dropRun_ending (s : State) (num : Nat) : Ending (s.sansRun num) (s.dropRun num) := by
  unfold State.dropRun
  split
  · rename_i x r _ _
    dsimp only
    generalize hy : (if x.handle = 0 then s else _ : State) = y
    have h1 : Ending s y := by
      subst hy
      split
      · exact Ending.refl s
      · exact (State.release_ending ..).trans (State.modFn_ending ..)
    generalize hz : (if x.train && !x.waiting then _ else y : State) = z
    have h2 : Ending s z := by
      subst hz
      split
      · exact h1.trans (State.modModel_ending ..)
      · exact h1
    exact h2.endRun h2.runs_eq num
  · exact State.endRun_ending s num

theorem State.runOutputs_free (k w : Nat) : ∀ (l : List Nat) (s : State), ∃ n, (s.runOutputs k w l).2 = { s with free := n }
  | [], s => ⟨s.free, rfl⟩
  | _ :: l, s => by
    obtain ⟨n, hn⟩ := State.runOutputs_free k w l s.takeFree.2
    exact ⟨n, hn⟩

theorem State.freeHandle_ending (s : State) (f h : Nat) : Ending s (s.freeHandle f h) := by
  unfold State.freeHandle
  exact (State.release_ending ..).trans (State.modFn_ending ..)

/-- What a completion of a run leaves of its state: the run is gone, and its request has ended with `q`. -/
theorem Ending.complete {s y : State} {r : Req} (h : Ending (s.sansRun r.num) y) {io : HostIO} (hio : HostTakes io) (q : Compl) :
    CompletedWith s (y.complete r q io) r q ∧ (y.complete r q io).run? r.num = none := by
  have hruns : (y.complete r q io).runs = y.runs := by rw [(State.complete_only hio).1]
  refine ⟨(State.complete_completedWith hio).of_eq (by rw [h.frame]; rfl) (by rw [h.frame]; rfl), ?_⟩
  rw [State.run?_of_runs (hruns.trans h.runs_eq)]
  exact s.sansRun_run r.num

end Sys2Proof.Machine
end

-- ==== Proofs: Stages of a run (O43) ====
section
/-! SUPPORT. What a run does at the end of a unit, the units that serve a stage, and what its stages grant. -/

namespace Sys2Proof.Machine

open Sys2Proof

/-! ### Behind the last unit (R358, R371) -/

section
variable {s : State} {x : Run} {r : Req} {m : Model} {c : Coll} {io : HostIO}

/-- A run that delivers nothing completes with its header, its outputs and its counts (R358). -/
theorem State.finishRun_completes (hd : le r.entry 88 4 = 0) : ∃ (y : State) (q : Compl), s.finishRun r x m io = y.complete r q io ∧
    Ending (s.sansRun r.num) y ∧ q.status = stOk ∧ q.detail = 0 ∧ q.value = le r.entry 56 4 ∧ le q.data 0 4 = le r.entry 56 4 ∧
    le q.data 32 8 = x.readStamp % 2 ^ 64 := by
  unfold State.finishRun
  dsimp only
  generalize ho : s.runOutputs _ _ _ = o
  have hfree := State.runOutputs_free (Config.entryKind (le m.header 4 2) (byteAt r.entry 48)).2.1
    (Config.entryKind (le m.header 4 2) (byteAt r.entry 48)).2.2 (x.seqs.map (·.2.2)) s
  rw [ho] at hfree
  obtain ⟨outs, y⟩ := o
  obtain ⟨n, rfl⟩ := hfree
  rw [if_pos hd]
  dsimp only
  generalize hz : (if bit (byteAt r.entry 49) 4 then _ else _ : State) = z
  have hsz : Ending s z := by
    subst hz
    have h0 : Ending s { s with free := n + 1 + 1 } := ⟨rfl, NoGrant.of_arbs rfl⟩
    split
    · exact h0.trans (State.freeHandle_ending ..)
    · exact h0
  refine ⟨_, _, rfl, hsz.endRun hsz.runs_eq r.num, rfl, rfl, rfl, ?_, ?_⟩
  · exact (le_layout 0 rfl (toLE_length ..) (by simp) (by simp)).trans ((le_toLE 4 _).trans (Nat.mod_eq_of_lt (le_lt ..)))
  · exact (le_layout 8 rfl (toLE_length ..) (by simp) (by simp)).trans (le_toLE 8 _)

theorem State.finishRun_noGrant : NoGrant s (s.finishRun r x m io) := by
  unfold State.finishRun
  dsimp only
  generalize ho : s.runOutputs _ _ _ = o
  have hfree := State.runOutputs_free (Config.entryKind (le m.header 4 2) (byteAt r.entry 48)).2.1
    (Config.entryKind (le m.header 4 2) (byteAt r.entry 48)).2.2 (x.seqs.map (·.2.2)) s
  rw [ho] at hfree
  obtain ⟨outs, y⟩ := o
  obtain ⟨n, rfl⟩ := hfree
  dsimp only
  generalize hz : (if bit (byteAt r.entry 49) 4 then _ else _ : State) = z
  have hsz : Ending s z := by
    subst hz
    have h0 : Ending s { s with free := n + 1 + 1 } := ⟨rfl, NoGrant.of_arbs rfl⟩
    split
    · exact h0.trans (State.freeHandle_ending ..)
    · exact h0
  have he : NoGrant s (z.endRun r.num) := ⟨(hsz.endRun hsz.runs_eq r.num).grants.keeps⟩
  generalize (if le r.entry 88 4 = 0 then none else z.coll? (le r.entry 88 4) : Option Coll) = d
  cases d with
  | none => exact he.trans _ _ _ (State.complete_noGrant ..)
  | some d =>
    dsimp only
    rw [State.startMembers_eq]
    refine he.trans _ _ _ (NoGrant.of_arbs ?_)
    exact (Sent.foldl (fun _ _ => State.sendMember_sent ..) _ _).arbs_eq

theorem State.accumulate_noGrant : NoGrant s (s.accumulate r x m io) := by
  have hend : ∀ (y : State) (a b d e : Nat), NoGrant s y → NoGrant s (y.finishTrain r x a b d e io) := fun y a b d e hy => by
    have h1 : NoGrant s y.takeFree.2 := hy.trans _ _ _ (NoGrant.of_arbs rfl)
    have h2 : NoGrant s (y.takeFree.2.endRun x.num) := h1.trans _ _ _ ⟨(State.endRun_ending y.takeFree.2 x.num).grants.keeps⟩
    exact h2.trans _ _ _ (State.complete_noGrant ..)
  unfold State.accumulate
  dsimp only
  generalize hy : (State.modRun _ x.num _ : State) = y
  have hsy : NoGrant s y := by subst hy; exact NoGrant.of_arbs rfl
  split
  · exact hsy
  · exact hend _ _ _ _ _ hsy

/-- What a run does at the end of a unit: it goes on with the next, or it is over. -/
def State.leaveUnit (s : State) (x : Run) (r : Req) (m : Model) (c : Coll) (io : HostIO) : State :=
  match s.nextUnit x r m c with
  | some s => s
  | none => if x.train then s.accumulate r x m io else s.finishRun r x m io

theorem State.leaveUnit_noGrant : NoGrant s (s.leaveUnit x r m c io) := by
  unfold State.leaveUnit
  split
  · rename_i z hz
    exact (State.nextUnit_aside hz).grants
  · split
    · exact State.accumulate_noGrant
    · exact State.finishRun_noGrant

/-- A run leaves a unit to the next, which the model's free choice may make the first of the next step, or it completes. -/
theorem State.leaveUnit_leaves {y : Run} {left : Bool} (hy : s.run? x.num = some y) (hstep : y.step = x.step) (hnum : r.num = x.num)
    (htrain : x.train = false) (hio : HostTakes io)
    (hleft : left = (bit (byteAt r.entry 49) 2 && decide (x.layer < hdrLayers m.header) && Config.modelCount s.free % 2 == 1)) :
    LeavesUnit s (s.leaveUnit x r m c io) x r m c left := by
  have hl : x.leaves r m s.free = left := by rw [hleft]; simp [Run.leaves, htrain]
  have hgo : ∀ u, s.unitNext x m c left = some u →
      RunAt (s.leaveUnit x r m c io) x.num u.1.1 u.1.2 (if u.2 then x.step + 1 else x.step) := fun u hu => by
    obtain ⟨z, hz, hat⟩ := State.nextUnit_some (r := r) (hl.symm ▸ hu) hy
    unfold State.leaveUnit
    rw [hz, ← hstep]
    exact hat
  have hend : s.unitNext x m c left = none → le r.entry 88 4 = 0 → (s.leaveUnit x r m c io).run? x.num = none ∧
      ∃ q, CompletedWith s (s.leaveUnit x r m c io) r q ∧ q.status = stOk ∧ q.detail = 0 ∧ q.value = le r.entry 56 4 ∧
        le q.data 0 4 = le r.entry 56 4 ∧ le q.data 32 8 = x.readStamp % 2 ^ 64 := fun hn hd => by
    obtain ⟨z, q, hz, hend, hq⟩ := State.finishRun_completes (s := s) (x := x) (m := m) (io := io) hd
    obtain ⟨hdone, hgone⟩ := hend.complete hio q
    have he : s.leaveUnit x r m c io = z.complete r q io := by
      unfold State.leaveUnit
      rw [State.nextUnit_none (hl.symm ▸ hn), ← hz]
      simp [htrain]
    rw [he, ← hnum]
    exact ⟨hgone, q, hdone, hq⟩
  refine ⟨fun h0 hseg => ?_, fun h0 hseg hlay => ?_, fun hcase => ⟨fun hs => ?_, fun hs hd => hend ?_ hd⟩⟩
  · exact hgo ((x.layer, x.segment + 1), false) (by simp [State.unitNext, State.unitAfter, h0, hseg])
  · exact hgo ((x.layer + 1, 0), false) (by simp [State.unitNext, State.unitAfter, h0, Nat.not_lt.mpr hseg, hlay])
  · refine hgo ((0, 0), true) ?_
    obtain h1 | ⟨hseg, hlay⟩ := hcase
    · simp [State.unitNext, h1, hs]
    · cases left <;> simp [State.unitNext, State.unitAfter, Nat.not_lt.mpr hseg, Nat.not_lt.mpr hlay, hs]
  · obtain h1 | ⟨hseg, hlay⟩ := hcase
    · simp [State.unitNext, h1, Nat.not_lt.mpr hs]
    · cases left <;> simp [State.unitNext, State.unitAfter, Nat.not_lt.mpr hseg, Nat.not_lt.mpr hlay, Nat.not_lt.mpr hs]

theorem LeavesUnit.of_aside {s₀ z : State} {left : Bool} (h : Aside s₀ s) (hu : LeavesUnit s z x r m c left) :
    LeavesUnit s₀ z x r m c left := by
  unfold LeavesUnit at *
  rw [h.segmentsOf_eq] at hu
  obtain ⟨h1, h2, h3⟩ := hu
  refine ⟨h1, h2, fun hc => ⟨(h3 hc).1, fun hs hd => ?_⟩⟩
  obtain ⟨hg, q, hq, hrest⟩ := (h3 hc).2 hs hd
  exact ⟨hg, q, hq.of_eq h.reqs_eq h.queues_eq, hrest⟩

end

end Sys2Proof.Machine
end

-- ==== Proofs: The units that serve a stage (O43) ====
section
/-! SUPPORT. The tensor clusters and the broadcasts that serve a stage, and the stages of a run. -/

namespace Sys2Proof.Machine

open Sys2Proof

/-! ### Units that are not clocked -/

theorem State.setUnit_unitState (s : State) (u v : UnitId) (x : UState) :
    (s.setUnit u x).unitState v = if v = u then x else s.unitState v := by
  have hp : (s.setUnit u x).pwr.units = s.pwr.units.filter (·.unit != u) ++ [⟨u, x, s.now⟩] := rfl
  unfold State.unitState
  rw [hp, List.find?_append]
  by_cases h : v = u
  · subst h
    rw [if_pos rfl, List.find?_eq_none.mpr (fun y hy => by simpa using (List.mem_filter.mp hy).2)]
    simp
  · have hf : (s.pwr.units.filter (·.unit != u)).find? (·.unit == v) = s.pwr.units.find? (·.unit == v) := by
      rw [List.find?_filter]
      congr 1
      funext y
      by_cases hy : y.unit = v
      · simp [hy, h]
      · simp [hy]
    rw [if_neg h, hf]
    have hu : ¬ u = v := fun e => h e.symm
    cases s.pwr.units.find? (·.unit == v) <;> simp [hu]

/-- A tile that is not clocked is not clocked in `x` either. -/
def NoneReady (s x : State) : Prop := ∀ t, s.tileReady t = false → x.tileReady t = false

theorem State.tileReady_of_pwr {s x : State} (h : x.pwr = s.pwr) (t : Nat) : x.tileReady t = s.tileReady t := by
  unfold State.tileReady State.unitState; rw [h]

theorem State.needTensor_noneReady (s : State) (tile : Nat) (b rb : Bool) (w : Work) : NoneReady s (s.needTensor tile b rb w) := by
  intro t ht
  have hr : ∀ (y : State) (i n : Nat) (v : Work), (y.arbRequest i n b rb v).pwr = y.pwr := fun y i n v => by
    unfold State.arbRequest; rw [State.modArb_frame]
  unfold State.needTensor
  dsimp only
  split
  · rw [State.tileReady_of_pwr (hr ..)]; exact ht
  · rw [← State.tileReady_of_pwr (hr s (tensorArb tile) 0 w)] at ht
    generalize s.arbRequest (tensorArb tile) 0 b rb w = y at *
    unfold State.needUnit
    split
    · have hp : ((y.setUnit (.cluster (4 * tile)) .waiting).arbRequest 0xA1 (unitIndex (.cluster (4 * tile))) false false
          (.wake (.cluster (4 * tile)))).pwr = (y.setUnit (.cluster (4 * tile)) .waiting).pwr := by
        unfold State.arbRequest; rw [State.modArb_frame]
      rw [State.tileReady_of_pwr hp]
      unfold State.tileReady at *
      rw [List.any_eq_false] at *
      intro v hv
      rw [State.setUnit_unitState]
      split
      · decide
      · exact ht v hv
    · exact ht

/-! ### What serves a stage (R38, R39, R355, R402) -/

/-- The tensor clusters of some tiles are asked for where they are not granted. -/
def State.needTiles (s : State) (w : Work) (l : List Nat) : State :=
  l.foldl (fun s t => if s.arbHolds (tensorArb t) w then s else s.needTensor t false false w) s

theorem State.needTiles_of_held {s : State} {w : Work} : ∀ {l : List Nat}, (∀ t ∈ l, s.arbHolds (tensorArb t) w = true) → s.needTiles w l = s
  | [], _ => rfl
  | t :: l, h => by
    have e : s.needTiles w (t :: l) = (if s.arbHolds (tensorArb t) w then s else s.needTensor t false false w).needTiles w l := rfl
    rw [e, if_pos (h t (List.mem_cons_self ..))]
    exact State.needTiles_of_held fun u hu => h u (List.mem_cons_of_mem _ hu)

theorem State.needTiles_aside (s : State) (w : Work) (l : List Nat) : Aside s (s.needTiles w l) := by
  refine Aside.foldl (fun s t => ?_) l s
  split
  · exact Aside.refl s
  · exact State.needTensor_aside ..

theorem State.needTiles_runs (s : State) (w : Work) (l : List Nat) : (s.needTiles w l).runs = s.runs :=
  foldl_keeps State.runs _ (fun s t => by split; rfl; rw [State.needTensor_frame]) l s

theorem State.needTiles_noneReady (s : State) (w : Work) (l : List Nat) : NoneReady s (s.needTiles w l) := by
  refine foldl_head_keeps (R := NoneReady) (fun _ _ h => h) (fun _ _ _ h k t ht => k t (h t ht)) (fun s t => ?_) l s
  split
  · exact fun _ h => h
  · exact fun u hu => State.needTensor_noneReady _ _ _ _ _ u hu

theorem State.needTiles_waits {s : State} {w : Work} {l : List Nat} {t : Nat} (ht : t ∈ l) (h : s.arbHolds (tensorArb t) w = false) :
    Waits (s.needTiles w l) (tensorArb t) w := by
  refine foldl_brings (R := fun s x => Aside s x ∧ ∀ a, Waits s a w → Waits x a w) (fun s => ⟨Aside.refl s, fun _ h => h⟩)
    (fun _ _ _ h k => ⟨Aside.trans _ _ _ h.1 k.1, fun a ha => k.2 a (h.2 a ha)⟩) (fun s t => ?_) s
    (P := fun t x => s.arbHolds (tensorArb t) w = false → Waits x (tensorArb t) w) (fun x t hx h => ?_) (fun _ _ _ hx k h => hx.2 _ (k h))
    l s ⟨Aside.refl s, fun _ h => h⟩ t ht h
  · split
    · exact ⟨Aside.refl s, fun _ h => h⟩
    · exact ⟨State.needTensor_aside .., fun _ h => State.needTensor_keeps_waits _ _ _ _ _ h⟩
  · rw [if_neg (by rw [hx.1.grants.keeps _ _ h]; exact Bool.false_ne_true)]
    exact State.needTensor_waits ..

section
variable {s : State} {x : Run} {m : Model}

theorem State.serveStage_large (h : x.small m = false) : s.serveStage x m =
    if (s.needTiles (.layer ⟨s.nodeId, x.num⟩) s.tilesOn).turnsAll (.layer ⟨s.nodeId, x.num⟩) (s.tilesOn.map tensorArb) &&
        (s.needTiles (.layer ⟨s.nodeId, x.num⟩) s.tilesOn).tilesOn.all (s.needTiles (.layer ⟨s.nodeId, x.num⟩) s.tilesOn).tileReady then
      (true, (s.needTiles (.layer ⟨s.nodeId, x.num⟩) s.tilesOn).useGrants (.layer ⟨s.nodeId, x.num⟩) (s.tilesOn.map tensorArb))
    else (false, s.needTiles (.layer ⟨s.nodeId, x.num⟩) s.tilesOn) := by
  unfold State.serveStage
  rw [h]
  rfl

theorem State.askPorts_aside (s : State) (num : Nat) : Aside s (s.askPorts num) := by
  unfold State.askPorts
  exact Aside.trans _ _ _ (Aside.of_free s _) (Aside.trans _ _ _ (State.modRun_aside ..) (State.requestAll_aside ..))

theorem State.askPorts_run {num : Nat} {y : Run} (h : s.run? num = some y) : ∃ l, (s.askPorts num).run? num = some { y with nearBank := true, left := l } := by
  unfold State.askPorts
  exact ⟨_, (State.run?_of_runs (State.requestAll_runs ..) num).trans
    ((State.modRun_run (by intro u; rfl)).trans (congrArg (Option.map _) h))⟩

/-- Serving a stage changes nothing of its run but its broadcasts. -/
def ServedFrom (s z : State) (num : Nat) : Prop :=
  Aside s z ∧ ∀ y, s.run? num = some y → ∃ b l, z.run? num = some { y with nearBank := b, left := l }

theorem ServedFrom.of_runs {z : State} {num : Nat} (h : Aside s z) (hr : z.runs = s.runs) : ServedFrom s z num :=
  ⟨h, fun y hy => ⟨y.nearBank, y.left, by rw [State.run?_of_runs hr]; exact hy⟩⟩

theorem State.serveStage_servedFrom (s : State) (x : Run) (m : Model) : ServedFrom s (s.serveStage x m).2 x.num := by
  by_cases h : x.small m = true
  · unfold State.serveStage
    dsimp only
    rw [if_pos h]
    split
    · exact ⟨State.askPorts_aside .., fun y hy => ⟨true, State.askPorts_run hy⟩⟩
    · split
      · exact ⟨State.modRun_aside .., fun y hy => ⟨y.nearBank, none, by rw [State.modRun_run (by intro u; rfl), hy]; rfl⟩⟩
      · exact ServedFrom.of_runs (Aside.refl s) rfl
  · rw [State.serveStage_large (by simpa using h)]
    split
    · exact ServedFrom.of_runs (Aside.trans _ _ _ (State.needTiles_aside ..) (State.useGrants_aside ..))
        ((State.useGrants_runs ..).trans (State.needTiles_runs ..))
    · exact ServedFrom.of_runs (State.needTiles_aside ..) (State.needTiles_runs ..)

/-- The units serve a stage now, and no free value is taken for it. -/
theorem State.serveStage_of_served (h : Served s x m) : ∃ z, s.serveStage x m = (true, z) ∧ z.free = s.free := by
  obtain ⟨hs, hl⟩ | ⟨hs, ht⟩ := h
  · refine ⟨s.modRun x.num fun x => { x with left := none }, ?_, rfl⟩
    unfold State.serveStage
    rw [hs, hl]
    rfl
  · refine ⟨s.useGrants (.layer ⟨s.nodeId, x.num⟩) (s.tilesOn.map tensorArb), ?_, by rw [State.useGrants_frame]⟩
    rw [State.serveStage_large hs, State.needTiles_of_held fun t h => (ht t h).1, if_pos]
    simp only [Bool.and_eq_true, List.all_eq_true, State.turnsAll, State.turnsTo, Bool.or_eq_true]
    refine ⟨fun a ha => ?_, fun t h => (ht t h).2⟩
    obtain ⟨t, h, rfl⟩ := List.mem_map.mp ha
    exact Or.inl (ht t h).1

/-- A tile that is neither granted nor clocked is asked for, and the stage is not served yet. -/
theorem State.serveStage_waits (hs : x.small m = false) {t : Nat} (ht : t ∈ s.tilesOn)
    (hh : s.arbHolds (tensorArb t) (.layer ⟨s.nodeId, x.num⟩) = false) (hr : s.tileReady t = false) :
    ∃ z, s.serveStage x m = (false, z) ∧ z.runs = s.runs ∧ Waits z (tensorArb t) (.layer ⟨s.nodeId, x.num⟩) := by
  refine ⟨_, (State.serveStage_large hs).trans (if_neg ?_), State.needTiles_runs .., State.needTiles_waits ht hh⟩
  rw [Bool.and_eq_true, not_and]
  intro _ hall
  rw [List.all_eq_true, (State.needTiles_aside ..).tilesOn_eq] at hall
  exact absurd (hall t ht) (by rw [State.needTiles_noneReady _ _ _ t hr]; exact Bool.false_ne_true)

/-- For a few tokens the broadcasts are requested at every stack. -/
theorem State.serveStage_asks (hs : x.small m = true) (hl : x.left = none) : s.serveStage x m = (false, s.askPorts x.num) := by
  unfold State.serveStage
  rw [hs, hl]
  rfl

theorem State.askPorts_waits {num i : Nat} (hi : i ∈ s.stacksOn) :
    Waits (s.askPorts num) (0x40 + i) (.layer ⟨s.nodeId, num⟩) ∨ s.arbHolds (0x40 + i) (.layer ⟨s.nodeId, num⟩) = true := by
  unfold State.askPorts
  exact State.requestAll_waits _ _ (List.mem_map_of_mem hi)

end

end Sys2Proof.Machine
end

-- ==== Proofs: The stages of a layer (O43) ====
section
/-! SUPPORT. The stages of a run one by one: routing, grouping, experts, and where each of them leaves the run. -/

namespace Sys2Proof.Machine

open Sys2Proof

/-! ### Routing (R351 to R353) -/

theorem mem_insertScore {y a : Int × Nat} : ∀ {l : List (Int × Nat)}, y ∈ insertScore a l → y = a ∨ y ∈ l
  | [], h => by simpa [insertScore] using h
  | b :: l, h => by
    unfold insertScore at h
    split at h
    · simpa using h
    · obtain rfl | h := List.mem_cons.mp h
      · exact Or.inr (List.mem_cons_self ..)
      · exact (mem_insertScore h).imp_right (List.mem_cons_of_mem _)

theorem topExperts_lt {i token experts k e : Nat} (h : e ∈ topExperts i token experts k) : e < experts := by
  have key : ∀ (l : List Nat) (b : List (Int × Nat)), (∀ y ∈ b, y.2 < experts) → (∀ e ∈ l, e < experts) →
      ∀ y ∈ l.foldl (fun l e => (insertScore (fp32Order (Config.routerScore i token e).toNat, e) l).take k) b, y.2 < experts := by
    intro l
    induction l with
    | nil => exact fun b hb _ => hb
    | cons a l ih =>
      refine fun b hb hl => ih _ (fun y hy => ?_) fun e he => hl e (List.mem_cons_of_mem _ he)
      obtain rfl | hy := mem_insertScore (List.mem_of_mem_take hy)
      · exact hl a (List.mem_cons_self ..)
      · exact hb y hy
  obtain ⟨y, hy, rfl⟩ := List.mem_map.mp h
  exact key _ [] (fun _ h => absurd h List.not_mem_nil) (fun e he => List.mem_range.mp he) y hy

theorem blocksOf_sizes {α : Type} {b : List α} : ∀ {n : Nat} {l : List α}, b ∈ blocksOf n l → b ≠ [] ∧ b.length ≤ 256
  | 0, _, h => absurd h List.not_mem_nil
  | n + 1, l, h => by
    unfold blocksOf at h
    split at h
    · exact absurd h List.not_mem_nil
    · rename_i hl
      obtain rfl | h := List.mem_cons.mp h
      · refine ⟨fun e => hl ?_, List.length_take_le ..⟩
        have := congrArg List.length e
        rw [List.length_take, List.length_nil] at this
        exact List.isEmpty_iff_length_eq_zero.mpr (by omega)
      · exact blocksOf_sizes h

theorem blocksOf_covers {α : Type} {a : α} : ∀ {n : Nat} {l : List α}, l.length ≤ n → a ∈ l → ∃ b ∈ blocksOf n l, a ∈ b
  | 0, l, hn, h => by
    obtain rfl := List.length_eq_zero_iff.mp (Nat.le_zero.mp hn)
    exact absurd h List.not_mem_nil
  | n + 1, l, hn, h => by
    have hl : ¬ l.isEmpty = true := fun e => by rw [List.isEmpty_iff.mp e] at h; exact absurd h List.not_mem_nil
    unfold blocksOf
    rw [if_neg hl]
    rw [← List.take_append_drop 256 l] at h
    obtain h | h := List.mem_append.mp h
    · exact ⟨_, List.mem_cons_self .., h⟩
    · have hlen : (l.drop 256).length ≤ n := by
        rw [List.length_drop]
        have : l.length ≠ 0 := fun e => hl (List.isEmpty_iff_length_eq_zero.mpr e)
        omega
      obtain ⟨b, hb, hab⟩ := blocksOf_covers hlen h
      exact ⟨b, List.mem_cons_of_mem _ hb, hab⟩

/-- A step's tokens of this node, each with the experts that the router gives it. -/
def routedPairs (i : Nat) (x : Run) (m : Model) : List (Nat × Nat) :=
  (List.range x.homeTokens).flatMap fun t => (topExperts i t (hdrExperts m.header) (hdrRouted m.header)).map fun e => (t, e)

theorem mem_routedPairs {i : Nat} {x : Run} {m : Model} {p : Nat × Nat} (h : p ∈ routedPairs i x m) :
    p.1 < x.homeTokens ∧ p.2 < hdrExperts m.header := by
  obtain ⟨t, ht, hp⟩ := List.mem_flatMap.mp h
  obtain ⟨e, he, rfl⟩ := List.mem_map.mp hp
  exact ⟨List.mem_range.mp ht, topExperts_lt he⟩

section
variable {s : State} {x y : Run} {r : Req} {m : Model} {c : Coll}

/-- Of some tokens with experts, those whose experts a node owns. -/
def State.pairsAt (s : State) (c : Coll) (l : List (Nat × Nat)) (o : Nat) : List (Nat × Nat) :=
  l.filter fun p => s.ownerOf (expertShard c p.2) == some o

theorem State.route_eq (s : State) (x : Run) (m : Model) (c : Coll) : s.route x m c =
    (s.takeFree.2.exchange c x.num x.layer fun o => .tokens (s.pairsAt c (routedPairs s.free x m) o)).modRun x.num
      fun y => { y with stage := .exchange, routes := s.pairsAt c (routedPairs s.free x m) s.nodeId } := rfl

theorem State.route_aside (s : State) (x : Run) (m : Model) (c : Coll) : Aside s (s.route x m c) := by
  rw [State.route_eq]
  exact Aside.trans _ _ _ (Aside.of_free s _) (Aside.trans _ _ _ (State.exchange_sent ..).aside (State.modRun_aside ..))

/-- The tokens of this node go to the owners of their experts, and those of its own experts stay (R352, R363). -/
theorem State.route_run (hy : s.run? x.num = some y) :
    (s.route x m c).run? x.num = some { y with stage := .exchange, routes := s.pairsAt c (routedPairs s.free x m) s.nodeId } := by
  rw [State.route_eq, State.modRun_run (by intro u; rfl), State.run?_of_runs (State.exchange_sent ..).runs_eq]
  exact congrArg (Option.map _) hy

theorem State.route_frameTo (hr : s.req? x.num = some r) {o : Nat} (ho : o ∈ s.otherOwners c) : ∃ l,
    FrameTo (s.route x m c) o (.activation ⟨s.nodeId, x.num⟩ x.layer (.tokens l)) ∧ ∀ p ∈ l, s.ownerOf (expertShard c p.2) = some o := by
  refine ⟨s.pairsAt c (routedPairs s.free x m) o, ?_, fun p hp => by simpa using (List.mem_filter.mp hp).2⟩
  rw [State.route_eq]
  exact (State.modRun_aside ..).frames _ _ (State.exchange_frameTo (s := s.takeFree.2) hr c x.layer _ ho)

/-! ### Grouping (R348, R349, R353) -/

/-- The tokens that other nodes routed to experts of this one for the layer in progress. -/
def Run.far (x : Run) : List (Nat × Nat × Nat) := x.inbox.flatMap fun y => match y.2.2 with
  | .tokens l => if y.2.1 = x.layer then l.map fun p => (y.1, p.1, p.2) else []
  | _ => []

/-- All tokens routed to experts of this node: node, token, expert. -/
def State.allTokens (s : State) (x : Run) : List (Nat × Nat × Nat) := (x.routes.map fun p => (s.nodeId, p.1, p.2)) ++ x.far

/-- The experts of this node that have tokens. -/
def State.expertsHere (s : State) (x : Run) (m : Model) (c : Coll) : List Nat :=
  (List.range (hdrExperts m.header)).filter fun e => (s.localShards c).contains (expertShard c e) && (s.allTokens x).any (·.2.2 == e)

/-- The tokens of an expert: node, token. -/
def State.tokensFor (s : State) (x : Run) (e : Nat) : List (Nat × Nat) := ((s.allTokens x).filter (·.2.2 == e)).map fun p => (p.1, p.2.1)

def State.tokenBlocks (s : State) (x : Run) (m : Model) (c : Coll) : List (Nat × List (Nat × Nat)) :=
  (s.expertsHere x m c).flatMap fun e => (blocksOf (s.tokensFor x e).length (s.tokensFor x e)).map fun b => (e, b)

theorem State.groupTokens_eq (s : State) (x : Run) (m : Model) (c : Coll) : ∃ (missing : List Nat) (f : Model → Model),
    s.groupTokens x m c = (missing.foldl (fun z e => z.requestAll (.expert ⟨s.nodeId, x.num⟩ e) z.channelsOn)
      (s.modModel x.coll x.model f)).modRun x.num fun y => { y with stage := .experts, blocks := s.tokenBlocks x m c, waitingExperts := missing } :=
  ⟨_, _, rfl⟩

theorem State.requestExperts_aside (k : Key) (l : List Nat) (s : State) :
    Aside s (l.foldl (fun z e => z.requestAll (.expert k e) z.channelsOn) s) := Aside.foldl (fun _ _ => State.requestAll_aside ..) l s

/-- Every one of some experts is asked for at every channel, or streams there already. -/
theorem State.requestExperts_waits (k : Key) {l : List Nat} {s : State} {e ch : Nat} (he : e ∈ l) (hch : ch ∈ s.channelsOn) :
    Waits (l.foldl (fun z e => z.requestAll (.expert k e) z.channelsOn) s) ch (.expert k e) ∨ s.arbHolds ch (.expert k e) = true := by
  by_cases hh : s.arbHolds ch (.expert k e) = true
  · exact Or.inr hh
  · refine Or.inl ?_
    refine foldl_brings (R := fun s x => Aside s x ∧ ∀ a w, Waits s a w → Waits x a w) (fun s => ⟨Aside.refl s, fun _ _ h => h⟩)
      (fun _ _ _ h k => ⟨Aside.trans _ _ _ h.1 k.1, fun a w ha => k.2 a w (h.2 a w ha)⟩) (fun z e => ?_) s
      (P := fun e x => s.arbHolds ch (.expert k e) = false → Waits x ch (.expert k e)) (fun z e hz h => ?_)
      (fun _ _ _ hx k h => hx.2 _ _ (k h)) l s ⟨Aside.refl s, fun _ _ h => h⟩ e he (by simpa using hh)
    · exact ⟨State.requestAll_aside .., fun a w h => State.requestAll_keeps_waits _ _ _ h⟩
    · have hw := State.requestAll_waits z (.expert k e) (l := z.channelsOn) (hz.1.channelsOn_eq ▸ hch)
      rw [hz.1.grants.keeps _ _ h] at hw
      simpa using hw

theorem State.groupTokens_noGrant (s : State) (x : Run) (m : Model) (c : Coll) : NoGrant s (s.groupTokens x m c) := by
  obtain ⟨missing, f, he⟩ := State.groupTokens_eq s x m c
  rw [he]
  exact NoGrant.trans _ (s.modModel x.coll x.model f) _ (NoGrant.of_arbs rfl)
    (NoGrant.trans _ _ _ (State.requestExperts_aside ..).grants (State.modRun_aside ..).grants)

theorem State.tokenBlocks_sizes {b : Nat × List (Nat × Nat)} (h : b ∈ s.tokenBlocks x m c) :
    b.2 ≠ [] ∧ b.2.length ≤ 256 ∧ expertShard c b.1 ∈ s.localShards c := by
  obtain ⟨e, he, hb⟩ := List.mem_flatMap.mp h
  obtain ⟨l, hl, rfl⟩ := List.mem_map.mp hb
  have hhere := (List.mem_filter.mp he).2
  simp only [Bool.and_eq_true, List.contains_iff_mem] at hhere
  exact ⟨(blocksOf_sizes hl).1, (blocksOf_sizes hl).2, hhere.1⟩

/-- A token of this node that is routed to an expert of this node is in one of the expert's blocks. -/
theorem State.tokenBlocks_covers {p : Nat × Nat} (hp : p ∈ x.routes) (he : p.2 < hdrExperts m.header)
    (hl : expertShard c p.2 ∈ s.localShards c) : ∃ b ∈ s.tokenBlocks x m c, b.1 = p.2 ∧ (s.nodeId, p.1) ∈ b.2 := by
  have hall : (s.nodeId, p.1, p.2) ∈ s.allTokens x := List.mem_append_left _ (List.mem_map_of_mem hp)
  have hfor : (s.nodeId, p.1) ∈ s.tokensFor x p.2 :=
    List.mem_map.mpr ⟨_, List.mem_filter.mpr ⟨hall, by simp⟩, rfl⟩
  have hhere : p.2 ∈ s.expertsHere x m c := by
    refine List.mem_filter.mpr ⟨List.mem_range.mpr he, ?_⟩
    rw [Bool.and_eq_true, List.contains_iff_mem, List.any_eq_true]
    exact ⟨hl, _, hall, by simp⟩
  obtain ⟨b, hb, hin⟩ := blocksOf_covers (Nat.le_refl _) hfor
  exact ⟨(p.2, b), List.mem_flatMap.mpr ⟨p.2, hhere, List.mem_map_of_mem hb⟩, rfl, hin⟩

/-! ### Experts (R353) -/

theorem State.runExpert_none (h : x.blocks = []) : s.runExpert x m c =
    (s.exchange c x.num x.layer fun _ => .outputs).modRun x.num fun y => { y with stage := .combine } := by
  unfold State.runExpert
  rw [h]

theorem State.runExpert_some {b : Nat × List (Nat × Nat)} (h : (x.blocks.find? fun b => !x.waitingExperts.contains b.1) = some b) :
    s.runExpert x m c = if (s.serveStage x m).1 then
      (s.serveStage x m).2.modRun x.num fun y => { y with blocks := y.blocks.filter (·.1 != b.1) } else (s.serveStage x m).2 := by
  unfold State.runExpert
  rw [h]
  split
  · rename_i hb
    rw [hb] at h
    simp at h
  · rename_i hn _
    cases hn
  · rename_i hn _
    cases hn
    rfl

theorem State.runExpert_aside (s : State) (x : Run) (m : Model) (c : Coll) : Aside s (s.runExpert x m c) := by
  by_cases hb : x.blocks = []
  · rw [State.runExpert_none hb]
    exact Aside.trans _ _ _ (State.exchange_sent ..).aside (State.modRun_aside ..)
  · cases hf : x.blocks.find? fun b => !x.waitingExperts.contains b.1 with
    | none =>
      unfold State.runExpert
      rw [hf]
      split
      · rename_i h
        exact absurd h hb
      · exact Aside.refl s
      · rename_i h _
        cases h
    | some b =>
      rw [State.runExpert_some hf]
      split
      · exact Aside.trans _ _ _ (State.serveStage_servedFrom ..).1 (State.modRun_aside ..)
      · exact (State.serveStage_servedFrom ..).1

end

end Sys2Proof.Machine
end

-- ==== Proofs: How a run goes on (O43) ====
section
/-! SUPPORT. A run goes on by one stage where it can, and what completes a slot of its window. -/

namespace Sys2Proof.Machine

open Sys2Proof

/-! ### One stage (R37, R348, R353, R363) -/

section
variable {s : State} {num : Nat} {x : Run} {r : Req} {m : Model} {c : Coll} {io : HostIO}

/-- The segment in progress is the last of its layer. -/
def State.lastSegment (s : State) (x : Run) (m : Model) (c : Coll) : Bool := x.segment + 1 == s.segmentsOf x m c x.layer

/-- A layer whose window and parts are there is computed, once the units serve it. -/
def State.computeUnit (s : State) (x : Run) (r : Req) (m : Model) (c : Coll) (io : HostIO) : State :=
  let served := s.serveStage x m
  if !served.1 then served.2
  else if hdrExperts m.header = 0 || hdrLayers m.header ≤ x.layer || !s.lastSegment x m c then served.2.leaveUnit x r m c io
  else served.2.route x m c

/-- One stage of a run. -/
def State.runStage (s : State) (x : Run) (r : Req) (m : Model) (c : Coll) (io : HostIO) : State :=
  match x.stage with
  | .compute =>
    if !x.slots.any (fun y => y.1 == (x.layer, x.segment) && y.2) ||
        (s.lastSegment x m c && m.striped x.layer && !x.heard (s.otherOwners c) (· == .part)) then s
    else s.computeUnit x r m c io
  | .exchange => if x.heard (s.otherOwners c) fun y => match y with | .tokens _ => true | _ => false then s.groupTokens x m c else s
  | .experts => s.runExpert x m c
  | .combine => if x.heard (s.otherOwners c) (· == .outputs) then s.leaveUnit x r m c io else s

theorem State.goOn_eq (hx : s.run? num = some x) (hr : s.req? num = some r) (hm : s.model? x.coll x.model = some m)
    (hc : s.coll? x.coll = some c) : s.goOn num io =
      if x.waiting || x.output != [] || decide (x.steps ≤ x.step) then s
      else if m.degraded then (s.dropRun num).complete r (.bare stDegraded 0) io else s.runStage x r m c io := by
  unfold State.goOn
  rw [hx, hr]
  dsimp only
  rw [hm, hc]
  rfl

theorem State.computeUnit_noGrant (s : State) (x : Run) (r : Req) (m : Model) (c : Coll) (io : HostIO) :
    NoGrant s (s.computeUnit x r m c io) := by
  have hs := (State.serveStage_servedFrom s x m).1
  unfold State.computeUnit
  dsimp only
  split
  · exact hs.grants
  · split
    · exact NoGrant.trans _ _ _ hs.grants State.leaveUnit_noGrant
    · exact NoGrant.trans _ _ _ hs.grants (State.route_aside ..).grants

theorem State.runStage_noGrant (s : State) (x : Run) (r : Req) (m : Model) (c : Coll) (io : HostIO) :
    NoGrant s (s.runStage x r m c io) := by
  unfold State.runStage
  split
  · split
    · exact NoGrant.refl s
    · exact State.computeUnit_noGrant ..
  · split
    · exact State.groupTokens_noGrant ..
    · exact NoGrant.refl s
  · exact (State.runExpert_aside ..).grants
  · split
    · exact State.leaveUnit_noGrant
    · exact NoGrant.refl s

theorem State.dropRun_complete_noGrant (s : State) (num : Nat) (r : Req) (q : Compl) (io : HostIO) :
    NoGrant s ((s.dropRun num).complete r q io) :=
  NoGrant.trans _ _ _ ⟨(State.dropRun_ending s num).grants.keeps⟩ (State.complete_noGrant ..)

theorem State.goOn_noGrant (s : State) (num : Nat) (io : HostIO) : NoGrant s (s.goOn num io) := by
  cases hx : s.run? num with
  | none => unfold State.goOn; rw [hx]; exact NoGrant.refl s
  | some x =>
    cases hr : s.req? num with
    | none => unfold State.goOn; rw [hx, hr]; exact NoGrant.refl s
    | some r =>
      cases hm : s.model? x.coll x.model with
      | none => unfold State.goOn; rw [hx, hr]; dsimp only; rw [hm]; exact State.dropRun_complete_noGrant ..
      | some m =>
        cases hc : s.coll? x.coll with
        | none => unfold State.goOn; rw [hx, hr]; dsimp only; rw [hm, hc]; exact State.dropRun_complete_noGrant ..
        | some c =>
          rw [State.goOn_eq hx hr hm hc]
          split
          · exact NoGrant.refl s
          · split
            · exact State.dropRun_complete_noGrant ..
            · exact State.runStage_noGrant ..

/-- A layer that its units serve leaves its unit, or its tokens are routed. -/
theorem State.computeUnit_of_served (h : Served s x m) : ∃ z, ServedFrom s z x.num ∧ z.free = s.free ∧
    s.computeUnit x r m c io = if hdrExperts m.header = 0 || hdrLayers m.header ≤ x.layer || !s.lastSegment x m c
      then z.leaveUnit x r m c io else z.route x m c := by
  obtain ⟨z, hz, hfree⟩ := State.serveStage_of_served h
  have hs := State.serveStage_servedFrom s x m
  unfold State.computeUnit
  rw [hz] at hs ⊢
  exact ⟨z, hs, hfree, rfl⟩

theorem State.computeUnit_of_not_served {z : State} (h : s.serveStage x m = (false, z)) : s.computeUnit x r m c io = z := by
  unfold State.computeUnit
  rw [h]
  rfl

section
variable (hx : s.run? num = some x) (hr : s.req? num = some r)
include hx hr

/-- A served layer without routed experts leaves its unit (R346, R348). -/
theorem State.computeUnit_leaves {left : Bool} (h : Served s x m) (htrain : x.train = false) (hio : HostTakes io)
    (hleft : left = (bit (byteAt r.entry 49) 2 && decide (x.layer < hdrLayers m.header) && Config.modelCount s.free % 2 == 1))
    (hcase : hdrExperts m.header = 0 ∨ hdrLayers m.header ≤ x.layer ∨ x.segment + 1 < s.segmentsOf x m c x.layer) :
    LeavesUnit s (s.computeUnit x r m c io) x r m c left := by
  obtain ⟨z, ⟨haz, hrun⟩, hfree, he⟩ := State.computeUnit_of_served (r := r) (c := c) (io := io) h
  have hxn := State.run?_num hx
  obtain ⟨b, l, hz⟩ := hrun x (hxn ▸ hx)
  rw [he, if_pos]
  · exact LeavesUnit.of_aside haz (State.leaveUnit_leaves hz rfl ((State.req?_num hr).trans hxn.symm) htrain hio (hfree ▸ hleft))
  · obtain h1 | h1 | h1 := hcase
    · simp [h1]
    · simp [h1]
    · have : s.lastSegment x m c = false := by simpa [State.lastSegment] using Nat.ne_of_lt h1
      simp [this]

/-- The tokens of a served layer with routed experts go to the experts' owners (R351, R352, R363). -/
theorem State.computeUnit_routes (h : Served s x m) (hexp : hdrExperts m.header ≠ 0) (hlay : x.layer < hdrLayers m.header)
    (hseg : x.segment + 1 = s.segmentsOf x m c x.layer) :
    (∃ y, (s.computeUnit x r m c io).run? num = some y ∧ y.stage = .exchange ∧ y.layer = x.layer ∧
      ∀ p ∈ y.routes, p.1 < x.homeTokens ∧ p.2 < hdrExperts m.header ∧ s.ownerOf (expertShard c p.2) = some s.nodeId) ∧
    ∀ o ∈ s.otherOwners c, ∃ l, FrameTo (s.computeUnit x r m c io) o (.activation ⟨s.nodeId, num⟩ x.layer (.tokens l)) ∧
      ∀ p ∈ l, s.ownerOf (expertShard c p.2) = some o := by
  obtain ⟨z, ⟨haz, hrun⟩, -, he⟩ := State.computeUnit_of_served (r := r) (c := c) (io := io) h
  obtain rfl := State.run?_num hx
  obtain ⟨b, l, hz⟩ := hrun x hx
  have hlast : s.lastSegment x m c = true := by simpa [State.lastSegment] using hseg
  rw [he, if_neg (by simp [hexp, hlast, Nat.not_le.mpr hlay])]
  refine ⟨⟨_, State.route_run hz, rfl, rfl, fun p hp => ?_⟩, fun o ho => ?_⟩
  · obtain ⟨hp, ho⟩ := List.mem_filter.mp hp
    obtain ⟨h1, h2⟩ := mem_routedPairs hp
    refine ⟨h1, h2, ?_⟩
    rw [haz.ownerOf_eq, haz.nodeId_eq] at ho
    simpa using ho
  · obtain ⟨l, hl, hp⟩ := State.route_frameTo (m := m) (c := c) ((haz.req?_eq _).trans hr) (haz.otherOwners_eq c ▸ ho)
    rw [haz.nodeId_eq] at hl
    exact ⟨l, hl, fun p h => haz.ownerOf_eq _ ▸ hp p h⟩

end

/-! ### A slot is complete (R37, R344) -/

theorem Served.filledFrom {z : State} (h : Served s x m) (hf : FilledFrom s z num) : Served z x m := by
  refine h.imp_right fun ⟨hs, ht⟩ => ⟨hs, fun i hi => ?_⟩
  rw [hf.aside.nodeId_eq, State.tileReady_of_pwr hf.pwr]
  obtain ⟨h1, h2⟩ := ht i (hf.aside.tilesOn_eq ▸ hi)
  exact ⟨hf.holds _ _ h1, h2⟩

/-- The slot in hand is complete. -/
def State.slotDone (s : State) (num : Nat) : State :=
  (s.useGrants (.layer ⟨s.nodeId, num⟩) s.channelsOn).modRun num fun x => { x with slots := x.slots.map fun z => (z.1, true) }

/-- The striped parts of the layer whose slot is complete leave, and the window is filled. -/
def State.slotGoesOn (s : State) (num : Nat) (m : Model) (c : Coll) (y : (Nat × Nat) × Bool) (last : Bool) : State :=
  (if m.striped y.1.1 && last then s.exchange c num y.1.1 fun _ => .part else s).fillWindow num

theorem State.slotGoesOn_filledFrom (s : State) (num : Nat) (m : Model) (c : Coll) (y : (Nat × Nat) × Bool) (last : Bool) :
    FilledFrom s (s.slotGoesOn num m c y last) num := by
  refine FilledFrom.trans ?_ (State.fillWindow_filledFrom ..)
  split
  · exact (State.exchange_sent ..).filledFrom num
  · exact FilledFrom.refl ..

theorem State.slotDone_aside (s : State) (num : Nat) : Aside s (s.slotDone num) :=
  Aside.trans _ _ _ (State.useGrants_aside ..) (State.modRun_aside ..)

theorem State.slotDone_run (hx : s.run? num = some x) :
    (s.slotDone num).run? num = some { x with slots := x.slots.map fun z => (z.1, true) } := by
  unfold State.slotDone
  rw [State.modRun_run (by intro u; rfl), State.run?_of_runs (State.useGrants_runs ..), hx]
  rfl

/-- The grants of the tensor clusters stay when a slot is complete. -/
theorem Served.slotDone (hx : s.run? num = some x) (h : Served s x m) : Served (s.slotDone num) x m := by
  obtain rfl := State.run?_num hx
  refine h.imp_right fun ⟨hs, ht⟩ => ⟨hs, fun i hi => ?_⟩
  have ha := State.slotDone_aside s x.num
  obtain ⟨h1, h2⟩ := ht i (ha.tilesOn_eq ▸ hi)
  rw [ha.nodeId_eq]
  have hpwr : (s.slotDone x.num).pwr = s.pwr := by
    unfold State.slotDone
    rw [State.useGrants_frame]; rfl
  refine ⟨?_, by rw [State.tileReady_of_pwr hpwr]; exact h2⟩
  have hne : tensorArb i ∉ s.channelsOn := fun hm => by
    have hlt := List.mem_range.mp (List.mem_filter.mp hm).1
    unfold tensorArb at hlt
    omega
  have harb := State.useGrants_arb_ne (.layer ⟨s.nodeId, x.num⟩) s.channelsOn s hne
  unfold State.arbHolds at *
  rw [← harb] at h1
  exact h1

theorem execLayerStreamComplete_eq {t : Nat} {y : (Nat × Nat) × Bool} (hx : s.run? num = some x) (hm : s.model? x.coll x.model = some m)
    (hc : s.coll? x.coll = some c) (hy : x.slots.find? (!·.2) = some y) :
    exec (.layerStreamComplete num io t) s =
      if !(s.at t).turnsAll (.layer ⟨s.nodeId, num⟩) s.channelsOn then .next (s.at t)
      else .next ((((s.at t).slotDone num).slotGoesOn num m c y (y.1.2 + 1 == ((s.at t).slotDone num).segmentsOf x m c y.1.1)).goOn num io) := by
  have h : exec (.layerStreamComplete num io t) s = execLayerStreamComplete num io t s := rfl
  unfold execLayerStreamComplete at h
  dsimp only at h
  rw [State.at_run_, hx] at h
  dsimp only at h
  rw [hy, State.at_model_, hm, State.at_coll_, hc] at h
  exact h

end

end Sys2Proof.Machine
end

-- ==== Proofs: Layers of a run (O43) ====
section
/-! Settles O43: each clause through the stage of the run that it speaks of. -/

namespace Sys2Proof.Machine

open Sys2Proof

section
variable {s : State} {num t : Nat} {x : Run} {r : Req} {m : Model} {c : Coll} {io : HostIO}

/-- One stage of a run that waits for nothing, has no output yet and is not over. -/
theorem State.goOn_stage (hx : s.run? num = some x) (hr : s.req? num = some r) (hm : s.model? x.coll x.model = some m)
    (hc : s.coll? x.coll = some c) (hw : x.waiting = false) (ho : x.output = []) (hs : x.step < x.steps) (hd : m.degraded = false) :
    s.goOn num io = s.runStage x r m c io := by
  rw [State.goOn_eq hx hr hm hc, if_neg (by simp [hw, ho, Nat.not_le.mpr hs]), if_neg (by simp [hd])]

theorem State.runStage_compute (hst : x.stage = .compute) (hdone : x.slots.any (fun y => y.1 == (x.layer, x.segment) && y.2) = true)
    (hpart : m.striped x.layer = false ∨ x.heard (s.otherOwners c) (· == .part) = true) :
    s.runStage x r m c io = s.computeUnit x r m c io := by
  unfold State.runStage
  rw [hst]
  refine if_neg ?_
  rw [hdone]
  obtain h | h := hpart <;> simp [h]

theorem State.runStage_computeWaits (hst : x.stage = .compute)
    (h : x.slots.any (fun y => y.1 == (x.layer, x.segment) && y.2) = false ∨ m.striped x.layer = true ∧
      x.segment + 1 = s.segmentsOf x m c x.layer ∧ x.heard (s.otherOwners c) (· == .part) = false) : s.runStage x r m c io = s := by
  unfold State.runStage
  rw [hst]
  refine if_pos ?_
  obtain h | ⟨h1, h2, h3⟩ := h
  · rw [h]; rfl
  · simp [State.lastSegment, h1, h2, h3]

/-- The tokens of every node are grouped by expert, and the experts that have to stream are asked for (R348, R353). -/
theorem State.runStage_groups (hx : s.run? num = some x) (hst : x.stage = .exchange)
    (hh : ∀ o ∈ s.otherOwners c, ∃ l, (o, x.layer, Exchange.tokens l) ∈ x.inbox) :
    ∃ y, (s.runStage x r m c io).run? num = some y ∧ y.stage = .experts ∧
      (∀ b ∈ y.blocks, b.2 ≠ [] ∧ b.2.length ≤ 256 ∧ expertShard c b.1 ∈ s.localShards c) ∧
      (∀ p ∈ x.routes, p.2 < hdrExperts m.header → expertShard c p.2 ∈ s.localShards c →
        ∃ b ∈ y.blocks, b.1 = p.2 ∧ (s.nodeId, p.1) ∈ b.2) ∧
      (∀ e ∈ y.waitingExperts, ∀ ch ∈ s.channelsOn, Waits (s.runStage x r m c io) ch (.expert ⟨s.nodeId, num⟩ e) ∨
        s.arbHolds ch (.expert ⟨s.nodeId, num⟩ e) = true) := by
  obtain rfl := State.run?_num hx
  have he : s.runStage x r m c io = s.groupTokens x m c := by
    unfold State.runStage
    rw [hst]
    refine if_pos (List.all_eq_true.mpr fun o ho => ?_)
    obtain ⟨l, hl⟩ := hh o ho
    exact List.any_eq_true.mpr ⟨_, hl, by simp⟩
  rw [he]
  obtain ⟨missing, f, hg⟩ := State.groupTokens_eq s x m c
  rw [hg]
  have hrun : (missing.foldl (fun z e => z.requestAll (.expert ⟨s.nodeId, x.num⟩ e) z.channelsOn) (s.modModel x.coll x.model f)).runs = s.runs :=
    foldl_keeps State.runs _ (fun _ _ => State.requestAll_runs ..) missing _
  refine ⟨_, by rw [State.modRun_run (by intro u; rfl), State.run?_of_runs hrun, hx]; rfl, rfl, fun b hb => State.tokenBlocks_sizes hb,
    fun p hp h1 h2 => State.tokenBlocks_covers hp h1 h2, fun e he ch hch => ?_⟩
  exact State.requestExperts_waits ⟨s.nodeId, x.num⟩ (s := s.modModel x.coll x.model f) he hch

/-- The outputs of the experts go back when none is left (R353, R363). -/
theorem State.runStage_outputs (hx : s.run? num = some x) (hr : s.req? num = some r) (hst : x.stage = .experts) (hb : x.blocks = []) :
    ((s.runStage x r m c io).run? num).map (·.stage) = some .combine ∧
      ∀ o ∈ s.otherOwners c, FrameTo (s.runStage x r m c io) o (.activation ⟨s.nodeId, num⟩ x.layer .outputs) := by
  obtain rfl := State.run?_num hx
  have he : s.runStage x r m c io = s.runExpert x m c := by
    unfold State.runStage
    rw [hst]
  rw [he, State.runExpert_none hb]
  refine ⟨?_, fun o ho => (State.modRun_aside ..).frames _ _ (State.exchange_frameTo hr c x.layer _ ho)⟩
  rw [State.modRun_run (by intro u; rfl), State.run?_of_runs (State.exchange_sent ..).runs_eq, hx]
  rfl

/-- An expert whose share is there has run for all its tokens (R37, R353). -/
theorem State.runStage_expert {b : Nat × List (Nat × Nat)} (hx : s.run? num = some x) (hst : x.stage = .experts)
    (hb : (x.blocks.find? fun b => !x.waitingExperts.contains b.1) = some b) (h : Served s x m) :
    ((s.runStage x r m c io).run? num).map (·.blocks) = some (x.blocks.filter (·.1 != b.1)) := by
  obtain rfl := State.run?_num hx
  have he : s.runStage x r m c io = s.runExpert x m c := by
    unfold State.runStage
    rw [hst]
  obtain ⟨z, hz, -⟩ := State.serveStage_of_served h
  have hs := State.serveStage_servedFrom s x m
  rw [hz] at hs
  obtain ⟨n, l, hl⟩ := hs.2 x hx
  rw [he, State.runExpert_some hb, hz, if_pos rfl, State.modRun_run (by intro u; rfl), hl]
  rfl

theorem State.runStage_combine {left : Bool} (hx : s.run? num = some x) (hr : s.req? num = some r) (hst : x.stage = .combine)
    (htrain : x.train = false) (hio : HostTakes io)
    (hleft : left = (bit (byteAt r.entry 49) 2 && decide (x.layer < hdrLayers m.header) && Config.modelCount s.free % 2 == 1)) :
    (x.heard (s.otherOwners c) (· == .outputs) = true → LeavesUnit s (s.runStage x r m c io) x r m c left) ∧
    (x.heard (s.otherOwners c) (· == .outputs) = false → s.runStage x r m c io = s) := by
  have hxn := State.run?_num hx
  have he : s.runStage x r m c io = if x.heard (s.otherOwners c) (· == .outputs) then s.leaveUnit x r m c io else s := by
    unfold State.runStage
    rw [hst]
  rw [he]
  refine ⟨fun h => ?_, fun h => if_neg (by simp [h])⟩
  rw [if_pos h]
  exact State.leaveUnit_leaves (hxn ▸ hx) rfl ((State.req?_num hr).trans hxn.symm) htrain hio hleft

/-! ### The stream of a layer -/

theorem layerStream_combine {s y : State} {l : List ((Nat × Nat) × Bool)} (hy : y.run? num = some { x with slots := l }) (ha : Aside s y)
    (hr : s.req? num = some r) (hm : s.model? x.coll x.model = some m) (hc : s.coll? x.coll = some c) (hst : x.stage = .combine)
    (hd : m.degraded = false) (hh : x.heard (s.otherOwners c) (· == .outputs) = false) : y.goOn num io = y := by
  rw [State.goOn_eq hy ((ha.req?_eq _).trans hr) ((ha.model?_eq _ _).trans hm) ((ha.coll?_eq _).trans hc)]
  split
  · rfl
  · rw [if_neg (by simp [hd])]
    have hh' : ({ x with slots := l } : Run).heard (y.otherOwners c) (· == .outputs) = false := ha.otherOwners_eq c ▸ hh
    unfold State.runStage
    dsimp only
    rw [hst]
    exact if_neg fun h => absurd (hh'.symm.trans h) Bool.false_ne_true

theorem any_slots_of_find {l l' : List ((Nat × Nat) × Bool)} {y : (Nat × Nat) × Bool} {u : Nat × Nat} (hy : l.find? (!·.2) = some y)
    (hu : y.1 = u) : ((l.map fun z => (z.1, true)) ++ l').any (fun z => z.1 == u && z.2) = true := by
  rw [List.any_append, Bool.or_eq_true]
  exact Or.inl (List.any_eq_true.mpr ⟨(y.1, true), List.mem_map_of_mem (List.mem_of_find?_eq_some hy), by simp [hu]⟩)

/-- LAYER_STREAM_COMPLETE in its turn: the slot is complete, its striped parts leave, and the run goes on. -/
theorem layerStreamComplete_turn {y : (Nat × Nat) × Bool} {w : Work} (hx : s.run? num = some x) (hr : s.req? num = some r)
    (hm : s.model? x.coll x.model = some m) (hc : s.coll? x.coll = some c) (hy : x.slots.find? (!·.2) = some y)
    (hw : w = .layer ⟨s.nodeId, num⟩) (ht : (s.at t).turnsAll w s.channelsOn = true) :
    ∃ z, exec (.layerStreamComplete num io t) s = .next z ∧
      (∀ ch ∈ s.channelsOn, z.arbHolds ch w = false) ∧
      (x.waiting = false → x.output = [] → x.stage = .combine → m.degraded = false →
          (s.otherOwners c).any (fun o => !x.heard [o] (· == .outputs)) = true →
        (z.run? num).map (·.stage) = some .combine ∧
        (∀ v, z.run? num = some v → v.slots.take x.slots.length = x.slots.map fun a => (a.1, true)) ∧
        (m.striped y.1.1 = true → y.1.2 + 1 = s.segmentsOf x m c y.1.1 →
          ∀ o ∈ s.otherOwners c, FrameTo z o (.activation ⟨s.nodeId, num⟩ y.1.1 .part))) ∧
      (x.waiting = false → x.train = false → x.output = [] → x.step < x.steps → x.stage = .compute → y.1 = (x.layer, x.segment) →
        m.degraded = false → (m.striped x.layer = false ∨ x.heard (s.otherOwners c) (· == .part) = true) →
        hdrExperts m.header = 0 → Served s x m →
        bit (byteAt r.entry 49) 2 = false → HostTakes io → LeavesUnit (s.at t) z x r m c false) := by
  subst hw
  have hexec := execLayerStreamComplete_eq (t := t) (io := io) hx hm hc hy
  rw [if_neg (by simp [ht])] at hexec
  have hxa : (s.at t).run? num = some x := hx
  have had := State.slotDone_aside (s.at t) num
  have hdr := State.slotDone_run hxa
  generalize hb : (y.1.2 + 1 == ((s.at t).slotDone num).segmentsOf x m c y.1.1) = last at hexec
  have hf := State.slotGoesOn_filledFrom ((s.at t).slotDone num) num m c y last
  obtain ⟨l, hl⟩ := hf.run _ hdr
  have ha : Aside (s.at t) (((s.at t).slotDone num).slotGoesOn num m c y last) := Aside.trans _ _ _ had hf.aside
  refine ⟨_, hexec, fun ch hch => ?_, fun _ _ hst hd hh => ?_, fun hwt htr ho hs hst hyu hd hpart hexp hserv hbit hio => ?_⟩
  · refine (State.goOn_noGrant ..).keeps _ _ (hf.aside.grants.keeps _ _ ?_)
    exact State.useGrants_arbHolds (.layer ⟨s.nodeId, num⟩) s.channelsOn (s.at t) hch
  · have hheard : x.heard ((s.at t).otherOwners c) (· == .outputs) = false := by
      obtain ⟨o, hmem, hno⟩ := List.any_eq_true.mp hh
      refine Bool.eq_false_iff.mpr fun hall => ?_
      have h1 : x.heard [o] (· == .outputs) = true :=
        List.all_eq_true.mpr fun a ha => List.mem_singleton.mp ha ▸ List.all_eq_true.mp hall o hmem
      rw [h1] at hno
      exact absurd hno Bool.false_ne_true
    rw [layerStream_combine hl ha hr hm hc hst hd hheard]
    refine ⟨by rw [hl, ← hst]; rfl, fun v hv => ?_, fun hstr hseg o hmem => ?_⟩
    · obtain rfl := Option.some.inj (hl.symm.trans hv)
      simp
    · have hlast : last = true := by
        rw [← hb, had.segmentsOf_eq]
        exact beq_iff_eq.mpr hseg
      refine (State.fillWindow_filledFrom ..).aside.frames _ _ ?_
      rw [if_pos (by simp [hstr, hlast])]
      have hfr := State.exchange_frameTo ((had.req?_eq num).trans hr) c y.1.1 (fun _ => .part) (had.otherOwners_eq c ▸ hmem)
      rw [had.nodeId_eq] at hfr
      exact hfr
  · have hslots := any_slots_of_find (l' := l) hy hyu
    have hserv' : Served (s.at t) x m := hserv
    have hsv := (hserv'.slotDone hxa).filledFrom hf
    rw [State.goOn_stage hl ((ha.req?_eq _).trans hr) ((ha.model?_eq _ _).trans hm) ((ha.coll?_eq _).trans hc) hwt ho hs hd,
      State.runStage_compute (x := { x with slots := (x.slots.map fun z => (z.1, true)) ++ l }) hst hslots (hpart.imp_right fun h => (ha.otherOwners_eq c).symm ▸ h)]
    exact LeavesUnit.of_aside ha (State.computeUnit_leaves hl ((ha.req?_eq _).trans hr) hsv htr hio (by simp [hbit]) (Or.inl hexp))

end

end Sys2Proof.Machine
end

-- ==== Proofs: Experts, frames and windows of a run (O43) ====
section
/-! Settles O43: what streams and comes in for a run beside its layers, and the obligation itself. -/

namespace Sys2Proof.Machine

open Sys2Proof

/-! ### Models -/

theorem State.model?_ids {s : State} {a b : Nat} {m : Model} (h : s.model? a b = some m) : m.coll = a ∧ m.id = b := by
  simpa using List.find?_some h

theorem State.modModel_model (s : State) (a b : Nat) {f : Model → Model} (hf : ∀ m, (f m).coll = m.coll ∧ (f m).id = m.id) :
    (s.modModel a b f).model? a b = (s.model? a b).map f :=
  find?_modWhere _ _ _ (fun m => by simp [(hf m).1, (hf m).2])

/-! ### The expert cache (R349) -/

section
variable {s : State} {f layer expert n : Nat} {m : Model}

theorem State.releases_frame (l : List (Nat × Nat × Nat × Nat)) (s : State) :
    l.foldl (fun s y => s.release y.2.2.2 .t1 y.2.2.1) s =
      { s with fns := (l.foldl (fun s y => s.release y.2.2.2 .t1 y.2.2.1) s).fns } :=
  foldl_head_keeps (R := fun s x => x = { s with fns := x.fns }) (fun _ => rfl) (fun _ _ _ h k => by rw [k, h]) (fun _ _ => rfl) l s

theorem State.cacheExpert_frame (s : State) (f : Nat) (m : Model) (layer expert n : Nat) : s.cacheExpert f m layer expert n =
    { s with fns := (s.cacheExpert f m layer expert n).fns, models := (s.cacheExpert f m layer expert n).models } := by
  unfold State.cacheExpert
  dsimp only
  split
  · rfl
  · split
    · rw [State.releases_frame]; rfl
    · rfl

theorem oldestExperts_zero (l : List (Nat × Nat × Nat × Nat)) : oldestExperts 0 l = 0 := by
  cases l <;> rfl

/-- An expert that the allowance, the quota and T1 hold joins the cache, and none leaves it. -/
theorem State.cacheExpert_joins (hm : s.model? m.coll m.id = some m) (hheld : m.expertCache.foldl (fun n y => n + y.2.2.1) 0 + n ≤ m.allowance)
    (hfits : s.fits f .t1 n = true) (hfree : n ≤ s.t1Free f) :
    (s.cacheExpert f m layer expert n).model? m.coll m.id = some { m with expertCache := m.expertCache ++ [(layer, expert, n, f)] } := by
  have hk : oldestExperts (m.expertCache.foldl (fun n y => n + y.2.2.1) 0 + n - m.allowance) m.expertCache = 0 := by
    rw [Nat.sub_eq_zero_of_le hheld, oldestExperts_zero]
  unfold State.cacheExpert
  dsimp only
  rw [hk, if_neg (by omega)]
  have hs : (m.expertCache.take 0).foldl (fun s y => s.release y.2.2.2 .t1 y.2.2.1) s = s := rfl
  rw [hs, if_pos (by simp [hfits, hfree]), State.modModel_model _ _ _ (by intro m; exact ⟨rfl, rfl⟩)]
  exact congrArg (Option.map _) hm

end

section
variable {s : State} {num expert n : Nat} {x : Run} {r : Req} {w : Work}

/-- The share of an expert has streamed. -/
def State.expertStreamed (s : State) (num expert : Nat) : State :=
  (s.useGrants (.expert ⟨s.nodeId, num⟩ expert) s.channelsOn).modRun num
    fun x => { x with waitingExperts := x.waitingExperts.filter (· != expert) }

theorem State.expertStreamed_frame (s : State) (num expert : Nat) : s.expertStreamed num expert =
    { s with runs := (s.expertStreamed num expert).runs, arbs := (s.expertStreamed num expert).arbs } := by
  unfold State.expertStreamed
  rw [State.useGrants_frame]; rfl

theorem State.expertStreamed_run (hx : s.run? num = some x) :
    (s.expertStreamed num expert).run? num = some { x with waitingExperts := x.waitingExperts.filter (· != expert) } := by
  unfold State.expertStreamed
  rw [State.modRun_run (by intro u; rfl), State.run?_of_runs (State.useGrants_runs ..), hx]
  rfl

/-- Bytes of an expert of a layer on this node. -/
def State.expertBytes (s : State) (m : Model) (c : Coll) (layer expert : Nat) : Nat :=
  (m.tensors.filter fun t => t.layer == layer && t.placement == 2 && t.expert == expert).foldl (fun n t => n + s.storedBytes c t) 0

theorem execRoutedExpertStreamComplete_turn (hx : s.run? num = some x) (hr : s.req? num = some r)
    (h : (!x.waitingExperts.contains expert || !s.turnsAll (.expert ⟨s.nodeId, num⟩ expert) s.channelsOn) = false) :
    exec (.routedExpertStreamComplete num expert) s =
      match (s.expertStreamed num expert).model? x.coll x.model, (s.expertStreamed num expert).coll? x.coll with
      | some m, some c => .next ((s.expertStreamed num expert).cacheExpert r.fn m x.layer expert
          ((s.expertStreamed num expert).expertBytes m c x.layer expert))
      | _, _ => .next (s.expertStreamed num expert) := by
  have hexec : exec (.routedExpertStreamComplete num expert) s = execRoutedExpertStreamComplete num expert s := rfl
  unfold execRoutedExpertStreamComplete at hexec
  dsimp only at hexec
  rw [hx, hr] at hexec
  dsimp only at hexec
  rw [if_neg (by rw [h]; exact Bool.false_ne_true)] at hexec
  exact hexec

/-- ROUTED_EXPERT_STREAM_COMPLETE: an expert that has streamed is waited for no longer, and is cached when T1 holds it. -/
theorem routedExpertStreamComplete_spec (hx : s.run? num = some x) (hr : s.req? num = some r)
    (hw : w = .expert ⟨s.nodeId, num⟩ expert) : ∃ y, exec (.routedExpertStreamComplete num expert) s = .next y ∧
      ((expert ∉ x.waitingExperts ∨ s.turnsAll w s.channelsOn = false) → y = s) ∧
      (expert ∈ x.waitingExperts → s.turnsAll w s.channelsOn = true →
        y.run? num = some { x with waitingExperts := x.waitingExperts.filter (· != expert) } ∧
        y = { s with runs := y.runs, fns := y.fns, models := y.models, arbs := y.arbs } ∧
        ∀ m c, s.model? x.coll x.model = some m → s.coll? x.coll = some c → n = s.expertBytes m c x.layer expert →
          m.expertCache.foldl (fun n y => n + y.2.2.1) 0 + n ≤ m.allowance → s.fits r.fn .t1 n = true → n ≤ s.t1Free r.fn →
          (y.model? x.coll x.model).map (·.expertCache) = some (m.expertCache ++ [(x.layer, expert, n, r.fn)])) := by
  subst hw
  have hexec : exec (.routedExpertStreamComplete num expert) s = execRoutedExpertStreamComplete num expert s := rfl
  cases hb : (!x.waitingExperts.contains expert || !s.turnsAll (.expert ⟨s.nodeId, num⟩ expert) s.channelsOn) with
  | true =>
    unfold execRoutedExpertStreamComplete at hexec
    dsimp only at hexec
    rw [hx, hr] at hexec
    dsimp only at hexec
    rw [if_pos hb] at hexec
    refine ⟨s, hexec, fun _ => rfl, fun h1 h2 => ?_⟩
    simp [h1, h2] at hb
  | false =>
    have hturn := execRoutedExpertStreamComplete_turn hx hr hb
    have hf := State.expertStreamed_frame s num expert
    have hrun := State.expertStreamed_run (expert := expert) hx
    have hno : ¬ (expert ∉ x.waitingExperts ∨ s.turnsAll (.expert ⟨s.nodeId, num⟩ expert) s.channelsOn = false) := fun h => by
      obtain h | h := h <;> simp [h] at hb
    generalize s.expertStreamed num expert = z at *
    have hzm : z.model? x.coll x.model = s.model? x.coll x.model := by rw [hf]; rfl
    have hzc : z.coll? x.coll = s.coll? x.coll := by rw [hf]; rfl
    rw [hzm, hzc] at hturn
    have hfns : z.fns = s.fns := by rw [hf]
    have hmodels : z.models = s.models := by rw [hf]
    have hplain : z = { s with runs := z.runs, fns := z.fns, models := z.models, arbs := z.arbs } := by
      rw [hfns, hmodels]
      exact hf
    cases hm : s.model? x.coll x.model with
    | none =>
      rw [hm] at hturn
      exact ⟨z, hturn, fun h => absurd h hno, fun _ _ => ⟨hrun, hplain, fun _ _ h => (Option.some_ne_none _ h.symm).elim⟩⟩
    | some m =>
      cases hc : s.coll? x.coll with
      | none =>
        rw [hm, hc] at hturn
        exact ⟨z, hturn, fun h => absurd h hno, fun _ _ => ⟨hrun, hplain, fun _ _ _ h => (Option.some_ne_none _ h.symm).elim⟩⟩
      | some c =>
        rw [hm, hc] at hturn
        have hcf := State.cacheExpert_frame z r.fn m x.layer expert (z.expertBytes m c x.layer expert)
        refine ⟨_, hturn, fun h => absurd h hno, fun _ _ => ⟨?_, ?_, fun m' c' hm' hc' hn hheld hfits hfree => ?_⟩⟩
        · rw [hcf]; exact hrun
        · rw [hcf, hf]
        · obtain rfl := Option.some.inj hm'
          obtain rfl := Option.some.inj hc'
          have hbytes : z.expertBytes m c x.layer expert = n := by rw [hn, hf]; rfl
          obtain ⟨h1, h2⟩ := State.model?_ids hm
          have hj := State.cacheExpert_joins (s := z) (f := r.fn) (layer := x.layer) (expert := expert) (n := n) (m := m)
            (by rw [h1, h2, hzm, hm]) hheld (by rw [hf]; exact hfits) (by rw [hf]; exact hfree)
          rw [h1, h2] at hj
          rw [hbytes, hj]
          rfl

end

end Sys2Proof.Machine
end

-- ==== Proofs: LayersOfARun (O43) ====
section
/-! Settles O43: peers' frames and the window's release, a run that goes on, and the obligation assembled. -/

namespace Sys2Proof.Machine

open Sys2Proof

/-! ### Frames and the window (R345, R363) -/

theorem activationExchangeReceive_spec {s : State} {k : Key} {peer layer : Nat} {p : Exchange} {x : Run} (hx : s.run? k.num = some x) :
    (k.origin = s.nodeId → ∃ y, exec (.activationExchangeReceive k peer ⟨layer, p⟩) s = .next y ∧ y = { s with runs := y.runs } ∧
      y.run? k.num = some { x with inbox := x.inbox ++ [(peer, layer, p)] }) ∧
    (k.origin ≠ s.nodeId → exec (.activationExchangeReceive k peer ⟨layer, p⟩) s = .next s) := by
  have hexec : exec (.activationExchangeReceive k peer ⟨layer, p⟩) s = execActivationExchangeReceive k peer ⟨layer, p⟩ s := rfl
  unfold execActivationExchangeReceive at hexec
  refine ⟨fun h => ⟨_, hexec.trans (if_pos h), rfl, ?_⟩, fun h => hexec.trans (if_neg h)⟩
  rw [State.modRun_run (by intro u; rfl), hx]
  rfl

theorem windowRelease_spec {s : State} {coll model t a : Nat} {m : Model} (hm : s.model? coll model = some m) (hby : m.windowBy = none)
    (hat : m.windowAt = some a) (hfn : m.windowFn < s.fns.length) :
    (a + Config.ticksPerS ≤ (s.at t).now →
      ∃ y, exec (.windowRelease coll model t) s = .next y ∧ y.model? coll model = some { m with windowAt := none, windowT1 := 0 } ∧
        (y.fn m.windowFn).t1Used = (s.fn m.windowFn).t1Used - m.windowT1 ∧
        y = { s.at t with models := y.models, fns := y.fns }) ∧
    ((s.at t).now < a + Config.ticksPerS → exec (.windowRelease coll model t) s = .next (s.at t)) := by
  have hexec : exec (.windowRelease coll model t) s = execWindowRelease coll model t s := rfl
  unfold execWindowRelease at hexec
  dsimp only at hexec
  rw [State.at_model_, hm] at hexec
  dsimp only at hexec
  rw [hby, hat] at hexec
  refine ⟨fun h => ⟨_, hexec.trans (if_pos h), ?_, ?_, rfl⟩, fun h => hexec.trans (if_neg (Nat.not_le.mpr h))⟩
  · rw [State.modModel_model _ _ _ (by intro m; exact ⟨rfl, rfl⟩)]
    exact congrArg (Option.map _) hm
  · have hr : ((s.at t).release m.windowFn .t1 m.windowT1).fn m.windowFn = ((s.at t).fn m.windowFn).release .t1 m.windowT1 :=
      State.modFn_fn_same (s := s.at t) hfn _
    rw [State.modModel_fn_, hr]
    rfl

/-! ### A run goes on (R37, R348, R363, R364) -/

section
variable {s : State} {num t : Nat} {x : Run} {r : Req} {m : Model} {c : Coll} {io : HostIO}

theorem execModelRun_goesOn (hx : s.run? num = some x) (htrain : x.train = false) (hw : x.waiting = false) :
    exec (.modelRun num [] io t) s = .next ((s.at t).goOn num io) := by
  have hexec : exec (.modelRun num [] io t) s = execModelRun num [] io t s := rfl
  have hrun : (s.at t).run? num = some x := hx
  rw [hexec]
  unfold execModelRun
  simp only [hrun, htrain, hw, Bool.false_eq_true, if_false]

/-- A run whose model has come to lie in lost data ends (R364). -/
theorem State.goOn_degraded (hx : s.run? num = some x) (hr : s.req? num = some r) (hm : s.model? x.coll x.model = some m)
    (hc : s.coll? x.coll = some c) (hw : x.waiting = false) (ho : x.output = []) (hs : x.step < x.steps) (hd : m.degraded = true)
    (hio : HostTakes io) : CompletedWith s (s.goOn num io) r (.bare stDegraded 0) ∧ (s.goOn num io).run? num = none := by
  obtain rfl := State.req?_num hr
  rw [State.goOn_eq hx hr hm hc, if_neg (by simp [hw, ho, Nat.not_le.mpr hs]), if_pos hd]
  exact (State.dropRun_ending s r.num).complete hio _

/-- For a few tokens of a wholly resident model a layer's broadcasts are asked for at every stack (R355, R384). -/
theorem State.computeUnit_asks (hx : s.run? num = some x) (hs : x.small m = true) (hl : x.left = none) {i : Nat} (hi : i ∈ s.stacksOn) :
    Waits (s.computeUnit x r m c io) (0x40 + i) (.layer ⟨s.nodeId, num⟩) ∨ s.arbHolds (0x40 + i) (.layer ⟨s.nodeId, num⟩) = true := by
  obtain rfl := State.run?_num hx
  rw [State.computeUnit_of_not_served (State.serveStage_asks hs hl)]
  exact State.askPorts_waits hi

/-- A layer stays where it is while a tile's tensor clusters are neither granted nor clocked (R38, R39). -/
theorem State.computeUnit_waits (hx : s.run? num = some x) (hst : x.stage = .compute) (hs : x.small m = false) {i : Nat}
    (hi : i ∈ s.tilesOn) (hh : s.arbHolds (tensorArb i) (.layer ⟨s.nodeId, num⟩) = false) (hready : s.tileReady i = false) :
    ((s.computeUnit x r m c io).run? num).map (·.stage) = some .compute ∧
      Waits (s.computeUnit x r m c io) (tensorArb i) (.layer ⟨s.nodeId, num⟩) := by
  obtain rfl := State.run?_num hx
  obtain ⟨z, hz, hruns, hwait⟩ := State.serveStage_waits hs hi hh hready
  rw [State.computeUnit_of_not_served hz, State.run?_of_runs hruns, hx, ← hst]
  exact ⟨rfl, hwait⟩

end

/-- Settles O43: each clause by the lemma on the stage, the stream, the frame or the window that it speaks of. -/
theorem layersOfARun : Obligations.LayersOfARun := by
  unfold Obligations.LayersOfARun
  refine ⟨fun s num t io x r m c y w hx hr hm hc hy hw => ⟨fun h => ?_, fun h => layerStreamComplete_turn hx hr hm hc hy hw h⟩,
    fun s num t io x r m c others left done hx hr hm hc htrain hwait hout hstep hothers hio hleft hdone => ⟨fun hd => ?_, fun hd => ?_⟩,
    fun s num expert n x r w hx hr hw => routedExpertStreamComplete_spec hx hr hw,
    fun s k peer layer p x hx => activationExchangeReceive_spec hx,
    fun s coll model t a m hm hby hat hfn => windowRelease_spec hm hby hat hfn⟩
  · subst hw
    exact (execLayerStreamComplete_eq hx hm hc hy).trans (if_pos (by rw [h]; rfl))
  · exact ⟨_, execModelRun_goesOn hx htrain hwait, State.goOn_degraded (s := s.at t) hx hr hm hc hwait hout hstep hd hio⟩
  · subst hothers hdone
    have hxa : (s.at t).run? num = some x := hx
    have hra : (s.at t).req? num = some r := hr
    have hgo : (s.at t).goOn num io = (s.at t).runStage x r m c io := State.goOn_stage hxa hr hm hc hwait hout hstep hd
    refine ⟨_, execModelRun_goesOn hx htrain hwait, ?_⟩
    rw [hgo]
    refine ⟨fun hst h => State.runStage_computeWaits (s := s.at t) hst h, fun hst hdone hpart => ?_,
      fun hst hall => State.runStage_groups hxa hst hall, fun hst hb => State.runStage_outputs hxa hra hst hb,
      fun hst b hb hserv => State.runStage_expert hxa hst hb hserv,
      fun hst => State.runStage_combine (s := s.at t) hxa hra hst htrain hio hleft⟩
    have hcu : (s.at t).runStage x r m c io = (s.at t).computeUnit x r m c io := State.runStage_compute (s := s.at t) hst hdone hpart
    rw [hcu]
    exact ⟨fun hs hl i hi => State.computeUnit_asks (s := s.at t) hxa hs hl hi,
      fun hs i hi hh hready => State.computeUnit_waits (s := s.at t) hxa hst hs hi hh hready,
      fun hserv hcase => State.computeUnit_leaves (s := s.at t) hxa hra hserv htrain hio hleft hcase,
      fun hserv hexp hlay hseg => State.computeUnit_routes (s := s.at t) hxa hra hserv hexp hlay hseg⟩

end Sys2Proof.Machine
end

-- ==== Proofs: Read-sensitive registers (O9) ====
section
/-! Settles O9: what each read-sensitive register answers, and the counters that its read clears (R59, R450, R492, R530). -/

namespace Sys2Proof.Machine

open Sys2Proof

/-- The read of ARB_GRANTS captures the wait counters of the selected requester and drops its live record (R59). -/
theorem arbGrantsRead_spec {s : State} {c : ArbStat} (hc : s.arbSelected = some c) :
    ∃ x, exec .arbGrantsRead s = .next x ∧
      x = { s with arbs := x.arbs, arbWaitTotal := BitVec.ofNat 64 c.waitTotal, arbWaitMax := BitVec.ofNat 64 c.waitMax,
                   out := s.out ++ [.readData (BitVec.ofNat 64 c.grants)] } ∧
      (x.arb s.arbSelect.toNat).stats.all (·.requester != c.requester) = true ∧
      ∀ a, a ≠ s.arbSelect.toNat → x.arb a = s.arb a := by
  have hexec : exec .arbGrantsRead s = execArbGrantsRead s := rfl
  unfold execArbGrantsRead at hexec
  rw [hc] at hexec
  refine ⟨_, hexec, ?_, ?_, fun a ha => ?_⟩
  · rw [State.modArb_frame]; rfl
  · rw [State.emit_arb_, State.modArb_arb_same (by intro a; rfl)]
    simp
  · rw [State.emit_arb_, State.modArb_arb_ne ha (by intro a; rfl)]
    rfl

/-- The read of INT_HELD clears the function's count of held messages (R450). -/
theorem intHeldRead_spec {s : State} {fn : Nat} (he : s.fnExists fn = true) (hf : fn < s.fns.length) :
    ∃ x, exec (.intHeldRead fn) s = .next x ∧
      x = { s with fns := x.fns, out := s.out ++ [.readData ((s.fn fn).heldCount.setWidth 64)] } ∧
      x.fn fn = { s.fn fn with heldCount := 0 } ∧ ∀ g, g ≠ fn → x.fn g = s.fn g := by
  have hexec : exec (.intHeldRead fn) s = execIntHeldRead fn s := rfl
  exact ⟨_, hexec.trans (if_neg (by simp [he])), rfl, State.modFn_fn_same hf _, fun g hg => State.modFn_fn_ne hg _⟩

/-- The read of PORT_TX_BYTES clears it for the selected port (R492). -/
theorem portTxBytesRead_spec {s : State} (hp : s.portSelect.toNat < s.ports.length) :
    ∃ x, exec (.portCounterRead 0x028) s = .next x ∧
      x = { s with ports := x.ports, out := s.out ++ [.readData (s.port s.portSelect.toNat).txBytes] } ∧
      x.port s.portSelect.toNat = { s.port s.portSelect.toNat with txBytes := 0 } ∧
      ∀ p, p ≠ s.portSelect.toNat → x.port p = s.port p :=
  ⟨_, rfl, rfl, State.modPort_port_same hp _, fun _ h => State.modPort_port_ne h _⟩

/-- Settles O9: one lemma for each register; the read of PWR_GUST_WAITS is its definition (R530). -/
theorem readSensitiveRegisters : Obligations.ReadSensitiveRegisters := by
  unfold Obligations.ReadSensitiveRegisters
  exact ⟨fun s c hc => arbGrantsRead_spec hc, fun s fn he hf => intHeldRead_spec he hf, fun s => rfl,
    fun s hp => portTxBytesRead_spec hp⟩

end Sys2Proof.Machine
end

-- ==== Proofs: Barriers (O46) ====
section
/-! Settles O46: what a sweep of ended barriers leaves, and what a BARRIER of either mode does (R73, R74, R76, R134). -/

namespace Sys2Proof.Machine

open Sys2Proof

/-! ### Requests and completions -/

theorem State.entryOf_of_req {s : State} {num : Nat} {r : Req} (h : s.req? num = some r) : s.entryOf num = r.entry := by
  simp [State.entryOf, h]

theorem State.modReq_req_ne {s : State} {n m : Nat} {f : Req → Req} (h : m ≠ n) (hf : ∀ r, (f r).num = r.num) :
    (s.modReq n f).req? m = s.req? m :=
  find?_modWhere_ne _ _ _ _ (by intro x hx; simp_all [Ne.symm h]) (by intro x hx; simp_all [Ne.symm h])

/-- A change of the records that a filter drops is not seen in what the filter leaves. -/
theorem filter_modWhere_dropped {α : Type} (l : List α) (p : α → Bool) (f : α → α) (hf : ∀ x, p x = true → p (f x) = true) :
    (modWhere l p f).filter (fun x => !p x) = l.filter fun x => !p x := by
  induction l with
  | nil => rfl
  | cons x l ih =>
    by_cases hx : p x = true
    · simpa [modWhere, hx, hf x hx] using ih
    · simpa [modWhere, hx] using ih

theorem State.modReq_others (s : State) (n : Nat) {f : Req → Req} (hf : ∀ r, (f r).num = r.num) :
    (s.modReq n f).reqs.filter (·.num != n) = s.reqs.filter (·.num != n) :=
  filter_modWhere_dropped s.reqs (·.num == n) f (by simp [hf])

/-- A completion reads the queues and the other requests of the state it is made in, and nothing else of it. -/
theorem CompletedWith.of_others {s s' x : State} {r : Req} {c : Compl} (h : CompletedWith s' x r c)
    (hr : s'.reqs.filter (·.num != r.num) = s.reqs.filter (·.num != r.num)) (hq : s'.queues = s.queues) : CompletedWith s x r c := by
  obtain ⟨h1, h2⟩ := h
  exact ⟨h1.trans hr, fun u hu => h2 u (by simpa [State.queue?, hq] using hu)⟩

/-! ### The sweep of ended barriers (R73, R74, R76) -/

theorem CompletedWith.swept {s x : State} {r : Req} {c : Compl} (h : CompletedWith s x r c) : CompletedWith s x.sweepBarriers r c := h

theorem CompletedWith.req?_none {s x : State} {r : Req} {c : Compl} (h : CompletedWith s x r c) : x.req? r.num = none := by
  obtain ⟨hr, -⟩ := h
  unfold State.req?
  rw [hr]
  exact List.find?_eq_none.mpr fun y hy => by simpa using (List.mem_filter.mp hy).2

/-- After the sweep no queue is held by a barrier whose request has ended. -/
theorem State.sweepBarriers_barrier {x : State} {n q : Nat} (h : x.req? n = none) {u : Queue} (hu : x.sweepBarriers.queue? q = some u) :
    u.barrier ≠ some n := by
  obtain ⟨v, -, rfl⟩ := List.mem_map.mp (List.mem_of_find?_eq_some hu)
  simp [Option.filter_eq_some_iff, h]

/-- After the sweep no queue waits for a shard-mode barrier whose request has ended. -/
theorem State.sweepBarriers_shardBarriers {x : State} {n : Nat} (h : x.req? n = none) :
    ∀ u ∈ x.sweepBarriers.queues, ∀ z ∈ u.shardBarriers, z.1 ≠ n := by
  intro u hu z hz hn
  obtain ⟨v, -, rfl⟩ := List.mem_map.mp hu
  have := (List.mem_filter.mp hz).2
  simp [hn, h] at this

/-! ### Queue mode (R73) -/

theorem barrierQueue_spec {s : State} {num : Nat} (t : Nat) {io : HostIO} {r : Req}
    (hacc : Accepted s num 0x0B io [(49, 3), (55, 73)] .zero none 0 r) (hmode : byteAt r.entry 48 = 0) (htarget : barrierTarget r.entry = 0) :
    ∃ x, exec (.barrierQueue num io t) s = .next x ∧ x.req? num = some { r with body := .barrierQ } ∧
      x = { s.at t with reqs := x.reqs, queues := x.queues } ∧ (∀ m, m ≠ num → x.req? m = s.req? m) := by
  have hreq : (s.at t).req? num = some r := hacc.1
  obtain rfl := State.req?_num hreq
  have hexec : exec (.barrierQueue r.num io t) s =
      .next ((s.at t).modReq r.num fun r => { r with body := .barrierQ }).sweepBarriers := by
    change execBarrierQueue r.num io t s = _
    simp only [execBarrierQueue, State.entryOf_of_req hreq, hmode, htarget]
    rw [State.dataCommit_accepted (hacc.at t) (by simp)]
    rfl
  refine ⟨_, hexec, ?_, rfl, fun m hm => ?_⟩
  · change ((s.at t).modReq r.num _).req? r.num = _
    rw [State.modReq_req (by intro r; rfl), hreq]
    rfl
  · exact State.modReq_req_ne hm (by intro r; rfl)

theorem barrierQueueRelease_spec {s : State} {q : Nat} (t : Nat) {io : HostIO} {r : Req}
    (hr : (s.reqs.find? fun r => r.queue == q && r.body == .barrierQ) = some r) (hio : HostTakes io) :
    ((∀ y ∈ s.reqs, y.queue = q → r.seq ≤ y.seq) →
      ∃ x, exec (.barrierQueueRelease q io t) s = .next x ∧ CompletedWith (s.at t) x r (.bare stOk 0) ∧
        (∀ u, x.queue? q = some u → u.barrier ≠ some r.num) ∧ x.shards = s.shards) ∧
    ((∃ y ∈ s.reqs, y.queue = q ∧ y.seq < r.seq) → exec (.barrierQueueRelease q io t) s = .next (s.at t)) := by
  have hr' : ((s.at t).reqs.find? fun r => r.queue == q && r.body == .barrierQ) = some r := hr
  have hexec : exec (.barrierQueueRelease q io t) s = execBarrierQueueRelease q io t s := rfl
  unfold execBarrierQueueRelease at hexec
  simp only [hr'] at hexec
  refine ⟨fun h => ?_, fun ⟨y, hy, hyq, hlt⟩ => hexec.trans (if_pos ?_)⟩
  · have hdone := State.complete_completedWith (s := s.at t) (r := r) (c := { status := stOk, detail := 0, value := 0 }) hio
    refine ⟨_, hexec.trans (if_neg ?_), hdone.swept, fun u hu => State.sweepBarriers_barrier hdone.req?_none hu,
      (State.complete_only hio).shards_eq⟩
    simp only [List.any_eq_true, Bool.and_eq_true, beq_iff_eq, decide_eq_true_eq, not_exists, not_and]
    exact fun y hy hyq => Nat.not_lt.mpr (h y hy hyq)
  · exact List.any_eq_true.mpr ⟨y, hy, by simp [hyq, hlt]⟩

/-! ### Shard mode (R68, R74) -/

/-- An earlier command of request `r`'s queue may still be stamped on the shard (R74). -/
def State.earlierMutation (s : State) (r : Req) (shard : Nat) : Bool :=
  s.reqs.any fun x => x.queue == r.queue && decide (x.seq < r.seq) &&
    x.mutates shard (((s.colls.find? fun c => c.shardIds.contains shard).map (·.spec.id)).getD 0)

/-- What a checked shard-mode BARRIER does: wait for earlier mutations, then pass the ledger arbiter here, or ask the node that
serves the shard. -/
def State.passBarrier (s : State) (r : Req) (shard server : Nat) (reply : Option (Option Nat)) (io : HostIO) (sent : Bool) : State :=
  if s.earlierMutation r shard then s.modReq r.num fun r => { r with body := .barrierShard sent }
  else if server = s.nodeId then
    match s.shard? shard with
    | some d =>
      (s.modReq r.num fun r => { r with body := .barrierShard false }).passLedgers [shard] (.barrier ⟨s.nodeId, r.num⟩) fun y =>
        (y.complete r { status := stOk, detail := 0, value := d.counter } io).sweepBarriers
    | none => (s.complete r (.bare stRetry 0) io).sweepBarriers
  else
    match sent, reply with
    | true, some (some f) => (s.complete r { status := stOk, detail := 0, value := f } io).sweepBarriers
    | true, some none => (s.complete r (.bare stRetry 0) io).sweepBarriers
    | true, none => s
    | false, _ =>
      (s.sendWork (workTag ⟨s.nodeId, r.num⟩ r.fn r.qosClass 0x0B server shard 0) (.barrierShare ⟨s.nodeId, r.num⟩ shard)).modReq r.num
        fun r => { r with body := .barrierShard true }

section
variable {s : State} {num t server : Nat} {io : HostIO} {r : Req} {reply : Option (Option Nat)}

/-- A BARRIER that has been checked before goes on. -/
theorem execBarrierShard_waiting {sent : Bool} (hserver : s.serverOf (barrierTarget r.entry) = some server) (hr : s.req? num = some r)
    (hbody : r.body = .barrierShard sent) :
    exec (.barrierShard num reply io t) s = .next ((s.at t).passBarrier r (barrierTarget r.entry) server reply io sent) := by
  have hreq : (s.at t).req? num = some r := hr
  obtain rfl := State.req?_num hreq
  have hsv : (s.at t).serverOf (barrierTarget r.entry) = some server := hserver
  change execBarrierShard r.num reply io t s = _
  simp only [execBarrierShard, State.entryOf_of_req hreq, hreq, Option.map_some, hbody, hsv, Option.getD_some, Option.some_beq_some,
    beq_iff_eq]
  rfl

/-- An accepted BARRIER of shard mode goes on, and barriers that have ended are swept. -/
theorem execBarrierShard_accepted (hserver : s.serverOf (barrierTarget r.entry) = some server)
    (hacc : Accepted s num 0x0B io [(49, 3), (55, 73)] .zero (some 6) 0 r) (hmode : byteAt r.entry 48 = 1) :
    exec (.barrierShard num reply io t) s =
      .next ((s.at t).passBarrier r (barrierTarget r.entry) server reply io false).sweepBarriers := by
  have hreq : (s.at t).req? num = some r := hacc.1
  have hbody : r.body = .fresh := hacc.2.2.1
  obtain rfl := State.req?_num hreq
  have hsv : (s.at t).serverOf (barrierTarget r.entry) = some server := hserver
  change execBarrierShard r.num reply io t s = _
  simp only [execBarrierShard, State.entryOf_of_req hreq, hreq, Option.map_some, hbody, hsv, hmode]
  simp only [Option.isSome_some, if_true]
  rw [State.dataCommit_accepted (hacc.at t) (by simp)]
  simp only [Option.getD_some, Option.some_beq_some, beq_iff_eq]
  rfl

end

section
variable {s : State} {r : Req} {shard server : Nat} {reply : Option (Option Nat)} {io : HostIO} {sent : Bool}

theorem State.passBarrier_holds (hr : s.req? r.num = some r) (h : s.earlierMutation r shard = true) :
    (s.passBarrier r shard server reply io sent).req? r.num = some { r with body := .barrierShard sent } ∧
      (s.passBarrier r shard server reply io sent).out = s.out ∧ (s.passBarrier r shard server reply io sent).shards = s.shards := by
  unfold State.passBarrier
  rw [if_pos h, State.modReq_req (by intro r; rfl), hr]
  exact ⟨rfl, rfl, rfl⟩

/-- Of a shard that this node serves: the barrier goes behind what waits at the ledger arbiter. -/
theorem State.passBarrier_here {d : Shard} (h : s.earlierMutation r shard = false) (hserver : server = s.nodeId)
    (hd : s.shard? shard = some d) : s.passBarrier r shard server reply io sent =
      (s.modReq r.num fun r => { r with body := .barrierShard false }).passLedgers [shard] (.barrier ⟨s.nodeId, r.num⟩) fun y =>
        (y.complete r { status := stOk, detail := 0, value := d.counter } io).sweepBarriers := by
  unfold State.passBarrier
  simp only [h, hserver, hd, Bool.false_eq_true, if_false, if_true]

theorem State.passBarrier_turn {d : Shard} (h : s.earlierMutation r shard = false) (hserver : server = s.nodeId)
    (hd : s.shard? shard = some d) (hio : HostTakes io) (hturn : LedgerTurn s [shard] (.barrier ⟨s.nodeId, r.num⟩)) :
    CompletedWith s (s.passBarrier r shard server reply io sent) r { status := stOk, detail := 0, value := d.counter } ∧
      ShardsButWaiting s (s.passBarrier r shard server reply io sent) ∧
      ∀ u ∈ (s.passBarrier r shard server reply io sent).queues, ∀ z ∈ u.shardBarriers, z.1 ≠ r.num := by
  rw [State.passBarrier_here h hserver hd, State.passLedgers_granted (s := s.modReq r.num _) hturn]
  have hframe := State.leaveLedgers_frame (s.modReq r.num fun r => { r with body := .barrierShard false }) (.barrier ⟨s.nodeId, r.num⟩) [shard]
  have hwait := State.leaveLedgers_noWait (s.modReq r.num fun r => { r with body := .barrierShard false }) (.barrier ⟨s.nodeId, r.num⟩) [shard]
  generalize [shard].foldl (State.leaveLedger · (.barrier ⟨s.nodeId, r.num⟩)) (s.modReq r.num _) = y at hframe hwait ⊢
  have hdone := State.complete_completedWith (s := y) (r := r) (c := { status := stOk, detail := 0, value := d.counter }) hio
  refine ⟨(hdone.of_others ?_ (by rw [hframe]; rfl)).swept, ShardsButWaiting.of_noWait ?_,
    State.sweepBarriers_shardBarriers hdone.req?_none⟩
  · rw [hframe]
    exact State.modReq_others s r.num (by intro r; rfl)
  · exact (State.shardNoWait?_congr (State.complete_only hio).shards_eq).trans hwait

theorem State.passBarrier_waits {d : Shard} (hr : s.req? r.num = some r) (h : s.earlierMutation r shard = false) (hserver : server = s.nodeId)
    (hd : s.shard? shard = some d) (hturn : ¬ LedgerTurn s [shard] (.barrier ⟨s.nodeId, r.num⟩)) :
    (s.passBarrier r shard server reply io sent).req? r.num = some { r with body := .barrierShard false } ∧
      (s.passBarrier r shard server reply io sent).out = s.out ∧ ShardsButWaiting s (s.passBarrier r shard server reply io sent) ∧
      LedgerWaits (s.passBarrier r shard server reply io sent) [shard] (.barrier ⟨s.nodeId, r.num⟩) := by
  rw [State.passBarrier_here h hserver hd]
  obtain ⟨hframe, hbut, hwaits⟩ := State.passLedgers_waitsAt (s := s.modReq r.num fun r => { r with body := .barrierShard false }) hturn
    fun y => (y.complete r { status := stOk, detail := 0, value := d.counter } io).sweepBarriers
  refine ⟨?_, by rw [hframe]; rfl, hbut, hwaits⟩
  have hreq := State.modReq_req (s := s) (n := r.num) (f := fun r => { r with body := .barrierShard false }) (by intro r; rfl)
  rw [hframe]
  exact hreq.trans (by rw [hr]; rfl)

theorem State.passBarrier_away (h : s.earlierMutation r shard = false) (hserver : server ≠ s.nodeId) :
    s.passBarrier r shard server reply io sent = match sent, reply with
    | true, some (some f) => (s.complete r { status := stOk, detail := 0, value := f } io).sweepBarriers
    | true, some none => (s.complete r (.bare stRetry 0) io).sweepBarriers
    | true, none => s
    | false, _ =>
      (s.sendWork (workTag ⟨s.nodeId, r.num⟩ r.fn r.qosClass 0x0B server shard 0) (.barrierShare ⟨s.nodeId, r.num⟩ shard)).modReq r.num
        fun r => { r with body := .barrierShard true } := by
  conv_lhs => unfold State.passBarrier
  simp only [h, hserver, Bool.false_eq_true, if_false]

/-- Of a shard that a peer serves: the peer is asked for its counter. -/
theorem State.passBarrier_asks (hr : s.req? r.num = some r) (h : s.earlierMutation r shard = false) (hserver : server ≠ s.nodeId) :
    (s.passBarrier r shard server reply io false).req? r.num = some { r with body := .barrierShard true } ∧
      FrameTo (s.passBarrier r shard server reply io false) server (.barrierShare ⟨s.nodeId, r.num⟩ shard) ∧
      (s.passBarrier r shard server reply io false).out = s.out := by
  rw [State.passBarrier_away h hserver]
  have hsent := State.sendWork_sent s (workTag ⟨s.nodeId, r.num⟩ r.fn r.qosClass 0x0B server shard 0) (.barrierShare ⟨s.nodeId, r.num⟩ shard)
  have hframe := State.sendWork_frameTo s (workTag ⟨s.nodeId, r.num⟩ r.fn r.qosClass 0x0B server shard 0)
    (.barrierShare ⟨s.nodeId, r.num⟩ shard)
  refine ⟨?_, hframe, hsent.out_eq⟩
  rw [State.modReq_req (by intro r; rfl)]
  simp only [State.req?, hsent.reqs_eq] at hr ⊢
  rw [hr]
  rfl

end

/-- Settles O46: a queue-mode BARRIER and its release by their lemmas; a shard-mode one, accepted now or waiting, goes on by
`State.passBarrier`, case by case. -/
theorem barriers : Obligations.Barriers := by
  unfold Obligations.Barriers
  refine ⟨fun s num t io r hacc hmode htarget => barrierQueue_spec t hacc hmode htarget,
    fun s q t io r hr hio => barrierQueueRelease_spec t hr hio, ?_⟩
  intro s num t server shard io r reply sent earlier w hshard hserver hio hw hcase hearlier
  subst hshard hw
  have hreq : s.req? num = some r := by
    rcases hcase with ⟨hacc, -, -⟩ | ⟨hreq, -⟩
    · exact hacc.1
    · exact hreq
  obtain rfl := State.req?_num hreq
  have hreq' : (s.at t).req? r.num = some r := hreq
  have hearly : (s.at t).earlierMutation r (barrierTarget r.entry) = earlier := hearlier.symm
  obtain ⟨x, hexec, hx⟩ : ∃ x, exec (.barrierShard r.num reply io t) s = .next x ∧
      (x = (s.at t).passBarrier r (barrierTarget r.entry) server reply io sent ∨
        sent = false ∧ x = ((s.at t).passBarrier r (barrierTarget r.entry) server reply io sent).sweepBarriers) := by
    rcases hcase with ⟨hacc, hmode, rfl⟩ | ⟨-, hbody⟩
    · exact ⟨_, execBarrierShard_accepted hserver hacc hmode, .inr ⟨rfl, rfl⟩⟩
    · exact ⟨_, execBarrierShard_waiting hserver hreq hbody, .inl rfl⟩
  refine ⟨x, hexec, fun he => ?_, fun he hsv d hd => ⟨fun hturn => ?_, fun hturn => ?_⟩, fun he hsv => ⟨fun hs => ?_, fun hs hrep => ?_,
    fun hs hrep => ?_, fun f hs hrep => ?_⟩⟩
  · have hP := State.passBarrier_holds (server := server) (reply := reply) (io := io) (sent := sent) hreq' (hearly.trans he)
    rcases hx with rfl | ⟨-, rfl⟩ <;> exact hP
  · have hP := State.passBarrier_turn (s := s.at t) (reply := reply) (sent := sent) (hearly.trans he) hsv hd hio hturn
    obtain ⟨hdone, hbut, hbar⟩ := hP
    rcases hx with rfl | ⟨-, rfl⟩
    · exact ⟨hdone, hbut, hbar⟩
    · exact ⟨hdone, hbut, State.sweepBarriers_shardBarriers hdone.req?_none⟩
  · have hP := State.passBarrier_waits (reply := reply) (io := io) (sent := sent) hreq' (hearly.trans he) hsv hd hturn
    rcases hx with rfl | ⟨-, rfl⟩ <;> exact hP
  · subst hs
    have hP := State.passBarrier_asks (reply := reply) (io := io) hreq' (hearly.trans he) hsv
    rcases hx with rfl | ⟨-, rfl⟩ <;> exact hP
  all_goals
    subst hs hrep
    obtain rfl : x = _ := hx.resolve_right fun h => Bool.noConfusion h.1
    rw [State.passBarrier_away (hearly.trans he) hsv]
  · exact (State.complete_completedWith hio).swept
  · exact (State.complete_completedWith hio).swept

end Sys2Proof.Machine
end

-- ==== Proofs: A run is taken in (O42) ====
section
/-! SUPPORT. What a MODEL-RUN that passes its checks does in its turn at the ledger arbiters (R356 to R364). -/

namespace Sys2Proof.Machine

open Sys2Proof

/-! ### What a turn at the ledger arbiters leaves readable -/

theorem State.toOwners_sent (s : State) (r : Req) (c : Coll) (op : Nat) (m : Msg) : Sent s (s.toOwners r c op m) :=
  Sent.foldl (fun _ _ => State.sendWork_sent ..) _ s

/-- `y` is `s` but for who waits at ledger arbiters, and the arbiters' counters. -/
structure LeftLedgers (s y : State) : Prop where
  frame : y = { s with shards := y.shards, arbs := y.arbs }
  noWait : y.shardNoWait? = s.shardNoWait?

theorem State.leaveLedgers_left (s : State) (w : LedgerWhat) (l : List Nat) : LeftLedgers s (l.foldl (State.leaveLedger · w) s) :=
  ⟨State.leaveLedgers_frame s w l, State.leaveLedgers_noWait s w l⟩

section
variable {s y : State} (h : LeftLedgers s y)
include h

theorem LeftLedgers.shard?_bind {α : Type} (f : Shard → Option α) (hf : ∀ d, f d.noWait = f d) (i : Nat) :
    (y.shard? i).bind f = (s.shard? i).bind f := by
  have e : ∀ z : State, (z.shard? i).bind f = (z.shardNoWait? i).bind f := by
    intro z
    simp only [State.shardNoWait?]
    cases z.shard? i with
    | none => rfl
    | some d => exact (hf d).symm
  rw [e, e, h.noWait]

theorem LeftLedgers.runStamps_eq (c : Coll) (peers : List (Nat × Nat)) : y.runStamps c peers = s.runStamps c peers := by
  have hmap : ∀ i, (y.shard? i).map (fun d => (i, d.counter)) = (s.shard? i).map fun d => (i, d.counter) := fun i => by
    simpa [Option.map_eq_bind, Function.comp_def] using h.shard?_bind (fun d => some (i, d.counter)) (fun _ => rfl) i
  have howner : ∀ i, y.ownerOf i = s.ownerOf i := fun i => by rw [h.frame]; rfl
  have hnode : y.nodeId = s.nodeId := by rw [h.frame]; rfl
  simp only [State.runStamps, hmap, howner, hnode]

theorem LeftLedgers.capacity_eq (k : QKind) : y.capacity k = s.capacity k := by
  have hlist : ∀ i, (y.shard? i).bind (fun d => y.coll? d.coll) = (s.shard? i).bind fun d => s.coll? d.coll := fun i => by
    have hcoll : ∀ j, y.coll? j = s.coll? j := fun j => by rw [h.frame]; rfl
    simp only [hcoll]
    exact h.shard?_bind _ (fun _ => rfl) i
  have hlists : y.lists = s.lists := by rw [h.frame]
  have hch : y.channelsOn = s.channelsOn := by rw [h.frame]; rfl
  cases k with
  | t1 =>
    have hstacks : y.stacksOn = s.stacksOn := by rw [h.frame]; rfl
    simp only [State.capacity, State.t1Structures, hlist, hlists, hch, hstacks]
  | t0 => rw [h.frame]; rfl
  | t2 => rw [h.frame]; rfl
  | t3 => rw [h.frame]; rfl
  | guestbook => rfl
  | seats => rfl

theorem LeftLedgers.fits_eq (f : Nat) (k : QKind) (n : Nat) : y.fits f k n = s.fits f k n := by
  have hfn : y.fn f = s.fn f := by rw [h.frame]; rfl
  have hused : y.tierUsed k = s.tierUsed k := by rw [h.frame]; rfl
  simp only [State.fits, hfn, hused, h.capacity_eq]

theorem LeftLedgers.tilesHold_eq (n : Nat) : y.tilesHold n = s.tilesHold n := by rw [h.frame]; rfl

/-- A completion in `y` is one in `s`. -/
theorem LeftLedgers.completes {x : State} {r : Req} {q : Compl} (hx : CompletedWith y x r q) : CompletedWith s x r q :=
  hx.of_eq (by rw [h.frame]) (by rw [h.frame])

end

/-! ### A run that is taken in (R356 to R363) -/

/-- Tokens that the sequences of a run generate (R358): the model's free choices. -/
def State.runCounts (s : State) (e : Bytes) (kind : Nat × Nat × Nat) (n : Nat) : List Nat :=
  (List.range n).map fun q => if kind.2.1 = 2 then Config.modelCount (s.free + q) % (le e 64 2 + 1) else 0

/-- The sequences of a run: whether each is at home here, its input tokens, and the tokens it generates. -/
def State.runSeqs (s : State) (c : Coll) (inp : Bytes) (counts : List Nat) (n : Nat) : List (Bool × Nat × Nat) :=
  (List.range n).map fun q => ((s.homeSequences c n).contains q, (seqLengths inp n 0).getD q 0, counts.getD q 0)

/-- The run that a MODEL-RUN begins, which waits for its window (R345 to R348). -/
def State.newRun (s : State) (num : Nat) (e : Bytes) (r : Req) (c : Coll) (m : Model) (seqs : List (Bool × Nat × Nat)) (counts : List Nat) (t0 handle stamp : Nat) : Run :=
  let mode := byteAt e 49 % 4
  let m1 := s.stepMode c m mode (le e 60 4)
  let m2 := if counts.all (decide <| · ≤ 1) then m1 else s.stepMode c m mode (counts.filter (decide <| 1 < ·)).length
  { num := num, coll := m.coll, model := m.id, train := false, waiting := true, layer := 0, segment := 0,
    stage := .compute, step := 0, routed := m1 == 2, routedLater := m2 == 2, seqs := seqs, slots := [],
    nearBank := false, left := none, routes := [], blocks := [], waitingExperts := [], inbox := [],
    mode := if m.streamed.isEmpty then 0 else if m1 = m2 then m1 else 3, t0 := t0, segmented := false,
    due := r.admittedAt + (if le e 68 4 = 0 then 60000 else le e 68 4) * Config.ticksPerMs, prior := 0, handle := handle,
    readStamp := stamp, output := [], tokensOut := 0, nonFinite := 0 }

/-- The space of a run is charged, and its state is kept under its handle (R360, R361). -/
def State.chargeRun (s : State) (e : Bytes) (r : Req) (m : Model) (t0 kept handle : Nat) (again : Bool) : State :=
  let keep := bit (byteAt e 49) 3
  let s := s.modFn r.fn (·.charge .t0 t0)
  let s := if keep then
      (s.modFn r.fn fun f => { f.charge .t1 kept with handles := f.handles ++ [(handle, m.coll, m.id, kept)] })
    else s
  { s with nextHandle := if keep && !again then s.nextHandle + 1 else s.nextHandle }

/-- A run is enlisted: its space is charged, its read stamps are taken, and its shares leave for the other owners. -/
def State.enlistRun (s : State) (k : Key) (e : Bytes) (r : Req) (c : Coll) (m : Model) (seqs : List (Bool × Nat × Nat)) (counts : List Nat)
    (t0 kept handle stamp : Nat) (again : Bool) : State :=
  let s := (s.chargeRun e r m t0 kept handle again).readModel k c
  let x := s.newRun k.num e r c m seqs counts t0 handle stamp
  let s := s.modReq k.num fun r => { r with body := .run handle }
  let s := s.toOwners r c 8 (.runShare k c.spec.id m.id)
  { s with runs := s.runs ++ [x] }

/-- A run whose model is there reserves its space, or is refused (R360, R361). -/
def State.reserveRun (s : State) (k : Key) (e : Bytes) (r : Req) (c : Coll) (m : Model) (kind : Nat × Nat × Nat) (inp : Bytes) (stamp : Nat) (io : HostIO) : State :=
  let n := le e 56 4
  let counts := s.runCounts e kind n
  let seqs := s.runSeqs c inp counts n
  let t0 := tokensOf true 0 (seqs.filter (·.1)) * hdrPerToken m.header
  let keep := bit (byteAt e 49) 3
  let kept := if keep then Config.modelCount (s.free + n) else 0
  let again := le e 76 4 != 0 && !bit (byteAt e 49) 4
  let handle := if !keep then 0 else if again then le e 76 4 else s.nextHandle
  let s : State := { s with free := s.free + n + 1 }
  if !s.fits r.fn .t0 t0 || !s.tilesHold t0 then (s.quotaRefuse r.fn 0).complete r (.bare stQuota 0) io
  else if keep && (!s.fits r.fn .t1 kept || (le e 76 4 == 0 || bit (byteAt e 49) 4) &&
      decide (4096 ≤ ((s.fn r.fn).handles.map (·.1)).eraseDups.length)) then
    (s.quotaRefuse r.fn 1).complete r (.bare stQuota 1) io
  else (s.enlistRun k e r c m seqs counts t0 kept handle stamp again).startRun k.num io

/-- What a checked MODEL-RUN does in its turn (R340, R359, R364). -/
def State.takeRun (s : State) (k : Key) (e : Bytes) (r : Req) (c : Coll) (m : Model) (kind : Nat × Nat × Nat) (inp : Bytes) (stamps : List (Nat × Nat))
    (io : HostIO) : State :=
  let rs := (s.runStamps c stamps).getD []
  match m.seenAt rs with
  | none => s.complete r (.bare stRetry 2) io
  | some false => s.complete r (.bare stInvalid 52) io
  | some true =>
    if m.degraded then s.complete r (.bare stDegraded 0) io
    else s.reserveRun k e r c m kind inp ((rs.head?.map (·.2)).getD 0) io

/-- The body of a MODEL-RUN that no run has been begun for: its own checks, and its turn (R356 to R360). -/
def State.checkRun (s : State) (k : Key) (m : Model) (kind : Nat × Nat × Nat) (stamps : List (Nat × Nat)) (io : HostIO) (e : Bytes)
    (r : Req) (inp : Bytes) : State :=
  match s.coll? r.collection with
  | some c =>
    if le e 88 4 ≠ 0 && (s.coll? (le e 88 4)).isSome && !bit (s.rights r.fn (le e 88 4)) 1 then s.complete r (.bare stDenied 0) io
    else
      match lowestBad e [] (s.runChecks r.fn m kind e inp) with
      | some o => s.complete r (.bare stInvalid o) io
      | none =>
        match lowest (seqBads inp (inputSize kind m) (le e 56 4)), s.runStamps c stamps with
        | some o, _ => s.badInput r o io
        | none, none => s.complete r (.bare stRetry 0) io
        | none, some _ => s.passLedgers (s.localShards c) (.pass (.req k)) fun y => y.takeRun k e r c m kind inp stamps io
  | none => s.complete r (.bare stInvalid 4) io

/-- Data commands whose bodies agree do the same. -/
theorem State.dataCommit_congr {s : State} {num op : Nat} {io : HostIO} {ranges : List (Nat × Nat)} {checks : List (Nat × Bool)}
    {rule : CollRule} {right : Option Nat} {need : Nat} {f g : State → Req → Bytes → State} (h : ∀ y r inp, f y r inp = g y r inp) :
    s.dataCommit num op io ranges checks rule right need f = s.dataCommit num op io ranges checks rule right need g := by
  rw [funext fun y => funext fun r => funext fun inp => h y r inp]

theorem execModelRun_fresh {s : State} {num t : Nat} {io : HostIO} {stamps : List (Nat × Nat)} {m : Model} {e : Bytes}
    {kind : Nat × Nat × Nat} (hrun : s.run? num = none) (he : (s.at t).entryOf num = e)
    (hm : (s.at t).model? (le e 4 4) (le e 52 4) = some m) (hkind : kind = Config.entryKind (le m.header 4 2) (byteAt e 48)) :
    exec (.modelRun num stamps io t) s = .next ((s.at t).dataCommit num 8 io [(92, 36)]
      [(49, decide (byteAt e 49 < 32) && decide (byteAt e 49 % 4 < 3)), (50, decide (byteAt e 50 < 2))] .named (some 4) (runNeed e kind)
      fun y r inp => y.checkRun ⟨s.nodeId, num⟩ m kind stamps io e r inp) := by
  change execModelRun num stamps io t s = _
  unfold execModelRun
  have hrun' : (s.at t).run? num = none := hrun
  extract_lets z e' k m? kind'
  obtain rfl : e' = e := he
  have hm' : m? = some m := hm
  clear_value e' m?
  subst hm'
  obtain rfl : kind' = kind := hkind.symm
  clear_value kind'
  rw [hrun']
  refine congrArg Host.Outcome.next (State.dataCommit_congr fun y r inp => ?_)
  unfold State.checkRun
  cases y.coll? r.collection with
  | none => rfl
  | some c => rfl

/-- A MODEL-RUN that passes its checks goes behind what waits at the ledger arbiters of its collection's shards here. -/
theorem execModelRun_checked {s : State} {num t : Nat} {io : HostIO} {stamps rs : List (Nat × Nat)} {r : Req} {c : Coll} {m : Model}
    {inp : Bytes} {kind : Nat × Nat × Nat} (hacc : Accepted s num 8 io [(92, 36)] .named (some 4) (runNeed r.entry kind) r)
    (hrun : s.run? num = none) (hcoll : r.collection = le r.entry 4 4) (hc : s.coll? (le r.entry 4 4) = some c)
    (hm : s.model? (le r.entry 4 4) (le r.entry 52 4) = some m) (hkind : kind = Config.entryKind (le m.header 4 2) (byteAt r.entry 48))
    (hinp : inp = slice (io.input.getD []) 0 (le r.entry 24 4)) (hflags : byteAt r.entry 49 < 32) (hmode : byteAt r.entry 49 % 4 < 3)
    (h50 : byteAt r.entry 50 < 2) (hdeliver : le r.entry 88 4 = 0 ∨ bit (s.rights r.fn (le r.entry 88 4)) 1 = true)
    (hchecks : ∀ x ∈ s.runChecks r.fn m kind r.entry inp, x.2 = true) (hseq : seqBads inp (inputSize kind m) (le r.entry 56 4) = [])
    (hrs : s.runStamps c stamps = some rs) :
    exec (.modelRun num stamps io t) s = .next ((s.at t).passLedgers (s.localShards c) (.pass (.req ⟨s.nodeId, num⟩))
      fun y => y.takeRun ⟨s.nodeId, num⟩ r.entry r c m kind inp stamps io) := by
  have hc' : (s.at t).coll? (le r.entry 4 4) = some c := hc
  have hrs' : (s.at t).runStamps c stamps = some rs := hrs
  have hbad : lowestBad r.entry [] ((s.at t).runChecks r.fn m kind r.entry inp) = none := lowestBad_eq_none rfl hchecks
  have hden : (le r.entry 88 4 ≠ 0 && ((s.at t).coll? (le r.entry 88 4)).isSome && !bit ((s.at t).rights r.fn (le r.entry 88 4)) 1) = false := by
    rcases hdeliver with h | h
    · simp [h]
    · simp [h]
  rw [execModelRun_fresh hrun (State.entryOf_of_req (s := s.at t) hacc.1) hm hkind,
    State.dataCommit_accepted (hacc.at t) (by simp [hflags, hmode, h50]), ← hinp]
  unfold State.checkRun
  simp only [hcoll, hc', hden, hbad, hseq, hrs', lowest]
  rfl

/-! ### The window of a run (R345, R347) -/

/-- A run for which nothing streams starts; one whose model's window another run holds waits. -/
theorem State.startRun_noWindow {s : State} {num : Nat} {io : HostIO} {x : Run} {r : Req} {m : Model} {c : Coll}
    (hx : s.run? num = some x) (hw : x.waiting = true) (hr : s.req? num = some r) (hm : s.model? x.coll x.model = some m)
    (hc : s.coll? x.coll = some c) (h : m.streamed = [] ∨ m.windowBy ≠ none) :
    Aside s (s.startRun num io) ∧
      ∃ l, (s.startRun num io).run? num = some { x with waiting := !m.streamed.isEmpty, slots := x.slots ++ l } := by
  unfold State.startRun
  rw [hx, hr]
  dsimp only
  rw [hm, hc]
  dsimp only
  by_cases hs : m.streamed = []
  · rw [hs]
    have hf := State.fillWindow_filledFrom (s.modRun num fun x => { x with waiting := false }) num
    refine ⟨Aside.trans _ _ _ (State.modRun_aside ..) hf.aside, ?_⟩
    obtain ⟨l, hl⟩ := hf.run { x with waiting := false } (by rw [State.modRun_run (by intro u; rfl), hx]; rfl)
    exact ⟨l, hl⟩
  · have hwin : m.windowBy.isSome = true := by simpa [hs, Option.isSome_iff_ne_none] using h
    have he : m.streamed.isEmpty = false := by simpa using hs
    rw [he, hwin]
    refine ⟨Aside.refl s, [], ?_⟩
    change s.run? num = _
    rw [hx, List.append_nil]
    congr 1
    rw [Bool.not_false, ← hw]

theorem State.chargeRun_frame (s : State) (e : Bytes) (r : Req) (m : Model) (t0 kept handle : Nat) (again : Bool) :
    s.chargeRun e r m t0 kept handle again =
      { s with fns := (s.chargeRun e r m t0 kept handle again).fns, nextHandle := (s.chargeRun e r m t0 kept handle again).nextHandle } := by
  unfold State.chargeRun
  cases bit (byteAt e 49) 3 with
  | false => rfl
  | true => rfl

/-- Space that a run takes, its read stamps, its state under its handle, and its shares at the other owners: what else is as before. -/
structure Enlisted (s x : State) (k : Key) (c : Coll) (handle : Nat) (y : Run) : Prop where
  frame : x = { s with shards := x.shards, fns := x.fns, nextHandle := x.nextHandle, reqs := x.reqs, runs := x.runs, sched := x.sched,
                       free := x.free, nextNum := x.nextNum, eng := x.eng }
  shards : x.shards = (s.readModel k c).shards
  reqs : x.reqs = (s.modReq k.num fun r => { r with body := .run handle }).reqs
  runs : x.runs = s.runs ++ [y]

theorem State.enlistRun_enlisted (s : State) (k : Key) (e : Bytes) (r : Req) (c : Coll) (m : Model) (seqs : List (Bool × Nat × Nat))
    (counts : List Nat) (t0 kept handle stamp : Nat) (again : Bool) :
    Enlisted s (s.enlistRun k e r c m seqs counts t0 kept handle stamp again) k c handle
      (s.newRun k.num e r c m seqs counts t0 handle stamp) := by
  unfold State.enlistRun
  rw [State.chargeRun_frame]
  dsimp only
  generalize hb : State.modReq _ k.num _ = b
  have hsent := State.toOwners_sent b r c 8 (.runShare k c.spec.id m.id)
  generalize b.toOwners r c 8 (.runShare k c.spec.id m.id) = y at hsent
  subst hb
  refine ⟨?_, ?_, ?_, ?_⟩ <;> rw [hsent.frame] <;> rfl

/-- Summing over the members of a list that a filter keeps, in another spelling. -/
theorem homeTokens_eq (hs l : List Nat) (f : Nat → Nat) (g : Nat → Nat) (a : Nat) :
    (((l.map fun q => (hs.contains q, f q, g q)).filter (·.1)).foldl (fun n q => n + q.2.1) a) =
      (l.filter hs.contains).foldl (fun n q => n + f q) a := by
  simp only [List.filter_map, List.foldl_map, Function.comp_def]

theorem State.homeSequences_eq (s : State) (c : Coll) (n : Nat) : (List.range n).filter (s.homeSequences c n).contains = s.homeSequences c n := by
  unfold State.homeSequences
  dsimp only
  split
  · simp
  · refine List.filter_congr fun i hi => ?_
    have := List.mem_range.mp hi
    simp [this]

/-- The T0 space of a run is that of the tokens at home (R360, R363). -/
theorem State.runSeqs_tokens (s : State) (c : Coll) (inp : Bytes) (counts : List Nat) (n : Nat) :
    tokensOf true 0 ((s.runSeqs c inp counts n).filter (·.1)) =
      (s.homeSequences c n).foldl (fun a i => a + (seqLengths inp n 0).getD i 0) 0 := by
  unfold tokensOf State.runSeqs
  rw [if_pos rfl, homeTokens_eq, State.homeSequences_eq]

/-- No sequence of a run generates more tokens than its command allows (R358). -/
theorem State.runSeqs_counts (s : State) (c : Coll) (e inp : Bytes) (kind : Nat × Nat × Nat) (n : Nat) :
    ∀ q ∈ s.runSeqs c inp (s.runCounts e kind n) n, q.2.2 ≤ if kind.2.1 = 2 then le e 64 2 else 0 := by
  intro q hq
  obtain ⟨i, hi, rfl⟩ := List.mem_map.mp hq
  simp only [State.runCounts, List.getD_eq_getElem?_getD, List.getElem?_map, List.getElem?_range (List.mem_range.mp hi), Option.map_some,
    Option.getD_some]
  split
  · exact Nat.le_of_lt_succ (Nat.mod_lt _ (Nat.succ_pos _))
  · exact Nat.le_refl 0

section
variable {s : State} {k : Key} {e inp : Bytes} {r : Req} {c : Coll} {m : Model} {kind : Nat × Nat × Nat} {stamp t0 kept : Nat} {io : HostIO}
  (ht0 : t0 = (s.homeSequences c (le e 56 4)).foldl (fun a i => a + (seqLengths inp (le e 56 4) 0).getD i 0) 0 * hdrPerToken m.header)
include ht0

/-- A run whose T0 space is not there is ST_QUOTA 0 (R360). -/
theorem State.reserveRun_t0 (h : ¬ (s.fits r.fn .t0 t0 = true ∧ s.tilesHold t0 = true)) :
    s.reserveRun k e r c m kind inp stamp io =
      ((({ s with free := s.free + le e 56 4 + 1 } : State).quotaRefuse r.fn 0).complete r (.bare stQuota 0) io) := by
  unfold State.reserveRun
  dsimp only
  rw [State.runSeqs_tokens, ← ht0]
  refine if_pos ?_
  change (!s.fits r.fn .t0 _ || !s.tilesHold _) = true
  rw [← Bool.and_eq_true, Bool.not_eq_true] at h
  rw [← Bool.not_and, h, Bool.not_false]

/-- A run whose state does not fit is ST_QUOTA 1 (R361). -/
theorem State.reserveRun_t1 (hf : s.fits r.fn .t0 t0 = true) (ht : s.tilesHold t0 = true) (hkeep : bit (byteAt e 49) 3 = true)
    (hk : s.fits r.fn .t1 (Config.modelCount (s.free + le e 56 4)) = false) :
    s.reserveRun k e r c m kind inp stamp io =
      ((({ s with free := s.free + le e 56 4 + 1 } : State).quotaRefuse r.fn 1).complete r (.bare stQuota 1) io) := by
  unfold State.reserveRun
  dsimp only
  rw [State.runSeqs_tokens, ← ht0, hkeep]
  change (if (!s.fits r.fn .t0 _ || !s.tilesHold _) = true then _ else if (true && (!s.fits r.fn .t1 (Config.modelCount (s.free + le e 56 4)) || _)) = true then _ else _) = _
  rw [hf, ht, hk]
  rfl

/-- A run whose space is there is enlisted, and waits for its window or starts (R345, R360, R361). -/
theorem State.reserveRun_begins (hf : s.fits r.fn .t0 t0 = true) (ht : s.tilesHold t0 = true)
    (hk : bit (byteAt e 49) 3 = true → s.fits r.fn .t1 (Config.modelCount (s.free + le e 56 4)) = true ∧
      ((s.fn r.fn).handles.map (·.1)).eraseDups.length < 4096) :
    ∃ kept handle again, (bit (byteAt e 49) 3 = false → handle = 0) ∧ s.reserveRun k e r c m kind inp stamp io =
      (({ s with free := s.free + le e 56 4 + 1 } : State).enlistRun k e r c m (s.runSeqs c inp (s.runCounts e kind (le e 56 4)) (le e 56 4))
        (s.runCounts e kind (le e 56 4)) t0 kept handle stamp again).startRun k.num io := by
  refine ⟨if bit (byteAt e 49) 3 then Config.modelCount (s.free + le e 56 4) else 0,
    if !bit (byteAt e 49) 3 then 0 else if le e 76 4 != 0 && !bit (byteAt e 49) 4 then le e 76 4 else s.nextHandle,
    le e 76 4 != 0 && !bit (byteAt e 49) 4, fun hb => by simp [hb], ?_⟩
  unfold State.reserveRun
  dsimp only
  rw [State.runSeqs_tokens, ← ht0]
  refine (if_neg ?_).trans (if_neg ?_)
  · change ¬ (!s.fits r.fn .t0 _ || !s.tilesHold _) = true
    rw [hf, ht]
    simp
  · change ¬ (bit (byteAt e 49) 3 && (!s.fits r.fn .t1 _ || _ && decide (4096 ≤ ((s.fn r.fn).handles.map (·.1)).eraseDups.length))) = true
    cases hb : bit (byteAt e 49) 3 with
    | false => simp
    | true =>
      obtain ⟨hfit, hn⟩ := hk hb
      simp [hfit, hn]
end

/-- The read stamps of a reader on this node's shards of a collection (R359). -/
theorem State.readModel_shard? {s x : State} {k : Key} {c : Coll} (hx : x.shards = (s.readModel k c).shards) {i : Nat} {d : Shard}
    (hd : s.shard? i = some d) (hdc : d.coll = c.spec.id) (hdf : d.forwardTo = none) :
    x.shard? i = some { d with readers := d.readers ++ [(.req k, d.counter)] } := by
  rw [State.shard?_modWhere hx (fun _ => rfl), hd, Option.map_some, if_pos (by simp [hdc, hdf])]

theorem State.run?_append {s x : State} {y : Run} {n : Nat} (h : x.runs = s.runs ++ [y]) (hn : s.run? n = none) (hy : y.num = n) :
    x.run? n = some y := by
  unfold State.run? at *
  rw [h, List.find?_append, hn, Option.none_or, List.find?_cons_of_pos (by simp [hy])]

/-- An enlisted run whose window another run holds, or for which nothing streams, has begun. -/
theorem Enlisted.begins {s z : State} {k : Key} {c c' : Coll} {h : Nat} {y : Run} {r : Req} {m : Model} {io : HostIO}
    (hz : Enlisted s z k c h y) (hrun : s.run? k.num = none) (hreq : s.req? k.num = some r) (hm : s.model? y.coll y.model = some m)
    (hc : s.coll? y.coll = some c') (hnum : y.num = k.num) (hw : y.waiting = true) (hwin : m.streamed = [] ∨ m.windowBy ≠ none) :
    ∃ l, (z.startRun k.num io).run? k.num = some { y with waiting := !m.streamed.isEmpty, slots := y.slots ++ l } ∧
      (z.startRun k.num io).req? k.num = some { r with body := .run h } ∧ (z.startRun k.num io).models = s.models ∧
      (z.startRun k.num io).out = s.out ∧ (z.startRun k.num io).shards = (s.readModel k c).shards := by
  have hzr : z.req? k.num = some { r with body := .run h } := by
    unfold State.req?
    rw [hz.reqs]
    have hmod := State.modReq_req (s := s) (n := k.num) (f := fun r => { r with body := .run h }) fun _ => rfl
    rw [hreq] at hmod
    exact hmod
  obtain ⟨ha, l, hl⟩ := State.startRun_noWindow (io := io) (State.run?_append hz.runs hrun hnum) hw hzr
    (show z.model? y.coll y.model = some m by rw [hz.frame]; exact hm) (show z.coll? y.coll = some c' by rw [hz.frame]; exact hc) hwin
  refine ⟨l, hl, (ha.req?_eq _).trans hzr, ?_, ?_, ?_⟩
  · rw [ha.frame]; change z.models = s.models; rw [hz.frame]
  · rw [ha.frame]; change z.out = s.out; rw [hz.frame]
  · rw [ha.frame]; exact hz.shards

theorem State.takeRun_ready {s : State} {k : Key} {e inp : Bytes} {r : Req} {c : Coll} {m : Model} {kind : Nat × Nat × Nat}
    {stamps rs : List (Nat × Nat)} {io : HostIO} (hrs : s.runStamps c stamps = some rs) (hseen : m.seenAt rs = some true)
    (hd : m.degraded = false) :
    s.takeRun k e r c m kind inp stamps io = s.reserveRun k e r c m kind inp ((rs.head?.map (·.2)).getD 0) io := by
  unfold State.takeRun
  simp only [hrs, Option.getD_some, hseen, hd]
  rfl

/-- What the counters and readers of a shard were before a turn at its ledger arbiter. -/
theorem LeftLedgers.shard? {s y : State} (h : LeftLedgers s y) {i : Nat} {d : Shard} (hd : s.shard? i = some d) :
    ∃ e, y.shard? i = some e ∧ e.noWait = d.noWait := by
  have := congrFun h.noWait i
  simp only [State.shardNoWait?, hd] at this
  cases hy : y.shard? i with
  | none => simp [hy] at this
  | some e => exact ⟨e, rfl, by simpa [hy] using this⟩

/-- The read stamps that a reader takes in its turn (R359). -/
theorem LeftLedgers.readers {s y x : State} (hy : LeftLedgers s y) {k : Key} {c : Coll} (hx : x.shards = (y.readModel k c).shards) {i : Nat}
    {d : Shard} (hd : s.shard? i = some d) (hdc : d.coll = c.spec.id) (hdf : d.forwardTo = none) :
    ∃ f, x.shard? i = some f ∧ f.counter = d.counter ∧ f.readers = d.readers ++ [(.req k, d.counter)] := by
  obtain ⟨g, hg, hgn⟩ := hy.shard? hd
  have hgd : g = { d with waiting := g.waiting } := by cases g; cases d; simpa [Shard.noWait] using hgn
  have := State.readModel_shard? hx (d := g) hg (by rw [hgd]; exact hdc) (by rw [hgd]; exact hdf)
  exact ⟨_, this, by rw [hgd], by rw [hgd]⟩

/-- What has begun with a run (R345, R347, R359, R360): its fields, the read stamps of its shards, and its request. -/
structure RunBegun (s x : State) (num : Nat) (r : Req) (c : Coll) (y : Run) (h : Nat) : Prop where
  run : x.run? num = some y
  req : x.req? num = some { r with body := .run h }
  models : x.models = s.models
  out : x.out = s.out
  readers : ∀ i d, s.shard? i = some d → d.coll = c.spec.id → d.forwardTo = none →
    ∃ f, x.shard? i = some f ∧ f.counter = d.counter ∧ f.readers = d.readers ++ [(.req ⟨s.nodeId, num⟩, d.counter)]

section
variable {s y : State} {num t0 : Nat} {e inp : Bytes} {r : Req} {c : Coll} {m : Model} {kind : Nat × Nat × Nat}
  {stamps rs : List (Nat × Nat)} {io : HostIO}
  (hy : LeftLedgers s y) (hrs : s.runStamps c stamps = some rs)
include hy hrs

/-- A run whose stamps straddle a change of its model, are before it, or whose model is degraded completes at once (R340, R364). -/
theorem State.takeRun_ends (hio : HostTakes io) :
    (m.seenAt rs = none → CompletedWith s (y.takeRun ⟨s.nodeId, num⟩ e r c m kind inp stamps io) r (.bare stRetry 2)) ∧
    (m.seenAt rs = some false → CompletedWith s (y.takeRun ⟨s.nodeId, num⟩ e r c m kind inp stamps io) r (.bare stInvalid 52)) ∧
    (m.seenAt rs = some true → m.degraded = true →
      CompletedWith s (y.takeRun ⟨s.nodeId, num⟩ e r c m kind inp stamps io) r (.bare stDegraded 0)) := by
  have hrs' : (y.runStamps c stamps).getD [] = rs := by rw [hy.runStamps_eq, hrs]; rfl
  unfold State.takeRun
  rw [hrs']
  refine ⟨fun h => ?_, fun h => ?_, fun h hd => ?_⟩
  · simp only [h]
    exact hy.completes (State.complete_completedWith hio)
  · simp only [h]
    exact hy.completes (State.complete_completedWith hio)
  · simp only [h, hd, if_true]
    exact hy.completes (State.complete_completedWith hio)

variable (hseen : m.seenAt rs = some true) (hdeg : m.degraded = false)
  (ht0 : t0 = (s.homeSequences c (le e 56 4)).foldl (fun a i => a + (seqLengths inp (le e 56 4) 0).getD i 0) 0 * hdrPerToken m.header)
include hseen hdeg ht0

omit hrs hseen hdeg in
theorem LeftLedgers.t0_eq :
    t0 = (y.homeSequences c (le e 56 4)).foldl (fun a i => a + (seqLengths inp (le e 56 4) 0).getD i 0) 0 * hdrPerToken m.header := by
  rw [ht0, hy.frame]; rfl

omit hrs hseen hdeg ht0 in
/-- A run that is refused for a quota leaves the runs as they were. -/
theorem LeftLedgers.refused (hio : HostTakes io) (kind n q : Nat) :
    CompletedWith s ((({ y with free := n } : State).quotaRefuse r.fn kind).complete r (.bare stQuota q) io) r (.bare stQuota q) ∧
      ((({ y with free := n } : State).quotaRefuse r.fn kind).complete r (.bare stQuota q) io).runs = s.runs := by
  refine ⟨?_, ?_⟩
  · exact hy.completes ((State.complete_completedWith hio).of_eq rfl rfl)
  · rw [(State.complete_only hio).1]
    change y.runs = s.runs
    rw [hy.frame]

theorem State.takeRun_t0 (hio : HostTakes io) (h : ¬ (s.fits r.fn .t0 t0 = true ∧ s.tilesHold t0 = true)) :
    CompletedWith s (y.takeRun ⟨s.nodeId, num⟩ e r c m kind inp stamps io) r (.bare stQuota 0) ∧
      (y.takeRun ⟨s.nodeId, num⟩ e r c m kind inp stamps io).runs = s.runs := by
  rw [State.takeRun_ready ((hy.runStamps_eq c stamps).trans hrs) hseen hdeg,
    State.reserveRun_t0 (hy.t0_eq ht0) (by rwa [hy.fits_eq, hy.tilesHold_eq])]
  exact hy.refused hio ..

theorem State.takeRun_t1 (hio : HostTakes io) (hf : s.fits r.fn .t0 t0 = true) (ht : s.tilesHold t0 = true)
    (hkeep : bit (byteAt e 49) 3 = true) (hk : s.fits r.fn .t1 (Config.modelCount (s.free + le e 56 4)) = false) :
    CompletedWith s (y.takeRun ⟨s.nodeId, num⟩ e r c m kind inp stamps io) r (.bare stQuota 1) ∧
      (y.takeRun ⟨s.nodeId, num⟩ e r c m kind inp stamps io).runs = s.runs := by
  have hfree : y.free = s.free := by rw [hy.frame]
  rw [State.takeRun_ready ((hy.runStamps_eq c stamps).trans hrs) hseen hdeg,
    State.reserveRun_t1 (hy.t0_eq ht0) (by rwa [hy.fits_eq]) (by rwa [hy.tilesHold_eq]) hkeep (by rwa [hy.fits_eq, hfree])]
  exact hy.refused hio ..

theorem State.takeRun_begins (hrun : s.run? num = none) (hreq : s.req? num = some r)
    (hm : s.model? (le e 4 4) (le e 52 4) = some m) (hc : s.coll? (le e 4 4) = some c) (hf : s.fits r.fn .t0 t0 = true) (ht : s.tilesHold t0 = true)
    (hk : bit (byteAt e 49) 3 = true → s.fits r.fn .t1 (Config.modelCount (s.free + le e 56 4)) = true ∧
      ((s.fn r.fn).handles.map (·.1)).eraseDups.length < 4096)
    (hwin : m.streamed = [] ∨ m.windowBy ≠ none) :
    ∃ v h, RunBegun s (y.takeRun ⟨s.nodeId, num⟩ e r c m kind inp stamps io) num r c v h ∧ v.coll = m.coll ∧ v.model = m.id ∧
      v.train = false ∧ v.waiting = !m.streamed.isEmpty ∧ v.layer = 0 ∧ v.segment = 0 ∧ v.stage = .compute ∧ v.step = 0 ∧ v.t0 = t0 ∧
      v.handle = h ∧ v.due = r.admittedAt + (if le e 68 4 = 0 then 60000 else le e 68 4) * Config.ticksPerMs ∧
      (∀ q ∈ v.seqs, q.2.2 ≤ if kind.2.1 = 2 then le e 64 2 else 0) ∧ v.seqs.length = le e 56 4 ∧
      (bit (byteAt e 49) 3 = false → h = 0) := by
  have hfree : y.free = s.free := by rw [hy.frame]
  have hfn : y.fn r.fn = s.fn r.fn := by rw [hy.frame]; rfl
  obtain ⟨kept, h, again, hh, heq⟩ := State.reserveRun_begins (k := ⟨s.nodeId, num⟩) (kind := kind) (stamp := (rs.head?.map (·.2)).getD 0)
    (io := io) (hy.t0_eq ht0) (r := r) (by rwa [hy.fits_eq]) (by rwa [hy.tilesHold_eq]) (by rwa [hy.fits_eq, hfree, hfn])
  rw [State.takeRun_ready ((hy.runStamps_eq c stamps).trans hrs) hseen hdeg, heq]
  obtain ⟨hmc, hmi⟩ := State.model?_ids hm
  have hen := State.enlistRun_enlisted { y with free := y.free + le e 56 4 + 1 } ⟨s.nodeId, num⟩ e r c m
    (y.runSeqs c inp (y.runCounts e kind (le e 56 4)) (le e 56 4)) (y.runCounts e kind (le e 56 4)) t0 kept h
    ((rs.head?.map (·.2)).getD 0) again
  obtain ⟨l, hl, hlr, hlm, hlo, hls⟩ := hen.begins (io := io) (r := r) (m := m) (c' := c)
    (by rw [hy.frame]; exact hrun) (by rw [hy.frame]; exact hreq)
    (by rw [hy.frame]; change s.model? m.coll m.id = _; rw [hmc, hmi]; exact hm)
    (by rw [hy.frame]; change s.coll? m.coll = _; rw [hmc]; exact hc) rfl rfl hwin
  refine ⟨_, h, ⟨hl, hlr, hlm.trans (by rw [hy.frame]), hlo.trans (by rw [hy.frame]), fun i d hd hdc hdf => ?_⟩, rfl, rfl, rfl, rfl, rfl, rfl, rfl,
    rfl, rfl, rfl, rfl, State.runSeqs_counts y c e inp kind (le e 56 4), ?_, hh⟩
  · exact hy.readers hls hd hdc hdf
  · change (y.runSeqs c inp _ (le e 56 4)).length = _
    simp [State.runSeqs]

end

end Sys2Proof.Machine
end

-- ==== Proofs: Model runs (O42) ====
section
/-! SUPPORT. A run that waits for its model's window, and one whose time is over (R345 to R347, R364). -/

namespace Sys2Proof.Machine

open Sys2Proof

/-! ### A waiting run (R345 to R347, R364) -/

theorem State.firstFill {s : State} {num : Nat} {x : Run} {m : Model} {c : Coll} (hx : s.run? num = some x) (hslots : x.slots = [])
    (hm : s.model? x.coll x.model = some m) (hc : s.coll? x.coll = some c) :
    s.fill num = s.fillSlot num m c (x.layer, x.segment)
      ((m.streamsFor (x.routedAt x.step) x.layer).all fun t => s.storedBytes c t == 0) := by
  unfold State.fill
  rw [hx]
  dsimp only
  rw [hm, hc]
  dsimp only
  rw [hslots]
  rfl

/-- The window of a run whose first slot streams holds that slot (R37). -/
theorem State.fill_streaming {s : State} {num : Nat} {x : Run} (hx : s.run? num = some x) (hs : x.slots.any (!·.2) = true) :
    s.fill num = s := by
  unfold State.fill
  rw [hx]
  dsimp only
  split
  · split
    · rfl
    · rw [hs, Bool.or_true]
      rfl
  · rfl

theorem State.fillSlot_run {s : State} {num : Nat} {x : Run} {m : Model} {c : Coll} {u : Nat × Nat} {idle : Bool}
    (hx : s.run? num = some x) : (s.fillSlot num m c u idle).run? num = some { x with slots := x.slots ++ [(u, idle)] } := by
  have hadd : (s.modRun num fun x => { x with slots := x.slots ++ [(u, idle)] }).run? num = some { x with slots := x.slots ++ [(u, idle)] } := by
    rw [State.modRun_run (by intro u; rfl), hx]
    rfl
  refine (State.run?_of_runs ?_ num).trans hadd
  unfold State.fillSlot
  dsimp only
  generalize (s.modRun num fun x => { x with slots := x.slots ++ [(u, idle)] } : State) = y
  split
  · exact State.requestAll_runs ..
  · split
    · exact (State.exchange_sent y c num u.1 fun _ => Exchange.part).runs_eq
    · rfl

section
variable {s : State} {num : Nat} {x : Run} {m : Model} {c : Coll} (hx : s.run? num = some x) (hslots : x.slots = [])
  (hm : s.model? x.coll x.model = some m) (hc : s.coll? x.coll = some c)
include hx hslots hm hc

/-- The first slot of a window holds the unit that the run is at (R37). -/
theorem State.fillWindow_first : ∃ l, (s.fillWindow num).run? num = some { x with slots :=
    ((x.layer, x.segment), (m.streamsFor (x.routedAt x.step) x.layer).all fun t => s.storedBytes c t == 0) :: l } := by
  have hfirst := State.fillSlot_run (m := m) (c := c) (u := (x.layer, x.segment))
    (idle := (m.streamsFor (x.routedAt x.step) x.layer).all fun t => s.storedBytes c t == 0) hx
  rw [← State.firstFill hx hslots hm hc, hslots] at hfirst
  obtain ⟨l, hl⟩ := (State.fill_filledFrom (s.fill num) num).run _ hfirst
  exact ⟨l, hl⟩

/-- A first slot that streams is the only one, and every channel is asked for it (R37, R344). -/
theorem State.fillWindow_streams (hp : ∃ p ∈ m.streamsFor (x.routedAt x.step) x.layer, s.storedBytes c p ≠ 0) :
    (s.fillWindow num).run? num = some { x with slots := [((x.layer, x.segment), false)] } ∧
      ∀ ch ∈ s.channelsOn, Waits (s.fillWindow num) ch (.layer ⟨s.nodeId, num⟩) ∨ s.arbHolds ch (.layer ⟨s.nodeId, num⟩) = true := by
  have hidle : ((m.streamsFor (x.routedAt x.step) x.layer).all fun t => s.storedBytes c t == 0) = false := by
    simpa [List.all_eq_false] using hp
  have hfirst := State.firstFill hx hslots hm hc
  rw [hidle] at hfirst
  have hrun := State.fillSlot_run (m := m) (c := c) (u := (x.layer, x.segment)) (idle := false) hx
  have hwin : s.fillWindow num = s.fillSlot num m c (x.layer, x.segment) false := by
    unfold State.fillWindow
    rw [hfirst, State.fill_streaming hrun (by simp)]
  rw [hwin, hrun, hslots]
  exact ⟨rfl, fun ch hch => State.requestAll_waits _ _ hch⟩

end

theorem execModelRun_starts {s : State} {num t : Nat} {io : HostIO} {x : Run} (hx : s.run? num = some x) (htrain : x.train = false)
    (hw : x.waiting = true) : exec (.modelRun num [] io t) s = .next ((s.at t).startRun num io) := by
  have hexec : exec (.modelRun num [] io t) s = execModelRun num [] io t s := rfl
  have hrun : (s.at t).run? num = some x := hx
  rw [hexec]
  unfold execModelRun
  simp only [hrun, htrain, hw, Bool.false_eq_true, if_false, if_true]

/-- A run takes a free window of so many bytes of T1 (R345, R346). -/
def State.giveWindow (s : State) (m : Model) (num f n : Nat) : State :=
  ((s.release m.windowFn .t1 m.windowT1).modFn f (·.charge .t1 n)).modModel m.coll m.id fun m =>
    { m with windowBy := some num, windowAt := none, windowT1 := n, windowFn := f }

/-- A model whose window run `num` holds. -/
def Model.withWindow (m : Model) (num f n : Nat) : Model := { m with windowBy := some num, windowAt := none, windowFn := f, windowT1 := n }

section
variable {s : State} {num room : Nat} {io : HostIO} {x : Run} {r : Req} {m : Model} {c : Coll}
  (hroom : room = (s.release m.windowFn .t1 m.windowT1).t1Free r.fn)

include hroom in
theorem State.takeWindow_eq : s.takeWindow c m num r.fn =
    if 2 * s.slotBytes c m ≤ room then some (false, s.giveWindow m num r.fn (2 * s.slotBytes c m))
    else if 2 * s.tensorBytes c m ≤ room then some (true, (s.giveWindow m num r.fn (room / 2 * 2)).quotaRefuse r.fn 1)
    else none := by
  subst hroom
  rfl

/-- The bytes that a run's window takes (R345, R346). -/
def windowShare (whole room : Nat) : Nat := if whole ≤ room then whole else room / 2 * 2

include hroom in
theorem State.takeWindow_takes (hm : s.model? m.coll m.id = some m) (h : 2 * s.slotBytes c m ≤ room ∨ 2 * s.tensorBytes c m ≤ room) :
    ∃ z, s.takeWindow c m num r.fn = some (decide (room < 2 * s.slotBytes c m), z) ∧ z = { s with fns := z.fns, models := z.models } ∧
      z.model? m.coll m.id = some (m.withWindow num r.fn (windowShare (2 * s.slotBytes c m) room)) := by
  have hgive : ∀ n, (s.giveWindow m num r.fn n).model? m.coll m.id =
      some (m.withWindow num r.fn n) := fun n => by
    unfold State.giveWindow
    rw [State.modModel_model _ _ _ (by intro m; exact ⟨rfl, rfl⟩)]
    change (s.model? m.coll m.id).map _ = _
    rw [hm]
    rfl
  rw [State.takeWindow_eq hroom]
  unfold windowShare
  by_cases hs : 2 * s.slotBytes c m ≤ room
  · rw [if_pos hs, if_pos hs, decide_eq_false (Nat.not_lt.mpr hs)]
    exact ⟨_, rfl, rfl, hgive _⟩
  · rw [if_neg hs, if_neg hs, if_pos (h.resolve_left hs), decide_eq_true (Nat.lt_of_not_le hs)]
    exact ⟨_, rfl, rfl, hgive _⟩

variable (hx : s.run? num = some x) (hr : s.req? num = some r) (hm : s.model? x.coll x.model = some m) (hc : s.coll? x.coll = some c)
include hx hr hm hc

theorem State.startRun_eq : s.startRun num io =
    if m.streamed.isEmpty then (s.modRun num fun x => { x with waiting := false }).fillWindow num
    else if m.windowBy.isSome || s.firstWaiting m != some num then s
    else match s.takeWindow c m num r.fn with
      | none => (((s.quotaRefuse r.fn 1).dropRun num).complete r (.bare stQuota 1) io)
      | some (seg, s) => (s.modRun num fun x => { x with waiting := false, segmented := seg }).fillWindow num := by
  unfold State.startRun
  rw [hx, hr]
  dsimp only
  rw [hm, hc] <;> rfl

theorem State.startRun_waits (hs : m.streamed ≠ []) (h : m.windowBy ≠ none ∨ s.firstWaiting m ≠ some num) : s.startRun num io = s := by
  rw [State.startRun_eq hx hr hm hc, if_neg (by simpa using hs), if_pos]
  simpa [Option.isSome_iff_ne_none] using h

theorem State.startRun_streamless (hslots : x.slots = []) (hs : m.streamed = []) : ∃ z, (s.startRun num io).run? num = some z ∧
    z.waiting = false ∧ z.slots.head? = some ((x.layer, x.segment), true) ∧ (s.startRun num io).models = s.models := by
  rw [State.startRun_eq hx hr hm hc, if_pos (by simp [hs])]
  have hx' : (s.modRun num fun x => { x with waiting := false }).run? num = some { x with waiting := false } := by
    rw [State.modRun_run (by intro u; rfl), hx]
    rfl
  obtain ⟨l, hl⟩ := State.fillWindow_first hx' hslots (show _ = some m from hm) (show _ = some c from hc)
  refine ⟨_, hl, rfl, ?_, ?_⟩
  · simp [Model.streamsFor, hs]
  · rw [(State.fillWindow_filledFrom (s.modRun num fun x => { x with waiting := false }) num).aside.frame]
    rfl

include hroom

theorem State.startRun_refused (hio : HostTakes io) (hs : m.streamed ≠ []) (hwin : m.windowBy = none) (hfirst : s.firstWaiting m = some num)
    (h1 : room < 2 * s.slotBytes c m) (h2 : room < 2 * s.tensorBytes c m) :
    CompletedWith s (s.startRun num io) r (.bare stQuota 1) ∧ (s.startRun num io).run? num = none := by
  rw [State.startRun_eq hx hr hm hc, if_neg (by simpa using hs), if_neg (by simp [hwin, hfirst]), State.takeWindow_eq hroom,
    if_neg (Nat.not_le.mpr h1), if_neg (Nat.not_le.mpr h2)]
  obtain rfl := State.req?_num hr
  have hend : Ending (s.sansRun r.num) ((s.quotaRefuse r.fn 1).dropRun r.num) :=
    ((State.modFn_ending s r.fn (·.refuse 1)).withRuns _).trans (State.dropRun_ending (s.quotaRefuse r.fn 1) r.num)
  exact hend.complete hio _

theorem State.startRun_takes (hslots : x.slots = []) (hs : m.streamed ≠ []) (hwin : m.windowBy = none) (hfirst : s.firstWaiting m = some num)
    (h : 2 * s.slotBytes c m ≤ room ∨ 2 * s.tensorBytes c m ≤ room) :
    ∃ z, (s.startRun num io).run? num = some z ∧ z.waiting = false ∧ z.segmented = decide (room < 2 * s.slotBytes c m) ∧
      (s.startRun num io).model? x.coll x.model = some (m.withWindow num r.fn (windowShare (2 * s.slotBytes c m) room)) ∧
      ((∃ p ∈ m.streamsFor (x.routedAt x.step) x.layer, s.storedBytes c p ≠ 0) → z.slots = [((x.layer, x.segment), false)] ∧
        ∀ ch ∈ s.channelsOn, Waits (s.startRun num io) ch (.layer ⟨s.nodeId, num⟩) ∨ s.arbHolds ch (.layer ⟨s.nodeId, num⟩) = true) := by
  obtain ⟨hmc, hmi⟩ := State.model?_ids hm
  have hm' : s.model? m.coll m.id = some m := by rw [hmc, hmi]; exact hm
  obtain ⟨z, hz, hf, hzm⟩ := State.takeWindow_takes (c := c) (num := num) hroom hm' h
  rw [State.startRun_eq hx hr hm hc, if_neg (by simpa using hs), if_neg (by simp [hwin, hfirst]), hz]
  dsimp only
  rw [hmc, hmi] at hzm
  generalize decide (room < 2 * s.slotBytes c m) = seg
  generalize hb : (z.modRun num fun x => { x with waiting := false, segmented := seg } : State) = b
  have hbr : b.run? num = some { x with waiting := false, segmented := seg } := by
    rw [← hb, State.modRun_run (by intro u; rfl), hf]
    change (s.run? num).map _ = _
    rw [hx]
    rfl
  have hbm : b.model? x.coll x.model = some (m.withWindow num r.fn (windowShare (2 * s.slotBytes c m) room)) := by rw [← hb]; exact hzm
  have hbc : b.coll? x.coll = some c := by rw [← hb, hf]; exact hc
  have hfill := State.fillWindow_filledFrom b num
  have hmodel := (hfill.aside.model?_eq _ _).trans hbm
  by_cases hp : ∃ p ∈ m.streamsFor (x.routedAt x.step) x.layer, s.storedBytes c p ≠ 0
  · have hstored : ∀ p, b.storedBytes c p = s.storedBytes c p := fun p => by rw [← hb, hf]; rfl
    obtain ⟨hrun, hwaits⟩ := State.fillWindow_streams hbr hslots hbm hbc (by simp only [hstored]; exact hp)
    have hnode : b.nodeId = s.nodeId := by rw [← hb, hf]; rfl
    have hch : b.channelsOn = s.channelsOn := by rw [← hb, hf]; rfl
    have hholds : ∀ a w, b.arbHolds a w = s.arbHolds a w := fun a w => by rw [← hb, hf]; rfl
    exact ⟨_, hrun, rfl, rfl, hmodel, fun _ => ⟨rfl, fun ch hon => by
      rw [← hholds, ← hnode]
      exact hwaits ch (by rwa [hch])⟩⟩
  · obtain ⟨l, hl⟩ := State.fillWindow_first hbr hslots hbm hbc
    exact ⟨_, hl, rfl, rfl, hmodel, fun h => absurd h hp⟩

end

theorem State.releaseModel_shards (s : State) (m : Model) : (s.releaseModel m).shards = s.shards := by
  unfold State.releaseModel
  exact foldl_head_keeps (R := fun (a b : State) => b.shards = a.shards) (f := fun s e => s.release e.2.2.2 .t1 e.2.2.1) (fun _ => rfl)
    (fun _ _ _ h k => k.trans h) (fun _ _ => rfl) m.expertCache _

theorem State.reapModel_shards (s : State) (a b : Nat) : (s.reapModel a b).shards = s.shards := by
  unfold State.reapModel
  split
  · rfl
  · split
    · rfl
    · exact State.releaseModel_shards ..

/-- The shards that a run which ends leaves: no read stamp of it is kept (R345). -/
theorem State.endRun_shards {s : State} {num : Nat} {x : Run} (hx : s.run? num = some x) : (s.endRun num).shards =
    s.shards.map fun d => { d with readers := d.readers.filter (·.1 != .req ⟨s.nodeId, num⟩) } := by
  unfold State.endRun
  rw [hx]
  dsimp only
  rw [State.reapModel_shards, State.dropWork_frame]
  rfl

theorem State.dropRun_shards {s : State} {num : Nat} {x : Run} (hx : s.run? num = some x) : (s.dropRun num).shards =
    s.shards.map fun d => { d with readers := d.readers.filter (·.1 != .req ⟨s.nodeId, num⟩) } := by
  have ends : ∀ z : State, z.runs = s.runs → z.shards = s.shards → z.nodeId = s.nodeId → (z.endRun num).shards =
      s.shards.map fun d => { d with readers := d.readers.filter (·.1 != .req ⟨s.nodeId, num⟩) } := fun z hr hs ha => by
    rw [State.endRun_shards ((State.run?_of_runs hr num).trans hx), hs, ha]
  unfold State.dropRun
  split
  · dsimp only
    split
    · split
      · exact ends _ rfl rfl rfl
      · exact ends _ rfl rfl rfl
    · split
      · exact ends _ rfl rfl rfl
      · exact ends _ rfl rfl rfl
  · exact ends s rfl rfl rfl

theorem State.dropRun_readers {s : State} {num : Nat} {x : Run} (hx : s.run? num = some x) :
    ∀ d ∈ (s.dropRun num).shards, ∀ z ∈ d.readers, z.1 ≠ .req ⟨s.nodeId, num⟩ := by
  rw [State.dropRun_shards hx]
  intro d hd z hz
  obtain ⟨d, -, rfl⟩ := List.mem_map.mp hd
  simpa using (List.mem_filter.mp hz).2

theorem execModelRunTimeout_due {s : State} {num t : Nat} {io : HostIO} {x : Run} {r : Req} (hx : s.run? num = some x) (hr : s.req? num = some r)
    (ho : x.output = []) : exec (.modelRunTimeout num io t) s =
      .next (if x.due ≤ (s.at t).now then ((s.at t).dropRun num).complete r (.bare stRetry 0) io else s.at t) := by
  have hexec : exec (.modelRunTimeout num io t) s = execModelRunTimeout num io t s := rfl
  have hx' : (s.at t).run? num = some x := hx
  have hr' : (s.at t).req? num = some r := hr
  rw [hexec]
  unfold execModelRunTimeout
  simp only [hx', hr', ho]
  by_cases h : x.due ≤ (s.at t).now
  · rw [if_pos h, if_pos (by simp [h])]
  · rw [if_neg h, if_neg (by simp [h])]

/-- A run that its timeout ends keeps no read stamp (R364). -/
theorem State.dropRun_times_out {s : State} {io : HostIO} {x : Run} {r : Req} (hx : s.run? r.num = some x) (hio : HostTakes io) :
    CompletedWith s ((s.dropRun r.num).complete r (.bare stRetry 0) io) r (.bare stRetry 0) ∧
      ((s.dropRun r.num).complete r (.bare stRetry 0) io).run? r.num = none ∧
      ∀ d ∈ ((s.dropRun r.num).complete r (.bare stRetry 0) io).shards, ∀ z ∈ d.readers, z.1 ≠ .req ⟨s.nodeId, r.num⟩ := by
  obtain ⟨hdone, hgone⟩ := (State.dropRun_ending s r.num).complete (r := r) hio (.bare stRetry 0)
  refine ⟨hdone, hgone, ?_⟩
  rw [(State.complete_only hio).1]
  exact State.dropRun_readers hx

/-- Settles O42, by the turn at the ledger arbiters, by the window of the model of a waiting run, and by its timeout. -/
theorem modelRuns : Obligations.ModelRuns := by
  refine ⟨?_, ?_, ?_⟩
  · intro s num t n kept t0 io stamps rs r c m e inp kind w hacc hrun he hcoll hc hm hkind hinp hflags hmode h50 hn hdel hchecks hseq hrs hw ht0 hkept hio
    subst he hw hn
    have hexec := execModelRun_checked (t := t) hacc hrun hcoll hc hm hkind hinp hflags hmode h50 hdel hchecks hseq hrs
    have hreq : (s.at t).req? num = some r := hacc.1
    refine ⟨fun hturn => ?_, fun hturn => ⟨_, hexec, ?_⟩⟩
    · obtain ⟨hf, hb, hl⟩ := State.passLedgers_waitsAt (s := s.at t) hturn fun y => y.takeRun ⟨s.nodeId, num⟩ r.entry r c m kind inp stamps io
      exact ⟨_, hexec, hf, hb, hl⟩
    · rw [State.passLedgers_granted (s := s.at t) hturn]
      have hy := State.leaveLedgers_left (s.at t) (.pass (.req ⟨s.nodeId, num⟩)) (s.localShards c)
      have ends := State.takeRun_ends (s := s.at t) (num := num) (e := r.entry) (r := r) (m := m) (inp := inp) (kind := kind) hy hrs hio
      obtain ⟨hnone, hfalse, hdegr⟩ := ends
      refine ⟨hnone, hfalse, hdegr, fun hseen hd => ⟨fun hq => ?_, fun hf ht hkeep hk => ?_, fun hf ht hk hwin => ?_⟩⟩
      · exact State.takeRun_t0 (s := s.at t) hy hrs hseen hd ht0 hio hq
      · rw [if_pos hkeep] at hkept
        exact State.takeRun_t1 (s := s.at t) hy hrs hseen hd ht0 hio hf ht hkeep (by rw [← hk, hkept]; rfl)
      · obtain ⟨v, h, hb, h1, h2, h3, h4, h5, h6, h7, h8, h9, h10, h11, h12, h13, h14⟩ :=
          State.takeRun_begins (s := s.at t) (kind := kind) (io := io) hy hrs hseen hd ht0 hrun hreq hm hc hf ht
            (fun hkeep => by rw [if_pos hkeep] at hkept; subst hkept; exact hk hkeep) hwin
        exact ⟨v, h, hb.run, h1, h2, h3, h4, h5, h6, h7, h8, h9, h10, h11, h12, h13, h14, hb.req, hb.models, hb.out, hb.readers⟩
  · intro s num t room io x r m c hx hr hw htrain hslots hm hc hroom hio
    have hexec := execModelRun_starts (t := t) (io := io) hx htrain hw
    have hroom' : room = ((s.at t).release m.windowFn .t1 m.windowT1).t1Free r.fn := hroom
    refine ⟨fun hs => ?_, fun hs h => ?_, fun hs hwin hfirst => ⟨fun h => ?_, fun h1 h2 => ?_⟩⟩
    · obtain ⟨z, hz, hzw, hzs, hzm⟩ := State.startRun_streamless (s := s.at t) (io := io) hx hr hm hc hslots hs
      exact ⟨_, z, hexec, hz, hzw, hzs, hzm⟩
    · rw [hexec, State.startRun_waits (s := s.at t) hx hr hm hc hs h]
    · obtain ⟨z, hz, hzw, hseg, hmodel, hstream⟩ :=
        State.startRun_takes (s := s.at t) (io := io) hroom' hx hr hm hc hslots hs hwin hfirst h
      exact ⟨_, z, hexec, hz, hzw, hseg, hmodel, hstream⟩
    · obtain ⟨hdone, hgone⟩ := State.startRun_refused (s := s.at t) hroom' hx hr hm hc hio hs hwin hfirst h1 h2
      exact ⟨_, hexec, hdone, hgone⟩
  · intro s num t io x r hx hr ho hio
    obtain rfl := State.req?_num hr
    have hexec := execModelRunTimeout_due (t := t) (io := io) hx hr ho
    refine ⟨fun hdue => ?_, fun hdue => ?_⟩
    · rw [if_pos hdue] at hexec
      obtain ⟨hdone, hgone, hreaders⟩ := State.dropRun_times_out (s := s.at t) (r := r) hx hio
      exact ⟨_, hexec, hdone, hgone, hreaders⟩
    · rw [hexec, if_neg (Nat.not_le.mpr hdue)]

end Sys2Proof.Machine
end

-- ==== Proofs: A training step is taken in (O44) ====
section
/-! SUPPORT. What a TRAIN-STEP that passes its checks does in its turn at the ledger arbiters (R366 to R370). -/

namespace Sys2Proof.Machine

open Sys2Proof

/-- The run that a TRAIN-STEP begins, which waits for its model's trainer (R368 to R370). -/
def newStep (num : Nat) (r : Req) (m : Model) (lens : List Nat) (t0 stamp : Nat) : Run :=
  { num := num, coll := m.coll, model := m.id, train := true, waiting := true, layer := 0, segment := 0,
    stage := .compute, step := 0, routed := false, routedLater := false,
    seqs := lens.map fun l => (true, l, 0), slots := [], nearBank := false, left := none, routes := [], blocks := [],
    waitingExperts := [], inbox := [], mode := 0, t0 := t0, segmented := false,
    due := r.admittedAt + 60000 * Config.ticksPerMs, prior := 0, handle := 0,
    readStamp := stamp, output := [], tokensOut := 0, nonFinite := 0 }

/-- A training step is enlisted: its space, its read stamps, its place in the trainer's row, and its shares at the other owners. -/
def State.enlistStep (s : State) (k : Key) (r : Req) (c : Coll) (m : Model) (lens : List Nat) (t0 stamp : Nat) : State :=
  let s := ((s.modFn r.fn (·.charge .t0 t0)).modReq k.num fun r => { r with body := .train }).readModel k c
  let s := s.modModel m.coll m.id fun m => { m with trainWait := m.trainWait ++ [k.num] }
  ({ s with runs := s.runs ++ [newStep k.num r m lens t0 stamp] } : State).toOwners r c 9 (.runShare k c.spec.id m.id)

/-- What a checked TRAIN-STEP does in its turn (R340, R366, R370). -/
def State.takeStep (s : State) (k : Key) (e : Bytes) (r : Req) (c : Coll) (m : Model) (inp : Bytes) (stamps : List (Nat × Nat)) (io : HostIO) : State :=
  let rs := (s.runStamps c stamps).getD []
  match m.seenAt rs with
  | none => s.complete r (.bare stRetry 2) io
  | some false => s.complete r (.bare stInvalid 52) io
  | some true =>
    let t0 := (seqLengths inp (le e 56 4) 0).foldl (· + ·) 0 * hdrPerToken m.header
    if m.degraded then s.complete r (.bare stDegraded 0) io
    else if !s.canTrain c m then s.complete r (.bare stUnsupported 3) io
    else if !s.fits r.fn .t0 t0 || !s.tilesHold t0 then (s.quotaRefuse r.fn 0).complete r (.bare stQuota 0) io
    else s.enlistStep k r c m (seqLengths inp (le e 56 4) 0) t0 ((rs.head?.map (·.2)).getD 0)

/-- A word of an entry is a number of a kind. -/
def fp32InRange (e : Bytes) (o : Nat) (p : Int → Bool) : Bool := match fp32Value (le e o 4) with | some v => p v | none => false

theorem fp32InRange_of {e : Bytes} {o : Nat} {p : Int → Bool} {v : Int} (h : fp32Value (le e o 4) = some v) (hp : p v = true) :
    fp32InRange e o p = true := by
  unfold fp32InRange; rw [h]; exact hp

/-- The checks on the fields of a TRAIN-STEP (R367, R368). -/
def stepChecks (m : Model) (e inp : Bytes) : List (Nat × Bool) :=
  let n := le e 56 4
  let adam := byteAt e 48 == 1
  let below1 := fun (v : Int) => decide (0 ≤ v) && decide (v < 2 ^ 149)
  [(24, decide (16 * n ≤ inp.length)), (50, decide (byteAt e 50 < hdrEntries m.header)),
   (56, decide (1 ≤ n) && decide (n ≤ 65536)), (60, fp32InRange e 60 fun v => decide (0 < v)), (64, fp32InRange e 64 below1),
   (68, if adam then fp32InRange e 68 below1 else true), (72, if adam then fp32InRange e 72 fun v => decide (0 < v) else true),
   (76, fp32InRange e 76 fun v => decide (0 ≤ v)), (80, fp32InRange e 80 fun v => decide (0 ≤ v))]

/-- The body of a TRAIN-STEP that no run has been begun for: its own checks, and its turn (R366 to R370). -/
def State.checkStep (s : State) (k : Key) (e : Bytes) (stamps : List (Nat × Nat)) (io : HostIO) (r : Req) (inp : Bytes) : State :=
  match s.coll? r.collection, s.model? r.collection (le e 52 4) with
  | some c, some m =>
    match lowestBad e [] (stepChecks m e inp) with
    | some o => s.complete r (.bare stInvalid o) io
    | none =>
      match s.runStamps c stamps with
      | none => s.complete r (.bare stRetry 0) io
      | some _ => s.passLedgers (s.localShards c) (.pass (.req k)) fun y => y.takeStep k e r c m inp stamps io
  | some _, none => s.complete r (.bare stInvalid 52) io
  | none, _ => s.complete r (.bare stInvalid 4) io

theorem execTrainStep_fresh {s : State} {num t : Nat} {io : HostIO} {stamps : List (Nat × Nat)} {e : Bytes} (hrun : s.run? num = none)
    (he : (s.at t).entryOf num = e) : exec (.trainStep num stamps io t) s = .next ((s.at t).dataCommit num 9 io [(84, 44)]
      [(48, decide (byteAt e 48 < 2)), (49, decide (byteAt e 49 < 4)), (51, decide (byteAt e 51 < 2))] .named (some 4) 32
      fun y r inp => y.checkStep ⟨s.nodeId, num⟩ e stamps io r inp) := by
  change execTrainStep num stamps io t s = _
  unfold execTrainStep
  have hrun' : (s.at t).run? num = none := hrun
  extract_lets z e' k flags n inRange adam below1
  obtain rfl : e' = e := he
  rw [hrun']
  refine congrArg Host.Outcome.next (State.dataCommit_congr fun y r inp => ?_)
  unfold State.checkStep
  cases y.coll? r.collection with
  | none => rfl
  | some c =>
    cases y.model? r.collection (le e' 52 4) with
    | none => rfl
    | some m => rfl

/-- A TRAIN-STEP that passes its checks goes behind what waits at the ledger arbiters of its collection's shards here. -/
theorem execTrainStep_checked {s : State} {num t : Nat} {io : HostIO} {stamps rs : List (Nat × Nat)} {r : Req} {c : Coll} {m : Model}
    {inp : Bytes} (hacc : Accepted s num 9 io [(84, 44)] .named (some 4) 32 r) (hrun : s.run? num = none)
    (hc : s.coll? r.collection = some c) (hm : s.model? r.collection (le r.entry 52 4) = some m)
    (hinp : inp = slice (io.input.getD []) 0 (le r.entry 24 4)) (h48 : byteAt r.entry 48 < 2) (h49 : byteAt r.entry 49 < 4)
    (h51 : byteAt r.entry 51 < 2) (hchecks : ∀ x ∈ stepChecks m r.entry inp, x.2 = true) (hrs : s.runStamps c stamps = some rs) :
    exec (.trainStep num stamps io t) s = .next ((s.at t).passLedgers (s.localShards c) (.pass (.req ⟨s.nodeId, num⟩))
      fun y => y.takeStep ⟨s.nodeId, num⟩ r.entry r c m inp stamps io) := by
  have hc' : (s.at t).coll? r.collection = some c := hc
  have hm' : (s.at t).model? r.collection (le r.entry 52 4) = some m := hm
  have hrs' : (s.at t).runStamps c stamps = some rs := hrs
  have hbad : lowestBad r.entry [] (stepChecks m r.entry inp) = none := lowestBad_eq_none rfl hchecks
  rw [execTrainStep_fresh hrun (State.entryOf_of_req (s := s.at t) hacc.1),
    State.dataCommit_accepted (hacc.at t) (by simp [h48, h49, h51]), ← hinp]
  unfold State.checkStep
  simp only [hc', hm', hbad, hrs']
  rfl

/-- A change of the model that a run is of, which keeps its name. -/
theorem State.modModel_found {s : State} {a b : Nat} {m : Model} (hm : s.model? a b = some m) {f : Model → Model}
    (hf : ∀ m, (f m).coll = m.coll ∧ (f m).id = m.id) : (s.modModel m.coll m.id f).model? a b = some (f m) := by
  obtain ⟨rfl, rfl⟩ := State.model?_ids hm
  rw [State.modModel_model s m.coll m.id hf, hm]
  rfl

/-! ### A training step in its turn (R366, R368, R370) -/

section
variable {s y : State} {num t0 : Nat} {e inp : Bytes} {r : Req} {c : Coll} {m : Model} {stamps rs : List (Nat × Nat)} {io : HostIO}

theorem State.takeStep_ready (hrs : s.runStamps c stamps = some rs) (hseen : m.seenAt rs = some true) (hd : m.degraded = false)
    (ht0 : t0 = (seqLengths inp (le e 56 4) 0).foldl (· + ·) 0 * hdrPerToken m.header) (k : Key) :
    s.takeStep k e r c m inp stamps io =
      if !s.canTrain c m then s.complete r (.bare stUnsupported 3) io
      else if !s.fits r.fn .t0 t0 || !s.tilesHold t0 then (s.quotaRefuse r.fn 0).complete r (.bare stQuota 0) io
      else s.enlistStep k r c m (seqLengths inp (le e 56 4) 0) t0 ((rs.head?.map (·.2)).getD 0) := by
  subst ht0
  unfold State.takeStep
  simp only [hrs, Option.getD_some, hseen, hd]
  rfl

theorem LeftLedgers.canTrain_eq (hy : LeftLedgers s y) (c : Coll) (m : Model) : y.canTrain c m = s.canTrain c m := by
  rw [hy.frame]; rfl

variable (hy : LeftLedgers s y) (hrs : s.runStamps c stamps = some rs) (hseen : m.seenAt rs = some true) (hdeg : m.degraded = false)
  (ht0 : t0 = (seqLengths inp (le e 56 4) 0).foldl (· + ·) 0 * hdrPerToken m.header)
include hy hrs hseen hdeg ht0

omit ht0 in
/-- A model that cannot be trained is refused (R366). -/
theorem State.takeStep_unsupported (hio : HostTakes io) (hcan : s.canTrain c m = false) (k : Key) :
    CompletedWith s (y.takeStep k e r c m inp stamps io) r (.bare stUnsupported 3) := by
  rw [State.takeStep_ready ((hy.runStamps_eq c stamps).trans hrs) hseen hdeg rfl, if_pos (by rw [hy.canTrain_eq, hcan]; rfl)]
  exact hy.completes (State.complete_completedWith hio)

/-- A training step whose T0 space is not there is ST_QUOTA 0 (R368). -/
theorem State.takeStep_t0 (hio : HostTakes io) (hcan : s.canTrain c m = true) (h : ¬ (s.fits r.fn .t0 t0 = true ∧ s.tilesHold t0 = true))
    (k : Key) : CompletedWith s (y.takeStep k e r c m inp stamps io) r (.bare stQuota 0) ∧
      (y.takeStep k e r c m inp stamps io).runs = s.runs ∧ (y.takeStep k e r c m inp stamps io).models = s.models := by
  rw [State.takeStep_ready ((hy.runStamps_eq c stamps).trans hrs) hseen hdeg ht0, if_neg (by simp [hy.canTrain_eq, hcan]), if_pos]
  · refine ⟨hy.completes ((State.complete_completedWith hio).of_eq rfl rfl), ?_, ?_⟩
    · rw [(State.complete_only hio).1]
      change y.runs = s.runs
      rw [hy.frame]
    · rw [(State.complete_only hio).1]
      change y.models = s.models
      rw [hy.frame]
  · rw [← Bool.and_eq_true, Bool.not_eq_true] at h
    rw [hy.fits_eq, hy.tilesHold_eq, ← Bool.not_and, h, Bool.not_false]

/-- A training step whose space is there is enlisted and waits for the trainer (R368 to R370). -/
theorem State.takeStep_begins (hrun : s.run? num = none) (hreq : s.req? num = some r)
    (hm : s.model? r.collection (le e 52 4) = some m) (hcan : s.canTrain c m = true) (hf : s.fits r.fn .t0 t0 = true)
    (ht : s.tilesHold t0 = true) :
    let x := y.takeStep ⟨s.nodeId, num⟩ e r c m inp stamps io
    ∃ v, x.run? num = some v ∧ v.train = true ∧ v.waiting = true ∧ v.layer = 0 ∧ v.step = 0 ∧ v.stage = .compute ∧ v.t0 = t0 ∧
      x.out = s.out ∧ x.model? r.collection (le e 52 4) = some { m with trainWait := m.trainWait ++ [num] } ∧
      x.req? num = some { r with body := .train } ∧ ∀ i d, s.shard? i = some d → d.coll = c.spec.id → d.forwardTo = none →
        ∃ f, x.shard? i = some f ∧ f.counter = d.counter ∧ f.readers = d.readers ++ [(.req ⟨s.nodeId, num⟩, d.counter)] := by
  dsimp only
  rw [State.takeStep_ready ((hy.runStamps_eq c stamps).trans hrs) hseen hdeg ht0, if_neg (by simp [hy.canTrain_eq, hcan]),
    if_neg (by simp [hy.fits_eq, hy.tilesHold_eq, hf, ht])]
  generalize (rs.head?.map (·.2)).getD 0 = stamp
  unfold State.enlistStep
  dsimp only
  generalize hb : ({ State.modModel _ m.coll m.id _ with runs := _ } : State) = b
  have hsent := State.toOwners_sent b r c 9 (.runShare ⟨s.nodeId, num⟩ c.spec.id m.id)
  generalize b.toOwners r c 9 (.runShare ⟨s.nodeId, num⟩ c.spec.id m.id) = x at hsent
  have hxruns : x.runs = s.runs ++ [newStep num r m (seqLengths inp (le e 56 4) 0) t0 stamp] := by
    rw [hsent.runs_eq, ← hb]
    change y.runs ++ _ = _
    rw [hy.frame]
  have hxshards : x.shards = (y.readModel ⟨s.nodeId, num⟩ c).shards := by rw [hsent.frame, ← hb]; rfl
  refine ⟨_, State.run?_append hxruns hrun rfl, rfl, rfl, rfl, rfl, rfl, rfl, ?_, ?_, ?_, fun i d hd hdc hdf => ?_⟩
  · rw [hsent.frame, ← hb]
    change y.out = s.out
    rw [hy.frame]
  · have hmods : x.models = (s.modModel m.coll m.id fun m => { m with trainWait := m.trainWait ++ [num] }).models := by
      rw [hsent.frame, ← hb]
      change modWhere y.models _ _ = modWhere s.models _ _
      rw [hy.frame]
    have hmod := State.modModel_found hm (f := fun m => { m with trainWait := m.trainWait ++ [num] }) fun _ => ⟨rfl, rfl⟩
    unfold State.model?
    rw [hmods]
    exact hmod
  · have hreqs : x.reqs = (s.modReq num fun r => { r with body := .train }).reqs := by
      rw [hsent.frame, ← hb]
      change modWhere y.reqs _ _ = modWhere s.reqs _ _
      rw [hy.frame]
    have hmod := State.modReq_req (s := s) (n := num) (f := fun r => { r with body := .train }) fun _ => rfl
    rw [hreq] at hmod
    unfold State.req?
    rw [hreqs]
    exact hmod
  · exact hy.readers hxshards hd hdc hdf
end

end Sys2Proof.Machine
end

-- ==== Proofs: Training (O44) ====
section
/-! SUPPORT. What the trainer, the passes and the switch of a training step do (R369 to R374). -/

namespace Sys2Proof.Machine

open Sys2Proof

/-! ### The end of a training step (R345, R370 to R372) -/

/-- A model once a run or a step of it has ended (R345, R370). -/
def Model.afterRun (m : Model) (num now : Nat) : Model :=
  { m with windowBy := if m.windowBy = some num then none else m.windowBy,
           windowAt := if m.windowBy = some num then some now else m.windowAt,
           trainer := if m.trainer = some num then none else m.trainer,
           trainWait := m.trainWait.filter (· != num) }

theorem State.reapModel_of_present {s : State} {a b : Nat} {m : Model} (hm : s.model? a b = some m) (hst : m.st ≠ .absent) :
    s.reapModel a b = s := by
  unfold State.reapModel
  rw [hm]
  exact if_pos (by simp [hst])

/-- A model that is there stays when a run of it ends. -/
theorem State.endRun_model? {s : State} {num : Nat} {x : Run} {m : Model} (hx : s.run? num = some x)
    (hm : s.model? x.coll x.model = some m) (hst : m.st ≠ .absent) :
    (s.endRun num).model? x.coll x.model = some (m.afterRun num s.now) := by
  unfold State.endRun
  rw [hx]
  dsimp only
  generalize hz : (State.release (State.dropWork _ _) _ _ _ : State) = z
  have hzm : z.model? x.coll x.model = some m := by
    rw [← hz, State.dropWork_frame]
    exact hm
  have hnow : z.now = s.now := by
    rw [← hz, State.dropWork_frame]
    rfl
  have hmod := State.modModel_model z x.coll x.model (f := (·.afterRun num z.now)) fun _ => ⟨rfl, rfl⟩
  rw [hzm] at hmod
  rw [← hnow]
  refine Eq.trans (congrArg (State.model? · x.coll x.model) ?_) hmod
  exact State.reapModel_of_present hmod hst

/-- No counter of a shard moves when a run ends. -/
theorem State.endRun_counter {s : State} {num : Nat} {x : Run} (hx : s.run? num = some x) (i : Nat) :
    ((s.endRun num).shard? i).map (·.counter) = (s.shard? i).map (·.counter) := by
  unfold State.shard?
  rw [State.endRun_shards hx, List.find?_map]
  simp [Function.comp_def]

/-- The completion of a training step (R371, R372). -/
def stepCompl (e : Bytes) (i accumulated nonFinite applied w : Nat) : Compl :=
  { status := stOk, detail := 0, value := w, value2 := le e 56 4, data := trainHeader i accumulated nonFinite applied w,
    dataReturned := (trainHeader i accumulated nonFinite applied w).length }

theorem State.finishTrain_eq (s : State) (r : Req) (x : Run) (a n p w : Nat) (io : HostIO) :
    s.finishTrain r x a n p w io = (s.takeFree.2.endRun x.num).complete r (stepCompl r.entry s.free a n p w) io := rfl

/-- What the end of a training step leaves. -/
structure StepDone (s y : State) (r : Req) (q : Compl) (x : Run) (m : Model) : Prop where
  done : CompletedWith s y r q
  gone : y.run? r.num = none
  model : m.st ≠ .absent → y.model? x.coll x.model = some (m.afterRun r.num s.now)
  counter : ∀ i, (y.shard? i).map (·.counter) = (s.shard? i).map (·.counter)

theorem State.finishTrain_done {s : State} {r : Req} {x v : Run} {m : Model} {io : HostIO} (hnum : x.num = r.num)
    (hx : s.run? r.num = some v) (hcoll : v.coll = x.coll) (hmodel : v.model = x.model) (hm : s.model? x.coll x.model = some m)
    (hio : HostTakes io) (a n p w : Nat) :
    StepDone s (s.finishTrain r x a n p w io) r (stepCompl r.entry s.free a n p w) x m := by
  rw [State.finishTrain_eq, hnum]
  have hx' : s.takeFree.2.run? r.num = some v := hx
  obtain ⟨hdone, hgone⟩ := (State.endRun_ending s.takeFree.2 r.num).complete (r := r) hio (stepCompl r.entry s.free a n p w)
  refine ⟨hdone.of_eq rfl rfl, hgone, fun hst => ?_, fun i => ?_⟩
  · rw [(State.complete_only hio).1]
    have := State.endRun_model? (m := m) hx' (by rw [hcoll, hmodel]; exact hm) hst
    rw [hcoll, hmodel] at this
    exact this
  · rw [(State.complete_only hio).1]
    exact State.endRun_counter hx' i

/-! ### Fields of a step's header (R372) -/

theorem le_append (a b : Bytes) (n : Nat) : le (a ++ b) a.length n = le b 0 n :=
  le_congr fun k _ => by
    rw [List.getD_append_right _ _ _ _ (Nat.le_add_right ..), Nat.add_sub_cancel_left, Nat.zero_add]

theorem le_toLE_append (n v : Nat) (b : Bytes) : le (toLE n v ++ b) 0 n = v % 256 ^ n := by
  rw [← le_toLE]
  refine le_congr fun k hk => List.getD_append _ _ _ _ (by simpa using hk)

theorem trainHeader_accumulated (i a n p w : Nat) : le (trainHeader i a n p w) 8 4 = a % 2 ^ 32 := by
  have := le_append (toLE 4 (Config.trainWord (2 * i)).toNat ++ toLE 4 (Config.trainWord (2 * i + 1)).toNat)
    (toLE 4 a ++ (toLE 4 n ++ toLE 1 p ++ zeros 7 ++ toLE 8 w)) 4
  rw [le_toLE_append] at this
  simpa [trainHeader] using this

theorem trainHeader_nonFinite (i a n p w : Nat) : le (trainHeader i a n p w) 12 4 = n % 2 ^ 32 := by
  have := le_append (toLE 4 (Config.trainWord (2 * i)).toNat ++ toLE 4 (Config.trainWord (2 * i + 1)).toNat ++ toLE 4 a)
    (toLE 4 n ++ (toLE 1 p ++ zeros 7 ++ toLE 8 w)) 4
  rw [le_toLE_append] at this
  simpa [trainHeader] using this

/-! ### Passes over the layers (R369, R371) -/

section
variable {s : State} {num t : Nat} {x : Run} {r : Req} {m : Model} {c : Coll} {io : HostIO}

/-- The samples that an accumulator holds behind a pass (R371). -/
def accumulatedNow (e : Bytes) (m : Model) (bad : Nat) : Nat := if bad = 0 then (if bit (byteAt e 49) 1 then 0 else m.accumulated) + le e 56 4 else 0

/-- A training step whose passes are over. -/
def Run.passed (x : Run) (bad : Nat) : Run := { x with step := x.steps, nonFinite := bad }

/-- The state in which a pass has been accumulated. -/
def State.accumulating (s : State) (r : Req) (x : Run) (m : Model) : State :=
  ((s.takeFree.2.modModel m.coll m.id fun n => { n with accumulated := accumulatedNow r.entry m (Config.trainNonFinite s.free) }).modRun x.num
    (·.passed (Config.trainNonFinite s.free)))

theorem State.accumulate_eq (s : State) (r : Req) (x : Run) (m : Model) (io : HostIO) : s.accumulate r x m io =
    if bit (byteAt r.entry 49) 0 then s.accumulating r x m
    else (s.accumulating r x m).finishTrain r x (accumulatedNow r.entry m (Config.trainNonFinite s.free)) (Config.trainNonFinite s.free) 0 0 io :=
  rfl

theorem State.accumulating_model? (hm : s.model? x.coll x.model = some m) : (s.accumulating r x m).model? x.coll x.model =
    some { m with accumulated := accumulatedNow r.entry m (Config.trainNonFinite s.free) } :=
  State.modModel_found hm (f := fun n => { n with accumulated := accumulatedNow r.entry m (Config.trainNonFinite s.free) })
    fun _ => ⟨rfl, rfl⟩

theorem State.accumulating_run? (hx : s.run? x.num = some x) : (s.accumulating r x m).run? x.num =
    some (x.passed (Config.trainNonFinite s.free)) := by
  unfold State.accumulating
  rw [State.modRun_run (by intro u; rfl)]
  exact congrArg (Option.map _) hx

/-- The units serve a stage for many tokens without a word on its run (R38). -/
theorem State.computeUnit_large (h : Served s x m) (hs : x.small m = false) : ∃ z, Aside s z ∧ z.runs = s.runs ∧ z.free = s.free ∧
    s.computeUnit x r m c io = if hdrExperts m.header = 0 || hdrLayers m.header ≤ x.layer || !s.lastSegment x m c
      then z.leaveUnit x r m c io else z.route x m c := by
  obtain ⟨z, hz, hfree⟩ := State.serveStage_of_served h
  have haside := (State.serveStage_servedFrom s x m).1
  have hruns : (s.serveStage x m).2.runs = s.runs := by
    rw [State.serveStage_large hs]
    split
    · exact (State.useGrants_runs ..).trans (State.needTiles_runs ..)
    · exact State.needTiles_runs ..
  unfold State.computeUnit
  rw [hz] at haside hruns ⊢
  exact ⟨z, haside, hruns, hfree, rfl⟩

theorem Run.leaves_train (htrain : x.train = true) (i : Nat) : x.leaves r m i = false := by
  unfold Run.leaves; rw [htrain]; rfl

theorem State.unitNext_stays (s : State) (x : Run) (m : Model) (c : Coll) : s.unitNext x m c false = s.unitAfter x m c (x.layer, x.segment) := rfl

/-- A training step that has a unit behind it goes on with it. -/
theorem State.leaveUnit_goes {u : (Nat × Nat) × Bool} (htrain : x.train = true) (hx : s.run? x.num = some x)
    (hu : s.unitAfter x m c (x.layer, x.segment) = some u) :
    RunAt (s.leaveUnit x r m c io) x.num u.1.1 u.1.2 (if u.2 then x.step + 1 else x.step) := by
  have hnext : s.unitNext x m c (x.leaves r m s.free) = some u := by rw [Run.leaves_train htrain]; exact hu
  obtain ⟨z, hz, hat⟩ := State.nextUnit_some (r := r) hnext hx
  unfold State.leaveUnit
  rw [hz]
  exact hat

theorem State.leaveUnit_accumulates (htrain : x.train = true) (hu : s.unitAfter x m c (x.layer, x.segment) = none) :
    s.leaveUnit x r m c io = s.accumulate r x m io := by
  have hnext : s.unitNext x m c (x.leaves r m s.free) = none := by rw [Run.leaves_train htrain]; exact hu
  unfold State.leaveUnit
  rw [State.nextUnit_none hnext]
  exact if_pos htrain

/-- What a training step does at the end of a pass (R371): the gradients are accumulated, and without apply the step completes. -/
structure StepPassed (s₀ s y : State) (r : Req) (x : Run) (m : Model) : Prop where
  applies : bit (byteAt r.entry 49) 0 = true → y.model? x.coll x.model =
      some { m with accumulated := accumulatedNow r.entry m (Config.trainNonFinite s.free) } ∧
    y.run? x.num = some { x with step := 2, nonFinite := Config.trainNonFinite s.free } ∧ y.out = s₀.out
  completes : bit (byteAt r.entry 49) 0 = false → y.run? x.num = none ∧ ∃ q, CompletedWith s₀ y r q ∧ q.status = stOk ∧
    q.value = 0 ∧ q.value2 = le r.entry 56 4 ∧ le q.data 8 4 = accumulatedNow r.entry m (Config.trainNonFinite s.free) % 2 ^ 32 ∧
    le q.data 12 4 = Config.trainNonFinite s.free % 2 ^ 32

theorem State.accumulate_passed {s₀ : State} (h : Aside s₀ s) (htrain : x.train = true) (hx : s.run? x.num = some x) (hnum : x.num = r.num)
    (hm : s.model? x.coll x.model = some m) (hio : HostTakes io) : StepPassed s₀ s (s.accumulate r x m io) r x m := by
  rw [State.accumulate_eq]
  refine ⟨fun hb => ?_, fun hb => ?_⟩
  · rw [if_pos hb]
    refine ⟨State.accumulating_model? hm, (State.accumulating_run? hx).trans ?_, ?_⟩
    · simp [Run.passed, Run.steps, htrain]
    · change s.out = _
      rw [h.frame]
  · have hrun : (s.accumulating r x m).run? r.num = some (x.passed (Config.trainNonFinite s.free)) := by
      rw [← hnum]
      exact State.accumulating_run? hx
    rw [if_neg (by simp [hb]), hnum]
    have hd := State.finishTrain_done (r := r) (io := io) hnum hrun rfl rfl
      (State.accumulating_model? hm) hio (accumulatedNow r.entry m (Config.trainNonFinite s.free)) (Config.trainNonFinite s.free) 0 0
    exact ⟨hd.gone, _, hd.done.of_eq h.reqs_eq h.queues_eq, rfl, rfl, rfl, trainHeader_accumulated .., trainHeader_nonFinite ..⟩

end

section
variable {s : State} {num t : Nat} {x : Run} {r : Req} {m : Model} {c : Coll} {io : HostIO}

/-- A served layer of a training step (R369, R371): its next segment, the next layer, the second pass, or the end of the passes. -/
theorem State.computeUnit_trains (hx : s.run? num = some x) (hr : s.req? num = some r) (hm : s.model? x.coll x.model = some m)
    (htrain : x.train = true) (hserv : Served s x m) (hio : HostTakes io) :
    ((hdrExperts m.header = 0 ∨ x.segment + 1 < s.segmentsOf x m c x.layer) → x.segment + 1 < s.segmentsOf x m c x.layer →
      RunAt (s.computeUnit x r m c io) num x.layer (x.segment + 1) x.step) ∧
    (hdrExperts m.header = 0 → s.segmentsOf x m c x.layer ≤ x.segment + 1 → x.layer < hdrLayers m.header →
      RunAt (s.computeUnit x r m c io) num (x.layer + 1) 0 x.step) ∧
    (s.segmentsOf x m c x.layer ≤ x.segment + 1 → hdrLayers m.header ≤ x.layer →
      (x.step = 0 → RunAt (s.computeUnit x r m c io) num 0 0 1) ∧
      (x.step = 1 → StepPassed s s (s.computeUnit x r m c io) r x m)) := by
  obtain rfl := State.run?_num hx
  obtain ⟨z, haside, hruns, hfree, heq⟩ := State.computeUnit_large (r := r) (c := c) (io := io) hserv (by simp [Run.small, htrain])
  have hzx : z.run? x.num = some x := (State.run?_of_runs hruns _).trans hx
  have hsteps : x.steps = 2 := by simp [Run.steps, htrain]
  have hseg := haside.segmentsOf_eq x m c x.layer
  rw [heq]
  refine ⟨fun _ hlt => ?_, fun h0 hle hlay => ?_, fun hle hlay => ⟨fun h0 => ?_, fun h1 => ?_⟩⟩
  · have hlast : s.lastSegment x m c = false := by simpa [State.lastSegment] using Nat.ne_of_lt hlt
    rw [if_pos (by simp [hlast])]
    exact State.leaveUnit_goes (u := ((x.layer, x.segment + 1), false)) htrain hzx (by simp [State.unitAfter, hseg, hlt])
  · rw [if_pos (by simp [h0])]
    exact State.leaveUnit_goes (u := ((x.layer + 1, 0), false)) htrain hzx
      (by simp [State.unitAfter, hseg, Nat.not_lt.mpr hle, hlay])
  · rw [if_pos (by simp [hlay])]
    have := State.leaveUnit_goes (r := r) (m := m) (c := c) (io := io) (u := ((0, 0), true)) htrain hzx
      (by simp [State.unitAfter, hseg, Nat.not_lt.mpr hle, Nat.not_lt.mpr hlay, h0, hsteps])
    rw [if_pos rfl, h0] at this
    exact this
  · rw [if_pos (by simp [hlay]), State.leaveUnit_accumulates htrain
      (by simp [State.unitAfter, hseg, Nat.not_lt.mpr hle, Nat.not_lt.mpr hlay, h1, hsteps])]
    have := State.accumulate_passed (r := r) (m := m) (io := io) haside htrain hzx (State.req?_num hr).symm
      ((haside.model?_eq _ _).trans hm) hio
    exact ⟨fun h => hfree ▸ this.applies h, fun h => hfree ▸ this.completes h⟩

/-! ### The trainer (R369, R370) -/

/-- Whether a training step takes the trainer now. -/
def Model.trainerFree (m : Model) (x : Run) (num : Nat) : Bool := x.waiting && m.trainer.isNone && m.trainWait.head? == some num

/-- The state in which a training step has taken the trainer. -/
def State.takeTrainer (s : State) (m : Model) (num : Nat) : State :=
  (s.modModel m.coll m.id fun m => { m with trainer := some num, trainWait := m.trainWait.drop 1 }).modRun num fun x => { x with prior := m.accumulated }

theorem execTrainStep_runs (hx : s.run? num = some x) (hr : s.req? num = some r) (hm : s.model? x.coll x.model = some m)
    (htrain : x.train = true) : exec (.trainStep num [] io t) s =
      .next (if m.trainerFree x num then ((s.at t).takeTrainer m num).startRun num io
        else if x.waiting && m.trainer == some num then (s.at t).startRun num io else (s.at t).goOn num io) := by
  have hexec : exec (.trainStep num [] io t) s = execTrainStep num [] io t s := rfl
  have hx' : (s.at t).run? num = some x := hx
  have hr' : (s.at t).req? num = some r := hr
  have hm' : (s.at t).model? x.coll x.model = some m := hm
  rw [hexec]
  unfold execTrainStep
  simp only [hx', hr', hm', htrain]
  refine congrArg Host.Outcome.next ?_
  change (if (m.trainerFree x num || (x.waiting && m.trainer == some num)) = true then
    (if m.trainerFree x num = true then (s.at t).takeTrainer m num else s.at t).startRun num io else
    (if m.trainerFree x num = true then (s.at t).takeTrainer m num else s.at t).goOn num io) = _
  cases m.trainerFree x num with
  | true => rfl
  | false => rfl

/-- The first that waits takes a free trainer; with the window held elsewhere it waits on, and where nothing streams it starts (R370). -/
theorem State.takeTrainer_starts (hx : s.run? num = some x) (hr : s.req? num = some r) (hm : s.model? x.coll x.model = some m)
    (hc : s.coll? x.coll = some c) (hw : x.waiting = true) (hwin : m.streamed = [] ∨ m.windowBy ≠ none) :
    ∃ z, ((s.takeTrainer m num).startRun num io).model? x.coll x.model =
        some { m with trainer := some num, trainWait := m.trainWait.drop 1 } ∧
      ((s.takeTrainer m num).startRun num io).run? num = some z ∧ z.waiting = !m.streamed.isEmpty ∧ z.prior = m.accumulated ∧
      ((s.takeTrainer m num).startRun num io).out = s.out ∧ ((s.takeTrainer m num).startRun num io).shards = s.shards := by
  have hrun : (s.takeTrainer m num).run? num = some { x with prior := m.accumulated } := by
    unfold State.takeTrainer
    rw [State.modRun_run (by intro u; rfl)]
    exact congrArg (Option.map _) hx
  have hmodel : (s.takeTrainer m num).model? x.coll x.model = some { m with trainer := some num, trainWait := m.trainWait.drop 1 } :=
    State.modModel_found hm (f := fun m => { m with trainer := some num, trainWait := m.trainWait.drop 1 }) fun _ => ⟨rfl, rfl⟩
  obtain ⟨ha, l, hl⟩ := State.startRun_noWindow (io := io) hrun hw hr hmodel hc hwin
  refine ⟨_, (ha.model?_eq _ _).trans hmodel, hl, rfl, rfl, ?_, ?_⟩
  · rw [ha.frame]; rfl
  · rw [ha.frame]; rfl

end

/-! ### The switch (R369, R371 to R373) -/

/-- The accumulator of a model is cleared. -/
def State.clearStep (s : State) (m : Model) : State := s.modModel m.coll m.id fun m => { m with accumulated := 0 }

/-- The updated copies of a model are current from stamp `w` on, and the step completes. -/
def State.switchStep (s : State) (r : Req) (x : Run) (m : Model) (io : HostIO) (w : Nat) : State :=
  ((s.clearStep m).modModel m.coll m.id fun m => { m with version := w }).finishTrain r x m.accumulated 0 1 w io

section
variable {s : State} {num t bad : Nat} {x : Run} {r : Req} {m : Model} {c : Coll} {io : HostIO} {stamps : List (Nat × Nat)}

/-- What a switch of finite and other values does (R371 to R373). -/
def State.atSwitch (s : State) (num bad : Nat) (x : Run) (r : Req) (m : Model) (c : Coll) (stamps : List (Nat × Nat)) (io : HostIO) : State :=
  if bad ≠ 0 then (s.clearStep m).finishTrain r x 0 bad 0 0 io
  else if s.ownerOf c.spec.firstShard == some s.nodeId then
    s.passLedgers [c.spec.firstShard] (.pass (.req ⟨s.nodeId, num⟩)) fun s =>
      (s.takeSwitch c.spec.firstShard).2.switchStep r x m io (s.takeSwitch c.spec.firstShard).1
  else s.switchStep r x m io (((stamps.find? (·.1 == c.spec.firstShard)).map (·.2)).getD 0)

theorem execTrainSwitch_eq (hx : s.run? num = some x) (hr : s.req? num = some r) (hm : s.model? x.coll x.model = some m)
    (hc : s.coll? x.coll = some c) (htrain : x.train = true) (hbad : bad = x.nonFinite + Config.trainNonFinite s.free) :
    exec (.trainSwitch num stamps io t) s = .next (if x.waiting || decide (x.step < x.steps) then s.at t
      else ({ s.at t with free := s.free + 1 } : State).atSwitch num bad x r m c stamps io) := by
  subst hbad
  have hexec : exec (.trainSwitch num stamps io t) s = execTrainSwitch num stamps io t s := rfl
  have hx' : (s.at t).run? num = some x := hx
  have hr' : (s.at t).req? num = some r := hr
  have hm' : (s.at t).model? x.coll x.model = some m := hm
  have hc' : (s.at t).coll? x.coll = some c := hc
  rw [hexec]
  unfold execTrainSwitch
  extract_lets z
  have hz : z = s.at t := rfl
  clear_value z
  subst hz
  rw [hx', hr']
  dsimp only
  rw [hm', hc']
  dsimp only
  rw [htrain, Bool.not_true, Bool.false_or]
  by_cases hw : (x.waiting || decide (x.step < x.steps)) = true
  · rw [if_pos hw, if_pos hw]
  · rw [if_neg hw, if_neg hw]
    unfold State.atSwitch
    by_cases hb : x.nonFinite + Config.trainNonFinite s.free = 0
    · refine (if_neg (not_not.mpr hb)).trans ?_
      rw [if_neg (not_not.mpr hb)]
      by_cases ho : ((s.at t).ownerOf c.spec.firstShard == some (s.at t).nodeId) = true
      · exact (if_pos ho).trans (congrArg Host.Outcome.next (if_pos ho).symm)
      · exact (if_neg ho).trans (congrArg Host.Outcome.next (if_neg ho).symm)
    · exact (if_pos hb).trans (congrArg Host.Outcome.next (if_pos hb).symm)

end

section
variable {s : State} {num t bad : Nat} {x : Run} {r : Req} {m : Model} {c : Coll} {io : HostIO} {stamps : List (Nat × Nat)}

/-- A model with its accumulator cleared and its version current from stamp `w` on. -/
def Model.switched (m : Model) (w : Nat) : Model := { m with accumulated := 0, version := w }

/-- What the end of a step leaves, from a state that differs in models and free values. -/
theorem StepDone.of_models {s z y : State} {q : Compl} (h : StepDone z y r q x m) (hz : z = { s with models := z.models }) : StepDone s y r q x m where
  done := h.done.of_eq (by rw [hz]) (by rw [hz])
  gone := h.gone
  model hst := by rw [h.model hst, hz]; rfl
  counter i := by rw [h.counter i, hz]; rfl

/-- The switch ends the step, and the updated copies are current (R372, R373). -/
theorem State.switchStep_done (hx : s.run? num = some x) (hr : r.num = num) (hm : s.model? x.coll x.model = some m) (hio : HostTakes io) (w : Nat) :
    ∃ q, StepDone s (s.switchStep r x m io w) r q x (m.switched w) ∧ q.status = stOk ∧ q.value = w ∧ q.value2 = le r.entry 56 4 := by
  subst hr
  have hclear : (s.clearStep m).model? x.coll x.model = some { m with accumulated := 0 } :=
    State.modModel_found hm (f := fun m => { m with accumulated := 0 }) fun _ => ⟨rfl, rfl⟩
  have hswitched : ((s.clearStep m).modModel m.coll m.id fun m => { m with version := w }).model? x.coll x.model = some (m.switched w) :=
    State.modModel_found hclear (f := fun m => { m with version := w }) fun _ => ⟨rfl, rfl⟩
  have hdone := State.finishTrain_done (s := (s.clearStep m).modModel m.coll m.id fun m => { m with version := w }) (State.run?_num hx)
    hx rfl rfl hswitched hio m.accumulated 0 1 w
  exact ⟨_, hdone.of_models rfl, rfl, rfl, rfl⟩

/-- Values that are not finite leave the version and the counters as they were (R373). -/
theorem State.clearStep_done (hx : s.run? num = some x) (hr : r.num = num) (hm : s.model? x.coll x.model = some m) (hio : HostTakes io) (bad : Nat) :
    ∃ q, StepDone s ((s.clearStep m).finishTrain r x 0 bad 0 0 io) r q x (m.switched m.version) ∧ q.status = stOk ∧ q.value = 0 ∧
      q.value2 = le r.entry 56 4 := by
  subst hr
  have hclear : (s.clearStep m).model? x.coll x.model = some (m.switched m.version) :=
    State.modModel_found hm (f := fun m => { m with accumulated := 0 }) fun _ => ⟨rfl, rfl⟩
  have hdone := State.finishTrain_done (s := s.clearStep m) (State.run?_num hx) hx rfl rfl hclear hio 0 bad 0 0
  exact ⟨_, hdone.of_models rfl, rfl, rfl, rfl⟩

/-- The switch in its turn at the ledger arbiter takes the shard's next stamp (R287, R372). -/
theorem State.atSwitch_turn (hx : s.run? num = some x) (hr : r.num = num) (hm : s.model? x.coll x.model = some m) (hio : HostTakes io)
    {y : State} (hy : LeftLedgers s y) (i : Nat) :
    ∃ q w, CompletedWith s ((y.takeSwitch i).2.switchStep r x m io (y.takeSwitch i).1) r q ∧ q.status = stOk ∧ q.value2 = le r.entry 56 4 ∧
      ((y.takeSwitch i).2.switchStep r x m io (y.takeSwitch i).1).run? num = none ∧
      (m.st ≠ .absent → ((y.takeSwitch i).2.switchStep r x m io (y.takeSwitch i).1).model? x.coll x.model =
        some ((m.switched w).afterRun num s.now)) ∧
      ∀ d, s.shard? i = some d → w = d.counter + 1 ∧ q.value = d.counter + 1 ∧
        (((y.takeSwitch i).2.switchStep r x m io (y.takeSwitch i).1).shard? i).map (·.counter) = some (d.counter + 1) := by
  have hframe : (y.takeSwitch i).2 = { y with shards := (y.takeSwitch i).2.shards, tier := (y.takeSwitch i).2.tier } := rfl
  have hzx : (y.takeSwitch i).2.run? num = some x := by rw [hframe, hy.frame]; exact hx
  have hzm : (y.takeSwitch i).2.model? x.coll x.model = some m := by rw [hframe, hy.frame]; exact hm
  have hnow : (y.takeSwitch i).2.now = s.now := by rw [hframe, hy.frame]; rfl
  obtain ⟨q, hdone, hq, hqv, hq2⟩ := State.switchStep_done hzx hr hzm hio (y.takeSwitch i).1
  refine ⟨q, (y.takeSwitch i).1, hdone.done.of_eq (by rw [hframe, hy.frame]) (by rw [hframe, hy.frame]), hq, hq2, hr ▸ hdone.gone,
    fun hst => ?_, fun d hd => ?_⟩
  · rw [← hnow, ← hr]
    exact hdone.model hst
  · obtain ⟨e, he, hed⟩ := hy.shard? hd
    have hc : e.noWait.counter = d.noWait.counter := by rw [hed]
    change e.counter = d.counter at hc
    obtain ⟨hw, -, hsh, -⟩ := State.takeSwitch_spec he
    exact ⟨hw.trans (by rw [hc]), hqv.trans (hw.trans (by rw [hc])), by rw [hdone.counter, hsh, ← hc]; rfl⟩

/-- What a switch leaves once it is not held back (R371 to R373). -/
theorem State.atSwitch_done (hx : s.run? num = some x) (hr : r.num = num) (hm : s.model? x.coll x.model = some m) (hst : m.st = .ready)
    (htr : m.trainer = some num) (hio : HostTakes io)
    (hturn : bad = 0 → s.ownerOf c.spec.firstShard = some s.nodeId → LedgerTurn s [c.spec.firstShard] (.pass (.req ⟨s.nodeId, num⟩))) :
    let y := s.atSwitch num bad x r m c stamps io
    ∃ n q, CompletedWith s y r q ∧ q.status = stOk ∧ q.value2 = le r.entry 56 4 ∧ y.model? x.coll x.model = some n ∧ n.accumulated = 0 ∧
      n.trainer = none ∧ y.run? num = none ∧
      (bad = 0 → s.ownerOf c.spec.firstShard = some s.nodeId → ∀ d, s.shard? c.spec.firstShard = some d →
        n.version = d.counter + 1 ∧ q.value = d.counter + 1 ∧ (y.shard? c.spec.firstShard).map (·.counter) = some (d.counter + 1)) ∧
      (bad = 0 → s.ownerOf c.spec.firstShard ≠ some s.nodeId → ∀ v, stamps.find? (·.1 == c.spec.firstShard) = some (c.spec.firstShard, v) →
        n.version = v ∧ q.value = v) ∧
      (bad ≠ 0 → n.version = m.version ∧ q.value = 0 ∧ ∀ j, (y.shard? j).map (·.counter) = (s.shard? j).map (·.counter)) := by
  have hpresent : ∀ w, (m.switched w).st ≠ .absent := fun w => by change m.st ≠ .absent; rw [hst]; exact fun h => nomatch h
  have htrainer : ∀ w now, ((m.switched w).afterRun num now).trainer = none := fun w now => if_pos htr
  dsimp only
  unfold State.atSwitch
  by_cases hb : bad = 0
  · rw [if_neg (not_not.mpr hb)]
    by_cases ho : s.ownerOf c.spec.firstShard = some s.nodeId
    · rw [if_pos (by simp [ho]), State.passLedgers_granted (hturn hb ho)]
      obtain ⟨q, w, hdone, hq, hq2, hgone, hmodel, hshard⟩ := State.atSwitch_turn hx hr hm hio
        (State.leaveLedgers_left s (.pass (.req ⟨s.nodeId, num⟩)) [c.spec.firstShard]) c.spec.firstShard
      exact ⟨_, q, hdone, hq, hq2, hmodel (hpresent w), rfl, htrainer .., hgone, fun _ _ d hd => hshard d hd, fun _ h => absurd ho h,
        fun h => absurd hb h⟩
    · rw [if_neg (by simp [ho])]
      obtain ⟨q, hdone, hq, hqv, hq2⟩ := State.switchStep_done hx hr hm hio (((stamps.find? (·.1 == c.spec.firstShard)).map (·.2)).getD 0)
      exact ⟨_, q, hdone.done, hq, hq2, hdone.model (hpresent _), rfl, hr ▸ htrainer .., hr ▸ hdone.gone, fun _ h => absurd h ho,
        fun _ _ v hv => ⟨by rw [hv]; rfl, by rw [hqv, hv]; rfl⟩, fun h => absurd hb h⟩
  · rw [if_pos hb]
    obtain ⟨q, hdone, hq, hqv, hq2⟩ := State.clearStep_done hx hr hm hio bad
    exact ⟨_, q, hdone.done, hq, hq2, hdone.model (hpresent _), rfl, hr ▸ htrainer .., hr ▸ hdone.gone, fun h => absurd h hb,
      fun h => absurd h hb, fun _ => ⟨rfl, hqv, hdone.counter⟩⟩

end

/-- The checks of a TRAIN-STEP whose fields are in range (R367, R368). -/
theorem stepChecks_hold {m : Model} {e inp : Bytes} (h24 : 16 * le e 56 4 ≤ inp.length) (h50 : byteAt e 50 < hdrEntries m.header)
    (h1 : 1 ≤ le e 56 4) (hn : le e 56 4 ≤ 65536) (h60 : ∃ v, fp32Value (le e 60 4) = some v ∧ 0 < v)
    (h64 : ∃ v, fp32Value (le e 64 4) = some v ∧ 0 ≤ v ∧ v < 2 ^ 149)
    (hadam : byteAt e 48 = 1 → (∃ v, fp32Value (le e 68 4) = some v ∧ 0 ≤ v ∧ v < 2 ^ 149) ∧ ∃ v, fp32Value (le e 72 4) = some v ∧ 0 < v)
    (h76 : ∃ v, fp32Value (le e 76 4) = some v ∧ 0 ≤ v) (h80 : ∃ v, fp32Value (le e 80 4) = some v ∧ 0 ≤ v) :
    ∀ x ∈ stepChecks m e inp, x.2 = true := by
  have range : ∀ o, (∃ v, fp32Value (le e o 4) = some v ∧ 0 ≤ v ∧ v < 2 ^ 149) →
      fp32InRange e o (fun v => decide (0 ≤ v) && decide (v < 2 ^ 149)) = true := fun o ⟨v, hv, h0, h1⟩ =>
    fp32InRange_of hv (by rw [decide_eq_true h0, decide_eq_true h1]; rfl)
  have pos : ∀ o, (∃ v, fp32Value (le e o 4) = some v ∧ 0 < v) → fp32InRange e o (fun v => decide (0 < v)) = true := fun o ⟨v, hv, h⟩ =>
    fp32InRange_of hv (decide_eq_true h)
  have nonneg : ∀ o, (∃ v, fp32Value (le e o 4) = some v ∧ 0 ≤ v) → fp32InRange e o (fun v => decide (0 ≤ v)) = true := fun o ⟨v, hv, h⟩ =>
    fp32InRange_of hv (decide_eq_true h)
  unfold stepChecks
  dsimp only
  simp only [List.forall_mem_cons, range 64 h64, pos 60 h60, nonneg 76 h76, nonneg 80 h80, h24, h50, h1, hn, decide_true, Bool.and_self,
    true_and]
  by_cases ha : byteAt e 48 = 1
  · simpa [ha, pos 72 (hadam ha).2] using range 68 (hadam ha).1
  · simp [ha]

/-- Settles O44, by the turn at the ledger arbiters, by what a step that has been taken in does next, and by its switch. -/
theorem training : Obligations.Training := by
  unfold Obligations.Training
  refine ⟨?_, ?_, ?_⟩
  · intro s num t t0 io stamps rs r c m e inp w hacc hrun he hc hm hinp h48 h49 h51 h1 hn h60 h64 hadam h76 h80 h24 h50 hrs hw ht0 hio
    subst he hw
    have hexec := execTrainStep_checked (t := t) hacc hrun hc hm hinp h48 h49 h51 (stepChecks_hold h24 h50 h1 hn h60 h64 hadam h76 h80) hrs
    refine ⟨fun hturn => ?_, fun hturn hseen hdeg => ⟨_, hexec, ?_⟩⟩
    · obtain ⟨hf, hb, hl⟩ := State.passLedgers_waitsAt (s := s.at t) hturn fun y => y.takeStep ⟨s.nodeId, num⟩ r.entry r c m inp stamps io
      exact ⟨_, hexec, hf, hb, hl⟩
    · rw [State.passLedgers_granted (s := s.at t) hturn]
      have hy := State.leaveLedgers_left (s.at t) (.pass (.req ⟨s.nodeId, num⟩)) (s.localShards c)
      exact ⟨fun hcan => State.takeStep_unsupported (s := s.at t) hy hrs hseen hdeg hio hcan _,
        fun hcan hq => State.takeStep_t0 (s := s.at t) hy hrs hseen hdeg ht0 hio hcan hq _,
        fun hcan hf ht => State.takeStep_begins (s := s.at t) hy hrs hseen hdeg ht0 hrun hacc.1 hm hcan hf ht⟩
  · intro s num t io x r m c hx hr hm hc htrain
    have hexec := execTrainStep_runs (t := t) (io := io) hx hr hm htrain
    refine ⟨fun hw htr hwait hwin => ?_, fun hw htr htn => ?_, fun hw ho hstep hst hdeg hdone hpart hserv hio => ⟨_, hexec, ?_⟩⟩
    · obtain ⟨z, hmodel, hrun, hzw, hprior, hout, hshards⟩ :=
        State.takeTrainer_starts (s := s.at t) (io := io) hx hr hm hc hw hwin
      rw [if_pos (by simp [Model.trainerFree, hw, htr, hwait])] at hexec
      exact ⟨_, z, hexec, hmodel, hrun, hzw, hprior, hout, hshards⟩
    · rw [hexec, if_neg (by simp [Model.trainerFree, htr]), if_neg (by simp [htn]), State.goOn_eq (s := s.at t) hx hr hm hc,
        if_pos (by simp [hw])]
    · rw [if_neg (by simp [Model.trainerFree, hw]), if_neg (by simp [hw]),
        State.goOn_stage (s := s.at t) hx hr hm hc hw ho hstep hdeg, State.runStage_compute (s := s.at t) hst hdone hpart]
      obtain ⟨hseg, hlay, hpass⟩ := State.computeUnit_trains (s := s.at t) (c := c) hx hr hm htrain hserv hio
      refine ⟨hseg, hlay, fun hle hlast => ⟨(hpass hle hlast).1, fun h1 bad total hbad htotal => ?_⟩⟩
      subst hbad htotal
      obtain rfl := State.run?_num hx
      have hp := (hpass hle hlast).2 h1
      exact ⟨hp.applies, hp.completes⟩
  · intro s num t bad i io stamps x r m c w hx hr hm hc htrain hw hbad hi
    subst hw hi
    have hexec := execTrainSwitch_eq (t := t) (io := io) (stamps := stamps) hx hr hm hc htrain hbad
    refine ⟨fun h => ?_, fun hwait hsteps hb ho hturn => ?_, fun hwait hsteps hst htr hturn hio => ?_⟩
    · rw [hexec, if_pos (by simpa using h)]
    · rw [if_neg (by simp [hwait, hsteps])] at hexec
      obtain ⟨hf, hbut, hl⟩ := State.passLedgers_waitsAt (s := { s.at t with free := s.free + 1 }) hturn fun s =>
        (s.takeSwitch c.spec.firstShard).2.switchStep r x m io (s.takeSwitch c.spec.firstShard).1
      refine ⟨_, hexec, ?_⟩
      unfold State.atSwitch
      rw [if_neg (not_not.mpr hb), if_pos]
      · exact ⟨hf, hbut, hl⟩
      · exact beq_iff_eq.mpr ho
    · rw [if_neg (by simp [hwait, hsteps])] at hexec
      obtain ⟨n, q, hdone⟩ := State.atSwitch_done (s := { s.at t with free := s.free + 1 }) (c := c) (stamps := stamps) hx (State.req?_num hr)
        hm hst htr hio hturn
      exact ⟨_, n, q, hexec, hdone⟩

end Sys2Proof.Machine
end

-- ==== Proofs: What cancellation leaves (O58) ====
section
/-! SUPPORT. What the cancellation of work leaves as it was: pins, mailboxes, queues, requests, regions, and what a function has but
for its charges (R54, R457). -/

namespace Sys2Proof.Machine

open Sys2Proof

/-! ### Functions -/

/-- `g` is `f` but for charges, refusals, its guest and handles that may have gone. -/
structure Fn.Kept (f g : Fn) : Prop where
  resetBusy : g.resetBusy = f.resetBusy
  ready : g.ready = f.ready
  resetAt : g.resetAt = f.resetAt
  vecs : g.vecs = f.vecs
  msixEnable : g.msixEnable = f.msixEnable
  rings : g.rings = f.rings
  evQueueError : g.evQueueError = f.evQueueError
  handles : f.handles = [] → g.handles = []

theorem Fn.Kept.refl (f : Fn) : Fn.Kept f f := ⟨rfl, rfl, rfl, rfl, rfl, rfl, rfl, id⟩

theorem Fn.Kept.trans {f g h : Fn} (a : Fn.Kept f g) (b : Fn.Kept g h) : Fn.Kept f h where
  resetBusy := b.resetBusy.trans a.resetBusy
  ready := b.ready.trans a.ready
  resetAt := b.resetAt.trans a.resetAt
  vecs := b.vecs.trans a.vecs
  msixEnable := b.msixEnable.trans a.msixEnable
  rings := b.rings.trans a.rings
  evQueueError := b.evQueueError.trans a.evQueueError
  handles h := b.handles (a.handles h)

theorem Fn.setUsed_kept (f : Fn) (k : QKind) (n : Nat) : Fn.Kept f (f.setUsed k n) := by
  cases k <;> exact ⟨rfl, rfl, rfl, rfl, rfl, rfl, rfl, id⟩

theorem Fn.release_kept (f : Fn) (k : QKind) (n : Nat) : Fn.Kept f (f.release k n) := Fn.setUsed_kept f k _

theorem Fn.charge_kept (f : Fn) (k : QKind) (n : Nat) : Fn.Kept f (f.charge k n) :=
  (Fn.setUsed_kept f k (f.used k + n)).trans ⟨rfl, rfl, rfl, rfl, rfl, rfl, rfl, id⟩

theorem Fn.refuse_kept (f : Fn) (kind : Nat) : Fn.Kept f (f.refuse kind) := by
  unfold Fn.refuse
  split
  · exact Fn.Kept.refl f
  · exact ⟨rfl, rfl, rfl, rfl, rfl, rfl, rfl, id⟩

/-! ### The state -/

/-- `x` is `s` after work has ended: pins, time, queues, requests, regions, mailboxes and ports are as before, and functions are kept.
-/
structure Away (s x : State) : Prop where
  pins : x.pins = s.pins
  now : x.now = s.now
  queues : x.queues = s.queues
  reqs : x.reqs = s.reqs
  regions : x.regions = s.regions
  mboxes : x.mboxes = s.mboxes
  ports : x.ports = s.ports
  filters : x.filters = s.filters
  fns : ∀ g, Fn.Kept (s.fn g) (x.fn g)
  len : x.fns.length = s.fns.length

theorem Away.refl (s : State) : Away s s := ⟨rfl, rfl, rfl, rfl, rfl, rfl, rfl, rfl, fun _ => Fn.Kept.refl _, rfl⟩

theorem Away.trans (s x y : State) (a : Away s x) (b : Away x y) : Away s y where
  pins := b.pins.trans a.pins
  now := b.now.trans a.now
  queues := b.queues.trans a.queues
  reqs := b.reqs.trans a.reqs
  regions := b.regions.trans a.regions
  mboxes := b.mboxes.trans a.mboxes
  ports := b.ports.trans a.ports
  filters := b.filters.trans a.filters
  fns g := (a.fns g).trans (b.fns g)
  len := b.len.trans a.len

theorem Away.foldl {α : Type} {f : State → α → State} (h : ∀ s a, Away s (f s a)) (l : List α) (s : State) : Away s (l.foldl f s) :=
  foldl_head_keeps Away.refl Away.trans h l s

/-- A change of none of these. -/
theorem Away.of_eq {s x : State} (hp : x.pins = s.pins := by rfl) (hn : x.ao.now = s.ao.now := by rfl) (hq : x.queues = s.queues := by rfl)
    (hr : x.reqs = s.reqs := by rfl) (hg : x.regions = s.regions := by rfl) (hm : x.mboxes = s.mboxes := by rfl)
    (ht : x.ports = s.ports := by rfl) (hf : x.filters = s.filters := by rfl) (hfn : x.fns = s.fns := by rfl) :
    Away s x where
  pins := hp
  now := hn
  queues := hq
  reqs := hr
  regions := hg
  mboxes := hm
  ports := ht
  filters := hf
  fns g := by unfold State.fn; rw [hfn]; exact Fn.Kept.refl _
  len := by rw [hfn]

theorem State.modFn_kept (s : State) (i : Nat) {f : Fn → Fn} (hf : ∀ x, Fn.Kept x (f x)) (g : Nat) : Fn.Kept (s.fn g) ((s.modFn i f).fn g) := by
  by_cases hg : g = i
  · subst hg
    by_cases hl : g < s.fns.length
    · rw [State.modFn_fn_same hl]; exact hf _
    · have : (s.modFn g f).fn g = s.fn g := by
        unfold State.fn State.modFn
        rw [List.getD_eq_getElem?_getD, List.getElem?_eq_none (by simpa using hl), List.getD_eq_getElem?_getD,
          List.getElem?_eq_none (by simpa using hl)]
      rw [this]; exact Fn.Kept.refl _
  · rw [State.modFn_fn_ne hg]; exact Fn.Kept.refl _

theorem State.modFn_away (s : State) (i : Nat) {f : Fn → Fn} (hf : ∀ x, Fn.Kept x (f x)) : Away s (s.modFn i f) :=
  ⟨rfl, rfl, rfl, rfl, rfl, rfl, rfl, rfl, State.modFn_kept s i hf, by simp [State.modFn]⟩

theorem State.release_away (s : State) (f : Nat) (k : QKind) (n : Nat) : Away s (s.release f k n) :=
  State.modFn_away s f fun x => Fn.release_kept x k n

theorem State.quotaRefuse_away (s : State) (f kind : Nat) : Away s (s.quotaRefuse f kind) := State.modFn_away s f fun x => Fn.refuse_kept x kind

theorem State.modModel_away (s : State) (a b : Nat) (f : Model → Model) : Away s (s.modModel a b f) :=
  Away.of_eq

theorem Sent.away {s x : State} (h : Sent s x) : Away s x := by
  rw [h.frame]; exact Away.of_eq

theorem GoesOn.away {s x : State} (h : GoesOn s x) : Away s x := by
  rw [h.frame]; exact Away.of_eq

theorem Aside.away {s x : State} (h : Aside s x) : Away s x := by
  rw [h.frame]; exact Away.of_eq

/-! ### Runs -/

theorem Fn.handles_kept (f : Fn) (p : (Nat × Nat × Nat × Nat) → Bool) : Fn.Kept f { f with handles := f.handles.filter p } :=
  ⟨rfl, rfl, rfl, rfl, rfl, rfl, rfl, fun h => by simp [h]⟩

theorem Fn.dropPart_kept (f : Fn) (h : Nat) : Fn.Kept f { f with handles := dropPart h f.handles } :=
  ⟨rfl, rfl, rfl, rfl, rfl, rfl, rfl, fun e => by simp [e, dropPart]⟩

theorem State.freeHandle_away (s : State) (f h : Nat) : Away s (s.freeHandle f h) :=
  Away.trans _ _ _ (State.release_away ..) (State.modFn_away _ f fun x => Fn.handles_kept x _)

theorem State.releaseModel_away (s : State) (m : Model) : Away s (s.releaseModel m) := by
  unfold State.releaseModel
  exact Away.trans _ _ _ (Away.trans _ _ _ (State.release_away ..) (Away.trans _ _ _ (State.release_away ..) (State.release_away ..)))
    (Away.foldl (f := fun s e => s.release e.2.2.2 .t1 e.2.2.1) (fun _ _ => State.release_away ..) m.expertCache _)

theorem State.reapModel_away (s : State) (a b : Nat) : Away s (s.reapModel a b) := by
  unfold State.reapModel
  split
  · exact Away.refl s
  · split
    · exact Away.refl s
    · exact Away.trans _ _ _ (State.releaseModel_away ..) (Away.of_eq)

theorem State.endRun_away (s : State) (num : Nat) : Away s (s.endRun num) := by
  unfold State.endRun
  split
  · exact Away.refl s
  · dsimp only
    refine Away.trans _ _ _ ?_ (State.reapModel_away ..)
    refine Away.trans _ _ _ ?_ (State.modModel_away ..)
    refine Away.trans _ _ _ ?_ (State.release_away ..)
    refine Away.trans _ _ _ ?_ (State.dropWork_aside ..).away
    exact Away.of_eq

theorem State.dropRun_away (s : State) (num : Nat) : Away s (s.dropRun num) := by
  unfold State.dropRun
  split
  · rename_i x r _ _
    dsimp only
    refine Away.trans _ _ _ ?_ (State.endRun_away ..)
    have handle : ∀ n, Away s (if x.handle = 0 then s else
        (s.release r.fn .t1 n).modFn r.fn fun f => { f with handles := dropPart x.handle f.handles }) := fun n => by
      split
      · exact Away.refl s
      · exact Away.trans _ _ _ (State.release_away ..) (State.modFn_away _ r.fn fun f => Fn.dropPart_kept f x.handle)
    split
    · exact Away.trans _ _ _ (handle _) (Away.of_eq)
    · exact handle _
  · exact State.endRun_away s num

theorem State.releaseMerge_away (s : State) (r : Req) : Away s (s.releaseMerge r) := by
  unfold State.releaseMerge
  have h := Away.trans _ _ _ (State.release_away s r.fn .t0 r.merge.t0) (Away.trans _ _ _ (State.release_away _ r.fn .t1 r.merge.t1)
    (State.release_away _ r.fn .t3 r.merge.t3))
  dsimp only
  split
  · exact Away.trans _ _ _ h (Away.of_eq)
  · exact h

/-! ### Shares and members (R54) -/

/-- `x` is `s` after shares and members have been let go: what has come in, and the scheduler, are as before, and no share is new. -/
structure Treated (s x : State) : Prop where
  away : Away s x
  sched : x.sched = s.sched
  inShares : x.eng.inShares = s.eng.inShares
  inMembers : x.eng.inMembers = s.eng.inMembers
  shares : ∀ h ∈ x.eng.shares, ∃ g ∈ s.eng.shares, g.msg = h.msg

theorem Treated.refl (s : State) : Treated s s := ⟨Away.refl s, rfl, rfl, rfl, fun h hh => ⟨h, hh, rfl⟩⟩

theorem Treated.trans (s x y : State) (a : Treated s x) (b : Treated x y) : Treated s y where
  away := Away.trans _ _ _ a.away b.away
  sched := b.sched.trans a.sched
  inShares := b.inShares.trans a.inShares
  inMembers := b.inMembers.trans a.inMembers
  shares h hh := by
    obtain ⟨g, hg, hgm⟩ := b.shares h hh
    obtain ⟨f, hf, hfm⟩ := a.shares g hg
    exact ⟨f, hf, hfm.trans hgm⟩

theorem Treated.foldl {α : Type} {f : State → α → State} (h : ∀ s a, Treated s (f s a)) (l : List α) (s : State) : Treated s (l.foldl f s) :=
  foldl_head_keeps Treated.refl Treated.trans h l s

/-- A change that engines and scheduler do not see. -/
theorem Treated.of_away {s x : State} (h : Away s x) (he : x.eng = s.eng) (hs : x.sched = s.sched) : Treated s x :=
  ⟨h, hs, by rw [he], by rw [he], fun g hg => ⟨g, by rwa [he] at hg, rfl⟩⟩

/-- A change of the engines that lets shares go at most. -/
theorem State.modEng_treated (s : State) {f : Engine → Engine} (h1 : (f s.eng).inShares = s.eng.inShares) (h2 : (f s.eng).inMembers = s.eng.inMembers)
    (h3 : ∀ h ∈ (f s.eng).shares, h ∈ s.eng.shares) : Treated s (s.modEng f) where
  away := Away.of_eq
  sched := rfl
  inShares := h1
  inMembers := h2
  shares h hh := ⟨h, h3 h hh, rfl⟩

theorem State.release_treated (s : State) (f : Nat) (k : QKind) (n : Nat) : Treated s (s.release f k n) :=
  Treated.of_away (State.release_away ..) rfl rfl

theorem State.modCsu_treated (s : State) (c : Nat) (f : Csu → Csu) : Treated s (s.modCsu c f) :=
  State.modEng_treated s rfl rfl fun _ h => h

theorem GoesOn.treated {s x : State} (h : GoesOn s x) : Treated s x where
  away := h.away
  sched := by rw [h.frame]
  inShares := by rw [h.frame]
  inMembers := by rw [h.frame]
  shares g hg := ⟨g, by rw [h.frame] at hg; exact hg, rfl⟩

theorem State.arbWithdraw_treated (s : State) (p : Work → Bool) : Treated s (s.arbWithdraw p) :=
  Treated.of_away Away.of_eq rfl rfl

theorem State.pairRelease_treated (s : State) (p : Nat × Nat) (k : QKind) (n : Nat) : Treated s (s.pairRelease p k n) := by
  unfold State.pairRelease
  dsimp only
  split
  · exact State.release_treated ..
  · refine Treated.trans _ _ _ (State.release_treated ..) (State.modEng_treated _ ?_ ?_ ?_)
    · cases k <;> rfl
    · cases k <;> rfl
    · cases k <;> exact fun _ h => h

theorem State.csuRequest_treated (s : State) (c : Nat) : Treated s (s.csuRequest c) := by
  unfold State.csuRequest
  dsimp only
  split
  · exact State.modCsu_treated ..
  · split
    · split
      · exact State.modCsu_treated ..
      · exact Treated.trans _ _ _ (State.modCsu_treated ..) (State.arbRequest_goesOn ..).treated
    · exact Treated.refl s

theorem State.resumeCsus_treated (s : State) : Treated s s.resumeCsus := by
  refine Treated.foldl (fun s c => ?_) (List.range 32) s
  split
  · exact State.csuRequest_treated ..
  · exact Treated.refl s

theorem State.freeSeat_treated (s : State) (coach : Nat) (k : Key) : Treated s (s.freeSeat coach k) := by
  unfold State.freeSeat
  split
  · exact Treated.refl s
  · exact Treated.trans _ _ _ (State.modEng_treated s rfl rfl fun _ h => h) (Treated.foldl (fun _ _ => State.pairRelease_treated ..) _ _)

theorem State.vacate_treated (s : State) (k : Key) (coach : Nat) : Treated s (s.vacate k coach) := by
  unfold State.vacate
  split
  · exact Treated.refl s
  · exact Treated.trans _ _ _ (State.freeSeat_treated ..) (State.modEng_treated _ rfl rfl fun _ h => h)

theorem State.leaveCoaches_treated (s : State) (k : Key) : Treated s (s.leaveCoaches k) := by
  refine Treated.foldl (fun s c => ?_) _ s
  split
  · exact State.modEng_treated s rfl rfl fun _ h => h
  · exact State.vacate_treated ..

theorem State.leaveBatches_treated (s : State) (f : L2Batch → L2Batch) : Treated s (s.leaveBatches f) := by
  unfold State.leaveBatches
  exact Treated.trans _ _ _ (State.arbWithdraw_treated ..) (State.modEng_treated _ rfl rfl fun _ h => h)

/-- The share of a key is gone, and nothing else is new. -/
theorem State.releaseRest_spec (s : State) (k : Key) : Treated s (s.releaseRest k) ∧ ∀ h ∈ (s.releaseRest k).eng.shares, h.msg.key ≠ k := by
  unfold State.releaseRest
  split
  · rename_i hk
    exact ⟨Treated.refl s, fun h hh => by simpa using List.find?_eq_none.mp hk h hh⟩
  · rename_i g _
    dsimp only
    generalize hz : State.modEng _ _ = z
    have hsz : Treated s z := by
      subst hz
      refine Treated.trans _ _ _ ?_ (State.modEng_treated _ rfl rfl fun _ h => (List.mem_filter.mp h).1)
      refine Treated.trans _ _ _ ?_ (State.leaveBatches_treated ..)
      exact Treated.of_away Away.of_eq rfl rfl
    have hgone : ∀ h ∈ z.eng.shares, h.msg.key ≠ k := by
      subst hz
      intro h hh
      simpa using (List.mem_filter.mp hh).2
    have rest : ∀ y, Treated z y → Treated s y ∧ ∀ h ∈ y.eng.shares, h.msg.key ≠ k := fun y hy =>
      ⟨Treated.trans _ _ _ hsz hy, fun h hh => by
        obtain ⟨f, hf, hfm⟩ := hy.shares h hh
        exact hfm ▸ hgone f hf⟩
    refine rest _ (Treated.trans _ _ _ ?_ (State.resumeCsus_treated _))
    have pairs := Treated.trans _ _ _ (State.pairRelease_treated z (pairOf g.msg) .t0 g.t0) (Treated.trans _ _ _
      (State.pairRelease_treated _ (pairOf g.msg) .t1 g.t1) (State.pairRelease_treated _ (pairOf g.msg) .t3 g.t3))
    split
    · exact Treated.trans _ _ _ pairs (Treated.of_away Away.of_eq rfl rfl)
    · exact pairs

theorem State.releaseShare_spec (s : State) (k : Key) : Treated s (s.releaseShare k) ∧ ∀ h ∈ (s.releaseShare k).eng.shares, h.msg.key ≠ k := by
  unfold State.releaseShare
  split
  · rename_i hk
    exact ⟨Treated.refl s, fun h hh => by simpa using List.find?_eq_none.mp hk h hh⟩
  · obtain ⟨ht, hgone⟩ := State.releaseRest_spec (s.leaveCoaches k) k
    exact ⟨Treated.trans _ _ _ (State.leaveCoaches_treated ..) ht, hgone⟩

theorem State.dropMember_treated (s : State) (k : Key) (i : Nat) : Treated s (s.dropMember k i) := by
  unfold State.dropMember
  split
  · exact Treated.refl s
  · dsimp only
    refine Treated.trans _ _ _ ?_ (State.modEng_treated _ rfl rfl fun _ h => h)
    generalize hz : State.release (State.release s _ _ _) _ _ _ = z
    have hsz : Treated s z := hz ▸ Treated.trans _ _ _ (State.release_treated ..) (State.release_treated ..)
    exact Treated.trans _ _ _ hsz (Treated.of_away Away.of_eq rfl rfl)

theorem State.withdrawMember_treated (s : State) (k : Key) (i : Nat) : Treated s (s.withdrawMember k i) := by
  unfold State.withdrawMember
  split
  · exact Treated.refl s
  · rename_i w _
    split
    · exact Treated.refl s
    · exact Treated.trans _ _ _ (State.dropMember_treated s k i) (State.flushReady_letGoOn_goesOn ..).treated

/-- What cancellation leaves (R54): no share that it reaches, and of what has come in and of the schedulers what it does not reach. -/
structure Cancelled (s x : State) (hit : Key → Nat → Bool) : Prop where
  away : Away s x
  inShares : x.eng.inShares = s.eng.inShares.filter fun m => !hit m.key m.function
  inMembers : x.eng.inMembers = s.eng.inMembers.filter fun m => !hit m.key m.function
  reserved : x.sched.reserved = s.sched.reserved.filter fun z => !tagHits hit z.tag
  shares : ∀ h ∈ x.eng.shares, hit h.msg.key h.msg.function = false

theorem State.releaseShares_spec (l : List Share) (s : State) : Treated s (l.foldl (fun s h => s.releaseShare h.msg.key) s) ∧
    ∀ g ∈ l, ∀ h ∈ (l.foldl (fun s h => s.releaseShare h.msg.key) s).eng.shares, h.msg.key ≠ g.msg.key :=
  ⟨Treated.foldl (fun s h => (State.releaseShare_spec s h.msg.key).1) l s,
    foldl_brings Treated.refl Treated.trans (fun s h => (State.releaseShare_spec s h.msg.key).1) s
      (P := fun (g : Share) y => ∀ h ∈ y.eng.shares, h.msg.key ≠ g.msg.key) (fun z g _ => (State.releaseShare_spec z g.msg.key).2)
      (fun y z g hyz hP h hh => by
        obtain ⟨f, hf, hfm⟩ := hyz.shares h hh
        exact hfm ▸ hP f hf) l s (Treated.refl s)⟩

theorem State.cancelWork_cancelled (s : State) (hit : Key → Nat → Bool) : Cancelled s (s.cancelWork hit) hit := by
  unfold State.cancelWork
  dsimp only
  obtain ⟨h1, hgone⟩ := State.releaseShares_spec (s.eng.shares.filter fun h => hit h.msg.key h.msg.function) s
  generalize List.foldl (fun (s : State) (h : Share) => s.releaseShare h.msg.key) s _ = a at h1 hgone
  have h2 : Treated a ((s.eng.members.filter fun m => hit m.msg.key m.msg.function).foldl
      (fun (s : State) (m : MWork) => s.withdrawMember m.msg.key m.msg.index) a) :=
    Treated.foldl (fun s (m : MWork) => State.withdrawMember_treated s m.msg.key m.msg.index) _ a
  generalize List.foldl (fun (s : State) (m : MWork) => s.withdrawMember m.msg.key m.msg.index) a _ = b at h2
  generalize hd : State.arbWithdraw b _ = d
  have h3 : Treated a d := Treated.trans _ _ _ h2 (hd ▸ State.arbWithdraw_treated ..)
  have hs := Treated.trans _ _ _ h1 h3
  generalize he : State.modSched (State.modEng d _) _ = e
  have h4 := State.resumeCsus_treated e
  have hde : Away d e := he ▸ Away.of_eq
  refine ⟨Away.trans _ _ _ hs.away (Away.trans _ _ _ hde h4.away), ?_, ?_, ?_, fun h hh => ?_⟩
  · rw [h4.inShares, ← he, ← hs.inShares]; rfl
  · rw [h4.inMembers, ← he, ← hs.inMembers]; rfl
  · rw [h4.sched, ← he, ← hs.sched]; rfl
  · obtain ⟨g, hg, hgm⟩ := h4.shares h hh
    have hgd : g ∈ d.eng.shares := by rw [← he] at hg; exact hg
    obtain ⟨f, hf, hfm⟩ := h3.shares g hgd
    obtain ⟨f₀, hf₀, hf₀m⟩ := h1.shares f hf
    have hmsg : f₀.msg = h.msg := hf₀m.trans (hfm.trans hgm)
    by_contra hhit
    have hmem : f₀ ∈ s.eng.shares.filter fun h => hit h.msg.key h.msg.function :=
      List.mem_filter.mpr ⟨hf₀, by rw [hmsg]; simpa using hhit⟩
    exact hgone f₀ hmem f hf (by rw [hf₀m])

theorem cancelFilterReceive_spec (s : State) (f : CancelFilter) (t : Nat) :
    ∃ x, exec (.cancelFilterReceive f t) s = .next x ∧ ((s.at t).now, f) ∈ x.filters ∧
      (∀ h ∈ x.eng.shares, filterHits f h.msg.key h.msg.function = false) ∧
      x.eng.inShares = s.eng.inShares.filter (fun m => !filterHits f m.key m.function) ∧
      x.eng.inMembers = s.eng.inMembers.filter (fun m => !filterHits f m.key m.function) ∧
      x.sched.reserved = s.sched.reserved.filter (fun z => !tagHits (filterHits f) z.tag) ∧
      FrameTo x f.origin (.filterConfirm f) ∧ x.queues = s.queues ∧ x.ports = (s.at t).ports := by
  have hexec : exec (.cancelFilterReceive f t) s = execCancelFilterReceive f t s := rfl
  unfold execCancelFilterReceive at hexec
  dsimp only at hexec
  generalize hkeep : (s.at t).filters.filter _ = keep at hexec
  have hc := State.cancelWork_cancelled { s.at t with filters := keep ++ [((s.at t).now, f)] } (filterHits f)
  generalize hy : State.cancelWork _ _ = y at hexec hc
  generalize ({ y.fwTag 0x11 f.first f.origin 0xFFFFFF false with function := f.function, originNode := f.origin } : Tag) = tag at hexec
  have hsent := State.produce_sent y f.origin tag (reservedQueue tag) (.filterConfirm f)
  have haway := hsent.away
  refine ⟨_, hexec, ?_, ?_, ?_, ?_, ?_, State.produce_frameTo .., haway.queues.trans hc.away.queues, haway.ports.trans hc.away.ports⟩
  · rw [haway.filters, hc.away.filters]
    simp
  · rw [State.produce_eng]
    exact hc.shares
  · rw [State.produce_eng]
    exact hc.inShares
  · rw [State.produce_eng]
    exact hc.inMembers
  · rw [hsent.frame]
    exact hc.reserved

end Sys2Proof.Machine
end

-- ==== Proofs: Function resets (O58) ====
section
/-! SUPPORT. The reset steps of a function, the resets of several, and what starts and ends them (R457 to R462). -/

namespace Sys2Proof.Machine

open Sys2Proof

/-! ### The reset steps of a function (R457) -/

/-- A change of arbiters. -/
theorem Away.of_arbs {s x : State} (h : x.noArbs = s.noArbs) : Away s x := by
  rw [State.eq_of_noArbs h]
  exact Away.of_eq

/-- The mailbox registers after a reset (R108). -/
def Mbox.resetTo (m : Mbox) (ended : Bool) : Mbox := { discarded := ended, req := m.req, resp := m.resp }

theorem Away.withRegions {s x : State} (h : Away s x) (p : Region → Bool) (l : List Model) :
    Away { s with regions := s.regions.filter p } { x with regions := x.regions.filter p, models := l } where
  pins := h.pins
  now := h.now
  queues := h.queues
  reqs := h.reqs
  regions := congrArg (List.filter p) h.regions
  mboxes := h.mboxes
  ports := h.ports
  filters := h.filters
  fns := h.fns
  len := h.len

theorem Away.withReqs {s x : State} (h : Away s x) (p : Req → Bool) (l : List Model) (k : List PimRun) :
    Away { s with reqs := s.reqs.filter p } { x with reqs := x.reqs.filter p, models := l, pimRuns := k } where
  pins := h.pins
  now := h.now
  queues := h.queues
  reqs := congrArg (List.filter p) h.reqs
  regions := h.regions
  mboxes := h.mboxes
  ports := h.ports
  filters := h.filters
  fns := h.fns
  len := h.len

/-- The inactive image slot is emptied (R108). -/
theorem State.emptySlot_away (s : State) (p : Bool) :
    Away s (if p then s.modAo fun a => if a.activeB then { a with slotA := ⟨0, []⟩ } else { a with slotBImg := ⟨0, []⟩ } else s) := by
  cases p with
  | false => exact Away.refl s
  | true =>
    refine Away.of_eq (hn := ?_)
    cases h : s.ao.activeB <;> simp [State.modAo, h]

theorem State.resetMailbox_away (s : State) (f : Nat) : ∃ y, Away s y ∧
    s.resetMailbox f = y.modMbox f (·.resetTo ((s.mbox f).st == .posted || (s.mbox f).st == .busy)) := by
  unfold State.resetMailbox
  extract_lets ended a stops b goes unreported c
  have hsa : Away s a := Away.of_arbs (by simp [a])
  have hab : Away a b := State.emptySlot_away a _
  clear_value b a
  exact ⟨c, Away.trans _ _ _ hsa (Away.trans _ _ _ hab Away.of_eq), rfl⟩

theorem State.cancelRequests_away (s : State) (f : Nat) :
    Away { s with reqs := s.reqs.filter (·.fn != f) } (s.cancelRequests f) := by
  unfold State.cancelRequests
  extract_lets rs w nums peers far a b c d mine e g h tag i
  have hsa : Away s a := Away.foldl State.dropRun_away _ s
  clear_value a
  have hab : Away a b := Away.foldl State.releaseMerge_away _ a
  clear_value b
  have hbd : Away b d := Away.of_arbs (by simp [c, d])
  clear_value d
  have hsd := Away.trans _ _ _ hsa (Away.trans _ _ _ hab hbd)
  have hse : Away { s with reqs := s.reqs.filter (·.fn != f) } e := hsd.withReqs _ _ _
  clear_value e
  have heg : Away e g := (State.cancelWork_cancelled e (filterHits w)).away
  clear_value g
  have hgh : Away g h := Away.of_eq
  clear_value h
  have hhi : Away h i := Away.foldl (fun s n => (State.produce_sent ..).away) peers h
  clear_value i
  exact Away.trans _ _ _ hse (Away.trans _ _ _ heg (Away.trans _ _ _ hgh (Away.trans _ _ _ hhi
    (State.modFn_away i f fun x => ⟨rfl, rfl, rfl, rfl, rfl, rfl, rfl, id⟩))))

theorem State.dropQueues_away (s : State) (f : Nat) : Away { s with queues := s.queues.filter (·.fn != f) } (s.dropQueues f) := Away.of_eq

theorem State.freeFunction_away (s : State) (f : Nat) : Away { s with regions := s.regions.filter (·.fn != f) } (s.freeFunction f) := by
  unfold State.freeFunction
  extract_lets a b c cached kept d
  have hsd : Away s d := Away.trans _ _ _ (Away.foldl (fun s h => State.freeHandle_away s f h) _ s)
    (Away.trans _ _ _ (State.release_away a ..) (Away.trans _ _ _ (State.release_away b ..) (State.release_away c ..)))
  clear_value d
  exact hsd.withRegions _ _

theorem State.stopGuest_away (s : State) (f : Nat) : Away s (s.stopGuest f) := by
  unfold State.stopGuest
  dsimp only
  refine Away.trans _ _ _ ?_ (State.modFn_away _ f fun x => ⟨rfl, rfl, rfl, rfl, rfl, rfl, rfl, id⟩)
  split
  · exact State.release_away ..
  · exact Away.refl s

theorem State.needUnit_away (s : State) (u : UnitId) : Away s (s.needUnit u) := by
  rw [State.needUnit_frame]
  exact Away.of_eq

theorem State.bootGuest_away (s : State) (f : Nat) : Away s (s.bootGuest f) := by
  have fault : ∀ z : State, Away z (z.modFn f fun x => { x with guestState := 4 }) := fun z =>
    State.modFn_away z f fun x => ⟨rfl, rfl, rfl, rfl, rfl, rfl, rfl, id⟩
  unfold State.bootGuest
  dsimp only
  split
  · exact Away.refl s
  · split
    · exact fault s
    · split
      · exact Away.trans _ _ _ (State.quotaRefuse_away ..) (fault _)
      · have wake : Away s ((s.fn f).cores.foldl (fun s c => s.needUnit (.core c)) s) :=
          Away.foldl (fun s c => State.needUnit_away s (.core c)) _ s
        refine Away.trans _ _ _ wake (Away.trans _ _ _ (State.modFn_away _ f fun x => ?_) Away.of_eq)
        exact (Fn.charge_kept x .t1 x.guestBytes).trans ⟨rfl, rfl, rfl, rfl, rfl, rfl, rfl, id⟩

/-- A function that its reset has passed through (R457 steps 1 to 6). -/
structure Fn.Reset (g : Fn) (now : Nat) : Prop where
  resetBusy : g.resetBusy = true
  ready : g.ready = false
  resetAt : g.resetAt = now
  vecs : g.vecs = List.replicate 64 {}
  msixEnable : g.msixEnable = false
  rings : g.rings = []
  handles : g.handles = []
  evQueueError : g.evQueueError = false

theorem Fn.Reset.kept {g h : Fn} {now : Nat} (r : Fn.Reset g now) (k : Fn.Kept g h) : Fn.Reset h now where
  resetBusy := k.resetBusy.trans r.resetBusy
  ready := k.ready.trans r.ready
  resetAt := k.resetAt.trans r.resetAt
  vecs := k.vecs.trans r.vecs
  msixEnable := k.msixEnable.trans r.msixEnable
  rings := k.rings.trans r.rings
  handles := k.handles r.handles
  evQueueError := k.evQueueError.trans r.evQueueError

/-- What the reset steps of function `f` leave (R457). -/
structure ResetOf (s x : State) (f : Nat) : Prop where
  pins : x.pins = s.pins
  now : x.now = s.now
  queues : x.queues = s.queues.filter (·.fn != f)
  reqs : x.reqs = s.reqs.filter (·.fn != f)
  regions : x.regions = s.regions.filter (·.fn != f)
  mbox : f < s.mboxes.length → x.mbox f = (s.mbox f).resetTo ((s.mbox f).st == .posted || (s.mbox f).st == .busy)
  mboxNe : ∀ g, g ≠ f → x.mbox g = s.mbox g
  mboxLen : x.mboxes.length = s.mboxes.length
  fn : f < s.fns.length → Fn.Reset (x.fn f) s.now
  fnNe : ∀ g, g ≠ f → Fn.Kept (s.fn g) (x.fn g)
  fnLen : x.fns.length = s.fns.length

theorem State.mbox_congr {s x : State} (h : x.mboxes = s.mboxes) (g : Nat) : x.mbox g = s.mbox g := by unfold State.mbox; rw [h]

/-- A reset begins: the function is busy with it (R457 step 1). -/
def Fn.beginReset (f : Fn) (now : Nat) : Fn := { f with ready := false, resetBusy := true, resetAt := now }

/-- The function's own state after its reset (R457 steps 4 and 6). -/
def Fn.endReset (f : Fn) (now : Nat) : Fn := { f.cleared with filledTo := now, ceilingTo := now }

theorem State.resetFunction_eq {s : State} {f : Nat} (hb : (s.fn f).resetBusy = false) : s.resetFunction f =
    let g := (((((s.modFn f (·.beginReset s.now)).resetMailbox f).cancelRequests f).dropQueues f).freeFunction f).stopGuest f
    (g.modFn f (·.endReset g.now)).bootGuest f := by
  unfold State.resetFunction
  rw [hb]
  rfl

theorem State.resetFunction_busy {s : State} {f : Nat} (hb : (s.fn f).resetBusy = true) : s.resetFunction f = s := by
  unfold State.resetFunction
  rw [hb]
  rfl

theorem State.resetFunction_resetOf {s : State} {f : Nat} (hb : (s.fn f).resetBusy = false) : ResetOf s (s.resetFunction f) f := by
  rw [State.resetFunction_eq hb]
  dsimp only
  obtain ⟨y, hy, hmail⟩ := (s.modFn f (·.beginReset s.now)).resetMailbox_away f
  rw [hmail]
  clear hmail
  generalize ha : y.modMbox f _ = a
  have hab := a.cancelRequests_away f
  generalize a.cancelRequests f = b at hab
  have hbc := b.dropQueues_away f
  generalize b.dropQueues f = c at hbc
  have hcd := Away.trans _ _ _ (c.freeFunction_away f) (State.stopGuest_away _ f)
  generalize (c.freeFunction f).stopGuest f = d at hcd
  have hx := (d.modFn f (·.endReset d.now)).bootGuest_away f
  generalize (d.modFn f (·.endReset d.now)).bootGuest f = x at hx
  have hmb : x.mboxes = a.mboxes := hx.mboxes.trans (hcd.mboxes.trans (hbc.mboxes.trans hab.mboxes))
  have hkept : ∀ g, Fn.Kept ((s.modFn f (·.beginReset s.now)).fn g) (d.fn g) := fun g => by
    have hya : a.fn g = y.fn g := by rw [← ha]; rfl
    exact ((hy.fns g).trans (hya ▸ Fn.Kept.refl _)).trans ((hab.fns g).trans ((hbc.fns g).trans (hcd.fns g)))
  have hlen : d.fns.length = s.fns.length := by
    refine hcd.len.trans (hbc.len.trans (hab.len.trans ?_))
    rw [← ha]
    exact hy.len.trans (by simp [State.modFn])
  have hnow : d.now = s.now := by
    refine hcd.now.trans (hbc.now.trans (hab.now.trans ?_))
    rw [← ha]
    exact hy.now
  refine ⟨?_, hx.now.trans hnow, ?_, ?_, ?_, fun hf => ?_, fun g hg => ?_, ?_, fun hf => ?_, fun g hg => ?_, ?_⟩
  · refine hx.pins.trans (hcd.pins.trans (hbc.pins.trans (hab.pins.trans ?_)))
    rw [← ha]
    exact hy.pins
  · refine hx.queues.trans (hcd.queues.trans (hbc.queues.trans (congrArg (List.filter _) (hab.queues.trans ?_))))
    rw [← ha]
    exact hy.queues
  · refine hx.reqs.trans (hcd.reqs.trans (hbc.reqs.trans (hab.reqs.trans (congrArg (List.filter _) ?_))))
    rw [← ha]
    exact hy.reqs
  · refine hx.regions.trans (hcd.regions.trans (congrArg (List.filter _) (hbc.regions.trans (hab.regions.trans ?_))))
    rw [← ha]
    exact hy.regions
  · rw [State.mbox_congr hmb, ← ha, State.modMbox_mbox_same (by rw [hy.mboxes]; exact hf), State.mbox_congr hy.mboxes]
    rfl
  · rw [State.mbox_congr hmb, ← ha, State.modMbox_mbox_ne hg, State.mbox_congr hy.mboxes]
    rfl
  · rw [hmb, ← ha]
    simp [State.modMbox, hy.mboxes]
  · refine Fn.Reset.kept ?_ (hx.fns f)
    have hk := hkept f
    rw [State.modFn_fn_same hf] at hk
    rw [State.modFn_fn_same (by rw [hlen]; exact hf)]
    exact ⟨hk.resetBusy, hk.ready, hk.resetAt, rfl, rfl, rfl, rfl, rfl⟩
  · have hk := hkept g
    rw [State.modFn_fn_ne hg] at hk
    have hxg := hx.fns g
    rw [State.modFn_fn_ne hg] at hxg
    exact hk.trans hxg
  · rw [hx.len]
    simp [State.modFn, hlen]

/-! ### The event log (R584) -/

/-- The log with one more entry, of which it keeps the last 2,048. -/
def Ao.logWith (a : Ao) (cls code : Nat) (detail : Bytes) : List LogEntry :=
  let l := a.log ++ [(⟨a.now, a.nextEntry, cls, code, slice detail 0 16⟩ : LogEntry)]
  l.drop (l.length - 2048)

theorem Ao.mem_logWith (a : Ao) (cls code : Nat) (detail : Bytes) :
    (⟨a.now, a.nextEntry, cls, code, slice detail 0 16⟩ : LogEntry) ∈ a.logWith cls code detail := by
  unfold Ao.logWith
  dsimp only
  rw [List.drop_append_of_le_length (by simp)]
  simp

/-- The state with this log, and with ALERT_N low where the event is selected. -/
def State.putLog (s : State) (l : List LogEntry) (alert : Bool) : State :=
  let x := s.modAo fun a => { a with log := l, nextEntry := a.nextEntry + 1 }
  if alert then x.modPins fun p => { p with alertN := false } else x

theorem State.putLog_onlyLogged (s : State) (l : List LogEntry) (alert : Bool) : OnlyLogged s (s.putLog l alert) := by
  unfold OnlyLogged
  cases alert with
  | false => rfl
  | true => rfl

theorem State.putLog_log (s : State) (l : List LogEntry) (alert : Bool) : (s.putLog l alert).ao.log = l ∧ (s.putLog l alert).ao.now = s.ao.now := by
  cases alert with
  | false => exact ⟨rfl, rfl⟩
  | true => exact ⟨rfl, rfl⟩

theorem State.log_eq (s : State) (cls code : Nat) (detail : Bytes) :
    ∃ alert, s.log cls code detail = s.putLog (s.ao.logWith cls code detail) alert := ⟨_, rfl⟩

theorem State.log_onlyLogged (s : State) (cls code : Nat) (detail : Bytes) : OnlyLogged s (s.log cls code detail) := by
  obtain ⟨alert, h⟩ := s.log_eq cls code detail
  rw [h]
  exact State.putLog_onlyLogged ..

theorem State.log_logged (s : State) (cls code : Nat) (detail : Bytes) : Logged (s.log cls code detail) cls code detail := by
  obtain ⟨alert, h⟩ := s.log_eq cls code detail
  obtain ⟨hl, hn⟩ := s.putLog_log (s.ao.logWith cls code detail) alert
  unfold Logged
  rw [h, hl, hn]
  exact ⟨s.ao.nextEntry, s.ao.mem_logWith cls code detail⟩

theorem OnlyLogged.away {s x : State} (h : OnlyLogged s x) (hp : x.pins = s.pins) : Away s x := by
  rw [h]
  rw [h] at hp
  exact Away.of_eq (hp := hp)

/-! ### Resets of several functions (R457, R460) -/

/-- After resets: what was busy with a reset is kept, and what has become busy is at rest, with no queue and no request. -/
structure Resets (s x : State) : Prop where
  pins : x.pins = s.pins
  now : x.now = s.now
  queues : ∀ u ∈ x.queues, u ∈ s.queues
  reqs : ∀ r ∈ x.reqs, r ∈ s.reqs
  regions : ∀ g ∈ x.regions, g ∈ s.regions
  fnLen : x.fns.length = s.fns.length
  busy : ∀ g, (s.fn g).resetBusy = true → Fn.Kept (s.fn g) (x.fn g) ∧ x.mbox g = s.mbox g
  begun : ∀ g, (s.fn g).resetBusy = false → (x.fn g).resetBusy = true →
    (x.fn g).ready = false ∧ (∀ u ∈ x.queues, u.fn ≠ g) ∧ ∀ r ∈ x.reqs, r.fn ≠ g

theorem Resets.refl (s : State) : Resets s s :=
  ⟨rfl, rfl, fun _ h => h, fun _ h => h, fun _ h => h, rfl, fun _ _ => ⟨Fn.Kept.refl _, rfl⟩,
    fun _ h k => absurd (h.symm.trans k) Bool.false_ne_true⟩

theorem Resets.trans (s x y : State) (a : Resets s x) (b : Resets x y) : Resets s y where
  pins := b.pins.trans a.pins
  now := b.now.trans a.now
  queues u hu := a.queues u (b.queues u hu)
  reqs r hr := a.reqs r (b.reqs r hr)
  regions g hg := a.regions g (b.regions g hg)
  fnLen := b.fnLen.trans a.fnLen
  busy g hg := by
    obtain ⟨hk, hm⟩ := a.busy g hg
    obtain ⟨hk', hm'⟩ := b.busy g (hk.resetBusy.trans hg)
    exact ⟨hk.trans hk', hm'.trans hm⟩
  begun g hg hy := by
    cases hx : (x.fn g).resetBusy with
    | false => exact b.begun g hx hy
    | true =>
      obtain ⟨hr, hq, hreq⟩ := a.begun g hg hx
      exact ⟨(b.busy g hx).1.ready.trans hr, fun u hu => hq u (b.queues u hu), fun r hr => hreq r (b.reqs r hr)⟩

theorem ResetOf.resets {s x : State} {f : Nat} (h : ResetOf s x f) (hb : (s.fn f).resetBusy = false) : Resets s x where
  pins := h.pins
  now := h.now
  queues u hu := by rw [h.queues] at hu; exact (List.mem_filter.mp hu).1
  reqs r hr := by rw [h.reqs] at hr; exact (List.mem_filter.mp hr).1
  regions g hg := by rw [h.regions] at hg; exact (List.mem_filter.mp hg).1
  fnLen := h.fnLen
  busy g hg := by
    have hgf : g ≠ f := fun e => by rw [e, hb] at hg; exact Bool.false_ne_true hg
    exact ⟨h.fnNe g hgf, h.mboxNe g hgf⟩
  begun g hg hx := by
    by_cases hgf : g = f
    · subst hgf
      by_cases hl : g < s.fns.length
      · exact ⟨(h.fn hl).ready, fun u hu => by rw [h.queues] at hu; simpa using (List.mem_filter.mp hu).2,
          fun r hr => by rw [h.reqs] at hr; simpa using (List.mem_filter.mp hr).2⟩
      · have : x.fn g = s.fn g := by
          unfold State.fn
          rw [List.getD_eq_default _ _ (by rw [h.fnLen]; omega), List.getD_eq_default _ _ (by omega)]
        rw [this, hg] at hx
        exact absurd hx Bool.false_ne_true
    · rw [(h.fnNe g hgf).resetBusy, hg] at hx
      exact absurd hx Bool.false_ne_true

theorem State.resetFunction_resets (s : State) (f : Nat) : Resets s (s.resetFunction f) := by
  cases hb : (s.fn f).resetBusy with
  | true => rw [State.resetFunction_busy hb]; exact Resets.refl s
  | false => exact (State.resetFunction_resetOf hb).resets hb

theorem State.resetFunction_isBusy {s : State} {f : Nat} (hf : f < s.fns.length) : ((s.resetFunction f).fn f).resetBusy = true := by
  cases hb : (s.fn f).resetBusy with
  | true => rw [State.resetFunction_busy hb]; exact hb
  | false => exact ((State.resetFunction_resetOf hb).fn hf).resetBusy

/-- Every function of a list is busy with its reset after their resets. -/
theorem State.resetFunctions_busy (s : State) (l : List Nat) :
    ∀ f ∈ l, f < s.fns.length → ((l.foldl (fun s f => s.resetFunction f) s).fn f).resetBusy = true :=
  foldl_brings Resets.refl Resets.trans State.resetFunction_resets s
    (P := fun f (x : State) => f < s.fns.length → (x.fn f).resetBusy = true)
    (fun y f hy hf => State.resetFunction_isBusy (by rw [hy.fnLen]; exact hf))
    (fun y z f hyz hP hf => (hyz.busy f (hP hf)).1.resetBusy.trans (hP hf)) l s (Resets.refl s)

theorem State.clearVfs_resets (s : State) : ∃ y, Resets s y ∧ s.clearVfs = (y.modPins fun p => { p with vfEnable := false }) ∧
    ∀ f ∈ s.vfs, f < s.fns.length → (y.fn f).resetBusy = true :=
  ⟨_, foldl_head_keeps Resets.refl Resets.trans State.resetFunction_resets s.vfs s, rfl, State.resetFunctions_busy s s.vfs⟩

/-! ### What starts and ends a reset (R79, R437, R457 to R462) -/

section
variable {s x : State} (h : OnlyLogged s x)
include h

theorem OnlyLogged.fns_eq : x.fns = s.fns := by rw [h]
theorem OnlyLogged.mboxes_eq : x.mboxes = s.mboxes := by rw [h]
theorem OnlyLogged.queues_eq : x.queues = s.queues := by rw [h]
theorem OnlyLogged.pins_eq : x.pins = { s.pins with alertN := x.pins.alertN } := by
  have := congrArg State.pins h
  exact this
theorem OnlyLogged.now_eq : x.now = s.now := by
  have := congrArg State.now h
  exact this
theorem OnlyLogged.fn_eq (g : Nat) : x.fn g = s.fn g := by unfold State.fn; rw [h.fns_eq]
theorem OnlyLogged.mbox_eq (g : Nat) : x.mbox g = s.mbox g := by unfold State.mbox; rw [h.mboxes_eq]

end

theorem execInitiateFunctionLevelReset_exists {s : State} {fn t : Nat} {vfReset : Bool} (he : s.fnExists fn = true) :
    ∃ y, OnlyLogged (s.at t) y ∧ Logged y 0 0x21 (toLE 2 fn ++ toLE 1 (b2n (vfReset && fn != 0))) ∧
      exec (.initiateFunctionLevelReset fn vfReset t) s = .next (if fn = 0 then (y.resetFunction 0).clearVfs else y.resetFunction fn) := by
  have hexec : exec (.initiateFunctionLevelReset fn vfReset t) s = execInitiateFunctionLevelReset fn vfReset t s := rfl
  have he' : (s.at t).fnExists fn = true := he
  refine ⟨_, State.log_onlyLogged (s.at t) 0 0x21 (toLE 2 fn ++ toLE 1 (b2n (vfReset && fn != 0))), State.log_logged .., ?_⟩
  rw [hexec]
  exact if_neg (by simp [he'])

/-- The reset of a function that is not busy with one (R457 to R460). -/
theorem initiateFunctionLevelReset_resets {s : State} {fn t : Nat} {vfReset : Bool} (he : s.fnExists fn = true) (hf : fn < s.fns.length)
    (hm : fn < s.mboxes.length) (hb : (s.fn fn).resetBusy = false) :
    ∃ x, exec (.initiateFunctionLevelReset fn vfReset t) s = .next x ∧ Fn.Reset (x.fn fn) (s.at t).now ∧
      x.mbox fn = (s.mbox fn).resetTo ((s.mbox fn).st == .posted || (s.mbox fn).st == .busy) ∧
      (∀ u ∈ x.queues, u.fn ≠ fn) ∧ (∀ r ∈ x.reqs, r.fn ≠ fn) ∧ (∀ g ∈ x.regions, g.fn ≠ fn) ∧ (fn = 0 → x.pins.vfEnable = false) ∧
      (fn ≠ 0 → x.pins = { s.pins with alertN := x.pins.alertN } ∧ x.queues = s.queues.filter (·.fn != fn) ∧
        ∀ g, g ≠ fn → Fn.Kept (s.fn g) (x.fn g)) := by
  obtain ⟨y, hy, -, hexec⟩ := execInitiateFunctionLevelReset_exists (t := t) (vfReset := vfReset) he
  have hyf : ∀ g, y.fn g = s.fn g := fun g => hy.fn_eq g
  have hr := State.resetFunction_resetOf (s := y) (f := fn) (by rw [hyf]; exact hb)
  have hfn : Fn.Reset ((y.resetFunction fn).fn fn) (s.at t).now := hy.now_eq ▸ hr.fn (by rw [hy.fns_eq]; exact hf)
  have hmb := hr.mbox (by rw [hy.mboxes_eq]; exact hm)
  rw [hy.mbox_eq] at hmb
  have hq : ∀ u ∈ (y.resetFunction fn).queues, u.fn ≠ fn := fun u hu => by rw [hr.queues] at hu; simpa using (List.mem_filter.mp hu).2
  have hreq : ∀ r ∈ (y.resetFunction fn).reqs, r.fn ≠ fn := fun r hu => by rw [hr.reqs] at hu; simpa using (List.mem_filter.mp hu).2
  have hreg : ∀ g ∈ (y.resetFunction fn).regions, g.fn ≠ fn := fun g hu => by rw [hr.regions] at hu; simpa using (List.mem_filter.mp hu).2
  by_cases h0 : fn = 0
  · subst h0
    rw [if_pos rfl] at hexec
    obtain ⟨z, hz, hclear, -⟩ := (y.resetFunction 0).clearVfs_resets
    rw [hclear] at hexec
    obtain ⟨hk, hzm⟩ := hz.busy 0 hfn.resetBusy
    exact ⟨_, hexec, hfn.kept hk, hzm.trans hmb, fun u hu => hq u (hz.queues u hu), fun r hu => hreq r (hz.reqs r hu),
      fun g hu => hreg g (hz.regions g hu), fun _ => rfl, fun h => absurd rfl h⟩
  · rw [if_neg h0] at hexec
    refine ⟨_, hexec, hfn, hmb, hq, hreq, hreg, fun h => absurd h h0, fun _ => ⟨?_, ?_, fun g hg => hyf g ▸ hr.fnNe g hg⟩⟩
    · rw [hr.pins]; exact hy.pins_eq
    · rw [hr.queues, hy.queues_eq]; rfl

theorem vfEnableClear_spec (s : State) (t : Nat) :
    (s.pins.vfEnable = true →
      ∃ x, exec (.vfEnableClear t) s = .next x ∧ x.pins.vfEnable = false ∧
        ∀ f, 0 < f → f ≤ s.pins.numVfs → f < 128 → f < s.fns.length → (x.fn f).resetBusy = true ∧
          ((s.fn f).resetBusy = false → (x.fn f).ready = false ∧ (∀ u ∈ x.queues, u.fn ≠ f) ∧ ∀ r ∈ x.reqs, r.fn ≠ f)) ∧
    (s.pins.vfEnable = false → exec (.vfEnableClear t) s = .next (s.at t)) := by
  have hexec : exec (.vfEnableClear t) s =
      .next (if s.pins.vfEnable then ((s.at t).logFunctionReset 0xFFFF 2).clearVfs else s.at t) := rfl
  refine ⟨fun hv => ?_, fun hv => by rw [hexec, if_neg (by simp [hv])]⟩
  rw [if_pos hv] at hexec
  have hy : OnlyLogged (s.at t) ((s.at t).logFunctionReset 0xFFFF 2) := State.log_onlyLogged ..
  generalize (s.at t).logFunctionReset 0xFFFF 2 = y at hexec hy
  obtain ⟨z, hz, hclear, hbusy⟩ := y.clearVfs_resets
  rw [hclear] at hexec
  refine ⟨_, hexec, rfl, fun f h0 hn h128 hf => ?_⟩
  have hvfs : f ∈ y.vfs := by
    unfold State.vfs
    rw [hy.pins_eq]
    simp [hv, h0, hn, h128]
  have hzb : (z.fn f).resetBusy = true := hbusy f hvfs (by rw [hy.fns_eq]; exact hf)
  exact ⟨hzb, fun hb => hz.begun f (by rw [hy.fn_eq]; exact hb) hzb⟩

/-- Functions that become ready. -/
def Fn.wake (f : Fn) : Fn := if f.resetBusy then f else { f with ready := true }

theorem State.wakeFn_same {s : State} {a f : Nat} (h : f ≠ a ∨ (s.fn f).resetBusy = true) : (s.modFn a Fn.wake).fn f = s.fn f := by
  by_cases hfa : f = a
  · subst hfa
    by_cases hl : f < s.fns.length
    · rw [State.modFn_fn_same hl]
      exact if_pos (h.resolve_left (· rfl))
    · unfold State.fn State.modFn
      rw [List.getD_eq_default _ _ (by simpa using hl), List.getD_eq_default _ _ (by simpa using hl)]
  · exact State.modFn_fn_ne hfa _

theorem State.wakeFns_spec : ∀ (l : List Nat) (s : State), l.Nodup →
    (l.foldl (fun s f => s.modFn f Fn.wake) s = { s with fns := (l.foldl (fun s f => s.modFn f Fn.wake) s).fns }) ∧
    (∀ f ∈ l, f < s.fns.length → (l.foldl (fun s f => s.modFn f Fn.wake) s).fn f = (s.fn f).wake) ∧
    ∀ f, f ∉ l ∨ (s.fn f).resetBusy = true → (l.foldl (fun s f => s.modFn f Fn.wake) s).fn f = s.fn f
  | [], _, _ => ⟨rfl, fun _ h => absurd h List.not_mem_nil, fun _ _ => rfl⟩
  | a :: l, s, hn => by
    obtain ⟨ha, hl⟩ := List.nodup_cons.mp hn
    obtain ⟨hframe, hin, hout⟩ := State.wakeFns_spec l (s.modFn a Fn.wake) hl
    rw [List.foldl_cons]
    refine ⟨by rw [hframe]; rfl, fun f hf hlen => ?_, fun f hf => ?_⟩
    · rcases List.mem_cons.mp hf with rfl | hfl
      · rw [hout f (.inl ha), State.modFn_fn_same hlen]
      · have hfa : f ≠ a := by rintro rfl; exact ha hfl
        rw [hin f hfl (by simpa [State.modFn] using hlen), State.modFn_fn_ne hfa]
    · have hsame : (s.modFn a Fn.wake).fn f = s.fn f :=
        State.wakeFn_same (hf.imp_left fun h e => h (by rw [e]; exact List.mem_cons_self))
      rw [hout f (by rw [hsame]; exact hf.imp_left fun h e => h (List.mem_cons_of_mem a e)), hsame]

theorem vfEnableSet_spec (s : State) (numVfs t : Nat) :
    (s.pins.vfEnable = false →
      ∃ x, exec (.vfEnableSet numVfs t) s = .next x ∧
        x = { s.at t with pins := { s.pins with vfEnable := true, numVfs := numVfs }, fns := x.fns } ∧
        (s.ao.stage ≠ .serving → x.fns = s.fns) ∧
        ∀ f, (s.ao.stage = .serving → 0 < f → f ≤ numVfs → f < 128 → f < s.fns.length → (s.fn f).resetBusy = false →
            x.fn f = { s.fn f with ready := true }) ∧
          (f = 0 ∨ numVfs < f ∨ (s.fn f).resetBusy = true → x.fn f = s.fn f)) ∧
    (s.pins.vfEnable = true → exec (.vfEnableSet numVfs t) s = .next (s.at t)) := by
  have hexec : exec (.vfEnableSet numVfs t) s = execVfEnableSet numVfs t s := rfl
  unfold execVfEnableSet at hexec
  refine ⟨fun hv => ?_, fun hv => hexec.trans (if_pos hv)⟩
  replace hexec := hexec.trans (if_neg (by simp [hv]))
  generalize hz : (s.at t).modPins (fun p => { p with vfEnable := true, numVfs := numVfs }) = z at hexec
  have hzf : z = { s.at t with pins := { s.pins with vfEnable := true, numVfs := numVfs } } := by rw [← hz]; rfl
  by_cases hs : s.ao.stage = .serving
  · have hexec' : exec (.vfEnableSet numVfs t) s = .next (z.vfs.foldl (fun s f => s.modFn f Fn.wake) z) :=
      hexec.trans (congrArg Host.Outcome.next (if_neg (by rw [hzf]; simp [State.at, hs])))
    have hvfs : z.vfs = (List.range 128).filter fun f => decide (0 < f) && decide (f ≤ numVfs) := by rw [hzf]; rfl
    obtain ⟨hframe, hin, hout⟩ := State.wakeFns_spec z.vfs z (by rw [hvfs]; exact List.nodup_range.filter _)
    have hzfn : ∀ f, z.fn f = s.fn f := fun f => by rw [hzf]; rfl
    refine ⟨_, hexec', by rw [hframe, hzf], fun h => absurd hs h, fun f => ⟨fun _ h0 hn h128 hlen hb => ?_, fun h => ?_⟩⟩
    · rw [hin f (by rw [hvfs]; simp [h0, hn, h128]) (by rw [hzf]; exact hlen), hzfn]
      exact if_neg (by simp [hb])
    · have hcase : f ∉ z.vfs ∨ (z.fn f).resetBusy = true := by
        rw [hvfs, hzfn]
        rcases h with h | h | h
        · exact .inl (by simp [h])
        · exact .inl (by simp [Nat.not_le.mpr h])
        · exact .inr h
      rw [hout f hcase, hzfn]
  · replace hexec := hexec.trans (congrArg Host.Outcome.next (if_pos (by rw [hzf]; simpa [State.at] using hs)))
    exact ⟨z, hexec, by rw [hzf], fun _ => by rw [hzf]; rfl, fun f => ⟨fun h => absurd h hs, fun _ => by rw [hzf]; rfl⟩⟩

/-- A function that is not there is at rest. -/
theorem State.fn_lt_of_busy {s : State} {f : Nat} (h : (s.fn f).resetBusy = true) : f < s.fns.length := by
  by_contra hl
  have hd : s.fn f = {} := by
    unfold State.fn
    rw [List.getD_eq_default _ _ (by omega)]
  rw [hd] at h
  exact Bool.false_ne_true h

/-- A function whose reset is over (R457 step 7). -/
def Fn.reborn (f : Fn) (up : Bool) : Fn := { f with resetBusy := false, ready := up }

theorem functionResetComplete_spec {s : State} {fn t : Nat} (hb : (s.fn fn).resetBusy = true) :
    (s.functionBusy fn = false →
      ∃ x, exec (.functionResetComplete fn t) s = .next x ∧
        x = { s.at t with fns := x.fns, pins := { s.pins with crs := x.pins.crs } } ∧
        x.fn fn = { s.fn fn with resetBusy := false, ready := s.fnExists fn && s.ao.stage == .serving } ∧
        (∀ g, g ≠ fn → x.fn g = s.fn g) ∧ ((∀ f ∈ x.fns, f.resetBusy = false) → x.pins.crs = false) ∧
        ((∃ f ∈ x.fns, f.resetBusy = true) → x.pins.crs = s.pins.crs)) ∧
    (s.functionBusy fn = true → exec (.functionResetComplete fn t) s = .next (s.at t)) := by
  have hexec : exec (.functionResetComplete fn t) s = if !(s.fn fn).resetBusy || s.functionBusy fn then .next (s.at t)
      else .next (if ((s.at t).modFn fn (·.reborn (s.fnExists fn && s.ao.stage == .serving))).fns.any (·.resetBusy)
        then (s.at t).modFn fn (·.reborn (s.fnExists fn && s.ao.stage == .serving))
        else ((s.at t).modFn fn (·.reborn (s.fnExists fn && s.ao.stage == .serving))).modPins fun p => { p with crs := false }) := rfl
  refine ⟨fun hn => ?_, fun hn => by rw [hexec, if_pos (by simp [hn])]⟩
  rw [if_neg (by simp [hn, hb])] at hexec
  generalize hz : (s.at t).modFn fn (·.reborn (s.fnExists fn && s.ao.stage == .serving)) = z at hexec
  have hfn : z.fn fn = (s.fn fn).reborn (s.fnExists fn && s.ao.stage == .serving) := by
    rw [← hz]
    exact State.modFn_fn_same (s := s.at t) (State.fn_lt_of_busy hb) _
  have hne : ∀ g, g ≠ fn → z.fn g = s.fn g := fun g hg => by
    rw [← hz, State.modFn_fn_ne hg]
    rfl
  have hframe : z = { s.at t with fns := z.fns } := by rw [← hz]; rfl
  by_cases hany : z.fns.any (·.resetBusy) = true
  · rw [if_pos hany] at hexec
    refine ⟨z, hexec, by rw [hframe]; rfl, hfn, hne, fun h => ?_, fun _ => by rw [hframe]; rfl⟩
    obtain ⟨f, hf, hfb⟩ := List.any_eq_true.mp hany
    rw [h f hf] at hfb
    exact absurd hfb Bool.false_ne_true
  · rw [if_neg hany] at hexec
    refine ⟨_, hexec, ?_, hfn, hne, fun _ => rfl, fun ⟨f, hf, hfb⟩ => absurd (List.any_eq_true.mpr ⟨f, hf, hfb⟩) hany⟩
    rw [hframe]
    rfl

theorem guestFault_spec (s : State) (fn : Nat) :
    ((s.fn fn).guestState = 2 →
      ∃ x, exec (.guestFault fn) s = .next x ∧ x = { s with fns := x.fns } ∧ x.fn fn = { s.fn fn with guestState := 3 } ∧
        ∀ g, g ≠ fn → x.fn g = s.fn g) ∧
    ((s.fn fn).guestState ≠ 2 → exec (.guestFault fn) s = .next s) := by
  have hexec : exec (.guestFault fn) s =
      .next (if (s.fn fn).guestState = 2 then s.modFn fn fun x => { x with guestState := 3 } else s) := rfl
  refine ⟨fun hg => ?_, fun hg => by rw [hexec, if_neg hg]⟩
  rw [if_pos hg] at hexec
  have hl : fn < s.fns.length := by
    by_contra hl
    have hd : s.fn fn = {} := by
      unfold State.fn
      rw [List.getD_eq_default _ _ (by omega)]
    rw [hd] at hg
    exact absurd hg (by decide)
  exact ⟨_, hexec, rfl, State.modFn_fn_same hl _, fun g hne => State.modFn_fn_ne hne _⟩

/-- Settles O58: each clause by the lemma on the reset, the filter or the guest that it speaks of. -/
theorem functionResets : Obligations.FunctionResets := by
  unfold Obligations.FunctionResets
  refine ⟨fun s fn t vfReset he => ⟨fun hf hm hb => ?_, fun h0 hb => ?_⟩, fun s fn t vfReset he => ?_, fun s t => vfEnableClear_spec s t,
    fun s numVfs t => vfEnableSet_spec s numVfs t, fun s fn t hb => functionResetComplete_spec hb,
    fun s f t => cancelFilterReceive_spec s f t, fun s t => rfl, fun s fn => guestFault_spec s fn⟩
  · obtain ⟨x, hexec, hr, hmb, hq, hreq, hreg, hzero, hne⟩ := initiateFunctionLevelReset_resets (t := t) (vfReset := vfReset) he hf hm hb
    exact ⟨x, hexec, hr.resetBusy, hr.ready, hr.resetAt, hr.vecs, hr.msixEnable, hr.rings, hr.handles, hr.evQueueError, hmb, hq, hreq, hreg,
      hzero, fun h => ⟨(hne h).1, (hne h).2.1, fun g hg => ⟨((hne h).2.2 g hg).resetBusy, ((hne h).2.2 g hg).ready, ((hne h).2.2 g hg).vecs⟩⟩⟩
  · obtain ⟨y, hy, hlog, hexec⟩ := execInitiateFunctionLevelReset_exists (t := t) (vfReset := vfReset) he
    rw [if_neg h0, State.resetFunction_busy (by rw [hy.fn_eq]; exact hb)] at hexec
    have hcause : (vfReset && fn != 0) = vfReset := by simp [h0]
    rw [hcause] at hlog
    exact ⟨y, hexec, hlog, hy⟩
  · exact if_pos (show (!(s.at t).fnExists fn) = true by simp [he])

end Sys2Proof.Machine
end

-- ==== Proofs: A core fails under a function past the 128th (O54) ====
section
/-! A hard fault of a core stops the guest that runs on it, and looks for it among functions 0 to 127 (R436, R465, R564). O54 asks for
the stop of every guest whose function the state's list has, with no bound of 128 on that list. -/

namespace Sys2Proof.Machine

open Sys2Proof

theorem State.arbRequest_fns (s : State) (id requester : Nat) (background rebuild : Bool) (w : Work) :
    (s.arbRequest id requester background rebuild w).fns = s.fns := by
  unfold State.arbRequest State.modArb
  split <;> rfl

theorem State.recover_fns_of_not_running {s : State} {e : Element}
    (h : ∀ r ∈ s.spares.recoveries, r.domain = domainOf e → r.running = false) : (s.recover e).fns = s.fns := by
  unfold State.recover
  cases hr : s.spares.recoveries.find? (·.domain == domainOf e) with
  | none => dsimp only; rw [hr]; exact State.arbRequest_fns ..
  | some r =>
    have hrun := h r (List.mem_of_find?_eq_some hr) (by simpa using List.find?_some hr)
    dsimp only
    rw [hr]
    simp only [hrun, Bool.false_eq_true, if_false, State.modSpares_fns]

theorem State.coreLost_of_no_function {s : State} {e : Element} {p : Nat} (hp : s.corePlace e.domain = some p)
    (h : ∀ f < 128, p ∉ (s.fn f).cores) : s.coreLost e = s := by
  unfold State.coreLost
  have hnone : ((List.range 128).find? fun f => (s.corePlace e.domain).any fun p => (s.fn f).cores.contains p) = none := by
    simpa [List.find?_eq_none, hp] using h
  rw [hnone]

/-- Where no function below 128 has the core, its fault leaves every function as it is. -/
theorem State.hardTrigger_fns_of_core {s : State} {e : Element} {p : Nat} (hk : e.kind = 4) (hp : s.corePlace e.domain = some p)
    (h : ∀ f < 128, p ∉ (s.fn f).cores) (hr : ∀ r ∈ s.spares.recoveries, r.domain = domainOf e → r.running = false) :
    (s.hardTrigger e).fns = s.fns := by
  have ha : arrayOf e = none := by simp [arrayOf, coarseArray, csuArray, hk]
  unfold State.hardTrigger
  simp only [ha, hk, if_true]
  have hlog : OnlyLogged s (s.logElement 1 e 0) := State.log_onlyLogged ..
  generalize s.logElement 1 e 0 = y at hlog
  have hspares : y.spares = s.spares := by rw [hlog]
  have hplace : y.corePlace e.domain = some p := by unfold State.corePlace; rw [hspares]; exact hp
  have hcores : ∀ f < 128, p ∉ (y.fn f).cores := fun f hf => by rw [hlog.fn_eq]; exact h f hf
  rw [State.coreLost_of_no_function hplace hcores, State.recover_fns_of_not_running (by rw [hspares]; exact hr), hlog.fns_eq]

theorem exec_hardFault_of_built {s : State} {e : Element} {t : Nat} (ha : (s.at t).alive = true) (hb : (s.at t).elementBuilt e = true) :
    exec (.hardFault e t) s = .next ((s.at t).hardTrigger e) := by
  change execHardFault e t s = _
  unfold execHardFault
  simp only [ha, hb, Bool.and_self, if_true]

/-! ### A state that refutes O54 -/

/-- A node that serves, with a 129th function whose guest runs on core 0. -/
def guestPastLast : State :=
  { State.reset with ao := { stage := .serving }, fns := List.replicate 128 {} ++ [{ cores := [0], guestState := 2 }] }

/-- Core 0 is in service. -/
theorem guestPastLast_built : guestPastLast.elementBuilt ⟨4, 0, 0⟩ = true := by decide

theorem guestPastLast_fn_last : guestPastLast.fn 128 = { cores := [0], guestState := 2 } := rfl

theorem guestPastLast_fn_below {f : Nat} (h : f < 128) : guestPastLast.fn f = {} := by
  unfold State.fn guestPastLast
  rw [List.getD_append _ _ _ _ (by simpa using h)]
  exact List.getD_replicate _ h

/-- Refutes O54: the fault of core 0 does not stop the guest that a 129th function runs on it. The state is none that `Shaped` allows
(R436): the clause on a core's guest lacks the bound `f < 128`. -/
theorem not_faultsAndSpares : ¬ Obligations.FaultsAndSpares := by
  unfold Obligations.FaultsAndSpares
  rintro ⟨-, -, -, -, -, -, -, -, hfault, -⟩
  obtain ⟨-, -, hcore, -⟩ := hfault guestPastLast ⟨4, 0, 0⟩ 0 rfl guestPastLast_built
  have halone : ∀ g < 128, 0 ∉ (guestPastLast.fn g).cores := fun g hg => by simp [guestPastLast_fn_below hg]
  have hquiet : ∀ r ∈ guestPastLast.spares.recoveries, r.domain = domainOf ⟨4, 0, 0⟩ → r.running = false := fun r hr => by cases hr
  obtain ⟨x, hx, hstopped⟩ := hcore 0 128 rfl rfl (by simp [guestPastLast_fn_last]) (by simp [guestPastLast])
    (fun g hg hmem => by
      have hlen : guestPastLast.fns.length = 129 := by simp [guestPastLast]
      by_contra hne
      exact halone g (by omega) hmem)
    (by simp [guestPastLast_fn_last]) hquiet
  have hfns := State.hardTrigger_fns_of_core (s := guestPastLast.at 0) (e := ⟨4, 0, 0⟩) rfl rfl halone hquiet
  have hstep : exec (.hardFault ⟨4, 0, 0⟩ 0) guestPastLast = .next ((guestPastLast.at 0).hardTrigger ⟨4, 0, 0⟩) :=
    exec_hardFault_of_built rfl guestPastLast_built
  rw [hstep] at hx
  cases hx
  unfold State.fn at hstopped
  rw [hfns] at hstopped
  exact absurd hstopped (by decide)

end Sys2Proof.Machine
end

-- ==== Proofs: The parts of a state that the invariant speaks of (O5) ====
section
/-! PROOFS (O5). The invariant asks for five parts of a state: the function, mailbox and port files, the regions and the
operand buffers. Nearly every operation leaves these as they are, or changes a member of a file and not its length; its rule then
reads `Sound (s.op …) ↔ Sound s`. The rules are simp lemmas, one for each operation of the model in the model's order, and an
operation's rule is closed by the rules of the operations it calls. Only what writes a RAM, answers a mailbox or starts a file
afresh has a rule in one direction. -/

namespace Sys2Proof.Machine

open Sys2Proof

/-- The invariant over the parts of a state that it speaks of. -/
def SoundParts (fns : List Fn) (mboxes : List Mbox) (ports : List Port) (regions : List Region)
    (bufs : List ((Nat × Nat) × Mem)) : Prop :=
  (fns.length = 128 ∧ mboxes.length = 129 ∧ ports.length = 8) ∧
  (∀ m ∈ mboxes, m.req.wf = true ∧ m.resp.wf = true) ∧ (∀ g ∈ regions, g.mem.wf = true) ∧ ∀ b ∈ bufs, b.2.wf = true

@[simp] theorem soundParts_state (s : State) :
    SoundParts s.fns s.mboxes s.ports s.regions s.operandBufs ↔ Sound s := Iff.rfl

/-- A record written out in full: the invariant asks for five of its fields and ignores the rest. -/
@[simp] theorem sound_mk {pending ao pins pwr cfg fns mboxes tails activePair queues sched arbs arbSelect arbRequester
    arbWaitTotal arbWaitMax reqs nextNum nextOrder heldNums filters unsent colls nextColl shards lists eng models runs regions
    operandBufs pimRuns nextHandle tier pools nextPool ports portSelect peers spares out free} :
    Sound (State.mk pending ao pins pwr cfg fns mboxes tails activePair queues sched arbs arbSelect arbRequester arbWaitTotal
      arbWaitMax reqs nextNum nextOrder heldNums filters unsent colls nextColl shards lists eng models runs regions operandBufs
      pimRuns nextHandle tier pools nextPool ports portSelect peers spares out free) ↔
    SoundParts fns mboxes ports regions operandBufs := Iff.rfl

/-- `simp` does not go into the state that the invariant is about: the rules below rewrite the whole claim. -/
@[congr] theorem Sound.congr_self {s : State} : Sound s = Sound s := rfl

@[congr] theorem SoundParts.congr_self {a b c d e} : SoundParts a b c d e = SoundParts a b c d e := rfl

@[simp] theorem soundParts_modify {fs : List Fn} {i f a b c d} :
    SoundParts (fs.modify i f) a b c d ↔ SoundParts fs a b c d := by
  simp [SoundParts]

@[simp] theorem soundParts_map {fs : List Fn} {f : Fn → Fn} {a b c d} :
    SoundParts (fs.map f) a b c d ↔ SoundParts fs a b c d := by
  simp [SoundParts]

@[simp] theorem soundParts_map_zipIdx {fs : List Fn} {f : Fn × Nat → Fn} {a b c d} :
    SoundParts (fs.zipIdx.map f) a b c d ↔ SoundParts fs a b c d := by
  simp [SoundParts]

@[simp] theorem soundParts_map_ports {fs : List Port} {f : Port → Port} {a b c d} :
    SoundParts a b (fs.map f) c d ↔ SoundParts a b fs c d := by
  simp [SoundParts]

@[simp] theorem soundParts_mapIdx_ports {fs : List Port} {f : Nat → Port → Port} {a b c d} :
    SoundParts a b (fs.mapIdx f) c d ↔ SoundParts a b fs c d := by
  simp [SoundParts]

@[simp] theorem soundParts_modify_ports {fs : List Port} {i f a b c d} :
    SoundParts a b (fs.modify i f) c d ↔ SoundParts a b fs c d := by
  simp [SoundParts]

@[simp] theorem soundParts_at_ports {s : State} {t a b c d} :
    SoundParts a b (s.at t).ports c d ↔ SoundParts a b s.ports c d := by
  simp [SoundParts, State.at]

/-- A changed member keeps what holds of every member when the change keeps it. -/
theorem forall_mem_modify {α : Type} {P : α → Prop} {f : α → α} (hf : ∀ x, P x → P (f x)) :
    ∀ {l : List α} {i : Nat}, (∀ x ∈ l, P x) → ∀ x ∈ l.modify i f, P x := by
  intro l
  induction l with
  | nil => intro i h x hx; simp at hx
  | cons a l ih =>
    intro i h
    rw [List.forall_mem_cons] at h
    cases i with
    | zero => simpa using ⟨hf a h.1, h.2⟩
    | succ i => simpa using ⟨h.1, ih h.2⟩

/-- Fresh ports are as good as the old ones: of a state's ports the invariant asks only how many there are. -/
theorem sound_freshPorts {x y : State} (h : Sound x) (hf : y.fns = x.fns) (hm : y.mboxes = x.mboxes)
    (hr : y.regions = x.regions) (hb : y.operandBufs = x.operandBufs) (hp : y.ports = List.replicate 8 {}) : Sound y := by
  obtain ⟨⟨h1, h2, -⟩, h3, h4, h5⟩ := h
  exact ⟨⟨hf ▸ h1, hm ▸ h2, by simp [hp]⟩, hm ▸ h3, hr ▸ h4, hb ▸ h5⟩

/-! ### Choices, folds and pairs -/

@[simp] theorem sound_ite {c : Prop} [Decidable c] {a b : State} :
    Sound (if c then a else b) ↔ if c then Sound a else Sound b := by
  split <;> rfl

theorem sound_ite_iff {c : Prop} [Decidable c] {s a b : State} (ha : Sound a ↔ Sound s) (hb : Sound b ↔ Sound s) :
    Sound (if c then a else b) ↔ Sound s := by
  split <;> assumption

@[simp] theorem sound_foldl {α : Type} {f : State → α → State} (hf : ∀ s x, Sound (f s x) ↔ Sound s) {l : List α} {s : State} :
    Sound (l.foldl f s) ↔ Sound s := by
  induction l generalizing s with
  | nil => rfl
  | cons x l ih => exact ih.trans (hf s x)

theorem sound_foldl_keeps {α : Type} {f : State → α → State} (hf : ∀ s x, Sound s → Sound (f s x)) {l : List α} {s : State}
    (h : Sound s) : Sound (l.foldl f s) := by
  induction l generalizing s with
  | nil => exact h
  | cons x l ih => exact ih (hf s x h)

theorem sound_foldl_snd {α β : Type} {f : β × State → α → β × State} (hf : ∀ p x, Sound (f p x).2 ↔ Sound p.2) {l : List α}
    {p : β × State} : Sound (l.foldl f p).2 ↔ Sound p.2 := by
  induction l generalizing p with
  | nil => rfl
  | cons x l ih => exact ih.trans (hf p x)

theorem sound_snd {α : Type} {p : α × State} {a : α} {x : State} (e : p = (a, x)) : Sound x ↔ Sound p.2 := by rw [e]

/-! ### What a command answers -/

/-- Where the command leads to a state, the state meets the invariant. -/
def Keeps (r : Result) : Prop := ∀ x, r = .next x → Sound x

@[congr] theorem Keeps.congr_self {r} : Keeps r = Keeps r := rfl

@[simp] theorem keeps_next {s : State} : Keeps (.next s) ↔ Sound s := by simp [Keeps]

@[simp] theorem keeps_ite {c : Prop} [Decidable c] {a b : Result} :
    Keeps (if c then a else b) ↔ if c then Keeps a else Keeps b := by
  split <;> rfl

end Sys2Proof.Machine
end

-- ==== Proofs: The node's shared operations keep the invariant (O5) ====
section
/-! PROOFS (O5). The operations on the state, the commit of a command, its data and its rows. -/

namespace Sys2Proof.Machine

open Sys2Proof

/-! ### Machine/Ops.lean -/

@[simp] theorem State.modFn_sound {s : State} {i f} : Sound (s.modFn i f) ↔ Sound s := by
  unfold State.modFn; simp

theorem State.modMbox_keeps {s : State} {i f}
    (hf : ∀ m : Mbox, m.req.wf = true ∧ m.resp.wf = true → (f m).req.wf = true ∧ (f m).resp.wf = true)
    (h : Sound s) : Sound (s.modMbox i f) := by
  obtain ⟨⟨h1, h2, h3⟩, h4, h5⟩ := h
  exact ⟨⟨h1, by simpa using h2, h3⟩, forall_mem_modify hf h4, h5⟩

@[simp] theorem State.modMbox_sound {s : State} {i f} (hf : ∀ m : Mbox, (f m).req = m.req ∧ (f m).resp = m.resp) :
    Sound (s.modMbox i f) ↔ Sound s := by
  refine ⟨fun h => ?_, State.modMbox_keeps fun m hm => by simpa [hf m] using hm⟩
  obtain ⟨⟨h1, h2, h3⟩, h4, h5⟩ := h
  refine ⟨⟨h1, by simpa using h2, h3⟩, fun m hm => ?_, h5⟩
  obtain ⟨j, hj, rfl⟩ := List.mem_iff_getElem.1 hm
  have := h4 ((s.mboxes.modify i f)[j]'(by simpa using hj)) (List.getElem_mem _)
  rw [List.getElem_modify] at this
  split at this
  · simpa [hf] using this
  · exact this

@[simp] theorem State.modPort_sound {s : State} {i f} : Sound (s.modPort i f) ↔ Sound s := by
  unfold State.modPort; simp

@[simp] theorem State.modEng_sound {s : State} {f} : Sound (s.modEng f) ↔ Sound s := by
  unfold State.modEng; simp

@[simp] theorem State.modCsu_sound {s : State} {i f} : Sound (s.modCsu i f) ↔ Sound s := by
  unfold State.modCsu; simp

@[simp] theorem State.modTier_sound {s : State} {f} : Sound (s.modTier f) ↔ Sound s := by
  unfold State.modTier; simp

@[simp] theorem State.modChannel_sound {s : State} {i f} : Sound (s.modChannel i f) ↔ Sound s := by
  unfold State.modChannel; simp

@[simp] theorem State.modAo_sound {s : State} {f} : Sound (s.modAo f) ↔ Sound s := by
  unfold State.modAo; simp

@[simp] theorem State.modPins_sound {s : State} {f} : Sound (s.modPins f) ↔ Sound s := by
  unfold State.modPins; simp

@[simp] theorem State.modPwr_sound {s : State} {f} : Sound (s.modPwr f) ↔ Sound s := by
  unfold State.modPwr; simp

@[simp] theorem State.modSched_sound {s : State} {f} : Sound (s.modSched f) ↔ Sound s := by
  unfold State.modSched; simp

@[simp] theorem State.modSpares_sound {s : State} {f} : Sound (s.modSpares f) ↔ Sound s := by
  unfold State.modSpares; simp

@[simp] theorem State.modQueue_sound {s : State} {q f} : Sound (s.modQueue q f) ↔ Sound s := by
  unfold State.modQueue; simp

@[simp] theorem State.modReq_sound {s : State} {n f} : Sound (s.modReq n f) ↔ Sound s := by
  unfold State.modReq; simp

@[simp] theorem State.modColl_sound {s : State} {c f} : Sound (s.modColl c f) ↔ Sound s := by
  unfold State.modColl; simp

@[simp] theorem State.modShard_sound {s : State} {i f} : Sound (s.modShard i f) ↔ Sound s := by
  unfold State.modShard; simp

@[simp] theorem State.modList_sound {s : State} {i f} : Sound (s.modList i f) ↔ Sound s := by
  unfold State.modList; simp

@[simp] theorem State.modShare_sound {s : State} {k f} : Sound (s.modShare k f) ↔ Sound s := by
  unfold State.modShare; simp

@[simp] theorem State.modPart_sound {s : State} {k i f} : Sound (s.modPart k i f) ↔ Sound s := by
  unfold State.modPart; simp

@[simp] theorem State.modMember_sound {s : State} {k i f} : Sound (s.modMember k i f) ↔ Sound s := by
  unfold State.modMember; simp

@[simp] theorem State.modModel_sound {s : State} {c m f} : Sound (s.modModel c m f) ↔ Sound s := by
  unfold State.modModel; simp

@[simp] theorem State.modPool_sound {s : State} {p f} : Sound (s.modPool p f) ↔ Sound s := by
  unfold State.modPool; simp

@[simp] theorem State.modRun_sound {s : State} {n f} : Sound (s.modRun n f) ↔ Sound s := by
  unfold State.modRun; simp

theorem State.modRegion_sound {s : State} {i f} (hf : ∀ g : Region, g.mem.wf = true → (f g).mem.wf = true) (h : Sound s) :
    Sound (s.modRegion i f) := by
  obtain ⟨h1, h2, h3, h4⟩ := h
  refine ⟨h1, h2, fun g hg => ?_, h4⟩
  obtain ⟨g, hm, rfl⟩ := List.mem_map.1 hg
  split
  · exact hf g (h3 g hm)
  · exact h3 g hm

@[simp] theorem State.emit_sound {s : State} {o} : Sound (s.emit o) ↔ Sound s := by
  unfold State.emit; simp

@[simp] theorem State.at_sound {s : State} {t} : Sound (s.at t) ↔ Sound s := by
  unfold State.at; simp

@[simp] theorem State.tick_sound {s : State} : Sound (s.tick) ↔ Sound s := by
  unfold State.tick; simp

@[simp] theorem State.takeFree_sound {s : State} : Sound (s.takeFree).2 ↔ Sound s := by
  unfold State.takeFree; simp

@[simp] theorem State.log_sound {s : State} {cls code detail} : Sound (s.log cls code detail) ↔ Sound s := by
  unfold State.log; simp

@[simp] theorem State.platformEvent_sound {s : State} {sensor reading} : Sound (s.platformEvent sensor reading) ↔ Sound s := by
  unfold State.platformEvent; simp

@[simp] theorem State.degradedEvent_sound {s : State} {before} : Sound (s.degradedEvent before) ↔ Sound s := by
  unfold State.degradedEvent; simp

theorem State.charge?_sound {s x : State} {f k n} (h : s.charge? f k n = some x) : Sound x ↔ Sound s := by
  unfold State.charge? at h; split at h <;> simp_all; subst h; simp

@[simp] theorem State.quotaRefuse_sound {s : State} {f kind} : Sound (s.quotaRefuse f kind) ↔ Sound s := by
  unfold State.quotaRefuse; simp

@[simp] theorem State.release_sound {s : State} {f k n} : Sound (s.release f k n) ↔ Sound s := by
  unfold State.release; simp

@[simp] theorem State.sendVec_sound {s : State} {f v} : Sound (s.sendVec f v) ↔ Sound s := by
  unfold State.sendVec; simp

@[simp] theorem State.sendCeiling_sound {s : State} {f v} : Sound (s.sendCeiling f v) ↔ Sound s := by
  unfold State.sendCeiling; simp

@[simp] theorem State.dueVec_sound {s : State} {f v useCeiling} : Sound (s.dueVec f v useCeiling) ↔ Sound s := by
  unfold State.dueVec; simp

@[simp] theorem State.releaseVec_sound {s : State} {f v} : Sound (s.releaseVec f v) ↔ Sound s := by
  unfold State.releaseVec; simp

@[simp] theorem State.releaseHeld_sound {s : State} {f all l} : Sound (s.releaseHeld f all l) ↔ Sound s := by
  induction l generalizing s with
  | nil => rfl
  | cons v l ih => unfold State.releaseHeld; simp [ih]

@[simp] theorem State.requestMsg_sound {s : State} {q} : Sound (s.requestMsg q) ↔ Sound s := by
  unfold State.requestMsg; split <;> simp

@[simp] theorem State.signalCompletion_sound {s : State} {q} : Sound (s.signalCompletion q) ↔ Sound s := by
  unfold State.signalCompletion; dsimp only; (repeat' split) <;> simp

@[simp] theorem State.wakeSignal_sound {s : State} : Sound (s.wakeSignal) ↔ Sound s := by
  unfold State.wakeSignal; simp

@[simp] theorem State.queueError_sound {s : State} {q cause} : Sound (s.queueError q cause) ↔ Sound s := by
  unfold State.queueError; split <;> simp

@[simp] theorem State.writeCompletion_sound {s : State} {q cmdId c detail dataReturned cqOk} :
    Sound (s.writeCompletion q cmdId c detail dataReturned cqOk) ↔ Sound s := by
  unfold State.writeCompletion; split <;> simp

@[simp] theorem State.releaseMerge_sound {s : State} {r} : Sound (s.releaseMerge r) ↔ Sound s := by
  unfold State.releaseMerge; dsimp only; (repeat' split) <;> simp

@[simp] theorem State.complete_sound {s : State} {r c io} : Sound (s.complete r c io) ↔ Sound s := by
  unfold State.complete; simp

@[simp] theorem State.mailboxDone_sound {s : State} {r st d a b} (h : Sound s) : Sound (s.mailboxDone r st d a b) := by
  unfold State.mailboxDone
  extract_lets m resp s1 s2 s3 s4
  split
  · simp [h]
  · have h1 : Sound s1 := by unfold s1; split <;> simp [h]
    have h2 : Sound s2 := by
      clear_value resp s1
      refine State.modMbox_keeps (fun m hm => ?_) h1
      simp [hm, memWriteAll_wf]
    have h3 : Sound s3 := State.modFn_sound.2 h2
    have h4 : Sound s4 := by unfold s4; split <;> simp [h3]
    exact State.wakeSignal_sound.2 h4

@[simp] theorem State.modArb_sound {s : State} {id f} : Sound (s.modArb id f) ↔ Sound s := by
  unfold State.modArb; simp

@[simp] theorem State.arbRequest_sound {s : State} {id requester background rebuild w} :
    Sound (s.arbRequest id requester background rebuild w) ↔ Sound s := by
  unfold State.arbRequest; simp

@[simp] theorem State.arbWithdraw_sound {s : State} {p} : Sound (s.arbWithdraw p) ↔ Sound s := by
  unfold State.arbWithdraw; simp

@[simp] theorem State.modArrs_sound {s : State} {l f} : Sound (s.modArrs l f) ↔ Sound s := by
  unfold State.modArrs; simp

@[simp] theorem State.modArr_sound {s : State} {a f} : Sound (s.modArr a f) ↔ Sound s := by
  unfold State.modArr; simp

@[simp] theorem State.setPoints_sound {s : State} {l nibble} : Sound (s.setPoints l nibble) ↔ Sound s := by
  unfold State.setPoints; simp

@[simp] theorem State.switchArray_sound {s : State} {a b} : Sound (s.switchArray a b) ↔ Sound s := by
  unfold State.switchArray; simp

@[simp] theorem State.swapIn_sound {s : State} {a b} : Sound (s.swapIn a b) ↔ Sound s := by
  unfold State.swapIn; simp

@[simp] theorem State.arbGive_sound {s : State} {id r locked} : Sound (s.arbGive id r locked) ↔ Sound s := by
  unfold State.arbGive; simp

@[simp] theorem State.arbEnd_sound {s : State} {id w} : Sound (s.arbEnd id w) ↔ Sound s := by
  unfold State.arbEnd; simp

@[simp] theorem State.takeGrant_sound {s : State} {w arb} : Sound (s.takeGrant w arb) ↔ Sound s := by
  unfold State.takeGrant; split <;> simp

@[simp] theorem State.dropWork_sound {s : State} {p} : Sound (s.dropWork p) ↔ Sound s := by
  unfold State.dropWork; simp

@[simp] theorem State.useGrants_sound {s : State} {w arbs} : Sound (s.useGrants w arbs) ↔ Sound s := by
  unfold State.useGrants; simp

@[simp] theorem State.requestAt_sound {s : State} {requester background w arbs} : Sound (s.requestAt requester background w arbs) ↔
    Sound s := by
  unfold State.requestAt; simp

@[simp] theorem State.requestOnly_sound {s : State} {requester background w arbs} : Sound (s.requestOnly requester background w arbs) ↔
    Sound s := by
  unfold State.requestOnly; simp

@[simp] theorem State.requestAll_sound {s : State} {w arbs} : Sound (s.requestAll w arbs) ↔ Sound s := by
  unfold State.requestAll; simp

@[simp] theorem State.programBytes_sound {s : State} {ch bytes} : Sound (s.programBytes ch bytes) ↔ Sound s := by
  unfold State.programBytes; simp

@[simp] theorem State.programRows_sound {s : State} {pages} : Sound (s.programRows pages) ↔ Sound s := by
  unfold State.programRows; simp

@[simp] theorem State.programSpread_sound {s : State} {bytes} : Sound (s.programSpread bytes) ↔ Sound s := by
  unfold State.programSpread; simp

@[simp] theorem State.addJournal_sound {s : State} {k shard stamp bytes} : Sound (s.addJournal k shard stamp bytes) ↔ Sound s := by
  unfold State.addJournal; simp

@[simp] theorem State.recordNode_sound {s : State} : Sound (s.recordNode) ↔ Sound s := by
  unfold State.recordNode; simp

@[simp] theorem State.countLedger_sound {s : State} {d since} : Sound (s.countLedger d since) ↔ Sound s := by
  unfold State.countLedger; simp

@[simp] theorem State.leaveLedger_sound {s : State} {w shard} : Sound (s.leaveLedger w shard) ↔ Sound s := by
  unfold State.leaveLedger; split <;> simp

@[simp] theorem State.quitLedger_sound {s : State} {w shard} : Sound (s.quitLedger w shard) ↔ Sound s := by
  unfold State.quitLedger; simp

@[simp] theorem State.joinLedger_sound {s : State} {w shard} : Sound (s.joinLedger w shard) ↔ Sound s := by
  unfold State.joinLedger; simp

@[simp] theorem State.passLedgers_sound {s : State} {l w go} (hgo : ∀ x, Sound (go x) ↔ Sound x) : Sound (s.passLedgers l w go) ↔
    Sound s := by
  unfold State.passLedgers; simp [hgo]

@[simp] theorem State.bumpStamp_sound {s : State} {shard} : Sound (s.bumpStamp shard) ↔ Sound s := by
  unfold State.bumpStamp; simp

@[simp] theorem State.takeSwitch_sound {s : State} {shard} : Sound (s.takeSwitch shard).2 ↔ Sound s := by
  unfold State.takeSwitch; simp

@[simp] theorem State.dropReader_sound {s : State} {shard r} : Sound (s.dropReader shard r) ↔ Sound s := by
  unfold State.dropReader; simp

/-! ### Machine/Operands.lean -/

@[simp] theorem State.produce_sound {s : State} {dest tag queue body} : Sound (s.produce dest tag queue body) ↔ Sound s := by
  unfold State.produce; dsimp only; (repeat' split) <;> simp

@[simp] theorem State.takeNum_sound {s : State} : Sound (s.takeNum).2 ↔ Sound s := by
  unfold State.takeNum; simp

@[simp] theorem State.produceFw_sound {s : State} {dest kind shard background body} :
    Sound (s.produceFw dest kind shard background body) ↔ Sound s := by
  unfold State.produceFw; simp

@[simp] theorem State.produceControl_sound {s : State} {issuer dest body} : Sound (s.produceControl issuer dest body) ↔ Sound s := by
  unfold State.produceControl; split <;> simp

/-! ### Machine/Commit.lean -/

@[simp] theorem State.reply_sound {s : State} {r status detail results data} (h : Sound s) :
    Sound (s.reply r status detail results data) := by
  unfold State.reply; simp [h]

@[simp] theorem State.refuse_sound {s : State} {r status detail} (h : Sound s) : Sound (s.refuse r status detail) := by
  unfold State.refuse; simp [h]

@[simp] theorem State.startTail_sound {s : State} {r k} : Sound (s.startTail r k) ↔ Sound s := by
  unfold State.startTail; simp

@[simp] theorem State.closeTail_sound {s : State} {t status detail results data} (h : Sound s) :
    Sound (s.closeTail t status detail results data) := by
  unfold State.closeTail; split <;> simp [h]

@[simp] theorem State.endTail_sound {s : State} {k status detail results} (h : Sound s) : Sound (s.endTail k status detail results) := by
  unfold State.endTail; split <;> simp [h]

@[simp] theorem State.commit_sound {s : State} {r op p ranges checks body} (h : Sound s)
    (hbody : ∀ x b, Sound x → Sound (body x b)) : Sound (s.commit r op p ranges checks body) := by
  unfold State.commit; dsimp only; (repeat' split) <;> simp [h, hbody]

@[simp] theorem State.record_sound {s : State} {r ok} (h : Sound s) (hok : ∀ x, Sound x → Sound (ok x)) : Sound (s.record r ok) := by
  unfold State.record; (repeat' split) <;> simp [h, hok]

/-! ### Machine/Data.lean -/

theorem State.dataCommit_keeps {s : State} {num op io ranges checks rule right need body}
    (hbody : ∀ x r b, Sound x → Sound (body x r b)) (h : Sound s) :
    Sound (s.dataCommit num op io ranges checks rule right need body) := by
  unfold State.dataCommit; dsimp only; (repeat' split) <;> simp [hbody, h]

@[simp] theorem State.dataCommit_sound {s : State} {num op io ranges checks rule right need body}
    (hbody : ∀ x r b, Sound (body x r b) ↔ Sound x) :
    Sound (s.dataCommit num op io ranges checks rule right need body) ↔ Sound s := by
  unfold State.dataCommit; dsimp only; (repeat' split) <;> simp [hbody]

@[simp] theorem State.badInput_sound {s : State} {r off io} : Sound (s.badInput r off io) ↔ Sound s := by
  unfold State.badInput; simp

@[simp] theorem State.pairCharge_sound {s : State} {p k n} : Sound (s.pairCharge p k n) ↔ Sound s := by
  unfold State.pairCharge; simp

@[simp] theorem State.pairRelease_sound {s : State} {p k n} : Sound (s.pairRelease p k n) ↔ Sound s := by
  unfold State.pairRelease; simp

@[simp] theorem State.pairRefuse_sound {s : State} {p kind} : Sound (s.pairRefuse p kind) ↔ Sound s := by
  unfold State.pairRefuse; simp

@[simp] theorem State.setUnit_sound {s : State} {u x} : Sound (s.setUnit u x) ↔ Sound s := by
  unfold State.setUnit; simp

@[simp] theorem State.needUnit_sound {s : State} {u} : Sound (s.needUnit u) ↔ Sound s := by
  unfold State.needUnit; simp

@[simp] theorem State.needTensor_sound {s : State} {tile background rebuild w} : Sound (s.needTensor tile background rebuild w) ↔
    Sound s := by
  unfold State.needTensor; simp

@[simp] theorem State.sendWork_sound {s : State} {t body} : Sound (s.sendWork t body) ↔ Sound s := by
  unfold State.sendWork; simp

theorem State.takeAdmitted_sound {s x : State} {tag} (h : s.takeAdmitted tag = some x) : Sound x ↔ Sound s := by
  unfold State.takeAdmitted at h; split at h <;> simp_all; subst h; simp

/-! ### Machine/Rows.lean -/

@[simp] theorem State.chargeHome_sound {s : State} {c d home bytes} : Sound (s.chargeHome c d home bytes) ↔ Sound s := by
  unfold State.chargeHome; split <;> simp

@[simp] theorem State.releaseHome_sound {s : State} {c d home bytes payer} : Sound (s.releaseHome c d home bytes payer) ↔ Sound s := by
  unfold State.releaseHome; split <;> simp

@[simp] theorem State.countReads_sound {s : State} {coll n} : Sound (s.countReads coll n) ↔ Sound s := by
  unfold State.countReads; simp

@[simp] theorem State.score_sound {s : State} {exact bound} : Sound (s.score exact bound).2 ↔ Sound s := by
  unfold State.score; simp

@[simp] theorem State.scoreOf_sound {s : State} {c m q x xn qn extra} : Sound (s.scoreOf c m q x xn qn extra).2 ↔ Sound s := by
  unfold State.scoreOf; simp

@[simp] theorem State.scoreHeads_sound {s : State} {c m q qn l} : Sound (s.scoreHeads c m q qn l).2 ↔ Sound s := by
  induction l generalizing s with
  | nil => rfl
  | cons x l ih => unfold State.scoreHeads; simp [ih]

@[simp] theorem State.scoreL1_sound {s : State} {c m q qn l} : Sound (s.scoreL1 c m q qn l).2 ↔ Sound s := by
  induction l generalizing s with
  | nil => rfl
  | cons x l ih => unfold State.scoreL1; simp [ih]

@[simp] theorem State.releaseModel_sound {s : State} {m} : Sound (s.releaseModel m) ↔ Sound s := by
  unfold State.releaseModel; simp

end Sys2Proof.Machine
end

-- ==== Proofs: Control commands and searches keep the invariant (O5) ====
section
/-! PROOFS (O5). The node's control commands, the selection of lists and the search of them. -/

namespace Sys2Proof.Machine

open Sys2Proof

/-! ### Machine/Control.lean -/

@[simp] theorem State.identify_sound {s : State} {r cns body} (h : Sound s) (hbody : ∀ x n, Sound x → Sound (body x n)) :
    Sound (s.identify r cns body) := by
  unfold State.identify; dsimp only; split <;> simp_all

@[simp] theorem execIdentifyNode_sound {s : State} {r t} (h : Sound s) : Keeps (execIdentifyNode r t s) := by
  unfold execIdentifyNode; simp +contextual [h]

@[simp] theorem execIdentifyFunction_sound {s : State} {r t} (h : Sound s) : Keeps (execIdentifyFunction r t s) := by
  unfold execIdentifyFunction; simp +contextual [h]

@[simp] theorem execIdentifyCollection_sound {s : State} {r t} (h : Sound s) : Keeps (execIdentifyCollection r t s) := by
  unfold execIdentifyCollection
  refine keeps_next.2 (State.identify_sound (by simp [h]) fun x b hx => ?_)
  dsimp only; (repeat' split) <;> simp [hx]

@[simp] theorem execIdentifyQueue_sound {s : State} {r t} (h : Sound s) : Keeps (execIdentifyQueue r t s) := by
  unfold execIdentifyQueue
  refine keeps_next.2 (State.identify_sound (by simp [h]) fun x b hx => ?_)
  dsimp only; (repeat' split) <;> simp [hx]

@[simp] theorem execCreateQueue_sound {s : State} {r t} (h : Sound s) : Keeps (execCreateQueue r t s) := by
  unfold execCreateQueue
  refine keeps_next.2 (State.commit_sound (by simp [h]) fun x b hx => ?_)
  dsimp only; (repeat' split) <;> simp [hx]

@[simp] theorem execDeleteQueue_sound {s : State} {r t} (h : Sound s) : Keeps (execDeleteQueue r t s) := by
  unfold execDeleteQueue
  refine keeps_next.2 (State.commit_sound (by simp [h]) fun x b hx => ?_)
  dsimp only; (repeat' split) <;> simp [hx]

@[simp] theorem execDeleteQueueDrainEnd_sound {s : State} {q t} (h : Sound s) : Keeps (execDeleteQueueDrainEnd q t s) := by
  unfold execDeleteQueueDrainEnd; simp [h]

/-- The shard that an owner node sets up (R64, R149, R152): FORMING, with counter 1 and `l` lists to come. -/
def freshShard (c : CollSpec) (i index l now : Nat) : Shard :=
  { id := c.firstShard + i, coll := c.id, ledger := index, counter := 1, stage := .forming, switchW := none,
    training := false, sampleCut := 0, formCut := none, buffer := true, l := l, l2 := min 1024 l, l1 := l / min 1024 l,
    centroids := [], centroidNorms := [], matrix := [], slots := [], hist := [], tombs := [], readers := [], waiting := [],
    holds := [], meanRecords := 0, meanLists := 0, lenAt := now, bufBytes := 0, move := none, forwardTo := none, lost := false,
    regen := none }

/-- One shard of a collection at its owner node (R149, R169, R170). -/
def State.setUpShard (s : State) (c : CollSpec) (i : Nat) : Option State :=
  if c.owners.getD i 4096 != s.nodeId then some s
  else if (s.shard? (c.firstShard + i)).isSome then some s
  else
    ((List.range 4096).find? fun x => !s.owned.any (·.ledger == x)).bind fun x =>
      let l := fitTarget (coarseColumns c.projection) (16384 - s.columnsTaken c) (16777216 - s.listsTaken) 64 (collTarget c)
      if l = 0 then none else some { s with shards := s.shards ++ [freshShard c i x l s.now] }

theorem State.setUpShards_nil {s : State} {c} : s.setUpShards c [] = some s := rfl

theorem State.setUpShards_cons {s : State} {c i l} : s.setUpShards c (i :: l) = (s.setUpShard c i).bind (·.setUpShards c l) := by
  unfold State.setUpShard
  change (if _ then _ else if _ then _ else _) = _
  split_ifs
  · rfl
  · rfl
  · generalize (List.range 4096).find? (fun x => !s.owned.any (·.ledger == x)) = o
    cases o with
    | none => rfl
    | some x =>
      dsimp only [Option.bind_some]
      split_ifs <;> rfl

theorem State.setUpShard_sound {s x : State} {c i} (h : s.setUpShard c i = some x) : Sound x ↔ Sound s := by
  unfold State.setUpShard at h
  split_ifs at h
  · cases h; rfl
  · cases h; rfl
  · obtain ⟨n, -, h⟩ := Option.bind_eq_some_iff.1 h
    dsimp only at h
    split_ifs at h
    cases h; simp

theorem State.setUpShards_sound {s x : State} {c l} (h : s.setUpShards c l = some x) : Sound x ↔ Sound s := by
  induction l generalizing s with
  | nil => obtain rfl := Option.some.inj (State.setUpShards_nil.symm.trans h); rfl
  | cons i l ih =>
    rw [State.setUpShards_cons] at h
    obtain ⟨y, hy, h⟩ := Option.bind_eq_some_iff.1 h
    exact (ih h).trans (State.setUpShard_sound hy)

theorem State.setUpHere_sound {s x : State} {c} (h : s.setUpHere c = some x) : Sound x ↔ Sound s := by
  unfold State.setUpHere at h
  split at h
  · cases h
  next e => split at h <;> cases h; simp [State.setUpShards_sound e]

@[simp] theorem State.removeShards_sound {s : State} {coll} : Sound (s.removeShards coll) ↔ Sound s := by
  unfold State.removeShards; simp

@[simp] theorem State.releaseShard_sound {s : State} {c d} : Sound (s.releaseShard c d) ↔ Sound s := by
  unfold State.releaseShard
  refine (sound_foldl fun s e => by split <;> simp).trans ?_
  simp

@[simp] theorem State.releaseColl_sound {s : State} {c} : Sound (s.releaseColl c) ↔ Sound s := by
  unfold State.releaseColl; simp

@[simp] theorem execCreateCollection_sound {s : State} {r t} (h : Sound s) : Keeps (execCreateCollection r t s) := by
  unfold execCreateCollection
  refine keeps_next.2 (State.commit_sound (by simp [h]) fun x b hx => ?_)
  dsimp only; (repeat' split) <;> simp [hx]

@[simp] theorem execCollectionShardSetup_sound {s : State} {c t} (h : Sound s) : Keeps (execCollectionShardSetup c t s) := by
  unfold execCollectionShardSetup
  extract_lets s1 mine
  split
  · simp [h, s1]
  · split
    next e => simp [State.setUpHere_sound e, h, s1]
    · simp [h, s1]

@[simp] theorem State.announce_sound {s : State} {issuer coll a} : Sound (s.announce issuer coll a) ↔ Sound s := by
  unfold State.announce; simp

@[simp] theorem execCreateCollectionTailEnd_sound {s : State} {coll peers t} (h : Sound s) :
    Keeps (execCreateCollectionTailEnd coll peers t s) := by
  unfold execCreateCollectionTailEnd; dsimp only; (repeat' split) <;> simp [h]

@[simp] theorem execCollectionAnnounceReceive_sound {s : State} {a} (h : Sound s) : Keeps (execCollectionAnnounceReceive a s) := by
  unfold execCollectionAnnounceReceive; split <;> simp [h]

@[simp] theorem execDropCollection_sound {s : State} {r t} (h : Sound s) : Keeps (execDropCollection r t s) := by
  unfold execDropCollection
  refine keeps_next.2 (State.commit_sound (by simp [h]) fun x b hx => ?_)
  dsimp only; (repeat' split) <;> simp [hx]

@[simp] theorem execDropCollectionTailEnd_sound {s : State} {coll t} (h : Sound s) : Keeps (execDropCollectionTailEnd coll t s) := by
  unfold execDropCollectionTailEnd; dsimp only; (repeat' split) <;> simp [h]

@[simp] theorem execSetQuota_sound {s : State} {r t} (h : Sound s) : Keeps (execSetQuota r t s) := by
  unfold execSetQuota
  refine keeps_next.2 (State.commit_sound (by simp [h]) fun x b hx => State.record_sound hx fun y hy => ?_)
  simp [hy]

@[simp] theorem State.reslot_sound {s : State} {f} : Sound (s.reslot f) ↔ Sound s := by
  unfold State.reslot; simp

@[simp] theorem execSetFunction_sound {s : State} {r t} (h : Sound s) : Keeps (execSetFunction r t s) := by
  unfold execSetFunction
  refine keeps_next.2 (State.commit_sound (by simp [h]) fun x b hx => ?_)
  dsimp only; (repeat' split) <;> simp +contextual [hx]

@[simp] theorem execGrantRights_sound {s : State} {r t} (h : Sound s) : Keeps (execGrantRights r t s) := by
  unfold execGrantRights
  refine keeps_next.2 (State.commit_sound (by simp [h]) fun x b hx => ?_)
  split
  · simp [hx]
  · exact State.record_sound hx fun y hy => by simp [hy]

@[simp] theorem State.poolEvent_sound {s : State} : Sound (s.poolEvent) ↔ Sound s := by
  unfold State.poolEvent; simp

@[simp] theorem execAttachPool_sound {s : State} {r t} (h : Sound s) : Keeps (execAttachPool r t s) := by
  unfold execAttachPool
  refine keeps_next.2 (State.commit_sound (by simp [h]) fun x b hx => ?_)
  dsimp only; (repeat' split) <;> simp [hx]

@[simp] theorem execAttachPoolTailEnd_sound {s : State} {pool probeOk t} (h : Sound s) :
    Keeps (execAttachPoolTailEnd pool probeOk t s) := by
  unfold execAttachPoolTailEnd; simp [h]

@[simp] theorem execDetachPool_sound {s : State} {r t} (h : Sound s) : Keeps (execDetachPool r t s) := by
  unfold execDetachPool
  refine keeps_next.2 (State.commit_sound (by simp [h]) fun x b hx => ?_)
  dsimp only; (repeat' split) <;> simp +contextual [hx]

@[simp] theorem execDetachPoolTailEnd_sound {s : State} {pool t} (h : Sound s) : Keeps (execDetachPoolTailEnd pool t s) := by
  unfold execDetachPoolTailEnd; dsimp only; (repeat' split) <;> simp [h]

/-! ### Machine/Select.lean -/

@[simp] theorem State.heardThreshold_sound {s : State} {a} : Sound (s.heardThreshold a).2 ↔ Sound s := by
  unfold State.heardThreshold; split <;> simp

@[simp] theorem State.admission_sound {s : State} {a shard source} : Sound (s.admission a shard source).2 ↔ Sound s := by
  unfold State.admission; (repeat' split) <;> simp

@[simp] theorem State.offer_sound {s : State} {k shard source id score ok} : Sound (s.offer k shard source id score ok) ↔ Sound s := by
  unfold State.offer; split <;> simp

@[simp] theorem State.freeSeat_sound {s : State} {coach k} : Sound (s.freeSeat coach k) ↔ Sound s := by
  unfold State.freeSeat; split <;> simp

@[simp] theorem State.vacate_sound {s : State} {k coach} : Sound (s.vacate k coach) ↔ Sound s := by
  unfold State.vacate; split <;> simp

@[simp] theorem State.leaveCoaches_sound {s : State} {k} : Sound (s.leaveCoaches k) ↔ Sound s := by
  unfold State.leaveCoaches; simp

@[simp] theorem State.listBoundary_sound {s : State} {coach} : Sound (s.listBoundary coach) ↔ Sound s := by
  unfold State.listBoundary; simp

@[simp] theorem State.csuRequest_sound {s : State} {c} : Sound (s.csuRequest c) ↔ Sound s := by
  unfold State.csuRequest; dsimp only; (repeat' split) <;> simp

@[simp] theorem State.resumeCsus_sound {s : State} : Sound (s.resumeCsus) ↔ Sound s := by
  unfold State.resumeCsus; simp

@[simp] theorem State.leaveDone_sound {s : State} {k} : Sound (s.leaveDone k) ↔ Sound s := by
  unfold State.leaveDone; simp

@[simp] theorem State.leaveBatches_sound {s : State} {f} : Sound (s.leaveBatches f) ↔ Sound s := by
  unfold State.leaveBatches; simp

@[simp] theorem State.releaseRest_sound {s : State} {k} : Sound (s.releaseRest k) ↔ Sound s := by
  unfold State.releaseRest; (repeat' split) <;> simp

@[simp] theorem State.releaseShare_sound {s : State} {k} : Sound (s.releaseShare k) ↔ Sound s := by
  unfold State.releaseShare; split <;> simp

@[simp] theorem State.issueReads_sound {s : State} {tile} : Sound (s.issueReads tile) ↔ Sound s := by
  unfold State.issueReads; simp

@[simp] theorem State.sendAnswer_sound {s : State} {m a} : Sound (s.sendAnswer m a) ↔ Sound s := by
  unfold State.sendAnswer; simp

@[simp] theorem State.failShare_sound {s : State} {k status detail} : Sound (s.failShare k status detail) ↔ Sound s := by
  unfold State.failShare; split <;> simp

@[simp] theorem State.enterNear_sound {s : State} {k shard l} : Sound (s.enterNear k shard l) ↔ Sound s := by
  induction l generalizing s with
  | nil => rfl
  | cons x l ih =>
    unfold State.enterNear
    split
    · split
      · refine ih.trans (Iff.trans State.offer_sound ?_)
        simp
      · rfl
    · rfl

@[simp] theorem State.settle_sound {s : State} {k shard} : Sound (s.settle k shard) ↔ Sound s := by
  unfold State.settle; split <;> simp

@[simp] theorem State.answerShare_sound {s : State} {a entries cuts reranked rowPools} :
    Sound (s.answerShare a entries cuts reranked rowPools) ↔ Sound s := by
  unfold State.answerShare; simp

/-! ### Machine/Search.lean -/

@[simp] theorem execSearch_sound {s : State} {num io t} (h : Sound s) : Keeps (execSearch num io t s) := by
  unfold execSearch
  refine keeps_next.2 ((State.dataCommit_sound fun x r b => ?_).2 (by simp [h]))
  split
  · simp
  dsimp only
  split
  · simp
  split
  · simp
  split
  · simp
  split
  · simp
  refine (sound_foldl fun s o => ?_).trans ?_
  · split <;> simp
  · simp

@[simp] theorem State.reopenShare_sound {s : State} {k f} : Sound (s.reopenShare k f) ↔ Sound s := by
  unfold State.reopenShare; simp

@[simp] theorem execSearchShareArrival_sound {s : State} {m t} (h : Sound s) : Keeps (execSearchShareArrival m t s) := by
  unfold execSearchShareArrival
  extract_lets s0
  have h0 : Sound s0 := by simp [s0, h]
  clear_value s0
  split
  next m x e =>
    have hx : Sound x := by
      split at e
      · split at e <;> cases e
        next e => exact (State.takeAdmitted_sound e).2 h0
        · exact h0
      · cases e; simpa using h0
    split
    · simpa using hx
    · dsimp only
      split
      · simp [hx]
      · split <;> simp [hx]

@[simp] theorem State.stampShare_sound {s : State} {shard k} : Sound (s.stampShare shard k) ↔ Sound s := by
  unfold State.stampShare; split <;> simp

@[simp] theorem State.writeColumns_sound {s : State} : Sound (s.writeColumns) ↔ Sound s := by
  unfold State.writeColumns; simp

@[simp] theorem State.boardBatch_sound {s : State} {shard add} : Sound (s.boardBatch shard add) ↔ Sound s := by
  unfold State.boardBatch; simp

@[simp] theorem State.requestBatch_sound {s : State} {b} : Sound (s.requestBatch b) ↔ Sound s := by
  unfold State.requestBatch; simp

@[simp] theorem State.requestBatches_sound {s : State} : Sound (s.requestBatches) ↔ Sound s := by
  unfold State.requestBatches; simp

@[simp] theorem execCoarseSelection_sound {s : State} {k shard} (h : Sound s) : Keeps (execCoarseSelection k shard s) := by
  unfold execCoarseSelection; (repeat' split) <;> simp [h]

@[simp] theorem State.level2Query_sound {s : State} {c d unit k} : Sound (s.level2Query c d unit k) ↔ Sound s := by
  unfold State.level2Query; dsimp only; (repeat' split) <;> simp

@[simp] theorem State.level2Insert_sound {s : State} {c shard unit k idx} : Sound (s.level2Insert c shard unit k idx) ↔ Sound s := by
  unfold State.level2Insert; split <;> simp

@[simp] theorem State.scoreBatch_sound {s : State} {c d unit b} : Sound (s.scoreBatch c d unit b) ↔ Sound s := by
  unfold State.scoreBatch; simp

@[simp] theorem State.batchStackDone_sound {s : State} {stack b} : Sound (s.batchStackDone stack b) ↔ Sound s := by
  unfold State.batchStackDone; split <;> simp

@[simp] theorem State.batchToStacks_sound {s : State} {b} : Sound (s.batchToStacks b) ↔ Sound s := by
  unfold State.batchToStacks; simp

@[simp] theorem execLevel2BatchDepart_sound {s : State} {shard t} (h : Sound s) : Keeps (execLevel2BatchDepart shard t s) := by
  unfold execLevel2BatchDepart; dsimp only; (repeat' split) <;> simp [h]

@[simp] theorem State.freeDone_sound {s : State} {coach} : Sound (s.freeDone coach) ↔ Sound s := by
  unfold State.freeDone
  split
  · rfl
  split
  · rfl
  dsimp only
  split
  · exact sound_foldl fun s x => by split <;> simp
  · exact State.modEng_sound.trans (sound_foldl fun s x => by split <;> simp)

@[simp] theorem State.departCoach_sound {s : State} {coach} : Sound (s.departCoach coach) ↔ Sound s := by
  unfold State.departCoach; split <;> simp

theorem State.reserveSelection_sound {s x : State} {h} (e : s.reserveSelection h = .inr x) : Sound x ↔ Sound s := by
  unfold State.reserveSelection at e
  dsimp only at e
  repeat' split at e
  all_goals cases e
  all_goals simp

@[simp] theorem State.failReserve_sound {s : State} {a detail} : Sound (s.failReserve a detail) ↔ Sound s := by
  unfold State.failReserve; simp

@[simp] theorem State.probeList_sound {s : State} {list epoch cached} : Sound (s.probeList list epoch cached) ↔ Sound s := by
  unfold State.probeList; simp

@[simp] theorem execCoachBoard_sound {s : State} {shard t} (h : Sound s) : Keeps (execCoachBoard shard t s) := by
  unfold execCoachBoard
  extract_lets s0 openOf
  have h0 : Sound s0 := by simp [s0, h]
  clear_value s0 openOf
  split
  · split
    · simp [h0]
    next s1 p e _ =>
      have h1 : Sound s1 := (State.reserveSelection_sound e).2 h0
      extract_lets k vers near flash none_ visits extra s2 s3 limit parts
      have h2 : Sound s2 := by unfold s2; split <;> simp [h1]
      have h3 : Sound s3 := by unfold s3; split <;> simp [h2]
      clear_value s2 s3
      split
      · simp [h3]
      · extract_lets seat s4 s5 s6 s7 s8 s9 s10
        have h9 : Sound s9 := by simp [s9, s8, s7, s6, s5, s4, h3]
        have h10 : Sound s10 := by unfold s10; split <;> simp [h9]
        simp [h10]
    · simp [h0]
  · simp [h0]

@[simp] theorem execSeatWaitTimeout_sound {s : State} {k shard t} (h : Sound s) : Keeps (execSeatWaitTimeout k shard t s) := by
  unfold execSeatWaitTimeout; dsimp only; (repeat' split) <;> simp [h]

@[simp] theorem execCoachDepart_sound {s : State} {shard t} (h : Sound s) : Keeps (execCoachDepart shard t s) := by
  unfold execCoachDepart; dsimp only; (repeat' split) <;> simp [h]

@[simp] theorem execCsuCoachStart_sound {s : State} {csu t} (h : Sound s) : Keeps (execCsuCoachStart csu t s) := by
  unfold execCsuCoachStart; dsimp only; (repeat' split) <;> simp [h]

@[simp] theorem State.tileOne_sound {s : State} {c d csu sr l} : Sound (s.tileOne c d csu sr l).2 ↔ Sound s := by
  induction l generalizing s with
  | nil => rfl
  | cons x l ih => refine ih.trans (Iff.trans State.admission_sound ?_); simp

@[simp] theorem State.offerRecord_sound {s : State} {c d csu b sr l} : Sound (s.offerRecord c d csu b sr l) ↔ Sound s := by
  induction l generalizing s with
  | nil => rfl
  | cons x l ih =>
    unfold State.offerRecord
    split
    · exact ih
    · refine ih.trans (Iff.trans State.offer_sound ?_); simp

@[simp] theorem State.offerPage_sound {s : State} {c d csu b hs l} : Sound (s.offerPage c d csu b hs l) ↔ Sound s := by
  induction l generalizing s with
  | nil => rfl
  | cons x l ih =>
    unfold State.offerPage
    by_cases hc : c.spec.projection ≤ 256 <;> simp [hc, ih]

@[simp] theorem State.cutRegen_sound {s : State} {shard} : Sound (s.cutRegen shard) ↔ Sound s := by
  unfold State.cutRegen; simp

@[simp] theorem State.cutMove_sound {s : State} {shard} : Sound (s.cutMove shard) ↔ Sound s := by
  unfold State.cutMove; simp

@[simp] theorem State.planRegen_sound {s : State} {shard} : Sound (s.planRegen shard) ↔ Sound s := by
  unfold State.planRegen; simp

@[simp] theorem State.losePage_sound {s : State} {list epoch page} : Sound (s.losePage list epoch page) ↔ Sound s := by
  unfold State.losePage; simp

@[simp] theorem State.readCourse_sound {s : State} {channel res} : Sound (s.readCourse channel res) ↔ Sound s := by
  unfold State.readCourse; simp

@[simp] theorem State.entryDone_sound {s : State} {coach e pages} : Sound (s.entryDone coach e pages) ↔ Sound s := by
  unfold State.entryDone; dsimp only; (repeat' split) <;> simp

@[simp] theorem State.leaveArrays_sound {s : State} {runs} : Sound (s.leaveArrays runs) ↔ Sound s := by
  unfold State.leaveArrays; simp

@[simp] theorem execCsuPageRead_sound {s : State} {csu res t} (h : Sound s) : Keeps (execCsuPageRead csu res t s) := by
  unfold execCsuPageRead; dsimp only; (repeat' split) <;> simp [h]

/-! ### Machine/Members.lean -/

@[simp] theorem State.sendOutcome_sound {s : State} {m stamp status detail} : Sound (s.sendOutcome m stamp status detail) ↔ Sound s := by
  unfold State.sendOutcome; simp

@[simp] theorem State.queueReady_sound {s : State} {k shard l} : Sound (s.queueReady k shard l) ↔ Sound s := by
  induction l generalizing s with
  | nil => rfl
  | cons w l ih => unfold State.queueReady; simp [ih]

@[simp] theorem State.pullBack_sound {s : State} {k i shard} : Sound (s.pullBack k i shard) ↔ Sound s := by
  unfold State.pullBack; simp

@[simp] theorem State.flushReady_sound {s : State} {k shard} : Sound (s.flushReady k shard) ↔ Sound s := by
  unfold State.flushReady; simp

theorem State.chargeRow_sound {s x : State} {c d k i b n} (e : s.chargeRow c d k i b n = .inr x) : Sound x ↔ Sound s := by
  unfold State.chargeRow at e
  extract_lets f n map forming t1 t2 s1 s2 at e
  split_ifs at e
  cases e
  have h1 : Sound s1 ↔ Sound s := by simp [s1]
  have h2 : Sound s2 ↔ Sound s1 := by simp [s2]
  simp [h1, h2]

@[simp] theorem State.dropMember_sound {s : State} {k i} : Sound (s.dropMember k i) ↔ Sound s := by
  unfold State.dropMember; split <;> simp

theorem State.takeSlot_sound {s x : State} {n} (e : s.takeSlot = some (n, x)) : Sound x ↔ Sound s := by
  unfold State.takeSlot at e
  repeat' split at e
  all_goals cases e
  all_goals simp

@[simp] theorem State.askAssignment_sound {s : State} {k i} : Sound (s.askAssignment k i) ↔ Sound s := by
  unfold State.askAssignment; (repeat' split) <;> simp

@[simp] theorem State.notePeaks_sound {s : State} {c r} : Sound (s.notePeaks c r) ↔ Sound s := by
  unfold State.notePeaks; simp

@[simp] theorem State.resolveMember_sound {s : State} {k i} : Sound (s.resolveMember k i) ↔ Sound s := by
  unfold State.resolveMember
  split
  · rfl
  split
  · extract_lets id s1 v lex found writes row delta s2
    clear_value found row
    have h2 : Sound s2 ↔ Sound s := by unfold s2; split <;> simp [s1]
    split
    · simp
    clear_value s2
    rw [← h2]
    refine State.askAssignment_sound.trans (State.modMember_sound.trans ?_)
    cases found with
    | some x => rfl
    | none =>
      dsimp only
      split
      next e =>
        split at e
        · simp [State.takeSlot_sound e]
        · cases e
      · rfl
  · rfl

@[simp] theorem State.endMember_sound {s : State} {k i status detail} : Sound (s.endMember k i status detail) ↔ Sound s := by
  unfold State.endMember; dsimp only; (repeat' split) <;> simp

@[simp] theorem State.gbAppend_sound {s : State} {c list e} : Sound (s.gbAppend c list e) ↔ Sound s := by
  unfold State.gbAppend; split <;> simp

@[simp] theorem State.appendMember_sound {s : State} {k i} : Sound (s.appendMember k i) ↔ Sound s := by
  unfold State.appendMember; (repeat' split) <;> simp

@[simp] theorem State.applyAcc_sound {s : State} {shard slot} : Sound (s.applyAcc shard slot) ↔ Sound s := by
  unfold State.applyAcc; dsimp only; (repeat' split) <;> simp

@[simp] theorem State.applyAll_sound {s : State} {shard slot n} : Sound (s.applyAll shard slot n) ↔ Sound s := by
  induction n generalizing s with
  | zero => rfl
  | succ n ih => unfold State.applyAll; split <;> simp [ih]

@[simp] theorem State.stampGb_sound {s : State} {lists id stamp} : Sound (s.stampGb lists id stamp) ↔ Sound s := by
  unfold State.stampGb; simp

@[simp] theorem State.recharge_sound {s : State} {c d w x} : Sound (s.recharge c d w x) ↔ Sound s := by
  unfold State.recharge; (repeat' split) <;> simp

@[simp] theorem State.stampMember_sound {s : State} {shard k i} : Sound (s.stampMember shard k i) ↔ Sound s := by
  unfold State.stampMember; dsimp only; (repeat' split) <;> simp

/-! ### Machine/Merge.lean -/

@[simp] theorem State.passShare_sound {s : State} {k range} : Sound (s.passShare k range) ↔ Sound s := by
  unfold State.passShare; split <;> simp

@[simp] theorem execOverflowPass_sound {s : State} {k} (h : Sound s) : Keeps (execOverflowPass k s) := by
  unfold execOverflowPass; simp [h]

@[simp] theorem execSpillPass_sound {s : State} {k} (h : Sound s) : Keeps (execSpillPass k s) := by
  unfold execSpillPass; simp [h]

@[simp] theorem execSpillShortDeadline_sound {s : State} {k t} (h : Sound s) : Keeps (execSpillShortDeadline k t s) := by
  unfold execSpillShortDeadline; dsimp only; (repeat' split) <;> simp [h]

@[simp] theorem State.offerForming_sound {s : State} {c d k r l} : Sound (s.offerForming c d k r l) ↔ Sound s := by
  induction l generalizing s with
  | nil => rfl
  | cons x l ih =>
    unfold State.offerForming
    split
    · refine ih.trans (Iff.trans State.offer_sound ?_); simp
    · exact ih

@[simp] theorem execFormingShardScore_sound {s : State} {k shard} (h : Sound s) : Keeps (execFormingShardScore k shard s) := by
  unfold execFormingShardScore
  dsimp only
  split
  · simp [h]
  split
  · split
    · split
      · simp [h]
      split
      · simp [h]
      next e => simp [State.reserveSelection_sound e, h]
    · simp [h]
  · simp [h]

@[simp] theorem execNodeMerge_sound {s : State} {k} (h : Sound s) : Keeps (execNodeMerge k s) := by
  unfold execNodeMerge; split <;> simp [h]

@[simp] theorem State.cacheRow_sound {s : State} {shard slot home} : Sound (s.cacheRow shard slot home) ↔ Sound s := by
  unfold State.cacheRow; simp

@[simp] theorem State.loseRow_sound {s : State} {shard slot} : Sound (s.loseRow shard slot) ↔ Sound s := by
  unfold State.loseRow; simp

@[simp] theorem execPorterRowRead_sound {s : State} {tile res t} (h : Sound s) : Keeps (execPorterRowRead tile res t s) := by
  unfold execPorterRowRead
  extract_lets s0 rowOf may
  have h0 : Sound s0 := by simp [s0, h]
  clear_value s0 rowOf may
  split
  · simp [h0]
  · extract_lets k s1 found current home channel was gone s2 s3 s4 s5 s6 id s7
    have h2 : Sound s2 := by simp [s2, s1, h0]
    have h3 : Sound s3 := by unfold s3; clear_value channel; split <;> simp [h2]
    have h7 : Sound s7 := by simp [s7, s6, s5, s4, h3]
    clear_value s7
    split <;> simp [h7]

@[simp] theorem State.rerankAll_sound {s : State} {c h l} : Sound (s.rerankAll c h l).2.2 ↔ Sound s := by
  induction l generalizing s with
  | nil => rfl
  | cons x l ih =>
    unfold State.rerankAll
    split
    · exact ih
    · split
      · exact ih.trans State.scoreOf_sound
      · exact ih

@[simp] theorem execRerankGather_sound {s : State} {k} (h : Sound s) : Keeps (execRerankGather k s) := by
  unfold execRerankGather; dsimp only; (repeat' split) <;> simp [h]

@[simp] theorem State.reserveMerge_sound {s : State} {r p} : Sound (s.reserveMerge r p) ↔ Sound s := by
  unfold State.reserveMerge; dsimp only; (repeat' split) <;> simp

@[simp] theorem State.plannedOf_sound {s : State} {probes shard} : Sound (s.plannedOf probes shard).2 ↔ Sound s := by
  unfold State.plannedOf; split <;> simp

@[simp] theorem State.plannedAll_sound {s : State} {p l} : Sound (s.plannedAll p l).2 ↔ Sound s := by
  induction l generalizing s with
  | nil => rfl
  | cons x l ih => exact ih.trans State.plannedOf_sound

@[simp] theorem State.finishSearch_sound {s : State} {r p answers got io} : Sound (s.finishSearch r p answers got io) ↔ Sound s := by
  unfold State.finishSearch; dsimp only; (repeat' split) <;> simp

@[simp] theorem execCoordinatorAnswerReceive_sound {s : State} {num peer io t} (h : Sound s) :
    Keeps (execCoordinatorAnswerReceive num peer io t s) := by
  unfold execCoordinatorAnswerReceive; dsimp only; (repeat' split) <;> simp [h]

@[simp] theorem execSearchTimeout_sound {s : State} {num io t} (h : Sound s) : Keeps (execSearchTimeout num io t s) := by
  unfold execSearchTimeout; dsimp only; (repeat' split) <;> simp [h]

end Sys2Proof.Machine
end

-- ==== Proofs: Updates and admission keep the invariant (O5) ====
section
/-! PROOFS (O5). Updates, their order at the ledgers, and the admission of commands. -/

namespace Sys2Proof.Machine

open Sys2Proof

/-! ### Machine/Updates.lean -/

@[simp] theorem State.sendMember_sound {s : State} {c op m} : Sound (s.sendMember c op m) ↔ Sound s := by
  unfold State.sendMember; split <;> simp

@[simp] theorem State.startMembers_sound {s : State} {r c kind byRef fmt items} : Sound (s.startMembers r c kind byRef fmt items) ↔
    Sound s := by
  unfold State.startMembers; simp

@[simp] theorem State.insertCommand_sound {s : State} {num op kind io} : Sound (s.insertCommand num op kind io) ↔ Sound s := by
  unfold State.insertCommand
  refine State.dataCommit_sound fun x r b => ?_
  split
  · simp
  · dsimp only; split <;> simp

@[simp] theorem execInsert_sound {s : State} {num io t} (h : Sound s) : Keeps (execInsert num io t s) := by
  unfold execInsert; simp [h]

@[simp] theorem execUpsert_sound {s : State} {num io t} (h : Sound s) : Keeps (execUpsert num io t s) := by
  unfold execUpsert; simp [h]

@[simp] theorem execDelete_sound {s : State} {num io t} (h : Sound s) : Keeps (execDelete num io t s) := by
  unfold execDelete
  refine keeps_next.2 ((State.dataCommit_sound fun x r b => ?_).2 (by simp [h]))
  (repeat' split) <;> simp

@[simp] theorem execScatter_sound {s : State} {num io t} (h : Sound s) : Keeps (execScatter num io t s) := by
  unfold execScatter
  refine keeps_next.2 ((State.dataCommit_sound fun x r b => ?_).2 (by simp [h]))
  dsimp only; (repeat' split) <;> simp

@[simp] theorem execMemberArrival_sound {s : State} {m t} (h : Sound s) : Keeps (execMemberArrival m t s) := by
  unfold execMemberArrival
  extract_lets s0
  have h0 : Sound s0 := by simp [s0, h]
  clear_value s0
  split
  next m x e =>
    have hx : Sound x := by
      split at e
      · split at e <;> cases e
        next e => exact (State.takeAdmitted_sound e).2 h0
        · exact h0
      · cases e; simpa using h0
    (repeat' split) <;> simp [hx]

@[simp] theorem execInsertAssignment_sound {s : State} {k idx} (h : Sound s) : Keeps (execInsertAssignment k idx s) := by
  unfold execInsertAssignment; dsimp only; (repeat' split) <;> simp [h]

@[simp] theorem execWriteBufferAccept_sound {s : State} {k idx t} (h : Sound s) : Keeps (execWriteBufferAccept k idx t s) := by
  unfold execWriteBufferAccept
  extract_lets s0
  have h0 : Sound s0 := by simp [s0, h]
  clear_value s0
  split
  · simp [h0]
  split
  · split
    · simp [h0]
    split
    · simp [h0]
    extract_lets base size jbytes adds fresh
    clear_value size
    split
    · simp [h0]
    split
    · simp [h0]
    split
    · simp [h0]
    split
    · simp [h0]
    next x e =>
      have hx : Sound x := by
        split at e
        · cases e; exact h0
        · exact (State.chargeRow_sound e).2 h0
      simp [hx]
  · simp [h0]

@[simp] theorem execGuestbookWaitEnd_sound {s : State} {k idx t} (h : Sound s) : Keeps (execGuestbookWaitEnd k idx t s) := by
  unfold execGuestbookWaitEnd; dsimp only; (repeat' split) <;> simp [h]

@[simp] theorem State.waitOver_sound {s : State} {k idx stages} : Sound (s.waitOver k idx stages) ↔ Sound s := by
  unfold State.waitOver; split <;> simp

@[simp] theorem execGuestbookWaitTimeout_sound {s : State} {k idx t} (h : Sound s) : Keeps (execGuestbookWaitTimeout k idx t s) := by
  unfold execGuestbookWaitTimeout; simp [h]

@[simp] theorem execFormationWaitTimeout_sound {s : State} {k idx t} (h : Sound s) : Keeps (execFormationWaitTimeout k idx t s) := by
  unfold execFormationWaitTimeout; simp [h]

@[simp] theorem State.stampBarrier_sound {s : State} {d k} : Sound (s.stampBarrier d k) ↔ Sound s := by
  unfold State.stampBarrier; simp

@[simp] theorem execLedgerStamp_sound {s : State} {shard t} (h : Sound s) : Keeps (execLedgerStamp shard t s) := by
  unfold execLedgerStamp; dsimp only; (repeat' split) <;> simp [h]

@[simp] theorem execAccumulateApply_sound {s : State} {shard slot} (h : Sound s) : Keeps (execAccumulateApply shard slot s) := by
  unfold execAccumulateApply; simp [h]

@[simp] theorem State.finishMutation_sound {s : State} {r ms io} : Sound (s.finishMutation r ms io) ↔ Sound s := by
  unfold State.finishMutation; split <;> simp

@[simp] theorem State.takeOutcome_sound {s : State} {k i o io} : Sound (s.takeOutcome k i o io) ↔ Sound s := by
  unfold State.takeOutcome; (repeat' split) <;> simp

@[simp] theorem execMemberOutcomeReceive_sound {s : State} {m io t} (h : Sound s) : Keeps (execMemberOutcomeReceive m io t s) := by
  unfold execMemberOutcomeReceive; dsimp only; (repeat' split) <;> simp [h]

@[simp] theorem execMemberOutcomeQuery_sound {s : State} {num idx r io t} (h : Sound s) :
    Keeps (execMemberOutcomeQuery num idx r io t s) := by
  unfold execMemberOutcomeQuery; dsimp only; (repeat' split) <;> simp [h]

@[simp] theorem State.promote_sound {s : State} {f c l} : Sound (s.promote f c l) ↔ Sound s := by
  induction l generalizing s with
  | nil => rfl
  | cons x l ih =>
    cases x with
    | row ref _ =>
      unfold State.promote
      dsimp only
      split
      · split
        · split
          · exact ih.trans State.quotaRefuse_sound
          · split
            · exact ih
            · refine ih.trans (State.modShard_sound.trans State.modFn_sound)
        · exact ih
      · exact ih
    | _ => exact ih

/-- One row that a gather read, put in the cache. -/
def gatherCache (s : State) (o : Option (Shard × Slot)) : State :=
  match o with
  | some (d, y) => match d.rowAt y d.counter with | .row _ h => if y.lost then s else s.cacheRow d.id y.num h | _ => s
  | none => s

theorem gatherCache_sound {s : State} {l : List (Option (Shard × Slot))} : Sound (l.foldl gatherCache s) ↔ Sound s :=
  sound_foldl fun s o => by unfold gatherCache; (repeat' split) <;> simp

@[simp] theorem execGather_sound {s : State} {num peers stamps io t} (h : Sound s) : Keeps (execGather num peers stamps io t s) := by
  unfold execGather
  extract_lets s0 e kind form flags count byRef need read
  have h0 : Sound s0 := by simp [s0, h]
  have hr : ∀ x r b c, Sound (read x r b c) ↔ Sound x := by
    intro x r b c
    unfold read
    extract_lets names shardOf inColl here waits w channels ledgers x1
    have h1 : Sound x1 ↔ Sound x := State.requestOnly_sound
    clear_value x1 inColl here waits w channels ledgers
    split
    · rfl
    rw [← h1]
    split
    · exact sound_foldl fun s i => State.joinLedger_sound
    · refine State.passLedgers_sound fun y => ?_
      extract_lets y1 replies own drop part degraded status fl rows off table head data y2 y3 y4 y5
      have h2 : Sound y1 ↔ Sound y := State.useGrants_sound
      have h3 : Sound y2 ↔ Sound y1 := State.modFn_sound
      have h4 : Sound y3 ↔ Sound y2 := State.countReads_sound
      have h5 : Sound y4 ↔ Sound y3 := gatherCache_sound
      have h6 : Sound y5 ↔ Sound y4 := State.complete_sound
      rw [← h2]
      split
      · exact State.complete_sound
      · rw [← h3, ← h4, ← h5, ← h6]
        split
        · exact State.promote_sound
        · rfl
  clear_value s0 read
  split
  · split
    · split <;> simp [h0, hr]
    · refine keeps_next.2 ((State.dataCommit_sound fun x r b => ?_).2 h0)
      split
      · simp
      split
      · simp
      clear_value byRef
      dsimp only
      split
      · simp
      split
      · simp [hr]
      · exact State.modReq_sound.trans (sound_foldl fun s o => State.sendWork_sound)
  · simp [h0]

/-! ### Machine/Ordering.lean -/

@[simp] theorem State.sweepBarriers_sound {s : State} : Sound (s.sweepBarriers) ↔ Sound s := by
  unfold State.sweepBarriers; simp

@[simp] theorem execBarrierQueue_sound {s : State} {num io t} (h : Sound s) : Keeps (execBarrierQueue num io t s) := by
  unfold execBarrierQueue; simp [h]

@[simp] theorem execBarrierQueueRelease_sound {s : State} {q io t} (h : Sound s) : Keeps (execBarrierQueueRelease q io t s) := by
  unfold execBarrierQueueRelease; dsimp only; (repeat' split) <;> simp [h]

@[simp] theorem execBarrierShard_sound {s : State} {num reply io t} (h : Sound s) : Keeps (execBarrierShard num reply io t s) := by
  unfold execBarrierShard
  extract_lets s0 e shard owner w pass
  have h0 : Sound s0 := by simp [s0, h]
  have hp : ∀ x r b, Sound (pass x r b) ↔ Sound x := by
    intro x r b
    dsimp only [pass]
    (repeat' split) <;> simp
  clear_value s0 owner pass
  split
  · simp [hp, h0]
  · split
    · simp [h0]
    · refine keeps_next.2 (State.sweepBarriers_sound.2 ((State.dataCommit_sound fun x r b => ?_).2 h0))
      split <;> simp [hp]

@[simp] theorem execFlush_sound {s : State} {num io t} (h : Sound s) : Keeps (execFlush num io t s) := by
  unfold execFlush
  refine keeps_next.2 ((State.dataCommit_sound fun x r b => ?_).2 (by simp [h]))
  (repeat' split) <;> simp

@[simp] theorem execFlushDone_sound {s : State} {num peers io t} (h : Sound s) : Keeps (execFlushDone num peers io t s) := by
  unfold execFlushDone; dsimp only; (repeat' split) <;> simp [h]

@[simp] theorem State.grantMailbox_sound {s : State} {r input} (h : Sound s) : Sound (s.grantMailbox r input) := by
  unfold State.grantMailbox; dsimp only; (repeat' split) <;> simp [h]

@[simp] theorem execAgeArbiterGrant_sound {s : State} {arb input t} (h : Sound s) : Keeps (execAgeArbiterGrant arb input t s) := by
  unfold execAgeArbiterGrant; dsimp only; (repeat' split) <;> simp [h]

@[simp] theorem execBackgroundWindow_sound {s : State} {arb t} (h : Sound s) : Keeps (execBackgroundWindow arb t s) := by
  unfold execBackgroundWindow; simp [h]

@[simp] theorem State.holdBackground_sound {s : State} {several w arb} : Sound (s.holdBackground several w arb) ↔ Sound s := by
  unfold State.holdBackground; simp

@[simp] theorem State.background_sound {s : State} {arbs kind target several f} (hf : ∀ x, Sound (f x) ↔ Sound x) :
    Sound (s.background arbs kind target several f) ↔ Sound s := by
  unfold State.background; simp [hf]

@[simp] theorem State.dropBackground_sound {s : State} {kind target} : Sound (s.dropBackground kind target) ↔ Sound s := by
  unfold State.dropBackground; simp

/-! ### Machine/Admission.lean -/

@[simp] theorem State.overPeakEvent_sound {s : State} {f} : Sound (s.overPeakEvent f) ↔ Sound s := by
  unfold State.overPeakEvent; simp

@[simp] theorem execOverPeakEnd_sound {s : State} {fn t} (h : Sound s) : Keeps (execOverPeakEnd fn t s) := by
  unfold execOverPeakEnd; simp [h]

@[simp] theorem execInterruptCeilingRefill_sound {s : State} {fn t} (h : Sound s) : Keeps (execInterruptCeilingRefill fn t s) := by
  unfold execInterruptCeilingRefill; dsimp only; (repeat' split) <;> simp [h]

@[simp] theorem execCoalesceDelayExpiry_sound {s : State} {q t} (h : Sound s) : Keeps (execCoalesceDelayExpiry q t s) := by
  unfold execCoalesceDelayExpiry; dsimp only; (repeat' split) <;> simp [h]

@[simp] theorem State.admRefresh_sound {s : State} : Sound (s.admRefresh) ↔ Sound s := by
  unfold State.admRefresh; simp

@[simp] theorem State.setDeficit_sound {s : State} {q n} : Sound (s.setDeficit q n) ↔ Sound s := by
  unfold State.setDeficit; simp

@[simp] theorem State.admVisit_sound {s : State} {i q} : Sound (s.admVisit i q) ↔ Sound s := by
  unfold State.admVisit; simp

@[simp] theorem State.admSkip_sound {s : State} {i q} : Sound (s.admSkip i q) ↔ Sound s := by
  unfold State.admSkip; simp

@[simp] theorem State.admitEntry_sound {s : State} {u num e cqOk} : Sound (s.admitEntry u num e cqOk) ↔ Sound s := by
  unfold State.admitEntry
  extract_lets f op c own ex x committed s1 r s2 s3
  have h1 : Sound s1 ↔ Sound s := State.modFn_sound
  have h2 : Sound s2 ↔ Sound s1 := State.modQueue_sound
  have h3 : Sound s3 ↔ Sound s2 := Iff.rfl
  rw [← h1, ← h2, ← h3]
  split
  · rfl
  · exact State.complete_sound

@[simp] theorem State.peakEvents_sound {s : State} : Sound (s.peakEvents) ↔ Sound s := by
  unfold State.peakEvents; simp

@[simp] theorem State.grantOwed_sound {s : State} : Sound (s.grantOwed) ↔ Sound s := by
  unfold State.grantOwed; simp

@[simp] theorem State.admitBarrier_sound {s : State} {g} : Sound (s.admitBarrier g) ↔ Sound s := by
  unfold State.admitBarrier; (repeat' split) <;> simp

@[simp] theorem State.admitForwarded_sound {s : State} {q} : Sound (s.admitForwarded q) ↔ Sound s := by
  unfold State.admitForwarded; split <;> simp

@[simp] theorem execAdmission_sound {s : State} {entry input cqOk t} (h : Sound s) : Keeps (execAdmission entry input cqOk t s) := by
  unfold execAdmission; dsimp only; (repeat' split) <;> simp [h]

@[simp] theorem State.toWheel_sound {s : State} {port l} : Sound (s.toWheel port l) ↔ Sound s := by
  induction l generalizing s with
  | nil => rfl
  | cons f l ih => unfold State.toWheel; simp [ih]

@[simp] theorem State.egPick_sound {s : State} {port n l} : Sound (s.egPick port n l).1 ↔ Sound s := by
  induction n generalizing s l with
  | zero => rfl
  | succ n ih =>
    cases l with
    | nil => rfl
    | cons f l =>
      unfold State.egPick
      extract_lets key had d cost put
      split
      · simp
      · exact ih.trans State.modSched_sound

@[simp] theorem State.sendFrame_sound {s : State} {port f} : Sound (s.sendFrame port f) ↔ Sound s := by
  unfold State.sendFrame; simp

@[simp] theorem State.markCredits_sound {s : State} {port} : Sound (s.markCredits port) ↔ Sound s := by
  unfold State.markCredits; simp

@[simp] theorem execEgressSend_sound {s : State} {port t} (h : Sound s) : Keeps (execEgressSend port t s) := by
  unfold execEgressSend
  dsimp only
  split
  · simp [h]
  split
  · simp [h]
  split
  · simp [h]
  split
  next e => 
    have := congrArg (fun p => Sound p.1) e
    simp [h] at this
    simp [this]
  next e => 
    have := congrArg (fun p => Sound p.1) e
    simp [h] at this
    simp [this]

@[simp] theorem execTimingWheelSlot_sound {s : State} {q port t} (h : Sound s) : Keeps (execTimingWheelSlot q port t s) := by
  unfold execTimingWheelSlot; simp [h]

end Sys2Proof.Machine
end

-- ==== Proofs: Upkeep and flash keep the invariant (O5) ====
section
/-! PROOFS (O5). Background work on lists and shards, and the flash channels. -/

namespace Sys2Proof.Machine

open Sys2Proof

/-! ### Machine/Upkeep.lean -/

@[simp] theorem State.linkLists_sound {s : State} {c d ids} : Sound (s.linkLists c d ids) ↔ Sound s := by
  unfold State.linkLists; simp

@[simp] theorem State.reuseList_sound {s : State} {i} : Sound (s.reuseList i) ↔ Sound s := by
  unfold State.reuseList; simp

theorem State.takeList_sound {s x : State} {n} (e : s.takeList = some (n, x)) : Sound x ↔ Sound s := by
  unfold State.takeList at e
  dsimp only at e
  split at e
  · cases e; simp
  · split at e
    · cases e; simp
    · obtain ⟨i, -, hi⟩ := Option.map_eq_some_iff.1 e
      cases hi; simp

theorem State.takeLists_sound {s x : State} {n l} (e : s.takeLists n = some (l, x)) : Sound x ↔ Sound s := by
  induction n generalizing s l with
  | zero => cases e; rfl
  | succ n ih =>
    unfold State.takeLists at e
    split at e
    · cases e
    next h =>
      obtain ⟨y, hy, he⟩ := Option.map_eq_some_iff.1 e
      cases he
      exact (ih hy).trans (State.takeList_sound h)

@[simp] theorem State.addList_sound {s : State} {c l} : Sound (s.addList c l) ↔ Sound s := by
  unfold State.addList; simp

@[simp] theorem State.cutMaint_sound {s : State} {list} : Sound (s.cutMaint list) ↔ Sound s := by
  unfold State.cutMaint; dsimp only; (repeat' split) <;> simp

@[simp] theorem execCompactionPlan_sound {s : State} {list t} (h : Sound s) : Keeps (execCompactionPlan list t s) := by
  unfold execCompactionPlan; dsimp only; (repeat' split) <;> simp [h]

@[simp] theorem State.writeMaint_sound {s : State} {l m kind arbs} : Sound (s.writeMaint l m kind arbs) ↔ Sound s := by
  unfold State.writeMaint; simp

@[simp] theorem State.switchMaint_sound {s : State} {list shard go} (hgo : ∀ x c d l m, Sound (go x c d l m) ↔ Sound x) :
    Sound (s.switchMaint list shard go) ↔ Sound s := by
  unfold State.switchMaint
  refine State.passLedgers_sound fun x => ?_
  split <;> simp [hgo]

@[simp] theorem State.compact_sound {s : State} {c d l m} : Sound (s.compact c d l m) ↔ Sound s := by
  unfold State.compact; simp

@[simp] theorem execCompactionSwitch_sound {s : State} {list t} (h : Sound s) : Keeps (execCompactionSwitch list t s) := by
  unfold execCompactionSwitch; dsimp only; (repeat' split) <;> simp [h]

@[simp] theorem execCompactionRelease_sound {s : State} {list t} (h : Sound s) : Keeps (execCompactionRelease list t s) := by
  unfold execCompactionRelease; dsimp only; (repeat' split) <;> simp [h]

@[simp] theorem execGuestbookChunkFree_sound {s : State} {list} (h : Sound s) : Keeps (execGuestbookChunkFree list s) := by
  unfold execGuestbookChunkFree; split <;> simp [h]

@[simp] theorem execListLengthTick_sound {s : State} {shard t} (h : Sound s) : Keeps (execListLengthTick shard t s) := by
  unfold execListLengthTick; dsimp only; (repeat' split) <;> simp [h]

@[simp] theorem State.freeVectors_sound {s : State} {p n} : Sound (s.freeVectors p n).2 ↔ Sound s := by
  induction n generalizing s with
  | zero => rfl
  | succ n ih => exact ih.trans State.takeFree_sound

@[simp] theorem State.newCentroids_sound {s : State} {p d olds m} : Sound (s.newCentroids p d olds m).2 ↔ Sound s := by
  unfold State.newCentroids; dsimp only; (repeat' split) <;> simp

@[simp] theorem State.asCompaction_sound {s : State} {l m} : Sound (s.asCompaction l m) ↔ Sound s := by
  unfold State.asCompaction; split <;> simp

@[simp] theorem State.splitMerge_sound {s : State} {c d l m} : Sound (s.splitMerge c d l m) ↔ Sound s := by
  unfold State.splitMerge
  extract_lets olds gone recs moved ents mine
  split
  · exact State.asCompaction_sound
  next ids x e =>
  have hx : Sound x ↔ Sound s := by
    split at e
    · cases e
    · exact State.takeLists_sound e
  split
  next subs y ey =>
  extract_lets side
  split
  next w z ez =>
  extract_lets z1 z2 z3 held z4
  have hz : Sound z ↔ Sound s :=
    ((sound_snd ez).trans State.takeSwitch_sound).trans (((sound_snd ey).trans State.newCentroids_sound).trans hx)
  have h1 : Sound z1 ↔ Sound z := sound_foldl fun _ _ => State.addList_sound
  have h2 : Sound z2 ↔ Sound z1 := Iff.rfl
  have h3 : Sound z3 ↔ Sound z2 := State.dropReader_sound.trans State.linkLists_sound
  have h4 : Sound z4 ↔ Sound z3 := State.modEng_sound
  rw [← hz, ← h1, ← h2, ← h3, ← h4]
  exact sound_foldl fun _ _ => State.askAssignment_sound

@[simp] theorem execSplitMergeSwitch_sound {s : State} {list t} (h : Sound s) : Keeps (execSplitMergeSwitch list t s) := by
  unfold execSplitMergeSwitch; dsimp only; (repeat' split) <;> simp [h]

@[simp] theorem execSplitMergeRelease_sound {s : State} {list} (h : Sound s) : Keeps (execSplitMergeRelease list s) := by
  unfold execSplitMergeRelease; (repeat' split) <;> simp [h]

@[simp] theorem execGraphRepair_sound {s : State} {shard} (h : Sound s) : Keeps (execGraphRepair shard s) := by
  unfold execGraphRepair; split <;> simp [h]

@[simp] theorem execTombstoneFold_sound {s : State} {shard id stamp} (h : Sound s) : Keeps (execTombstoneFold shard id stamp s) := by
  unfold execTombstoneFold; (repeat' split) <;> simp [h]

@[simp] theorem execTombstonePendingClear_sound {s : State} {shard id stamp} (h : Sound s) :
    Keeps (execTombstonePendingClear shard id stamp s) := by
  unfold execTombstonePendingClear; split <;> simp [h]

@[simp] theorem execTombstoneGuardConvert_sound {s : State} {shard id stamp} (h : Sound s) :
    Keeps (execTombstoneGuardConvert shard id stamp s) := by
  unfold execTombstoneGuardConvert; (repeat' split) <;> simp [h]

@[simp] theorem execSlotFree_sound {s : State} {shard slot} (h : Sound s) : Keeps (execSlotFree shard slot s) := by
  unfold execSlotFree; split <;> simp [h]

@[simp] theorem execRowHistoryRemove_sound {s : State} {shard slot stamp} (h : Sound s) :
    Keeps (execRowHistoryRemove shard slot stamp s) := by
  unfold execRowHistoryRemove; (repeat' split) <;> simp [h]

@[simp] theorem execFormationStart_sound {s : State} {shard} (h : Sound s) : Keeps (execFormationStart shard s) := by
  unfold execFormationStart; split <;> simp [h]

@[simp] theorem State.trainShard_sound {s : State} {c d} : Sound (s.trainShard c d) ↔ Sound s := by
  unfold State.trainShard; simp

@[simp] theorem State.assignAll_sound {s : State} {c d l} : Sound (s.assignAll c d l).2 ↔ Sound s := by
  induction l generalizing s with
  | nil => rfl
  | cons x l ih => exact ih.trans State.scoreL1_sound

@[simp] theorem State.applySlots_sound {s : State} {shard l} : Sound (s.applySlots shard l) ↔ Sound s := by
  induction l generalizing s with
  | nil => rfl
  | cons n l ih => exact ih.trans State.applyAll_sound

@[simp] theorem State.retier_sound {s : State} {c d w} : Sound (s.retier c d w) ↔ Sound s := by
  unfold State.retier; simp

@[simp] theorem State.form_sound {s : State} {c d ids} : Sound (s.form c d ids) ↔ Sound s := by
  unfold State.form; dsimp only; (repeat' split) <;> simp

@[simp] theorem State.switchFormation_sound {s : State} {shard} : Sound (s.switchFormation shard) ↔ Sound s := by
  unfold State.switchFormation
  refine State.passLedgers_sound fun x => ?_
  split
  · rfl
  next ids y e =>
  obtain ⟨d, -, e⟩ := Option.bind_eq_some_iff.1 e
  rw [← State.takeLists_sound e]
  extract_lets z
  have hz : Sound z ↔ Sound y := State.applySlots_sound
  rw [← hz]
  split
  · exact State.writeColumns_sound.trans State.form_sound
  · rfl

@[simp] theorem execFormationSwitch_sound {s : State} {shard t} (h : Sound s) : Keeps (execFormationSwitch shard t s) := by
  unfold execFormationSwitch; dsimp only; (repeat' split) <;> simp [h]

@[simp] theorem execFormationBufferRelease_sound {s : State} {shard} (h : Sound s) : Keeps (execFormationBufferRelease shard s) := by
  unfold execFormationBufferRelease; (repeat' split) <;> simp [h]

@[simp] theorem State.modSlot_sound {s : State} {shard slot f} : Sound (s.modSlot shard slot f) ↔ Sound s := by
  unfold State.modSlot; simp

@[simp] theorem execRowMigrationPlan_sound {s : State} {shard slot toPool} (h : Sound s) :
    Keeps (execRowMigrationPlan shard slot toPool s) := by
  unfold execRowMigrationPlan; (repeat' split) <;> simp [h]

@[simp] theorem execRowMigrationCopyEnd_sound {s : State} {shard slot} (h : Sound s) : Keeps (execRowMigrationCopyEnd shard slot s) := by
  unfold execRowMigrationCopyEnd
  extract_lets s0
  have h0 : Sound s0 := by simp [s0, h]
  clear_value s0
  split
  · split
    · simp [h0]
    · extract_lets f now undo arbs s1 s2
      have hu : ∀ x, Sound (undo x) ↔ Sound x := by
        intro x
        unfold undo
        split <;> simp
      have h1 : Sound s1 := by simp [s1, h0]
      have h2 : Sound s2 := by simp [s2, h1]
      clear_value undo arbs
      split
      · simp [h0]
      split
      · simp [h0]
      split
      · simp [h1]
      split
      · split <;> simp [hu, h2]
      refine keeps_next.2 ((State.passLedgers_sound fun x => ?_).2 h1)
      extract_lets x1 x2 x3 x4
      have hx2 : Sound x2 ↔ Sound x := by unfold x2; split <;> simp [x1]
      have hx3 : Sound x3 ↔ Sound x2 := by unfold x3; split <;> simp [hu]
      have hx4 : Sound x4 ↔ Sound x3 := by unfold x4; split <;> simp
      rw [← hx2, ← hx3, ← hx4]
      exact State.modShard_sound.trans State.takeSwitch_sound
  · simp [h0]

@[simp] theorem execRowMigrationRelease_sound {s : State} {shard slot} (h : Sound s) : Keeps (execRowMigrationRelease shard slot s) := by
  unfold execRowMigrationRelease; (repeat' split) <;> simp [h]

@[simp] theorem execPlacementChange_sound {s : State} {coll t} (h : Sound s) : Keeps (execPlacementChange coll t s) := by
  unfold execPlacementChange; dsimp only; (repeat' split) <;> simp [h]

@[simp] theorem State.dropUpkeep_sound {s : State} {shard} : Sound (s.dropUpkeep shard) ↔ Sound s := by
  unfold State.dropUpkeep; simp

@[simp] theorem State.forwardMember_sound {s : State} {w node} : Sound (s.forwardMember w node) ↔ Sound s := by
  unfold State.forwardMember; simp

@[simp] theorem State.setOwner_sound {s : State} {coll shard node} : Sound (s.setOwner coll shard node) ↔ Sound s := by
  unfold State.setOwner; simp

@[simp] theorem State.handShard_sound {s : State} {shard} : Sound (s.handShard shard) ↔ Sound s := by
  unfold State.handShard
  split
  · extract_lets queries s1 ms s2 s3 image s4
    have h1 : Sound s1 ↔ Sound s := State.applySlots_sound
    have h2 : Sound s2 ↔ Sound s1 := sound_foldl fun _ _ => State.forwardMember_sound
    have h3 : Sound s3 ↔ Sound s2 := State.dropUpkeep_sound
    have h4 : Sound s4 ↔ Sound s3 := State.modShard_sound
    split
    · rfl
    · rw [← h1, ← h2, ← h3, ← h4]
      exact State.produceFw_sound
  · rfl

theorem State.takeSlots_sound {s x : State} {l m} (e : s.takeSlots l = some (m, x)) : Sound x ↔ Sound s := by
  induction l generalizing s m with
  | nil => cases e; rfl
  | cons i l ih =>
    unfold State.takeSlots at e
    simp only [Option.bind_eq_bind, Option.bind_eq_some_iff] at e
    obtain ⟨⟨n, y⟩, hy, ⟨k, z⟩, hz, he⟩ := e
    cases he
    exact (ih hz).trans (State.takeSlot_sound hy)

theorem State.takeShard_sound {s x : State} {c m} (e : s.takeShard c m = some x) : Sound x ↔ Sound s := by
  unfold State.takeShard at e
  simp only [Option.bind_eq_bind, Option.bind_eq_some_iff] at e
  obtain ⟨n, -, ⟨slots, y⟩, hy, ⟨ids, z⟩, hz, he⟩ := e
  cases he
  refine (sound_foldl fun s e => by split <;> simp).trans ?_
  refine (sound_foldl fun s x => by split <;> simp).trans ?_
  refine State.modFn_sound.trans ?_
  refine (sound_foldl fun _ _ => State.addList_sound).trans ?_
  refine State.addJournal_sound.trans ?_
  exact (State.takeLists_sound hz).trans (State.takeSlots_sound hy)

@[simp] theorem execShardMoveCopyEnd_sound {s : State} {shard copied} (h : Sound s) : Keeps (execShardMoveCopyEnd shard copied s) := by
  unfold execShardMoveCopyEnd
  extract_lets s0
  have h0 : Sound s0 := by simp [s0, h]
  clear_value s0
  split
  · exact keeps_next.2 (State.handShard_sound.2 h0)
  split
  · exact keeps_next.2 h0
  split
  · exact keeps_next.2 h0
  split
  · exact keeps_next.2 h0
  next x e =>
    have hx : Sound x := (State.takeShard_sound e).2 h0
    refine keeps_next.2 ((sound_foldl fun _ _ => State.produceFw_sound).2 ?_)
    simp [hx]

@[simp] theorem execShardMoveAnnounceReceive_sound {s : State} {coll shard newOwner} (h : Sound s) :
    Keeps (execShardMoveAnnounceReceive coll shard newOwner s) := by
  unfold execShardMoveAnnounceReceive; split <;> simp [h]

@[simp] theorem execShardMoveRelease_sound {s : State} {shard} (h : Sound s) : Keeps (execShardMoveRelease shard s) := by
  unfold execShardMoveRelease; split <;> simp [h]

@[simp] theorem execCacheRebalance_sound {s : State} {t} (h : Sound s) : Keeps (execCacheRebalance t s) := by
  unfold execCacheRebalance; simp [h]

@[simp] theorem State.evictOne_sound {s : State} : Sound (s.evictOne) ↔ Sound s := by
  unfold State.evictOne; dsimp only; (repeat' split) <;> simp

@[simp] theorem State.evict_sound {s : State} {n} : Sound (s.evict n) ↔ Sound s := by
  induction n generalizing s with
  | zero => rfl
  | succ n ih =>
    unfold State.evict
    split
    · rfl
    · exact ih.trans State.evictOne_sound

@[simp] theorem execCacheEvict_sound {s : State} (h : Sound s) : Keeps (execCacheEvict s) := by
  unfold execCacheEvict; simp [h]

/-! ### Machine/Flash.lean -/

@[simp] theorem execWriteBufferProgram_sound {s : State} {channel t} (h : Sound s) : Keeps (execWriteBufferProgram channel t s) := by
  unfold execWriteBufferProgram; simp [h]

@[simp] theorem State.flushReserve_sound {s : State} : Sound (s.flushReserve) ↔ Sound s := by
  unfold State.flushReserve; simp

@[simp] theorem execWriteBufferFree_sound {s : State} {channel} (h : Sound s) : Keeps (execWriteBufferFree channel s) := by
  unfold execWriteBufferFree; simp [h]

@[simp] theorem execJournalRetire_sound {s : State} {entry} (h : Sound s) : Keeps (execJournalRetire entry s) := by
  unfold execJournalRetire; simp [h]

@[simp] theorem execCheckpoint_sound {s : State} {t} (h : Sound s) : Keeps (execCheckpoint t s) := by
  unfold execCheckpoint; simp [h]

@[simp] theorem execJournalReserveErase_sound {s : State} {channel} (h : Sound s) : Keeps (execJournalReserveErase channel s) := by
  unfold execJournalReserveErase; simp [h]

@[simp] theorem State.maintain_sound {s : State} {channel kind target f} : Sound (s.maintain channel kind target f) ↔ Sound s := by
  unfold State.maintain; simp

@[simp] theorem execGarbageCollection_sound {s : State} {channel} (h : Sound s) : Keeps (execGarbageCollection channel s) := by
  unfold execGarbageCollection; simp [h]

@[simp] theorem execWearLevelling_sound {s : State} {channel} (h : Sound s) : Keeps (execWearLevelling channel s) := by
  unfold execWearLevelling; simp [h]

@[simp] theorem execReadDisturbRefresh_sound {s : State} {channel block t} (h : Sound s) :
    Keeps (execReadDisturbRefresh channel block t s) := by
  unfold execReadDisturbRefresh; simp [h]

@[simp] theorem execRetentionScan_sound {s : State} {channel block weak t} (h : Sound s) :
    Keeps (execRetentionScan channel block weak t s) := by
  unfold execRetentionScan; simp [h]

@[simp] theorem execGrownBadBlock_sound {s : State} {channel block} (h : Sound s) : Keeps (execGrownBadBlock channel block s) := by
  unfold execGrownBadBlock; simp [h]

end Sys2Proof.Machine
end

-- ==== Proofs: Telemetry, power and spares keep the invariant (O5) ====
section
/-! PROOFS (O5). Telemetry, the power states, guests, spares, configuration and the packages. -/

namespace Sys2Proof.Machine

open Sys2Proof

/-! ### Machine/Telemetry.lean -/

@[simp] theorem State.telemetry_sound {s : State} {r action p body} (h : Sound s) (hbody : ∀ x b, Sound x → Sound (body x b)) :
    Sound (s.telemetry r action p body) := by
  unfold State.telemetry; dsimp only; split <;> simp_all

@[simp] theorem execTelemetryAttach_sound {s : State} {r t} (h : Sound s) : Keeps (execTelemetryAttach r t s) := by
  unfold execTelemetryAttach
  refine keeps_next.2 (State.telemetry_sound (by simp [h]) fun x b hx => ?_)
  extract_lets
  (repeat' split) <;> simp [hx]
  next e => simp [State.charge?_sound e, hx]

@[simp] theorem execTelemetryDetach_sound {s : State} {r t} (h : Sound s) : Keeps (execTelemetryDetach r t s) := by
  unfold execTelemetryDetach
  refine keeps_next.2 (State.telemetry_sound (by simp [h]) fun x b hx => ?_)
  dsimp only; split <;> simp [hx]

@[simp] theorem execTelemetrySnapshot_sound {s : State} {r outOk t} (h : Sound s) : Keeps (execTelemetrySnapshot r outOk t s) := by
  unfold execTelemetrySnapshot; simp +contextual [h]

@[simp] theorem execTelemetryPass_sound {s : State} {fn ring io t} (h : Sound s) : Keeps (execTelemetryPass fn ring io t s) := by
  unfold execTelemetryPass; dsimp only; (repeat' split) <;> simp [h]

/-! ### Machine/Power.lean -/

@[simp] theorem State.crossed_sound {s : State} {sensor old new} : Sound (s.crossed sensor old new) ↔ Sound s := by
  unfold State.crossed; simp

@[simp] theorem State.setInput_sound {s : State} {mv ma w} : Sound (s.setInput mv ma w) ↔ Sound s := by
  unfold State.setInput; simp

@[simp] theorem State.setVolts_sound {s : State} {mv} : Sound (s.setVolts mv) ↔ Sound s := by
  unfold State.setVolts; simp

@[simp] theorem State.setTemps_sound {s : State} {r} : Sound (s.setTemps r) ↔ Sound s := by
  unfold State.setTemps; simp

@[simp] theorem State.setPState_sound {s : State} {x} : Sound (s.setPState x) ↔ Sound s := by
  unfold State.setPState; simp

@[simp] theorem execLullEntry_sound {s : State} {since guestsWait t} (h : Sound s) : Keeps (execLullEntry since guestsWait t s) := by
  unfold execLullEntry; simp [h]

@[simp] theorem execCalmEntry_sound {s : State} {t} (h : Sound s) : Keeps (execCalmEntry t s) := by
  unfold execCalmEntry; simp [h]

@[simp] theorem State.driveWake_sound {s : State} : Sound (s.driveWake) ↔ Sound s := by
  unfold State.driveWake; simp

@[simp] theorem State.wakeNode_sound {s : State} : Sound (s.wakeNode) ↔ Sound s := by
  unfold State.wakeNode; simp

@[simp] theorem execNodeWake_sound {s : State} {hostRequest linkDown t} (h : Sound s) : Keeps (execNodeWake hostRequest linkDown t s) := by
  unfold execNodeWake; simp [h]

@[simp] theorem execMaintenanceWake_sound {s : State} {t} (h : Sound s) : Keeps (execMaintenanceWake t s) := by
  unfold execMaintenanceWake; simp [h]

@[simp] theorem execWakeNTimeout_sound {s : State} {linkL0 t} (h : Sound s) : Keeps (execWakeNTimeout linkL0 t s) := by
  unfold execWakeNTimeout; simp [h]

@[simp] theorem execUnitGate_sound {s : State} {u since t} (h : Sound s) : Keeps (execUnitGate u since t s) := by
  unfold execUnitGate; split <;> simp [h]

@[simp] theorem execGustGrant_sound {s : State} {t} (h : Sound s) : Keeps (execGustGrant t s) := by
  unfold execGustGrant; dsimp only; (repeat' split) <;> simp [h]

@[simp] theorem execUnitWakeComplete_sound {s : State} {u t} (h : Sound s) : Keeps (execUnitWakeComplete u t s) := by
  unfold execUnitWakeComplete; dsimp only; (repeat' split) <;> simp [h]

@[simp] theorem execPowerCapTick_sound {s : State} {r t} (h : Sound s) : Keeps (execPowerCapTick r t s) := by
  unfold execPowerCapTick; simp [h]

@[simp] theorem execBrakeAssert_sound {s : State} {t} (h : Sound s) : Keeps (execBrakeAssert t s) := by
  unfold execBrakeAssert; simp [h]

@[simp] theorem execBrakeRelease_sound {s : State} {since t} (h : Sound s) : Keeps (execBrakeRelease since t s) := by
  unfold execBrakeRelease; dsimp only; (repeat' split) <;> simp [h]

@[simp] theorem State.gateClusters_sound {s : State} : Sound (s.gateClusters) ↔ Sound s := by
  unfold State.gateClusters; simp

@[simp] theorem execWriteInhibit_sound {s : State} {mv t} (h : Sound s) : Keeps (execWriteInhibit mv t s) := by
  unfold execWriteInhibit; simp [h]

@[simp] theorem execReleaseHoldStart_sound {s : State} {mv t} (h : Sound s) : Keeps (execReleaseHoldStart mv t s) := by
  unfold execReleaseHoldStart; simp [h]

@[simp] theorem execReleaseHoldBreak_sound {s : State} {mv t} (h : Sound s) : Keeps (execReleaseHoldBreak mv t s) := by
  unfold execReleaseHoldBreak; simp [h]

@[simp] theorem execDoldrumsExit_sound {s : State} {t} (h : Sound s) : Keeps (execDoldrumsExit t s) := by
  unfold execDoldrumsExit; simp [h]

@[simp] theorem State.applyPause_sound {s : State} : Sound (s.applyPause) ↔ Sound s := by
  unfold State.applyPause; simp

@[simp] theorem execThermalTick_sound {s : State} {r t} (h : Sound s) : Keeps (execThermalTick r t s) := by
  unfold execThermalTick; simp [h]

@[simp] theorem execInletHigh_sound {s : State} {inletC t} (h : Sound s) : Keeps (execInletHigh inletC t s) := by
  unfold execInletHigh; simp [h]

/-! ### Machine/Guests.lean -/

@[simp] theorem State.stopGuest_sound {s : State} {f} : Sound (s.stopGuest f) ↔ Sound s := by
  unfold State.stopGuest; simp

@[simp] theorem State.placeCores_sound {s : State} {fs} : Sound (s.placeCores fs) ↔ Sound s := by
  unfold State.placeCores; simp

@[simp] theorem State.bootGuest_sound {s : State} {f} : Sound (s.bootGuest f) ↔ Sound s := by
  unfold State.bootGuest; split <;> simp

@[simp] theorem State.restartGuest_sound {s : State} {f} : Sound (s.restartGuest f) ↔ Sound s := by
  unfold State.restartGuest; simp

@[simp] theorem execGuestFault_sound {s : State} {fn} (h : Sound s) : Keeps (execGuestFault fn s) := by
  unfold execGuestFault; simp [h]

/-! ### Machine/Spares.lean -/

@[simp] theorem State.logElement_sound {s : State} {code e count} : Sound (s.logElement code e count) ↔ Sound s := by
  unfold State.logElement; simp

@[simp] theorem State.spareArray_sound {s : State} {a} : Sound (s.spareArray a) ↔ Sound s := by
  unfold State.spareArray; dsimp only; (repeat' split) <;> simp

@[simp] theorem State.loseArray_sound {s : State} {a} : Sound (s.loseArray a) ↔ Sound s := by
  unfold State.loseArray; dsimp only; (repeat' split) <;> simp

@[simp] theorem State.useSpare_sound {s : State} {e} : Sound (s.useSpare e) ↔ Sound s := by
  unfold State.useSpare; split <;> simp

@[simp] theorem State.shrinkShare_sound {s : State} {f core} : Sound (s.shrinkShare f core) ↔ Sound s := by
  unfold State.shrinkShare; simp

@[simp] theorem State.loseCore_sound {s : State} {core} : Sound (s.loseCore core) ↔ Sound s := by
  unfold State.loseCore; (repeat' split) <;> simp

@[simp] theorem State.goOffline_sound {s : State} {e} : Sound (s.goOffline e) ↔ Sound s := by
  unfold State.goOffline; dsimp only; (repeat' split) <;> simp

@[simp] theorem State.spareOrOffline_sound {s : State} {e} : Sound (s.spareOrOffline e) ↔ Sound s := by
  unfold State.spareOrOffline; simp

@[simp] theorem State.recover_sound {s : State} {e} : Sound (s.recover e) ↔ Sound s := by
  unfold State.recover; dsimp only; (repeat' split) <;> simp

@[simp] theorem State.replaceElement_sound {s : State} {e} : Sound (s.replaceElement e) ↔ Sound s := by
  unfold State.replaceElement; simp

@[simp] theorem State.setError_sound {s : State} {a ppm} : Sound (s.setError a ppm) ↔ Sound s := by
  unfold State.setError; simp

@[simp] theorem State.beginCalibration_sound {s : State} {a} : Sound (s.beginCalibration a) ↔ Sound s := by
  unfold State.beginCalibration; simp

@[simp] theorem State.endCalibration_sound {s : State} {a ppm} : Sound (s.endCalibration a ppm) ↔ Sound s := by
  unfold State.endCalibration; dsimp only; (repeat' split) <;> simp

@[simp] theorem execCalibrationSlot_sound {s : State} {array errorPpm t} (h : Sound s) :
    Keeps (execCalibrationSlot array errorPpm t s) := by
  unfold execCalibrationSlot; dsimp only; (repeat' split) <;> simp [h]

@[simp] theorem execCalibrationForced_sound {s : State} {array errorPpm t} (h : Sound s) :
    Keeps (execCalibrationForced array errorPpm t s) := by
  unfold execCalibrationForced; simp [h]

@[simp] theorem execArrayTemperatureTrack_sound {s : State} {array errorPpm t} (h : Sound s) :
    Keeps (execArrayTemperatureTrack array errorPpm t s) := by
  unfold execArrayTemperatureTrack; simp [h]

@[simp] theorem execPatrolScrub_sound {s : State} {stack corrected uncorrectable t} (h : Sound s) :
    Keeps (execPatrolScrub stack corrected uncorrectable t s) := by
  unfold execPatrolScrub; simp [h]

@[simp] theorem execLinkAdaptation_sound {s : State} {port setting t} (h : Sound s) : Keeps (execLinkAdaptation port setting t s) := by
  unfold execLinkAdaptation; simp [h]

/-! ### Machine/ControlNode.lean -/

@[simp] theorem State.alertLevel_sound {s : State} : Sound (s.alertLevel) ↔ Sound s := by
  unfold State.alertLevel; simp

@[simp] theorem State.setGale_sound {s : State} {on} : Sound (s.setGale on) ↔ Sound s := by
  unfold State.setGale; simp

@[simp] theorem State.setCompress_sound {s : State} {coll on} : Sound (s.setCompress coll on) ↔ Sound s := by
  unfold State.setCompress; simp

@[simp] theorem State.startMove_sound {s : State} {shard to_} : Sound (s.startMove shard to_) ↔ Sound s := by
  unfold State.startMove; split <;> simp

@[simp] theorem State.bringIn_sound {s : State} {v} : Sound (s.bringIn v) ↔ Sound s := by
  unfold State.bringIn; split <;> simp

@[simp] theorem State.setParam_sound {s : State} {to_ p v} : Sound (s.setParam to_ p v) ↔ Sound s := by
  unfold State.setParam; simp

@[simp] theorem State.rebootChanged_sound {s old : State} {f} : Sound (s.rebootChanged old f) ↔ Sound s := by
  unfold State.rebootChanged; dsimp only; (repeat' split) <;> simp

@[simp] theorem State.moveShares_sound {s old : State} : Sound (s.moveShares old) ↔ Sound s := by
  unfold State.moveShares; simp

@[simp] theorem execGetConfig_sound {s : State} {r t} (h : Sound s) : Keeps (execGetConfig r t s) := by
  unfold execGetConfig
  refine keeps_next.2 (State.commit_sound (by simp [h]) fun x b hx => ?_)
  dsimp only; (repeat' split) <;> simp [hx]

theorem ConfigRun.apply_sound {x : ConfigRun} {e} : Sound (x.apply e).st ↔ Sound x.st := by
  unfold ConfigRun.apply; dsimp only; (repeat' split) <;> simp

theorem ConfigRun.foldl_apply_sound {l : List (Nat × Nat × Nat)} {x : ConfigRun} :
    Sound (l.foldl (fun x e => ConfigRun.apply x e) x).st ↔ Sound x.st := by
  induction l generalizing x with
  | nil => rfl
  | cons e l ih => exact ih.trans ConfigRun.apply_sound

@[simp] theorem State.configCommit_sound {s : State} {r} (h : Sound s) : Sound (s.configCommit r) := by
  unfold State.configCommit
  refine State.commit_sound h fun y b hy => ?_
  extract_lets n es x cores node done
  have hx : Sound x.st := ConfigRun.foldl_apply_sound.2 hy
  have hd : ∀ z, Sound z → Sound (done z) := fun z hz =>
    State.reply_sound ((sound_foldl fun _ _ => State.rebootChanged_sound).2 (State.moveShares_sound.2 hz))
  clear_value done x
  (repeat' split) <;> simp [hy, hx, hd]

@[simp] theorem execSetConfig_sound {s : State} {r t} (h : Sound s) : Keeps (execSetConfig r t s) := by
  unfold execSetConfig; simp [h]

@[simp] theorem execSetConfigMoveShard_sound {s : State} {r t} (h : Sound s) : Keeps (execSetConfigMoveShard r t s) := by
  unfold execSetConfigMoveShard; simp [h]

@[simp] theorem execSetConfigBringIn_sound {s : State} {r t} (h : Sound s) : Keeps (execSetConfigBringIn r t s) := by
  unfold execSetConfigBringIn; simp [h]

@[simp] theorem execWriteOptions_sound {s : State} {r t} (h : Sound s) : Keeps (execWriteOptions r t s) := by
  unfold execWriteOptions
  refine keeps_next.2 (State.commit_sound (by simp [h]) fun x b hx => ?_)
  (repeat' split) <;> simp +contextual [hx]

@[simp] theorem execWriteOptionsTailEnd_sound {s : State} {t} (h : Sound s) : Keeps (execWriteOptionsTailEnd t s) := by
  unfold execWriteOptionsTailEnd; dsimp only; (repeat' split) <;> simp [h]

@[simp] theorem State.outputTail_sound {s : State} {r x o out done} (h : Sound s) (hdone : ∀ x, Sound x → Sound (done x)) :
    Sound (s.outputTail r x o out done) := by
  unfold State.outputTail; simp_all

@[simp] theorem State.attest_sound {s : State} {r what o data} (h : Sound s) : Sound (s.attest r what o data) := by
  unfold State.attest
  dsimp only
  split
  · simp [h]
  · simp [h]

@[simp] theorem execAttestReport_sound {s : State} {r outOk t} (h : Sound s) : Keeps (execAttestReport r outOk t s) := by
  unfold execAttestReport; simp [h]

@[simp] theorem execAttestCertificates_sound {s : State} {r outOk t} (h : Sound s) : Keeps (execAttestCertificates r outOk t s) := by
  unfold execAttestCertificates; simp [h]

@[simp] theorem State.ackLog_sound {s : State} {es} : Sound (s.ackLog es) ↔ Sound s := by
  unfold State.ackLog; simp

@[simp] theorem execGetLog_sound {s : State} {r outOk t} (h : Sound s) : Keeps (execGetLog r outOk t s) := by
  unfold execGetLog; dsimp only; (repeat' split) <;> simp [h]

@[simp] theorem State.takeOver_sound {s : State} : Sound (s.takeOver) ↔ Sound s := by
  unfold State.takeOver; simp

@[simp] theorem execInnkeeperTakeover_sound {s : State} {t} (h : Sound s) : Keeps (execInnkeeperTakeover t s) := by
  unfold execInnkeeperTakeover; simp [h]

/-! ### Machine/Package.lean -/

@[simp] theorem State.modelStamps_sound {s : State} {c peers} : Sound (s.modelStamps c peers).2 ↔ Sound s := by
  unfold State.modelStamps
  exact sound_foldl_snd fun p i => by split <;> simp

@[simp] theorem State.reapModel_sound {s : State} {coll model} : Sound (s.reapModel coll model) ↔ Sound s := by
  unfold State.reapModel; split <;> simp

end Sys2Proof.Machine
end

-- ==== Proofs: Models and near-bank runs keep the invariant (O5) ====
section
/-! PROOFS (O5). Loading, running and training of models, and the near-bank units. -/

namespace Sys2Proof.Machine

open Sys2Proof

/-! ### Machine/Models.lean -/

@[simp] theorem State.loadFail_sound {s : State} {r status detail reason io} :
    Sound (s.loadFail r status detail reason io) ↔ Sound s := by
  unfold State.loadFail; simp

@[simp] theorem State.modelLoad_sound {s : State} {num action held io checks body} (hbody : ∀ x r b c, Sound (body x r b c) ↔
    Sound x) : Sound (s.modelLoad num action held io checks body) ↔ Sound s := by
  unfold State.modelLoad
  dsimp only
  split
  · rfl
  · refine State.dataCommit_sound fun x r b => ?_
    split <;> simp [hbody]

@[simp] theorem State.toOwners_sound {s : State} {r c op m} : Sound (s.toOwners r c op m) ↔ Sound s := by
  unfold State.toOwners; simp

@[simp] theorem execModelLoadBegin_sound {s : State} {num io t} (h : Sound s) : Keeps (execModelLoadBegin num io t s) := by
  unfold execModelLoadBegin
  refine keeps_next.2 ((State.modelLoad_sound fun s r inp c => ?_).2 (State.at_sound.2 h))
  extract_lets n hd ts resident t2 t1 m s1 s2 s3
  split
  · simp
  split
  · simp
  split
  · simp
  split
  · simp
  split
  · simp
  · have h1 : Sound s1 ↔ Sound s := State.modColl_sound.trans State.modFn_sound
    exact State.complete_sound.trans (State.toOwners_sound.trans h1)

@[simp] theorem execModelLoadPart_sound {s : State} {num io t} (h : Sound s) : Keeps (execModelLoadPart num io t s) := by
  unfold execModelLoadPart
  refine keeps_next.2 ((State.modelLoad_sound fun s r inp c => ?_).2 (State.at_sound.2 h))
  dsimp only; (repeat' split) <;> simp

@[simp] theorem State.stampAction_sound {s : State} {r c stamps io f} (hf : ∀ x l, Sound (f x l) ↔ Sound x) :
    Sound (s.stampAction r c stamps io f) ↔ Sound s := by
  unfold State.stampAction
  split
  · exact State.loadFail_sound
  · refine State.passLedgers_sound fun x => ?_
    refine State.complete_sound.trans ((hf _ _).trans (State.toOwners_sound.trans State.modelStamps_sound))

@[simp] theorem execModelLoadCommit_sound {s : State} {num stamps io t} (h : Sound s) : Keeps (execModelLoadCommit num stamps io t s) := by
  unfold execModelLoadCommit
  refine keeps_next.2 ((State.modelLoad_sound fun s r inp c => ?_).2 (State.at_sound.2 h))
  dsimp only; (repeat' split) <;> simp

@[simp] theorem execModelLoadUnload_sound {s : State} {num stamps io t} (h : Sound s) : Keeps (execModelLoadUnload num stamps io t s) := by
  unfold execModelLoadUnload
  refine keeps_next.2 ((State.modelLoad_sound fun s r inp c => ?_).2 (State.at_sound.2 h))
  dsimp only; (repeat' split) <;> simp

@[simp] theorem execModelLoadCheckpoint_sound {s : State} {num stamps io t} (h : Sound s) :
    Keeps (execModelLoadCheckpoint num stamps io t s) := by
  unfold execModelLoadCheckpoint
  refine keeps_next.2 ((State.modelLoad_sound fun s r inp c => ?_).2 (State.at_sound.2 h))
  dsimp only; (repeat' split) <;> simp

@[simp] theorem execModelLoadPlace_sound {s : State} {num stamps io t} (h : Sound s) : Keeps (execModelLoadPlace num stamps io t s) := by
  unfold execModelLoadPlace
  refine keeps_next.2 ((State.modelLoad_sound fun s r inp c => ?_).2 (State.at_sound.2 h))
  dsimp only
  split
  · simp
  split
  · simp
  split
  · simp
  split
  · simp
  · exact State.stampAction_sound fun x l => State.modModel_sound.trans (by (repeat' split) <;> simp)

@[simp] theorem execModelLoadingExpiry_sound {s : State} {coll model t} (h : Sound s) : Keeps (execModelLoadingExpiry coll model t s) := by
  unfold execModelLoadingExpiry; dsimp only; (repeat' split) <;> simp [h]

@[simp] theorem State.endRun_sound {s : State} {num} : Sound (s.endRun num) ↔ Sound s := by
  unfold State.endRun; split <;> simp

@[simp] theorem State.dropRun_sound {s : State} {num} : Sound (s.dropRun num) ↔ Sound s := by
  unfold State.dropRun; split <;> simp

@[simp] theorem State.exchange_sound {s : State} {c num layer x} : Sound (s.exchange c num layer x) ↔ Sound s := by
  unfold State.exchange; split <;> simp

@[simp] theorem State.fill_sound {s : State} {num} : Sound (s.fill num) ↔ Sound s := by
  unfold State.fill; dsimp only; (repeat' split) <;> simp

@[simp] theorem State.fillWindow_sound {s : State} {num} : Sound (s.fillWindow num) ↔ Sound s := by
  unfold State.fillWindow; simp

theorem State.takeWindow_sound {s x : State} {c m num f b} (e : s.takeWindow c m num f = some (b, x)) : Sound x ↔ Sound s := by
  unfold State.takeWindow at e
  dsimp only at e
  repeat' split at e
  all_goals cases e
  all_goals simp

@[simp] theorem State.askPorts_sound {s : State} {num} : Sound (s.askPorts num) ↔ Sound s := by
  unfold State.askPorts; simp

@[simp] theorem State.serveStage_sound {s : State} {x m} : Sound (s.serveStage x m).2 ↔ Sound s := by
  unfold State.serveStage; dsimp only; (repeat' split) <;> simp

@[simp] theorem State.runBroadcastLayer_sound {s : State} {num stack} : Sound (s.runBroadcastLayer num stack) ↔ Sound s := by
  unfold State.runBroadcastLayer; split <;> simp

theorem State.nextUnit_sound {s y : State} {x r m c} (e : s.nextUnit x r m c = some y) : Sound y ↔ Sound s := by
  unfold State.nextUnit at e
  dsimp only at e
  split at e
  · cases e
  · cases e; simp

@[simp] theorem State.route_sound {s : State} {x m c} : Sound (s.route x m c) ↔ Sound s := by
  unfold State.route; simp

@[simp] theorem State.groupTokens_sound {s : State} {x m c} : Sound (s.groupTokens x m c) ↔ Sound s := by
  unfold State.groupTokens; simp

@[simp] theorem State.runExpert_sound {s : State} {x m c} : Sound (s.runExpert x m c) ↔ Sound s := by
  unfold State.runExpert; split <;> simp

@[simp] theorem State.runOutputs_sound {s : State} {kind width l} : Sound (s.runOutputs kind width l).2 ↔ Sound s := by
  induction l generalizing s with
  | nil => rfl
  | cons i l ih => exact ih.trans State.takeFree_sound

@[simp] theorem State.freeHandle_sound {s : State} {f handle} : Sound (s.freeHandle f handle) ↔ Sound s := by
  unfold State.freeHandle; simp

@[simp] theorem State.finishRun_sound {s : State} {r x m io} : Sound (s.finishRun r x m io) ↔ Sound s := by
  unfold State.finishRun; dsimp only; (repeat' split) <;> simp

@[simp] theorem State.finishTrain_sound {s : State} {r x accumulated nonFinite applied w io} :
    Sound (s.finishTrain r x accumulated nonFinite applied w io) ↔ Sound s := by
  unfold State.finishTrain; simp

@[simp] theorem State.accumulate_sound {s : State} {r x m io} : Sound (s.accumulate r x m io) ↔ Sound s := by
  unfold State.accumulate; simp

@[simp] theorem State.goOn_sound {s : State} {num io} : Sound (s.goOn num io) ↔ Sound s := by
  unfold State.goOn
  split
  · split
    · extract_lets others last leave
      have hl : ∀ y, Sound (leave y) ↔ Sound y := by
        intro y
        unfold leave
        split
        next e => exact State.nextUnit_sound e
        · split <;> simp
      clear_value leave
      split
      · rfl
      split
      · simp
      split
      · split
        · rfl
        split
        next ok y e =>
        have hy := (sound_snd e).trans State.serveStage_sound
        rw [← hy]
        (repeat' split) <;> simp [hl]
      · split <;> simp
      · simp
      · split <;> simp [hl]
    · simp
  · rfl

@[simp] theorem State.startRun_sound {s : State} {num io} : Sound (s.startRun num io) ↔ Sound s := by
  unfold State.startRun
  (repeat' split) <;> simp
  next e => exact State.takeWindow_sound e

@[simp] theorem State.readModel_sound {s : State} {k c} : Sound (s.readModel k c) ↔ Sound s := by
  unfold State.readModel; simp

@[simp] theorem execModelRun_sound {s : State} {num stamps io t} (h : Sound s) : Keeps (execModelRun num stamps io t s) := by
  unfold execModelRun
  extract_lets s0 e k m kind flags n deliver mode
  have h0 : Sound s0 := State.at_sound.2 h
  clear_value s0 e k m kind flags n deliver mode
  split
  · split
    · exact keeps_next.2 h0
    · split
      · exact keeps_next.2 (State.startRun_sound.2 h0)
      · exact keeps_next.2 (State.goOn_sound.2 h0)
  refine keeps_next.2 ((State.dataCommit_sound fun y r b => ?_).2 h0)
  split
  · split
    · exact State.complete_sound
    extract_lets lens
    split
    · exact State.complete_sound
    split
    · exact State.badInput_sound
    · exact State.complete_sound
    refine State.passLedgers_sound fun y => ?_
    extract_lets rs home counts s1 seqs t0
    split
    · exact State.complete_sound
    · exact State.complete_sound
    split
    · exact State.complete_sound
    have h1 : Sound s1 ↔ Sound y := Iff.rfl
    clear_value s1
    rw [← h1]
    split
    next i s2 e =>
    have h2 : Sound s2 ↔ Sound s1 := (sound_snd e).trans State.takeFree_sound
    rw [← h2]
    extract_lets kept handle s3 s4 s5 s6 m1 m2 x s7 s8
    have h3 : Sound s3 ↔ Sound s2 := State.modFn_sound
    have h4 : Sound s4 ↔ Sound s3 := by unfold s4; split <;> simp
    have h5 : Sound s5 ↔ Sound s4 := Iff.rfl
    have h6 : Sound s6 ↔ Sound s5 := State.readModel_sound
    have h7 : Sound s7 ↔ Sound s6 := State.modReq_sound
    have h8 : Sound s8 ↔ Sound s7 := State.toOwners_sound
    clear_value s8 s7 s6 s5 s4 s3 kept
    split
    · simp
    split
    · simp
    · rw [← h3, ← h4, ← h5, ← h6, ← h7, ← h8]
      exact State.startRun_sound
  · exact State.complete_sound
  · exact State.complete_sound

@[simp] theorem execLayerStreamComplete_sound {s : State} {num io t} (h : Sound s) : Keeps (execLayerStreamComplete num io t s) := by
  unfold execLayerStreamComplete; dsimp only; (repeat' split) <;> simp [h]

@[simp] theorem State.cacheExpert_sound {s : State} {f m layer expert n} : Sound (s.cacheExpert f m layer expert n) ↔ Sound s := by
  unfold State.cacheExpert; simp

@[simp] theorem execRoutedExpertStreamComplete_sound {s : State} {num expert} (h : Sound s) :
    Keeps (execRoutedExpertStreamComplete num expert s) := by
  unfold execRoutedExpertStreamComplete; dsimp only; (repeat' split) <;> simp [h]

@[simp] theorem execActivationExchangeReceive_sound {s : State} {k fromNode layer} (h : Sound s) :
    Keeps (execActivationExchangeReceive k fromNode layer s) := by
  unfold execActivationExchangeReceive; simp [h]

@[simp] theorem execWindowRelease_sound {s : State} {coll model t} (h : Sound s) : Keeps (execWindowRelease coll model t s) := by
  unfold execWindowRelease; dsimp only; (repeat' split) <;> simp [h]

@[simp] theorem execModelRunTimeout_sound {s : State} {num io t} (h : Sound s) : Keeps (execModelRunTimeout num io t s) := by
  unfold execModelRunTimeout; dsimp only; (repeat' split) <;> simp [h]

@[simp] theorem execTrainStep_sound {s : State} {num stamps io t} (h : Sound s) : Keeps (execTrainStep num stamps io t s) := by
  unfold execTrainStep
  extract_lets s0 e k flags n inRange adam below1
  have h0 : Sound s0 := State.at_sound.2 h
  clear_value s0 e k flags n inRange adam below1
  split
  · split
    · extract_lets takes s1
      have h1 : Sound s1 := by unfold s1; split <;> simp [h0]
      clear_value s1
      (repeat' split) <;> simp [h1]
    · simp [h0]
  refine keeps_next.2 ((State.dataCommit_sound fun y r b => ?_).2 h0)
  split
  · extract_lets lens t0
    split
    · exact State.complete_sound
    split
    · exact State.complete_sound
    refine State.passLedgers_sound fun y => ?_
    extract_lets rs x s1 s2
    split
    · exact State.complete_sound
    · exact State.complete_sound
    split
    · exact State.complete_sound
    split
    · exact State.complete_sound
    split
    · simp
    · have h1 : Sound s1 ↔ Sound y := by simp [s1]
      have h2 : Sound s2 ↔ Sound s1 := State.modModel_sound
      exact State.toOwners_sound.trans (h2.trans h1)
  · exact State.complete_sound
  · exact State.complete_sound

@[simp] theorem execTrainSwitch_sound {s : State} {num stamps io t} (h : Sound s) : Keeps (execTrainSwitch num stamps io t s) := by
  unfold execTrainSwitch; dsimp only; (repeat' split) <;> simp [h]

theorem writeSlice_wf {nst index unit : Nat} : ∀ {b : Bytes} {m : Mem} {off : Nat}, m.wf = true → (writeSlice m nst index unit off
    b).wf = true
  | [], _, _, h => h
  | _ :: _, _, _, h => writeSlice_wf (m := memWrite _ _ _) (memWrite_wf h _ _)

theorem State.operandBuf_wf {s : State} (h : Sound s) (stack unit : Nat) : (s.operandBuf stack unit).wf = true := by
  unfold State.operandBuf
  generalize e : s.operandBufs.find? _ = o
  cases o with
  | none => rfl
  | some b => exact h.2.2.2 b (List.mem_of_find?_eq_some e)

/-! ### Machine/NearBank.lean -/

@[simp] theorem State.writeBuf_sound {s : State} {stack unit off b} (h : Sound s) : Sound (s.writeBuf stack unit off b) := by
  obtain ⟨h1, h2, h3, h4⟩ := h
  refine ⟨h1, h2, h3, fun x hx => ?_⟩
  rcases List.mem_append.1 hx with hx | hx
  · exact h4 x (List.mem_filter.1 hx).1
  · rw [List.mem_singleton.1 hx]; exact memWriteAll_wf _ _ (State.operandBuf_wf ⟨h1, h2, h3, h4⟩ _ _)

@[simp] theorem State.resultBytes_sound {s : State} {fmt w} : Sound (s.resultBytes fmt w).2 ↔ Sound s := by
  unfold State.resultBytes; split <;> simp

@[simp] theorem State.freeBytes_sound {s : State} {fmt} : Sound (s.freeBytes fmt).2 ↔ Sound s := by
  unfold State.freeBytes; simp

@[simp] theorem State.freeWords_sound {s : State} {n} : Sound (s.freeWords n).2 ↔ Sound s := by
  induction n generalizing s with
  | zero => rfl
  | succ n ih =>
    change Sound ((s.freeBytes 2).2.freeWords n).2 ↔ Sound s
    exact ih.trans State.freeBytes_sound

theorem State.pimExec_keeps {s : State} {num action io need body} (hbody : ∀ x r b, Sound x → Sound (body x r b)) (h : Sound s) :
    Sound (s.pimExec num action io need body) := by
  unfold State.pimExec
  dsimp only
  split
  · exact h
  · refine State.dataCommit_keeps (fun x r b hx => ?_) h
    split <;> simp [hbody, hx]

@[simp] theorem State.pimExec_sound {s : State} {num action io need body} (hbody : ∀ x r b, Sound (body x r b) ↔ Sound x) :
    Sound (s.pimExec num action io need body) ↔ Sound s := by
  unfold State.pimExec
  dsimp only
  split
  · rfl
  · refine State.dataCommit_sound fun x r b => ?_
    split <;> simp [hbody]

@[simp] theorem State.pickFrames_sound {s : State} {n} : Sound (s.pickFrames n).2 ↔ Sound s := by
  induction n generalizing s with
  | zero => rfl
  | succ n ih =>
    refine ih.trans ?_
    have hs : ∀ {a b c : _} {l : List Region} {f k : Nat}, SoundParts a b c (l ++ [⟨f, k, []⟩]) s.operandBufs ↔
    SoundParts a b c l s.operandBufs := by
      intro a b c l f k
      simp [SoundParts, or_imp, forall_and, Mem.wf, memSorted]
    exact hs

@[simp] theorem execPimExecAllocate_sound {s : State} {num io t} (h : Sound s) : Keeps (execPimExecAllocate num io t s) := by
  unfold execPimExecAllocate
  refine keeps_next.2 (State.pimExec_keeps (fun s r inp hs => ?_) (State.at_sound.2 h))
  extract_lets n bytes
  split
  · simp [hs]
  split
  next l y e =>
  obtain ⟨h1, h2, h3, h4⟩ := ((sound_snd e).trans State.pickFrames_sound).2 hs
  refine State.complete_sound.2 (State.modFn_sound.2 ⟨h1, h2, fun g hg => ?_, h4⟩)
  obtain ⟨g, hm, rfl⟩ := List.mem_map.1 hg
  have := h3 g hm
  split <;> exact this

@[simp] theorem execPimExecFree_sound {s : State} {num io t} (h : Sound s) : Keeps (execPimExecFree num io t s) := by
  unfold execPimExecFree
  refine keeps_next.2 (State.pimExec_keeps (fun s r inp hs => ?_) (State.at_sound.2 h))
  extract_lets i s1
  split
  · simp [hs]
  split
  · simp [hs]
  · obtain ⟨h1, h2, h3, h4⟩ : Sound s1 := State.release_sound.2 hs
    exact State.complete_sound.2 ⟨h1, h2, fun g hg => h3 g (List.mem_filter.1 hg).1, h4⟩

@[simp] theorem execPimExecWrite_sound {s : State} {num io t} (h : Sound s) : Keeps (execPimExecWrite num io t s) := by
  unfold execPimExecWrite
  refine keeps_next.2 (State.pimExec_keeps (fun s r inp hs => ?_) (State.at_sound.2 h))
  extract_lets i o n
  split
  · simp [hs]
  split
  · simp [hs]
  · refine State.complete_sound.2 (State.modRegion_sound (fun g hg => memWriteAll_wf _ _ hg) ?_)
    exact State.takeFree_sound.2 hs

@[simp] theorem State.strike_sound {s : State} {struck b o n} : Sound (s.strike struck b o n).2 ↔ Sound s := by
  induction n generalizing s b o with
  | zero => rfl
  | succ n ih =>
    unfold State.strike
    by_cases hc : struck.contains (o / 16) = true
    · rw [if_pos hc]; exact ih.trans State.resultBytes_sound
    · rw [if_neg hc]; exact ih

@[simp] theorem execPimExecRead_sound {s : State} {num struck io t} (h : Sound s) : Keeps (execPimExecRead num struck io t s) := by
  unfold execPimExecRead; simp [h]

@[simp] theorem State.beginStep_sound {s : State} {num} : Sound (s.beginStep num) ↔ Sound s := by
  unfold State.beginStep; (repeat' split) <;> simp

@[simp] theorem execPimExecRun_sound {s : State} {num io t} (h : Sound s) : Keeps (execPimExecRun num io t s) := by
  unfold execPimExecRun
  refine keeps_next.2 ((State.pimExec_sound fun s r inp => ?_).2 (State.at_sound.2 h))
  dsimp only; (repeat' split) <;> simp

@[simp] theorem State.unitElement_sound {s : State} {p a b r} : Sound (s.unitElement p a b r).2 ↔ Sound s := by
  unfold State.unitElement; (repeat' split) <;> simp

@[simp] theorem State.unitRoot_sound {s : State} {x} : Sound (s.unitRoot x).2 ↔ Sound s := by
  unfold State.unitRoot; (repeat' split) <;> simp

@[simp] theorem State.unitItem_sound {s : State} {p struck a b old} : Sound (s.unitItem p struck a b old).2 ↔ Sound s := by
  unfold State.unitItem; dsimp only; (repeat' split) <;> simp

@[simp] theorem State.unitRun_sound {s : State} {p struck stack index unit i n} (h : Sound s) :
    Sound (s.unitRun p struck stack index unit i n) := by
  induction n generalizing s i with
  | zero => exact h
  | succ n ih =>
    refine ih (State.modRegion_sound (fun g hg => writeSlice_wf hg) ?_)
    exact State.unitItem_sound.2 h

@[simp] theorem State.runBroadcast_sound {s : State} {p input struck stack i n} (h : Sound s) :
    Sound (s.runBroadcast p input struck stack i n) := by
  unfold State.runBroadcast
  refine sound_foldl_keeps (fun x u hx => ?_) h
  split <;> simp [hx]

@[simp] theorem State.reduceStep_sound {s : State} {num p} (h : Sound s) : Sound (s.reduceStep num p) := by
  unfold State.reduceStep
  split
  · exact h
  · exact sound_foldl_keeps (fun x c hx => sound_foldl_keeps (fun y u hy => State.writeBuf_sound hy) hx) (State.takeFree_sound.2 h)

@[simp] theorem State.finishPim_sound {s : State} {num} : Sound (s.finishPim num) ↔ Sound s := by
  unfold State.finishPim; split <;> simp

@[simp] theorem State.countHeld_sound {s : State} {stack} : Sound (s.countHeld stack).2 ↔ Sound s := by
  unfold State.countHeld; simp

@[simp] theorem State.pimBroadcast_sound {s : State} {num stack struck} (h : Sound s) : Sound (s.pimBroadcast num stack struck) := by
  unfold State.pimBroadcast; (repeat' split) <;> simp [h]

@[simp] theorem State.nearScore_sound {s : State} {k shard list gb} : Sound (s.nearScore k shard list gb) ↔ Sound s := by
  unfold State.nearScore; split <;> simp

@[simp] theorem State.reloadSlice_sound {s : State} {stack unit works} : Sound (s.reloadSlice stack unit works) ↔ Sound s := by
  unfold State.reloadSlice; simp

@[simp] theorem State.scoreNear_sound {s : State} {stack struck r shard list gb} : Sound (s.scoreNear stack struck r shard list gb) ↔
    Sound s := by
  unfold State.scoreNear
  extract_lets arb same also s1
  have h1 : Sound s1 ↔ Sound s := sound_foldl fun _ _ => State.arbEnd_sound.trans State.arbGive_sound
  rw [← h1]
  split
  · simp
  · exact sound_foldl fun y x => by split <;> simp

@[simp] theorem execBroadcast_sound {s : State} {stack struck t} (h : Sound s) : Keeps (execBroadcast stack struck t s) := by
  unfold execBroadcast; dsimp only; (repeat' split) <;> simp [h]

end Sys2Proof.Machine
end

-- ==== Proofs: The fabric, boot, resets and faults keep the invariant (O5) ====
section
/-! PROOFS (O5). Tenancy, the fabric, boot, pools, resets, firmware and faults. -/

namespace Sys2Proof.Machine

open Sys2Proof

/-! ### Machine/Tenancy.lean -/

@[simp] theorem State.withdrawMember_sound {s : State} {k i} : Sound (s.withdrawMember k i) ↔ Sound s := by
  unfold State.withdrawMember; dsimp only; (repeat' split) <;> simp

@[simp] theorem State.cancelWork_sound {s : State} {hit} : Sound (s.cancelWork hit) ↔ Sound s := by
  unfold State.cancelWork; simp

@[simp] theorem execCancelFilterReceive_sound {s : State} {f t} (h : Sound s) : Keeps (execCancelFilterReceive f t s) := by
  unfold execCancelFilterReceive; simp [h]

@[simp] theorem execCancelHoldTimeout_sound {s : State} {t} (h : Sound s) : Keeps (execCancelHoldTimeout t s) := by
  unfold execCancelHoldTimeout; simp [h]

@[simp] theorem State.resetMailbox_sound {s : State} {f} : Sound (s.resetMailbox f) ↔ Sound s := by
  unfold State.resetMailbox; simp

@[simp] theorem State.cancelRequests_sound {s : State} {f} : Sound (s.cancelRequests f) ↔ Sound s := by
  unfold State.cancelRequests; simp

@[simp] theorem State.freeFunction_sound {s : State} {f} (h : Sound s) : Sound (s.freeFunction f) := by
  unfold State.freeFunction
  extract_lets s1 s2 s3 cached kept s4
  have h1 : Sound s1 := (sound_foldl fun _ _ => State.freeHandle_sound).2 h
  clear_value s1
  have h2 : Sound s2 := State.release_sound.2 h1
  clear_value s2
  have h3 : Sound s3 := State.release_sound.2 h2
  clear_value s3
  have h4 : Sound s4 := State.release_sound.2 h3
  clear_value s4 cached kept
  change SoundParts s4.fns s4.mboxes s4.ports _ s4.operandBufs
  obtain ⟨hf, hm, hr, hb⟩ := h4
  refine ⟨hf, hm, fun g hg => ?_, hb⟩
  exact hr g (List.mem_filter.1 hg).1

@[simp] theorem State.dropQueues_sound {s : State} {f} : Sound (s.dropQueues f) ↔ Sound s := by
  unfold State.dropQueues; simp

@[simp] theorem State.resetFunction_sound {s : State} {f} (h : Sound s) : Sound (s.resetFunction f) := by
  unfold State.resetFunction; simp [h]

@[simp] theorem State.clearVfs_sound {s : State} (h : Sound s) : Sound s.clearVfs := by
  unfold State.clearVfs
  exact sound_foldl_keeps (fun _ _ hx => State.resetFunction_sound hx) h

@[simp] theorem State.logFunctionReset_sound {s : State} {f cause} : Sound (s.logFunctionReset f cause) ↔ Sound s := by
  unfold State.logFunctionReset; simp

@[simp] theorem execInitiateFunctionLevelReset_sound {s : State} {fn vfReset t} (h : Sound s) :
    Keeps (execInitiateFunctionLevelReset fn vfReset t s) := by
  unfold execInitiateFunctionLevelReset; simp [h]

@[simp] theorem execVfEnableClear_sound {s : State} {t} (h : Sound s) : Keeps (execVfEnableClear t s) := by
  unfold execVfEnableClear; dsimp only; (repeat' split) <;> simp [h]

@[simp] theorem execVfEnableSet_sound {s : State} {numVfs t} (h : Sound s) : Keeps (execVfEnableSet numVfs t s) := by
  unfold execVfEnableSet; simp [h]

@[simp] theorem execFunctionResetComplete_sound {s : State} {fn t} (h : Sound s) : Keeps (execFunctionResetComplete fn t s) := by
  unfold execFunctionResetComplete; simp [h]

/-! ### Machine/Fabric.lean -/

@[simp] theorem State.reroute_sound {s : State} : Sound (s.reroute) ↔ Sound s := by
  unfold State.reroute; simp

@[simp] theorem State.evacuate_sound {s : State} {port all} : Sound (s.evacuate port all) ↔ Sound s := by
  unfold State.evacuate; simp

@[simp] theorem State.resend_sound {s : State} {port fs} : Sound (s.resend port fs) ↔ Sound s := by
  unfold State.resend; simp

@[simp] theorem State.frameAcked_sound {s : State} {f} : Sound (s.frameAcked f) ↔ Sound s := by
  unfold State.frameAcked; split <;> simp

@[simp] theorem State.ackFrames_sound {s : State} {port fs} : Sound (s.ackFrames port fs) ↔ Sound s := by
  unfold State.ackFrames; simp

@[simp] theorem State.retrain_sound {s : State} {port} : Sound (s.retrain port) ↔ Sound s := by
  unfold State.retrain; simp

@[simp] theorem State.trainEnd_sound {s : State} {port width} : Sound (s.trainEnd port width) ↔ Sound s := by
  unfold State.trainEnd; simp

@[simp] theorem execLaneSwap_sound {s : State} {port lane receive t} (h : Sound s) : Keeps (execLaneSwap port lane receive t s) := by
  unfold execLaneSwap; dsimp only; (repeat' split) <;> simp [h]

@[simp] theorem execPortRetrain_sound {s : State} {port lane width t} (h : Sound s) : Keeps (execPortRetrain port lane width t s) := by
  unfold execPortRetrain; simp [h]

@[simp] theorem execPortDown_sound {s : State} {port t} (h : Sound s) : Keeps (execPortDown port t s) := by
  unfold execPortDown; simp [h]

@[simp] theorem execPortDark_sound {s : State} {port t} (h : Sound s) : Keeps (execPortDark port t s) := by
  unfold execPortDark; simp [h]

@[simp] theorem State.sayHello_sound {s : State} {port resting} : Sound (s.sayHello port resting) ↔ Sound s := by
  unfold State.sayHello; simp

@[simp] theorem execLinkUp_sound {s : State} {port width t} (h : Sound s) : Keeps (execLinkUp port width t s) := by
  unfold execLinkUp; simp [h]

@[simp] theorem State.tellPeer_sound {s : State} {node fresh} : Sound (s.tellPeer node fresh) ↔ Sound s := by
  unfold State.tellPeer; simp

@[simp] theorem State.peerRestarted_sound {s : State} {port node} : Sound (s.peerRestarted port node) ↔ Sound s := by
  unfold State.peerRestarted; simp

@[simp] theorem execHelloReceive_sound {s : State} {port a t} (h : Sound s) : Keeps (execHelloReceive port a t s) := by
  unfold execHelloReceive
  extract_lets s0 q s1 s2 old bit marked s3 s4 s5 s6 told
  have h0 : Sound s0 := State.at_sound.2 h
  split
  · exact keeps_next.2 h0
  split
  · simp [s1, h0]
  have h2 : Sound s2 := by unfold s2; split <;> simp [h0]
  have h3 : Sound s3 := by unfold s3; cases old <;> exact h2
  have h4 : Sound s4 := by unfold s4; clear_value s3; split <;> simp [h3]
  have h5 : Sound s5 := by unfold s5; clear_value s4; split <;> simp [h4]
  have h6 : Sound s6 := State.reroute_sound.2 h5
  clear_value s6
  split
  · exact keeps_next.2 h6
  · exact keeps_next.2 (State.tellPeer_sound.2 h6)

@[simp] theorem execNackReceive_sound {s : State} {port channel seq} (h : Sound s) : Keeps (execNackReceive port channel seq s) := by
  unfold execNackReceive; simp [h]

@[simp] theorem execCreditGrant_sound {s : State} {port channel units acked} (h : Sound s) :
    Keeps (execCreditGrant port channel units acked s) := by
  unfold execCreditGrant; split <;> simp [h]

@[simp] theorem State.grantCredits_sound {s : State} {port channel units} : Sound (s.grantCredits port channel units) ↔ Sound s := by
  unfold State.grantCredits; simp

@[simp] theorem State.deliver_sound {s : State} {port frame stale} : Sound (s.deliver port frame stale) ↔ Sound s := by
  unfold State.deliver; simp

@[simp] theorem execFrameReceive_sound {s : State} {port frame stale t} (h : Sound s) : Keeps (execFrameReceive port frame stale t s) := by
  unfold execFrameReceive; simp [h]

@[simp] theorem State.endUnreachable_sound {s : State} {f io} : Sound (s.endUnreachable f io) ↔ Sound s := by
  unfold State.endUnreachable; dsimp only; (repeat' split) <;> simp

@[simp] theorem execUnreachableTimeout_sound {s : State} {dest io t} (h : Sound s) : Keeps (execUnreachableTimeout dest io t s) := by
  unfold execUnreachableTimeout; simp [h]

/-! ### Machine/Boot.lean -/

@[simp] theorem State.chooseOptions_sound {s : State} : Sound (s.chooseOptions) ↔ Sound s := by
  unfold State.chooseOptions; simp

@[simp] theorem State.logSlot_sound {s : State} {code b} : Sound (s.logSlot code b) ↔ Sound s := by
  unfold State.logSlot; simp

@[simp] theorem State.runSlot_sound {s : State} {b} : Sound (s.runSlot b) ↔ Sound s := by
  unfold State.runSlot; simp

@[simp] theorem State.enterRecovery_sound {s : State} : Sound (s.enterRecovery) ↔ Sound s := by
  unfold State.enterRecovery; simp

@[simp] theorem State.trySlots_sound {s : State} {l} : Sound (s.trySlots l) ↔ Sound s := by
  induction l generalizing s with
  | nil => exact State.enterRecovery_sound
  | cons b l ih =>
    unfold State.trySlots
    split
    · exact State.runSlot_sound
    · exact ih.trans State.logSlot_sound

@[simp] theorem State.chooseSlot_sound {s : State} : Sound (s.chooseSlot) ↔ Sound s := by
  unfold State.chooseSlot; dsimp only; (repeat' split) <;> simp

@[simp] theorem State.imageReady_sound {s : State} : Sound s.imageReady ↔ Sound s := by
  unfold State.imageReady
  extract_lets b hd s1 s2 m
  have h1 : Sound s1 ↔ Sound s := by unfold s1; split <;> simp
  have h2 : Sound s2 ↔ Sound s1 := sound_foldl fun s k => by (repeat' split) <;> simp
  rw [← h1, ← h2]
  split <;> simp

/-! ### Machine/Pools.lean -/

theorem State.rerunScan_sound {s x : State} {h} (e : s.rerunScan h = some x) : Sound x ↔ Sound s := by
  unfold State.rerunScan at e
  extract_lets k p n s1 s2 again s3 at e
  split at e
  · cases e
  · obtain rfl := Option.some.inj e
    have h1 : Sound s1 ↔ Sound s := by simp [s1]
    have h2 : Sound s2 ↔ Sound s1 := by simp [s2]
    have h3 : Sound s3 ↔ Sound s2 := State.reopenShare_sound
    rw [← h1, ← h2, ← h3]
    exact State.resumeCsus_sound.trans (sound_foldl fun _ _ => State.needTensor_sound)

@[simp] theorem State.rerunRows_sound {s : State} {a} : Sound (s.rerunRows a) ↔ Sound s := by
  unfold State.rerunRows; simp

@[simp] theorem State.sharePoolLost_sound {s : State} {h pool} : Sound (s.sharePoolLost h pool) ↔ Sound s := by
  unfold State.sharePoolLost
  extract_lets k may
  split
  · split
    · generalize e : s.rerunScan h = o
      cases o with
      | none => simp
      | some x => exact State.rerunScan_sound e
    · simp
  · (repeat' split) <;> simp

@[simp] theorem State.loseHome_sound {s : State} {pool} : Sound (s.loseHome pool) ↔ Sound s := by
  unfold State.loseHome
  exact sound_foldl fun s d => sound_foldl fun s x => by (repeat' split) <;> simp

@[simp] theorem State.answersPoolLost_sound {s : State} {pool} : Sound (s.answersPoolLost pool) ↔ Sound s := by
  unfold State.answersPoolLost; simp

@[simp] theorem State.mergePoolLost_sound {s : State} {pool r} : Sound (s.mergePoolLost pool r) ↔ Sound s := by
  unfold State.mergePoolLost; split <;> simp

@[simp] theorem State.losePool_sound {s : State} {pool} : Sound (s.losePool pool) ↔ Sound s := by
  unfold State.losePool; simp

@[simp] theorem execPoolProbeTick_sound {s : State} {pool ok t} (h : Sound s) : Keeps (execPoolProbeTick pool ok t s) := by
  unfold execPoolProbeTick; dsimp only; (repeat' split) <;> simp [h]

@[simp] theorem execPoolAccessFailure_sound {s : State} {pool reprobeOk t} (h : Sound s) :
    Keeps (execPoolAccessFailure pool reprobeOk t s) := by
  unfold execPoolAccessFailure; dsimp only; (repeat' split) <;> simp [h]

@[simp] theorem execPoolShort_sound {s : State} {pool short t} (h : Sound s) : Keeps (execPoolShort pool short t s) := by
  unfold execPoolShort; dsimp only; (repeat' split) <;> simp [h]

/-! ### Machine/Resets.lean -/

@[simp] theorem State.dropMigrations_sound {s : State} : Sound s.dropMigrations ↔ Sound s := by
  unfold State.dropMigrations
  refine sound_foldl fun s d => sound_foldl fun s x => ?_
  dsimp only; (repeat' split) <;> simp

@[simp] theorem State.applyPending_sound {s : State} : Sound (s.applyPending) ↔ Sound s := by
  unfold State.applyPending; simp

@[simp] theorem State.foldTombs_sound {s : State} : Sound s.foldTombs ↔ Sound s := by
  unfold State.foldTombs
  refine sound_foldl fun s d => sound_foldl fun s x => ?_
  dsimp only; (repeat' split) <;> simp

@[simp] theorem State.resetTails_sound {s : State} : Sound (s.resetTails) ↔ Sound s := by
  unfold State.resetTails; simp

@[simp] theorem State.replayJournal_sound {s : State} : Sound (s.replayJournal) ↔ Sound s := by
  unfold State.replayJournal; simp

@[simp] theorem State.loseUnreplayed_sound {s : State} : Sound (s.loseUnreplayed) ↔ Sound s := by
  unfold State.loseUnreplayed; simp

@[simp] theorem State.replayCounters_sound {s : State} : Sound (s.replayCounters) ↔ Sound s := by
  unfold State.replayCounters; simp

@[simp] theorem State.clearNode_sound {s : State} (h : Sound s) : Sound s.clearNode := by
  unfold State.clearNode
  extract_lets s1 s2 s3 s4 s5 s6 s7 s8 s9
  have h1 : Sound s1 := State.applyPending_sound.2 (State.flushReserve_sound.2 h)
  have h2 : Sound s2 := (sound_foldl fun _ _ => State.endRun_sound).2 h1
  have h3 : Sound s3 := (sound_foldl fun _ _ => State.releaseMerge_sound).2 h2
  have h4 : Sound s4 := State.cancelWork_sound.2 h3
  have h5 : Sound s5 := sound_foldl_keeps (fun _ _ hx => State.stopGuest_sound.2 (State.freeFunction_sound hx)) h4
  have h6 : Sound s6 := (sound_foldl fun _ _ => State.dropUpkeep_sound).2 (State.dropMigrations_sound.2 h5)
  clear_value s6
  have h7 : Sound s7 := h6
  have h8 : Sound s8 := by simp [s8, h7]
  have h9 : Sound s9 := State.setPState_sound.2 h8
  clear_value s9
  obtain ⟨⟨hf, -, hp⟩, -, -, -⟩ := h9
  refine ⟨⟨by simpa using hf, by simp, hp⟩, fun m hm => ?_, fun g hg => ?_, fun b hb => ?_⟩
  · rw [List.eq_of_mem_replicate hm]; exact ⟨rfl, rfl⟩
  · cases hg
  · cases hb

@[simp] theorem State.nodeReset_sound {s : State} {cause} (h : Sound s) : Sound (s.nodeReset cause) := by
  unfold State.nodeReset; simp [h]

@[simp] theorem State.coldReset_sound {s : State} {c} (h : Sound s) : Sound (s.coldReset c) := by
  unfold State.coldReset
  split
  · exact h
  split
  · exact State.log_sound.2 h
  · have hc := State.clearNode_sound h
    generalize s.clearNode = x at hc ⊢
    exact sound_freshPorts hc rfl rfl rfl rfl rfl

@[simp] theorem State.interfaceReset_sound {s : State} {source} (h : Sound s) : Sound (s.interfaceReset source) := by
  unfold State.interfaceReset; simp [h]

@[simp] theorem State.rebase_sound {s : State} : Sound s.rebase ↔ Sound s := by
  change SoundParts (s.fns.map _) s.mboxes s.ports s.regions s.operandBufs ↔ _
  exact soundParts_map

@[simp] theorem State.startAo_sound {s : State} {cause} : Sound (s.startAo cause) ↔ Sound s := by
  unfold State.startAo; simp

@[simp] theorem State.calibrateAll_sound {s : State} : Sound (s.calibrateAll) ↔ Sound s := by
  unfold State.calibrateAll; simp

@[simp] theorem State.darkenPorts_sound {s : State} : Sound (s.darkenPorts) ↔ Sound s := by
  unfold State.darkenPorts; simp

@[simp] theorem State.handOver_sound {s : State} : Sound (s.handOver) ↔ Sound s := by
  unfold State.handOver; simp

@[simp] theorem State.resumeRecoveries_sound {s : State} : Sound (s.resumeRecoveries) ↔ Sound s := by
  unfold State.resumeRecoveries; simp

@[simp] theorem State.seatCores_sound {s : State} : Sound (s.seatCores) ↔ Sound s := by
  unfold State.seatCores; simp

@[simp] theorem State.startUp_sound {s : State} {random refclk cold} (h : Sound s) : Sound (s.startUp random refclk cold) := by
  unfold State.startUp; simp [h]

@[simp] theorem execAoPowerGood_sound {s : State} {bankMv found} (h : Sound s) : Keeps (execAoPowerGood bankMv found s) := by
  unfold execAoPowerGood; simp [h]

@[simp] theorem execNodeResetStretchEnd_sound {s : State} {resetNHigh found t} (h : Sound s) :
    Keeps (execNodeResetStretchEnd resetNHigh found t s) := by
  unfold execNodeResetStretchEnd; simp [h]

@[simp] theorem State.probePools_sound {s : State} {probes} : Sound (s.probePools probes) ↔ Sound s := by
  unfold State.probePools; simp

@[simp] theorem execBusMasterEnableSet_sound {s : State} {poolProbes t} (h : Sound s) : Keeps (execBusMasterEnableSet poolProbes t s) := by
  unfold execBusMasterEnableSet; simp [h]

@[simp] theorem execRstNodeRequest_sound {s : State} {v t} (h : Sound s) : Keeps (execRstNodeRequest v t s) := by
  unfold execRstNodeRequest; simp [h]

@[simp] theorem execRstColdRequest_sound {s : State} {v t} (h : Sound s) : Keeps (execRstColdRequest v t s) := by
  unfold execRstColdRequest; simp [h]

@[simp] theorem execResetNAssert_sound {s : State} {lowNs t} (h : Sound s) : Keeps (execResetNAssert lowNs t s) := by
  unfold execResetNAssert; simp [h]

@[simp] theorem execPerstNAssert_sound {s : State} {lowNs t} (h : Sound s) : Keeps (execPerstNAssert lowNs t s) := by
  unfold execPerstNAssert; dsimp only; (repeat' split) <;> simp [h]

@[simp] theorem execPerstNDeassert_sound {s : State} {link} (h : Sound s) : Keeps (execPerstNDeassert link s) := by
  unfold execPerstNDeassert; simp [h]

@[simp] theorem execHotReset_sound {s : State} {linkDown link} (h : Sound s) : Keeps (execHotReset linkDown link s) := by
  unfold execHotReset; simp [h]

@[simp] theorem execAoWatchdogBite_sound {s : State} {t} (h : Sound s) : Keeps (execAoWatchdogBite t s) := by
  unfold execAoWatchdogBite; simp [h]

@[simp] theorem execBrownout_sound {s : State} {mv t} (h : Sound s) : Keeps (execBrownout mv t s) := by
  unfold execBrownout; simp [h]

@[simp] theorem execThermalShutdown_sound {s : State} {r t} (h : Sound s) : Keeps (execThermalShutdown r t s) := by
  unfold execThermalShutdown
  extract_lets s0 s1 s2
  have h0 : Sound s0 := State.at_sound.2 h
  have h1 : Sound s1 := State.clearNode_sound (State.log_sound.2 (State.setTemps_sound.2 h0))
  have h2 : Sound s2 := State.modAo_sound.2 h1
  split
  · exact keeps_next.2 h0
  · clear_value s2
    exact keeps_next.2 (sound_freshPorts h2 rfl rfl rfl rfl rfl)

@[simp] theorem execHotSwapTurnOn_sound {s : State} {mv t} (h : Sound s) : Keeps (execHotSwapTurnOn mv t s) := by
  unfold execHotSwapTurnOn; simp [h]

@[simp] theorem execHotSwapTurnOff_sound {s : State} {mv ma forUs t} (h : Sound s) : Keeps (execHotSwapTurnOff mv ma forUs t s) := by
  unfold execHotSwapTurnOff; simp [h]

@[simp] theorem execOvervoltageClose_sound {s : State} {mv t} (h : Sound s) : Keeps (execOvervoltageClose mv t s) := by
  unfold execOvervoltageClose; simp [h]

/-! ### Machine/Firmware.lean -/

@[simp] theorem State.fwUpdate_sound {s : State} {r action body} (h : Sound s) (hbody : ∀ x b, Sound x → Sound (body x b)) :
    Sound (s.fwUpdate r action body) := by
  unfold State.fwUpdate; dsimp only; split <;> simp_all

@[simp] theorem execFwUpdateStage_sound {s : State} {r t} (h : Sound s) : Keeps (execFwUpdateStage r t s) := by
  unfold execFwUpdateStage
  refine keeps_next.2 (State.fwUpdate_sound (by simp [h]) fun x b hx => ?_)
  dsimp only; (repeat' split) <;> simp [hx]

@[simp] theorem execFwUpdateVerify_sound {s : State} {r t} (h : Sound s) : Keeps (execFwUpdateVerify r t s) := by
  unfold execFwUpdateVerify; simp +contextual [h]

@[simp] theorem execFwUpdateActivate_sound {s : State} {r t} (h : Sound s) : Keeps (execFwUpdateActivate r t s) := by
  unfold execFwUpdateActivate; simp +contextual [h]

@[simp] theorem execFwUpdateStatus_sound {s : State} {r t} (h : Sound s) : Keeps (execFwUpdateStatus r t s) := by
  unfold execFwUpdateStatus; simp +contextual [h]

@[simp] theorem execFwUpdateTailEnd_sound {s : State} {t} (h : Sound s) : Keeps (execFwUpdateTailEnd t s) := by
  unfold execFwUpdateTailEnd; dsimp only; (repeat' split) <;> simp [h]

/-! ### Machine/Faults.lean -/

@[simp] theorem State.stopRequest_sound {s : State} {k io} : Sound (s.stopRequest k io) ↔ Sound s := by
  unfold State.stopRequest; dsimp only; (repeat' split) <;> simp

@[simp] theorem State.stopCommits_sound {s : State} (h : Sound s) : Sound s.stopCommits := by
  unfold State.stopCommits
  exact sound_foldl_keeps (fun x r hx => by split <;> simp [hx]) h

@[simp] theorem State.resetEngine_sound {s : State} {e io} (h : Sound s) : Sound (s.resetEngine e io) := by
  unfold State.resetEngine; (repeat' split) <;> simp [h]

@[simp] theorem State.serviceStop_sound {s : State} {e} (h : Sound s) : Sound (s.serviceStop e) := by
  unfold State.serviceStop; simp [h]

@[simp] theorem State.loseJournal_sound {s : State} {channel gone} : Sound (s.loseJournal channel gone) ↔ Sound s := by
  unfold State.loseJournal; simp

@[simp] theorem State.channelOff_sound {s : State} {e} : Sound (s.channelOff e) ↔ Sound s := by
  unfold State.channelOff; simp

@[simp] theorem State.loseStripes_sound {s : State} {e} : Sound (s.loseStripes e) ↔ Sound s := by
  unfold State.loseStripes; simp

@[simp] theorem State.coreLost_sound {s : State} {e} : Sound (s.coreLost e) ↔ Sound s := by
  unfold State.coreLost; split <;> simp

@[simp] theorem State.hardTrigger_sound {s : State} {e} (h : Sound s) : Sound (s.hardTrigger e) := by
  unfold State.hardTrigger; split <;> simp [h]

@[simp] theorem execHardFault_sound {s : State} {e t} (h : Sound s) : Keeps (execHardFault e t s) := by
  unfold execHardFault; simp [h]

@[simp] theorem State.countReset_sound {s : State} {e} (h : Sound s) : Sound (s.countReset e) := by
  unfold State.countReset; simp [h]

@[simp] theorem execUnitReset_sound {s : State} {e io t} (h : Sound s) : Keeps (execUnitReset e io t s) := by
  unfold execUnitReset; simp [h]

@[simp] theorem State.endWakes_sound {s : State} : Sound s.endWakes ↔ Sound s := by
  unfold State.endWakes
  exact sound_foldl fun s r => by split <;> simp

@[simp] theorem execResourceWatchdogBite_sound {s : State} {arb io t} (h : Sound s) : Keeps (execResourceWatchdogBite arb io t s) := by
  unfold execResourceWatchdogBite
  extract_lets s0 a late known held s1 e s2 s3
  have h0 : Sound s0 := State.at_sound.2 h
  split
  · split <;> simp [h0]
  have h1 : Sound s1 := State.log_sound.2 h0
  have h2 : Sound s2 := State.modArb_sound.2 (State.resetEngine_sound h1)
  have h3 : Sound s3 := by unfold s3; split <;> simp [h2]
  clear_value s0 s1 s2 s3 held e late
  split
  · exact keeps_next.2 h0
  split
  · exact keeps_next.2 (State.takeOver_sound.2 h1)
  split
  · split
    · exact execGustGrant_sound h1
    split
    · exact execGustGrant_sound (State.endWakes_sound.2 (State.takeOver_sound.2 h1))
    · exact execGustGrant_sound (State.countReset_sound (State.resetEngine_sound (State.endWakes_sound.2 h1)))
  · exact keeps_next.2 (State.countReset_sound h3)

@[simp] theorem execSparePredictiveTrigger_sound {s : State} {e errors t} (h : Sound s) :
    Keeps (execSparePredictiveTrigger e errors t s) := by
  unfold execSparePredictiveTrigger; simp [h]

@[simp] theorem execRecoveryGrant_sound {s : State} {t} (h : Sound s) : Keeps (execRecoveryGrant t s) := by
  unfold execRecoveryGrant; dsimp only; (repeat' split) <;> simp [h]

@[simp] theorem execRecoveryStall_sound {s : State} {domain t} (h : Sound s) : Keeps (execRecoveryStall domain t s) := by
  unfold execRecoveryStall; dsimp only; (repeat' split) <;> simp [h]

@[simp] theorem execRecoveryEnd_sound {s : State} {domain t} (h : Sound s) : Keeps (execRecoveryEnd domain t s) := by
  unfold execRecoveryEnd; dsimp only; (repeat' split) <;> simp [h]

@[simp] theorem State.regenList_sound {s : State} {c d cut w l} : Sound (s.regenList c d cut w l) ↔ Sound s := by
  unfold State.regenList; simp

@[simp] theorem execRegenerationSwitch_sound {s : State} {shard t} (h : Sound s) : Keeps (execRegenerationSwitch shard t s) := by
  unfold execRegenerationSwitch; dsimp only; (repeat' split) <;> simp [h]

@[simp] theorem execShardLost_sound {s : State} {shard ownerReports io t} (h : Sound s) :
    Keeps (execShardLost shard ownerReports io t s) := by
  unfold execShardLost; simp [h]

end Sys2Proof.Machine
end

-- ==== Proofs: Registers and the sideband keep the invariant (O5) ====
section
/-! PROOFS (O5). Register writes and the sideband bus. -/

namespace Sys2Proof.Machine

open Sys2Proof

/-! ### Machine/Registers.lean -/

@[simp] theorem execMbxDoorbell_sound {s : State} {fn v t} (h : Sound s) : Keeps (execMbxDoorbell fn v t s) := by
  unfold execMbxDoorbell; simp [h]

@[simp] theorem execMbxAck_sound {s : State} {fn v} (h : Sound s) : Keeps (execMbxAck fn v s) := by
  unfold execMbxAck; simp [h]

@[simp] theorem execDblSqTail_sound {s : State} {fn slot width v t} (h : Sound s) : Keeps (execDblSqTail fn slot width v t s) := by
  unfold execDblSqTail; dsimp only; (repeat' split) <;> simp [h]

@[simp] theorem execDblCqHead_sound {s : State} {fn slot width v} (h : Sound s) : Keeps (execDblCqHead fn slot width v s) := by
  unfold execDblCqHead; split <;> simp [h]

@[simp] theorem State.writeVec_sound {s : State} {f v upper new} : Sound (s.writeVec f v upper new) ↔ Sound s := by
  unfold State.writeVec; simp

@[simp] theorem State.releaseAll_sound {s : State} {f} : Sound (s.releaseAll f) ↔ Sound s := by
  unfold State.releaseAll; simp

@[simp] theorem State.putRegister_sound {s : State} {f o n a} : Sound (s.putRegister f o n a) ↔ Sound s := by
  unfold State.putRegister
  extract_lets clr
  refine sound_ite_iff State.modFn_sound ?_
  refine sound_ite_iff (State.modMbox_sound fun _ => ⟨rfl, rfl⟩) ?_
  refine sound_ite_iff (State.modMbox_sound fun _ => ⟨rfl, rfl⟩) ?_
  refine sound_ite_iff State.writeVec_sound ?_
  refine sound_ite_iff State.modFn_sound ?_
  refine sound_ite_iff (by split <;> simp) ?_
  refine sound_ite_iff Iff.rfl (sound_ite_iff Iff.rfl ?_)
  exact sound_ite_iff State.modPwr_sound (sound_ite_iff Iff.rfl Iff.rfl)

@[simp] theorem execRegisterWrite_sound {s : State} {fn offset width v} (h : Sound s) : Keeps (execRegisterWrite fn offset width v s) := by
  unfold execRegisterWrite
  dsimp only
  (repeat' split) <;> simp [h, State.putRegister_sound]
  exact State.modMbox_keeps (fun m hm => by simp [hm, memWriteAll_wf]) h

@[simp] theorem execArbGrantsRead_sound {s : State} (h : Sound s) : Keeps (execArbGrantsRead s) := by
  unfold execArbGrantsRead; split <;> simp [h]

@[simp] theorem execIntHeldRead_sound {s : State} {fn} (h : Sound s) : Keeps (execIntHeldRead fn s) := by
  unfold execIntHeldRead; simp [h]

@[simp] theorem execPwrGustWaitsRead_sound {s : State} (h : Sound s) : Keeps (execPwrGustWaitsRead s) := by
  unfold execPwrGustWaitsRead; simp [h]

@[simp] theorem execPortCounterRead_sound {s : State} {offset} (h : Sound s) : Keeps (execPortCounterRead offset s) := by
  unfold execPortCounterRead; simp [h]

@[simp] theorem execMsixVectorUnmask_sound {s : State} {fn vec t} (h : Sound s) : Keeps (execMsixVectorUnmask fn vec t s) := by
  unfold execMsixVectorUnmask; simp [h]

@[simp] theorem execMsixFunctionMaskClear_sound {s : State} {fn t} (h : Sound s) : Keeps (execMsixFunctionMaskClear fn t s) := by
  unfold execMsixFunctionMaskClear; simp [h]

/-! ### Machine/Sideband.lean -/

@[simp] theorem State.answerMctp_sound {s : State} {data} : Sound (s.answerMctp data) ↔ Sound s := by
  unfold State.answerMctp; simp

@[simp] theorem execEntdaa_sound {s : State} {addr} (h : Sound s) : Keeps (execEntdaa addr s) := by
  unfold execEntdaa; simp [h]

@[simp] theorem execSetdasa_sound {s : State} {staticAddr addr} (h : Sound s) : Keeps (execSetdasa staticAddr addr s) := by
  unfold execSetdasa; simp [h]

@[simp] theorem execSetEndpointId_sound {s : State} {eid} (h : Sound s) : Keeps (execSetEndpointId eid s) := by
  unfold execSetEndpointId; simp [h]

@[simp] theorem execGetEndpointId_sound {s : State} (h : Sound s) : Keeps (execGetEndpointId s) := by
  unfold execGetEndpointId; simp [h]

@[simp] theorem execGetEndpointUuid_sound {s : State} (h : Sound s) : Keeps (execGetEndpointUuid s) := by
  unfold execGetEndpointUuid; simp [h]

@[simp] theorem execGetMctpVersionSupport_sound {s : State} (h : Sound s) : Keeps (execGetMctpVersionSupport s) := by
  unfold execGetMctpVersionSupport; simp [h]

@[simp] theorem execGetMessageTypeSupport_sound {s : State} (h : Sound s) : Keeps (execGetMessageTypeSupport s) := by
  unfold execGetMessageTypeSupport; simp [h]

@[simp] theorem execPldmSensorRead_sound {s : State} {sensor} (h : Sound s) : Keeps (execPldmSensorRead sensor s) := by
  unfold execPldmSensorRead; (repeat' split) <;> simp [h]

@[simp] theorem execPollForPlatformEventMessage_sound {s : State} (h : Sound s) : Keeps (execPollForPlatformEventMessage s) := by
  unfold execPollForPlatformEventMessage; (repeat' split) <;> simp [h]

@[simp] theorem execSidebandZizonRequest_sound {s : State} {request input t} (h : Sound s) :
    Keeps (execSidebandZizonRequest request input t s) := by
  unfold execSidebandZizonRequest
  dsimp only
  (repeat' split) <;> simp [h]
  exact State.modMbox_keeps (fun m hm => ⟨rfl, rfl⟩) (State.at_sound.2 h)

end Sys2Proof.Machine
end

-- ==== Proofs: Every step keeps the invariant (O3, O4, O5) ====
section
/-! PROOFS (O3, O4, O5). The state at reset, and a step of it. -/

namespace Sys2Proof.Machine

open Sys2Proof

/-- Every command keeps the invariant: each arm of the dispatch is one of the meanings above. -/
theorem exec_sound {s : State} {i : Instr} (h : Sound s) : Keeps (exec i s) := by
  unfold exec
  cases i <;> simp [h]

/-- Settles O5: the command at the front keeps the invariant, and so does the tick of an empty queue. -/
theorem stepKeepsSound : Obligations.StepKeepsSound := by
  intro s x h hx
  unfold step at hx
  cases e : s.pending with
  | nil =>
    rw [e] at hx
    cases hx
    exact State.at_sound.2 h
  | cons c rest =>
    rw [e] at hx
    exact exec_sound (s := { s with pending := rest }) h x hx

/-- Settles O4: the register files start at their sizes, and every RAM starts empty. -/
theorem resetIsSound : Obligations.ResetIsSound := by
  refine ⟨⟨by simp [State.reset], by simp [State.reset], by simp [State.reset]⟩, fun m hm => ?_, fun g hg => ?_, fun b hb => ?_⟩
  · rw [List.eq_of_mem_replicate hm]; exact ⟨rfl, rfl⟩
  · cases hg
  · cases hb

theorem reset_fn_vf {f : Nat} (h1 : 1 ≤ f) (h2 : f < 128) : State.reset.fn f = Fn.vf := by
  obtain ⟨f, rfl⟩ := Nat.exists_eq_add_of_le' h1
  have hf : f < 127 := by omega
  exact List.getD_replicate _ hf

/-- Settles O3, from the PF's and the VFs' records at reset. -/
theorem resourcesAfterReset : Obligations.ResourcesAfterReset := by
  refine ⟨by decide, fun f h1 h2 => ?_⟩
  rw [reset_fn_vf h1 h2]
  exact ⟨rfl, rfl, rfl, rfl⟩

end Sys2Proof.Machine
end

-- ==== Proofs: Mailbox doorbell and acknowledge (O6) ====
section
/-! PROOFS (O6). A write of MBX_DOORBELL or MBX_ACK that is not ignored changes the one mailbox it names, by a rule that depends
on its state; a command that is posted waits at the mailbox arbiter. -/

namespace Sys2Proof.Machine

open Sys2Proof

/-- A request at an arbiter changes arbiters only. -/
theorem State.arbRequest_frame (s : State) (id n : Nat) (b rb : Bool) (w : Work) :
    s.arbRequest id n b rb w = { s with arbs := (s.arbRequest id n b rb w).arbs } :=
  State.modArb_frame ..

@[simp] theorem State.arbRequest_mbox (s : State) (id n : Nat) (b rb : Bool) (w : Work) (g : Nat) :
    (s.arbRequest id n b rb w).mbox g = s.mbox g := by
  rw [State.arbRequest_frame]; rfl

section Doorbell
variable {s : State} {fn : Nat} {v : BitVec 32} (t : Nat)

theorem execMbxDoorbell_ignored (h : (s.fn fn).ready = false ∨ v.getLsbD 0 = false) :
    exec (.mbxDoorbell fn v t) s = .next (s.at t) := by
  change execMbxDoorbell fn v t s = _
  unfold execMbxDoorbell
  rcases h with h | h
  · simp [h]
  · simp only [h, Bool.not_false, if_true]
    split <;> rfl

theorem execMbxDoorbell_overrun (hf : s.fnExists fn = true) (hr : (s.fn fn).ready = true) (hv : v.getLsbD 0 = true)
    (hst : (s.mbox fn).st ≠ .idle) :
    exec (.mbxDoorbell fn v t) s = .next ((s.at t).modMbox fn fun m => { m with overrun := true }) := by
  change execMbxDoorbell fn v t s = _
  unfold execMbxDoorbell
  simp [hf, hr, hv, hst]

theorem execMbxDoorbell_posts (hf : s.fnExists fn = true) (hr : (s.fn fn).ready = true) (hv : v.getLsbD 0 = true)
    (hst : (s.mbox fn).st = .idle) :
    exec (.mbxDoorbell fn v t) s = .next (((s.at t).modMbox fn fun m =>
      { m with st := .posted, sequence := v.extractLsb' 16 16, postedAt := (s.at t).now }).arbRequest 0xA0 fn false false
        (.mailbox fn)) := by
  change execMbxDoorbell fn v t s = _
  unfold execMbxDoorbell
  simp [hf, hr, hv, hst]

end Doorbell

theorem execMbxAck_runs {s : State} {fn : Nat} {v : BitVec 32} (hf : s.fnExists fn = true) (hv : v.getLsbD 0 = true) :
    exec (.mbxAck fn v) s = .next (s.modMbox fn fun m =>
      if (s.mbox fn).st = .done then { m with st := .idle } else { m with overrun := true }) := by
  change execMbxAck fn v s = _
  unfold execMbxAck
  by_cases h : (s.mbox fn).st = .done <;> simp [hf, hv, h]

/-- Settles O6: each write is the one line of the register's meaning that its condition names. -/
theorem mailboxDoorbellAndAcknowledge : Obligations.MailboxDoorbellAndAcknowledge := by
  intro s fn v t hf hlen
  have hsame (f : Mbox → Mbox) := State.modMbox_mbox_same (s := s.at t) hlen f
  refine ⟨fun hr hv hst => ?posted, fun hr hv hst => ?overrun, execMbxDoorbell_ignored t, fun hv => ?acknowledged⟩
  case posted =>
    refine ⟨_, execMbxDoorbell_posts t hf hr hv hst, ?_, ?_, fun g hg => ?_, State.arbRequest_waits .., fun a ha => ?_⟩
    · rw [State.arbRequest_frame]; rfl
    · rw [State.arbRequest_mbox, hsame]; rfl
    · rw [State.arbRequest_mbox, State.modMbox_mbox_ne hg]; rfl
    · rw [State.arbRequest_arb_ne ha]; rfl
  case overrun =>
    exact ⟨_, execMbxDoorbell_overrun t hf hr hv hst, rfl, hsame _, fun g hg => State.modMbox_mbox_ne hg _⟩
  case acknowledged =>
    exact ⟨_, execMbxAck_runs hf hv, rfl, fun g hg => State.modMbox_mbox_ne hg _, State.modMbox_mbox_same hlen _⟩

end Sys2Proof.Machine
end

-- ==== Proofs: Register writes (O8) ====
section
/-! PROOFS (O8). Bytes written to a RAM read back and leave every other byte; the response area takes no write; FN_EVENTS clears
bit by bit. -/

namespace Sys2Proof.Machine

open Sys2Proof

/-- Bytes above the last one written read as before. -/
theorem memRead_memWriteAll_high : ∀ (b : Bytes) {m : Mem} (i j : Nat), m.wf = true → i + b.length ≤ j →
    memRead (memWriteAll m i b) j = memRead m j
  | [], _, _, _, _, _ => rfl
  | x :: xs, m, i, j, h, hj => by
    rw [List.length_cons] at hj
    rw [memWriteAll, memRead_memWriteAll_high xs (i + 1) j (memWrite_wf h i x) (by omega), memRead_memWrite j h, if_neg (by omega)]

/-- A write of the request area (R81). -/
theorem execRegisterWrite_request {s : State} {fn offset width : Nat} {v : BitVec 64} (hf : s.fnExists fn = true)
    (hn : naturalAccess offset width = true) (hlo : 0x1100 ≤ offset) (hhi : offset < 0x1800) :
    exec (.registerWrite fn offset width v) s =
      .next (s.modMbox fn fun m => { m with req := memWriteAll m.req (offset - 0x1000) (toLE width v.toNat) }) := by
  change execRegisterWrite fn offset width v s = _
  have hm : offset ≠ msixControl := by unfold msixControl; omega
  simp [execRegisterWrite, hf, hn, hlo, hhi, hm]

theorem naturalAccess_of {offset width : Nat} (hw : width = 1 ∨ width = 2 ∨ width = 4 ∨ width = 8) (ho : offset % width = 0) :
    naturalAccess offset width = true := by
  rcases hw with rfl | rfl | rfl | rfl <;> simp [naturalAccess, ho]

/-- No register of the response area takes a write (R81). -/
theorem State.putRegister_response {s : State} {fn o : Nat} (hlo : 0x1800 ≤ o) (hhi : o < 0x2000) (new ones : Nat) :
    s.putRegister fn o new ones = s := by
  have h1 : o ≠ 0x18 := by omega
  have h2 : o ≠ 0x1008 := by omega
  have h3 : o ≠ 0x1018 := by omega
  have h4 : ¬(0x2000 ≤ o ∧ o < 0x2400) := by omega
  have h5 : o ≠ 0x2C00 := by omega
  have h6 : o ≠ 0x2C08 := by omega
  have h7 : o ≠ 0x20000 := by omega
  have h8 : o ≠ 0x23018 := by omega
  have h9 : o ≠ 0x25000 := by omega
  simp only [State.putRegister, h1, h2, h3, h4, h5, h6, h7, h8, h9, Bool.and_eq_true, decide_eq_true_eq, if_false, ite_self]

theorem execRegisterWrite_response {s : State} {fn offset width : Nat} {v : BitVec 64} (hlo : 0x1800 ≤ offset) (hhi : offset < 0x2000)
    (hw : width = 4 ∨ width = 8) : exec (.registerWrite fn offset width v) s = .next s := by
  change execRegisterWrite fn offset width v s = _
  have hm : offset ≠ msixControl := by unfold msixControl; omega
  have ha : ¬(offset < 0x1800) := by omega
  have hw' : (width != 4 && width != 8) = false := by rcases hw with rfl | rfl <;> rfl
  simp only [execRegisterWrite, hm, ha, hw', decide_false, Bool.and_false, if_false, Bool.false_eq_true,
    State.putRegister_response (s := s) (fn := fn) (o := offset / 8 * 8) (by omega) (by omega), ite_self]

theorem bit_low32 (v : BitVec 64) {i : Nat} (hi : i < 32) : bit (v.toNat % 2 ^ 32) i = v.getLsbD i := by
  rw [bit, Nat.testBit_mod_two_pow, BitVec.testBit_toNat]
  simp [hi]

theorem execRegisterWrite_events {s : State} {fn : Nat} {v : BitVec 64} (hf : s.fnExists fn = true) :
    exec (.registerWrite fn 0x0018 4 v) s = .next (s.modFn fn fun x =>
      { x with evMbxDone := x.evMbxDone && !v.getLsbD 0, evQueueError := x.evQueueError && !v.getLsbD 1,
               evQuota := x.evQuota && !v.getLsbD 2, evPool := x.evPool && !v.getLsbD 3 }) := by
  change execRegisterWrite fn 0x0018 4 v s = _
  have h0 := bit_low32 v (i := 0) (by omega)
  have h1 := bit_low32 v (i := 1) (by omega)
  have h2 := bit_low32 v (i := 2) (by omega)
  have h3 := bit_low32 v (i := 3) (by omega)
  norm_num at h0 h1 h2 h3
  simp [execRegisterWrite, hf, msixControl, naturalAccess, State.putRegister, h0, h1, h2, h3]

/-- Settles O8: by the three writes above and the laws of addressed RAM. -/
theorem registerWrites : Obligations.RegisterWrites := by
  refine ⟨fun s fn offset width v hf hlen hwf hw ho hlo hhi => ?request,
    fun s fn offset width v hlo hhi hw => execRegisterWrite_response hlo hhi hw, fun s fn v hf hlen => ?events⟩
  case request =>
    refine ⟨_, execRegisterWrite_request hf (naturalAccess_of hw ho) hlo hhi, rfl, fun g hg => State.modMbox_mbox_ne hg _, ?_⟩
    rw [State.modMbox_mbox_same hlen]
    refine ⟨rfl, ?_, fun a ha => ?_⟩
    · simpa using memReadAll_memWriteAll (toLE width v.toNat) (offset - 0x1000) hwf
    · rcases ha with ha | ha
      · exact memRead_memWriteAll_low _ _ _ hwf ha
      · exact memRead_memWriteAll_high _ _ _ hwf (by simpa using ha)
  case events =>
    exact ⟨_, execRegisterWrite_events hf, rfl, fun g hg => State.modFn_fn_ne hg _, State.modFn_fn_same hlen _⟩

end Sys2Proof.Machine
end

-- ==== Proofs: The mailbox grant in Doldrums (O11) ====
section
/-! PROOFS (O11). The statement takes the oldest request at a free mailbox arbiter, and says nothing of background work. In
Doldrums an arbiter passes background requests over (R55), so such a request is not granted. -/

namespace Sys2Proof.Machine

open Sys2Proof

/-- A mailbox's request at the mailbox arbiter that is marked as background work. -/
def backgroundPost : ArbReq := ⟨0, 0, true, false, .mailbox 0⟩

/-- A node in Doldrums whose only posted mailbox waits as background work. Its request area holds an IDENTIFY of this version. -/
def doldrumsPost : State :=
  { State.reset with
    pwr := { doldrums := true }
    mboxes := { st := .posted, req := [(0x100, 1#8), (0x103, BitVec.ofNat 8 Config.zizonMajor)] } :: List.replicate 128 {}
    arbs := [{ id := 0xA0, waiting := [backgroundPost] }] }

theorem doldrumsPost_not_granted (t : Nat) : exec (.ageArbiterGrant 0xA0 none t) doldrumsPost = .next (doldrumsPost.at t) := rfl

theorem doldrumsPost_served : doldrumsPost.unserved (memReadAll (doldrumsPost.mbox 0).req 0x100 1792) = none := by
  have h : memReadAll (doldrumsPost.mbox 0).req 0x100 1792 =
    1#8 :: 0#8 :: 0#8 :: BitVec.ofNat 8 Config.zizonMajor :: memReadAll (doldrumsPost.mbox 0).req 0x104 1788 := rfl
  rw [h]
  generalize memReadAll _ _ _ = rest
  rfl

/-- Refutes O11: in Doldrums no background request is granted (R55), and the statement lets the oldest posted mailbox's request be one;
the mailbox stays POSTED. -/
theorem not_mailboxGrant : ¬ Obligations.MailboxGrant := by
  rintro ⟨h, -, -⟩
  obtain ⟨x, hx, -, hm, -⟩ :=
    h doldrumsPost 0 0 none backgroundPost (by decide) (by simp [doldrumsPost]) rfl rfl rfl doldrumsPost_served
  rw [doldrumsPost_not_granted] at hx
  obtain rfl := Host.Outcome.next.inj hx
  exact absurd (congrArg Mbox.st hm) (by decide)

end Sys2Proof.Machine
end

-- ==== Proofs: Answers of control commands (O13) ====
section
/-! PROOFS (O13). A control command in its commit step runs once its permission, its header and its fields are checked; the
answer is written to the response area, and nothing else changes. -/

namespace Sys2Proof.Machine

open Sys2Proof

/-! ### What an answer leaves in the response area (R87) -/

theorem memReadAll_memWriteAll_append (a b : Bytes) {m : Mem} (i : Nat) (h : m.wf = true) :
    memReadAll (memWriteAll m i (a ++ b)) (i + a.length) b.length = b := by
  induction a generalizing m i with
  | nil => simpa using memReadAll_memWriteAll b i h
  | cons x a ih =>
    have := ih (i + 1) (memWrite_wf h i x)
    rwa [show i + 1 + a.length = i + (x :: a).length by simp; omega] at this

/-- The results of a command follow the 32 bytes of the response's header (R87). -/
theorem responseBytes_eq_append (op status detail seq : Nat) (results : Bytes) (n : Nat) :
    ∃ head : Bytes, head.length = 32 ∧ responseBytes op status detail seq results n = head ++ results :=
  ⟨_, by simp, rfl⟩

theorem State.mailboxDone_result {s : State} {r : Nat} (hr : r < s.mboxes.length) (h128 : r ≠ 128) (hw : (s.mbox r).resp.wf = true)
    (status detail : Nat) (results data : Bytes) :
    responseResult (s.mailboxDone r status detail results data) r results.length = results := by
  obtain ⟨-, -, h⟩ := State.mailboxDone_spec hr h128 status detail results data
  unfold responseResult
  rw [h]
  obtain ⟨head, hl, hb⟩ := responseBytes_eq_append (le (s.mbox r).copy 0 2) status detail (s.mbox r).sequence.toNat results data.length
  rw [hb]
  simpa [hl] using memReadAll_memWriteAll_append head results 0x800 hw

theorem State.reply_result {s : State} {r : Nat} (hr : r < s.mboxes.length) (h128 : r ≠ 128) (hw : (s.mbox r).resp.wf = true)
    (status detail : Nat) (results data : Bytes) :
    responseResult (s.reply r status detail results data) r results.length = results := by
  rw [State.reply, State.arbEnd_frame]
  exact State.mailboxDone_result hr h128 hw status detail results data

theorem State.refuse_answered {s : State} {r : Nat} (hr : r < s.mboxes.length) (h128 : r ≠ 128) {status detail : Nat}
    (hs : status < 256) (hd : detail < 65536) :
    Answered (s.refuse r status detail) r status detail ∧ OnlyAnswered s (s.refuse r status detail) r :=
  ⟨State.reply_answered hr h128 hs hd [] [], State.reply_only hr h128 status detail [] []⟩

/-! ### IDENTIFY (R99) -/

theorem State.identify_runs {s : State} {r cns : Nat} {body : State → Nat → State} (hg : Granted s r 1)
    (hz : ReservedZero s r identifyRanges) (h128 : r ≠ 128) (hc : byteAt (s.mbox r).copy 0x20 = cns) (h4 : cns < 4) :
    s.identify r cns body = body s (le (s.mbox r).copy 0x24 4) := by
  have hb : firstBad (s.mbox r).copy identifyRanges [(0, decide (cns < 4))] = none := firstBad_none hz (by simp [h4])
  have hp : (r != 128 || s.sidebandMay 0x0001) = true := by simp [h128]
  simp only [State.identify, hc, decide_true, Bool.true_or, if_true, hp]
  exact State.commit_runs hg hb

section Identify
variable {s : State} {r : Nat}

theorem replied_of_exec {i : Instr} {t n : Nat} {results : Bytes} (hn : results.length = n) (hr : r < s.mboxes.length) (h128 : r ≠ 128)
    (hw : (s.mbox r).resp.wf = true) (e : exec i s = .next ((s.at t).reply r stOk 0 results [])) :
    ∃ x, exec i s = .next x ∧ Answered x r stOk 0 ∧ OnlyAnswered (s.at t) x r ∧ responseResult x r n = results := by
  subst hn
  exact ⟨_, e, State.reply_answered (s := s.at t) hr h128 (by decide) (by decide) _ _, State.reply_only (s := s.at t) hr h128 _ _ _ _,
    State.reply_result (s := s.at t) hr h128 hw _ _ _ _⟩

theorem denied_of_exec {i : Instr} {t : Nat} (hr : r < s.mboxes.length) (h128 : r ≠ 128)
    (e : exec i s = .next ((s.at t).refuse r stDenied 0)) :
    ∃ x, exec i s = .next x ∧ Answered x r stDenied 0 ∧ OnlyAnswered (s.at t) x r :=
  ⟨_, e, State.refuse_answered (s := s.at t) hr h128 (by decide) (by decide)⟩

variable (t : Nat) (hg : Granted s r 1) (hz : ReservedZero s r identifyRanges) (h128 : r ≠ 128)
include hg hz h128

theorem execIdentifyNode_answers (hc : byteAt (s.mbox r).copy 0x20 = 0) (ht : le (s.mbox r).copy 0x24 4 = 0) :
    exec (.identifyNode r t) s = .next ((s.at t).reply r stOk 0 s.nodeIdentity []) := by
  change Host.Outcome.next _ = _
  rw [State.identify_runs (hg.at t) (hz.at t) h128 hc (by decide), State.at_mbox_, if_neg (by simp [ht])]
  rfl

theorem execIdentifyFunction_answers (hc : byteAt (s.mbox r).copy 0x20 = 1) (hme : r = 0 ∨ le (s.mbox r).copy 0x24 4 = r)
    (ht : le (s.mbox r).copy 0x24 4 < 128) : exec (.identifyFunction r t) s =
      .next ((s.at t).reply r stOk 0 (s.functionIdentity (le (s.mbox r).copy 0x24 4)) []) := by
  change Host.Outcome.next _ = _
  rw [State.identify_runs (hg.at t) (hz.at t) h128 hc (by decide), State.at_mbox_, if_neg, if_neg (by omega)]
  · rfl
  · rcases hme with h | h <;> simp [h]

theorem execIdentifyFunction_denied (hc : byteAt (s.mbox r).copy 0x20 = 1) (h0 : r ≠ 0) (hme : le (s.mbox r).copy 0x24 4 ≠ r) :
    exec (.identifyFunction r t) s = .next ((s.at t).refuse r stDenied 0) := by
  change Host.Outcome.next _ = _
  rw [State.identify_runs (hg.at t) (hz.at t) h128 hc (by decide), State.at_mbox_, if_pos (by simp [h0, h128, hme])]

theorem execIdentifyCollection_answers {c : Coll} (hc : byteAt (s.mbox r).copy 0x20 = 2)
    (hcoll : s.coll? (le (s.mbox r).copy 0x24 4) = some c) (hr : s.rights r (le (s.mbox r).copy 0x24 4) ≠ 0) :
    exec (.identifyCollection r t) s = .next ((s.at t).reply r stOk 0
      (s.collIdentity c (if r = 0 then 0x3F else s.rights r (le (s.mbox r).copy 0x24 4))) []) := by
  change Host.Outcome.next _ = _
  rw [State.identify_runs (hg.at t) (hz.at t) h128 hc (by decide), State.at_mbox_]
  have hp : (decide (r = 0) || decide (r = 128)) = decide (r = 0) := by simp [h128]
  have hn : (if r = 0 then 0x3F else s.rights r (le (s.mbox r).copy 0x24 4)) ≠ 0 := by split <;> simp [hr]
  simp only [hp, decide_eq_true_eq, State.at_rights, State.at_coll_, hcoll, hn, if_false]
  rfl

theorem execIdentifyQueue_answers (hc : byteAt (s.mbox r).copy 0x20 = 3) (ht : le (s.mbox r).copy 0x24 4 < 3584)
    (hme : r = 0 ∨ (s.fn r).queueFirst ≤ le (s.mbox r).copy 0x24 4 ∧
      le (s.mbox r).copy 0x24 4 < (s.fn r).queueFirst + (s.fn r).queueCount) :
    exec (.identifyQueue r t) s = .next ((s.at t).reply r stOk 0 (s.queueIdentity (le (s.mbox r).copy 0x24 4)) []) := by
  change Host.Outcome.next _ = _
  rw [State.identify_runs (hg.at t) (hz.at t) h128 hc (by decide), State.at_mbox_]
  dsimp only
  rw [if_neg, if_neg (by omega)]
  · rfl
  · rcases hme with h | h <;> simp [h]

theorem execIdentifyQueue_denied (hc : byteAt (s.mbox r).copy 0x20 = 3) (h0 : r ≠ 0)
    (hme : ¬ ((s.fn r).queueFirst ≤ le (s.mbox r).copy 0x24 4 ∧
      le (s.mbox r).copy 0x24 4 < (s.fn r).queueFirst + (s.fn r).queueCount)) :
    exec (.identifyQueue r t) s = .next ((s.at t).refuse r stDenied 0) := by
  change Host.Outcome.next _ = _
  rw [State.identify_runs (hg.at t) (hz.at t) h128 hc (by decide), State.at_mbox_]
  dsimp only
  rw [if_pos]
  rcases not_and_or.1 hme with h | h <;> simp [h0, h128, h]

end Identify

theorem State.nodeIdentity_length (s : State) : s.nodeIdentity.length = 128 := layout_length ..

theorem State.functionIdentity_length (s : State) (f : Nat) : (s.functionIdentity f).length = 128 := layout_length ..

theorem State.collIdentity_length (s : State) (c : Coll) (rights : Nat) : (s.collIdentity c rights).length = 128 := layout_length ..

theorem State.queueIdentity_length (s : State) (q : Nat) : (s.queueIdentity q).length = 56 := by
  unfold State.queueIdentity
  split <;> exact layout_length ..

/-- Settles O13: each answer is the reply of the row that the command's target selects. -/
theorem identifyAnswers : Obligations.IdentifyAnswers := by
  intro s r t hg hz h128 hw
  have hr : r < s.mboxes.length := hg.1
  refine ⟨fun hc ht => ?node, fun hc hme ht => ?function, fun hc h0 hme => ?deniedFunction, fun c hc hcoll hright => ?collection,
    fun hc ht hme => ?queue, fun hc h0 hme => ?deniedQueue⟩
  case node => exact replied_of_exec s.nodeIdentity_length hr h128 hw (execIdentifyNode_answers t hg hz h128 hc ht)
  case function =>
    exact replied_of_exec (s.functionIdentity_length _) hr h128 hw (execIdentifyFunction_answers t hg hz h128 hc hme ht)
  case deniedFunction => exact denied_of_exec hr h128 (execIdentifyFunction_denied t hg hz h128 hc h0 hme)
  case collection =>
    exact replied_of_exec (s.collIdentity_length c _) hr h128 hw (execIdentifyCollection_answers t hg hz h128 hc hcoll hright)
  case queue => exact replied_of_exec (s.queueIdentity_length _) hr h128 hw (execIdentifyQueue_answers t hg hz h128 hc ht hme)
  case deniedQueue => exact denied_of_exec hr h128 (execIdentifyQueue_denied t hg hz h128 hc h0 hme)

end Sys2Proof.Machine
end

-- ==== Proofs: The life of a queue (O14) ====
section
/-! PROOFS (O14). The commits of CREATE-QUEUE and DELETE-QUEUE and the end of the drain, over the rules for tails. -/

namespace Sys2Proof.Machine

open Sys2Proof

/-! ### Commands, tails and their answers (R84, R94) -/

/-- What a reply leaves of `s` once the state it answers from differs from `s` in `f` alone. -/
theorem OnlyAnswered.queues_eq {y x : State} {r : Nat} (h : OnlyAnswered y x r) : x.queues = y.queues := by rw [h.1]

theorem State.mailboxDone_answered {s : State} {r : Nat} (hr : r < s.mboxes.length) (h128 : r ≠ 128) {status detail : Nat}
    (hs : status < 256) (hd : detail < 65536) (results data : Bytes) :
    Answered (s.mailboxDone r status detail results data) r status detail ∧
      OnlyAnswered s (s.mailboxDone r status detail results data) r := by
  obtain ⟨h1, h2, h3⟩ := State.mailboxDone_spec hr h128 status detail results data
  refine ⟨?_, by rw [h1], h2, fun p _ => by rw [h1]; rfl⟩
  unfold Answered
  rw [h3]
  simp [Nat.mod_eq_of_lt hs, Nat.mod_eq_of_lt hd]

theorem State.kind_of_tailOf {s : State} {k : TailKind} {y : Tail} (h : s.tailOf k = some y) : y ∈ s.tails ∧ y.kind = k := by
  have hy : y ∈ s.tails.filter (·.kind == k) := by
    rcases Option.or_eq_some_iff.1 h with h | ⟨-, h⟩
    · exact List.mem_of_find?_eq_some h
    · exact List.mem_of_mem_head? h
  simpa using hy

theorem State.tailOf_congr {s x : State} (h : x.tails = s.tails) (k : TailKind) : x.tailOf k = s.tailOf k := by
  unfold State.tailOf; rw [h]

theorem State.tailRunning_of_tailOf {s : State} {k : TailKind} {y : Tail} (h : s.tailOf k = some y) :
    s.tailRunning (· == k) = true := by
  obtain ⟨hm, rfl⟩ := State.kind_of_tailOf h
  exact List.any_eq_true.2 ⟨y, hm, by simp⟩

/-- A tail's end answers the mailbox that started it. -/
theorem State.endTail_eq {s : State} {k : TailKind} {y : Tail} {r : Nat} (h : s.tailOf k = some y) (hr : y.requester = some r)
    (status detail : Nat) (results : Bytes) :
    s.endTail k status detail results = ({ s with tails := s.tails.erase y } : State).mailboxDone r status detail results [] := by
  simp only [State.endTail, h, State.closeTail, hr]

/-- The commit of a command with a tail: the tail starts, the command's mailbox stays BUSY. -/
theorem State.startTail_spec {s : State} {r : Nat} (hr : r < s.mboxes.length) (k : TailKind) :
    s.startTail r k = { s with tails := s.tails ++ [⟨some r, k, s.now⟩], mboxes := (s.startTail r k).mboxes,
                               arbs := (s.startTail r k).arbs } ∧
      (s.startTail r k).mbox r = { s.mbox r with committing := false } := by
  unfold State.startTail
  dsimp only
  refine ⟨by rw [State.arbEnd_frame]; rfl, ?_⟩
  rw [State.arbEnd_frame]
  exact State.modMbox_mbox_same (s := { s with tails := s.tails ++ [⟨some r, k, s.now⟩] }) hr _

/-! ### The life of a queue (R102, R113, R115) -/

theorem find?_filter_ne_same {l : List Queue} {q : Nat} : (l.filter (·.num != q)).find? (·.num == q) = none := by
  simp

theorem find?_filter_ne_other {l : List Queue} {p q : Nat} (h : p ≠ q) :
    (l.filter (·.num != q)).find? (·.num == p) = l.find? (·.num == p) := by
  rw [List.find?_filter]
  congr 1
  funext u
  by_cases hu : u.num = p <;> simp [hu, h]

/-- The queue that CREATE-QUEUE makes. -/
def createdQueue (r : Nat) (b : Bytes) : Queue :=
  { num := le b 0x20 2, fn := r, st := .active, errorCause := 0, sqLog2 := byteAt b 0x22, cqLog2 := byteAt b 0x23,
    vector := byteAt b 0x24, minor := byteAt b 2, sqHead := 0, sqTail := 0, cqHead := 0, cqTail := 0, phase := true,
    stopped := false, inFlight := 0, admitted := 0, completed := 0, sqAddr := le b 0x28 8, cqAddr := le b 0x30 8, coalCount := 1,
    coalDelay := 0, irqEnable := true, pendingMsgs := 0, firstAt := 0, deficit := 0, doorbellAt := 0, barrier := none,
    shardBarriers := [] }

theorem State.commit_of_issuer {s : State} {r op : Nat} {ranges : List (Nat × Nat)} {body : State → Bytes → State}
    (hg : Granted s r op)
    (hz : ReservedZero s r ranges) (h128 : r ≠ 128) :
    s.commit r op (r != 128) ranges [] body = body s (s.mbox r).copy := by
  rw [show (r != 128) = true by simp [h128]]
  exact State.commit_runs hg (firstBad_none hz (by simp))

theorem execCreateQueue_creates {s : State} {r : Nat} (t : Nat) (hg : Granted s r 2) (hz : ReservedZero s r [(5, 3), (24, 1736)])
    (h128 : r ≠ 128) (hlo : (s.fn r).queueFirst ≤ le (s.mbox r).copy 0x20 2)
    (hhi : le (s.mbox r).copy 0x20 2 < (s.fn r).queueFirst + (s.fn r).queueCount) (hq : s.queue? (le (s.mbox r).copy 0x20 2) = none)
    (hsq : 6 ≤ byteAt (s.mbox r).copy 0x22 ∧ byteAt (s.mbox r).copy 0x22 ≤ 16)
    (hcq : 6 ≤ byteAt (s.mbox r).copy 0x23 ∧ byteAt (s.mbox r).copy 0x23 ≤ 16) (hv : byteAt (s.mbox r).copy 0x24 < (s.fn r).msixCount)
    (hsa : le (s.mbox r).copy 0x28 8 % 4096 = 0) (hca : le (s.mbox r).copy 0x30 8 % 4096 = 0) :
    exec (.createQueue r t) s = .next (({ s.at t with queues := s.queues ++ [createdQueue r (s.mbox r).copy] } : State).reply
      r stOk 0 [] []) := by
  change Host.Outcome.next _ = _
  rw [State.commit_of_issuer (hg.at t) (hz.at t) h128]
  change (s.at t).queue? _ = none at hq
  rw [← State.at_fn_ s t] at hlo hhi hv
  have hb := firstBad_none (b := (s.mbox r).copy) (ranges := []) (checks :=
    [(2, decide (6 ≤ byteAt (s.mbox r).copy 0x22) && decide (byteAt (s.mbox r).copy 0x22 ≤ 16)),
     (3, decide (6 ≤ byteAt (s.mbox r).copy 0x23) && decide (byteAt (s.mbox r).copy 0x23 ≤ 16)),
     (4, decide (byteAt (s.mbox r).copy 0x24 < ((s.at t).fn r).msixCount)), (8, le (s.mbox r).copy 0x28 8 % 4096 == 0),
     (16, le (s.mbox r).copy 0x30 8 % 4096 == 0)]) rfl (by simp only [hsq, hcq, hv, hsa, hca]; simp)
  rw [State.at_mbox_]
  dsimp only
  rw [if_neg (by simp only [hlo, hhi]; simp), if_neg (by simp [hq]), hb]
  rfl

theorem execDeleteQueue_drains {s : State} {r : Nat} (t : Nat) (hg : Granted s r 3) (hz : ReservedZero s r [(2, 1758)])
    (h128 : r ≠ 128) (hlo : (s.fn r).queueFirst ≤ le (s.mbox r).copy 0x20 2)
    (hhi : le (s.mbox r).copy 0x20 2 < (s.fn r).queueFirst + (s.fn r).queueCount) :
    exec (.deleteQueue r t) s = .next (((s.at t).modQueue (le (s.mbox r).copy 0x20 2) fun u =>
      { u with st := if u.st == .active then .draining else u.st }).startTail r (.deleteQueue (le (s.mbox r).copy 0x20 2))) := by
  change Host.Outcome.next _ = _
  rw [State.commit_of_issuer (hg.at t) (hz.at t) h128, State.at_mbox_]
  dsimp only
  rw [if_neg (by simp [hlo, hhi])]

theorem execDeleteQueueDrainEnd_ends {s : State} {q : Nat} (t : Nat) {y : Tail} {u : Queue} (hy : s.tailOf (.deleteQueue q) = some y)
    (hq : s.queue? q = some u) (hu : u.inFlight = 0) :
    exec (.deleteQueueDrainEnd q t) s =
      .next (({ s.at t with queues := s.queues.filter (·.num != q) } : State).endTail (.deleteQueue q) stOk 0 []) := by
  change execDeleteQueueDrainEnd q t s = _
  unfold execDeleteQueueDrainEnd
  simp only [State.at_tailRunning, State.tailRunning_of_tailOf hy, State.at_queue_, hq, hu, Option.map_some, Option.getD_some, BEq.rfl,
    Bool.and_self, if_true]
  rfl

/-- Settles O14. -/
theorem queueLifeCycle : Obligations.QueueLifeCycle := by
  refine ⟨fun s r t hg hz h128 hlo hhi hq hsq hsq' hcq hcq' hv hsa hca => ?created, fun s r t u hg hz h128 hlo hhi hq hst => ?draining,
    fun s q r t y u hy hyr hr h128 hq hu => ?absent⟩
  case created =>
    have he := execCreateQueue_creates t hg hz h128 hlo hhi hq ⟨hsq, hsq'⟩ ⟨hcq, hcq'⟩ hv hsa hca
    generalize hy : ({ s.at t with queues := s.queues ++ [createdQueue r (s.mbox r).copy] } : State) = y at he
    have hr : r < y.mboxes.length := hy ▸ hg.1
    have ho := State.reply_only hr h128 stOk 0 [] []
    have hyq : (y.reply r stOk 0 [] []).queues = s.queues ++ [createdQueue r (s.mbox r).copy] := by rw [ho.queues_eq, ← hy]
    refine ⟨_, createdQueue r (s.mbox r).copy, he, State.reply_answered hr h128 (by decide) (by decide) [] [], ?_, ?_, fun p hp => ?_,
      rfl, rfl, rfl, rfl, rfl, rfl, rfl, rfl, rfl, rfl, rfl, rfl, rfl⟩
    · rw [hyq, hy]; exact ho
    · rw [State.queue?, hyq, List.find?_append, show s.queues.find? _ = none from hq]
      simp [createdQueue]
    · rw [State.queue?, hyq, List.find?_append]
      simp [createdQueue, Ne.symm hp, State.queue?]
  case draining =>
    generalize hy : ((s.at t).modQueue (le (s.mbox r).copy 0x20 2) fun u =>
      { u with st := if u.st == .active then .draining else u.st }) = y
    obtain ⟨hx, hm⟩ := State.startTail_spec (s := y) (r := r) (by rw [← hy]; exact hg.1) (.deleteQueue (le (s.mbox r).copy 0x20 2))
    have hxq : ∀ p, (y.startTail r (.deleteQueue (le (s.mbox r).copy 0x20 2))).queue? p = y.queue? p := fun p => by rw [hx]; rfl
    refine ⟨_, by rw [execDeleteQueue_drains t hg hz h128 hlo hhi, hy], ?_, ?_, fun p hp => ?_, ?_, ?_⟩
    · rw [hx, ← hy]; rfl
    · rw [hxq, ← hy, State.modQueue_queue (by intro u; rfl), State.at_queue_, hq]
      simp [hst]
    · rw [hxq, ← hy, State.modQueue_queue_ne hp (by intro u; rfl)]; rfl
    · rw [hx, ← hy]; rfl
    · rw [hm, ← hy]; rfl
  case absent =>
    obtain ⟨z, hz⟩ : ∃ z : State, z = { s.at t with
      queues := s.queues.filter (·.num != q), tails := s.tails.erase y } := ⟨_, rfl⟩
    have he : exec (.deleteQueueDrainEnd q t) s = .next (z.mailboxDone r stOk 0 [] []) := by
      rw [execDeleteQueueDrainEnd_ends t hy hq hu, hz]
      exact congrArg _ (State.endTail_eq (s := { s.at t with queues := s.queues.filter (·.num != q) }) hy hyr stOk 0 [])
    have hr' : r < z.mboxes.length := hz.symm ▸ hr
    obtain ⟨ha, ho⟩ := State.mailboxDone_answered hr' h128 (status := stOk) (detail := 0) (by decide) (by decide) [] []
    have hq' : (z.mailboxDone r stOk 0 [] []).queues = s.queues.filter (·.num != q) := by rw [ho.queues_eq, hz]
    have ht' : (z.mailboxDone r stOk 0 [] []).tails = s.tails.erase y := by rw [ho.1, hz]
    refine ⟨_, he, ?_, ha, ?_, fun p hp => ?_, ht'⟩
    · rw [State.queue?, hq', find?_filter_ne_same]
    · rw [hq', ht', ← hz]; exact ho
    · rw [State.queue?, hq', find?_filter_ne_other hp]; rfl

end Sys2Proof.Machine
end

-- ==== Proofs: Dropping a collection (O16) ====
section
/-! PROOFS (O16). What a drop announces goes out as frames and changes nothing else here; the rights go at the commit, the
shards, lists and models at the tail's end. -/

namespace Sys2Proof.Machine

open Sys2Proof

/-! ### Frames of control commands and announcements (R29, R615) -/

theorem State.takeNum_sent (s : State) : Sent s s.takeNum.2 :=
  ⟨rfl, fun _ h => h, fun _ h => h, fun _ h => h, fun _ h => h, fun _ h => h, fun _ h => h⟩

theorem State.produceFw_sent (s : State) (dest kind shard : Nat) (b : Bool) (body : Msg) : Sent s (s.produceFw dest kind shard b body) := by
  unfold State.produceFw
  exact Sent.trans _ _ _ s.takeNum_sent (State.produce_sent ..)

theorem State.produceControl_sent (s : State) (issuer : Option Nat) (dest : Nat) (body : Msg) :
    Sent s (s.produceControl issuer dest body) := by
  unfold State.produceControl
  split
  · exact State.produceFw_sent ..
  · exact Sent.trans _ _ _ s.takeNum_sent (State.produce_sent ..)

theorem State.produceControl_frameTo (s : State) (issuer : Option Nat) (dest : Nat) (body : Msg) :
    FrameTo (s.produceControl issuer dest body) dest body := by
  unfold State.produceControl
  split
  · exact State.produceFw_frameTo ..
  · exact State.produce_frameTo ..

/-- An announcement sends frames, and keeps what it could not send. -/
theorem State.announce_spec (s : State) (issuer : Option Nat) (coll : Nat) (a : Announce) :
    ∃ y, Sent s y ∧ s.announce issuer coll a = { y with unsent := (s.announce issuer coll a).unsent } := by
  refine ⟨_, Sent.foldl (fun s n => State.produceControl_sent s issuer n (.announce a)) (s.peerNodes.partition s.reachable).1 s, ?_⟩
  unfold State.announce
  rfl

theorem Sent.tails_eq {s x : State} (h : Sent s x) : x.tails = s.tails := by rw [h.frame]
theorem Sent.mboxes_eq {s x : State} (h : Sent s x) : x.mboxes = s.mboxes := by rw [h.frame]
theorem Sent.now_eq {s x : State} (h : Sent s x) : x.now = s.now := by rw [h.frame]; rfl
theorem Sent.queues_eq {s x : State} (h : Sent s x) : x.queues = s.queues := by rw [h.frame]

theorem Granted.busy {s : State} {r op : Nat} (h : Granted s r op) : (s.mbox r).st = .busy := by
  have := h.2.1
  simp only [State.inCommit, Bool.and_eq_true, beq_iff_eq] at this
  exact this.1.1

/-! ### DROP-COLLECTION (R101) -/

section Drop
variable {s : State} {r id : Nat} {c : Coll}

/-- The command is carried out for an issuer with the right to it, when its collection is not being dropped already. -/
theorem execDropCollection_runs (t : Nat) (hg : Granted s r 5) (hz : ReservedZero s r [(4, 1756)]) (h128 : r ≠ 128)
    (hid : id = le (s.mbox r).copy 0x20 4) (hc : s.coll? id = some c) (hst : c.st ≠ .dropping)
    (hright : r = 0 ∨ bit (s.rights r id) 5 = true) : exec (.dropCollection r t) s =
      .next (if (s.at t).tailRunning (· == .createColl id) then (s.at t).refuse r stRetry 2
        else (s.at t).record r fun s =>
          ((s.modColl id fun x => { x with st := .dropping, rights := [] }).announce (issuerOf r) id (.dropped id)).startTail r
            (.dropColl id)) := by
  have hf : ((s.at t).coll? id).filter (fun c => c.st != .dropping) = some c := by simp [hc, hst]
  have hp : (r == 0 || (r != 128 && (((s.at t).coll? id).filter fun c => c.st != .dropping).isSome &&
      bit ((s.at t).rights r id) 5)) = true := by
    rw [hf]
    rcases hright with h | h <;> simp [h, h128]
  subst hid
  change Host.Outcome.next _ = _
  dsimp only [State.at_mbox_]
  rw [hp, State.commit_runs (hg.at t) (firstBad_none (hz.at t) (by simp)), hf]
  rfl

end Drop

theorem State.record_ok {s : State} (h : s.commitLimit = false) (r : Nat) (ok : State → State) : s.record r ok = ok s.recordNode := by
  simp [State.record, h]

theorem State.modColl_coll?_ne {s : State} {c k : Nat} (h : k ≠ c) {f : Coll → Coll} (hf : ∀ u, (f u).spec = u.spec) :
    (s.modColl c f).coll? k = s.coll? k := by
  refine find?_modWhere_ne _ _ _ _ (fun x hx => ?_) fun x hx => ?_
  · simp only [beq_iff_eq] at hx; simp [hx, Ne.symm h]
  · simp only [beq_iff_eq] at hx; simp [hf, hx, Ne.symm h]

theorem State.releaseModel_onlyCharged (s : State) (m : Model) : OnlyCharged s (s.releaseModel m) := by
  unfold State.releaseModel
  dsimp only
  refine OnlyCharged.trans ?_ (onlyCharged_foldl (fun s e => State.modFn_onlyCharged ..) m.expertCache _)
  exact ((State.modFn_onlyCharged ..).trans (State.modFn_onlyCharged ..)).trans (State.modFn_onlyCharged ..)

theorem State.releaseColl_onlyCharged (s : State) (c : Coll) : OnlyCharged s (s.releaseColl c) := by
  unfold State.releaseColl
  exact (onlyCharged_foldl (fun s m => State.releaseModel_onlyCharged s m) _ _).trans
    (onlyCharged_foldl (fun s d => State.releaseShard_onlyCharged s c d) _ _)

/-- What stays when a collection's storage has gone (R101). -/
theorem State.releaseColl_removeShards (s : State) (c : Coll) (coll n : Nat) :
    let x := ((s.releaseColl c).removeShards coll).degradedEvent n
    x.shards = s.shards.filter (·.coll != coll) ∧ x.models = s.models.filter (·.coll != coll) ∧
      x.lists = s.lists.filter (fun l => !((s.shards.filter (·.coll == coll)).map (·.id)).contains l.shard) ∧
      x.tails = s.tails ∧ x.mboxes = s.mboxes ∧ x.colls = s.colls := by
  intro x
  have h := State.releaseColl_onlyCharged s c
  have hx := State.degradedEvent_frame ((s.releaseColl c).removeShards coll) n
  change x = _ at hx
  generalize s.releaseColl c = y at h hx
  rw [hx, h]
  exact ⟨rfl, rfl, rfl, rfl, rfl, rfl⟩

theorem coll?_filter_same {l : List Coll} {i : Nat} : (l.filter (·.spec.id != i)).find? (·.spec.id == i) = none := by
  simp

theorem execDropCollectionTailEnd_ends {s : State} {coll : Nat} (t : Nat) {c : Coll} (hc : s.coll? coll = some c) (hst : c.st = .dropping)
    (hbusy : s.collBusy coll = false) : exec (.dropCollectionTailEnd coll t) s =
      .next ((({ (((s.at t).releaseColl c).removeShards coll).degradedEvent (s.at t).degradedCount with
        colls := ((((s.at t).releaseColl c).removeShards coll).degradedEvent (s.at t).degradedCount).colls.filter
          (·.spec.id != coll) } : State).recordNode).endTail (.dropColl coll) stOk 0 []) := by
  change execDropCollectionTailEnd coll t s = _
  have hb : (s.at t).collBusy coll = false := hbusy
  unfold execDropCollectionTailEnd
  simp only [State.at_coll_, hc, hst, hb]
  rfl

/-- Settles O16: the commit by its own lines, the tail's end by what the release and the removal leave. -/
theorem collectionDrop : Obligations.CollectionDrop := by
  refine ⟨fun s r t id c hg hz h128 hid hc hst hright => ⟨fun htail hlim => ?commit, fun htail => ?refused⟩,
    fun s coll r t c y hc hst hbusy hy hyr hr h128 => ?gone⟩
  case commit =>
    have he := execDropCollection_runs t hg hz h128 hid hc hst hright
    rw [State.at_tailRunning, htail, if_neg Bool.false_ne_true, State.record_ok (s := s.at t) hlim] at he
    obtain ⟨w, hw⟩ : ∃ w, w = (s.at t).recordNode.modColl id fun x => { x with st := .dropping, rights := [] } := ⟨_, rfl⟩
    rw [← hw] at he
    obtain ⟨y, hy, hz⟩ := State.announce_spec w (issuerOf r) id (.dropped id)
    generalize w.announce (issuerOf r) id (.dropped id) = z at he hz
    have hcolls : z.colls = w.colls := by rw [hz]; exact hy.colls_eq
    have hmb : z.mboxes = s.mboxes := by rw [hz]; exact hy.mboxes_eq.trans (by rw [hw]; rfl)
    have htails : z.tails = s.tails := by rw [hz]; exact hy.tails_eq.trans (by rw [hw]; rfl)
    have hnow : z.now = (s.at t).now := by rw [hz]; exact hy.now_eq.trans (by rw [hw]; rfl)
    obtain ⟨hx, hm⟩ := State.startTail_spec (s := z) (r := r) (hmb ▸ hg.1) (.dropColl id)
    have hxc : ∀ k, (z.startTail r (.dropColl id)).coll? k = w.coll? k := fun k => by
      rw [hx]; unfold State.coll?; dsimp only; rw [hcolls]
    refine ⟨_, he, ?_, ?_, ?_, fun k hk => ?_⟩
    · rw [hxc, hw, State.modColl_coll (by intro u; rfl)]
      change (s.coll? id).map _ = _
      rw [hc]; rfl
    · rw [hx, ← htails, ← hnow]
    · rw [hm]
      exact (congrArg (fun l : List Mbox => (l.getD r {}).st) hmb).trans hg.busy
    · rw [hxc, hw, State.modColl_coll?_ne hk (by intro u; rfl)]; rfl
  case refused =>
    have he := execDropCollection_runs t hg hz h128 hid hc hst hright
    rw [State.at_tailRunning, htail, if_pos rfl] at he
    exact ⟨_, he, State.refuse_answered (s := s.at t) hg.1 h128 (by decide) (by decide)⟩
  case gone =>
    have he := execDropCollectionTailEnd_ends t hc hst hbusy
    obtain ⟨h1, h2, h3, h4, h5, h6⟩ := State.releaseColl_removeShards (s.at t) c coll (s.at t).degradedCount
    generalize (((s.at t).releaseColl c).removeShards coll).degradedEvent (s.at t).degradedCount = w at he h1 h2 h3 h4 h5 h6
    obtain ⟨z, hz⟩ : ∃ z, z = ({ w with colls := w.colls.filter (·.spec.id != coll) } : State).recordNode := ⟨_, rfl⟩
    rw [← hz] at he
    have hzt : z.tailOf (.dropColl coll) = some y := by
      rw [hz]
      exact (State.tailOf_congr h4 _).trans hy
    rw [State.endTail_eq hzt hyr] at he
    have hzr : r < ({ z with tails := z.tails.erase y } : State).mboxes.length := by
      rw [hz]; simpa [State.recordNode, State.addJournal, h5] using hr
    obtain ⟨ha, ho⟩ := State.mailboxDone_answered hzr h128 (status := stOk) (detail := 0) (by decide) (by decide) [] []
    generalize State.mailboxDone _ r stOk 0 [] [] = x at he ha ho
    have hx := ho.1
    refine ⟨x, he, ha, ?_, ?_, ?_, fun l hl d hd hdl hdc => ?_⟩
    · rw [hx, hz]; exact coll?_filter_same
    · rw [hx, hz]; exact h1
    · rw [hx, hz]; exact h2
    · have hl' : l ∈ w.lists := by rw [hx, hz] at hl; exact hl
      rw [h3] at hl'
      have hgone := (List.mem_filter.1 hl').2
      simp only [Bool.not_eq_true', List.contains_eq_mem, decide_eq_false_iff_not, List.mem_map, not_exists, not_and] at hgone
      exact hgone d (List.mem_filter.2 ⟨hd, by simp [hdc]⟩) hdl

end Sys2Proof.Machine
end

-- ==== Proofs: The shards of a new collection (O15) ====
section
/-! PROOFS (O15). An owner node goes through the collection's shards in order. While it has room for all that are missing, each
is set up at its full list target, which leaves room for the rest. -/

namespace Sys2Proof.Machine

open Sys2Proof

/-! ### The shards of a new collection at an owner node (R149, R152, R169, R170) -/

theorem pow2At_pos {n fuel p : Nat} (h : 0 < p) : 0 < pow2At n fuel p := by
  induction fuel generalizing p with
  | zero => exact h
  | succ fuel ih =>
    unfold pow2At
    split
    · exact h
    · exact ih (by omega)

theorem collTarget_pos (c : CollSpec) : 0 < collTarget c := pow2At_pos Nat.one_pos

/-- A target that fits is not halved (R170). -/
theorem fitTarget_of_fits {columns cols lists l : Nat} (fuel : Nat) (hl : 0 < l) (hc : l / min 1024 l * columns ≤ cols)
    (hn : l ≤ lists) : fitTarget columns cols lists (fuel + 1) l = l := by
  unfold fitTarget
  rw [if_neg (by omega), if_pos (by simp [hc, hn])]

/-- Of 4,096 ledger arbiters one is free while fewer shards are owned. -/
theorem State.freeLedger {s : State} (h : s.owned.length < 4096) :
    ∃ x, (List.range 4096).find? (fun x => !s.owned.any (·.ledger == x)) = some x := by
  by_contra hn
  have hnone : (List.range 4096).find? (fun x => !s.owned.any (·.ledger == x)) = none := by
    rw [Option.eq_none_iff_forall_not_mem]
    exact fun x hx => hn ⟨x, hx⟩
  have hsub : List.range 4096 ⊆ s.owned.map (·.ledger) := by
    intro x hx
    have := List.find?_eq_none.1 hnone x hx
    simp only [Bool.not_eq_true', Bool.not_eq_false, List.any_eq_true, beq_iff_eq] at this
    obtain ⟨d, hd, rfl⟩ := this
    exact List.mem_map_of_mem hd
  have := (List.nodup_range.subperm hsub).length_le
  simp only [List.length_range, List.length_map] at this
  omega

/-- What a shard takes of the coarse field (R169). -/
def shardColumns (c : CollSpec) : Nat := collTarget c / min 1024 (collTarget c) * coarseColumns c.projection

/-- An owner node with room for `n` more shards of `c`. -/
structure RoomFor (s : State) (c : CollSpec) (n : Nat) : Prop where
  owned : s.owned.length + n ≤ 4096
  columns : s.columnsTaken c + n * shardColumns c ≤ 16384
  lists : s.listsTaken + n * collTarget c ≤ 16777216

/-- The state with one more shard. -/
def State.withShard (s : State) (d : Shard) : State := { s with shards := s.shards ++ [d] }

section Fresh
variable {s : State} {c : CollSpec} {i : Nat}

theorem State.setUpShard_fresh (ho : c.owners.getD i 4096 = s.nodeId) (hs : s.shard? (c.firstShard + i) = none) (hr : RoomFor s c 1) :
    ∃ x, s.setUpShard c i = some (s.withShard (freshShard c i x (collTarget c) s.now)) := by
  obtain ⟨h1, h2, h3⟩ := hr
  obtain ⟨x, hx⟩ := State.freeLedger (s := s) (by omega)
  have hpos := collTarget_pos c
  have hfit := fitTarget_of_fits (columns := coarseColumns c.projection) (cols := 16384 - s.columnsTaken c)
    (lists := 16777216 - s.listsTaken) 63 hpos (show shardColumns c ≤ _ by omega) (by omega)
  refine ⟨x, ?_⟩
  unfold State.setUpShard
  rw [if_neg (by simpa using ho), if_neg (by simp [hs]), hx]
  dsimp only [Option.bind_some]
  rw [hfit, if_neg (by omega)]
  rfl

theorem State.withShard_owned (x : Nat) :
    (s.withShard (freshShard c i x (collTarget c) s.now)).owned = s.owned ++ [freshShard c i x (collTarget c) s.now] := by
  simp [State.withShard, State.owned, freshShard]

theorem State.withShard_columnsTaken (x : Nat) :
    (s.withShard (freshShard c i x (collTarget c) s.now)).columnsTaken c = s.columnsTaken c + shardColumns c := by
  unfold State.columnsTaken
  rw [State.withShard_owned, List.foldl_append]
  simp only [List.foldl_cons, List.foldl_nil, freshShard, shardColumns, if_true]
  rfl

theorem State.withShard_listsTaken (x : Nat) :
    (s.withShard (freshShard c i x (collTarget c) s.now)).listsTaken = s.listsTaken + collTarget c := by
  unfold State.listsTaken
  rw [State.withShard_owned, List.foldl_append]
  rfl

theorem RoomFor.withShard {n : Nat} (h : RoomFor s c (n + 1)) (x : Nat) :
    RoomFor (s.withShard (freshShard c i x (collTarget c) s.now)) c n := by
  obtain ⟨h1, h2, h3⟩ := h
  refine ⟨?_, ?_, ?_⟩
  · rw [State.withShard_owned, List.length_append, List.length_singleton]; omega
  · rw [State.withShard_columnsTaken]; rw [Nat.succ_mul] at h2; omega
  · rw [State.withShard_listsTaken]; rw [Nat.succ_mul] at h3; omega

theorem RoomFor.mono {m n : Nat} (h : RoomFor s c n) (hm : m ≤ n) : RoomFor s c m := by
  obtain ⟨h1, h2, h3⟩ := h
  exact ⟨by omega, (Nat.add_le_add_left (Nat.mul_le_mul_right _ hm) _).trans h2,
    (Nat.add_le_add_left (Nat.mul_le_mul_right _ hm) _).trans h3⟩

theorem State.withShard_shard?_ne {d : Shard} {j : Nat} (h : j ≠ d.id) : (s.withShard d).shard? j = s.shard? j := by
  unfold State.withShard State.shard?
  rw [List.find?_append]
  simp [Ne.symm h]

theorem State.withShard_shard?_of_some {d e : Shard} {j : Nat} (h : s.shard? j = some e) : (s.withShard d).shard? j = some e := by
  unfold State.shard? at h
  unfold State.withShard State.shard?
  rw [List.find?_append]
  simp [h]

theorem State.withShard_shard?_new {d : Shard} (h : s.shard? d.id = none) : (s.withShard d).shard? d.id = some d := by
  unfold State.shard? at h
  unfold State.withShard State.shard?
  rw [List.find?_append, h]
  simp

end Fresh

/-- A shard as its owner node sets it up: FORMING, with counter 1, at the collection's list target, empty (R64, R149, R152). -/
def SetUp (c : CollSpec) (h : Shard) : Prop :=
  h.coll = c.id ∧ h.counter = 1 ∧ h.stage = .forming ∧ h.l = collTarget c ∧ h.l2 = min 1024 h.l ∧ h.l1 = h.l / h.l2 ∧
    h.slots = [] ∧ h.waiting = []

/-- The shards of `l` that this node owns and has not set up. -/
def State.toSetUp (s : State) (c : CollSpec) (l : List Nat) : List Nat :=
  l.filter fun i => c.owners.getD i 4096 == s.nodeId && (s.shard? (c.firstShard + i)).isNone

/-- With room for all of them, every missing shard of `l` is set up, and nothing else changes. -/
theorem State.setUpShards_spec {c : CollSpec} : ∀ {l : List Nat} {s : State}, l.Nodup → RoomFor s c (s.toSetUp c l).length →
    ∃ added, s.setUpShards c l = some { s with shards := s.shards ++ added } ∧
      (∀ j d, s.shard? j = some d → ({ s with shards := s.shards ++ added } : State).shard? j = some d) ∧
      ∀ i ∈ l, c.owners.getD i 4096 = s.nodeId → s.shard? (c.firstShard + i) = none →
        ∃ h, ({ s with shards := s.shards ++ added } : State).shard? (c.firstShard + i) = some h ∧ SetUp c h
  | [], s, _, _ => ⟨[], by simp [State.setUpShards_nil], by simp, by simp⟩
  | i :: l, s, hnd, hr => by
    obtain ⟨hi, hl⟩ := List.nodup_cons.1 hnd
    by_cases hnew : c.owners.getD i 4096 = s.nodeId ∧ s.shard? (c.firstShard + i) = none
    case pos =>
      obtain ⟨ho, hs⟩ := hnew
      have hlen : (s.toSetUp c (i :: l)).length = (s.toSetUp c l).length + 1 := by
        rw [State.toSetUp, List.filter_cons_of_pos (by rw [ho, hs]; simp)]; rfl
      rw [hlen] at hr
      obtain ⟨x, hx⟩ := State.setUpShard_fresh ho hs (hr.mono (by omega))
      obtain ⟨d, hd⟩ : ∃ d, d = freshShard c i x (collTarget c) s.now := ⟨_, rfl⟩
      have hr' := hr.withShard (i := i) x
      rw [← hd] at hx hr'
      have hid : d.id = c.firstShard + i := by rw [hd]; rfl
      have hne : ∀ j ∈ l, c.firstShard + j ≠ d.id := fun j hj e => hi (by rw [show i = j by omega]; exact hj)
      have hsame : (s.withShard d).toSetUp c l = s.toSetUp c l :=
        List.filter_congr fun j hj => by rw [State.withShard_shard?_ne (hne j hj)]; rfl
      rw [← hsame] at hr'
      obtain ⟨added, ha, hkeep, hall⟩ := State.setUpShards_spec hl hr'
      have hst : ({ s.withShard d with shards := (s.withShard d).shards ++ added } : State) =
          { s with shards := s.shards ++ (d :: added) } := by
        simp [State.withShard]
      rw [hst] at ha hkeep hall
      refine ⟨d :: added, by rw [State.setUpShards_cons, hx]; exact ha,
        fun j e he => hkeep j e (State.withShard_shard?_of_some he), fun j hj hoj hsj => ?_⟩
      rcases List.mem_cons.1 hj with rfl | hj
      · refine ⟨d, hkeep _ _ ?_, ?_⟩
        · rw [← hid]; exact State.withShard_shard?_new (hid ▸ hs)
        · rw [hd]; exact ⟨rfl, rfl, rfl, rfl, rfl, rfl, rfl, rfl⟩
      · exact hall j hj hoj (by rw [State.withShard_shard?_ne (hne j hj)]; exact hsj)
    case neg =>
      have hskip : s.setUpShard c i = some s := by
        unfold State.setUpShard
        by_cases ho : c.owners.getD i 4096 = s.nodeId
        · rw [if_neg (by rw [ho]; simp), if_pos (Option.isSome_iff_ne_none.2 fun e => hnew ⟨ho, e⟩)]
        · rw [if_pos (by simpa using ho)]
      have hsame : s.toSetUp c (i :: l) = s.toSetUp c l := by
        refine List.filter_cons_of_neg ?_
        simpa using hnew
      rw [hsame] at hr
      obtain ⟨added, ha, hkeep, hall⟩ := State.setUpShards_spec hl hr
      refine ⟨added, by rw [State.setUpShards_cons, hskip]; exact ha, hkeep, fun j hj hoj hsj => ?_⟩
      rcases List.mem_cons.1 hj with rfl | hj
      · exact absurd ⟨hoj, hsj⟩ hnew
      · exact hall j hj hoj hsj

end Sys2Proof.Machine
end

-- ==== Proofs: The set-up of a collection at an owner node (O15) ====
section
/-! PROOFS (O15). The collection comes on the owner node's record with its shards; the creating node notes what the set-up came
to. -/

namespace Sys2Proof.Machine

open Sys2Proof

section Setup
variable {s : State} {c : CollSpec}

/-- What the set-up of a collection leaves of an owner node with room (R100, R149): the collection on record, its shards, and the
rest as it was. -/
theorem State.setUpHere_spec (hlim : s.collsHere < 1024) (hr : RoomFor s c (s.toSetUp c (List.range c.shards)).length) :
    ∃ x, s.setUpHere c = some x ∧ (x.coll? c.id).isSome = true ∧ x.lists = s.lists ∧ x.fns = s.fns ∧ s.shards ⊆ x.shards ∧
      ∀ i, i < c.shards → c.owners.getD i 4096 = s.nodeId → s.shard? (c.firstShard + i) = none →
        ∃ h, x.shard? (c.firstShard + i) = some h ∧ SetUp c h := by
  obtain ⟨added, ha, -, hall⟩ := State.setUpShards_spec List.nodup_range hr
  generalize hy : ({ s with shards := s.shards ++ added } : State) = y at ha hall
  have hyc : ∀ k, y.recordNode.coll? k = s.coll? k := fun k => by rw [← hy]; rfl
  have hd : ∀ i, i < c.shards → c.owners.getD i 4096 = s.nodeId → s.shard? (c.firstShard + i) = none →
      ∃ h, y.shard? (c.firstShard + i) = some h ∧ SetUp c h := fun i hi => hall i (List.mem_range.2 hi)
  have hsub : s.shards ⊆ y.shards := by rw [← hy]; exact List.subset_append_left _ _
  have hf : y.lists = s.lists ∧ y.fns = s.fns := by rw [← hy]; exact ⟨rfl, rfl⟩
  unfold State.setUpHere
  rw [ha]
  dsimp only
  rw [if_neg (by omega), hyc]
  by_cases hc : (s.coll? c.id).isSome = true
  · rw [if_pos hc]
    exact ⟨_, rfl, by rw [hyc]; exact hc, hf.1, hf.2, hsub, hd⟩
  · rw [if_neg hc]
    have hn : y.recordNode.colls.find? (·.spec.id == c.id) = none := by
      have := hyc c.id
      unfold State.coll? at this hc
      rw [this]
      exact Option.not_isSome_iff_eq_none.1 hc
    refine ⟨_, rfl, ?_, hf.1, hf.2, hsub, hd⟩
    unfold State.coll?
    rw [List.find?_append, hn]
    simp [State.newColl]

/-- A collection that an owner node has no room for on its record is not set up (R149). -/
theorem State.setUpHere_full (hlim : 1024 ≤ s.collsHere) : s.setUpHere c = none := by
  unfold State.setUpHere
  cases s.setUpShards c (List.range c.shards) with
  | none => rfl
  | some x =>
    dsimp only
    rw [if_pos (by omega)]

/-- The creating node notes what the set-up came to. -/
theorem execCollectionShardSetup_eq (t : Nat) (hrun : c.id / 2 ^ 20 ≠ s.nodeId ∨ s.tailRunning (· == .createColl c.id) = true) :
    exec (.collectionShardSetup c t) s = .next (match (s.at t).setUpHere c with
      | some x => if c.id / 2 ^ 20 = s.nodeId then x.modColl c.id fun k => { k with setUp := k.setUp ++ [s.nodeId] } else x
      | none =>
        if c.id / 2 ^ 20 = s.nodeId then (s.at t).modColl c.id fun k => { k with setupFailed := some (stQuota, 1) }
        else s.at t) := by
  change execCollectionShardSetup c t s = _
  have hn : (c.id / 2 ^ 20 == (s.at t).nodeId && !(s.at t).tailRunning (· == .createColl c.id)) = false := by
    rcases hrun with h | h
    · simp only [State.at_nodeId, Bool.and_eq_false_iff, beq_eq_false_iff_ne]; exact .inl h
    · simp [h]
  unfold execCollectionShardSetup
  dsimp only
  rw [hn, if_neg Bool.false_ne_true]
  cases (s.at t).setUpHere c with
  | some x => simp
  | none => simp

end Setup

/-- An owner node with room sets its shards up; one with 1,024 collections fails the creation. -/
theorem collectionShardSetup_spec {s : State} {c : CollSpec} {t n w : Nat}
    (hrun : c.id / 2 ^ 20 ≠ s.nodeId ∨ s.tailRunning (· == .createColl c.id) = true)
    (hn : n = ((List.range c.shards).filter fun i => c.owners.getD i 4096 == s.nodeId && (s.shard? (c.firstShard + i)).isNone).length)
    (hw : w = collTarget c / min 1024 (collTarget c) * coarseColumns c.projection)
    (ho : s.owned.length + n ≤ 4096) (hcols : s.columnsTaken c + n * w ≤ 16384)
    (hlists : s.listsTaken + n * collTarget c ≤ 16777216) :
    (s.collsHere < 1024 →
      ∃ x, exec (.collectionShardSetup c t) s = .next x ∧ (x.coll? c.id).isSome = true ∧ x.lists = s.lists ∧ x.fns = s.fns ∧
        (c.id / 2 ^ 20 = s.nodeId → (s.coll? c.id).isSome = true → ∀ k, x.coll? c.id = some k → s.nodeId ∈ k.setUp) ∧
        (∀ y ∈ s.shards, y ∈ x.shards) ∧
        ∀ i, i < c.shards → c.owners.getD i 4096 = s.nodeId → s.shard? (c.firstShard + i) = none →
          ∃ h, x.shard? (c.firstShard + i) = some h ∧ SetUp c h) ∧
    (1024 ≤ s.collsHere → c.id / 2 ^ 20 = s.nodeId →
      exec (.collectionShardSetup c t) s = .next ((s.at t).modColl c.id fun x => { x with setupFailed := some (stQuota, 1) })) := by
  have he := execCollectionShardSetup_eq t hrun
  refine ⟨fun hlim => ?_, fun hlim hmine => ?_⟩
  · have hr : RoomFor (s.at t) c ((s.at t).toSetUp c (List.range c.shards)).length :=
      ⟨by subst hn; exact ho, by subst hn hw; exact hcols, by subst hn; exact hlists⟩
    obtain ⟨x, hx, hc, hl, hf, hsub, hall⟩ := State.setUpHere_spec (s := s.at t) hlim hr
    rw [hx] at he
    dsimp only at he
    by_cases hmine : c.id / 2 ^ 20 = s.nodeId
    · rw [if_pos hmine] at he
      have hxc := State.modColl_coll (s := x) (c := c.id) (f := fun k => { k with setUp := k.setUp ++ [s.nodeId] }) (by intro u; rfl)
      refine ⟨_, he, by rw [hxc]; simpa using hc, hl, hf, fun _ _ k hk => ?_, hsub, hall⟩
      rw [hxc] at hk
      obtain ⟨k', -, rfl⟩ := Option.map_eq_some_iff.1 hk
      simp
    · rw [if_neg hmine] at he
      exact ⟨x, he, hc, hl, hf, fun h => absurd h hmine, hsub, hall⟩
  · rw [State.setUpHere_full (s := s.at t) hlim] at he
    rw [he, if_pos hmine]

end Sys2Proof.Machine
end

-- ==== Proofs: The end of a creation's tail (O15) ====
section
/-! PROOFS (O15). What the tail's end makes of the collection is told apart from the answer that ends it. -/

namespace Sys2Proof.Machine

open Sys2Proof

/-! ### The end of a creation (R100, R149, R615) -/

/-- What a tail's end, answering requester `r`, leaves of the state `z` that it ends in. -/
theorem State.endTail_spec {z : State} {k : TailKind} {y : Tail} {r : Nat} (hy : z.tailOf k = some y) (hyr : y.requester = some r)
    (hr : r < z.mboxes.length) (h128 : r ≠ 128) {status detail : Nat} (hs : status < 256) (hd : detail < 65536) (results : Bytes) :
    Answered (z.endTail k status detail results) r status detail ∧
      OnlyAnswered { z with tails := z.tails.erase y } (z.endTail k status detail results) r ∧
      ((z.mbox r).resp.wf = true → responseResult (z.endTail k status detail results) r results.length = results) := by
  rw [State.endTail_eq hy hyr]
  have hr' : r < ({ z with tails := z.tails.erase y } : State).mboxes.length := hr
  obtain ⟨ha, ho⟩ := State.mailboxDone_answered hr' h128 hs hd results []
  exact ⟨ha, ho, fun hw => State.mailboxDone_result (s := { z with tails := z.tails.erase y }) hr h128 hw _ _ _ _⟩

section TailEnd
variable {s : State} {coll : Nat} {c : Coll} {peers : List (Nat × SetupReply)} (t : Nat)

/-- The collection is active and announced. -/
def State.created (s : State) (coll : Nat) (c : Coll) : State :=
  (((s.modColl coll fun c => { c with st := .active }).recordNode).announce (s.tailIssuer (.createColl coll)) coll (.created c.spec))

/-- The shards set up here are gone, the other owners are told, and so is the collection. -/
def State.uncreated (s : State) (coll : Nat) (c : Coll) : State :=
  let x := (c.spec.owners.eraseDups.filter (· != s.nodeId)).foldl
    (fun x o => x.produceControl (s.tailIssuer (.createColl coll)) o (.announce (.dropped coll))) (s.removeShards coll)
  ({ x with colls := x.colls.filter (·.spec.id != coll) } : State).recordNode

theorem execCreateCollectionTailEnd_done (hc : s.coll? coll = some c) (hrun : s.tailRunning (· == .createColl coll) = true)
    (hme : s.nodeId ∈ c.spec.owners → s.nodeId ∈ c.setUp)
    (hall : ∀ o ∈ c.spec.owners, o ≠ s.nodeId → (peers.find? (·.1 == o)).map (·.2) = some .allDone) :
    exec (.createCollectionTailEnd coll peers t) s =
      .next (((s.at t).created coll c).endTail (.createColl coll) stOk 0 (toLE 4 coll ++ toLE 4 c.spec.firstShard)) := by
  change execCreateCollectionTailEnd coll peers t s = _
  have hdone : ((!c.spec.owners.contains (s.at t).nodeId || c.setUp.contains (s.at t).nodeId) &&
      (c.spec.owners.eraseDups.filter (· != (s.at t).nodeId)).all
        fun o => (peers.find? (·.1 == o)).map (·.2) == some .allDone) = true := by
    simp only [State.at_nodeId, Bool.and_eq_true, Bool.or_eq_true, Bool.not_eq_true', List.contains_eq_mem, decide_eq_false_iff_not,
      decide_eq_true_eq, List.all_eq_true, List.mem_filter, List.mem_eraseDups, bne_iff_ne, beq_iff_eq]
    exact ⟨by tauto, fun o ho => hall o ho.1 ho.2⟩
  unfold execCreateCollectionTailEnd
  dsimp only
  rw [State.at_coll_, hc]
  dsimp only
  rw [if_neg (by simp [hrun]), if_pos hdone]
  rfl

theorem execCreateCollectionTailEnd_unreachable (hc : s.coll? coll = some c) (hrun : s.tailRunning (· == .createColl coll) = true)
    {o : Nat} (ho : o ∈ c.spec.owners) (hne : o ≠ s.nodeId) (hlost : (peers.find? (·.1 == o)).map (·.2) = some .unreachable)
    (hfail : c.setupFailed = none)
    (hlim : ∀ o ∈ c.spec.owners, o ≠ s.nodeId → (peers.find? (·.1 == o)).map (·.2) ≠ some .limits) :
    exec (.createCollectionTailEnd coll peers t) s =
      .next (((s.at t).uncreated coll c).endTail (.createColl coll) stRetry 0 []) := by
  change execCreateCollectionTailEnd coll peers t s = _
  have hmem : o ∈ c.spec.owners.eraseDups.filter (· != (s.at t).nodeId) :=
    List.mem_filter.2 ⟨List.mem_eraseDups.2 ho, by simpa using hne⟩
  have hdone : ((!c.spec.owners.contains (s.at t).nodeId || c.setUp.contains (s.at t).nodeId) &&
      (c.spec.owners.eraseDups.filter (· != (s.at t).nodeId)).all
        fun o => (peers.find? (·.1 == o)).map (·.2) == some .allDone) = false := by
    rw [Bool.and_eq_false_iff, List.all_eq_false]
    exact .inr ⟨o, hmem, by rw [hlost]; decide⟩
  have hlimits : (c.setupFailed.isSome || (c.spec.owners.eraseDups.filter (· != (s.at t).nodeId)).any
      fun o => (peers.find? (·.1 == o)).map (·.2) == some .limits) = false := by
    simp only [hfail, Option.isSome_none, Bool.false_or, List.any_eq_false, List.mem_filter, List.mem_eraseDups, bne_iff_ne, beq_iff_eq,
      State.at_nodeId]
    exact fun o ho => hlim o ho.1 ho.2
  have hany : ((c.spec.owners.eraseDups.filter (· != (s.at t).nodeId)).any
      fun o => (peers.find? (·.1 == o)).map (·.2) == some .unreachable) = true :=
    List.any_eq_true.2 ⟨o, hmem, by rw [hlost]; rfl⟩
  unfold execCreateCollectionTailEnd
  dsimp only
  rw [State.at_coll_, hc]
  dsimp only
  rw [if_neg (by simp [hrun]), if_neg (by rw [hdone]; exact Bool.false_ne_true), hlimits, hany]
  rfl

end TailEnd

end Sys2Proof.Machine
end

-- ==== Proofs: Creating a collection (O15) ====
section
/-! PROOFS (O15). The commit of CREATE-COLLECTION: its fields, the collection on record, the set-up sent to the other owners. -/

namespace Sys2Proof.Machine

open Sys2Proof

theorem State.created_spec (s : State) (coll : Nat) (c : Coll) :
    (s.created coll c).tails = s.tails ∧ (s.created coll c).mboxes = s.mboxes ∧ (s.created coll c).shards = s.shards ∧
      (s.created coll c).coll? coll = (s.coll? coll).map fun c => { c with st := .active } := by
  obtain ⟨y, hy, hz⟩ := State.announce_spec ((s.modColl coll fun c => { c with st := .active }).recordNode)
    (s.tailIssuer (.createColl coll)) coll (.created c.spec)
  change s.created coll c = _ at hz
  rw [hz]
  refine ⟨hy.tails_eq, hy.mboxes_eq, hy.shards_eq, ?_⟩
  refine (congrArg (fun l : List Coll => l.find? (·.spec.id == coll)) hy.colls_eq).trans ?_
  exact State.modColl_coll (s := s) (by intro u; rfl)

theorem State.uncreated_spec (s : State) (coll : Nat) (c : Coll) :
    (s.uncreated coll c).tails = s.tails ∧ (s.uncreated coll c).mboxes = s.mboxes ∧
      (s.uncreated coll c).shards = s.shards.filter (·.coll != coll) ∧ (s.uncreated coll c).coll? coll = none := by
  have h := Sent.foldl (fun x o => State.produceControl_sent x (s.tailIssuer (.createColl coll)) o (.announce (.dropped coll)))
    (c.spec.owners.eraseDups.filter (· != s.nodeId)) (s.removeShards coll)
  exact ⟨h.tails_eq, h.mboxes_eq, h.shards_eq, coll?_filter_same⟩

/-- A creation's end: the collection is active where every owner is done, and gone where one cannot be reached. -/
theorem createCollectionTailEnd_spec {s : State} {coll r t : Nat} {peers : List (Nat × SetupReply)} {c : Coll} {y : Tail}
    (hc : s.coll? coll = some c) (hy : s.tailOf (.createColl coll) = some y) (hyr : y.requester = some r) (hr : r < s.mboxes.length)
    (h128 : r ≠ 128) :
    ((s.nodeId ∈ c.spec.owners → s.nodeId ∈ c.setUp) →
      (∀ o ∈ c.spec.owners, o ≠ s.nodeId → (peers.find? (·.1 == o)).map (·.2) = some .allDone) →
      ∃ x, exec (.createCollectionTailEnd coll peers t) s = .next x ∧ Answered x r stOk 0 ∧
        x.coll? coll = some { c with st := .active } ∧ x.tails = s.tails.erase y ∧ x.shards = s.shards ∧
        ((s.mbox r).resp.wf = true → responseResult x r 8 = toLE 4 coll ++ toLE 4 c.spec.firstShard)) ∧
    (∀ o ∈ c.spec.owners, o ≠ s.nodeId → (peers.find? (·.1 == o)).map (·.2) = some .unreachable → c.setupFailed = none →
      (∀ o ∈ c.spec.owners, o ≠ s.nodeId → (peers.find? (·.1 == o)).map (·.2) ≠ some .limits) →
      ∃ x, exec (.createCollectionTailEnd coll peers t) s = .next x ∧ Answered x r stRetry 0 ∧
        x.coll? coll = none ∧ x.shards = s.shards.filter (·.coll != coll)) := by
  have hrun := State.tailRunning_of_tailOf hy
  refine ⟨fun hme hall => ?_, fun o ho hne hlost hfail hlim => ?_⟩
  · have he := execCreateCollectionTailEnd_done t hc hrun hme hall
    obtain ⟨ht, hm, hs, hcoll⟩ := State.created_spec (s.at t) coll c
    generalize (s.at t).created coll c = z at he ht hm hs hcoll
    obtain ⟨ha, ho, hres⟩ := State.endTail_spec (z := z) (r := r) ((State.tailOf_congr ht _).trans hy) hyr (by rw [hm]; exact hr) h128
      (status := stOk) (detail := 0) (by decide) (by decide) (toLE 4 coll ++ toLE 4 c.spec.firstShard)
    generalize z.endTail _ _ _ _ = x at he ha ho hres
    have hx := ho.1
    refine ⟨x, he, ha, ?_, ?_, ?_, fun hw => ?_⟩
    · rw [hx]
      refine hcoll.trans ?_
      rw [State.at_coll_, hc]; rfl
    · rw [hx]; exact congrArg (·.erase y) ht
    · rw [hx]; exact hs
    · have hw' : (z.mbox r).resp.wf = true := by unfold State.mbox; rw [hm]; exact hw
      simpa using hres hw'
  · have he := execCreateCollectionTailEnd_unreachable t hc hrun ho hne hlost hfail hlim
    obtain ⟨ht, hm, hs, hcoll⟩ := State.uncreated_spec (s.at t) coll c
    generalize (s.at t).uncreated coll c = z at he ht hm hs hcoll
    obtain ⟨ha, ho, -⟩ := State.endTail_spec (z := z) (r := r) ((State.tailOf_congr ht _).trans hy) hyr (by rw [hm]; exact hr) h128
      (status := stRetry) (detail := 0) (by decide) (by decide) []
    generalize z.endTail _ _ _ _ = x at he ha ho
    have hx := ho.1
    exact ⟨x, he, ha, by rw [hx]; exact hcoll, by rw [hx]; exact hs⟩

/-- A collection that a node hears of is on its record, active and with no rights (R442, R615). -/
theorem collectionAnnounceReceive_created {s : State} {c : CollSpec} (hc : s.coll? c.id = none) :
    ∃ x k, exec (.collectionAnnounceReceive (.created c)) s = .next x ∧ x.coll? c.id = some k ∧ k.spec = c ∧
      k.st = .active ∧ k.rights = [] ∧ x = { s with colls := x.colls, tier := x.tier } := by
  have hn : s.recordNode.coll? c.id = none := hc
  have he : exec (.collectionAnnounceReceive (.created c)) s =
      .next { s.recordNode with colls := s.colls ++ [s.recordNode.newColl c .active []] } := by
    change execCollectionAnnounceReceive (.created c) s = _
    unfold execCollectionAnnounceReceive
    dsimp only
    rw [hn]
    rfl
  refine ⟨_, s.recordNode.newColl c .active [], he, ?_, rfl, rfl, rfl, rfl⟩
  unfold State.coll? at hc ⊢
  rw [List.find?_append, hc]
  simp [State.newColl]

/-! ### The commit of CREATE-COLLECTION (R98, R100, R145 to R148) -/

/-- The fields of the command as it wants them (R98): `n` shards, `d` dimensions, a projection of `p`. -/
structure CreateFields (s : State) (b : Bytes) (owners : List Nat) (n d p : Nat) : Prop where
  name : nameGood (slice b 0x20 32) = true
  free : (s.colls.any fun c => c.spec.name == slice b 0x20 32 && c.st != .dropping) = false
  dims : 64 ≤ d ∧ d ≤ 4096 ∧ d % 64 = 0
  proj : 64 ≤ p ∧ p ≤ 512 ∧ p % 64 = 0 ∧ p ≤ d
  metric : byteAt b 0x44 ≤ 2
  group : byteAt b 0x45 ≤ 2
  guestbook : le b 0x46 2 = 0 ∨ 256 ≤ le b 0x46 2
  full : byteAt b 0x48 ≤ 1
  lexical : byteAt b 0x49 ≤ 1
  dwell : le b 0x4A 2 ≤ 2000 ∨ le b 0x4A 2 = 0xFFFF
  shards : 1 ≤ n ∧ n ≤ if s.nodeId = 4095 then 4095 else 4096
  buffer : 2 * n ≤ le b 16 4
  nodes : ∀ o ∈ owners, o < 4096
  vectors : ∀ o ∈ owners, (le b 0x50 8 + n - 1) / n * (owners.filter (· == o)).length ≤ 2 ^ 35

/-- The settings of a collection that the command asks for. -/
def createSpec (s : State) (r : Nat) (b : Bytes) (owners : List Nat) (n d p i : Nat) : CollSpec :=
  { id := s.nodeId * 2 ^ 20 + s.freeSeq, name := slice b 0x20 32, dimensions := d, projection := p, metric := byteAt b 0x44,
    group := byteAt b 0x45, guestbookEntries := if le b 0x46 2 = 0 then 4096 else le b 0x46 2, guestbookFull := byteAt b 0x48,
    lexical := byteAt b 0x49 == 1, dwellUs := if le b 0x4A 2 = 0xFFFF then 120 else le b 0x4A 2, shards := n,
    firstShard := s.nodeId * 4096 + i, maxVectors := le b 0x50 8, creatingFunction := r, owners := owners }

/-- The collection on record, and its set-up sent to the other owners. -/
def State.creating (s : State) (r : Nat) (c : CollSpec) : State :=
  (c.owners.eraseDups.filter (· != s.nodeId)).foldl (fun x o => x.produceControl (issuerOf r) o (.setup c))
    { s.recordNode with colls := s.colls ++ [s.recordNode.newColl c .creating [(r, 0x3F)]], nextColl := s.freeSeq + 1 }

theorem foldl_max_le {α : Type} (f : α → Nat) {l : List α} {m k : Nat} (hm : m ≤ k) (h : ∀ x ∈ l, f x ≤ k) :
    l.foldl (fun m x => Nat.max m (f x)) m ≤ k := by
  induction l generalizing m with
  | nil => exact hm
  | cons x l ih => exact ih (Nat.max_le.2 ⟨hm, h x List.mem_cons_self⟩) fun y hy => h y (List.mem_cons_of_mem _ hy)

/-- The command's own checks (R98). -/
def createChecks (s : State) (b : Bytes) (owners : List Nat) (n d p : Nat) : List (Nat × Bool) :=
  [(0, nameGood (slice b 0x20 32) && !s.colls.any fun c => c.spec.name == slice b 0x20 32 && c.st != .dropping),
   (32, decide (64 ≤ d) && decide (d ≤ 4096) && d % 64 == 0),
   (34, decide (64 ≤ p) && decide (p ≤ 512) && p % 64 == 0 && decide (p ≤ d)),
   (38, le b 0x46 2 == 0 || decide (256 ≤ le b 0x46 2)), (42, decide (le b 0x4A 2 ≤ 2000) || le b 0x4A 2 == 0xFFFF),
   (44, decide (1 ≤ n) && decide (n ≤ if s.nodeId = 4095 then 4095 else 4096)),
   (48, decide (owners.foldl (fun m o => Nat.max m ((if n = 0 then 0 else (le b 0x50 8 + n - 1) / n) *
     (owners.filter (· == o)).length)) 0 ≤ 2 ^ 35))]

theorem CreateFields.checks {s : State} {b : Bytes} {owners : List Nat} {n d p : Nat} (hf : CreateFields s b owners n d p) :
    firstBad b [] (createChecks s b owners n d p) = none := by
  have hmost := foldl_max_le (fun o => (if n = 0 then 0 else (le b 0x50 8 + n - 1) / n) * (owners.filter (· == o)).length)
    (l := owners) (Nat.zero_le (2 ^ 35)) (by rw [if_neg (by have := hf.shards.1; omega)]; exact hf.vectors)
  refine firstBad_none rfl ?_
  simp only [createChecks, List.forall_mem_cons, List.not_mem_nil, false_implies, implies_true, and_true, Bool.and_eq_true, Bool.or_eq_true,
    Bool.not_eq_true', decide_eq_true_eq, beq_iff_eq]
  obtain ⟨hd1, hd2, hd3⟩ := hf.dims
  obtain ⟨hp1, hp2, hp3, hp4⟩ := hf.proj
  exact ⟨⟨hf.name, hf.free⟩, ⟨⟨hd1, hd2⟩, hd3⟩, ⟨⟨⟨hp1, hp2⟩, hp3⟩, hp4⟩,
    hf.guestbook, hf.dwell, hf.shards, hmost⟩

theorem execCreateCollection_commits {s u : State} {r t n d p i : Nat} {data b : Bytes} {owners : List Nat} (hu : u = s.at t)
    (hg : Granted u r 4) (hz : ReservedZero u r [(56, 1704)]) (h128 : r ≠ 128) (hb : b = (u.mbox r).copy)
    (hmay : r = 0 ∨ (u.fn r).mayCreate = true) (hdata : (u.mbox r).input = some data) (hn : n = le b 0x4C 4) (hd : d = le b 0x40 2)
    (hp : p = if le b 0x42 2 = 0 then min 256 d else le b 0x42 2)
    (howners : owners = (List.range n).map fun k => le data (2 * k) 2) (hf : CreateFields u b owners n d p) (hi : u.freeRun n = some i)
    (hlim : u.commitLimit = false) : exec (.createCollection r t) s =
      .next ((u.creating r (createSpec u r b owners n d p i)).startTail r (.createColl (createSpec u r b owners n d p i).id)) := by
  have hpermit : (r == 0 || (r != 128 && (u.fn r).mayCreate)) = true := by
    rcases hmay with h | h <;> simp [h, h128]
  have hinput : ((some data).isNone ||
      decide (le b 16 4 < 2 * if n ≤ (if u.nodeId = 4095 then 4095 else 4096) then n else 0)) = false := by
    rw [if_pos hf.shards.2]
    simpa using hf.buffer
  have hcount : (decide (1 ≤ n) && decide (n ≤ if u.nodeId = 4095 then 4095 else 4096)) = true := by simpa using hf.shards
  have hchecks := hf.checks
  unfold createChecks at hchecks
  rw [hcount] at hchecks
  have hnodes : owners.findIdx? (fun o => decide (4096 ≤ o)) = none := by
    simpa [List.findIdx?_eq_none_iff] using hf.nodes
  change Host.Outcome.next _ = _
  dsimp only
  rw [← hu, hpermit, State.commit_runs hg (firstBad_none hz ?_), ← hb, hdata, ← hn,
    if_neg (by simp only [hinput]; simp), hcount, if_pos rfl, Option.getD_some, ← howners, hnodes, ← hd, ← hp]
  · dsimp only
    rw [hchecks, hi]
    dsimp only
    rw [State.record_ok hlim]
    rfl
  · rw [← hb]
    simpa using ⟨hf.metric, hf.group, hf.full, hf.lexical⟩

/-- What is on record and sent once the commit has run: the collection, and a set-up to each owner that is not this node. -/
theorem State.creating_spec (s : State) (r : Nat) (c : CollSpec) :
    (s.creating r c).colls = s.colls ++ [s.recordNode.newColl c .creating [(r, 0x3F)]] ∧
      (∀ o ∈ c.owners, o ≠ s.nodeId → FrameTo (s.creating r c) o (.setup c)) ∧ (s.creating r c).tails = s.tails ∧
      (s.creating r c).mboxes = s.mboxes ∧ (s.creating r c).now = s.now ∧ (s.creating r c).shards = s.shards ∧
      (s.creating r c).lists = s.lists ∧ (s.creating r c).fns = s.fns ∧ (s.creating r c).queues = s.queues := by
  unfold State.creating
  generalize hy : ({ s.recordNode with
    colls := s.colls ++ [s.recordNode.newColl c .creating [(r, 0x3F)]], nextColl := s.freeSeq + 1 } : State) = y
  have hs := Sent.foldl (fun x o => State.produceControl_sent x (issuerOf r) o (.setup c)) (c.owners.eraseDups.filter (· != s.nodeId)) y
  have hto := foldl_brings (P := fun o x => FrameTo x o (.setup c)) Sent.refl Sent.trans
    (fun x o => State.produceControl_sent x (issuerOf r) o (.setup c)) y
    (fun x o _ => State.produceControl_frameTo x (issuerOf r) o (.setup c))
    (fun _ _ _ h hf => hf.sent h) (c.owners.eraseDups.filter (· != s.nodeId)) y (Sent.refl y)
  refine ⟨by rw [hs.colls_eq, ← hy], fun o ho hne => hto o (by simp [ho, hne]), ?_, ?_, ?_, ?_, ?_, ?_, ?_⟩
  · rw [hs.tails_eq, ← hy]; rfl
  · rw [hs.mboxes_eq, ← hy]; rfl
  · rw [hs.now_eq, ← hy]; rfl
  · rw [hs.shards_eq, ← hy]; rfl
  · rw [hs.lists_eq, ← hy]; rfl
  · rw [hs.fns_eq, ← hy]; rfl
  · rw [hs.queues_eq, ← hy]; rfl

/-- The mailbox stays BUSY behind the tail, and nothing that the command recorded moves. -/
theorem State.creating_startTail_spec {s : State} {r : Nat} (hg : Granted s r 4) (c : CollSpec) :
    ∃ x k, x = (s.creating r c).startTail r (.createColl c.id) ∧ x.colls = s.colls ++ [k] ∧ k.st = .creating ∧
      k.rights = [(r, 0x3F)] ∧ k.spec = c ∧ (∀ o ∈ c.owners, o ≠ s.nodeId → FrameTo x o (.setup c)) ∧
      x.tails = s.tails ++ [⟨some r, .createColl c.id, s.now⟩] ∧ (x.mbox r).st = .busy ∧ (x.mbox r).committing = false ∧
      x.shards = s.shards ∧ x.lists = s.lists ∧ x.fns = s.fns ∧ x.queues = s.queues := by
  obtain ⟨hcolls, hto, htails, hmb, hnow, hsh, hli, hfns, hq⟩ := State.creating_spec s r c
  generalize s.creating r c = z at *
  obtain ⟨hx, hm⟩ := State.startTail_spec (s := z) (r := r) (hmb ▸ hg.1) (.createColl c.id)
  refine ⟨_, s.recordNode.newColl c .creating [(r, 0x3F)], rfl, ?_, rfl, rfl, rfl, fun o ho hne => (hto o ho hne).congr (by rw [hx]),
    ?_, ?_, ?_, ?_, ?_, ?_, ?_⟩
  · rw [hx]; exact hcolls
  · rw [hx, ← htails, ← hnow]
  · rw [hm]
    exact (congrArg (fun l : List Mbox => (l.getD r {}).st) hmb).trans hg.busy
  · rw [hm]
  · rw [hx]; exact hsh
  · rw [hx]; exact hli
  · rw [hx]; exact hfns
  · rw [hx]; exact hq

/-- Settles O15: the commit, the set-up, the tail's end and the announcement each by its own rule. -/
theorem collectionCreation : Obligations.CollectionCreation := by
  refine ⟨?commits, fun s c t n w hrun hn hw _ ho hc hl => collectionShardSetup_spec hrun hn hw ho hc hl,
    fun s coll r t peers c y hc hy hyr hr h128 => createCollectionTailEnd_spec hc hy hyr hr h128,
    fun s c hc => collectionAnnounceReceive_created hc⟩
  case commits =>
    intro s r t n d p gb dw data b owners i hg hz h128 hb hmay hdata hname hfree hd hd1 hd2 hd3 hp hp1 hp2 hp3 hp4 hmetric hgroup hgb hgb1
      hfull hlex hdw hdw1 hn hn1 hn2 hbuf howners hnodes hvec hi hlim
    subst hgb hdw
    have hf : CreateFields (s.at t) b owners n d p :=
      ⟨hname, hfree, ⟨hd1, hd2, hd3⟩, ⟨hp1, hp2, hp3, hp4⟩, hmetric, hgroup, hgb1, hfull, hlex, hdw1,
        ⟨hn1, hn2⟩, hbuf, hnodes, hvec⟩
    have he := execCreateCollection_commits rfl (hg.at t) (hz.at t) h128 hb hmay hdata hn hd hp howners hf hi hlim
    obtain ⟨x, k, hx, h⟩ := State.creating_startTail_spec (hg.at t) (createSpec (s.at t) r b owners n d p i)
    obtain ⟨h1, h2, h3, h4, h5, h6, h7⟩ := h
    rw [← hx] at he
    refine ⟨x, k, he, h1, h2, h3, h4, ?_, ?_, h7⟩
    · rw [h4]; exact h5
    · rw [h4]; exact h6

end Sys2Proof.Machine
end

-- ==== Proofs: The parameters of SET-CONFIG (O19) ====
section
/-! PROOFS (O19). A parameter below 0x100 that names no shard and no spare changes values in force and little else, and each
number in force is changed by its own parameter alone. -/

namespace Sys2Proof.Machine

open Sys2Proof

/-! ### What one entry of SET-CONFIG changes (R105) -/

/-- What a parameter below 0x100 that names no shard and no spare may change: values in force, power states, compression, and what
leaves the node. -/
structure ParamSet (s x : State) : Prop where
  frame : x = { s with cfg := x.cfg, pins := x.pins, pwr := x.pwr, arbs := x.arbs, colls := x.colls, sched := x.sched, eng := x.eng,
                       free := x.free, nextNum := x.nextNum, out := x.out }
  slotId : x.pins.slotId = s.pins.slotId
  live : ∀ v, (x.coll? v).any (·.st != .dropping) = (s.coll? v).any (·.st != .dropping)

theorem ParamSet.refl (s : State) : ParamSet s s := ⟨rfl, rfl, fun _ => rfl⟩

theorem ParamSet.of_cfg (s : State) (c : Cfg) : ParamSet s { s with cfg := c } := ⟨rfl, rfl, fun _ => rfl⟩

theorem ParamSet.trans (s x y : State) (h : ParamSet s x) (k : ParamSet x y) : ParamSet s y where
  frame := by rw [k.frame, h.frame]
  slotId := k.slotId.trans h.slotId
  live v := (k.live v).trans (h.live v)

theorem ParamSet.ite {s a b : State} {c : Prop} [Decidable c] (ha : ParamSet s a) (hb : ParamSet s b) :
    ParamSet s (if c then a else b) := by
  split
  · exact ha
  · exact hb

theorem ParamSet.foldl {α : Type} {f : State → α → State} (h : ∀ s a, ParamSet s (f s a)) (l : List α) (s : State) :
    ParamSet s (l.foldl f s) := foldl_head_keeps ParamSet.refl ParamSet.trans h l s

section
variable {s x : State} (h : ParamSet s x)
include h

theorem ParamSet.fns_eq : x.fns = s.fns := by rw [h.frame]
theorem ParamSet.mboxes_eq : x.mboxes = s.mboxes := by rw [h.frame]
theorem ParamSet.shards_eq : x.shards = s.shards := by rw [h.frame]
theorem ParamSet.lists_eq : x.lists = s.lists := by rw [h.frame]
theorem ParamSet.queues_eq : x.queues = s.queues := by rw [h.frame]
theorem ParamSet.spares_eq : x.spares = s.spares := by rw [h.frame]
theorem ParamSet.tier_eq : x.tier = s.tier := by rw [h.frame]
theorem ParamSet.ao_eq : x.ao = s.ao := by rw [h.frame]

theorem ParamSet.nodeId_eq : x.nodeId = s.nodeId := by
  unfold State.nodeId; rw [h.ao_eq, h.slotId]

theorem ParamSet.spareLeft_eq (e : Element) : x.spareLeft e = s.spareLeft e := by
  unfold State.spareLeft State.coresSpare State.tileOn
  rw [h.ao_eq, h.tier_eq, h.spares_eq]

end

theorem Sent.paramSet {s x : State} (h : Sent s x) : ParamSet s x where
  frame := by rw [h.frame]
  slotId := by rw [h.frame]
  live v := by unfold State.coll?; rw [h.colls_eq]

theorem State.needUnit_paramSet (s : State) (u : UnitId) : ParamSet s (s.needUnit u) := by
  have h := State.needUnit_frame s u
  generalize s.needUnit u = x at h
  rw [h]
  exact ⟨rfl, rfl, fun _ => rfl⟩

theorem State.platformEvent_paramSet (s : State) (sensor reading : Nat) : ParamSet s (s.platformEvent sensor reading) := by
  unfold State.platformEvent
  dsimp only
  split <;> exact ⟨rfl, rfl, fun _ => rfl⟩

theorem State.setPState_paramSet (s : State) (p : PState) : ParamSet s (s.setPState p) := by
  unfold State.setPState
  split
  · exact ParamSet.refl s
  · exact ParamSet.trans _ (s.modPwr _) _ ⟨rfl, rfl, fun _ => rfl⟩ (State.platformEvent_paramSet ..)

theorem State.setGale_paramSet (s : State) (on : Bool) : ParamSet s (s.setGale on) := by
  have h0 : ParamSet s { s with cfg := { s.cfg with galeHold := on } } := ⟨rfl, rfl, fun _ => rfl⟩
  unfold State.setGale
  dsimp only
  split
  · exact ParamSet.trans _ _ _ h0 (ParamSet.trans _ _ _ (State.setPState_paramSet ..) (ParamSet.foldl State.needUnit_paramSet _ _))
  · split
    · exact ParamSet.trans _ _ _ h0 (State.setPState_paramSet ..)
    · exact h0

theorem State.modColl_live (s : State) (c v : Nat) {f : Coll → Coll} (hid : ∀ u, (f u).spec = u.spec) (hst : ∀ u, (f u).st = u.st) :
    ((s.modColl c f).coll? v).any (·.st != .dropping) = (s.coll? v).any (·.st != .dropping) := by
  by_cases h : v = c
  · subst h
    rw [State.modColl_coll (by simp [hid])]
    cases s.coll? v with
    | none => rfl
    | some d => simp [hst]
  · rw [State.modColl_coll?_ne h hid]

theorem State.setCompress_paramSet (s : State) (coll : Nat) (on : Bool) : ParamSet s (s.setCompress coll on) :=
  ParamSet.trans _ (s.modColl coll fun c => { c with compress := on }) _
    ⟨rfl, rfl, fun v => State.modColl_live s coll v (fun _ => rfl) fun _ => rfl⟩
    (Sent.foldl (fun s o => State.produceControl_sent s (some 0) o _) _ _).paramSet

theorem State.setCompress_cfg (s : State) (coll : Nat) (on : Bool) : (s.setCompress coll on).cfg = s.cfg := by
  have h := Sent.foldl (fun s o => State.produceControl_sent s (some 0) o (.compress coll on))
    ((((s.modColl coll fun c => { c with compress := on }).coll? coll).map
      (s.modColl coll fun c => { c with compress := on }).otherOwners).getD []) (s.modColl coll fun c => { c with compress := on })
  change State.cfg (List.foldl _ _ _) = _
  rw [h.frame]
  rfl

theorem State.setPState_cfg (s : State) (p : PState) : (s.setPState p).cfg = s.cfg := by
  unfold State.setPState State.platformEvent
  dsimp only
  repeat' split
  all_goals rfl

theorem State.needUnits_cfg (s : State) (l : List UnitId) : (l.foldl (fun s u => s.needUnit u) s).cfg = s.cfg :=
  foldl_keeps State.cfg _ (fun s u => by rw [State.needUnit_frame]) l s

theorem State.setGale_cfg (s : State) (on : Bool) : (s.setGale on).cfg = { s.cfg with galeHold := on } := by
  unfold State.setGale
  dsimp only
  split
  · rw [State.needUnits_cfg, State.setPState_cfg]
  · split
    · rw [State.setPState_cfg]
    · rfl

/-- Parameters of the tables below 0x100 whose value is a number in force (R105). -/
def configKeys : List Nat := [0x01, 0x02, 0x03, 0x12, 0x30, 0x40, 0x41, 0x60, 0x61, 0x62, 0x63, 0x64, 0x65, 0x66, 0x6A]

section Param
variable {s : State} {to_ : Option Nat} {p v : Nat} (h100 : p < 0x100) (h67 : p ≠ 0x67) (h69 : p ≠ 0x69)
include h100 h67 h69

theorem State.setParam_paramSet : ParamSet s (s.setParam to_ p v) := by
  have h1 : ¬ (0x100 ≤ p ∧ p < 0x180) := by omega
  have h2 : ¬ (0x180 ≤ p ∧ p < 0x200) := by omega
  have h3 : ¬ (0x200 ≤ p ∧ p < 0x280) := by omega
  have h4 : ¬ (0x280 ≤ p ∧ p < 0x300) := by omega
  unfold State.setParam
  dsimp only
  rw [if_neg h67, if_neg h69, if_neg h1, if_neg h2, if_neg h3, if_neg h4]
  refine .ite (.of_cfg s _) <| .ite (.of_cfg s _) <| .ite (.of_cfg s _) <| .ite ?alertMask <| .ite (.of_cfg s _) <|
    .ite (State.setCompress_paramSet ..) <| .ite (State.setCompress_paramSet ..) <| .ite (.of_cfg s _) <| .ite (.of_cfg s _) <|
    .ite (.of_cfg s _) <| .ite (.of_cfg s _) <| .ite (.of_cfg s _) <| .ite (.of_cfg s _) <| .ite (State.setGale_paramSet ..) <|
    .ite (.of_cfg s _) <| .ite (.of_cfg s _) <| .ite (.of_cfg s _) <| .ite (.of_cfg s _) <| .ite (.of_cfg s _) <| .ite (.of_cfg s _) <|
    .ite (.of_cfg s _) <| .ite (.of_cfg s _) (.refl s)
  case alertMask => exact ⟨rfl, rfl, fun _ => rfl⟩

end Param

/-- The values of `configKeys`, in the same order. -/
def Cfg.keys (c : Cfg) : List Nat :=
  [c.powerCap, c.gustBudget, c.watchdogMs, c.compressDefault, c.frameOverhead, c.lullAfter, c.calmAfter, c.flashPct, c.stackPct,
   c.tensorPct, c.fabricPct, c.coarsePct, c.rebuildPct, c.scrubHours, c.shardLostAfter]

theorem State.configKeys_values (s : State) : configKeys.map s.configValue = s.cfg.keys := rfl

theorem State.configValue_key (s : State) {k : Nat} (hk : k ∈ configKeys) : s.cfg.keys[configKeys.idxOf k]? = some (s.configValue k) := by
  rw [← s.configKeys_values, List.getElem?_map, List.getElem?_idxOf hk]
  rfl

theorem keys_ite {c : Prop} [Decidable c] {a b : State} {l : List Nat} (ha : c → a.cfg.keys = l) (hb : ¬c → b.cfg.keys = l) :
    (if c then a else b).cfg.keys = l := by
  split
  · exact ha ‹_›
  · exact hb ‹_›

theorem State.setParam_keys (s : State) (to_ : Option Nat) {p v : Nat} (h100 : p < 0x100) (h67 : p ≠ 0x67) (h69 : p ≠ 0x69) :
    (s.setParam to_ p v).cfg.keys = s.cfg.keys.set (configKeys.idxOf p) v := by
  have h1 : ¬ (0x100 ≤ p ∧ p < 0x180) := by omega
  have h2 : ¬ (0x180 ≤ p ∧ p < 0x200) := by omega
  have h3 : ¬ (0x200 ≤ p ∧ p < 0x280) := by omega
  have h4 : ¬ (0x280 ≤ p ∧ p < 0x300) := by omega
  have hno (h : p ∉ configKeys) : s.cfg.keys = s.cfg.keys.set (configKeys.idxOf p) v := by
    rw [List.idxOf_of_notMem h, List.set_eq_of_length_le (by exact le_rfl)]
  unfold State.setParam
  dsimp only
  rw [if_neg h67, if_neg h69, if_neg h1, if_neg h2, if_neg h3, if_neg h4]
  refine keys_ite (by rintro rfl; rfl) fun _ => keys_ite (by rintro rfl; rfl) fun _ => keys_ite (by rintro rfl; rfl) fun _ =>
    keys_ite (by rintro rfl; rfl) fun _ => keys_ite (by rintro rfl; rfl) fun _ => keys_ite (fun h => ?compress) fun _ =>
    keys_ite (fun h => ?noCompress) fun _ => keys_ite (by rintro rfl; rfl) fun _ => keys_ite (fun h => ?admission) fun _ =>
    keys_ite (fun h => ?egress) fun _ => keys_ite (by rintro rfl; rfl) fun _ => keys_ite (by rintro rfl; rfl) fun _ =>
    keys_ite (by rintro rfl; rfl) fun _ => keys_ite (fun h => ?gale) fun _ => keys_ite (by rintro rfl; rfl) fun _ =>
    keys_ite (by rintro rfl; rfl) fun _ => keys_ite (by rintro rfl; rfl) fun _ => keys_ite (by rintro rfl; rfl) fun _ =>
    keys_ite (by rintro rfl; rfl) fun _ => keys_ite (by rintro rfl; rfl) fun _ => keys_ite (by rintro rfl; rfl) fun _ =>
    keys_ite (by rintro rfl; rfl) fun _ => ?none
  case compress => subst h; rw [State.setCompress_cfg]; rfl
  case noCompress => subst h; rw [State.setCompress_cfg]; rfl
  case admission => exact hno (by simp [configKeys]; omega)
  case egress => exact hno (by simp [configKeys]; omega)
  case gale => subst h; rw [State.setGale_cfg]; rfl
  case none => exact hno (by simp [configKeys]; omega)

/-- A parameter takes its value, and every other of the keys keeps its own. -/
theorem State.setParam_configValue (s : State) (to_ : Option Nat) {p v k : Nat} (h100 : p < 0x100) (h67 : p ≠ 0x67) (h69 : p ≠ 0x69)
    (hk : k ∈ configKeys) : (s.setParam to_ p v).configValue k = if p = k then v else s.configValue k := by
  have h := (s.setParam to_ p v).configValue_key hk
  have hlt : configKeys.idxOf k < s.cfg.keys.length := List.idxOf_lt_length_of_mem hk
  rw [State.setParam_keys s to_ h100 h67 h69, List.getElem?_set] at h
  by_cases hp : p = k
  · subst hp
    rw [if_pos rfl, if_pos hlt] at h
    rw [if_pos rfl]; exact (Option.some.inj h).symm
  · rw [if_neg fun e => hp ((List.idxOf_inj hk).1 e.symm).symm, s.configValue_key hk] at h
    rw [if_neg hp]; exact (Option.some.inj h).symm

end Sys2Proof.Machine
end

-- ==== Proofs: The entries of SET-CONFIG (O19) ====
section
/-! PROOFS (O19). Entries apply in order. By induction over them none is refused and each number in force has its last value;
the commit then answers from the state that they reach. -/

namespace Sys2Proof.Machine

open Sys2Proof

/-! ### Entries of SET-CONFIG, applied in order (R105) -/

/-- An entry of a parameter below 0x100 that names no shard and no spare, with a value in its range. -/
def PlainEntry (s : State) (e : Nat × Nat × Nat) : Prop :=
  configListed e.2.1 = true ∧ e.2.1 < 0x100 ∧ e.2.1 ≠ 0x67 ∧ e.2.1 ≠ 0x69 ∧ s.configGood none e.2.1 e.2.2 = true

/-- Whether a value is in range does not depend on what such entries change. -/
theorem ParamSet.configGood_eq {s x : State} (h : ParamSet s x) (to_ : Option Nat) {p : Nat} (v : Nat) (h100 : p < 0x100)
    (h67 : p ≠ 0x67) (h69 : p ≠ 0x69) : x.configGood to_ p v = s.configGood none p v := by
  have h1 : ¬ (0x100 ≤ p ∧ p < 0x180) := by omega
  have h2 : ¬ (0x280 ≤ p ∧ p < 0x300) := by omega
  simp only [State.configGood, h67, h69, h1, h2, if_false, h.live v]

/-- The last value that entries give a parameter, or `old`. -/
def lastValue (es : List (Nat × Nat × Nat)) (k old : Nat) : Nat := (((es.filter (·.2.1 == k)).getLast?).map (·.2.2)).getD old

theorem lastValue_cons (e : Nat × Nat × Nat) (es : List (Nat × Nat × Nat)) (k old : Nat) :
    lastValue (e :: es) k old = lastValue es k (if e.2.1 = k then e.2.2 else old) := by
  unfold lastValue
  by_cases h : e.2.1 = k
  · rw [List.filter_cons_of_pos (by simpa using h), List.getLast?_cons, if_pos h]
    cases (es.filter (·.2.1 == k)).getLast? <;> rfl
  · rw [List.filter_cons_of_neg (by simpa using h), if_neg h]

/-- Plain entries applied to `r` from `s` on: none is refused, and each key has its last value. -/
structure Applied (s : State) (es : List (Nat × Nat × Nat)) (r x : ConfigRun) : Prop where
  bad : x.bad = none
  cores : x.cores = none
  set_ : ParamSet s x.st
  values : ∀ k ∈ configKeys, x.st.configValue k = lastValue es k (r.st.configValue k)

theorem ConfigRun.apply_plain {s : State} {r : ConfigRun} {e : Nat × Nat × Nat} (hb : r.bad = none) (hc : r.cores = none)
    (hs : ParamSet s r.st) (he : PlainEntry s e) :
    r.apply e = { r with st := r.st.setParam r.to_ e.2.1 e.2.2, to_ := if e.2.1 = 0x68 then some e.2.2 else r.to_ } := by
  obtain ⟨i, p, v⟩ := e
  obtain ⟨hl, h100, h67, h69, hgood⟩ := he
  dsimp only at hl h100 h67 h69 hgood ⊢
  have hlow : decide (0x100 ≤ p) = false := by simpa using h100
  unfold ConfigRun.apply
  dsimp only
  rw [hb, if_neg (by simp), if_neg (by simp [hl]), if_neg (by rw [hs.configGood_eq _ _ h100 h67 h69, hgood]; simp), hlow, hc]
  rfl

theorem applied_foldl {s : State} : ∀ {es : List (Nat × Nat × Nat)} {r : ConfigRun}, r.bad = none → r.cores = none →
    ParamSet s r.st → (∀ e ∈ es, PlainEntry s e) → Applied s es r (es.foldl (fun (x : ConfigRun) e => x.apply e) r)
  | [], r, hb, hc, hs, _ => ⟨hb, hc, hs, fun _ _ => rfl⟩
  | e :: es, r, hb, hc, hs, hes => by
    obtain ⟨he, hes⟩ := List.forall_mem_cons.1 hes
    obtain ⟨-, h100, h67, h69, -⟩ := id he
    rw [List.foldl_cons, ConfigRun.apply_plain hb hc hs he]
    have h := applied_foldl (r := { r with st := r.st.setParam r.to_ e.2.1 e.2.2, to_ := if e.2.1 = 0x68 then some e.2.2 else r.to_ })
      hb hc (ParamSet.trans _ _ _ hs (State.setParam_paramSet h100 h67 h69)) hes
    refine ⟨h.bad, h.cores, h.set_, fun k hk => ?_⟩
    rw [h.values k hk, lastValue_cons, State.setParam_configValue r.st r.to_ h100 h67 h69 hk]

/-! ### The commit of SET-CONFIG (R105, R464) -/

theorem State.rebootChanged_same {s old : State} (h : s.fns = old.fns) (f : Nat) : s.rebootChanged old f = s := by
  unfold State.rebootChanged State.fn
  rw [h, if_pos (by simp)]

theorem State.rebootAll_same {s old : State} (h : s.fns = old.fns) : ∀ l : List Nat, l.foldl (fun y f => y.rebootChanged old f) s = s
  | [] => rfl
  | f :: l => by rw [List.foldl_cons, State.rebootChanged_same h]; exact State.rebootAll_same h l

theorem State.moveShares_same {s old : State} (h : s.fns = old.fns) : s.moveShares old = s := by
  have hno : (List.range 128).filter (fun f => (s.fn f).coreShare != (old.fn f).coreShare) = [] := by
    unfold State.fn; rw [h]; simp
  rw [State.moveShares, hno]
  rfl

/-- A parameter whose value is on the node's record (R545). -/
def nodeRecorded (e : Nat × Nat × Nat) : Bool := e.2.1 == 0x10 || e.2.1 == 0x11 || e.2.1 == 0x67 || decide (0x100 ≤ e.2.1)

/-- A request for SET-CONFIG as its commit takes it: granted, with 1 to 64 entries and its reserved bytes zero. -/
structure ConfigAsked (s : State) (es : List (Nat × Nat × Nat)) : Prop where
  granted : Granted s 0 0x0C
  few : 1 ≤ byteAt (s.mbox 0).copy 0x20 ∧ byteAt (s.mbox 0).copy 0x20 ≤ 64
  reserved : firstReserved (s.mbox 0).copy (configRanges (byteAt (s.mbox 0).copy 0x20)) = none
  entries : configEntries (s.mbox 0).copy = es

theorem ConfigAsked.at {s : State} {es : List (Nat × Nat × Nat)} (h : ConfigAsked s es) (t : Nat) : ConfigAsked (s.at t) es :=
  ⟨h.granted.at t, h.few, h.reserved, h.entries⟩

/-- Entries of which none is refused take effect together; no function's share or guest changes here. -/
theorem State.configCommit_runs {s : State} {es : List (Nat × Nat × Nat)} (ha : ConfigAsked s es) {x : ConfigRun}
    (hx : es.foldl (fun (x : ConfigRun) e => x.apply e) ⟨s, none, none, none⟩ = x) (hb : x.bad = none) (hc : x.cores = none)
    (hf : x.st.fns = s.fns) (hlim : es.any nodeRecorded = true → s.commitLimit = false) :
    s.configCommit 0 = (if es.any nodeRecorded then x.st.recordNode else x.st).reply 0 stOk 0 [] [] := by
  have hdone (y : State) (hy : y.fns = s.fns) :
      (List.range 128).foldl (fun z f => z.rebootChanged s f) (y.moveShares s) = y := by
    rw [State.moveShares_same hy, State.rebootAll_same hy]
  unfold State.configCommit
  rw [beq_self_eq_true, State.commit_runs ha.granted rfl]
  dsimp only
  rw [ha.entries, hx, ha.reserved, hb, hc, if_neg (by simp [within, ha.few]), ite_self]
  change (if es.any nodeRecorded then _ else _) = _
  split
  · rw [if_neg (by rw [hlim ‹_›]; exact Bool.false_ne_true)]
    exact congrArg (fun y : State => y.reply 0 stOk 0 [] []) (hdone _ hf)
  · exact congrArg (fun y : State => y.reply 0 stOk 0 [] []) (hdone _ hf)

end Sys2Proof.Machine
end

-- ==== Proofs: Moves and spares in SET-CONFIG (O19) ====
section
/-! PROOFS (O19). A move starts in its shard and at the ledger arbiter; a spare comes into use among the spares. -/

namespace Sys2Proof.Machine

open Sys2Proof

/-! ### Moves and spares that SET-CONFIG names (R323, R562, R565) -/

section Move
variable {s : State} {shard to_ : Nat} {d : Shard} (hd : s.shard? shard = some d) (hm : d.move = none) (hto : to_ ≠ s.nodeId)

theorem State.cutMove_frame (s : State) (i : Nat) : s.cutMove i = { s with shards := (s.cutMove i).shards } := rfl

/-- A move starts in the shards, their ledger arbiters' waits included. -/
theorem State.startMove_frame (s : State) (shard to_ : Nat) :
    s.startMove shard to_ = { s with shards := (s.startMove shard to_).shards, arbs := (s.startMove shard to_).arbs } := by
  unfold State.startMove
  split
  · rfl
  · dsimp only
    split
    · rw [State.cutMove_frame, State.leaveLedger_frame]; rfl
    · rw [State.joinLedger_frame]; rfl

theorem State.cutMove_shard? (s : State) (j i : Nat) : (s.cutMove j).shard? i = (s.shard? i).map fun d => if d.id == j then
    (match d.move with
     | some m =>
       if m.step = 0 then { d with move := some { m with cut := d.counter, step := 1 },
                                   readers := d.readers ++ [(.move, d.counter)] }
       else d
     | none => d) else d := by
  refine State.modShard_shard? s j (fun d => ?_) i
  split
  · split <;> rfl
  · rfl

/-- The shard with its move noted. -/
def State.moving (s : State) (shard to_ : Nat) : State := s.modShard shard fun d => { d with move := some ⟨to_, 0, 0⟩ }

theorem State.moving_shard? (s : State) (j to_ i : Nat) : (s.moving j to_).shard? i = (s.shard? i).map fun d =>
    if d.id == j then { d with move := some ⟨to_, 0, 0⟩ } else d :=
  State.modShard_shard? s j (f := fun d => { d with move := some ⟨to_, 0, 0⟩ }) (fun _ => rfl) i

theorem State.moving_now (s : State) (j to_ : Nat) : (s.moving j to_).now = s.now := rfl

include hd hm hto

theorem State.startMove_eq : s.startMove shard to_ = if d.waiting.isEmpty then
    ((s.moving shard to_).leaveLedger (.pass .move) shard).cutMove shard else (s.moving shard to_).joinLedger (.pass .move) shard := by
  unfold State.startMove
  rw [hd, Option.filter_some, if_pos (by simp [hm, hto])]
  rfl

theorem State.startMove_cuts (hw : d.waiting = []) :
    (s.startMove shard to_).shard? shard =
      some { d with move := some ⟨to_, d.counter, 1⟩, readers := d.readers ++ [(.move, d.counter)] } ∧
      ∀ i, i ≠ shard → (s.startMove shard to_).shard? i = s.shard? i := by
  have hid := State.shard?_id hd
  have hmv : (s.moving shard to_).shard? shard = some { d with move := some ⟨to_, 0, 0⟩ } := by
    rw [State.moving_shard?, hd]; simp [hid]
  rw [State.startMove_eq hd hm hto, if_pos (by simp [hw])]
  refine ⟨?_, fun i hi => ?_⟩
  · rw [State.cutMove_shard?, State.leaveLedger_shard? hmv]
    simp [hid, hw]
  · rw [State.cutMove, State.modShard_shard?_ne hi ?_, State.leaveLedger_shard?_ne hi]
    · exact State.modShard_shard?_ne hi fun _ => rfl
    · intro d; split
      · split <;> rfl
      · rfl

theorem State.startMove_waits (hw : d.waiting ≠ []) (hp : ∀ z ∈ d.waiting, z.2 ≠ .pass .move) :
    (s.startMove shard to_).shard? shard =
      some { d with move := some ⟨to_, 0, 0⟩, waiting := d.waiting ++ [(s.now, .pass .move)] } := by
  have hid := State.shard?_id hd
  have hnone : d.waiting.any (·.2 == .pass .move) = false := by simpa using hp
  rw [State.startMove_eq hd hm hto, if_neg (by simpa using hw), State.joinLedger_shard?, State.moving_shard?, hd]
  simp [hid, hnone, State.moving_now]

end Move

/-- A spare comes into use among the spares, the arrays' coaches and a channel's dies, with its events in the log. -/
def SpareTaken (s x : State) : Prop :=
  x = { s with spares := x.spares, eng := x.eng, tier := x.tier, ao := x.ao, pins := x.pins }

theorem SpareTaken.trans {s x y : State} (h : SpareTaken s x) (k : SpareTaken x y) : SpareTaken s y := by
  unfold SpareTaken at *; rw [k, h]

theorem State.logElement_taken (s : State) (code : Nat) (e : Element) (count : Nat) : SpareTaken s (s.logElement code e count) := by
  have h := State.log_onlyLogged s 8 code (toLE 4 (elementWord e.kind e.domain e.element) ++ toLE 8 count)
  change OnlyLogged s (s.logElement code e count) at h
  unfold SpareTaken
  rw [h]

theorem State.logElement_spares (s : State) (code : Nat) (e : Element) (count : Nat) : (s.logElement code e count).spares = s.spares := by
  have h := State.log_onlyLogged s 8 code (toLE 4 (elementWord e.kind e.domain e.element) ++ toLE 8 count)
  change OnlyLogged s (s.logElement code e count) at h
  rw [h]

theorem State.modSpares_taken (s : State) (f : Spares → Spares) : SpareTaken s (s.modSpares f) := rfl

theorem State.modArr_taken (s : State) (a : Nat) (f : Arr → Arr) : SpareTaken s (s.modArr a f) := rfl

theorem State.switchArray_taken (s : State) (a b : Nat) : SpareTaken s (s.switchArray a b) := rfl

theorem SpareTaken.ite {s a b : State} {c : Prop} [Decidable c] (ha : SpareTaken s a) (hb : SpareTaken s b) :
    SpareTaken s (if c then a else b) := by
  split
  · exact ha
  · exact hb

theorem State.swapIn_taken (s : State) (a b : Nat) : SpareTaken s (s.swapIn a b) :=
  ((State.modArr_taken s _ _).trans (State.modSpares_taken ..)).trans (State.switchArray_taken ..)

theorem State.spareArray_taken (s : State) (a : Nat) : SpareTaken s (s.spareArray a) := by
  unfold State.spareArray
  have h := State.modArr_taken s a fun r => { r with st := 3 }
  cases s.standIn a with
  | none => exact h
  | some b => exact .ite (h.trans (State.swapIn_taken ..)) h

theorem State.useSpare_spec (s : State) (e : Element) : SpareTaken s (s.useSpare e) ∧ e ∉ (s.useSpare e).spares.failed := by
  unfold State.useSpare
  extract_lets x y z w
  have hx : SpareTaken s x := by
    unfold x
    cases arrayOf e with
    | none => rfl
    | some a => exact State.spareArray_taken ..
  have hy : SpareTaken x y := .ite rfl (State.modSpares_taken ..)
  have hz : SpareTaken s z := (hx.trans hy).trans (State.logElement_taken ..)
  have hw : SpareTaken s w := hz.trans (State.modSpares_taken ..)
  have hf : e ∉ w.spares.failed := by
    change e ∉ z.spares.failed.filter (· != e)
    simp
  split
  · exact ⟨hw, hf⟩
  · exact ⟨hw.trans (State.logElement_taken ..), by rw [State.logElement_spares]; exact hf⟩

theorem State.replaceElement_spec (s : State) (e : Element) :
    e ∉ (s.replaceElement e).spares.failed ∧ (s.replaceElement e).shards = s.shards ∧ (s.replaceElement e).fns = s.fns ∧
      (s.replaceElement e).mboxes = s.mboxes := by
  obtain ⟨h, hf⟩ := s.useSpare_spec e
  unfold State.replaceElement
  dsimp only
  generalize s.useSpare e = y at h hf
  split
  · exact ⟨hf, by rw [h], by rw [h], by rw [h]⟩
  · rw [State.arbRequest_frame]
    refine ⟨hf, ?_, ?_, ?_⟩
    · change y.shards = _; rw [h]
    · change y.fns = _; rw [h]
    · change y.mboxes = _; rw [h]

/-! ### The clauses of SET-CONFIG and GET-CONFIG -/

theorem configEntries_length (b : Bytes) : (configEntries b).length = byteAt b 0x20 := by simp [configEntries]

/-- GET-CONFIG answers eight bytes for each entry (R105). -/
theorem execGetConfig_answers {s : State} {r n : Nat} (t : Nat) (hg : Granted s r 0x0B) (h128 : r ≠ 128)
    (hn : n = byteAt (s.mbox r).copy 0x20) (h1 : 1 ≤ n) (h64 : n ≤ 64)
    (hres : firstReserved (s.mbox r).copy (configRanges n) = none)
    (hl : ∀ e ∈ configEntries (s.mbox r).copy, configListed e.2.1 = true) : exec (.getConfig r t) s =
      .next ((s.at t).reply r stOk 0
        ((configEntries (s.mbox r).copy).flatMap fun e => toLE 4 (s.configValue e.2.1) ++ zeros 4) []) := by
  have hbad : (configEntries (s.mbox r).copy).find? (fun e => !configListed e.2.1) = none :=
    List.find?_eq_none.2 fun e he => by simp [hl e he]
  change Host.Outcome.next ((s.at t).commit r 0x0B _ _ _ _) = _
  rw [bne_iff_ne.2 h128, Bool.true_or, State.commit_runs (hg.at t) rfl, State.at_mbox_]
  dsimp only
  rw [hbad, ← hn, hres, if_neg (by simp [within, h1, h64])]
  rfl

theorem configResults_length (es : List (Nat × Nat × Nat)) (f : Nat × Nat × Nat → Nat) :
    (es.flatMap fun e => toLE 4 (f e) ++ zeros 4).length = 8 * es.length := by
  rw [List.length_flatMap]
  simp [zeros, Nat.mul_comm]

theorem ConfigAsked.names {s : State} {es : List (Nat × Nat × Nat)} (h : ConfigAsked s es) (p : Nat) :
    s.configNames 0 p = es.any (·.2.1 == p) := by
  unfold State.configNames; rw [h.entries]

/-- Plain entries alone. -/
theorem execSetConfig_plain {s : State} {es : List (Nat × Nat × Nat)} (t : Nat) (ha : ConfigAsked s es)
    (hes : ∀ e ∈ es, PlainEntry s e) (hlim : es.any nodeRecorded = true → s.commitLimit = false) :
    ∃ x, Applied (s.at t) es ⟨s.at t, none, none, none⟩ x ∧ exec (.setConfig 0 t) s =
      .next ((if es.any nodeRecorded then x.st.recordNode else x.st).reply 0 stOk 0 [] []) := by
  have hap := applied_foldl (s := s.at t) (es := es) (r := ⟨s.at t, none, none, none⟩) rfl rfl (ParamSet.refl _) hes
  refine ⟨_, hap, ?_⟩
  rw [← State.configCommit_runs (ha.at t) rfl hap.bad hap.cores hap.set_.fns_eq hlim]
  change Host.Outcome.next (if _ then _ else _) = _
  rw [(ha.at t).names, (ha.at t).names, if_neg]
  simp only [Bool.or_eq_true, List.any_eq_true, beq_iff_eq, not_or, not_exists, not_and]
  exact ⟨fun e he => (hes e he).2.2.1, fun e he => (hes e he).2.2.2.1⟩

end Sys2Proof.Machine
end

-- ==== Proofs: Configuration parameters (O19) ====
section
/-! PROOFS (O19). Each clause is a commit of entries, with the rules of the last entry where that names a shard or a spare. -/

namespace Sys2Proof.Machine

open Sys2Proof

/-- An entry out of range refuses the whole request (R105). -/
theorem State.configCommit_refused {s : State} {es : List (Nat × Nat × Nat)} (ha : ConfigAsked s es) {o : Nat}
    (hb : (es.foldl (fun (x : ConfigRun) e => x.apply e) ⟨s, none, none, none⟩).bad = some o) :
    s.configCommit 0 = s.refuse 0 stInvalid o := by
  unfold State.configCommit
  rw [beq_self_eq_true, State.commit_runs ha.granted rfl]
  dsimp only
  rw [ha.entries, ha.reserved, hb, if_neg (by simp [within, ha.few])]
  rfl

theorem ConfigAsked.of {s : State} {n : Nat} {es : List (Nat × Nat × Nat)} (hg : Granted s 0 0x0C) (hn : n = byteAt (s.mbox 0).copy 0x20)
    (h1 : 1 ≤ n) (h64 : n ≤ 64) (hres : firstReserved (s.mbox 0).copy (configRanges n) = none)
    (he : configEntries (s.mbox 0).copy = es) : ConfigAsked s es :=
  ⟨hg, ⟨hn ▸ h1, hn ▸ h64⟩, hn ▸ hres, he⟩

/-- No plain entry but compression is on the node's record. -/
theorem nodeRecorded_plain {s : State} {es : List (Nat × Nat × Nat)} (hes : ∀ e ∈ es, PlainEntry s e)
    (h : ∀ e ∈ es, e.2.1 ≠ 0x10 ∧ e.2.1 ≠ 0x11) : es.any nodeRecorded = false := by
  refine List.any_eq_false.2 fun e he => ?_
  obtain ⟨-, h100, h67, -, -⟩ := hes e he
  obtain ⟨h10, h11⟩ := h e he
  simp [nodeRecorded, h100, h67, h10, h11]

theorem PlainEntry.of {s : State} {i p v : Nat} (hl : configListed p = true) (h100 : p < 0x100) (h67 : p ≠ 0x67) (h69 : p ≠ 0x69)
    (hgood : s.configGood none p v = true) : PlainEntry s (i, p, v) := ⟨hl, h100, h67, h69, hgood⟩

section One
variable {s : State} {v : Nat} (t : Nat) (ha : ConfigAsked s [(0, 0x60, v)])
include ha

theorem execSetConfig_one : exec (.setConfig 0 t) s = .next ((s.at t).configCommit 0) := by
  change Host.Outcome.next (if _ then _ else _) = _
  rw [(ha.at t).names, (ha.at t).names]
  rfl

theorem execSetConfig_flashPct (h5 : 5 ≤ v) (h40 : v ≤ 40) : exec (.setConfig 0 t) s =
    .next (({ s.at t with cfg := { s.cfg with flashPct := v } } : State).reply 0 stOk 0 [] []) := by
  have hp : PlainEntry (s.at t) (0, 0x60, v) := .of rfl (by decide) (by decide) (by decide) (by
    change within 5 40 v = true
    simp [within, h5, h40])
  have hx := ConfigRun.apply_plain (r := ⟨s.at t, none, none, none⟩) rfl rfl (ParamSet.refl _) hp
  rw [execSetConfig_one t ha, State.configCommit_runs (ha.at t) hx rfl rfl rfl fun h =>
    absurd (show false = true from h) Bool.false_ne_true]
  rfl

theorem execSetConfig_flashPct_refused (h : ¬ (5 ≤ v ∧ v ≤ 40)) :
    exec (.setConfig 0 t) s = .next ((s.at t).refuse 0 stInvalid 0x2C) := by
  have hbad : (s.at t).configGood none 0x60 v = false := by
    change within 5 40 v = false
    simpa [within] using h
  rw [execSetConfig_one t ha, State.configCommit_refused (ha.at t)]
  rw [List.foldl_cons, List.foldl_nil]
  unfold ConfigRun.apply
  dsimp only
  rw [hbad]
  rfl

end One

section Named
variable {s : State} {pre : List (Nat × Nat × Nat)} (t : Nat)

/-- The plain entries before a shard or a spare is named. -/
theorem foldl_pre (hpre : ∀ e ∈ pre, PlainEntry s e) (rest : List (Nat × Nat × Nat)) :
    ∃ x, Applied (s.at t) pre ⟨s.at t, none, none, none⟩ x ∧
      (pre ++ rest).foldl (fun (x : ConfigRun) e => x.apply e) ⟨s.at t, none, none, none⟩ =
        rest.foldl (fun (x : ConfigRun) e => x.apply e) x :=
  ⟨_, applied_foldl (s := s.at t) rfl rfl (ParamSet.refl _) hpre, List.foldl_append⟩

/-- A move that is named starts after the entries before it (R323, R562). -/
theorem execSetConfigMoveShard_starts {a b to_ shard : Nat} {d : Shard} (ha : ConfigAsked s (pre ++ [(a, 0x68, to_), (b, 0x69, shard)]))
    (hpre : ∀ e ∈ pre, PlainEntry s e) (hc : ∀ e ∈ pre, e.2.1 ≠ 0x10 ∧ e.2.1 ≠ 0x11) (hto : to_ ≤ 4095)
    (hd : s.shard? shard = some d) (hf : d.forwardTo = none) :
    ∃ y, ParamSet (s.at t) y ∧ exec (.setConfigMoveShard 0 t) s = .next ((y.startMove shard to_).reply 0 stOk 0 [] []) := by
  obtain ⟨x, hx, hfold⟩ := foldl_pre t hpre [(a, 0x68, to_), (b, 0x69, shard)]
  have hplain : PlainEntry (s.at t) (a, 0x68, to_) := .of rfl (by decide) (by decide) (by decide) (by
    change within 0 4095 to_ = true
    simpa [within] using hto)
  have hgood : x.st.configGood (some to_) 0x69 shard = true := by
    change ((some to_).isSome && x.st.shards.any fun d => d.id == shard && d.forwardTo.isNone) = true
    rw [hx.set_.shards_eq]
    exact List.any_eq_true.2 ⟨d, State.shard?_mem hd, by simp [State.shard?_id hd, hf]⟩
  have hlast : [(a, 0x68, to_), (b, 0x69, shard)].foldl (fun (x : ConfigRun) e => x.apply e) x =
      { x with st := x.st.startMove shard to_, to_ := some to_ } := by
    rw [List.foldl_cons, ConfigRun.apply_plain hx.bad hx.cores hx.set_ hplain]
    change ConfigRun.apply ⟨x.st, some to_, x.cores, x.bad⟩ (b, 0x69, shard) = _
    unfold ConfigRun.apply
    dsimp only
    rw [hx.bad, hx.cores, hgood]
    rfl
  have hno : (pre ++ [(a, 0x68, to_), (b, 0x69, shard)]).any nodeRecorded = false := by
    rw [List.any_append, nodeRecorded_plain hpre hc]
    rfl
  have hfns : (x.st.startMove shard to_).fns = s.fns := by rw [State.startMove_frame]; exact hx.set_.fns_eq
  refine ⟨x.st, hx.set_, ?_⟩
  change Host.Outcome.next (if _ then _ else _) = _
  rw [(ha.at t).names, if_pos (by simp), State.configCommit_runs (ha.at t) (hfold.trans hlast) hx.bad hx.cores hfns
    (by rw [hno]; exact fun h => absurd h Bool.false_ne_true), hno]
  rfl

/-- A spare that is named is brought in after the entries before it (R565). -/
theorem execSetConfigBringIn_replaces {a v : Nat} {e : Element} (ha : ConfigAsked s (pre ++ [(a, 0x67, v)]))
    (hpre : ∀ e ∈ pre, PlainEntry s e) (he : elementOf v = some e) (hfail : e ∈ s.spares.failed) (hleft : s.spareLeft e = true)
    (hlim : s.commitLimit = false) :
    ∃ y, ParamSet (s.at t) y ∧ exec (.setConfigBringIn 0 t) s = .next ((y.replaceElement e).recordNode.reply 0 stOk 0 [] []) := by
  obtain ⟨x, hx, hfold⟩ := foldl_pre t hpre [(a, 0x67, v)]
  have hgood : x.st.configGood x.to_ 0x67 v = true := by
    change ((elementOf v).any fun e => x.st.spares.failed.contains e && x.st.spareLeft e) = true
    rw [he, hx.set_.spares_eq, Option.any_some, hx.set_.spareLeft_eq]
    change (s.spares.failed.contains e && s.spareLeft e) = true
    simp [hfail, hleft]
  have hlast : [(a, 0x67, v)].foldl (fun (x : ConfigRun) e => x.apply e) x = { x with st := x.st.replaceElement e } := by
    have hb : x.st.bringIn v = x.st.replaceElement e := by rw [State.bringIn, he]
    rw [← hb]
    change ConfigRun.apply x (a, 0x67, v) = _
    unfold ConfigRun.apply
    dsimp only
    rw [hx.bad, hx.cores, hgood]
    rfl
  have hrec : (pre ++ [(a, 0x67, v)]).any nodeRecorded = true := by simp [nodeRecorded]
  have hfns : (x.st.replaceElement e).fns = s.fns := (x.st.replaceElement_spec e).2.2.1.trans hx.set_.fns_eq
  refine ⟨x.st, hx.set_, ?_⟩
  change Host.Outcome.next (if _ then _ else _) = _
  have h69 : (pre ++ [(a, 0x67, v)]).any (·.2.1 == 0x69) = false := by
    rw [List.any_append, List.any_eq_false.2 fun e he => by simp [(hpre e he).2.2.2.1]]
    rfl
  rw [(ha.at t).names, (ha.at t).names, h69, if_pos (by simp), State.configCommit_runs (ha.at t) (hfold.trans hlast) hx.bad hx.cores hfns
    (fun _ => hlim), hrec]
  rfl

end Named

/-- What stays of a state whose values changed, once they are recorded and the answer is given. -/
theorem State.recorded_fields (x : State) (c : Bool) :
    (if c then x.recordNode else x).shards = x.shards ∧ (if c then x.recordNode else x).lists = x.lists ∧
      (if c then x.recordNode else x).queues = x.queues ∧ (if c then x.recordNode else x).mboxes = x.mboxes ∧
      ∀ k, (if c then x.recordNode else x).configValue k = x.configValue k := by
  cases c <;> exact ⟨rfl, rfl, rfl, rfl, fun _ => rfl⟩

theorem State.configValue_congr {s x : State} (hc : x.cfg = s.cfg) {k : Nat} (hk : k ∈ configKeys) :
    x.configValue k = s.configValue k := by
  have h := x.configValue_key hk
  rw [hc, s.configValue_key hk] at h
  exact (Option.some.inj h).symm

/-- A named move answers ST_OK; its shard is as the start of the move leaves it. -/
theorem execSetConfigMoveShard_spec {s : State} {pre : List (Nat × Nat × Nat)} {a b to_ shard : Nat} {d : Shard} (t : Nat)
    (ha : ConfigAsked s (pre ++ [(a, 0x68, to_), (b, 0x69, shard)]))
    (hpre : ∀ e ∈ pre, configListed e.2.1 = true ∧ e.2.1 < 0x100 ∧ e.2.1 ≠ 0x10 ∧ e.2.1 ≠ 0x11 ∧ e.2.1 ≠ 0x67 ∧
      e.2.1 ≠ 0x69 ∧ s.configGood none e.2.1 e.2.2 = true) (hto : to_ ≤ 4095) (hd : s.shard? shard = some d)
    (hf : d.forwardTo = none) :
    ∃ y x, ParamSet (s.at t) y ∧ exec (.setConfigMoveShard 0 t) s = .next x ∧ Answered x 0 stOk 0 ∧ x.lists = s.lists ∧
      ∀ i, x.shard? i = (y.startMove shard to_).shard? i := by
  have hplain : ∀ e ∈ pre, PlainEntry s e := fun e he => by
    obtain ⟨h1, h2, -, -, h5, h6, h7⟩ := hpre e he
    exact ⟨h1, h2, h5, h6, h7⟩
  have hcomp : ∀ e ∈ pre, e.2.1 ≠ 0x10 ∧ e.2.1 ≠ 0x11 := fun e he => by
    obtain ⟨-, -, h3, h4, -⟩ := hpre e he
    exact ⟨h3, h4⟩
  obtain ⟨y, hy, hexec⟩ := execSetConfigMoveShard_starts t ha hplain hcomp hto hd hf
  have hfr := y.startMove_frame shard to_
  have hmb : (y.startMove shard to_).mboxes = s.mboxes := by rw [hfr]; exact hy.mboxes_eq
  have hli : (y.startMove shard to_).lists = s.lists := by rw [hfr]; exact hy.lists_eq
  obtain ⟨z, hz⟩ : ∃ z, z = y.startMove shard to_ := ⟨_, rfl⟩
  rw [← hz] at hexec hmb hli
  have hr : 0 < z.mboxes.length := by rw [hmb]; exact ha.granted.1
  have ho := State.reply_only hr (by decide) stOk 0 [] []
  refine ⟨y, _, hy, hexec, State.reply_answered hr (by decide) (by decide) (by decide) [] [], by rw [ho.1]; exact hli,
    fun i => ?_⟩
  rw [← hz]
  exact State.shard?_congr (by rw [ho.1]) i

/-- Settles O19: each clause by the commit of its entries. -/
theorem configurationParameters : Obligations.ConfigurationParameters := by
  refine ⟨fun s r t n hg h128 hn h1 h64 hres hl hw => ?get, fun s t n es hg hn h1 h64 hres he hes hlim => ?set,
    fun s t hg hn hres hp => ⟨fun h5 h40 => ?inRange, fun h => ?outOfRange⟩,
    fun s t n a b to_ shard d pre hg hn h1 h64 hres he hpre hto hself hd hf hm => ⟨fun hw => ?cut, fun hw hp => ?wait⟩,
    fun s t n a v e pre hg hn h1 h64 hres he hpre hel hfail hleft hlim => ?bringIn⟩
  case get =>
    exact replied_of_exec (by rw [configResults_length _ fun e => s.configValue e.2.1, configEntries_length, hn]) hg.1 h128 hw
      (execGetConfig_answers t hg h128 hn h1 h64 hres hl)
  case set =>
    have ha := ConfigAsked.of hg hn h1 h64 hres he.symm
    obtain ⟨x, hx, hexec⟩ := execSetConfig_plain t ha hes fun hrec => hlim.resolve_left fun h =>
      Bool.false_ne_true ((nodeRecorded_plain hes h).symm.trans hrec)
    obtain ⟨hsh, hli, hqu, hmb, hval⟩ := x.st.recorded_fields (es.any nodeRecorded)
    generalize (if es.any nodeRecorded = true then x.st.recordNode else x.st) = y at hexec hsh hli hqu hmb hval
    have hr : 0 < y.mboxes.length := by rw [hmb, hx.set_.mboxes_eq]; exact hg.1
    have ho := State.reply_only hr (by decide) stOk 0 [] []
    refine ⟨_, hexec, State.reply_answered hr (by decide) (by decide) (by decide) [] [], ?_, ?_, ?_, fun k hk => ?_⟩
    · rw [ho.1]; exact hsh.trans hx.set_.shards_eq
    · rw [ho.1]; exact hli.trans hx.set_.lists_eq
    · rw [ho.1]; exact hqu.trans hx.set_.queues_eq
    · rw [State.configValue_congr (s := y) (by rw [ho.1]) hk, hval, hx.values k hk]
      rfl
  case inRange =>
    have ha : ConfigAsked s [(0, 0x60, le (s.mbox 0).copy 0x2C 4)] :=
      .of hg hn.symm (by decide) (by decide) hres (by simp [configEntries, hn, hp])
    obtain ⟨z, hz⟩ : ∃ z : State, z = { s.at t with cfg := { s.cfg with flashPct := le (s.mbox 0).copy 0x2C 4 } } := ⟨_, rfl⟩
    have he := execSetConfig_flashPct t ha h5 h40
    rw [← hz] at he ⊢
    have hr : 0 < z.mboxes.length := by rw [hz]; exact hg.1
    exact ⟨_, he, State.reply_answered hr (by decide) (by decide) (by decide) [] [], State.reply_only hr (by decide) stOk 0 [] []⟩
  case outOfRange =>
    have ha : ConfigAsked s [(0, 0x60, le (s.mbox 0).copy 0x2C 4)] :=
      .of hg hn.symm (by decide) (by decide) hres (by simp [configEntries, hn, hp])
    exact ⟨_, execSetConfig_flashPct_refused t ha h, State.refuse_answered (s := s.at t) hg.1 (by decide) (by decide) (by decide)⟩
  case cut =>
    obtain ⟨y, x, hy, hx, hans, hli, hsh⟩ := execSetConfigMoveShard_spec t (.of hg hn h1 h64 hres he) hpre hto hd hf
    have hd' : y.shard? shard = some d := (State.shard?_congr hy.shards_eq shard).trans hd
    obtain ⟨hcut, hother⟩ := State.startMove_cuts hd' hm (by rw [hy.nodeId_eq]; exact hself) hw
    exact ⟨x, hx, hans, hli, (hsh shard).trans hcut, fun i hi =>
      ((hsh i).trans (hother i hi)).trans (State.shard?_congr hy.shards_eq i)⟩
  case wait =>
    obtain ⟨y, x, hy, hx, hans, hli, hsh⟩ := execSetConfigMoveShard_spec t (.of hg hn h1 h64 hres he) hpre hto hd hf
    have hd' : y.shard? shard = some d := (State.shard?_congr hy.shards_eq shard).trans hd
    have hnow : y.now = (s.at t).now := by unfold State.now; rw [hy.ao_eq]
    have hwait := State.startMove_waits hd' hm (by rw [hy.nodeId_eq]; exact hself) hw hp
    rw [hnow] at hwait
    exact ⟨x, hx, hans, hli, (hsh shard).trans hwait⟩
  case bringIn =>
    obtain ⟨y, hy, hexec⟩ := execSetConfigBringIn_replaces t (.of hg hn h1 h64 hres he) hpre hel hfail hleft hlim
    obtain ⟨hgone, hsh, -, hmb⟩ := y.replaceElement_spec e
    obtain ⟨z, hz⟩ : ∃ z, z = (y.replaceElement e).recordNode := ⟨_, rfl⟩
    rw [← hz] at hexec
    have hr : 0 < z.mboxes.length := by
      rw [hz]; change 0 < (y.replaceElement e).mboxes.length
      rw [hmb, hy.mboxes_eq]; exact hg.1
    have ho := State.reply_only hr (by decide) stOk 0 [] []
    refine ⟨_, hexec, State.reply_answered hr (by decide) (by decide) (by decide) [] [], ?_, ?_⟩
    · rw [ho.1, hz]; exact hgone
    · rw [ho.1, hz]; exact hsh.trans hy.shards_eq

end Sys2Proof.Machine
end

-- ==== Proofs: Options and firmware (O20) ====
section
/-! PROOFS (O20). WRITE-OPTIONS and FW-UPDATE start a tail at their commit; the first tail of its kind ends, and what it did is
in the always-on domain. -/

namespace Sys2Proof.Machine

open Sys2Proof

/-- The first tail of a kind is the one that ends. -/
theorem State.tailOf_first {s : State} {y : Tail} {pre post : List Tail} {r : Nat} (hs : s.tails = pre ++ y :: post)
    (hpre : ∀ z ∈ pre, z.kind ≠ y.kind) (hr : y.requester = some r) : s.tailOf y.kind = some y ∧ s.tails.erase y = pre ++ post := by
  have hnot : pre.filter (·.kind == y.kind) = [] := by simpa [List.filter_eq_nil_iff] using hpre
  refine ⟨?_, ?_⟩
  · simp [State.tailOf, hs, hnot, hr]
  · rw [hs, List.erase_append_right _ fun h => hpre y h rfl, List.erase_cons_head]

/-- The end of the first tail of its kind, whose command the PF issued (R94): it answers from `z` and the tail is gone. -/
theorem State.endTail_first {z : State} {y : Tail} {pre post : List Tail} (ht : z.tails = pre ++ y :: post)
    (hpre : ∀ x ∈ pre, x.kind ≠ y.kind) (hyr : y.requester = some 0) (hr : 0 < z.mboxes.length) {status detail : Nat}
    (hs : status < 256) (hd : detail < 65536) (results : Bytes) :
    Answered (z.endTail y.kind status detail results) 0 status detail ∧ (z.endTail y.kind status detail results).ao = z.ao ∧
      (z.endTail y.kind status detail results).tails = pre ++ post := by
  obtain ⟨hy, he⟩ := State.tailOf_first ht hpre hyr
  obtain ⟨ha, ho, -⟩ := State.endTail_spec hy hyr hr (by decide) hs hd results
  rw [he] at ho
  exact ⟨ha, by rw [ho.1], by rw [ho.1]⟩

/-! ### WRITE-OPTIONS (R106) -/

/-- A tail programs an option block (R106). -/
def TailKind.options : TailKind → Bool
  | .writeOptions _ _ => true
  | _ => false

theorem TailKind.options_eq_false {k : TailKind} (h : ∀ c b, k ≠ .writeOptions c b) : k.options = false := by
  cases k with
  | writeOptions c b => exact absurd rfl (h c b)
  | _ => rfl

section Options
variable {s : State} {data : Bytes} (t : Nat) (hg : Granted s 0 0x0D) (hz : ReservedZero s 0 [(1, 1759)])
  (hc : byteAt (s.mbox 0).copy 0x20 ≤ 1) (hdata : (s.mbox 0).input = some data) (hn : 512 ≤ le (s.mbox 0).copy 16 4)
include hg hz hc hdata hn

theorem execWriteOptions_runs : exec (.writeOptions 0 t) s = .next (if s.pwr.doldrums then (s.at t).refuse 0 stRetry 1
    else if s.tailRunning TailKind.options then (s.at t).refuse 0 stRetry 2
    else (s.at t).startTail 0 (.writeOptions (byteAt (s.mbox 0).copy 0x20 == 1) (slice data 0 512))) := by
  change Host.Outcome.next ((s.at t).commit 0 0x0D true _ _ _) = _
  rw [State.commit_runs (hg.at t) (firstBad_none (hz.at t) (by simpa using hc)), State.at_mbox_, hdata]
  dsimp only
  rw [if_neg (by omega)]
  rfl

end Options

theorem execWriteOptionsTailEnd_ends {s : State} {b : Bool} {block : Bytes} {y : Tail} (t : Nat) {pre post : List Tail}
    (hd : s.pwr.doldrums = false) (ht : s.tails = pre ++ y :: post) (hpre : ∀ z ∈ pre, z.kind.options = false)
    (hy : y.kind = .writeOptions b block) : exec (.writeOptionsTailEnd t) s =
      .next (((s.at t).modAo fun a => if b then { a with optB := block } else { a with optA := block }).endTail y.kind stOk 0 []) := by
  have hfind : (s.at t).tails.find? (fun x => x.kind.options) = some y := by
    rw [State.at_tails, ht, List.find?_append, List.find?_eq_none.2 (by simpa using hpre)]
    simp [hy, TailKind.options]
  change execWriteOptionsTailEnd t s = _
  unfold execWriteOptionsTailEnd
  dsimp only
  rw [if_neg (by simp [hd])]
  split
  next copyB block' _ h =>
    obtain rfl := Option.some.inj (hfind.symm.trans h)
    obtain ⟨rfl, rfl⟩ := TailKind.writeOptions.inj hy
    rfl
  next h =>
    obtain ⟨q, k, b⟩ := y
    subst hy
    exact absurd hfind (h _ _ _ _)

/-! ### FW-UPDATE (R107) -/

/-- The inactive slot after it is put. -/
theorem Ao.setSlot_inactive (a : Ao) (x : ImgSlot) : (a.setSlot (!a.activeB) x).inactive = x := by
  unfold Ao.setSlot Ao.inactive
  cases a.activeB <;> simp

theorem Ao.setSlot_activeB (a : Ao) (b : Bool) (x : ImgSlot) : (a.setSlot b x).activeB = a.activeB := by
  cases b <;> rfl

theorem Ao.setSlot_stage (a : Ao) (b : Bool) (x : ImgSlot) : (a.setSlot b x).stage = a.stage := by
  cases b <;> rfl

/-- The inactive slot put (R107). -/
def State.putSlot (s : State) (x : ImgSlot) : State := s.modAo fun a => a.setSlot (!a.activeB) x

section Firmware
variable {s : State} (t : Nat)

/-- The row of the action that the command names carries the command out. -/
theorem State.fwUpdate_runs (hg : Granted s 0 0x0E) (hz : ReservedZero s 0 [(1, 3), (8, 1752)]) {action : Nat}
    (ha : byteAt (s.mbox 0).copy 0x20 = action) (h4 : action < 4) (body : State → Bytes → State) :
    s.fwUpdate 0 action body = body s (s.mbox 0).copy := by
  unfold State.fwUpdate
  dsimp only
  rw [ha, decide_eq_true rfl, Bool.true_or, if_pos rfl]
  exact State.commit_runs hg (firstBad_none hz (by simpa using h4))

section Commit
variable (hg : Granted s 0 0x0E) (hz : ReservedZero s 0 [(1, 3), (8, 1752)]) (hd : s.pwr.doldrums = false)
  (hrun : s.tailRunning TailKind.firmware = false)
include hg hz

theorem execFwUpdateStatus_answers (ha : byteAt (s.mbox 0).copy 0x20 = 3) :
    exec (.fwUpdateStatus 0 t) s = .next ((s.at t).reply 0 stOk 0 (toLE 1 s.ao.inactive.st) []) := by
  change Host.Outcome.next _ = _
  rw [State.fwUpdate_runs (hg.at t) (hz.at t) ha (by decide)]
  rfl

include hrun

theorem execFwUpdateVerify_starts (ha : byteAt (s.mbox 0).copy 0x20 = 1) (hst : s.ao.inactive.st = 1) :
    exec (.fwUpdateVerify 0 t) s = .next ((s.at t).startTail 0 .fwVerify) := by
  change Host.Outcome.next _ = _
  rw [State.fwUpdate_runs (hg.at t) (hz.at t) ha (by decide), if_neg (by simp [hrun])]
  exact congrArg _ (if_neg (not_not.2 hst))

include hd

theorem execFwUpdateActivate_starts (ha : byteAt (s.mbox 0).copy 0x20 = 2) (hst : s.ao.inactive.st = 2) :
    exec (.fwUpdateActivate 0 t) s = .next ((s.at t).startTail 0 .fwActivate) := by
  change Host.Outcome.next _ = _
  rw [State.fwUpdate_runs (hg.at t) (hz.at t) ha (by decide), if_neg (by simp [hd]), if_neg (by simp [hrun])]
  exact congrArg _ (if_neg (not_not.2 hst))

theorem execFwUpdateStage_starts {n off : Nat} {data : Bytes} (ha : byteAt (s.mbox 0).copy 0x20 = 0)
    (hn : le (s.mbox 0).copy 16 4 = n) (h0 : 0 < n) (hpage : n % 4096 = 0) (hmax : n ≤ 2 ^ 20) (ho : le (s.mbox 0).copy 0x24 4 = off)
    (hopage : off % 4096 = 0) (hfit : off + n ≤ 30 * 2 ^ 20) (hdata : (s.mbox 0).input = some data) :
    exec (.fwUpdateStage 0 t) s = .next ((s.at t).startTail 0 (.fwStage off (slice data 0 n))) := by
  change Host.Outcome.next _ = _
  rw [State.fwUpdate_runs (hg.at t) (hz.at t) ha (by decide), State.at_mbox_]
  dsimp only
  rw [hn, ho, if_neg (by simp [hpage]; omega), if_neg (by simp [hopage]; omega), hdata]
  dsimp only
  rw [if_neg (by simp [hd]), if_neg (by simp [hrun])]

end Commit

section TailEnd
variable {y : Tail} {pre post : List Tail} (hd : s.pwr.doldrums = false) (ht : s.tails = pre ++ y :: post)
  (hpre : ∀ z ∈ pre, z.kind.firmware = false)

/-- The first firmware tail. -/
theorem State.firmwareTail (ht : s.tails = pre ++ y :: post) (hpre : ∀ z ∈ pre, z.kind.firmware = false)
    (hy : y.kind.firmware = true) : ((s.at t).tails.find? fun y => y.kind.firmware).map (·.kind) = some y.kind := by
  rw [State.at_tails, ht, List.find?_append, List.find?_eq_none.2 (by simpa using hpre)]
  simp [hy]

include hd ht hpre

theorem execFwUpdateTailEnd_stage {off : Nat} {data : Bytes} (hy : y.kind = .fwStage off data) : exec (.fwUpdateTailEnd t) s =
    .next (((s.at t).putSlot ⟨1, stageBytes (if off = 0 then [] else s.ao.inactive.image) off data⟩).endTail y.kind stOk 0
      (toLE 1 1)) := by
  have hk := State.firmwareTail t ht hpre (by rw [hy]; rfl)
  rw [hy] at hk ⊢
  change execFwUpdateTailEnd t s = _
  unfold execFwUpdateTailEnd
  dsimp only
  rw [if_neg (by simp [hd]), hk]
  rfl

theorem execFwUpdateTailEnd_verify (hy : y.kind = .fwVerify) : exec (.fwUpdateTailEnd t) s = .next (
    if (s.at t).ao.verifies s.ao.inactive then ((s.at t).putSlot ⟨2, s.ao.inactive.image⟩).endTail y.kind stOk 0 (toLE 1 2)
    else (s.at t).endTail y.kind stInvalid 0xFFFD []) := by
  have hk := State.firmwareTail t ht hpre (by rw [hy]; rfl)
  rw [hy] at hk ⊢
  change execFwUpdateTailEnd t s = _
  unfold execFwUpdateTailEnd
  dsimp only
  rw [if_neg (by simp [hd]), hk]
  exact (apply_ite Host.Outcome.next ..).symm

theorem execFwUpdateTailEnd_activate (hy : y.kind = .fwActivate)
    (hst : (((s.at t).putSlot ⟨3, s.ao.inactive.image⟩).endTail y.kind stOk 0 (toLE 1 3)).ao.stage ≠ .recovery) :
    exec (.fwUpdateTailEnd t) s =
      .next (((s.at t).putSlot ⟨3, s.ao.inactive.image⟩).endTail y.kind stOk 0 (toLE 1 3)) := by
  have hk := State.firmwareTail t ht hpre (by rw [hy]; rfl)
  rw [hy] at hk hst ⊢
  change execFwUpdateTailEnd t s = _
  unfold execFwUpdateTailEnd
  dsimp only
  rw [if_neg (by simp [hd]), hk]
  exact congrArg _ (if_neg fun h => hst (beq_iff_eq.1 h))

end TailEnd
end Firmware

/-- What a tail's start leaves of a state, as the clauses of FW-UPDATE name it. -/
theorem State.startTail_firmware {s : State} (hg : Granted s 0 0x0E) (k : TailKind) :
    (s.startTail 0 k).tails = s.tails ++ [⟨some 0, k, s.now⟩] ∧ ((s.startTail 0 k).mbox 0).st = .busy ∧
      (s.startTail 0 k).ao = s.ao := by
  obtain ⟨hx, hm⟩ := State.startTail_spec hg.1 k
  exact ⟨by rw [hx], by rw [hm]; exact hg.busy, by rw [hx]⟩

/-- Settles O20: each command and each tail's end by its own rule above. -/
theorem optionsAndFirmware : Obligations.OptionsAndFirmware := by
  refine ⟨fun s t data hg hz hc hdata hn => ⟨fun hd => ?doldrums, fun hd hno => ?starts⟩,
    fun s t b block y pre post hd hlen ht hpre hy hyr => ?programmed,
    fun s t n off data hg hz hd hrun => ⟨fun ha hn h0 hp hm ho hop hf hdata => ?stage, fun ha hst => ?verify, fun ha hst => ?activate,
      fun ha hw => ?status⟩,
    fun s t y pre post hd hlen ht hpre hyr => ?ends⟩
  case doldrums =>
    have he := execWriteOptions_runs t hg hz hc hdata hn
    rw [hd, if_pos rfl] at he
    exact ⟨_, he, State.refuse_answered (s := s.at t) hg.1 (by decide) (by decide) (by decide)⟩
  case starts =>
    have he := execWriteOptions_runs t hg hz hc hdata hn
    have hnone : s.tailRunning TailKind.options = false :=
      List.any_eq_false.2 fun y hy => by rw [TailKind.options_eq_false (hno y hy)]; exact Bool.false_ne_true
    rw [hd, if_neg Bool.false_ne_true, hnone, if_neg Bool.false_ne_true] at he
    obtain ⟨hx, hm⟩ := State.startTail_spec (s := s.at t) hg.1 (.writeOptions (byteAt (s.mbox 0).copy 0x20 == 1) (slice data 0 512))
    exact ⟨_, he, hx, hm⟩
  case programmed =>
    have he := execWriteOptionsTailEnd_ends t hd ht (fun z hz => TailKind.options_eq_false (hpre z hz)) hy
    obtain ⟨ha, hao, htl⟩ := State.endTail_first
      (z := (s.at t).modAo fun a => if b then { a with optB := block } else { a with optA := block }) ht
      (fun x hx => by rw [hy]; exact hpre x hx _ _) hyr hlen (status := stOk) (detail := 0) (by decide) (by decide) []
    refine ⟨_, he, ha, htl, ?_⟩
    rw [hao]
    cases b <;> exact ⟨rfl, rfl, rfl⟩
  case stage =>
    have he := execFwUpdateStage_starts t hg hz hd hrun ha hn h0 hp hm ho hop hf hdata
    obtain ⟨h1, h2, h3⟩ := State.startTail_firmware (hg.at t) (.fwStage off (slice data 0 n))
    exact ⟨_, he, h1, h2, by rw [h3]; rfl, by rw [h3]; rfl⟩
  case verify =>
    obtain ⟨h1, h2, -⟩ := State.startTail_firmware (hg.at t) .fwVerify
    exact ⟨_, execFwUpdateVerify_starts t hg hz hrun ha hst, h1, h2⟩
  case activate =>
    obtain ⟨h1, h2, -⟩ := State.startTail_firmware (hg.at t) .fwActivate
    exact ⟨_, execFwUpdateActivate_starts t hg hz hd hrun ha hst, h1, h2⟩
  case status =>
    exact replied_of_exec (by simp) hg.1 (by decide) hw (execFwUpdateStatus_answers t hg hz ha)
  case ends =>
    have hne (hk : y.kind.firmware = true) : ∀ x ∈ pre, x.kind ≠ y.kind := fun x hx h => by
      rw [← h, hpre x hx] at hk; exact Bool.false_ne_true hk
    have hput (k : y.kind.firmware = true) (img : ImgSlot) (res : Bytes) :=
      State.endTail_first (z := (s.at t).putSlot img) ht (hne k) hyr hlen (status := stOk) (detail := 0) (by decide) (by decide) res
    refine ⟨fun off data hy => ?_, fun hy hv => ?_, fun hy hv => ?_, fun hy hst => ?_⟩
    · obtain ⟨ha, hao, htl⟩ := hput (by rw [hy]; rfl)
        ⟨1, stageBytes (if off = 0 then [] else s.ao.inactive.image) off data⟩ (toLE 1 1)
      refine ⟨_, execFwUpdateTailEnd_stage t hd ht hpre hy, ha, ?_, htl, ?_⟩
      · rw [hao]; exact Ao.setSlot_inactive _ _
      · rw [hao]; exact Ao.setSlot_activeB _ _ _
    · obtain ⟨ha, hao, -⟩ := hput (by rw [hy]; rfl) ⟨2, s.ao.inactive.image⟩ (toLE 1 2)
      have he := execFwUpdateTailEnd_verify t hd ht hpre hy
      rw [hv, if_pos rfl] at he
      exact ⟨_, he, ha, by rw [hao]; exact Ao.setSlot_inactive _ _⟩
    · have he := execFwUpdateTailEnd_verify t hd ht hpre hy
      rw [hv, if_neg Bool.false_ne_true] at he
      obtain ⟨ha, hao, -⟩ := State.endTail_first (z := s.at t) ht (hne (by rw [hy]; rfl)) hyr hlen
        (status := stInvalid) (detail := 0xFFFD) (by decide) (by decide) []
      exact ⟨_, he, ha, by rw [hao]; rfl⟩
    · obtain ⟨ha, hao, htl⟩ := hput (by rw [hy]; rfl) ⟨3, s.ao.inactive.image⟩ (toLE 1 3)
      have hstage : (((s.at t).putSlot ⟨3, s.ao.inactive.image⟩).ao).stage = s.ao.stage :=
        Ao.setSlot_stage _ _ _
      refine ⟨_, execFwUpdateTailEnd_activate t hd ht hpre hy (by rw [hao, hstage]; exact hst), ha, ?_, htl⟩
      rw [hao]; exact Ao.setSlot_inactive _ _

end Sys2Proof.Machine
end

-- ==== Proofs: The sideband (O60) ====
section
/-! PROOFS (O60). Each transfer that reaches the endpoint has one answer; a request of requester 128 goes to the mailbox
arbiter. -/

namespace Sys2Proof.Machine

open Sys2Proof

/-! ### Dynamic addresses (R590, R601) -/

section Address
variable {s : State} (hup : s.targetUp = true)
include hup

theorem execEntdaa_takes (h : s.pins.i3cAddr = none) (addr : Nat) :
    exec (.entdaa addr) s = .next { s with pins := { s.pins with i3cAddr := some addr } } := by
  change Host.Outcome.next (if s.targetUp && s.pins.i3cAddr.isNone then _ else s) = _
  rw [hup, h]; rfl

theorem execSetdasa_takes (h : s.pins.i3cAddr = none) (addr : Nat) : exec (.setdasa (0x30 + s.pins.slotId % 16) addr) s =
    .next { s with pins := { s.pins with i3cAddr := some addr } } := by
  change Host.Outcome.next (if s.targetUp && s.pins.i3cAddr.isNone && _ then _ else s) = _
  rw [hup, h, beq_self_eq_true]; rfl

end Address

theorem execSetdasa_otherAddress {s : State} {a : Nat} (h : a ≠ 0x30 + s.pins.slotId % 16) (addr : Nat) :
    exec (.setdasa a addr) s = .next s := by
  change Host.Outcome.next (if s.targetUp && s.pins.i3cAddr.isNone && (a == _) then _ else s) = _
  rw [beq_false_of_ne h, Bool.and_false, if_neg Bool.false_ne_true]

/-- A target with its dynamic address takes no other. -/
theorem execAddress_taken {s : State} (h : s.pins.i3cAddr ≠ none) (addr : Nat) :
    exec (.entdaa addr) s = .next s ∧ ∀ a, exec (.setdasa a addr) s = .next s := by
  have hn : s.pins.i3cAddr.isNone = false := by simpa [Option.isSome_iff_ne_none] using h
  refine ⟨?_, fun a => ?_⟩
  · change Host.Outcome.next (if s.targetUp && s.pins.i3cAddr.isNone then _ else s) = _
    rw [hn, Bool.and_false, if_neg Bool.false_ne_true]
  · change Host.Outcome.next (if s.targetUp && s.pins.i3cAddr.isNone && _ then _ else s) = _
    rw [hn, Bool.and_false, Bool.false_and, if_neg Bool.false_ne_true]

/-! ### The endpoint's answers (R602, R604) -/

/-- An endpoint that transfers reach answers, and one that they do not reach stays silent. -/
theorem State.answerMctp_up {s : State} (h : s.endpointUp = true) (data : List Nat) :
    s.answerMctp data = { s with out := s.out ++ [.mctp data] } := by
  rw [State.answerMctp, if_pos h]; rfl

theorem State.answerMctp_down {s : State} (h : s.endpointUp = false) (data : List Nat) : s.answerMctp data = s := by
  rw [State.answerMctp, h, if_neg Bool.false_ne_true]

section Up
variable {s : State} (hup : s.endpointUp = true)
include hup

theorem execSetEndpointId_accepted {eid : Nat} (h8 : 8 ≤ eid) (h254 : eid ≤ 254) : exec (.setEndpointId eid) s =
    .next { s with pins := { s.pins with eid := eid }, out := s.out ++ [.mctp [0, 0, eid, 0]] } := by
  change Host.Outcome.next _ = _
  rw [if_neg (by simp [hup]), if_neg (by simp; omega)]
  exact congrArg _ (State.answerMctp_up (s := s.modPins fun p => { p with eid := eid }) hup _)

theorem execSetEndpointId_reserved {eid : Nat} (h : eid < 8 ∨ 254 < eid) :
    exec (.setEndpointId eid) s = .next { s with out := s.out ++ [.mctp [2]] } := by
  change Host.Outcome.next _ = _
  rw [if_neg (by simp [hup]), if_pos (by simpa using h), State.answerMctp_up hup]

theorem execPldmSensorRead_known {n v : Nat} (h : s.sensorReading n = some v) :
    exec (.pldmSensorRead (some n)) s = .next { s with out := s.out ++ [.mctp [0, v]] } := by
  change (match s.sensorReading n with | some v => _ | none => _) = _
  rw [h, ← State.answerMctp_up hup]

theorem execPoll_empty (h : s.pins.platform = []) :
    exec .pollForPlatformEventMessage s = .next { s with out := s.out ++ [.mctp [0, 0]] } := by
  change execPollForPlatformEventMessage s = _
  unfold execPollForPlatformEventMessage
  rw [if_neg (by simp [hup]), h, ← State.answerMctp_up hup]

theorem execPoll_collects {e : Nat × Nat} {l : List (Nat × Nat)} (h : s.pins.platform = e :: l) : exec .pollForPlatformEventMessage s =
    .next { s with pins := { s.pins with platform := l }, out := s.out ++ [.mctp [0, 1, e.1, e.2]] } := by
  change execPollForPlatformEventMessage s = _
  unfold execPollForPlatformEventMessage
  rw [if_neg (by simp [hup]), h]
  exact congrArg _ (State.answerMctp_up (s := s.modPins fun p => { p with platform := l }) hup _)

end Up

theorem execEndpoint_down {s : State} (h : s.endpointUp = false) (eid : Nat) (sensor : Option Nat) :
    exec (.setEndpointId eid) s = .next s ∧ exec .getEndpointId s = .next s ∧
    exec .getEndpointUuid s = .next s ∧ exec .getMessageTypeSupport s = .next s ∧ exec (.pldmSensorRead sensor) s = .next s ∧
    exec .pollForPlatformEventMessage s = .next s := by
  have hsilent (data : List Nat) : Host.Outcome.next (s.answerMctp data) = (.next s : Result) := by rw [State.answerMctp_down h]
  refine ⟨?_, hsilent _, hsilent _, hsilent _, ?_, ?_⟩
  · change Host.Outcome.next _ = _
    rw [if_pos (by simp [h])]
  · change execPldmSensorRead sensor s = _
    unfold execPldmSensorRead
    cases sensor with
    | none => exact hsilent _
    | some n =>
      dsimp only
      cases s.sensorReading n <;> exact hsilent _
  · change execPollForPlatformEventMessage s = _
    rw [execPollForPlatformEventMessage, if_pos (by simp [h])]

/-! ### Requests of requester 128 (R83, R92, R603) -/

section Zizon
variable {s : State} (request input : Bytes) (t : Nat)

/-- The stages that serve requests are those in which the node's registers are alive. -/
theorem State.at_served :
    ((s.at t).ao.stage == .serving || (s.at t).ao.stage == .waitBme || (s.at t).ao.stage == .recovery) = s.alive := by
  rw [Bool.or_comm ((s.at t).ao.stage == .serving)]; rfl

/-- The command of requester 128 that a request posts. -/
def postedSideband (request input : Bytes) (now : Nat) : Mbox :=
  { st := .posted, copy := slice request 0 1792, input := some input, postedAt := now }

theorem execSidebandZizonRequest_posts (hup : s.endpointUp = true) (ha : s.alive = true) (hst : (s.mbox 128).st = .idle) :
    exec (.sidebandZizonRequest request input t) s = .next (((s.at t).modMbox 128 fun _ =>
      postedSideband request input (s.at t).now).arbRequest 0xA0 128 false false (.mailbox 128)) := by
  have hserved : ((s.at t).ao.stage == .serving || (s.at t).ao.stage == .waitBme || (s.at t).ao.stage == .recovery) = true := by
    rw [State.at_served, ha]
  change execSidebandZizonRequest request input t s = _
  unfold execSidebandZizonRequest
  dsimp only
  rw [hserved, if_neg (by simp [show (s.at t).endpointUp = true from hup]), if_neg (by simp [hst])]
  rfl

theorem execSidebandZizonRequest_busy (hup : s.endpointUp = true) (ha : s.alive = true) (hst : (s.mbox 128).st ≠ .idle) :
    exec (.sidebandZizonRequest request input t) s =
      .next { s.at t with out := s.out ++ [.sideband (responseBytes (le request 0 2) stRetry 2 0 [] 0) []] } := by
  have hserved : ((s.at t).ao.stage == .serving || (s.at t).ao.stage == .waitBme || (s.at t).ao.stage == .recovery) = true := by
    rw [State.at_served, ha]
  change execSidebandZizonRequest request input t s = _
  unfold execSidebandZizonRequest
  dsimp only
  rw [hserved, if_neg (by simp [show (s.at t).endpointUp = true from hup]), if_pos (by simp [hst])]
  rfl

theorem execSidebandZizonRequest_unserved (h : s.endpointUp = false ∨ s.alive = false) :
    exec (.sidebandZizonRequest request input t) s = .next (s.at t) := by
  have hout : (!(s.at t).endpointUp || !((s.at t).ao.stage == .serving || (s.at t).ao.stage == .waitBme ||
      (s.at t).ao.stage == .recovery)) = true := by
    rw [State.at_served, show (s.at t).endpointUp = s.endpointUp from rfl]
    simpa using h
  change execSidebandZizonRequest request input t s = _
  unfold execSidebandZizonRequest
  dsimp only
  rw [if_pos hout]

end Zizon

/-- Settles O60: each command by the rule above that its clause names. -/
theorem sideband : Obligations.Sideband := by
  refine ⟨fun s addr hup => ⟨fun h => ⟨execEntdaa_takes hup h addr, execSetdasa_takes hup h addr, fun a ha =>
      execSetdasa_otherAddress ha addr⟩, fun h => execAddress_taken h addr⟩, fun s hup => ?answers,
    fun s h eid sensor => execEndpoint_down h eid sensor,
    fun s request input t => ⟨fun hup ha => ⟨fun hst hlen => ?posted, fun hst =>
        execSidebandZizonRequest_busy request input t hup ha hst⟩,
      fun h => execSidebandZizonRequest_unserved request input t h⟩⟩
  case answers =>
    have hsays (data : List Nat) : Host.Outcome.next (s.answerMctp data) = (.next { s with out := s.out ++ [.mctp data] } : Result) := by
      rw [State.answerMctp_up hup]
    refine ⟨fun eid h1 h2 => execSetEndpointId_accepted hup h1 h2, fun eid h => execSetEndpointId_reserved hup h, hsays _,
      ⟨_, ?_, hsays _⟩, ⟨Config.freeNat s.free % 2 ^ 32, ?_⟩, hsays _, fun n v h => execPldmSensorRead_known hup h,
      execPldmSensorRead_known hup rfl, execPldmSensorRead_known hup rfl, execPldmSensorRead_known hup rfl, hsays _,
      ⟨fruData, hsays _, ?_⟩, execPoll_empty hup, fun e l h => execPoll_collects hup h⟩
    · simp
    · exact congrArg _ (State.answerMctp_up (s := s.takeFree.2) hup _)
    · have hl : ((slice Config.serial 0 16).map (·.toNat)).length = 16 := by simp
      rw [fruData, List.append_assoc, List.drop_left' hl]
      rfl
  case posted =>
    refine ⟨_, execSidebandZizonRequest_posts request input t hup ha hst, ?_, State.arbRequest_waits .., fun m hm => ?_, ?_⟩
    · rw [State.arbRequest_mbox, State.modMbox_mbox_same (s := s.at t) hlen]; rfl
    · rw [State.arbRequest_mbox, State.modMbox_mbox_ne hm]; rfl
    · rw [State.arbRequest_frame]; rfl

end Sys2Proof.Machine
end
